-- ==== Sys2Proof/Word.lean ====
section
/-!
DEFINITION. The word types of the Z960 and keyed tables of plain data. Words are 64 bits (R42), bytes 8, instruction
words 32 (R36), lines 64 bytes (R2).
-/

namespace Sys2Proof

/-- A scalar register or lane value (R42, R108). -/
abbrev Word := BitVec 64

/-- A byte of memory. -/
abbrev Byte := BitVec 8

/-- A line of 64 bytes, byte 0 in the lowest bits (R2; memory is little-endian). -/
abbrev Line := BitVec 512

/-- Keyed plain data: keys strictly rising. A key that is not listed stands for the table's default. -/
abbrev Tbl (α : Type) := List (Nat × α)

end Sys2Proof
end

