-- ==== Sys2Proof/Syntax.lean ====
section
/-!
DEFINITION. The instructions and events of the Zhelux Z960: one constructor per row of the opcode table. Instruction
words carry the fields of their encodings (R37, R48-R62) as bit vectors named as the manual names them: `mp` and `msk`
are the mask fields of R43. A row that names a step of some other agent of the device (a landing controller, a copy
engine, the Foyer, the host) is a constructor too; its arguments say which unit moves, and what an input from outside
carries. Strand numbers are 4 x coordinate + slot (R4, R79); cores, clusters and dies are named by the upper bits of
the same number.
-/

namespace Sys2Proof

/-- The instruction words (R36-R62) and the indivisible steps of the device's other agents. -/
inductive Instr where
  /-- R40: Fetching the all-zeros or all-ones word traps precisely with cause GUARD. -/
  | guard (w : BitVec 32)
  /-- R39: A word with a reserved major, an unassigned selector, a nonzero required-zero field or a broken operand restriction traps with cause ILLEGAL. -/
  | illegalInstruction (w : BitVec 32)
  /-- R203: An array-side scalar result arrives and its pending destination register is written. -/
  | resultQueueReturn (id : Nat)
  /-- R99: After END's wait, the completion word is written, the join counter decremented and the slot freed. -/
  | endDrain (id : Nat)
  /-- R231: The save slot is written, links broken, bays freed and a resume record placed in the save list. -/
  | contextSaveComplete (id : Nat)
  /-- R79: A parked instruction's condition holds on retest and it completes. -/
  | parkWake (id : Nat)
  /-- R82: Writes sB + sC modulo 2^64 to sA. -/
  | add (a : BitVec 5) (b : BitVec 5) (c : BitVec 5)
  /-- R82: Writes sB - sC modulo 2^64 to sA. -/
  | sub (a : BitVec 5) (b : BitVec 5) (c : BitVec 5)
  /-- R82: Writes the bitwise AND of sB and sC to sA. -/
  | and (a : BitVec 5) (b : BitVec 5) (c : BitVec 5)
  /-- R82: Writes the bitwise OR of sB and sC to sA. -/
  | or (a : BitVec 5) (b : BitVec 5) (c : BitVec 5)
  /-- R82: Writes the bitwise XOR of sB and sC to sA. -/
  | xor (a : BitVec 5) (b : BitVec 5) (c : BitVec 5)
  /-- R82: Shifts sB left by sC[5:0] into sA. -/
  | sll (a : BitVec 5) (b : BitVec 5) (c : BitVec 5)
  /-- R82: Shifts sB logically right by sC[5:0] into sA. -/
  | srl (a : BitVec 5) (b : BitVec 5) (c : BitVec 5)
  /-- R82: Shifts sB arithmetically right by sC[5:0] into sA. -/
  | sra (a : BitVec 5) (b : BitVec 5) (c : BitVec 5)
  /-- R82: Writes 1 to sA if sB < sC signed, else 0. -/
  | slt (a : BitVec 5) (b : BitVec 5) (c : BitVec 5)
  /-- R82: Writes 1 to sA if sB < sC unsigned, else 0. -/
  | sltu (a : BitVec 5) (b : BitVec 5) (c : BitVec 5)
  /-- R82: Writes the signed minimum of sB and sC to sA. -/
  | min (a : BitVec 5) (b : BitVec 5) (c : BitVec 5)
  /-- R82: Writes the signed maximum of sB and sC to sA. -/
  | max (a : BitVec 5) (b : BitVec 5) (c : BitVec 5)
  /-- R82: Writes the unsigned minimum of sB and sC to sA. -/
  | minu (a : BitVec 5) (b : BitVec 5) (c : BitVec 5)
  /-- R82: Writes the unsigned maximum of sB and sC to sA. -/
  | maxu (a : BitVec 5) (b : BitVec 5) (c : BitVec 5)
  /-- R82: Writes the low 64 bits of sB x sC to sA. -/
  | mul (a : BitVec 5) (b : BitVec 5) (c : BitVec 5)
  /-- R82: Writes the high 64 bits of the signed 128-bit product to sA. -/
  | mulh (a : BitVec 5) (b : BitVec 5) (c : BitVec 5)
  /-- R82: Writes the high 64 bits of the unsigned 128-bit product to sA. -/
  | mulhu (a : BitVec 5) (b : BitVec 5) (c : BitVec 5)
  /-- R83: Signed division toward zero with saturating results for unrepresentable quotients. -/
  | div (a : BitVec 5) (b : BitVec 5) (c : BitVec 5)
  /-- R83: Unsigned division; division by zero gives all ones or zero. -/
  | divu (a : BitVec 5) (b : BitVec 5) (c : BitVec 5)
  /-- R83: Signed remainder with the sign of the dividend; 0 in saturating cases. -/
  | rem (a : BitVec 5) (b : BitVec 5) (c : BitVec 5)
  /-- R83: Unsigned remainder; 0 on division by zero. -/
  | remu (a : BitVec 5) (b : BitVec 5) (c : BitVec 5)
  /-- R82: Writes the count of leading zero bits of sB to sA. -/
  | clz (a : BitVec 5) (b : BitVec 5)
  /-- R82: Writes the count of trailing zero bits of sB to sA. -/
  | ctz (a : BitVec 5) (b : BitVec 5)
  /-- R82: Writes the number of one bits of sB to sA. -/
  | popc (a : BitVec 5) (b : BitVec 5)
  /-- R82: Sign-extends sB[31:0] into sA. -/
  | sextw (a : BitVec 5) (b : BitVec 5)
  /-- R82: Zero-extends sB[31:0] into sA. -/
  | zextw (a : BitVec 5) (b : BitVec 5)
  /-- R48: Writes sB + (sC << k) to sA for k 0 to 3. -/
  | addsc (a : BitVec 5) (b : BitVec 5) (c : BitVec 5) (k : BitVec 2)
  /-- R82: Writes sB plus the sign-extended 16-bit immediate to sA. -/
  | addi (a : BitVec 5) (b : BitVec 5) (i : BitVec 16)
  /-- R82: ANDs sB with the zero-extended immediate into sA. -/
  | andi (a : BitVec 5) (b : BitVec 5) (i : BitVec 16)
  /-- R82: ORs sB with the zero-extended immediate into sA. -/
  | ori (a : BitVec 5) (b : BitVec 5) (i : BitVec 16)
  /-- R82: XORs sB with the zero-extended immediate into sA. -/
  | xori (a : BitVec 5) (b : BitVec 5) (i : BitVec 16)
  /-- R49: Writes 1 if sB is below the signed 11-bit immediate, signed. -/
  | slti (a : BitVec 5) (b : BitVec 5) (k : BitVec 11)
  /-- R49: Writes 1 if sB is below the sign-extended immediate, unsigned. -/
  | sltiu (a : BitVec 5) (b : BitVec 5) (k : BitVec 11)
  /-- R49: Shifts sB left by an immediate amount. -/
  | slli (a : BitVec 5) (b : BitVec 5) (k : BitVec 6)
  /-- R49: Shifts sB logically right by an immediate amount. -/
  | srli (a : BitVec 5) (b : BitVec 5) (k : BitVec 6)
  /-- R49: Shifts sB arithmetically right by an immediate amount. -/
  | srai (a : BitVec 5) (b : BitVec 5) (k : BitVec 6)
  /-- R49: Replaces halfword h of sA with the immediate, keeping the other bits. -/
  | lih (a : BitVec 5) (h : BitVec 2) (i : BitVec 16)
  /-- R49: Writes the immediate shifted to halfword h into sA, zeroing the rest. -/
  | lihZ (a : BitVec 5) (h : BitVec 2) (i : BitVec 16)
  /-- R84: Extracts a zero-extended bit field of sB into sA. -/
  | bext (a : BitVec 5) (b : BitVec 5) (p : BitVec 6) (l : BitVec 6)
  /-- R84: Inserts the low bits of sB into a bit field of sA. -/
  | bins (a : BitVec 5) (b : BitVec 5) (p : BitVec 6) (l : BitVec 6)
  /-- R85: Loads a sign-extended byte. -/
  | ldb (a : BitVec 5) (b : BitVec 5) (i : BitVec 13)
  /-- R85: Loads a sign-extended halfword. -/
  | ldh (a : BitVec 5) (b : BitVec 5) (i : BitVec 13)
  /-- R85: Loads a sign-extended word. -/
  | ldw (a : BitVec 5) (b : BitVec 5) (i : BitVec 13)
  /-- R85: Loads a doubleword. -/
  | ldd (a : BitVec 5) (b : BitVec 5) (i : BitVec 13)
  /-- R85: Loads a zero-extended byte. -/
  | ldbu (a : BitVec 5) (b : BitVec 5) (i : BitVec 13)
  /-- R85: Loads a zero-extended halfword. -/
  | ldhu (a : BitVec 5) (b : BitVec 5) (i : BitVec 13)
  /-- R85: Loads a zero-extended word. -/
  | ldwu (a : BitVec 5) (b : BitVec 5) (i : BitVec 13)
  /-- R87: Hints that the line at the address be brought towards L1; never traps. -/
  | pref (h : BitVec 1) (b : BitVec 5) (i : BitVec 13)
  /-- R85: Stores the low byte of sA. -/
  | stb (a : BitVec 5) (b : BitVec 5) (i : BitVec 13)
  /-- R85: Stores the low halfword of sA. -/
  | sth (a : BitVec 5) (b : BitVec 5) (i : BitVec 13)
  /-- R85: Stores the low word of sA. -/
  | stw (a : BitVec 5) (b : BitVec 5) (i : BitVec 13)
  /-- R85: Stores the doubleword sA. -/
  | std (a : BitVec 5) (b : BitVec 5) (i : BitVec 13)
  /-- R88: Loads 8 bytes from the core's TCM shared or private area. -/
  | ldt (a : BitVec 5) (b : BitVec 5) (i : BitVec 13)
  /-- R88: Stores 8 bytes to the core's TCM shared or private area. -/
  | stt (a : BitVec 5) (b : BitVec 5) (i : BitVec 13)
  /-- R90: Floating-point add in FP32 or FP64, rounded RNE. -/
  | fadd (a : BitVec 5) (b : BitVec 5) (c : BitVec 5) (d : BitVec 1)
  /-- R90: Floating-point subtract. -/
  | fsub (a : BitVec 5) (b : BitVec 5) (c : BitVec 5) (d : BitVec 1)
  /-- R90: Floating-point multiply. -/
  | fmul (a : BitVec 5) (b : BitVec 5) (c : BitVec 5) (d : BitVec 1)
  /-- R90: Floating-point divide with DZ on division by zero. -/
  | fdiv (a : BitVec 5) (b : BitVec 5) (c : BitVec 5) (d : BitVec 1)
  /-- R90: Floating-point square root. -/
  | fsqrt (a : BitVec 5) (b : BitVec 5) (d : BitVec 1)
  /-- R90: Fused multiply-add sA := sB x sC + sA, rounded once. -/
  | fma (a : BitVec 5) (b : BitVec 5) (c : BitVec 5) (d : BitVec 1)
  /-- R91: Floating-point minimum with NaN and signed-zero rules. -/
  | fmin (a : BitVec 5) (b : BitVec 5) (c : BitVec 5) (d : BitVec 1)
  /-- R91: Floating-point maximum with NaN and signed-zero rules. -/
  | fmax (a : BitVec 5) (b : BitVec 5) (c : BitVec 5) (d : BitVec 1)
  /-- R91: Writes 1 if the operands compare equal. -/
  | feq (a : BitVec 5) (b : BitVec 5) (c : BitVec 5) (d : BitVec 1)
  /-- R91: Writes 1 if sB is less than sC. -/
  | flt (a : BitVec 5) (b : BitVec 5) (c : BitVec 5) (d : BitVec 1)
  /-- R91: Writes 1 if sB is less than or equal to sC. -/
  | fle (a : BitVec 5) (b : BitVec 5) (c : BitVec 5) (d : BitVec 1)
  /-- R91: Writes the 5-bit class word of sB. -/
  | fclass (a : BitVec 5) (b : BitVec 5) (d : BitVec 1)
  /-- R92: Converts FP32 to FP64 exactly. -/
  | fcvtDS (a : BitVec 5) (b : BitVec 5)
  /-- R92: Converts FP64 to FP32 with rounding. -/
  | fcvtSD (a : BitVec 5) (b : BitVec 5)
  /-- R92: Converts i64 to FP32. -/
  | fcvtSL (a : BitVec 5) (b : BitVec 5)
  /-- R92: Converts i64 to FP64. -/
  | fcvtDL (a : BitVec 5) (b : BitVec 5)
  /-- R92: Converts FP32 to i64 with saturation. -/
  | fcvtLS (a : BitVec 5) (b : BitVec 5)
  /-- R92: Converts FP64 to i64 with saturation. -/
  | fcvtLD (a : BitVec 5) (b : BitVec 5)
  /-- R92: Converts n64 to FP32. -/
  | fcvtSLu (a : BitVec 5) (b : BitVec 5)
  /-- R92: Converts n64 to FP64. -/
  | fcvtDLu (a : BitVec 5) (b : BitVec 5)
  /-- R92: Converts FP32 to n64 with saturation. -/
  | fcvtLuS (a : BitVec 5) (b : BitVec 5)
  /-- R92: Converts FP64 to n64 with saturation. -/
  | fcvtLuD (a : BitVec 5) (b : BitVec 5)
  /-- R93: Branches if sA equals sB. -/
  | beq (a : BitVec 5) (b : BitVec 5) (o : BitVec 16)
  /-- R93: Branches if sA differs from sB. -/
  | bne (a : BitVec 5) (b : BitVec 5) (o : BitVec 16)
  /-- R93: Branches if sA < sB signed. -/
  | blt (a : BitVec 5) (b : BitVec 5) (o : BitVec 16)
  /-- R93: Branches if sA >= sB signed. -/
  | bge (a : BitVec 5) (b : BitVec 5) (o : BitVec 16)
  /-- R93: Branches if sA < sB unsigned. -/
  | bltu (a : BitVec 5) (b : BitVec 5) (o : BitVec 16)
  /-- R93: Branches if sA >= sB unsigned. -/
  | bgeu (a : BitVec 5) (b : BitVec 5) (o : BitVec 16)
  /-- R94: Branches on one bit of an engine's status snapshot, acquiring at core scope when DONE is seen. -/
  | beng (e : BitVec 5) (s : BitVec 1) (b : BitVec 4) (o : BitVec 16)
  /-- R93: Writes PC + 4 to s31 and jumps PC-relative. -/
  | jal (o : BitVec 26)
  /-- R93: Writes PC + 4 to sA and jumps to sB plus an immediate. -/
  | jalr (a : BitVec 5) (b : BitVec 5) (i : BitVec 16)
  /-- R95: Traps with cause SVC and EPC at the next instruction. -/
  | svc (k : BitVec 11)
  /-- R95: Traps with cause BRK and EPC at the BRK itself. -/
  | brk (k : BitVec 11)
  /-- R96: Reads a control register into sA, waiting for array-side registers as R46 requires. -/
  | getc (a : BitVec 5) (k : BitVec 11)
  /-- R96: Writes a control register that has no behaviour of its own, under the RO, RSV and W1C rules. -/
  | setc (b : BitVec 5) (k : BitVec 11)
  /-- R79: A supervisor write of STATUS; clearing or setting NEST moves the slot between HANDLER and RUN at S. -/
  | setcStatus (b : BitVec 5)
  /-- R34: Writes SFLAGS after the VIQ and Mezzanine work of the strand have completed. -/
  | setcSflags (b : BitVec 5)
  /-- R108: Writes VCFG after the VIQ drains, swapping registers to or from the Vault on a slot-class change and recomputing VLMAX and VL. -/
  | setcVcfg (b : BitVec 5)
  /-- R184: Writes MXCFG after the VIQ drains, claiming the Mezzanine if it is unowned. -/
  | setcMxcfg (b : BitVec 5)
  /-- R227: Supervisor write of VRESUME; writing 1 to HELD discards the held VIQ entries and LANE sets the restart element. -/
  | setcVresume (b : BitVec 5)
  /-- R255: Writes CHAINSRC, arming or disarming the chain source with checks on the producer core. -/
  | setcChainsrc (b : BitVec 5)
  /-- R297: Writes a region's RRATE, validating the carrier area on setting V and, on clearing V, waiting until every dirty line of the region has had its codec write. -/
  | setcRrate (b : BitVec 5) (n : BitVec 6)
  /-- R128: Requests k bays, waiting in core order until they are free. -/
  | vacq (k : BitVec 3)
  /-- R210: Orders earlier reads of the wait set before later accesses of the hold set at the scope. -/
  | sbarAcquire (w : BitVec 5) (h : BitVec 5) (s : BitVec 3)
  /-- R210: Orders earlier accesses of the wait set before later writes of the hold set at the scope. -/
  | sbarRelease (w : BitVec 5) (h : BitVec 5) (s : BitVec 3)
  /-- R210: Orders earlier accesses of the wait set before later accesses of the hold set at the scope. -/
  | sbarFull (w : BitVec 5) (h : BitVec 5) (s : BitVec 3)
  /-- R217: Loads a word and places the strand's scalar link on its line. -/
  | ldl (a : BitVec 5) (b : BitVec 5) (q : BitVec 1) (z : BitVec 1)
  /-- R217: Stores conditionally on an unbroken scalar link and writes success to sA. -/
  | stc (a : BitVec 5) (b : BitVec 5) (c : BitVec 5) (r : BitVec 1) (z : BitVec 1)
  /-- R217: Atomic add at the home, returning the old value. -/
  | amoAdd (a : BitVec 5) (b : BitVec 5) (c : BitVec 5) (q : BitVec 2) (z : BitVec 1)
  /-- R217: Atomic signed minimum. -/
  | amoMin (a : BitVec 5) (b : BitVec 5) (c : BitVec 5) (q : BitVec 2) (z : BitVec 1)
  /-- R217: Atomic signed maximum. -/
  | amoMax (a : BitVec 5) (b : BitVec 5) (c : BitVec 5) (q : BitVec 2) (z : BitVec 1)
  /-- R217: Atomic unsigned minimum. -/
  | amoMinu (a : BitVec 5) (b : BitVec 5) (c : BitVec 5) (q : BitVec 2) (z : BitVec 1)
  /-- R217: Atomic unsigned maximum. -/
  | amoMaxu (a : BitVec 5) (b : BitVec 5) (c : BitVec 5) (q : BitVec 2) (z : BitVec 1)
  /-- R217: Atomic bitwise AND. -/
  | amoAnd (a : BitVec 5) (b : BitVec 5) (c : BitVec 5) (q : BitVec 2) (z : BitVec 1)
  /-- R217: Atomic bitwise OR. -/
  | amoOr (a : BitVec 5) (b : BitVec 5) (c : BitVec 5) (q : BitVec 2) (z : BitVec 1)
  /-- R217: Atomic bitwise XOR. -/
  | amoXor (a : BitVec 5) (b : BitVec 5) (c : BitVec 5) (q : BitVec 2) (z : BitVec 1)
  /-- R217: Atomic swap. -/
  | amoSwap (a : BitVec 5) (b : BitVec 5) (c : BitVec 5) (q : BitVec 2) (z : BitVec 1)
  /-- R217: Atomic compare-and-swap with sA as the expected value. -/
  | amoCas (a : BitVec 5) (b : BitVec 5) (c : BitVec 5) (q : BitVec 2) (z : BitVec 1)
  /-- R136: Writes VCFG from sB and returns the resulting VLMAX. -/
  | vsetcfg (a : BitVec 5) (b : BitVec 5)
  /-- R137: Starts strip-mining sB elements and returns VL. -/
  | vbegin (a : BitVec 5) (b : BitVec 5)
  /-- R138: Advances the strip and branches while elements remain. -/
  | vnext (a : BitVec 5) (o : BitVec 16)
  /-- R139: Element-wise integer add. -/
  | vadd (d : BitVec 5) (a : BitVec 5) (b : BitVec 5) (msk : BitVec 2) (mp : BitVec 1)
  /-- R139: Integer add of a scalar to every element. -/
  | vaddS (d : BitVec 5) (a : BitVec 5) (b : BitVec 5) (msk : BitVec 2) (mp : BitVec 1)
  /-- R139: Element-wise integer subtract. -/
  | vsub (d : BitVec 5) (a : BitVec 5) (b : BitVec 5) (msk : BitVec 2) (mp : BitVec 1)
  /-- R139: Subtracts a scalar from every element. -/
  | vsubS (d : BitVec 5) (a : BitVec 5) (b : BitVec 5) (msk : BitVec 2) (mp : BitVec 1)
  /-- R139: Element-wise reverse subtract. -/
  | vrsub (d : BitVec 5) (a : BitVec 5) (b : BitVec 5) (msk : BitVec 2) (mp : BitVec 1)
  /-- R139: Subtracts every element from a scalar. -/
  | vrsubS (d : BitVec 5) (a : BitVec 5) (b : BitVec 5) (msk : BitVec 2) (mp : BitVec 1)
  /-- R139: Element-wise low-half multiply. -/
  | vmul (d : BitVec 5) (a : BitVec 5) (b : BitVec 5) (msk : BitVec 2) (mp : BitVec 1)
  /-- R139: Low-half multiply by a scalar. -/
  | vmulS (d : BitVec 5) (a : BitVec 5) (b : BitVec 5) (msk : BitVec 2) (mp : BitVec 1)
  /-- R139: Element-wise signed high-half multiply. -/
  | vmulh (d : BitVec 5) (a : BitVec 5) (b : BitVec 5) (msk : BitVec 2) (mp : BitVec 1)
  /-- R139: Signed high-half multiply by a scalar. -/
  | vmulhS (d : BitVec 5) (a : BitVec 5) (b : BitVec 5) (msk : BitVec 2) (mp : BitVec 1)
  /-- R139: Element-wise unsigned high-half multiply. -/
  | vmulhu (d : BitVec 5) (a : BitVec 5) (b : BitVec 5) (msk : BitVec 2) (mp : BitVec 1)
  /-- R139: Unsigned high-half multiply by a scalar. -/
  | vmulhuS (d : BitVec 5) (a : BitVec 5) (b : BitVec 5) (msk : BitVec 2) (mp : BitVec 1)
  /-- R139: Element-wise signed division with saturation. -/
  | vdiv (d : BitVec 5) (a : BitVec 5) (b : BitVec 5) (msk : BitVec 2) (mp : BitVec 1)
  /-- R139: Signed division by a scalar. -/
  | vdivS (d : BitVec 5) (a : BitVec 5) (b : BitVec 5) (msk : BitVec 2) (mp : BitVec 1)
  /-- R139: Element-wise unsigned division. -/
  | vdivu (d : BitVec 5) (a : BitVec 5) (b : BitVec 5) (msk : BitVec 2) (mp : BitVec 1)
  /-- R139: Unsigned division by a scalar. -/
  | vdivuS (d : BitVec 5) (a : BitVec 5) (b : BitVec 5) (msk : BitVec 2) (mp : BitVec 1)
  /-- R139: Element-wise signed remainder. -/
  | vrem (d : BitVec 5) (a : BitVec 5) (b : BitVec 5) (msk : BitVec 2) (mp : BitVec 1)
  /-- R139: Signed remainder by a scalar. -/
  | vremS (d : BitVec 5) (a : BitVec 5) (b : BitVec 5) (msk : BitVec 2) (mp : BitVec 1)
  /-- R139: Element-wise unsigned remainder. -/
  | vremu (d : BitVec 5) (a : BitVec 5) (b : BitVec 5) (msk : BitVec 2) (mp : BitVec 1)
  /-- R139: Unsigned remainder by a scalar. -/
  | vremuS (d : BitVec 5) (a : BitVec 5) (b : BitVec 5) (msk : BitVec 2) (mp : BitVec 1)
  /-- R139: Element-wise bitwise AND. -/
  | vand (d : BitVec 5) (a : BitVec 5) (b : BitVec 5) (msk : BitVec 2) (mp : BitVec 1)
  /-- R139: Bitwise AND with a scalar. -/
  | vandS (d : BitVec 5) (a : BitVec 5) (b : BitVec 5) (msk : BitVec 2) (mp : BitVec 1)
  /-- R139: Element-wise bitwise OR. -/
  | vor (d : BitVec 5) (a : BitVec 5) (b : BitVec 5) (msk : BitVec 2) (mp : BitVec 1)
  /-- R139: Bitwise OR with a scalar. -/
  | vorS (d : BitVec 5) (a : BitVec 5) (b : BitVec 5) (msk : BitVec 2) (mp : BitVec 1)
  /-- R139: Element-wise bitwise XOR. -/
  | vxor (d : BitVec 5) (a : BitVec 5) (b : BitVec 5) (msk : BitVec 2) (mp : BitVec 1)
  /-- R139: Bitwise XOR with a scalar. -/
  | vxorS (d : BitVec 5) (a : BitVec 5) (b : BitVec 5) (msk : BitVec 2) (mp : BitVec 1)
  /-- R139: Element-wise bitwise NOT. -/
  | vnot (d : BitVec 5) (a : BitVec 5) (msk : BitVec 2) (mp : BitVec 1)
  /-- R139: Element-wise left shift by a vector distance. -/
  | vsll (d : BitVec 5) (a : BitVec 5) (b : BitVec 5) (msk : BitVec 2) (mp : BitVec 1)
  /-- R139: Left shift by a scalar distance. -/
  | vsllS (d : BitVec 5) (a : BitVec 5) (b : BitVec 5) (msk : BitVec 2) (mp : BitVec 1)
  /-- R139: Element-wise logical right shift. -/
  | vsrl (d : BitVec 5) (a : BitVec 5) (b : BitVec 5) (msk : BitVec 2) (mp : BitVec 1)
  /-- R139: Logical right shift by a scalar distance. -/
  | vsrlS (d : BitVec 5) (a : BitVec 5) (b : BitVec 5) (msk : BitVec 2) (mp : BitVec 1)
  /-- R139: Element-wise arithmetic right shift. -/
  | vsra (d : BitVec 5) (a : BitVec 5) (b : BitVec 5) (msk : BitVec 2) (mp : BitVec 1)
  /-- R139: Arithmetic right shift by a scalar distance. -/
  | vsraS (d : BitVec 5) (a : BitVec 5) (b : BitVec 5) (msk : BitVec 2) (mp : BitVec 1)
  /-- R139: Element-wise signed minimum. -/
  | vmin (d : BitVec 5) (a : BitVec 5) (b : BitVec 5) (msk : BitVec 2) (mp : BitVec 1)
  /-- R139: Signed minimum with a scalar. -/
  | vminS (d : BitVec 5) (a : BitVec 5) (b : BitVec 5) (msk : BitVec 2) (mp : BitVec 1)
  /-- R139: Element-wise signed maximum. -/
  | vmax (d : BitVec 5) (a : BitVec 5) (b : BitVec 5) (msk : BitVec 2) (mp : BitVec 1)
  /-- R139: Signed maximum with a scalar. -/
  | vmaxS (d : BitVec 5) (a : BitVec 5) (b : BitVec 5) (msk : BitVec 2) (mp : BitVec 1)
  /-- R139: Element-wise unsigned minimum. -/
  | vminu (d : BitVec 5) (a : BitVec 5) (b : BitVec 5) (msk : BitVec 2) (mp : BitVec 1)
  /-- R139: Unsigned minimum with a scalar. -/
  | vminuS (d : BitVec 5) (a : BitVec 5) (b : BitVec 5) (msk : BitVec 2) (mp : BitVec 1)
  /-- R139: Element-wise unsigned maximum. -/
  | vmaxu (d : BitVec 5) (a : BitVec 5) (b : BitVec 5) (msk : BitVec 2) (mp : BitVec 1)
  /-- R139: Unsigned maximum with a scalar. -/
  | vmaxuS (d : BitVec 5) (a : BitVec 5) (b : BitVec 5) (msk : BitVec 2) (mp : BitVec 1)
  /-- R139: Element-wise negation. -/
  | vneg (d : BitVec 5) (a : BitVec 5) (msk : BitVec 2) (mp : BitVec 1)
  /-- R139: Element-wise signed saturating add, setting QSAT. -/
  | vsadd (d : BitVec 5) (a : BitVec 5) (b : BitVec 5) (msk : BitVec 2) (mp : BitVec 1)
  /-- R139: Signed saturating add of a scalar. -/
  | vsaddS (d : BitVec 5) (a : BitVec 5) (b : BitVec 5) (msk : BitVec 2) (mp : BitVec 1)
  /-- R139: Element-wise signed saturating subtract. -/
  | vssub (d : BitVec 5) (a : BitVec 5) (b : BitVec 5) (msk : BitVec 2) (mp : BitVec 1)
  /-- R139: Signed saturating subtract of a scalar. -/
  | vssubS (d : BitVec 5) (a : BitVec 5) (b : BitVec 5) (msk : BitVec 2) (mp : BitVec 1)
  /-- R139: Element-wise unsigned saturating add. -/
  | vsaddu (d : BitVec 5) (a : BitVec 5) (b : BitVec 5) (msk : BitVec 2) (mp : BitVec 1)
  /-- R139: Unsigned saturating add of a scalar. -/
  | vsadduS (d : BitVec 5) (a : BitVec 5) (b : BitVec 5) (msk : BitVec 2) (mp : BitVec 1)
  /-- R139: Element-wise unsigned saturating subtract. -/
  | vssubu (d : BitVec 5) (a : BitVec 5) (b : BitVec 5) (msk : BitVec 2) (mp : BitVec 1)
  /-- R139: Unsigned saturating subtract of a scalar. -/
  | vssubuS (d : BitVec 5) (a : BitVec 5) (b : BitVec 5) (msk : BitVec 2) (mp : BitVec 1)
  /-- R139: Element-wise multiply-add into the destination. -/
  | vmadd (d : BitVec 5) (a : BitVec 5) (b : BitVec 5) (msk : BitVec 2) (mp : BitVec 1)
  /-- R139: Multiply by a scalar and add into the destination. -/
  | vmaddS (d : BitVec 5) (a : BitVec 5) (b : BitVec 5) (msk : BitVec 2) (mp : BitVec 1)
  /-- R139: Element-wise count of leading zeros. -/
  | vclz (d : BitVec 5) (a : BitVec 5) (msk : BitVec 2) (mp : BitVec 1)
  /-- R139: Element-wise population count. -/
  | vpopc (d : BitVec 5) (a : BitVec 5) (msk : BitVec 2) (mp : BitVec 1)
  /-- R141: Widening add of the narrow halves. -/
  | vwadd (d : BitVec 5) (a : BitVec 5) (b : BitVec 5) (msk : BitVec 2) (mp : BitVec 1)
  /-- R141: Widening add of a scalar. -/
  | vwaddS (d : BitVec 5) (a : BitVec 5) (b : BitVec 5) (msk : BitVec 2) (mp : BitVec 1)
  /-- R141: Widening multiply of the narrow halves. -/
  | vwmul (d : BitVec 5) (a : BitVec 5) (b : BitVec 5) (msk : BitVec 2) (mp : BitVec 1)
  /-- R141: Widening multiply by a scalar. -/
  | vwmulS (d : BitVec 5) (a : BitVec 5) (b : BitVec 5) (msk : BitVec 2) (mp : BitVec 1)
  /-- R141: Narrowing logical right shift. -/
  | vnsrl (d : BitVec 5) (a : BitVec 5) (b : BitVec 5) (msk : BitVec 2) (mp : BitVec 1)
  /-- R141: Narrowing logical right shift by a scalar distance. -/
  | vnsrlS (d : BitVec 5) (a : BitVec 5) (b : BitVec 5) (msk : BitVec 2) (mp : BitVec 1)
  /-- R141: Narrowing rounded shift with saturation. -/
  | vnclip (d : BitVec 5) (a : BitVec 5) (b : BitVec 5) (msk : BitVec 2) (mp : BitVec 1)
  /-- R141: Narrowing rounded shift by a scalar distance with saturation. -/
  | vnclipS (d : BitVec 5) (a : BitVec 5) (b : BitVec 5) (msk : BitVec 2) (mp : BitVec 1)
  /-- R140: Extracts a bit field of every element under a scalar control. -/
  | vfieldS (d : BitVec 5) (a : BitVec 5) (b : BitVec 5) (msk : BitVec 2) (mp : BitVec 1)
  /-- R142: Element-wise floating-point add. -/
  | vfadd (d : BitVec 5) (a : BitVec 5) (b : BitVec 5) (msk : BitVec 2) (mp : BitVec 1)
  /-- R142: Floating-point add of a scalar. -/
  | vfaddS (d : BitVec 5) (a : BitVec 5) (b : BitVec 5) (msk : BitVec 2) (mp : BitVec 1)
  /-- R142: Element-wise floating-point subtract. -/
  | vfsub (d : BitVec 5) (a : BitVec 5) (b : BitVec 5) (msk : BitVec 2) (mp : BitVec 1)
  /-- R142: Floating-point subtract of a scalar. -/
  | vfsubS (d : BitVec 5) (a : BitVec 5) (b : BitVec 5) (msk : BitVec 2) (mp : BitVec 1)
  /-- R142: Element-wise floating-point multiply. -/
  | vfmul (d : BitVec 5) (a : BitVec 5) (b : BitVec 5) (msk : BitVec 2) (mp : BitVec 1)
  /-- R142: Floating-point multiply by a scalar. -/
  | vfmulS (d : BitVec 5) (a : BitVec 5) (b : BitVec 5) (msk : BitVec 2) (mp : BitVec 1)
  /-- R142: Element-wise floating-point divide. -/
  | vfdiv (d : BitVec 5) (a : BitVec 5) (b : BitVec 5) (msk : BitVec 2) (mp : BitVec 1)
  /-- R142: Floating-point divide by a scalar. -/
  | vfdivS (d : BitVec 5) (a : BitVec 5) (b : BitVec 5) (msk : BitVec 2) (mp : BitVec 1)
  /-- R142: Element-wise floating-point square root. -/
  | vfsqrt (d : BitVec 5) (a : BitVec 5) (msk : BitVec 2) (mp : BitVec 1)
  /-- R142: Element-wise fused multiply-add into the destination. -/
  | vfma (d : BitVec 5) (a : BitVec 5) (b : BitVec 5) (msk : BitVec 2) (mp : BitVec 1)
  /-- R142: Fused multiply by a scalar and add into the destination. -/
  | vfmaS (d : BitVec 5) (a : BitVec 5) (b : BitVec 5) (msk : BitVec 2) (mp : BitVec 1)
  /-- R142: Element-wise floating-point minimum. -/
  | vfmin (d : BitVec 5) (a : BitVec 5) (b : BitVec 5) (msk : BitVec 2) (mp : BitVec 1)
  /-- R142: Floating-point minimum with a scalar. -/
  | vfminS (d : BitVec 5) (a : BitVec 5) (b : BitVec 5) (msk : BitVec 2) (mp : BitVec 1)
  /-- R142: Element-wise floating-point maximum. -/
  | vfmax (d : BitVec 5) (a : BitVec 5) (b : BitVec 5) (msk : BitVec 2) (mp : BitVec 1)
  /-- R142: Floating-point maximum with a scalar. -/
  | vfmaxS (d : BitVec 5) (a : BitVec 5) (b : BitVec 5) (msk : BitVec 2) (mp : BitVec 1)
  /-- R143: Converts between the VCFG type and the format named by the selector. -/
  | vfcvt (d : BitVec 5) (a : BitVec 5) (s : BitVec 5) (msk : BitVec 2) (mp : BitVec 1)
  /-- R145: Writes the class word of every element. -/
  | vfclass (d : BitVec 5) (a : BitVec 5) (msk : BitVec 2) (mp : BitVec 1)
  /-- R144: Correctly rounded base-2 logarithm of every element. -/
  | vlog2 (d : BitVec 5) (a : BitVec 5) (msk : BitVec 2) (mp : BitVec 1)
  /-- R144: Correctly rounded power of two of every element. -/
  | vexp2 (d : BitVec 5) (a : BitVec 5) (msk : BitVec 2) (mp : BitVec 1)
  /-- R146: Writes a mask of element equality. -/
  | vcmpeq (d : BitVec 2) (a : BitVec 5) (b : BitVec 5) (msk : BitVec 2) (mp : BitVec 1)
  /-- R146: Mask of equality with a scalar. -/
  | vcmpeqS (d : BitVec 2) (a : BitVec 5) (b : BitVec 5) (msk : BitVec 2) (mp : BitVec 1)
  /-- R146: Writes a mask of element inequality. -/
  | vcmpne (d : BitVec 2) (a : BitVec 5) (b : BitVec 5) (msk : BitVec 2) (mp : BitVec 1)
  /-- R146: Mask of inequality with a scalar. -/
  | vcmpneS (d : BitVec 2) (a : BitVec 5) (b : BitVec 5) (msk : BitVec 2) (mp : BitVec 1)
  /-- R146: Mask of signed less-than. -/
  | vcmplt (d : BitVec 2) (a : BitVec 5) (b : BitVec 5) (msk : BitVec 2) (mp : BitVec 1)
  /-- R146: Mask of signed less-than a scalar. -/
  | vcmpltS (d : BitVec 2) (a : BitVec 5) (b : BitVec 5) (msk : BitVec 2) (mp : BitVec 1)
  /-- R146: Mask of unsigned less-than. -/
  | vcmpltu (d : BitVec 2) (a : BitVec 5) (b : BitVec 5) (msk : BitVec 2) (mp : BitVec 1)
  /-- R146: Mask of unsigned less-than a scalar. -/
  | vcmpltuS (d : BitVec 2) (a : BitVec 5) (b : BitVec 5) (msk : BitVec 2) (mp : BitVec 1)
  /-- R146: Mask of signed less-or-equal. -/
  | vcmple (d : BitVec 2) (a : BitVec 5) (b : BitVec 5) (msk : BitVec 2) (mp : BitVec 1)
  /-- R146: Mask of signed less-or-equal a scalar. -/
  | vcmpleS (d : BitVec 2) (a : BitVec 5) (b : BitVec 5) (msk : BitVec 2) (mp : BitVec 1)
  /-- R146: Mask of unsigned less-or-equal. -/
  | vcmpleu (d : BitVec 2) (a : BitVec 5) (b : BitVec 5) (msk : BitVec 2) (mp : BitVec 1)
  /-- R146: Mask of unsigned less-or-equal a scalar. -/
  | vcmpleuS (d : BitVec 2) (a : BitVec 5) (b : BitVec 5) (msk : BitVec 2) (mp : BitVec 1)
  /-- R146: Mask of floating-point equality. -/
  | vfcmpeq (d : BitVec 2) (a : BitVec 5) (b : BitVec 5) (msk : BitVec 2) (mp : BitVec 1)
  /-- R146: Mask of floating-point equality with a scalar. -/
  | vfcmpeqS (d : BitVec 2) (a : BitVec 5) (b : BitVec 5) (msk : BitVec 2) (mp : BitVec 1)
  /-- R146: Mask of floating-point less-than. -/
  | vfcmplt (d : BitVec 2) (a : BitVec 5) (b : BitVec 5) (msk : BitVec 2) (mp : BitVec 1)
  /-- R146: Mask of floating-point less-than a scalar. -/
  | vfcmpltS (d : BitVec 2) (a : BitVec 5) (b : BitVec 5) (msk : BitVec 2) (mp : BitVec 1)
  /-- R146: Mask of floating-point less-or-equal. -/
  | vfcmple (d : BitVec 2) (a : BitVec 5) (b : BitVec 5) (msk : BitVec 2) (mp : BitVec 1)
  /-- R146: Mask of floating-point less-or-equal a scalar. -/
  | vfcmpleS (d : BitVec 2) (a : BitVec 5) (b : BitVec 5) (msk : BitVec 2) (mp : BitVec 1)
  /-- R147: Mask AND for lanes below VL. -/
  | mand (d : BitVec 2) (a : BitVec 2) (b : BitVec 2)
  /-- R147: Mask OR. -/
  | mor (d : BitVec 2) (a : BitVec 2) (b : BitVec 2)
  /-- R147: Mask XOR. -/
  | mxor (d : BitVec 2) (a : BitVec 2) (b : BitVec 2)
  /-- R147: Mask AND-NOT. -/
  | mandn (d : BitVec 2) (a : BitVec 2) (b : BitVec 2)
  /-- R147: Mask NOT. -/
  | mnot (d : BitVec 2) (a : BitVec 2)
  /-- R148: Sets active lanes before the first set source bit. -/
  | msbf (d : BitVec 2) (a : BitVec 2) (msk : BitVec 2) (mp : BitVec 1)
  /-- R148: Sets active lanes up to and including the first set source bit. -/
  | msif (d : BitVec 2) (a : BitVec 2) (msk : BitVec 2) (mp : BitVec 1)
  /-- R149: Returns the index of the first active set lane, or -1. -/
  | mfirst (d : BitVec 5) (a : BitVec 2) (msk : BitVec 2) (mp : BitVec 1)
  /-- R149: Returns the number of active set lanes. -/
  | mcount (d : BitVec 5) (a : BitVec 2) (msk : BitVec 2) (mp : BitVec 1)
  /-- R149: Writes the prefix count of set mask bits into each active lane. -/
  | viota (d : BitVec 5) (a : BitVec 2) (msk : BitVec 2) (mp : BitVec 1)
  /-- R150: Masked search of every element against a key and care pattern. -/
  | vsrch (d : BitVec 2) (a : BitVec 5) (b : BitVec 4) (msk : BitVec 2) (mp : BitVec 1)
  /-- R150: Range search of every element by value. -/
  | vsrchr (d : BitVec 2) (a : BitVec 5) (b : BitVec 4) (msk : BitVec 2) (mp : BitVec 1)
  /-- R151: Writes a scalar into every tagged lane below VL. -/
  | vtwr (d : BitVec 5) (a : BitVec 2) (b : BitVec 5)
  /-- R152: Writes the Hamming distance of each element to a key. -/
  | vhamm (d : BitVec 5) (a : BitVec 5) (b : BitVec 5) (msk : BitVec 2) (mp : BitVec 1)
  /-- R153: Marks the k largest active elements, decided by the count tree. -/
  | vtopkMax (d : BitVec 2) (a : BitVec 5) (b : BitVec 5) (msk : BitVec 2) (mp : BitVec 1)
  /-- R153: Marks the k smallest active elements, decided by the count tree. -/
  | vtopkMin (d : BitVec 2) (a : BitVec 5) (b : BitVec 5) (msk : BitVec 2) (mp : BitVec 1)
  /-- R154: Integer sum of active elements modulo 2^64. -/
  | vredsum (d : BitVec 5) (a : BitVec 5) (msk : BitVec 2) (mp : BitVec 1)
  /-- R154: Signed maximum of active elements. -/
  | vredmax (d : BitVec 5) (a : BitVec 5) (msk : BitVec 2) (mp : BitVec 1)
  /-- R154: Signed minimum of active elements. -/
  | vredmin (d : BitVec 5) (a : BitVec 5) (msk : BitVec 2) (mp : BitVec 1)
  /-- R154: Unsigned maximum of active elements. -/
  | vredmaxu (d : BitVec 5) (a : BitVec 5) (msk : BitVec 2) (mp : BitVec 1)
  /-- R154: Unsigned minimum of active elements. -/
  | vredminu (d : BitVec 5) (a : BitVec 5) (msk : BitVec 2) (mp : BitVec 1)
  /-- R154: Bitwise AND fold of active elements. -/
  | vredand (d : BitVec 5) (a : BitVec 5) (msk : BitVec 2) (mp : BitVec 1)
  /-- R154: Bitwise OR fold of active elements. -/
  | vredor (d : BitVec 5) (a : BitVec 5) (msk : BitVec 2) (mp : BitVec 1)
  /-- R154: Bitwise XOR fold of active elements. -/
  | vredxor (d : BitVec 5) (a : BitVec 5) (msk : BitVec 2) (mp : BitVec 1)
  /-- R155: Exact floating-point sum of active elements, rounded once. -/
  | vfredsum (d : BitVec 5) (a : BitVec 5) (msk : BitVec 2) (mp : BitVec 1)
  /-- R156: Returns the largest non-NaN active element and its lowest index. -/
  | vmaxi (d : BitVec 4) (a : BitVec 5) (msk : BitVec 2) (mp : BitVec 1)
  /-- R156: Returns the smallest non-NaN active element and its lowest index. -/
  | vmini (d : BitVec 4) (a : BitVec 5) (msk : BitVec 2) (mp : BitVec 1)
  /-- R157: Gathers source elements by index. -/
  | vgathr (d : BitVec 5) (a : BitVec 5) (b : BitVec 5) (msk : BitVec 2) (mp : BitVec 1)
  /-- R157: Shifts elements up by a scalar distance. -/
  | vshup (d : BitVec 5) (a : BitVec 5) (b : BitVec 5) (msk : BitVec 2) (mp : BitVec 1)
  /-- R157: Shifts elements down by a scalar distance. -/
  | vshdn (d : BitVec 5) (a : BitVec 5) (b : BitVec 5) (msk : BitVec 2) (mp : BitVec 1)
  /-- R157: Broadcasts one source element to every active lane. -/
  | vbcst (d : BitVec 5) (a : BitVec 5) (b : BitVec 5) (msk : BitVec 2) (mp : BitVec 1)
  /-- R157: Returns one element to a scalar register. -/
  | vext (d : BitVec 5) (a : BitVec 5) (b : BitVec 5)
  /-- R157: Writes a scalar into one element. -/
  | vins (d : BitVec 5) (a : BitVec 5) (b : BitVec 5)
  /-- R158: Packs the mask-selected elements to the lowest lanes. -/
  | vcomp (d : BitVec 5) (a : BitVec 5) (msk : BitVec 2)
  /-- R157: Permutes elements by XOR of the index. -/
  | vbperm (d : BitVec 5) (a : BitVec 5) (b : BitVec 5) (msk : BitVec 2) (mp : BitVec 1)
  /-- R157: Copies elements. -/
  | vmv (d : BitVec 5) (a : BitVec 5) (msk : BitVec 2) (mp : BitVec 1)
  /-- R158: Writes a converted 10-bit immediate to every active lane. -/
  | vmvi (d : BitVec 5) (i : BitVec 10) (msk : BitVec 2) (mp : BitVec 1)
  /-- R158: Selects between two sources by mask. -/
  | vmerge (d : BitVec 5) (a : BitVec 5) (b : BitVec 5) (msk : BitVec 2)
  /-- R157: Writes each element's index. -/
  | vid (d : BitVec 5) (msk : BitVec 2) (mp : BitVec 1)
  /-- R162: Contiguous vector load with conversion from the memory type. -/
  | vld (d : BitVec 5) (b : BitVec 5) (msk : BitVec 2) (mp : BitVec 1) (g : BitVec 1) (r : BitVec 1)
  /-- R162: Strided vector load. -/
  | vlds (d : BitVec 5) (b : BitVec 5) (s : BitVec 5) (msk : BitVec 2) (mp : BitVec 1) (g : BitVec 1) (r : BitVec 1)
  /-- R162: Indexed vector load. -/
  | vldx (d : BitVec 5) (b : BitVec 5) (i : BitVec 5) (msk : BitVec 2) (mp : BitVec 1) (g : BitVec 1)
  /-- R164: Fault-only-first load that truncates VL at the first faulting element. -/
  | vldff (d : BitVec 5) (b : BitVec 5) (msk : BitVec 2) (mp : BitVec 1) (g : BitVec 1) (r : BitVec 1)
  /-- R165: Contiguous vector store with conversion to the memory type. -/
  | vst (d : BitVec 5) (b : BitVec 5) (msk : BitVec 2) (mp : BitVec 1) (g : BitVec 1) (r : BitVec 1)
  /-- R165: Strided vector store. -/
  | vsts (d : BitVec 5) (b : BitVec 5) (s : BitVec 5) (msk : BitVec 2) (mp : BitVec 1) (g : BitVec 1) (r : BitVec 1)
  /-- R166: Indexed scatter; colliding elements leave one value. -/
  | vstx (d : BitVec 5) (b : BitVec 5) (i : BitVec 5) (msk : BitVec 2) (mp : BitVec 1) (g : BitVec 1)
  /-- R166: Ordered indexed scatter; the highest colliding element wins. -/
  | vstxo (d : BitVec 5) (b : BitVec 5) (i : BitVec 5) (msk : BitVec 2) (mp : BitVec 1) (g : BitVec 1)
  /-- R167: Atomically reserves a range of a work vector and stores the active elements. -/
  | vappend (p : BitVec 5) (h : BitVec 5) (t : BitVec 5) (msk : BitVec 2) (mp : BitVec 1) (g : BitVec 1)
  /-- R219: Indexed load that places a link per active lane. -/
  | vldl (d : BitVec 5) (b : BitVec 5) (i : BitVec 5) (msk : BitVec 2) (mp : BitVec 1) (g : BitVec 1)
  /-- R220: Conditional store per lane on an unbroken link, writing a success mask. -/
  | vstc (d : BitVec 5) (b : BitVec 5) (i : BitVec 5) (msk : BitVec 2) (mp : BitVec 1) (g : BitVec 1) (m : BitVec 2)
  /-- R221: Per-lane atomic operation returning old values. -/
  | vamo (d : BitVec 5) (b : BitVec 5) (i : BitVec 5) (msk : BitVec 2) (mp : BitVec 1) (g : BitVec 1) (o : BitVec 4)
  /-- R222: Per-lane atomic operation with acquire. -/
  | vamoAcq (d : BitVec 5) (b : BitVec 5) (i : BitVec 5) (msk : BitVec 2) (mp : BitVec 1) (g : BitVec 1) (o : BitVec 4)
  /-- R222: Per-lane atomic operation with release. -/
  | vamoRel (d : BitVec 5) (b : BitVec 5) (i : BitVec 5) (msk : BitVec 2) (mp : BitVec 1) (g : BitVec 1) (o : BitVec 4)
  /-- R222: Per-lane atomic operation with acquire and release. -/
  | vamoAr (d : BitVec 5) (b : BitVec 5) (i : BitVec 5) (msk : BitVec 2) (mp : BitVec 1) (g : BitVec 1) (o : BitVec 4)
  /-- R223: Parks until every active lane's word satisfies its condition, then acquires. -/
  | vwaitm (c : BitVec 5) (b : BitVec 5) (i : BitVec 5) (msk : BitVec 2) (mp : BitVec 1) (g : BitVec 1) (z : BitVec 1) (o : BitVec 2)
  /-- R168: Fills v31 from compact per-block scales. -/
  | vsclset (a : BitVec 5) (msk : BitVec 2) (mp : BitVec 1)
  /-- R169: Computes block or group scales of the data into v31 and sets MFMT.SC. -/
  | vbscale (a : BitVec 5) (msk : BitVec 2) (mp : BitVec 1)
  /-- R170: Quantises elements into the QFMT encoding. -/
  | vquant (d : BitVec 5) (a : BitVec 5) (msk : BitVec 2) (mp : BitVec 1)
  /-- R170: Dequantises QFMT encodings into the element type. -/
  | vdeq (d : BitVec 5) (a : BitVec 5) (msk : BitVec 2) (mp : BitVec 1)
  /-- R171: Loads a 32-byte codebook register from memory. -/
  | vcbld (c : BitVec 2) (a : BitVec 5)
  /-- R171: Looks up codebook entries by 4-bit code. -/
  | vcbx (d : BitVec 5) (a : BitVec 5) (c : BitVec 2) (msk : BitVec 2) (mp : BitVec 1)
  /-- R172: Converts elements to an LNS QFMT. -/
  | vcvtl (d : BitVec 5) (a : BitVec 5) (msk : BitVec 2) (mp : BitVec 1)
  /-- R184: Writes MXCFG in VIQ order, claiming the Mezzanine. -/
  | mxcfg (b : BitVec 5)
  /-- R185: Pops a tile from FT into a tile buffer, forming the norm row in distance mode. -/
  | mxtld (x : BitVec 1) (b : BitVec 1)
  /-- R186: Selects the active tile buffer. -/
  | mxtsel (b : BitVec 1)
  /-- R187: Pops an A row and writes or accumulates its product with the active tile into an accumulator row. -/
  | mxr (n : BitVec 9) (m : BitVec 1)
  /-- R189: Drains an accumulator row into a vector register with conversion. -/
  | mxdrn (d : BitVec 5) (n : BitVec 9)
  /-- R191: Drains an accumulator row to the Atrium in SFMT. -/
  | mxdrs (a : BitVec 5) (n : BitVec 9)
  /-- R192: Clears an accumulator row. -/
  | mxclr (n : BitVec 9)
  /-- R193: Empties FA, FT or both. -/
  | mxfclr (t : BitVec 1) (f : BitVec 1)
  /-- R241: Queues a linear copy on a copy engine. -/
  | cpy (a : BitVec 5) (b : BitVec 5) (c : BitVec 5) (e : BitVec 2)
  /-- R241: Queues a two-dimensional copy. -/
  | cpy2d (a : BitVec 5) (b : BitVec 5) (c : BitVec 4) (e : BitVec 2)
  /-- R241: Queues an index-list gather copy. -/
  | cpyg (a : BitVec 5) (b : BitVec 5) (c : BitVec 4) (e : BitVec 2)
  /-- R241: Queues a fill with a 64-bit pattern. -/
  | cpyf (a : BitVec 5) (b : BitVec 5) (c : BitVec 5) (e : BitVec 2)
  /-- R247: Queries, resumes or abandons an engine's halted command. -/
  | cpyres (a : BitVec 4) (b : BitVec 5) (e : BitVec 2)
  /-- R251: Saturating increment of a Newel semaphore. -/
  | seminc (a : BitVec 5) (b : BitVec 5) (x : BitVec 9) (r : BitVec 1)
  /-- R251: Sets a Newel semaphore. -/
  | semset (a : BitVec 5) (b : BitVec 5) (x : BitVec 9) (r : BitVec 1)
  /-- R251: Parks until a semaphore reaches a threshold. -/
  | semwait (a : BitVec 5) (b : BitVec 5)
  /-- R251: Reads a semaphore into sA. -/
  | semrd (a : BitVec 5) (b : BitVec 5) (x : BitVec 9) (r : BitVec 1)
  /-- R254: Initialises a barrier, waking waiters and abandoning halted bound copies. -/
  | barinit (a : BitVec 5) (b : BitVec 5) (x : BitVec 9) (r : BitVec 1)
  /-- R252: Arrives at a barrier with a weight and returns a ticket. -/
  | bararr (a : BitVec 5) (b : BitVec 5) (x : BitVec 9) (r : BitVec 1)
  /-- R253: Parks until the ticket's phase completes, faults or is reinitialised. -/
  | barwait (a : BitVec 5) (b : BitVec 5)
  /-- R257: Places a vector register as one message on an output port. -/
  | vsend (s : BitVec 5) (p : BitVec 1)
  /-- R256: Arms CHAINSRC with a producer core and port in VIQ order. -/
  | vchain (c : BitVec 9) (p : BitVec 1)
  /-- R270: Releases, increments the join counter and appends a record to a landing. -/
  | spawn (a : BitVec 5) (b : BitVec 5)
  /-- R270: Places a record in the wait pool on a counter. -/
  | spawnc (a : BitVec 5) (b : BitVec 5) (c : BitVec 5)
  /-- R271: Releases and decrements a join counter, returning the old value. -/
  | jdec (a : BitVec 5) (b : BitVec 5)
  /-- R273: Reads a snapshot of one landing item. -/
  | lread (a : BitVec 5) (b : BitVec 5)
  /-- R307: Writes back dirty lines of a range, with codec writes for coded lines. -/
  | cflush (a : BitVec 5) (b : BitVec 5)
  /-- R308: Flushes and then drops every copy of the lines of a range. -/
  | cinv (a : BitVec 5) (b : BitVec 5)
  /-- R309: Hints that the home slices fill a range into L2. -/
  | cpref (a : BitVec 5) (b : BitVec 5)
  /-- R310: Drops cached translations in a scope and refreshes pool maps, descriptor caches and PTROOTs. -/
  | tlbinv (a : BitVec 5) (b : BitVec 5) (s : BitVec 3)
  /-- R321: Queues an Undercroft zeroing of row units, raw when RAW is set. -/
  | ubulkZero (a : BitVec 4) (r : BitVec 1)
  /-- R321: Queues an Undercroft row-unit copy. -/
  | ubulkCopy (a : BitVec 4) (b : BitVec 5)
  /-- R321: Queues an Undercroft AND of two sources. -/
  | ubulkAnd (a : BitVec 4) (b : BitVec 4)
  /-- R321: Queues an Undercroft OR of two sources. -/
  | ubulkOr (a : BitVec 4) (b : BitVec 4)
  /-- R321: Queues an Undercroft majority of three sources. -/
  | ubulkMaj3 (a : BitVec 4) (b : BitVec 3)
  /-- R321: Queues an Undercroft NOT of a source. -/
  | ubulkNot (a : BitVec 4) (b : BitVec 5)
  /-- R325: Parks until the strand's UBULK commands complete, acquires and returns the fault bit. -/
  | uwait (a : BitVec 5)
  /-- R331: Releases and posts a payload to a host ring. -/
  | hpost (a : BitVec 5) (b : BitVec 5) (r : BitVec 4)
  /-- R332: Stores a word and tells the Foyer to re-read waiting COND nodes on its line. -/
  | gsig (a : BitVec 5) (b : BitVec 5)
  /-- R364: Submits an all-reduce contribution to the collective engine. -/
  | collAllreduce (b : BitVec 5) (m : BitVec 1)
  /-- R364: Submits a reduce-scatter contribution. -/
  | collRedscat (b : BitVec 5) (m : BitVec 1)
  /-- R364: Submits an all-gather contribution. -/
  | collAllgath (b : BitVec 5) (m : BitVec 1)
  /-- R364: Submits a broadcast contribution. -/
  | collBcast (b : BitVec 5) (m : BitVec 1)
  /-- R369: Waits for and reports the status and flags of engine operations. -/
  | collw (a : BitVec 5) (b : BitVec 5)
  /-- R360: Queues a transfer from local pages to peer pages. -/
  | fput (a : BitVec 4) (b : BitVec 5)
  /-- R360: Queues a transfer from peer pages to local pages. -/
  | fget (a : BitVec 4) (b : BitVec 5)
  /-- R297: The codec writes and copy drops for a region being invalidated finish and the clearing SETC completes. -/
  | regionDrainDone (n : Nat)
  /-- R229: An array-side instruction traps; issue stops, younger entries are held and the handler entered. -/
  | arrayTrap (id : Nat) (cause : BitVec 6) (tval : BitVec 64) (lane : Nat)
  /-- R265: The landing controller hands an eligible record to a free slot that fits it. -/
  | recordPop (die : Nat)
  /-- R235: A slot of the named core pops a resume record once its HELD bays are free and reads the save slot. -/
  | resumeRecordPop (die : Nat)
  /-- R79: A parking or FIFO or chain wait exceeds the landing's watchdog period and traps with cause WATCHDOG. -/
  | watchdog (id : Nat)
  /-- R97: A WAIT ends after 4,096 cycles. -/
  | waitTimeout (id : Nat)
  /-- R128: The oldest waiting bay request of a core is served, clearing the bays and numbering lanes. -/
  | bayGrant (core : Nat)
  /-- R173: A strand waiting for the Mezzanine takes the claim when the owner's claim ends. -/
  | mezzanineClaim (core : Nat)
  /-- R179: A waiting MXTLD or MXR finds all its beats present and consumes them. -/
  | mxFifoWaitEnd (id : Nat)
  /-- R276: At a sequencer boundary the sequencer chooses the ready strand whose landing has the largest deficit. -/
  | sequencerSelect (core : Nat)
  /-- R277: A higher-priority record unable to pop for 4,096 cycles makes a lower-priority strand due for pre-emption. -/
  | priorityPreemption (die landing : Nat)
  /-- R277: A record unable to pop for its slice makes an equal-priority strand that overran its slice due. -/
  | sharePreemption (die landing : Nat)
  /-- R230: A due pre-emption is taken at a boundary: issue stops, the VIQ drains and the save begins. -/
  | preemptionTaken (id : Nat)
  /-- R278: 65,536 cycles after a pre-emption became due it is taken at the next instruction boundary. -/
  | preemptForceLimit (id : Nat)
  /-- R230: 256 instructions after a link was placed the save stops waiting for it. -/
  | linkDeferLimit (id : Nat)
  /-- R125: The Usher retires a row after three detections within 3,600 s. -/
  | rowRetirement (core bay row : Nat)
  /-- R125: The Usher scrub-reads idle bays for parity detections. -/
  | usherScrub (core bay : Nat)
  /-- R242: A copy command waiting at issue finds a free queue entry and is accepted, or traps COPY_FAULT when the engine halts. -/
  | copyQueueEntry (id : Nat)
  /-- R243: A command at the queue head with no unended earlier conflicting command becomes ACTIVE. -/
  | copyStart (cluster engine : Nat)
  /-- R179: A copy delivers a 64-byte beat into FA or FT once there is space. -/
  | fifoDelivery (cluster engine : Nat)
  /-- R246: The last word of a command is delivered and it signals its semaphore and barrier. -/
  | copyComplete (cluster engine : Nat)
  /-- R245: A command's word faults; the engine halts and records the fault. -/
  | copyHalt (cluster engine : Nat)
  /-- R258: A message on the producer's port reaches an armed consumer waiting for it. -/
  | chainMessageArrival (id : Nat)
  /-- R257: A VSEND waiting for port buffer space places its remaining elements. -/
  | portSpaceFree (id : Nat)
  /-- R263: A record at the spill ring's head moves on-die when an entry frees. -/
  | spillRefill (die landing : Nat)
  /-- R272: After a write to or eviction of a watched counter line the controller re-reads the counter. -/
  | counterReread (die index : Nat)
  /-- R223: Watched words and counters on HOST pages are polled at least every 2 µs. -/
  | hostPoll (die : Nat)
  /-- R281: The Usher disables a core, losing the work on it. -/
  | coreDisable (core : Nat)
  /-- R373: The Usher resets a compute die, which is out and loses its work. -/
  | dieReset (die : Nat)
  /-- R373: The Usher declares a reset die back, or disables it. -/
  | dieBack (die : Nat) (enabled : Bool)
  /-- R302: A fill returns from HBM to its home slice, decoding coded lines, and unblocks the set. The key is 2 x the line, plus 1 for
  a fill through a SEALED page (R320). -/
  | l2Fill (coded : Bool) (key : Nat)
  /-- R302: A home evicts a line at a moment it chooses, writing back or codec-writing it if dirty. -/
  | lineEviction (coded : Bool) (key : Nat) (bad : Bool)
  /-- R285: Firmware writes HPART or HMASK, taken only while the die's L2 holds no line. -/
  | hashPartitionWrite (die index : Nat) (value : BitVec 64)
  /-- R322: A UBULK waiting at issue finds a free Undercroft queue entry. -/
  | undercroftQueueEntry (id : Nat)
  /-- R324: A command starts once earlier commands sharing a written row unit have completed. -/
  | undercroftStart (die index : Nat)
  /-- R323: A command has written every destination unit, dropping copies and breaking links. -/
  | undercroftComplete (die index : Nat)
  /-- R360: A transfer or collective waiting at issue obtains a collective-engine entry. -/
  | engineEntry (id : Nat)
  /-- R328: A host write of FDOOR enters the intake or is dropped. -/
  | doorbell (value : BitVec 64)
  /-- R334: The Foyer reaches a KERNEL node, checks the template and begins the launch. -/
  | kernelNode (walk : Nat)
  /-- R334: The Foyer emits a record once its target landing has space and its die is back. -/
  | kernelEmit (tag : Nat)
  /-- R334: The Foyer reads the node's join counter as zero, acquires and writes DONE. -/
  | kernelDone (tag : Nat)
  /-- R334: The Foyer starts a COPY node. -/
  | copyNode (walk : Nat)
  /-- R334: The Foyer's copy unit finishes or fails a COPY node. -/
  | copyNodeDone (walk : Nat)
  /-- R334: The Foyer evaluates a COND node and continues at EXIT or NEXT, or starts waiting. -/
  | condNode (walk : Nat)
  /-- R334: A waiting COND node re-reads its word after a write, a GSIG or 2 µs on host pages. -/
  | condReread (walk : Nat)
  /-- R334: The Foyer posts a HOSTPOST node's payload under the graph's last launch. -/
  | hostpostNode (walk : Nat)
  /-- R334: The Foyer writes GRAPHEND and the submission's completion slot. -/
  | endNode (walk : Nat)
  /-- R338: The declared ranges of a SNAPSHOT launch are copied and LAUNCH is written. -/
  | snapshotCopyDone (tag : Nat)
  /-- R338: The declared ranges are restored and the launch returns to EMIT. -/
  | restoreDone (tag : Nat)
  /-- R330: A ring's time threshold passes with slots pending and its vector is raised. -/
  | ringCtimeExpiry (ring : Nat)
  /-- R329: A host write of HRCFG; enabling a ring sets its TAIL and HEAD. -/
  | hrcfgWrite (ring : Nat) (value : BitVec 64)
  /-- R329: A host write of HRHEAD frees slots, releasing held completions. -/
  | hrheadWrite (ring : Nat) (value : BitVec 64)
  /-- R327: A host write selects the BAR2 window, ignored for bad window numbers. -/
  | w2baseWrite (value : BitVec 64)
  /-- R327: A host write of a BAR0 register with no behaviour of its own. -/
  | hostRegisterWrite (offset : Nat) (value : BitVec 64)
  /-- R327: A host read through BAR2 reaches device memory coherently, aborted in reserved ranges. -/
  | hostMemoryRead (offset : Nat)
  /-- R327: A host write through BAR2 reaches device memory coherently, discarded in reserved ranges. -/
  | hostMemoryWrite (offset size : Nat) (value : BitVec 64)
  /-- R346: Every 100 µs the governor throttles or restores pass rate and clock by the 10 ms average. -/
  | powerSample (averageWatts : Nat)
  /-- R344: The Usher answers an SPDM request with signed measurements. -/
  | spdmRequest (index : Nat) (nonce : BitVec 64)
  /-- R353: A router forwards a Concourse packet by a minimal or non-minimal port. -/
  | packetForward (index : Nat) (free : List Nat)
  /-- R353: A packet's minimal ports stay full for 1 µs and it may leave non-minimally. -/
  | nonminimalTimeout (index : Nat)
  /-- R354: A packet head waits 8 µs at a router and becomes suspect. -/
  | suspectTimeout (index : Nat)
  /-- R355: The recovery token arrives; the router moves its oldest suspect packet into the Stair or passes the token. -/
  | tokenArrival (epoch : BitVec 16)
  /-- R352: The fabric manager writes the fabric configuration, effective at the next token visit. -/
  | frcfgWrite (value : BitVec 64)
  /-- R358: A target applies a sequenced packet in SEQ order, answering duplicates and acknowledging. -/
  | packetDeliver (index : Nat)
  /-- R371: A source receives NACK and resends from that SEQ. -/
  | nackReceive (sid dest : Nat) (seq : BitVec 16)
  /-- R358: A source receives an acknowledgement, letting a stream change die. -/
  | ackReceive (sid dest : Nat) (seq : BitVec 16)
  /-- R371: A packet not acknowledged within 100 µs is resent. -/
  | resendTimeout (index : Nat)
  /-- R371: A destination silent for 1 ms becomes unreachable and its accesses fail. -/
  | unreachableTimeout (path : Nat × Nat)
  /-- R365: A collective contribution reaches the engines and is matched, declared a mismatch or answered late. -/
  | contributionArrival (index : Nat)
  /-- R366: A collective finishes, writing DST and its status and flags at every participant. -/
  | collectiveEnd (gid cseq : Nat)
  /-- R361: An FPUT or FGET finishes or ends at its lowest faulting word. -/
  | transferEnd (index : Nat)
  /-- R224: A PCI Express completion from the host arrives for a load or AtomicOp on a HOST page, finishing the lane or trapping it with ACCESS on Unsupported Request or Completer Abort. -/
  | hostCompletion (id : Nat) (ok : Bool)
  /-- R350: A fabric port's link trains, retrains at a narrower width or lower rate, or goes down, changing its bandwidth. -/
  | fabricPortTraining (port width rate : Nat) (up : Bool)
  /-- R327: The host port's link trains or falls back to x8, x4 or a lower rate, reducing bandwidth in proportion. -/
  | hostPortTraining (width rate : Nat)
  /-- R330: The host unmasks an MSI-X vector, and a message held pending for it under the PCI Express pending-bit rules is sent. -/
  | msixUnmask (vector : Nat)
  /-- R41: The ADDI s0, s0, 0 word only advances the program counter. -/
  | nop
  /-- R101: Returns from the supervisor, redispatching held VIQ entries when HELD = 1. -/
  | rets
  /-- R99: Ends the strand: waits for the VIQ and every stream, then writes the completion word and decrements the join counter. -/
  | endStrand
  /-- R97: Gives the core's issue slot to other strands for at least one cycle. -/
  | yield
  /-- R97: Parks the strand until a Newel change, engine completion, watch or 4,096 cycles. -/
  | wait
  /-- R129: Gives up the strand's bays after earlier array work has used them. -/
  | vrel
  /-- R194: Stops issue until earlier Mezzanine work and MX accesses are performed. -/
  | mxwait
  /-- R281: The Foyer receives a loss report carrying a launch tag. -/
  | lossReport
  /-- R328: An ACCEPT entry reaches both journal copies and ACCEPTED rises. -/
  | submissionAccept
  /-- R335: An accepted graph starts a walk when one frees. -/
  | graphStart
  /-- R339: The hub die resets and the Foyer rebuilds its state from the journal. -/
  | hubDieReset
  /-- R341: The Usher watchdog expires. -/
  | usherWatchdogExpiry
  /-- R343: The Usher drains, tests, scrubs, clears, rekeys and re-attests the package. -/
  | tenantTurnover
  /-- R345: The Usher boots, verifies images and runs turnover steps in bring-up mode. -/
  | powerOn
  /-- R345: A PCI Express fundamental reset resets every unit but the Usher, which runs turnover. -/
  | fundamentalReset
  /-- R355: A master router that has seen no token for two rotations sends a new epoch. -/
  | tokenRegeneration
  /-- R355: A moved packet is wholly in the Stair buffer and the token is passed on. -/
  | stairMoveComplete
  deriving DecidableEq, Repr

end Sys2Proof
end

