-- ==== Sys2Proof/WellFormed.lean ====
section
/-!
DEFINITION. The operand restrictions of the instruction words (R39, R41, R42, R49, R51-R62): a word whose fields break
one of them is not the instruction but traps with cause ILLEGAL. The decoder applies this check to every word it reads.
A restriction that depends on the machine's state (element class, group alignment, register values) is not here: it
belongs to the instruction's meaning.
-/

namespace Sys2Proof

/-- R41: an instruction whose only effect is a scalar write may not name s0. -/
def destOk (a : BitVec 5) : Bool := decide (a ≠ 0)

/-- R55, R59: AMO operations 0 to 9; for CAS (9), VD is even and not 30. -/
def vamoOk (d : BitVec 5) (o : BitVec 4) : Bool :=
  decide (o.toNat ≤ 9) && (decide (o.toNat ≠ 9) || (decide (d.toNat % 2 = 0) && decide (d.toNat ≠ 30)))

/-- R62: with REM = 0 the coordinate must be zero. -/
def remOk (x : BitVec 9) (r : BitVec 1) : Bool := decide (r ≠ 0) || decide (x = 0)

/-- R40: the guard words. -/
def isGuardWord (w : BitVec 32) : Bool := decide (w = 0) || decide (w = 0xFFFFFFFF)

/-- The table gives six control registers and the RRATE registers rows of their own; SETC is every other index (R45). -/
def plainCreg (k : BitVec 11) : Bool :=
  !(decide (k.toNat = 0) || decide (k.toNat = 1) || decide (k.toNat = 2) || decide (k.toNat = 8)
    || decide (k.toNat = 11) || decide (k.toNat = 13) || (decide (k.toNat / 512 = 2) && decide (k.toNat % 8 = 2)))

/-- The operand restrictions of every row (R39). -/
def wellFormed : Instr → Bool
  | .nop => true
  | .guard w => isGuardWord w
  | .illegalInstruction w => !isGuardWord w
  | .add a _ _ => destOk a
  | .sub a _ _ => destOk a
  | .and a _ _ => destOk a
  | .or a _ _ => destOk a
  | .xor a _ _ => destOk a
  | .sll a _ _ => destOk a
  | .srl a _ _ => destOk a
  | .sra a _ _ => destOk a
  | .slt a _ _ => destOk a
  | .sltu a _ _ => destOk a
  | .min a _ _ => destOk a
  | .max a _ _ => destOk a
  | .minu a _ _ => destOk a
  | .maxu a _ _ => destOk a
  | .mul a _ _ => destOk a
  | .mulh a _ _ => destOk a
  | .mulhu a _ _ => destOk a
  | .div a _ _ => destOk a
  | .divu a _ _ => destOk a
  | .rem a _ _ => destOk a
  | .remu a _ _ => destOk a
  | .clz a _ => destOk a
  | .ctz a _ => destOk a
  | .popc a _ => destOk a
  | .sextw a _ => destOk a
  | .zextw a _ => destOk a
  | .addsc a _ _ _ => destOk a
  | .addi a _ _ => destOk a
  | .andi a _ _ => destOk a
  | .ori a _ _ => destOk a
  | .xori a _ _ => destOk a
  | .slti a _ _ => destOk a
  | .sltiu a _ _ => destOk a
  | .slli a _ _ => destOk a
  | .srli a _ _ => destOk a
  | .srai a _ _ => destOk a
  | .lih a _ _ => destOk a
  | .lihZ a _ _ => destOk a
  | .bext a _ p l => destOk a && decide (p.toNat + l.toNat < 64)
  | .bins a _ p l => destOk a && decide (p.toNat + l.toNat < 64)
  | .ldb a _ _ => destOk a
  | .ldh a _ _ => destOk a
  | .ldw a _ _ => destOk a
  | .ldd a _ _ => destOk a
  | .ldbu a _ _ => destOk a
  | .ldhu a _ _ => destOk a
  | .ldwu a _ _ => destOk a
  | .pref _ _ _ => true
  | .stb _ _ _ => true
  | .sth _ _ _ => true
  | .stw _ _ _ => true
  | .std _ _ _ => true
  | .ldt a _ _ => destOk a
  | .stt _ _ _ => true
  | .fadd a _ _ _ => destOk a
  | .fsub a _ _ _ => destOk a
  | .fmul a _ _ _ => destOk a
  | .fdiv a _ _ _ => destOk a
  | .fsqrt a _ _ => destOk a
  | .fma a _ _ _ => destOk a
  | .fmin a _ _ _ => destOk a
  | .fmax a _ _ _ => destOk a
  | .feq a _ _ _ => destOk a
  | .flt a _ _ _ => destOk a
  | .fle a _ _ _ => destOk a
  | .fclass a _ _ => destOk a
  | .fcvtDS a _ => destOk a
  | .fcvtSD a _ => destOk a
  | .fcvtSL a _ => destOk a
  | .fcvtDL a _ => destOk a
  | .fcvtLS a _ => destOk a
  | .fcvtLD a _ => destOk a
  | .fcvtSLu a _ => destOk a
  | .fcvtDLu a _ => destOk a
  | .fcvtLuS a _ => destOk a
  | .fcvtLuD a _ => destOk a
  | .beq _ _ _ => true
  | .bne _ _ _ => true
  | .blt _ _ _ => true
  | .bge _ _ _ => true
  | .bltu _ _ _ => true
  | .bgeu _ _ _ => true
  | .beng e _ _ _ => decide (e.toNat ≤ 6)
  | .jal _ => true
  | .jalr _ _ _ => true
  | .svc _ => true
  | .rets => true
  | .brk _ => true
  | .getc a _ => destOk a
  | .setc _ k => plainCreg k
  | .setcStatus _ => true
  | .setcSflags _ => true
  | .setcVcfg _ => true
  | .setcMxcfg _ => true
  | .setcVresume _ => true
  | .setcChainsrc _ => true
  | .setcRrate _ _ => true
  | .regionDrainDone _ => true
  | .endStrand => true
  | .yield => true
  | .wait => true
  | .vacq k => decide (1 ≤ k.toNat ∧ k.toNat ≤ 4)
  | .vrel => true
  | .sbarAcquire _ _ s => decide (s.toNat ≤ 5)
  | .sbarRelease _ _ s => decide (s.toNat ≤ 5)
  | .sbarFull _ _ s => decide (s.toNat ≤ 5)
  | .ldl _ _ _ _ => true
  | .stc _ _ _ _ _ => true
  | .amoAdd _ _ _ _ _ => true
  | .amoMin _ _ _ _ _ => true
  | .amoMax _ _ _ _ _ => true
  | .amoMinu _ _ _ _ _ => true
  | .amoMaxu _ _ _ _ _ => true
  | .amoAnd _ _ _ _ _ => true
  | .amoOr _ _ _ _ _ => true
  | .amoXor _ _ _ _ _ => true
  | .amoSwap _ _ _ _ _ => true
  | .amoCas _ _ _ _ _ => true
  | .vsetcfg _ _ => true
  | .vbegin _ _ => true
  | .vnext _ _ => true
  | .vadd _ _ _ _ _ => true
  | .vaddS _ _ _ _ _ => true
  | .vsub _ _ _ _ _ => true
  | .vsubS _ _ _ _ _ => true
  | .vrsub _ _ _ _ _ => true
  | .vrsubS _ _ _ _ _ => true
  | .vmul _ _ _ _ _ => true
  | .vmulS _ _ _ _ _ => true
  | .vmulh _ _ _ _ _ => true
  | .vmulhS _ _ _ _ _ => true
  | .vmulhu _ _ _ _ _ => true
  | .vmulhuS _ _ _ _ _ => true
  | .vdiv _ _ _ _ _ => true
  | .vdivS _ _ _ _ _ => true
  | .vdivu _ _ _ _ _ => true
  | .vdivuS _ _ _ _ _ => true
  | .vrem _ _ _ _ _ => true
  | .vremS _ _ _ _ _ => true
  | .vremu _ _ _ _ _ => true
  | .vremuS _ _ _ _ _ => true
  | .vand _ _ _ _ _ => true
  | .vandS _ _ _ _ _ => true
  | .vor _ _ _ _ _ => true
  | .vorS _ _ _ _ _ => true
  | .vxor _ _ _ _ _ => true
  | .vxorS _ _ _ _ _ => true
  | .vnot _ _ _ _ => true
  | .vsll _ _ _ _ _ => true
  | .vsllS _ _ _ _ _ => true
  | .vsrl _ _ _ _ _ => true
  | .vsrlS _ _ _ _ _ => true
  | .vsra _ _ _ _ _ => true
  | .vsraS _ _ _ _ _ => true
  | .vmin _ _ _ _ _ => true
  | .vminS _ _ _ _ _ => true
  | .vmax _ _ _ _ _ => true
  | .vmaxS _ _ _ _ _ => true
  | .vminu _ _ _ _ _ => true
  | .vminuS _ _ _ _ _ => true
  | .vmaxu _ _ _ _ _ => true
  | .vmaxuS _ _ _ _ _ => true
  | .vneg _ _ _ _ => true
  | .vsadd _ _ _ _ _ => true
  | .vsaddS _ _ _ _ _ => true
  | .vssub _ _ _ _ _ => true
  | .vssubS _ _ _ _ _ => true
  | .vsaddu _ _ _ _ _ => true
  | .vsadduS _ _ _ _ _ => true
  | .vssubu _ _ _ _ _ => true
  | .vssubuS _ _ _ _ _ => true
  | .vmadd _ _ _ _ _ => true
  | .vmaddS _ _ _ _ _ => true
  | .vclz _ _ _ _ => true
  | .vpopc _ _ _ _ => true
  | .vwadd _ _ _ _ _ => true
  | .vwaddS _ _ _ _ _ => true
  | .vwmul _ _ _ _ _ => true
  | .vwmulS _ _ _ _ _ => true
  | .vnsrl _ _ _ _ _ => true
  | .vnsrlS _ _ _ _ _ => true
  | .vnclip _ _ _ _ _ => true
  | .vnclipS _ _ _ _ _ => true
  | .vfieldS _ _ _ _ _ => true
  | .vfadd _ _ _ _ _ => true
  | .vfaddS _ _ _ _ _ => true
  | .vfsub _ _ _ _ _ => true
  | .vfsubS _ _ _ _ _ => true
  | .vfmul _ _ _ _ _ => true
  | .vfmulS _ _ _ _ _ => true
  | .vfdiv _ _ _ _ _ => true
  | .vfdivS _ _ _ _ _ => true
  | .vfsqrt _ _ _ _ => true
  | .vfma _ _ _ _ _ => true
  | .vfmaS _ _ _ _ _ => true
  | .vfmin _ _ _ _ _ => true
  | .vfminS _ _ _ _ _ => true
  | .vfmax _ _ _ _ _ => true
  | .vfmaxS _ _ _ _ _ => true
  | .vfcvt _ _ s _ _ => decide (s.toNat % 16 ≠ 15)
  | .vfclass _ _ _ _ => true
  | .vlog2 _ _ _ _ => true
  | .vexp2 _ _ _ _ => true
  | .vcmpeq _ _ _ _ _ => true
  | .vcmpeqS _ _ _ _ _ => true
  | .vcmpne _ _ _ _ _ => true
  | .vcmpneS _ _ _ _ _ => true
  | .vcmplt _ _ _ _ _ => true
  | .vcmpltS _ _ _ _ _ => true
  | .vcmpltu _ _ _ _ _ => true
  | .vcmpltuS _ _ _ _ _ => true
  | .vcmple _ _ _ _ _ => true
  | .vcmpleS _ _ _ _ _ => true
  | .vcmpleu _ _ _ _ _ => true
  | .vcmpleuS _ _ _ _ _ => true
  | .vfcmpeq _ _ _ _ _ => true
  | .vfcmpeqS _ _ _ _ _ => true
  | .vfcmplt _ _ _ _ _ => true
  | .vfcmpltS _ _ _ _ _ => true
  | .vfcmple _ _ _ _ _ => true
  | .vfcmpleS _ _ _ _ _ => true
  | .mand _ _ _ => true
  | .mor _ _ _ => true
  | .mxor _ _ _ => true
  | .mandn _ _ _ => true
  | .mnot _ _ => true
  | .msbf _ _ _ _ => true
  | .msif _ _ _ _ => true
  | .mfirst d _ _ _ => destOk d
  | .mcount d _ _ _ => destOk d
  | .viota _ _ _ _ => true
  | .vsrch _ _ _ _ _ => true
  | .vsrchr _ _ _ _ _ => true
  | .vtwr _ _ _ => true
  | .vhamm _ _ _ _ _ => true
  | .vtopkMax _ _ _ _ _ => true
  | .vtopkMin _ _ _ _ _ => true
  | .vredsum d _ _ _ => destOk d
  | .vredmax d _ _ _ => destOk d
  | .vredmin d _ _ _ => destOk d
  | .vredmaxu d _ _ _ => destOk d
  | .vredminu d _ _ _ => destOk d
  | .vredand d _ _ _ => destOk d
  | .vredor d _ _ _ => destOk d
  | .vredxor d _ _ _ => destOk d
  | .vfredsum d _ _ _ => destOk d
  | .vmaxi _ _ _ _ => true
  | .vmini _ _ _ _ => true
  | .vgathr _ _ _ _ _ => true
  | .vshup _ _ _ _ _ => true
  | .vshdn _ _ _ _ _ => true
  | .vbcst _ _ _ _ _ => true
  | .vext d _ _ => destOk d
  | .vins _ _ _ => true
  | .vcomp _ _ _ => true
  | .vbperm _ _ _ _ _ => true
  | .vmv _ _ _ _ => true
  | .vmvi _ _ _ _ => true
  | .vmerge _ _ _ _ => true
  | .vid _ _ _ => true
  | .vld _ _ _ _ _ _ => true
  | .vlds _ _ _ _ _ _ _ => true
  | .vldx _ _ _ _ _ _ => true
  | .vldff _ _ _ _ _ _ => true
  | .vst _ _ _ _ _ _ => true
  | .vsts _ _ _ _ _ _ _ => true
  | .vstx _ _ _ _ _ _ => true
  | .vstxo _ _ _ _ _ _ => true
  | .vappend _ _ _ _ _ _ => true
  | .vldl _ _ _ _ _ _ => true
  | .vstc _ _ _ _ _ _ _ => true
  | .vamo d _ _ _ _ _ o => vamoOk d o
  | .vamoAcq d _ _ _ _ _ o => vamoOk d o
  | .vamoRel d _ _ _ _ _ o => vamoOk d o
  | .vamoAr d _ _ _ _ _ o => vamoOk d o
  | .vwaitm _ _ _ _ _ _ _ _ => true
  | .vsclset _ _ _ => true
  | .vbscale _ _ _ => true
  | .vquant _ _ _ _ => true
  | .vdeq _ _ _ _ => true
  | .vcbld _ _ => true
  | .vcbx _ _ _ _ _ => true
  | .vcvtl _ _ _ _ => true
  | .mxcfg _ => true
  | .mxtld _ _ => true
  | .mxtsel _ => true
  | .mxr _ _ => true
  | .mxdrn _ _ => true
  | .mxdrs _ _ => true
  | .mxclr _ => true
  | .mxfclr t f => decide (t.toNat + f.toNat ≠ 0)
  | .mxwait => true
  | .cpy _ _ _ _ => true
  | .cpy2d _ _ _ _ => true
  | .cpyg _ _ _ _ => true
  | .cpyf _ _ _ _ => true
  | .cpyres _ _ _ => true
  | .seminc _ _ x r => remOk x r
  | .semset _ _ x r => remOk x r
  | .semwait _ _ => true
  | .semrd a _ x r => destOk a && remOk x r
  | .barinit _ _ x r => remOk x r
  | .bararr _ _ x r => remOk x r
  | .barwait _ _ => true
  | .vsend _ _ => true
  | .vchain _ _ => true
  | .spawn _ _ => true
  | .spawnc _ _ _ => true
  | .jdec _ _ => true
  | .lread a _ => destOk a
  | .cflush _ _ => true
  | .cinv _ _ => true
  | .cpref _ _ => true
  | .tlbinv _ _ s => decide (s.toNat ≤ 4)
  | .ubulkZero a _ => decide (a.toNat ≠ 0)
  | .ubulkCopy a b => decide (a.toNat ≠ 0) && decide (b.toNat ≠ 0)
  | .ubulkAnd a b => decide (a.toNat ≠ 0) && decide (b.toNat ≠ 0)
  | .ubulkOr a b => decide (a.toNat ≠ 0) && decide (b.toNat ≠ 0)
  | .ubulkMaj3 a b => decide (a.toNat ≠ 0) && decide (b.toNat ≠ 0)
  | .ubulkNot a b => decide (a.toNat ≠ 0) && decide (b.toNat ≠ 0)
  | .uwait _ => true
  | .hpost _ _ _ => true
  | .gsig _ _ => true
  | .collAllreduce _ _ => true
  | .collRedscat _ _ => true
  | .collAllgath _ _ => true
  | .collBcast _ _ => true
  | .collw _ _ => true
  | .fput a _ => decide (a.toNat ≠ 0)
  | .fget a _ => decide (a.toNat ≠ 0)
  | .arrayTrap _ _ _ _ => true
  | .resultQueueReturn _ => true
  | .recordPop _ => true
  | .resumeRecordPop _ => true
  | .parkWake _ => true
  | .watchdog _ => true
  | .waitTimeout _ => true
  | .bayGrant _ => true
  | .mezzanineClaim _ => true
  | .mxFifoWaitEnd _ => true
  | .sequencerSelect _ => true
  | .priorityPreemption _ _ => true
  | .sharePreemption _ _ => true
  | .preemptionTaken _ => true
  | .preemptForceLimit _ => true
  | .linkDeferLimit _ => true
  | .contextSaveComplete _ => true
  | .endDrain _ => true
  | .rowRetirement _ _ _ => true
  | .usherScrub _ _ => true
  | .copyQueueEntry _ => true
  | .copyStart _ _ => true
  | .fifoDelivery _ _ => true
  | .copyComplete _ _ => true
  | .copyHalt _ _ => true
  | .chainMessageArrival _ => true
  | .portSpaceFree _ => true
  | .spillRefill _ _ => true
  | .counterReread _ _ => true
  | .hostPoll _ => true
  | .lossReport => true
  | .coreDisable _ => true
  | .dieReset _ => true
  | .dieBack _ _ => true
  | .l2Fill _ _ => true
  | .lineEviction _ _ _ => true
  | .hashPartitionWrite _ _ _ => true
  | .undercroftQueueEntry _ => true
  | .undercroftStart _ _ => true
  | .undercroftComplete _ _ => true
  | .engineEntry _ => true
  | .doorbell _ => true
  | .submissionAccept => true
  | .graphStart => true
  | .kernelNode _ => true
  | .kernelEmit _ => true
  | .kernelDone _ => true
  | .copyNode _ => true
  | .copyNodeDone _ => true
  | .condNode _ => true
  | .condReread _ => true
  | .hostpostNode _ => true
  | .endNode _ => true
  | .snapshotCopyDone _ => true
  | .restoreDone _ => true
  | .hubDieReset => true
  | .ringCtimeExpiry _ => true
  | .hrcfgWrite _ _ => true
  | .hrheadWrite _ _ => true
  | .w2baseWrite _ => true
  | .hostRegisterWrite _ _ => true
  | .hostMemoryRead _ => true
  | .hostMemoryWrite _ _ _ => true
  | .usherWatchdogExpiry => true
  | .tenantTurnover => true
  | .powerOn => true
  | .fundamentalReset => true
  | .powerSample _ => true
  | .spdmRequest _ _ => true
  | .packetForward _ _ => true
  | .nonminimalTimeout _ => true
  | .suspectTimeout _ => true
  | .tokenArrival _ => true
  | .tokenRegeneration => true
  | .stairMoveComplete => true
  | .frcfgWrite _ => true
  | .packetDeliver _ => true
  | .nackReceive _ _ _ => true
  | .ackReceive _ _ _ => true
  | .resendTimeout _ => true
  | .unreachableTimeout _ => true
  | .contributionArrival _ => true
  | .collectiveEnd _ _ => true
  | .transferEnd _ => true
  | .hostCompletion _ _ => true
  | .fabricPortTraining _ _ _ _ => true
  | .hostPortTraining _ _ => true
  | .msixUnmask _ => true

end Sys2Proof
end

