-- ==== Sys2Proof/Decode.lean ====
section
/-!
DEFINITION. Decoding (R36-R62) and, after it, encoding. Bit ranges are taken from the word as a natural number, so that
each field is a quotient and a remainder. Every 32-bit word has a fate (R36): an instruction, a guard word (R40) or an
illegal word (R39). Fewer than four bytes are no word, and the byte decoder says so by name.
-/

namespace Sys2Proof

/-- Bits [lo + n - 1 : lo] of a word. -/
def bitsAt (w lo n : Nat) : Nat := w / 2 ^ lo % 2 ^ n

/-- The same bits as a field of an instruction. -/
def fieldAt (w lo n : Nat) : BitVec n := BitVec.ofNat n (bitsAt w lo n)

/-- Words of major 0x01 (Alu), selectors and zero fields as R47-R62 give them. -/
def decodeAlu (w : Nat) : Option Instr :=
  match bitsAt w 0 11 with
  | 0 =>
    some (.add (fieldAt w 21 5) (fieldAt w 16 5) (fieldAt w 11 5))
  | 1 =>
    some (.sub (fieldAt w 21 5) (fieldAt w 16 5) (fieldAt w 11 5))
  | 2 =>
    some (.and (fieldAt w 21 5) (fieldAt w 16 5) (fieldAt w 11 5))
  | 3 =>
    some (.or (fieldAt w 21 5) (fieldAt w 16 5) (fieldAt w 11 5))
  | 4 =>
    some (.xor (fieldAt w 21 5) (fieldAt w 16 5) (fieldAt w 11 5))
  | 5 =>
    some (.sll (fieldAt w 21 5) (fieldAt w 16 5) (fieldAt w 11 5))
  | 6 =>
    some (.srl (fieldAt w 21 5) (fieldAt w 16 5) (fieldAt w 11 5))
  | 7 =>
    some (.sra (fieldAt w 21 5) (fieldAt w 16 5) (fieldAt w 11 5))
  | 8 =>
    some (.slt (fieldAt w 21 5) (fieldAt w 16 5) (fieldAt w 11 5))
  | 9 =>
    some (.sltu (fieldAt w 21 5) (fieldAt w 16 5) (fieldAt w 11 5))
  | 10 =>
    some (.min (fieldAt w 21 5) (fieldAt w 16 5) (fieldAt w 11 5))
  | 11 =>
    some (.max (fieldAt w 21 5) (fieldAt w 16 5) (fieldAt w 11 5))
  | 12 =>
    some (.minu (fieldAt w 21 5) (fieldAt w 16 5) (fieldAt w 11 5))
  | 13 =>
    some (.maxu (fieldAt w 21 5) (fieldAt w 16 5) (fieldAt w 11 5))
  | 16 =>
    some (.mul (fieldAt w 21 5) (fieldAt w 16 5) (fieldAt w 11 5))
  | 17 =>
    some (.mulh (fieldAt w 21 5) (fieldAt w 16 5) (fieldAt w 11 5))
  | 18 =>
    some (.mulhu (fieldAt w 21 5) (fieldAt w 16 5) (fieldAt w 11 5))
  | 20 =>
    some (.div (fieldAt w 21 5) (fieldAt w 16 5) (fieldAt w 11 5))
  | 21 =>
    some (.divu (fieldAt w 21 5) (fieldAt w 16 5) (fieldAt w 11 5))
  | 22 =>
    some (.rem (fieldAt w 21 5) (fieldAt w 16 5) (fieldAt w 11 5))
  | 23 =>
    some (.remu (fieldAt w 21 5) (fieldAt w 16 5) (fieldAt w 11 5))
  | 24 =>
    if bitsAt w 11 5 = 0 then some (.clz (fieldAt w 21 5) (fieldAt w 16 5)) else
    none
  | 25 =>
    if bitsAt w 11 5 = 0 then some (.ctz (fieldAt w 21 5) (fieldAt w 16 5)) else
    none
  | 26 =>
    if bitsAt w 11 5 = 0 then some (.popc (fieldAt w 21 5) (fieldAt w 16 5)) else
    none
  | 27 =>
    if bitsAt w 11 5 = 0 then some (.sextw (fieldAt w 21 5) (fieldAt w 16 5)) else
    none
  | 28 =>
    if bitsAt w 11 5 = 0 then some (.zextw (fieldAt w 21 5) (fieldAt w 16 5)) else
    none
  | 32 =>
    some (.addsc (fieldAt w 21 5) (fieldAt w 16 5) (fieldAt w 11 5) (fieldAt w 0 2))
  | 33 =>
    some (.addsc (fieldAt w 21 5) (fieldAt w 16 5) (fieldAt w 11 5) (fieldAt w 0 2))
  | 34 =>
    some (.addsc (fieldAt w 21 5) (fieldAt w 16 5) (fieldAt w 11 5) (fieldAt w 0 2))
  | 35 =>
    some (.addsc (fieldAt w 21 5) (fieldAt w 16 5) (fieldAt w 11 5) (fieldAt w 0 2))
  | _ => none

/-- Words of major 0x02 (Addi), selectors and zero fields as R47-R62 give them. -/
def decodeAddi (w : Nat) : Option Instr :=
  if bitsAt w 0 26 = 0 then some (.nop) else
  some (.addi (fieldAt w 21 5) (fieldAt w 16 5) (fieldAt w 0 16))

/-- Words of major 0x03 (Andi), selectors and zero fields as R47-R62 give them. -/
def decodeAndi (w : Nat) : Option Instr :=
  some (.andi (fieldAt w 21 5) (fieldAt w 16 5) (fieldAt w 0 16))

/-- Words of major 0x04 (Ori), selectors and zero fields as R47-R62 give them. -/
def decodeOri (w : Nat) : Option Instr :=
  some (.ori (fieldAt w 21 5) (fieldAt w 16 5) (fieldAt w 0 16))

/-- Words of major 0x05 (Xori), selectors and zero fields as R47-R62 give them. -/
def decodeXori (w : Nat) : Option Instr :=
  some (.xori (fieldAt w 21 5) (fieldAt w 16 5) (fieldAt w 0 16))

/-- Words of major 0x06 (SetLess), selectors and zero fields as R47-R62 give them. -/
def decodeSetLess (w : Nat) : Option Instr :=
  match bitsAt w 11 5 with
  | 0 =>
    some (.slti (fieldAt w 21 5) (fieldAt w 16 5) (fieldAt w 0 11))
  | 1 =>
    some (.sltiu (fieldAt w 21 5) (fieldAt w 16 5) (fieldAt w 0 11))
  | _ => none

/-- Words of major 0x07 (ShiftImm), selectors and zero fields as R47-R62 give them. -/
def decodeShiftImm (w : Nat) : Option Instr :=
  match bitsAt w 11 5 with
  | 0 =>
    if bitsAt w 6 5 = 0 then some (.slli (fieldAt w 21 5) (fieldAt w 16 5) (fieldAt w 0 6)) else
    none
  | 1 =>
    if bitsAt w 6 5 = 0 then some (.srli (fieldAt w 21 5) (fieldAt w 16 5) (fieldAt w 0 6)) else
    none
  | 2 =>
    if bitsAt w 6 5 = 0 then some (.srai (fieldAt w 21 5) (fieldAt w 16 5) (fieldAt w 0 6)) else
    none
  | _ => none

/-- Words of major 0x08 (Lih), selectors and zero fields as R47-R62 give them. -/
def decodeLih (w : Nat) : Option Instr :=
  match bitsAt w 18 1 with
  | 0 =>
    if bitsAt w 19 2 = 0 then some (.lih (fieldAt w 21 5) (fieldAt w 16 2) (fieldAt w 0 16)) else
    none
  | 1 =>
    if bitsAt w 19 2 = 0 then some (.lihZ (fieldAt w 21 5) (fieldAt w 16 2) (fieldAt w 0 16)) else
    none
  | _ => none

/-- Words of major 0x09 (BitField), selectors and zero fields as R47-R62 give them. -/
def decodeBitField (w : Nat) : Option Instr :=
  match bitsAt w 12 4 with
  | 0 =>
    some (.bext (fieldAt w 21 5) (fieldAt w 16 5) (fieldAt w 6 6) (fieldAt w 0 6))
  | 1 =>
    some (.bins (fieldAt w 21 5) (fieldAt w 16 5) (fieldAt w 6 6) (fieldAt w 0 6))
  | _ => none

/-- Words of major 0x0A (Load), selectors and zero fields as R47-R62 give them. -/
def decodeLoad (w : Nat) : Option Instr :=
  match bitsAt w 13 3 with
  | 0 =>
    some (.ldb (fieldAt w 21 5) (fieldAt w 16 5) (fieldAt w 0 13))
  | 1 =>
    some (.ldh (fieldAt w 21 5) (fieldAt w 16 5) (fieldAt w 0 13))
  | 2 =>
    some (.ldw (fieldAt w 21 5) (fieldAt w 16 5) (fieldAt w 0 13))
  | 3 =>
    some (.ldd (fieldAt w 21 5) (fieldAt w 16 5) (fieldAt w 0 13))
  | 4 =>
    some (.ldbu (fieldAt w 21 5) (fieldAt w 16 5) (fieldAt w 0 13))
  | 5 =>
    some (.ldhu (fieldAt w 21 5) (fieldAt w 16 5) (fieldAt w 0 13))
  | 6 =>
    some (.ldwu (fieldAt w 21 5) (fieldAt w 16 5) (fieldAt w 0 13))
  | 7 =>
    if bitsAt w 22 4 = 0 then some (.pref (fieldAt w 21 1) (fieldAt w 16 5) (fieldAt w 0 13)) else
    none
  | _ => none

/-- Words of major 0x0C (Store), selectors and zero fields as R47-R62 give them. -/
def decodeStore (w : Nat) : Option Instr :=
  match bitsAt w 13 3 with
  | 0 =>
    some (.stb (fieldAt w 21 5) (fieldAt w 16 5) (fieldAt w 0 13))
  | 1 =>
    some (.sth (fieldAt w 21 5) (fieldAt w 16 5) (fieldAt w 0 13))
  | 2 =>
    some (.stw (fieldAt w 21 5) (fieldAt w 16 5) (fieldAt w 0 13))
  | 3 =>
    some (.std (fieldAt w 21 5) (fieldAt w 16 5) (fieldAt w 0 13))
  | _ => none

/-- Words of major 0x0D (Tcm), selectors and zero fields as R47-R62 give them. -/
def decodeTcm (w : Nat) : Option Instr :=
  match bitsAt w 13 3 with
  | 0 =>
    some (.ldt (fieldAt w 21 5) (fieldAt w 16 5) (fieldAt w 0 13))
  | 1 =>
    some (.stt (fieldAt w 21 5) (fieldAt w 16 5) (fieldAt w 0 13))
  | _ => none

/-- Words of major 0x0E (Float), selectors and zero fields as R47-R62 give them. -/
def decodeFloat (w : Nat) : Option Instr :=
  match bitsAt w 4 7 with
  | 0 =>
    if bitsAt w 0 3 = 0 then some (.fadd (fieldAt w 21 5) (fieldAt w 16 5) (fieldAt w 11 5) (fieldAt w 3 1)) else
    none
  | 1 =>
    if bitsAt w 0 3 = 0 then some (.fsub (fieldAt w 21 5) (fieldAt w 16 5) (fieldAt w 11 5) (fieldAt w 3 1)) else
    none
  | 2 =>
    if bitsAt w 0 3 = 0 then some (.fmul (fieldAt w 21 5) (fieldAt w 16 5) (fieldAt w 11 5) (fieldAt w 3 1)) else
    none
  | 3 =>
    if bitsAt w 0 3 = 0 then some (.fdiv (fieldAt w 21 5) (fieldAt w 16 5) (fieldAt w 11 5) (fieldAt w 3 1)) else
    none
  | 4 =>
    if bitsAt w 11 5 = 0 ∧ bitsAt w 0 3 = 0 then some (.fsqrt (fieldAt w 21 5) (fieldAt w 16 5) (fieldAt w 3 1)) else
    none
  | 5 =>
    if bitsAt w 0 3 = 0 then some (.fma (fieldAt w 21 5) (fieldAt w 16 5) (fieldAt w 11 5) (fieldAt w 3 1)) else
    none
  | 6 =>
    if bitsAt w 0 3 = 0 then some (.fmin (fieldAt w 21 5) (fieldAt w 16 5) (fieldAt w 11 5) (fieldAt w 3 1)) else
    none
  | 7 =>
    if bitsAt w 0 3 = 0 then some (.fmax (fieldAt w 21 5) (fieldAt w 16 5) (fieldAt w 11 5) (fieldAt w 3 1)) else
    none
  | 8 =>
    if bitsAt w 0 3 = 0 then some (.feq (fieldAt w 21 5) (fieldAt w 16 5) (fieldAt w 11 5) (fieldAt w 3 1)) else
    none
  | 9 =>
    if bitsAt w 0 3 = 0 then some (.flt (fieldAt w 21 5) (fieldAt w 16 5) (fieldAt w 11 5) (fieldAt w 3 1)) else
    none
  | 10 =>
    if bitsAt w 0 3 = 0 then some (.fle (fieldAt w 21 5) (fieldAt w 16 5) (fieldAt w 11 5) (fieldAt w 3 1)) else
    none
  | 11 =>
    if bitsAt w 11 5 = 0 ∧ bitsAt w 0 3 = 0 then some (.fclass (fieldAt w 21 5) (fieldAt w 16 5) (fieldAt w 3 1)) else
    none
  | 12 =>
    if bitsAt w 11 5 = 0 ∧ bitsAt w 0 4 = 0 then some (.fcvtDS (fieldAt w 21 5) (fieldAt w 16 5)) else
    if bitsAt w 11 5 = 1 ∧ bitsAt w 0 4 = 0 then some (.fcvtSD (fieldAt w 21 5) (fieldAt w 16 5)) else
    if bitsAt w 11 5 = 2 ∧ bitsAt w 0 4 = 0 then some (.fcvtSL (fieldAt w 21 5) (fieldAt w 16 5)) else
    if bitsAt w 11 5 = 3 ∧ bitsAt w 0 4 = 0 then some (.fcvtDL (fieldAt w 21 5) (fieldAt w 16 5)) else
    if bitsAt w 11 5 = 4 ∧ bitsAt w 0 4 = 0 then some (.fcvtLS (fieldAt w 21 5) (fieldAt w 16 5)) else
    if bitsAt w 11 5 = 5 ∧ bitsAt w 0 4 = 0 then some (.fcvtLD (fieldAt w 21 5) (fieldAt w 16 5)) else
    if bitsAt w 11 5 = 6 ∧ bitsAt w 0 4 = 0 then some (.fcvtSLu (fieldAt w 21 5) (fieldAt w 16 5)) else
    if bitsAt w 11 5 = 7 ∧ bitsAt w 0 4 = 0 then some (.fcvtDLu (fieldAt w 21 5) (fieldAt w 16 5)) else
    if bitsAt w 11 5 = 8 ∧ bitsAt w 0 4 = 0 then some (.fcvtLuS (fieldAt w 21 5) (fieldAt w 16 5)) else
    if bitsAt w 11 5 = 9 ∧ bitsAt w 0 4 = 0 then some (.fcvtLuD (fieldAt w 21 5) (fieldAt w 16 5)) else
    none
  | _ => none

/-- Words of major 0x10 (Beq), selectors and zero fields as R47-R62 give them. -/
def decodeBeq (w : Nat) : Option Instr :=
  some (.beq (fieldAt w 21 5) (fieldAt w 16 5) (fieldAt w 0 16))

/-- Words of major 0x11 (Bne), selectors and zero fields as R47-R62 give them. -/
def decodeBne (w : Nat) : Option Instr :=
  some (.bne (fieldAt w 21 5) (fieldAt w 16 5) (fieldAt w 0 16))

/-- Words of major 0x12 (Blt), selectors and zero fields as R47-R62 give them. -/
def decodeBlt (w : Nat) : Option Instr :=
  some (.blt (fieldAt w 21 5) (fieldAt w 16 5) (fieldAt w 0 16))

/-- Words of major 0x13 (Bge), selectors and zero fields as R47-R62 give them. -/
def decodeBge (w : Nat) : Option Instr :=
  some (.bge (fieldAt w 21 5) (fieldAt w 16 5) (fieldAt w 0 16))

/-- Words of major 0x14 (Bltu), selectors and zero fields as R47-R62 give them. -/
def decodeBltu (w : Nat) : Option Instr :=
  some (.bltu (fieldAt w 21 5) (fieldAt w 16 5) (fieldAt w 0 16))

/-- Words of major 0x15 (Bgeu), selectors and zero fields as R47-R62 give them. -/
def decodeBgeu (w : Nat) : Option Instr :=
  some (.bgeu (fieldAt w 21 5) (fieldAt w 16 5) (fieldAt w 0 16))

/-- Words of major 0x16 (Beng), selectors and zero fields as R47-R62 give them. -/
def decodeBeng (w : Nat) : Option Instr :=
  some (.beng (fieldAt w 21 5) (fieldAt w 20 1) (fieldAt w 16 4) (fieldAt w 0 16))

/-- Words of major 0x17 (Jal), selectors and zero fields as R47-R62 give them. -/
def decodeJal (w : Nat) : Option Instr :=
  some (.jal (fieldAt w 0 26))

/-- Words of major 0x18 (Jalr), selectors and zero fields as R47-R62 give them. -/
def decodeJalr (w : Nat) : Option Instr :=
  some (.jalr (fieldAt w 21 5) (fieldAt w 16 5) (fieldAt w 0 16))

/-- Words of major 0x19 (System), selectors and zero fields as R47-R62 give them. -/
def decodeSystem (w : Nat) : Option Instr :=
  match bitsAt w 11 5 with
  | 0 =>
    if bitsAt w 16 10 = 0 then some (.svc (fieldAt w 0 11)) else
    none
  | 1 =>
    if bitsAt w 16 10 = 0 ∧ bitsAt w 0 11 = 0 then some (.rets) else
    none
  | 2 =>
    if bitsAt w 16 10 = 0 then some (.brk (fieldAt w 0 11)) else
    none
  | 3 =>
    if bitsAt w 16 5 = 0 then some (.getc (fieldAt w 21 5) (fieldAt w 0 11)) else
    none
  | 4 =>
    if bitsAt w 21 5 = 0 ∧ bitsAt w 0 11 = 0 then some (.setcStatus (fieldAt w 16 5)) else
    if bitsAt w 21 5 = 0 ∧ bitsAt w 0 11 = 1 then some (.setcSflags (fieldAt w 16 5)) else
    if bitsAt w 21 5 = 0 ∧ bitsAt w 0 11 = 2 then some (.setcVcfg (fieldAt w 16 5)) else
    if bitsAt w 21 5 = 0 ∧ bitsAt w 0 11 = 8 then some (.setcMxcfg (fieldAt w 16 5)) else
    if bitsAt w 21 5 = 0 ∧ bitsAt w 0 11 = 11 then some (.setcVresume (fieldAt w 16 5)) else
    if bitsAt w 21 5 = 0 ∧ bitsAt w 0 11 = 13 then some (.setcChainsrc (fieldAt w 16 5)) else
    if bitsAt w 21 5 = 0 ∧ bitsAt w 9 2 = 2 ∧ bitsAt w 0 3 = 2 then some (.setcRrate (fieldAt w 16 5) (fieldAt w 3 6)) else
    if bitsAt w 21 5 = 0 then some (.setc (fieldAt w 16 5) (fieldAt w 0 11)) else
    none
  | 5 =>
    if bitsAt w 16 10 = 0 ∧ bitsAt w 0 11 = 0 then some (.endStrand) else
    none
  | 6 =>
    if bitsAt w 16 10 = 0 ∧ bitsAt w 0 11 = 0 then some (.yield) else
    none
  | 7 =>
    if bitsAt w 16 10 = 0 ∧ bitsAt w 0 11 = 0 then some (.wait) else
    none
  | 8 =>
    if bitsAt w 16 10 = 0 ∧ bitsAt w 3 8 = 0 then some (.vacq (fieldAt w 0 3)) else
    none
  | 9 =>
    if bitsAt w 16 10 = 0 ∧ bitsAt w 0 11 = 0 then some (.vrel) else
    none
  | _ => none

/-- Words of major 0x1A (Sbar), selectors and zero fields as R47-R62 give them. -/
def decodeSbar (w : Nat) : Option Instr :=
  match bitsAt w 11 2 with
  | 0 =>
    if bitsAt w 0 11 = 0 then some (.sbarAcquire (fieldAt w 21 5) (fieldAt w 16 5) (fieldAt w 13 3)) else
    none
  | 1 =>
    if bitsAt w 0 11 = 0 then some (.sbarRelease (fieldAt w 21 5) (fieldAt w 16 5) (fieldAt w 13 3)) else
    none
  | 2 =>
    if bitsAt w 0 11 = 0 then some (.sbarFull (fieldAt w 21 5) (fieldAt w 16 5) (fieldAt w 13 3)) else
    none
  | _ => none

/-- Words of major 0x1B (Atomic), selectors and zero fields as R47-R62 give them. -/
def decodeAtomic (w : Nat) : Option Instr :=
  match bitsAt w 4 7 with
  | 0 =>
    if bitsAt w 11 5 = 0 ∧ bitsAt w 2 1 = 0 ∧ bitsAt w 0 1 = 0 then some (.ldl (fieldAt w 21 5) (fieldAt w 16 5) (fieldAt w 3 1) (fieldAt w 1 1)) else
    none
  | 16 =>
    if bitsAt w 3 1 = 0 ∧ bitsAt w 0 1 = 0 then some (.stc (fieldAt w 21 5) (fieldAt w 16 5) (fieldAt w 11 5) (fieldAt w 2 1) (fieldAt w 1 1)) else
    none
  | 32 =>
    if bitsAt w 0 1 = 0 then some (.amoAdd (fieldAt w 21 5) (fieldAt w 16 5) (fieldAt w 11 5) (fieldAt w 2 2) (fieldAt w 1 1)) else
    none
  | 33 =>
    if bitsAt w 0 1 = 0 then some (.amoMin (fieldAt w 21 5) (fieldAt w 16 5) (fieldAt w 11 5) (fieldAt w 2 2) (fieldAt w 1 1)) else
    none
  | 34 =>
    if bitsAt w 0 1 = 0 then some (.amoMax (fieldAt w 21 5) (fieldAt w 16 5) (fieldAt w 11 5) (fieldAt w 2 2) (fieldAt w 1 1)) else
    none
  | 35 =>
    if bitsAt w 0 1 = 0 then some (.amoMinu (fieldAt w 21 5) (fieldAt w 16 5) (fieldAt w 11 5) (fieldAt w 2 2) (fieldAt w 1 1)) else
    none
  | 36 =>
    if bitsAt w 0 1 = 0 then some (.amoMaxu (fieldAt w 21 5) (fieldAt w 16 5) (fieldAt w 11 5) (fieldAt w 2 2) (fieldAt w 1 1)) else
    none
  | 37 =>
    if bitsAt w 0 1 = 0 then some (.amoAnd (fieldAt w 21 5) (fieldAt w 16 5) (fieldAt w 11 5) (fieldAt w 2 2) (fieldAt w 1 1)) else
    none
  | 38 =>
    if bitsAt w 0 1 = 0 then some (.amoOr (fieldAt w 21 5) (fieldAt w 16 5) (fieldAt w 11 5) (fieldAt w 2 2) (fieldAt w 1 1)) else
    none
  | 39 =>
    if bitsAt w 0 1 = 0 then some (.amoXor (fieldAt w 21 5) (fieldAt w 16 5) (fieldAt w 11 5) (fieldAt w 2 2) (fieldAt w 1 1)) else
    none
  | 40 =>
    if bitsAt w 0 1 = 0 then some (.amoSwap (fieldAt w 21 5) (fieldAt w 16 5) (fieldAt w 11 5) (fieldAt w 2 2) (fieldAt w 1 1)) else
    none
  | 41 =>
    if bitsAt w 0 1 = 0 then some (.amoCas (fieldAt w 21 5) (fieldAt w 16 5) (fieldAt w 11 5) (fieldAt w 2 2) (fieldAt w 1 1)) else
    none
  | _ => none

/-- Words of major 0x20 (VecConfig), selectors and zero fields as R47-R62 give them. -/
def decodeVecConfig (w : Nat) : Option Instr :=
  match bitsAt w 11 5 with
  | 0 =>
    if bitsAt w 0 11 = 0 then some (.vsetcfg (fieldAt w 21 5) (fieldAt w 16 5)) else
    none
  | 1 =>
    if bitsAt w 0 11 = 0 then some (.vbegin (fieldAt w 21 5) (fieldAt w 16 5)) else
    none
  | _ => none

/-- Words of major 0x21 (Vnext), selectors and zero fields as R47-R62 give them. -/
def decodeVnext (w : Nat) : Option Instr :=
  if bitsAt w 16 5 = 0 then some (.vnext (fieldAt w 21 5) (fieldAt w 0 16)) else
  none

/-- Words of major 0x22 (VecInt), selectors and zero fields as R47-R62 give them. -/
def decodeVecInt (w : Nat) : Option Instr :=
  match bitsAt w 0 8 with
  | 0 =>
    some (.vadd (fieldAt w 21 5) (fieldAt w 16 5) (fieldAt w 11 5) (fieldAt w 9 2) (fieldAt w 8 1))
  | 1 =>
    some (.vsub (fieldAt w 21 5) (fieldAt w 16 5) (fieldAt w 11 5) (fieldAt w 9 2) (fieldAt w 8 1))
  | 2 =>
    some (.vrsub (fieldAt w 21 5) (fieldAt w 16 5) (fieldAt w 11 5) (fieldAt w 9 2) (fieldAt w 8 1))
  | 3 =>
    some (.vmul (fieldAt w 21 5) (fieldAt w 16 5) (fieldAt w 11 5) (fieldAt w 9 2) (fieldAt w 8 1))
  | 4 =>
    some (.vmulh (fieldAt w 21 5) (fieldAt w 16 5) (fieldAt w 11 5) (fieldAt w 9 2) (fieldAt w 8 1))
  | 5 =>
    some (.vmulhu (fieldAt w 21 5) (fieldAt w 16 5) (fieldAt w 11 5) (fieldAt w 9 2) (fieldAt w 8 1))
  | 6 =>
    some (.vdiv (fieldAt w 21 5) (fieldAt w 16 5) (fieldAt w 11 5) (fieldAt w 9 2) (fieldAt w 8 1))
  | 7 =>
    some (.vdivu (fieldAt w 21 5) (fieldAt w 16 5) (fieldAt w 11 5) (fieldAt w 9 2) (fieldAt w 8 1))
  | 8 =>
    some (.vrem (fieldAt w 21 5) (fieldAt w 16 5) (fieldAt w 11 5) (fieldAt w 9 2) (fieldAt w 8 1))
  | 9 =>
    some (.vremu (fieldAt w 21 5) (fieldAt w 16 5) (fieldAt w 11 5) (fieldAt w 9 2) (fieldAt w 8 1))
  | 10 =>
    some (.vand (fieldAt w 21 5) (fieldAt w 16 5) (fieldAt w 11 5) (fieldAt w 9 2) (fieldAt w 8 1))
  | 11 =>
    some (.vor (fieldAt w 21 5) (fieldAt w 16 5) (fieldAt w 11 5) (fieldAt w 9 2) (fieldAt w 8 1))
  | 12 =>
    some (.vxor (fieldAt w 21 5) (fieldAt w 16 5) (fieldAt w 11 5) (fieldAt w 9 2) (fieldAt w 8 1))
  | 13 =>
    if bitsAt w 11 5 = 0 then some (.vnot (fieldAt w 21 5) (fieldAt w 16 5) (fieldAt w 9 2) (fieldAt w 8 1)) else
    none
  | 14 =>
    some (.vsll (fieldAt w 21 5) (fieldAt w 16 5) (fieldAt w 11 5) (fieldAt w 9 2) (fieldAt w 8 1))
  | 15 =>
    some (.vsrl (fieldAt w 21 5) (fieldAt w 16 5) (fieldAt w 11 5) (fieldAt w 9 2) (fieldAt w 8 1))
  | 16 =>
    some (.vsra (fieldAt w 21 5) (fieldAt w 16 5) (fieldAt w 11 5) (fieldAt w 9 2) (fieldAt w 8 1))
  | 17 =>
    some (.vmin (fieldAt w 21 5) (fieldAt w 16 5) (fieldAt w 11 5) (fieldAt w 9 2) (fieldAt w 8 1))
  | 18 =>
    some (.vmax (fieldAt w 21 5) (fieldAt w 16 5) (fieldAt w 11 5) (fieldAt w 9 2) (fieldAt w 8 1))
  | 19 =>
    some (.vminu (fieldAt w 21 5) (fieldAt w 16 5) (fieldAt w 11 5) (fieldAt w 9 2) (fieldAt w 8 1))
  | 20 =>
    some (.vmaxu (fieldAt w 21 5) (fieldAt w 16 5) (fieldAt w 11 5) (fieldAt w 9 2) (fieldAt w 8 1))
  | 21 =>
    if bitsAt w 11 5 = 0 then some (.vneg (fieldAt w 21 5) (fieldAt w 16 5) (fieldAt w 9 2) (fieldAt w 8 1)) else
    none
  | 22 =>
    some (.vsadd (fieldAt w 21 5) (fieldAt w 16 5) (fieldAt w 11 5) (fieldAt w 9 2) (fieldAt w 8 1))
  | 23 =>
    some (.vssub (fieldAt w 21 5) (fieldAt w 16 5) (fieldAt w 11 5) (fieldAt w 9 2) (fieldAt w 8 1))
  | 24 =>
    some (.vsaddu (fieldAt w 21 5) (fieldAt w 16 5) (fieldAt w 11 5) (fieldAt w 9 2) (fieldAt w 8 1))
  | 25 =>
    some (.vssubu (fieldAt w 21 5) (fieldAt w 16 5) (fieldAt w 11 5) (fieldAt w 9 2) (fieldAt w 8 1))
  | 26 =>
    some (.vmadd (fieldAt w 21 5) (fieldAt w 16 5) (fieldAt w 11 5) (fieldAt w 9 2) (fieldAt w 8 1))
  | 27 =>
    if bitsAt w 11 5 = 0 then some (.vclz (fieldAt w 21 5) (fieldAt w 16 5) (fieldAt w 9 2) (fieldAt w 8 1)) else
    none
  | 28 =>
    if bitsAt w 11 5 = 0 then some (.vpopc (fieldAt w 21 5) (fieldAt w 16 5) (fieldAt w 9 2) (fieldAt w 8 1)) else
    none
  | 29 =>
    some (.vwadd (fieldAt w 21 5) (fieldAt w 16 5) (fieldAt w 11 5) (fieldAt w 9 2) (fieldAt w 8 1))
  | 30 =>
    some (.vwmul (fieldAt w 21 5) (fieldAt w 16 5) (fieldAt w 11 5) (fieldAt w 9 2) (fieldAt w 8 1))
  | 31 =>
    some (.vnsrl (fieldAt w 21 5) (fieldAt w 16 5) (fieldAt w 11 5) (fieldAt w 9 2) (fieldAt w 8 1))
  | 32 =>
    some (.vnclip (fieldAt w 21 5) (fieldAt w 16 5) (fieldAt w 11 5) (fieldAt w 9 2) (fieldAt w 8 1))
  | _ => none

/-- Words of major 0x23 (VecIntS), selectors and zero fields as R47-R62 give them. -/
def decodeVecIntS (w : Nat) : Option Instr :=
  match bitsAt w 0 8 with
  | 0 =>
    some (.vaddS (fieldAt w 21 5) (fieldAt w 16 5) (fieldAt w 11 5) (fieldAt w 9 2) (fieldAt w 8 1))
  | 1 =>
    some (.vsubS (fieldAt w 21 5) (fieldAt w 16 5) (fieldAt w 11 5) (fieldAt w 9 2) (fieldAt w 8 1))
  | 2 =>
    some (.vrsubS (fieldAt w 21 5) (fieldAt w 16 5) (fieldAt w 11 5) (fieldAt w 9 2) (fieldAt w 8 1))
  | 3 =>
    some (.vmulS (fieldAt w 21 5) (fieldAt w 16 5) (fieldAt w 11 5) (fieldAt w 9 2) (fieldAt w 8 1))
  | 4 =>
    some (.vmulhS (fieldAt w 21 5) (fieldAt w 16 5) (fieldAt w 11 5) (fieldAt w 9 2) (fieldAt w 8 1))
  | 5 =>
    some (.vmulhuS (fieldAt w 21 5) (fieldAt w 16 5) (fieldAt w 11 5) (fieldAt w 9 2) (fieldAt w 8 1))
  | 6 =>
    some (.vdivS (fieldAt w 21 5) (fieldAt w 16 5) (fieldAt w 11 5) (fieldAt w 9 2) (fieldAt w 8 1))
  | 7 =>
    some (.vdivuS (fieldAt w 21 5) (fieldAt w 16 5) (fieldAt w 11 5) (fieldAt w 9 2) (fieldAt w 8 1))
  | 8 =>
    some (.vremS (fieldAt w 21 5) (fieldAt w 16 5) (fieldAt w 11 5) (fieldAt w 9 2) (fieldAt w 8 1))
  | 9 =>
    some (.vremuS (fieldAt w 21 5) (fieldAt w 16 5) (fieldAt w 11 5) (fieldAt w 9 2) (fieldAt w 8 1))
  | 10 =>
    some (.vandS (fieldAt w 21 5) (fieldAt w 16 5) (fieldAt w 11 5) (fieldAt w 9 2) (fieldAt w 8 1))
  | 11 =>
    some (.vorS (fieldAt w 21 5) (fieldAt w 16 5) (fieldAt w 11 5) (fieldAt w 9 2) (fieldAt w 8 1))
  | 12 =>
    some (.vxorS (fieldAt w 21 5) (fieldAt w 16 5) (fieldAt w 11 5) (fieldAt w 9 2) (fieldAt w 8 1))
  | 14 =>
    some (.vsllS (fieldAt w 21 5) (fieldAt w 16 5) (fieldAt w 11 5) (fieldAt w 9 2) (fieldAt w 8 1))
  | 15 =>
    some (.vsrlS (fieldAt w 21 5) (fieldAt w 16 5) (fieldAt w 11 5) (fieldAt w 9 2) (fieldAt w 8 1))
  | 16 =>
    some (.vsraS (fieldAt w 21 5) (fieldAt w 16 5) (fieldAt w 11 5) (fieldAt w 9 2) (fieldAt w 8 1))
  | 17 =>
    some (.vminS (fieldAt w 21 5) (fieldAt w 16 5) (fieldAt w 11 5) (fieldAt w 9 2) (fieldAt w 8 1))
  | 18 =>
    some (.vmaxS (fieldAt w 21 5) (fieldAt w 16 5) (fieldAt w 11 5) (fieldAt w 9 2) (fieldAt w 8 1))
  | 19 =>
    some (.vminuS (fieldAt w 21 5) (fieldAt w 16 5) (fieldAt w 11 5) (fieldAt w 9 2) (fieldAt w 8 1))
  | 20 =>
    some (.vmaxuS (fieldAt w 21 5) (fieldAt w 16 5) (fieldAt w 11 5) (fieldAt w 9 2) (fieldAt w 8 1))
  | 22 =>
    some (.vsaddS (fieldAt w 21 5) (fieldAt w 16 5) (fieldAt w 11 5) (fieldAt w 9 2) (fieldAt w 8 1))
  | 23 =>
    some (.vssubS (fieldAt w 21 5) (fieldAt w 16 5) (fieldAt w 11 5) (fieldAt w 9 2) (fieldAt w 8 1))
  | 24 =>
    some (.vsadduS (fieldAt w 21 5) (fieldAt w 16 5) (fieldAt w 11 5) (fieldAt w 9 2) (fieldAt w 8 1))
  | 25 =>
    some (.vssubuS (fieldAt w 21 5) (fieldAt w 16 5) (fieldAt w 11 5) (fieldAt w 9 2) (fieldAt w 8 1))
  | 26 =>
    some (.vmaddS (fieldAt w 21 5) (fieldAt w 16 5) (fieldAt w 11 5) (fieldAt w 9 2) (fieldAt w 8 1))
  | 29 =>
    some (.vwaddS (fieldAt w 21 5) (fieldAt w 16 5) (fieldAt w 11 5) (fieldAt w 9 2) (fieldAt w 8 1))
  | 30 =>
    some (.vwmulS (fieldAt w 21 5) (fieldAt w 16 5) (fieldAt w 11 5) (fieldAt w 9 2) (fieldAt w 8 1))
  | 31 =>
    some (.vnsrlS (fieldAt w 21 5) (fieldAt w 16 5) (fieldAt w 11 5) (fieldAt w 9 2) (fieldAt w 8 1))
  | 32 =>
    some (.vnclipS (fieldAt w 21 5) (fieldAt w 16 5) (fieldAt w 11 5) (fieldAt w 9 2) (fieldAt w 8 1))
  | 33 =>
    some (.vfieldS (fieldAt w 21 5) (fieldAt w 16 5) (fieldAt w 11 5) (fieldAt w 9 2) (fieldAt w 8 1))
  | _ => none

/-- Words of major 0x24 (VecFloat), selectors and zero fields as R47-R62 give them. -/
def decodeVecFloat (w : Nat) : Option Instr :=
  match bitsAt w 0 8 with
  | 0 =>
    some (.vfadd (fieldAt w 21 5) (fieldAt w 16 5) (fieldAt w 11 5) (fieldAt w 9 2) (fieldAt w 8 1))
  | 1 =>
    some (.vfsub (fieldAt w 21 5) (fieldAt w 16 5) (fieldAt w 11 5) (fieldAt w 9 2) (fieldAt w 8 1))
  | 2 =>
    some (.vfmul (fieldAt w 21 5) (fieldAt w 16 5) (fieldAt w 11 5) (fieldAt w 9 2) (fieldAt w 8 1))
  | 3 =>
    some (.vfdiv (fieldAt w 21 5) (fieldAt w 16 5) (fieldAt w 11 5) (fieldAt w 9 2) (fieldAt w 8 1))
  | 4 =>
    if bitsAt w 11 5 = 0 then some (.vfsqrt (fieldAt w 21 5) (fieldAt w 16 5) (fieldAt w 9 2) (fieldAt w 8 1)) else
    none
  | 5 =>
    some (.vfma (fieldAt w 21 5) (fieldAt w 16 5) (fieldAt w 11 5) (fieldAt w 9 2) (fieldAt w 8 1))
  | 6 =>
    some (.vfmin (fieldAt w 21 5) (fieldAt w 16 5) (fieldAt w 11 5) (fieldAt w 9 2) (fieldAt w 8 1))
  | 7 =>
    some (.vfmax (fieldAt w 21 5) (fieldAt w 16 5) (fieldAt w 11 5) (fieldAt w 9 2) (fieldAt w 8 1))
  | 8 =>
    some (.vfcvt (fieldAt w 21 5) (fieldAt w 16 5) (fieldAt w 11 5) (fieldAt w 9 2) (fieldAt w 8 1))
  | 9 =>
    if bitsAt w 11 5 = 0 then some (.vfclass (fieldAt w 21 5) (fieldAt w 16 5) (fieldAt w 9 2) (fieldAt w 8 1)) else
    none
  | 10 =>
    if bitsAt w 11 5 = 0 then some (.vlog2 (fieldAt w 21 5) (fieldAt w 16 5) (fieldAt w 9 2) (fieldAt w 8 1)) else
    none
  | 11 =>
    if bitsAt w 11 5 = 0 then some (.vexp2 (fieldAt w 21 5) (fieldAt w 16 5) (fieldAt w 9 2) (fieldAt w 8 1)) else
    none
  | _ => none

/-- Words of major 0x25 (VecFloatS), selectors and zero fields as R47-R62 give them. -/
def decodeVecFloatS (w : Nat) : Option Instr :=
  match bitsAt w 0 8 with
  | 0 =>
    some (.vfaddS (fieldAt w 21 5) (fieldAt w 16 5) (fieldAt w 11 5) (fieldAt w 9 2) (fieldAt w 8 1))
  | 1 =>
    some (.vfsubS (fieldAt w 21 5) (fieldAt w 16 5) (fieldAt w 11 5) (fieldAt w 9 2) (fieldAt w 8 1))
  | 2 =>
    some (.vfmulS (fieldAt w 21 5) (fieldAt w 16 5) (fieldAt w 11 5) (fieldAt w 9 2) (fieldAt w 8 1))
  | 3 =>
    some (.vfdivS (fieldAt w 21 5) (fieldAt w 16 5) (fieldAt w 11 5) (fieldAt w 9 2) (fieldAt w 8 1))
  | 5 =>
    some (.vfmaS (fieldAt w 21 5) (fieldAt w 16 5) (fieldAt w 11 5) (fieldAt w 9 2) (fieldAt w 8 1))
  | 6 =>
    some (.vfminS (fieldAt w 21 5) (fieldAt w 16 5) (fieldAt w 11 5) (fieldAt w 9 2) (fieldAt w 8 1))
  | 7 =>
    some (.vfmaxS (fieldAt w 21 5) (fieldAt w 16 5) (fieldAt w 11 5) (fieldAt w 9 2) (fieldAt w 8 1))
  | _ => none

/-- Words of major 0x26 (VecCompare), selectors and zero fields as R47-R62 give them. -/
def decodeVecCompare (w : Nat) : Option Instr :=
  match bitsAt w 0 8 with
  | 0 =>
    if bitsAt w 23 3 = 0 then some (.vcmpeq (fieldAt w 21 2) (fieldAt w 16 5) (fieldAt w 11 5) (fieldAt w 9 2) (fieldAt w 8 1)) else
    none
  | 1 =>
    if bitsAt w 23 3 = 0 then some (.vcmpne (fieldAt w 21 2) (fieldAt w 16 5) (fieldAt w 11 5) (fieldAt w 9 2) (fieldAt w 8 1)) else
    none
  | 2 =>
    if bitsAt w 23 3 = 0 then some (.vcmplt (fieldAt w 21 2) (fieldAt w 16 5) (fieldAt w 11 5) (fieldAt w 9 2) (fieldAt w 8 1)) else
    none
  | 3 =>
    if bitsAt w 23 3 = 0 then some (.vcmpltu (fieldAt w 21 2) (fieldAt w 16 5) (fieldAt w 11 5) (fieldAt w 9 2) (fieldAt w 8 1)) else
    none
  | 4 =>
    if bitsAt w 23 3 = 0 then some (.vcmple (fieldAt w 21 2) (fieldAt w 16 5) (fieldAt w 11 5) (fieldAt w 9 2) (fieldAt w 8 1)) else
    none
  | 5 =>
    if bitsAt w 23 3 = 0 then some (.vcmpleu (fieldAt w 21 2) (fieldAt w 16 5) (fieldAt w 11 5) (fieldAt w 9 2) (fieldAt w 8 1)) else
    none
  | 8 =>
    if bitsAt w 23 3 = 0 then some (.vfcmpeq (fieldAt w 21 2) (fieldAt w 16 5) (fieldAt w 11 5) (fieldAt w 9 2) (fieldAt w 8 1)) else
    none
  | 9 =>
    if bitsAt w 23 3 = 0 then some (.vfcmplt (fieldAt w 21 2) (fieldAt w 16 5) (fieldAt w 11 5) (fieldAt w 9 2) (fieldAt w 8 1)) else
    none
  | 10 =>
    if bitsAt w 23 3 = 0 then some (.vfcmple (fieldAt w 21 2) (fieldAt w 16 5) (fieldAt w 11 5) (fieldAt w 9 2) (fieldAt w 8 1)) else
    none
  | 128 =>
    if bitsAt w 23 3 = 0 then some (.vcmpeqS (fieldAt w 21 2) (fieldAt w 16 5) (fieldAt w 11 5) (fieldAt w 9 2) (fieldAt w 8 1)) else
    none
  | 129 =>
    if bitsAt w 23 3 = 0 then some (.vcmpneS (fieldAt w 21 2) (fieldAt w 16 5) (fieldAt w 11 5) (fieldAt w 9 2) (fieldAt w 8 1)) else
    none
  | 130 =>
    if bitsAt w 23 3 = 0 then some (.vcmpltS (fieldAt w 21 2) (fieldAt w 16 5) (fieldAt w 11 5) (fieldAt w 9 2) (fieldAt w 8 1)) else
    none
  | 131 =>
    if bitsAt w 23 3 = 0 then some (.vcmpltuS (fieldAt w 21 2) (fieldAt w 16 5) (fieldAt w 11 5) (fieldAt w 9 2) (fieldAt w 8 1)) else
    none
  | 132 =>
    if bitsAt w 23 3 = 0 then some (.vcmpleS (fieldAt w 21 2) (fieldAt w 16 5) (fieldAt w 11 5) (fieldAt w 9 2) (fieldAt w 8 1)) else
    none
  | 133 =>
    if bitsAt w 23 3 = 0 then some (.vcmpleuS (fieldAt w 21 2) (fieldAt w 16 5) (fieldAt w 11 5) (fieldAt w 9 2) (fieldAt w 8 1)) else
    none
  | 136 =>
    if bitsAt w 23 3 = 0 then some (.vfcmpeqS (fieldAt w 21 2) (fieldAt w 16 5) (fieldAt w 11 5) (fieldAt w 9 2) (fieldAt w 8 1)) else
    none
  | 137 =>
    if bitsAt w 23 3 = 0 then some (.vfcmpltS (fieldAt w 21 2) (fieldAt w 16 5) (fieldAt w 11 5) (fieldAt w 9 2) (fieldAt w 8 1)) else
    none
  | 138 =>
    if bitsAt w 23 3 = 0 then some (.vfcmpleS (fieldAt w 21 2) (fieldAt w 16 5) (fieldAt w 11 5) (fieldAt w 9 2) (fieldAt w 8 1)) else
    none
  | _ => none

/-- Words of major 0x27 (Mask), selectors and zero fields as R47-R62 give them. -/
def decodeMask (w : Nat) : Option Instr :=
  match bitsAt w 0 8 with
  | 0 =>
    if bitsAt w 23 3 = 0 ∧ bitsAt w 18 3 = 0 ∧ bitsAt w 13 3 = 0 ∧ bitsAt w 8 3 = 0 then some (.mand (fieldAt w 21 2) (fieldAt w 16 2) (fieldAt w 11 2)) else
    none
  | 1 =>
    if bitsAt w 23 3 = 0 ∧ bitsAt w 18 3 = 0 ∧ bitsAt w 13 3 = 0 ∧ bitsAt w 8 3 = 0 then some (.mor (fieldAt w 21 2) (fieldAt w 16 2) (fieldAt w 11 2)) else
    none
  | 2 =>
    if bitsAt w 23 3 = 0 ∧ bitsAt w 18 3 = 0 ∧ bitsAt w 13 3 = 0 ∧ bitsAt w 8 3 = 0 then some (.mxor (fieldAt w 21 2) (fieldAt w 16 2) (fieldAt w 11 2)) else
    none
  | 3 =>
    if bitsAt w 23 3 = 0 ∧ bitsAt w 18 3 = 0 ∧ bitsAt w 13 3 = 0 ∧ bitsAt w 8 3 = 0 then some (.mandn (fieldAt w 21 2) (fieldAt w 16 2) (fieldAt w 11 2)) else
    none
  | 4 =>
    if bitsAt w 23 3 = 0 ∧ bitsAt w 18 3 = 0 ∧ bitsAt w 8 8 = 0 then some (.mnot (fieldAt w 21 2) (fieldAt w 16 2)) else
    none
  | 5 =>
    if bitsAt w 23 3 = 0 ∧ bitsAt w 18 3 = 0 ∧ bitsAt w 11 5 = 0 then some (.msbf (fieldAt w 21 2) (fieldAt w 16 2) (fieldAt w 9 2) (fieldAt w 8 1)) else
    none
  | 6 =>
    if bitsAt w 23 3 = 0 ∧ bitsAt w 18 3 = 0 ∧ bitsAt w 11 5 = 0 then some (.msif (fieldAt w 21 2) (fieldAt w 16 2) (fieldAt w 9 2) (fieldAt w 8 1)) else
    none
  | 7 =>
    if bitsAt w 18 3 = 0 ∧ bitsAt w 11 5 = 0 then some (.mfirst (fieldAt w 21 5) (fieldAt w 16 2) (fieldAt w 9 2) (fieldAt w 8 1)) else
    none
  | 8 =>
    if bitsAt w 18 3 = 0 ∧ bitsAt w 11 5 = 0 then some (.mcount (fieldAt w 21 5) (fieldAt w 16 2) (fieldAt w 9 2) (fieldAt w 8 1)) else
    none
  | 9 =>
    if bitsAt w 18 3 = 0 ∧ bitsAt w 11 5 = 0 then some (.viota (fieldAt w 21 5) (fieldAt w 16 2) (fieldAt w 9 2) (fieldAt w 8 1)) else
    none
  | _ => none

/-- Words of major 0x28 (Associative), selectors and zero fields as R47-R62 give them. -/
def decodeAssociative (w : Nat) : Option Instr :=
  match bitsAt w 0 8 with
  | 0 =>
    if bitsAt w 23 3 = 0 ∧ bitsAt w 11 1 = 0 then some (.vsrch (fieldAt w 21 2) (fieldAt w 16 5) (fieldAt w 12 4) (fieldAt w 9 2) (fieldAt w 8 1)) else
    none
  | 1 =>
    if bitsAt w 23 3 = 0 ∧ bitsAt w 11 1 = 0 then some (.vsrchr (fieldAt w 21 2) (fieldAt w 16 5) (fieldAt w 12 4) (fieldAt w 9 2) (fieldAt w 8 1)) else
    none
  | 2 =>
    if bitsAt w 18 3 = 0 ∧ bitsAt w 8 3 = 0 then some (.vtwr (fieldAt w 21 5) (fieldAt w 16 2) (fieldAt w 11 5)) else
    none
  | 3 =>
    some (.vhamm (fieldAt w 21 5) (fieldAt w 16 5) (fieldAt w 11 5) (fieldAt w 9 2) (fieldAt w 8 1))
  | 4 =>
    if bitsAt w 23 3 = 0 then some (.vtopkMax (fieldAt w 21 2) (fieldAt w 16 5) (fieldAt w 11 5) (fieldAt w 9 2) (fieldAt w 8 1)) else
    none
  | 5 =>
    if bitsAt w 23 3 = 0 then some (.vtopkMin (fieldAt w 21 2) (fieldAt w 16 5) (fieldAt w 11 5) (fieldAt w 9 2) (fieldAt w 8 1)) else
    none
  | _ => none

/-- Words of major 0x29 (Reduce), selectors and zero fields as R47-R62 give them. -/
noncomputable def decodeReduce (w : Nat) : Option Instr :=
  match bitsAt w 0 8 with
  | 0 =>
    if bitsAt w 11 5 = 0 then some (.vredsum (fieldAt w 21 5) (fieldAt w 16 5) (fieldAt w 9 2) (fieldAt w 8 1)) else
    none
  | 1 =>
    if bitsAt w 11 5 = 0 then some (.vredmax (fieldAt w 21 5) (fieldAt w 16 5) (fieldAt w 9 2) (fieldAt w 8 1)) else
    none
  | 2 =>
    if bitsAt w 11 5 = 0 then some (.vredmin (fieldAt w 21 5) (fieldAt w 16 5) (fieldAt w 9 2) (fieldAt w 8 1)) else
    none
  | 3 =>
    if bitsAt w 11 5 = 0 then some (.vredmaxu (fieldAt w 21 5) (fieldAt w 16 5) (fieldAt w 9 2) (fieldAt w 8 1)) else
    none
  | 4 =>
    if bitsAt w 11 5 = 0 then some (.vredminu (fieldAt w 21 5) (fieldAt w 16 5) (fieldAt w 9 2) (fieldAt w 8 1)) else
    none
  | 5 =>
    if bitsAt w 11 5 = 0 then some (.vredand (fieldAt w 21 5) (fieldAt w 16 5) (fieldAt w 9 2) (fieldAt w 8 1)) else
    none
  | 6 =>
    if bitsAt w 11 5 = 0 then some (.vredor (fieldAt w 21 5) (fieldAt w 16 5) (fieldAt w 9 2) (fieldAt w 8 1)) else
    none
  | 7 =>
    if bitsAt w 11 5 = 0 then some (.vredxor (fieldAt w 21 5) (fieldAt w 16 5) (fieldAt w 9 2) (fieldAt w 8 1)) else
    none
  | 8 =>
    if bitsAt w 11 5 = 0 then some (.vfredsum (fieldAt w 21 5) (fieldAt w 16 5) (fieldAt w 9 2) (fieldAt w 8 1)) else
    none
  | 9 =>
    if bitsAt w 21 1 = 0 ∧ bitsAt w 11 5 = 0 then some (.vmaxi (fieldAt w 22 4) (fieldAt w 16 5) (fieldAt w 9 2) (fieldAt w 8 1)) else
    none
  | 10 =>
    if bitsAt w 21 1 = 0 ∧ bitsAt w 11 5 = 0 then some (.vmini (fieldAt w 22 4) (fieldAt w 16 5) (fieldAt w 9 2) (fieldAt w 8 1)) else
    none
  | _ => none

/-- Words of major 0x2A (Permute), selectors and zero fields as R47-R62 give them. -/
noncomputable def decodePermute (w : Nat) : Option Instr :=
  match bitsAt w 0 8 with
  | 0 =>
    some (.vgathr (fieldAt w 21 5) (fieldAt w 16 5) (fieldAt w 11 5) (fieldAt w 9 2) (fieldAt w 8 1))
  | 1 =>
    some (.vshup (fieldAt w 21 5) (fieldAt w 16 5) (fieldAt w 11 5) (fieldAt w 9 2) (fieldAt w 8 1))
  | 2 =>
    some (.vshdn (fieldAt w 21 5) (fieldAt w 16 5) (fieldAt w 11 5) (fieldAt w 9 2) (fieldAt w 8 1))
  | 3 =>
    some (.vbcst (fieldAt w 21 5) (fieldAt w 16 5) (fieldAt w 11 5) (fieldAt w 9 2) (fieldAt w 8 1))
  | 4 =>
    if bitsAt w 8 3 = 0 then some (.vext (fieldAt w 21 5) (fieldAt w 16 5) (fieldAt w 11 5)) else
    none
  | 5 =>
    if bitsAt w 8 3 = 0 then some (.vins (fieldAt w 21 5) (fieldAt w 16 5) (fieldAt w 11 5)) else
    none
  | 6 =>
    if bitsAt w 11 5 = 0 ∧ bitsAt w 8 1 = 1 then some (.vcomp (fieldAt w 21 5) (fieldAt w 16 5) (fieldAt w 9 2)) else
    none
  | 7 =>
    some (.vbperm (fieldAt w 21 5) (fieldAt w 16 5) (fieldAt w 11 5) (fieldAt w 9 2) (fieldAt w 8 1))
  | 8 =>
    if bitsAt w 11 5 = 0 then some (.vmv (fieldAt w 21 5) (fieldAt w 16 5) (fieldAt w 9 2) (fieldAt w 8 1)) else
    none
  | 9 =>
    some (.vmvi (fieldAt w 21 5) (fieldAt w 11 10) (fieldAt w 9 2) (fieldAt w 8 1))
  | 10 =>
    if bitsAt w 8 1 = 1 then some (.vmerge (fieldAt w 21 5) (fieldAt w 16 5) (fieldAt w 11 5) (fieldAt w 9 2)) else
    none
  | 11 =>
    if bitsAt w 11 10 = 0 then some (.vid (fieldAt w 21 5) (fieldAt w 9 2) (fieldAt w 8 1)) else
    none
  | _ => none

/-- Words of major 0x2B (VecLoad), selectors and zero fields as R47-R62 give them. -/
noncomputable def decodeVecLoad (w : Nat) : Option Instr :=
  match bitsAt w 4 3 with
  | 0 =>
    if bitsAt w 11 5 = 0 ∧ bitsAt w 0 3 = 0 then some (.vld (fieldAt w 21 5) (fieldAt w 16 5) (fieldAt w 9 2) (fieldAt w 8 1) (fieldAt w 7 1) (fieldAt w 3 1)) else
    none
  | 1 =>
    if bitsAt w 0 3 = 0 then some (.vlds (fieldAt w 21 5) (fieldAt w 16 5) (fieldAt w 11 5) (fieldAt w 9 2) (fieldAt w 8 1) (fieldAt w 7 1) (fieldAt w 3 1)) else
    none
  | 2 =>
    if bitsAt w 0 4 = 0 then some (.vldx (fieldAt w 21 5) (fieldAt w 16 5) (fieldAt w 11 5) (fieldAt w 9 2) (fieldAt w 8 1) (fieldAt w 7 1)) else
    none
  | 3 =>
    if bitsAt w 11 5 = 0 ∧ bitsAt w 0 3 = 0 then some (.vldff (fieldAt w 21 5) (fieldAt w 16 5) (fieldAt w 9 2) (fieldAt w 8 1) (fieldAt w 7 1) (fieldAt w 3 1)) else
    none
  | _ => none

/-- Words of major 0x2C (VecStore), selectors and zero fields as R47-R62 give them. -/
noncomputable def decodeVecStore (w : Nat) : Option Instr :=
  match bitsAt w 4 3 with
  | 0 =>
    if bitsAt w 11 5 = 0 ∧ bitsAt w 0 3 = 0 then some (.vst (fieldAt w 21 5) (fieldAt w 16 5) (fieldAt w 9 2) (fieldAt w 8 1) (fieldAt w 7 1) (fieldAt w 3 1)) else
    none
  | 1 =>
    if bitsAt w 0 3 = 0 then some (.vsts (fieldAt w 21 5) (fieldAt w 16 5) (fieldAt w 11 5) (fieldAt w 9 2) (fieldAt w 8 1) (fieldAt w 7 1) (fieldAt w 3 1)) else
    none
  | 2 =>
    if bitsAt w 0 4 = 0 then some (.vstx (fieldAt w 21 5) (fieldAt w 16 5) (fieldAt w 11 5) (fieldAt w 9 2) (fieldAt w 8 1) (fieldAt w 7 1)) else
    none
  | 3 =>
    if bitsAt w 0 4 = 0 then some (.vstxo (fieldAt w 21 5) (fieldAt w 16 5) (fieldAt w 11 5) (fieldAt w 9 2) (fieldAt w 8 1) (fieldAt w 7 1)) else
    none
  | 4 =>
    if bitsAt w 0 4 = 0 then some (.vappend (fieldAt w 21 5) (fieldAt w 16 5) (fieldAt w 11 5) (fieldAt w 9 2) (fieldAt w 8 1) (fieldAt w 7 1)) else
    none
  | _ => none

/-- Words of major 0x2D (VecAtomic), selectors and zero fields as R47-R62 give them. -/
noncomputable def decodeVecAtomic (w : Nat) : Option Instr :=
  match bitsAt w 4 3 with
  | 0 =>
    if bitsAt w 0 4 = 0 then some (.vldl (fieldAt w 21 5) (fieldAt w 16 5) (fieldAt w 11 5) (fieldAt w 9 2) (fieldAt w 8 1) (fieldAt w 7 1)) else
    none
  | 1 =>
    if bitsAt w 2 2 = 0 then some (.vstc (fieldAt w 21 5) (fieldAt w 16 5) (fieldAt w 11 5) (fieldAt w 9 2) (fieldAt w 8 1) (fieldAt w 7 1) (fieldAt w 0 2)) else
    none
  | 2 =>
    some (.vamo (fieldAt w 21 5) (fieldAt w 16 5) (fieldAt w 11 5) (fieldAt w 9 2) (fieldAt w 8 1) (fieldAt w 7 1) (fieldAt w 0 4))
  | 3 =>
    some (.vamoAcq (fieldAt w 21 5) (fieldAt w 16 5) (fieldAt w 11 5) (fieldAt w 9 2) (fieldAt w 8 1) (fieldAt w 7 1) (fieldAt w 0 4))
  | 4 =>
    some (.vamoRel (fieldAt w 21 5) (fieldAt w 16 5) (fieldAt w 11 5) (fieldAt w 9 2) (fieldAt w 8 1) (fieldAt w 7 1) (fieldAt w 0 4))
  | 5 =>
    some (.vamoAr (fieldAt w 21 5) (fieldAt w 16 5) (fieldAt w 11 5) (fieldAt w 9 2) (fieldAt w 8 1) (fieldAt w 7 1) (fieldAt w 0 4))
  | 6 =>
    if bitsAt w 3 1 = 0 then some (.vwaitm (fieldAt w 21 5) (fieldAt w 16 5) (fieldAt w 11 5) (fieldAt w 9 2) (fieldAt w 8 1) (fieldAt w 7 1) (fieldAt w 2 1) (fieldAt w 0 2)) else
    none
  | _ => none

/-- Words of major 0x2E (Convert), selectors and zero fields as R47-R62 give them. -/
noncomputable def decodeConvert (w : Nat) : Option Instr :=
  match bitsAt w 0 8 with
  | 0 =>
    if bitsAt w 21 5 = 0 ∧ bitsAt w 11 5 = 0 then some (.vsclset (fieldAt w 16 5) (fieldAt w 9 2) (fieldAt w 8 1)) else
    none
  | 1 =>
    if bitsAt w 21 5 = 0 ∧ bitsAt w 11 5 = 0 then some (.vbscale (fieldAt w 16 5) (fieldAt w 9 2) (fieldAt w 8 1)) else
    none
  | 2 =>
    if bitsAt w 11 5 = 0 then some (.vquant (fieldAt w 21 5) (fieldAt w 16 5) (fieldAt w 9 2) (fieldAt w 8 1)) else
    none
  | 3 =>
    if bitsAt w 11 5 = 0 then some (.vdeq (fieldAt w 21 5) (fieldAt w 16 5) (fieldAt w 9 2) (fieldAt w 8 1)) else
    none
  | 4 =>
    if bitsAt w 23 3 = 0 ∧ bitsAt w 8 8 = 0 then some (.vcbld (fieldAt w 21 2) (fieldAt w 16 5)) else
    none
  | 5 =>
    if bitsAt w 13 3 = 0 then some (.vcbx (fieldAt w 21 5) (fieldAt w 16 5) (fieldAt w 11 2) (fieldAt w 9 2) (fieldAt w 8 1)) else
    none
  | 6 =>
    if bitsAt w 11 5 = 0 then some (.vcvtl (fieldAt w 21 5) (fieldAt w 16 5) (fieldAt w 9 2) (fieldAt w 8 1)) else
    none
  | _ => none

/-- Words of major 0x30 (Mezzanine), selectors and zero fields as R47-R62 give them. -/
noncomputable def decodeMezzanine (w : Nat) : Option Instr :=
  match bitsAt w 0 8 with
  | 0 =>
    if bitsAt w 21 5 = 0 ∧ bitsAt w 8 8 = 0 then some (.mxcfg (fieldAt w 16 5)) else
    none
  | 1 =>
    if bitsAt w 23 3 = 0 ∧ bitsAt w 8 13 = 0 then some (.mxtld (fieldAt w 22 1) (fieldAt w 21 1)) else
    none
  | 2 =>
    if bitsAt w 22 4 = 0 ∧ bitsAt w 8 13 = 0 then some (.mxtsel (fieldAt w 21 1)) else
    none
  | 3 =>
    if bitsAt w 8 8 = 0 then some (.mxr (fieldAt w 17 9) (fieldAt w 16 1)) else
    none
  | 4 =>
    if bitsAt w 8 4 = 0 then some (.mxdrn (fieldAt w 21 5) (fieldAt w 12 9)) else
    none
  | 5 =>
    if bitsAt w 8 4 = 0 then some (.mxdrs (fieldAt w 21 5) (fieldAt w 12 9)) else
    none
  | 6 =>
    if bitsAt w 8 9 = 0 then some (.mxclr (fieldAt w 17 9)) else
    none
  | 7 =>
    if bitsAt w 23 3 = 0 ∧ bitsAt w 8 13 = 0 then some (.mxfclr (fieldAt w 22 1) (fieldAt w 21 1)) else
    none
  | 8 =>
    if bitsAt w 8 18 = 0 then some (.mxwait) else
    none
  | _ => none

/-- Words of major 0x31 (Copy), selectors and zero fields as R47-R62 give them. -/
noncomputable def decodeCopy (w : Nat) : Option Instr :=
  match bitsAt w 6 3 with
  | 0 =>
    if bitsAt w 0 6 = 0 then some (.cpy (fieldAt w 21 5) (fieldAt w 16 5) (fieldAt w 11 5) (fieldAt w 9 2)) else
    none
  | 1 =>
    if bitsAt w 11 1 = 0 ∧ bitsAt w 0 6 = 0 then some (.cpy2d (fieldAt w 21 5) (fieldAt w 16 5) (fieldAt w 12 4) (fieldAt w 9 2)) else
    none
  | 2 =>
    if bitsAt w 11 1 = 0 ∧ bitsAt w 0 6 = 0 then some (.cpyg (fieldAt w 21 5) (fieldAt w 16 5) (fieldAt w 12 4) (fieldAt w 9 2)) else
    none
  | 3 =>
    if bitsAt w 0 6 = 0 then some (.cpyf (fieldAt w 21 5) (fieldAt w 16 5) (fieldAt w 11 5) (fieldAt w 9 2)) else
    none
  | 4 =>
    if bitsAt w 21 1 = 0 ∧ bitsAt w 11 5 = 0 ∧ bitsAt w 0 6 = 0 then some (.cpyres (fieldAt w 22 4) (fieldAt w 16 5) (fieldAt w 9 2)) else
    none
  | _ => none

/-- Words of major 0x32 (Newel), selectors and zero fields as R47-R62 give them. -/
noncomputable def decodeNewel (w : Nat) : Option Instr :=
  match bitsAt w 0 3 with
  | 0 =>
    if bitsAt w 4 3 = 0 then some (.seminc (fieldAt w 21 5) (fieldAt w 16 5) (fieldAt w 7 9) (fieldAt w 3 1)) else
    none
  | 1 =>
    if bitsAt w 4 3 = 0 then some (.semset (fieldAt w 21 5) (fieldAt w 16 5) (fieldAt w 7 9) (fieldAt w 3 1)) else
    none
  | 2 =>
    if bitsAt w 3 13 = 0 then some (.semwait (fieldAt w 21 5) (fieldAt w 16 5)) else
    none
  | 3 =>
    if bitsAt w 4 3 = 0 then some (.semrd (fieldAt w 21 5) (fieldAt w 16 5) (fieldAt w 7 9) (fieldAt w 3 1)) else
    none
  | 4 =>
    if bitsAt w 4 3 = 0 then some (.barinit (fieldAt w 21 5) (fieldAt w 16 5) (fieldAt w 7 9) (fieldAt w 3 1)) else
    none
  | 5 =>
    if bitsAt w 4 3 = 0 then some (.bararr (fieldAt w 21 5) (fieldAt w 16 5) (fieldAt w 7 9) (fieldAt w 3 1)) else
    none
  | 6 =>
    if bitsAt w 3 13 = 0 then some (.barwait (fieldAt w 21 5) (fieldAt w 16 5)) else
    none
  | _ => none

/-- Words of major 0x33 (Port), selectors and zero fields as R47-R62 give them. -/
noncomputable def decodePort (w : Nat) : Option Instr :=
  match bitsAt w 1 1 with
  | 0 =>
    if bitsAt w 2 19 = 0 then some (.vsend (fieldAt w 21 5) (fieldAt w 0 1)) else
    none
  | 1 =>
    if bitsAt w 16 10 = 0 ∧ bitsAt w 2 5 = 0 then some (.vchain (fieldAt w 7 9) (fieldAt w 0 1)) else
    none
  | _ => none

/-- Words of major 0x34 (Schedule), selectors and zero fields as R47-R62 give them. -/
noncomputable def decodeSchedule (w : Nat) : Option Instr :=
  match bitsAt w 0 11 with
  | 0 =>
    if bitsAt w 11 5 = 0 then some (.spawn (fieldAt w 21 5) (fieldAt w 16 5)) else
    none
  | 1 =>
    some (.spawnc (fieldAt w 21 5) (fieldAt w 16 5) (fieldAt w 11 5))
  | 2 =>
    if bitsAt w 11 5 = 0 then some (.jdec (fieldAt w 21 5) (fieldAt w 16 5)) else
    none
  | 3 =>
    if bitsAt w 11 5 = 0 then some (.lread (fieldAt w 21 5) (fieldAt w 16 5)) else
    none
  | _ => none

/-- Words of major 0x35 (Cache), selectors and zero fields as R47-R62 give them. -/
noncomputable def decodeCache (w : Nat) : Option Instr :=
  match bitsAt w 11 5 with
  | 0 =>
    if bitsAt w 0 11 = 0 then some (.cflush (fieldAt w 21 5) (fieldAt w 16 5)) else
    none
  | 1 =>
    if bitsAt w 0 11 = 0 then some (.cinv (fieldAt w 21 5) (fieldAt w 16 5)) else
    none
  | 2 =>
    if bitsAt w 0 11 = 0 then some (.cpref (fieldAt w 21 5) (fieldAt w 16 5)) else
    none
  | 3 =>
    if bitsAt w 3 8 = 0 then some (.tlbinv (fieldAt w 21 5) (fieldAt w 16 5) (fieldAt w 0 3)) else
    none
  | _ => none

/-- Words of major 0x36 (Undercroft), selectors and zero fields as R47-R62 give them. -/
noncomputable def decodeUndercroft (w : Nat) : Option Instr :=
  match bitsAt w 11 5 with
  | 0 =>
    if bitsAt w 16 6 = 0 ∧ bitsAt w 4 7 = 0 ∧ bitsAt w 0 3 = 0 then some (.ubulkZero (fieldAt w 22 4) (fieldAt w 3 1)) else
    if bitsAt w 21 1 = 0 ∧ bitsAt w 16 2 = 0 ∧ bitsAt w 0 11 = 4 then some (.ubulkMaj3 (fieldAt w 22 4) (fieldAt w 18 3)) else
    if bitsAt w 21 1 = 0 ∧ bitsAt w 16 1 = 0 ∧ bitsAt w 0 11 = 2 then some (.ubulkAnd (fieldAt w 22 4) (fieldAt w 17 4)) else
    if bitsAt w 21 1 = 0 ∧ bitsAt w 16 1 = 0 ∧ bitsAt w 0 11 = 3 then some (.ubulkOr (fieldAt w 22 4) (fieldAt w 17 4)) else
    if bitsAt w 21 1 = 0 ∧ bitsAt w 0 11 = 1 then some (.ubulkCopy (fieldAt w 22 4) (fieldAt w 16 5)) else
    if bitsAt w 21 1 = 0 ∧ bitsAt w 0 11 = 5 then some (.ubulkNot (fieldAt w 22 4) (fieldAt w 16 5)) else
    none
  | 1 =>
    if bitsAt w 16 5 = 0 ∧ bitsAt w 0 11 = 0 then some (.uwait (fieldAt w 21 5)) else
    none
  | _ => none

/-- Words of major 0x37 (Host), selectors and zero fields as R47-R62 give them. -/
noncomputable def decodeHost (w : Nat) : Option Instr :=
  match bitsAt w 11 5 with
  | 0 =>
    if bitsAt w 4 7 = 0 then some (.hpost (fieldAt w 21 5) (fieldAt w 16 5) (fieldAt w 0 4)) else
    none
  | 1 =>
    if bitsAt w 0 11 = 0 then some (.gsig (fieldAt w 21 5) (fieldAt w 16 5)) else
    none
  | _ => none

/-- Words of major 0x38 (Fabric), selectors and zero fields as R47-R62 give them. -/
noncomputable def decodeFabric (w : Nat) : Option Instr :=
  match bitsAt w 11 5 with
  | 0 =>
    if bitsAt w 21 5 = 0 ∧ bitsAt w 3 8 = 0 ∧ bitsAt w 0 2 = 0 then some (.collAllreduce (fieldAt w 16 5) (fieldAt w 2 1)) else
    if bitsAt w 21 5 = 0 ∧ bitsAt w 3 8 = 0 ∧ bitsAt w 0 2 = 1 then some (.collRedscat (fieldAt w 16 5) (fieldAt w 2 1)) else
    if bitsAt w 21 5 = 0 ∧ bitsAt w 3 8 = 0 ∧ bitsAt w 0 2 = 2 then some (.collAllgath (fieldAt w 16 5) (fieldAt w 2 1)) else
    if bitsAt w 21 5 = 0 ∧ bitsAt w 3 8 = 0 ∧ bitsAt w 0 2 = 3 then some (.collBcast (fieldAt w 16 5) (fieldAt w 2 1)) else
    none
  | 1 =>
    if bitsAt w 0 11 = 0 then some (.collw (fieldAt w 21 5) (fieldAt w 16 5)) else
    none
  | 2 =>
    if bitsAt w 21 1 = 0 ∧ bitsAt w 0 11 = 0 then some (.fput (fieldAt w 22 4) (fieldAt w 16 5)) else
    none
  | 3 =>
    if bitsAt w 21 1 = 0 ∧ bitsAt w 0 11 = 0 then some (.fget (fieldAt w 22 4) (fieldAt w 16 5)) else
    none
  | _ => none

/-- The decoder's choice by major opcode (R47); a reserved major has no instruction. -/
noncomputable def decodeMajor (w : Nat) : Option Instr :=
  match bitsAt w 26 6 with
  | 1 => decodeAlu w
  | 2 => decodeAddi w
  | 3 => decodeAndi w
  | 4 => decodeOri w
  | 5 => decodeXori w
  | 6 => decodeSetLess w
  | 7 => decodeShiftImm w
  | 8 => decodeLih w
  | 9 => decodeBitField w
  | 10 => decodeLoad w
  | 12 => decodeStore w
  | 13 => decodeTcm w
  | 14 => decodeFloat w
  | 16 => decodeBeq w
  | 17 => decodeBne w
  | 18 => decodeBlt w
  | 19 => decodeBge w
  | 20 => decodeBltu w
  | 21 => decodeBgeu w
  | 22 => decodeBeng w
  | 23 => decodeJal w
  | 24 => decodeJalr w
  | 25 => decodeSystem w
  | 26 => decodeSbar w
  | 27 => decodeAtomic w
  | 32 => decodeVecConfig w
  | 33 => decodeVnext w
  | 34 => decodeVecInt w
  | 35 => decodeVecIntS w
  | 36 => decodeVecFloat w
  | 37 => decodeVecFloatS w
  | 38 => decodeVecCompare w
  | 39 => decodeMask w
  | 40 => decodeAssociative w
  | 41 => decodeReduce w
  | 42 => decodePermute w
  | 43 => decodeVecLoad w
  | 44 => decodeVecStore w
  | 45 => decodeVecAtomic w
  | 46 => decodeConvert w
  | 48 => decodeMezzanine w
  | 49 => decodeCopy w
  | 50 => decodeNewel w
  | 51 => decodePort w
  | 52 => decodeSchedule w
  | 53 => decodeCache w
  | 54 => decodeUndercroft w
  | 55 => decodeHost w
  | 56 => decodeFabric w
  | _ => none

/-- R36, R39, R40: what a fetched word is. -/
noncomputable def decodeWord (w : BitVec 32) : Instr :=
  if isGuardWord w then .guard w
  else match decodeMajor w.toNat with
    | some i => if wellFormed i then i else .illegalInstruction w
    | none => .illegalInstruction w

/-- Why bytes are no instruction word. -/
inductive DecodeError where
  /-- Fewer than the four bytes of a word (R36) are left. -/
  | truncated
  deriving DecidableEq, Repr

/-- Four bytes, little-endian (R36). -/
def wordOfBytes (b0 b1 b2 b3 : Byte) : BitVec 32 :=
  BitVec.ofNat 32 (b0.toNat + b1.toNat * 0x100 + b2.toNat * 0x10000 + b3.toNat * 0x1000000)

/-- The bytes of a word, lowest address first. -/
def bytesOfWord (w : BitVec 32) : List Byte :=
  [BitVec.ofNat 8 w.toNat, BitVec.ofNat 8 (w.toNat / 0x100), BitVec.ofNat 8 (w.toNat / 0x10000),
   BitVec.ofNat 8 (w.toNat / 0x1000000)]

/-- The first instruction of a byte sequence, and the bytes after it. -/
noncomputable def decode : List Byte → Except DecodeError (Instr × List Byte)
  | b0 :: b1 :: b2 :: b3 :: rest => .ok (decodeWord (wordOfBytes b0 b1 b2 b3), rest)
  | _ => .error .truncated

/-- The host's question: the instruction read from a word of the opcode table, given as its number of bits and its value. -/
noncomputable def decodeTableWord (nbits w : Nat) : Option Instr :=
  if nbits ≤ 32 then
    match decode (bytesOfWord (BitVec.ofNat 32 w)) with
    | .ok (i, _) => some i
    | .error _ => none
  else none

/-- The word of an instruction as a number, from the same tables; an event has none. -/
def encodeNat : Instr → Option Nat
  | .nop => some (0x08000000)
  | .guard w => some w.toNat
  | .illegalInstruction w => some w.toNat
  | .add a b c => some (0x04000000 + a.toNat * 0x200000 + b.toNat * 0x10000 + c.toNat * 0x800)
  | .sub a b c => some (0x04000001 + a.toNat * 0x200000 + b.toNat * 0x10000 + c.toNat * 0x800)
  | .and a b c => some (0x04000002 + a.toNat * 0x200000 + b.toNat * 0x10000 + c.toNat * 0x800)
  | .or a b c => some (0x04000003 + a.toNat * 0x200000 + b.toNat * 0x10000 + c.toNat * 0x800)
  | .xor a b c => some (0x04000004 + a.toNat * 0x200000 + b.toNat * 0x10000 + c.toNat * 0x800)
  | .sll a b c => some (0x04000005 + a.toNat * 0x200000 + b.toNat * 0x10000 + c.toNat * 0x800)
  | .srl a b c => some (0x04000006 + a.toNat * 0x200000 + b.toNat * 0x10000 + c.toNat * 0x800)
  | .sra a b c => some (0x04000007 + a.toNat * 0x200000 + b.toNat * 0x10000 + c.toNat * 0x800)
  | .slt a b c => some (0x04000008 + a.toNat * 0x200000 + b.toNat * 0x10000 + c.toNat * 0x800)
  | .sltu a b c => some (0x04000009 + a.toNat * 0x200000 + b.toNat * 0x10000 + c.toNat * 0x800)
  | .min a b c => some (0x0400000A + a.toNat * 0x200000 + b.toNat * 0x10000 + c.toNat * 0x800)
  | .max a b c => some (0x0400000B + a.toNat * 0x200000 + b.toNat * 0x10000 + c.toNat * 0x800)
  | .minu a b c => some (0x0400000C + a.toNat * 0x200000 + b.toNat * 0x10000 + c.toNat * 0x800)
  | .maxu a b c => some (0x0400000D + a.toNat * 0x200000 + b.toNat * 0x10000 + c.toNat * 0x800)
  | .mul a b c => some (0x04000010 + a.toNat * 0x200000 + b.toNat * 0x10000 + c.toNat * 0x800)
  | .mulh a b c => some (0x04000011 + a.toNat * 0x200000 + b.toNat * 0x10000 + c.toNat * 0x800)
  | .mulhu a b c => some (0x04000012 + a.toNat * 0x200000 + b.toNat * 0x10000 + c.toNat * 0x800)
  | .div a b c => some (0x04000014 + a.toNat * 0x200000 + b.toNat * 0x10000 + c.toNat * 0x800)
  | .divu a b c => some (0x04000015 + a.toNat * 0x200000 + b.toNat * 0x10000 + c.toNat * 0x800)
  | .rem a b c => some (0x04000016 + a.toNat * 0x200000 + b.toNat * 0x10000 + c.toNat * 0x800)
  | .remu a b c => some (0x04000017 + a.toNat * 0x200000 + b.toNat * 0x10000 + c.toNat * 0x800)
  | .clz a b => some (0x04000018 + a.toNat * 0x200000 + b.toNat * 0x10000)
  | .ctz a b => some (0x04000019 + a.toNat * 0x200000 + b.toNat * 0x10000)
  | .popc a b => some (0x0400001A + a.toNat * 0x200000 + b.toNat * 0x10000)
  | .sextw a b => some (0x0400001B + a.toNat * 0x200000 + b.toNat * 0x10000)
  | .zextw a b => some (0x0400001C + a.toNat * 0x200000 + b.toNat * 0x10000)
  | .addsc a b c k => some (0x04000020 + a.toNat * 0x200000 + b.toNat * 0x10000 + c.toNat * 0x800 + k.toNat * 0x1)
  | .addi a b i => some (0x08000000 + a.toNat * 0x200000 + b.toNat * 0x10000 + i.toNat * 0x1)
  | .andi a b i => some (0x0C000000 + a.toNat * 0x200000 + b.toNat * 0x10000 + i.toNat * 0x1)
  | .ori a b i => some (0x10000000 + a.toNat * 0x200000 + b.toNat * 0x10000 + i.toNat * 0x1)
  | .xori a b i => some (0x14000000 + a.toNat * 0x200000 + b.toNat * 0x10000 + i.toNat * 0x1)
  | .slti a b k => some (0x18000000 + a.toNat * 0x200000 + b.toNat * 0x10000 + k.toNat * 0x1)
  | .sltiu a b k => some (0x18000800 + a.toNat * 0x200000 + b.toNat * 0x10000 + k.toNat * 0x1)
  | .slli a b k => some (0x1C000000 + a.toNat * 0x200000 + b.toNat * 0x10000 + k.toNat * 0x1)
  | .srli a b k => some (0x1C000800 + a.toNat * 0x200000 + b.toNat * 0x10000 + k.toNat * 0x1)
  | .srai a b k => some (0x1C001000 + a.toNat * 0x200000 + b.toNat * 0x10000 + k.toNat * 0x1)
  | .lih a h i => some (0x20000000 + a.toNat * 0x200000 + h.toNat * 0x10000 + i.toNat * 0x1)
  | .lihZ a h i => some (0x20040000 + a.toNat * 0x200000 + h.toNat * 0x10000 + i.toNat * 0x1)
  | .bext a b p l => some (0x24000000 + a.toNat * 0x200000 + b.toNat * 0x10000 + p.toNat * 0x40 + l.toNat * 0x1)
  | .bins a b p l => some (0x24001000 + a.toNat * 0x200000 + b.toNat * 0x10000 + p.toNat * 0x40 + l.toNat * 0x1)
  | .ldb a b i => some (0x28000000 + a.toNat * 0x200000 + b.toNat * 0x10000 + i.toNat * 0x1)
  | .ldh a b i => some (0x28002000 + a.toNat * 0x200000 + b.toNat * 0x10000 + i.toNat * 0x1)
  | .ldw a b i => some (0x28004000 + a.toNat * 0x200000 + b.toNat * 0x10000 + i.toNat * 0x1)
  | .ldd a b i => some (0x28006000 + a.toNat * 0x200000 + b.toNat * 0x10000 + i.toNat * 0x1)
  | .ldbu a b i => some (0x28008000 + a.toNat * 0x200000 + b.toNat * 0x10000 + i.toNat * 0x1)
  | .ldhu a b i => some (0x2800A000 + a.toNat * 0x200000 + b.toNat * 0x10000 + i.toNat * 0x1)
  | .ldwu a b i => some (0x2800C000 + a.toNat * 0x200000 + b.toNat * 0x10000 + i.toNat * 0x1)
  | .pref h b i => some (0x2800E000 + h.toNat * 0x200000 + b.toNat * 0x10000 + i.toNat * 0x1)
  | .stb a b i => some (0x30000000 + a.toNat * 0x200000 + b.toNat * 0x10000 + i.toNat * 0x1)
  | .sth a b i => some (0x30002000 + a.toNat * 0x200000 + b.toNat * 0x10000 + i.toNat * 0x1)
  | .stw a b i => some (0x30004000 + a.toNat * 0x200000 + b.toNat * 0x10000 + i.toNat * 0x1)
  | .std a b i => some (0x30006000 + a.toNat * 0x200000 + b.toNat * 0x10000 + i.toNat * 0x1)
  | .ldt a b i => some (0x34000000 + a.toNat * 0x200000 + b.toNat * 0x10000 + i.toNat * 0x1)
  | .stt a b i => some (0x34002000 + a.toNat * 0x200000 + b.toNat * 0x10000 + i.toNat * 0x1)
  | .fadd a b c d => some (0x38000000 + a.toNat * 0x200000 + b.toNat * 0x10000 + c.toNat * 0x800 + d.toNat * 0x8)
  | .fsub a b c d => some (0x38000010 + a.toNat * 0x200000 + b.toNat * 0x10000 + c.toNat * 0x800 + d.toNat * 0x8)
  | .fmul a b c d => some (0x38000020 + a.toNat * 0x200000 + b.toNat * 0x10000 + c.toNat * 0x800 + d.toNat * 0x8)
  | .fdiv a b c d => some (0x38000030 + a.toNat * 0x200000 + b.toNat * 0x10000 + c.toNat * 0x800 + d.toNat * 0x8)
  | .fsqrt a b d => some (0x38000040 + a.toNat * 0x200000 + b.toNat * 0x10000 + d.toNat * 0x8)
  | .fma a b c d => some (0x38000050 + a.toNat * 0x200000 + b.toNat * 0x10000 + c.toNat * 0x800 + d.toNat * 0x8)
  | .fmin a b c d => some (0x38000060 + a.toNat * 0x200000 + b.toNat * 0x10000 + c.toNat * 0x800 + d.toNat * 0x8)
  | .fmax a b c d => some (0x38000070 + a.toNat * 0x200000 + b.toNat * 0x10000 + c.toNat * 0x800 + d.toNat * 0x8)
  | .feq a b c d => some (0x38000080 + a.toNat * 0x200000 + b.toNat * 0x10000 + c.toNat * 0x800 + d.toNat * 0x8)
  | .flt a b c d => some (0x38000090 + a.toNat * 0x200000 + b.toNat * 0x10000 + c.toNat * 0x800 + d.toNat * 0x8)
  | .fle a b c d => some (0x380000A0 + a.toNat * 0x200000 + b.toNat * 0x10000 + c.toNat * 0x800 + d.toNat * 0x8)
  | .fclass a b d => some (0x380000B0 + a.toNat * 0x200000 + b.toNat * 0x10000 + d.toNat * 0x8)
  | .fcvtDS a b => some (0x380000C0 + a.toNat * 0x200000 + b.toNat * 0x10000)
  | .fcvtSD a b => some (0x380008C0 + a.toNat * 0x200000 + b.toNat * 0x10000)
  | .fcvtSL a b => some (0x380010C0 + a.toNat * 0x200000 + b.toNat * 0x10000)
  | .fcvtDL a b => some (0x380018C0 + a.toNat * 0x200000 + b.toNat * 0x10000)
  | .fcvtLS a b => some (0x380020C0 + a.toNat * 0x200000 + b.toNat * 0x10000)
  | .fcvtLD a b => some (0x380028C0 + a.toNat * 0x200000 + b.toNat * 0x10000)
  | .fcvtSLu a b => some (0x380030C0 + a.toNat * 0x200000 + b.toNat * 0x10000)
  | .fcvtDLu a b => some (0x380038C0 + a.toNat * 0x200000 + b.toNat * 0x10000)
  | .fcvtLuS a b => some (0x380040C0 + a.toNat * 0x200000 + b.toNat * 0x10000)
  | .fcvtLuD a b => some (0x380048C0 + a.toNat * 0x200000 + b.toNat * 0x10000)
  | .beq a b o => some (0x40000000 + a.toNat * 0x200000 + b.toNat * 0x10000 + o.toNat * 0x1)
  | .bne a b o => some (0x44000000 + a.toNat * 0x200000 + b.toNat * 0x10000 + o.toNat * 0x1)
  | .blt a b o => some (0x48000000 + a.toNat * 0x200000 + b.toNat * 0x10000 + o.toNat * 0x1)
  | .bge a b o => some (0x4C000000 + a.toNat * 0x200000 + b.toNat * 0x10000 + o.toNat * 0x1)
  | .bltu a b o => some (0x50000000 + a.toNat * 0x200000 + b.toNat * 0x10000 + o.toNat * 0x1)
  | .bgeu a b o => some (0x54000000 + a.toNat * 0x200000 + b.toNat * 0x10000 + o.toNat * 0x1)
  | .beng e s b o => some (0x58000000 + e.toNat * 0x200000 + s.toNat * 0x100000 + b.toNat * 0x10000 + o.toNat * 0x1)
  | .jal o => some (0x5C000000 + o.toNat * 0x1)
  | .jalr a b i => some (0x60000000 + a.toNat * 0x200000 + b.toNat * 0x10000 + i.toNat * 0x1)
  | .svc k => some (0x64000000 + k.toNat * 0x1)
  | .rets => some (0x64000800)
  | .brk k => some (0x64001000 + k.toNat * 0x1)
  | .getc a k => some (0x64001800 + a.toNat * 0x200000 + k.toNat * 0x1)
  | .setc b k => some (0x64002000 + b.toNat * 0x10000 + k.toNat * 0x1)
  | .setcStatus b => some (0x64002000 + b.toNat * 0x10000)
  | .setcSflags b => some (0x64002001 + b.toNat * 0x10000)
  | .setcVcfg b => some (0x64002002 + b.toNat * 0x10000)
  | .setcMxcfg b => some (0x64002008 + b.toNat * 0x10000)
  | .setcVresume b => some (0x6400200B + b.toNat * 0x10000)
  | .setcChainsrc b => some (0x6400200D + b.toNat * 0x10000)
  | .setcRrate b n => some (0x64002402 + b.toNat * 0x10000 + n.toNat * 0x8)
  | .regionDrainDone _ => none
  | .endStrand => some (0x64002800)
  | .yield => some (0x64003000)
  | .wait => some (0x64003800)
  | .vacq k => some (0x64004000 + k.toNat * 0x1)
  | .vrel => some (0x64004800)
  | .sbarAcquire w h s => some (0x68000000 + w.toNat * 0x200000 + h.toNat * 0x10000 + s.toNat * 0x2000)
  | .sbarRelease w h s => some (0x68000800 + w.toNat * 0x200000 + h.toNat * 0x10000 + s.toNat * 0x2000)
  | .sbarFull w h s => some (0x68001000 + w.toNat * 0x200000 + h.toNat * 0x10000 + s.toNat * 0x2000)
  | .ldl a b q z => some (0x6C000000 + a.toNat * 0x200000 + b.toNat * 0x10000 + q.toNat * 0x8 + z.toNat * 0x2)
  | .stc a b c r z => some (0x6C000100 + a.toNat * 0x200000 + b.toNat * 0x10000 + c.toNat * 0x800 + r.toNat * 0x4 + z.toNat * 0x2)
  | .amoAdd a b c q z => some (0x6C000200 + a.toNat * 0x200000 + b.toNat * 0x10000 + c.toNat * 0x800 + q.toNat * 0x4 + z.toNat * 0x2)
  | .amoMin a b c q z => some (0x6C000210 + a.toNat * 0x200000 + b.toNat * 0x10000 + c.toNat * 0x800 + q.toNat * 0x4 + z.toNat * 0x2)
  | .amoMax a b c q z => some (0x6C000220 + a.toNat * 0x200000 + b.toNat * 0x10000 + c.toNat * 0x800 + q.toNat * 0x4 + z.toNat * 0x2)
  | .amoMinu a b c q z => some (0x6C000230 + a.toNat * 0x200000 + b.toNat * 0x10000 + c.toNat * 0x800 + q.toNat * 0x4 + z.toNat * 0x2)
  | .amoMaxu a b c q z => some (0x6C000240 + a.toNat * 0x200000 + b.toNat * 0x10000 + c.toNat * 0x800 + q.toNat * 0x4 + z.toNat * 0x2)
  | .amoAnd a b c q z => some (0x6C000250 + a.toNat * 0x200000 + b.toNat * 0x10000 + c.toNat * 0x800 + q.toNat * 0x4 + z.toNat * 0x2)
  | .amoOr a b c q z => some (0x6C000260 + a.toNat * 0x200000 + b.toNat * 0x10000 + c.toNat * 0x800 + q.toNat * 0x4 + z.toNat * 0x2)
  | .amoXor a b c q z => some (0x6C000270 + a.toNat * 0x200000 + b.toNat * 0x10000 + c.toNat * 0x800 + q.toNat * 0x4 + z.toNat * 0x2)
  | .amoSwap a b c q z => some (0x6C000280 + a.toNat * 0x200000 + b.toNat * 0x10000 + c.toNat * 0x800 + q.toNat * 0x4 + z.toNat * 0x2)
  | .amoCas a b c q z => some (0x6C000290 + a.toNat * 0x200000 + b.toNat * 0x10000 + c.toNat * 0x800 + q.toNat * 0x4 + z.toNat * 0x2)
  | .vsetcfg a b => some (0x80000000 + a.toNat * 0x200000 + b.toNat * 0x10000)
  | .vbegin a b => some (0x80000800 + a.toNat * 0x200000 + b.toNat * 0x10000)
  | .vnext a o => some (0x84000000 + a.toNat * 0x200000 + o.toNat * 0x1)
  | .vadd d a b msk mp => some (0x88000000 + d.toNat * 0x200000 + a.toNat * 0x10000 + b.toNat * 0x800 + msk.toNat * 0x200 + mp.toNat * 0x100)
  | .vaddS d a b msk mp => some (0x8C000000 + d.toNat * 0x200000 + a.toNat * 0x10000 + b.toNat * 0x800 + msk.toNat * 0x200 + mp.toNat * 0x100)
  | .vsub d a b msk mp => some (0x88000001 + d.toNat * 0x200000 + a.toNat * 0x10000 + b.toNat * 0x800 + msk.toNat * 0x200 + mp.toNat * 0x100)
  | .vsubS d a b msk mp => some (0x8C000001 + d.toNat * 0x200000 + a.toNat * 0x10000 + b.toNat * 0x800 + msk.toNat * 0x200 + mp.toNat * 0x100)
  | .vrsub d a b msk mp => some (0x88000002 + d.toNat * 0x200000 + a.toNat * 0x10000 + b.toNat * 0x800 + msk.toNat * 0x200 + mp.toNat * 0x100)
  | .vrsubS d a b msk mp => some (0x8C000002 + d.toNat * 0x200000 + a.toNat * 0x10000 + b.toNat * 0x800 + msk.toNat * 0x200 + mp.toNat * 0x100)
  | .vmul d a b msk mp => some (0x88000003 + d.toNat * 0x200000 + a.toNat * 0x10000 + b.toNat * 0x800 + msk.toNat * 0x200 + mp.toNat * 0x100)
  | .vmulS d a b msk mp => some (0x8C000003 + d.toNat * 0x200000 + a.toNat * 0x10000 + b.toNat * 0x800 + msk.toNat * 0x200 + mp.toNat * 0x100)
  | .vmulh d a b msk mp => some (0x88000004 + d.toNat * 0x200000 + a.toNat * 0x10000 + b.toNat * 0x800 + msk.toNat * 0x200 + mp.toNat * 0x100)
  | .vmulhS d a b msk mp => some (0x8C000004 + d.toNat * 0x200000 + a.toNat * 0x10000 + b.toNat * 0x800 + msk.toNat * 0x200 + mp.toNat * 0x100)
  | .vmulhu d a b msk mp => some (0x88000005 + d.toNat * 0x200000 + a.toNat * 0x10000 + b.toNat * 0x800 + msk.toNat * 0x200 + mp.toNat * 0x100)
  | .vmulhuS d a b msk mp => some (0x8C000005 + d.toNat * 0x200000 + a.toNat * 0x10000 + b.toNat * 0x800 + msk.toNat * 0x200 + mp.toNat * 0x100)
  | .vdiv d a b msk mp => some (0x88000006 + d.toNat * 0x200000 + a.toNat * 0x10000 + b.toNat * 0x800 + msk.toNat * 0x200 + mp.toNat * 0x100)
  | .vdivS d a b msk mp => some (0x8C000006 + d.toNat * 0x200000 + a.toNat * 0x10000 + b.toNat * 0x800 + msk.toNat * 0x200 + mp.toNat * 0x100)
  | .vdivu d a b msk mp => some (0x88000007 + d.toNat * 0x200000 + a.toNat * 0x10000 + b.toNat * 0x800 + msk.toNat * 0x200 + mp.toNat * 0x100)
  | .vdivuS d a b msk mp => some (0x8C000007 + d.toNat * 0x200000 + a.toNat * 0x10000 + b.toNat * 0x800 + msk.toNat * 0x200 + mp.toNat * 0x100)
  | .vrem d a b msk mp => some (0x88000008 + d.toNat * 0x200000 + a.toNat * 0x10000 + b.toNat * 0x800 + msk.toNat * 0x200 + mp.toNat * 0x100)
  | .vremS d a b msk mp => some (0x8C000008 + d.toNat * 0x200000 + a.toNat * 0x10000 + b.toNat * 0x800 + msk.toNat * 0x200 + mp.toNat * 0x100)
  | .vremu d a b msk mp => some (0x88000009 + d.toNat * 0x200000 + a.toNat * 0x10000 + b.toNat * 0x800 + msk.toNat * 0x200 + mp.toNat * 0x100)
  | .vremuS d a b msk mp => some (0x8C000009 + d.toNat * 0x200000 + a.toNat * 0x10000 + b.toNat * 0x800 + msk.toNat * 0x200 + mp.toNat * 0x100)
  | .vand d a b msk mp => some (0x8800000A + d.toNat * 0x200000 + a.toNat * 0x10000 + b.toNat * 0x800 + msk.toNat * 0x200 + mp.toNat * 0x100)
  | .vandS d a b msk mp => some (0x8C00000A + d.toNat * 0x200000 + a.toNat * 0x10000 + b.toNat * 0x800 + msk.toNat * 0x200 + mp.toNat * 0x100)
  | .vor d a b msk mp => some (0x8800000B + d.toNat * 0x200000 + a.toNat * 0x10000 + b.toNat * 0x800 + msk.toNat * 0x200 + mp.toNat * 0x100)
  | .vorS d a b msk mp => some (0x8C00000B + d.toNat * 0x200000 + a.toNat * 0x10000 + b.toNat * 0x800 + msk.toNat * 0x200 + mp.toNat * 0x100)
  | .vxor d a b msk mp => some (0x8800000C + d.toNat * 0x200000 + a.toNat * 0x10000 + b.toNat * 0x800 + msk.toNat * 0x200 + mp.toNat * 0x100)
  | .vxorS d a b msk mp => some (0x8C00000C + d.toNat * 0x200000 + a.toNat * 0x10000 + b.toNat * 0x800 + msk.toNat * 0x200 + mp.toNat * 0x100)
  | .vnot d a msk mp => some (0x8800000D + d.toNat * 0x200000 + a.toNat * 0x10000 + msk.toNat * 0x200 + mp.toNat * 0x100)
  | .vsll d a b msk mp => some (0x8800000E + d.toNat * 0x200000 + a.toNat * 0x10000 + b.toNat * 0x800 + msk.toNat * 0x200 + mp.toNat * 0x100)
  | .vsllS d a b msk mp => some (0x8C00000E + d.toNat * 0x200000 + a.toNat * 0x10000 + b.toNat * 0x800 + msk.toNat * 0x200 + mp.toNat * 0x100)
  | .vsrl d a b msk mp => some (0x8800000F + d.toNat * 0x200000 + a.toNat * 0x10000 + b.toNat * 0x800 + msk.toNat * 0x200 + mp.toNat * 0x100)
  | .vsrlS d a b msk mp => some (0x8C00000F + d.toNat * 0x200000 + a.toNat * 0x10000 + b.toNat * 0x800 + msk.toNat * 0x200 + mp.toNat * 0x100)
  | .vsra d a b msk mp => some (0x88000010 + d.toNat * 0x200000 + a.toNat * 0x10000 + b.toNat * 0x800 + msk.toNat * 0x200 + mp.toNat * 0x100)
  | .vsraS d a b msk mp => some (0x8C000010 + d.toNat * 0x200000 + a.toNat * 0x10000 + b.toNat * 0x800 + msk.toNat * 0x200 + mp.toNat * 0x100)
  | .vmin d a b msk mp => some (0x88000011 + d.toNat * 0x200000 + a.toNat * 0x10000 + b.toNat * 0x800 + msk.toNat * 0x200 + mp.toNat * 0x100)
  | .vminS d a b msk mp => some (0x8C000011 + d.toNat * 0x200000 + a.toNat * 0x10000 + b.toNat * 0x800 + msk.toNat * 0x200 + mp.toNat * 0x100)
  | .vmax d a b msk mp => some (0x88000012 + d.toNat * 0x200000 + a.toNat * 0x10000 + b.toNat * 0x800 + msk.toNat * 0x200 + mp.toNat * 0x100)
  | .vmaxS d a b msk mp => some (0x8C000012 + d.toNat * 0x200000 + a.toNat * 0x10000 + b.toNat * 0x800 + msk.toNat * 0x200 + mp.toNat * 0x100)
  | .vminu d a b msk mp => some (0x88000013 + d.toNat * 0x200000 + a.toNat * 0x10000 + b.toNat * 0x800 + msk.toNat * 0x200 + mp.toNat * 0x100)
  | .vminuS d a b msk mp => some (0x8C000013 + d.toNat * 0x200000 + a.toNat * 0x10000 + b.toNat * 0x800 + msk.toNat * 0x200 + mp.toNat * 0x100)
  | .vmaxu d a b msk mp => some (0x88000014 + d.toNat * 0x200000 + a.toNat * 0x10000 + b.toNat * 0x800 + msk.toNat * 0x200 + mp.toNat * 0x100)
  | .vmaxuS d a b msk mp => some (0x8C000014 + d.toNat * 0x200000 + a.toNat * 0x10000 + b.toNat * 0x800 + msk.toNat * 0x200 + mp.toNat * 0x100)
  | .vneg d a msk mp => some (0x88000015 + d.toNat * 0x200000 + a.toNat * 0x10000 + msk.toNat * 0x200 + mp.toNat * 0x100)
  | .vsadd d a b msk mp => some (0x88000016 + d.toNat * 0x200000 + a.toNat * 0x10000 + b.toNat * 0x800 + msk.toNat * 0x200 + mp.toNat * 0x100)
  | .vsaddS d a b msk mp => some (0x8C000016 + d.toNat * 0x200000 + a.toNat * 0x10000 + b.toNat * 0x800 + msk.toNat * 0x200 + mp.toNat * 0x100)
  | .vssub d a b msk mp => some (0x88000017 + d.toNat * 0x200000 + a.toNat * 0x10000 + b.toNat * 0x800 + msk.toNat * 0x200 + mp.toNat * 0x100)
  | .vssubS d a b msk mp => some (0x8C000017 + d.toNat * 0x200000 + a.toNat * 0x10000 + b.toNat * 0x800 + msk.toNat * 0x200 + mp.toNat * 0x100)
  | .vsaddu d a b msk mp => some (0x88000018 + d.toNat * 0x200000 + a.toNat * 0x10000 + b.toNat * 0x800 + msk.toNat * 0x200 + mp.toNat * 0x100)
  | .vsadduS d a b msk mp => some (0x8C000018 + d.toNat * 0x200000 + a.toNat * 0x10000 + b.toNat * 0x800 + msk.toNat * 0x200 + mp.toNat * 0x100)
  | .vssubu d a b msk mp => some (0x88000019 + d.toNat * 0x200000 + a.toNat * 0x10000 + b.toNat * 0x800 + msk.toNat * 0x200 + mp.toNat * 0x100)
  | .vssubuS d a b msk mp => some (0x8C000019 + d.toNat * 0x200000 + a.toNat * 0x10000 + b.toNat * 0x800 + msk.toNat * 0x200 + mp.toNat * 0x100)
  | .vmadd d a b msk mp => some (0x8800001A + d.toNat * 0x200000 + a.toNat * 0x10000 + b.toNat * 0x800 + msk.toNat * 0x200 + mp.toNat * 0x100)
  | .vmaddS d a b msk mp => some (0x8C00001A + d.toNat * 0x200000 + a.toNat * 0x10000 + b.toNat * 0x800 + msk.toNat * 0x200 + mp.toNat * 0x100)
  | .vclz d a msk mp => some (0x8800001B + d.toNat * 0x200000 + a.toNat * 0x10000 + msk.toNat * 0x200 + mp.toNat * 0x100)
  | .vpopc d a msk mp => some (0x8800001C + d.toNat * 0x200000 + a.toNat * 0x10000 + msk.toNat * 0x200 + mp.toNat * 0x100)
  | .vwadd d a b msk mp => some (0x8800001D + d.toNat * 0x200000 + a.toNat * 0x10000 + b.toNat * 0x800 + msk.toNat * 0x200 + mp.toNat * 0x100)
  | .vwaddS d a b msk mp => some (0x8C00001D + d.toNat * 0x200000 + a.toNat * 0x10000 + b.toNat * 0x800 + msk.toNat * 0x200 + mp.toNat * 0x100)
  | .vwmul d a b msk mp => some (0x8800001E + d.toNat * 0x200000 + a.toNat * 0x10000 + b.toNat * 0x800 + msk.toNat * 0x200 + mp.toNat * 0x100)
  | .vwmulS d a b msk mp => some (0x8C00001E + d.toNat * 0x200000 + a.toNat * 0x10000 + b.toNat * 0x800 + msk.toNat * 0x200 + mp.toNat * 0x100)
  | .vnsrl d a b msk mp => some (0x8800001F + d.toNat * 0x200000 + a.toNat * 0x10000 + b.toNat * 0x800 + msk.toNat * 0x200 + mp.toNat * 0x100)
  | .vnsrlS d a b msk mp => some (0x8C00001F + d.toNat * 0x200000 + a.toNat * 0x10000 + b.toNat * 0x800 + msk.toNat * 0x200 + mp.toNat * 0x100)
  | .vnclip d a b msk mp => some (0x88000020 + d.toNat * 0x200000 + a.toNat * 0x10000 + b.toNat * 0x800 + msk.toNat * 0x200 + mp.toNat * 0x100)
  | .vnclipS d a b msk mp => some (0x8C000020 + d.toNat * 0x200000 + a.toNat * 0x10000 + b.toNat * 0x800 + msk.toNat * 0x200 + mp.toNat * 0x100)
  | .vfieldS d a b msk mp => some (0x8C000021 + d.toNat * 0x200000 + a.toNat * 0x10000 + b.toNat * 0x800 + msk.toNat * 0x200 + mp.toNat * 0x100)
  | .vfadd d a b msk mp => some (0x90000000 + d.toNat * 0x200000 + a.toNat * 0x10000 + b.toNat * 0x800 + msk.toNat * 0x200 + mp.toNat * 0x100)
  | .vfaddS d a b msk mp => some (0x94000000 + d.toNat * 0x200000 + a.toNat * 0x10000 + b.toNat * 0x800 + msk.toNat * 0x200 + mp.toNat * 0x100)
  | .vfsub d a b msk mp => some (0x90000001 + d.toNat * 0x200000 + a.toNat * 0x10000 + b.toNat * 0x800 + msk.toNat * 0x200 + mp.toNat * 0x100)
  | .vfsubS d a b msk mp => some (0x94000001 + d.toNat * 0x200000 + a.toNat * 0x10000 + b.toNat * 0x800 + msk.toNat * 0x200 + mp.toNat * 0x100)
  | .vfmul d a b msk mp => some (0x90000002 + d.toNat * 0x200000 + a.toNat * 0x10000 + b.toNat * 0x800 + msk.toNat * 0x200 + mp.toNat * 0x100)
  | .vfmulS d a b msk mp => some (0x94000002 + d.toNat * 0x200000 + a.toNat * 0x10000 + b.toNat * 0x800 + msk.toNat * 0x200 + mp.toNat * 0x100)
  | .vfdiv d a b msk mp => some (0x90000003 + d.toNat * 0x200000 + a.toNat * 0x10000 + b.toNat * 0x800 + msk.toNat * 0x200 + mp.toNat * 0x100)
  | .vfdivS d a b msk mp => some (0x94000003 + d.toNat * 0x200000 + a.toNat * 0x10000 + b.toNat * 0x800 + msk.toNat * 0x200 + mp.toNat * 0x100)
  | .vfsqrt d a msk mp => some (0x90000004 + d.toNat * 0x200000 + a.toNat * 0x10000 + msk.toNat * 0x200 + mp.toNat * 0x100)
  | .vfma d a b msk mp => some (0x90000005 + d.toNat * 0x200000 + a.toNat * 0x10000 + b.toNat * 0x800 + msk.toNat * 0x200 + mp.toNat * 0x100)
  | .vfmaS d a b msk mp => some (0x94000005 + d.toNat * 0x200000 + a.toNat * 0x10000 + b.toNat * 0x800 + msk.toNat * 0x200 + mp.toNat * 0x100)
  | .vfmin d a b msk mp => some (0x90000006 + d.toNat * 0x200000 + a.toNat * 0x10000 + b.toNat * 0x800 + msk.toNat * 0x200 + mp.toNat * 0x100)
  | .vfminS d a b msk mp => some (0x94000006 + d.toNat * 0x200000 + a.toNat * 0x10000 + b.toNat * 0x800 + msk.toNat * 0x200 + mp.toNat * 0x100)
  | .vfmax d a b msk mp => some (0x90000007 + d.toNat * 0x200000 + a.toNat * 0x10000 + b.toNat * 0x800 + msk.toNat * 0x200 + mp.toNat * 0x100)
  | .vfmaxS d a b msk mp => some (0x94000007 + d.toNat * 0x200000 + a.toNat * 0x10000 + b.toNat * 0x800 + msk.toNat * 0x200 + mp.toNat * 0x100)
  | .vfcvt d a s msk mp => some (0x90000008 + d.toNat * 0x200000 + a.toNat * 0x10000 + s.toNat * 0x800 + msk.toNat * 0x200 + mp.toNat * 0x100)
  | .vfclass d a msk mp => some (0x90000009 + d.toNat * 0x200000 + a.toNat * 0x10000 + msk.toNat * 0x200 + mp.toNat * 0x100)
  | .vlog2 d a msk mp => some (0x9000000A + d.toNat * 0x200000 + a.toNat * 0x10000 + msk.toNat * 0x200 + mp.toNat * 0x100)
  | .vexp2 d a msk mp => some (0x9000000B + d.toNat * 0x200000 + a.toNat * 0x10000 + msk.toNat * 0x200 + mp.toNat * 0x100)
  | .vcmpeq d a b msk mp => some (0x98000000 + d.toNat * 0x200000 + a.toNat * 0x10000 + b.toNat * 0x800 + msk.toNat * 0x200 + mp.toNat * 0x100)
  | .vcmpeqS d a b msk mp => some (0x98000080 + d.toNat * 0x200000 + a.toNat * 0x10000 + b.toNat * 0x800 + msk.toNat * 0x200 + mp.toNat * 0x100)
  | .vcmpne d a b msk mp => some (0x98000001 + d.toNat * 0x200000 + a.toNat * 0x10000 + b.toNat * 0x800 + msk.toNat * 0x200 + mp.toNat * 0x100)
  | .vcmpneS d a b msk mp => some (0x98000081 + d.toNat * 0x200000 + a.toNat * 0x10000 + b.toNat * 0x800 + msk.toNat * 0x200 + mp.toNat * 0x100)
  | .vcmplt d a b msk mp => some (0x98000002 + d.toNat * 0x200000 + a.toNat * 0x10000 + b.toNat * 0x800 + msk.toNat * 0x200 + mp.toNat * 0x100)
  | .vcmpltS d a b msk mp => some (0x98000082 + d.toNat * 0x200000 + a.toNat * 0x10000 + b.toNat * 0x800 + msk.toNat * 0x200 + mp.toNat * 0x100)
  | .vcmpltu d a b msk mp => some (0x98000003 + d.toNat * 0x200000 + a.toNat * 0x10000 + b.toNat * 0x800 + msk.toNat * 0x200 + mp.toNat * 0x100)
  | .vcmpltuS d a b msk mp => some (0x98000083 + d.toNat * 0x200000 + a.toNat * 0x10000 + b.toNat * 0x800 + msk.toNat * 0x200 + mp.toNat * 0x100)
  | .vcmple d a b msk mp => some (0x98000004 + d.toNat * 0x200000 + a.toNat * 0x10000 + b.toNat * 0x800 + msk.toNat * 0x200 + mp.toNat * 0x100)
  | .vcmpleS d a b msk mp => some (0x98000084 + d.toNat * 0x200000 + a.toNat * 0x10000 + b.toNat * 0x800 + msk.toNat * 0x200 + mp.toNat * 0x100)
  | .vcmpleu d a b msk mp => some (0x98000005 + d.toNat * 0x200000 + a.toNat * 0x10000 + b.toNat * 0x800 + msk.toNat * 0x200 + mp.toNat * 0x100)
  | .vcmpleuS d a b msk mp => some (0x98000085 + d.toNat * 0x200000 + a.toNat * 0x10000 + b.toNat * 0x800 + msk.toNat * 0x200 + mp.toNat * 0x100)
  | .vfcmpeq d a b msk mp => some (0x98000008 + d.toNat * 0x200000 + a.toNat * 0x10000 + b.toNat * 0x800 + msk.toNat * 0x200 + mp.toNat * 0x100)
  | .vfcmpeqS d a b msk mp => some (0x98000088 + d.toNat * 0x200000 + a.toNat * 0x10000 + b.toNat * 0x800 + msk.toNat * 0x200 + mp.toNat * 0x100)
  | .vfcmplt d a b msk mp => some (0x98000009 + d.toNat * 0x200000 + a.toNat * 0x10000 + b.toNat * 0x800 + msk.toNat * 0x200 + mp.toNat * 0x100)
  | .vfcmpltS d a b msk mp => some (0x98000089 + d.toNat * 0x200000 + a.toNat * 0x10000 + b.toNat * 0x800 + msk.toNat * 0x200 + mp.toNat * 0x100)
  | .vfcmple d a b msk mp => some (0x9800000A + d.toNat * 0x200000 + a.toNat * 0x10000 + b.toNat * 0x800 + msk.toNat * 0x200 + mp.toNat * 0x100)
  | .vfcmpleS d a b msk mp => some (0x9800008A + d.toNat * 0x200000 + a.toNat * 0x10000 + b.toNat * 0x800 + msk.toNat * 0x200 + mp.toNat * 0x100)
  | .mand d a b => some (0x9C000000 + d.toNat * 0x200000 + a.toNat * 0x10000 + b.toNat * 0x800)
  | .mor d a b => some (0x9C000001 + d.toNat * 0x200000 + a.toNat * 0x10000 + b.toNat * 0x800)
  | .mxor d a b => some (0x9C000002 + d.toNat * 0x200000 + a.toNat * 0x10000 + b.toNat * 0x800)
  | .mandn d a b => some (0x9C000003 + d.toNat * 0x200000 + a.toNat * 0x10000 + b.toNat * 0x800)
  | .mnot d a => some (0x9C000004 + d.toNat * 0x200000 + a.toNat * 0x10000)
  | .msbf d a msk mp => some (0x9C000005 + d.toNat * 0x200000 + a.toNat * 0x10000 + msk.toNat * 0x200 + mp.toNat * 0x100)
  | .msif d a msk mp => some (0x9C000006 + d.toNat * 0x200000 + a.toNat * 0x10000 + msk.toNat * 0x200 + mp.toNat * 0x100)
  | .mfirst d a msk mp => some (0x9C000007 + d.toNat * 0x200000 + a.toNat * 0x10000 + msk.toNat * 0x200 + mp.toNat * 0x100)
  | .mcount d a msk mp => some (0x9C000008 + d.toNat * 0x200000 + a.toNat * 0x10000 + msk.toNat * 0x200 + mp.toNat * 0x100)
  | .viota d a msk mp => some (0x9C000009 + d.toNat * 0x200000 + a.toNat * 0x10000 + msk.toNat * 0x200 + mp.toNat * 0x100)
  | .vsrch d a b msk mp => some (0xA0000000 + d.toNat * 0x200000 + a.toNat * 0x10000 + b.toNat * 0x1000 + msk.toNat * 0x200 + mp.toNat * 0x100)
  | .vsrchr d a b msk mp => some (0xA0000001 + d.toNat * 0x200000 + a.toNat * 0x10000 + b.toNat * 0x1000 + msk.toNat * 0x200 + mp.toNat * 0x100)
  | .vtwr d a b => some (0xA0000002 + d.toNat * 0x200000 + a.toNat * 0x10000 + b.toNat * 0x800)
  | .vhamm d a b msk mp => some (0xA0000003 + d.toNat * 0x200000 + a.toNat * 0x10000 + b.toNat * 0x800 + msk.toNat * 0x200 + mp.toNat * 0x100)
  | .vtopkMax d a b msk mp => some (0xA0000004 + d.toNat * 0x200000 + a.toNat * 0x10000 + b.toNat * 0x800 + msk.toNat * 0x200 + mp.toNat * 0x100)
  | .vtopkMin d a b msk mp => some (0xA0000005 + d.toNat * 0x200000 + a.toNat * 0x10000 + b.toNat * 0x800 + msk.toNat * 0x200 + mp.toNat * 0x100)
  | .vredsum d a msk mp => some (0xA4000000 + d.toNat * 0x200000 + a.toNat * 0x10000 + msk.toNat * 0x200 + mp.toNat * 0x100)
  | .vredmax d a msk mp => some (0xA4000001 + d.toNat * 0x200000 + a.toNat * 0x10000 + msk.toNat * 0x200 + mp.toNat * 0x100)
  | .vredmin d a msk mp => some (0xA4000002 + d.toNat * 0x200000 + a.toNat * 0x10000 + msk.toNat * 0x200 + mp.toNat * 0x100)
  | .vredmaxu d a msk mp => some (0xA4000003 + d.toNat * 0x200000 + a.toNat * 0x10000 + msk.toNat * 0x200 + mp.toNat * 0x100)
  | .vredminu d a msk mp => some (0xA4000004 + d.toNat * 0x200000 + a.toNat * 0x10000 + msk.toNat * 0x200 + mp.toNat * 0x100)
  | .vredand d a msk mp => some (0xA4000005 + d.toNat * 0x200000 + a.toNat * 0x10000 + msk.toNat * 0x200 + mp.toNat * 0x100)
  | .vredor d a msk mp => some (0xA4000006 + d.toNat * 0x200000 + a.toNat * 0x10000 + msk.toNat * 0x200 + mp.toNat * 0x100)
  | .vredxor d a msk mp => some (0xA4000007 + d.toNat * 0x200000 + a.toNat * 0x10000 + msk.toNat * 0x200 + mp.toNat * 0x100)
  | .vfredsum d a msk mp => some (0xA4000008 + d.toNat * 0x200000 + a.toNat * 0x10000 + msk.toNat * 0x200 + mp.toNat * 0x100)
  | .vmaxi d a msk mp => some (0xA4000009 + d.toNat * 0x400000 + a.toNat * 0x10000 + msk.toNat * 0x200 + mp.toNat * 0x100)
  | .vmini d a msk mp => some (0xA400000A + d.toNat * 0x400000 + a.toNat * 0x10000 + msk.toNat * 0x200 + mp.toNat * 0x100)
  | .vgathr d a b msk mp => some (0xA8000000 + d.toNat * 0x200000 + a.toNat * 0x10000 + b.toNat * 0x800 + msk.toNat * 0x200 + mp.toNat * 0x100)
  | .vshup d a b msk mp => some (0xA8000001 + d.toNat * 0x200000 + a.toNat * 0x10000 + b.toNat * 0x800 + msk.toNat * 0x200 + mp.toNat * 0x100)
  | .vshdn d a b msk mp => some (0xA8000002 + d.toNat * 0x200000 + a.toNat * 0x10000 + b.toNat * 0x800 + msk.toNat * 0x200 + mp.toNat * 0x100)
  | .vbcst d a b msk mp => some (0xA8000003 + d.toNat * 0x200000 + a.toNat * 0x10000 + b.toNat * 0x800 + msk.toNat * 0x200 + mp.toNat * 0x100)
  | .vext d a b => some (0xA8000004 + d.toNat * 0x200000 + a.toNat * 0x10000 + b.toNat * 0x800)
  | .vins d a b => some (0xA8000005 + d.toNat * 0x200000 + a.toNat * 0x10000 + b.toNat * 0x800)
  | .vcomp d a msk => some (0xA8000106 + d.toNat * 0x200000 + a.toNat * 0x10000 + msk.toNat * 0x200)
  | .vbperm d a b msk mp => some (0xA8000007 + d.toNat * 0x200000 + a.toNat * 0x10000 + b.toNat * 0x800 + msk.toNat * 0x200 + mp.toNat * 0x100)
  | .vmv d a msk mp => some (0xA8000008 + d.toNat * 0x200000 + a.toNat * 0x10000 + msk.toNat * 0x200 + mp.toNat * 0x100)
  | .vmvi d i msk mp => some (0xA8000009 + d.toNat * 0x200000 + i.toNat * 0x800 + msk.toNat * 0x200 + mp.toNat * 0x100)
  | .vmerge d a b msk => some (0xA800010A + d.toNat * 0x200000 + a.toNat * 0x10000 + b.toNat * 0x800 + msk.toNat * 0x200)
  | .vid d msk mp => some (0xA800000B + d.toNat * 0x200000 + msk.toNat * 0x200 + mp.toNat * 0x100)
  | .vld d b msk mp g r => some (0xAC000000 + d.toNat * 0x200000 + b.toNat * 0x10000 + msk.toNat * 0x200 + mp.toNat * 0x100 + g.toNat * 0x80 + r.toNat * 0x8)
  | .vlds d b s msk mp g r => some (0xAC000010 + d.toNat * 0x200000 + b.toNat * 0x10000 + s.toNat * 0x800 + msk.toNat * 0x200 + mp.toNat * 0x100 + g.toNat * 0x80 + r.toNat * 0x8)
  | .vldx d b i msk mp g => some (0xAC000020 + d.toNat * 0x200000 + b.toNat * 0x10000 + i.toNat * 0x800 + msk.toNat * 0x200 + mp.toNat * 0x100 + g.toNat * 0x80)
  | .vldff d b msk mp g r => some (0xAC000030 + d.toNat * 0x200000 + b.toNat * 0x10000 + msk.toNat * 0x200 + mp.toNat * 0x100 + g.toNat * 0x80 + r.toNat * 0x8)
  | .vst d b msk mp g r => some (0xB0000000 + d.toNat * 0x200000 + b.toNat * 0x10000 + msk.toNat * 0x200 + mp.toNat * 0x100 + g.toNat * 0x80 + r.toNat * 0x8)
  | .vsts d b s msk mp g r => some (0xB0000010 + d.toNat * 0x200000 + b.toNat * 0x10000 + s.toNat * 0x800 + msk.toNat * 0x200 + mp.toNat * 0x100 + g.toNat * 0x80 + r.toNat * 0x8)
  | .vstx d b i msk mp g => some (0xB0000020 + d.toNat * 0x200000 + b.toNat * 0x10000 + i.toNat * 0x800 + msk.toNat * 0x200 + mp.toNat * 0x100 + g.toNat * 0x80)
  | .vstxo d b i msk mp g => some (0xB0000030 + d.toNat * 0x200000 + b.toNat * 0x10000 + i.toNat * 0x800 + msk.toNat * 0x200 + mp.toNat * 0x100 + g.toNat * 0x80)
  | .vappend p h t msk mp g => some (0xB0000040 + p.toNat * 0x200000 + h.toNat * 0x10000 + t.toNat * 0x800 + msk.toNat * 0x200 + mp.toNat * 0x100 + g.toNat * 0x80)
  | .vldl d b i msk mp g => some (0xB4000000 + d.toNat * 0x200000 + b.toNat * 0x10000 + i.toNat * 0x800 + msk.toNat * 0x200 + mp.toNat * 0x100 + g.toNat * 0x80)
  | .vstc d b i msk mp g m => some (0xB4000010 + d.toNat * 0x200000 + b.toNat * 0x10000 + i.toNat * 0x800 + msk.toNat * 0x200 + mp.toNat * 0x100 + g.toNat * 0x80 + m.toNat * 0x1)
  | .vamo d b i msk mp g o => some (0xB4000020 + d.toNat * 0x200000 + b.toNat * 0x10000 + i.toNat * 0x800 + msk.toNat * 0x200 + mp.toNat * 0x100 + g.toNat * 0x80 + o.toNat * 0x1)
  | .vamoAcq d b i msk mp g o => some (0xB4000030 + d.toNat * 0x200000 + b.toNat * 0x10000 + i.toNat * 0x800 + msk.toNat * 0x200 + mp.toNat * 0x100 + g.toNat * 0x80 + o.toNat * 0x1)
  | .vamoRel d b i msk mp g o => some (0xB4000040 + d.toNat * 0x200000 + b.toNat * 0x10000 + i.toNat * 0x800 + msk.toNat * 0x200 + mp.toNat * 0x100 + g.toNat * 0x80 + o.toNat * 0x1)
  | .vamoAr d b i msk mp g o => some (0xB4000050 + d.toNat * 0x200000 + b.toNat * 0x10000 + i.toNat * 0x800 + msk.toNat * 0x200 + mp.toNat * 0x100 + g.toNat * 0x80 + o.toNat * 0x1)
  | .vwaitm c b i msk mp g z o => some (0xB4000060 + c.toNat * 0x200000 + b.toNat * 0x10000 + i.toNat * 0x800 + msk.toNat * 0x200 + mp.toNat * 0x100 + g.toNat * 0x80 + z.toNat * 0x4 + o.toNat * 0x1)
  | .vsclset a msk mp => some (0xB8000000 + a.toNat * 0x10000 + msk.toNat * 0x200 + mp.toNat * 0x100)
  | .vbscale a msk mp => some (0xB8000001 + a.toNat * 0x10000 + msk.toNat * 0x200 + mp.toNat * 0x100)
  | .vquant d a msk mp => some (0xB8000002 + d.toNat * 0x200000 + a.toNat * 0x10000 + msk.toNat * 0x200 + mp.toNat * 0x100)
  | .vdeq d a msk mp => some (0xB8000003 + d.toNat * 0x200000 + a.toNat * 0x10000 + msk.toNat * 0x200 + mp.toNat * 0x100)
  | .vcbld c a => some (0xB8000004 + c.toNat * 0x200000 + a.toNat * 0x10000)
  | .vcbx d a c msk mp => some (0xB8000005 + d.toNat * 0x200000 + a.toNat * 0x10000 + c.toNat * 0x800 + msk.toNat * 0x200 + mp.toNat * 0x100)
  | .vcvtl d a msk mp => some (0xB8000006 + d.toNat * 0x200000 + a.toNat * 0x10000 + msk.toNat * 0x200 + mp.toNat * 0x100)
  | .mxcfg b => some (0xC0000000 + b.toNat * 0x10000)
  | .mxtld x b => some (0xC0000001 + x.toNat * 0x400000 + b.toNat * 0x200000)
  | .mxtsel b => some (0xC0000002 + b.toNat * 0x200000)
  | .mxr n m => some (0xC0000003 + n.toNat * 0x20000 + m.toNat * 0x10000)
  | .mxdrn d n => some (0xC0000004 + d.toNat * 0x200000 + n.toNat * 0x1000)
  | .mxdrs a n => some (0xC0000005 + a.toNat * 0x200000 + n.toNat * 0x1000)
  | .mxclr n => some (0xC0000006 + n.toNat * 0x20000)
  | .mxfclr t f => some (0xC0000007 + t.toNat * 0x400000 + f.toNat * 0x200000)
  | .mxwait => some (0xC0000008)
  | .cpy a b c e => some (0xC4000000 + a.toNat * 0x200000 + b.toNat * 0x10000 + c.toNat * 0x800 + e.toNat * 0x200)
  | .cpy2d a b c e => some (0xC4000040 + a.toNat * 0x200000 + b.toNat * 0x10000 + c.toNat * 0x1000 + e.toNat * 0x200)
  | .cpyg a b c e => some (0xC4000080 + a.toNat * 0x200000 + b.toNat * 0x10000 + c.toNat * 0x1000 + e.toNat * 0x200)
  | .cpyf a b c e => some (0xC40000C0 + a.toNat * 0x200000 + b.toNat * 0x10000 + c.toNat * 0x800 + e.toNat * 0x200)
  | .cpyres a b e => some (0xC4000100 + a.toNat * 0x400000 + b.toNat * 0x10000 + e.toNat * 0x200)
  | .seminc a b x r => some (0xC8000000 + a.toNat * 0x200000 + b.toNat * 0x10000 + x.toNat * 0x80 + r.toNat * 0x8)
  | .semset a b x r => some (0xC8000001 + a.toNat * 0x200000 + b.toNat * 0x10000 + x.toNat * 0x80 + r.toNat * 0x8)
  | .semwait a b => some (0xC8000002 + a.toNat * 0x200000 + b.toNat * 0x10000)
  | .semrd a b x r => some (0xC8000003 + a.toNat * 0x200000 + b.toNat * 0x10000 + x.toNat * 0x80 + r.toNat * 0x8)
  | .barinit a b x r => some (0xC8000004 + a.toNat * 0x200000 + b.toNat * 0x10000 + x.toNat * 0x80 + r.toNat * 0x8)
  | .bararr a b x r => some (0xC8000005 + a.toNat * 0x200000 + b.toNat * 0x10000 + x.toNat * 0x80 + r.toNat * 0x8)
  | .barwait a b => some (0xC8000006 + a.toNat * 0x200000 + b.toNat * 0x10000)
  | .vsend s p => some (0xCC000000 + s.toNat * 0x200000 + p.toNat * 0x1)
  | .vchain c p => some (0xCC000002 + c.toNat * 0x80 + p.toNat * 0x1)
  | .spawn a b => some (0xD0000000 + a.toNat * 0x200000 + b.toNat * 0x10000)
  | .spawnc a b c => some (0xD0000001 + a.toNat * 0x200000 + b.toNat * 0x10000 + c.toNat * 0x800)
  | .jdec a b => some (0xD0000002 + a.toNat * 0x200000 + b.toNat * 0x10000)
  | .lread a b => some (0xD0000003 + a.toNat * 0x200000 + b.toNat * 0x10000)
  | .cflush a b => some (0xD4000000 + a.toNat * 0x200000 + b.toNat * 0x10000)
  | .cinv a b => some (0xD4000800 + a.toNat * 0x200000 + b.toNat * 0x10000)
  | .cpref a b => some (0xD4001000 + a.toNat * 0x200000 + b.toNat * 0x10000)
  | .tlbinv a b s => some (0xD4001800 + a.toNat * 0x200000 + b.toNat * 0x10000 + s.toNat * 0x1)
  | .ubulkZero a r => some (0xD8000000 + a.toNat * 0x400000 + r.toNat * 0x8)
  | .ubulkCopy a b => some (0xD8000001 + a.toNat * 0x400000 + b.toNat * 0x10000)
  | .ubulkAnd a b => some (0xD8000002 + a.toNat * 0x400000 + b.toNat * 0x20000)
  | .ubulkOr a b => some (0xD8000003 + a.toNat * 0x400000 + b.toNat * 0x20000)
  | .ubulkMaj3 a b => some (0xD8000004 + a.toNat * 0x400000 + b.toNat * 0x40000)
  | .ubulkNot a b => some (0xD8000005 + a.toNat * 0x400000 + b.toNat * 0x10000)
  | .uwait a => some (0xD8000800 + a.toNat * 0x200000)
  | .hpost a b r => some (0xDC000000 + a.toNat * 0x200000 + b.toNat * 0x10000 + r.toNat * 0x1)
  | .gsig a b => some (0xDC000800 + a.toNat * 0x200000 + b.toNat * 0x10000)
  | .collAllreduce b m => some (0xE0000000 + b.toNat * 0x10000 + m.toNat * 0x4)
  | .collRedscat b m => some (0xE0000001 + b.toNat * 0x10000 + m.toNat * 0x4)
  | .collAllgath b m => some (0xE0000002 + b.toNat * 0x10000 + m.toNat * 0x4)
  | .collBcast b m => some (0xE0000003 + b.toNat * 0x10000 + m.toNat * 0x4)
  | .collw a b => some (0xE0000800 + a.toNat * 0x200000 + b.toNat * 0x10000)
  | .fput a b => some (0xE0001000 + a.toNat * 0x400000 + b.toNat * 0x10000)
  | .fget a b => some (0xE0001800 + a.toNat * 0x400000 + b.toNat * 0x10000)
  | .arrayTrap _ _ _ _ => none
  | .resultQueueReturn _ => none
  | .recordPop _ => none
  | .resumeRecordPop _ => none
  | .parkWake _ => none
  | .watchdog _ => none
  | .waitTimeout _ => none
  | .bayGrant _ => none
  | .mezzanineClaim _ => none
  | .mxFifoWaitEnd _ => none
  | .sequencerSelect _ => none
  | .priorityPreemption _ _ => none
  | .sharePreemption _ _ => none
  | .preemptionTaken _ => none
  | .preemptForceLimit _ => none
  | .linkDeferLimit _ => none
  | .contextSaveComplete _ => none
  | .endDrain _ => none
  | .rowRetirement _ _ _ => none
  | .usherScrub _ _ => none
  | .copyQueueEntry _ => none
  | .copyStart _ _ => none
  | .fifoDelivery _ _ => none
  | .copyComplete _ _ => none
  | .copyHalt _ _ => none
  | .chainMessageArrival _ => none
  | .portSpaceFree _ => none
  | .spillRefill _ _ => none
  | .counterReread _ _ => none
  | .hostPoll _ => none
  | .lossReport => none
  | .coreDisable _ => none
  | .dieReset _ => none
  | .dieBack _ _ => none
  | .l2Fill _ _ => none
  | .lineEviction _ _ _ => none
  | .hashPartitionWrite _ _ _ => none
  | .undercroftQueueEntry _ => none
  | .undercroftStart _ _ => none
  | .undercroftComplete _ _ => none
  | .engineEntry _ => none
  | .doorbell _ => none
  | .submissionAccept => none
  | .graphStart => none
  | .kernelNode _ => none
  | .kernelEmit _ => none
  | .kernelDone _ => none
  | .copyNode _ => none
  | .copyNodeDone _ => none
  | .condNode _ => none
  | .condReread _ => none
  | .hostpostNode _ => none
  | .endNode _ => none
  | .snapshotCopyDone _ => none
  | .restoreDone _ => none
  | .hubDieReset => none
  | .ringCtimeExpiry _ => none
  | .hrcfgWrite _ _ => none
  | .hrheadWrite _ _ => none
  | .w2baseWrite _ => none
  | .hostRegisterWrite _ _ => none
  | .hostMemoryRead _ => none
  | .hostMemoryWrite _ _ _ => none
  | .usherWatchdogExpiry => none
  | .tenantTurnover => none
  | .powerOn => none
  | .fundamentalReset => none
  | .powerSample _ => none
  | .spdmRequest _ _ => none
  | .packetForward _ _ => none
  | .nonminimalTimeout _ => none
  | .suspectTimeout _ => none
  | .tokenArrival _ => none
  | .tokenRegeneration => none
  | .stairMoveComplete => none
  | .frcfgWrite _ => none
  | .packetDeliver _ => none
  | .nackReceive _ _ _ => none
  | .ackReceive _ _ _ => none
  | .resendTimeout _ => none
  | .unreachableTimeout _ => none
  | .contributionArrival _ => none
  | .collectiveEnd _ _ => none
  | .transferEnd _ => none
  | .hostCompletion _ _ => none
  | .fabricPortTraining _ _ _ _ => none
  | .hostPortTraining _ _ => none
  | .msixUnmask _ => none

/-- The word of an instruction (R36-R62); none for an event of another agent. -/
def encode (i : Instr) : Option (BitVec 32) := (encodeNat i).map (BitVec.ofNat 32)

end Sys2Proof
end

