-- ==== Sys2Proof/Config.lean ====
section
/-!
DEFINITION. What the manual leaves open as a value: constants without a body, so that a statement holds whatever they
are. Each is applied to a counter of the state or to the operands it depends on (log entry 3).
-/

namespace Sys2Proof

/-- R166, R367: the order in which the hardware performs accesses or additions that the manual leaves unordered. -/
opaque Config.orderChoice : Nat → Nat

/-- R121: what a spill frame holds, by lane, once its register has become resident. -/
opaque Config.frameWord : Nat → Nat → BitVec 64

/-- R275: the passes that a vector instruction runs, by its word, element width and group multiplier, where the manual
gives no count. -/
opaque Config.passes : BitVec 32 → Nat → Nat → Nat

/-- R275: the passes that a vector access ran before it trapped at an element, by its word, element width, group multiplier and the
element. -/
opaque Config.passesTo : BitVec 32 → Nat → Nat → Nat → Nat

/-- R169: the scale that VBSCALE writes when QFMT names a format without scales. -/
opaque Config.openScale : Nat → BitVec 16

/-- R126: how often the estimator saturates in a VTOPK; the count tree decides every result. -/
opaque Config.estimatorEvents : Nat → Nat

/-- R351: the word that an atomic packet of another package leaves, whose operands the header does not hold. -/
opaque Config.remoteAtomic : Nat → BitVec 64

/-- R355: the epoch that a master sends which has seen none. -/
opaque Config.firstEpoch : Nat → BitVec 16

/-- R320: the key pair that the random-number generator draws at a tenant turnover. -/
opaque Config.sealKey : Nat → BitVec 512

/-- R344: the measurements 1 to 4, which are those of the firmware images. -/
opaque Config.firmwareMeasurement : Nat → BitVec 256

/-- R344: the signature over a measurement response. -/
opaque Config.signature : Nat → BitVec 3072

/-- R344: the certificates of the chain that ends at Psiben's root. -/
opaque Config.certificateChain : List Nat

/-- R342, R344: the bytes of a measurement, by its index and its value. -/
opaque Config.measurementBytes : Nat → List Nat → List Nat

/-- R327: where the Usher's register block holds the registers that the manual names, in doublewords. -/
opaque Config.usherOffset : Nat → Nat

/-- R342: the nanoseconds that have passed since the last power sample. -/
opaque Config.sinceSample : Nat → Nat

/-- R342: the code, the detail and the unit that a dump gives for a fatal error, the number of its hub unit, and the firmware
release. -/
opaque Config.fatalCode : Nat → BitVec 8
opaque Config.fatalDetail : Nat → Nat → BitVec 56
opaque Config.fatalUnit : Nat → Nat → BitVec 64
opaque Config.hubUnit : Nat → Nat → Nat
opaque Config.firmwareRelease : BitVec 64

/-- R342: the doublewords between a section and the one before it, and the entries of the journal's tail. -/
opaque Config.dumpGap : Nat → Nat
opaque Config.tailEntries : Nat

/-- R282, R371: how many more words a transfer of a purged strand delivers. -/
opaque Config.purgedWords : Nat → Nat → Nat

/-- R355: the header fields of a token that the manual does not give, as a number to take them from. -/
opaque Config.tokenHeader : Nat → BitVec 256

end Sys2Proof
end

