-- ==== Sys2Proof/Machine/State.lean ====
section
/-!
DEFINITION. The state of a Z960 package with its memory, its fabric interface and the inputs that are to come. Every
field is plain data. Names of registers and fields are the manual's. Strands are named by 4 x coordinate + slot (R4,
R79), cores by their 9-bit coordinate, clusters by its bits [8:3], dies by its bits [8:7].
-/

namespace Sys2Proof.Machine

/-! ## Strands -/

/-- R79: the states of a slot. HANDLER is RUN with STATUS.NEST = 1. -/
inductive SlotState where
  | free | start | run | park | save | drain
  deriving DecidableEq, Repr

/-- What a strand waits for at an instruction that has not completed. The constructors from `semwait` on park (R79);
the others wait at issue in RUN. -/
inductive Block where
  /-- R128: bays. -/
  | vacq (k : BitVec 3)
  /-- R173: the Mezzanine claim. -/
  | mezzClaim
  /-- R34, R46, R101, R201, R203, R204: entries of the VIQ that have not completed. -/
  | viq
  /-- R242: an entry of a copy engine's queue; the operation is that of R239. -/
  | copy (op : BitVec 3) (a b c : BitVec 5) (e : BitVec 2)
  /-- R322: an entry of the die's Undercroft queue. -/
  | ubulk (op : BitVec 3) (raw : BitVec 1) (a b : BitVec 5)
  /-- R364: an entry of the collective engine for a collective. -/
  | coll (kind : BitVec 2) (m : BitVec 1) (b : BitVec 5)
  /-- R360: an entry of the collective engine for a transfer. -/
  | transfer (get : Bool) (a b : BitVec 5)
  /-- R373: the answer of the landing controller of a die that is out. -/
  | landing (die : Nat)
  /-- R224: the host's completion for an access to a HOST page. -/
  | hostPage
  /-- R269, R270: accesses that SPAWN or SPAWNC must follow before it asks the landing controller. -/
  | spawn
  /-- R210, R358: accesses that an access of a stream must follow: 0 SC, 1 VA, 2 VB, 3 CP, 4 MX. -/
  | remote (stream : Nat)
  /-- R297: the codec writes of a region being invalidated. -/
  | regionDrain (n : BitVec 6) (value : Word)
  /-- R251. -/
  | semwait (a b : BitVec 5)
  /-- R253. -/
  | barwait (a b : BitVec 5)
  /-- R223. -/
  | vwaitm (c b i : BitVec 5) (msk : BitVec 2) (mp g z : BitVec 1) (o : BitVec 2)
  /-- R97. -/
  | wait
  /-- R325. -/
  | uwait (a : BitVec 5)
  /-- R369. -/
  | collw (a b : BitVec 5)
  /-- R99, R248, R370: an END whose commands, transfers or collectives have not ended. -/
  | endWait
  deriving DecidableEq, Repr

/-- R201: what keeps the oldest entry of a VIQ from completing on the array side, while the control side goes on. -/
inductive ArrayWait where
  /-- R179: a tile in FT. -/
  | mxtld (x b : BitVec 1)
  /-- R179: a row in FA. -/
  | mxr (n : BitVec 9) (m : BitVec 1)
  /-- R258: a message of the chain source. -/
  | chain
  /-- R257: space in an output port. -/
  | portSpace (vs : BitVec 5) (p : BitVec 1)
  /-- R224: the host's completion, with the answer that has come. -/
  | host (answer : Option Bool)
  /-- Nothing: an older entry has completed, and it is its turn. -/
  | turn
  deriving DecidableEq, Repr

/-- R76: the four doublewords of a continuation record. -/
structure Record where
  dw0 : Word
  dw1 : Word
  dw2 : Word
  dw3 : Word
  deriving DecidableEq, Repr

/-- R229, R231: a vector instruction held for RETS, with the scalar operands read at its dispatch. -/
structure Held where
  word : BitVec 32
  pc : BitVec 48
  op1 : Word
  op2 : Word
  /-- R274: the control side marked it as a strip head at its dispatch. -/
  head : Bool
  deriving DecidableEq, Repr

/-- What a vector access that waits keeps until it goes on: the lane at which it began, which decides the lowest active element
of VLDFF (R164), and the old TAIL, CAP and BASE of a VAPPEND whose fetch-add is done (R167). -/
structure Pause where
  lane : Nat
  words : Option (Word × Word × Word)
  deriving DecidableEq, Repr

/-- The vector side of a strand (R75, R104-R122). -/
structure Arcade where
  /-- R109: HELD. -/
  bays : BitVec 4
  /-- R110: bays enabled in the row-map snapshot. -/
  snapEnabled : BitVec 4
  /-- R110: retired rows of bays 0 to 3 in the snapshot, ascending. -/
  snapRetired : List (List Nat)
  /-- R108: v0 to v31, lane values from lane 0; a lane beyond the list holds 0. -/
  regs : List (List Word)
  /-- R42: m0 to m3, lane bits from lane 0; a lane beyond the list holds 0. -/
  masks : List (List Bool)
  /-- R27: cb0 to cb3. -/
  codebooks : List (BitVec 256)
  /-- R120, R231: bit n is 1 when vn has been written since VACQ. -/
  written : BitVec 32
  /-- R120: register numbers from least to most recently named. -/
  recency : List Nat
  /-- R120: the register in each slot pair of the two-slot class. -/
  resident : List Nat
  /-- R106. -/
  vcfg : Word
  /-- R159. -/
  mfmt : Word
  /-- R114. -/
  vl : Nat
  /-- R114. -/
  strip : Word
  /-- R114. -/
  sidx : Word
  /-- R255. -/
  chainsrc : Word
  /-- R258: a message that has reached this consumer, with the core and port that it came from. -/
  chainIn : Option (Nat × Nat × List Word)
  /-- R227: VRESUME.LANE. -/
  lane : Nat
  /-- R164, R167: the vector access that waits; none when it begins. -/
  part : Option Pause
  /-- R227, R229: the held entries, the trapped instruction first; VRESUME.HELD says whether RETS redispatches them. -/
  held : List Held
  /-- R229: the resume point P of held entries. -/
  heldPoint : BitVec 48
  /-- R201, R229: entries that have not completed, oldest first: those that RETS redispatched, and those that wait on the array side. -/
  viq : List Held
  /-- R201: what the oldest entry waits for while the control side goes on. -/
  waits : Option ArrayWait
  /-- R203: scalar results on their way, oldest first. -/
  results : List (BitVec 5 × Word)
  deriving DecidableEq, Repr

/-- R210: what an SBAR holds back while accesses of its set E are not performed. -/
structure Hold where
  /-- The set H. -/
  streams : BitVec 5
  /-- R243: copy commands of the strand accepted before this place are in E; 0 for none. -/
  before : Nat
  /-- Unacknowledged packets in E: source, destination and SEQ. -/
  acks : List (Nat × Nat × BitVec 16)
  /-- R210, R359: E contains writes, so that those of the copy commands are awaited until they are acknowledged. -/
  writes : Bool
  /-- R210: as many of the oldest entries of the VIQ as it takes to have made their accesses in E. -/
  ahead : Nat
  deriving DecidableEq, Repr

/-- R75: a strand slot. -/
structure Strand where
  /-- R79. -/
  slot : SlotState
  /-- What the strand waits for, when its instruction has not completed. -/
  blocked : Option Block
  /-- R36. -/
  pc : BitVec 48
  /-- R42: s0 to s31; reads of s0 give zero. -/
  regs : Vector Word 32
  /-- R80. -/
  status : Word
  /-- R33. -/
  sflags : Word
  /-- R81. -/
  cause : Word
  /-- R81. -/
  epc : Word
  /-- R81. -/
  tval : Word
  /-- R81. -/
  tvec : Word
  /-- R121. -/
  vault : Word
  /-- R104-R122, R227, R255. -/
  arc : Arcade
  /-- R76: the record the strand started from. -/
  record : Record
  /-- R334: JOIN is a physical address of the Foyer's counters. -/
  foyerJoin : Bool
  /-- R260: the launch tag. -/
  tag : Nat
  /-- R248: names the issuer of engine commands across pre-emption. -/
  issuer : Nat
  /-- R266: the Vault area of the landing that the strand holds. -/
  vaultArea : Option Nat
  /-- R277: a pre-emption is due. -/
  due : Bool
  /-- R278: 65,536 cycles have passed since it became due. -/
  dueForced : Bool
  /-- R279: the number of the waiting record that made it due. -/
  dueFor : Option Nat
  /-- R277: the order in which strands were popped or resumed. -/
  started : Nat
  /-- R103: the PREEMPT trap of the due pre-emption has been taken. -/
  preemptTrapped : Bool
  /-- R230: instructions issued since a link was placed, counted up to 256. -/
  linkCount : Nat
  /-- R230: 256 instructions have issued since the link was placed. -/
  linkDeferOver : Bool
  /-- R274: the next vector instruction dispatched is a strip head. -/
  stripHead : Bool
  /-- R274, R278: VBEGIN or VNEXT, issued behind entries of the VIQ, has just taken effect. -/
  atStrip : Bool
  /-- R224: the host's answer to the access that the strand waits for. -/
  hostAnswer : Option Bool
  /-- R210: SBARs that still hold streams back. -/
  holds : List Hold
  deriving DecidableEq, Repr

/-! ## Cores -/

/-- R30: an operand in L-internal form. -/
structure LVal where
  sign : Bool
  zero : Bool
  log : Int
  deriving DecidableEq, Repr

/-- R175: a tile buffer with its norm row. -/
structure Tile where
  /-- R181: K is 256. -/
  wide : Bool
  /-- The TFMT of the load. -/
  fmt : Nat
  /-- R185: loaded in distance mode. -/
  dist : Bool
  /-- Columns 0 to 127, each from k = 0; missing elements are zero. -/
  cols : List (List LVal)
  /-- R185: the norm row; missing entries are 0. -/
  norm : List Int
  deriving DecidableEq, Repr

/-- R175: the Mezzanine. -/
structure Mezz where
  /-- R176. -/
  cfg : Word
  /-- R173: issuer tag and slot of the owner. -/
  owner : Option (Nat × Nat)
  /-- R173: slots that wait for the claim, oldest first. -/
  waiters : List Nat
  /-- R175: ACT. -/
  act : Bool
  t0 : Tile
  t1 : Tile
  /-- acc0 to acc511, 128 values each; a row that is not listed is zero. -/
  acc : Tbl (List Int)
  /-- R179: beats of FA, head first. -/
  fa : List Line
  /-- R179: beats of FT, head first. -/
  ft : List Line
  deriving DecidableEq, Repr

/-- A core (R104, R125, R128, R173, R257, R274). -/
structure Core where
  /-- R4: present and enabled. -/
  enabled : Bool
  /-- R125: retired rows of bays 0 to 3, ascending. -/
  retired : List (List Nat)
  /-- R128: the slot that holds each bay; a saved or running holder keeps a disabled bay. -/
  bayOwner : List (Option Nat)
  /-- R128: slots that wait for bays, oldest first, with the number wanted. -/
  bayRequests : List (Nat × Nat)
  /-- R123: parity mismatches as bay, row and slot. -/
  parity : List (Nat × Nat × Nat)
  /-- R125: disabled bays that stay available to strands that hold them or name them in a resume record: bay and issuer tag. -/
  keepers : List (Nat × Nat)
  /-- R88: the TCM. -/
  tcm : List Host.Cell
  /-- R175. -/
  mezz : Mezz
  /-- R257: the messages of output ports 0 and 1, oldest first. -/
  ports : List (List (List Word))
  /-- R258: per output port, the strands whose requests have reached it and are not served, oldest first. -/
  portRequests : List (List Nat)
  /-- R276: the slot the sequencer serves. -/
  sequencer : Option Nat
  /-- R276: DEF per landing. -/
  deficit : Tbl Int
  /-- R126. -/
  estSat : Nat
  /-- R120: the swap counter. -/
  swaps : Nat
  deriving DecidableEq, Repr

/-! ## Clusters -/

/-- R246: the states of a copy command; a command that has ended is in no queue. -/
inductive CmdState where
  | queued | active | halted
  deriving DecidableEq, Repr

/-- R239, R240: an accepted copy command. -/
structure CopyCmd where
  issuer : Nat
  coord : Nat
  slot : Nat
  /-- R290: translation context and privilege at issue. -/
  ctx : Nat
  supervisor : Bool
  tag : Nat
  op : Nat
  dst : Word
  src : Word
  ctl : Word
  /-- sC + 1: geometry or index list. -/
  ext : Word
  state : CmdState
  /-- R245: bytes delivered. -/
  offset : Nat
  /-- R247. -/
  cause : BitVec 6
  faultAddr : Word
  /-- R243: place in the acceptance order. -/
  accepted : Nat
  deriving DecidableEq, Repr

/-- R249: the states of a barrier. -/
inductive BarState where
  | uninit | normal | faulted
  deriving DecidableEq, Repr

/-- R249: a barrier. -/
structure Barrier where
  exp : Nat
  cnt : Nat
  phase : Bool
  state : BarState
  deriving DecidableEq, Repr

/-- A cluster (R236-R254). -/
structure Cluster where
  /-- R236: the Atrium by offset. -/
  atrium : List Host.Cell
  /-- R238: words with an uncorrectable error, by offset / 8. -/
  poison : List Nat
  /-- R239: the queues of CE0 to CE3, head first; an active or halted command is the head. -/
  engines : List (List CopyCmd)
  /-- R243: the next place in the acceptance order. -/
  accepted : Nat
  /-- R249. -/
  sems : Tbl (BitVec 32)
  /-- R249. -/
  bars : Tbl Barrier
  deriving DecidableEq, Repr

/-! ## Memory -/

/-- Where a line lives: device memory by package and physical line number, a block of a coded region, or host memory. -/
inductive LineKey where
  | phys (n : Nat)
  | coded (region block : Nat)
  | host (n : Nat)
  deriving DecidableEq, Repr

/-- A line held by its home slice (R287, R302). -/
structure L2Line where
  data : Line
  dirty : Bool
  /-- R320: reached through a SEALED page. -/
  isSealed : Bool
  /-- R319: the launch tag of the last writer. -/
  writer : Nat
  deriving DecidableEq, Repr

/-- R213: an entry of a tag table: a link, or a watch of a VWAITM, a wait-pool entry or a COND node. -/
structure TagEntry where
  line : LineKey
  /-- The strand, or none for an agent of the device. -/
  strand : Option Nat
  /-- R213: the lane, or none for the scalar link. -/
  lane : Option Nat
  watch : Bool
  /-- R216: the value that a value link recorded. -/
  value : Word
  /-- R215: this entry is the link of the lowest-numbered active lane of the strand's most recent VLDL. -/
  lowest : Bool
  /-- R230: the link of a lane of a VLDL since which the strand has issued a VSTC. -/
  stored : Bool
  deriving DecidableEq, Repr

/-- R295: a valid table entry that a core's TLB or a cluster's walker caches. -/
structure TlbEntry where
  /-- The core, or 512 + the cluster. -/
  unit : Nat
  ctx : Nat
  /-- R291: the level of the table that the entry was read from, and the address bits that led to it. -/
  level : Nat
  path : Nat
  entry : Word
  deriving DecidableEq, Repr

/-- The memories (R284-R304). -/
structure Mem where
  /-- Device memory: this package's at its PA, that of peer package p at (p + 1) x 2^40 + PA. -/
  dram : List Host.Cell
  /-- Lines that a home slice holds, by the address of `dram` / 64. -/
  l2 : Tbl L2Line
  /-- R302: decoded coded lines, by region x 2^34 + block. -/
  coded : Tbl L2Line
  /-- R289, R319: lines with an uncorrectable error, by the address of `dram` / 64. -/
  poison : List Nat
  /-- R289: lines that a home slice holds with an uncorrectable error, by the address of `dram` / 64. -/
  l2Poison : List Nat
  /-- R289: decoded coded lines held with an uncorrectable error, by region x 2^34 + block. -/
  codedPoison : List Nat
  /-- R213: tag entries, oldest first. -/
  tags : List TagEntry
  /-- R295: what TLBs and walkers cache. -/
  tlb : List TlbEntry
  /-- R339: stacks that have failed as a part: no line of theirs can be read. -/
  lostStacks : List Nat
  /-- R327: host memory by bus address. -/
  host : List Host.Cell
  deriving DecidableEq, Repr

/-! ## Dies -/

/-- R260: an entry of a landing; the fields from `area` on are used by resume records (R279). -/
structure Entry where
  record : Record
  tag : Nat
  foyerJoin : Bool
  /-- Names the record, and its strand's commands (R248). -/
  issuer : Nat
  area : Option Nat
  /-- R210: SBARs that still hold the saved strand's streams back. -/
  holds : List Hold
  /-- R110, R231: the retired rows of the saved strand's snapshot, which the save slot does not list one by one. -/
  rows : List (List Nat)
  deriving DecidableEq, Repr

/-- The place of a counter or word after translation (R290-R294). -/
structure Place where
  /-- 0 LOCAL, 1 PEER, 2 HOST. -/
  kind : Nat
  /-- The address in `Mem.dram`, or the host bus address. -/
  addr : Nat
  /-- R320: reached through a SEALED page. -/
  isSealed : Bool
  deriving DecidableEq, Repr

/-- R272: an entry of the wait pool. -/
structure WaitEntry where
  entry : Entry
  counter : Place
  eligible : Bool
  deriving DecidableEq, Repr

/-- R260: a landing. -/
structure Landing where
  /-- The on-die part of the queue, oldest first. -/
  queue : List Entry
  /-- R263: the spill ring's entries, oldest first, each with its index in the ring. -/
  spill : List (Nat × Entry)
  /-- R263: the ring index that the next spilled entry takes. -/
  spillNext : Nat
  /-- R279: the save list. -/
  saved : List Entry
  /-- R266: Vault areas in use. -/
  areas : List Nat
  /-- R275. -/
  charge : Word
  deriving DecidableEq, Repr

/-- R321-R325: an accepted UBULK command; one entry of `units` per unit: destination, then sources, as PAs. -/
structure UCmd where
  issuer : Nat
  tag : Nat
  op : Nat
  units : List (Nat × List Nat)
  active : Bool
  deriving DecidableEq, Repr

/-- R373. -/
inductive DieStatus where
  | inService | out | disabled
  deriving DecidableEq, Repr

/-- A compute die's control units (R260-R283, R285, R322). -/
structure Die where
  status : DieStatus
  /-- R261: the PA of the landing table. -/
  tableBase : Nat
  /-- R261: cached descriptor doublewords, by 8 x landing + doubleword. -/
  descs : Tbl Word
  /-- R268: cached stage table. -/
  stages : Tbl (BitVec 16)
  landings : Tbl Landing
  waitPool : List WaitEntry
  /-- R265: the landing served last. -/
  lastServed : Nat
  /-- R262, R265: landings and records already reported to the Usher. -/
  reported : List Nat
  /-- R279: slots freed for a waiting record: strand and the record's number. -/
  offers : List (Nat × Nat)
  /-- R322. -/
  undercroft : List UCmd
  /-- R285: HPART0 to HPART3. -/
  hpart : List Word
  /-- R285: HMASK p.k at 6p + k. -/
  hmask : List Word
  deriving DecidableEq, Repr

/-! ## The package -/

/-- R296: a coded region. -/
structure Region where
  rbase : Word
  rsize : Word
  rrate : Word
  errlim : Word
  enccnt : Word
  errmax : Word
  deriving DecidableEq, Repr

/-- R329: a host ring, with the pending count of R330. -/
structure Ring where
  base : Word
  cfg : Word
  tail : Nat
  head : Nat
  pend : Nat
  deriving DecidableEq, Repr

/-- R335: an accepted graph. -/
structure Graph where
  queue : Nat
  seq : Nat
  handle : Nat
  deriving DecidableEq, Repr

/-- R334: what a graph walk does at its node. -/
inductive WalkState where
  /-- The node has not been read. -/
  | atNode
  /-- A KERNEL node's launch must be emitted (and done, unless ASYNC) first. -/
  | kernel (tag : Nat)
  /-- A COPY node moves its bytes: destination, source, DW3 and the next node. -/
  | copying (dst src ctl : Word) (next : Nat)
  /-- A COND node waits for its word: address, VALUE, comparison and EXIT. -/
  | condWait (addr : Nat) (value : Word) (cmp exit : Nat)
  /-- R336: the graph ended; its slot carries FAIL when set. -/
  | ended (fail : Bool)
  deriving DecidableEq, Repr

/-- R335: a graph walk. -/
structure Walk where
  graph : Graph
  node : Nat
  state : WalkState
  /-- R334: the launch of the KERNEL node reached most recently: tag and attempt. -/
  lastTag : Nat
  lastAttempt : Nat
  deriving DecidableEq, Repr

/-- R338: the states of a launch. -/
inductive LaunchState where
  | snap | emit | run | purge | restore | done | failed
  deriving DecidableEq, Repr

/-- R337, R338: a launch. -/
structure Launch where
  tag : Nat
  attempt : Nat
  graph : Graph
  node : Nat
  state : LaunchState
  template : Record
  count : Nat
  stride : Nat
  emitted : Nat
  /-- R338: PA of the snapshot table, 0 for none. -/
  table : Nat
  /-- R338: the declared ranges, base and length, and the save area. -/
  ranges : List (Nat × Nat)
  save : Nat
  async : Bool
  /-- R334: PA of the join counter. -/
  counter : Nat
  deriving DecidableEq, Repr

/-- R328-R340: the Foyer. -/
structure Foyer where
  /-- R328: doorbells that wait, oldest first. -/
  intake : List Word
  /-- R335: accepted graphs that wait for a walk, oldest first. -/
  waiting : List Graph
  walks : List Walk
  launches : List Launch
  /-- R281: loss reports on their way, as launch tags. -/
  losses : List Nat
  /-- R337: the next SEQ. -/
  seq : BitVec 32
  /-- R334: the die that received the last record dealt. -/
  lastDealt : Nat
  /-- R336: per queue, completions not yet written, by acceptance sequence: payload. -/
  heldSlots : List (Nat × Nat × Word)
  /-- R336: per queue, the acceptance sequence of the next slot to write. -/
  nextSlot : Tbl Nat
  /-- R330: the last attempt of each launch tag, which the posts of its strands carry (log entry 95). -/
  attempts : Tbl Nat
  /-- R328: ACCEPTED per queue. -/
  accepted : Tbl Nat
  /-- R328: DROPS per queue. -/
  drops : Tbl Nat
  deriving DecidableEq, Repr

/-- An entry of the Usher's error log. -/
structure Report where
  /-- The rule under which it is made. -/
  rule : Nat
  detail : Nat
  deriving DecidableEq, Repr

/-- R316: the state of an HBM4 stack. -/
inductive StackState where
  | full | degraded | failed
  deriving DecidableEq, Repr

/-- R344: a measurement response. -/
structure SpdmResponse where
  index : Nat
  nonce : Word
  value : List Nat
  signature : BitVec 3072
  deriving DecidableEq, Repr

/-- What of the hardware does not pass the tests of the Usher; the machine finds it when it runs them. -/
structure Unsound where
  /-- R104: register and mask columns, as core, bay and column. -/
  columns : List (Nat × Nat × Nat)
  /-- R343: Mezzanines, by core. -/
  mezzes : List Nat
  /-- R316: stacks that fail the command and address sweep or the pattern test at 10 Gb/s, and at 8 Gb/s. -/
  stacks10 : List Nat
  stacks8 : List Nat
  /-- R344: firmware images whose signature fails. -/
  images : List Nat
  deriving DecidableEq, Repr

/-- R344: what the Usher answers to an SPDM request for its versions or for its certificate chain. -/
inductive SpdmAnswer where
  | versions (major minor : List Nat)
  | chain (certificates : List Nat)
  deriving DecidableEq, Repr

/-- The management plane (R125, R316, R317, R341-R346). -/
structure Usher where
  log : List Report
  /-- R238, R289, R319: corrected errors counted, by the rule. -/
  corrected : Tbl Nat
  /-- R125: detections as core, bay, row and time in units of 100 microseconds. -/
  detections : List (Nat × Nat × Nat × Nat)
  /-- R346: samples taken, one every 100 microseconds. -/
  time : Nat
  /-- R316: hardware lanes whose write or read window is narrower than 16 steps at 10 Gb/s and at 8 Gb/s, as stack, pseudo-channel
  and lane. -/
  failing10 : List (Nat × Nat × Nat)
  failing8 : List (Nat × Nat × Nat)
  unsound : Unsound
  /-- R317: lanes repaired onto spares. -/
  repaired : List (Nat × Nat × Nat)
  /-- R104: columns repaired onto spares, as core, bay and column. -/
  columns : List (Nat × Nat × Nat)
  /-- R316. -/
  stackStates : Tbl StackState
  /-- R346: pass admission rate in eighths. -/
  passEighths : Nat
  /-- R346: main clock in MHz. -/
  clockMHz : Nat
  /-- R344. -/
  responses : List SpdmResponse
  answers : List SpdmAnswer
  /-- R285, R327: registers of the Usher's register block that the Usher has opened to the host. -/
  opened : List Nat
  /-- R327: their values. -/
  registers : Tbl Word
  /-- R342: dumps taken. -/
  dumps : Nat
  /-- R342: the next section of the dump that is being written. -/
  dumpNext : Option Nat
  /-- R342: what the sections of that dump hold. -/
  dumpWords : List (List Word)
  /-- R344: at power-on an image's signature failed, so that it is not loaded. -/
  unloaded : Bool
  deriving DecidableEq, Repr

/-! ## Collectives and transfers -/

/-- R363: a collective descriptor with the kind and mode of R364. -/
structure CollDesc where
  kind : Nat
  fast : Bool
  gid : Nat
  cseq : Nat
  n : Nat
  rank : Nat
  etype : Nat
  count : Nat
  src : Nat
  dst : Nat
  rankTab : Nat
  root : Nat
  deriving DecidableEq, Repr

/-- R365: a contribution that has arrived from another package: its descriptor, rank table and SRC element bits. -/
structure Contribution where
  desc : CollDesc
  table : List Nat
  data : List Nat
  /-- The package and die that issued it, as 4 x package + die. -/
  source : Nat
  deriving DecidableEq, Repr

/-- R360-R370: an operation of the collective engine. -/
structure EngineOp where
  issuer : Nat
  strand : Nat
  ctx : Nat
  supervisor : Bool
  tag : Nat
  /-- None for a transfer. -/
  coll : Option CollDesc
  /-- R369: the descriptor's address. -/
  descAddr : Nat
  /-- A transfer: FGET, destination, source and length. -/
  get : Bool
  dst : Word
  src : Word
  len : Nat
  /-- R369: the status word once the operation has ended. -/
  ended : Option Word
  flags : Word
  /-- R282: a transfer whose strand has been purged. -/
  orphan : Bool
  deriving DecidableEq, Repr

/-- R365: how a collective ended. -/
structure Outcome where
  gid : Nat
  cseq : Nat
  status : Nat
  /-- Later CSEQ values of the group that have been issued on the package, each as its distance from this one, which counts on past
  2^16. -/
  later : List Nat
  deriving DecidableEq, Repr

/-- R363-R370: the package's collective engine. -/
structure CollEngine where
  ops : List EngineOp
  remote : List Contribution
  /-- Contributions on their way to the engine. -/
  arriving : List Contribution
  outcomes : List Outcome
  /-- Statuses the engine reports to other packages: 4 x package + die, GID, CSEQ, rank, status. -/
  sent : List (Nat × Nat × Nat × Nat × Nat)
  deriving DecidableEq, Repr

/-! ## The fabric -/

/-- R351: a Concourse packet. -/
structure Packet where
  hw0 : Word
  hw1 : Word
  payload : List Word
  deriving DecidableEq, Repr

/-- A packet that waits at this package's router. -/
structure Waiting where
  packet : Packet
  /-- R353: the input port whose buffer it fills; 16 for the internal links. -/
  port : Nat
  /-- R354: it has waited 8 microseconds, with its place among the suspects. -/
  suspect : Option Nat
  /-- R353: its minimal ports have been full for 1 microsecond. -/
  nonminimal : Bool
  deriving DecidableEq, Repr

/-- R355: the token's states at this router. HOLD lasts only within a step. -/
inductive TokenState where
  | idle | move (packet : Packet)
  deriving DecidableEq, Repr

/-- R358: a packet this package has sent and not had acknowledged. -/
structure Unacked where
  /-- R248: the strand's issuer tag. -/
  issuer : Nat
  /-- R359: for a copy's write, the command's place in the acceptance order; 0 otherwise. -/
  cmd : Nat
  /-- R371: the writer's launch tag. -/
  tag : Nat
  sid : Nat
  dest : Nat
  seq : BitVec 16
  packet : Packet
  deriving DecidableEq, Repr

/-- R350: a fabric port's link. -/
structure Link where
  width : Nat
  rate : Nat
  up : Bool
  deriving DecidableEq, Repr

/-- The package's router and the sequencing of R358. -/
structure Net where
  /-- R352. -/
  frcfg : Word
  /-- R352: a written configuration that takes effect at the next token visit. -/
  frcfgNew : Option Word
  /-- R352: written table entries that take effect at the next token visit: package, minimal-port mask, Stair port. -/
  routesNew : List (Nat × BitVec 16 × Nat)
  /-- R352: 16-bit port masks by package number. -/
  minimal : Tbl (BitVec 16)
  /-- R352: Stair ports by package number. -/
  stairRoute : Tbl Nat
  /-- R350: links of ports 0 to 15; an unlisted port is x16 at 128 GT/s. -/
  links : Tbl Link
  waiting : List Waiting
  /-- R354: the next place among the suspects. -/
  suspects : Nat
  /-- R356: packets in the Stair buffers that this router's ports lead to. -/
  stair : List (Nat × Packet)
  /-- Packets sent, newest first: port and packet. -/
  sent : List (Nat × Packet)
  token : TokenState
  /-- R355: the last epoch seen. -/
  epoch : Option (BitVec 16)
  /-- Epochs of the tokens sent on NEXTPORT, newest first. -/
  tokens : List (BitVec 16)
  /-- R358: the next SEQ per source and destination. -/
  seqs : Tbl (BitVec 16)
  unacked : List Unacked
  /-- R358: the next SEQ to apply per source and target die. -/
  expected : Tbl (BitVec 16)
  /-- R358: packets held in the reorder buffers. -/
  reorder : List Packet
  /-- R371: packets applied, the latest first: source and target, SEQ, and the response. -/
  answered : List (Nat × BitVec 16 × Packet)
  /-- R371: the destinations that are unreachable for a source: its SID and the destination. -/
  unreachable : List (Nat × Nat)
  /-- R351, R353: packets discarded. -/
  discarded : Nat
  /-- R350: other TLPs received on fabric ports, which are discarded. -/
  otherTlps : Nat
  deriving DecidableEq, Repr

/-- The package as a whole (R290, R296, R327-R346). -/
structure Package where
  /-- R345. -/
  bringUp : Bool
  /-- R317, R343. -/
  fit : Bool
  /-- R341: kind and detail of the fatal error that stopped the planes. -/
  fatal : Option (Nat × Nat)
  /-- R341: the host port has reported a fatal status by the PCI Express uncorrectable error mechanism. -/
  hostFatal : Bool
  /-- R320. -/
  sealKey : BitVec 512
  /-- R320: turnovers so far. -/
  turnovers : Nat
  /-- R290: PTROOT as written, and as in effect. -/
  ptroot : Tbl Word
  ptrootNow : Tbl Word
  /-- R296. -/
  regions : Tbl Region
  /-- R73: pool-map registers by 4w + k, as written and as in effect. -/
  pool : Tbl Word
  poolNow : Tbl Word
  /-- R329. -/
  rings : Tbl Ring
  /-- R327. -/
  w2base : Word
  /-- R8, R327: what host reads of BAR0 and BAR2 returned, newest first; none is Completer Abort. -/
  hostReads : List (Option Word)
  /-- R330: MSI-X vectors that are not masked, vectors pending, messages sent (newest first). -/
  unmasked : List Nat
  pending : List Nat
  messages : List Nat
  /-- R327: the host link: width and rate in GT/s. -/
  hostLink : Nat × Nat
  foyer : Foyer
  usher : Usher
  engine : CollEngine
  /-- R325: issuers whose completed commands wrote poisoned lines since their last UWAIT. -/
  poisoned : List Nat
  /-- R248: the next issuer tag. -/
  nextIssuer : Nat
  deriving DecidableEq, Repr

/-! ## Moves and the state -/

/-- Which agent moves next, and what comes in from outside. -/
inductive Move where
  /-- The strand issues its next instruction, or goes on with what its slot is doing (R79). -/
  | run (id : Nat)
  /-- A step of another agent. -/
  | event (i : Instr)
  /-- The host writes a byte of its own memory (R327). -/
  | hostStore (addr : Nat) (byte : Byte)
  /-- A packet arrives at a fabric port (R350). -/
  | packetIn (port : Nat) (p : Packet)
  /-- Any other TLP arrives at a fabric port (R350). -/
  | otherTlpIn
  /-- A contribution of another package reaches the engine's input (R365). -/
  | contributionIn (c : Contribution)
  /-- The fabric manager writes the table entries of a package: minimal-port mask and Stair port (R352). -/
  | routeIn (pkg : Nat) (mask : BitVec 16) (port : Nat)
  /-- A line of device memory takes an uncorrectable error (R289, R319). -/
  | memoryError (line : Nat)
  /-- A read of a line from DRAM finds wrong 8-bit symbols at these bytes of it (R315). -/
  | symbolErrors (line : Nat) (bytes : List Nat)
  /-- An entry of a landing's on-die queue takes an uncorrectable error (R281). -/
  | queueError (die landing index : Nat)
  /-- An entry of a die's wait pool takes an uncorrectable error (R281). -/
  | poolError (die index : Nat)
  /-- An HBM stack fails as a part (R339). -/
  | stackFault (stack : Nat)
  /-- A cluster fails as a part (R339). -/
  | clusterFault (cluster : Nat)
  /-- The hub die faults (R339, R341). -/
  | hubFault
  /-- A hardware lane is measured: its write and read windows at 10 Gb/s, or at 8 Gb/s (R316). -/
  | laneWindow (fast : Bool) (stack pc lane wlo whi rlo rhi : Nat)
  /-- A stack begins to fail its sweep of command and address delays or its pattern test, at 10 Gb/s or at 8 Gb/s (R316). -/
  | stackFails (fast : Bool) (stack : Nat)
  /-- A register or mask column of a bay begins to fail (R104). -/
  | columnFails (core bay column : Nat)
  /-- A Mezzanine begins to fail its self-test (R343). -/
  | mezzFails (core : Nat)
  /-- The signature of a firmware image in the Usher's store fails (R344). -/
  | imageFails (image : Nat)
  /-- The Usher requests the pre-emption of a strand (R277). -/
  | usherPreempts (id : Nat)
  /-- The Usher opens a register of its block to the host (R327). -/
  | usherOpens (offset : Nat)
  /-- The Usher writes a register of its block: its health report, its telemetry (R327). -/
  | usherWrites (offset : Nat) (value : Word)
  /-- Firmware writes the next section of a dump (R342). -/
  | dumpSection
  /-- The host masks an MSI-X vector (R327, R330). -/
  | msixMask (vector : Nat)
  /-- The host reads a register of BAR0 (R8, R327). -/
  | registerRead (offset : Nat)
  /-- The host completes an access of the COPY node at which a walk stands with an error (R334). -/
  | nodeRefused (walk : Nat)
  /-- A participant of another package ends a collective: a fault on its buffers, or a purge of its strand (R368, R371). -/
  | peerFault (gid cseq : Nat)
  /-- SPDM requests for the Usher's versions and for its certificate chain (R344). -/
  | spdmVersions
  | spdmChain
  /-- A decoded coded line takes an uncorrectable error in L2 (R289). -/
  | codedError (region block : Nat)
  /-- A single-bit error is corrected: in the Atrium (238), in L2 (289) or in DRAM (319). -/
  | correctedError (rule : Nat)
  /-- A core's TLB (below 512) or a cluster's walker (512 + cluster) caches the entry of a level for an address (R295). -/
  | tlbFill (unit ctx va level : Nat)
  /-- A TLB or walker gives up the cached entry at a place of the list (R295). -/
  | tlbDrop (index : Nat)
  /-- An Atrium word takes an uncorrectable error (R238). -/
  | atriumError (cluster word : Nat)
  /-- A slot of a row loses its parity (R123). -/
  | parityError (core bay row slot : Nat)
  deriving DecidableEq, Repr

/-- The state of the machine. -/
structure State where
  /-- The moves to come, in order (log entry 1). Not the manual's. -/
  agenda : List Move
  /-- The strand whose turn it is when no move is listed (log entry 1). Not the manual's. -/
  cur : Nat
  strands : Tbl Strand
  cores : Tbl Core
  clusters : Tbl Cluster
  dies : Tbl Die
  mem : Mem
  pkg : Package
  net : Net
  /-- The counter that free values are drawn with (log entry 3). Not the manual's. -/
  free : Nat
  deriving DecidableEq, Repr

/-- Where the machine stops because the manual gives no effect. -/
inductive Fault where
  /-- Raised by the Foyer's node reads: a graph node at an address that is no device memory (R284, R333). Safe: the
  manual gives no effect, and no claim about later states can rest on one. -/
  | noSuchMemory (addr : Nat)
  deriving DecidableEq, Repr

/-- Instructions to which the model gives no meaning. -/
inductive Refusal where
  /-- Raised by the dispatcher for a row that is not modelled yet. Safe: the run ends. No row is refused. -/
  | notModelled (mnemonic : String)
  deriving DecidableEq, Repr

/-- The answer of a step. -/
abbrev Res := Host.Outcome State Fault Refusal

/-! ## Reset -/

/-- A record of zeros. -/
def Record.zero : Record := ⟨0, 0, 0, 0⟩

/-- R130, log entry 5: the vector side of a strand that holds no bays. -/
def Arcade.reset : Arcade where
  bays := 0
  snapEnabled := 15
  snapRetired := [[], [], [], []]
  regs := List.replicate 32 []
  masks := List.replicate 4 []
  codebooks := List.replicate 4 0
  written := 0
  recency := List.range 32
  resident := List.range 16
  vcfg := 0x1021
  mfmt := 0x160061
  vl := 0
  strip := 0
  sidx := 0
  chainsrc := 0
  chainIn := none
  lane := 0
  part := none
  held := []
  heldPoint := 0
  viq := []
  waits := none
  results := []

/-- R79, R80: slot `id` in FREE. STATUS holds the slot's own coordinate and number, NOBAYS, and zeros. -/
def Strand.reset (id : Nat) : Strand where
  slot := .free
  blocked := none
  pc := 0
  regs := Vector.replicate 32 0
  status := BitVec.ofNat 64 (id / 4 * 0x800000 + id % 4 * 0x200000 + 4)
  sflags := 0
  cause := 0
  epc := 0
  tval := 0
  tvec := 0
  vault := 0
  arc := Arcade.reset
  record := Record.zero
  foyerJoin := false
  tag := 0
  issuer := 0
  vaultArea := none
  due := false
  dueForced := false
  dueFor := none
  started := 0
  preemptTrapped := false
  linkCount := 0
  linkDeferOver := false
  stripHead := false
  atStrip := false
  hostAnswer := none
  holds := []

/-- R175: a tile buffer after turnover. -/
def Tile.reset : Tile := ⟨false, 0, false, [], []⟩

/-- R175: the Mezzanine after turnover. -/
def Mezz.reset : Mezz where
  cfg := 0x2000000
  owner := none
  waiters := []
  act := false
  t0 := Tile.reset
  t1 := Tile.reset
  acc := []
  fa := []
  ft := []

/-- A core at full health (R2). -/
def Core.reset : Core where
  enabled := true
  retired := [[], [], [], []]
  bayOwner := [none, none, none, none]
  bayRequests := []
  parity := []
  keepers := []
  tcm := []
  mezz := Mezz.reset
  ports := [[], []]
  portRequests := [[], []]
  sequencer := none
  deficit := []
  estSat := 0
  swaps := 0

/-- R249: a barrier after turnover. -/
def Barrier.reset : Barrier := ⟨0, 0, false, .uninit⟩

/-- A cluster after turnover (R238, R249). -/
def Cluster.reset : Cluster := ⟨[], [], [[], [], [], []], 0, [], []⟩

/-- R286: the reset masks, for each of the four partitions. -/
def hmaskReset : List Word :=
  let p : List Word := [0x1041041040, 0x2082082080, 0x4104104100, 0x8208208200, 0x410410400, 0x820820800]
  p ++ p ++ p ++ p

/-- A landing after turnover (R260). -/
def Landing.reset : Landing := ⟨[], [], 0, [], [], 0⟩

/-- A die after turnover (R260, R285); the landing table lies at the start of the firmware work area (log entry 6). -/
def Die.reset (die : Nat) : Die where
  status := .inService
  tableBase := die * 0x3000000000 + 0x2F10000000
  descs := []
  stages := []
  landings := []
  waitPool := []
  lastServed := 0
  reported := []
  offers := []
  undercroft := []
  hpart := [0, 0, 0, 0]
  hmask := hmaskReset

/-- R296: a region's reset values. -/
def Region.reset : Region := ⟨0, 0, 0, 0x7FF0000000000000, 0, 0⟩

/-- R329: a ring's reset values. -/
def Ring.reset : Ring := ⟨0, 0, 0, 0, 0⟩

/-- The Foyer after reset: the first record with DIEANY goes to die 0 (R334, log entry 103). -/
def Foyer.reset : Foyer := ⟨[], [], [], [], [], 0, 3, [], [], [], [], []⟩

/-- The Usher at power-on, with hardware at full health (R2). -/
def Usher.reset : Usher := ⟨[], [], [], 0, [], [], ⟨[], [], [], [], []⟩, [], [], [], 8, 2100, [], [], [], [], 0, none, [], false⟩

/-- The package at power-on (R345). -/
def Package.reset : Package where
  bringUp := true
  fit := true
  fatal := none
  hostFatal := false
  sealKey := 0
  turnovers := 0
  ptroot := []
  ptrootNow := []
  regions := []
  pool := []
  poolNow := []
  rings := []
  w2base := 0
  hostReads := []
  unmasked := []
  pending := []
  messages := []
  hostLink := (16, 128)
  foyer := Foyer.reset
  usher := Usher.reset
  engine := ⟨[], [], [], [], []⟩
  poisoned := []
  nextIssuer := 1

/-- R352: the router after reset: a fabric of one package. -/
def Net.reset : Net where
  frcfg := 0x1C0000000
  frcfgNew := none
  routesNew := []
  minimal := []
  stairRoute := []
  links := []
  waiting := []
  suspects := 0
  stair := []
  sent := []
  token := .idle
  epoch := none
  tokens := []
  seqs := []
  unacked := []
  expected := []
  reorder := []
  answered := []
  unreachable := []
  discarded := 0
  otherTlps := 0

/-- Empty memories (log entry 4). -/
def Mem.reset : Mem := ⟨[], [], [], [], [], [], [], [], [], []⟩

/-- R345: the device at power-on, in bring-up mode; the Usher's boot is the move to come. -/
def State.reset : State where
  agenda := [.event .powerOn]
  cur := 0
  strands := []
  cores := []
  clusters := []
  dies := []
  mem := Mem.reset
  pkg := Package.reset
  net := Net.reset
  free := 0

end Sys2Proof.Machine
end

