-- ==== Sys2Proof/Machine/Bits.lean ====
section
/-!
DEFINITION. Keyed tables, bit fields, sign extension and byte order: the plumbing of every other file of the machine.
-/

namespace Sys2Proof.Machine

/-! ## Keyed tables -/

/-- The value at a key, `d` when the key is not listed. -/
def tblGet {α : Type} (d : α) : Tbl α → Nat → α
  | [], _ => d
  | (j, v) :: r, k => if j = k then v else tblGet d r k

/-- The table with a value at a key; keys stay strictly rising. -/
def tblSet {α : Type} : Tbl α → Nat → α → Tbl α
  | [], k, v => [(k, v)]
  | (j, w) :: r, k, v =>
    if k < j then (k, v) :: (j, w) :: r else if k = j then (k, v) :: r else (j, w) :: tblSet r k v

/-- The table without a key. -/
def tblDel {α : Type} (t : Tbl α) (k : Nat) : Tbl α := t.filter fun p => p.1 != k

/-- The value at a key, if the key is listed. -/
def tblFind {α : Type} : Tbl α → Nat → Option α
  | [], _ => none
  | (j, v) :: r, k => if j = k then some v else tblFind r k

/-! ## Lists as arrays -/

/-- Element `i`, or `d` beyond the end. -/
def listGet {α : Type} (d : α) (l : List α) (i : Nat) : α := (l[i]?).getD d

/-- The list with element `i` replaced; it grows with `d` where it is too short. -/
def listSet {α : Type} (d : α) : List α → Nat → α → List α
  | [], 0, v => [v]
  | [], i + 1, v => d :: listSet d [] i v
  | _ :: r, 0, v => v :: r
  | x :: r, i + 1, v => x :: listSet d r i v

/-- The list cut or grown with `d` to exactly `n` elements. -/
def listFit {α : Type} (d : α) (n : Nat) (l : List α) : List α := l.take n ++ List.replicate (n - l.length) d

/-- Insertion of a number into an ascending list without repeats. -/
def insertNat (n : Nat) : List Nat → List Nat
  | [] => [n]
  | m :: r => if n < m then n :: m :: r else if n = m then m :: r else m :: insertNat n r

/-! ## Bit fields -/

/-- Bits [lo + n - 1 : lo] of a number. -/
def bitsOf (x lo n : Nat) : Nat := x / 2 ^ lo % 2 ^ n

/-- Bits [lo + n - 1 : lo] of a word, as a number. -/
def fld (w : Word) (lo n : Nat) : Nat := bitsOf w.toNat lo n

/-- The word with bits [lo + n - 1 : lo] replaced by the low bits of `v`. -/
def setFld (w : Word) (lo n v : Nat) : Word :=
  (w &&& ~~~((BitVec.ofNat 64 (2 ^ n - 1)) <<< lo)) ||| ((BitVec.ofNat 64 (v % 2 ^ n)) <<< lo)

/-- The low `n` bits of a number read as two's complement. -/
def signed (n x : Nat) : Int :=
  let y := x % 2 ^ n
  if 2 * y < 2 ^ n then y else (y : Int) - 2 ^ n

/-- The low `n` bits of the two's complement form of an integer. -/
def wrapInt (n : Nat) (i : Int) : Nat := (i % 2 ^ n).toNat

/-- An integer modulo 2^64. -/
def wordOfInt (i : Int) : Word := BitVec.ofInt 64 i

/-- A truth value as a word. -/
def wordOfBool (b : Bool) : Word := if b then 1 else 0

/-- R85: a 48-bit virtual address as a word: bits [63:48] equal bit 47. -/
def addr48 (a : Nat) : Word := (BitVec.ofNat 48 a).signExtend 64

/-! ## Byte order: memory is little-endian -/

/-- The number whose little-endian bytes these are. -/
def natOfBytes : List Byte → Nat
  | [] => 0
  | b :: r => b.toNat + 256 * natOfBytes r

/-- The `n` low bytes of a number, least significant first. -/
def bytesOfNat : Nat → Nat → List Byte
  | 0, _ => []
  | n + 1, x => BitVec.ofNat 8 x :: bytesOfNat n (x / 256)

/-- Byte `i` of a line. -/
def lineByte (l : Line) (i : Nat) : Byte := l.extractLsb' (8 * i) 8

/-- Bytes `[i, i + n)` of a line, as a number. -/
def lineBits (l : Line) (i n : Nat) : Nat := bitsOf l.toNat (8 * i) (8 * n)

/-- The line with bytes `[i, i + n)` replaced by the low bytes of `v`. -/
def lineSet (l : Line) (i n v : Nat) : Line :=
  (l &&& ~~~((BitVec.ofNat 512 (2 ^ (8 * n) - 1)) <<< (8 * i))) ||| ((BitVec.ofNat 512 (v % 2 ^ (8 * n))) <<< (8 * i))

/-! ## Integers -/

/-- R11: `clamp`. -/
def clampInt (x lo hi : Int) : Int := if x < lo then lo else if hi < x then hi else x

/-- The bounds of a signed integer of `w` bits (R15). -/
def sBounds (w : Nat) : Int × Int := (-(2 ^ (w - 1)), 2 ^ (w - 1) - 1)

/-- The bounds of an unsigned integer of `w` bits (R15). -/
def uBounds (w : Nat) : Int × Int := (0, 2 ^ w - 1)

/-- The largest r below 2^b (plus the bits of r) with r^k at most n, found from the highest bit down. -/
def rootBits (k n : Nat) : Nat → Nat → Nat
  | 0, r => r
  | b + 1, r => if (r + 2 ^ b) ^ k ≤ n then rootBits k n b (r + 2 ^ b) else rootBits k n b r

/-! ## Integer division and bit counts, at any width -/

/-- R83, R139: the signed quotient at a width: toward zero, saturating toward the sign of the true result. -/
def quotS (w : Nat) (x y : Int) : Int :=
  if y = 0 then (if 0 < x then (sBounds w).2 else if x < 0 then (sBounds w).1 else 0)
  else if x = (sBounds w).1 ∧ y = -1 then (sBounds w).2
  else Int.tdiv x y

/-- R83, R139: the signed remainder, with the sign of the dividend; 0 where the quotient saturates. -/
def remS (x y : Int) : Int := if y = 0 then 0 else Int.tmod x y

/-- R83, R139: the unsigned quotient at a width. -/
def quotU (w x y : Nat) : Nat := if y = 0 then (if x = 0 then 0 else 2 ^ w - 1) else x / y

/-- R83, R139: the unsigned remainder. -/
def remU (x y : Nat) : Nat := if y = 0 then 0 else x % y

/-- Leading zeros of a pattern of `w` bits. -/
def clzN (w x : Nat) : Nat := if x = 0 then w else w - 1 - Nat.log2 x

/-- Trailing zeros of a pattern of `w` bits. -/
def ctzN : Nat → Nat → Nat
  | 0, _ => 0
  | w + 1, x => if x % 2 = 1 then 0 else 1 + ctzN w (x / 2)

/-- One bits among the low `w` bits. -/
def popN : Nat → Nat → Nat
  | 0, _ => 0
  | w + 1, x => x % 2 + popN w (x / 2)

end Sys2Proof.Machine
end

