-- ==== Sys2Proof/Machine/Flags.lean ====
section
/-!
DEFINITION. The sticky flags of SFLAGS (R33) as masks, and results that carry flags to raise.
-/

namespace Sys2Proof.Machine

/-- R33: inexact result. -/
def flagNX : Word := 0x1
/-- R33: underflow. -/
def flagUF : Word := 0x2
/-- R33: overflow. -/
def flagOF : Word := 0x4
/-- R33: division by zero. -/
def flagDZ : Word := 0x8
/-- R33: invalid operation. -/
def flagNV : Word := 0x10
/-- R33: operand log outside the L-internal range. -/
def flagLSAT : Word := 0x20
/-- R33: saturated accumulator or exact sum. -/
def flagACCSAT : Word := 0x40
/-- R33: non-finite operand replaced in the Mezzanine. -/
def flagMXINV : Word := 0x80
/-- R33: saturation in a conversion. -/
def flagQSAT : Word := 0x100
/-- R33: barrier overrun. -/
def flagBAROVR : Word := 0x200

/-- R33: the bits of SFLAGS that have storage. -/
def sflagsMask : Word := 0x3FF

/-- A result with the flags that forming it raises. -/
abbrev Fl (α : Type) := α × Word

/-- The flag when the condition holds. -/
def flagIf (c : Bool) (f : Word) : Word := if c then f else 0

/-- R33: the flags of several operations are ORed. -/
def orFlags (l : List Word) : Word := l.foldl (· ||| ·) 0

/-- A list of flagged results as one flagged list. -/
def flSeq {α : Type} (l : List (Fl α)) : Fl (List α) := (l.map (·.1), orFlags (l.map (·.2)))

/-- R11: `sat` into bounds, with the flag that the instruction names. -/
def satInt (x lo hi : Int) (f : Word) : Fl Int := (clampInt x lo hi, flagIf (x < lo || hi < x) f)

end Sys2Proof.Machine
end

