-- ==== Sys2Proof/Machine/Num.lean ====
section
/-!
DEFINITION. Number formats and exact arithmetic (R12-R29, R35, R90-R92, R142). A number is read exactly, operated on
exactly, and rounded once. Where an exact result is irrational or has no finite binary form (a quotient, a root, 2^L),
it is held to more than 60 bits with a lowest bit that stands for the rest, which rounds as the exact value does.
-/

namespace Sys2Proof.Machine

/-! ## Values -/

/-- R18: what the all-ones exponent field holds. -/
inductive Special where
  /-- Infinities and NaNs. -/
  | ieee
  /-- One NaN at all ones. -/
  | nanTop
  /-- Neither. -/
  | none
  deriving DecidableEq, Repr

/-- R18: a floating-point format. -/
structure FFmt where
  e : Nat
  m : Nat
  bias : Nat
  special : Special
  deriving DecidableEq, Repr

/-- R12, R13: how the bits of an element are read. -/
inductive EType where
  | sint (w : Nat)
  | uint (w : Nat)
  | bin
  | tern
  | flt (f : FFmt)
  /-- R28: width and fraction bits of L. -/
  | lns (w frac : Nat)
  /-- R27. -/
  | cb
  /-- R23: INT8 in units of 2^-6. -/
  | mxint
  deriving DecidableEq, Repr

/-- An exact value: a NaN, an infinity, (-1)^neg x m x 2^e, or (-1)^neg x 2^(l / 256). -/
inductive Val where
  | nan (signalling : Bool)
  | inf (neg : Bool)
  | num (neg : Bool) (m : Nat) (e : Int)
  | pow (neg : Bool) (l : Int)
  deriving DecidableEq, Repr

def fE4M3 : FFmt := ⟨4, 3, 7, .nanTop⟩
def fE3M4 : FFmt := ⟨3, 4, 3, .nanTop⟩
def fE5M2 : FFmt := ⟨5, 2, 15, .ieee⟩
def fE3M2 : FFmt := ⟨3, 2, 3, .none⟩
def fE2M3 : FFmt := ⟨2, 3, 1, .none⟩
def fE2M1 : FFmt := ⟨2, 1, 1, .none⟩
def fBF16 : FFmt := ⟨8, 7, 127, .ieee⟩
def fFP16 : FFmt := ⟨5, 10, 15, .ieee⟩
def fFP19 : FFmt := ⟨8, 10, 127, .ieee⟩
def fFP32 : FFmt := ⟨8, 23, 127, .ieee⟩
def fFP64 : FFmt := ⟨11, 52, 1023, .ieee⟩

/-- The width of a floating-point format. -/
def fWidth (f : FFmt) : Nat := 1 + f.e + f.m

/-- R12: how an element of a 5-bit format code is read, its scale apart. -/
def fmtType : Nat → EType
  | 0x00 => .sint 8
  | 0x01 => .uint 8
  | 0x02 => .sint 4
  | 0x03 => .uint 4
  | 0x04 => .sint 2
  | 0x05 => .bin
  | 0x06 => .flt fE4M3
  | 0x07 => .flt fE5M2
  | 0x08 => .flt fE3M2
  | 0x09 => .flt fE2M3
  | 0x0A => .flt fE2M1
  | 0x0B => .flt fBF16
  | 0x0C => .flt fFP16
  | 0x0D => .flt fFP19
  | 0x0E => .flt fFP32
  | 0x0F => .lns 8 4
  | 0x10 => .lns 16 8
  | 0x11 => .cb
  | 0x12 => .flt fE4M3
  | 0x13 => .flt fE5M2
  | 0x14 => .flt fE3M2
  | 0x15 => .flt fE2M3
  | 0x16 => .flt fE2M1
  | 0x17 => .mxint
  | 0x18 => .sint 4
  | 0x19 => .sint 8
  | 0x1A => .cb
  | 0x1B => .lns 8 4
  | 0x1C => .sint 4
  | 0x1D => .tern
  | 0x1E => .flt fE3M4
  | _ => .sint 16

/-- R107: the element width. -/
def etWidth : EType → Nat
  | .sint w => w
  | .uint w => w
  | .bin => 1
  | .tern => 2
  | .flt f => fWidth f
  | .lns w _ => w
  | .cb => 4
  | .mxint => 8

/-- R12: the scale of a format code. -/
inductive ScaleKind where
  | none | e8m0 | bf16
  deriving DecidableEq, Repr

/-- R12: the block scale column. -/
def fmtScale (code : Nat) : ScaleKind :=
  if code = 0x18 ∨ code = 0x19 ∨ code = 0x1A then .bf16
  else if (0x12 ≤ code ∧ code ≤ 0x17) ∨ code = 0x1B ∨ code = 0x1C then .e8m0
  else .none

/-- R23: elements per block or group; 1 where there is no scale. -/
def scaleBlock : ScaleKind → Nat
  | .none => 1
  | .e8m0 => 32
  | .bf16 => 128

/-! ## Rounding -/

/-- m / 2^s rounded to an integer, ties to even; m x 2^-s for negative s (R11). -/
def rneShift (m : Nat) (s : Int) : Nat :=
  if s ≤ 0 then m * 2 ^ (-s).toNat
  else
    let k := s.toNat
    let q := m / 2 ^ k
    let r := m % 2 ^ k
    let h := 2 ^ (k - 1)
    if r < h then q else if h < r then q + 1 else if q % 2 = 0 then q else q + 1

/-- The exponent of the leading bit of m x 2^e, for m not 0. -/
def leadExp (m : Nat) (e : Int) : Int := (Nat.log2 m : Int) + e

/-- R19: the canonical NaN; zero where the format has none (R21). -/
def fNaN (f : FFmt) : Nat :=
  match f.special with
  | .ieee => (2 ^ f.e - 1) * 2 ^ f.m + 2 ^ (f.m - 1)
  | .nanTop => 2 ^ (f.e + f.m) - 1
  | .none => 0

/-- R18: the encoding of the largest finite value, without its sign. -/
def fMax (f : FFmt) : Nat :=
  match f.special with
  | .ieee => (2 ^ f.e - 1) * 2 ^ f.m - 1
  | .nanTop => 2 ^ (f.e + f.m) - 2
  | .none => 2 ^ (f.e + f.m) - 1

/-- The sign bit of an encoding. -/
def fSign (f : FFmt) (neg : Bool) : Nat := if neg then 2 ^ (f.e + f.m) else 0

/-- An infinity in a format, by R21 the largest finite value with QSAT where it has none. -/
def fInf (f : FFmt) (neg : Bool) : Fl Nat :=
  match f.special with
  | .ieee => (fSign f neg + (2 ^ f.e - 1) * 2 ^ f.m, 0)
  | _ => (fSign f neg + fMax f, flagQSAT)

/-- R20, R21: (-1)^neg x m x 2^e rounded into a format. -/
def roundFloat (f : FFmt) (neg : Bool) (m : Nat) (e : Int) : Fl Nat :=
  if m = 0 then (fSign f neg, 0)
  else
    let ex := leadExp m e
    let emin : Int := 1 - f.bias
    let unb := rneShift m (ex - f.m - e)
    let tiny := leadExp unb (ex - f.m) < emin
    let q := max ex emin - f.m
    let r := rneShift m (q - e)
    let exact := if q ≤ e then true else m % 2 ^ (q - e).toNat = 0
    let enc := (q - (emin - f.m)).toNat * 2 ^ f.m + r
    if fMax f < enc then
      match f.special with
      | .ieee => (fSign f neg + (2 ^ f.e - 1) * 2 ^ f.m, flagOF ||| flagNX)
      | _ => (fSign f neg + fMax f, flagQSAT ||| flagNX)
    else (fSign f neg + enc, flagIf (!exact) flagNX ||| flagIf (!exact && tiny) flagUF)

/-- m x 2^e rounded to an integer, ties to even, with whether that changed it. -/
def roundNat (m : Nat) (e : Int) : Nat × Bool :=
  (rneShift m (-e), if 0 ≤ e then false else m % 2 ^ (-e).toNat != 0)

/-! ## Logarithms of the LNS formats and of L-internal -/

/-- floor(log2|v| x 2d) for v = m x 2^e, rounded half up to units of 1 / d: the nearest integer to log2|v| x d, which
has no ties (R29). -/
def logRound (d m : Nat) (e : Int) : Int := ((Nat.log2 (m ^ (2 * d)) + 1) / 2 : Nat) + d * e

/-- m is a power of two, so that the log is an integer. -/
def isPow2 (m : Nat) : Bool := 2 ^ Nat.log2 m == m

/-- 2^(l / 256) exactly when l is a multiple of 256, else to 65 bits and a bit for the rest. -/
def linearize : Val → Val
  | .pow neg l =>
    let i : Int := l / 256
    let f : Nat := (l % 256).toNat
    if f = 0 then .num neg 1 i
    else .num neg (2 * rootBits 256 (2 ^ (64 * 256 + f)) 65 0 + 1) (i - 65)
  | v => v

/-- R29: an LNS log in the format's units, clamped into the format. -/
def lnsClamp (w : Nat) (neg : Bool) (l : Int) (fl : Word) : Fl Nat :=
  let top : Int := 2 ^ (w - 2) - 1
  let lc := clampInt l (-top) top
  ((if neg then 2 ^ (w - 1) else 0) + wrapInt (w - 1) lc,
    fl ||| flagIf (lc != l) (flagQSAT ||| flagNX))

/-- R29: a log in units of 1 / 256 rounded to `frac` fraction bits, ties to even. -/
def logNarrow (frac : Nat) (l : Int) : Int × Bool :=
  let u : Int := 2 ^ (8 - frac)
  let q := l / u
  let r := l % u
  (if 2 * r < u then q else if u < 2 * r then q + 1 else if q % 2 = 0 then q else q + 1, r != 0)

/-! ## Reading -/

/-- R18: the value of a floating-point encoding. -/
def readFloat (f : FFmt) (bits : Nat) : Val :=
  let neg := bitsOf bits (f.e + f.m) 1 == 1
  let ef := bitsOf bits f.m f.e
  let mf := bitsOf bits 0 f.m
  let finite := if ef = 0 then Val.num neg mf (1 - (f.bias : Int) - f.m)
    else .num neg (2 ^ f.m + mf) ((ef : Int) - f.bias - f.m)
  match f.special with
  | .ieee =>
    if ef = 2 ^ f.e - 1 then
      if mf = 0 then .inf neg else .nan (f.m != 2 && mf < 2 ^ (f.m - 1))
    else finite
  | .nanTop => if ef = 2 ^ f.e - 1 ∧ mf = 2 ^ f.m - 1 then .nan false else finite
  | .none => finite

/-- An integer as a value. -/
def intVal (i : Int) : Val := .num (i < 0) i.natAbs 0

/-- R27: entry k of a codebook. -/
def cbEntry (book : BitVec 256) (k : Nat) : Val := readFloat fBF16 (bitsOf book.toNat (16 * (k % 16)) 16)

/-- R15, R16, R18, R23, R27, R28: an element's own value, with the flag of R16. -/
def readElem (book : BitVec 256) (t : EType) (bits : Nat) : Fl Val :=
  match t with
  | .sint w => (intVal (signed w bits), 0)
  | .uint w => (intVal (bits % 2 ^ w), 0)
  | .bin => (.num (bits % 2 == 0) 1 0, 0)
  | .tern =>
    match bits % 4 with
    | 0 => (.num false 0 0, 0)
    | 1 => (.num false 1 0, 0)
    | 2 => (.num false 0 0, flagQSAT)
    | _ => (.num true 1 0, 0)
  | .flt f => (readFloat f bits, 0)
  | .lns w frac =>
    let neg := bitsOf bits (w - 1) 1 == 1
    let l := bitsOf bits 0 (w - 1)
    if l = 2 ^ (w - 2) then ((if neg then .nan false else .num false 0 0), 0)
    else (.pow neg (signed (w - 1) l * 2 ^ (8 - frac)), 0)
  | .cb => (cbEntry book bits, 0)
  | .mxint =>
    let i := signed 8 bits
    (.num (i < 0) i.natAbs (-6), 0)

/-- R22: the value of a scale. -/
def scaleVal (k : ScaleKind) (bits : Nat) : Val :=
  match k with
  | .none => .num false 1 0
  | .e8m0 => if bits % 256 = 255 then .nan false else .num false 1 ((bits % 256 : Nat) - 127)
  | .bf16 => readFloat fBF16 bits

/-! ## Exact arithmetic -/

/-- A NaN operand that signals (R19). -/
def isSNaN : Val → Bool
  | .nan s => s
  | _ => false

/-- Any NaN. -/
def isNaN : Val → Bool
  | .nan _ => true
  | _ => false

/-- Any zero. -/
def isZeroVal : Val → Bool
  | .num _ m _ => m == 0
  | _ => false

/-- The sign of a value. -/
def isNeg : Val → Bool
  | .nan _ => false
  | .inf n => n
  | .num n _ _ => n
  | .pow n _ => n

/-- The value with its sign replaced. -/
def withSign (n : Bool) : Val → Val
  | .nan s => .nan s
  | .inf _ => .inf n
  | .num _ m e => .num n m e
  | .pow _ l => .pow n l

/-- R19: NV when an operand signals. -/
def snanFlag (l : List Val) : Word := flagIf (l.any isSNaN) flagNV

/-- The quiet NaN with NV. -/
def invalid : Fl Val := (.nan false, flagNV)

/-- The finite dyadic number (-1)^neg x m x 2^e as an integer in units of 2^u, for u at most e. -/
def toUnits (neg : Bool) (m : Nat) (e u : Int) : Int :=
  let k : Int := Int.ofNat (m * 2 ^ (e - u).toNat)
  if neg then -k else k

/-- R90: the exact sum. -/
def addVal (a b : Val) : Fl Val :=
  match linearize a, linearize b with
  | .nan s, y => (.nan false, snanFlag [.nan s, y])
  | x, .nan s => (.nan false, snanFlag [x, .nan s])
  | .inf n, .inf k => if n = k then (.inf n, 0) else invalid
  | .inf n, _ => (.inf n, 0)
  | _, .inf k => (.inf k, 0)
  | .num n m e, .num k p f =>
    let u := min e f
    let t := toUnits n m e u + toUnits k p f u
    if t = 0 then (.num (n && k) 0 0, 0) else (.num (t < 0) t.natAbs u, 0)
  | _, _ => invalid

/-- R90: the exact product. -/
def mulVal (a b : Val) : Fl Val :=
  match a, b with
  | .nan s, y => (.nan false, snanFlag [.nan s, y])
  | x, .nan s => (.nan false, snanFlag [x, .nan s])
  | .pow n l, .num k p f =>
    if p = 1 then (.pow (n != k) (l + 256 * f), 0)
    else match linearize (.pow n l) with
      | .num n' m e => (.num (n' != k) (m * p) (e + f), 0)
      | _ => invalid
  | x, y =>
    match linearize x, linearize y with
    | .inf n, .num k p _ => if p = 0 then invalid else (.inf (n != k), 0)
    | .num n m _, .inf k => if m = 0 then invalid else (.inf (n != k), 0)
    | .inf n, .inf k => (.inf (n != k), 0)
    | .num n m e, .num k p f => (.num (n != k) (m * p) (e + f), 0)
    | _, _ => invalid

/-- R29: 2^L for an L that is not an integer is irrational, so that every rounding changes it. -/
def irrational : Val → Bool
  | .pow _ l => l % 256 != 0
  | _ => false

/-- m x 2^e / (p x 2^f) to more than 128 bits and to fractions of 1, with a last bit below 1 for the rest, of which `more`
says that the dividend has one. -/
def divNum (neg : Bool) (m : Nat) (e : Int) (p : Nat) (f : Int) (more : Bool) : Val :=
  let k := 130 + Nat.log2 p + (e - f).toNat
  let q := m * 2 ^ k / p
  let r := m * 2 ^ k % p
  .num neg (2 * q + (if r = 0 && !more then 0 else 1)) (e - f - k - 1)

/-- R90: the quotient. -/
def divVal (a b : Val) : Fl Val :=
  match linearize a, linearize b with
  | .nan s, y => (.nan false, snanFlag [.nan s, y])
  | x, .nan s => (.nan false, snanFlag [x, .nan s])
  | .inf _, .inf _ => invalid
  | .inf n, y => (.inf (n != isNeg y), 0)
  | x, .inf k => (.num (isNeg x != k) 0 0, 0)
  | .num n m e, .num k p f =>
    if p = 0 then (if m = 0 then invalid else (.inf (n != k), flagDZ))
    else (divNum (n != k) m e p f (irrational a), 0)
  | _, _ => invalid

/-- The floor of the square root of a number below 2^(2b). -/
def sqrtBits (b n : Nat) : Nat := rootBits 2 n b 0

/-- R90: the square root. -/
def sqrtVal (a : Val) : Fl Val :=
  match linearize a with
  | .nan s => (.nan false, snanFlag [.nan s])
  | .inf n => if n then invalid else (.inf false, 0)
  | .num n m e =>
    if m = 0 then (.num n 0 0, 0)
    else if n then invalid
    else
      let k : Nat := 140 + (if (e - 140) % 2 = 0 then 0 else 1)
      let x := m * 2 ^ k
      let r := sqrtBits (Nat.log2 x / 2 + 1) x
      (.num false (2 * r + (if r * r = x then 0 else 1)) ((e - k) / 2 - 1), 0)
  | _ => invalid

/-- R90: a x b + c, exact. 0 x infinity is invalid even with a quiet NaN addend. -/
def fmaVal (a b c : Val) : Fl Val :=
  match mulVal a b with
  | (p, f) =>
    match addVal p c with
    | (r, g) => (r, f ||| g ||| snanFlag [a, b, c])

/-- The negated value. -/
def negVal (a : Val) : Val := withSign (!isNeg a) a

/-- Order of two values that are not NaN, -0 equal to +0 (R91, R150). -/
def ltVal (a b : Val) : Bool :=
  match a, b with
  | .pow n l, .pow k p => if n then (if k then p < l else true) else (if k then false else l < p)
  | x, y =>
    match linearize x, linearize y with
    | .inf n, .inf k => n && !k
    | .inf n, _ => n
    | _, .inf k => !k
    | .num n m e, .num k p f => toUnits n m e (min e f) < toUnits k p f (min e f)
    | _, _ => false

/-- Equality of two values that are not NaN. -/
def eqVal (a b : Val) : Bool := !ltVal a b && !ltVal b a

/-! ## Writing -/

/-- R21: a value written into a floating-point format. -/
def toFloat (f : FFmt) (v : Val) : Fl Nat :=
  match linearize v with
  | .nan s =>
    match f.special with
    | .none => (0, flagNV)
    | _ => (fNaN f, flagIf s flagNV)
  | .inf n => fInf f n
  | .num n m e => roundFloat f n m e
  | .pow _ _ => (0, 0)

/-- R17: a value rounded into an integer range. -/
def toInt (lo hi : Int) (v : Val) : Fl Int :=
  match linearize v with
  | .nan _ => (0, flagNV)
  | .inf n => (if n then lo else hi, flagQSAT)
  | .num n m e =>
    match roundNat m e with
    | (r, nx) =>
      match satInt (if n then -(r : Int) else r) lo hi flagQSAT with
      | (x, q) => (x, q ||| flagIf (nx || irrational v) flagNX)
  | .pow _ _ => (0, 0)

/-- R29: a value converted to LNS. -/
def toLns (w frac : Nat) (v : Val) : Fl Nat :=
  match v with
  | .nan s => (2 ^ (w - 1) + 2 ^ (w - 2), flagIf s flagNV)
  | .inf n => ((if n then 2 ^ (w - 1) else 0) + (2 ^ (w - 2) - 1), flagQSAT)
  | .pow n l =>
    match logNarrow frac l with
    | (r, nx) => lnsClamp w n r (flagIf nx flagNX)
  | .num n m e =>
    if m = 0 then (2 ^ (w - 2), 0)
    else lnsClamp w n (logRound (2 ^ frac) m e) (flagIf (!isPow2 m) flagNX)

/-- The distance of two finite values, as a value. -/
def distVal (a b : Val) : Val := withSign false (addVal a (negVal b)).1

/-- R27: the nearest entry among the first `n`, ties to the lower index, NaNs never chosen. Entry values come scaled. To an
infinite x that equals no entry the largest entry of its side is nearest: the model's choice (log entry 52). -/
def nearest (entry : Nat → Val) (x : Val) : Nat → Option Nat
  | 0 => none
  | n + 1 =>
    match nearest entry x n with
    | none => if isNaN (entry n) then none else some n
    | some k =>
      if isNaN (entry n) then some k
      else if x = entry k then some k
      else match x with
        | .inf neg => if neg then (if ltVal (entry n) (entry k) then some n else some k)
            else (if ltVal (entry k) (entry n) then some n else some k)
        | _ =>
          match entry k, entry n with
          | .inf _, .inf _ => some k
          | .inf _, _ => some n
          | _, .inf _ => some k
          | _, _ => if ltVal (distVal x (entry n)) (distVal x (entry k)) then some n else some k

/-- R27: NX when index k reads, times the scale, as a value different from x. -/
def readsAs (book : BitVec 256) (scale x : Val) (k : Nat) : Word :=
  match (mulVal (cbEntry book k) scale).1 with
  | .nan _ => flagNX
  | y => flagIf (!eqVal y x) flagNX

/-- R27: quantisation of x / s to a codebook index; `orig` is x, whose difference from entry k times s sets NX. -/
def toCb (book : BitVec 256) (scale x orig : Val) : Fl Nat :=
  if isNaN x then (0, flagNV)
  else match nearest (cbEntry book) x 16 with
    | none => (0, flagNV)
    | some k => (k, readsAs book scale orig k)

/-- A value written into an element type, codebooks apart: R17, R20, R21, R29. That a NaN into BIN1 sets NV and not NX as well
is the model's choice (log entry 75). -/
def toElem (t : EType) (v : Val) : Fl Nat :=
  match t with
  | .sint w => ((toInt (sBounds w).1 (sBounds w).2 v).map (wrapInt w) id)
  | .uint w => ((toInt (uBounds w).1 (uBounds w).2 v).map (wrapInt w) id)
  | .bin =>
    if isNaN v then (1, flagNV)
    else ((if isNeg v && !isZeroVal v then 0 else 1), flagIf (!eqVal (withSign false v) (.num false 1 0)) flagNX)
  | .tern => ((toInt (-1) 1 v).map (wrapInt 2) id)
  | .flt f => toFloat f v
  | .lns w frac => toLns w frac v
  | .cb => (0, 0)
  | .mxint =>
    match v with
    | .num n m e => ((toInt (-128) 127 (.num n m (e + 6))).map (wrapInt 8) id)
    | .pow n l => ((toInt (-128) 127 (.pow n (l + 6 * 256))).map (wrapInt 8) id)
    | x => ((toInt (-128) 127 x).map (wrapInt 8) id)

/-! ## Floating-point operations on encodings (R90, R91, R142) -/

/-- The result of an arithmetic operation rounded into its format, with the flags of R142 where the format has no
infinity: an overflow sets OF as well. -/
def arith (f : FFmt) (r : Fl Val) : Fl Nat :=
  match toFloat f r.1 with
  | (bits, g) =>
    (bits, r.2 ||| g ||| (match r.1 with
      | .num _ _ _ => flagIf (g &&& flagQSAT != 0) flagOF
      | _ => 0))

def fpAdd (f : FFmt) (a b : Nat) : Fl Nat := arith f (addVal (readFloat f a) (readFloat f b))
def fpMul (f : FFmt) (a b : Nat) : Fl Nat := arith f (mulVal (readFloat f a) (readFloat f b))
def fpDiv (f : FFmt) (a b : Nat) : Fl Nat := arith f (divVal (readFloat f a) (readFloat f b))
def fpSqrt (f : FFmt) (a : Nat) : Fl Nat := arith f (sqrtVal (readFloat f a))
def fpFma (f : FFmt) (a b c : Nat) : Fl Nat := arith f (fmaVal (readFloat f a) (readFloat f b) (readFloat f c))

/-- R90: a - b, NaNs as they are. -/
def fpSub (f : FFmt) (a b : Nat) : Fl Nat := arith f (addVal (readFloat f a) (negVal (readFloat f b)))

/-- R91: EQ sets NV only for a signalling NaN. -/
def fpEq (f : FFmt) (a b : Nat) : Fl Bool :=
  let x := readFloat f a
  let y := readFloat f b
  if isNaN x || isNaN y then (false, snanFlag [x, y]) else (eqVal x y, 0)

/-- R91: LT sets NV for any NaN. -/
def fpLt (f : FFmt) (a b : Nat) : Fl Bool :=
  let x := readFloat f a
  let y := readFloat f b
  if isNaN x || isNaN y then (false, flagNV) else (ltVal x y, 0)

/-- R91: LE sets NV for any NaN. -/
def fpLe (f : FFmt) (a b : Nat) : Fl Bool :=
  let x := readFloat f a
  let y := readFloat f b
  if isNaN x || isNaN y then (false, flagNV) else (!ltVal y x, 0)

/-- R91: -0 less than +0. -/
def ltSigned (x y : Val) : Bool := ltVal x y || (eqVal x y && isNeg x && !isNeg y)

/-- R91: FMIN (`least`) and FMAX. Where the format has no NaN there is none to choose against. -/
def fpPick (least : Bool) (f : FFmt) (a b : Nat) : Fl Nat :=
  let x := readFloat f a
  let y := readFloat f b
  let nv := snanFlag [x, y]
  match isNaN x, isNaN y with
  | true, true => (fNaN f, nv)
  | true, false => (b % 2 ^ fWidth f, nv)
  | false, true => (a % 2 ^ fWidth f, nv)
  | false, false =>
    if (if least then ltSigned y x else ltSigned x y) then (b % 2 ^ fWidth f, 0) else (a % 2 ^ fWidth f, 0)

/-- R91, R145: the class word. -/
def fpClass (f : FFmt) (a : Nat) : Nat :=
  (if bitsOf a (f.e + f.m) 1 = 1 then 16 else 0) +
    match readFloat f a with
    | .nan s => if s then 5 else 4
    | .inf _ => 3
    | .num _ m _ => if m = 0 then 0 else if bitsOf a f.m f.e = 0 then 1 else 2
    | .pow _ _ => 0

/-- R92, R143: a conversion between floating-point formats; between identical formats the value is copied. -/
def fpConvert (src dst : FFmt) (a : Nat) : Fl Nat :=
  if src = dst ∧ isSNaN (readFloat src a) = false ∧ isNaN (readFloat src a) = true then
    (a % 2 ^ fWidth src, 0)
  else toFloat dst (readFloat src a)

/-! ## Exact sums (R35) -/

/-- Terms of a sum, seen through their specials. -/
def sumVals (l : List Val) : Fl Val :=
  if l.any isNaN || (l.any (· = .inf true) && l.any (· = .inf false)) then invalid
  else if l.any (· = .inf true) then (.inf true, 0)
  else if l.any (· = .inf false) then (.inf false, 0)
  else match l with
    | [] => (.num false 0 0, 0)
    | v :: r => ((r.foldl (fun acc x => (addVal acc x).1) v), 0)

/-- R155: RNE of the exact sum into the destination. -/
def exactSum (src dst : FFmt) (l : List Nat) : Fl Nat :=
  match sumVals (l.map (readFloat src)) with
  | (v, fl) => match toFloat dst v with
    | (bits, g) => (bits, fl ||| g)

end Sys2Proof.Machine
end

