-- ==== Sys2Proof/Machine/Codec.lean ====
section
/-!
DEFINITION. The block codec of coded FP64 regions (R298-R301, R305). A decoded line is eight FP64 patterns.
-/

namespace Sys2Proof.Machine

/-- R296: the rate b of a RATE field. -/
def codedRate (rate : Nat) : Nat :=
  match rate with
  | 0 => 8
  | 1 => 12
  | 2 => 16
  | 3 => 24
  | _ => 32

/-- R300: blocks per carrier. -/
def blocksPerCarrier (rate : Nat) : Nat :=
  match rate with
  | 0 => 8
  | 1 => 5
  | 2 => 4
  | _ => 2

/-- R300: coefficient widths a_0 to a_7. -/
def coeffWidths (rate : Nat) : List Nat :=
  match rate with
  | 0 => [16, 10, 7, 7, 3, 3, 3, 3]
  | 1 => [20, 16, 12, 12, 6, 6, 6, 6]
  | 2 => [24, 20, 16, 16, 10, 10, 10, 10]
  | 3 => [32, 28, 24, 24, 18, 18, 18, 18]
  | _ => [40, 36, 32, 32, 26, 26, 26, 26]

/-- R299: `lift`. -/
def lift (a b : Int) : Int × Int := (a + (b - a) / 2, b - a)

/-- R301: `unlift`. -/
def unlift (s d : Int) : Int × Int := (s - d / 2, d + (s - d / 2))

/-- An integer divided by 2^s, ties to even. -/
def rneInt (x : Int) (s : Nat) : Int :=
  if x < 0 then -(rneShift x.natAbs s : Int) else (rneShift x.natAbs s : Int)

/-- R299: the unbiased exponent, -1022 for subnormals. -/
def codecExp (x : Nat) : Int := if bitsOf x 52 11 = 0 then -1022 else (bitsOf x 52 11 : Int) - 1023

/-- The value of a finite FP64 pattern times 2^(60 - E), rounded to an integer. -/
def codecScale (e : Int) (x : Nat) : Int :=
  match readFloat fFP64 x with
  | .num n m k =>
    let r : Int := (rneShift m (-(k + 60 - e)) : Nat)
    if n then -r else r
  | _ => 0

/-- R299: the coefficients of eight scaled elements. -/
def liftAll (q : List Int) : List Int :=
  let g := listGet 0 q
  let a := lift (g 0) (g 1)
  let b := lift (g 2) (g 3)
  let c := lift (g 4) (g 5)
  let d := lift (g 6) (g 7)
  let e := lift a.1 b.1
  let f := lift c.1 d.1
  let t := lift e.1 f.1
  [t.1, t.2, e.2, f.2, a.2, b.2, c.2, d.2]

/-- R301: the elements of eight coefficients. -/
def unliftAll (c : List Int) : List Int :=
  let g := listGet 0 c
  let t := unlift (g 0) (g 1)
  let e := unlift t.1 (g 2)
  let f := unlift t.2 (g 3)
  let a := unlift e.1 (g 4)
  let b := unlift e.2 (g 5)
  let c' := unlift f.1 (g 6)
  let d := unlift f.2 (g 7)
  [a.1, a.2, b.1, b.2, c'.1, c'.2, d.1, d.2]

/-- R300: coefficients packed above bit `pos`. -/
def packCoeffs : Nat → List (Nat × Int) → Nat
  | _, [] => 0
  | pos, (a, h) :: r => wrapInt a h * 2 ^ pos + packCoeffs (pos + a) r

/-- R300: coefficients read from bit `pos` up. -/
def unpackCoeffs (block : Nat) : Nat → List Nat → List Int
  | _, [] => []
  | pos, a :: r => signed a (bitsOf block pos a) :: unpackCoeffs block (pos + a) r

/-- R299: the block of a decoded line. -/
def encodeBlock (rate : Nat) (xs : List Nat) : Nat :=
  if xs.all fun x => x % 2 ^ 63 = 0 then 0
  else
    let e := (xs.filter fun x => x % 2 ^ 63 != 0).foldl (fun acc x => max acc (codecExp x)) (-1022)
    let c := liftAll (xs.map (codecScale e))
    let h := List.zipWith (fun a x => (a, clampInt (rneInt x (64 - a)) (-(2 ^ (a - 1))) (2 ^ (a - 1) - 1)))
      (coeffWidths rate) c
    (e + 1023).toNat + packCoeffs 12 h

/-- R301: a scaled element as FP64; beyond the largest finite, the largest finite of its sign; an exact zero is +0. -/
def codecOut (e : Int) (q : Int) : Nat :=
  if q = 0 then 0
  else
    let r := (roundFloat fFP64 (q < 0) q.natAbs (e - 60)).1
    if bitsOf r 52 11 = 2047 then fSign fFP64 (q < 0) + fMax fFP64 else r

/-- R301: the decoded line of a block, and whether the block is invalid. -/
def decodeBlock (rate : Nat) (block : Nat) : List Nat × Bool :=
  if bitsOf block 0 12 = 0 then (List.replicate 8 0, false)
  else if bitsOf block 11 1 = 1 then (List.replicate 8 0, true)
  else
    let e : Int := (bitsOf block 0 11 : Int) - 1023
    let c := List.zipWith (fun a (h : Int) => h * 2 ^ (64 - a)) (coeffWidths rate)
      (unpackCoeffs block 12 (coeffWidths rate))
    ((unliftAll c).map (codecOut e), false)

/-- The eight doublewords of a line. -/
def lineDoubles (l : Line) : List Nat := (List.range 8).map fun i => bitsOf l.toNat (64 * i) 64

/-- A line from eight doublewords. -/
def lineOfDoubles (xs : List Nat) : Line := BitVec.ofNat 512 (xs.foldr (fun x acc => x + 2 ^ 64 * acc) 0)

/-- R305: a nonnegative exact value rounded toward +infinity to FP64, +infinity if beyond. -/
def roundUpFp64 (m : Nat) (e : Int) : Nat :=
  if m = 0 then 0
  else
    let q := max (leadExp m e) (-1022) - 52
    let r := if q ≤ e then m * 2 ^ (e - q).toNat
      else m / 2 ^ (q - e).toNat + (if m % 2 ^ (q - e).toNat = 0 then 0 else 1)
    min ((q + 1074).toNat * 2 ^ 52 + r) 0x7FF0000000000000

/-- R305: the largest error of an encode, rounded up to FP64. -/
def encodeError (xs ys : List Nat) : Nat :=
  (List.zipWith (fun x y =>
    match (addVal (readFloat fFP64 x) (negVal (readFloat fFP64 y))).1 with
    | .num _ m e => roundUpFp64 m e
    | _ => 0) xs ys).foldl max 0

end Sys2Proof.Machine
end

