-- ==== Sys2Proof/Machine/Cells.lean ====
section
/-!
DEFINITION. Memories as sorted lists of bytes. An address that is not listed reads as 0 (log entry 4), and no byte of
value 0 is listed, so that equal memories are equal lists.
-/

namespace Sys2Proof.Machine

/-- The byte at an address. -/
def cellsGet : List Host.Cell → Nat → Byte
  | [], _ => 0
  | (j, v) :: r, a => if a < j then 0 else if j = a then v else cellsGet r a

/-- Every listed address is above `a`, in rising order, and no listed byte is 0. -/
def cellsAbove : Nat → List Host.Cell → Bool
  | _, [] => true
  | a, (j, v) :: r => decide (a < j) && decide (v ≠ 0) && cellsAbove j r

/-- The canonical form of a memory: addresses strictly rising, and no listed byte equal to what an unlisted one reads. -/
def Memory.wf : List Host.Cell → Bool
  | [] => true
  | (j, v) :: r => decide (v ≠ 0) && cellsAbove j r

/-- `n` bytes from an address, little-endian. -/
def cellsRead (m : List Host.Cell) : Nat → Nat → Nat
  | _, 0 => 0
  | a, n + 1 => (cellsGet m a).toNat + 256 * cellsRead m (a + 1) n

/-- The cells of the low `n` bytes of a value from an address, little-endian; bytes of 0 are not listed. -/
def cellsOf : Nat → Nat → Nat → List Host.Cell
  | _, 0, _ => []
  | a, n + 1, v =>
    if v % 256 = 0 then cellsOf (a + 1) n (v / 256) else (a, BitVec.ofNat 8 v) :: cellsOf (a + 1) n (v / 256)

/-- The low `n` bytes of a value written from an address, little-endian: the cells below, those written, the cells above. -/
def cellsWrite (m : List Host.Cell) (a n v : Nat) : List Host.Cell :=
  m.filter (fun c => decide (c.1 < a)) ++ (cellsOf a n v ++ m.filter fun c => decide (a + n ≤ c.1))

/-- The memory with every byte of `[lo, hi)` cleared. -/
def cellsClear (m : List Host.Cell) (lo hi : Nat) : List Host.Cell := m.filter fun c => c.1 < lo || hi ≤ c.1

end Sys2Proof.Machine
end

