-- ==== Sys2Proof/Machine/Rings.lean ====
section
/-!
DEFINITION. The error log, host rings, MSI-X and events (R329, R330, R340).
-/

namespace Sys2Proof.Machine

/-- An error report to the Usher. -/
def addReport (s : State) (rule detail : Nat) : State :=
  { s with pkg := { s.pkg with usher := { s.pkg.usher with log := ⟨rule, detail⟩ :: s.pkg.usher.log } } }

/-- R293: what is reported once is not reported again. -/
def addReportOnce (s : State) (rule detail : Nat) : State :=
  if s.pkg.usher.log.contains ⟨rule, detail⟩ then s else addReport s rule detail

/-! ## Fields of a ring's registers (R329) -/

/-- The registers of host ring `n`. -/
def ringOf (s : State) (n : Nat) : Ring := tblGet Ring.reset s.pkg.rings n

/-- The registers of host ring `n` replaced. -/
def setRing (s : State) (n : Nat) (r : Ring) : State := { s with pkg := { s.pkg with rings := tblSet s.pkg.rings n r } }

/-- HRCFG.EN. -/
def ringOn (r : Ring) : Bool := fld r.cfg 63 1 == 1

/-- The number of slots, 2^SIZE. -/
def ringSlots (r : Ring) : Nat := 2 ^ fld r.cfg 58 5

/-- R329: the ring is full. -/
def ringFull (r : Ring) : Bool := (r.tail + 2 ^ 32 - r.head) % 2 ^ 32 == ringSlots r

/-! ## MSI-X -/

/-- R330: a vector is raised: sent, or held pending while it is masked. -/
def raiseVector (s : State) (v : Nat) : State :=
  if s.pkg.unmasked.contains v then { s with pkg := { s.pkg with messages := v :: s.pkg.messages } }
  else { s with pkg := { s.pkg with pending := insertNat v s.pkg.pending } }

/-- R330: `p` pending slots reach CCOUNT of a configuration. -/
def countReached (cfg : Word) (p : Nat) : Bool := fld cfg 16 16 != 0 && decide (fld cfg 16 16 ≤ p)

/-- R330: one more slot is pending; the count threshold raises the vector. -/
def ringSignal (s : State) (n : Nat) : State :=
  let r := ringOf s n
  let p := r.pend + 1
  if countReached r.cfg p then raiseVector (setRing s n { r with pend := 0 }) (fld r.cfg 37 11)
  else setRing s n { r with pend := p }

/-! ## Slots -/

/-- R330: the 16 bytes of a slot, as a number. -/
def slotBytes (payload : Word) (tag attempt source index slots : Nat) : Nat :=
  payload.toNat + tag % 2 ^ 16 * 2 ^ 64 + attempt % 256 * 2 ^ 80 + source * 2 ^ 88 +
    (1 - index / slots % 2) * 2 ^ 127

/-- Bytes written to host memory. -/
def hostWrite (s : State) (a n v : Nat) : State := { s with mem := { s.mem with host := cellsWrite s.mem.host a n v } }

/-- R330: the slot of sequence number `i` of ring `n` is written. -/
def writeSlotAt (s : State) (n i : Nat) (payload : Word) (tag attempt source : Nat) : State :=
  let r := ringOf s n
  hostWrite s ((r.base.toNat + 16 * (i % ringSlots r)) % 2 ^ 64) 16 (slotBytes payload tag attempt source i (ringSlots r))

/-- R330: a slot is written at TAIL, TAIL rises, and the interrupt is coalesced. -/
def postSlot (s : State) (n : Nat) (payload : Word) (tag attempt source : Nat) : State :=
  let r := ringOf s n
  let t := writeSlotAt s n r.tail payload tag attempt source
  ringSignal (setRing t n { r with tail := (r.tail + 1) % 2 ^ 32 }) n

/-- R340: an event; the error log alone keeps it when ring 32 is full or disabled. -/
def postEvent (s : State) (kind payload tag : Nat) : State :=
  let r := ringOf s 32
  if ringOn r && !ringFull r then postSlot s 32 (BitVec.ofNat 64 (kind * 2 ^ 56 + payload % 2 ^ 56)) tag 0 3
  else addReport s 340 (kind * 2 ^ 56 + payload % 2 ^ 56)

end Sys2Proof.Machine
end

