-- ==== Sys2Proof/Machine/Seal.lean ====
section
/-!
DEFINITION. The Seal engine (R320): XTS-AES-256 as IEEE 1619 defines it, the data unit being a 64-byte line and the tweak
its line number. Bytes are natural numbers below 256.
-/

namespace Sys2Proof.Machine

/-! ## AES-256 -/

/-- Multiplication by x in the field of AES. -/
def xtime (b : Nat) : Nat := if b < 128 then 2 * b else (2 * b) ^^^ 0x11B

/-- Multiplication in the field of AES, over the `n` low bits of the second factor. -/
def gfMul (a b : Nat) : Nat → Nat
  | 0 => 0
  | n + 1 => (if b % 2 = 1 then a else 0) ^^^ gfMul (xtime a) (b / 2) n

/-- A power in the field of AES by repeated squaring, over the `n` low bits of the exponent. -/
def gfPow (a e : Nat) : Nat → Nat
  | 0 => 1
  | n + 1 => gfMul (if e % 2 = 1 then a else 1) (gfPow (gfMul a a 8) (e / 2) n) 8

/-- A byte rotated left. -/
def rotl8 (b k : Nat) : Nat := (b * 2 ^ k ||| b / 2 ^ (8 - k)) % 256

/-- The substitution of AES: the inverse, then the affine map. -/
def subByte (b : Nat) : Nat :=
  let i := gfPow b 254 8
  i ^^^ rotl8 i 1 ^^^ rotl8 i 2 ^^^ rotl8 i 3 ^^^ rotl8 i 4 ^^^ 0x63

/-- The table of the substitution. -/
def subTable : List Nat := (List.range 256).map subByte

/-- The table of the inverse substitution. -/
def invTable : List Nat := (List.range 256).map fun b => subTable.idxOf b

/-- Bytewise exclusive or. -/
def xorBytes (a b : List Nat) : List Nat := List.zipWith (· ^^^ ·) a b

/-- The round constant of a key word. -/
def rcon : Nat → Nat
  | 0 => 1
  | n + 1 => xtime (rcon n)

/-- The next four-byte word of the AES-256 key schedule; `ws` holds the words so far, the latest first. -/
def nextKeyWord (n : Nat) (ws : List (List Nat)) : List Nat :=
  let prev := listGet [] ws 0
  let back := listGet [] ws 7
  let sub := fun l : List Nat => l.map (listGet 0 subTable)
  let t := if n % 8 = 0 then
      xorBytes (sub (prev.drop 1 ++ prev.take 1)) [rcon (n / 8 - 1), 0, 0, 0]
    else if n % 8 = 4 then sub prev else prev
  xorBytes back t

/-- Words 8 to 59 of the key schedule. -/
def growKey : Nat → Nat → List (List Nat) → List (List Nat)
  | 0, _, ws => ws
  | k + 1, n, ws => growKey k (n + 1) (nextKeyWord n ws :: ws)

/-- A list cut into pieces of `k`. -/
def pieces {α : Type} (k : Nat) : Nat → List α → List (List α)
  | 0, _ => []
  | n + 1, l => l.take k :: pieces k n (l.drop k)

/-- The fifteen round keys of a 32-byte key. -/
def roundKeys (key : List Nat) : List (List Nat) :=
  pieces 16 15 ((growKey 52 8 (pieces 4 8 key).reverse).reverse).flatten

/-- Row shift: byte i of the state is row i mod 4 of column i / 4. -/
def shiftRows (s : List Nat) : List Nat := (List.range 16).map fun i => listGet 0 s ((i + 4 * (i % 4)) % 16)

/-- The inverse row shift. -/
def unshiftRows (s : List Nat) : List Nat := (List.range 16).map fun i => listGet 0 s ((i + 12 * (i % 4)) % 16)

/-- Column mixing with the given coefficients of row 0. -/
def mixWith (c : List Nat) (s : List Nat) : List Nat :=
  (List.range 16).map fun i =>
    (List.range 4).foldl
      (fun acc j => acc ^^^ gfMul (listGet 0 s (i / 4 * 4 + (i % 4 + j) % 4)) (listGet 0 c j) 8) 0

/-- Rounds of encryption on the remaining round keys. -/
def encRounds : List (List Nat) → List Nat → List Nat
  | [], s => s
  | [k], s => xorBytes (shiftRows (s.map (listGet 0 subTable))) k
  | k :: r, s => encRounds r (xorBytes (mixWith [2, 3, 1, 1] (shiftRows (s.map (listGet 0 subTable)))) k)

/-- AES-256 encryption of a 16-byte block. -/
def aesEncrypt (key block : List Nat) : List Nat :=
  match roundKeys key with
  | [] => block
  | k :: r => encRounds r (xorBytes block k)

/-- Rounds of decryption; round keys from the last to the first. -/
def decRounds : List (List Nat) → List Nat → List Nat
  | [], s => s
  | [k], s => xorBytes ((unshiftRows s).map (listGet 0 invTable)) k
  | k :: r, s => decRounds r (mixWith [14, 11, 13, 9] (xorBytes ((unshiftRows s).map (listGet 0 invTable)) k))

/-- AES-256 decryption of a 16-byte block. -/
def aesDecrypt (key block : List Nat) : List Nat :=
  match (roundKeys key).reverse with
  | [] => block
  | k :: r => decRounds r (xorBytes block k)

/-! ## XTS -/

/-- The next tweak: multiplication by x in the field of 2^128, least significant bit first. -/
def nextTweak (t : List Nat) : List Nat :=
  let n := t.foldr (fun b acc => b + 256 * acc) 0
  let d := 2 * n
  let r := if 2 ^ 128 ≤ d then (d % 2 ^ 128) ^^^ 0x87 else d
  (List.range 16).map fun i => r / 256 ^ i % 256

/-- The four blocks of a line under rising tweaks. -/
def xtsBlocks (f : List Nat → List Nat) : Nat → List Nat → List Nat → List Nat
  | 0, _, _ => []
  | n + 1, t, l => xorBytes (f (xorBytes (l.take 16) t)) t ++ xtsBlocks f n (nextTweak t) (l.drop 16)

/-- The 32 bytes of half `h` of the key pair. -/
def sealHalf (key : BitVec 512) (h : Nat) : List Nat := (List.range 32).map fun i => bitsOf key.toNat (256 * h + 8 * i) 8

/-- The 64 bytes of a line as numbers. -/
def lineNats (l : Line) : List Nat := (List.range 64).map fun i => bitsOf l.toNat (8 * i) 8

/-- A line from its bytes. -/
def lineOfNats (l : List Nat) : Line := BitVec.ofNat 512 (l.foldr (fun b acc => b + 256 * acc) 0)

/-- R320: a line through the Seal engine with block function `f`; `n` is PA >> 6. -/
def xtsLine (key : BitVec 512) (f : List Nat → List Nat → List Nat) (n : Nat) (l : Line) : Line :=
  let t := aesEncrypt (sealHalf key 1) ((List.range 16).map fun i => n / 256 ^ i % 256)
  lineOfNats (xtsBlocks (f (sealHalf key 0)) 4 t (lineNats l))

/-- R320: plaintext to the bits in DRAM. -/
def sealLine (key : BitVec 512) (n : Nat) (l : Line) : Line := xtsLine key aesEncrypt n l

/-- R320: the bits in DRAM to plaintext. -/
def unsealLine (key : BitVec 512) (n : Nat) (l : Line) : Line := xtsLine key aesDecrypt n l

end Sys2Proof.Machine
end

