-- ==== Sys2Proof/Machine/Mem.lean ====
section
/-!
DEFINITION. Device memory, L2, coded lines, the Atrium, links, translation, and the accesses that every agent makes
(R213-R216, R236-R238, R284-R305, R318-R320).
-/

namespace Sys2Proof.Machine

/-! ## Trap causes (R100) -/

abbrev cILLEGAL : Nat := 0x01
abbrev cGUARD : Nat := 0x02
abbrev cEXEC_POOL : Nat := 0x03
abbrev cMISALIGN : Nat := 0x04
abbrev cPAGE_FAULT : Nat := 0x05
abbrev cACCESS : Nat := 0x06
abbrev cCODED_NONFINITE : Nat := 0x07
abbrev cNEAR_SEALED : Nat := 0x08
abbrev cARCADE_PARITY : Nat := 0x09
abbrev cVDEAD : Nat := 0x0A
abbrev cCOPY_FAULT : Nat := 0x0B
abbrev cBARRIER_FAULT : Nat := 0x0C
abbrev cATOMIC_UNSUPPORTED : Nat := 0x0D
abbrev cPRIV : Nat := 0x0E
abbrev cSVC : Nat := 0x0F
abbrev cBRK : Nat := 0x10
abbrev cPREEMPT : Nat := 0x11
abbrev cWATCHDOG : Nat := 0x12
abbrev cCOORD : Nat := 0x13
abbrev cVAULT : Nat := 0x14
abbrev cMEM_UE : Nat := 0x15

/-! ## The parts of the state -/

/-- A strand slot. -/
def strandOf (s : State) (id : Nat) : Strand := tblGet (Strand.reset id) s.strands id

/-- A strand slot replaced. -/
def setStrand (s : State) (id : Nat) (t : Strand) : State := { s with strands := tblSet s.strands id t }

/-- A core. -/
def coreOf (s : State) (c : Nat) : Core := tblGet Core.reset s.cores c

/-- A core replaced. -/
def setCore (s : State) (c : Nat) (k : Core) : State := { s with cores := tblSet s.cores c k }

/-- A cluster. -/
def clusterOf (s : State) (c : Nat) : Cluster := tblGet Cluster.reset s.clusters c

/-- A cluster replaced. -/
def setCluster (s : State) (c : Nat) (k : Cluster) : State := { s with clusters := tblSet s.clusters c k }

/-- A compute die. -/
def dieOf (s : State) (d : Nat) : Die := tblGet (Die.reset d) s.dies d

/-- A compute die replaced. -/
def setDie (s : State) (d : Nat) (k : Die) : State := { s with dies := tblSet s.dies d k }

/-- R352: this package's number. -/
def pkgNumber (s : State) : Nat := fld s.net.frcfg 0 12

/-! ## Physical addresses (R284) -/

/-- R284: bytes of a die's range. -/
abbrev dieBytes : Nat := 0x3000000000

/-- R284: no memory lies at or above this. -/
abbrev memTop : Nat := 0xC000000000

/-- The address in `Mem.dram` of a PA of package `p`. -/
def memKey (s : State) (p pa : Nat) : Nat := if p = pkgNumber s then pa else (p + 1) * 2 ^ 40 + pa

/-- The PA of an address of `Mem.dram`. -/
def paOf (k : Nat) : Nat := k % 2 ^ 40

/-- The package of an address of `Mem.dram`. -/
def pkgOf (s : State) (k : Nat) : Nat := if k / 2 ^ 40 = 0 then pkgNumber s else k / 2 ^ 40 - 1

/-- R318: the top 4 GiB of a die's range. -/
def reservedPa (pa : Nat) : Bool := pa < memTop && decide (0x2F00000000 ≤ pa % dieBytes)

/-- R318: a range of PAs that touches a reserved area or the end of memory. -/
def reservedRange (pa n : Nat) : Bool := reservedPa pa || reservedPa (pa + n - 1)

/-- R314: the row unit of a PA in its die's range. -/
def rowUnit (pa : Nat) : Nat := pa % dieBytes / 1024

/-- R314: the stack of a PA. -/
def stackOf (pa : Nat) : Nat := 3 * (pa / dieBytes) + rowUnit pa % 3

/-- R314: the pseudo-channel of a PA in its stack. -/
def pseudoChannelOf (pa : Nat) : Nat := rowUnit pa / 3 % 64

/-- R314: the bank of a PA in its pseudo-channel. -/
def bankOf (pa : Nat) : Nat := rowUnit pa / 3 / 64 % 64

/-- R314: the row of a PA in its bank. -/
def rowOf (pa : Nat) : Nat := rowUnit pa / 3 / 64 / 64

/-! ## Lines of device memory -/

/-- The 64 bytes of a line in DRAM. -/
def dramLine (m : Mem) (n : Nat) : Line := BitVec.ofNat 512 (cellsRead m.dram (64 * n) 64)

/-- A line written to DRAM. -/
def setDramLine (m : Mem) (n : Nat) (l : Line) : Mem := { m with dram := cellsWrite m.dram (64 * n) 64 l.toNat }

/-- R320: what a mapping with SEALED = `want` sees of bits that a mapping with SEALED = `have'` holds. -/
def throughSeal (key : BitVec 512) (have' want : Bool) (n : Nat) (l : Line) : Line :=
  if have' = want then l
  else if want then unsealLine key (n % 2 ^ 34) l
  else sealLine key (n % 2 ^ 34) l

/-- The present contents of a line, as a mapping with the given SEALED bit sees them. -/
def lineNow (s : State) (n : Nat) (sl : Bool) : Line :=
  match tblFind s.mem.l2 n with
  | some l => throughSeal s.pkg.sealKey l.isSealed sl n l.data
  | none => throughSeal s.pkg.sealKey false sl n (dramLine s.mem n)

/-- R314, R339: the line lies on a stack of this package that has failed as a part. -/
def stackLost (s : State) (n : Nat) : Bool :=
  !s.mem.lostStacks.isEmpty && decide (n < 2 ^ 34) && s.mem.lostStacks.contains (stackOf (64 * n))

/-- R319, R339: the line's DRAM cannot be read. -/
def dramBad (s : State) (n : Nat) : Bool := s.mem.poison.contains n || stackLost s n

/-- R289, R319: the line carries an uncorrectable error: in the copy that L2 holds, or else in DRAM. -/
def lineBad (s : State) (n : Nat) : Bool :=
  if (tblFind s.mem.l2 n).isSome then s.mem.l2Poison.contains n else dramBad s n

/-- A line given new contents by a mapping with the given SEALED bit. An uncorrectable error in it stays. In bring-up mode L2 is
bypassed (R345). -/
def storeLine (s : State) (n : Nat) (sl : Bool) (tag : Nat) (l : Line) : State :=
  if s.pkg.bringUp then
    { s with mem := { setDramLine s.mem n (throughSeal s.pkg.sealKey sl false n l) with
        l2 := tblDel s.mem.l2 n, l2Poison := s.mem.l2Poison.filter (· != n),
        poison := if lineBad s n then insertNat n s.mem.poison else s.mem.poison.filter (· != n) } }
  else
    { s with mem := { s.mem with
        l2 := tblSet s.mem.l2 n ⟨l, true, sl, tag⟩,
        l2Poison := if lineBad s n then insertNat n s.mem.l2Poison else s.mem.l2Poison.filter (· != n) } }

/-- R319: a write-back error: the Foyer receives the launch tag of the line's last writer; a launch that is not live gets a
DATA_LOSS event. -/
def writeBackError (s : State) (pa tag : Nat) : State :=
  if s.pkg.foyer.launches.any fun l => l.tag == tag && l.state != .done && l.state != .failed then
    { s with pkg := { s.pkg with foyer := { s.pkg.foyer with losses := s.pkg.foyer.losses ++ [tag] } } }
  else postEvent s 2 (pa % 2 ^ 40) tag

/-- Every copy of a line is dropped, without writing it back, and with it an error in it. -/
def dropLine (s : State) (n : Nat) : State :=
  { s with mem := { s.mem with l2 := tblDel s.mem.l2 n, l2Poison := s.mem.l2Poison.filter (· != n) } }

/-- R289, R319: the DRAM of a line is marked poisoned, so that later reads take MEM_UE. -/
def poisonLine (s : State) (n : Nat) : State := { s with mem := { s.mem with poison := insertNat n s.mem.poison } }

/-- R289, R319: a dirty line that cannot be written back is lost: its DRAM is poisoned, the Usher has a report, and the error goes
to the launch of its last writer. -/
def loseLine (s : State) (n tag : Nat) : State :=
  addReport (writeBackError (poisonLine (dropLine s n) n) (paOf (64 * n)) tag) 289 (64 * n)

/-- R307: a dirty line is written back to HBM and stays, clean. A line with an uncorrectable error is lost (R289). -/
def writeBack (s : State) (n : Nat) : State :=
  match tblFind s.mem.l2 n with
  | none => s
  | some l =>
    if l.dirty && (lineBad s n || stackLost s n) then loseLine s n l.writer
    else if l.dirty then
      let m := setDramLine s.mem n (throughSeal s.pkg.sealKey l.isSealed false n l.data)
      { s with mem := { m with l2 := tblSet m.l2 n { l with dirty := false }, poison := m.poison.filter (· != n) } }
    else s

/-! ## Links and watches (R213-R215) -/

/-- R214: a write to a line breaks every link on it and fires every watch. -/
def breakLine (s : State) (k : LineKey) : State :=
  { s with mem := { s.mem with tags := s.mem.tags.filter fun t => t.line != k } }

/-- R214: the links and watches of a strand are broken. -/
def breakStrand (s : State) (id : Nat) : State :=
  { s with mem := { s.mem with tags := s.mem.tags.filter fun t => t.strand != some id } }

/-- Parity of the bits that two numbers share, over 40 bits. -/
def maskParity (a b : Nat) : Nat := ((List.range 40).filter fun i => bitsOf (a &&& b) i 1 == 1).length % 2

/-- R286: the slice of a PA. -/
def sliceOf (s : State) (pa : Nat) : Nat :=
  let d := dieOf s (pa / dieBytes)
  let inPart := fun p =>
    let h := listGet 0 d.hpart p
    fld h 63 1 == 1 && decide (fld h 22 18 ≤ pa / 2 ^ 22) && decide (pa / 2 ^ 22 < fld h 40 18)
  let p := ((List.range 4).find? inPart).getD 0
  (List.range 6).foldl (fun acc k => acc + maskParity pa (listGet 0 d.hmask (6 * p + k)).toNat * 2 ^ k) 0

/-! ## Coded regions (R296-R305) -/

/-- The registers of coded region `n`. -/
def regionOf (s : State) (n : Nat) : Region := tblGet Region.reset s.pkg.regions n

/-- The registers of coded region `n` replaced. -/
def setRegion (s : State) (n : Nat) (r : Region) : State :=
  { s with pkg := { s.pkg with regions := tblSet s.pkg.regions n r } }

/-- RRATE.V. -/
def regionOn (r : Region) : Bool := fld r.rrate 0 1 == 1

/-- RRATE.RATE. -/
def regionRate (r : Region) : Nat := fld r.rrate 1 3

/-- R298: the PA of block `j` of a region. -/
def blockPa (r : Region) (j : Nat) : Nat :=
  let n := blocksPerCarrier (regionRate r)
  r.rbase.toNat + 64 * (j / n) + codedRate (regionRate r) * (j % n)

/-- R297: the end of a region's carrier area at a given rate. -/
def carrierEnd (r : Region) (rate : Nat) : Nat :=
  let n := blocksPerCarrier rate
  r.rbase.toNat + 64 * ((r.rsize.toNat / 64 + n - 1) / n)

/-- The key of a coded line. -/
def codedKey (r j : Nat) : Nat := r * 2 ^ 34 + j

/-- R298, R302: the stored bits of a block, read through its carrier. -/
def blockBits (s : State) (r j : Nat) (sl : Bool) : Nat :=
  let g := regionOf s r
  let pa := blockPa g j
  lineBits (lineNow s (pa / 64) sl) (pa % 64) (codedRate (regionRate g))

/-- R289: the coded lines held with an uncorrectable error once block `j` of a region has been filled. -/
def fillPoison (s : State) (r j : Nat) : List Nat :=
  if lineBad s (blockPa (regionOf s r) j / 64) then insertNat (codedKey r j) s.mem.codedPoison else s.mem.codedPoison

/-- R302: a coded line is decoded at its home when it is filled. An invalid block is reported (R301). From a carrier with an
uncorrectable error it is filled with that error (R289). -/
def fillCoded (s : State) (r j : Nat) (sl : Bool) : State :=
  match tblFind s.mem.coded (codedKey r j) with
  | some _ => s
  | none =>
    match decodeBlock (regionRate (regionOf s r)) (blockBits s r j sl) with
    | (xs, bad) =>
      let t := { s with mem := { s.mem with
        coded := tblSet s.mem.coded (codedKey r j) ⟨lineOfDoubles xs, false, sl, 0⟩, codedPoison := fillPoison s r j } }
      if bad then addReport t 301 (blockPa (regionOf s r) j) else t

/-- R302: the decoded line of a block. -/
def codedLine (s : State) (r j : Nat) (sl : Bool) : Line :=
  match tblFind s.mem.coded (codedKey r j) with
  | some l => l.data
  | none => lineOfDoubles (decodeBlock (regionRate (regionOf s r)) (blockBits s r j sl)).1

/-- R305: the counters of a region after an encode whose error is `e`. -/
def countEncode (s : State) (r e : Nat) : State :=
  let g := regionOf s r
  let mx := if g.errmax.toNat < e then BitVec.ofNat 64 e else g.errmax
  let lim := fld g.errlim 0 63
  let crossed := decide (lim < mx.toNat) && decide (lim ≤ 0x7FF0000000000000) && fld g.errlim 63 1 == 0
  let t := setRegion s r
    { g with enccnt := g.enccnt + 1, errmax := mx, errlim := if crossed then setFld g.errlim 63 1 1 else g.errlim }
  if crossed then postEvent t 1 r 0 else t

/-- A coded line is dropped, with an error in it. -/
def dropCoded (s : State) (r j : Nat) : State :=
  { s with mem := { s.mem with coded := tblDel s.mem.coded (codedKey r j),
                               codedPoison := s.mem.codedPoison.filter (· != codedKey r j) } }

/-- R289: a coded line that must be filled from a carrier with an uncorrectable error, or that is held with one. -/
def codedBad (s : State) (r j : Nat) : Bool :=
  if (tblFind s.mem.coded (codedKey r j)).isSome then s.mem.codedPoison.contains (codedKey r j)
  else lineBad s (blockPa (regionOf s r) j / 64)

/-- R302, R305: the codec write of a dirty coded line: the line is encoded, its carrier rewritten, its values replaced by
what the block decodes to, and it is clean. It is a write to the carrier's line and to the coded line (R214). A line held with
an uncorrectable error is lost with its carrier (R289), and so is one whose carrier cannot be read or written (log entry 88). -/
def codecWrite (s : State) (r j : Nat) : State :=
  match tblFind s.mem.coded (codedKey r j) with
  | none => s
  | some l =>
    if l.dirty && (codedBad s r j || lineBad s (blockPa (regionOf s r) j / 64) || stackLost s (blockPa (regionOf s r) j / 64)) then
      loseLine (dropCoded s r j) (blockPa (regionOf s r) j / 64) l.writer
    else if l.dirty then
      let g := regionOf s r
      let rate := regionRate g
      let pa := blockPa g j
      let n := pa / 64
      let xs := lineDoubles l.data
      let b := encodeBlock rate xs
      let ys := (decodeBlock rate b).1
      let per := blocksPerCarrier rate
      let used := codedRate rate * per
      let c0 := lineNow s n l.isSealed
      let c1 := lineSet (lineSet c0 (pa % 64) (codedRate rate) b) used (64 - used) 0
      let raw := throughSeal s.pkg.sealKey l.isSealed false n c1
      let m := setDramLine s.mem n raw
      let m := { m with l2 := tblDel m.l2 n, l2Poison := m.l2Poison.filter (· != n) }
      let m := { m with coded := tblSet m.coded (codedKey r j) { l with data := lineOfDoubles ys, dirty := false } }
      breakLine (breakLine (countEncode { s with mem := m } r (encodeError xs ys)) (.phys n)) (.coded r j)
    else s

/-! ## Places: where an access goes after translation -/

/-- Where an access goes. -/
inductive Target where
  /-- R236: the Atrium of the issuing cluster. -/
  | atrium (off : Nat)
  /-- A line of device memory of some package, by the address in `Mem.dram`. -/
  | phys (key : Nat) (sl : Bool)
  /-- R298: a decoded offset of a coded region. -/
  | coded (region off : Nat) (sl : Bool)
  /-- R327: a host bus address. -/
  | host (addr : Nat)
  deriving DecidableEq, Repr

/-- The line of a target; the Atrium has none. -/
def targetLine : Target → Option LineKey
  | .atrium _ => none
  | .phys k _ => some (.phys (k / 64))
  | .coded r o _ => some (.coded r (o / 64))
  | .host a => some (.host (a / 64))

/-- A target with an uncorrectable error in the `n` bytes from it. -/
def targetBad (s : State) (cl : Nat) (t : Target) (n : Nat) : Bool :=
  match t with
  | .atrium o => (List.range ((o + n + 7) / 8 - o / 8)).any fun i => (clusterOf s cl).poison.contains (o / 8 + i)
  | .phys k _ => lineBad s (k / 64)
  | .coded r o _ => codedBad s r (o / 64)
  | .host _ => false

/-- `n` bytes at a target, within one line. -/
def targetRead (s : State) (cl : Nat) (t : Target) (n : Nat) : Nat :=
  match t with
  | .atrium o => cellsRead (clusterOf s cl).atrium o n
  | .phys k sl => lineBits (lineNow s (k / 64) sl) (k % 64) n
  | .coded r o sl => lineBits (codedLine s r (o / 64) sl) (o % 64) n
  | .host a => cellsRead s.mem.host a n

/-- R302: reading a coded target fills its line. -/
def targetFill (s : State) (t : Target) : State :=
  match t with
  | .coded r o sl => fillCoded s r (o / 64) sl
  | _ => s

/-- `n` bytes written at a target, within one line. The write breaks the line's links (R214); a coded line merges it
(R304). -/
def targetWrite (s : State) (cl tag : Nat) (t : Target) (n v : Nat) : State :=
  match t with
  | .atrium o =>
    let c := clusterOf s cl
    setCluster s cl { c with atrium := cellsWrite c.atrium o n v }
  | .phys k sl =>
    breakLine (storeLine s (k / 64) sl tag (lineSet (lineNow s (k / 64) sl) (k % 64) n v)) (.phys (k / 64))
  | .coded r o sl =>
    let u := fillCoded s r (o / 64) sl
    let l := lineSet (codedLine u r (o / 64) sl) (o % 64) n v
    breakLine { u with mem := { u.mem with coded := tblSet u.mem.coded (codedKey r (o / 64)) ⟨l, true, sl, tag⟩ } }
      (.coded r (o / 64))
  | .host a => hostWrite s a n v

/-- R304: a write of `n` bytes that would leave its 8-byte element of a coded line non-finite. -/
def nonfiniteWrite (s : State) (t : Target) (n v : Nat) : Bool :=
  match t with
  | .coded r o sl =>
    bitsOf (lineBits (lineSet (codedLine s r (o / 64) sl) (o % 64) n v) (o % 64 / 8 * 8) 8) 52 11 == 2047
  | _ => false

/-- The home slice of a line, as 256 x die + slice of its package, for tag capacity. -/
def homeSlice (s : State) (k : LineKey) : Nat :=
  match k with
  | .phys n => n / 2 ^ 34 * 2 ^ 12 + paOf (64 * n) / dieBytes * 256 + sliceOf s (paOf (64 * n))
  | .coded r j =>
    let pa := blockPa (regionOf s r) j
    pa / dieBytes * 256 + sliceOf s pa
  | .host _ => 2 ^ 40

/-- R215: entries that are not evicted while newer ones exist. -/
def tagProtected (t : TagEntry) : Bool := !t.watch && (t.lane.isNone || t.lowest)

/-- R215: a slice with 16,384 entries evicts its oldest entry that may be evicted. -/
def evictTag (s : State) (slice : Nat) : State :=
  let here := s.mem.tags.filter fun t => homeSlice s t.line == slice
  if here.length < 16384 then s
  else
    match (here.find? fun t => !tagProtected t).or here.head? with
    | none => s
    | some v => { s with mem := { s.mem with tags := s.mem.tags.erase v } }

/-- R213: a tag entry is placed at the home of its line; a newer link of the lane replaces the older one. -/
def placeTag (s : State) (t : TagEntry) : State :=
  let s0 := if t.watch then s
    else { s with mem := { s.mem with tags := s.mem.tags.filter fun u => u.watch || u.strand != t.strand || u.lane != t.lane } }
  let s1 := if t.line matches .host _ then s0 else evictTag s0 (homeSlice s0 t.line)
  { s1 with mem := { s1.mem with tags := s1.mem.tags ++ [t] } }

/-- R213: the link of a strand's lane, if it is unbroken. -/
def linkOf (s : State) (id : Nat) (lane : Option Nat) : Option TagEntry :=
  s.mem.tags.find? fun t => !t.watch && t.strand == some id && t.lane == lane

/-- R217: the link of a strand's lane is used up. -/
def consumeLink (s : State) (id : Nat) (lane : Option Nat) : State :=
  { s with mem := { s.mem with tags := s.mem.tags.filter fun t => t.watch || t.strand != some id || t.lane != lane } }

/-! ## Translation (R290-R294) -/

/-- Why a translation or access fails: the cause, and a report to be made once (R293). -/
structure XFault where
  cause : Nat
  report : Option Nat
  deriving DecidableEq, Repr

/-- A fault without a report. -/
def xfault (c : Nat) : XFault := ⟨c, none⟩

/-- The report that comes with a fault is made. -/
def noteFault (s : State) (f : XFault) : State :=
  match f.report with
  | none => s
  | some d => addReportOnce s 293 d

/-- R290: who makes an access. -/
structure Agent where
  ctx : Nat
  supervisor : Bool
  cluster : Nat
  /-- R319: the launch tag of the writer. -/
  tag : Nat
  /-- R295: the core whose TLB it uses; none for an agent that only has its cluster's walker. -/
  core : Option Nat
  deriving DecidableEq, Repr

/-- R85: bits [63:48] all equal bit 47. -/
def canonical (a : Word) : Bool := fld a 47 17 == 0 || fld a 47 17 == 2 ^ 17 - 1

/-- The 48-bit virtual address of a word. -/
def va48 (a : Word) : Nat := fld a 0 48

/-- R236: the Atrium window. -/
def inAtrium (a : Word) : Bool := decide (0x7FFFFF800000 ≤ a.toNat) && decide (a.toNat ≤ 0x7FFFFFFFFFFF)

/-- A page: what a leaf entry says (R292). -/
structure Page where
  kind : Nat
  /-- FRAME x 2^16 plus the offset in the page. -/
  addr : Nat
  region : Option Nat
  isSealed : Bool
  near : Bool
  x : Bool
  ro : Bool
  u : Bool
  deriving DecidableEq, Repr

/-- R297: the carrier area of a valid region meets a range. -/
def inCarrier (s : State) (lo hi : Nat) : Bool :=
  s.pkg.regions.any fun p => regionOn p.2 && decide (p.2.rbase.toNat < hi) && decide (lo < carrierEnd p.2 (regionRate p.2))

/-- R291: the bytes of a table of a level. -/
def tableBytes (level : Nat) : Nat := if level = 0 then 256 else 4096

/-- R293: a valid non-leaf entry at a level is malformed. -/
def badTableEntry (s : State) (level : Nat) (e : Word) : Bool :=
  let next := fld e 8 32 * 256
  level == 0 || fld e 61 2 != 0 || fld e 52 9 != 0 || fld e 0 8 != 0 || fld e 40 12 != 0 ||
    next % tableBytes (level - 1) != 0 || inCarrier s next (next + tableBytes (level - 1))

/-- R293: a valid leaf entry at a level is malformed. -/
def badLeaf (level : Nat) (e : Word) : Bool :=
  let kind := fld e 61 2
  let coded := fld e 53 1 == 1
  level == 3 || kind == 3 || fld e 8 8 != 0 || fld e 0 4 != 0 ||
    (!coded && fld e 54 6 != 0) ||
    (level == 2 && fld e 16 14 != 0) || (level == 1 && fld e 16 5 != 0) ||
    (kind == 0 && !coded && decide (memTop ≤ fld e 16 36 * 2 ^ 16)) ||
    (coded && (kind != 0 || fld e 7 1 == 1)) ||
    (kind == 1 && decide (memTop ≤ fld e 16 24 * 2 ^ 16))

/-- The bits of the offset within a page of a level's leaf. -/
def pageBits (level : Nat) : Nat := if level = 0 then 16 else if level = 1 then 21 else 30

/-- R291: the index of a virtual address at a level. -/
def walkIndex (level va : Nat) : Nat :=
  match level with
  | 0 => bitsOf va 16 5
  | 1 => bitsOf va 21 9
  | 2 => bitsOf va 30 9
  | _ => bitsOf va 39 9

/-- The page that a leaf maps a virtual address to. -/
def pageOf (level : Nat) (e : Word) (va : Nat) : Page where
  kind := fld e 61 2
  addr := fld e 16 36 * 2 ^ 16 + va % 2 ^ pageBits level
  region := if fld e 53 1 = 1 then some (fld e 54 6) else none
  isSealed := fld e 52 1 == 1
  near := fld e 7 1 == 1
  x := fld e 6 1 == 1
  ro := fld e 5 1 == 1
  u := fld e 4 1 == 1

/-- R291: the walk from a table of level `level`; `fuel` is level + 1. -/
def walk (s : State) (va : Nat) : Nat → Nat → Except XFault Page
  | 0, _ => .error (xfault cPAGE_FAULT)
  | level + 1, table =>
    let at' := table + 8 * walkIndex level va
    if memTop ≤ at' then .error (xfault cPAGE_FAULT)
    else if lineBad s (at' / 64) then .error (xfault cMEM_UE)
    else
      let e : Word := BitVec.ofNat 64 (lineBits (lineNow s (at' / 64) false) (at' % 64) 8)
      if fld e 63 1 = 0 then .error (xfault cPAGE_FAULT)
      else if fld e 60 1 = 1 then
        if badLeaf level e then .error ⟨cPAGE_FAULT, some at'⟩ else .ok (pageOf level e va)
      else if badTableEntry s level e then .error ⟨cPAGE_FAULT, some at'⟩
      else walk s va level (fld e 8 32 * 256)

/-- R290, R291, R293: the page of a canonical virtual address in a context, from the tables in memory. -/
def tableWalk (s : State) (ctx va : Nat) : Except XFault Page :=
  let root := tblGet 0 s.pkg.ptrootNow ctx
  let base := fld root 12 28 * 4096
  if fld root 0 1 = 0 then .error (xfault cPAGE_FAULT)
  else if inCarrier s base (base + 4096) then .error ⟨cPAGE_FAULT, some (2 ^ 48 + ctx)⟩
  else walk s va 4 base

/-- R291: the address bits that lead to an entry of a table of a level. -/
def pathOf (level va : Nat) : Nat := va / 2 ^ (if level = 3 then 39 else pageBits level)

/-- R295: the TLBs and walkers that an agent's accesses go through. -/
def unitsOf (ag : Agent) : List Nat := ag.core.toList ++ [512 + ag.cluster]

/-- R295: the entry of a level that one of some TLBs and walkers caches for an address. -/
def cachedAt (s : State) (units : List Nat) (ctx va level : Nat) : Option Word :=
  (s.mem.tlb.find? fun e =>
    units.contains e.unit && e.ctx == ctx && e.level == level && e.path == pathOf level va).map (·.entry)

/-- R295: the cached entry nearest to the page, with its level. -/
def cachedEntry (s : State) (units : List Nat) (ctx va : Nat) : Option (Nat × Word) :=
  (List.range 4).findSome? fun l => (cachedAt s units ctx va l).map fun e => (l, e)

/-- R290, R291, R295: the page of a canonical virtual address in a context that translates: a walk goes on from the nearest entry
that is cached (log entry 16). -/
def pageWalk (s : State) (units : List Nat) (ctx va : Nat) : Except XFault Page :=
  match cachedEntry s units ctx va with
  | none => tableWalk s ctx va
  | some (level, e) =>
    if fld (tblGet 0 s.pkg.ptrootNow ctx) 0 1 = 0 then .error (xfault cPAGE_FAULT)
    else if fld e 60 1 = 1 then .ok (pageOf level e va)
    else walk s va level (fld e 8 32 * 256)

/-- R291: the entries that a walk reads from a table of a level down, with their levels; `fuel` is level + 1. -/
def walkEntries (s : State) (va : Nat) : Nat → Nat → List (Nat × Word)
  | 0, _ => []
  | level + 1, table =>
    let at' := table + 8 * walkIndex level va
    let e : Word := BitVec.ofNat 64 (lineBits (lineNow s (at' / 64) false) (at' % 64) 8)
    (level, e) :: if fld e 60 1 = 1 then [] else walkEntries s va level (fld e 8 32 * 256)

/-- R295: the entries that lead to the page of an address, as some TLBs and walkers see them. -/
def pathEntries (s : State) (units : List Nat) (ctx va : Nat) : List (Nat × Word) :=
  match cachedEntry s units ctx va with
  | none => walkEntries s va 4 (fld (tblGet 0 s.pkg.ptrootNow ctx) 12 28 * 4096)
  | some (level, e) => (level, e) :: if fld e 60 1 = 1 then [] else walkEntries s va level (fld e 8 32 * 256)

/-- R295: a core's TLB (`unit` below 512) or a cluster's walker (512 + cluster) caches the entry of a level that leads to the page
of an address. A walk that ends in a fault caches nothing. -/
def tlbFills (s : State) (unit ctx va level : Nat) : State :=
  let units := if unit < 512 then [unit, 512 + unit / 8] else [unit]
  match pageWalk s units ctx va, (pathEntries s units ctx va).find? fun p => p.1 == level with
  | .ok _, some (_, e) =>
    let new : TlbEntry := ⟨unit, ctx, level, pathOf level va, e⟩
    let same := fun (x : TlbEntry) => x.unit == unit && x.ctx == ctx && x.level == level && x.path == new.path
    { s with mem := { s.mem with tlb := new :: s.mem.tlb.filter fun x => !same x } }
  | _, _ => s

/-- R295: a TLB or walker gives up the `i`th cached entry. -/
def tlbDrops (s : State) (i : Nat) : State := { s with mem := { s.mem with tlb := s.mem.tlb.eraseIdx i } }

/-- R294, R318, R345: an access of a page on which it is not permitted, read and write alike. -/
def pageForbidden (s : State) (p : Page) : Bool :=
  match p.region with
  | some r =>
    let g := regionOf s r
    s.pkg.bringUp || !regionOn g || decide (g.rsize.toNat ≤ p.addr) || reservedPa (blockPa g (p.addr / 64))
  | none => p.kind != 2 && reservedPa (p.addr % 2 ^ 40)

/-- The target of an address of a page. -/
def pageTarget (s : State) (p : Page) : Target :=
  match p.region with
  | some r => .coded r p.addr p.isSealed
  | none =>
    match p.kind with
    | 0 => .phys p.addr p.isSealed
    | 1 => .phys (memKey s (p.addr / 2 ^ 40) (p.addr % 2 ^ 40)) p.isSealed
    | _ => .host p.addr

/-- R294: a data access is translated and checked; the Atrium window is not translated (R236). -/
def translate (s : State) (ag : Agent) (write : Bool) (a : Word) : Except XFault Target :=
  if inAtrium a then .ok (.atrium (a.toNat - 0x7FFFFF800000))
  else if !canonical a then .error (xfault cPAGE_FAULT)
  else
    match pageWalk s (unitsOf ag) ag.ctx (va48 a) with
    | .error f => .error f
    | .ok p =>
      if (!p.u && !ag.supervisor) || (write && p.ro) || pageForbidden s p then .error (xfault cACCESS)
      else .ok (pageTarget s p)

/-- R236, R294: an instruction fetch is translated and checked. -/
def translateFetch (s : State) (ag : Agent) (a : Word) : Except XFault Target :=
  if inAtrium a then .error (xfault cACCESS)
  else if !canonical a then .error (xfault cPAGE_FAULT)
  else
    match pageWalk s (unitsOf ag) ag.ctx (va48 a) with
    | .error f => .error f
    | .ok p =>
      if (!p.u && !ag.supervisor) || pageForbidden s p || !p.x || p.kind != 0 || p.region.isSome then
        .error (xfault cACCESS)
      else .ok (pageTarget s p)

/-- R73: a supervisor read of a pool bitmap: U, RO, X and NEAR are ignored, and the page must be LOCAL and not CODED. -/
def translateBitmap (s : State) (ctx : Nat) (a : Word) : Except XFault Target :=
  if inAtrium a || !canonical a then .error (xfault cPAGE_FAULT)
  else
    match tableWalk s ctx (va48 a) with
    | .error f => .error f
    | .ok p =>
      if pageForbidden s p || p.kind != 0 || p.region.isSome then .error (xfault cACCESS) else .ok (pageTarget s p)

/-- R122, R232, R235: an access that must reach a page that is LOCAL and not CODED. -/
def translateLocal (s : State) (ag : Agent) (write : Bool) (a : Word) : Except XFault Target :=
  match translate s ag write a with
  | .error f => .error f
  | .ok t =>
    match t, pageWalk s (unitsOf ag) ag.ctx (va48 a) with
    | .phys _ _, .ok p => if p.kind = 0 then .ok t else .error (xfault cACCESS)
    | _, _ => .error (xfault cACCESS)

/-! ## Physical accesses of the device's own agents -/

/-- `n` bytes at an address of `Mem.dram`, coherently, within one line. -/
def physRead (s : State) (k n : Nat) : Nat := lineBits (lineNow s (k / 64) false) (k % 64) n

/-- `n` bytes written at an address of `Mem.dram`, coherently, within one line. -/
def physWrite (s : State) (k n v : Nat) : State := targetWrite s 0 0 (.phys k false) n v

end Sys2Proof.Machine
end

