-- ==== Sys2Proof/Machine/NumLog.lean ====
section
/-!
DEFINITION. The published table of R31, entry into L-internal form (R30), contributions (R32), and VLOG2 and VEXP2
(R144), whose exact results are irrational: they are enclosed between two numbers until their digits agree.
-/

namespace Sys2Proof.Machine

/-- R31: T[i] = RNE(2^24 x 2^(i / 4096)), the largest n with n - 1/2 at most 2^(24 + i / 4096). -/
def logTable (i : Nat) : Nat :=
  let n := rootBits 4096 (2 ^ (25 * 4096 + i)) 26 0
  (n + 1) / 2

/-- R32: the contribution of two operands in units of 2^q, for logs in units of 2^-12. -/
def contribution (a b : LVal) (q : Int) : Int :=
  if a.zero || b.zero then 0
  else
    let p := a.log + b.log
    let i := p / 4096
    let f := (p % 4096).toNat
    let c : Int := (rneShift (logTable f) (24 + q - i) : Nat)
    if a.sign != b.sign then -c else c

/-- R30: zero in L-internal form. -/
def LVal.none : LVal := ⟨false, true, 0⟩

/-- R30: the product of an element's own value and its scale enters L-internal form. A NaN or infinity, be it in the
scale, makes the operand zero and sets MXINV. -/
def toLInternal (own scale : Val) : Fl LVal :=
  let entered (neg : Bool) (l : Int) : Fl LVal :=
    (⟨neg, false, clampInt l (-524288) 524287⟩, flagIf (l < -524288 || 524287 < l) flagLSAT)
  match own, scale with
  | .pow n l, .num k p f =>
    if p = 0 then (LVal.none, 0) else entered (n != k) (16 * l + logRound 4096 p f)
  | .num n m e, .num k p f =>
    if m * p = 0 then (LVal.none, 0) else entered (n != k) (logRound 4096 (m * p) (e + f))
  | _, _ => (LVal.none, flagMXINV)

/-! ## Logarithms and powers of R144 -/

/-- The next `n` bits after the point of log2 of a number of [1, 2) known to lie in [lo, hi] / 2^q. None when the bounds
do not decide a bit. -/
def logBits (q : Nat) : Nat → Nat → Nat → Nat → Option Nat
  | 0, _, _, acc => some acc
  | n + 1, lo, hi, acc =>
    let l := lo * lo / 2 ^ q
    let h := hi * hi / 2 ^ q + 1
    if 2 ^ (q + 1) ≤ l then logBits q n (l / 2) (h / 2 + 1) (2 * acc + 1)
    else if h < 2 ^ (q + 1) then logBits q n l h (2 * acc)
    else none

/-- floor(2^128 x log2 x) for x = m / 2^(log2 m), with working precision doubled until it is decided. -/
def logFrac (m : Nat) : Nat → Nat → Nat
  | 0, _ => 0
  | fuel + 1, q =>
    let x := m * 2 ^ q / 2 ^ Nat.log2 m
    match logBits q 128 x (x + 1) 0 with
    | some r => r
    | none => logFrac m fuel (2 * q)

/-- R144: log2 of a value. -/
def log2Val (a : Val) : Fl Val :=
  match a with
  | .nan s => (.nan false, snanFlag [.nan s])
  | .inf n => if n then invalid else (.inf false, 0)
  | .num n m e =>
    if m = 0 then (.inf true, flagDZ)
    else if n then invalid
    else
      let ex := leadExp m e
      if isPow2 m then (intVal ex, 0)
      else
        let t : Int := ex * 2 ^ 128 + (logFrac m 6 512 : Nat)
        if t < 0 then (.num true (2 * (t.natAbs - 1) + 1) (-129), 0) else (.num false (2 * t.natAbs + 1) (-129), 0)
  | .pow n l => if n then invalid else (.num (l < 0) l.natAbs (-8), 0)

/-- Bounds of 2^(f / 2^k) in units of 2^-q: the product of 2^(2^-j) over the one bits of f, highest first. -/
def expBounds (q : Nat) : Nat → Nat → Nat → Nat → Nat → Nat → Nat × Nat
  | 0, _, _, _, lo, hi => (lo, hi)
  | k + 1, f, sl, sh, lo, hi =>
    let rl := sqrtBits (q + 1) (sl * 2 ^ q)
    let rh := sqrtBits (q + 1) (sh * 2 ^ q) + 1
    if f / 2 ^ k % 2 = 1 then expBounds q k f rl rh (lo * rl / 2 ^ q) (hi * rh / 2 ^ q + 1)
    else expBounds q k f rl rh lo hi

/-- floor(2^66 x 2^(f / 2^k)), with working precision doubled until it is decided. -/
def expFrac (f k : Nat) : Nat → Nat → Nat
  | 0, _ => 2 ^ 66
  | fuel + 1, q =>
    match expBounds q k f (2 ^ (q + 1)) (2 ^ (q + 1)) (2 ^ q) (2 ^ q) with
    | (lo, hi) => if lo / 2 ^ (q - 66) = hi / 2 ^ (q - 66) then lo / 2 ^ (q - 66) else expFrac f k fuel (2 * q)

/-- R144: 2 to the power of a value. Beyond 2^16 every format overflows or underflows alike, and below 2^-64 every
format rounds as the neighbours of 1 do. -/
def exp2Val (a : Val) : Fl Val :=
  match linearize a with
  | .nan s => (.nan false, snanFlag [.nan s])
  | .inf n => (if n then .num false 0 0 else .inf false, 0)
  | .num n m e =>
    if m = 0 then (.num false 1 0, 0)
    else if 16 < leadExp m e then (.num false 1 (if n then -65536 else 65536), 0)
    else if leadExp m e < -64 then ((if n then .num false (2 ^ 130 - 1) (-130) else .num false (2 ^ 130 + 1) (-130)), 0)
    else if 0 ≤ e then
      let i : Int := (m * 2 ^ e.toNat : Nat)
      (.num false 1 (if n then -i else i), 0)
    else
      let k := (-e).toNat
      let x : Int := if n then -(m : Int) else m
      let i := x / 2 ^ k
      let f := (x % 2 ^ k).toNat
      if f = 0 then (.num false 1 i, 0)
      else (.num false (2 * expFrac f k 6 256 + 1) (i - 67), 0)
  | .pow _ _ => invalid

def fpLog2 (f : FFmt) (a : Nat) : Fl Nat := arith f (log2Val (readFloat f a))
def fpExp2 (f : FFmt) (a : Nat) : Fl Nat := arith f (exp2Val (readFloat f a))

end Sys2Proof.Machine
end

