-- ==== Sys2Proof/Machine/Ops.lean ====
section
/-!
DEFINITION. The named operations over a strand: registers, fields of its status, waiting, taking a trap and returning from
one (R79-R81, R101, R102, R229), and its accesses to memory (R86, R224, R358).
-/

namespace Sys2Proof.Machine

/-! ## The strand -/

/-- A change to a strand slot. -/
def modStrand (s : State) (id : Nat) (f : Strand → Strand) : State := setStrand s id (f (strandOf s id))

/-- A change to the vector side of a strand. -/
def modArc (s : State) (id : Nat) (f : Arcade → Arcade) : State := modStrand s id fun t => { t with arc := f t.arc }

/-- R42: a scalar register; s0 reads zero. -/
def getReg (t : Strand) (r : BitVec 5) : Word := if r = 0 then 0 else t.regs[r.toNat]

/-- R42: a scalar register written; a write to s0 is discarded. -/
def putReg (t : Strand) (r : BitVec 5) (v : Word) : Strand :=
  if r = 0 then t else { t with regs := t.regs.set r.toNat v }

/-- A scalar register of a strand. -/
def reg (s : State) (id : Nat) (r : BitVec 5) : Word := getReg (strandOf s id) r

/-- A scalar register of a strand written. -/
def setReg (s : State) (id : Nat) (r : BitVec 5) (v : Word) : State := modStrand s id (putReg · r v)

/-- R33: flags are ORed into SFLAGS. -/
def raise (s : State) (id : Nat) (f : Word) : State := modStrand s id fun t => { t with sflags := t.sflags ||| f }

/-- The core of a strand. -/
def coreIdx (id : Nat) : Nat := id / 4
/-- The slot of a strand in its core. -/
def slotIdx (id : Nat) : Nat := id % 4
/-- The cluster of a strand. -/
def clusterIdx (id : Nat) : Nat := id / 32
/-- The die of a strand. -/
def dieIdx (id : Nat) : Nat := id / 512

/-! ## STATUS (R80) -/

/-- STATUS.LANDING, which is the translation context (R290). -/
def stLanding (t : Strand) : Nat := fld t.status 16 5
/-- STATUS.NEST. -/
def stNest (t : Strand) : Bool := fld t.status 3 1 == 1
/-- STATUS.NOBAYS. -/
def stNoBays (t : Strand) : Bool := fld t.status 2 1 == 1
/-- STATUS.PP. -/
def stPP (t : Strand) : Nat := fld t.status 1 1
/-- STATUS.PRIV = S. -/
def stSuper (t : Strand) : Bool := fld t.status 0 1 == 1
/-- STATUS.PTRAP. -/
def stPtrap (t : Strand) : Bool := fld t.status 5 1 == 1

/-- The strand as an agent that makes accesses. -/
def agentOf (s : State) (id : Nat) : Agent :=
  let t := strandOf s id
  ⟨stLanding t, stSuper t, clusterIdx id, t.tag, some (coreIdx id)⟩

/-! ## Landing descriptors (R261, R262) -/

/-- R261: doubleword `k` of the cached descriptor of a landing. -/
def descWord (d : Die) (l k : Nat) : Word := tblGet 0 d.descs (8 * l + k)

/-- R262: a descriptor with EN = 1 that is invalid. -/
def descBad (d : Die) (l : Nat) : Bool :=
  let a := descWord d l 0
  let b := descWord d l 1
  let wdog := fld a 54 6
  let slice := fld a 48 6
  fld a 63 1 == 1 &&
    (fld a 0 2 != 0 || fld b 12 4 != 0 || fld (descWord d l 2) 48 16 != 0 || fld (descWord d l 2) 0 6 != 0 ||
      fld (descWord d l 3) 32 32 != 0 || (List.range 4).any (fun k => descWord d l (4 + k) != 0) ||
      fld b 48 16 == 0 || (decide (1 ≤ wdog) && decide (wdog ≤ 9)) || decide (40 < wdog) ||
      (decide (1 ≤ slice) && decide (slice ≤ 15)) || decide (40 < slice))

/-- R262: the landing accepts and pops records. -/
def landingOn (d : Die) (l : Nat) : Bool := fld (descWord d l 0) 63 1 == 1 && !descBad d l
/-- DRAIN. -/
def landingDrains (d : Die) (l : Nat) : Bool := fld (descWord d l 0) 62 1 == 1
/-- R277: the strand belongs to a landing that drains, has a Vault, and is not in HANDLER with NEST = 1. -/
def mustDrain (s : State) (id : Nat) : Bool :=
  let t := strandOf s id
  let d := dieOf s (dieIdx id)
  landingOn d (stLanding t) && landingDrains d (stLanding t) && fld t.vault 0 1 == 1 && !stNest t

/-! ## Instruction words (R37), as TVAL and held entries record them -/

def wordR (maj : BitVec 6) (a b c : BitVec 5) (fn : BitVec 11) : BitVec 32 := maj ++ a ++ b ++ c ++ fn
def wordS (maj : BitVec 6) (a b fn5 : BitVec 5) (k : BitVec 11) : BitVec 32 := maj ++ a ++ b ++ fn5 ++ k
def wordV (maj : BitVec 6) (vd vs1 vs2 : BitVec 5) (msk : BitVec 2) (mp : BitVec 1) (fn : BitVec 8) : BitVec 32 :=
  maj ++ vd ++ vs1 ++ vs2 ++ msk ++ mp ++ fn
def wordM (maj : BitVec 6) (vd vs1 vs2 : BitVec 5) (msk : BitVec 2) (mp g : BitVec 1) (mode : BitVec 3)
    (fn4 : BitVec 4) : BitVec 32 :=
  maj ++ vd ++ vs1 ++ vs2 ++ msk ++ mp ++ g ++ mode ++ fn4
def wordX (maj : BitVec 6) (a b : BitVec 5) (coord : BitVec 9) (fn7 : BitVec 7) : BitVec 32 :=
  maj ++ a ++ b ++ coord ++ fn7

/-! ## Going on, waiting -/

/-- The address of the next word. -/
def nextPc (t : Strand) : BitVec 48 := t.pc + 4

/-- R36: a control-side instruction has completed; the program counter moves on. -/
def finish (s : State) (id : Nat) : State :=
  modStrand s id fun t => { t with pc := nextPc t, blocked := none, hostAnswer := none }

/-- A control-side instruction has completed and goes on at an address. -/
def finishAt (s : State) (id : Nat) (pc : BitVec 48) : State :=
  modStrand s id fun t => { t with pc := pc, blocked := none, hostAnswer := none }

/-- R228, R229: an array-side instruction has completed; LANE returns to 0, and an entry leaves the queue. One that was in no queue
was dispatched here, so that the next is no strip head (R274). -/
def finishV (s : State) (id : Nat) : State :=
  modStrand s id fun t =>
    match t.arc.viq with
    | [] => { t with pc := nextPc t, blocked := none, hostAnswer := none, stripHead := false,
                     arc := { t.arc with lane := 0, part := none } }
    | _ :: r => { t with blocked := none, hostAnswer := none, arc := { t.arc with lane := 0, part := none, viq := r } }

/-- The instruction has not completed: it waits at issue and tests its condition again. -/
def blockOn (s : State) (id : Nat) (b : Block) : State := modStrand s id fun t => { t with blocked := some b }

/-- R79: the instruction has not completed, and the strand parks. -/
def parkOn (s : State) (id : Nat) (b : Block) : State :=
  modStrand s id fun t => { t with slot := .park, blocked := some b }

/-- The result of a control-side instruction is written and it completes. -/
def finishReg (s : State) (id : Nat) (r : BitVec 5) (v : Word) : State := finish (setReg s id r v) id

/-- The same with flags to raise. -/
def finishFl (s : State) (id : Nat) (r : BitVec 5) (v : Fl Word) : State := finishReg (raise s id v.2) id r v.1

/-! ## Traps (R101, R102) -/

/-- R102: a trap with NEST = 1 is a strand failure: its cause is recorded and the strand ends as an END in HANDLER. -/
def strandFailure (s : State) (id cause : Nat) : State :=
  modStrand s id fun t =>
    { t with cause := BitVec.ofNat 64 cause, slot := .drain, blocked := none, hostAnswer := none,
             arc := { t.arc with viq := [], waits := none, results := [] } }

/-- R101: STATUS on trap entry: PP := PRIV, PRIV := S, NEST := 1. -/
def trapStatus (st : Word) : Word := setFld (setFld (setFld st 1 1 (fld st 0 1)) 0 1 1) 3 1 1

/-- R101: a trap is taken: the cause, the resumption address and the value are saved, the strand enters the supervisor
at TVEC. With NEST = 1 it is a strand failure. -/
def takeTrap (s : State) (id cause : Nat) (tval : Word) (epc : Word) : State :=
  if stNest (strandOf s id) then strandFailure s id cause
  else
    modStrand s id fun t =>
      { t with slot := .run, blocked := none, hostAnswer := none,
               cause := BitVec.ofNat 64 cause, epc := epc, tval := tval, status := trapStatus t.status,
               pc := BitVec.ofNat 48 t.tvec.toNat }

/-- The program counter as EPC holds it. -/
def pcWord (t : Strand) : Word := t.pc.zeroExtend 64

/-- R100: a precise trap at the instruction. -/
def trapHere (s : State) (id cause : Nat) (tval : Word) : State := takeTrap s id cause tval (pcWord (strandOf s id))

/-- R39: ILLEGAL; TVAL holds the word. -/
def trapIllegal (s : State) (id : Nat) (w : BitVec 32) : State := trapHere s id cILLEGAL (w.zeroExtend 64)

/-- R100: a cause whose TVAL is the word. -/
def trapWord (s : State) (id cause : Nat) (w : BitVec 32) : State := trapHere s id cause (w.zeroExtend 64)

/-- R101: STATUS on return: PRIV := PP, NEST := 0. -/
def returnStatus (st : Word) : Word := setFld (setFld st 0 1 (fld st 1 1)) 3 1 0

/-- R229: VRESUME.HELD. -/
def heldOn (t : Strand) : Bool := !t.arc.held.isEmpty

/-- R101, R229: return from a trap. With HELD = 1 the held entries are redispatched and issue resumes at P. -/
def returnFromTrap (t : Strand) : Strand :=
  if heldOn t then
    { t with status := returnStatus t.status, pc := t.arc.heldPoint, blocked := none,
             arc := { t.arc with viq := t.arc.held, held := [], heldPoint := 0 } }
  else { t with status := returnStatus t.status, pc := BitVec.ofNat 48 t.epc.toNat, blocked := none }

/-! ## Traps on the array side (R228, R229) -/

/-- A vector instruction at work: its word, and the scalar operands read at its dispatch (R132, R229). -/
structure Vop where
  word : BitVec 32
  op1 : Word
  op2 : Word
  deriving DecidableEq, Repr

/-- R201: the control side issues behind an entry that has not completed. -/
def behind (t : Strand) : Bool := t.arc.waits.isSome

/-- R101: what a control-side instruction has made of a strand is a trap, to which it must not come while older entries of the VIQ have not
completed. -/
def trapsEarly (old new : Strand) : Bool := behind old && (new.slot == .drain || (stNest new && !stNest old))

/-- R101: the instruction of a strand that waits at issue is tried again outside the strand's turn; one that traps behind older entries
waits on. -/
def retryIssue (s : State) (id : Nat) (run : State → State) : State :=
  let u := run { s with cur := id }
  if trapsEarly (strandOf s id) (strandOf u id) then s else { u with cur := s.cur }

/-- R132: the operands of an array-side instruction: those of its entry in the VIQ, or the registers at its dispatch. -/
def vop (s : State) (id : Nat) (w : BitVec 32) (r1 r2 : BitVec 5) : Vop :=
  match (strandOf s id).arc.waits, (strandOf s id).arc.viq with
  | none, h :: _ => ⟨w, h.op1, h.op2⟩
  | _, _ => ⟨w, reg s id r1, reg s id r2⟩

/-- R132, R201, R274: the entry of an instruction that the control side dispatches, marked if it is a strip head. -/
def entryOf (t : Strand) (o : Vop) : Held := ⟨o.word, t.pc, o.op1, o.op2, t.stripHead⟩

/-- R201: an instruction is dispatched into the VIQ, where it waits as `w` says, and the control side goes on. -/
def enterQueue (t : Strand) (o : Vop) (w : Option ArrayWait) : Strand :=
  { t with pc := nextPc t, blocked := none, hostAnswer := none, stripHead := false, atStrip := false,
           arc := { t.arc with viq := t.arc.viq ++ [entryOf t o], waits := w } }

/-- R201: an array-side instruction that cannot complete yet waits at the head of the VIQ. -/
def awaitArray (s : State) (id : Nat) (o : Vop) (w : ArrayWait) : State :=
  modStrand s id fun t =>
    match t.arc.viq with
    | [] => enterQueue t o (some w)
    | _ :: _ => { t with blocked := none, arc := { t.arc with waits := some w } }

/-- R201, R204: an instruction is dispatched behind entries that have not completed; a full VIQ stalls issue. -/
def dispatchBehind (s : State) (id : Nat) (o : Vop) : State :=
  if 32 ≤ (strandOf s id).arc.viq.length then blockOn s id .viq
  else modStrand s id fun t => enterQueue t o t.arc.waits

/-- R258: the strands whose requests for a message wait at an output port, oldest first. -/
def portQueue (s : State) (core p : Nat) : List Nat := listGet [] (coreOf s core).portRequests p

/-- The requests at an output port replaced. -/
def setPortQueue (s : State) (core p : Nat) (q : List Nat) : State :=
  let k := coreOf s core
  setCore s core { k with portRequests := listSet [] k.portRequests p q }

/-- R255: CHAINSRC.SRC. -/
def chainCore (a : Arcade) : Nat := fld a.chainsrc 0 9
/-- R255: CHAINSRC.PORT. -/
def chainPort (a : Arcade) : Nat := fld a.chainsrc 9 1

/-- R258: the strand's request for a message is withdrawn. -/
def withdrawRequest (s : State) (id : Nat) : State :=
  let a := (strandOf s id).arc
  let q := portQueue s (chainCore a) (chainPort a)
  if q.contains id then setPortQueue s (chainCore a) (chainPort a) (q.filter (· != id)) else s

/-- R258, R259: a message that the strand has received and not consumed goes back to the head of its port. -/
def returnMessage (s : State) (id : Nat) : State :=
  match (strandOf s id).arc.chainIn with
  | none => s
  | some (c, p, m) =>
    let k := coreOf s c
    modArc (setCore s c { k with ports := listSet [] k.ports p (m :: listGet [] k.ports p) }) id fun a => { a with chainIn := none }

/-- R229, R274: the entry under execution with its younger entries. -/
def vEntries (t : Strand) (o : Vop) : List Held :=
  match t.arc.viq with
  | h :: r => ⟨o.word, h.pc, o.op1, o.op2, h.head⟩ :: r
  | [] => [entryOf t o]

/-- R229: a trap raised on the array side: the instruction and every younger entry are held, issue resumes at P, and the
handler is entered with EPC at the instruction and LANE at the element. With LANE 0 nothing has been done, and a message is not
consumed (R259). -/
def trapArray (s0 : State) (id : Nat) (o : Vop) (cause : Nat) (tval : Word) (lane : Nat) : State :=
  let s := withdrawRequest (if lane = 0 then returnMessage s0 id else s0) id
  let t := strandOf s id
  if stNest t then strandFailure s id cause
  else
    let es := vEntries t o
    let p := if t.arc.viq.isEmpty then nextPc t else t.pc
    let x := (es.head?.map (·.pc)).getD t.pc
    let u := modStrand s id fun y => { y with stripHead := y.stripHead && !y.arc.viq.isEmpty }
    takeTrap (modArc u id fun a =>
      { a with lane := lane, part := none, held := es, heldPoint := p, viq := [], waits := none }) id cause tval (x.zeroExtend 64)

/-! ## Accesses of a strand -/

/-- What an access gives. -/
inductive Acc (α : Type) where
  | ok (v : α) (s : State)
  | fault (cause : Nat) (s : State)
  | wait (b : Block) (s : State)
  deriving DecidableEq, Repr

/-- R358: the die that a target is homed on, as 4 x package + die; the Atrium and the host have none. -/
def homeDie (s : State) : Target → Option Nat
  | .atrium _ => none
  | .phys k _ => some (4 * pkgOf s k + paOf k / dieBytes)
  | .coded r o _ => some (4 * pkgNumber s + blockPa (regionOf s r) (o / 64) / dieBytes)
  | .host _ => none

/-- R351: the sequencing source of a strand's stream. -/
def sidOf (id stream : Nat) : Nat := coreIdx id * 32 + slotIdx id * 8 + stream

/-- R351: the sequencing source of a hub-die agent: 0 the Foyer, 1 the collective engine, 2 the host atomic helper. -/
def hubSid (agent : Nat) : Nat := agent * 32 + 7

/-- R248: the copy commands of an issuer that have not ended or that are halted, on any engine of a cluster. -/
def issuedCmds (s : State) (cl issuer : Nat) : List CopyCmd :=
  ((clusterOf s cl).engines.flatten).filter fun c => c.issuer == issuer

/-- R243: the copy commands of an issuer that have not ended; a halted one has (log entry 45). -/
def liveCmds (s : State) (cl issuer : Nat) : List CopyCmd := (issuedCmds s cl issuer).filter fun c => c.state != .halted

/-- R205, R210, R230: the stream of an entry's accesses: VA or VB by G, MX; none for an entry without accesses. -/
def entryStream (w : BitVec 32) : Option Nat :=
  let m := w.toNat / 2 ^ 26
  let fn := w.toNat % 256
  if m = 0x2B ∨ m = 0x2C ∨ m = 0x2D then some (1 + fn / 128)
  else if m = 0x2E ∧ fn = 4 then some 1
  else if m = 0x30 ∧ (fn = 1 ∨ fn = 3 ∨ fn = 5) then some 4
  else none

/-- R210, R359: accesses of the set E of an SBAR are not performed yet: those of entries of the VIQ, copies that have not ended, and
packets, those of these copies among them, that are not acknowledged. -/
def holdActive (s : State) (id : Nat) (h : Hold) : Bool :=
  let g := (strandOf s id).issuer
  (behind (strandOf s id) && decide (0 < h.ahead)) ||
  ((liveCmds s (clusterIdx id) g).any fun c => decide (c.accepted < h.before)) ||
    s.net.unacked.any fun u => h.acks.contains (u.sid, u.dest, u.seq) || (h.writes && u.issuer == g && u.cmd != 0 && decide (u.cmd ≤ h.before))

/-- R210: an entry of the VIQ runs that is older than the SBAR, which does not hold it back. -/
def holdYounger (t : Strand) (h : Hold) : Bool := decide (0 < h.ahead) && !t.arc.viq.isEmpty && !behind t

/-- R210: an SBAR holds a stream of the strand back. -/
def streamFenced (s : State) (id stream : Nat) : Bool :=
  (strandOf s id).holds.any fun h =>
    bitsOf h.streams.toNat stream 1 == 1 && !holdYounger (strandOf s id) h && holdActive s id h

/-- R222, R270: some access of the strand is not performed, so that a release must wait: of an entry of the VIQ, of a copy command, or
one that is not acknowledged. -/
def unperformed (s : State) (id : Nat) : Bool :=
  (behind (strandOf s id) && (strandOf s id).arc.viq.any fun h => (entryStream h.word).isSome) ||
  !(liveCmds s (clusterIdx id) (strandOf s id).issuer).isEmpty ||
    s.net.unacked.any fun u => u.issuer == (strandOf s id).issuer

/-- R358: with `n` more packets of a source more than 1,024 of them would not be acknowledged. -/
def sourceFull (s : State) (sid n : Nat) : Bool := decide (1024 < (s.net.unacked.countP fun u => u.sid == sid) + n)

/-- R358: a source may not send accesses of the given homes now: an earlier access of it that is homed on another die is not
acknowledged, or one more packet would be too many; each access is answered before the next is sent (log entry 12). -/
def sourceHeld (s : State) (sid : Nat) (homes : List (Option Nat)) : Bool :=
  (s.net.unacked.any fun u => u.sid == sid && homes.any (· != some u.dest)) || sourceFull s sid 1

/-- R207, R210, R358: an access waits behind an SBAR, and for the acknowledgements that its stream needs. The homes are those of
R358; an access to TCM, the Atrium or the host has none, and it follows every unacknowledged access of its stream. -/
def streamHeld (s : State) (id stream : Nat) (homes : List (Option Nat)) : Bool :=
  streamFenced s id stream || sourceHeld s (sidOf id stream) homes

/-- R353, R371: a die, as 4 x package + die, that is unreachable for a source, or whose package has no minimal port. -/
def unreachableDie (s : State) (sid d : Nat) : Bool :=
  s.net.unreachable.contains (sid, d) || (d / 4 != pkgNumber s && tblGet (0 : BitVec 16) s.net.minimal (d / 4) == 0)

/-- R371: the target lies on a destination that is unreachable for a source. -/
def unreachableTarget (s : State) (sid : Nat) (t : Target) : Bool :=
  match homeDie s t with
  | some d => unreachableDie s sid d
  | none => false

/-- R351: the header of a sequenced packet. -/
def packetOf (s : State) (sid dest cls addr : Nat) (seq : BitVec 16) (src : Nat) (payload : List Word) : Packet where
  hw0 := BitVec.ofNat 64 (dest * 2 ^ 50 + (4 * pkgNumber s + src) * 2 ^ 36 + cls * 2 ^ 32 + sid * 2 ^ 16 + seq.toNat)
  hw1 := BitVec.ofNat 64 (payload.length * 2 ^ 48 + addr)
  payload := payload

/-- R358: a source sends its next packet to a die. -/
def takeSeq (s : State) (sid d : Nat) : State :=
  let key := sid * 2 ^ 14 + d
  { s with net := { s.net with seqs := tblSet s.net.seqs key (tblGet (0 : BitVec 16) s.net.seqs key + 1) } }

/-- R358: an access whose home lies on another die takes the next SEQ of its stream. A write to another package stays
unacknowledged until the fabric acknowledges it; every other access is answered at once (log entry 12). -/
def noteRemoteAs (s : State) (issuer cmd tag sid die cls : Nat) (t : Target) (v : Nat) : State :=
  match homeDie s t with
  | none => s
  | some d =>
    if d = 4 * pkgNumber s + die then s
    else
      let q := tblGet (0 : BitVec 16) s.net.seqs (sid * 2 ^ 14 + d)
      let n := (takeSeq s sid d).net
      match t with
      | .phys k _ =>
        if cls = 1 ∧ d / 4 ≠ pkgNumber s then
          let p := packetOf s sid d cls (paOf k) q die [BitVec.ofNat 64 v]
          { s with net := { n with unacked := n.unacked ++ [⟨issuer, cmd, tag, sid, d, q, p⟩],
                                   waiting := n.waiting ++ [⟨p, 16, none, false⟩] } }
        else { s with net := n }
      | _ => { s with net := n }

/-- The same for an access of a stream of a strand. -/
def noteRemote (s : State) (id stream cls : Nat) (t : Target) (v : Nat) : State :=
  noteRemoteAs s (strandOf s id).issuer 0 (strandOf s id).tag (sidOf id stream) (dieIdx id) cls t v

/-- A read of `n` bytes at a checked target: MEM_UE for bad data (R86) or an unreachable home (R371); a HOST page waits for
its completion and takes ACCESS on a failed one (R224, log entry 13). -/
def loadTarget (s : State) (id stream cls : Nat) (t : Target) (n : Nat) : Acc Nat :=
  if targetBad s (clusterIdx id) t n || unreachableTarget s (sidOf id stream) t then .fault cMEM_UE s
  else
    match t with
    | .host _ =>
      match (strandOf s id).hostAnswer with
      | none => .wait .hostPage s
      | some ok =>
        let s' := modStrand s id fun u => { u with hostAnswer := none }
        if ok then .ok (targetRead s (clusterIdx id) t n) s' else .fault cACCESS s'
    | _ => .ok (targetRead s (clusterIdx id) t n) (noteRemote (targetFill s t) id stream cls t 0)

/-- A write of `n` bytes at a checked target; on an unreachable home it is a write-back error (R371). -/
def storeTarget (s : State) (id stream cls : Nat) (t : Target) (n v : Nat) : State :=
  if unreachableTarget s (sidOf id stream) t then
    match t with
    | .phys k _ => writeBackError s (paOf k) (strandOf s id).tag
    | _ => s
  else noteRemote (targetWrite s (clusterIdx id) (strandOf s id).tag t n v) id stream cls t v

/-- R86, R163: TVAL of an access fault: for CODED_NONFINITE the address of the 8-byte element, of a narrower vector element too
(log entry 81); else the address. -/
def faultAddr (cause : Nat) (a : Word) : Word := if cause = cCODED_NONFINITE then a &&& ~~~7 else a

/-- R86, R207: a scalar read of `n` bytes. -/
def scalarRead (s : State) (id : Nat) (a : Word) (n : Nat) : Acc Nat :=
  if a.toNat % n ≠ 0 then .fault cMISALIGN s
  else
    match translate s (agentOf s id) false a with
    | .error f => .fault f.cause (noteFault s f)
    | .ok t =>
      if streamHeld s id 0 [homeDie s t] then .wait (.remote 0) s
      else loadTarget s id 0 0 t n

/-- R86, R207: a scalar write of `n` bytes. -/
def scalarWrite (s : State) (id : Nat) (a : Word) (n v : Nat) : Acc Unit :=
  if a.toNat % n ≠ 0 then .fault cMISALIGN s
  else
    match translate s (agentOf s id) true a with
    | .error f => .fault f.cause (noteFault s f)
    | .ok t =>
      if nonfiniteWrite s t n v then .fault cCODED_NONFINITE s
      else if streamHeld s id 0 [homeDie s t] then .wait (.remote 0) s
      else .ok () (storeTarget s id 0 1 t n v)

/-- A scalar access goes on, traps at the instruction with its address, or waits. -/
def scalarThen {α : Type} (id : Nat) (a : Word) (r : Acc α) (k : α → State → State) : State :=
  match r with
  | .ok v s => k v s
  | .fault c s => trapHere s id c (faultAddr c a)
  | .wait b s => blockOn s id b

end Sys2Proof.Machine
end

