-- ==== Sys2Proof/Machine/Operands.lean ====
section
/-!
DEFINITION. Operand forms: immediates, element types and classes, lanes, masks, groups, elements of vector operands, the
checks of a vector instruction at issue, parity, and the residency of registers in the two-slot class (R43, R44,
R104-R124, R131-R134).
-/

namespace Sys2Proof.Machine

/-! ## Immediates -/

/-- A sign-extended immediate. -/
def sext {n : Nat} (v : BitVec n) : Word := v.signExtend 64

/-- A zero-extended immediate. -/
def zext {n : Nat} (v : BitVec n) : Word := v.zeroExtend 64

/-! ## Element types (R13, R106, R107, R131) -/

/-- R131: the classes of element types. -/
inductive Cls where
  | i | f | l | p
  deriving DecidableEq, Repr

/-- R13: how elements of a 6-bit element type code and a width W are read. -/
def typeOf (code w : Nat) : EType :=
  if code < 0x20 then fmtType code
  else if code = 0x20 then .flt fFP64
  else if code = 0x21 then .sint w
  else .uint w

/-- R131: the class of an element type code. -/
def clsOf (code : Nat) : Cls :=
  if code = 0x21 ∨ code = 0x22 ∨ code ≤ 0x04 ∨ code = 0x1F then .i
  else if code = 0x20 ∨ (0x06 ≤ code ∧ code ≤ 0x0E) ∨ code = 0x1E then .f
  else if code = 0x0F ∨ code = 0x10 then .l
  else .p

/-- R131: the signed I types. -/
def signedCode (code : Nat) : Bool := code = 0x21 || code = 0x00 || code = 0x02 || code = 0x04 || code = 0x1F

/-- R107: the element width of a type code. -/
def weOf (code w : Nat) : Nat := etWidth (typeOf code w)

/-- R107: a two-slot type. -/
def twoSlot (code w : Nat) : Bool := decide (33 ≤ weOf code w)

/-- R106: VCFG.TYPE. -/
def vType (a : Arcade) : Nat := fld a.vcfg 0 6
/-- R106: VCFG.W. -/
def vW (a : Arcade) : Nat := fld a.vcfg 7 7
/-- R106: the group multiplier. -/
def vG (a : Arcade) : Nat := 2 ^ fld a.vcfg 14 2
/-- R107: We of VCFG. -/
def vWe (a : Arcade) : Nat := weOf (vType a) (vW a)
/-- R107: VCFG names a two-slot type. -/
def vTwo (a : Arcade) : Bool := twoSlot (vType a) (vW a)
/-- R116: the top of the slot class. -/
def vTop (a : Arcade) : Nat := if vTwo a then 64 else 32

/-- R106, R13: a VCFG value that its checks accept. -/
def vcfgOk (v : Word) : Bool :=
  let code := fld v 0 6
  let w := fld v 7 7
  fld v 16 48 == 0 && fld v 6 1 == 0 && decide (code ≤ 0x22) &&
    (if 0x21 ≤ code then decide (1 ≤ w) && decide (w ≤ 64) else w == 0) &&
    !(fld v 14 2 == 3 && twoSlot code w)

/-! ## Lanes (R110-R113) -/

/-- R110: healthy rows of a bay in the snapshot. -/
def bayRows (a : Arcade) (b : Nat) : Nat := 4096 - (listGet [] a.snapRetired b).length

/-- A bay is held. -/
def bayHeld (a : Arcade) (b : Nat) : Bool := bitsOf a.bays.toNat b 1 == 1

/-- R110: LANES. -/
def lanesOf (a : Arcade) : Nat :=
  ((List.range 4).filter (bayHeld a)).foldl (fun n b => n + bayRows a b) 0

/-- R110: VLMAX. -/
def vlmaxOf (a : Arcade) : Nat := lanesOf a * vG a

/-- R111: the lane of a bay's first healthy row. -/
def bayFirst (a : Arcade) (b : Nat) : Nat :=
  ((List.range b).filter (bayHeld a)).foldl (fun n c => n + bayRows a c) 0

/-- The `k`th row of a bay that is not retired. -/
def healthyRow (retired : List Nat) (k : Nat) : Nat := retired.foldl (fun r q => if q ≤ r then r + 1 else r) k

/-- R110: the bay and row of a lane. -/
def laneRow (a : Arcade) (lane : Nat) : Nat × Nat :=
  match (List.range 4).find? fun b => bayHeld a b && decide (bayFirst a b ≤ lane) && decide (lane < bayFirst a b + bayRows a b) with
  | some b => (b, healthyRow (listGet [] a.snapRetired b) (lane - bayFirst a b))
  | none => (0, 0)

/-! ## Masks (R43, R117) -/

/-- A bit of a mask register. -/
def maskBit (a : Arcade) (m lane : Nat) : Bool := listGet false (listGet [] a.masks m) lane

/-- R43: a lane is enabled by the mask fields. -/
def laneEnabled (a : Arcade) (msk : BitVec 2) (mp : BitVec 1) (lane : Nat) : Bool :=
  if mp = 1 then maskBit a msk.toNat lane
  else if msk = 0 then true
  else !maskBit a msk.toNat lane

/-- R116, R117, R228: element `e` is active: below VL, at or above LANE, and enabled. -/
def active (a : Arcade) (msk : BitVec 2) (mp : BitVec 1) (e : Nat) : Bool :=
  decide (e < a.vl) && decide (a.lane ≤ e) && laneEnabled a msk mp (e % lanesOf a)

/-- The active elements, ascending. -/
def actives (a : Arcade) (msk : BitVec 2) (mp : BitVec 1) : List Nat := (List.range a.vl).filter (active a msk mp)

/-! ## Elements of operands (R108, R112, R118) -/

/-- The lane value of element `e` of the operand named `v`; 0 at or beyond VLMAX (R118). -/
def elemW (a : Arcade) (v : Nat) (e : Nat) : Word :=
  if e < vlmaxOf a then listGet 0 (listGet [] a.regs (v + e / lanesOf a)) (e % lanesOf a) else 0

/-- The low We bits of an element. -/
def elemN (a : Arcade) (v : Nat) (e : Nat) : Nat := (elemW a v e).toNat % 2 ^ vWe a

/-- R133: an index element. -/
def indexElem (a : Arcade) (v : Nat) (e : Nat) : Nat := (elemW a v e).toNat % 2 ^ vTop a

/-- R116: a result of `w` bits as a lane value: zeros above it. -/
def laneValue (w v : Nat) : Word := BitVec.ofNat 64 (v % 2 ^ w)

/-- R112, R116: elements of an operand written; `f` gives the new lane value of an element below VL, or none to keep it. -/
def writeElems (a : Arcade) (v : Nat) (f : Nat → Option Word) : Arcade :=
  let n := lanesOf a
  let one := fun (old : List Word) (j : Nat) =>
    let c := min n (a.vl - j * n)
    (List.range c).map (fun l => (f (j * n + l)).getD (listGet 0 old l)) ++ old.drop c
  let rs := (List.range (vG a)).foldl (fun rs j => listSet [] rs (v + j) (one (listGet [] rs (v + j)) j)) a.regs
  let wr := fun j => (List.range (min n (a.vl - j * n))).any fun l => (f (j * n + l)).isSome
  { a with regs := rs,
           written := (List.range (vG a)).foldl (fun m j => if wr j then m ||| (1#32 <<< (v + j)) else m) a.written }

/-- A mask register written in lanes below VL. -/
def writeMask (a : Arcade) (m : Nat) (f : Nat → Option Bool) : Arcade :=
  let old := listGet [] a.masks m
  let new := (List.range a.vl).map (fun l => (f l).getD (listGet false old l)) ++ old.drop a.vl
  { a with masks := listSet [] a.masks m new }

/-- R119, R159: every write of v31 but VBSCALE's clears MFMT.SC. -/
def clearScale (a : Arcade) (v : Nat) : Arcade := if v = 31 then { a with mfmt := setFld a.mfmt 7 1 0 } else a

/-! ## Group and class checks at issue (R44, R117, R131) -/

/-- R44: a vector field that is not a legal group. -/
def badGroup (a : Arcade) (v : BitVec 5) : Bool :=
  v.toNat % vG a != 0 || (vG a != 1 && decide (32 ≤ v.toNat + vG a))

/-- R44: some of the named fields is not a legal group. -/
def badGroups (a : Arcade) (vs : List (BitVec 5)) : Bool := vs.any (badGroup a)

/-- R131: TYPE is in one of the classes. -/
def inCls (a : Arcade) (cs : List Cls) : Bool := cs.contains (clsOf (vType a))

/-! ## Physical slots and parity (R123, R124) -/

/-- The lower physical slot of a register: slot n in the one-slot class, its slot pair in the two-slot class. -/
def slotOf (a : Arcade) (r : Nat) : Nat := if vTwo a then 2 * a.resident.idxOf r else r

/-- R123: an operand that an instruction reads, with the elements it takes. -/
abbrev Source := Nat × (Nat → Bool)

/-- R123: a parity mismatch of a core stands in an element of an operand. -/
def parityAt (a : Arcade) (k : Core) (v e : Nat) : Bool :=
  let r := v + e / lanesOf a
  let p := laneRow a (e % lanesOf a)
  let sl := slotOf a r
  k.parity.any fun q => q.1 == p.1 && q.2.1 == p.2 && (q.2.2 == sl || (vTwo a && q.2.2 == sl + 1))

/-- R124: the first source, in the order of the fields, with a mismatch: its register field and lowest element (log entry 57). -/
def parityHit (a : Arcade) (k : Core) (src : List Source) : Option (Nat × Nat) :=
  if k.parity.isEmpty then none
  else src.findSome? fun q =>
    ((List.range (vlmaxOf a)).find? fun e => q.2 e && parityAt a k q.1 e).map fun e => (q.1, e)

/-- R124: TVAL of ARCADE_PARITY. -/
def parityTval (a : Arcade) (v e : Nat) : Word :=
  let r := v + e / lanesOf a
  BitVec.ofNat 64 (e * 2 ^ 32 + r * 2 ^ 8 + slotOf a r)

/-- R124, R125: a mismatch is reported to the Usher as a detection. -/
def reportDetection (s : State) (core bay row : Nat) : State :=
  let u := s.pkg.usher
  addReport { s with pkg := { s.pkg with usher := { u with detections := (core, bay, row, u.time) :: u.detections } } } 124
    (core * 2 ^ 16 + bay * 2 ^ 12 + row)

/-- R124: the mismatches of a core that stand in what is read are reported, each as a detection. -/
def reportMismatches (s : State) (core : Nat) (a : Arcade) (reads : List (Nat × Nat)) : State :=
  let k := coreOf s core
  let read := fun (q : Nat × Nat × Nat) => reads.any fun x => parityAt a { k with parity := [q] } x.1 x.2
  (k.parity.filter read).foldl (fun u q => reportDetection u core q.1 q.2.1) s

/-- R123: a write of an element recomputes its slot's parity. -/
def healParity (s : State) (id : Nat) (v : Nat) (wr : Nat → Bool) : State :=
  let k := coreOf s (coreIdx id)
  if k.parity.isEmpty then s
  else
    let a := (strandOf s id).arc
    let es := (List.range (vlmaxOf a)).filter wr
    setCore s (coreIdx id)
      { k with parity := k.parity.filter fun q => !es.any fun e =>
          let r := v + e / lanesOf a
          let sl := slotOf a r
          laneRow a (e % lanesOf a) == (q.1, q.2.1) && (q.2.2 == sl || (vTwo a && q.2.2 == sl + 1)) }

/-- R110: a row of a bay is a lane of the strand. -/
def laneOfRow (a : Arcade) (bay row : Nat) : Bool := bayHeld a bay && !(listGet [] a.snapRetired bay).contains row

/-- R123: physical slots are written in every lane of a strand, and their parity recomputed. -/
def healSlots (s : State) (id : Nat) (slots : List Nat) : State :=
  let k := coreOf s (coreIdx id)
  let a := (strandOf s id).arc
  setCore s (coreIdx id)
    { k with parity := k.parity.filter fun q => !(laneOfRow a q.1 q.2.1 && slots.contains q.2.2) }

/-! ## The Vault and residency (R120-R122) -/

/-- R121: the address of a spill frame. -/
def frameBase (t : Strand) (r : Nat) : Nat := fld t.vault 16 32 * 2 ^ 16 + r * 0x20000

/-- R121: VAULT.V. -/
def vaultOn (t : Strand) : Bool := fld t.vault 0 1 == 1

/-- R122, R232: the target of a Vault address, which must be LOCAL, not CODED, and free of uncorrectable errors; the Vault is
reached at S. -/
def vaultTarget (s : State) (id : Nat) (write : Bool) (a : Nat) : Except XFault Target :=
  match translateLocal s { agentOf s id with supervisor := true } write (addr48 a) with
  | .error f => .error f
  | .ok t => if targetBad s (clusterIdx id) t 8 then .error (xfault cMEM_UE) else .ok t

/-- Doublewords written to Vault addresses from `a` up; else the address of the first that fails, with what is reported (R293). -/
def vaultWrite (id : Nat) : List Word → Nat → State → Except (Nat × State) State
  | [], _, s => .ok s
  | w :: r, a, s =>
    match vaultTarget s id true a with
    | .error f => .error (a, noteFault s f)
    | .ok t => vaultWrite id r (a + 8) (targetWrite s (clusterIdx id) (strandOf s id).tag t 8 w.toNat)

/-- `n` doublewords read from Vault addresses from `a` up; else the address of the first that fails, with what is reported. -/
def vaultRead (s : State) (id : Nat) : Nat → Nat → Except (Nat × State) (List Word)
  | 0, _ => .ok []
  | n + 1, a =>
    match vaultTarget s id false a with
    | .error f => .error (a, noteFault s f)
    | .ok t =>
      match vaultRead s id n (a + 8) with
      | .error e => .error e
      | .ok r => .ok (BitVec.ofNat 64 (targetRead s (clusterIdx id) t 8) :: r)

/-- The registers of a group. -/
def groupRegs (a : Arcade) (v : BitVec 5) : List Nat := (List.range (vG a)).map (v.toNat + ·)

/-- R120: the registers that an instruction names become the most recent. They are of one recency, so that among them the lower
number comes first. -/
def touchRecency (rec : List Nat) (regs : List Nat) : List Nat :=
  rec.filter (fun r => !regs.contains r) ++ (List.range 32).filter regs.contains

/-- What a swap gives: the state, or a trap with its cause, TVAL and the state it leaves. -/
abbrev Swap := Except (Nat × Word × State) State

/-- A slot pair that holds no register. -/
abbrev noReg : Nat := 32

/-- R120, R123: slot pair `i` takes register `r` with the lane values `vals`; the core's swap counter rises. -/
def fillPair (s : State) (id i r : Nat) (vals : List Word) : State :=
  let u := healSlots s id [2 * i, 2 * i + 1]
  let k := coreOf u (coreIdx id)
  modArc (setCore u (coreIdx id) { k with swaps := k.swaps + 1 }) id fun b =>
    { b with resident := b.resident.set i r, regs := listSet [] b.regs r vals }

/-- R120: slot pair `i` gives up register `q`, which is in its frame or has not been written. -/
def emptyPair (s : State) (id i q : Nat) : State :=
  modArc s id fun b => { b with resident := b.resident.set i noReg, regs := listSet [] b.regs q [] }

/-- R120: a register has been written since VACQ. -/
def regWritten (a : Arcade) (r : Nat) : Bool := bitsOf a.written.toNat r 1 == 1

/-- R121: the first `n` doublewords of a frame are unspecified: they take free values (log entry 3). -/
def forgetWords (s : State) (id r n : Nat) : State :=
  match vaultWrite id ((List.range n).map (Config.frameWord s.free)) (frameBase (strandOf s id) r) { s with free := s.free + 1 } with
  | .error (_, u) => u
  | .ok u => u

/-- R121: the contents of a frame are unspecified once its register is resident. -/
def forgetFrame (s : State) (id r : Nat) : State := forgetWords s id r (lanesOf (strandOf s id).arc)

/-- R120-R124: register `q` leaves its slot pair: its parity is checked, and it is written to its frame if it has been
written since VACQ. TVAL of a VAULT trap is the 48-bit frame address with zeros above it (log entry 80). A frame that could be written
in part is unspecified as far as it was written (log entry 96). -/
def swapOut (s : State) (id q : Nat) : Swap :=
  let t := strandOf s id
  let a := t.arc
  let k := coreOf s (coreIdx id)
  let one := { a with vcfg := setFld a.vcfg 14 2 0 }
  match (if k.parity.isEmpty then none else (List.range (lanesOf a)).find? fun e => parityAt one k q e) with
  | some e =>
    .error (cARCADE_PARITY, BitVec.ofNat 64 (e * 2 ^ 32 + q * 2 ^ 8 + slotOf a q),
      reportMismatches s (coreIdx id) one ((List.range (lanesOf a)).map fun e => (q, e)))
  | none =>
    if regWritten a q then
      if !vaultOn t then .error (cVAULT, 0, s)
      else
        match vaultWrite id (listFit 0 (lanesOf a) (listGet [] a.regs q)) (frameBase t q) s with
        | .error (e, u) => .error (cVAULT, BitVec.ofNat 64 e, forgetWords u id q ((e - frameBase t q) / 8))
        | .ok u => .ok (emptyPair u id (a.resident.idxOf q) q)
    else .ok (emptyPair s id (a.resident.idxOf q) q)

/-- R120, R122: a register comes into an empty slot pair, from its frame if it has been written since VACQ. -/
def bringIn (s : State) (id r : Nat) : Swap :=
  let t := strandOf s id
  let a := t.arc
  let i := a.resident.idxOf noReg
  if regWritten a r then
    if !vaultOn t then .error (cVAULT, 0, s)
    else
      match vaultRead s id (lanesOf a) (frameBase t r) with
      | .error (e, u) => .error (cVAULT, BitVec.ofNat 64 e, u)
      | .ok vals => .ok (fillPair (forgetFrame s id r) id i r vals)
  else .ok (fillPair s id i r [])

/-- R120, R122: a register is brought in; the resident register of lowest recency that is not named goes out (log entry
10). -/
def swapIn (s : State) (id : Nat) (named : List Nat) (r : Nat) : Swap :=
  let a := (strandOf s id).arc
  if a.resident.contains r then .ok s
  else if a.resident.contains noReg then bringIn s id r
  else
    match a.recency.find? fun q => a.resident.contains q && !named.contains q with
    | none => .ok s
    | some q =>
      match swapOut s id q with
      | .error e => .error e
      | .ok u => bringIn u id r

/-- R120: every register the instruction names is resident, and the most recent. -/
def touchRegs (s : State) (id : Nat) (vs : List (BitVec 5)) : Swap :=
  let a := (strandOf s id).arc
  let named := (vs.map (groupRegs a)).flatten
  let done := fun (u : State) => modArc u id fun b => { b with recency := touchRecency b.recency named }
  if vTwo a then
    match named.foldl (fun (acc : Swap) r => match acc with
      | .error e => .error e
      | .ok u => swapIn u id named r) (.ok s) with
    | .error e => .error e
    | .ok u => .ok (done u)
  else .ok (done s)

/-! ## The course of an array-side instruction -/

/-- R127: VDEAD; TVAL holds the word, and VRESUME 0. -/
def trapDead (s : State) (id : Nat) (w : BitVec 32) : State :=
  trapWord (modArc s id fun a => { a with lane := 0 }) id cVDEAD w

/-- R228: LANE lies at or beyond VL; with LANE = 0 no handler has moved it (log entry 63). -/
def laneBeyond (a : Arcade) : Bool := decide (0 < a.lane) && decide (a.vl ≤ a.lane)

/-- A trap found at issue or dispatch; for an entry of the VIQ it is the array's (R229). -/
def trapDispatch (s : State) (id : Nat) (o : Vop) (cause : Nat) (tval : Word) : State :=
  if (strandOf s id).arc.viq.isEmpty || behind (strandOf s id) then trapHere s id cause tval else trapArray s id o cause tval 0

/-- R63, R127, R229: what is decided at issue: ILLEGAL, then VDEAD. -/
def arrayChecks (s : State) (id : Nat) (o : Vop) (bad : Bool) (k : State) : State :=
  let t := strandOf s id
  if heldOn t || bad then trapDispatch s id o cILLEGAL (o.word.zeroExtend 64)
  else if stNoBays t then trapDispatch (modArc s id fun a => { a with lane := 0 }) id o cVDEAD (o.word.zeroExtend 64)
  else k

/-- R201: an instruction that has passed its issue runs, or stands behind entries that have not completed. -/
def queueOr (s : State) (id : Nat) (o : Vop) (k : State) : State := if behind (strandOf s id) then dispatchBehind s id o else k

/-- R63, R201: an array-side instruction passes its issue, and runs or enters the VIQ. -/
def arrayIssue (s : State) (id : Nat) (o : Vop) (bad : Bool) (k : State) : State := arrayChecks s id o bad (queueOr s id o k)

/-- R228: a vector instruction passes its issue, and completes with no further effect when LANE lies at or beyond VL. -/
def vecIssue (s : State) (id : Nat) (o : Vop) (bad : Bool) (k : State) : State :=
  arrayIssue s id o bad <|
    if laneBeyond (strandOf s id).arc then finishV (modArc s id fun a => { a with chainIn := none }) id else k

/-! ## Entries of the VIQ (R201) -/

/-- R210: the oldest entry of the VIQ has completed; the SBARs that it was in E of count it off. -/
def popHolds (t : Strand) : Strand := { t with holds := t.holds.map fun h => { h with ahead := h.ahead - 1 } }

/-- R201: the control side of a strand, with what it waits for, as it stood in `old`. -/
def restoreControl (old t : Strand) : Strand :=
  { t with slot := old.slot, blocked := old.blocked, hostAnswer := old.hostAnswer }

/-- R201, R229: the control side of a strand waits for nothing but the VIQ. -/
def controlIdle (t : Strand) : Bool := t.slot == .run && (t.blocked == none || t.blocked == some .viq)

/-- R201: what the run of the oldest entry, from a state in which the control side stood as in `old`, has made of a strand. A trap is
taken and the control side stops (R229); an entry that has completed leaves the control side as it was; a VWAITM that must wait parks
the strand (R203, R223); another that has not completed waits on, and stalls a control side that waits for nothing else where its
wait is one at issue. -/
def afterHead (old t : Strand) : Strand :=
  if heldOn t || t.slot == .drain || t.slot == .park then t
  else if t.arc.viq.length < old.arc.viq.length then
    popHolds (restoreControl old { t with arc := { t.arc with waits := if t.arc.viq.isEmpty then none else some .turn } })
  else if t.blocked.isSome && controlIdle old then t
  else
    restoreControl old { t with arc := { t.arc with
      waits := t.arc.waits.or (some (if t.blocked == some .hostPage then .host none else .turn)) } }

/-- R224: the host's answer that the oldest entry of a VIQ has got. -/
def entryAnswer (a : Arcade) : Option Bool :=
  match a.waits with
  | some (.host x) => x
  | _ => none

/-- R201: the oldest entry of a VIQ behind which the control side has gone on runs. -/
def runHead (s : State) (id : Nat) (run : State → Res) : Res :=
  let old := strandOf s id
  match run (modStrand { s with cur := id } id fun t =>
      { t with slot := .run, blocked := none, hostAnswer := entryAnswer t.arc, arc := { t.arc with waits := none } }) with
  | .next u => .next (modStrand { u with cur := s.cur } id (afterHead old))
  | r => r

/-- R120-R124: registers become resident, then the sources' parity is checked, then the instruction acts. -/
def vecTouch (s : State) (id : Nat) (o : Vop) (regs : List (BitVec 5)) (src : List Source) (k : State → State) : State :=
  match touchRegs s id regs with
  | .error (c, v, u) => trapArray u id o c v 0
  | .ok u =>
    let a := (strandOf u id).arc
    match parityHit a (coreOf u (coreIdx id)) src with
    | none => k u
    | some (v, e) =>
      let reads := (src.map fun q => ((List.range (vlmaxOf a)).filter q.2).map fun e => (q.1, e)).flatten
      trapArray (reportMismatches u (coreIdx id) a reads) id o cARCADE_PARITY (parityTval a v e) 0

end Sys2Proof.Machine
end

