-- ==== Sys2Proof/Machine/Branch.lean ====
section
/-!
DEFINITION. Control transfers (R52, R93), words that are no instruction (R39, R40), and the system instructions that trap,
return or yield (R53, R95, R97, R101, R103).
-/

namespace Sys2Proof.Machine

/-! ## Control transfers -/

/-- R52: the 64-bit target of a branch or JAL. -/
def branchTarget (t : Strand) (o : Word) : Word := t.pc.signExtend 64 + (o <<< 2)

/-- R93: a jump to a target, or the trap that a target that is not canonical takes; `k` makes the link write. -/
def jumpTo (s : State) (id : Nat) (a : Word) (k : State → State) : State :=
  if canonical a then finishAt (k s) id (BitVec.ofNat 48 a.toNat) else trapHere s id cPAGE_FAULT a

/-- R93: a conditional branch. -/
def branchIf (s : State) (a b : BitVec 5) (o : BitVec 16) (f : Word → Word → Bool) : Res :=
  let id := s.cur
  if f (reg s id a) (reg s id b) then .next (jumpTo s id (branchTarget (strandOf s id) (sext o)) fun u => u)
  else .next (finish s id)

def execBeq (a b : BitVec 5) (o : BitVec 16) (s : State) : Res := branchIf s a b o fun x y => x == y
def execBne (a b : BitVec 5) (o : BitVec 16) (s : State) : Res := branchIf s a b o fun x y => x != y
def execBlt (a b : BitVec 5) (o : BitVec 16) (s : State) : Res := branchIf s a b o fun x y => x.slt y
def execBge (a b : BitVec 5) (o : BitVec 16) (s : State) : Res := branchIf s a b o fun x y => !x.slt y
def execBltu (a b : BitVec 5) (o : BitVec 16) (s : State) : Res := branchIf s a b o fun x y => x.ult y
def execBgeu (a b : BitVec 5) (o : BitVec 16) (s : State) : Res := branchIf s a b o fun x y => !x.ult y

/-- R52, R93: the link value: PC + 4, zero-extended (log entry 54). -/
def linkWord (t : Strand) : Word := (nextPc t).zeroExtend 64

/-- R93: PC + 4 to s31, and a jump relative to the program counter. -/
def execJal (o : BitVec 26) (s : State) : Res :=
  let id := s.cur
  let t := strandOf s id
  .next (jumpTo s id (branchTarget t (sext o)) fun u => setReg u id 31 (linkWord t))

/-- R93: PC + 4 to sA, and a jump to sB + imm; a target whose low bits are not 0 traps with MISALIGN. -/
def execJalr (a b : BitVec 5) (i : BitVec 16) (s : State) : Res :=
  let id := s.cur
  let t := strandOf s id
  let p := reg s id b + sext i
  if p.toNat % 4 ≠ 0 then .next (trapHere s id cMISALIGN p)
  else .next (jumpTo s id p fun u => setReg u id a (linkWord t))

/-! ## Words that are no instruction -/

/-- R40: the all-zeros and all-ones words. -/
def execGuard (w : BitVec 32) (s : State) : Res := .next (trapWord s s.cur cGUARD w)

/-- R39. -/
def execIllegalInstruction (w : BitVec 32) (s : State) : Res := .next (trapIllegal s s.cur w)

/-! ## Traps by instruction, and return -/

/-- R95: EPC is the next instruction. -/
def execSvc (k : BitVec 11) (s : State) : Res :=
  .next (takeTrap s s.cur cSVC (zext k) (linkWord (strandOf s s.cur)))

/-- R95: EPC is the BRK itself. -/
def execBrk (k : BitVec 11) (s : State) : Res := .next (trapHere s s.cur cBRK (zext k))

/-- R230: the strand holds links that defer its save: a scalar link, or vector links since whose VLDL no VSTC has issued, for 256
instructions. -/
def linksDefer (s : State) (id : Nat) : Bool :=
  !(strandOf s id).linkDeferOver && decide ((strandOf s id).linkCount < 256) &&
    s.mem.tags.any fun t => !t.watch && t.strand == some id && !t.stored

/-- R230: the save of a strand begins. -/
def beginSave (s : State) (id : Nat) : State :=
  modStrand s id fun t => { t with slot := .save, hostAnswer := none }

/-- R103: a due pre-emption whose PREEMPT trap has been taken is taken at the handler's RETS, once no held entry is left to
run and no link defers it. -/
def saveAtReturn (s : State) (id : Nat) : State :=
  let t := strandOf s id
  if t.due && t.preemptTrapped && t.arc.viq.isEmpty && !linksDefer s id then beginSave s id else s

/-- R53, R101: at U, PRIV. -/
def execRets (s : State) : Res :=
  let id := s.cur
  let t := strandOf s id
  if stSuper t then .next (saveAtReturn (modStrand s id returnFromTrap) id) else .next (trapWord s id cPRIV 0x64000800)

/-- R97: no architectural effect. -/
def execYield (s : State) : Res := .next (finish s s.cur)

end Sys2Proof.Machine
end

