-- ==== Sys2Proof/Machine/Ctrl.lean ====
section
/-!
DEFINITION. Control registers: GETC and every SETC (R9, R45, R46, R96, R108, R173, R176, R227, R255, R297).
-/

namespace Sys2Proof.Machine

/-! ## Views of registers that are formed when read -/

/-- R109: BAYS. -/
def baysWord (a : Arcade) : Word :=
  BitVec.ofNat 64 (lanesOf a * 2 ^ 16 + a.bays.toNat * 2 ^ 4 + popN 4 a.bays.toNat)

/-- R111: LANEMAP of bay `b`. -/
def lanemapWord (a : Arcade) (b : Nat) : Word :=
  BitVec.ofNat 64 ((if bayHeld a b then 2 ^ 31 + bayFirst a b else 0) + bitsOf a.snapEnabled.toNat b 1 * 2 ^ 30 +
    min 127 (listGet [] a.snapRetired b).length * 2 ^ 23)

/-- R227: VRESUME. -/
def vresumeWord (a : Arcade) : Word :=
  BitVec.ofNat 64 ((if a.held.isEmpty then 0 else 2 ^ 63) + a.held.length * 2 ^ 56 + a.lane)

/-- R178: MXSTAT. OWNER of a saved owner is the slot that it was saved from (log entry 98). -/
def mxstatWord (m : Mezz) : Word :=
  let tile := fun (t : Tile) (d k f : Nat) =>
    (if t.dist then 2 ^ d else 0) + (if t.wide then 2 ^ k else 0) + t.fmt * 2 ^ f
  BitVec.ofNat 64 (m.ft.length * 2 ^ 48 + m.fa.length * 2 ^ 32 +
    (match m.owner with | some (_, sl) => 2 ^ 23 + sl * 2 ^ 21 | none => 0) +
    (if m.act then 2 ^ 20 else 0) + tile m.t1 19 17 11 + tile m.t0 18 16 6)

/-! ## The index space (R45) -/

/-- R45: the index names a register. -/
def cregAssigned (k : Nat) : Bool :=
  decide (k ≤ 0x00D) || (decide (0x010 ≤ k) && decide (k ≤ 0x013)) || (decide (0x100 ≤ k) && decide (k ≤ 0x104)) ||
    (decide (0x400 ≤ k) && decide (k < 0x600) && decide (k % 8 ≤ 5)) ||
    (decide (0x600 ≤ k) && decide (k < 0x640) && decide (k % 4 ≤ 2))

/-- R46: the index is checked, then the privilege. -/
def cregThen (s : State) (w : BitVec 32) (k : Nat) (f : State) : State :=
  if !cregAssigned k then trapIllegal s s.cur w
  else if 0x100 ≤ k ∧ stSuper (strandOf s s.cur) = false then trapWord s s.cur cPRIV w
  else f

/-- The value of register `j` of a coded region. -/
def regionReg (r : Region) (j : Nat) : Word :=
  match j with
  | 0 => r.rbase
  | 1 => r.rsize
  | 2 => r.rrate
  | 3 => r.errlim
  | 4 => r.enccnt
  | _ => r.errmax

/-- Register `j` of a coded region replaced. -/
def setRegionReg (r : Region) (j : Nat) (v : Word) : Region :=
  match j with
  | 0 => { r with rbase := v }
  | 1 => { r with rsize := v }
  | 2 => { r with rrate := v }
  | 3 => { r with errlim := v }
  | 4 => { r with enccnt := v }
  | _ => { r with errmax := v }

/-! ## The Mezzanine as the control side sees it (R173, R177) -/

/-- A change to a core's Mezzanine. -/
def modMezz (s : State) (core : Nat) (f : Mezz → Mezz) : State :=
  setCore s core { coreOf s core with mezz := f (coreOf s core).mezz }

/-- R173: the strand owns the Mezzanine of its core. -/
def ownsMezz (s : State) (id : Nat) : Bool :=
  match (coreOf s (coreIdx id)).mezz.owner with
  | some (g, _) => g == (strandOf s id).issuer
  | none => false

/-- R176: MXCFG.DBASE. -/
def mxDbase (c : Word) : Nat := fld c 28 7
/-- R176: MXCFG.DINC. -/
def mxDinc (c : Word) : Bool := fld c 35 1 == 1

/-- R177, R189: DBASE moves on. -/
def advanceBase (c : Word) : Word := if mxDinc c then setFld c 28 7 (mxDbase c + 1) else c

/-- R177: MXCFG after the entries of a VIQ that have not completed. -/
def mxcfgAfter (c : Word) (es : List Held) : Word :=
  es.foldl (fun c h =>
    if h.word.toNat / 2 ^ 26 ≠ 0x30 then c
    else if h.word.toNat % 256 = 0 then h.op1
    else if h.word.toNat % 256 = 4 then advanceBase c
    else c) c

/-- R177: MXCFG of the core in the program order of a strand: the control side applies what stands in the VIQ. -/
def mxcfgNow (s : State) (id : Nat) : Word :=
  let t := strandOf s id
  let c := (coreOf s (coreIdx id)).mezz.cfg
  if behind t && ownsMezz s id then mxcfgAfter c t.arc.viq else c

/-- R196: ACT of the core in the program order of a strand. -/
def actNow (s : State) (id : Nat) : Bool :=
  let t := strandOf s id
  let m := (coreOf s (coreIdx id)).mezz
  if behind t && ownsMezz s id then
    t.arc.viq.foldl (fun b h =>
      if h.word.toNat / 2 ^ 26 = 0x30 ∧ h.word.toNat % 256 = 2 then bitsOf h.word.toNat 21 1 == 1 else b) m.act
  else m.act

/-- R96: what GETC of an assigned index reads. -/
def readCreg (s : State) (id k : Nat) : Word :=
  let t := strandOf s id
  let a := t.arc
  if 0x600 ≤ k then tblGet 0 s.pkg.pool (k - 0x600)
  else if 0x400 ≤ k then regionReg (regionOf s ((k - 0x400) / 8)) (k % 8)
  else
    match k with
    | 0x000 => t.status
    | 0x001 => t.sflags
    | 0x002 => a.vcfg
    | 0x003 => BitVec.ofNat 64 a.vl
    | 0x004 => BitVec.ofNat 64 (vlmaxOf a)
    | 0x005 => a.strip
    | 0x006 => a.sidx
    | 0x007 => a.mfmt
    | 0x008 => mxcfgNow s id
    | 0x009 => mxstatWord (coreOf s (coreIdx id)).mezz
    | 0x00A => baysWord a
    | 0x00B => vresumeWord a
    | 0x00C => 32
    | 0x00D => a.chainsrc
    | 0x100 => t.cause
    | 0x101 => t.epc
    | 0x102 => t.tval
    | 0x103 => t.tvec
    | 0x104 => t.vault
    | _ => lanemapWord a (k - 0x010)

/-- R96. -/
def execGetc (a : BitVec 5) (k : BitVec 11) (s : State) : Res :=
  .next (cregThen s (wordS 0x19 a 0 3 k) k.toNat (finishReg s s.cur a (readCreg s s.cur k.toNat)))

/-! ## SETC of registers without a behaviour of their own -/

/-- The writable bits of a register and those cleared by writing 1; none for a read-only register. -/
def cregMasks (k : Nat) : Option (Word × Word) :=
  if 0x600 ≤ k then
    match k % 4 with
    | 0 => some (0xFFFFFFFFFFFD, 0)
    | 1 => some (0xFFFFFFFF, 0)
    | _ => some (0xFFFFFFFFFFFF, 0)
  else if 0x400 ≤ k then
    match k % 8 with
    | 0 => some (0xFFFFFFFFC0, 0)
    | 1 => some (0xFFFFFF0000, 0)
    | 3 => some (0x7FFFFFFFFFFFFFFF, 0x8000000000000000)
    | 4 => some (0, 0xFFFFFFFFFFFFFFFF)
    | _ => some (0, 0x7FFFFFFFFFFFFFFF)
  else
    match k with
    | 0x007 => some (0xDF00FF, 0)
    | 0x100 => some (0x3F, 0)
    | 0x101 => some (0xFFFFFFFFFFFC, 0)
    | 0x102 => some (0xFFFFFFFFFFFFFFFF, 0)
    | 0x103 => some (0xFFFFFFFFFFFC, 0)
    | 0x104 => some (0xFFFFFFFF0001, 0)
    | _ => none

/-- R96: the bits of `m.1` are written, those of `m.2` cleared where a 1 is written, all others kept. -/
def setBits (m : Word × Word) (old v : Word) : Word :=
  (old &&& ~~~(m.1 ||| m.2)) ||| (v &&& m.1) ||| (old &&& m.2 &&& ~~~v)

/-- R159, R297: a value that a register refuses beside its reserved bits. -/
def cregBad (s : State) (k : Nat) (v : Word) : Bool :=
  (decide (k = 0x007) && decide (0x22 < fld v 0 6)) ||
    (decide (0x400 ≤ k) && decide (k < 0x600) && decide (k % 8 ≤ 1) && regionOn (regionOf s ((k - 0x400) / 8)))

/-- A register without a behaviour of its own takes a value. -/
def writeCreg (s : State) (id k : Nat) (v : Word) : State :=
  if 0x600 ≤ k then { s with pkg := { s.pkg with pool := tblSet s.pkg.pool (k - 0x600) v } }
  else if 0x400 ≤ k then
    setRegion s ((k - 0x400) / 8) (setRegionReg (regionOf s ((k - 0x400) / 8)) (k % 8) v)
  else
    modStrand s id fun t =>
      match k with
      | 0x007 => { t with arc := { t.arc with mfmt := v } }
      | 0x100 => { t with cause := v }
      | 0x101 => { t with epc := v }
      | 0x102 => { t with tval := v }
      | 0x103 => { t with tvec := v }
      | 0x104 => { t with vault := v }
      | _ => t

/-- R46, R96: a read-only register ignores the write; a 1 in a reserved bit traps with ILLEGAL. -/
def execSetc (b : BitVec 5) (k : BitVec 11) (s : State) : Res :=
  let id := s.cur
  let w := wordS 0x19 0 b 4 k
  let v := reg s id b
  .next (cregThen s w k.toNat (match cregMasks k.toNat with
    | none => finish s id
    | some m =>
      if v &&& ~~~(m.1 ||| m.2) ≠ 0 ∨ cregBad s k.toNat v = true then trapIllegal s id w
      else finish (writeCreg s id k.toNat (setBits m (readCreg s id k.toNat) v)) id))

/-! ## STATUS, SFLAGS, VRESUME -/

/-- R46, R80: ignored at U; at S, PTRAP, NEST and PP are written. -/
def execSetcStatus (b : BitVec 5) (s : State) : Res :=
  let id := s.cur
  let v := reg s id b
  if stSuper (strandOf s id) = false then .next (finish s id)
  else if v &&& 0xFFFFFFFF00000010 ≠ 0 then .next (trapIllegal s id (wordS 0x19 0 b 4 0x000))
  else .next (finish (modStrand s id fun t => { t with status := setBits (0x2A, 0) t.status v }) id)

/-- R33, R34. -/
def execSetcSflags (b : BitVec 5) (s : State) : Res :=
  let id := s.cur
  let v := reg s id b
  if v &&& ~~~sflagsMask ≠ 0 then .next (trapIllegal s id (wordS 0x19 0 b 4 0x001))
  else .next (finish (modStrand s id fun t => { t with sflags := v }) id)

/-- R227, R229, R274: the held entries are discarded, to be dispatched again by the instructions from EPC; a strip head among them
leaves its mark to the next one dispatched, and no SBAR waits for them. -/
def discardHeld (s : State) (id : Nat) : State :=
  modStrand s id fun t =>
    { t with stripHead := t.stripHead || t.arc.held.any (·.head), holds := t.holds.map fun h => { h with ahead := 0 },
             arc := { t.arc with held := [], heldPoint := 0 } }

/-- R227: ignored at U; at S, a 1 in HELD discards the held entries, and LANE is written. -/
def execSetcVresume (b : BitVec 5) (s : State) : Res :=
  let id := s.cur
  let v := reg s id b
  if stSuper (strandOf s id) = false then .next (finish s id)
  else if v &&& 0x40FFFFFFFFFC0000 ≠ 0 then .next (trapIllegal s id (wordS 0x19 0 b 4 0x00B))
  else
    .next (finish (modArc (if fld v 63 1 = 1 then discardHeld (returnMessage s id) id else s) id fun a =>
      { a with lane := fld v 0 18 }) id)

/-! ## VCFG (R106-R108) -/

/-- R115: VL := min(STRIP, VLMAX). -/
def refitVl (a : Arcade) : Arcade := { a with vl := min a.strip.toNat (vlmaxOf a) }

/-- Registers written to their frames, in order. -/
def framesOut (id : Nat) : List Nat → State → Swap
  | [], s => .ok s
  | q :: r, s =>
    match swapOut s id q with
    | .error e => .error e
    | .ok u => framesOut id r u

/-- Registers read back from their frames, in order. -/
def framesIn (id : Nat) : List Nat → State → Swap
  | [], s => .ok s
  | q :: r, s =>
    let t := strandOf s id
    if !vaultOn t then .error (cVAULT, 0, s)
    else
      match vaultRead s id (lanesOf t.arc) (frameBase t q) with
      | .error (e, u) => .error (cVAULT, BitVec.ofNat 64 e, u)
      | .ok vals => framesIn id r (modArc s id fun b => { b with regs := listSet [] b.regs q vals })

/-- R123: the slots of a strand's registers change; a mismatch goes with the lane value that has it, and a slot that is given up or
written afresh has none (log entry 64). -/
def moveParity (s : State) (id : Nat) (f : Nat → Option Nat) : State :=
  let k := coreOf s (coreIdx id)
  let a := (strandOf s id).arc
  setCore s (coreIdx id)
    { k with parity := k.parity.filterMap fun q =>
        if laneOfRow a q.1 q.2.1 then (f q.2.2).map fun sl => (q.1, q.2.1, sl) else some q }

/-- R108: VCFG takes a value that its checks accept, with the Vault transfers that a change of slot class needs. A transfer
that fails leaves VCFG and every register as they were. The registers that stay resident take the slot pairs in ascending order of
their numbers (log entry 58). -/
def switchVcfg (s : State) (id : Nat) (v : Word) : Swap :=
  let a := (strandOf s id).arc
  let undo := fun (e : Nat × Word × State) => (e.1, e.2.1, setStrand e.2.2 id (strandOf s id))
  if twoSlot (fld v 0 6) (fld v 7 7) = vTwo a then .ok (modArc s id fun b => refitVl { b with vcfg := v })
  else if vTwo a then
    let away := (List.range 32).filter fun r => !a.resident.contains r && regWritten a r
    match framesIn id away s with
    | .error e => .error (undo e)
    | .ok u =>
      let back := fun sl => if sl % 2 = 0 then (a.resident[sl / 2]?).filter (· != noReg) else none
      .ok (modArc (moveParity (away.foldl (fun w r => forgetFrame w id r) u) id back) id fun b =>
        refitVl { b with vcfg := v, regs := b.regs.map fun l => l.map fun x => BitVec.ofNat 64 (x.toNat % 2 ^ 32) })
  else
    let out := a.recency.take 16
    match framesOut id out s with
    | .error e => .error (undo e)
    | .ok u =>
      let stay := (List.range 32).filter fun r => !out.contains r
      let pair := fun sl => if stay.contains sl then some (2 * stay.idxOf sl) else none
      .ok (modArc (moveParity u id pair) id fun b => refitVl { b with vcfg := v, resident := stay })

/-- R106, R108: a write of VCFG goes on, or traps precisely. -/
def vcfgThen (s : State) (id : Nat) (w : BitVec 32) (v : Word) (k : State → State) : State :=
  if !vcfgOk v then trapIllegal s id w
  else
    match switchVcfg s id v with
    | .ok u => k u
    | .error (c, tv, u) => trapHere (modArc u id fun b => { b with lane := 0 }) id c tv

/-- R108. -/
def execSetcVcfg (b : BitVec 5) (s : State) : Res :=
  .next (vcfgThen s s.cur (wordS 0x19 0 b 4 0x002) (reg s s.cur b) fun u => finish u s.cur)

/-! ## The Mezzanine claim (R173, R174) and MXCFG (R176, R184) -/

/-- R173: the claim: MXCFG takes its reset value and ACT becomes 0. -/
def takeClaim (s : State) (id : Nat) : State :=
  modMezz s (coreIdx id) fun m =>
    { m with owner := some ((strandOf s id).issuer, slotIdx id), cfg := Mezz.reset.cfg, act := false,
             waiters := m.waiters.filter (· != slotIdx id) }

/-- R234: the entry that a saved strand with an issuer tag has left in the save lists of its die. -/
def savedEntry (s : State) (core issuer : Nat) : Option Entry :=
  ((dieOf s (core / 128)).landings.map fun l => l.2.saved).flatten.find? fun e => e.issuer == issuer

/-- R174: the bays of a saved Mezzanine owner. -/
def savedOwnerBays (s : State) (core : Nat) : Option (BitVec 4) :=
  match (coreOf s core).mezz.owner with
  | none => none
  | some (g, _) => (savedEntry s core g).map fun e => BitVec.ofNat 4 (fld e.record.dw1 0 4)

/-- R173: the slots of a core whose strands wait for the claim, in the order in which they began to: a strand that has trapped at its
instruction waits no more. -/
def claimWaiters (s : State) (core : Nat) : List Nat :=
  (coreOf s core).mezz.waiters.filter fun k => (strandOf s (4 * core + k)).blocked == some .mezzClaim

/-- R173: the strand waits for the claim. -/
def waitsForClaim (s : State) (id : Nat) : Bool := (claimWaiters s (coreIdx id)).contains (slotIdx id)

/-- R173: a strand waits for the claim, behind those that wait already. While the owner is saved, a strand with a Vault is
made due for pre-emption at once (R174). -/
def awaitClaim (s : State) (id : Nat) : State :=
  let c := coreIdx id
  let u := modMezz s c fun m =>
    { m with waiters := if waitsForClaim s id then m.waiters else m.waiters.filter (· != slotIdx id) ++ [slotIdx id] }
  let v := if (savedOwnerBays s c).isSome && vaultOn (strandOf s id) then modStrand u id fun t => { t with due := true }
    else u
  blockOn v id .mezzClaim

/-- R173: no strand owns the Mezzanine, and the strand is the first that may claim it. -/
def mayClaim (s : State) (id : Nat) : Bool :=
  (coreOf s (coreIdx id)).mezz.owner.isNone && ((claimWaiters s (coreIdx id)).head?.all (· == slotIdx id))

/-- R173: the strand holds the claim, takes it, or waits for it. -/
def claimThen (s : State) (id : Nat) (k : State → State) : State :=
  if ownsMezz s id then k s
  else if mayClaim s id then k (takeClaim s id)
  else awaitClaim s id

/-- R176: a value that MXCFG accepts. -/
def mxcfgOk (v : Word) : Bool := fld v 36 28 == 0 && fld v 24 3 != 7

/-- MXCFG takes a value. -/
def setMxcfg (s : State) (id : Nat) (v : Word) : State := modMezz s (coreIdx id) fun m => { m with cfg := v }

/-- R184. -/
def execSetcMxcfg (b : BitVec 5) (s : State) : Res :=
  let id := s.cur
  let v := reg s id b
  if !mxcfgOk v then .next (trapIllegal s id (wordS 0x19 0 b 4 0x008))
  else .next (claimThen s id fun u => finish (setMxcfg u id v) id)

/-! ## CHAINSRC (R255) -/

/-- R255: the trap that a value of CHAINSRC takes. -/
def chainBad (s : State) (id : Nat) (v : Word) : Option Nat :=
  if fld v 11 1 = 0 then none
  else if fld v 7 2 ≠ dieIdx id then some cILLEGAL
  else if (coreOf s (fld v 0 9)).enabled then none
  else some cCOORD

/-- R255: CHAINSRC takes a value, or the instruction traps. A message that has come from the old source and is not consumed goes back
to its port (R258). -/
def chainsrcThen (s : State) (id : Nat) (w : BitVec 32) (v : Word) (k : State → State) : State :=
  match chainBad s id v with
  | none => k (modArc (returnMessage s id) id fun a => { a with chainsrc := v })
  | some c => if c = cCOORD then trapHere s id c (BitVec.ofNat 64 (fld v 0 9)) else trapWord s id c w

/-- R255: a `SETC` value is not relocated. -/
def execSetcChainsrc (b : BitVec 5) (s : State) : Res :=
  let id := s.cur
  let v := reg s id b
  let w := wordS 0x19 0 b 4 0x00D
  if v &&& ~~~0xBFF ≠ 0 then .next (trapIllegal s id w)
  else .next (chainsrcThen s id w v fun u => finish u id)

/-! ## RRATE (R297) -/

/-- R297: a carrier area lies wholly within one die's range. -/
def carrierInDie (lo hi : Nat) : Bool := decide (hi ≤ memTop) && decide (lo / dieBytes = (hi - 1) / dieBytes)

/-- R297: the carrier area of another valid region meets a range. -/
def carrierClash (s : State) (n lo hi : Nat) : Bool :=
  s.pkg.regions.any fun p => p.1 != n && regionOn p.2 && decide (p.2.rbase.toNat < hi) &&
    decide (lo < carrierEnd p.2 (regionRate p.2))

/-- R9, R297: a value that RRATE of region `n` refuses. -/
def rrateBad (s : State) (n : Nat) (v : Word) : Bool :=
  let r := regionOf s n
  fld v 4 60 != 0 || decide (5 ≤ fld v 1 3) || (regionOn r && fld v 1 3 != regionRate r) ||
    (!regionOn r && fld v 0 1 == 1 && (r.rsize == 0 || !carrierInDie r.rbase.toNat (carrierEnd r (fld v 1 3)) ||
      carrierClash s n r.rbase.toNat (carrierEnd r (fld v 1 3))))

/-- The blocks of region `n` whose decoded lines a home holds. -/
def regionLines (s : State) (n : Nat) : List Nat :=
  (s.mem.coded.filter fun p => p.1 / 2 ^ 34 == n).map fun p => p.1 % 2 ^ 34

/-- RRATE of region `n` takes a value. -/
def setRrate (s : State) (n : Nat) (v : Word) : State := setRegion s n { regionOf s n with rrate := v }

/-- R297: clearing V waits while homes hold lines of the region. -/
def execSetcRrate (b : BitVec 5) (n : BitVec 6) (s : State) : Res :=
  let id := s.cur
  let v := reg s id b
  let w := wordS 0x19 0 b 4 (BitVec.ofNat 11 (0x402 + 8 * n.toNat))
  if stSuper (strandOf s id) = false then .next (trapWord s id cPRIV w)
  else if rrateBad s n.toNat v then .next (trapIllegal s id w)
  else if regionOn (regionOf s n.toNat) && fld v 0 1 == 0 && !(regionLines s n.toNat).isEmpty then
    .next (blockOn s id (.regionDrain n v))
  else .next (finish (setRrate s n.toNat v) id)

/-- The strand that waits for a region's lines, with the value it writes. -/
def regionWaiter (s : State) (n : Nat) : Option (Nat × Word) :=
  s.strands.findSome? fun p =>
    match p.2.blocked with
    | some (.regionDrain m v) => if m.toNat = n then some (p.1, v) else none
    | _ => none

/-- R297, R302: every dirty line of the region has its codec write and every copy is dropped; the clearing write completes. -/
def execRegionDrainDone (n : Nat) (s : State) : Res :=
  match regionWaiter s n with
  | none => .next s
  | some (id, v) =>
    .next (finish (setRrate ((regionLines s n).foldl (fun u j => dropCoded (codecWrite u n j) n j) s) n v) id)

end Sys2Proof.Machine
end

