-- ==== Sys2Proof/Machine/Landings.lean ====
section
/-!
DEFINITION. Landings: descriptors, queues, records and their placement (R76, R77, R260-R264, R267).
-/

namespace Sys2Proof.Machine

/-! ## Descriptors (R261, R262) -/

/-- PRIO. -/
def landingPrio (d : Die) (l : Nat) : Nat := fld (descWord d l 0) 60 2
/-- WDOG. -/
def landingWdog (d : Die) (l : Nat) : Nat := fld (descWord d l 0) 54 6
/-- SLICE. -/
def landingSlice (d : Die) (l : Nat) : Nat := fld (descWord d l 0) 48 6
/-- TVEC. -/
def landingTvec (d : Die) (l : Nat) : Word := BitVec.ofNat 64 (fld (descWord d l 0) 2 46 * 4)
/-- WEIGHT. -/
def landingWeight (d : Die) (l : Nat) : Nat := fld (descWord d l 1) 48 16
/-- VPOOL, as an address. -/
def landingVpool (d : Die) (l : Nat) : Nat := fld (descWord d l 1) 16 32 * 2 ^ 16
/-- VCOUNT. -/
def landingVcount (d : Die) (l : Nat) : Nat := fld (descWord d l 1) 0 12
/-- SPBASE, as a PA. -/
def landingSpbase (d : Die) (l : Nat) : Nat := fld (descWord d l 2) 6 42 * 64
/-- SPCAP. -/
def landingSpcap (d : Die) (l : Nat) : Nat := fld (descWord d l 3) 0 32

/-- R265: the landing's records may be popped. -/
def landingPops (d : Die) (l : Nat) : Bool := landingOn d l && !landingDrains d l

/-- A landing of a die. -/
def landingOf (s : State) (die l : Nat) : Landing := tblGet Landing.reset (dieOf s die).landings l

/-- A landing of a die replaced. -/
def setLanding (s : State) (die l : Nat) (x : Landing) : State :=
  setDie s die { dieOf s die with landings := tblSet (dieOf s die).landings l x }

/-- R261, R262, R277: the controller reads the landing table of its die again: invalid descriptors are reported once, and
strands of a landing that drains are due for pre-emption, but for one in HANDLER with NEST = 1, which is when it has left it. -/
def refreshDescs (s : State) (die : Nat) : State :=
  let d := dieOf s die
  let word := fun i => (BitVec.ofNat 64 (physRead s (d.tableBase + 8 * i) 8) : Word)
  let stage := fun i => (BitVec.ofNat 16 (physRead s (d.tableBase + 0x800 + 2 * i) 2))
  let e := { d with descs := (List.range 256).map fun i => (i, word i),
                    stages := (List.range 256).map fun i => (i, stage i) }
  let bad := (List.range 32).filter (descBad e)
  let new := bad.filter fun l => !d.reported.contains l
  let u := setDie s die { e with reported := (d.reported.filter fun k => 32 ≤ k || bad.contains k) ++ new }
  let v := new.foldl (fun u l => addReport u 262 (32 * die + l)) u
  { v with strands := v.strands.map fun p =>
      if p.1 / 512 = die ∧ (p.2.slot = .run ∨ p.2.slot = .park) ∧ landingDrains e (stLanding p.2) ∧ landingOn e (stLanding p.2) ∧
          fld p.2.vault 0 1 = 1 ∧ stNest p.2 = false then
        (p.1, { p.2 with due := true }) else p }

/-! ## Records (R76, R77) -/

def recBays (r : Record) : Nat := fld r.dw0 61 3
def recLanding (r : Record) : Nat := fld r.dw0 56 5
def recStage (r : Record) : Nat := fld r.dw0 48 8
def recCode (r : Record) : BitVec 48 := BitVec.ofNat 48 r.dw0.toNat
def recCoreAny (r : Record) : Bool := fld r.dw1 61 1 == 1
def recCluAny (r : Record) : Bool := fld r.dw1 57 1 == 1
def recDieAny (r : Record) : Bool := fld r.dw1 52 1 == 1
def recDie (r : Record) : Nat := fld r.dw1 50 2
def recReplay (r : Record) : Nat := fld r.dw1 48 2
def recFrame (r : Record) : Nat := fld r.dw1 0 48
def recJoin (r : Record) : Nat := fld r.dw2 0 48
def recCmpl (r : Record) : Nat := fld r.dw3 0 48

/-- R77: a malformed record. -/
def recBad (r : Record) : Bool :=
  fld r.dw1 62 2 != 0 || fld r.dw2 48 16 != 0 || fld r.dw3 48 16 != 0 || decide (4 < recBays r) || recReplay r == 3 ||
    (recCoreAny r && fld r.dw1 58 3 != 0) || (recCluAny r && fld r.dw1 53 4 != 0) || (recDieAny r && recDie r != 0) ||
    fld r.dw0 0 2 != 0 || recJoin r % 8 != 0 || recCmpl r % 8 != 0

/-- R264: the cores of its die that a record's placement allows. -/
def recPlaces (r : Record) (core : Nat) : Bool :=
  (recCoreAny r || core % 8 == fld r.dw1 58 3) && (recCluAny r || core / 8 % 16 == fld r.dw1 53 4)

/-- R234: the core that a resume record names. -/
def resumeCore (r : Record) : Nat := recDie r * 128 + fld r.dw1 53 4 * 8 + fld r.dw1 58 3

/-- R234: HELD. -/
def resumeHeld (r : Record) : BitVec 4 := BitVec.ofNat 4 (fld r.dw1 0 4)

/-! ## Queues (R263) -/

/-- R263: the landing is full: its 64 on-die entries and its spill ring are in use. -/
def landingFull (s : State) (die l : Nat) : Bool :=
  let x := landingOf s die l
  decide (64 + landingSpcap (dieOf s die) l ≤ x.queue.length + x.spill.length)

/-- R263: the 64 bytes of a spill entry. -/
def spillBytes (e : Entry) : Nat :=
  e.record.dw0.toNat + 2 ^ 64 * (e.record.dw1.toNat + 2 ^ 64 * (e.record.dw2.toNat + 2 ^ 64 *
    (e.record.dw3.toNat + 2 ^ 64 * e.tag)))

/-- R263: the ring index that the next spilled entry takes: the first from `spillNext` on that holds no entry; a purge may have
taken entries away in between (R282). -/
def spillIndex (x : Landing) (cap : Nat) : Nat :=
  (((List.range cap).map fun i => (x.spillNext + i) % cap).find? fun i => !x.spill.any fun q => q.1 == i).getD x.spillNext

/-- R281: the controller sends the Foyer a loss report. -/
def reportLoss (s : State) (tag : Nat) : State :=
  { s with pkg := { s.pkg with foyer := { s.pkg.foyer with losses := s.pkg.foyer.losses ++ [tag] } } }

/-- R263: a spilled entry as its 64 bytes in the ring give it. -/
def spilledEntry (s : State) (die l i : Nat) (e : Entry) : Entry :=
  let k := landingSpbase (dieOf s die) l + 64 * i
  let dw := fun j => (BitVec.ofNat 64 (physRead s (k + 8 * j) 8) : Word)
  { e with record := ⟨dw 0, dw 1, dw 2, dw 3⟩, tag := physRead s (k + 32) 2 }

/-- R263, R281: the record at the head of the spill ring moves on-die; one whose line has an uncorrectable error is lost. -/
def refillHead (s : State) (die l : Nat) : State :=
  let x := landingOf s die l
  match x.spill with
  | [] => s
  | (i, e) :: r =>
    if lineBad s ((landingSpbase (dieOf s die) l + 64 * i) / 64) then reportLoss (setLanding s die l { x with spill := r }) e.tag
    else setLanding s die l { x with queue := x.queue ++ [spilledEntry s die l i e], spill := r }

/-- R263: heads of a full spill ring move on-die, where entries are free, until the ring has a free entry. -/
def makeRoom (die l : Nat) : Nat → State → State
  | 0, s => s
  | n + 1, s =>
    let x := landingOf s die l
    if x.queue.length < 64 ∧ landingSpcap (dieOf s die) l ≤ x.spill.length ∧ x.spill ≠ [] then
      makeRoom die l n (refillHead s die l)
    else s

/-- R263: a record enters at the tail: on-die while there is room there and nothing is spilled, else in the spill ring. -/
def enqueue (s0 : State) (die l : Nat) (e : Entry) : State :=
  let s := makeRoom die l 64 s0
  let x := landingOf s die l
  if x.queue.length < 64 ∧ x.spill.isEmpty then setLanding s die l { x with queue := x.queue ++ [e] }
  else
    let d := dieOf s die
    let i := spillIndex x (landingSpcap d l)
    let u := physWrite s (landingSpbase d l + 64 * i) 64 (spillBytes e)
    setLanding u die l { x with spill := x.spill ++ [(i, e)], spillNext := (i + 1) % max 1 (landingSpcap d l) }

/-- A record as an entry of a queue; the number names it until it is popped and is then the strand's issuer tag. -/
def freshEntry (s : State) (r : Record) (tag : Nat) (foyerJoin : Bool) : Entry × State :=
  (⟨r, tag, foyerJoin, s.pkg.nextIssuer, none, [], []⟩,
    { s with pkg := { s.pkg with nextIssuer := s.pkg.nextIssuer + 1 } })

/-- R263, R281: the head of the spill ring moves on-die once an entry is free there, or is lost. A landing that is not enabled keeps
its records where they are (R262). -/
def execSpillRefill (die landing : Nat) (s : State) : Res :=
  let x := landingOf s die landing
  match x.spill with
  | [] => .next s
  | (i, _) :: _ =>
    if landingOn (dieOf s die) landing && (decide (x.queue.length < 64) ||
        lineBad s ((landingSpbase (dieOf s die) landing + 64 * i) / 64)) then .next (refillHead s die landing)
    else .next s

end Sys2Proof.Machine
end

