-- ==== Sys2Proof/Machine/Bays.lean ====
section
/-!
DEFINITION. Acquiring and releasing bays (R125, R127-R130, R174).
-/

namespace Sys2Proof.Machine

/-- A change to a core. -/
def modCore (s : State) (c : Nat) (f : Core → Core) : State := setCore s c (f (coreOf s c))

/-- R125: a bay whose retired rows do not exceed 64 is enabled. -/
def bayEnabled (k : Core) (b : Nat) : Bool := decide ((listGet [] k.retired b).length ≤ 64)

/-- No strand holds the bay. -/
def bayFree (k : Core) (b : Nat) : Bool := (listGet none k.bayOwner b).isNone

/-- A slot of the core is FREE. -/
def coreHasFreeSlot (s : State) (c : Nat) : Bool :=
  (List.range 4).any fun sl => (strandOf s (4 * c + sl)).slot == .free

/-- R174: the saved owner of a core's Mezzanine. -/
def savedOwner (s : State) (c : Nat) : Option Entry :=
  match (coreOf s c).mezz.owner with
  | none => none
  | some (g, _) => savedEntry s c g

/-- R174: the resume record of a saved Mezzanine owner can be popped: its bays are free, and its landing pops. -/
def ownerReady (s : State) (c : Nat) (e : Entry) : Bool :=
  landingPops (dieOf s (c / 128)) (recLanding e.record) && coreHasFreeSlot s c &&
    (List.range 4).all fun b => bitsOf (resumeHeld e.record).toNat b 1 == 0 || bayFree (coreOf s c) b

/-- R174: bays withheld for a saved Mezzanine owner: from strands without a Vault always, from others once the resume record
can take them. -/
def withheldBays (s : State) (c : Nat) (vault : Bool) : BitVec 4 :=
  match savedOwner s c with
  | none => 0
  | some e => if !vault || ownerReady s c e then resumeHeld e.record else 0

/-- R125, R128: the bays of a core that the strand of an issuer tag with this snapshot may be granted, ascending. A bay disabled
under a strand stays available to that strand alone. -/
def grantable (s : State) (c : Nat) (snap : BitVec 4) (vault : Bool) (issuer : Nat) : List Nat :=
  let k := coreOf s c
  (List.range 4).filter fun b => (bayEnabled k b || k.keepers.contains (b, issuer)) && bayFree k b && bitsOf snap.toNat b 1 == 1 &&
    bitsOf (withheldBays s c vault).toNat b 1 == 0

/-- A mask of bays. -/
def bayMask (bs : List Nat) : BitVec 4 := bs.foldl (fun m b => m ||| (1#4 <<< b)) 0

/-- R128, R130: the vector side of a strand that has just been granted bays: everything cleared. In the two-slot class v16 to v31 take
slot pairs 0 to 15 (log entry 58). -/
def clearedArc (a : Arcade) (bs : List Nat) : Arcade :=
  refitVl { a with bays := bayMask bs, regs := List.replicate 32 [], masks := List.replicate 4 [],
                   codebooks := List.replicate 4 0, written := 0, recency := List.range 32,
                   resident := (List.range 16).map (· + 16) }

/-- R128: the bays are granted: their rows are cleared and their parity is consistent. -/
def grantBays (s : State) (id : Nat) (bs : List Nat) : State :=
  let c := coreIdx id
  let u := modCore s c fun k =>
    { k with bayOwner := bs.foldl (fun l b => listSet none l b (some (slotIdx id))) k.bayOwner,
             bayRequests := k.bayRequests.filter fun q => q.1 != slotIdx id,
             parity := k.parity.filter fun q => !bs.contains q.1 }
  modStrand u id fun t => { t with arc := clearedArc t.arc bs, status := setFld t.status 2 1 0 }

/-- R276: a landing's deficit on a core is set to 0 when none of its strands holds bays there. -/
def resetDeficit (s : State) (c l : Nat) : State :=
  if (List.range 4).any fun sl =>
      let t := strandOf s (4 * c + sl)
      t.slot != .free && stLanding t == l && t.arc.bays != 0 then s
  else modCore s c fun k => { k with deficit := tblDel k.deficit l }

/-- R129: the bays of a strand are given up; its registers, masks and codebooks are dead. -/
def releaseBays (s : State) (id : Nat) : State :=
  let c := coreIdx id
  let u := modCore s c fun k =>
    { k with bayOwner := k.bayOwner.map fun o => if o = some (slotIdx id) then none else o,
             bayRequests := k.bayRequests.filter fun q => q.1 != slotIdx id }
  let v := modStrand u id fun t =>
    { t with status := setFld t.status 2 1 1,
             arc := { clearedArc t.arc [] with vl := 0 } }
  resetDeficit v c (stLanding (strandOf s id))

/-- R128: the oldest request of a core, if it can be served now: the slot and its bays. No younger request passes it, also where it
waits for bays that R174 withholds (log entry 94). -/
def servable (s : State) (c : Nat) : Option (Nat × List Nat) :=
  match (coreOf s c).bayRequests.head? with
  | none => none
  | some (sl, k) =>
    let t := strandOf s (4 * c + sl)
    let g := grantable s c t.arc.snapEnabled (vaultOn t) t.issuer
    if k ≤ g.length then some (sl, g.take k) else none

/-- R128: bays enabled in the snapshot. -/
def snapCount (a : Arcade) : Nat := popN 4 a.snapEnabled.toNat

/-- R128: requests are served in the order in which they reach the core; a request that cannot be served waits. -/
def execVacq (k : BitVec 3) (s : State) : Res :=
  let id := s.cur
  let c := coreIdx id
  let t := strandOf s id
  if k = 0 ∨ 4 < k.toNat ∨ stNoBays t = false ∨ snapCount t.arc < k.toNat then
    .next (trapIllegal s id (wordS 0x19 0 0 8 (k.zeroExtend 11)))
  else
    let asked := (coreOf s c).bayRequests.any fun q => q.1 == slotIdx id
    let u := if asked then s else modCore s c fun q => { q with bayRequests := q.bayRequests ++ [(slotIdx id, k.toNat)] }
    match servable u c with
    | some (sl, bs) => if sl = slotIdx id then .next (finish (grantBays u id bs) id) else .next (blockOn u id (.vacq k))
    | none => .next (blockOn u id (.vacq k))

/-- R128: the oldest waiting request of a core is served, and its VACQ completes. -/
def execBayGrant (core : Nat) (s : State) : Res :=
  match servable s core with
  | none => .next s
  | some (sl, bs) => .next (finish (grantBays s (4 * core + sl) bs) (4 * core + sl))

/-- R129: the strand's links are broken (R214). -/
def execVrel (s : State) : Res :=
  let id := s.cur
  if stNoBays (strandOf s id) then .next (finish s id)
  else .next (finish (breakStrand (releaseBays s id) id) id)

end Sys2Proof.Machine
end

