-- ==== Sys2Proof/Machine/Atomic.lean ====
section
/-!
DEFINITION. SBAR, links and scalar atomics (R54, R55, R210-R217, R222, R224-R226).
-/

namespace Sys2Proof.Machine

/-! ## SBAR -/

/-- R205, R210: an entry of the VIQ makes accesses of a stream of a set, reads among them where only reads count. -/
def entryIn (w : BitVec 5) (reads : Bool) (h : Held) : Bool :=
  let m := h.word.toNat / 2 ^ 26
  let fn := h.word.toNat % 256
  match entryStream h.word with
  | none => false
  | some k => bitsOf w.toNat k 1 == 1 && !(reads && ((m == 0x2C && bitsOf fn 4 3 != 4) || (m == 0x30 && fn == 5)))

/-- R201, R210: as many of the oldest entries of the VIQ as it takes to have made all their accesses of a set. -/
def entriesAhead (t : Strand) (w : BitVec 5) (reads : Bool) : Nat :=
  if behind t then t.arc.viq.zipIdx.foldl (fun n p => if entryIn w reads p.1 then p.2 + 1 else n) 0 else 0

/-- R210: what an SBAR with the sets W and H holds back: accesses of entries in the VIQ, the strand's copy commands, and for other
kinds than acquire its unacknowledged writes. Every other access is performed before the next instruction issues (log entry 2). -/
def sbarHold (s : State) (id : Nat) (w h : BitVec 5) (reads : Bool) : Hold where
  streams := h
  before := if bitsOf w.toNat 3 1 = 1 then (clusterOf s (clusterIdx id)).accepted else 0
  acks := if reads then [] else
    (s.net.unacked.filter fun u => u.issuer == (strandOf s id).issuer && bitsOf w.toNat (u.sid % 8) 1 == 1).map fun u =>
      (u.sid, u.dest, u.seq)
  writes := !reads
  ahead := entriesAhead (strandOf s id) w reads

/-- R210: an SBAR does not stall the control side; streams of H wait while accesses of E are not performed. -/
def sbarOp (w h : BitVec 5) (reads : Bool) (s : State) : State :=
  let id := s.cur
  let x := sbarHold s id w h reads
  let keep := ((strandOf s id).holds ++ if w = 0 ∨ h = 0 then [] else [x]).filter (holdActive s id)
  finish (modStrand s id fun t => { t with holds := keep }) id

def execSbarAcquire (w h : BitVec 5) (_s : BitVec 3) (s : State) : Res := .next (sbarOp w h true s)
def execSbarRelease (w h : BitVec 5) (_s : BitVec 3) (s : State) : Res := .next (sbarOp w h false s)
/-- R210: a full SBAR orders what an acquire and a release at the same place order. -/
def execSbarFull (w h : BitVec 5) (_s : BitVec 3) (s : State) : Res := .next (sbarOp w h false s)

/-- R212, R222: a release of all streams comes before the access; the strand waits at issue while it must. -/
def releaseThen (s : State) (id stream : Nat) (release : Bool) (k : State) : State :=
  if release && unperformed s id then blockOn s id (.remote stream) else k

/-! ## Checks and read-modify-writes at a word -/

/-- R217, R225: a word is checked for an atomic: MISALIGN, PAGE_FAULT, ACCESS. The Atrium takes ACCESS. -/
def atomicTarget (s : State) (ag : Agent) (write : Bool) (a : Word) (z : Nat) : Except XFault Target :=
  if a.toNat % z ≠ 0 then .error (xfault cMISALIGN)
  else if inAtrium a then .error (xfault cACCESS)
  else translate s ag write a

/-- R226: in bring-up mode an operation that needs link tags or the helper is not supported; `amo` says that it is an ADD,
SWAP or CAS, which PCI Express AtomicOps perform on HOST pages. -/
def atomicUnsupported (s : State) (amo : Bool) (t : Target) : Bool :=
  s.pkg.bringUp && !(amo && t matches .host _)

/-- R86, R218: the first of ATOMIC_UNSUPPORTED and MEM_UE: a scalar instruction (stream 0) takes them in this order, a lane of a
vector instruction in the other. -/
def atomicFault (stream : Nat) (unsupported bad : Bool) : Option Nat :=
  if stream = 0 then if unsupported then some cATOMIC_UNSUPPORTED else if bad then some cMEM_UE else none
  else if bad then some cMEM_UE else if unsupported then some cATOMIC_UNSUPPORTED else none

/-- R217: the new value of an operation, or none for a CAS that found another value. -/
def amoNew (op z old b cmp : Nat) : Option Nat :=
  let w := 8 * z
  let m := 2 ^ w
  let less := fun (x y : Nat) => decide (signed w x < signed w y)
  match op with
  | 0 => some ((old + b) % m)
  | 1 => some (if less b old then b else old)
  | 2 => some (if less old b then b else old)
  | 3 => some (min old b)
  | 4 => some (max old b)
  | 5 => some (old &&& b)
  | 6 => some (old ||| b)
  | 7 => some (old ^^^ b)
  | 8 => some b
  | _ => if old = cmp then some b else none

/-- R224: ADD, SWAP and CAS are PCI Express AtomicOps. -/
def hostAmo (op : Nat) : Bool := op == 0 || op == 8 || op == 9

/-- R217, R224: a read-modify-write of `z` bytes at a checked target, in one step at its home. The old value is given. -/
def rmw (s : State) (id stream : Nat) (op : Nat) (t : Target) (z b cmp : Nat) : Acc Nat :=
  let new := amoNew op z (targetRead s (clusterIdx id) t z) b cmp
  if (new.map (nonfiniteWrite s t z)).getD false then .fault cCODED_NONFINITE s
  else
    match atomicFault stream (atomicUnsupported s (hostAmo op) t)
        (targetBad s (clusterIdx id) t z || unreachableTarget s (sidOf id stream) t) with
    | some c => .fault c s
    | none =>
      if streamHeld s id stream [homeDie s t] then .wait (.remote stream) s
      else
        match loadTarget s id stream 2 t z with
        | .ok old u =>
          match amoNew op z old b cmp with
          | some v => .ok old (targetWrite u (clusterIdx id) (strandOf s id).tag t z v)
          | none => .ok old u
        | .fault c u => .fault c u
        | .wait k u => .wait k u

/-- R217: the access size of a Z field. -/
def amoSize (z : BitVec 1) : Nat := if z = 1 then 8 else 4

/-- R217: a value of `z` bytes as sA receives it. -/
def amoWord (z v : Nat) : Word := wordOfInt (signed (8 * z) v)

/-- The low `z` bytes of a word. -/
def lowBytes (z : Nat) (w : Word) : Nat := w.toNat % 2 ^ (8 * z)

/-- R217, R222: a scalar AMO; ORD bit 0 requests release. -/
def amoOp (a b c : BitVec 5) (q : BitVec 2) (z : BitVec 1) (op : Nat) (s : State) : Res :=
  let id := s.cur
  let n := amoSize z
  let p := reg s id b
  match atomicTarget s (agentOf s id) true p n with
  | .error f => .next (trapHere (noteFault s f) id f.cause p)
  | .ok t =>
    .next (releaseThen s id 0 (bitsOf q.toNat 0 1 == 1)
      (scalarThen id p (rmw s id 0 op t n (lowBytes n (reg s id c)) (lowBytes n (reg s id a))) fun old u =>
        finishReg u id a (amoWord n old)))

def execAmoAdd (a b c : BitVec 5) (q : BitVec 2) (z : BitVec 1) (s : State) : Res := amoOp a b c q z 0 s
def execAmoMin (a b c : BitVec 5) (q : BitVec 2) (z : BitVec 1) (s : State) : Res := amoOp a b c q z 1 s
def execAmoMax (a b c : BitVec 5) (q : BitVec 2) (z : BitVec 1) (s : State) : Res := amoOp a b c q z 2 s
def execAmoMinu (a b c : BitVec 5) (q : BitVec 2) (z : BitVec 1) (s : State) : Res := amoOp a b c q z 3 s
def execAmoMaxu (a b c : BitVec 5) (q : BitVec 2) (z : BitVec 1) (s : State) : Res := amoOp a b c q z 4 s
def execAmoAnd (a b c : BitVec 5) (q : BitVec 2) (z : BitVec 1) (s : State) : Res := amoOp a b c q z 5 s
def execAmoOr (a b c : BitVec 5) (q : BitVec 2) (z : BitVec 1) (s : State) : Res := amoOp a b c q z 6 s
def execAmoXor (a b c : BitVec 5) (q : BitVec 2) (z : BitVec 1) (s : State) : Res := amoOp a b c q z 7 s
def execAmoSwap (a b c : BitVec 5) (q : BitVec 2) (z : BitVec 1) (s : State) : Res := amoOp a b c q z 8 s
def execAmoCas (a b c : BitVec 5) (q : BitVec 2) (z : BitVec 1) (s : State) : Res := amoOp a b c q z 9 s

/-! ## Links -/

/-- R213, R216, R217: a linked read of `z` bytes at a checked target: the value is read and the link of the lane placed. -/
def linkedRead (s : State) (id stream : Nat) (lane : Option Nat) (lowest : Bool) (t : Target) (z : Nat) : Acc Nat :=
  match atomicFault stream (atomicUnsupported s false t)
      (targetBad s (clusterIdx id) t z || unreachableTarget s (sidOf id stream) t) with
  | some c => .fault c s
  | none =>
    if streamHeld s id stream [homeDie s t] then .wait (.remote stream) s
    else
      match loadTarget s id stream 2 t z with
      | .ok v u =>
        match targetLine t with
        | some l =>
          .ok v (modStrand (placeTag u ⟨l, some id, lane, false, BitVec.ofNat 64 v, lowest, false⟩) id fun x =>
            { x with linkDeferOver := false, linkCount := 0 })
        | none => .ok v u
      | .fault c u => .fault c u
      | .wait k u => .wait k u

/-- R213: the link of a lane is unbroken and names the line of a target. -/
def linkHolds (s : State) (id : Nat) (lane : Option Nat) (t : Target) : Option TagEntry :=
  (linkOf s id lane).filter fun e => targetLine t == some e.line

/-- R216, R217: a conditional store of `z` bytes at a checked target; the answer says whether it succeeded. On a HOST page it
is a compare-and-swap with the recorded value. The link is used up. Every check comes before the link is looked at. -/
def linkedWrite (s : State) (id stream : Nat) (lane : Option Nat) (t : Target) (z v : Nat) : Acc Bool :=
  if nonfiniteWrite s t z v then .fault cCODED_NONFINITE s
  else if atomicUnsupported s false t then .fault cATOMIC_UNSUPPORTED s
  else
    match linkHolds s id lane t with
    | none => .ok false (consumeLink s id lane)
    | some e =>
      if streamHeld s id stream [homeDie s t] then .wait (.remote stream) s
      else
        match t with
        | .host _ =>
          match loadTarget s id stream 2 t z with
          | .ok old u =>
            if old = lowBytes z e.value then
              .ok true (consumeLink (targetWrite u (clusterIdx id) (strandOf s id).tag t z v) id lane)
            else .ok false (consumeLink u id lane)
          | .fault c u => .fault c u
          | .wait k u => .wait k u
        | _ =>
          if unreachableTarget s (sidOf id stream) t then .fault cMEM_UE s
          else .ok true (consumeLink
            (noteRemote (targetWrite s (clusterIdx id) (strandOf s id).tag t z v) id stream 2 t v) id lane)

/-- R217. -/
def execLdl (a b : BitVec 5) (_q z : BitVec 1) (s : State) : Res :=
  let id := s.cur
  let n := amoSize z
  let p := reg s id b
  match atomicTarget s (agentOf s id) false p n with
  | .error f => .next (trapHere (noteFault s f) id f.cause p)
  | .ok t => .next (scalarThen id p (linkedRead s id 0 none false t n) fun v u => finishReg u id a (amoWord n v))

/-- R217. -/
def execStc (a b c : BitVec 5) (r z : BitVec 1) (s : State) : Res :=
  let id := s.cur
  let n := amoSize z
  let p := reg s id b
  match atomicTarget s (agentOf s id) true p n with
  | .error f => .next (trapHere (noteFault s f) id f.cause p)
  | .ok t =>
    .next (releaseThen s id 0 (r == 1)
      (scalarThen id p (linkedWrite s id 0 none t n (lowBytes n (reg s id c))) fun x u =>
        finishReg u id a (wordOfBool x)))

end Sys2Proof.Machine
end

