-- ==== Sys2Proof/Machine/Fetch.lean ====
section
/-!
DEFINITION. Fetching a word (R36, R63, R73, R74, R294), what comes in from outside, and placing a word where a strand
fetches next.
-/

namespace Sys2Proof.Machine

/-- What a fetch gives: a word, or the state after the trap it takes. -/
inductive Fetched where
  | word (w : BitVec 32)
  | trap (s : State)
  deriving DecidableEq, Repr

/-- R73: a register of pool-map window `w`, as in effect. -/
def poolReg (s : State) (w k : Nat) : Word := tblGet 0 s.pkg.poolNow (4 * w + k)

/-- R73: what a window says of an address: whether it is a pool word, and of a failed bitmap read its address and fault.
The bitmap is read as memory holds it now (log entry 78). PMSIZE and PMMAP are used as written, also where they are no multiples of 4
and 8 (log entry 92). -/
def poolWindow (s : State) (ctx : Nat) (a : Word) (w : Nat) : Bool × Option (Nat × XFault) :=
  let code := poolReg s w 0
  let base := fld code 2 46 * 4
  let v := va48 a
  if fld code 0 1 = 1 ∧ base ≤ v ∧ v < base + fld (poolReg s w 1) 0 32 then
    let i := (v - base) / 4
    let m := (fld (poolReg s w 2) 0 48 + i / 8) % 2 ^ 48
    match translateBitmap s ctx (addr48 m) with
    | .ok t =>
      if targetBad s 0 t 1 then (true, some (m, xfault cMEM_UE))
      else (bitsOf (targetRead s 0 t 1) (i % 8) 1 == 1, none)
    | .error f => (true, some (m, f))
  else (false, none)

/-- R73, R74: the address holds a pool word; failed bitmap reads are reported once, and so are malformed entries (R293). -/
def poolCheck (s : State) (ctx : Nat) (a : Word) : Bool × State :=
  let rs := (List.range 16).map (poolWindow s ctx a)
  (rs.any (·.1), (rs.filterMap (·.2)).foldl (fun u x => addReportOnce (noteFault u x.2) 73 x.1) s)

/-- R36, R63: the word at a strand's program counter, or the trap that its fetch takes. TVAL is the sign-extended address of the
fetch (log entry 77). MEM_UE of the word comes after EXEC_POOL and before the guard words and ILLEGAL (log entry 91). -/
def fetch (s : State) (id : Nat) : Fetched :=
  let t := strandOf s id
  let a : Word := t.pc.signExtend 64
  match translateFetch s (agentOf s id) a with
  | .error f => .trap (takeTrap (noteFault s f) id f.cause a (pcWord t))
  | .ok tg =>
    match poolCheck s (stLanding t) a with
    | (true, u) => .trap (takeTrap u id cEXEC_POOL a (pcWord t))
    | (false, _) =>
      if targetBad s (clusterIdx id) tg 4 then .trap (takeTrap s id cMEM_UE a (pcWord t))
      else .word (BitVec.ofNat 32 (targetRead s (clusterIdx id) tg 4))

/-! ## Inputs from outside -/

/-- R351: a packet whose header a router accepts. -/
def packetOk (p : Packet) : Bool :=
  decide (fld p.hw0 32 4 ≤ 7) && fld p.hw0 30 2 == 0 && fld p.hw1 40 8 == 0 && decide (fld p.hw1 48 7 ≤ 32)

/-- R353: an input port has a free buffer for a packet: one of eight, or the Stair buffer for a packet in the Stair. -/
def inputFree (n : Net) (port : Nat) (esc : Bool) : Bool :=
  decide ((n.waiting.filter fun x => x.port == port && (fld x.packet.hw1 63 1 == 1) == esc).length < if esc then 1 else 8)

/-- R350, R351: a packet arrives at a fabric port; what the router does not accept is discarded and counted. It carries LEN words
of payload. A packet for which the port has no free buffer stays at the neighbour (log entry 65). -/
def packetArrives (s : State) (port : Nat) (p : Packet) : State :=
  if 16 ≤ port ∨ !inputFree s.net port (fld p.hw1 63 1 == 1) then s
  else if packetOk p then
    let q := { p with payload := listFit 0 (fld p.hw1 48 7) p.payload }
    { s with net := { s.net with waiting := s.net.waiting ++ [⟨q, port, none, false⟩] } }
  else addReport { s with net := { s.net with discarded := s.net.discarded + 1 } } 351 p.hw0.toNat

/-- R350: any other TLP is discarded and counted. -/
def otherTlpArrives (s : State) : State := { s with net := { s.net with otherTlps := s.net.otherTlps + 1 } }

/-- R365: a contribution of another package reaches the engine's input. -/
def contributionArrives (s : State) (c : Contribution) : State :=
  { s with pkg := { s.pkg with engine := { s.pkg.engine with arriving := s.pkg.engine.arriving ++ [c] } } }

/-- R352: a written table entry waits for the token's next visit. -/
def routeWritten (s : State) (pkg : Nat) (mask : BitVec 16) (port : Nat) : State :=
  { s with net := { s.net with routesNew := s.net.routesNew ++ [(pkg % 4096, mask, port % 16)] } }

/-- R352: a written FRCFG waits for the token's next visit; a RINGLEN of 0 or above 256 is ignored and reported. -/
def frcfgWritten (s : State) (value : Word) : State :=
  let put := fun (w : Word) => { s with net := { s.net with frcfgNew := some w } }
  let v := value &&& 0x1FFFFC00FFF
  let old := s.net.frcfgNew.getD s.net.frcfg
  let r := fld v 32 9
  if r = 0 ∨ 256 < r then addReport (put (setFld v 32 9 (fld old 32 9))) 352 r else put v

/-- R289, R319: a line takes an uncorrectable error: the copy that L2 holds, or else its DRAM. -/
def memoryFails (s : State) (line : Nat) : State :=
  if (tblFind s.mem.l2 line).isSome then { s with mem := { s.mem with l2Poison := insertNat line s.mem.l2Poison } }
  else poisonLine s line

/-- R238, R289, R319: a corrected error is counted by the Usher. -/
def errorCorrected (s : State) (rule : Nat) : State :=
  let u := s.pkg.usher
  if rule = 238 ∨ rule = 289 ∨ rule = 319 then
    { s with pkg := { s.pkg with usher := { u with corrected := tblSet u.corrected rule (tblGet 0 u.corrected rule + 1) } } }
  else s

/-- R315, R319: wrong symbols of a line read from DRAM: in each 32 bytes a single one is corrected and counted; more are detected
as an uncorrectable error (log entry 66). -/
def symbolsFail (s : State) (line : Nat) (bytes : List Nat) : State :=
  [0, 1].foldl (fun u h =>
    match (bytes.eraseDups.filter fun b => b / 32 == h).length with
    | 0 => u
    | 1 => errorCorrected u 319
    | _ => poisonLine u line) s

/-- R289: a decoded coded line that L2 holds takes an uncorrectable error. -/
def codedFails (s : State) (region block : Nat) : State :=
  if (tblFind s.mem.coded (codedKey region block)).isSome then
    { s with mem := { s.mem with codedPoison := insertNat (codedKey region block) s.mem.codedPoison } }
  else s

/-- R238: an Atrium word takes an uncorrectable error, which is reported. -/
def atriumFails (s : State) (cluster word : Nat) : State :=
  let c := clusterOf s cluster
  addReport (setCluster s cluster { c with poison := insertNat word c.poison }) 238 (cluster * 2 ^ 20 + word)

/-- R123: a slot of a row loses its parity. -/
def parityFails (s : State) (core bay row slot : Nat) : State :=
  let k := coreOf s core
  setCore s core { k with parity := (bay, row, slot) :: k.parity }

/-! ## Placing a word -/

/-- The level-3 table that the placed word's translation uses, at PA 1 GiB; its level-2 table follows it. -/
abbrev placeTable : Nat := 0x40000000

/-- A doubleword written straight to DRAM. -/
def placeBytes (s : State) (k n v : Nat) : State :=
  { s with mem := { s.mem with dram := cellsWrite s.mem.dram k n v, l2 := tblDel s.mem.l2 (k / 64),
                               poison := s.mem.poison.filter (· != k / 64), l2Poison := s.mem.l2Poison.filter (· != k / 64) } }

/-- A word placed where strand `id` fetches next: its context maps the 1 GiB that holds its program counter onto PA 0,
readable, writable and executable at both privileges, and the word stands there. -/
def placeWord (s : State) (id w : Nat) : State :=
  let t := strandOf s id
  let ctx := stLanding t
  let v := t.pc.toNat
  let entry2 := 0x9000000000000050
  let s1 := placeBytes s (placeTable + 8 * walkIndex 3 v) 8 (2 ^ 63 + placeTable + 0x1000)
  let s2 := placeBytes s1 (placeTable + 0x1000 + 8 * walkIndex 2 v) 8 entry2
  let s3 := placeBytes s2 (v % 2 ^ 30) 4 w
  let root : Word := BitVec.ofNat 64 (placeTable + 1)
  let pk := s3.pkg
  { s3 with mem := { s3.mem with tlb := [], lostStacks := [] },
            pkg := { pk with ptroot := tblSet pk.ptroot ctx root, ptrootNow := tblSet pk.ptrootNow ctx root, poolNow := [],
                             regions := pk.regions.filter fun r => !(decide (r.2.rbase.toNat < placeTable + 0x2000) &&
                               decide (placeTable < carrierEnd r.2 (regionRate r.2))),
                             fatal := none } }

/-- A strand made ready to fetch: it runs, waits for nothing, nothing is queued before its next word, and the sequencer of its core
serves it. -/
def readyStrand (s : State) (id : Nat) : State :=
  let u := modStrand s id fun t =>
    { t with slot := .run, blocked := none, stripHead := false, atStrip := false,
             arc := { t.arc with viq := [], waits := none, results := [] } }
  setCore u (coreIdx id) { coreOf u (coreIdx id) with sequencer := some (slotIdx id) }

end Sys2Proof.Machine
end

