-- ==== Sys2Proof/Machine/Vec.lean ====
section
/-!
DEFINITION. The course of a vector instruction: its checks at issue, its chain source, its registers, what it writes, its
charge, and its completion (R105, R116-R118, R132, R134, R258, R259, R275); and VSETCFG, VBEGIN and VNEXT (R136-R138).
-/

namespace Sys2Proof.Machine

/-! ## The chain source (R258, R259) -/

/-- What a vector instruction runs with: the vector side, its own length as VL, and the message that a field naming v30
reads. -/
structure VEnv where
  a : Arcade
  msg : Option (List Word)
  deriving DecidableEq, Repr

/-- R258: the field reads the chain. -/
def chained (a : Arcade) (f : BitVec 5) : Bool := f == 30 && fld a.chainsrc 11 1 == 1

/-- R258: an older request of another consumer waits at the port that a strand's chain source names. -/
def chainContended (s : State) (id : Nat) (a : Arcade) : Bool :=
  (portQueue s (chainCore a) (chainPort a)).head?.any (· != id)

/-- R258: the next message of the port that a strand's chain source names is handed to the strand, whose request is served. -/
def takeMessage (s : State) (id : Nat) : Option State :=
  let a := (strandOf s id).arc
  let c := chainCore a
  let p := chainPort a
  match listGet [] (coreOf s c).ports p with
  | [] => none
  | m :: r =>
    let u := withdrawRequest s id
    let k := coreOf u c
    some (modArc (setCore u c { k with ports := listSet [] k.ports p r }) id fun b => { b with chainIn := some (c, p, m) })

/-- R201, R258: the instruction waits in the VIQ for a message; its request stands behind those that have reached the port before it. -/
def awaitMessage (s : State) (id : Nat) (o : Vop) : State :=
  let a := (strandOf s id).arc
  let q := portQueue s (chainCore a) (chainPort a)
  awaitArray (if q.contains id then s else setPortQueue s (chainCore a) (chainPort a) (q ++ [id])) id o .chain

/-- R258, R259: an instruction whose fields `vs` read the chain waits for a message; COORD when the producer is disabled. -/
def chainThen (s : State) (id : Nat) (o : Vop) (vs : List (BitVec 5)) (k : State → Option (List Word) → State) : State :=
  let a := (strandOf s id).arc
  if vs.any (chained a) then
    match a.chainIn with
    | some m => k s (some m.2.2)
    | none =>
      if !(coreOf s (chainCore a)).enabled then trapArray s id o cCOORD (BitVec.ofNat 64 (chainCore a)) a.lane
      else if chainContended s id a then awaitMessage s id o
      else
        match takeMessage s id with
        | none => awaitMessage s id o
        | some u => k u ((strandOf u id).arc.chainIn.map (·.2.2))
  else k s none

/-- The vector side with the instruction's own length as VL (R258). -/
def envOf (a : Arcade) (msg : Option (List Word)) : VEnv :=
  ⟨match msg with | some m => { a with vl := min a.vl m.length } | none => a, msg⟩

/-- An element of a source field: of the message or of the register operand (R118, R258). -/
def srcW (v : VEnv) (r : BitVec 5) (e : Nat) : Word :=
  match v.msg with
  | some m => if chained v.a r then BitVec.ofNat 64 ((listGet 0 m e).toNat % 2 ^ vTop v.a) else elemW v.a r.toNat e
  | none => elemW v.a r.toNat e

/-- Its low We bits. -/
def srcN (v : VEnv) (r : BitVec 5) (e : Nat) : Nat := (srcW v r e).toNat % 2 ^ vWe v.a

/-- R133: an index element of a source field. -/
def srcIndex (v : VEnv) (r : BitVec 5) (e : Nat) : Nat := (srcW v r e).toNat % 2 ^ vTop v.a

/-! ## The charge (R275) -/

/-- R275: passes of an instruction at element width `w` and group multiplier `g`: the published counts, and a value that the
manual does not give elsewhere (log entry 11). -/
def passesOf (word : BitVec 32) (w g : Nat) : Nat :=
  let open' := Config.passes word w g
  let maj := word.toNat / 2 ^ 26
  let fn := word.toNat % 256
  match maj with
  | 0x22 | 0x23 =>
    if fn ≤ 0x02 ∨ fn = 0x15 ∨ fn = 0x1D then g * (2 * w + 3)
    else if fn = 0x03 ∨ fn = 0x1E then g * (w * w + 3 * w)
    else if fn ≤ 0x05 then g * (2 * w * w + 4 * w)
    else if fn ≤ 0x09 then g * (2 * w * w + 6 * w + 4)
    else if fn ≤ 0x0D then g * (w + 2)
    else if fn ≤ 0x10 then g * (if maj = 0x23 then w + 2 else 7 * w + 14)
    else if fn ≤ 0x14 then g * (4 * w + 4)
    else if fn ≤ 0x19 then g * (2 * w + 6)
    else if fn = 0x1A then g * (w * w + 5 * w + 3)
    else open'
  | 0x26 =>
    if fn % 128 ≤ 0x01 then 2 else if fn % 128 ≤ 0x05 then 2 * w + 2 else open'
  | 0x28 =>
    if fn = 0x00 then 2 else if fn = 0x01 then 4 * w + 4 else if fn = 0x02 then (if w ≤ 32 then 2 else 3)
    else if fn = 0x03 then g * (3 * w + 8) else open'
  | 0x2A =>
    if (0x01 ≤ fn ∧ fn ≤ 0x03) ∨ (0x08 ≤ fn ∧ fn ≤ 0x0B) then g * (w + 2) else open'
  | _ => open'

/-- R275: element-beats are added to the landing's CHARGE on the die and taken from its deficit on the core. -/
def chargeBeats (s : State) (id beats : Nat) : State :=
  let l := stLanding (strandOf s id)
  let d := dieOf s (dieIdx id)
  let ld := tblGet Landing.reset d.landings l
  let u := setDie s (dieIdx id) { d with landings := tblSet d.landings l { ld with charge := ld.charge + BitVec.ofNat 64 beats } }
  let k := coreOf u (coreIdx id)
  setCore u (coreIdx id) { k with deficit := tblSet k.deficit l (tblGet 0 k.deficit l - beats) }

/-- R275: the charge of an instruction; VL = 0 adds nothing. -/
def chargeOp (s : State) (id : Nat) (o : Vop) (v : VEnv) : State :=
  let n := min v.a.vl (lanesOf v.a)
  if n = 0 then s else chargeBeats s id (n * passesOf o.word (vWe v.a) (vG v.a))

/-- R275: the charge of an instruction that trapped at element `e`, after passes for the elements below it; their number is open (log
entry 11). -/
def chargePart (s : State) (id : Nat) (o : Vop) (v : VEnv) (e : Nat) : State :=
  let n := min v.a.vl (lanesOf v.a)
  if n = 0 ∨ e = 0 then s else chargeBeats s id (n * Config.passesTo o.word (vWe v.a) (vG v.a) e)

/-! ## Running -/

/-- The course of a vector instruction up to its effect: the checks at issue, the chain, the swaps, the parity of its
sources, and then `k` with what it runs with. `ds` are fields that always name registers, `vs` those that may read the
chain. -/
def vecRun (s : State) (o : Vop) (bad : Bool) (ds vs : List (BitVec 5)) (src : VEnv → List Source)
    (k : State → VEnv → State) : State :=
  let id := s.cur
  let a := (strandOf s id).arc
  vecIssue s id o bad <|
    chainThen s id o vs fun u m =>
      vecTouch u id o (ds ++ vs.filter fun f => !chained a f) (src (envOf (strandOf u id).arc m)) fun w =>
        k w (envOf (strandOf w id).arc m)

/-- A source field with the elements taken, unless it reads the chain. -/
def srcOf (v : VEnv) (f : BitVec 5) (p : Nat → Bool) : List Source := if chained v.a f then [] else [(f.toNat, p)]

/-- The instruction completes: its effect on the vector side, its flags, its charge; its message is consumed. -/
def vecEnd (s : State) (o : Vop) (v : VEnv) (fl : Word) (f : Arcade → Arcade) : State :=
  let id := s.cur
  let one := fun (b : Arcade) =>
    { f { b with vl := v.a.vl } with vl := b.vl, chainIn := if v.msg.isSome then none else b.chainIn }
  finishV (chargeOp (raise (modArc s id one) id fl) id o v) id

/-- The flags of the elements below VL that `f` writes. -/
def flagsOf {α : Type} (v : VEnv) (f : Nat → Option (Fl α)) : Word :=
  orFlags ((List.range v.a.vl).filterMap fun e => (f e).map (·.2))

/-- R116, R119: the elements of register operand `d` that `f` names are written, with their flags. -/
def vecPart (s : State) (v : VEnv) (d : BitVec 5) (f : Nat → Option (Fl Word)) : State :=
  let wr := fun e => decide (e < v.a.vl) && (f e).isSome
  let put := fun (b : Arcade) =>
    let c := writeElems { b with vl := v.a.vl } d.toNat fun e => (f e).map (·.1)
    { (if (List.range v.a.vl).any wr then clearScale c d.toNat else c) with vl := b.vl }
  raise (modArc (healParity s s.cur d.toNat wr) s.cur put) s.cur (flagsOf v f)

/-- The instruction writes the elements that `f` names, and completes. -/
def vecWrite (s : State) (o : Vop) (v : VEnv) (d : BitVec 5) (fl : Word) (f : Nat → Option (Fl Word)) : State :=
  vecEnd (vecPart s v d f) o v fl fun b => b

/-- The instruction writes the lanes of a mask register that `f` names, and completes. -/
def vecMask (s : State) (o : Vop) (v : VEnv) (d : BitVec 2) (f : Nat → Option (Fl Bool)) : State :=
  vecEnd s o v (flagsOf v f) fun b => writeMask b d.toNat fun e => (f e).map (·.1)

/-- R203: the instruction passes scalars back through the result queue, and completes. -/
def vecScalar (s : State) (o : Vop) (v : VEnv) (fl : Word) (rs : List (BitVec 5 × Word)) : State :=
  vecEnd s o v fl fun b => { b with results := b.results ++ rs }

/-- R203: the oldest scalar result arrives. -/
def execResultQueueReturn (id : Nat) (s : State) : Res :=
  match (strandOf s id).arc.results with
  | [] => .next s
  | (r, v) :: q => .next (modStrand s id fun t => putReg { t with arc := { t.arc with results := q } } r v)

/-! ## Scalars applied to elements (R132) -/

/-- The floating-point format of TYPE. -/
def vFmt (a : Arcade) : FFmt :=
  match typeOf (vType a) (vW a) with
  | .flt f => f
  | _ => fFP32

/-- R132: a scalar as an element of TYPE. -/
def scalarElem (a : Arcade) (x : Word) : Fl Nat :=
  if clsOf (vType a) = .f then toFloat (vFmt a) (readFloat fFP64 x.toNat) else (x.toNat % 2 ^ vWe a, 0)

/-- R132: its flags count when some element is active. -/
def scalarFlags (v : VEnv) (msk : BitVec 2) (mp : BitVec 1) (fl : Word) : Word :=
  if (List.range v.a.vl).any (active v.a msk mp) then fl else 0

/-! ## Configuration and strips -/

/-- R136: VCFG is written, and the resulting VLMAX goes to sA. -/
def execVsetcfg (a b : BitVec 5) (s : State) : Res :=
  let id := s.cur
  let w := wordS 0x20 a b 0 0
  let v := reg s id b
  if !vcfgOk v then .next (trapIllegal s id w)
  else if stNoBays (strandOf s id) then .next (trapDead s id w)
  else .next (vcfgThen s id w v fun u => finishReg u id a (BitVec.ofNat 64 (vlmaxOf (strandOf u id).arc)))

/-- R127: a control-side vector instruction needs bays. -/
def stripThen (s : State) (w : BitVec 32) (k : State) : State :=
  if stNoBays (strandOf s s.cur) then trapDead s s.cur w else k

/-- R115, R137. -/
def execVbegin (a b : BitVec 5) (s : State) : Res :=
  let id := s.cur
  let u := modStrand (modArc s id fun c => refitVl { c with strip := reg s id b, sidx := 0 }) id fun t => { t with stripHead := true }
  .next (stripThen s (wordS 0x20 a b 1 0) (finishReg u id a (BitVec.ofNat 64 (strandOf u id).arc.vl)))

/-- R115: the VNEXT update. -/
def nextStrip (a : Arcade) : Arcade :=
  let n := BitVec.ofNat 64 a.vl
  refitVl { a with strip := a.strip - n, sidx := a.sidx + n }

/-- R138: the strip advances; the branch is taken while elements remain. A target that is not canonical traps as a branch's
does (R52). -/
def execVnext (a : BitVec 5) (o : BitVec 16) (s : State) : Res :=
  let id := s.cur
  let w := wordS 0x21 a 0 0 0 ||| o.zeroExtend 32
  let t := strandOf s id
  let arc := if t.arc.strip = 0 then t.arc else nextStrip t.arc
  let u := setReg (modStrand s id fun x => { x with arc := arc, stripHead := true }) id a (if t.arc.strip = 0 then 0 else BitVec.ofNat 64 arc.vl)
  .next (stripThen s w (
    if arc.strip = 0 then finish u id
    else if canonical (branchTarget t (sext o)) then jumpTo u id (branchTarget t (sext o)) fun x => x
    else trapHere s id cPAGE_FAULT (branchTarget t (sext o))))

end Sys2Proof.Machine
end

