-- ==== Sys2Proof/Machine/VecInt.lean ====
section
/-!
DEFINITION. Integer vector instructions, MAJ 0x22 and 0x23 (R139-R141).
-/

namespace Sys2Proof.Machine

/-! ## Element-wise operations -/

/-- R139: an operation of two sources on the active elements. `f` takes the two patterns and the old element; `sc` says that
VS2 names a scalar, which `conv` turns into an element; `acc` says that the destination is read too; `wide` is the width of
what is written. -/
def vBinOp (w : BitVec 32) (sc acc : Bool) (d a b : BitVec 5) (msk : BitVec 2) (mp : BitVec 1) (s : State)
    (bad : Arcade → Bool) (conv : Arcade → Word → Fl Nat) (wide : Arcade → Nat)
    (f : Arcade → Nat → Nat → Nat → Fl Nat) : Res :=
  let id := s.cur
  let o := vop s id w (if sc then b else 0) 0
  let ar := (strandOf s id).arc
  let vs := if sc then [a] else [a, b]
  .next (vecRun s o (bad ar || badGroups ar (d :: vs)) [d] vs
    (fun v => (vs.map fun r => srcOf v r (active v.a msk mp)).flatten ++
      if acc then [(d.toNat, active v.a msk mp)] else [])
    fun u v =>
      let x := conv v.a o.op1
      vecWrite u o v d (if sc then scalarFlags v msk mp x.2 else 0) fun e =>
        if active v.a msk mp e then
          let r := f v.a (srcN v a e) (if sc then x.1 else srcN v b e) (elemN v.a d.toNat e)
          some (laneValue (wide v.a) r.1, r.2)
        else none)

/-- R139: an operation of one source on the active elements. -/
def vUnOp (w : BitVec 32) (d a : BitVec 5) (msk : BitVec 2) (mp : BitVec 1) (s : State) (bad : Arcade → Bool)
    (wide : Arcade → Nat) (f : Arcade → Nat → Fl Nat) : Res :=
  let id := s.cur
  let ar := (strandOf s id).arc
  let o := vop s id w 0 0
  .next (vecRun s o (bad ar || badGroups ar [d, a]) [d] [a] (fun v => srcOf v a (active v.a msk mp)) fun u v =>
    vecWrite u o v d 0 fun e =>
      if active v.a msk mp e then
        let r := f v.a (srcN v a e)
        some (laneValue (wide v.a) r.1, r.2)
      else none)

/-- R131: TYPE is not an I type. -/
def notInt (a : Arcade) : Bool := !inCls a [.i]

/-- The word of an instruction of MAJ 0x22 or 0x23. -/
def wordInt (fn : BitVec 8) (sc : Bool) (d a b : BitVec 5) (msk : BitVec 2) (mp : BitVec 1) : BitVec 32 :=
  wordV (if sc then 0x23 else 0x22) d a b msk mp fn

/-- An integer operation of two sources at the element width. -/
def vIntOp (fn : BitVec 8) (sc : Bool) (d a b : BitVec 5) (msk : BitVec 2) (mp : BitVec 1) (s : State)
    (f : Nat → Nat → Nat → Fl Nat) : Res :=
  vBinOp (wordInt fn sc d a b msk mp) sc false d a b msk mp s notInt scalarElem vWe fun ar x y _ => f (vWe ar) x y

/-- A bitwise operation, which every class accepts. -/
def vLogicOp (fn : BitVec 8) (sc : Bool) (d a b : BitVec 5) (msk : BitVec 2) (mp : BitVec 1) (s : State)
    (f : Nat → Nat → Nat → Fl Nat) : Res :=
  vBinOp (wordInt fn sc d a b msk mp) sc false d a b msk mp s (fun _ => false) scalarElem vWe fun ar x y _ =>
    f (vWe ar) x y

/-- R132: a scalar that is read whole. -/
def wholeScalar (_ : Arcade) (x : Word) : Fl Nat := (x.toNat, 0)

/-- A shift, whose distance is bits [6:0] of the element or of the whole scalar. -/
def vShiftOp (fn : BitVec 8) (sc : Bool) (d a b : BitVec 5) (msk : BitVec 2) (mp : BitVec 1) (s : State)
    (f : Nat → Nat → Nat → Fl Nat) : Res :=
  vBinOp (wordInt fn sc d a b msk mp) sc false d a b msk mp s notInt wholeScalar vWe fun ar x y _ =>
    f (vWe ar) x (y % 128)

/-! ## The functions of R139, at an element width -/

/-- An exact integer cut to the width. -/
def cut (w : Nat) (x : Int) : Fl Nat := (wrapInt w x, 0)
/-- An exact integer saturated in the signed range. -/
def satS (w : Nat) (x : Int) : Fl Nat := (satInt x (sBounds w).1 (sBounds w).2 flagQSAT).map (wrapInt w) id
/-- An exact integer saturated in the unsigned range. -/
def satU (w : Nat) (x : Int) : Fl Nat := (satInt x (uBounds w).1 (uBounds w).2 flagQSAT).map (wrapInt w) id

def vAddF (w x y : Nat) : Fl Nat := cut w (x + y)
def vSubF (w x y : Nat) : Fl Nat := cut w (x - y)
def vRsubF (w x y : Nat) : Fl Nat := cut w (y - x)
def vMulF (w x y : Nat) : Fl Nat := cut w (x * y)
def vMulhF (w x y : Nat) : Fl Nat := cut w (signed w x * signed w y / 2 ^ w)
def vMulhuF (w x y : Nat) : Fl Nat := (x * y / 2 ^ w, 0)
def vDivF (w x y : Nat) : Fl Nat := cut w (quotS w (signed w x) (signed w y))
def vDivuF (w x y : Nat) : Fl Nat := (quotU w x y, 0)
/-- R83: the remainder of a saturating quotient is 0. -/
def vRemF (w x y : Nat) : Fl Nat := cut w (remS (signed w x) (signed w y))
def vRemuF (_w x y : Nat) : Fl Nat := (remU x y, 0)
def vAndF (_w x y : Nat) : Fl Nat := (x &&& y, 0)
def vOrF (_w x y : Nat) : Fl Nat := (x ||| y, 0)
def vXorF (_w x y : Nat) : Fl Nat := (x ^^^ y, 0)
def vSllF (w x y : Nat) : Fl Nat := (if w ≤ y then 0 else x * 2 ^ y % 2 ^ w, 0)
def vSrlF (w x y : Nat) : Fl Nat := (if w ≤ y then 0 else x / 2 ^ y, 0)
def vSraF (w x y : Nat) : Fl Nat := cut w (signed w x / 2 ^ min y w)
def vMinF (w x y : Nat) : Fl Nat := (if signed w x < signed w y then x else y, 0)
def vMaxF (w x y : Nat) : Fl Nat := (if signed w x < signed w y then y else x, 0)
def vMinuF (_w x y : Nat) : Fl Nat := (min x y, 0)
def vMaxuF (_w x y : Nat) : Fl Nat := (max x y, 0)
def vSaddF (w x y : Nat) : Fl Nat := satS w (signed w x + signed w y)
def vSsubF (w x y : Nat) : Fl Nat := satS w (signed w x - signed w y)
def vSadduF (w x y : Nat) : Fl Nat := satU w (x + y)
def vSsubuF (w x y : Nat) : Fl Nat := satU w ((x : Int) - y)

/-! ## Instructions of two sources -/

def execVadd (d a b : BitVec 5) (msk : BitVec 2) (mp : BitVec 1) (s : State) : Res :=
  vIntOp 0x00 false d a b msk mp s vAddF
def execVaddS (d a b : BitVec 5) (msk : BitVec 2) (mp : BitVec 1) (s : State) : Res :=
  vIntOp 0x00 true d a b msk mp s vAddF
def execVsub (d a b : BitVec 5) (msk : BitVec 2) (mp : BitVec 1) (s : State) : Res :=
  vIntOp 0x01 false d a b msk mp s vSubF
def execVsubS (d a b : BitVec 5) (msk : BitVec 2) (mp : BitVec 1) (s : State) : Res :=
  vIntOp 0x01 true d a b msk mp s vSubF
def execVrsub (d a b : BitVec 5) (msk : BitVec 2) (mp : BitVec 1) (s : State) : Res :=
  vIntOp 0x02 false d a b msk mp s vRsubF
def execVrsubS (d a b : BitVec 5) (msk : BitVec 2) (mp : BitVec 1) (s : State) : Res :=
  vIntOp 0x02 true d a b msk mp s vRsubF
def execVmul (d a b : BitVec 5) (msk : BitVec 2) (mp : BitVec 1) (s : State) : Res :=
  vIntOp 0x03 false d a b msk mp s vMulF
def execVmulS (d a b : BitVec 5) (msk : BitVec 2) (mp : BitVec 1) (s : State) : Res :=
  vIntOp 0x03 true d a b msk mp s vMulF
def execVmulh (d a b : BitVec 5) (msk : BitVec 2) (mp : BitVec 1) (s : State) : Res :=
  vIntOp 0x04 false d a b msk mp s vMulhF
def execVmulhS (d a b : BitVec 5) (msk : BitVec 2) (mp : BitVec 1) (s : State) : Res :=
  vIntOp 0x04 true d a b msk mp s vMulhF
def execVmulhu (d a b : BitVec 5) (msk : BitVec 2) (mp : BitVec 1) (s : State) : Res :=
  vIntOp 0x05 false d a b msk mp s vMulhuF
def execVmulhuS (d a b : BitVec 5) (msk : BitVec 2) (mp : BitVec 1) (s : State) : Res :=
  vIntOp 0x05 true d a b msk mp s vMulhuF
def execVdiv (d a b : BitVec 5) (msk : BitVec 2) (mp : BitVec 1) (s : State) : Res :=
  vIntOp 0x06 false d a b msk mp s vDivF
def execVdivS (d a b : BitVec 5) (msk : BitVec 2) (mp : BitVec 1) (s : State) : Res :=
  vIntOp 0x06 true d a b msk mp s vDivF
def execVdivu (d a b : BitVec 5) (msk : BitVec 2) (mp : BitVec 1) (s : State) : Res :=
  vIntOp 0x07 false d a b msk mp s vDivuF
def execVdivuS (d a b : BitVec 5) (msk : BitVec 2) (mp : BitVec 1) (s : State) : Res :=
  vIntOp 0x07 true d a b msk mp s vDivuF
def execVrem (d a b : BitVec 5) (msk : BitVec 2) (mp : BitVec 1) (s : State) : Res :=
  vIntOp 0x08 false d a b msk mp s vRemF
def execVremS (d a b : BitVec 5) (msk : BitVec 2) (mp : BitVec 1) (s : State) : Res :=
  vIntOp 0x08 true d a b msk mp s vRemF
def execVremu (d a b : BitVec 5) (msk : BitVec 2) (mp : BitVec 1) (s : State) : Res :=
  vIntOp 0x09 false d a b msk mp s vRemuF
def execVremuS (d a b : BitVec 5) (msk : BitVec 2) (mp : BitVec 1) (s : State) : Res :=
  vIntOp 0x09 true d a b msk mp s vRemuF
def execVmin (d a b : BitVec 5) (msk : BitVec 2) (mp : BitVec 1) (s : State) : Res :=
  vIntOp 0x11 false d a b msk mp s vMinF
def execVminS (d a b : BitVec 5) (msk : BitVec 2) (mp : BitVec 1) (s : State) : Res :=
  vIntOp 0x11 true d a b msk mp s vMinF
def execVmax (d a b : BitVec 5) (msk : BitVec 2) (mp : BitVec 1) (s : State) : Res :=
  vIntOp 0x12 false d a b msk mp s vMaxF
def execVmaxS (d a b : BitVec 5) (msk : BitVec 2) (mp : BitVec 1) (s : State) : Res :=
  vIntOp 0x12 true d a b msk mp s vMaxF
def execVminu (d a b : BitVec 5) (msk : BitVec 2) (mp : BitVec 1) (s : State) : Res :=
  vIntOp 0x13 false d a b msk mp s vMinuF
def execVminuS (d a b : BitVec 5) (msk : BitVec 2) (mp : BitVec 1) (s : State) : Res :=
  vIntOp 0x13 true d a b msk mp s vMinuF
def execVmaxu (d a b : BitVec 5) (msk : BitVec 2) (mp : BitVec 1) (s : State) : Res :=
  vIntOp 0x14 false d a b msk mp s vMaxuF
def execVmaxuS (d a b : BitVec 5) (msk : BitVec 2) (mp : BitVec 1) (s : State) : Res :=
  vIntOp 0x14 true d a b msk mp s vMaxuF
def execVsadd (d a b : BitVec 5) (msk : BitVec 2) (mp : BitVec 1) (s : State) : Res :=
  vIntOp 0x16 false d a b msk mp s vSaddF
def execVsaddS (d a b : BitVec 5) (msk : BitVec 2) (mp : BitVec 1) (s : State) : Res :=
  vIntOp 0x16 true d a b msk mp s vSaddF
def execVssub (d a b : BitVec 5) (msk : BitVec 2) (mp : BitVec 1) (s : State) : Res :=
  vIntOp 0x17 false d a b msk mp s vSsubF
def execVssubS (d a b : BitVec 5) (msk : BitVec 2) (mp : BitVec 1) (s : State) : Res :=
  vIntOp 0x17 true d a b msk mp s vSsubF
def execVsaddu (d a b : BitVec 5) (msk : BitVec 2) (mp : BitVec 1) (s : State) : Res :=
  vIntOp 0x18 false d a b msk mp s vSadduF
def execVsadduS (d a b : BitVec 5) (msk : BitVec 2) (mp : BitVec 1) (s : State) : Res :=
  vIntOp 0x18 true d a b msk mp s vSadduF
def execVssubu (d a b : BitVec 5) (msk : BitVec 2) (mp : BitVec 1) (s : State) : Res :=
  vIntOp 0x19 false d a b msk mp s vSsubuF
def execVssubuS (d a b : BitVec 5) (msk : BitVec 2) (mp : BitVec 1) (s : State) : Res :=
  vIntOp 0x19 true d a b msk mp s vSsubuF
def execVand (d a b : BitVec 5) (msk : BitVec 2) (mp : BitVec 1) (s : State) : Res :=
  vLogicOp 0x0a false d a b msk mp s vAndF
def execVandS (d a b : BitVec 5) (msk : BitVec 2) (mp : BitVec 1) (s : State) : Res :=
  vLogicOp 0x0a true d a b msk mp s vAndF
def execVor (d a b : BitVec 5) (msk : BitVec 2) (mp : BitVec 1) (s : State) : Res :=
  vLogicOp 0x0b false d a b msk mp s vOrF
def execVorS (d a b : BitVec 5) (msk : BitVec 2) (mp : BitVec 1) (s : State) : Res :=
  vLogicOp 0x0b true d a b msk mp s vOrF
def execVxor (d a b : BitVec 5) (msk : BitVec 2) (mp : BitVec 1) (s : State) : Res :=
  vLogicOp 0x0c false d a b msk mp s vXorF
def execVxorS (d a b : BitVec 5) (msk : BitVec 2) (mp : BitVec 1) (s : State) : Res :=
  vLogicOp 0x0c true d a b msk mp s vXorF
def execVsll (d a b : BitVec 5) (msk : BitVec 2) (mp : BitVec 1) (s : State) : Res :=
  vShiftOp 0x0e false d a b msk mp s vSllF
def execVsllS (d a b : BitVec 5) (msk : BitVec 2) (mp : BitVec 1) (s : State) : Res :=
  vShiftOp 0x0e true d a b msk mp s vSllF
def execVsrl (d a b : BitVec 5) (msk : BitVec 2) (mp : BitVec 1) (s : State) : Res :=
  vShiftOp 0x0f false d a b msk mp s vSrlF
def execVsrlS (d a b : BitVec 5) (msk : BitVec 2) (mp : BitVec 1) (s : State) : Res :=
  vShiftOp 0x0f true d a b msk mp s vSrlF
def execVsra (d a b : BitVec 5) (msk : BitVec 2) (mp : BitVec 1) (s : State) : Res :=
  vShiftOp 0x10 false d a b msk mp s vSraF
def execVsraS (d a b : BitVec 5) (msk : BitVec 2) (mp : BitVec 1) (s : State) : Res :=
  vShiftOp 0x10 true d a b msk mp s vSraF

/-- R139: a x b + vd, low We bits. -/
def vMaddOp (sc : Bool) (d a b : BitVec 5) (msk : BitVec 2) (mp : BitVec 1) (s : State) : Res :=
  vBinOp (wordInt 0x1A sc d a b msk mp) sc true d a b msk mp s notInt scalarElem vWe fun ar x y z =>
    cut (vWe ar) (x * y + z)

def execVmadd (d a b : BitVec 5) (msk : BitVec 2) (mp : BitVec 1) (s : State) : Res := vMaddOp false d a b msk mp s
def execVmaddS (d a b : BitVec 5) (msk : BitVec 2) (mp : BitVec 1) (s : State) : Res := vMaddOp true d a b msk mp s

/-! ## Unary instructions -/

def execVnot (d a : BitVec 5) (msk : BitVec 2) (mp : BitVec 1) (s : State) : Res :=
  vUnOp (wordInt 0x0D false d a 0 msk mp) d a msk mp s (fun _ => false) vWe fun ar x => (2 ^ vWe ar - 1 - x, 0)
def execVneg (d a : BitVec 5) (msk : BitVec 2) (mp : BitVec 1) (s : State) : Res :=
  vUnOp (wordInt 0x15 false d a 0 msk mp) d a msk mp s notInt vWe fun ar x => cut (vWe ar) (-(x : Int))
def execVclz (d a : BitVec 5) (msk : BitVec 2) (mp : BitVec 1) (s : State) : Res :=
  vUnOp (wordInt 0x1B false d a 0 msk mp) d a msk mp s notInt vWe fun ar x => (clzN (vWe ar) x, 0)
def execVpopc (d a : BitVec 5) (msk : BitVec 2) (mp : BitVec 1) (s : State) : Res :=
  vUnOp (wordInt 0x1C false d a 0 msk mp) d a msk mp s notInt vWe fun ar x => (popN (vWe ar) x, 0)

/-- R140: a bit field of every element, under a control read whole. -/
def execVfieldS (d a b : BitVec 5) (msk : BitVec 2) (mp : BitVec 1) (s : State) : Res :=
  vBinOp (wordInt 0x21 true d a b msk mp) true false d a b msk mp s notInt wholeScalar vWe fun _ x y _ =>
    (x / 2 ^ (y % 64) % 2 ^ (bitsOf y 8 6 + 1), 0)

/-! ## Widening and narrowing (R141) -/

/-- R141: TYPE is not a wide type. -/
def notWide (a : Arcade) : Bool :=
  let t := vType a
  !(((t == 0x21 || t == 0x22) && vW a % 2 == 0) || t == 0x1F || t == 0x00 || t == 0x02 || t == 0x01)

/-- The narrow width. -/
def vWn (a : Arcade) : Nat := vWe a / 2

/-- `ext` of R141: bits read by the signedness of TYPE. -/
def vExt (a : Arcade) (w x : Nat) : Int := if signedCode (vType a) then signed w x else ((x % 2 ^ w : Nat) : Int)

/-- R141: the low Wn bits of the operands, extended and combined exactly. -/
def vWidenOp (fn : BitVec 8) (sc : Bool) (d a b : BitVec 5) (msk : BitVec 2) (mp : BitVec 1) (s : State)
    (f : Int → Int → Int) : Res :=
  vBinOp (wordInt fn sc d a b msk mp) sc false d a b msk mp s notWide wholeScalar vWe fun ar x y _ =>
    cut (vWe ar) (f (vExt ar (vWn ar) x) (vExt ar (vWn ar) y))

def execVwadd (d a b : BitVec 5) (msk : BitVec 2) (mp : BitVec 1) (s : State) : Res :=
  vWidenOp 0x1D false d a b msk mp s fun x y => x + y
def execVwaddS (d a b : BitVec 5) (msk : BitVec 2) (mp : BitVec 1) (s : State) : Res :=
  vWidenOp 0x1D true d a b msk mp s fun x y => x + y
def execVwmul (d a b : BitVec 5) (msk : BitVec 2) (mp : BitVec 1) (s : State) : Res :=
  vWidenOp 0x1E false d a b msk mp s fun x y => x * y
def execVwmulS (d a b : BitVec 5) (msk : BitVec 2) (mp : BitVec 1) (s : State) : Res :=
  vWidenOp 0x1E true d a b msk mp s fun x y => x * y

/-- R141: a narrowing shift; the distance is bits [6:0]. -/
def vNarrowOp (fn : BitVec 8) (sc : Bool) (d a b : BitVec 5) (msk : BitVec 2) (mp : BitVec 1) (s : State)
    (f : Arcade → Nat → Nat → Fl Nat) : Res :=
  vBinOp (wordInt fn sc d a b msk mp) sc false d a b msk mp s notWide wholeScalar vWn fun ar x y _ => f ar x (y % 128)

/-- R141: a logical shift, cut to Wn bits. -/
def vNsrlF (_a : Arcade) (x y : Nat) : Fl Nat := (x / 2 ^ y, 0)

/-- R141: ext(a) / 2^d, ties to even, saturated in the Wn-bit range. -/
def vNclipF (a : Arcade) (x y : Nat) : Fl Nat :=
  let r := rneInt (vExt a (vWe a) x) y
  if signedCode (vType a) then satS (vWn a) r else satU (vWn a) r

def execVnsrl (d a b : BitVec 5) (msk : BitVec 2) (mp : BitVec 1) (s : State) : Res :=
  vNarrowOp 0x1F false d a b msk mp s vNsrlF
def execVnsrlS (d a b : BitVec 5) (msk : BitVec 2) (mp : BitVec 1) (s : State) : Res :=
  vNarrowOp 0x1F true d a b msk mp s vNsrlF
def execVnclip (d a b : BitVec 5) (msk : BitVec 2) (mp : BitVec 1) (s : State) : Res :=
  vNarrowOp 0x20 false d a b msk mp s vNclipF
def execVnclipS (d a b : BitVec 5) (msk : BitVec 2) (mp : BitVec 1) (s : State) : Res :=
  vNarrowOp 0x20 true d a b msk mp s vNclipF

end Sys2Proof.Machine
end

