-- ==== Sys2Proof/Machine/VecFloat.lean ====
section
/-!
DEFINITION. Floating-point vector instructions, MAJ 0x24 and 0x25 (R142-R145).
-/

namespace Sys2Proof.Machine

/-- R131: TYPE is not an F type. -/
def notFloat (a : Arcade) : Bool := !inCls a [.f]

/-- The word of an instruction of MAJ 0x24 or 0x25. -/
def wordFlt (fn : BitVec 8) (sc : Bool) (d a b : BitVec 5) (msk : BitVec 2) (mp : BitVec 1) : BitVec 32 :=
  wordV (if sc then 0x25 else 0x24) d a b msk mp fn

/-- R142: an operation of two sources in the element format. -/
def vFltOp (fn : BitVec 8) (sc : Bool) (d a b : BitVec 5) (msk : BitVec 2) (mp : BitVec 1) (s : State)
    (f : FFmt → Nat → Nat → Fl Nat) : Res :=
  vBinOp (wordFlt fn sc d a b msk mp) sc false d a b msk mp s notFloat scalarElem vWe fun ar x y _ => f (vFmt ar) x y

def execVfadd (d a b : BitVec 5) (msk : BitVec 2) (mp : BitVec 1) (s : State) : Res :=
  vFltOp 0x00 false d a b msk mp s fpAdd
def execVfaddS (d a b : BitVec 5) (msk : BitVec 2) (mp : BitVec 1) (s : State) : Res :=
  vFltOp 0x00 true d a b msk mp s fpAdd
def execVfsub (d a b : BitVec 5) (msk : BitVec 2) (mp : BitVec 1) (s : State) : Res :=
  vFltOp 0x01 false d a b msk mp s fpSub
def execVfsubS (d a b : BitVec 5) (msk : BitVec 2) (mp : BitVec 1) (s : State) : Res :=
  vFltOp 0x01 true d a b msk mp s fpSub
def execVfmul (d a b : BitVec 5) (msk : BitVec 2) (mp : BitVec 1) (s : State) : Res :=
  vFltOp 0x02 false d a b msk mp s fpMul
def execVfmulS (d a b : BitVec 5) (msk : BitVec 2) (mp : BitVec 1) (s : State) : Res :=
  vFltOp 0x02 true d a b msk mp s fpMul
def execVfdiv (d a b : BitVec 5) (msk : BitVec 2) (mp : BitVec 1) (s : State) : Res :=
  vFltOp 0x03 false d a b msk mp s fpDiv
def execVfdivS (d a b : BitVec 5) (msk : BitVec 2) (mp : BitVec 1) (s : State) : Res :=
  vFltOp 0x03 true d a b msk mp s fpDiv
def execVfmin (d a b : BitVec 5) (msk : BitVec 2) (mp : BitVec 1) (s : State) : Res :=
  vFltOp 0x06 false d a b msk mp s (fpPick true)
def execVfminS (d a b : BitVec 5) (msk : BitVec 2) (mp : BitVec 1) (s : State) : Res :=
  vFltOp 0x06 true d a b msk mp s (fpPick true)
def execVfmax (d a b : BitVec 5) (msk : BitVec 2) (mp : BitVec 1) (s : State) : Res :=
  vFltOp 0x07 false d a b msk mp s (fpPick false)
def execVfmaxS (d a b : BitVec 5) (msk : BitVec 2) (mp : BitVec 1) (s : State) : Res :=
  vFltOp 0x07 true d a b msk mp s (fpPick false)

/-- R142: a x b + vd, one rounding. -/
def vFmaOp (sc : Bool) (d a b : BitVec 5) (msk : BitVec 2) (mp : BitVec 1) (s : State) : Res :=
  vBinOp (wordFlt 0x05 sc d a b msk mp) sc true d a b msk mp s notFloat scalarElem vWe fun ar x y z =>
    fpFma (vFmt ar) x y z

def execVfma (d a b : BitVec 5) (msk : BitVec 2) (mp : BitVec 1) (s : State) : Res := vFmaOp false d a b msk mp s
def execVfmaS (d a b : BitVec 5) (msk : BitVec 2) (mp : BitVec 1) (s : State) : Res := vFmaOp true d a b msk mp s

/-- An operation of one source in the element format. -/
def vFltUn (fn : BitVec 8) (d a : BitVec 5) (msk : BitVec 2) (mp : BitVec 1) (s : State) (f : FFmt → Nat → Fl Nat) : Res :=
  vUnOp (wordFlt fn false d a 0 msk mp) d a msk mp s notFloat vWe fun ar x => f (vFmt ar) x

def execVfsqrt (d a : BitVec 5) (msk : BitVec 2) (mp : BitVec 1) (s : State) : Res := vFltUn 0x04 d a msk mp s fpSqrt
def execVlog2 (d a : BitVec 5) (msk : BitVec 2) (mp : BitVec 1) (s : State) : Res := vFltUn 0x0A d a msk mp s fpLog2
def execVexp2 (d a : BitVec 5) (msk : BitVec 2) (mp : BitVec 1) (s : State) : Res := vFltUn 0x0B d a msk mp s fpExp2

/-- R145: the class word, which may be wider than the element; zeros above it. -/
def execVfclass (d a : BitVec 5) (msk : BitVec 2) (mp : BitVec 1) (s : State) : Res :=
  vUnOp (wordFlt 0x09 false d a 0 msk mp) d a msk mp s notFloat (fun _ => 5) fun ar x => (fpClass (vFmt ar) x, 0)

/-! ## Conversion between TYPE and a named format (R143) -/

/-- R143: the format that a selector names. -/
def cvtFormat (sel : BitVec 5) : Option EType :=
  match sel.toNat % 16 with
  | 0 => some (.flt fFP64)
  | 1 => some (.flt fFP32)
  | 2 => some (.flt fFP19)
  | 3 => some (.flt fFP16)
  | 4 => some (.flt fBF16)
  | 5 => some (.flt fE4M3)
  | 6 => some (.flt fE5M2)
  | 7 => some (.flt fE3M4)
  | 8 => some (.flt fE3M2)
  | 9 => some (.flt fE2M3)
  | 10 => some (.flt fE2M1)
  | 11 => some (.sint 32)
  | 12 => some (.uint 32)
  | 13 => some (.sint 64)
  | 14 => some (.uint 64)
  | _ => none

/-- R143: an element of one type converted to another. -/
def convertElem (src dst : EType) (x : Nat) : Fl Nat :=
  match src, dst with
  | .flt f, .flt g => fpConvert f g x
  | _, _ => toElem dst (readElem 0 src x).1

/-- R143: a selector that is not listed, or one whose format needs the two-slot class. -/
def cvtBad (a : Arcade) (sel : BitVec 5) : Bool :=
  match cvtFormat sel with
  | none => true
  | some f => decide (32 < etWidth f) && !vTwo a

/-- R143: bit [4] of the selector gives the direction. -/
def execVfcvt (d a sel : BitVec 5) (msk : BitVec 2) (mp : BitVec 1) (s : State) : Res :=
  let id := s.cur
  let ar := (strandOf s id).arc
  let o := vop s id (wordFlt 0x08 false d a sel msk mp) 0 0
  let f := (cvtFormat sel).getD (.flt fFP32)
  let t := typeOf (vType ar) (vW ar)
  let out := fld (sel.zeroExtend 64) 4 1 == 1
  let src := if out then t else f
  let dst := if out then f else t
  .next (vecRun s o (!inCls ar [.i, .f] || cvtBad ar sel || badGroups ar [d, a]) [d] [a]
    (fun v => srcOf v a (active v.a msk mp)) fun u v =>
      vecWrite u o v d 0 fun e =>
        if active v.a msk mp e then
          let r := convertElem src dst ((srcW v a e).toNat % 2 ^ etWidth src)
          some (laneValue (etWidth dst) r.1, r.2)
        else none)

end Sys2Proof.Machine
end

