-- ==== Sys2Proof/Machine/VecMask.lean ====
section
/-!
DEFINITION. Compares and mask algebra, MAJ 0x26 and 0x27 (R117, R146-R149).
-/

namespace Sys2Proof.Machine

/-- R117: a mask writer or reader under G > 1. -/
def grouped (a : Arcade) : Bool := vG a != 1

/-- R146: a relation of every active element written to a mask. -/
def vCmpOp (fn : BitVec 8) (sc : Bool) (d : BitVec 2) (a b : BitVec 5) (msk : BitVec 2) (mp : BitVec 1) (s : State)
    (bad : Arcade → Bool) (f : Arcade → Nat → Nat → Fl Bool) : Res :=
  let id := s.cur
  let o := vop s id (wordV 0x26 (d.zeroExtend 5) a b msk mp (if sc then fn ||| 0x80 else fn)) (if sc then b else 0) 0
  let ar := (strandOf s id).arc
  let vs := if sc then [a] else [a, b]
  .next (vecRun s o (bad ar || grouped ar) [] vs (fun v => (vs.map fun r => srcOf v r (active v.a msk mp)).flatten)
    fun u v =>
      let x := scalarElem v.a o.op1
      vecMask (if sc then raise u id (scalarFlags v msk mp x.2) else u) o v d fun e =>
        if active v.a msk mp e then some (f v.a (srcN v a e) (if sc then x.1 else srcN v b e)) else none)

/-- An integer relation. -/
def vIntCmp (fn : BitVec 8) (sc : Bool) (d : BitVec 2) (a b : BitVec 5) (msk : BitVec 2) (mp : BitVec 1) (s : State)
    (f : Nat → Nat → Nat → Bool) : Res :=
  vCmpOp fn sc d a b msk mp s notInt fun ar x y => (f (vWe ar) x y, 0)

/-- A floating-point relation. -/
def vFltCmp (fn : BitVec 8) (sc : Bool) (d : BitVec 2) (a b : BitVec 5) (msk : BitVec 2) (mp : BitVec 1) (s : State)
    (f : FFmt → Nat → Nat → Fl Bool) : Res :=
  vCmpOp fn sc d a b msk mp s notFloat fun ar x y => f (vFmt ar) x y

def cmpEqF (_w x y : Nat) : Bool := x == y
def cmpNeF (_w x y : Nat) : Bool := x != y
def cmpLtF (w x y : Nat) : Bool := decide (signed w x < signed w y)
def cmpLtuF (_w x y : Nat) : Bool := decide (x < y)
def cmpLeF (w x y : Nat) : Bool := decide (signed w x ≤ signed w y)
def cmpLeuF (_w x y : Nat) : Bool := decide (x ≤ y)

def execVcmpeq (d : BitVec 2) (a b : BitVec 5) (msk : BitVec 2) (mp : BitVec 1) (s : State) : Res :=
  vIntCmp 0x00 false d a b msk mp s cmpEqF
def execVcmpeqS (d : BitVec 2) (a b : BitVec 5) (msk : BitVec 2) (mp : BitVec 1) (s : State) : Res :=
  vIntCmp 0x00 true d a b msk mp s cmpEqF
def execVcmpne (d : BitVec 2) (a b : BitVec 5) (msk : BitVec 2) (mp : BitVec 1) (s : State) : Res :=
  vIntCmp 0x01 false d a b msk mp s cmpNeF
def execVcmpneS (d : BitVec 2) (a b : BitVec 5) (msk : BitVec 2) (mp : BitVec 1) (s : State) : Res :=
  vIntCmp 0x01 true d a b msk mp s cmpNeF
def execVcmplt (d : BitVec 2) (a b : BitVec 5) (msk : BitVec 2) (mp : BitVec 1) (s : State) : Res :=
  vIntCmp 0x02 false d a b msk mp s cmpLtF
def execVcmpltS (d : BitVec 2) (a b : BitVec 5) (msk : BitVec 2) (mp : BitVec 1) (s : State) : Res :=
  vIntCmp 0x02 true d a b msk mp s cmpLtF
def execVcmpltu (d : BitVec 2) (a b : BitVec 5) (msk : BitVec 2) (mp : BitVec 1) (s : State) : Res :=
  vIntCmp 0x03 false d a b msk mp s cmpLtuF
def execVcmpltuS (d : BitVec 2) (a b : BitVec 5) (msk : BitVec 2) (mp : BitVec 1) (s : State) : Res :=
  vIntCmp 0x03 true d a b msk mp s cmpLtuF
def execVcmple (d : BitVec 2) (a b : BitVec 5) (msk : BitVec 2) (mp : BitVec 1) (s : State) : Res :=
  vIntCmp 0x04 false d a b msk mp s cmpLeF
def execVcmpleS (d : BitVec 2) (a b : BitVec 5) (msk : BitVec 2) (mp : BitVec 1) (s : State) : Res :=
  vIntCmp 0x04 true d a b msk mp s cmpLeF
def execVcmpleu (d : BitVec 2) (a b : BitVec 5) (msk : BitVec 2) (mp : BitVec 1) (s : State) : Res :=
  vIntCmp 0x05 false d a b msk mp s cmpLeuF
def execVcmpleuS (d : BitVec 2) (a b : BitVec 5) (msk : BitVec 2) (mp : BitVec 1) (s : State) : Res :=
  vIntCmp 0x05 true d a b msk mp s cmpLeuF
def execVfcmpeq (d : BitVec 2) (a b : BitVec 5) (msk : BitVec 2) (mp : BitVec 1) (s : State) : Res :=
  vFltCmp 0x08 false d a b msk mp s fpEq
def execVfcmpeqS (d : BitVec 2) (a b : BitVec 5) (msk : BitVec 2) (mp : BitVec 1) (s : State) : Res :=
  vFltCmp 0x08 true d a b msk mp s fpEq
def execVfcmplt (d : BitVec 2) (a b : BitVec 5) (msk : BitVec 2) (mp : BitVec 1) (s : State) : Res :=
  vFltCmp 0x09 false d a b msk mp s fpLt
def execVfcmpltS (d : BitVec 2) (a b : BitVec 5) (msk : BitVec 2) (mp : BitVec 1) (s : State) : Res :=
  vFltCmp 0x09 true d a b msk mp s fpLt
def execVfcmple (d : BitVec 2) (a b : BitVec 5) (msk : BitVec 2) (mp : BitVec 1) (s : State) : Res :=
  vFltCmp 0x0a false d a b msk mp s fpLe
def execVfcmpleS (d : BitVec 2) (a b : BitVec 5) (msk : BitVec 2) (mp : BitVec 1) (s : State) : Res :=
  vFltCmp 0x0a true d a b msk mp s fpLe

/-! ## Mask algebra (R147, R148) -/

/-- The word of an instruction of MAJ 0x27 on masks. -/
def wordMask (d a b msk : BitVec 2) (mp : BitVec 1) (fn : BitVec 8) : BitVec 32 :=
  wordV 0x27 (d.zeroExtend 5) (a.zeroExtend 5) (b.zeroExtend 5) msk mp fn

/-- R147: a function of two masks on every lane below VL. -/
def vMaskOp (fn : BitVec 8) (d a b : BitVec 2) (s : State) (f : Bool → Bool → Bool) : Res :=
  let id := s.cur
  let o := vop s id (wordMask d a b 0 0 fn) 0 0
  .next (vecRun s o (grouped (strandOf s id).arc) [] [] (fun _ => []) fun u v =>
    vecMask u o v d fun e =>
      if active v.a 0 0 e then some (f (maskBit v.a a.toNat e) (maskBit v.a b.toNat e), 0) else none)

def execMand (d a b : BitVec 2) (s : State) : Res := vMaskOp 0x00 d a b s fun x y => x && y
def execMor (d a b : BitVec 2) (s : State) : Res := vMaskOp 0x01 d a b s fun x y => x || y
def execMxor (d a b : BitVec 2) (s : State) : Res := vMaskOp 0x02 d a b s fun x y => x != y
def execMandn (d a b : BitVec 2) (s : State) : Res := vMaskOp 0x03 d a b s fun x y => x && !y
def execMnot (d a : BitVec 2) (s : State) : Res := vMaskOp 0x04 d a 0 s fun x _ => !x

/-- The active lanes of a mask's set bits, ascending. -/
def setLanes (a : Arcade) (m : BitVec 2) (msk : BitVec 2) (mp : BitVec 1) : List Nat :=
  (actives a msk mp).filter fun e => maskBit a m.toNat e

/-- R148: a mask cut at its first set bit `f`; `within` says which lanes stay set. -/
def vCutOp (fn : BitVec 8) (d a msk : BitVec 2) (mp : BitVec 1) (s : State) (within : Nat → Nat → Bool) : Res :=
  let id := s.cur
  let o := vop s id (wordMask d a 0 msk mp fn) 0 0
  .next (vecRun s o (grouped (strandOf s id).arc) [] [] (fun _ => []) fun u v =>
    let f := (setLanes v.a a msk mp).head?
    vecMask u o v d fun e =>
      if active v.a msk mp e then some ((f.map (within e)).getD true, 0) else none)

def execMsbf (d a msk : BitVec 2) (mp : BitVec 1) (s : State) : Res := vCutOp 0x05 d a msk mp s fun i f => decide (i < f)
def execMsif (d a msk : BitVec 2) (mp : BitVec 1) (s : State) : Res := vCutOp 0x06 d a msk mp s fun i f => decide (i ≤ f)

/-- R149: a scalar from the active set lanes of a mask. -/
def vMaskScalar (fn : BitVec 8) (d : BitVec 5) (a msk : BitVec 2) (mp : BitVec 1) (s : State) (f : List Nat → Word) : Res :=
  let id := s.cur
  let o := vop s id (wordV 0x27 d (a.zeroExtend 5) 0 msk mp fn) 0 0
  .next (vecRun s o (grouped (strandOf s id).arc) [] [] (fun _ => []) fun u v =>
    vecScalar u o v 0 [(d, f (setLanes v.a a msk mp))])

/-- R149: -1 when no lane is set. -/
def execMfirst (d : BitVec 5) (a msk : BitVec 2) (mp : BitVec 1) (s : State) : Res :=
  vMaskScalar 0x07 d a msk mp s fun l => match l with | [] => BitVec.allOnes 64 | e :: _ => BitVec.ofNat 64 e

def execMcount (d : BitVec 5) (a msk : BitVec 2) (mp : BitVec 1) (s : State) : Res :=
  vMaskScalar 0x08 d a msk mp s fun l => BitVec.ofNat 64 l.length

/-- R149: the number of set active lanes below each active lane. -/
def execViota (d : BitVec 5) (a msk : BitVec 2) (mp : BitVec 1) (s : State) : Res :=
  let id := s.cur
  let ar := (strandOf s id).arc
  let o := vop s id (wordV 0x27 d (a.zeroExtend 5) 0 msk mp 0x09) 0 0
  .next (vecRun s o (notInt ar || grouped ar) [d] [] (fun _ => []) fun u v =>
    vecWrite u o v d 0 fun e =>
      if active v.a msk mp e then
        some (laneValue (vWe v.a) (((setLanes v.a a msk mp).filter (· < e)).length), 0)
      else none)

end Sys2Proof.Machine
end

