-- ==== Sys2Proof/Machine/VecAssoc.lean ====
section
/-!
DEFINITION. Associative instructions and reductions, MAJ 0x28 and 0x29 (R126, R150-R156).
-/

namespace Sys2Proof.Machine

/-! ## Values of elements, in the order of R150 -/

/-- The value of an element of TYPE. -/
def elemVal (a : Arcade) (x : Nat) : Val := (readElem 0 (typeOf (vType a) (vW a)) x).1

/-- R131: TYPE is in class P. -/
def notRanked (a : Arcade) : Bool := !inCls a [.i, .f, .l]

/-- R156, R157: an element extended to a scalar: an I value by its signedness, another encoding by zeros, a code of class P too (log
entry 59). -/
def extElem (a : Arcade) (x : Nat) : Word :=
  if clsOf (vType a) = .i then wordOfInt (vExt a (vWe a) x) else BitVec.ofNat 64 x

/-- The even register of a pair. -/
def pairReg (b : BitVec 4) : BitVec 5 := b ++ 0#1
/-- The odd register of a pair. -/
def pairOdd (b : BitVec 4) : BitVec 5 := b ++ 1#1

/-! ## Searches -/

/-- R150: a search of every active element under a pair of keys. -/
def vSearchOp (fn : BitVec 8) (d : BitVec 2) (a : BitVec 5) (b : BitVec 4) (msk : BitVec 2) (mp : BitVec 1) (s : State)
    (bad : Arcade → Bool) (f : Arcade → Nat → Nat → Nat → Bool) : Res :=
  let id := s.cur
  let o := vop s id (wordV 0x28 (d.zeroExtend 5) a (pairReg b) msk mp fn) (pairReg b) (pairOdd b)
  let ar := (strandOf s id).arc
  .next (vecRun s o (bad ar || grouped ar) [] [a] (fun v => srcOf v a (active v.a msk mp)) fun u v =>
    let m := 2 ^ vWe v.a
    vecMask u o v d fun e =>
      if active v.a msk mp e then some (f v.a (srcN v a e) (o.op1.toNat % m) (o.op2.toNat % m), 0) else none)

/-- R150: a raw pattern under a care mask. -/
def execVsrch (d : BitVec 2) (a : BitVec 5) (b : BitVec 4) (msk : BitVec 2) (mp : BitVec 1) (s : State) : Res :=
  vSearchOp 0x00 d a b msk mp s (fun _ => false) fun _ x key care => (x ^^^ key) &&& care == 0

/-- R150: a range of values; a NaN matches nothing. That a signalling one sets no flag is the model's choice (log entry 82). -/
def execVsrchr (d : BitVec 2) (a : BitVec 5) (b : BitVec 4) (msk : BitVec 2) (mp : BitVec 1) (s : State) : Res :=
  vSearchOp 0x01 d a b msk mp s notRanked fun ar x low high =>
    let y := elemVal ar x
    let l := elemVal ar low
    let h := elemVal ar high
    !isNaN y && !isNaN l && !isNaN h && !ltVal y l && !ltVal h y

/-- R132, R151: a scalar written into every tagged lane. Where no lane is, the conversion of the scalar sets no flag (log entry 61). -/
def execVtwr (d : BitVec 5) (a : BitVec 2) (b : BitVec 5) (s : State) : Res :=
  let id := s.cur
  let o := vop s id (wordV 0x28 d (a.zeroExtend 5) b 0 0 0x02) b 0
  let ar := (strandOf s id).arc
  .next (vecRun s o (grouped ar) [d] [] (fun _ => []) fun u v =>
    let x := scalarElem v.a o.op1
    vecWrite u o v d 0 fun e =>
      if active v.a 0 0 e && maskBit v.a a.toNat e then some (laneValue (vWe v.a) x.1, x.2) else none)

/-- R152: Hamming distances to a key read whole. -/
def execVhamm (d a b : BitVec 5) (msk : BitVec 2) (mp : BitVec 1) (s : State) : Res :=
  vBinOp (wordV 0x28 d a b msk mp 0x03) true false d a b msk mp s (fun _ => false) wholeScalar vWe fun ar x y _ =>
    (popN (vWe ar) (x ^^^ y), 0)

/-! ## Ranking (R153) -/

/-- R153: element `e` ranks before `f` when `better` orders values. -/
def ranksBefore (better : Val → Val → Bool) (val : Nat → Val) (e f : Nat) : Bool :=
  match isNaN (val e), isNaN (val f) with
  | true, true => decide (e < f)
  | false, true => true
  | true, false => false
  | false, false => better (val e) (val f) || (!better (val f) (val e) && decide (e < f))

/-- R126: some bay has more than 1,024 rows among those of the elements. -/
def bayCrowded (a : Arcade) (es : List Nat) : Bool :=
  decide (1024 < es.length) &&
    (List.range 4).any fun b => decide (1024 < (es.filter fun e => (laneRow a (e % lanesOf a)).1 == b).length)

/-- R126: the estimator of a bay saturates only when more than 1,024 of its rows are tagged; how often is open. -/
def countEstimator (s : State) (a : Arcade) (es : List Nat) : State :=
  if !bayCrowded a es then s
  else
    let c := coreIdx s.cur
    modCore { s with free := s.free + 1 } c fun k => { k with estSat := k.estSat + Config.estimatorEvents s.free }

/-- R153: the first min(k, active count) of the ranking. That a signalling NaN ranked sets no flag is the model's choice (log entry
82). -/
def vTopkOp (fn : BitVec 8) (d : BitVec 2) (a b : BitVec 5) (msk : BitVec 2) (mp : BitVec 1) (s : State)
    (better : Val → Val → Bool) : Res :=
  let id := s.cur
  let o := vop s id (wordV 0x28 (d.zeroExtend 5) a b msk mp fn) b 0
  let ar := (strandOf s id).arc
  .next (vecRun s o (notRanked ar || grouped ar) [] [a] (fun v => srcOf v a (active v.a msk mp)) fun u v =>
    let act := actives v.a msk mp
    let val := fun e => elemVal v.a (srcN v a e)
    vecMask (countEstimator u v.a act) o v d fun e =>
      if active v.a msk mp e then
        some (decide ((act.filter fun f => ranksBefore better val f e).length < o.op1.toNat), 0)
      else none)

def execVtopkMax (d : BitVec 2) (a b : BitVec 5) (msk : BitVec 2) (mp : BitVec 1) (s : State) : Res :=
  vTopkOp 0x04 d a b msk mp s fun x y => ltVal y x
def execVtopkMin (d : BitVec 2) (a b : BitVec 5) (msk : BitVec 2) (mp : BitVec 1) (s : State) : Res :=
  vTopkOp 0x05 d a b msk mp s ltVal

/-! ## Reductions (R154-R156) -/

/-- A fold of the active elements passed back through the result queue. -/
def vReduceOp (fn : BitVec 8) (d a : BitVec 5) (msk : BitVec 2) (mp : BitVec 1) (s : State) (bad : Arcade → Bool)
    (f : Arcade → List Nat → Fl Word) : Res :=
  let id := s.cur
  let o := vop s id (wordV 0x29 d a 0 msk mp fn) 0 0
  let ar := (strandOf s id).arc
  .next (vecRun s o (bad ar || badGroups ar [a]) [] [a] (fun v => srcOf v a (active v.a msk mp)) fun u v =>
    let r := f v.a ((actives v.a msk mp).map (srcN v a))
    vecScalar u o v r.2 [(d, r.1)])

/-- An integer fold without flags. -/
def vReduceInt (fn : BitVec 8) (d a : BitVec 5) (msk : BitVec 2) (mp : BitVec 1) (s : State)
    (f : Arcade → List Nat → Int) : Res :=
  vReduceOp fn d a msk mp s notInt fun ar l => (wordOfInt (f ar l), 0)

def execVredsum (d a : BitVec 5) (msk : BitVec 2) (mp : BitVec 1) (s : State) : Res :=
  vReduceInt 0x00 d a msk mp s fun ar l => (l.map (vExt ar (vWe ar))).foldl (· + ·) 0
def execVredmax (d a : BitVec 5) (msk : BitVec 2) (mp : BitVec 1) (s : State) : Res :=
  vReduceInt 0x01 d a msk mp s fun ar l => (l.map (signed (vWe ar))).foldl max (sBounds (vWe ar)).1
def execVredmin (d a : BitVec 5) (msk : BitVec 2) (mp : BitVec 1) (s : State) : Res :=
  vReduceInt 0x02 d a msk mp s fun ar l => (l.map (signed (vWe ar))).foldl min (sBounds (vWe ar)).2
def execVredmaxu (d a : BitVec 5) (msk : BitVec 2) (mp : BitVec 1) (s : State) : Res :=
  vReduceInt 0x03 d a msk mp s fun _ l => (l.foldl max 0 : Nat)
def execVredminu (d a : BitVec 5) (msk : BitVec 2) (mp : BitVec 1) (s : State) : Res :=
  vReduceInt 0x04 d a msk mp s fun ar l => (l.foldl min (2 ^ vWe ar - 1) : Nat)
def execVredand (d a : BitVec 5) (msk : BitVec 2) (mp : BitVec 1) (s : State) : Res :=
  vReduceInt 0x05 d a msk mp s fun ar l => (l.foldl (· &&& ·) (2 ^ vWe ar - 1) : Nat)
def execVredor (d a : BitVec 5) (msk : BitVec 2) (mp : BitVec 1) (s : State) : Res :=
  vReduceInt 0x06 d a msk mp s fun _ l => (l.foldl (· ||| ·) 0 : Nat)
def execVredxor (d a : BitVec 5) (msk : BitVec 2) (mp : BitVec 1) (s : State) : Res :=
  vReduceInt 0x07 d a msk mp s fun _ l => (l.foldl (· ^^^ ·) 0 : Nat)

/-- R155: the exact sum rounded once, into FP64 for FP64 and into FP32 otherwise. -/
def execVfredsum (d a : BitVec 5) (msk : BitVec 2) (mp : BitVec 1) (s : State) : Res :=
  vReduceOp 0x08 d a msk mp s notFloat fun ar l =>
    let r := exactSum (vFmt ar) (if vType ar = 0x20 then fFP64 else fFP32) l
    (BitVec.ofNat 64 r.1, r.2)

/-- R156: what the pair's value register receives when there is no candidate. -/
def emptyBest (a : Arcade) : Nat :=
  match typeOf (vType a) (vW a) with
  | .flt f => fNaN f
  | .lns w _ => 2 ^ (w - 1) + 2 ^ (w - 2)
  | _ => 0

/-- R156: the first best of the candidates. -/
def bestOf (better : Val → Val → Bool) (val : Nat → Val) : List Nat → Option Nat
  | [] => none
  | e :: r =>
    match bestOf better val r with
    | none => some e
    | some f => if better (val f) (val e) then some f else some e

/-- R156: the best value and its lowest index. That a signalling NaN passed over sets no flag is the model's choice (log entry 82). -/
def vBestOp (fn : BitVec 8) (d : BitVec 4) (a : BitVec 5) (msk : BitVec 2) (mp : BitVec 1) (s : State)
    (better : Val → Val → Bool) : Res :=
  let id := s.cur
  let o := vop s id (wordV 0x29 (pairReg d) a 0 msk mp fn) 0 0
  let ar := (strandOf s id).arc
  .next (vecRun s o (notRanked ar || badGroups ar [a]) [] [a] (fun v => srcOf v a (active v.a msk mp)) fun u v =>
    let val := fun e => elemVal v.a (srcN v a e)
    match bestOf better val ((actives v.a msk mp).filter fun e => !isNaN (val e)) with
    | none => vecScalar u o v 0 [(pairReg d, BitVec.ofNat 64 (emptyBest v.a)), (pairOdd d, BitVec.allOnes 64)]
    | some j => vecScalar u o v 0 [(pairReg d, extElem v.a (srcN v a j)), (pairOdd d, BitVec.ofNat 64 j)])

def execVmaxi (d : BitVec 4) (a : BitVec 5) (msk : BitVec 2) (mp : BitVec 1) (s : State) : Res :=
  vBestOp 0x09 d a msk mp s fun x y => ltVal y x
def execVmini (d : BitVec 4) (a : BitVec 5) (msk : BitVec 2) (mp : BitVec 1) (s : State) : Res :=
  vBestOp 0x0A d a msk mp s ltVal

end Sys2Proof.Machine
end

