-- ==== Sys2Proof/Machine/VecPerm.lean ====
section
/-!
DEFINITION. Permutes and moves, MAJ 0x2A (R118, R157, R158).
-/

namespace Sys2Proof.Machine

/-- A permute: each active element takes the element of `a` that `pick` names from the sources, or keeps its value where
`pick` names none. `b` is a vector of indexes, or a scalar when `sc`. -/
def vPermOp (fn : BitVec 8) (sc : Bool) (d a b : BitVec 5) (msk : BitVec 2) (mp : BitVec 1) (s : State)
    (pick : Nat → Nat → Option Nat) : Res :=
  let id := s.cur
  let o := vop s id (wordV 0x2A d a b msk mp fn) (if sc then b else 0) 0
  let ar := (strandOf s id).arc
  let vs := if sc then [a] else [a, b]
  let from' := fun (v : VEnv) e => pick e (if sc then o.op1.toNat else srcIndex v b e)
  .next (vecRun s o (badGroups ar (d :: vs)) [d] vs
    (fun v => srcOf v a (fun j => (actives v.a msk mp).any fun e => from' v e == some j) ++
      if sc then [] else srcOf v b (active v.a msk mp))
    fun u v =>
      vecWrite u o v d 0 fun e =>
        if active v.a msk mp e then (from' v e).map fun j => (laneValue (vWe v.a) (srcN v a j), 0) else none)

def execVgathr (d a b : BitVec 5) (msk : BitVec 2) (mp : BitVec 1) (s : State) : Res :=
  vPermOp 0x00 false d a b msk mp s fun _ i => some i
/-- R157: lanes below the distance keep their values. -/
def execVshup (d a b : BitVec 5) (msk : BitVec 2) (mp : BitVec 1) (s : State) : Res :=
  vPermOp 0x01 true d a b msk mp s fun e n => if n ≤ e then some (e - n) else none
def execVshdn (d a b : BitVec 5) (msk : BitVec 2) (mp : BitVec 1) (s : State) : Res :=
  vPermOp 0x02 true d a b msk mp s fun e n => some (e + n)
def execVbcst (d a b : BitVec 5) (msk : BitVec 2) (mp : BitVec 1) (s : State) : Res :=
  vPermOp 0x03 true d a b msk mp s fun _ j => some j
def execVbperm (d a b : BitVec 5) (msk : BitVec 2) (mp : BitVec 1) (s : State) : Res :=
  vPermOp 0x07 false d a b msk mp s fun e i => some (e ^^^ i)

/-- R157: one element to a scalar, through the result queue. -/
def execVext (d a b : BitVec 5) (s : State) : Res :=
  let id := s.cur
  let o := vop s id (wordV 0x2A d a b 0 0 0x04) b 0
  let ar := (strandOf s id).arc
  .next (vecRun s o (badGroups ar [a]) [] [a] (fun v => srcOf v a fun j => j == o.op1.toNat) fun u v =>
    vecScalar u o v 0
      [(d, extElem v.a (srcN v a o.op1.toNat))])

/-- R132, R157: a scalar into element j, when j is below VL; when it is not, the conversion of the scalar sets no flag (log entry
61). -/
def execVins (d a b : BitVec 5) (s : State) : Res :=
  let id := s.cur
  let o := vop s id (wordV 0x2A d a b 0 0 0x05) a b
  let ar := (strandOf s id).arc
  .next (vecRun s o (badGroups ar [d]) [d] [] (fun _ => []) fun u v =>
    let x := scalarElem v.a o.op1
    vecWrite u o v d 0 fun e => if e = o.op2.toNat then some (laneValue (vWe v.a) x.1, x.2) else none)

/-- R158: the elements that the mask selects, ascending. -/
def selected (a : Arcade) (msk : BitVec 2) : List Nat :=
  (List.range a.vl).filter fun e => maskBit a msk.toNat (e % lanesOf a)

/-- R158: the selected elements packed to the lowest lanes. -/
def execVcomp (d a : BitVec 5) (msk : BitVec 2) (s : State) : Res :=
  let id := s.cur
  let o := vop s id (wordV 0x2A d a 0 msk 1 0x06) 0 0
  let ar := (strandOf s id).arc
  .next (vecRun s o (badGroups ar [d, a]) [d] [a] (fun v => srcOf v a fun j => (selected v.a msk).contains j) fun u v =>
    vecWrite u o v d 0 fun c => ((selected v.a msk)[c]?).map fun j => (laneValue (vWe v.a) (srcN v a j), 0))

/-- R123, R158: two sources selected between by the mask; no element of either is inactive, so that the parity of both is checked. -/
def execVmerge (d a b : BitVec 5) (msk : BitVec 2) (s : State) : Res :=
  let id := s.cur
  let o := vop s id (wordV 0x2A d a b msk 1 0x0A) 0 0
  let ar := (strandOf s id).arc
  let sel := fun (v : VEnv) e => maskBit v.a msk.toNat (e % lanesOf v.a)
  .next (vecRun s o (badGroups ar [d, a, b]) [d] [a, b] (fun v => srcOf v a (active v.a 0 0) ++ srcOf v b (active v.a 0 0))
    fun u v =>
      vecWrite u o v d 0 fun e =>
        if active v.a 0 0 e then some (laneValue (vWe v.a) (srcN v (if sel v e then b else a) e), 0) else none)

/-- R157: elements copied. -/
def execVmv (d a : BitVec 5) (msk : BitVec 2) (mp : BitVec 1) (s : State) : Res :=
  vUnOp (wordV 0x2A d a 0 msk mp 0x08) d a msk mp s (fun _ => false) vWe fun _ x => (x, 0)

/-- R158: the immediate converted by the class of TYPE. -/
def immElem (a : Arcade) (i : BitVec 10) : Fl Nat :=
  match clsOf (vType a) with
  | .f => toFloat (vFmt a) (intVal i.toInt)
  | .l => toElem (typeOf (vType a) (vW a)) (intVal i.toInt)
  | _ => (wrapInt (vWe a) i.toInt, 0)

/-- R158. -/
def execVmvi (d : BitVec 5) (i : BitVec 10) (msk : BitVec 2) (mp : BitVec 1) (s : State) : Res :=
  let id := s.cur
  let o := vop s id (wordV 0x2A d (i.extractLsb' 5 5) (i.extractLsb' 0 5) msk mp 0x09) 0 0
  let ar := (strandOf s id).arc
  .next (vecRun s o (badGroups ar [d]) [d] [] (fun _ => []) fun u v =>
    let x := immElem v.a i
    vecWrite u o v d 0 fun e => if active v.a msk mp e then some (laneValue (vWe v.a) x.1, x.2) else none)

/-- R157: each element's index; I types. -/
def execVid (d : BitVec 5) (msk : BitVec 2) (mp : BitVec 1) (s : State) : Res :=
  let id := s.cur
  let o := vop s id (wordV 0x2A d 0 0 msk mp 0x0B) 0 0
  let ar := (strandOf s id).arc
  .next (vecRun s o (notInt ar || badGroups ar [d]) [d] [] (fun _ => []) fun u v =>
    vecWrite u o v d 0 fun e => if active v.a msk mp e then some (laneValue (vWe v.a) e, 0) else none)

end Sys2Proof.Machine
end

