-- ==== Sys2Proof/Machine/VecMem.lean ====
section
/-!
DEFINITION. Vector memory instructions, MAJ 0x2B and 0x2C (R159-R167, R228).
-/

namespace Sys2Proof.Machine

/-! ## The memory type (R159-R161) -/

/-- MFMT.RAW. -/
def mRaw (a : Arcade) : Bool := fld a.mfmt 6 1 == 1
/-- The code of the memory type M. -/
def mCode (a : Arcade) : Nat := if mRaw a then vType a else fld a.mfmt 0 6
/-- How elements of M are read. -/
def mElem (a : Arcade) : EType := typeOf (mCode a) (vW a)
/-- R160: a P type register with RAW = 0, or an integer MTYPE while TYPE is not an I type of width W. -/
def badMemType (a : Arcade) : Bool :=
  !mRaw a && (notRanked a ||
    ((mCode a == 0x21 || mCode a == 0x22) && (notInt a || vWe a != vW a)))
/-- M is a scaled format. -/
def mScaled (a : Arcade) : Bool := decide (mCode a < 0x20) && fmtScale (mCode a) != .none

/-- R160: the smallest container of an integer. -/
def containerOf (w : Nat) : Nat := if w < 8 then w else if w ≤ 8 then 8 else if w ≤ 16 then 16 else if w ≤ 32 then 32 else 64

/-- R160: the stored width Wm. -/
def mWidth (a : Arcade) : Nat :=
  let c := mCode a
  if c = 0x0D then 32 else if c = 0x21 ∨ c = 0x22 then containerOf (vW a) else weOf c (vW a)

/-- Sm: bytes per element. -/
def mBytes (a : Arcade) : Nat := mWidth a / 8

/-- MFMT.CB: the codebook of memory conversions. -/
def mBook (a : Arcade) : BitVec 256 := listGet 0 a.codebooks (fld a.mfmt 22 2)

/-! ## Scales and quantisation (R22-R27, R161) -/

/-- R119: the scale of an element, in v31. -/
def scaleBits (a : Arcade) (e : Nat) : Nat := (elemW a 31 e).toNat

/-- R23, R25: the value of an element with its scale. -/
def scaledVal (book : BitVec 256) (code : Nat) (t : EType) (scale x : Nat) : Fl Val :=
  let r := readElem book t x
  match fmtScale code with
  | .none => r
  | k =>
    let p := mulVal r.1 (scaleVal k scale)
    (p.1, r.2 ||| p.2)

/-- R24, R25: x divided by its scale, with the flag of a signalling NaN (R19). A finite x over a zero group scale is an
infinity, and the division itself sets no flag: the model's choice (log entry 53). -/
def unscale (k : ScaleKind) (scale : Nat) (x : Val) : Fl Val :=
  match k with
  | .none => (x, 0)
  | .e8m0 =>
    (if scale % 256 = 255 then .nan false else (mulVal x (.num false 1 (127 - (scale % 256 : Nat)))).1, snanFlag [x])
  | .bf16 => ((divVal x (scaleVal .bf16 scale)).1, snanFlag [x, scaleVal .bf16 scale])

/-- The result with some flags taken away. -/
def dropFlags (r : Fl Nat) (f : Word) : Fl Nat := (r.1, r.2 &&& ~~~f)

/-- R24 step 5, R25 step 4: a result beyond the largest magnitude is that magnitude with its sign, without QSAT. An integer of
an E8M0 format is clamped to the magnitude of its largest value; a log that falls below the smallest keeps its QSAT. -/
def clampQuant (t : EType) (k : ScaleKind) (v : Val) (r : Fl Nat) : Fl Nat :=
  let lowest := fun (w : Nat) => if k = .e8m0 ∧ r.1 = 2 ^ (w - 1) then (r.1 + 1, r.2) else r
  match t, linearize v with
  | .flt f, .num n _ _ =>
    if r.2 &&& flagOF ≠ 0 then (fSign f n + fMax f, (r.2 &&& ~~~(flagOF ||| flagQSAT))) else dropFlags r flagQSAT
  | .flt f, .inf n => (fSign f n + fMax f, r.2 &&& ~~~flagQSAT)
  | .lns w _, _ => if r.1 % 2 ^ (w - 1) = 2 ^ (w - 2) - 1 then dropFlags r flagQSAT else r
  | .sint w, _ => dropFlags (lowest w) flagQSAT
  | .mxint, _ => dropFlags (lowest 8) flagQSAT
  | _, _ => dropFlags r flagQSAT

/-- The largest magnitude of a list of values. -/
def maxAbs (l : List Val) : Val :=
  l.foldl (fun m x => if ltVal m (withSign false x) then withSign false x else m) (.num false 0 0)

/-- The value is an infinity. -/
def isInf : Val → Bool
  | .inf _ => true
  | _ => false

/-- R25: qmax. -/
def qmaxOf (book : BitVec 256) (code : Nat) : Val :=
  if code = 0x18 then .num false 7 0
  else if code = 0x19 then .num false 127 0
  else maxAbs (((List.range 16).map (cbEntry book)).filter fun x => !isNaN x && !isInf x)

/-- R25: a group scale under which an element x is stored as 0: a NaN, or a zero that stands for amax = 0 or qmax = 0. A zero
to which amax / qmax was rounded divides as any other scale; a zero x has no quotient there and is stored as 0 (log entry 62). -/
def deadScale (book : BitVec 256) (code : Nat) (k : ScaleKind) (scale : Nat) (x : Val) : Bool :=
  k == .bf16 && (isNaN (scaleVal .bf16 scale) ||
    (isZeroVal (scaleVal .bf16 scale) && (isZeroVal x || isZeroVal (qmaxOf book code))))

/-- R17, R19, R27: the flags of an element that is stored as 0 under such a scale: NV for a NaN; for a codebook index NV when x
or every entry is a NaN, else NX when entry 0 reads with the scale as another value. That a finite or infinite x sets no flag
in an integer format is the model's choice (log entry 74). -/
def deadFlags (book : BitVec 256) (t : EType) (scale x : Val) : Word :=
  match t with
  | .cb =>
    if isNaN x || (List.range 16).all fun k => isNaN (cbEntry book k) then flagNV
    else readsAs book scale x 0
  | _ => flagIf (isNaN x) flagNV

/-- R161, R170: a value quantised into a format with its scale; `sc` says that the scales were computed by the device. -/
def quantise (book : BitVec 256) (code w : Nat) (sc : Bool) (scale : Nat) (x : Val) : Fl Nat :=
  let t := typeOf code w
  let k : ScaleKind := if code < 0x20 then fmtScale code else .none
  if sc && deadScale book code k scale x then (0, deadFlags book t (scaleVal k scale) x)
  else
    match unscale k scale x with
    | (y, fl) =>
      let r := match t with
        | .cb => toCb book (scaleVal k scale) y x
        | _ => if sc && k != ScaleKind.none then clampQuant t k y (toElem t y) else toElem t y
      (r.1, fl ||| r.2)

/-! ## Elements in memory -/

/-- R161: the stored bits of an element read into an element of TYPE. -/
def fromMem (a : Arcade) (e raw : Nat) : Fl Word :=
  let c := mCode a
  let x := if c = 0x0D then raw / 2 ^ 13 else raw
  if mRaw a || c == vType a then (laneValue (vWe a) (x % 2 ^ vWe a), 0)
  else
    let v := scaledVal (mBook a) c (mElem a) (if mScaled a then scaleBits a e else 0) x
    let r := toElem (typeOf (vType a) (vW a)) v.1
    (laneValue (vWe a) r.1, v.2 ||| r.2)

/-- R160: a signed memory integer. -/
def mSigned (a : Arcade) : Bool := signedCode (mCode a)

/-- R161: an element of TYPE turned into the bits that are stored. -/
def toMem (a : Arcade) (e x : Nat) : Fl Nat :=
  let c := mCode a
  let r : Fl Nat := if mRaw a || c == vType a then (x, 0)
    else quantise (mBook a) c (vW a) (fld a.mfmt 7 1 == 1) (if mScaled a then scaleBits a e else 0)
      (readElem (mBook a) (typeOf (vType a) (vW a)) x).1
  let w := etWidth (mElem a)
  (if c = 0x0D then r.1 * 2 ^ 13 else if mSigned a then wrapInt (mWidth a) (signed w r.1) else r.1, r.2)

/-! ## Accesses of elements -/

/-- R86: of the faults of one element's bytes, that of the first cause in the order of R86, which is the order of the codes. -/
def firstFault (f : XFault) : Except XFault (List (Target × Nat)) → XFault
  | .error g => if g.cause < f.cause then g else f
  | .ok _ => f

/-- R163: the byte ranges of an element, each within a line, are translated and checked. -/
def chunkTargets (s : State) (id : Nat) (write : Bool) : List (Word × Nat) → Except XFault (List (Target × Nat))
  | [] => .ok []
  | (a, n) :: r =>
    match translate s (agentOf s id) write a with
    | .error f => .error (firstFault f (chunkTargets s id write r))
    | .ok t =>
      match chunkTargets s id write r with
      | .error f => .error f
      | .ok l => .ok ((t, n) :: l)

/-- A HOST target. -/
def isHost : Target → Bool
  | .host _ => true
  | _ => false

/-- R224: an instruction that reaches HOST pages waits for the host's completion and takes ACCESS on a failed one. -/
def hostThen {α : Type} (s : State) (id : Nat) (host : Bool) (k : State → Acc α) : Acc α :=
  if host then
    match (strandOf s id).hostAnswer with
    | none => .wait .hostPage s
    | some ok =>
      let u := modStrand s id fun t => { t with hostAnswer := none }
      if ok then k u else .fault cACCESS u
  else k s

/-- The byte ranges read, as one access of a stream. -/
def readChunks (s : State) (id stream : Nat) (cs : List (Word × Nat)) : Acc (List Nat) :=
  match chunkTargets s id false cs with
  | .error f => .fault f.cause (noteFault s f)
  | .ok ts =>
    if ts.any fun t => targetBad s (clusterIdx id) t.1 t.2 || unreachableTarget s (sidOf id stream) t.1 then .fault cMEM_UE s
    else if streamHeld s id stream (ts.map fun t => homeDie s t.1) then .wait (.remote stream) s
    else
      hostThen s id (ts.any fun t => isHost t.1) fun u =>
        .ok (ts.map fun t => targetRead u (clusterIdx id) t.1 t.2)
          (ts.foldl (fun w t => noteRemote (targetFill w t.1) id stream 0 t.1 0) u)

/-- `n` bytes written at an address, as an access of a stream. -/
def writeChunk (s : State) (id stream : Nat) (a : Word) (n v : Nat) : Acc Unit :=
  match translate s (agentOf s id) true a with
  | .error f => .fault f.cause (noteFault s f)
  | .ok t =>
    if nonfiniteWrite s t n v then .fault cCODED_NONFINITE s
    else if streamHeld s id stream [homeDie s t] then .wait (.remote stream) s
    else .ok () (storeTarget s id stream 1 t n v)

/-- Where an element lies: its address, and for packed elements the bit of its first byte. -/
structure ElemPlace where
  addr : Word
  bit : Nat
  deriving DecidableEq, Repr

/-- R162: a contiguous element. -/
def contiguous (a : Arcade) (base : Word) (sr : BitVec 1) (e : Nat) : ElemPlace :=
  let k := (if sr = 1 then a.sidx.toNat else 0) + e
  let w := mWidth a
  if w < 8 then ⟨base + BitVec.ofNat 64 (w * k / 8), w * k % 8⟩ else ⟨base + BitVec.ofNat 64 (mBytes a * k), 0⟩

/-- R162: a strided element. -/
def strided (a : Arcade) (base t : Word) (sr : BitVec 1) (e : Nat) : ElemPlace :=
  ⟨base + (if sr = 1 then a.sidx * t else 0) + BitVec.ofNat 64 e * t, 0⟩

/-- R162: an indexed element. -/
def indexed (v : VEnv) (base : Word) (i : BitVec 5) (e : Nat) : ElemPlace :=
  ⟨base + BitVec.ofNat 64 (mBytes v.a * srcIndex v i e), 0⟩

/-- The bytes of an element: one range, or for a packed element each of its bytes. -/
def elemChunks (w : Nat) (p : ElemPlace) : List (Word × Nat) :=
  if w < 8 then (List.range ((p.bit + w + 7) / 8)).map fun i => (p.addr + BitVec.ofNat 64 i, 1) else [(p.addr, w / 8)]

/-- R163: an element is read. -/
def readElemAt (s : State) (id stream w : Nat) (p : ElemPlace) : Acc Nat :=
  if 8 ≤ w ∧ p.addr.toNat % (w / 8) ≠ 0 then .fault cMISALIGN s
  else
    match readChunks s id stream (elemChunks w p) with
    | .ok l u => .ok (bitsOf (l.foldr (fun x acc => x + 256 * acc) 0) p.bit w) u
    | .fault c u => .fault c u
    | .wait b u => .wait b u

/-- R165: the bytes of a packed element, each merged with the bits around it. -/
def mergeBytes (id stream : Nat) : List (Target × Nat) → Nat → Nat → State → State
  | [], _, _, s => s
  | (t, _) :: r, mask, v, s =>
    let old := targetRead s (clusterIdx id) t 1
    let new := (old &&& (255 - mask % 256)) ||| (v % 256 &&& mask % 256)
    mergeBytes id stream r (mask / 256) (v / 256) (storeTarget s id stream 1 t 1 new)

/-- R304: the 8-byte element of a coded target is not finite. -/
def nonfiniteElem (s : State) : Target → Bool
  | .coded r o sl => bitsOf (lineBits (codedLine s r (o / 64) sl) (o % 64 / 8 * 8) 8) 52 11 == 2047
  | _ => false

/-- R163, R165: a packed element is written: all its bytes are translated, CODED_NONFINITE is judged on what its 8-byte elements
become, and one that faults leaves memory as it was. Each byte is a packet of its own (R358). -/
def writePacked (s : State) (id stream : Nat) (cs : List (Word × Nat)) (mask v : Nat) : Acc Unit :=
  match chunkTargets s id true cs with
  | .error f => .fault f.cause (noteFault s f)
  | .ok ts =>
    let u := mergeBytes id stream ts mask v s
    if ts.any fun t => nonfiniteElem u t.1 then .fault cCODED_NONFINITE s
    else if streamHeld s id stream (ts.map fun t => homeDie s t.1) || sourceFull s (sidOf id stream) ts.length then
      .wait (.remote stream) s
    else .ok () u

/-- R163, R165: an element is written; one that faults leaves memory as it was. -/
def writeElemAt (s : State) (id stream w : Nat) (p : ElemPlace) (v : Nat) : Acc Unit :=
  if 8 ≤ w then
    if p.addr.toNat % (w / 8) ≠ 0 then .fault cMISALIGN s else writeChunk s id stream p.addr (w / 8) v
  else writePacked s id stream (elemChunks w p) ((2 ^ w - 1) * 2 ^ p.bit) (v % 2 ^ w * 2 ^ p.bit)

/-! ## Elements in turn (R228) -/

/-- How a walk over elements ends. -/
inductive MemEnd where
  | done
  | fault (e cause : Nat)
  | wait (e : Nat) (b : Block)
  deriving DecidableEq, Repr

/-- Elements are performed in ascending order up to the first that faults or waits. -/
def memLoop {α : Type} (f : State → Nat → Acc α) : List Nat → State → State × List (Nat × α) × MemEnd
  | [], s => (s, [], .done)
  | e :: r, s =>
    match f s e with
    | .fault c u => (u, [], .fault e c)
    | .wait b u => (u, [], .wait e b)
    | .ok v u =>
      match memLoop f r u with
      | (w, l, k) => (w, (e, v) :: l, k)

/-- The lane at which a vector access began, before it waited. -/
def startLane (a : Arcade) : Nat := (a.part.map (·.lane)).getD a.lane

/-- R228: the instruction goes on to `k`, traps at its element, or waits there with the elements below it complete; `words` are what
a VAPPEND that waits has read and keeps. The passes run before a trap are charged (R275). -/
def memEndWith (words : Option (Word × Word × Word)) (s : State) (o : Vop) (v : VEnv) (addr : Nat → Word) (m : MemEnd)
    (k : State → State) : State :=
  match m with
  | .done => k s
  | .fault e c =>
    trapArray (if startLane v.a < e then chargePart s s.cur o v e else s) s.cur o c (faultAddr c (addr e)) e
  | .wait e b => blockOn (modArc s s.cur fun a => { a with lane := e, part := some ⟨startLane v.a, words⟩ }) s.cur b

/-- The same for an access that keeps no words. -/
def memEnd (s : State) (o : Vop) (v : VEnv) (addr : Nat → Word) (m : MemEnd) (k : State → State) : State :=
  memEndWith none s o v addr m k

/-- The checks common to the vector loads and stores. -/
def badMem (a : Arcade) (d : BitVec 5) (packed : Bool) : Bool :=
  badMemType a || badGroup a d || (mScaled a && grouped a) || (!packed && decide (mWidth a < 8))

/-- The registers and parity sources that a scaled memory type adds. -/
def scaleReg (a : Arcade) : List (BitVec 5) := if mScaled a then [31] else []

/-- R163: its parity sources. -/
def scaleSrc (v : VEnv) (msk : BitVec 2) (mp : BitVec 1) : List Source :=
  if mScaled v.a then [(31, active v.a msk mp)] else []

/-! ## Loads -/

/-- R162-R164: a load; `place` says where an element lies, `ff` that the first fault may end it. -/
def vLoadOp (o : Vop) (d : BitVec 5) (vs : List (BitVec 5)) (msk : BitVec 2) (mp g : BitVec 1) (packed ff : Bool)
    (place : VEnv → Nat → ElemPlace) (s : State) : Res :=
  let id := s.cur
  let ar := (strandOf s id).arc
  .next (vecRun s o (badMem ar d packed || badGroups ar vs) (d :: scaleReg ar) vs
    (fun v => (vs.map fun r => srcOf v r (active v.a msk mp)).flatten ++ scaleSrc v msk mp) fun u v =>
      let es := actives v.a msk mp
      match memLoop (fun t e => readElemAt t id (1 + g.toNat) (mWidth v.a) (place v e)) es u with
      | (w, got, m) =>
        let x := vecPart w v d fun e => (tblFind got e).map (fromMem v.a e)
        let low := (actives { v.a with lane := startLane v.a } msk mp).head?
        let cut := match m with
          | .fault e c => if ff && low != some e && (c == cPAGE_FAULT || c == cACCESS || c == cMEM_UE) then some e
              else none
          | _ => none
        match cut with
        | some e => modArc (vecEnd x o v 0 fun b => b) id fun b => { b with vl := e }
        | none => memEnd x o v (fun e => (place v e).addr) m fun y => vecEnd y o v 0 fun b => b)

/-- The word of a VM-format instruction. -/
def wordVM (maj : BitVec 6) (d b i : BitVec 5) (msk : BitVec 2) (mp g : BitVec 1) (mode : BitVec 3) (r : BitVec 1) :
    BitVec 32 :=
  wordM maj d b i msk mp g mode (r ++ 0#3)

def execVld (d b : BitVec 5) (msk : BitVec 2) (mp g r : BitVec 1) (s : State) : Res :=
  let o := vop s s.cur (wordVM 0x2B d b 0 msk mp g 0 r) b 0
  vLoadOp o d [] msk mp g true false (fun v => contiguous v.a o.op1 r) s

def execVlds (d b st : BitVec 5) (msk : BitVec 2) (mp g r : BitVec 1) (s : State) : Res :=
  let o := vop s s.cur (wordVM 0x2B d b st msk mp g 1 r) b st
  vLoadOp o d [] msk mp g false false (fun v => strided v.a o.op1 o.op2 r) s

def execVldx (d b i : BitVec 5) (msk : BitVec 2) (mp g : BitVec 1) (s : State) : Res :=
  let o := vop s s.cur (wordVM 0x2B d b i msk mp g 2 0) b 0
  vLoadOp o d [i] msk mp g false false (fun v => indexed v o.op1 i) s

/-- R164: a fault beyond the lowest active element ends the strip there. -/
def execVldff (d b : BitVec 5) (msk : BitVec 2) (mp g r : BitVec 1) (s : State) : Res :=
  let o := vop s s.cur (wordVM 0x2B d b 0 msk mp g 3 r) b 0
  vLoadOp o d [] msk mp g true true (fun v => contiguous v.a o.op1 r) s

/-! ## Stores -/

/-- R165: a store in ascending order; the highest-numbered of overlapping elements determines each byte. -/
def vStoreOp (o : Vop) (d : BitVec 5) (vs : List (BitVec 5)) (msk : BitVec 2) (mp g : BitVec 1) (packed : Bool)
    (place : VEnv → Nat → ElemPlace) (order : State → VEnv → List Nat → State → State) (s : State) : Res :=
  let id := s.cur
  let ar := (strandOf s id).arc
  .next (vecRun s o (badMem ar d packed || badGroups ar vs) (d :: scaleReg ar) vs
    (fun v => (d.toNat, active v.a msk mp) :: ((vs.map fun r => srcOf v r (active v.a msk mp)).flatten ++
      scaleSrc v msk mp)) fun u v =>
      let val := fun e => toMem v.a e (elemN v.a d.toNat e)
      match memLoop (fun t e => writeElemAt t id (1 + g.toNat) (mWidth v.a) (place v e) (val e).1) (actives v.a msk mp) u with
      | (w, got, m) =>
        let x := raise (order u v (got.map (·.1)) w) id (orFlags (got.map fun p => (val p.1).2))
        memEnd x o v (fun e => (place v e).addr) m fun y => vecEnd y o v 0 fun b => b)

/-- The stores stand as they were made. -/
def ascending (_ : State) (_ : VEnv) (_ : List Nat) (w : State) : State := w

def execVst (d b : BitVec 5) (msk : BitVec 2) (mp g r : BitVec 1) (s : State) : Res :=
  let o := vop s s.cur (wordVM 0x2C d b 0 msk mp g 0 r) b 0
  vStoreOp o d [] msk mp g true (fun v => contiguous v.a o.op1 r) ascending s

def execVsts (d b st : BitVec 5) (msk : BitVec 2) (mp g r : BitVec 1) (s : State) : Res :=
  let o := vop s s.cur (wordVM 0x2C d b st msk mp g 1 r) b st
  vStoreOp o d [] msk mp g false (fun v => strided v.a o.op1 o.op2 r) ascending s

def execVstxo (d b i : BitVec 5) (msk : BitVec 2) (mp g : BitVec 1) (s : State) : Res :=
  let o := vop s s.cur (wordVM 0x2C d b i msk mp g 3 0) b 0
  vStoreOp o d [i] msk mp g false (fun v => indexed v o.op1 i) ascending s

/-- An order of a list that free values choose. -/
def freeOrder : Nat → Nat → List Nat → List Nat
  | 0, _, l => l
  | n + 1, c, l =>
    let i := Config.orderChoice c % l.length
    match l[i]? with
    | some e => e :: freeOrder n (c + 1) (l.eraseIdx i)
    | none => l

/-- R166: of elements that reach the same place, one that the hardware chooses is left: they are stored again in an order
that free values choose. -/
def settleCollisions (id stream : Nat) (place : VEnv → Nat → ElemPlace) (val : VEnv → Nat → Nat) (u : State) (v : VEnv)
    (es : List Nat) (w : State) : State :=
  let tg := fun e => match translate u (agentOf u id) true (place v e).addr with | .ok t => some t | .error _ => none
  let hit := es.filter fun e => es.any fun f => f != e && tg f == tg e
  if hit.isEmpty then w
  else
    (freeOrder hit.length w.free hit).foldl (fun x e =>
      match writeElemAt x id stream (mWidth v.a) (place v e) (val v e) with
      | .ok _ y => y
      | .fault _ _ => x
      | .wait _ _ => x) { w with free := w.free + hit.length }

def execVstx (d b i : BitVec 5) (msk : BitVec 2) (mp g : BitVec 1) (s : State) : Res :=
  let o := vop s s.cur (wordVM 0x2C d b i msk mp g 2 0) b 0
  let place := fun v => indexed v o.op1 i
  vStoreOp o d [i] msk mp g false place
    (settleCollisions s.cur (1 + g.toNat) place fun v e => (toMem v.a e (elemN v.a d.toNat e)).1) s

/-! ## VAPPEND (R167) -/

/-- R167, R218, R225: the header: TAIL is checked for an atomic that adds `c`, CAP and BASE for reading. The answer gives CAP and BASE,
and the state with the host's answer taken when the header lies on HOST pages. -/
def appendHeader (s : State) (id stream : Nat) (h : Word) (c : Nat) : Except (Word × XFault) (Target × Acc (List Nat)) :=
  match atomicTarget s (agentOf s id) true h 8 with
  | .error f => .error (h, f)
  | .ok t =>
    match translate s (agentOf s id) false (h + 8) with
    | .error f => .error (h + 8, f)
    | .ok t1 =>
      match translate s (agentOf s id) false (h + 16) with
      | .error f => .error (h + 16, f)
      | .ok t2 =>
        let bad := fun x => targetBad s (clusterIdx id) x 8 || unreachableTarget s (sidOf id stream) x
        if nonfiniteWrite s t 8 ((targetRead s (clusterIdx id) t 8 + c) % 2 ^ 64) then .error (h, xfault cCODED_NONFINITE)
        else if bad t then .error (h, xfault cMEM_UE)
        else if bad t1 then .error (h + 8, xfault cMEM_UE)
        else if bad t2 then .error (h + 16, xfault cMEM_UE)
        else if atomicUnsupported s true t then .error (h, xfault cATOMIC_UNSUPPORTED)
        else if streamHeld s id stream ([t, t1, t2].map (homeDie s)) then .ok (t, .wait (.remote stream) s)
        else
          .ok (t, hostThen s id ([t, t1, t2].any isHost) fun u =>
            .ok ([t1, t2].map fun x => targetRead u (clusterIdx id) x 8)
              ([t1, t2].foldl (fun w x => noteRemote (targetFill w x) id stream 0 x 0) u))

/-- R167: TAIL rises by `c` at its home. -/
def bumpTail (s : State) (id stream : Nat) (t : Target) (c : Nat) : Nat × State :=
  let old := targetRead s (clusterIdx id) t 8
  (old, noteRemote (targetWrite s (clusterIdx id) (strandOf s id).tag t 8 ((old + c) % 2 ^ 64)) id stream 2 t 0)

/-- The place of an element in a list. -/
def placeIn (es : List Nat) (e : Nat) : Nat := es.idxOf e

/-- R167: the payload: the `j`th of the active elements `all` goes to BASE + Sm x (old + j) when old + j is below CAP; those of `es`
are still to be stored. sT receives the old TAIL. -/
def appendPayload (o : Vop) (v : VEnv) (p t : BitVec 5) (st : Nat) (all es : List Nat) (old cap base : Word) (s : State) : State :=
  let place := fun e => old.toNat + placeIn all e
  let addr := fun e => BitVec.ofNat 64 (base.toNat + mBytes v.a * place e)
  let val := fun e => toMem v.a e (elemN v.a p.toNat e)
  match memLoop (fun y e => writeElemAt y s.cur st (mWidth v.a) ⟨addr e, 0⟩ (val e).1)
      (es.filter fun e => decide (place e < cap.toNat)) s with
  | (y, got, m) =>
    memEndWith (some (old, cap, base)) (raise y s.cur (orFlags (got.map fun q => (val q.1).2))) o v addr m fun z =>
      vecScalar z o v 0 [(t, old)]

/-- R167: the fetch-add comes before every payload store; elements beyond the capacity are dropped. An instruction whose payload
waited goes on with it, and does not add again. A fault of the header, which is no element's, leaves LANE as it is: the model's
choice (log entry 84). -/
def execVappend (p h t : BitVec 5) (msk : BitVec 2) (mp g : BitVec 1) (s : State) : Res :=
  let id := s.cur
  let st := 1 + g.toNat
  let o := vop s id (wordVM 0x2C p h t msk mp g 4 0) h 0
  let ar := (strandOf s id).arc
  .next (vecRun s o (badMem ar p false || grouped ar) (p :: scaleReg ar) []
    (fun v => (p.toNat, active v.a msk mp) :: scaleSrc v msk mp) fun u v =>
      let es := actives v.a msk mp
      match v.a.part.bind (·.words) with
      | some (old, cap, base) =>
        appendPayload o v p t st (actives { v.a with lane := startLane v.a } msk mp) es old cap base u
      | none =>
      match appendHeader u id st o.op1 es.length with
      | .error (a, f) => trapArray (noteFault u f) id o f.cause (faultAddr f.cause a) v.a.lane
      | .ok (_, .fault c w) => trapArray w id o c o.op1 v.a.lane
      | .ok (_, .wait b w) => blockOn w id b
      | .ok (tg, .ok l w) =>
        match bumpTail w id st tg es.length with
        | (old, x) =>
          appendPayload o v p t st es es (BitVec.ofNat 64 old) (BitVec.ofNat 64 (listGet 0 l 0)) (BitVec.ofNat 64 (listGet 0 l 1)) x)

end Sys2Proof.Machine
end

