-- ==== Sys2Proof/Machine/VecAtomic.lean ====
section
/-!
DEFINITION. Vector atomics, MAJ 0x2D (R218-R223).
-/

namespace Sys2Proof.Machine

/-- R218: TYPE, width and RAW as VLDL, VSTC and VAMO require them, and G = 1. -/
def badAtomic (a : Arcade) : Bool :=
  grouped a || !mRaw a || !(vType a == 0x21 || vType a == 0x22) || !(vW a == 32 || vW a == 64)

/-- R218: the address of a lane's word. -/
def atomicPlace (v : VEnv) (base : Word) (i : BitVec 5) (z e : Nat) : Word :=
  base + BitVec.ofNat 64 (z * srcIndex v i e)

/-- A lane's word is checked, then `k` acts on it. -/
def laneWord {α : Type} (s : State) (id : Nat) (write : Bool) (p : Word) (z : Nat) (k : Target → Acc α) : Acc α :=
  match atomicTarget s (agentOf s id) write p z with
  | .error f => .fault f.cause (noteFault s f)
  | .ok t => k t

/-- R215: the links of the strand's earlier VLDL lose their protection when a new one begins. -/
def renewLowest (s : State) (id : Nat) : State :=
  { s with mem := { s.mem with tags := s.mem.tags.map fun t => if t.strand = some id then { t with lowest := false } else t } }

/-- R230: a VSTC has issued, so that the links that the strand's lanes hold no longer defer its save. -/
def linksStored (s : State) (id : Nat) : State :=
  let mark := fun (t : TagEntry) => if t.strand = some id ∧ t.lane.isSome then { t with stored := true } else t
  { s with mem := { s.mem with tags := s.mem.tags.map mark } }

/-- R215: the lowest-numbered active lane, whatever LANE says. -/
def lowestLane (a : Arcade) (msk : BitVec 2) (mp : BitVec 1) : Option Nat := (actives { a with lane := 0 } msk mp).head?

/-- R219. -/
def execVldl (d b i : BitVec 5) (msk : BitVec 2) (mp g : BitVec 1) (s : State) : Res :=
  let id := s.cur
  let o := vop s id (wordVM 0x2D d b i msk mp g 0 0) b 0
  let ar := (strandOf s id).arc
  .next (vecRun s o (badAtomic ar) [d] [i] (fun v => srcOf v i (active v.a msk mp)) fun u v =>
    let z := vWe v.a / 8
    let es := actives v.a msk mp
    let low := lowestLane v.a msk mp
    let u0 := if es.head? = low then renewLowest u id else u
    match memLoop (fun t e => laneWord t id false (atomicPlace v o.op1 i z e) z fun tg =>
        linkedRead t id (1 + g.toNat) (some e) (low == some e) tg z) es u0 with
    | (w, got, m) =>
      memEnd (vecPart w v d fun e => (tblFind got e).map fun x => (laneValue (vWe v.a) x, 0)) o v
        (atomicPlace v o.op1 i z) m fun y => vecEnd y o v 0 fun b => b)

/-- R220, R230: the success bits of the lanes performed are written. -/
def execVstc (d b i : BitVec 5) (msk : BitVec 2) (mp g : BitVec 1) (m : BitVec 2) (s : State) : Res :=
  let id := s.cur
  let o := vop s id (wordM 0x2D d b i msk mp g 1 (0#2 ++ m)) b 0
  let ar := (strandOf s id).arc
  .next (vecRun s o (badAtomic ar) [d] [i] (fun v => (d.toNat, active v.a msk mp) :: srcOf v i (active v.a msk mp)) fun u v =>
    let z := vWe v.a / 8
    match memLoop (fun t e => laneWord t id true (atomicPlace v o.op1 i z e) z fun tg =>
        linkedWrite t id (1 + g.toNat) (some e) tg z (elemN v.a d.toNat e)) (actives v.a msk mp) (linksStored u id) with
    | (w, got, k) =>
      let put := fun (c : Arcade) =>
        { writeMask { c with vl := v.a.vl } m.toNat fun e => tblFind got e with vl := c.vl }
      memEnd (modArc w id put) o v (atomicPlace v o.op1 i z) k fun y => vecEnd y o v 0 fun b => b)

/-- R59, R221: CAS takes its new values from the odd register of the pair. -/
def vamoNewField (d : BitVec 5) : BitVec 5 := d ||| 1

/-- R221, R222: the operation is applied in ascending lane order; `release` waits for every earlier access. -/
def vamoOp (release : Bool) (mode : BitVec 3) (d b i : BitVec 5) (msk : BitVec 2) (mp g : BitVec 1) (op : BitVec 4) (s : State) : Res :=
  let id := s.cur
  let o := vop s id (wordM 0x2D d b i msk mp g mode op) b 0
  let ar := (strandOf s id).arc
  let cas := op == 9
  let bad := badAtomic ar || decide (10 ≤ op.toNat) || (cas && (d.toNat % 2 == 1 || d == 30))
  let ds := if cas then [d, vamoNewField d] else [d]
  .next (vecRun s o bad ds [i]
    (fun v => (ds.map fun r => (r.toNat, active v.a msk mp)) ++ srcOf v i (active v.a msk mp)) fun u v =>
    releaseThen u id (1 + g.toNat) release <|
    let z := vWe v.a / 8
    let arg := fun e => elemN v.a (if cas then vamoNewField d else d).toNat e
    match memLoop (fun t e => laneWord t id true (atomicPlace v o.op1 i z e) z fun tg =>
        rmw t id (1 + g.toNat) op.toNat tg z (arg e) (elemN v.a d.toNat e)) (actives v.a msk mp) u with
    | (w, got, m) =>
      memEnd (vecPart w v d fun e => (tblFind got e).map fun x => (laneValue (vWe v.a) x, 0)) o v
        (atomicPlace v o.op1 i z) m fun y => vecEnd y o v 0 fun b => b)

def execVamo (d b i : BitVec 5) (msk : BitVec 2) (mp g : BitVec 1) (o : BitVec 4) (s : State) : Res :=
  vamoOp false 2 d b i msk mp g o s
def execVamoAcq (d b i : BitVec 5) (msk : BitVec 2) (mp g : BitVec 1) (o : BitVec 4) (s : State) : Res :=
  vamoOp false 3 d b i msk mp g o s
def execVamoRel (d b i : BitVec 5) (msk : BitVec 2) (mp g : BitVec 1) (o : BitVec 4) (s : State) : Res :=
  vamoOp true 4 d b i msk mp g o s
def execVamoAr (d b i : BitVec 5) (msk : BitVec 2) (mp g : BitVec 1) (o : BitVec 4) (s : State) : Res :=
  vamoOp true 5 d b i msk mp g o s

/-! ## VWAITM (R223) -/

/-- R223: the watches of a strand are taken away. -/
def clearWatches (s : State) (id : Nat) : State :=
  { s with mem := { s.mem with tags := s.mem.tags.filter fun t => !t.watch || t.strand != some id } }

/-- R223: a word satisfies its condition: EQ and NE compare bits, GE and LT signed values. -/
def waitHolds (z : Nat) (c : BitVec 2) (w x : Nat) : Bool :=
  match c with
  | 0 => w == x
  | 1 => w != x
  | 2 => decide (signed (8 * z) x ≤ signed (8 * z) w)
  | _ => decide (signed (8 * z) w < signed (8 * z) x)

/-- R218, R223: every active lane's word is checked; the answer gives their targets. -/
def waitTargets (s : State) (id stream : Nat) (addr : Nat → Word) (z : Nat) :
    List Nat → Except (Nat × XFault) (List (Nat × Target))
  | [] => .ok []
  | e :: r =>
    match atomicTarget s (agentOf s id) false (addr e) z with
    | .error f => .error (e, f)
    | .ok t =>
      if targetBad s (clusterIdx id) t z || unreachableTarget s (sidOf id stream) t then .error (e, xfault cMEM_UE)
      else if atomicUnsupported s false t then .error (e, xfault cATOMIC_UNSUPPORTED)
      else
        match waitTargets s id stream addr z r with
        | .error f => .error f
        | .ok l => .ok ((e, t) :: l)

/-- R223: a watch on the line of each unsatisfied lane. -/
def placeWatches (s : State) (id : Nat) (ts : List (Nat × Target)) : State :=
  ts.foldl (fun u p => match targetLine p.2 with
    | some l => placeTag u ⟨l, some id, some p.1, true, 0, false, false⟩
    | none => u) s

/-- R223: every trap restarts the instruction whole, with LANE = 0. -/
def execVwaitm (c b i : BitVec 5) (msk : BitVec 2) (mp g z : BitVec 1) (o : BitVec 2) (s : State) : Res :=
  let id := s.cur
  let st := 1 + g.toNat
  let n := amoSize z
  let op := vop s id (wordM 0x2D c b i msk mp g 6 (0#1 ++ z ++ o)) c b
  let ar := (strandOf s id).arc
  .next (vecRun s op (grouped ar) [] [i] (fun v => srcOf v i (active v.a msk mp)) fun u v =>
    let addr := fun e => atomicPlace v op.op2 i n e
    match waitTargets u id st addr n (actives v.a msk mp) with
    | .error (e, f) => trapArray (noteFault (clearWatches u id) f) id op f.cause (addr e) 0
    | .ok ts =>
      if streamHeld u id st (ts.map fun p => homeDie u p.2) then blockOn u id (.remote st)
      else
        match hostThen u id (ts.any fun p => isHost p.2) fun w => .ok () w with
        | .fault k w =>
          trapArray (clearWatches w id) id op k (((ts.find? fun p => isHost p.2).map fun p => addr p.1).getD 0) 0
        | .wait k w => blockOn w id k
        | .ok _ w =>
          let w0 := clearWatches (ts.foldl (fun x p => noteRemote (targetFill x p.2) id st 0 p.2 0) w) id
          let left := ts.filter fun p => !waitHolds n o (targetRead w (clusterIdx id) p.2 n) (lowBytes n op.op1)
          if left.isEmpty then vecEnd w0 op v 0 fun b => b
          else parkOn (placeWatches w0 id left) id (.vwaitm c b i msk mp g z o))

end Sys2Proof.Machine
end

