-- ==== Sys2Proof/Machine/VecConv.lean ====
section
/-!
DEFINITION. Scales, quantisation, codebooks and logarithmic codes, MAJ 0x2E (R168-R172).
-/

namespace Sys2Proof.Machine

/-- R159: MFMT.QFMT. -/
def qCode (a : Arcade) : Nat := fld a.mfmt 16 5
/-- The scale of QFMT. -/
def qScale (a : Arcade) : ScaleKind := fmtScale (qCode a)
/-- The width of a QFMT element. -/
def qWidth (a : Arcade) : Nat := etWidth (fmtType (qCode a))
/-- QFMT is a scaled format. -/
def qScaled (a : Arcade) : Bool := qScale a != .none
/-- The index of the block of element `e` (R23). -/
def blockOf (a : Arcade) (k : ScaleKind) (e : Nat) : Nat := (a.sidx.toNat + e) / scaleBlock k
/-- R131: TYPE is neither I nor F. -/
def notLinear (a : Arcade) : Bool := !inCls a [.i, .f]
/-- MFMT.SC. -/
def scalesOurs (a : Arcade) : Bool := fld a.mfmt 7 1 == 1
/-- The value of an element of TYPE, in its lane. -/
def linearVal (v : VEnv) (r : BitVec 5) (e : Nat) : Val := elemVal v.a (srcN v r e)

/-- The word of an instruction of MAJ 0x2E. -/
def wordConv (fn : BitVec 8) (d a b : BitVec 5) (msk : BitVec 2) (mp : BitVec 1) : BitVec 32 := wordV 0x2E d a b msk mp fn

/-! ## Scales -/

/-- R168: the element of vs1 that holds the scale of element `e`. -/
def scaleIndex (a : Arcade) (e : Nat) : Nat := blockOf a (qScale a) e - blockOf a (qScale a) 0

/-- R168. -/
def execVsclset (a : BitVec 5) (msk : BitVec 2) (mp : BitVec 1) (s : State) : Res :=
  let id := s.cur
  let o := vop s id (wordConv 0x00 0 a 0 msk mp) 0 0
  let ar := (strandOf s id).arc
  .next (vecRun s o (!qScaled ar || grouped ar) [31] [a]
    (fun v => srcOf v a fun j => (actives v.a msk mp).any fun e => scaleIndex v.a e == j) fun u v =>
      let w := if qScale v.a = .bf16 then 16 else 8
      let x := vecPart u v 31 fun e =>
        if active v.a msk mp e then some (laneValue w (srcW v a (scaleIndex v.a e)).toNat, 0) else none
      vecEnd x o v 0 fun b => { b with mfmt := setFld b.mfmt 7 1 0 })

/-- R24: emax of an element format, by its code. -/
def emaxOf (code : Nat) : Int :=
  match code with
  | 0x12 => 8
  | 0x13 => 15
  | 0x14 => 4
  | 0x15 => 2
  | 0x16 => 2
  | 0x17 => 0
  | 0x1B => 3
  | _ => 2

/-- R24: the E8M0 scale of a block of values. -/
def ocpScale (code : Nat) (l : List Val) : Fl Nat :=
  if l.any fun x => isNaN x || isInf x then (255, 0)
  else
    match maxAbs l with
    | .num _ m e =>
      if m = 0 then (0, 0)
      else
        let x := leadExp m e - emaxOf code
        let c := clampInt x (-127) 127
        ((c + 127).toNat, flagIf (c != x) flagQSAT)
    | _ => (0, 0)

/-- R25: the BF16 scale of a group of values. That its rounding sets no flag is the model's choice (log entry 60). -/
def groupScale (book : BitVec 256) (code : Nat) (l : List Val) : Nat :=
  if l.any fun x => isNaN x || isInf x then 0x7FC0
  else
    let am := maxAbs l
    let qm := qmaxOf book code
    if isZeroVal am || isZeroVal qm then 0 else (toFloat fBF16 (divVal am qm).1).1

/-- R24, R25: the scale of a block of values in a format. That a signalling NaN among them sets no NV is the model's choice
(log entry 82). -/
def blockScale (book : BitVec 256) (code : Nat) (l : List Val) : Fl Nat :=
  if fmtScale code = .bf16 then (groupScale book code l, 0) else ocpScale code l

/-- R169: the scale of the block of element `e`, from the active elements of the strip. With a QFMT that has no scales the
manual gives none (log entry 15). -/
def blockScaleOf (v : VEnv) (r : BitVec 5) (msk : BitVec 2) (mp : BitVec 1) (free e : Nat) : Fl Nat :=
  if qScaled v.a then
    let k := blockOf v.a (qScale v.a) e
    blockScale (mBook v.a) (qCode v.a)
      (((actives v.a msk mp).filter fun f => blockOf v.a (qScale v.a) f == k).map (linearVal v r))
  else ((Config.openScale (free + e)).toNat, 0)

/-- R169. -/
def execVbscale (a : BitVec 5) (msk : BitVec 2) (mp : BitVec 1) (s : State) : Res :=
  let id := s.cur
  let o := vop s id (wordConv 0x01 0 a 0 msk mp) 0 0
  let ar := (strandOf s id).arc
  .next (vecRun s o (notLinear ar || grouped ar) [31] [a] (fun v => srcOf v a (active v.a msk mp)) fun u v =>
    let x := vecPart u v 31 fun e =>
      if active v.a msk mp e then
        let r := blockScaleOf v a msk mp u.free e
        some (BitVec.ofNat 64 r.1, r.2)
      else none
    let y := if qScaled v.a then x else { x with free := x.free + v.a.vl }
    vecEnd y o v 0 fun b => { b with mfmt := setFld b.mfmt 7 1 1 })

/-! ## Quantisation -/

/-- The registers and parity sources that a scaled QFMT adds (R119). -/
def qReg (a : Arcade) : List (BitVec 5) := if qScaled a then [31] else []

/-- Its parity sources. -/
def qSrc (v : VEnv) (msk : BitVec 2) (mp : BitVec 1) : List Source :=
  if qScaled v.a then [(31, active v.a msk mp)] else []

/-- The scale bits that QFMT reads for an element. -/
def qBits (a : Arcade) (e : Nat) : Nat := if qScaled a then scaleBits a e else 0

/-- An element-wise conversion to or from QFMT. -/
def vConvOp (fn : BitVec 8) (d a : BitVec 5) (msk : BitVec 2) (mp : BitVec 1) (s : State) (bad : Arcade → Bool)
    (f : VEnv → Nat → Fl Word) : Res :=
  let id := s.cur
  let o := vop s id (wordConv fn d a 0 msk mp) 0 0
  let ar := (strandOf s id).arc
  .next (vecRun s o (bad ar || notLinear ar || badGroups ar [d, a] || (qScaled ar && grouped ar)) (d :: qReg ar) [a]
    (fun v => srcOf v a (active v.a msk mp) ++ qSrc v msk mp) fun u v =>
      vecWrite u o v d 0 fun e => if active v.a msk mp e then some (f v e) else none)

/-- R170, R172: QFMT is a logarithmic format. -/
def qLns (a : Arcade) : Bool := qCode a == 0x0F || qCode a == 0x10 || qCode a == 0x1B

/-- A value written in QFMT; `sc` says that results beyond its range are clamped without QSAT. -/
def toQ (v : VEnv) (r : BitVec 5) (sc : Bool) (e : Nat) : Fl Word :=
  let x := quantise (mBook v.a) (qCode v.a) (vW v.a) sc (qBits v.a e) (linearVal v r e)
  (laneValue (qWidth v.a) x.1, x.2)

/-- R170. -/
def execVquant (d a : BitVec 5) (msk : BitVec 2) (mp : BitVec 1) (s : State) : Res :=
  vConvOp 0x02 d a msk mp s qLns fun v e => toQ v a (scalesOurs v.a) e

/-- R170. -/
def execVdeq (d a : BitVec 5) (msk : BitVec 2) (mp : BitVec 1) (s : State) : Res :=
  vConvOp 0x03 d a msk mp s (fun _ => false) fun v e =>
    let x := scaledVal (mBook v.a) (qCode v.a) (fmtType (qCode v.a)) (qBits v.a e) ((srcW v a e).toNat % 2 ^ qWidth v.a)
    let r := toElem (typeOf (vType v.a) (vW v.a)) x.1
    (laneValue (vWe v.a) r.1, x.2 ||| r.2)

/-- R172: the conversion of R29, under scales of the device with the clamp of R24 step 5, which names LNS8B32 (log entry 76). -/
def execVcvtl (d a : BitVec 5) (msk : BitVec 2) (mp : BitVec 1) (s : State) : Res :=
  vConvOp 0x06 d a msk mp s (fun ar => !qLns ar) fun v e => toQ v a (scalesOurs v.a) e

/-! ## Codebooks -/

/-- R171: 32 bytes into a codebook. A fault leaves LANE at 0; a handler's LANE at or beyond VL ends the instruction (R228). -/
def execVcbld (c : BitVec 2) (b : BitVec 5) (s : State) : Res :=
  let id := s.cur
  let o := vop s id (wordConv 0x04 (c.zeroExtend 5) b 0 0 0) b 0
  .next (vecRun s o false [] [] (fun _ => []) fun u v =>
    if v.a.lane ≠ 0 ∧ v.a.vl ≤ v.a.lane then vecEnd u o v 0 fun x => x
    else if o.op1.toNat % 32 ≠ 0 then trapArray u id o cMISALIGN o.op1 0
    else
      match readChunks u id 1 [(o.op1, 32)] with
      | .fault k w => trapArray w id o k o.op1 0
      | .wait k w => blockOn w id k
      | .ok l w => vecEnd w o v 0 fun x =>
          { x with codebooks := listSet 0 x.codebooks c.toNat (BitVec.ofNat 256 (listGet 0 l 0)) })

/-- R171. -/
def execVcbx (d a : BitVec 5) (c : BitVec 2) (msk : BitVec 2) (mp : BitVec 1) (s : State) : Res :=
  let id := s.cur
  let o := vop s id (wordConv 0x05 d a (c.zeroExtend 5) msk mp) 0 0
  let ar := (strandOf s id).arc
  .next (vecRun s o (notLinear ar || badGroups ar [d, a]) [d] [a] (fun v => srcOf v a (active v.a msk mp)) fun u v =>
    vecWrite u o v d 0 fun e =>
      if active v.a msk mp e then
        let r := toElem (typeOf (vType v.a) (vW v.a)) (cbEntry (listGet 0 v.a.codebooks c.toNat) (srcW v a e).toNat)
        some (laneValue (vWe v.a) r.1, r.2)
      else none)

end Sys2Proof.Machine
end

