-- ==== Sys2Proof/Machine/Mezzanine.lean ====
section
/-!
DEFINITION. The Mezzanine, MAJ 0x30 (R173-R199).
-/

namespace Sys2Proof.Machine

/-! ## Operand vectors (R180-R182) -/

/-- The word of a Mezzanine instruction: bits [25:11] and FN. -/
def wordMx (f : BitVec 15) (fn : BitVec 8) : BitVec 32 := 0x30#6 ++ f ++ 0#3 ++ fn

/-- R180: bits that an element occupies in an operand vector; FP19 keeps its container. -/
def mxBits (code : Nat) : Nat := if code = 0x0D then 32 else etWidth (fmtType code)

/-- R180: DB. -/
def mxDataBytes (code k : Nat) : Nat := (k * mxBits code + 7) / 8

/-- R180: SB. -/
def mxScaleBytes (code k : Nat) : Nat :=
  match fmtScale code with
  | .none => 0
  | .e8m0 => k / 32
  | .bf16 => 2 * k / 128

/-- R180: beats of an operand vector. -/
def mxBeats (code k : Nat) : Nat := (mxDataBytes code k + mxScaleBytes code k + 63) / 64

/-- R181: K of a tile. -/
def mxK (afmt tfmt : Nat) : Nat := if etWidth (fmtType afmt) ≤ 4 ∧ etWidth (fmtType tfmt) ≤ 4 then 256 else 128

/-- Beats as one little-endian number. -/
def beatsNat (l : List Line) : Nat := l.foldr (fun x acc => x.toNat + 2 ^ 512 * acc) 0

/-- R180: the scale of element `k` of an operand vector. -/
def mxScaleOf (code n raw k : Nat) : Nat :=
  match fmtScale code with
  | .none => 0
  | .e8m0 => bitsOf raw (8 * (mxDataBytes code n + k / 32)) 8
  | .bf16 => bitsOf raw (8 * (mxDataBytes code n + 2 * (k / 128))) 16

/-- R182: element `k` of an operand vector of `n` elements enters L-internal form. -/
def mxElem (book : BitVec 256) (code n raw k : Nat) : Fl LVal :=
  let bits := bitsOf raw (k * mxBits code) (mxBits code)
  let own := readElem book (fmtType code) (if code = 0x0D then bits / 2 ^ 13 else bits)
  let r := toLInternal own.1 (scaleVal (fmtScale code) (mxScaleOf code n raw k))
  (r.1, own.2 ||| r.2)

/-- The elements of an operand vector, with their flags. -/
def mxVector (book : BitVec 256) (code n : Nat) (beats : List Line) : Fl (List LVal) :=
  flSeq ((List.range n).map (mxElem book code n (beatsNat beats)))

/-- R32, R35: the sum of the contributions of two operand vectors. -/
def mxDot (q : Int) (a b : List LVal) : Int := ((a.zip b).map fun p => contribution p.1 p.2 q).foldl (· + ·) 0

/-- R35: an accumulator's value. -/
def mxSat (x : Int) : Fl Int := satInt x (sBounds 64).1 (sBounds 64).2 flagACCSAT

/-! ## MXCFG fields (R176) -/

def mxAccExp (c : Word) : Int := signed 10 (fld c 0 10)
def mxAfmt (c : Word) : Nat := fld c 10 5
def mxTfmt (c : Word) : Nat := fld c 15 5
def mxAcb (c : Word) : Nat := fld c 20 2
def mxTcb (c : Word) : Nat := fld c 22 2
def mxSfmt (c : Word) : Nat := fld c 24 3
def mxDraw (c : Word) : Bool := fld c 27 1 == 1

/-- The Mezzanine of a strand's core. -/
def mezzOf (s : State) (id : Nat) : Mezz := (coreOf s (coreIdx id)).mezz

/-- R173, R177: MXCFG as a strand's next Mezzanine instruction finds it; a claim resets it. -/
def mxcfgSeen (s : State) (id : Nat) : Word := if ownsMezz s id then mxcfgNow s id else Mezz.reset.cfg

/-- A codebook of a strand. -/
def strandBook (s : State) (id k : Nat) : BitVec 256 := listGet 0 (strandOf s id).arc.codebooks k

/-- The buffer that is active. -/
def activeTile (m : Mezz) : Tile := if m.act then m.t1 else m.t0

/-- R173, R183, R201: a Mezzanine instruction that has passed its checks claims the Mezzanine, and runs or enters the VIQ. -/
def mxClaim (s : State) (id : Nat) (o : Vop) (k : State → State) : State := claimThen s id fun u => queueOr u id o (k u)

/-- R183: the course of a Mezzanine instruction: ILLEGAL, VDEAD, then the claim. -/
def mxRun (s : State) (o : Vop) (bad : Bool) (k : State → State) : State := arrayChecks s s.cur o bad (mxClaim s s.cur o k)

/-! ## Configuration and tiles -/

/-- R184. -/
def execMxcfg (b : BitVec 5) (s : State) : Res :=
  let id := s.cur
  let o := vop s id (wordMx (0#5 ++ b ++ 0#5) 0x00) b 0
  .next (mxRun s o (!mxcfgOk o.op1) fun u => finishV (setMxcfg u id o.op1) id)

/-- R185: a tile from its beats. -/
def mxTile (book : BitVec 256) (afmt tfmt : Nat) (dist : Bool) (q : Int) (beats : List Line) : Fl Tile :=
  let k := mxK afmt tfmt
  let n := mxBeats tfmt k
  let cols := flSeq ((List.range 128).map fun j => mxVector book tfmt k ((beats.drop (j * n)).take n))
  let norm : Fl (List Int) := if dist then flSeq (cols.1.map fun c => mxSat (mxDot q c c)) else ([], 0)
  (⟨decide (k = 256), tfmt, dist, cols.1, norm.1⟩, cols.2 ||| norm.2)

/-- R185, R197: a load waits for all its beats. A load without distance mode leaves the norm row as it was. -/
def execMxtld (x b : BitVec 1) (s : State) : Res :=
  let id := s.cur
  let o := vop s id (wordMx (0#3 ++ x ++ b ++ 0#10) 0x01) 0 0
  .next (mxRun s o false fun u =>
    let m := mezzOf u id
    let c := m.cfg
    let n := 128 * mxBeats (mxTfmt c) (mxK (mxAfmt c) (mxTfmt c))
    if streamFenced u id 4 then blockOn u id (.remote 4)
    else if m.ft.length < n then awaitArray u id o (.mxtld x b)
    else
      let t := mxTile (strandBook u id (mxTcb c)) (mxAfmt c) (mxTfmt c) (x == 1) (mxAccExp c) (m.ft.take n)
      let old := if b = 1 then m.t1 else m.t0
      let new := { t.1 with norm := if x = 1 then t.1.norm else old.norm }
      let w := modMezz u (coreIdx id) fun z =>
        { z with ft := z.ft.drop n, t0 := if b = 1 then z.t0 else new, t1 := if b = 1 then new else z.t1 }
      finishV (raise w id t.2) id)

/-- R186. -/
def execMxtsel (b : BitVec 1) (s : State) : Res :=
  let id := s.cur
  let o := vop s id (wordMx (0#4 ++ b ++ 0#10) 0x02) 0 0
  .next (mxRun s o false fun u => finishV (modMezz u (coreIdx id) fun z => { z with act := b == 1 }) id)

/-! ## Rows -/

/-- An accumulator of a row. -/
def accAt (m : Mezz) (n j : Nat) : Int := listGet 0 (tblGet [] m.acc n) j

/-- R187: the sum of column `j` for an A row. -/
def mxColumn (t : Tile) (q : Int) (row : List LVal) (j : Nat) : Int :=
  let x := mxDot q row (listGet [] t.cols j)
  if t.dist then listGet 0 t.norm j - 2 * x else x

/-- R187, R197. -/
def execMxr (n : BitVec 9) (a : BitVec 1) (s : State) : Res :=
  let id := s.cur
  let o := vop s id (wordMx (n ++ a ++ 0#5) 0x03) 0 0
  .next (mxRun s o false fun u =>
    let m := mezzOf u id
    let c := m.cfg
    let t := activeTile m
    let k := if t.wide then 256 else 128
    let bt := mxBeats (mxAfmt c) k
    if streamFenced u id 4 then blockOn u id (.remote 4)
    else if m.fa.length < bt then awaitArray u id o (.mxr n a)
    else
      let row := mxVector (strandBook u id (mxAcb c)) (mxAfmt c) k (m.fa.take bt)
      let sums := flSeq ((List.range 128).map fun j =>
        mxSat ((if a = 1 then accAt m n.toNat j else 0) + mxColumn t (mxAccExp c) row.1 j))
      let w := modMezz u (coreIdx id) fun z => { z with fa := z.fa.drop bt, acc := tblSet z.acc n.toNat sums.1 }
      finishV (raise w id (row.2 ||| sums.2)) id)

/-- R197: beats have arrived, and the instruction that waits for them goes on. -/
def execMxFifoWaitEnd (id : Nat) (s : State) : Res :=
  match (strandOf s id).arc.waits with
  | some (.mxtld x b) => runHead s id (execMxtld x b)
  | some (.mxr n a) => runHead s id (execMxr n a)
  | _ => .next s

/-- R192. -/
def execMxclr (n : BitVec 9) (s : State) : Res :=
  let id := s.cur
  let o := vop s id (wordMx (n ++ 0#6) 0x06) 0 0
  .next (mxRun s o false fun u => finishV (modMezz u (coreIdx id) fun z => { z with acc := tblDel z.acc n.toNat }) id)

/-- R193: a word that selects neither FIFO is ILLEGAL (R61). -/
def execMxfclr (t f : BitVec 1) (s : State) : Res :=
  let id := s.cur
  let o := vop s id (wordMx (0#3 ++ t ++ f ++ 0#10) 0x07) 0 0
  .next (mxRun s o (t == 0 && f == 0) fun u =>
    finishV (modMezz u (coreIdx id) fun z =>
      { z with fa := if f = 1 then [] else z.fa, ft := if t = 1 then [] else z.ft }) id)

/-- R194: every earlier Mezzanine instruction has completed, and its accesses are performed (log entry 2). -/
def execMxwait (s : State) : Res :=
  let id := s.cur
  .next (mxRun s (vop s id (wordMx 0 0x08) 0 0) false fun u => finishV u id)

/-! ## Drains -/

/-- The value x 2^q of an accumulator. -/
def accVal (x q : Int) : Val := .num (x < 0) x.natAbs q

/-- TYPE is a scaled format. -/
def typeScaled (a : Arcade) : Bool := decide (vType a < 0x20) && fmtScale (vType a) != .none

/-- R189: what is ILLEGAL at issue. -/
def badDrain (a : Arcade) (c : Word) (d : BitVec 5) : Bool :=
  (mxDraw c && !(vType a == 0x21 && vW a == 64)) || badGroup a d || (typeScaled a && (grouped a || d == 31))

/-- R189, R228: the accumulator index of element `e`, when the drain writes it: none below LANE. -/
def drainIndex (a : Arcade) (c : Word) (e : Nat) : Option Nat :=
  if a.lane ≤ e ∧ 128 * mxDbase c ≤ e ∧ e < 128 * mxDbase c + 128 then some (e - 128 * mxDbase c) else none

/-- R190: the scale of the block or group of accumulator `j`, from the elements that are written. -/
def drainScale (a : Arcade) (c : Word) (val : Nat → Val) (j : Nat) : Fl Nat :=
  let k := fmtScale (vType a)
  let js := (List.range 128).filter fun i =>
    decide (a.lane ≤ 128 * mxDbase c + i) && decide (128 * mxDbase c + i < a.vl) && i / scaleBlock k == j / scaleBlock k
  blockScale (mBook a) (vType a) (js.map val)

/-- R189, R190: accumulator `j` as an element of TYPE. -/
def drainElem (a : Arcade) (c : Word) (acc : Nat → Int) (j : Nat) : Fl Word :=
  let val := fun i => accVal (acc i) (mxAccExp c)
  if mxDraw c then (wordOfInt (acc j), 0)
  else
    let sc := if typeScaled a then (drainScale a c val j).1 else 0
    let r := quantise (mBook a) (vType a) (vW a) (typeScaled a) sc (val j)
    (laneValue (vWe a) r.1, r.2)

/-- R189, R190, R198, R228: a drain that traps, for its destination's swap or parity, does so before it claims the Mezzanine; with LANE
at or beyond VL it completes without a drain. -/
def execMxdrn (d : BitVec 5) (n : BitVec 9) (s : State) : Res :=
  let id := s.cur
  let o := vop s id (wordMx (d ++ n ++ 0#1) 0x04) 0 0
  let ar := (strandOf s id).arc
  let bad := badDrain ar (mxcfgSeen s id) d
  .next (if behind (strandOf s id) then mxRun s o bad fun u => u
    else vecIssue s id o bad <|
    if !ownsMezz s id && !mayClaim s id then awaitClaim s id
    else vecTouch s id o (d :: if typeScaled ar then [31] else []) [] fun u0 => claimThen u0 id fun u =>
      let v := envOf (strandOf u id).arc none
      let m := mezzOf u id
      let c := m.cfg
      let acc := accAt m n.toNat
      let val := fun i => accVal (acc i) (mxAccExp c)
      let w0 := vecPart u v d fun e => (drainIndex v.a c e).map (drainElem v.a c acc)
      let w1 := if typeScaled v.a then vecPart w0 v 31 fun e =>
          (drainIndex v.a c e).map fun j => let r := drainScale v.a c val j; (BitVec.ofNat 64 r.1, r.2)
        else w0
      let w2 := modMezz w1 (coreIdx id) fun z => { z with cfg := advanceBase z.cfg }
      vecEnd w2 o v 0 fun b => if typeScaled v.a then { b with mfmt := setFld b.mfmt 7 1 1 } else b)

/-- R191: bytes of an element of SFMT. -/
def sfmtBytes (f : Nat) : Nat := if f ≤ 1 then 8 else if f = 2 then 4 else if f = 6 then 1 else 2

/-- R191: an accumulator in SFMT. -/
def sfmtElem (f : Nat) (x q : Int) : Fl Nat :=
  match f with
  | 0 => (wrapInt 64 x, 0)
  | 1 => toFloat fFP64 (accVal x q)
  | 2 => toFloat fFP32 (accVal x q)
  | 3 => toFloat fBF16 (accVal x q)
  | 4 => toFloat fFP16 (accVal x q)
  | 5 => toLns 16 8 (accVal x q)
  | _ => toLns 8 4 (accVal x q)

/-- R191, R198: the address is checked at dispatch, before the claim. -/
def execMxdrs (a : BitVec 5) (n : BitVec 9) (s : State) : Res :=
  let id := s.cur
  let o := vop s id (wordMx (a ++ n ++ 0#1) 0x05) a 0
  let f := mxSfmt (mxcfgSeen s id)
  let z := sfmtBytes f
  let p := o.op1.toNat
  .next (arrayChecks s id o false <|
    if p % 8 ≠ 0 then trapDispatch s id o cMISALIGN o.op1
    else if 0x800000 < p + 128 * z then trapDispatch s id o cACCESS o.op1
    else mxClaim s id o fun u =>
    if streamFenced u id 4 then blockOn u id (.remote 4)
    else
      let m := mezzOf u id
      let row := flSeq ((List.range 128).map fun j => sfmtElem f (accAt m n.toNat j) (mxAccExp m.cfg))
      let w := targetWrite u (clusterIdx id) 0 (.atrium p) (128 * z) (row.1.foldr (fun x acc => x + 2 ^ (8 * z) * acc) 0)
      finishV (raise w id row.2) id)

/-! ## The claim -/

/-- R173: the strand that waits first takes the claim, and its instruction goes on when it is issued again. -/
def execMezzanineClaim (core : Nat) (s : State) : Res :=
  match (coreOf s core).mezz.owner, claimWaiters s core with
  | none, sl :: _ => .next (modStrand (takeClaim s (4 * core + sl)) (4 * core + sl) fun t => { t with blocked := none })
  | _, _ => .next s

end Sys2Proof.Machine
end

