-- ==== Sys2Proof/Machine/Newel.lean ====
section
/-!
DEFINITION. The Newel: semaphores and barriers (R249-R254).
-/

namespace Sys2Proof.Machine

/-! ## Items -/

/-- R249: a semaphore. -/
def semOf (s : State) (cl n : Nat) : BitVec 32 := tblGet 0 (clusterOf s cl).sems n

/-- R249: a semaphore written. -/
def setSem (s : State) (cl n : Nat) (v : BitVec 32) : State :=
  setCluster s cl { clusterOf s cl with sems := tblSet (clusterOf s cl).sems n v }

/-- R249: a barrier. -/
def barOf (s : State) (cl b : Nat) : Barrier := tblGet Barrier.reset (clusterOf s cl).bars b

/-- R249: a barrier written. -/
def setBar (s : State) (cl b : Nat) (x : Barrier) : State :=
  setCluster s cl { clusterOf s cl with bars := tblSet (clusterOf s cl).bars b x }

/-- R251: SEMINC saturates. -/
def incSem (s : State) (cl n k : Nat) : State :=
  setSem s cl n (BitVec.ofNat 32 (min ((semOf s cl n).toNat + k) 0xFFFFFFFF))

/-! ## Waiters -/

/-- R79: a parked instruction completes with a result, and its strand goes on. -/
def completeParked (s : State) (id : Nat) (r : BitVec 5) (v : Word) : State :=
  modStrand (finishReg s id r v) id fun t => { t with slot := .run }

/-- The destination and ticket of a parked BARWAIT at barrier `b`. -/
def barWaiter (s : State) (b id : Nat) : Option (BitVec 5 × Word) :=
  let t := strandOf s id
  match t.slot, t.blocked with
  | .park, some (.barwait a r) => if fld (getReg t r) 0 6 = b then some (a, getReg t r) else none
  | _, _ => none

/-- R252-R254: parked BARWAITs of a barrier whose ticket `f` accepts complete with a status. -/
def wakeBar (s : State) (cl b : Nat) (status : Word) (f : Word → Bool) : State :=
  (List.range 32).foldl (fun u i =>
    match barWaiter u b (32 * cl + i) with
    | some (a, k) => if f k then completeParked u (32 * cl + i) a status else u
    | none => u) s

/-! ## Arrivals -/

/-- R252: the barrier after `w` more units; whether a phase has just completed, whether one has completed at all, and whether
units were left after a completion. -/
def arriveUnits : Nat → Barrier → Bool → Bool → Bool → Barrier × Bool × Bool
  | 0, x, _, flipped, ovr => (x, flipped, ovr)
  | w + 1, x, done, flipped, ovr =>
    let ovr' := ovr || done
    if x.cnt + 1 = x.exp then arriveUnits w { x with cnt := 0, phase := !x.phase } true true ovr'
    else arriveUnits w { x with cnt := x.cnt + 1 } false flipped ovr'

/-- R252: an arrival of weight `w`; the answer says whether BAROVR is set. -/
def arrive (s : State) (cl b w : Nat) : State × Bool :=
  let x := barOf s cl b
  match arriveUnits w x false false false with
  | (y, flipped, ovr) =>
    let u := setBar s cl b y
    (if flipped then wakeBar u cl b 0 fun k => (fld k 8 1 == 1) == x.phase else u, ovr)

/-- R254: a bound copy halts. -/
def faultBar (s : State) (cl b : Nat) : State :=
  let x := barOf s cl b
  if x.state = .normal then wakeBar (setBar s cl b { x with state := .faulted }) cl b 1 fun _ => true else s

/-! ## The instructions (R250) -/

/-- The word of a Newel instruction. -/
def wordNewel (op : BitVec 3) (a b : BitVec 5) (x : BitVec 9) (r : BitVec 1) : BitVec 32 :=
  wordX 0x32 a b x (0#3 ++ r ++ op)

/-- R249, R358: an operation on the Newel of a cluster of another die is a packet of the strand's stream SC. -/
def noteNewel (s : State) (id cl : Nat) : State :=
  if cl / 16 = dieIdx id then s else takeSeq s (sidOf id 0) (4 * pkgNumber s + cl / 16)

/-- R63, R250: register values outside their limits are ILLEGAL; then COORD; then, as any access of SC (R207, R249, R358), the
operation waits behind an SBAR and for unacknowledged accesses of other dies. `k` acts on the cluster. -/
def newelThen (s : State) (w : BitVec 32) (bad : Bool) (x : BitVec 9) (r : BitVec 1) (k : Nat → State) : State :=
  let id := s.cur
  let cl := if r = 1 then x.toNat / 8 else clusterIdx id
  if bad then trapIllegal s id w
  else if r = 1 ∧ (coreOf s x.toNat).enabled = false then trapHere s id cCOORD (BitVec.ofNat 64 x.toNat)
  else if streamHeld s id 0 [some (4 * pkgNumber s + cl / 16)] then blockOn s id (.remote 0)
  else noteNewel (k cl) id cl

/-- R251. -/
def execSeminc (a b : BitVec 5) (x : BitVec 9) (r : BitVec 1) (s : State) : Res :=
  let id := s.cur
  let n := reg s id a
  let v := reg s id b
  .next (newelThen s (wordNewel 0 a b x r) (fld n 8 56 != 0 || fld v 32 32 != 0) x r fun cl =>
    finish (incSem s cl n.toNat v.toNat) id)

/-- R251. -/
def execSemset (a b : BitVec 5) (x : BitVec 9) (r : BitVec 1) (s : State) : Res :=
  let id := s.cur
  let n := reg s id a
  let v := reg s id b
  .next (newelThen s (wordNewel 1 a b x r) (fld n 8 56 != 0 || fld v 32 32 != 0) x r fun cl =>
    finish (setSem s cl n.toNat (BitVec.ofNat 32 v.toNat)) id)

/-- R251: the count is not consumed. -/
def execSemwait (a b : BitVec 5) (s : State) : Res :=
  let id := s.cur
  let n := reg s id a
  let v := reg s id b
  .next (newelThen s (wordNewel 2 a b 0 0) (fld n 8 56 != 0 || fld v 32 32 != 0) 0 0 fun cl =>
    if v.toNat ≤ (semOf s cl n.toNat).toNat then finish s id else parkOn s id (.semwait a b))

/-- R251. -/
def execSemrd (a b : BitVec 5) (x : BitVec 9) (r : BitVec 1) (s : State) : Res :=
  let id := s.cur
  let n := reg s id b
  .next (newelThen s (wordNewel 3 a b x r) (a == 0 || fld n 8 56 != 0) x r fun cl =>
    finishReg s id a ((semOf s cl n.toNat).zeroExtend 64))

/-- R247: copies bound to a barrier. -/
def boundTo (b : Nat) (c : CopyCmd) : Bool := fld c.ctl 47 1 == 1 && fld c.ctl 41 6 == b

/-- R246: halted commands that `f` names are abandoned. -/
def abandonIf (s : State) (cl : Nat) (f : CopyCmd → Bool) : State :=
  let k := clusterOf s cl
  setCluster s cl { k with engines := k.engines.map fun q => q.filter fun c => !(c.state == .halted && f c) }

/-- R254: in every state; parked waiters complete with status 2, and halted copies bound to the barrier are abandoned. -/
def execBarinit (a b : BitVec 5) (x : BitVec 9) (r : BitVec 1) (s : State) : Res :=
  let id := s.cur
  let n := reg s id a
  let v := reg s id b
  .next (newelThen s (wordNewel 4 a b x r) (fld n 6 58 != 0 || v == 0 || fld v 16 48 != 0) x r fun cl =>
    let y := barOf s cl n.toNat
    let u := setBar (abandonIf s cl (boundTo n.toNat)) cl n.toNat { y with exp := v.toNat, cnt := 0, state := .normal }
    finish (wakeBar u cl n.toNat 2 fun _ => true) id)

/-- R252. -/
def execBararr (a b : BitVec 5) (x : BitVec 9) (r : BitVec 1) (s : State) : Res :=
  let id := s.cur
  let v := reg s id b
  let n := fld v 0 6
  .next (newelThen s (wordNewel 5 a b x r) (fld v 6 10 != 0 || fld v 32 32 != 0) x r fun cl =>
    let y := barOf s cl n
    if y.state ≠ .normal then trapHere s id cBARRIER_FAULT (BitVec.ofNat 64 n)
    else
      match arrive s cl n (fld v 16 16 + 1) with
      | (u, ovr) =>
        finishReg (raise u id (flagIf ovr flagBAROVR)) id a (BitVec.ofNat 64 ((if y.phase then 256 else 0) + n)))

/-- R253. -/
def execBarwait (a b : BitVec 5) (s : State) : Res :=
  let id := s.cur
  let v := reg s id b
  let n := fld v 0 6
  .next (newelThen s (wordNewel 6 a b 0 0) (fld v 6 2 != 0 || fld v 9 55 != 0) 0 0 fun cl =>
    let y := barOf s cl n
    if y.state = .uninit then trapHere s id cBARRIER_FAULT (BitVec.ofNat 64 n)
    else if y.phase ≠ (fld v 8 1 == 1) then finishReg s id a 0
    else if y.state = .faulted then finishReg s id a 1
    else parkOn s id (.barwait a b))

end Sys2Proof.Machine
end

