-- ==== Sys2Proof/Machine/Copy.lean ====
section
/-!
DEFINITION. Copy engines (R239-R248).
-/

namespace Sys2Proof.Machine

/-! ## The control word and the geometry (R240, R241) -/

def ctLen (w : Word) : Nat := fld w 0 32
def ctSem (w : Word) : Nat := fld w 32 8
def ctSemv (w : Word) : Bool := fld w 40 1 == 1
def ctBar (w : Word) : Nat := fld w 41 6
def ctBarv (w : Word) : Bool := fld w 47 1 == 1
def ctDk (w : Word) : Nat := fld w 48 2
def ctTgt (w : Word) : Nat := fld w 50 3
def ctSelf (w : Word) : Bool := fld w 53 1 == 1
def ctZlog (w : Word) : Nat := fld w 54 4
def geoSstr (g : Word) : Nat := fld g 40 24
def geoDstr (g : Word) : Nat := fld g 16 24
def geoRows (g : Word) : Nat := fld g 0 16

/-- CPYG: the element size. -/
def gatherSize (w : Word) : Nat := 8 * 2 ^ ctZlog w

/-- The bytes that a command delivers. -/
def copyTotal (op : Nat) (ctl ext : Word) : Nat :=
  match op with
  | 1 => geoRows ext * ctLen ctl
  | 2 => ctLen ctl * gatherSize ctl
  | _ => ctLen ctl

/-- A range of a strided walk: its first address and the bytes up to its end. -/
def walkBytes (str rows len : Nat) : Nat := if rows = 0 ∨ len = 0 then 0 else str * (rows - 1) + len

/-- R242: the destination range, empty for a FIFO. -/
def copyDstBytes (op : Nat) (ctl ext : Word) : Nat :=
  if ctDk ctl ≠ 0 then 0
  else if op = 1 then walkBytes (geoDstr ext) (geoRows ext) (ctLen ctl) else copyTotal op ctl ext

/-- R242: the source range; that of CPYG depends on its indexes. -/
def copySrcBytes (op : Nat) (ctl ext : Word) : Nat :=
  match op with
  | 0 => ctLen ctl
  | 1 => walkBytes (geoSstr ext) (geoRows ext) (ctLen ctl)
  | _ => 0

/-- R242: a byte range that is canonical and lies wholly inside or wholly outside the Atrium window. -/
def rangeOk (a : Word) (n : Nat) : Bool :=
  n == 0 ||
    (let z := a + BitVec.ofNat 64 (n - 1)
     decide (a.toNat + n ≤ 2 ^ 64) && canonical a && canonical z && fld a 47 1 == fld z 47 1 && inAtrium a == inAtrium z)

/-- R242 item 1. -/
def copyIllegal (op : Nat) (dst ctl ext : Word) : Bool :=
  fld ctl 58 6 != 0 || ctDk ctl == 3 || (ctSelf ctl && ctTgt ctl != 0) ||
    (ctDk ctl == 0 && (ctSelf ctl || ctTgt ctl != 0)) || (ctDk ctl != 0 && dst != 0) ||
    (if op = 2 then decide (6 < ctZlog ctl) else ctZlog ctl != 0) ||
    (ctDk ctl != 0 && copyTotal op ctl ext % 64 != 0) ||
    (op == 1 && (decide (2 ^ 32 ≤ geoRows ext * ctLen ctl) || (ctDk ctl != 0 && geoDstr ext != 0)))

/-- R242: the core whose FIFO a command names. -/
def copyTarget (id : Nat) (ctl : Word) : Nat := if ctSelf ctl then coreIdx id else 8 * clusterIdx id + ctTgt ctl

/-- R242 item 4: the values that must be multiples, with what they must be multiples of, in the order in which TVAL takes them (log
entry 100). -/
def copyAligned (op : Nat) (dst src ctl ext : Word) : List (Word × Nat) :=
  (if ctDk ctl = 0 then [(dst, 8)] else []) ++ (if op = 3 then [] else [(src, 8)]) ++
    (if op = 2 then [] else [(BitVec.ofNat 64 (ctLen ctl), 8)]) ++
    (if op = 1 then [(BitVec.ofNat 64 (geoSstr ext), 8), (BitVec.ofNat 64 (geoDstr ext), 8)] else []) ++
    (if op = 2 then [(ext, 4)] else [])

/-- R242 item 5: the first range that is not allowed, of destination, source and index list (log entry 100). -/
def copyBadRange (op : Nat) (dst src ctl ext : Word) : Option Word :=
  if !rangeOk dst (copyDstBytes op ctl ext) then some dst
  else if !rangeOk src (copySrcBytes op ctl ext) then some src
  else if op = 2 ∧ ctLen ctl ≠ 0 ∧ (rangeOk ext (4 * ctLen ctl) && inAtrium ext) = false then some ext
  else none

/-! ## Engines -/

/-- The queue of an engine. -/
def engineQueue (s : State) (cl e : Nat) : List CopyCmd := listGet [] (clusterOf s cl).engines e

/-- The queue of an engine replaced. -/
def setEngine (s : State) (cl e : Nat) (q : List CopyCmd) : State :=
  setCluster s cl { clusterOf s cl with engines := listSet [] (clusterOf s cl).engines e q }

/-- R247: the halted command of an engine. -/
def haltedCmd (s : State) (cl e : Nat) : Option CopyCmd := (engineQueue s cl e).find? fun c => c.state == .halted

/-- The commands of a cluster that have not ended. -/
def clusterCmds (s : State) (cl : Nat) : List CopyCmd := (clusterOf s cl).engines.flatten

/-- R210, R242, R243: a checked command traps because its engine is halted and its queue is full, waits for a queue entry or behind an
SBAR, or is accepted. -/
def acceptCopy (s : State) (id op : Nat) (dst src ctl ext : Word) (e : BitVec 2) (blk : Block) : State :=
  let cl := clusterIdx id
  let q := engineQueue s cl e.toNat
  let t := strandOf s id
  let full := decide (16 ≤ q.length)
  if full && (haltedCmd s cl e.toNat).isSome then trapHere s id cCOPY_FAULT (BitVec.ofNat 64 e.toNat)
  else if full || streamFenced s id 3 then blockOn s id blk
  else
    let k := clusterOf s cl
    let c : CopyCmd := ⟨t.issuer, coreIdx id, slotIdx id, stLanding t, stSuper t, t.tag, op, dst, src, ctl, ext, .queued, 0, 0, 0,
      k.accepted⟩
    finish (setCluster s cl { k with engines := listSet [] k.engines e.toNat (q ++ [c]), accepted := k.accepted + 1 }) id

/-- R242: the checks at issue, in order; a command that waits has passed them. -/
def copyOp (op : Nat) (w : BitVec 32) (dst src ctl ext : Word) (e : BitVec 2) (blk : Block) (s : State) : State :=
  let id := s.cur
  if (strandOf s id).blocked = some blk then acceptCopy s id op dst src ctl ext e blk
  else if copyIllegal op dst ctl ext then trapIllegal s id w
  else if ctDk ctl ≠ 0 ∧ (coreOf s (copyTarget id ctl)).enabled = false then
    trapHere s id cCOORD (BitVec.ofNat 64 (copyTarget id ctl))
  else
    match (copyAligned op dst src ctl ext).find? fun p => p.1.toNat % p.2 != 0 with
    | some p => trapHere s id cMISALIGN p.1
    | none =>
      match copyBadRange op dst src ctl ext with
      | some a => trapHere s id cACCESS a
      | none =>
        if ctBarv ctl ∧ (barOf s (clusterIdx id) (ctBar ctl)).state ≠ .normal then
          trapHere s id cBARRIER_FAULT (BitVec.ofNat 64 (ctBar ctl))
        else acceptCopy s id op dst src ctl ext e blk

/-- The word of a copy instruction. -/
def wordCopy (op : BitVec 3) (a b c : BitVec 5) (e : BitVec 2) : BitVec 32 := wordR 0x31 a b c (e ++ op ++ 0#6)

/-- R241. -/
def execCpy (a b c : BitVec 5) (e : BitVec 2) (s : State) : Res :=
  .next (copyOp 0 (wordCopy 0 a b c e) (reg s s.cur a) (reg s s.cur b) (reg s s.cur c) 0 e (.copy 0 a b c e) s)

/-- R241: sC + 1 is the geometry. -/
def execCpy2d (a b : BitVec 5) (c : BitVec 4) (e : BitVec 2) (s : State) : Res :=
  .next (copyOp 1 (wordCopy 1 a b (pairReg c) e) (reg s s.cur a) (reg s s.cur b) (reg s s.cur (pairReg c))
    (reg s s.cur (pairOdd c)) e (.copy 1 a b (pairReg c) e) s)

/-- R241: sC + 1 is the address of the index list. -/
def execCpyg (a b : BitVec 5) (c : BitVec 4) (e : BitVec 2) (s : State) : Res :=
  .next (copyOp 2 (wordCopy 2 a b (pairReg c) e) (reg s s.cur a) (reg s s.cur b) (reg s s.cur (pairReg c))
    (reg s s.cur (pairOdd c)) e (.copy 2 a b (pairReg c) e) s)

/-- R241: sB is the pattern. -/
def execCpyf (a b c : BitVec 5) (e : BitVec 2) (s : State) : Res :=
  .next (copyOp 3 (wordCopy 3 a b c e) (reg s s.cur a) (reg s s.cur b) (reg s s.cur c) 0 e (.copy 3 a b c e) s)

/-- R242: a command that waits for a queue entry is tried again. -/
def execCopyQueueEntry (id : Nat) (s : State) : Res :=
  match (strandOf s id).blocked with
  | some (.copy op a b c e) =>
    let x := if op = 1 ∨ op = 2 then reg s id (c ||| 1) else 0
    .next (retryIssue s id
      (copyOp op.toNat (wordCopy op a b c e) (reg s id a) (reg s id b) (reg s id c) x e (.copy op a b c e)))
  | _ => .next s

/-! ## Order of execution (R243, R244) -/

/-- Bytes of the Atrium as a range of offsets. -/
abbrev Extent := Option (Nat × Nat)

/-- The Atrium offsets of the bytes of a range that lie in the window. -/
def extentOf (a : Word) (n : Nat) : Extent :=
  let lo := max a.toNat 0x7FFFFF800000
  let hi := min (a.toNat + n) (2 ^ 47)
  if lo < hi then some (lo - 0x7FFFFF800000, hi - 0x7FFFFF800000) else none

/-- The range from the lowest to the highest byte of two. -/
def joinExtent : Extent → Extent → Extent
  | none, y => y
  | x, none => x
  | some x, some y => some (min x.1 y.1, max x.2 y.2)

/-- The bytes that two ranges share. -/
def overlap : Extent → Extent → Extent
  | some x, some y => if max x.1 y.1 < min x.2 y.2 then some (max x.1 y.1, min x.2 y.2) else none
  | _, _ => none

/-- Two ranges share a byte. -/
def meets (x y : Extent) : Bool := (overlap x y).isSome

/-- R241: index `k` of a CPYG. -/
def gatherIndex (s : State) (cl : Nat) (c : CopyCmd) (k : Nat) : Nat :=
  cellsRead (clusterOf s cl).atrium (c.ext.toNat + 4 * k - 0x7FFFFF800000) 4

/-- R243: the Atrium bytes that a command writes: one range, or one per row of CPY2D. -/
def writeExtents (c : CopyCmd) : List Extent :=
  if ctDk c.ctl ≠ 0 then []
  else if c.op = 1 then
    (List.range (geoRows c.ext)).map fun r => extentOf (c.dst + BitVec.ofNat 64 (geoDstr c.ext * r)) (ctLen c.ctl)
  else [extentOf c.dst (copyDstBytes c.op c.ctl c.ext)]

/-- R243: a command's Atrium extent, index list included. -/
def fullExtent (s : State) (cl : Nat) (c : CopyCmd) : Extent :=
  let r := joinExtent (extentOf c.dst (copyDstBytes c.op c.ctl c.ext)) (extentOf c.src (copySrcBytes c.op c.ctl c.ext))
  if c.op = 2 then
    (List.range (ctLen c.ctl)).foldl (fun x k =>
      joinExtent x (extentOf (c.src + BitVec.ofNat 64 (gatherSize c.ctl * gatherIndex s cl c k)) (gatherSize c.ctl)))
      (joinExtent r (extentOf c.ext (4 * ctLen c.ctl)))
  else r

/-- The FIFO that a command delivers to. -/
def cmdFifo (c : CopyCmd) : Option (Nat × Nat) :=
  if ctDk c.ctl = 0 then none else some (copyTarget (4 * c.coord + c.slot) c.ctl, ctDk c.ctl)

/-- R243: two commands conflict: they deliver to one FIFO, or one of them writes bytes that both extents hold. -/
def conflicts (s : State) (cl : Nat) (c d : CopyCmd) : Bool :=
  let both := overlap (fullExtent s cl c) (fullExtent s cl d)
  (cmdFifo c).isSome && cmdFifo c == cmdFifo d || (writeExtents c ++ writeExtents d).any (meets both)

/-- R243: the command at the head becomes ACTIVE when no earlier conflicting command is unended. -/
def execCopyStart (cl e : Nat) (s : State) : Res :=
  match engineQueue s cl e with
  | c :: r =>
    if c.state = .queued ∧ (clusterCmds s cl).all (fun d => decide (c.accepted ≤ d.accepted) || !conflicts s cl c d) then
      .next (setEngine s cl e ({ c with state := .active } :: r))
    else .next s
  | [] => .next s

/-- R244: every earlier command of the strand has been performed. -/
def mayPerform (s : State) (cl : Nat) (c : CopyCmd) : Bool :=
  (clusterCmds s cl).all fun d => d.issuer != c.issuer || decide (c.accepted ≤ d.accepted)

/-! ## Words -/

/-- R241: the agent of a command. -/
def cmdAgent (cl : Nat) (c : CopyCmd) : Agent := ⟨c.ctx, c.supervisor, cl, c.tag, none⟩

/-- R351: the sequencing source of a command's accesses. -/
def cmdSid (c : CopyCmd) : Nat := sidOf (4 * c.coord + c.slot) 3

/-- A fault of a word: the cause and the address. -/
abbrev WordFault := Nat × Word

/-- Why a word does not move. -/
inductive WordStop where
  | fault (f : WordFault)
  /-- R358: its access may not be sent yet. -/
  | held
  deriving DecidableEq, Repr

/-- R207, R244, R358: an access of a command waits for the writes of the strand's earlier commands, and of the sequencing source, that
are not acknowledged. Only writes of the same source to the same die are followed at once, since their target keeps that order. -/
def wordHeld (s : State) (c : CopyCmd) (home : Option Nat) : Bool :=
  (s.net.unacked.any fun u => (u.sid == cmdSid c || (u.issuer == c.issuer && u.cmd != 0)) && u.cmd != c.accepted + 1 &&
    !(u.sid == cmdSid c && home == some u.dest)) ||
    decide (1024 ≤ (s.net.unacked.filter fun u => u.sid == cmdSid c).length)

/-- R241: the address that the word at a delivered offset is read from; none for a fill. The address of an index that meets an
uncorrectable error is that of its 4 bytes (log entry 102). -/
def wordSource (s : State) (cl : Nat) (c : CopyCmd) (o : Nat) : Except WordStop (Option Word) :=
  match c.op with
  | 0 => .ok (some (c.src + BitVec.ofNat 64 o))
  | 1 => .ok (some (c.src + BitVec.ofNat 64 (geoSstr c.ext * (o / ctLen c.ctl) + o % ctLen c.ctl)))
  | 2 =>
    let z := gatherSize c.ctl
    let la := c.ext.toNat + 4 * (o / z)
    if targetBad s cl (.atrium (la - 0x7FFFFF800000)) 4 then .error (.fault (cMEM_UE, BitVec.ofNat 64 la))
    else .ok (some (c.src + BitVec.ofNat 64 (z * gatherIndex s cl c (o / z) + o % z)))
  | _ => .ok none

/-- R241: the address that the word at a delivered offset is written to. -/
def wordDest (c : CopyCmd) (o : Nat) : Word :=
  if c.op = 1 then c.dst + BitVec.ofNat 64 (geoDstr c.ext * (o / ctLen c.ctl) + o % ctLen c.ctl)
  else c.dst + BitVec.ofNat 64 o

/-- R241, R245: the word at a delivered offset is read. -/
def readWord (s : State) (cl : Nat) (c : CopyCmd) (o : Nat) : State × Except WordStop Nat :=
  match wordSource s cl c o with
  | .error f => (s, .error f)
  | .ok none => (s, .ok c.src.toNat)
  | .ok (some a) =>
    match translate s (cmdAgent cl c) false a with
    | .error f => (noteFault s f, .error (.fault (f.cause, a)))
    | .ok t =>
      if targetBad s cl t 8 || unreachableTarget s (cmdSid c) t then (s, .error (.fault (cMEM_UE, a)))
      else if wordHeld s c (homeDie s t) then (s, .error .held)
      else (noteRemoteAs (targetFill s t) c.issuer 0 c.tag (cmdSid c) (cl / 16) 0 t 0, .ok (targetRead s cl t 8))

/-- A write of `n` bytes at a checked target by a strand's engine; on an unreachable home it is a write-back error (R371). -/
def engineStore (s : State) (cl tag issuer cmd sid : Nat) (t : Target) (n v : Nat) : State :=
  if unreachableTarget s sid t then
    match t with
    | .phys k _ => writeBackError s (paOf k) tag
    | _ => s
  else noteRemoteAs (targetWrite s cl tag t n v) issuer cmd tag sid (cl / 16) 1 t v

/-- R241, R245: a word is written at its destination. -/
def writeWord (s : State) (cl : Nat) (c : CopyCmd) (o v : Nat) : State × Option WordStop :=
  let a := wordDest c o
  match translate s (cmdAgent cl c) true a with
  | .error f => (noteFault s f, some (.fault (f.cause, a)))
  | .ok t =>
    if nonfiniteWrite s t 8 v then (s, some (.fault (cCODED_NONFINITE, a)))
    else if wordHeld s c (homeDie s t) then (s, some .held)
    else (engineStore s cl c.tag c.issuer (c.accepted + 1) (cmdSid c) t 8 v, none)

/-- How a command's progress ends. -/
inductive CopyEnd where
  | done
  | fault (f : WordFault)
  /-- R179: the FIFO is full. -/
  | full
  /-- R358: the next word's access may not be sent yet. -/
  | held
  deriving DecidableEq, Repr

/-- The progress of a command ends at a word that does not move. -/
def stopEnd : WordStop → CopyEnd
  | .fault f => .fault f
  | .held => .held

/-- R241: words are moved one at a time from an offset on; the answer gives the offset reached. -/
def moveWords (cl : Nat) (c : CopyCmd) : Nat → Nat → State → State × Nat × CopyEnd
  | 0, o, s => (s, o, .done)
  | n + 1, o, s =>
    match readWord s cl c o with
    | (u, .error f) => (u, o, stopEnd f)
    | (u, .ok v) =>
      match writeWord u cl c o v with
      | (w, some f) => (w, o, stopEnd f)
      | (w, none) => moveWords cl c n (o + 8) w

/-- R245: the words of a beat are gathered. -/
def gatherBeat (cl : Nat) (c : CopyCmd) : Nat → Nat → State → State × Except WordStop Nat
  | 0, _, s => (s, .ok 0)
  | n + 1, o, s =>
    match readWord s cl c o with
    | (u, .error f) => (u, .error f)
    | (u, .ok v) =>
      match gatherBeat cl c n (o + 8) u with
      | (w, .ok x) => (w, .ok (v + 2 ^ 64 * x))
      | (w, .error f) => (w, .error f)

/-- R179: the FIFO that a command delivers to has room for a beat. -/
def fifoRoom (s : State) (c : CopyCmd) : Bool :=
  let m := (coreOf s (copyTarget (4 * c.coord + c.slot) c.ctl)).mezz
  if ctDk c.ctl = 1 then decide (m.fa.length < 512) else decide (m.ft.length < 2048)

/-- R179: a beat enters the FIFO that a command names. -/
def pushBeat (s : State) (c : CopyCmd) (v : Nat) : State :=
  modMezz s (copyTarget (4 * c.coord + c.slot) c.ctl) fun m =>
    if ctDk c.ctl = 1 then { m with fa := m.fa ++ [BitVec.ofNat 512 v] } else { m with ft := m.ft ++ [BitVec.ofNat 512 v] }

/-- R179, R205, R244, R245: beats are delivered from an offset on; beats enter whole. A delivery is an access of CP to a place that is
homed on no die. -/
def moveBeats (cl : Nat) (c : CopyCmd) : Nat → Nat → State → State × Nat × CopyEnd
  | 0, o, s => (s, o, .done)
  | n + 1, o, s =>
    if fifoRoom s c then
      match gatherBeat cl c 8 o s with
      | (u, .error f) => (u, o, stopEnd f)
      | (u, .ok v) => if wordHeld u c none then (u, o, .held) else moveBeats cl c n (o + 64) (pushBeat u c v)
    else (s, o, .full)

/-- The rest of a command. -/
def moveRest (s : State) (cl : Nat) (c : CopyCmd) : State × Nat × CopyEnd :=
  let left := copyTotal c.op c.ctl c.ext - c.offset
  if ctDk c.ctl = 0 then moveWords cl c (left / 8) c.offset s else moveBeats cl c (left / 64) c.offset s

/-- The ACTIVE command at an engine's head, when R244 lets it be performed. -/
def activeCmd (s : State) (cl e : Nat) : Option CopyCmd :=
  (engineQueue s cl e).head?.filter fun c => c.state == .active && mayPerform s cl c

/-- The command at the head replaced, or removed. -/
def setHead (s : State) (cl e : Nat) (c : Option CopyCmd) : State := setEngine s cl e (c.toList ++ (engineQueue s cl e).tail)

/-- R246: the signal of a completed command. -/
def signalCopy (s : State) (cl : Nat) (c : CopyCmd) : State :=
  let u := if ctSemv c.ctl then incSem s cl (ctSem c.ctl) 1 else s
  if ctBarv c.ctl then (arrive u cl (ctBar c.ctl) 1).1 else u

/-- R246: the last word is delivered, and the command signals. Words before one that is held back (R358) are delivered. -/
def execCopyComplete (cl e : Nat) (s : State) : Res :=
  match activeCmd s cl e with
  | none => .next s
  | some c =>
    match moveRest s cl c with
    | (u, _, .done) => .next (signalCopy (setHead u cl e none) cl c)
    | (u, o, .held) => .next (setHead u cl e (some { c with offset := o }))
    | _ => .next s

/-- R242: the strands of a cluster whose commands wait for an entry of an engine that halts. -/
def copyWaiters (s : State) (cl e : Nat) : List Nat :=
  ((List.range 32).map (32 * cl + ·)).filter fun id =>
    let t := strandOf s id
    t.slot == .run && decide (16 ≤ (engineQueue s cl e).length) &&
      match t.blocked with
      | some (.copy _ _ _ _ n) => n.toNat == e
      | _ => false

/-- R101, R242: a command whose wait is pending when its engine halts traps at its copy instruction: at once, or when older entries of the
VIQ have completed and it is issued again. -/
def trapWaiters (s : State) (cl e : Nat) : State :=
  (copyWaiters s cl e).foldl (fun u id => if behind (strandOf u id) then u else trapHere u id cCOPY_FAULT (BitVec.ofNat 64 e)) s

/-- R245: a word of the command faults, and the engine halts. -/
def execCopyHalt (cl e : Nat) (s : State) : Res :=
  match activeCmd s cl e with
  | none => .next s
  | some c =>
    match moveRest s cl c with
    | (u, o, .fault f) =>
      let w := setHead u cl e
        (some { c with state := .halted, offset := o, cause := BitVec.ofNat 6 f.1, faultAddr := f.2 })
      .next (trapWaiters (if ctBarv c.ctl then faultBar w cl (ctBar c.ctl) else w) cl e)
    | _ => .next s

/-- R179: one beat is delivered once there is space. -/
def execFifoDelivery (cl e : Nat) (s : State) : Res :=
  match activeCmd s cl e with
  | none => .next s
  | some c =>
    if ctDk c.ctl = 0 ∨ copyTotal c.op c.ctl c.ext ≤ c.offset then .next s
    else
      match moveBeats cl c 1 c.offset s with
      | (u, o, .done) => .next (setHead u cl e (some { c with offset := o }))
      | _ => .next s

/-! ## Recovery (R247) -/

/-- R247: the record of a halted command. -/
def copyRecord (c : CopyCmd) : Word × Word :=
  (BitVec.ofNat 64 (2 ^ 63 + c.cause.toNat * 2 ^ 56 + fld c.faultAddr 0 48),
    BitVec.ofNat 64 (c.coord * 2 ^ 55 + c.slot * 2 ^ 53 + c.op * 2 ^ 50 + c.offset % 2 ^ 32))

/-- R254: a resumed bound copy returns its barrier to NORMAL when no other bound copy is halted. -/
def restoreBar (s : State) (cl : Nat) (c : CopyCmd) : State :=
  let b := ctBar c.ctl
  let x := barOf s cl b
  if ctBarv c.ctl && x.state == .faulted && !(clusterCmds s cl).any (fun d => d.state == .halted && boundTo b d) then
    setBar s cl b { x with state := .normal }
  else s

/-- R247. -/
def execCpyres (a : BitVec 4) (b : BitVec 5) (e : BitVec 2) (s : State) : Res :=
  let id := s.cur
  let cl := clusterIdx id
  let act := reg s id b
  let w := wordCopy 4 (pairReg a) b 0 e
  if 2 < act.toNat then .next (trapIllegal s id w)
  else if stSuper (strandOf s id) = false then .next (trapWord s id cPRIV w)
  else
    match haltedCmd s cl e.toNat with
    | none => .next (finishReg (setReg s id (pairReg a) 0) id (pairOdd a) 0)
    | some c =>
      let r := copyRecord c
      let u :=
        if act = 1 then restoreBar (setHead s cl e.toNat (some { c with state := .active })) cl c
        else if act = 2 then setHead s cl e.toNat none
        else s
      .next (finishReg (setReg u id (pairReg a) r.1) id (pairOdd a) r.2)

end Sys2Proof.Machine
end

