-- ==== Sys2Proof/Machine/Chain.lean ====
section
/-!
DEFINITION. Output ports and chaining: VSEND and VCHAIN (R255-R259).
-/

namespace Sys2Proof.Machine

/-- R257: lane values that a port holds. -/
def portUsed (k : Core) (p : Nat) : Nat := ((listGet [] k.ports p).map List.length).foldl (· + ·) 0

/-- R258: a consumer waits for the next message of a port. -/
def portAwaited (s : State) (core p : Nat) : Bool := !(portQueue s core p).isEmpty

/-- R257: a message enters a port's buffer. A longer one than the buffer enters only as a consumer takes it (log entry
97). -/
def portTakes (s : State) (core p n : Nat) : Bool :=
  let used := portUsed (coreOf s core) p
  decide (used + n ≤ 8192) || (decide (8192 < n) && used == 0 && portAwaited s core p)

/-- R257: the message leaves, whatever the masks; it waits for space in the port. -/
def execVsend (r : BitVec 5) (p : BitVec 1) (s : State) : Res :=
  let id := s.cur
  let o := vop s id (wordX 0x33 r 0 0 (0#6 ++ p)) 0 0
  let ar := (strandOf s id).arc
  .next (vecRun s o (badGroup ar r) [] [r] (fun v => srcOf v r fun e => decide (e < v.a.vl)) fun u v =>
    let msg := (List.range v.a.vl).map (srcW v r)
    if portTakes u (coreIdx id) p.toNat msg.length then
      let w := modCore u (coreIdx id) fun k =>
        { k with ports := listSet [] k.ports p.toNat (listGet [] k.ports p.toNat ++ [msg]) }
      vecEnd w o v 0 fun b => b
    else awaitArray u id o (.portSpace r p))

/-- R257: a VSEND that waits for space is tried again. -/
def execPortSpaceFree (id : Nat) (s : State) : Res :=
  match (strandOf s id).arc.waits with
  | some (.portSpace r p) => runHead s id (execVsend r p)
  | _ => .next s

/-- R255, R256: CHAINSRC := ARM 1, PORT p, SRC COORD9. -/
def execVchain (c : BitVec 9) (p : BitVec 1) (s : State) : Res :=
  let id := s.cur
  let w := wordX 0x33 0 0 c (0#5 ++ 1#1 ++ p)
  let v : Word := BitVec.ofNat 64 (0x800 + p.toNat * 0x200 + c.toNat)
  let o := vop s id w 0 0
  let k := vecIssue s id o false (finishV (modArc (returnMessage s id) id fun a => { a with chainsrc := v }) id)
  match chainBad s id v with
  | none => .next k
  | some x => if x = cCOORD ∧ heldOn (strandOf s id) = false then .next (trapDispatch s id o x (BitVec.ofNat 64 c.toNat))
    else .next (trapDispatch s id o cILLEGAL (w.zeroExtend 64))

/-- R258: a message reaches the consumer whose request has reached the port before those of the others that wait; its instruction
runs at the strand's next turn. -/
def execChainMessageArrival (id : Nat) (s : State) : Res :=
  let t := strandOf s id
  if t.arc.waits = some .chain ∧ t.arc.chainIn = none ∧ chainContended s id t.arc = false then
    match takeMessage s id with
    | some u => .next u
    | none => .next s
  else .next s

end Sys2Proof.Machine
end

