-- ==== Sys2Proof/Machine/Engines.lean ====
section
/-!
DEFINITION. The work that a strand has given to its engines, and BENG (R94, R196, R246, R325, R365, R370).
-/

namespace Sys2Proof.Machine

/-! ## The collective engine -/

/-- R369: a status word: address, cause and status. -/
def statusWord (addr : Word) (cause status : Nat) : Word :=
  BitVec.ofNat 64 (fld addr 0 48 * 2 ^ 16 + cause * 2 ^ 8 + status)

/-- R248: the engine operations of an issuer. -/
def opsOf (s : State) (issuer : Nat) : List EngineOp := s.pkg.engine.ops.filter fun o => o.issuer == issuer && !o.orphan

/-- A change to the collective engine. -/
def modEngine (s : State) (f : CollEngine → CollEngine) : State :=
  { s with pkg := { s.pkg with engine := f s.pkg.engine } }

/-- The operation is a collective with a group and a number. -/
def isColl (gid cseq : Nat) (o : EngineOp) : Bool :=
  match o.coll with
  | some d => d.gid == gid && d.cseq == cseq
  | none => false

/-- R365: the outcome of a collective that ended. -/
def outcomeOf (s : State) (gid cseq : Nat) : Option Nat :=
  (s.pkg.engine.outcomes.find? fun o => o.gid == gid && o.cseq == cseq).map fun o => o.status

/-- R365: later CSEQ values of a group that have been issued on the package, as distances from one. -/
def laterCseqs (e : CollEngine) (gid cseq : Nat) : List Nat :=
  let issued := (e.ops.filterMap (·.coll)).map (fun d => (d.gid, d.cseq)) ++ e.outcomes.map fun o => (o.gid, o.cseq)
  let far := issued.filterMap fun p => if p.1 = gid then some ((p.2 + 2 ^ 16 - cseq) % 2 ^ 16) else none
  (far.filter fun d => d != 0 && decide (d ≤ 2 ^ 15)).foldl (fun l d => insertNat d l) []

/-- R365: the distances of later CSEQ values with another that is issued: a value up to 2^15 past the last of them, or past the
outcome's own, is a later one. -/
def laterWith (o : Outcome) (cseq : Nat) : List Nat :=
  let last := o.later.foldl max 0
  let m := (((cseq : Int) - o.cseq - last) % 2 ^ 16).toNat
  let d : Int := if m ≤ 2 ^ 15 then last + m else last + m - 2 ^ 16
  if 0 < d ∧ d % 2 ^ 16 ≠ 0 then insertNat d.toNat o.later else o.later

/-- R365: an outcome is kept until 2^15 later CSEQ values of its group have been issued. -/
def keptOutcome (o : Outcome) : Bool := decide (o.later.length < 2 ^ 15)

/-- R365: a collective ends: `f` gives each local participant its status word and flags, participants of other packages get
`status`, and the outcome is kept. -/
def endColl (s : State) (gid cseq status : Nat) (f : EngineOp → Word × Word) : State :=
  modEngine s fun e =>
    let mine := fun (c : Contribution) => c.desc.gid == gid && c.desc.cseq == cseq
    { e with ops := e.ops.map fun o =>
               if isColl gid cseq o && o.ended.isNone then { o with ended := some (f o).1, flags := (f o).2 } else o,
             remote := e.remote.filter fun c => !mine c,
             sent := (e.remote.filter mine).map (fun c => (c.source, gid, cseq, c.desc.rank, status)) ++ e.sent,
             outcomes := (⟨gid, cseq, status, laterCseqs e gid cseq⟩ ::
               e.outcomes.filter fun o => !(o.gid == gid && o.cseq == cseq)).filter keptOutcome }

/-- R282, R371: an unended transfer of a purged strand delivers as many more words as a free value says, up to its end, and signals
nothing; every other operation of the strand is forgotten (log entry 23). -/
def orphanOp (s : State) (issuer : Nat) (p : EngineOp × Nat) : Option EngineOp :=
  let o := p.1
  if o.issuer ≠ issuer then some o
  else if o.coll.isNone ∧ o.ended.isNone then
    some { o with orphan := true, len := 8 * min (o.len / 8) (Config.purgedWords s.free p.2) }
  else none

/-- R282, R371: an aborted strand's operations: its unended collectives end with PEERFAULT at the other participants, and its
transfers are orphans. -/
def abandonOps (s : State) (issuer : Nat) : State :=
  let u := ((opsOf s issuer).filter fun o => o.ended.isNone).foldl (fun u o => match o.coll with
    | some d => endColl u d.gid d.cseq 3 fun _ => (statusWord 0 0 3, 0)
    | none => u) s
  modEngine { u with free := u.free + 1 } fun e => { e with ops := e.ops.zipIdx.filterMap (orphanOp u issuer) }

/-! ## Work that has not ended -/

/-- R325: the UBULK commands of a strand that have not completed. -/
def bulksOf (s : State) (id : Nat) : List UCmd :=
  (dieOf s (dieIdx id)).undercroft.filter fun c => c.issuer == (strandOf s id).issuer

/-- R370: the collectives and transfers of a strand that have not ended. -/
def openOps (s : State) (id : Nat) : List EngineOp :=
  (opsOf s (strandOf s id).issuer).filter fun o => o.ended.isNone

/-- R360: the engine's 256 entries are in use. -/
def engineFull (s : State) : Bool := decide (256 ≤ (s.pkg.engine.ops.filter fun o => o.ended.isNone).length)

/-- R370: an unreported status that is not 0. -/
def badOps (s : State) (id : Nat) : Bool :=
  (opsOf s (strandOf s id).issuer).any fun o => match o.ended with
    | some w => fld w 0 8 != 0
    | none => false

/-- R248: the lowest engine with a halted command of the strand. -/
def haltedEngine (s : State) (id : Nat) : Option Nat :=
  (List.range 4).find? fun e => (engineQueue s (clusterIdx id) e).any fun c =>
    c.state == .halted && c.issuer == (strandOf s id).issuer

/-! ## BENG -/

/-- Status bits, lowest first. -/
def statusBits : List Bool → Nat
  | [] => 0
  | b :: r => (if b then 1 else 0) + 2 * statusBits r

/-- R94, R246: copy engine `e`; a halted command counts as ended. FAULT reads 0 until DONE, also where a later command of the strand
waits behind a halted one (log entry 79). The command that is active or halted counts in QCNT and FULL (log entry 101). -/
def copyStatus (s : State) (id e : Nat) : Nat :=
  let q := engineQueue s (clusterIdx id) e
  let mine := q.filter fun c => c.issuer == (strandOf s id).issuer
  let done := mine.all fun c => c.state == .halted
  statusBits [done, done && !mine.isEmpty, (haltedCmd s (clusterIdx id) e).isSome, q.length == 16] + 16 * q.length

/-- R94, R201, R229: the strand's Mezzanine instructions have completed: none is a held entry or stands in the VIQ. -/
def mezzDone (s : State) (id : Nat) : Bool :=
  let a := (strandOf s id).arc
  (a.held ++ a.viq).all fun h => bitsOf h.word.toNat 26 6 != 0x30

/-- R196: the Mezzanine, with MXCFG and ACT in program order. -/
def mezzStatus (s : State) (id : Nat) : Nat :=
  if ownsMezz s id then
    let m := mezzOf s id
    let c := mxcfgNow s id
    let rowBeats := mxBeats (mxAfmt c) (if (activeTile { m with act := actNow s id }).wide then 256 else 128)
    let tileBeats := 128 * mxBeats (mxTfmt c) (mxK (mxAfmt c) (mxTfmt c))
    statusBits [mezzDone s id, false, decide (rowBeats ≤ m.fa.length), decide (tileBeats ≤ m.ft.length), actNow s id]
  else 1

/-- R325: the Undercroft of the die. -/
def bulkStatus (s : State) (id : Nat) : Nat :=
  let q := (dieOf s (dieIdx id)).undercroft
  let done := (bulksOf s id).isEmpty
  statusBits [done, done && s.pkg.poisoned.contains (strandOf s id).issuer, q.length == 64] + 8 * q.length

/-- R370: the collective engine. -/
def collStatus (s : State) (id : Nat) : Nat :=
  let done := (openOps s id).isEmpty
  statusBits [done, done && badOps s id, engineFull s]

/-- R94: the 16 status bits of an engine, as a strand sees them in one snapshot. -/
def engineStatus (s : State) (id e : Nat) : Nat :=
  if e ≤ 3 then copyStatus s id e
  else if e = 4 then mezzStatus s id
  else if e = 5 then bulkStatus s id
  else collStatus s id

/-- R94: the acquire at DONE holds of itself, since every access is performed as it is made (log entry 2). -/
def execBeng (e : BitVec 5) (x : BitVec 1) (b : BitVec 4) (o : BitVec 16) (s : State) : Res :=
  let id := s.cur
  if bitsOf (engineStatus s id e.toNat) b.toNat 1 = x.toNat then
    .next (jumpTo s id (branchTarget (strandOf s id) (sext o)) fun u => u)
  else .next (finish s id)

end Sys2Proof.Machine
end

