-- ==== Sys2Proof/Machine/Strands.lean ====
section
/-!
DEFINITION. The end of a strand: END, strand failure, loss and purge (R79, R97-R99, R102, R248, R281-R283, R370).
-/

namespace Sys2Proof.Machine

/-! ## The words that an ending writes (R99) -/

/-- R99: a completion word or join counter is checked as an atomic of doublewords, with ACCESS also for Atrium and CODED
addresses; `sid` is the source of its packets, `amo` says that it is an ADD (R226). -/
def endTarget (s : State) (ag : Agent) (sid : Nat) (amo : Bool) (a : Word) : Except XFault Target :=
  match atomicTarget s ag true a 8 with
  | .error f => .error f
  | .ok t =>
    if t matches .coded .. then .error (xfault cACCESS)
    else if atomicUnsupported s amo t then .error (xfault cATOMIC_UNSUPPORTED)
    else if targetBad s ag.cluster t 8 || unreachableTarget s sid t then .error (xfault cMEM_UE)
    else .ok t

/-- R98, R99: a completion word after an ending with flags and, for a fault, a cause. -/
def completionWord (old : Word) (flags : Nat) (fault : Option Nat) : Word :=
  let w := setFld (old ||| BitVec.ofNat 64 (flags % 2 ^ 16)) 63 1 1
  match fault with
  | none => w
  | some c => if fld old 62 1 = 1 then w else setFld (setFld w 62 1 1) 56 6 c

/-- What an ending needs to know of its strand. -/
structure Ending where
  agent : Agent
  id : Nat
  cmpl : Nat
  join : Nat
  foyerJoin : Bool
  flags : Nat
  fault : Option Nat
  deriving DecidableEq, Repr

/-- R99: a doubleword at a target becomes `f` of itself. -/
def endWrite (s : State) (e : Ending) (t : Target) (f : Word → Word) : State :=
  let cl := e.agent.cluster
  let v := f (BitVec.ofNat 64 (targetRead s cl t 8))
  noteRemote (targetWrite s cl e.agent.tag t 8 v.toNat) e.id 0 2 t v.toNat

/-- R98, R99: the completion word is written; the answer says whether it could not be. -/
def writeCompletion (s : State) (e : Ending) : State × Bool :=
  if e.cmpl = 0 then (s, false)
  else
    match endTarget s e.agent (sidOf e.id 0) false (addr48 e.cmpl) with
    | .error f => (noteFault s f, true)
    | .ok t => (endWrite s e t fun w => completionWord w e.flags e.fault, false)

/-- R99, R334: the join counter is decremented; a Foyer join is reached by its physical address. -/
def decrementJoin (s : State) (e : Ending) : State × Bool :=
  if e.join = 0 then (s, false)
  else if e.foyerJoin then
    if lineBad s (e.join / 64) then (s, true)
    else (physWrite s e.join 8 (((physRead s e.join 8) + 2 ^ 64 - 1) % 2 ^ 64), false)
  else
    match endTarget s e.agent (sidOf e.id 0) true (addr48 e.join) with
    | .error f => (noteFault s f, true)
    | .ok t => (endWrite s e t fun w => w - 1, false)

/-- R99, R281: the completion word, then the join counter; a word that cannot be written is left, and a completion-loss
report is sent. -/
def writeEnding (s : State) (e : Ending) : State :=
  let a := writeCompletion s e
  let b := decrementJoin a.1 e
  if a.2 || b.2 then reportLoss b.1 e.agent.tag else b.1

/-! ## Slots that become FREE -/

/-- R266: a Vault area returns to the free map of its landing. -/
def freeArea (s : State) (die l : Nat) (area : Option Nat) : State :=
  match area with
  | none => s
  | some k => let x := landingOf s die l
    setLanding s die l { x with areas := x.areas.filter (· != k) }

/-- R173: the claim of an issuer on its core's Mezzanine ends. -/
def endClaim (s : State) (core issuer : Nat) : State :=
  match (coreOf s core).mezz.owner with
  | some (g, _) => if g = issuer then modMezz s core fun m => { m with owner := none } else s
  | none => s

/-- R125: the disabled bays that stay available to a strand whose slot becomes FREE: those of its resume record, or none. -/
def keptBays (t : Strand) (record : Bool) (ks : List (Nat × Nat)) : List (Nat × Nat) :=
  ks.filter fun p => p.2 != t.issuer || (record && bayHeld t.arc p.1)

/-- R79: a slot becomes FREE: what it waits for and holds is given up, a message that it has not consumed goes back to its port
(R257); `area` says that its Vault area returns. -/
def freeSlot (s : State) (id : Nat) (area : Bool) : State :=
  let t := strandOf s id
  let c := coreIdx id
  let u := breakStrand (releaseBays (withdrawRequest (returnMessage s id) id) id) id
  let v := modCore u c fun k =>
    { k with mezz := { k.mezz with waiters := k.mezz.waiters.filter (· != slotIdx id) },
             keepers := keptBays t (!area) k.keepers,
             sequencer := if k.sequencer = some (slotIdx id) then none else k.sequencer }
  let w := if area then freeArea v (dieIdx id) (stLanding t) t.vaultArea else v
  setStrand w id (Strand.reset id)

/-- R246: commands of an issuer leave the engines of a cluster: the halted ones, or all. -/
def abandonCopies (s : State) (cl issuer : Nat) (all : Bool) : State :=
  let k := clusterOf s cl
  let keep := fun (c : CopyCmd) => c.issuer != issuer || !(all || c.state == .halted)
  setCluster s cl { k with engines := k.engines.map fun q => q.filter keep }

/-- R281, R282: a strand is aborted: nothing is written to its completion word or join counter. -/
def abortStrand (s : State) (id : Nat) : State :=
  let g := (strandOf s id).issuer
  freeSlot (endClaim (abandonOps (abandonCopies s (clusterIdx id) g true) g) (coreIdx id) g) id true

/-- R281: a strand is lost. -/
def loseStrand (s : State) (id : Nat) : State := reportLoss (abortStrand s id) (strandOf s id).tag

/-- R281, R282: a saved strand's resume record is taken away, with its claim, its copies and its Vault area. -/
def dropSaved (s : State) (die l : Nat) (e : Entry) : State :=
  let c := resumeCore e.record
  let k := endClaim (abandonOps (abandonCopies s (c / 8) e.issuer true) e.issuer) c e.issuer
  let u := modCore k c fun y => { y with keepers := y.keepers.filter fun p => p.2 != e.issuer }
  let x := landingOf u die l
  freeArea (setLanding u die l { x with saved := x.saved.filter fun f => f.issuer != e.issuer }) die l e.area

/-! ## Purge (R282) -/

/-- The strands, among a list, that are not FREE and satisfy `p`. -/
def busyStrands (s : State) (p : Nat → Strand → Bool) : List Nat :=
  (s.strands.filter fun q => q.2.slot != .free && p q.1 q.2).map (·.1)

/-- R282: saved records of a die that satisfy `p` are removed. -/
def dropSavedIf (s : State) (die : Nat) (p : Entry → Bool) : State :=
  (List.range 32).foldl (fun u l =>
    ((landingOf u die l).saved.filter p).foldl (fun u e => dropSaved u die l e) u) s

/-- R282: queued and waiting records of a die that satisfy `p` are removed. -/
def dropQueuedIf (s : State) (die : Nat) (p : Entry → Bool) : State :=
  let d := dieOf s die
  let out := d.waitPool.filter fun w => p w.entry
  let u := setDie s die
    { d with landings := d.landings.map fun q =>
               (q.1, { q.2 with queue := q.2.queue.filter fun e => !p e, spill := q.2.spill.filter fun e => !p e.2 }),
             waitPool := d.waitPool.filter fun w => !p w.entry }
  { u with mem := { u.mem with tags := u.mem.tags.filter fun t =>
      !(t.watch && t.strand.isNone && out.any fun w => t.lane == some w.entry.issuer) } }

/-- R282: a launch's tag is purged from every die of the package. -/
def purgeTag (s : State) (tag : Nat) : State :=
  let u := (List.range 4).foldl (fun u d =>
    dropSavedIf (dropQueuedIf u d fun e => e.tag == tag) d fun e => e.tag == tag) s
  (busyStrands u fun _ t => t.tag == tag).foldl abortStrand u

/-! ## END (R99, R248, R370) -/

/-- R99: the ending is one in HANDLER, or a strand failure. -/
def endsFaulted (t : Strand) : Bool := stSuper t && stNest t

/-- R235: the slot drains for a resume record whose save slot could not be read; no strand runs at NEST = 1 and U. -/
def resumeFailed (t : Strand) : Bool := t.slot == .drain && stNest t && !stSuper t

/-- R99, R235: the ending is recorded as faulted. -/
def drainsFaulted (t : Strand) : Bool := endsFaulted t || resumeFailed t

/-- R99: how a strand in its slot ends. -/
def endingOf (s : State) (id : Nat) : Ending :=
  let t := strandOf s id
  ⟨agentOf s id, id, recCmpl t.record, recJoin t.record, t.foyerJoin,
    (opsOf s t.issuer).foldl (fun f o => f ||| o.flags.toNat) t.sflags.toNat,
    if drainsFaulted t then some (fld t.cause 0 6) else none⟩

/-- R99: the cause and address of the first word that END cannot write. -/
def endCheck (s : State) (e : Ending) : Option (Nat × Word × State) :=
  let one := fun (amo : Bool) (a : Nat) =>
    if a = 0 then none
    else match endTarget s e.agent (sidOf e.id 0) amo (addr48 a) with
      | .error f => some (f.cause, addr48 a, noteFault s f)
      | .ok _ => none
  (one false e.cmpl).or (if e.foyerJoin then none else one true e.join)

/-- R99: accesses of the strand, its copies or its UBULK commands have not ended. -/
def endPending (s : State) (id : Nat) : Bool := unperformed s id || !(bulksOf s id).isEmpty

/-- R99, R248, R370: END waits for the strand's commands, traps on a halted copy, at once even while other commands have not ended
(log entry 56), on an unreported status or a word that cannot be written, and drains. An END in HANDLER abandons its halted copies and traps on none of these. -/
def execEndStrand (s : State) : Res :=
  let id := s.cur
  let t := strandOf s id
  let f := endsFaulted t
  let u := if f then abandonCopies s (clusterIdx id) t.issuer false else s
  match (if f then none else haltedEngine s id) with
  | some e => .next (trapHere s id cCOPY_FAULT (BitVec.ofNat 64 e))
  | none =>
    if endPending u id then .next (blockOn u id .endWait)
    else if !(openOps u id).isEmpty then .next (parkOn u id .endWait)
    else if !f && badOps u id then .next (trapHere u id cCOPY_FAULT 4)
    else
      match (if f then none else endCheck u (endingOf u id)) with
      | some (c, a, w) => .next (trapHere w id c a)
      | none => .next (modStrand u id fun x => { x with slot := .drain, blocked := none, hostAnswer := none })

/-- R99: the completion word is written, the join counter decremented, and the slot becomes FREE. A strand failure waits here
for its commands, collectives and transfers (R102), and so does a resume that failed (R235). -/
def drain (s : State) (id : Nat) : State :=
  let t := strandOf s id
  let u := if drainsFaulted t then abandonCopies s (clusterIdx id) t.issuer false else s
  if endPending u id || !(openOps u id).isEmpty then u
  else
    let v := writeEnding u (endingOf u id)
    let w := modEngine v fun e => { e with ops := e.ops.filter fun o => o.issuer != t.issuer }
    freeSlot (endClaim w (coreIdx id) t.issuer) id true

/-- R99: a slot in DRAIN goes on. -/
def execEndDrain (id : Nat) (s : State) : Res := .next (if (strandOf s id).slot = .drain then drain s id else s)

/-! ## WAIT (R97) -/

/-- R97: an engine command of the strand is outstanding, so that a WAIT parks; otherwise it ends at once. -/
def execWait (s : State) : Res :=
  let id := s.cur
  if !(issuedCmds s (clusterIdx id) (strandOf s id).issuer).isEmpty || !(bulksOf s id).isEmpty || !(openOps s id).isEmpty then
    .next (parkOn s id .wait)
  else .next (finish s id)

/-- R97: a WAIT ends after 4,096 cycles. -/
def execWaitTimeout (id : Nat) (s : State) : Res :=
  let t := strandOf s id
  if t.slot = .park ∧ t.blocked = some .wait then
    .next (modStrand (finish s id) id fun x => { x with slot := .run })
  else .next s

/-! ## Loss of cores and dies (R281, R373) -/

/-- R281: a core is disabled: its strands, and those that it holds saved, are lost. -/
def disableCore (s : State) (core : Nat) : State :=
  let die := core / 128
  let gone := ((dieOf s die).landings.map fun q => q.2.saved.filter fun e => resumeCore e.record == core).flatten
  let u := (busyStrands s fun i _ => coreIdx i == core).foldl loseStrand s
  let v := gone.foldl (fun u e => reportLoss u e.tag) (dropSavedIf u die fun e => resumeCore e.record == core)
  modCore v core fun k => { k with enabled := false }

/-- The launch tags of all work that a die holds: queued, waiting, saved and running. -/
def workOf (s : State) (die : Nat) : List Nat :=
  let d := dieOf s die
  ((d.landings.map fun q => (q.2.queue.map (·.tag)) ++ (q.2.spill.map (·.2.tag)) ++ (q.2.saved.map (·.tag))).flatten) ++
    (d.waitPool.map fun w => w.entry.tag) ++ (busyStrands s fun i _ => dieIdx i == die).map fun i => (strandOf s i).tag

/-- R302, R307: every dirty line that a die holds reaches its DRAM or carrier. -/
def writeBackDie (s : State) (here hereC : Nat → Bool) : State :=
  let u := (s.mem.coded.filter fun p => hereC p.1 && p.2.dirty).foldl (fun u p => codecWrite u (p.1 / 2 ^ 34) (p.1 % 2 ^ 34)) s
  (u.mem.l2.filter fun p => here p.1 && p.2.dirty).foldl (fun u p => writeBack u p.1) u

/-- A die after a reset: its dirty lines have been written back, so that what DONE launches wrote stays (R339); nothing is cached,
queued or running, and its landing state is as after turnover (R373). What only turnover clears stays: TCM (R88), the Mezzanines
(R175), the Atria (R238), the Newels (R249) and the messages of the output ports (R257). -/
def clearDie (s : State) (die : Nat) : State :=
  let here := fun (k : Nat) => k < 2 ^ 34 && decide (64 * k / dieBytes = die)
  let hereC := fun (k : Nat) => decide (blockPa (regionOf s (k / 2 ^ 34)) (k % 2 ^ 34) / dieBytes = die)
  let w := dropSavedIf (dropQueuedIf (writeBackDie s here hereC) die fun _ => true) die fun _ => true
  let u := (busyStrands w fun i _ => dieIdx i == die).foldl abortStrand w
  let old := dieOf u die
  let v := setDie u die { Die.reset die with status := old.status, tableBase := old.tableBase }
  let keep := fun (l : LineKey) => match l with
    | .phys n => !here n
    | .coded r j => !hereC (codedKey r j)
    | .host _ => true
  let unitDie := fun (u : Nat) => if u < 512 then u / 128 else (u - 512) / 16
  { v with mem := { v.mem with l2 := v.mem.l2.filter (fun p => !here p.1), coded := v.mem.coded.filter (fun p => !hereC p.1),
                               l2Poison := v.mem.l2Poison.filter (fun n => !here n),
                               codedPoison := v.mem.codedPoison.filter (fun k => !hereC k),
                               tlb := v.mem.tlb.filter (fun e => unitDie e.unit != die),
                               tags := v.mem.tags.filter fun t => keep t.line } }

end Sys2Proof.Machine
end

