-- ==== Sys2Proof/Machine/Spawn.lean ====
section
/-!
DEFINITION. Spawning and joining: SPAWN, SPAWNC, JDEC, LREAD and the wait pool (R267-R273).
-/

namespace Sys2Proof.Machine

/-- The word of a scheduling instruction (R269). -/
def wordSched (a b c : BitVec 5) (fn : BitVec 11) : BitVec 32 := wordR 0x34 a b c fn

/-! ## The wait pool (R272) -/

/-- R272: the place of a counter. -/
def placeOf (t : Target) : Place :=
  match t with
  | .phys k sl => ⟨if k < 2 ^ 40 then 0 else 1, k, sl⟩
  | .host a => ⟨2, a, false⟩
  | .atrium o => ⟨0, o, false⟩
  | .coded _ o sl => ⟨0, o, sl⟩

/-- The target of a counter's place. -/
def placeTarget (p : Place) : Target := if p.kind = 2 then .host p.addr else .phys p.addr p.isSealed

/-- R272: the watch of a wait-pool entry. -/
def poolWatch (w : WaitEntry) : Option TagEntry :=
  (targetLine (placeTarget w.counter)).map fun l => ⟨l, none, some w.entry.issuer, true, 0, false, false⟩

/-- R272: a wait-pool entry's watch is taken away. -/
def dropPoolWatch (s : State) (w : WaitEntry) : State :=
  { s with mem := { s.mem with tags := s.mem.tags.filter fun t =>
      !(t.watch && t.strand.isNone && t.lane == some w.entry.issuer) } }

/-- R272: a wait-pool entry's watch stands. -/
def poolWatched (s : State) (w : WaitEntry) : Bool :=
  s.mem.tags.any fun t => t.watch && t.strand.isNone && t.lane == some w.entry.issuer

/-- The wait pool of a die replaced. -/
def setPool (s : State) (die : Nat) (p : List WaitEntry) : State := setDie s die { dieOf s die with waitPool := p }

/-- R272: an eligible record moves to the tail of its landing, once there is room; a landing with EN = 0 accepts none (R262). -/
def settleWait (s : State) (die i : Nat) : State :=
  match (dieOf s die).waitPool[i]? with
  | none => s
  | some w =>
    let l := recLanding w.entry.record
    if w.eligible && landingOn (dieOf s die) l && !landingFull s die l then
      enqueue (setPool s die ((dieOf s die).waitPool.eraseIdx i)) die l w.entry
    else s

/-- R272: the counter of a waiting record is read: exactly zero makes the record eligible, an uncorrectable error loses it,
and any other value leaves it waiting with its watch placed again. -/
def readCounter (s : State) (die i : Nat) : State :=
  match (dieOf s die).waitPool[i]? with
  | none => s
  | some w =>
    if w.eligible then settleWait s die i
    else
      let t := placeTarget w.counter
      let u := dropPoolWatch s w
      if targetBad s 0 t 8 || unreachableTarget s (hubSid 0) t then
        addReport (reportLoss (setPool u die ((dieOf s die).waitPool.eraseIdx i)) w.entry.tag) 272 w.entry.tag
      else if targetRead s 0 t 8 = 0 then
        settleWait (setPool u die ((dieOf s die).waitPool.set i { w with eligible := true })) die i
      else (poolWatch w).elim u (placeTag u)

/-- R272: a counter whose watch fired or was evicted is read again; an eligible record goes on when its landing has room. -/
def execCounterReread (die index : Nat) (s : State) : Res :=
  match (dieOf s die).waitPool[index]? with
  | none => .next s
  | some w => .next (if w.eligible || !poolWatched s w then readCounter s die index else s)

/-! ## SPAWN and SPAWNC (R270) -/

/-- The four doublewords at an address. -/
def recordChunks (a : Word) : List (Word × Nat) := (List.range 4).map fun i => (a + BitVec.ofNat 64 (8 * i), 8)

/-- The address of the first doubleword that cannot be read. -/
def firstBad (s : State) (id : Nat) (cs : List (Word × Nat)) (a : Word) : Word :=
  ((cs.find? fun c => match translate s (agentOf s id) false c.1 with
    | .error _ => true
    | .ok t => targetBad s (clusterIdx id) t 8 || unreachableTarget s (sidOf id 0) t).map (·.1)).getD a

/-- R270: a counter that may be absent, checked as an atomic of a strand. -/
def optTarget (s : State) (id : Nat) (a : Option Word) : Except XFault (Option Target) :=
  match a with
  | none => .ok none
  | some x =>
    match endTarget s (agentOf s id) (sidOf id 0) true x with
    | .error f => .error f
    | .ok t => .ok (some t)

/-- R224, R270: the increment of a counter that may be absent; one on a HOST page waits for the host's answer `ans`, and takes
ACCESS at its address on a failed one. -/
def joinThen (s : State) (id : Nat) (ans : Option Bool) (join : Word) (t : Option Target) (k : State → State) : State :=
  match t with
  | none => k s
  | some t =>
    if isHost t ∧ ans = none then blockOn s id .hostPage
    else if isHost t ∧ ans = some false then trapHere s id cACCESS join
    else
      let v := (targetRead s (clusterIdx id) t 8 + 1) % 2 ^ 64
      k (noteRemote (targetWrite s (clusterIdx id) (strandOf s id).tag t 8 v) id 0 2 t v)

/-- R270: what SPAWN and SPAWNC do once the record is read: `ctr` is the counter's address, none for SPAWN, and `ans` the answer
of the host to the instruction (log entry 13). -/
def spawnRecord (s : State) (id : Nat) (w : BitVec 32) (a : BitVec 5) (r : Record) (ctr : Option Word) (ans : Option Bool) :
    State :=
  let d := if recDieAny r then dieIdx id else recDie r
  let l := recLanding r
  let join := addr48 (recJoin r)
  if (dieOf s d).status = .disabled then trapHere s id cCOORD (BitVec.ofNat 64 (d * 128))
  else if (dieOf s d).status = .out then blockOn s id (.landing d)
  else
    match optTarget s id (if recJoin r = 0 then none else some join) with
    | .error f => trapHere (noteFault s f) id f.cause join
    | .ok jt =>
      if ctr = some 0 then trapIllegal s id w
      else
        match optTarget s id ctr with
        | .error f => trapHere (noteFault s f) id f.cause (ctr.getD 0)
        | .ok ct =>
          if !landingOn (dieOf s d) l then finishReg s id a 2
          else if ctr.isNone && landingFull s d l then finishReg s id a 1
          else if ctr.isSome && decide (1024 ≤ (dieOf s d).waitPool.length) then finishReg s id a 1
          else
            joinThen s id ans join jt fun u =>
              let e := freshEntry u r (strandOf s id).tag false
              match ct with
              | none => finishReg (enqueue e.2 d l e.1) id a 0
              | some t =>
                let p := (dieOf e.2 d).waitPool
                finishReg (readCounter (setPool e.2 d (p ++ [⟨e.1, placeOf t, false⟩])) d p.length) id a 0

/-- R269: SPAWN and SPAWNC wait for the answer of the landing controller, and for the accesses before it, at no point where a pre-emption
is taken. -/
def untilAnswer : Block → Block
  | .remote _ => .spawn
  | b => b

/-- R270: the release comes first, then the record is read on stream SC. -/
def spawnOp (w : BitVec 32) (a b : BitVec 5) (ctr : Option Word) (s : State) : State :=
  let id := s.cur
  let p := reg s id b
  let cs := recordChunks p
  if unperformed s id then blockOn s id .spawn
  else if p.toNat % 8 ≠ 0 then trapHere s id cMISALIGN p
  else
    match readChunks s id 0 cs with
    | .fault c u => trapHere u id c (firstBad s id cs p)
    | .wait k u => blockOn u id (untilAnswer k)
    | .ok vs u =>
      let dw := fun i => (BitVec.ofNat 64 (listGet 0 vs i) : Word)
      spawnRecord u id w a ⟨dw 0, dw 1, dw 2, dw 3⟩ ctr (strandOf s id).hostAnswer

def execSpawn (a b : BitVec 5) (s : State) : Res := .next (spawnOp (wordSched a b 0 0) a b none s)
def execSpawnc (a b c : BitVec 5) (s : State) : Res := .next (spawnOp (wordSched a b c 1) a b (some (reg s s.cur c)) s)

/-! ## JDEC (R271) -/

/-- R271: a decrement is an addition of all ones. -/
def execJdec (a b : BitVec 5) (s : State) : Res :=
  let id := s.cur
  let p := reg s id b
  match endTarget s (agentOf s id) (sidOf id 0) true p with
  | .error f => .next (trapHere (noteFault s f) id f.cause p)
  | .ok t =>
    .next (releaseThen s id 0 true
      (scalarThen id p (rmw s id 0 0 t 8 (2 ^ 64 - 1) 0) fun old u => finishReg u id a (BitVec.ofNat 64 old)))

/-! ## LREAD (R273) -/

/-- R273: an item of a landing. -/
def landingItem (s : State) (die l item : Nat) : Word :=
  let x := landingOf s die l
  match item with
  | 0 => BitVec.ofNat 64 (x.queue.length + x.spill.length)
  | 1 => BitVec.ofNat 64 ((dieOf s die).waitPool.filter fun w => recLanding w.entry.record == l).length
  | 2 => BitVec.ofNat 64 (x.saved.length * 2 ^ 32 +
      (busyStrands s fun i t => dieIdx i == die && stLanding t == l && t.slot != .save).length)
  | _ => x.charge

/-- R273. -/
def execLread (a b : BitVec 5) (s : State) : Res :=
  let id := s.cur
  let v := reg s id b
  let d := fld v 5 2
  if a = 0 ∨ fld v 7 1 ≠ 0 ∨ fld v 10 54 ≠ 0 then .next (trapIllegal s id (wordSched a b 0 3))
  else
    match (dieOf s d).status with
    | .disabled => .next (trapHere s id cCOORD (BitVec.ofNat 64 (d * 128)))
    | .out => .next (blockOn s id (.landing d))
    | .inService => .next (finishReg s id a (landingItem s d (fld v 0 5) (fld v 8 2)))

end Sys2Proof.Machine
end

