-- ==== Sys2Proof/Machine/Pop.lean ====
section
/-!
DEFINITION. From landing to slot: the choice of a record and a slot, the start of a strand, and resumption (R77, R78, R113,
R130, R174, R233-R235, R265, R266, R268, R279).
-/

namespace Sys2Proof.Machine

/-! ## Fitting (R265) -/

/-- The cores of a die, ascending. -/
def dieCores (die : Nat) : List Nat := (List.range 128).map fun i => 128 * die + i

/-- The bays of a core that are enabled, as a mask. -/
def enabledBays (k : Core) : BitVec 4 := bayMask ((List.range 4).filter (bayEnabled k))

/-- R130, R265: a record fits some present and enabled core at all. -/
def fitsSomewhere (s : State) (die : Nat) (r : Record) : Bool :=
  recBad r || (dieCores die).any fun c =>
    (coreOf s c).enabled && recPlaces r c && decide (recBays r ≤ popN 4 (enabledBays (coreOf s c)).toNat)

/-- R263: the eligible records of a landing, oldest first: those on-die, then those in the spill ring whose lines can be read. -/
def eligible (s : State) (die l : Nat) : List Entry :=
  let x := landingOf s die l
  x.queue ++ (x.spill.filter fun q => !lineBad s ((landingSpbase (dieOf s die) l + 64 * q.1) / 64)).map fun q =>
    spilledEntry s die l q.1 q.2

/-- R265: the 16 oldest eligible records of a landing that fit some core. -/
def window (s : State) (die l : Nat) : List Entry :=
  ((eligible s die l).filter fun e => fitsSomewhere s die e.record).take 16

/-- R265, R266: a fresh record fits a core's bays and its landing's Vault areas. -/
def freshFits (s : State) (die l core issuer : Nat) (r : Record) : Bool :=
  let vault := decide (0 < landingVcount (dieOf s die) l)
  (coreOf s core).enabled && recPlaces r core &&
    (recBays r == 0 || ((coreOf s core).bayRequests.isEmpty &&
      decide (recBays r ≤ (grantable s core (enabledBays (coreOf s core)) vault issuer).length))) &&
    (!vault || decide ((landingOf s die l).areas.length < landingVcount (dieOf s die) l))

/-- R113, R128, R174, R279: a resume record fits its core: its HELD bays are free, none is withheld for another owner, and no older
request for bays waits, which only that of a saved Mezzanine owner passes over. -/
def resumeFits (s : State) (e : Entry) : Bool :=
  let c := resumeCore e.record
  let other := match savedOwner s c with
    | some o => o.issuer != e.issuer && ownerReady s c o && (resumeHeld e.record &&& resumeHeld o.record) != 0
    | none => false
  let owner := (savedOwner s c).any fun o => o.issuer == e.issuer
  (coreOf s c).enabled && !other && (owner || recBays e.record == 0 || (coreOf s c).bayRequests.isEmpty) &&
    (List.range 4).all fun b => bitsOf (resumeHeld e.record).toNat b 1 == 0 || bayFree (coreOf s c) b

/-- The record fits a core, whatever its slots. -/
def entryFits (s : State) (die l core : Nat) (e : Entry) : Bool :=
  if e.record.dw1.toNat / 2 ^ 63 = 1 ∧ (landingOf s die l).saved.any (fun f => f.issuer == e.issuer) then
    resumeCore e.record == core && resumeFits s e
  else freshFits s die l core e.issuer e.record

/-- R279: an offer of a slot stands: its record still waits and fits. -/
def offerStands (s : State) (die : Nat) (o : Nat × Nat) : Bool :=
  (strandOf s o.1).slot == .free && (List.range 32).any fun l =>
    landingPops (dieOf s die) l && ((landingOf s die l).saved ++ window s die l).any fun e =>
      e.issuer == o.2 && entryFits s die l (coreIdx o.1) e

/-- R174, R279: a slot is FREE, and held back neither for a saved Mezzanine owner that can resume, which comes before any other record,
nor by an offer to another record. -/
def slotOpen (s : State) (die id : Nat) (e : Entry) : Bool :=
  let offered := (dieOf s die).offers.any fun o => o.1 == id && o.2 != e.issuer && offerStands s die o
  (strandOf s id).slot == .free &&
    match (savedOwner s (coreIdx id)).filter (ownerReady s (coreIdx id)) with
    | some o => o.issuer == e.issuer
    | none => !offered

/-- The lowest slot of a core that is open to a record. -/
def openSlot (s : State) (die core : Nat) (e : Entry) : Option Nat :=
  ((List.range 4).map fun k => 4 * core + k).find? fun id => slotOpen s die id e

/-! ## The choice (R265, R268) -/

/-- R268: the core that a record prefers. -/
def preferredCore (s : State) (die : Nat) (r : Record) : Option Nat :=
  let t := tblGet (0 : BitVec 16) (dieOf s die).stages (recStage r)
  let c := bitsOf t.toNat 0 9
  if recCoreAny r ∧ recStage r ≠ 0 ∧ t.toNat / 2 ^ 15 = 1 ∧ c / 128 = die ∧ (coreOf s c).enabled ∧ recPlaces r c then some c
  else none

/-- R265: the cores of a die in the order in which a record takes them. -/
def coreOrder (s : State) (die : Nat) (r : Record) : List Nat :=
  match preferredCore s die r with
  | none => dieCores die
  | some c => c :: ((dieCores die).filter fun x => x / 8 == c / 8) ++ dieCores die

/-- R77: a malformed record is offered to the lowest-numbered enabled core. -/
def firstCore (s : State) (die : Nat) : Option Nat := (dieCores die).find? fun c => (coreOf s c).enabled

/-- R77, R265: the slot that takes a fresh record. -/
def freshSlot (s : State) (die l : Nat) (e : Entry) : Option Nat :=
  if recBad e.record then (firstCore s die).bind fun c => openSlot s die c e
  else (coreOrder s die e.record).findSome? fun c =>
    if freshFits s die l c e.issuer e.record then openSlot s die c e else none

/-- R113: the slot that takes a resume record. -/
def resumeSlot (s : State) (die : Nat) (e : Entry) : Option Nat :=
  if resumeFits s e then openSlot s die (resumeCore e.record) e else none

/-- A record and the slot that takes it. -/
structure Pick where
  landing : Nat
  entry : Entry
  id : Nat
  resume : Bool
  deriving DecidableEq, Repr

/-- R265, R279: what a landing offers first: its save list, then the oldest record of its queue that fits. -/
def pickIn (s : State) (die l : Nat) : Option Pick :=
  let x := landingOf s die l
  if landingPops (dieOf s die) l then
    (x.saved.findSome? fun e => (resumeSlot s die e).map fun i => ⟨l, e, i, true⟩).or
      ((window s die l).findSome? fun e => (freshSlot s die l e).map fun i => ⟨l, e, i, false⟩)
  else none

/-- R265: landings by priority, and round robin from the one served last. -/
def landingOrder (d : Die) : List Nat :=
  let rr := (List.range 32).map fun i => (d.lastServed + 1 + i) % 32
  ([3, 2, 1, 0].map fun p => rr.filter fun l => landingPrio d l == p).flatten

/-- R265: the record that a die's controller hands over next. -/
def pick (s : State) (die : Nat) : Option Pick :=
  if (dieOf s die).status = .inService then (landingOrder (dieOf s die)).findSome? (pickIn s die) else none

/-! ## Fresh records -/

/-- R80: STATUS at the start of a strand. -/
def startStatus (id : Nat) (r : Record) : Word :=
  setFld (setFld (setFld (Strand.reset id).status 16 5 (recLanding r)) 8 8 (recStage r)) 6 2 (recReplay r)

/-- R78, R110, R130: the initial state of a strand in its slot, before its bays. -/
def startStrand (s : State) (id : Nat) (e : Entry) (area : Option Nat) : Strand :=
  let d := dieOf s (dieIdx id)
  let l := recLanding e.record
  let k := coreOf s (coreIdx id)
  let t := Strand.reset id
  { t with slot := .run, pc := recCode e.record, regs := t.regs.set 1 (BitVec.ofNat 64 (recFrame e.record)),
           status := startStatus id e.record, tvec := landingTvec d l,
           vault := (area.map fun n => BitVec.ofNat 64 (landingVpool d l + n * 0x640000 + 1)).getD 0,
           record := e.record, foyerJoin := e.foyerJoin, tag := e.tag, issuer := e.issuer, vaultArea := area,
           started := s.pkg.nextIssuer, stripHead := true,
           arc := { t.arc with snapEnabled := enabledBays k, snapRetired := k.retired } }

/-- R279: the offers of a slot that is taken, and those to a record that leaves its landing, have had their use; what that record has
made due stays due, and is for no record. -/
def dropOffers (s : State) (die id r : Nat) : State :=
  let u := setDie s die { dieOf s die with offers := (dieOf s die).offers.filter fun o => o.1 != id && o.2 != r }
  { u with strands := u.strands.map fun q => if q.2.dueFor = some r then (q.1, { q.2 with dueFor := none }) else q }

/-- R277: the order of pops. -/
def countStart (s : State) : State := { s with pkg := { s.pkg with nextIssuer := s.pkg.nextIssuer + 1 } }

/-- R265: records that fit no core are reported, once each. -/
def reportUnfit (s : State) (die : Nat) : State :=
  let bad := ((List.range 32).map fun l =>
    if landingPops (dieOf s die) l then
      (eligible s die l).filter fun e => !fitsSomewhere s die e.record && !(dieOf s die).reported.contains (32 + e.issuer)
    else []).flatten
  bad.foldl (fun u e =>
    addReport (setDie u die { dieOf u die with reported := (dieOf u die).reported ++ [32 + e.issuer] }) 265 e.tag) s

/-- R77: a malformed record completes as faulted with cause ILLEGAL; the slot stays FREE. -/
def completeMalformed (s : State) (id : Nat) (e : Entry) : State :=
  let r := e.record
  writeEnding s ⟨⟨recLanding r, false, clusterIdx id, e.tag, none⟩, id, recCmpl r, recJoin r, e.foyerJoin, 0, some cILLEGAL⟩

/-- R78, R266: a well-formed record starts its strand. -/
def startFresh (s : State) (die : Nat) (p : Pick) : State :=
  let x := landingOf s die p.landing
  let area := if landingVcount (dieOf s die) p.landing = 0 then none
    else (List.range (landingVcount (dieOf s die) p.landing)).find? fun n => !x.areas.contains n
  let u := setLanding s die p.landing { x with areas := x.areas ++ area.toList }
  let v := countStart (setStrand u p.id (startStrand u p.id p.entry area))
  let n := recBays p.entry.record
  if n = 0 then v
  else grantBays v p.id ((grantable v (coreIdx p.id) (strandOf v p.id).arc.snapEnabled area.isSome p.entry.issuer).take n)

/-- R265: the controller hands a fresh record to a slot. -/
def execRecordPop (die : Nat) (s : State) : Res :=
  let s0 := if (dieOf s die).status = .inService then reportUnfit s die else s
  match pick s0 die with
  | none => .next s0
  | some p =>
    if p.resume then .next s0
    else
      let x := landingOf s0 die p.landing
      let u := setLanding s0 die p.landing { x with
        queue := x.queue.filter (fun e => e.issuer != p.entry.issuer), spill := x.spill.filter fun q => q.2.issuer != p.entry.issuer }
      let v := dropOffers (setDie u die { dieOf u die with lastServed := p.landing }) die p.id p.entry.issuer
      .next (if recBad p.entry.record then completeMalformed v p.id p.entry else startFresh v die p)

/-! ## The save slot (R231) -/

/-- R231: the address of the save slot. -/
def saveBase (t : Strand) : Nat := fld t.vault 16 32 * 2 ^ 16 + 0x400000

/-- R231: the doublewords of the save slot. -/
abbrev saveWords : Nat := 0x240000 / 8

/-- Bytes as doublewords. -/
def bytesToWords (n : Nat) (bs : List Nat) : List Word :=
  (List.range n).map fun i => BitVec.ofNat 64 ((bs.drop (8 * i)).take 8 |>.foldr (fun b acc => b + 256 * acc) 0)

/-- R231: what a physical slot holds: the register and the half, or nothing. -/
def slotHolder (a : Arcade) (k : Nat) : Option (Nat × Nat) :=
  if a.bays = 0 then none
  else if vTwo a then
    let r := listGet noReg a.resident (k / 2)
    if r = noReg then none else some (r, k % 2)
  else some (k, 0)

/-- R231: the 32 bits of a physical slot in a lane. -/
def slotBits (a : Arcade) (k lane : Nat) : Nat :=
  match slotHolder a k with
  | some (r, h) => if lane < lanesOf a then bitsOf (listGet 0 (listGet [] a.regs r) lane).toNat (32 * h) 32 else 0
  | none => 0

/-- R123: the parity column of a slot in a lane, as the row holds it. -/
def parityBit (a : Arcade) (c : Core) (k lane : Nat) : Nat :=
  let p := laneRow a lane
  (popN 32 (slotBits a k lane) + if c.parity.contains (p.1, p.2, k) then 1 else 0) % 2

/-- R231: the parity columns of a lane. -/
def parityWord (a : Arcade) (c : Core) (lane : Nat) : Nat :=
  if lane < lanesOf a then (List.range 32).foldl (fun n k => n + 2 ^ k * parityBit a c k lane) 0 else 0

/-- Pairs of 32-bit values as doublewords. -/
def halves (n : Nat) (f : Nat → Nat) : List Word :=
  (List.range n).map fun i => BitVec.ofNat 64 (f (2 * i) + 2 ^ 32 * f (2 * i + 1))

/-- R231: the header of the save slot, up to the masks. -/
def saveHeader (t : Strand) : List Word :=
  let a := t.arc
  let z := fun n => List.replicate n (0 : Word)
  [0x09600001, t.pc.zeroExtend 64] ++ (List.range 31).map (fun i => getReg t (BitVec.ofNat 5 (i + 1))) ++
    [t.status, t.sflags, a.vcfg, a.mfmt, BitVec.ofNat 64 a.vl, a.strip, a.sidx, a.chainsrc, vresumeWord a, t.cause, t.epc,
      t.tval, t.tvec, baysWord a] ++
    [a.heldPoint.zeroExtend 64] ++ (List.range 4).map (lanemapWord a) ++
    bytesToWords 4 ((List.range 32).map fun k => match slotHolder a k with
      | some (r, h) => r + 32 * h
      | none => 0xFF) ++
    bytesToWords 4 a.recency ++ [a.written.zeroExtend 64] ++ z 3 ++
    ((List.range 4).map fun b => (List.range 4).map fun i =>
      ((listGet 0 a.codebooks b).extractLsb' (64 * i) 64 : Word)).flatten ++ z 48 ++
    ((List.range 32).map fun i => match a.held[i]? with
      | some h => [h.word.zeroExtend 64, h.pc.zeroExtend 64, h.op1, h.op2]
      | none => z 4).flatten ++ z 256

/-- R231: the whole save slot. -/
def saveImage (s : State) (id : Nat) : List Word :=
  let t := strandOf s id
  let a := t.arc
  let c := coreOf s (coreIdx id)
  let z := fun n => List.replicate n (0 : Word)
  let mask := fun (m : List Bool) => (List.range 256).map fun i =>
    (BitVec.ofNat 64 ((List.range 64).foldl (fun n j =>
      n + if 64 * i + j < lanesOf a ∧ listGet false m (64 * i + j) then 2 ^ j else 0) 0) : Word)
  saveHeader t ++ ((List.range 4).map fun m => mask (listGet [] a.masks m)).flatten ++ z 6656 ++
    halves 8192 (parityWord a c) ++ ((List.range 32).map fun k => halves 8192 (slotBits a k)).flatten ++ z 16384

/-! ## Resumption (R233, R235) -/

/-- A 32-bit half of the image's doublewords. -/
def imageHalf (img : List Word) (off i : Nat) : Nat := fld (listGet 0 img (off / 8 + i / 2)) (32 * (i % 2)) 32

/-- A byte of the image. -/
def imageByte (img : List Word) (off i : Nat) : Nat := fld (listGet 0 img ((off + i) / 8)) (8 * ((off + i) % 8)) 8

/-- R36: an address of the image at which instructions are fetched. -/
def codeAddr (w : Word) : BitVec 48 := BitVec.ofNat 48 (w.toNat / 4 * 4)

/-- R233: the vector side that an image restores on a core; the snapshot's row lists come with the resume record. -/
def restoreArc (img : List Word) (held : BitVec 4) (rows : List (List Nat)) : Arcade :=
  let w := fun off => listGet (0 : Word) img (off / 8)
  let map := (List.range 32).map (imageByte img 0x1A0)
  let a : Arcade := { Arcade.reset with
    bays := held
    snapEnabled := BitVec.ofNat 4 ((List.range 4).foldl (fun n b => n + 2 ^ b * fld (w (0x180 + 8 * b)) 30 1) 0)
    snapRetired := rows
    vcfg := w 0x118 &&& 0xFFBF
    mfmt := w 0x120 &&& 0xDF00FF
    vl := (w 0x128).toNat
    strip := w 0x130
    sidx := w 0x138
    chainsrc := w 0x140 &&& 0xBFF
    lane := fld (w 0x148) 0 18
    written := BitVec.ofNat 32 (w 0x1E0).toNat
    recency := (List.range 32).map fun i => imageByte img 0x1C0 i % 32
    codebooks := (List.range 4).map fun b =>
      BitVec.ofNat 256 ((List.range 4).foldr (fun i acc => (w (0x200 + 32 * b + 8 * i)).toNat + 2 ^ 64 * acc) 0)
    held := if fld (w 0x148) 63 1 = 1 then
        (List.range (fld (w 0x148) 56 6)).map fun i =>
          ⟨BitVec.ofNat 32 (w (0x400 + 32 * i)).toNat, codeAddr (w (0x408 + 32 * i)), w (0x410 + 32 * i),
            w (0x418 + 32 * i), i == 0⟩
      else []
    heldPoint := codeAddr (w 0x178) }
  let n := lanesOf a
  let half := fun (r h lane : Nat) =>
    match (List.range 32).find? fun k => listGet 0xFF map k == r + 32 * h with
    | some k => imageHalf img (0x20000 + 0x10000 * k) lane
    | none => 0
  let resident := fun (r : Nat) => map.contains r
  { a with
    regs := (List.range 32).map fun r =>
      if resident r then (List.range n).map fun l => BitVec.ofNat 64 (half r 0 l + 2 ^ 32 * (if vTwo a then half r 1 l else 0))
      else []
    masks := (List.range 4).map fun m => (List.range n).map fun l =>
      fld (w (0x1000 + 0x800 * m + 8 * (l / 64))) (l % 64) 1 == 1
    resident := if vTwo a then (List.range 16).map fun i =>
        let b := listGet 0xFF map (2 * i)
        if b = 0xFF then noReg else b % 32
      else a.resident }

/-- R36, R233, R274: the strand that an image restores in a slot; addresses of instructions have bits [1:0] zero and reserved bits
read zero (R8), whatever memory holds by now. STATUS.COORD and SLOT are those of the slot that resumes (log entry 93). The first vector
instruction dispatched is a strip head. -/
def restoreStrand (img : List Word) (id : Nat) (e : Entry) (started : Nat) : Strand :=
  let w := fun off => listGet (0 : Word) img (off / 8)
  let t := Strand.reset id
  let st := setFld (setFld (w 0x108 &&& 0xFFFFFFEF) 23 9 (coreIdx id)) 21 2 (slotIdx id)
  let a := restoreArc img (resumeHeld e.record) e.rows
  { t with slot := .run, pc := codeAddr (w 0x008),
           regs := Vector.ofFn fun (i : Fin 32) => if i.val = 0 then 0 else w (0x10 + 8 * (i.val - 1)),
           status := st, sflags := w 0x110 &&& sflagsMask, cause := w 0x150 &&& 0x3F,
           epc := (codeAddr (w 0x158)).zeroExtend 64, tval := w 0x160, tvec := (codeAddr (w 0x168)).zeroExtend 64,
           vault := BitVec.ofNat 64 (fld e.record.dw0 16 32 * 2 ^ 16 + 1), record := e.record, foyerJoin := e.foyerJoin,
           tag := e.tag, issuer := e.issuer, vaultArea := e.area, holds := e.holds, started := started,
           stripHead := a.held.isEmpty, arc := a }

/-- R123, R233: the parity columns of the held bays, as saved: a lane whose column does not match its slot is a mismatch. -/
def restoreParity (img : List Word) (a : Arcade) (k : Core) : Core :=
  let mine := ((List.range (lanesOf a)).map fun l =>
    ((List.range 32).filter fun j => (popN 32 (imageHalf img (0x20000 + 0x10000 * j) l)) % 2 !=
      bitsOf (imageHalf img 0x10000 l) j 1).map fun j => ((laneRow a l).1, (laneRow a l).2, j)).flatten
  { k with parity := mine ++ k.parity.filter fun q => !bayHeld a q.1 }

/-- R233: the slot restores the context, and the Mezzanine's owner has its new slot. -/
def resumeStrand (s : State) (p : Pick) (img : List Word) : State :=
  let c := coreIdx p.id
  let t := restoreStrand img p.id p.entry s.pkg.nextIssuer
  let u := modCore (setStrand (countStart s) p.id t) c fun k =>
    let h := (List.range 4).filter fun b => bitsOf t.arc.bays.toNat b 1 == 1
    { restoreParity img t.arc k with bayOwner := h.foldl (fun l b => listSet none l b (some (slotIdx p.id))) k.bayOwner }
  match (coreOf u c).mezz.owner with
  | some (g, _) => if g = t.issuer then modMezz u c fun m => { m with owner := some (g, slotIdx p.id) } else u
  | none => u

/-- R235: a resume record whose save slot cannot be read completes as faulted with cause VAULT, once the strand's commands have
ended, and the slot stays FREE (log entry 24); its SFLAGS are 0, and CMPL and JOIN are checked at U (log entry 99). Until then the slot drains, so that no later pop can run the strand. -/
def failResume (s : State) (p : Pick) : State :=
  let e := p.entry
  let t := { Strand.reset p.id with
    slot := .drain, status := setFld (startStatus p.id e.record) 3 1 1, cause := BitVec.ofNat 64 cVAULT, record := e.record,
    foyerJoin := e.foyerJoin, tag := e.tag, issuer := e.issuer, vaultArea := e.area, holds := e.holds }
  drain (setStrand s p.id t) p.id

/-- R279: a resume record leaves its save list for a slot. -/
def takeSaved (s : State) (die : Nat) (p : Pick) : State :=
  let x := landingOf s die p.landing
  let u := setLanding s die p.landing { x with saved := x.saved.filter fun e => e.issuer != p.entry.issuer }
  dropOffers (setDie u die { dieOf u die with lastServed := p.landing }) die p.id p.entry.issuer

/-- R235: a slot pops a resume record, reads the save slot and restores the context. -/
def execResumeRecordPop (die : Nat) (s : State) : Res :=
  match pick s die with
  | none => .next s
  | some p =>
    if p.resume then
      let ready := { Strand.reset p.id with
        tag := p.entry.tag, status := startStatus p.id p.entry.record, vault := BitVec.ofNat 64 (fld p.entry.record.dw0 16 32 * 2 ^ 16 + 1) }
      match vaultRead (setStrand s p.id ready) p.id saveWords (saveBase ready) with
      | .error (_, u) => .next (failResume (takeSaved u die p) p)
      | .ok img =>
        if listGet 0 img 0 ≠ 0x09600001 then .next (failResume (takeSaved s die p) p)
        else .next (resumeStrand (takeSaved s die p) p img)
    else .next s

end Sys2Proof.Machine
end

