-- ==== Sys2Proof/Machine/Preempt.lean ====
section
/-!
DEFINITION. Pre-emption, the context save, the sequencer's choice, the watchdog, traps of held entries, and the health of rows
(R79, R103, R125, R197, R229-R234, R259, R274-R279).
-/

namespace Sys2Proof.Machine

/-! ## Pre-emptions that become due (R277) -/

/-- R277: the eligible records of a landing, saved ones first. -/
def waitingRecords (s : State) (die l : Nat) : List Entry := (landingOf s die l).saved ++ window s die l

/-- R277: the record cannot be popped now. -/
def cannotPop (s : State) (die l : Nat) (e : Entry) : Bool :=
  if (landingOf s die l).saved.any fun f => f.issuer == e.issuer then (resumeSlot s die e).isNone
  else (freshSlot s die l e).isNone

/-- R277: a record's placement contains a core. -/
def placedOn (s : State) (die l core : Nat) (e : Entry) : Bool :=
  if (landingOf s die l).saved.any fun f => f.issuer == e.issuer then resumeCore e.record == core
  else core / 128 == die && recPlaces e.record core

/-- R277: a strand that a record may make due: it runs on a core of the placement, has a Vault, and is not at NEST = 1. -/
def canBeVictim (s : State) (die l : Nat) (e : Entry) (id : Nat) (t : Strand) : Bool :=
  (t.slot == .run || t.slot == .park) && vaultOn t && !stNest t && !t.due && placedOn s die l (coreIdx id) e

/-- R277: of two strands, the one of lower PRIO, then the one running longer, then the lower coordinate and slot. -/
def betterVictim (d : Die) (x y : Nat × Strand) : Nat × Strand :=
  let p := landingPrio d (stLanding x.2)
  let q := landingPrio d (stLanding y.2)
  if q < p ∨ (q = p ∧ (y.2.started < x.2.started ∨ (y.2.started = x.2.started ∧ y.1 < x.1))) then y else x

/-- R277, R279: the first record of a landing that cannot be popped, has made nothing due, and has a victim. -/
def makeDue (s : State) (die l : Nat) (f : Nat → Strand → Bool) : State :=
  let d := dieOf s die
  let busy := fun (e : Entry) => s.strands.any fun q => q.2.due && q.2.dueFor == some e.issuer
  let victim := fun (e : Entry) =>
    match s.strands.filter fun q => canBeVictim s die l e q.1 q.2 && f q.1 q.2 with
    | [] => none
    | x :: r => some (r.foldl (betterVictim d) x)
  let found := (waitingRecords s die l).findSome? fun e =>
    if cannotPop s die l e && !busy e then (victim e).map fun v => (e, v.1) else none
  match found with
  | some (e, id) => if landingPops d l then modStrand s id fun t => { t with due := true, dueFor := some e.issuer } else s
  | none => s

/-- R277: a record of higher priority. -/
def execPriorityPreemption (die landing : Nat) (s : State) : Res :=
  let d := dieOf s die
  .next (makeDue s die landing fun _ t => decide (landingPrio d (stLanding t) < landingPrio d landing))

/-- R277: a record of equal priority whose slice has passed, and a strand that has overrun its own. -/
def execSharePreemption (die landing : Nat) (s : State) : Res :=
  let d := dieOf s die
  if landingSlice d landing = 0 then .next s
  else .next (makeDue s die landing fun _ t =>
    let l := stLanding t
    l != landing && landingPrio d l == landingPrio d landing && landingSlice d l != 0)

/-- R278: 65,536 cycles have passed since the pre-emption became due. -/
def execPreemptForceLimit (id : Nat) (s : State) : Res :=
  let t := strandOf s id
  if t.due then .next (modStrand s id fun x => { x with dueForced := true }) else .next s

/-- R277: the Usher requests the pre-emption of a strand that has a Vault and is not in HANDLER at NEST = 1. -/
def usherPreempts (s : State) (id : Nat) : State :=
  let t := strandOf s id
  if (t.slot = .run ∨ t.slot = .park) ∧ vaultOn t ∧ !stNest t then modStrand s id fun x => { x with due := true } else s

/-- R213: the strand holds a link. -/
def holdsLink (s : State) (id : Nat) : Bool := s.mem.tags.any fun t => !t.watch && t.strand == some id

/-- R230: 256 instructions have issued since the strand's link was placed. -/
def execLinkDeferLimit (id : Nat) (s : State) : Res :=
  if holdsLink s id && decide (256 ≤ (strandOf s id).linkCount) then
    .next (modStrand s id fun x => { x with linkDeferOver := true })
  else .next s

/-! ## Taking a pre-emption (R103, R230, R278) -/

/-- R230, R278: the waits at which a pre-emption is taken, also that of stream SC before an instruction goes on (R307, R310), and that
for older entries of the VIQ; every other wait is part of an instruction, as that of R269 is. -/
def waitAllowsSave : Option Block → Bool
  | none => true
  | some b =>
    match b with
    | .vacq _ | .mezzClaim | .copy .. | .ubulk .. | .coll .. | .transfer .. | .landing _ | .remote 0 | .viq => true
    | _ => false

/-- R230, R278: a wait at issue at which a pre-emption is taken whatever stands in the VIQ. -/
def issueWait (t : Strand) : Bool :=
  behind t && match t.blocked with
    | some (.vacq _) | some .mezzClaim | some (.copy ..) | some (.ubulk ..) | some (.coll ..) | some (.transfer ..) => true
    | _ => false

/-- R173, R174: an MXDRN that RETS has redispatched waits for the claim, the only entry of the VIQ, and issue resumes right after it:
the strand waits for the claim at that instruction. -/
def claimOnly (t : Strand) : Bool :=
  !behind t && t.slot == .run && t.blocked == some .mezzClaim && match t.arc.viq with
    | [h] => t.pc == h.pc + 4
    | _ => false

/-- R278: the strand is at a point where a due pre-emption is taken: the last, with entries in its VIQ, is a control-side strip
boundary. -/
def atSavePoint (t : Strand) : Bool :=
  t.slot == .park || (t.slot == .run && waitAllowsSave t.blocked &&
    (t.arc.viq.isEmpty || t.dueForced || issueWait t || claimOnly t || t.atStrip))

/-- R173, R223, R230: a VWAITM that is parked, or an MXDRN that waits for the claim, in the VIQ is withdrawn, to run again from its
address. -/
def withdraw (t : Strand) : Strand :=
  match t.blocked, t.arc.viq with
  | some (.vwaitm ..), h :: _ => { t with pc := h.pc, arc := { t.arc with viq := [] } }
  | some .mezzClaim, h :: _ => if claimOnly t then { t with pc := h.pc, arc := { t.arc with viq := [] } } else t
  | _, _ => t

/-- R128, R173: what the strand waits for in its core is withdrawn. -/
def leaveWaits (s : State) (id : Nat) : State :=
  modCore s (coreIdx id) fun k =>
    { k with bayRequests := k.bayRequests.filter fun q => q.1 != slotIdx id,
             mezz := { k.mezz with waiters := k.mezz.waiters.filter (· != slotIdx id) } }

/-- R279: a record still waits in a landing of a die. -/
def stillWaits (s : State) (die r : Nat) : Bool :=
  (List.range 32).any fun l =>
    let x := landingOf s die l
    (x.saved ++ x.queue ++ x.spill.map (·.2)).any fun e => e.issuer == r

/-- R223: the strand is parked at a VWAITM, which its VIQ may hold and nothing older. -/
def parkedEntry (t : Strand) : Bool :=
  t.slot == .park && match t.blocked with
    | some (.vwaitm ..) => true
    | _ => false

/-- R101, R103: the entries of the VIQ run before a PREEMPT trap is taken. -/
def olderFirst (t : Strand) : Bool :=
  !(t.arc.viq.isEmpty || claimOnly t || parkedEntry t) && stPtrap t && !t.preemptTrapped

/-- R103, R230, R278: a due pre-emption is taken where the strand stands now. -/
def preemptsHere (s : State) (id : Nat) : Bool :=
  let t := strandOf s id
  t.due && !stNest t && atSavePoint t && !linksDefer s id && !olderFirst t

/-- R103: with PTRAP set the strand first traps with cause PREEMPT; otherwise its save begins. Links defer the trap as they defer
the save (log entry 55). -/
def execPreemptionTaken (id : Nat) (s : State) : Res :=
  let t := strandOf s id
  if preemptsHere s id then
    let u := clearWatches (modStrand (leaveWaits s id) id withdraw) id
    if stPtrap t && !t.preemptTrapped then
      .next (trapHere (modStrand u id fun x => { x with preemptTrapped := true }) id cPREEMPT 0)
    else .next (modStrand (beginSave u id) id fun x => { x with blocked := none })
  else .next s

/-! ## The save (R230-R232, R234) -/

/-- R230: accesses of SC, VA, VB and MX that are not acknowledged. -/
def savePending (s : State) (id : Nat) : Bool :=
  s.net.unacked.any fun u => u.issuer == (strandOf s id).issuer && u.sid % 8 != 3

/-- R234: the resume record of a strand. -/
def resumeRecord (t : Strand) (id : Nat) : Record where
  dw0 := BitVec.ofNat 64 (popN 4 t.arc.bays.toNat * 2 ^ 61 + stLanding t * 2 ^ 56 + fld t.status 8 8 * 2 ^ 48 +
    fld t.vault 16 32 * 2 ^ 16)
  dw1 := BitVec.ofNat 64 (2 ^ 63 + coreIdx id % 8 * 2 ^ 58 + coreIdx id / 8 % 16 * 2 ^ 53 + dieIdx id * 2 ^ 50 +
    fld t.status 6 2 * 2 ^ 48 + t.arc.bays.toNat)
  dw2 := t.record.dw2
  dw3 := t.record.dw3

/-- R174: strands with a Vault that wait for the claim of an owner that is now saved are due for pre-emption. -/
def pressWaiters (s : State) (core : Nat) : State :=
  if (savedOwner s core).isNone then s
  else (claimWaiters s core).foldl (fun u k =>
    if vaultOn (strandOf u (4 * core + k)) then modStrand u (4 * core + k) fun t => { t with due := true } else u) s

/-- R230, R279: the slot goes to FREE, its resume record enters the save list, and the record that made the pre-emption due is
offered the slot first, if it still waits. -/
def finishSave (s : State) (id : Nat) : State :=
  let t := strandOf s id
  let die := dieIdx id
  let l := stLanding t
  let e : Entry := ⟨resumeRecord t id, t.tag, t.foyerJoin, t.issuer, t.vaultArea, t.holds, t.arc.snapRetired⟩
  let u := freeSlot s id false
  let x := landingOf u die l
  let v := setLanding u die l { x with saved := x.saved ++ [e] }
  let w := match t.dueFor with
    | some r => if stillWaits v die r then setDie v die { dieOf v die with offers := (dieOf v die).offers ++ [(id, r)] } else v
    | none => v
  pressWaiters w (coreIdx id)

/-- R232: the save is abandoned, with its pre-emption, and the strand traps with cause VAULT. -/
def abandonSave (s : State) (id : Nat) (tval : Word) : State :=
  trapHere (modStrand s id fun x => { x with due := false, dueForced := false, dueFor := none, preemptTrapped := false }) id
    cVAULT tval

/-- R231, R232: the save slot is written; a write that fails abandons the save, and the strand traps with cause VAULT; without
VAULT.V the first write does, at the start of the save slot. -/
def execContextSaveComplete (id : Nat) (s : State) : Res :=
  let t := strandOf s id
  if t.slot ≠ .save ∨ savePending s id ∨ !t.arc.viq.isEmpty ∨ !t.arc.results.isEmpty then .next s
  else
    if !vaultOn t then .next (abandonSave s id (BitVec.ofNat 64 (saveBase t)))
    else
      match vaultWrite id (saveImage s id) (saveBase t) s with
      | .error (a, u) => .next (abandonSave u id (BitVec.ofNat 64 a))
      | .ok u => .next (finishSave u id)

/-! ## The sequencer (R274, R276) -/

/-- R274: a word that needs the sequencer: MAJ 0x22 to 0x2E, VSEND and MXDRN. -/
def needsSequencer (w : BitVec 32) : Bool :=
  let m := w.toNat / 2 ^ 26
  (decide (0x22 ≤ m) && decide (m ≤ 0x2E)) || (m == 0x33 && bitsOf w.toNat 1 6 == 0) || (m == 0x30 && bitsOf w.toNat 0 8 == 4)

/-- R276: a slot of a core has a ready entry that needs the sequencer: in RUN, or one that drains before a save. -/
def sequencerReady (s : State) (id : Nat) : Bool :=
  let t := strandOf s id
  (t.blocked.isNone || behind t) && (t.arc.waits.all (· == .turn)) && t.arc.bays != 0 &&
    match t.slot, t.arc.viq with
    | .park, h :: _ => behind t && needsSequencer h.word
    | .run, h :: _ => needsSequencer h.word
    | .save, h :: _ => needsSequencer h.word
    | .run, [] => match fetch s id with
      | .word w => needsSequencer w
      | .trap _ => false
    | _, _ => false

/-- R276: DEF of a landing on a core. -/
def deficitOf (k : Core) (l : Nat) : Int := tblGet 0 k.deficit l

/-- R276: WEIGHT x 2^20 of a landing. -/
def weightOf (s : State) (core l : Nat) : Int := landingWeight (dieOf s (core / 128)) l * 2 ^ 20

/-- R276: how often landings whose deficits are not above 0 refill until one of them is: their least number of refills. -/
def refillRounds (s : State) (core : Nat) (ls : List Nat) : Nat :=
  match (ls.filter fun l => decide (0 < weightOf s core l)).map fun l =>
    (-(deficitOf (coreOf s core) l)).toNat / (weightOf s core l).toNat + 1 with
  | [] => 1
  | n :: r => r.foldl min n

/-- R276: landings refill: each gains its weight, up to that value, a number of times. -/
def refillDeficits (s : State) (core : Nat) (ls : List Nat) : State :=
  let n := refillRounds s core ls
  ls.foldl (fun u l =>
    let w := weightOf s core l
    modCore u core fun k => { k with deficit := tblSet k.deficit l (min (deficitOf k l + n * w) w) }) s

/-- R274: the strand is at a sequencer boundary: its next entry that needs the sequencer is a strip head, or it has none ready. -/
def atBoundary (s : State) (id : Nat) : Bool :=
  let t := strandOf s id
  !sequencerReady s id || (match t.arc.viq with | h :: _ => h.head | [] => t.stripHead)

/-- R276: the slot of a core that the sequencer serves and that is not at a boundary. -/
def served (s : State) (core : Nat) : Option Nat := (coreOf s core).sequencer.filter fun k => !atBoundary s (4 * core + k)

/-- R276: among slots of a core with ready entries, the sequencer takes that whose landing has the largest deficit, then the lower
landing, then the lower slot; landings without a deficit above 0 refill first. -/
def chooseAmong (s : State) (core : Nat) (ready : List Nat) : State :=
  let land := fun k => stLanding (strandOf s (4 * core + k))
  let ls := (ready.map land).eraseDups
  let u := if ls.all fun l => deficitOf (coreOf s core) l ≤ 0 then refillDeficits s core ls else s
  let better := fun (x y : Nat) =>
    let a := deficitOf (coreOf u core) (land x)
    let b := deficitOf (coreOf u core) (land y)
    if a < b ∨ (a = b ∧ land y < land x) then y else x
  match ready with
  | [] => s
  | x :: r => modCore u core fun k => { k with sequencer := some (r.foldl better x) }

/-- R276: at a sequencer boundary the sequencer chooses among the core's strands with a ready entry that needs it. -/
def execSequencerSelect (core : Nat) (s : State) : Res :=
  if (served s core).isSome then .next s
  else .next (chooseAmong s core ((List.range 4).filter fun k => sequencerReady s (4 * core + k)))

/-- R276: whether a strand's entry is admitted now, with the state in which it is or waits: a strand that is served is admitted until
its next boundary and others wait; at a boundary the sequencer chooses. A word that does not need the sequencer, or whose strand
holds no bays, takes no part. -/
def admitEntry (s : State) (id : Nat) (w : BitVec 32) : State × Bool :=
  let c := coreIdx id
  if !needsSequencer w || (strandOf s id).arc.bays == 0 then (s, true)
  else
    match served s c with
    | some k => (s, k == slotIdx id)
    | none =>
      let u := chooseAmong s c ((List.range 4).filter fun k => k == slotIdx id || sequencerReady s (4 * c + k))
      (u, (coreOf u c).sequencer == some (slotIdx id))

/-- R230, R277: what the issue of a strand's next instruction brings with it: a landing that drains makes the strand due, and an
instruction after a link counts. -/
def atIssue (s : State) (id : Nat) : State :=
  let t := strandOf s id
  let drains := !t.due && mustDrain s id
  let counts := t.blocked.isNone && (t.arc.viq.isEmpty || behind t) && decide (t.linkCount < 256) && holdsLink s id
  if drains || counts then
    modStrand s id fun x => { x with due := x.due || drains, linkCount := if counts then x.linkCount + 1 else x.linkCount }
  else s

/-! ## The watchdog (R79, R197, R259) -/

/-- R79: the landing's watchdog period is not 0. -/
def watchdogOn (s : State) (id : Nat) : Bool := landingWdog (dieOf s (dieIdx id)) (stLanding (strandOf s id)) != 0

/-- R197, R228, R259: the lane that a wait of the oldest entry records when it takes WATCHDOG; none for a wait that the watchdog does not
measure. -/
def waitLane (a : Arcade) : Option Nat :=
  match a.waits with
  | some (.mxtld ..) | some (.mxr ..) => some 0
  | some .chain | some (.portSpace ..) => some a.lane
  | _ => none

/-- R79, R197, R259: a wait longer than the watchdog period traps with cause WATCHDOG at its instruction. The waits of the VIQ's oldest
entry are found on the array side, so that the younger entries are held (log entry 83); a trap of the control side comes after older
entries (R101). -/
def execWatchdog (id : Nat) (s : State) : Res :=
  let t := strandOf s id
  let u := clearWatches s id
  let array := fun (o : Vop) (lane : Nat) => Host.Outcome.next (trapArray (modStrand u id fun x => { x with slot := .run }) id o cWATCHDOG 0 lane)
  if !watchdogOn s id then .next s
  else
    match t.arc.viq, waitLane t.arc with
    | h :: _, some lane => array ⟨h.word, h.op1, h.op2⟩ lane
    | _, _ =>
    match t.blocked with
    | some (.vwaitm c b i msk mp g z o) =>
      array (vop s id (wordM 0x2D c b i msk mp g 6 (0#1 ++ z ++ o)) c b) 0
    | some (.semwait _ _) | some (.barwait _ _) | some (.uwait _) | some (.collw _ _) | some .endWait =>
      if t.slot = .park ∧ behind t = false then .next (trapHere u id cWATCHDOG 0) else .next s
    | _ => .next s

/-! ## Traps of entries in the VIQ (R229) -/

/-- R100, R228: the causes that the array side raises. -/
def arrayCause (c : Nat) : Bool :=
  [cMISALIGN, cPAGE_FAULT, cACCESS, cCODED_NONFINITE, cARCADE_PARITY, cATOMIC_UNSUPPORTED, cCOORD, cVAULT, cMEM_UE].contains c

/-- R163, R198, R218, R228: a word in the VIQ may raise a cause on the array side: of the Mezzanine only MXDRN, for its swap; the
causes of an access only a vector memory instruction, and CODED_NONFINITE only one that stores. -/
def wordRaises (w : BitVec 32) (c : Nat) : Bool :=
  let m := w.toNat / 2 ^ 26
  let fn := w.toNat % 256
  if c = cVAULT ∨ c = cARCADE_PARITY then m != 0x30 || fn == 4
  else if c = cCOORD then m != 0x30
  else if c = cATOMIC_UNSUPPORTED then m == 0x2D
  else if c = cCODED_NONFINITE then m == 0x2C || m == 0x2D
  else arrayCause c && ([0x2B, 0x2C, 0x2D].contains m || (m == 0x2E && fn == 4))

/-- R198, R229: the oldest entry of a strand's VIQ traps, and it and every younger entry are held. -/
def execArrayTrap (id : Nat) (cause : BitVec 6) (tval : BitVec 64) (lane : Nat) (s : State) : Res :=
  match (strandOf s id).slot, (strandOf s id).arc.viq with
  | .run, h :: _ =>
    if wordRaises h.word cause.toNat then .next (trapArray s id ⟨h.word, h.op1, h.op2⟩ cause.toNat tval lane) else .next s
  | _, _ => .next s

/-! ## Rows (R123-R125) -/

/-- R125: three detections in a row within 3,600 s, in units of 100 microseconds. -/
def rowFailing (u : Usher) (core bay row : Nat) : Bool :=
  let times := (u.detections.filter fun d => d.1 == core && d.2.1 == bay && d.2.2.1 == row).map fun d => d.2.2.2
  times.any fun t0 => decide (3 ≤ (times.filter fun t => decide (t0 ≤ t) && decide (t ≤ t0 + 36000000)).length)

/-- R125: the strands to which a bay of a core that is disabled stays available: its holder, and saved strands that name it. -/
def bayNamers (s : State) (core bay : Nat) : List Nat :=
  let holder := match listGet none (coreOf s core).bayOwner bay with
    | some k => [(strandOf s (4 * core + k)).issuer]
    | none => []
  holder ++ ((List.range 32).map fun l => (landingOf s (core / 128) l).saved.filterMap fun e =>
    if resumeCore e.record = core ∧ bitsOf (resumeHeld e.record).toNat bay 1 = 1 then some e.issuer else none).flatten

/-- R125: a row of a core's row map is retired; a bay that this disables stays available to the strands that have it. -/
def retireRow (s : State) (core bay row : Nat) : State :=
  let k := coreOf s core
  let x := { k with retired := listSet [] k.retired bay (insertNat row (listGet [] k.retired bay)) }
  setCore s core
    (if bayEnabled k bay && !bayEnabled x bay then
      { x with keepers := x.keepers ++ (bayNamers s core bay).map fun g => (bay, g) }
    else x)

/-- R125: the Usher retires a row; strands see it at their next start (R110). -/
def execRowRetirement (core bay row : Nat) (s : State) : Res :=
  if bay < 4 ∧ row < 4096 ∧ rowFailing s.pkg.usher core bay row then .next (retireRow s core bay row) else .next s

/-- R125: the Usher reads an idle bay; every mismatch is a detection. -/
def execUsherScrub (core bay : Nat) (s : State) : Res :=
  let k := coreOf s core
  if bay < 4 ∧ bayFree k bay then
    .next (((k.parity.filter fun q => q.1 == bay).map (·.2.1)).eraseDups.foldl (fun u row => reportDetection u core bay row) s)
  else .next s

end Sys2Proof.Machine
end

