-- ==== Sys2Proof/Machine/Undercroft.lean ====
section
/-!
DEFINITION. The Undercroft (R311, R314, R321-R326).
-/

namespace Sys2Proof.Machine

/-! ## Issue (R322) -/

/-- R322: a unit of an operand is checked; the answer is its PA. `dest` says that it is the destination. -/
def unitCheck (s : State) (id : Nat) (raw dest : Bool) (a : Word) : Except XFault Nat :=
  if inAtrium a then .error (xfault cACCESS)
  else if !canonical a then .error (xfault cPAGE_FAULT)
  else
    match pageWalk s (unitsOf (agentOf s id)) (agentOf s id).ctx (va48 a) with
    | .error f => .error f
    | .ok p =>
      if (!p.u && !stSuper (strandOf s id)) || pageForbidden s p || p.kind != 0 || p.region.isSome || !p.near ||
          (dest && p.ro) || p.addr / dieBytes != dieIdx id then .error (xfault cACCESS)
      else if p.isSealed && !raw then .error (xfault cNEAR_SEALED)
      else .ok p.addr

/-- R322: the operands of one unit in order, destination first. -/
def unitOperands (s : State) (id : Nat) (raw : Bool) : List (Word × Bool) → Except (Word × XFault) (List Nat)
  | [] => .ok []
  | (a, dest) :: r =>
    match unitCheck s id raw dest a with
    | .error f => .error (a, f)
    | .ok p =>
      match unitOperands s id raw r with
      | .error e => .error e
      | .ok l => .ok (p :: l)

/-- R322: units from `i` on, in ascending order. -/
def unitList (s : State) (id : Nat) (raw : Bool) (ops : List (Word × Bool)) : Nat → Nat →
    Except (Word × XFault) (List (Nat × List Nat))
  | 0, _ => .ok []
  | n + 1, i =>
    match unitOperands s id raw (ops.map fun o => (o.1 + BitVec.ofNat 64 (1024 * i), o.2)) with
    | .error e => .error e
    | .ok ps =>
      match unitList s id raw ops n (i + 1) with
      | .error e => .error e
      | .ok l => .ok ((ps.headD 0, ps.tail) :: l)

/-- The number of sources of an operation (R321). -/
def bulkSources (op : Nat) : Nat :=
  match op with
  | 0 => 0
  | 1 => 1
  | 5 => 1
  | 4 => 3
  | _ => 2

/-- The word of a UBULK. -/
def wordBulk (op : BitVec 3) (raw : BitVec 1) (a b : BitVec 5) : BitVec 32 := wordS 0x36 a b 0 (0#7 ++ raw ++ op)

/-- R322: a command is accepted, or waits at issue for an entry of the die's queue. -/
def acceptBulk (s : State) (id op : Nat) (units : List (Nat × List Nat)) (blk : Block) : State :=
  let die := dieIdx id
  let q := (dieOf s die).undercroft
  if q.length < 64 then
    finish (setDie s die { dieOf s die with
      undercroft := q ++ [⟨(strandOf s id).issuer, (strandOf s id).tag, op, units, false⟩] }) id
  else blockOn s id blk

/-- R322, R324: the checks of a UBULK in order; it is accepted after the strand's earlier SC accesses. -/
def ubulkOp (op : BitVec 3) (raw : BitVec 1) (a b : BitVec 5) (s : State) : State :=
  let id := s.cur
  let w := wordBulk op raw a b
  let dst := reg s id a
  let n := (reg s id (a ||| 1)).toNat
  let src := (List.range (bulkSources op.toNat)).map fun k => reg s id (b + BitVec.ofNat 5 k)
  if a = 0 ∨ (op ≠ 0 ∧ b = 0) ∨ n = 0 ∨ 2 ^ 20 < n then trapIllegal s id w
  else if raw = 1 ∧ stSuper (strandOf s id) = false then trapWord s id cPRIV w
  else
    match (dst :: src).find? fun x => x.toNat % 1024 != 0 with
    | some x => trapHere s id cMISALIGN x
    | none =>
      match unitList s id (raw == 1) ((dst, true) :: src.map fun x => (x, false)) n 0 with
      | .error (x, f) => trapHere (noteFault s f) id f.cause x
      | .ok us =>
        if streamFenced s id 0 || s.net.unacked.any (fun u => u.sid == sidOf id 0) then blockOn s id (.remote 0)
        else acceptBulk s id op.toNat us (.ubulk op raw a b)

def execUbulkZero (a : BitVec 4) (r : BitVec 1) (s : State) : Res := .next (ubulkOp 0 r (pairReg a) 0 s)
def execUbulkCopy (a : BitVec 4) (b : BitVec 5) (s : State) : Res := .next (ubulkOp 1 0 (pairReg a) b s)
def execUbulkAnd (a b : BitVec 4) (s : State) : Res := .next (ubulkOp 2 0 (pairReg a) (pairReg b) s)
def execUbulkOr (a b : BitVec 4) (s : State) : Res := .next (ubulkOp 3 0 (pairReg a) (pairReg b) s)
def execUbulkMaj3 (a : BitVec 4) (b : BitVec 3) (s : State) : Res := .next (ubulkOp 4 0 (pairReg a) (b ++ 0#2) s)
def execUbulkNot (a : BitVec 4) (b : BitVec 5) (s : State) : Res := .next (ubulkOp 5 0 (pairReg a) b s)

/-- R322: a UBULK that waits for an entry is tried again. -/
def execUndercroftQueueEntry (id : Nat) (s : State) : Res :=
  match (strandOf s id).blocked with
  | some (.ubulk op raw a b) => .next (retryIssue s id (ubulkOp op raw a b))
  | _ => .next s

/-! ## Execution (R323, R324, R326) -/

/-- R324: two commands share a row unit that one of them writes. -/
def bulkClash (c d : UCmd) : Bool :=
  let touches := fun (x : UCmd) (u : Nat) => x.units.any fun p => p.1 == u || p.2.contains u
  c.units.any (fun p => touches d p.1) || d.units.any (fun p => touches c p.1)

/-- R324: a command starts when no earlier command of the die that clashes with it is left. -/
def execUndercroftStart (die index : Nat) (s : State) : Res :=
  let q := (dieOf s die).undercroft
  match q[index]? with
  | none => .next s
  | some c =>
    if (q.take index).any (bulkClash c) then .next s
    else .next (setDie s die { dieOf s die with undercroft := q.set index { c with active := true } })

/-- R321: the bits that a destination unit receives. -/
def bulkBits (op : Nat) (src : List Nat) : Nat :=
  let x := listGet 0 src 0
  let y := listGet 0 src 1
  let z := listGet 0 src 2
  match op with
  | 0 => 0
  | 1 => x
  | 2 => x &&& y
  | 3 => x ||| y
  | 4 => (x &&& y) ||| (x &&& z) ||| (y &&& z)
  | _ => 2 ^ 8192 - 1 - x

/-- R311: the block that backs a coded line of a valid region lies in the row unit at a PA. -/
def overRow (s : State) (row r j : Nat) : Bool :=
  let g := regionOf s r
  regionOn g && decide (row ≤ blockPa g j) && decide (blockPa g j < row + 1024)

/-- R311: the home drops every decoded line that a row unit backs, dirty or not, and breaks its links. -/
def dropDecoded (s : State) (row : Nat) : State :=
  let gone := fun (k : Nat) => overRow s row (k / 2 ^ 34) (k % 2 ^ 34)
  let linked := fun (t : TagEntry) => match t.line with
    | .coded r j => overRow s row r j
    | _ => false
  { s with mem := { s.mem with coded := s.mem.coded.filter (fun p => !gone p.1),
                               codedPoison := s.mem.codedPoison.filter (fun k => !gone k),
                               tags := s.mem.tags.filter fun t => !linked t } }

/-- R311, R323, R326: one unit is formed from the stored bits: the lines written have a new code, or are poisoned where a source
line is bad; the home drops every copy and breaks every link. The answer says whether a line was poisoned. -/
def bulkUnit (op : Nat) (s : State) (u : Nat × List Nat) : State × Bool :=
  let bits := bulkBits op (u.2.map fun a => cellsRead s.mem.dram a 1024)
  let lines := (List.range 16).map fun i => u.1 / 64 + i
  let badAt := fun i => u.2.any fun a => dramBad s (a / 64 + i)
  let bad := ((List.range 16).filter badAt).map fun i => u.1 / 64 + i
  let p := bad.foldl (fun l n => insertNat n l) (s.mem.poison.filter fun n => !lines.contains n)
  let v := { s with mem := { s.mem with dram := cellsWrite s.mem.dram u.1 1024 bits, poison := p } }
  (dropDecoded (lines.foldl (fun w n => breakLine (dropLine w n) (.phys n)) v) u.1, !bad.isEmpty)

/-- R323: the units of a command, in ascending order. -/
def bulkUnits (op : Nat) : List (Nat × List Nat) → State × Bool → State × Bool
  | [], r => r
  | u :: us, (s, bad) =>
    match bulkUnit op s u with
    | (t, b) => bulkUnits op us (t, bad || b)

/-- R323, R326: a command has written every destination unit. -/
def execUndercroftComplete (die index : Nat) (s : State) : Res :=
  let q := (dieOf s die).undercroft
  match q[index]? with
  | none => .next s
  | some c =>
    if c.active then
      match bulkUnits c.op c.units (setDie s die { dieOf s die with undercroft := q.eraseIdx index }, false) with
      | (u, false) => .next u
      | (u, true) =>
        .next (addReport { u with pkg := { u.pkg with poisoned := insertNat c.issuer u.pkg.poisoned } } 326 c.tag)
    else .next s

/-- R325: UWAIT parks until DONE, then reports and forgets the poison record. -/
def execUwait (a : BitVec 5) (s : State) : Res :=
  let id := s.cur
  let g := (strandOf s id).issuer
  if (bulksOf s id).isEmpty then
    let u := { s with pkg := { s.pkg with poisoned := s.pkg.poisoned.filter (· != g) } }
    .next (finishReg u id a (if s.pkg.poisoned.contains g then 1 else 0))
  else .next (parkOn s id (.uwait a))

end Sys2Proof.Machine
end

