-- ==== Sys2Proof/Machine/Caches.lean ====
section
/-!
DEFINITION. Cache and TLB instructions, and what homes do of their own accord (R285, R287-R289, R295, R302, R306-R310, R319).
-/

namespace Sys2Proof.Machine

/-! ## Flushing lines (R307, R308) -/

/-- R307: the line of a target is written back: a coded line has its codec write. PEER and HOST pages and the Atrium are
skipped. -/
def flushTarget (s : State) (t : Target) : State :=
  match t with
  | .coded r o _ => codecWrite s r (o / 64)
  | .phys k _ => if k < 2 ^ 40 then writeBack s (k / 64) else s
  | _ => s

/-- R308: every copy of the line is dropped. -/
def dropTarget (s : State) (t : Target) : State :=
  match t with
  | .coded r o _ => dropCoded s r (o / 64)
  | .phys k _ => if k < 2 ^ 40 then dropLine s (k / 64) else s
  | _ => s

/-- R307, R308: lines from an address on; `f` acts on each, and the walk stops at a line whose translation fails. -/
def overLines (id : Nat) (f : State → Target → State) : Nat → Word → State → State × Option (Nat × Word)
  | 0, _, s => (s, none)
  | n + 1, a, s =>
    match translate s (agentOf s id) false a with
    | .error e => (noteFault s e, some (e.cause, a))
    | .ok t => overLines id f n (a + 64) (f s t)

/-- The first line and the number of lines that a range overlaps. -/
def rangeLines (a n : Word) : Word × Nat :=
  (a &&& ~~~63, if n = 0 then 0 else (a.toNat % 64 + n.toNat + 63) / 64)

/-- R306-R308: CFLUSH and CINV. Each is ordered with the strand's SC stream. -/
def cacheOp (w : BitVec 32) (a b : BitVec 5) (f : State → Target → State) (s : State) : State :=
  let id := s.cur
  let n := reg s id b
  if 2 ^ 30 < n.toNat then trapIllegal s id w
  else if streamFenced s id 0 || s.net.unacked.any (fun u => u.sid == sidOf id 0) then blockOn s id (.remote 0)
  else
    let r := rangeLines (reg s id a) n
    match overLines id f r.2 r.1 s with
    | (u, none) => finish u id
    | (u, some (c, x)) => trapHere u id c x

/-- R307. -/
def execCflush (a b : BitVec 5) (s : State) : Res := .next (cacheOp (wordS 0x35 a b 0 0) a b flushTarget s)

/-- R308. -/
def execCinv (a b : BitVec 5) (s : State) : Res :=
  .next (cacheOp (wordS 0x35 a b 1 0) a b (fun u t => dropTarget (flushTarget u t) t) s)

/-- R309: a hint; it may be dropped in whole. -/
def execCpref (a b : BitVec 5) (s : State) : Res :=
  let id := s.cur
  if 2 ^ 30 < (reg s id b).toNat then .next (trapIllegal s id (wordS 0x35 a b 2 0)) else .next (finish s id)

/-! ## TLBINV (R310) -/

/-- R73: the pool-map windows take their written values. -/
def refreshPools (s : State) : State := { s with pkg := { s.pkg with poolNow := s.pkg.pool } }

/-- R290: the PTROOT registers take their written values. -/
def refreshRoots (s : State) : State := { s with pkg := { s.pkg with ptrootNow := s.pkg.ptroot } }

/-- R73, R261, R290: what a TLBINV refreshes at its scope: 3 is `die`, 4 is `package`. -/
def refreshScope (s : State) (die scope : Nat) : State :=
  if scope = 3 then refreshDescs s die
  else if scope = 4 then refreshRoots (refreshPools ((List.range 4).foldl refreshDescs s))
  else s

/-- R310: the TLB or walker belongs to the scope instance of a strand: 0 and 1 are its core with its cluster's walker, 2 its cluster,
3 its die, 4 the package. -/
def inScope (id scope unit : Nat) : Bool :=
  let cl := if unit < 512 then unit / 8 else unit - 512
  match scope with
  | 0 | 1 => unit == coreIdx id || unit == 512 + clusterIdx id
  | 2 => cl == clusterIdx id
  | 3 => cl / 16 == dieIdx id
  | _ => true

/-- R310: the entry maps or leads to a page that overlaps the range of `n` 64 KiB units from that of `va`; 0 is every address. -/
def entryOverlaps (e : TlbEntry) (va n : Nat) : Bool :=
  let bits := if e.level = 3 then 39 else pageBits e.level
  let lo := va / 2 ^ 16 * 2 ^ 16
  n == 0 || (decide (e.path * 2 ^ bits < lo + n * 2 ^ 16) && decide (lo < (e.path + 1) * 2 ^ bits))

/-- R310: the entries of the scope instance that a TLBINV names are dropped; `v` is its second operand. -/
def dropEntries (s : State) (id scope : Nat) (p v : Word) : State :=
  let gone := fun (e : TlbEntry) =>
    inScope id scope e.unit && (fld v 37 1 == 1 || e.ctx == fld v 32 5) && entryOverlaps e (va48 p) (fld v 0 32)
  { s with mem := { s.mem with tlb := s.mem.tlb.filter fun e => !gone e } }

/-- R310: accesses that agents of the scope instance have translated are not performed: packets that are not acknowledged, and at die
or package scope the Undercroft's commands, whose units are translated at issue. -/
def inFlight (s : State) (id scope : Nat) : Bool :=
  s.net.unacked.any (fun u => u.sid % 8 != 7 && inScope id scope (u.sid / 32)) ||
    (scope == 3 && !(dieOf s (dieIdx id)).undercroft.isEmpty) ||
    (scope == 4 && (List.range 4).any fun d => !(dieOf s d).undercroft.isEmpty)

/-- R310. -/
def execTlbinv (a b : BitVec 5) (k : BitVec 3) (s : State) : Res :=
  let id := s.cur
  let p := reg s id a
  let v := reg s id b
  let w := wordS 0x35 a b 3 (k.zeroExtend 11)
  if 5 ≤ k.toNat ∨ fld v 38 26 ≠ 0 ∨ (fld v 37 1 = 1 ∧ fld v 32 5 ≠ 0) ∨ (fld v 0 32 ≠ 0 ∧ canonical p = false) then
    .next (trapIllegal s id w)
  else if stSuper (strandOf s id) = false then .next (trapWord s id cPRIV w)
  else
    .next (releaseThen s id 0 true
      (if inFlight s id k.toNat then blockOn s id (.remote 0)
      else finish (refreshScope (dropEntries s id k.toNat p v) (dieIdx id) k.toNat) id))

/-! ## Homes -/

/-- R285, R287: the home holds a line that has been read from HBM, through a page with this SEALED bit; it is clean. -/
def fillLine (s : State) (n : Nat) (sl : Bool) : State :=
  if !s.pkg.bringUp ∧ 64 * n < memTop ∧ !lineBad s n ∧ (tblFind s.mem.l2 n).isNone then
    { s with mem := { s.mem with
        l2 := tblSet s.mem.l2 n ⟨lineNow s n sl, false, sl, 0⟩, l2Poison := s.mem.l2Poison.filter (· != n) } }
  else s

/-- R302, R320: how a fill names its line and whether it comes through a SEALED page. -/
def fillKey (line : Nat) (isSealed : Bool) : Nat := 2 * line + isSealed.toNat

/-- R302: a fill decodes a coded line at its home; a line of another page comes from HBM as it stands. A fill is a step of its own
(log entry 68). -/
def execL2Fill (coded : Bool) (key : Nat) (s : State) : Res :=
  let line := key / 2
  let isSealed := key % 2 == 1
  let r := line / 2 ^ 34
  let j := line % 2 ^ 34
  if !coded then .next (fillLine s line isSealed)
  else if !s.pkg.bringUp ∧ regionOn (regionOf s r) ∧ r < 64 ∧ 64 * j < (regionOf s r).rsize.toNat ∧ !codedBad s r j then
    .next (fillCoded s r j isSealed)
  else .next s

/-- R289, R319: a dirty line is lost at its write-back: its DRAM is marked poisoned, the error is reported, and the Foyer
learns the tag of the last writer. -/
def failWriteBack (s : State) (line tag : Nat) : State :=
  writeBackError (addReport (poisonLine (dropLine s line) line) 319 line) (64 * line) tag

/-- R302: a home evicts a line; `bad` says that the line carries an uncorrectable error at its write-back. -/
def evictLine (coded : Bool) (key : Nat) (bad : Bool) (s : State) : State :=
  if coded then
    let r := key / 2 ^ 34
    let j := key % 2 ^ 34
    match tblFind s.mem.coded key with
    | none => s
    | some l =>
      if l.dirty && bad then failWriteBack (breakLine (dropCoded s r j) (.coded r j)) (blockPa (regionOf s r) j / 64) l.writer
      else dropCoded (codecWrite s r j) r j
  else
    match tblFind s.mem.l2 key with
    | none => s
    | some l => if l.dirty && bad then failWriteBack s key l.writer else dropLine (writeBack s key) key

/-- R285: the bits of HPART and HMASK that may be written. -/
def hashMask (index : Nat) : Word := if index < 4 then 0x83FFFFFFFFC00000 else 0xFFFFFFFFC0

/-- R285: a die's L2 holds a line. -/
def dieHolds (s : State) (die : Nat) : Bool :=
  s.mem.l2.any (fun p => p.1 < 2 ^ 34 && 64 * p.1 / dieBytes == die) ||
    s.mem.coded.any fun p => blockPa (regionOf s (p.1 / 2 ^ 34)) (p.1 % 2 ^ 34) / dieBytes == die

/-- R285: HPART p is index p, HMASK p.k is index 4 + 6p + k; a write while the die's L2 holds a line is ignored and reported.
Reserved bits keep reading 0 (R8). -/
def hashWritten (s : State) (die index : Nat) (value : Word) : State :=
  if 4 ≤ die ∨ 28 ≤ index then s
  else if dieHolds s die then addReport s 285 (32 * die + index)
  else
    let d := dieOf s die
    let v := value &&& hashMask index
    setDie s die (if index < 4 then { d with hpart := listSet 0 d.hpart index v }
      else { d with hmask := listSet 0 d.hmask (index - 4) v })

/-- R285: the Usher's firmware writes a register of a die's hash partitions. -/
def execHashPartitionWrite (die index : Nat) (value : BitVec 64) (s : State) : Res := .next (hashWritten s die index value)

end Sys2Proof.Machine
end

