-- ==== Sys2Proof/Machine/Journal.lean ====
section
/-!
DEFINITION. The work journal and completion slots (R328-R330, R336, R337, R349).
-/

namespace Sys2Proof.Machine

/-! ## CRC-32 (IEEE 802.3) -/

/-- One bit of the reflected CRC. -/
def crcBits : Nat → BitVec 32 → BitVec 32
  | 0, c => c
  | n + 1, c => crcBits n (if c.toNat % 2 = 1 then (c >>> 1) ^^^ 0xEDB88320#32 else c >>> 1)

/-- R337: the CRC-32 of a number's `n` low bytes, least significant first. -/
def crc32 (n x : Nat) : BitVec 32 :=
  ~~~((bytesOfNat n x).foldl (fun (c : BitVec 32) b => crcBits 8 (c ^^^ b.zeroExtend 32)) 0xFFFFFFFF#32)

/-! ## Entries (R337) -/

/-- R337: the kinds of entries. -/
inductive JKind where
  | accept | launch | done | fail | graphEnd
  deriving DecidableEq, Repr

/-- The code of a kind. -/
def jCode : JKind → Nat
  | .accept => 1
  | .launch => 2
  | .done => 3
  | .fail => 4
  | .graphEnd => 5

/-- A journal entry. -/
structure JEntry where
  kind : Nat
  attempt : Nat
  tag : Nat
  seq : Nat
  node : Nat
  queue : Nat
  graphSeq : Nat
  deriving DecidableEq, Repr

/-- R337: the bytes of an entry before its CRC, as a number. -/
def jBody (e : JEntry) : Nat :=
  e.kind * 2 ^ 56 + e.attempt * 2 ^ 48 + e.tag * 2 ^ 32 + e.seq + 2 ^ 64 * e.node + 2 ^ 128 * (e.queue * 2 ^ 60 + e.graphSeq)

/-- R337: the 32 bytes of an entry; the CRC covers bytes 0 to 27 with its own bytes 24 to 27 taken as 0 (log entry 17). -/
def jBytes (e : JEntry) : Nat := jBody e + 2 ^ 192 * (crc32 28 (jBody e)).toNat

/-- R337: the PA of ring position `k` in the copy of a die: row units of stack 0 or 6 (log entry 18). -/
def jAddr (die k : Nat) : Nat := die * dieBytes + 0x2F00000000 + 1024 * (1 + 3 * (k / 32)) + 32 * (k % 32)

/-- R337: the entry that a copy holds at a ring position, when its CRC holds. -/
def jCopy (s : State) (die k : Nat) : Option JEntry :=
  let a := jAddr die k
  let x := physRead s a 32
  let e : JEntry := ⟨bitsOf x 56 8, bitsOf x 48 8, bitsOf x 32 16, bitsOf x 0 32, bitsOf x 64 64, bitsOf x 188 4, bitsOf x 128 32⟩
  if !lineBad s (a / 64) && jBytes e == x && decide (1 ≤ e.kind) && decide (e.kind ≤ 5) then some e else none

/-- R337: an entry counts when its CRC holds in either copy. -/
def jAt (s : State) (k : Nat) : Option JEntry := (jCopy s 0 k).or (jCopy s 2 k)

/-- R337: an entry is written to both copies. -/
def jWrite (s : State) (kind : JKind) (attempt tag node queue graphSeq : Nat) : State :=
  let q := s.pkg.foyer.seq
  let e : JEntry := ⟨jCode kind, attempt, tag, q.toNat, node, queue, graphSeq⟩
  let k := q.toNat % 2 ^ 20
  let u := physWrite (physWrite s (jAddr 0 k) 32 (jBytes e)) (jAddr 2 k) 32 (jBytes e)
  { u with pkg := { u.pkg with foyer := { u.pkg.foyer with seq := q + 1 } } }

/-- A graph that has not ended. -/
def graphLive (f : Foyer) (queue seq : Nat) : Bool :=
  f.waiting.any (fun g => g.queue == queue && g.seq == seq) ||
    f.walks.any fun w => w.graph.queue == queue && w.graph.seq == seq

/-- A graph whose completion slot has not been written. -/
def slotOwed (f : Foyer) (queue seq : Nat) : Bool := f.heldSlots.any fun h => h.1 == queue && h.2.1 == seq

/-- R337, R339: a LAUNCH entry of the last attempt of a launch that is neither DONE nor FAILED. -/
def launchLive (f : Foyer) (e : JEntry) : Bool :=
  f.launches.any fun l => l.tag == e.tag && l.attempt == e.attempt && l.graph.queue == e.queue && l.graph.seq == e.graphSeq

/-- R337: a later entry of the same kind stands in the journal for the graph of an entry. -/
def jSuperseded (s : State) (e : JEntry) : Bool :=
  (List.range (2 ^ 20)).any fun k => match jAt s k with
    | some f => f.kind == e.kind && f.queue == e.queue && f.graphSeq == e.graphSeq &&
        decide ((f.seq + 2 ^ 32 - e.seq) % 2 ^ 32 < 2 ^ 31) && f.seq != e.seq
    | none => false

/-- R337: the entry at a ring position is one that the Foyer must keep; the LAUNCH of a launch that is not over is, as R339 needs it
(log entry 87). -/
def jKept (s : State) (k : Nat) : Bool :=
  let f := s.pkg.foyer
  match jAt s (k % 2 ^ 20) with
  | none => false
  | some e =>
    match e.kind with
    | 1 => graphLive f e.queue e.graphSeq
    | 5 => slotOwed f e.queue e.graphSeq
    | 4 => false
    | k => (graphLive f e.queue e.graphSeq && !jSuperseded s e) || (k == 2 && launchLive f e)

/-- R337: the next `n` entries would overwrite one that the Foyer must keep. -/
def journalFull (s : State) (n : Nat) : Bool := (List.range n).any fun i => jKept s (s.pkg.foyer.seq.toNat + i)

/-- R337: the next entry would overwrite one that the Foyer must keep. -/
def journalHeld (s : State) : Bool := journalFull s 1

/-! ## Completion slots (R336) -/

/-- A change to the Foyer. -/
def modFoyer (s : State) (f : Foyer → Foyer) : State := { s with pkg := { s.pkg with foyer := f s.pkg.foyer } }

/-- R336: the slot of an acceptance sequence would overwrite one that the host has not consumed. -/
def slotBlocked (r : Ring) (seq : Nat) : Bool :=
  decide ((ringSlots r : Int) ≤ signed 32 ((seq + 2 ^ 32 - r.head) % 2 ^ 32))

/-- R336: TAIL after the slot of a sequence is written. -/
def slotTail (r : Ring) (seq : Nat) : Nat :=
  if 0 < signed 32 ((r.tail + 2 ^ 32 - seq) % 2 ^ 32) then r.tail else (seq + 1) % 2 ^ 32

/-- R336: a completion slot is written by index. -/
def writeCompletionSlot (s : State) (queue seq : Nat) (payload : Word) : State :=
  let n := 16 + queue
  let u := writeSlotAt s n seq payload seq 0 2
  ringSignal (setRing u n { ringOf u n with tail := slotTail (ringOf u n) seq }) n

/-- R336: held completions of a queue are written in acceptance order while the ring takes them. -/
def flushSlots (queue : Nat) : Nat → State → State
  | 0, s => s
  | n + 1, s =>
    let f := s.pkg.foyer
    let r := ringOf s (16 + queue)
    let next := tblGet 0 f.nextSlot queue
    match f.heldSlots.find? fun h => h.1 == queue && h.2.1 == next with
    | none => s
    | some h =>
      if ringOn r && !slotBlocked r next then
        let u := writeCompletionSlot s queue next h.2.2
        flushSlots queue n (modFoyer u fun g =>
          { g with heldSlots := g.heldSlots.erase h, nextSlot := tblSet g.nextSlot queue ((next + 1) % 2 ^ 32) })
      else s

/-- R336: a submission's completion is due: it is written once the earlier ones of its queue are, and the ring takes it. -/
def completeSubmission (s : State) (g : Graph) (node : Nat) (fail : Bool) : State :=
  let payload : Word := BitVec.ofNat 64 (node % 2 ^ 48 / 64 * 64 + if fail then 2 ^ 63 else 0)
  let u := modFoyer s fun f => { f with heldSlots := f.heldSlots ++ [(g.queue, g.seq, payload)] }
  flushSlots g.queue u.pkg.foyer.heldSlots.length u

end Sys2Proof.Machine
end

