-- ==== Sys2Proof/Machine/HostPort.lean ====
section
/-!
DEFINITION. The host port: HPOST and GSIG, doorbells, ring registers, BAR0 and BAR2, MSI-X (R290, R327-R332, R340).
-/

namespace Sys2Proof.Machine

/-! ## HPOST and GSIG -/

/-- R330: the attempt number of the launch of a tag; one that is DONE keeps it for the strands that it has left (log entry 95). -/
def attemptOf (s : State) (tag : Nat) : Nat :=
  ((s.pkg.foyer.launches.find? fun l => l.tag == tag).map fun l => l.attempt).getD (tblGet 0 s.pkg.foyer.attempts tag)

/-- R331. -/
def execHpost (a b : BitVec 5) (r : BitVec 4) (s : State) : Res :=
  let id := s.cur
  let tag := (strandOf s id).tag
  let g := ringOf s r.toNat
  .next (releaseThen s id 0 true
    (if !ringOn g then finishReg s id a 2
    else if ringFull g then finishReg s id a 1
    else finishReg (postSlot s r.toNat (reg s id b) tag (attemptOf s tag) 0) id a 0))

/-- R332: the store fires the watch of every COND node on its line, so that it is read again. -/
def execGsig (a b : BitVec 5) (s : State) : Res :=
  let id := s.cur
  let p := reg s id a
  .next (releaseThen s id 0 true
    (if p.toNat % 8 = 0 ∧ inAtrium p then trapHere s id cACCESS p
    else scalarThen id p (scalarWrite s id p 8 (reg s id b).toNat) fun _ u => finish u id))

/-! ## Doorbells (R328) -/

/-- R328: doorbells are closed: the package is UNFIT, or in bring-up. -/
def doorsClosed (s : State) : Bool := !s.pkg.fit || s.pkg.bringUp

/-- R328, R340: a doorbell enters the intake, or is dropped. -/
def execDoorbell (value : BitVec 64) (s : State) : Res :=
  let q := fld value 60 4
  let f := s.pkg.foyer
  if fld value 0 1 = 0 ∨ fld value 1 5 ≠ 0 ∨ fld value 48 12 ≠ 0 ∨ 64 ≤ f.intake.length ∨ doorsClosed s = true then
    .next (postEvent (modFoyer s fun g => { g with drops := tblSet g.drops q ((tblGet 0 g.drops q + 1) % 2 ^ 32) }) 4 q 0)
  else .next (modFoyer s fun g => { g with intake := g.intake ++ [value] })

/-- R328, R337: the oldest doorbell is accepted once its ACCEPT entry is in both journal copies. -/
def execSubmissionAccept (s : State) : Res :=
  match s.pkg.foyer.intake with
  | [] => .next s
  | d :: r =>
    if journalHeld s || doorsClosed s then .next s
    else
      let q := fld d 60 4
      let n := tblGet 0 s.pkg.foyer.accepted q
      let h := fld d 6 42 * 64
      .next (modFoyer (jWrite s .accept 1 0 h q n) fun f =>
        { f with intake := r, accepted := tblSet f.accepted q ((n + 1) % 2 ^ 32), waiting := f.waiting ++ [⟨q, n, h⟩] })

/-! ## Ring registers (R329, R330, R336) -/

/-- R329: the ring error event. -/
def ringError (s : State) (n : Nat) : State := postEvent s 3 n 0

/-- R336: HEAD and TAIL of a completion ring that is being enabled. -/
def enableSeq (s : State) (queue : Nat) : Nat :=
  match (s.pkg.foyer.heldSlots.filter fun h => h.1 == queue).map fun h => h.2.1 with
  | [] => tblGet 0 s.pkg.foyer.accepted queue
  | x :: r => r.foldl (fun m y => if signed 32 ((y + 2 ^ 32 - m) % 2 ^ 32) < 0 then y else m) x

/-- R329, R336: a write of HRCFG. While EN = 1 a change of SIZE is ignored; a SIZE outside 4 to 20 leaves EN at 0. -/
def execHrcfgWrite (ring : Nat) (value : BitVec 64) (s : State) : Res :=
  if 33 ≤ ring then .next s
  else
    let r := ringOf s ring
    let v := value &&& 0xFC00FFE0FFFFFFFF
    let w := if ringOn r then setFld v 58 5 (fld r.cfg 58 5) else v
    let ok := decide (4 ≤ fld w 58 5) && decide (fld w 58 5 ≤ 20)
    let w := if ok then w else setFld w 63 1 0
    if fld w 63 1 = 1 ∧ ringOn r = false then
      let n := if 16 ≤ ring ∧ ring < 32 then enableSeq s (ring - 16) else 0
      let u := setRing s ring { r with cfg := w, tail := n, head := n, pend := 0 }
      .next (if 16 ≤ ring ∧ ring < 32 then flushSlots (ring - 16) u.pkg.foyer.heldSlots.length u else u)
    else
      let u := setRing s ring { r with cfg := w }
      .next (if countReached w r.pend then raiseVector (setRing u ring { r with cfg := w, pend := 0 }) (fld w 37 11) else u)

/-- R329: HEAD above TAIL, or below TAIL - 2^SIZE. -/
def badHead (r : Ring) (head : Nat) : Bool :=
  let d := signed 32 ((r.tail + 2 ^ 32 - head) % 2 ^ 32)
  decide (d < 0) || decide ((ringSlots r : Int) < d)

/-- R329, R336: a write of HRHEAD frees slots, and held completions are written. -/
def execHrheadWrite (ring : Nat) (value : BitVec 64) (s : State) : Res :=
  if 33 ≤ ring then .next s
  else
    let r := ringOf s ring
    let h := fld value 0 32
    if badHead r h then .next (ringError (setRing s ring { r with cfg := setFld r.cfg 63 1 0, head := h }) ring)
    else
      let u := setRing s ring { r with head := h }
      .next (if 16 ≤ ring ∧ ring < 32 then flushSlots (ring - 16) u.pkg.foyer.heldSlots.length u else u)

/-- R330: CTIME has passed since the first pending slot. -/
def execRingCtimeExpiry (ring : Nat) (s : State) : Res :=
  let r := ringOf s ring
  if fld r.cfg 0 16 ≠ 0 ∧ r.pend ≠ 0 then .next (raiseVector (setRing s ring { r with pend := 0 }) (fld r.cfg 37 11))
  else .next s

/-- R330: the host unmasks a vector; a message held for it is sent. -/
def execMsixUnmask (vector : Nat) (s : State) : Res :=
  if 2048 ≤ vector then .next s
  else
    let p := s.pkg
    let u := { s with pkg := { p with unmasked := insertNat vector p.unmasked, pending := p.pending.filter (· != vector) } }
    .next (if p.pending.contains vector then { u with pkg := { u.pkg with messages := vector :: u.pkg.messages } } else u)

/-- R327, R330: the host masks a vector. -/
def msixMask (s : State) (vector : Nat) : State :=
  { s with pkg := { s.pkg with unmasked := s.pkg.unmasked.filter (· != vector) } }

/-! ## BAR0 and BAR2 (R327) -/

/-- R327: W2BASE keeps its value when a reserved bit is set or the window lies beyond device memory. -/
def execW2baseWrite (value : BitVec 64) (s : State) : Res :=
  if value &&& ~~~0xF000000000 ≠ 0 ∨ 12 ≤ fld value 36 4 then .next s
  else .next { s with pkg := { s.pkg with w2base := value } }

/-! ## The Usher's register block (R285, R316, R327, R352) -/

/-- R316: the rate of a stack in Gb/s per pin. -/
def stackRate (s : State) (k : Nat) : Nat :=
  match tblGet .full s.pkg.usher.stackStates k with
  | .full => 10
  | .degraded => 8
  | .failed => 0

/-- How many registers of the block the manual names. The model numbers them so: index i of `hashWritten` of die d is 28 d + i, FRCFG
is 112, the rate of stack k in the health report is 113 + k, and the minimal-port and Stair route entries of package p are 125 + p
and 4221 + p. -/
abbrev usherNamed : Nat := 8317

/-- R327: the BAR0 offset of a named register of the block (log entry 89). -/
def usherPlace (k : Nat) : Nat := 0x100000 + 8 * (Config.usherOffset k % 0x7E0000)

/-- R327: the named register at a BAR0 offset. -/
def usherAt (offset : Nat) : Option Nat := (List.range usherNamed).find? fun k => usherPlace k == offset

/-- R352: the route of a package as it is written: its minimal-port mask and its Stair port. -/
def routeNow (n : Net) (p : Nat) : BitVec 16 × Nat :=
  ((n.routesNew.reverse.find? fun r => r.1 == p).map (·.2)).getD (tblGet 0 n.minimal p, tblGet 0 n.stairRoute p)

/-- R285, R316, R352: what a named register of the block reads: its value as written. -/
def usherField (s : State) (k : Nat) : Word :=
  if k < 112 then
    let d := dieOf s (k / 28)
    if k % 28 < 4 then listGet 0 d.hpart (k % 28) else listGet 0 d.hmask (k % 28 - 4)
  else if k = 112 then s.net.frcfgNew.getD s.net.frcfg
  else if k < 125 then BitVec.ofNat 64 (stackRate s (k - 113))
  else if k < 4221 then (routeNow s.net (k - 125)).1.zeroExtend 64
  else BitVec.ofNat 64 (routeNow s.net (k - 4221)).2

/-- R285, R352: a named register of the block is written; a rate is read-only. -/
def usherStore (s : State) (k : Nat) (v : Word) : State :=
  if k < 112 then hashWritten s (k / 28) (k % 28) v
  else if k = 112 then frcfgWritten s v
  else if k < 125 then s
  else if k < 4221 then routeWritten s (k - 125) (v.truncate 16) (routeNow s.net (k - 125)).2
  else routeWritten s (k - 4221) (routeNow s.net (k - 4221)).1 (v.toNat % 16)

/-- R327: a register of the block as it reads. -/
def blockValue (s : State) (offset : Nat) : Word :=
  match usherAt offset with
  | some k => usherField s k
  | none => tblGet 0 s.pkg.usher.registers offset

/-- R327: a register of the block is written. -/
def blockWritten (s : State) (offset : Nat) (value : Word) : State :=
  match usherAt offset with
  | some k => usherStore s k value
  | none => { s with pkg := { s.pkg with usher := { s.pkg.usher with registers := tblSet s.pkg.usher.registers offset value } } }

/-! ## Registers of BAR0 -/

/-- R290, R327, R329: a host write of a BAR0 register without a step of its own: HRBASE while its ring is disabled, PTROOT, and
registers of the Usher's block that the Usher has opened. -/
def execHostRegisterWrite (offset : Nat) (value : BitVec 64) (s : State) : Res :=
  if 0x10000 ≤ offset ∧ offset < 0x10000 + 32 * 33 ∧ offset % 32 = 0 then
    let n := (offset - 0x10000) / 32
    let r := ringOf s n
    .next (if ringOn r then s else setRing s n { r with base := value &&& ~~~0xF })
  else if 0x20000 ≤ offset ∧ offset < 0x20100 ∧ offset % 8 = 0 then
    .next { s with pkg := { s.pkg with ptroot := tblSet s.pkg.ptroot ((offset - 0x20000) / 8) (value &&& 0xFFFFFFF001) } }
  else if 0x100000 ≤ offset ∧ offset < 0x4000000 ∧ s.pkg.usher.opened.contains offset then .next (blockWritten s offset value)
  else .next s

/-- R8, R327-R329: a register of BAR0 as the host reads it. FDOOR is write-only; what is reserved or not assigned reads 0. -/
def registerValue (s : State) (offset : Nat) : Word :=
  let f := s.pkg.foyer
  if 0x100 ≤ offset ∧ offset < 0x180 ∧ offset % 8 = 0 then
    let q := (offset - 0x100) / 8
    BitVec.ofNat 64 (tblGet 0 f.drops q * 2 ^ 32 + tblGet 0 f.accepted q)
  else if 0x10000 ≤ offset ∧ offset < 0x10000 + 32 * 33 ∧ offset % 8 = 0 then
    let r := ringOf s ((offset - 0x10000) / 32)
    match offset % 32 with
    | 0 => r.base
    | 8 => r.cfg
    | 16 => BitVec.ofNat 64 r.tail
    | _ => BitVec.ofNat 64 r.head
  else if 0x20000 ≤ offset ∧ offset < 0x20100 ∧ offset % 8 = 0 then tblGet 0 s.pkg.ptroot ((offset - 0x20000) / 8)
  else if offset = 0x30000 then s.pkg.w2base
  else if 0x100000 ≤ offset ∧ offset < 0x4000000 then blockValue s offset
  else 0

/-- R8, R327: the host reads a register of BAR0. -/
def registerRead (s : State) (offset : Nat) : State :=
  { s with pkg := { s.pkg with hostReads := some (registerValue s offset) :: s.pkg.hostReads } }

/-- R327: the Usher opens a register of its block to host writes. -/
def usherOpens (s : State) (offset : Nat) : State :=
  if 0x100000 ≤ offset ∧ offset < 0x4000000 then
    { s with pkg := { s.pkg with usher := { s.pkg.usher with opened := insertNat offset s.pkg.usher.opened } } }
  else s

/-- R285, R327: the Usher writes a register of its block, such as one of its health report or its telemetry (log entry 21). -/
def usherWrites (s : State) (offset : Nat) (value : Word) : State :=
  if 0x100000 ≤ offset ∧ offset < 0x4000000 then blockWritten s offset value else s

/-- R327: the PA that a BAR2 offset names. -/
def windowPa (s : State) (offset : Nat) : Nat := fld s.pkg.w2base 36 4 * 2 ^ 36 + offset % 2 ^ 36

/-- R318, R327: a host read through BAR2; a firmware-reserved range, and bad data, complete with Completer Abort. -/
def execHostMemoryRead (offset : Nat) (s : State) : Res :=
  let pa := windowPa s offset / 8 * 8
  let v := if reservedPa pa || lineBad s (pa / 64) then none else some (BitVec.ofNat 64 (physRead s pa 8))
  .next { s with pkg := { s.pkg with hostReads := v :: s.pkg.hostReads } }

/-- R318, R327: a host write through BAR2 within one line; one to a firmware-reserved range is discarded and counted. -/
def windowWrite (s : State) (pa n v : Nat) : State :=
  if n = 0 then s else if reservedPa pa then addReport s 318 pa else physWrite s pa n v

/-- R318, R327: a host write of up to 8 bytes through BAR2, line by line. -/
def execHostMemoryWrite (offset size : Nat) (value : BitVec 64) (s : State) : Res :=
  let pa := windowPa s offset
  let n := min (min size 8) (64 - pa % 64)
  let v := value.toNat % 2 ^ (8 * min size 8)
  .next (windowWrite (windowWrite s pa n (v % 2 ^ (8 * n))) (windowPa s (offset + n)) (min size 8 - n) (v / 2 ^ (8 * n)))

/-- R327: the host link trains. -/
def execHostPortTraining (width rate : Nat) (s : State) : Res :=
  if width = 16 ∨ width = 8 ∨ width = 4 then .next { s with pkg := { s.pkg with hostLink := (width, min rate 128) } } else .next s

end Sys2Proof.Machine
end

