-- ==== Sys2Proof/Machine/Graphs.lean ====
section
/-!
DEFINITION. Command graphs, launches and replay (R280-R283, R333-R340, R347, R349).
-/

namespace Sys2Proof.Machine

/-! ## Nodes (R333) -/

/-- R333: a node's doublewords. -/
structure Node where
  pa : Nat
  dw : List Word
  deriving DecidableEq, Repr

/-- Doubleword `k` of a node. -/
def nodeWord (n : Node) (k : Nat) : Word := listGet 0 n.dw k
/-- KIND. -/
def nodeKind (n : Node) : Nat := fld (nodeWord n 0) 60 4
/-- ASYNC. -/
def nodeAsync (n : Node) : Bool := fld (nodeWord n 0) 59 1 == 1
/-- NEXT. -/
def nodeNext (n : Node) : Nat := fld (nodeWord n 0) 6 42 * 64

/-- R333: a node is read. -/
def readNode (s : State) (pa : Nat) : Node := ⟨pa, (List.range 8).map fun k => BitVec.ofNat 64 (physRead s (pa + 8 * k) 8)⟩

/-- All of the named doublewords are 0. -/
def zeroWords (n : Node) (ks : List Nat) : Bool := ks.all fun k => nodeWord n k == 0

/-- R333: a malformed node. -/
def nodeBad (n : Node) : Bool :=
  fld (nodeWord n 0) 48 11 != 0 || fld (nodeWord n 0) 0 6 != 0 || nodeWord n 7 != 0 ||
    (nodeAsync n && nodeKind n != 1) ||
    match nodeKind n with
    | 1 => nodeWord n 3 != 0 || fld (nodeWord n 5) 48 16 == 0
    | 2 => fld (nodeWord n 3) 32 30 != 0 || fld (nodeWord n 3) 0 6 != 0 || !zeroWords n [4, 5, 6]
    | 3 => fld (nodeWord n 1) 0 3 != 0 || fld (nodeWord n 3) 3 61 != 0 || fld (nodeWord n 4) 48 16 != 0 ||
        fld (nodeWord n 4) 0 6 != 0 || !zeroWords n [5, 6]
    | 4 => fld (nodeWord n 2) 4 60 != 0 || !zeroWords n [3, 4, 5, 6]
    | 5 => nodeNext n != 0 || !zeroWords n [1, 2, 3, 4, 5, 6]
    | _ => true

/-! ## Walks -/

/-- A walk replaced. -/
def setWalk (s : State) (w : Nat) (x : Walk) : State := modFoyer s fun f => { f with walks := f.walks.set w x }

/-- The place of a graph's walk. -/
def walkOf (s : State) (g : Graph) : Option Nat := s.pkg.foyer.walks.findIdx? fun w => w.graph == g

/-- The walk of a graph, if there is one, changed. -/
def modWalk (s : State) (g : Graph) (f : Walk → Walk) : State :=
  modFoyer s fun x => { x with walks := x.walks.map fun w => if w.graph = g then f w else w }

/-- R336, R337, R349: a graph ends: GRAPHEND, then its completion slot. -/
def endGraph (s : State) (g : Graph) (node : Nat) (fail : Bool) : State :=
  let u := jWrite s .graphEnd 1 0 g.handle g.queue g.seq
  completeSubmission (modFoyer u fun f => { f with walks := f.walks.filter fun w => w.graph != g }) g node fail

/-- R334: an earlier KERNEL of the graph is not done. -/
def kernelsOpen (s : State) (g : Graph) : Bool := s.pkg.foyer.launches.any fun l => l.graph == g

/-- R335: an accepted graph that waits for a walk starts. -/
def execGraphStart (s : State) : Res :=
  match s.pkg.foyer.waiting with
  | [] => .next s
  | g :: r =>
    if 64 ≤ s.pkg.foyer.walks.length then .next s
    else .next (modFoyer s fun f => { f with waiting := r, walks := f.walks ++ [⟨g, g.handle, .atNode, 0, 0⟩] })

/-- R334, R335: a walk's node holds its node engine: a COPY that moves bytes, and a KERNEL until its records are emitted (log
entry 69). -/
def holdsEngine (s : State) (w : Walk) : Bool :=
  match w.state with
  | .copying .. => true
  | .kernel t => s.pkg.foyer.launches.any fun l => l.tag == t && (l.state == .snap || l.state == .emit || l.state == .restore)
  | _ => false

/-- R335: the Foyer is held: its 8 node engines are busy. -/
def foyerHeld (s : State) : Bool := decide (8 ≤ (s.pkg.foyer.walks.filter (holdsEngine s)).length)

/-- R319, R371: a read of the Foyer of `n` bytes takes MEM_UE: a line of them is bad, or their die is unreachable for the Foyer. -/
def foyerBad (s : State) (a n : Nat) : Bool :=
  lineBad s (a / 64) || lineBad s ((a + n - 1) / 64) || unreachableDie s (hubSid 0) (4 * pkgNumber s + a / dieBytes)

/-- R333, R336: what happens at a node that a walk has reached: nothing when it is of another kind, a fault beyond device
memory, FAIL when it is malformed or cannot be read, and otherwise `k`. `own` says which kinds this step acts on; `ready` says
whether the node's wait is over. -/
def nodeThen (s : State) (w : Nat) (own : Nat → Bool) (ready : State → Walk → Bool) (k : Walk → Node → Res) : Res :=
  match s.pkg.foyer.walks[w]? with
  | none => .next s
  | some x =>
    if x.state ≠ .atNode ∨ journalHeld s ∨ foyerHeld s then .next s
    else if memTop < x.node + 64 then .fault (.noSuchMemory x.node)
    else
      let n := readNode s x.node
      if !own (nodeKind n) then .next s
      else if nodeBad n || foyerBad s x.node 64 then .next (endGraph s x.graph x.node true)
      else if ready s x then k x n
      else .next s

/-- R334: the node waits for every earlier KERNEL of its graph. -/
def afterKernels (s : State) (x : Walk) : Bool := !kernelsOpen s x.graph

/-! ## Launches (R334, R337, R338) -/

/-- A launch by its tag. -/
def launchOf (s : State) (tag : Nat) : Option Launch := s.pkg.foyer.launches.find? fun l => l.tag == tag

/-- A launch replaced. -/
def setLaunch (s : State) (tag : Nat) (l : Launch) : State :=
  modFoyer s fun f => { f with launches := f.launches.map fun m => if m.tag = tag then l else m }

/-- A launch is over. -/
def dropLaunch (s : State) (tag : Nat) : State :=
  modFoyer s fun f => { f with launches := f.launches.filter fun m => m.tag != tag }

/-- R337: the next value that is neither 0 nor the tag of a live launch. -/
def nextTag (live : List Nat) : Nat → Nat → Nat
  | 0, t => t
  | n + 1, t => if t = 0 ∨ live.contains t then nextTag live n ((t + 1) % 2 ^ 16) else t

/-- R337: the tag of a launch whose first LAUNCH is the next journal entry. -/
def freshTag (s : State) : Nat :=
  nextTag (s.pkg.foyer.launches.map fun l => l.tag) (2 ^ 16) (s.pkg.foyer.seq.toNat % 2 ^ 16)

/-- R334: the PA of a launch's join counter (log entry 18). -/
def counterPa (tag : Nat) : Nat := 0x2F08000000 + 8 * tag

/-- R338: the tag under which a launch that has no LAUNCH entry yet is listed. -/
def snapKey (g : Graph) : Nat := 2 ^ 16 + g.queue * 2 ^ 32 + g.seq

/-- R262, R334: a template's landing is usable on a die; a die that is out is waited for. -/
def dieUsable (s : State) (l d : Nat) : Bool :=
  match (dieOf s d).status with
  | .disabled => false
  | .out => true
  | .inService => landingOn (dieOf s d) l

/-- R334: the dies to which records with DIEANY are dealt, after the one that received the last. -/
def dealOrder (s : State) : List Nat :=
  ((List.range 4).map fun i => (s.pkg.foyer.lastDealt + 1 + i) % 4).filter fun d => (dieOf s d).status == .inService

/-- R334: the dies that a launch of `count` records must use. -/
def diesUsed (s : State) (r : Record) (count : Nat) : List Nat := if recDieAny r then (dealOrder s).take count else [recDie r]

/-- R338: the declared ranges and save area of a snapshot table, none when the table is invalid. -/
def snapshotTable (s : State) (pa : Nat) : Option (List (Nat × Nat) × Nat) :=
  let word := fun k => (BitVec.ofNat 64 (physRead s (pa + 8 * k) 8) : Word)
  let h := word 0
  let n := fld h 56 8
  if pa % 64 ≠ 0 ∨ memTop < pa + 8 ∨ foyerBad s pa 8 then none
  else if fld h 48 8 ≠ 0 ∨ fld h 0 6 ≠ 0 ∨ n = 0 ∨ 8 < n ∨ memTop < pa + 8 * (1 + 2 * n) ∨
      (List.range (1 + 2 * n)).any (fun k => foyerBad s (pa + 8 * k) 8) then none
  else
    let rs := (List.range n).map fun i => ((word (1 + 2 * i)).toNat, (word (2 + 2 * i)).toNat)
    let total := (rs.map (·.2)).foldl (· + ·) 0
    let save := fld h 6 42 * 64
    if rs.any (fun r => r.1 % 64 != 0 || r.2 % 64 != 0 || decide (memTop < r.1 + r.2)) ∨ 2 ^ 32 < total ∨ memTop < save + total then
      none
    else some (rs, save)

/-- R330, R334, R338: a launch's LAUNCH is written, its attempt kept for posts, and its counter set; it emits from its first record. -/
def startEmission (s : State) (key : Nat) (l : Launch) (attempt : Nat) (state : LaunchState) : State :=
  let tag := if key < 2 ^ 16 then key else freshTag s
  let m := { l with tag := tag, attempt := attempt, state := state, emitted := 0, counter := counterPa tag }
  let u := jWrite s .launch attempt tag l.node l.graph.queue l.graph.seq
  let x := modFoyer (setLaunch u key m) fun f => { f with attempts := tblSet f.attempts tag attempt }
  let v := physWrite x (counterPa tag) 8 l.count
  modWalk v l.graph fun w =>
    { w with state := if w.state = .kernel key then .kernel tag else w.state,
             lastTag := if key < 2 ^ 16 ∧ w.lastTag ≠ tag then w.lastTag else tag,
             lastAttempt := if key < 2 ^ 16 ∧ w.lastTag ≠ tag then w.lastAttempt else attempt }

/-- R338: a launch fails: FAIL is written, and its graph ends with FAIL. `logged` says that its LAUNCH has been written. -/
def failLaunch (s : State) (l : Launch) (logged : Bool) : State :=
  let tag := if logged then l.tag else freshTag s
  let u := if logged then s else jWrite s .launch 1 tag l.node l.graph.queue l.graph.seq
  let v := jWrite u .fail l.attempt tag l.node l.graph.queue l.graph.seq
  let w := dropLaunch v l.tag
  if (walkOf w l.graph).isSome then endGraph w l.graph l.node true else w

/-- R334, R338: a KERNEL node is reached: its template is checked, and its launch takes its snapshot or emits. -/
def execKernelNode (walk : Nat) (s : State) : Res :=
  nodeThen s walk (· == 1) (fun _ _ => true) fun x n =>
    let r : Record := ⟨nodeWord n 1, nodeWord n 2, 0, nodeWord n 4⟩
    let count := fld (nodeWord n 5) 48 16
    let table := (nodeWord n 6).toNat
    let snap := recReplay r == 1
    let tab := if snap ∧ table ≠ 0 then snapshotTable s table else some ([], 0)
    let key := snapKey x.graph
    let l : Launch := ⟨key, 1, x.graph, n.pa, .snap, r, count, fld (nodeWord n 5) 0 48, 0, table, (tab.getD ([], 0)).1,
      (tab.getD ([], 0)).2, nodeAsync n, 0⟩
    let u := setWalk s walk { x with state := .kernel key, node := nodeNext n }
    let v := modFoyer u fun f => { f with launches := f.launches ++ [l] }
    if tab.isNone || !(diesUsed s r count).all (dieUsable s (recLanding r)) then
      .next (if journalFull s 3 then s else failLaunch v l false)
    else if snap then .next v
    else .next (startEmission v key l 1 .emit)

/-- R334: an asynchronous KERNEL's graph goes on once its records are emitted. -/
def emissionDone (s : State) (l : Launch) : State :=
  if l.async then modWalk s l.graph fun w => { w with state := if w.state = .kernel l.tag then .atNode else w.state } else s

/-- R334: record `i` of a launch. -/
def launchRecord (l : Launch) (i : Nat) : Record :=
  let r := l.template
  { r with dw1 := setFld r.dw1 0 48 (recFrame r + i * l.stride), dw2 := BitVec.ofNat 64 l.counter }

/-- R334, R337, R338: the next record of a launch is emitted; it waits while its landing is full or its die is out, and the
launch ends when the landing has become unusable. -/
def execKernelEmit (tag : Nat) (s : State) : Res :=
  match launchOf s tag with
  | none => .next s
  | some l =>
    let lan := recLanding l.template
    let target := if recDieAny l.template then (dealOrder s).head? else some (recDie l.template)
    match l.state, target with
    | .emit, some d =>
      if (dieOf s d).status = .out then .next s
      else if !dieUsable s lan d then
        if journalFull s 2 then .next s else .next (failLaunch (purgeTag s tag) l true)
      else if landingFull s d lan then .next s
      else
        let e := freshEntry s (launchRecord l l.emitted) tag true
        let u := enqueue e.2 d lan e.1
        let v := if recDieAny l.template then modFoyer u fun f => { f with lastDealt := d } else u
        let m := { l with emitted := l.emitted + 1, state := if l.emitted + 1 = l.count then .run else .emit }
        .next (if m.state = .run then emissionDone (setLaunch v tag m) m else setLaunch v tag m)
    | _, _ => .next s

/-- R334, R338: the Foyer reads a launch's counter as zero: DONE is written, and the graph goes on. -/
def execKernelDone (tag : Nat) (s : State) : Res :=
  match launchOf s tag with
  | none => .next s
  | some l =>
    if l.state = .run ∧ physRead s l.counter 8 = 0 ∧ journalHeld s = false then
      let u := dropLaunch (jWrite s .done l.attempt tag l.node l.graph.queue l.graph.seq) tag
      .next (modWalk u l.graph fun w => { w with state := if w.state = .kernel tag then .atNode else w.state })
    else .next s

/-! ## The other nodes (R334) -/

/-- R334: a COPY node starts. -/
def execCopyNode (walk : Nat) (s : State) : Res :=
  nodeThen s walk (· == 2) afterKernels fun x n =>
    .next (setWalk s walk { x with state := .copying (nodeWord n 1) (nodeWord n 2) (nodeWord n 3) (nodeNext n) })

/-- `n` bytes, up to a line's length, of device memory at any address, coherently, line by line. -/
def spanRead (s : State) (a n : Nat) : Nat :=
  let k := min n (64 - a % 64)
  physRead s a k + 2 ^ (8 * k) * (if k < n then physRead s (a + k) (n - k) else 0)

/-- The same, written. -/
def spanWrite (s : State) (a n v : Nat) : State :=
  let k := min n (64 - a % 64)
  let u := physWrite s a k (v % 2 ^ (8 * k))
  if k < n then physWrite u (a + k) (n - k) (v / 2 ^ (8 * k)) else u

/-- R334: words of a COPY node from `i` on, at whatever addresses; none when a source word has an uncorrectable error. -/
def moveNode (dst src : Nat) (dstHost srcHost : Bool) : Nat → Nat → State → State × Bool
  | 0, _, s => (s, true)
  | n + 1, i, s =>
    let a := src + 8 * i
    if !srcHost && foyerBad s a 8 then (s, false)
    else
      let v := if srcHost then cellsRead s.mem.host a 8 else spanRead s a 8
      moveNode dst src dstHost srcHost n (i + 1) (if dstHost then hostWrite s (dst + 8 * i) 8 v else spanWrite s (dst + 8 * i) 8 v)

/-- R334: a COPY node has moved its bytes, or ends its graph with FAIL. -/
def execCopyNodeDone (walk : Nat) (s : State) : Res :=
  match s.pkg.foyer.walks[walk]? with
  | none => .next s
  | some x =>
    match x.state with
    | .copying dst src ctl next =>
      let dh := fld ctl 63 1 == 1
      let sh := fld ctl 62 1 == 1
      let len := fld ctl 0 32
      if (!dh && decide (memTop < dst.toNat + len)) || (!sh && decide (memTop < src.toNat + len)) then
        .fault (.noSuchMemory (if !dh && decide (memTop < dst.toNat + len) then dst.toNat else src.toNat))
      else if journalHeld s then .next s
      else
        match moveNode dst.toNat src.toNat dh sh (len / 8) 0 s with
        | (u, true) => .next (setWalk u walk { x with state := .atNode, node := next })
        | (u, false) => .next (endGraph u x.graph x.node true)
    | _ => .next s

/-- R334: the host completes an access of the COPY node at which a walk stands with an error: the graph ends with FAIL. -/
def nodeRefused (s : State) (walk : Nat) : State :=
  match s.pkg.foyer.walks[walk]? with
  | none => s
  | some x =>
    match x.state with
    | .copying _ _ ctl _ => if fld ctl 62 2 ≠ 0 ∧ !journalHeld s then endGraph s x.graph x.node true else s
    | _ => s

/-- R334: a COND comparison. -/
def condHolds (cmp : Nat) (v value : Word) : Bool :=
  match cmp with
  | 0 => v == value
  | 1 => v != value
  | 2 => value.sle v
  | _ => v.slt value

/-- R334: the watch of a graph that waits at a COND node. -/
def condWatch (g : Graph) (addr : Nat) : TagEntry := ⟨.phys (addr / 64), none, some (2 ^ 48 + snapKey g), true, 0, false, false⟩

/-- R334: the watch of a graph is taken away. -/
def dropCondWatch (s : State) (g : Graph) : State :=
  { s with mem := { s.mem with tags := s.mem.tags.filter fun t =>
      !(t.watch && t.strand.isNone && t.lane == some (2 ^ 48 + snapKey g)) } }

/-- R334: the word of a COND node is read: FAIL where it cannot be, EXIT where the condition holds, else `k`. -/
def condRead (s : State) (walk : Nat) (x : Walk) (addr : Nat) (value : Word) (cmp exit : Nat) (k : State) : Res :=
  if memTop < addr + 8 ∨ foyerBad s addr 8 then
    .next (if journalHeld s then s else endGraph (dropCondWatch s x.graph) x.graph x.node true)
  else if condHolds cmp (BitVec.ofNat 64 (physRead s addr 8)) value then
    .next (setWalk (dropCondWatch s x.graph) walk { x with state := .atNode, node := exit })
  else .next k

/-- R334: a COND node branches, or waits for its word. -/
def execCondNode (walk : Nat) (s : State) : Res :=
  nodeThen s walk (· == 3) afterKernels fun x n =>
    let addr := (nodeWord n 1).toNat
    let cmp := fld (nodeWord n 3) 0 2
    let exit := fld (nodeWord n 4) 6 42 * 64
    condRead s walk x addr (nodeWord n 2) cmp exit
      (if fld (nodeWord n 3) 2 1 = 1 then
        placeTag (setWalk s walk { x with state := .condWait addr (nodeWord n 2) cmp exit }) (condWatch x.graph addr)
      else setWalk s walk { x with node := nodeNext n })

/-- R332, R334: after a write to its line, which a GSIG also makes, a waiting COND node reads its word again. -/
def execCondReread (walk : Nat) (s : State) : Res :=
  match s.pkg.foyer.walks[walk]? with
  | none => .next s
  | some x =>
    match x.state with
    | .condWait addr value cmp exit =>
      if s.mem.tags.any fun t => t.watch && t.strand.isNone && t.lane == some (2 ^ 48 + snapKey x.graph) then .next s
      else condRead s walk x addr value cmp exit (placeTag s (condWatch x.graph addr))
    | _ => .next s

/-- R334: a HOSTPOST node posts under the graph's last launch; it waits for a full ring, and a disabled one drops the post. -/
def execHostpostNode (walk : Nat) (s : State) : Res :=
  nodeThen s walk (· == 4) afterKernels fun x n =>
    let r := fld (nodeWord n 2) 0 4
    let on := setWalk s walk { x with node := nodeNext n }
    if !ringOn (ringOf s r) then .next (ringError on r)
    else if ringFull (ringOf s r) then .next s
    else .next (postSlot on r (nodeWord n 1) x.lastTag x.lastAttempt 1)

/-- A graph that has ended, and waits for the journal to take its GRAPHEND, has it written. -/
def endedGraph (s : State) (walk : Nat) : State :=
  match s.pkg.foyer.walks[walk]? with
  | none => s
  | some x =>
    match x.state with
    | .ended fail => if journalHeld s then s else endGraph s x.graph x.node fail
    | _ => s

/-- R333, R334: an END node ends its graph; a node of an unassigned KIND is malformed, and ends it with FAIL. -/
def execEndNode (walk : Nat) (s : State) : Res :=
  if (s.pkg.foyer.walks[walk]?).any fun x => x.state matches .ended _ then .next (endedGraph s walk)
  else nodeThen s walk (fun k => k == 0 || decide (5 ≤ k)) afterKernels fun x n => .next (endGraph s x.graph n.pa false)

/-! ## Snapshots (R338) -/

/-- The lines of byte ranges. -/
def rangeLineList (rs : List (Nat × Nat)) : List Nat := (rs.map fun r => (List.range (r.2 / 64)).map fun i => r.1 / 64 + i).flatten

/-- The declared ranges and their copies in the save area, line by line. -/
def snapLines (l : Launch) : List (Nat × Nat) :=
  let ls := rangeLineList l.ranges
  ls.zip ((List.range ls.length).map fun i => l.save / 64 + i)

/-- R338: some line of the ranges or the save area has an uncorrectable error. -/
def snapBad (s : State) (l : Launch) : Bool := (snapLines l).any fun p => lineBad s p.1 || lineBad s p.2

/-- R338, R373: a die whose stacks the copy needs is out. -/
def snapWaits (s : State) (l : Launch) : Bool :=
  (snapLines l).any fun p => (dieOf s (64 * p.1 / dieBytes)).status == .out || (dieOf s (64 * p.2 / dieBytes)).status == .out

/-- A line copied, coherently. -/
def copyLine (s : State) (dst src : Nat) : State := physWrite s (64 * dst) 64 (lineNow s src false).toNat

/-- R338: the coded lines whose carriers lie in a launch's ranges. -/
def snapCoded (s : State) (l : Launch) : List (Nat × Nat) :=
  (s.mem.coded.map fun p => (p.1 / 2 ^ 34, p.1 % 2 ^ 34)).filter fun p =>
    l.ranges.any fun r => decide (r.1 ≤ blockPa (regionOf s p.1) p.2) && decide (blockPa (regionOf s p.1) p.2 < r.1 + r.2)

/-- R302, R338: the declared ranges are in the save area. Dirty coded lines with carriers in a range have their codec writes first; one that is
held with an uncorrectable error leaves its carrier with one. -/
def execSnapshotCopyDone (tag : Nat) (s : State) : Res :=
  match launchOf s tag with
  | none => .next s
  | some l =>
    let u := (snapCoded s l).foldl (fun u p => codecWrite u p.1 p.2) s
    if l.state ≠ .snap ∨ snapWaits s l ∨ journalHeld s then .next s
    else if snapBad s l then .next (if journalFull s 3 then s else failLaunch s l false)
    else if snapBad u l then .next (if journalFull s 3 then s else failLaunch u l false)
    else
      let v := (snapLines l).foldl (fun u p => copyLine u p.2 p.1) u
      .next (startEmission v l.tag l 1 .emit)

/-- R338: the declared ranges are restored, copies of coded lines with carriers in them are dropped, and the launch emits again. -/
def execRestoreDone (tag : Nat) (s : State) : Res :=
  match launchOf s tag with
  | none => .next s
  | some l =>
    if l.state ≠ .restore ∨ snapWaits s l ∨ journalHeld s then .next s
    else if snapBad s l then .next (if journalFull s 2 then s else failLaunch s l true)
    else
      let u := (snapLines l).foldl (fun u p => copyLine u p.1 p.2) s
      let v := (snapCoded s l).foldl (fun u p => breakLine (dropCoded u p.1 p.2) (.coded p.1 p.2)) u
      .next (setLaunch (physWrite v l.counter 8 l.count) tag { l with state := .emit, emitted := 0 })

/-! ## Replay (R282, R338-R340) -/

/-- R338: a launch is purged, and replayed or failed as its class gives. The purge answers every loss report of the tag that has been
sent (log entry 72). -/
def replayLaunch (s : State) (l : Launch) : State :=
  let u := modFoyer (purgeTag s l.tag) fun f => { f with losses := f.losses.filter (· != l.tag) }
  let again := fun (st : LaunchState) =>
    postEvent (startEmission u l.tag l (l.attempt + 1) st) 5 ((l.attempt + 1) * 2 ^ 16 + l.tag) l.tag
  if 4 ≤ l.attempt then failLaunch u l true
  else
    match recReplay l.template with
    | 0 => again .emit
    | 1 => if l.table = 0 then failLaunch u l true else again .restore
    | _ => failLaunch u l true

/-- R281, R338: a loss report reaches the Foyer; a launch that a hub-die reset left to be purged has one of its own (R339). -/
def execLossReport (s : State) : Res :=
  match s.pkg.foyer.losses with
  | [] => .next s
  | t :: r =>
    if journalFull s 2 then .next s
    else
      let u := modFoyer s fun f => { f with losses := r }
      match launchOf u t with
      | none => .next u
      | some l => if l.state = .emit ∨ l.state = .run ∨ l.state = .purge then .next (replayLaunch u l) else .next u

/-! ## Hub-die reset (R339) -/

/-- R339: the journal's entries that count, oldest first. -/
def jEntries (s : State) : List JEntry :=
  let q := s.pkg.foyer.seq.toNat
  (List.range (2 ^ 20)).filterMap fun i =>
    let n := (q + 2 ^ 32 - 2 ^ 20 + i) % 2 ^ 32
    (jAt s (n % 2 ^ 20)).filter fun e => e.seq == n

/-- R341: an entry's line has an uncorrectable error in both copies. -/
def jLost (s : State) : Bool :=
  (List.range (2 ^ 20)).any fun k => lineBad s (jAddr 0 k / 64) && lineBad s (jAddr 2 k / 64)

/-- R339: the graphs that are accepted and have not ended, in acceptance order. -/
def jGraphs (es : List JEntry) : List Graph :=
  (es.filter fun e => e.kind == 1 && !es.any fun f => f.kind == 5 && f.queue == e.queue && f.graphSeq == e.graphSeq).map fun e =>
    ⟨e.queue, e.graphSeq, e.node⟩

/-- The entries of a graph of one kind, oldest first. -/
def jOf (es : List JEntry) (g : Graph) (kind : Nat) : List JEntry :=
  es.filter fun e => e.kind == kind && e.queue == g.queue && e.graphSeq == g.seq

/-- R339: the launches with LAUNCH but without DONE or FAIL, each with its last attempt, of entries that stand oldest first. -/
def jOpen : List JEntry → List JEntry
  | [] => []
  | e :: r =>
    let later := r.any fun f => f.tag == e.tag && f.queue == e.queue && f.graphSeq == e.graphSeq &&
      (f.kind == 2 || f.kind == 3 || f.kind == 4)
    if e.kind == 2 && !later then e :: jOpen r else jOpen r

/-- R337, R339: the graph of an entry; one that has ended may have no ACCEPT any more. -/
def jGraph (es : List JEntry) (e : JEntry) : Graph :=
  ⟨e.queue, e.graphSeq, ((es.find? fun f => f.kind == 1 && f.queue == e.queue && f.graphSeq == e.graphSeq).map (·.node)).getD 0⟩

/-- R339: a launch as its journal entry and its node describe it. -/
def jLaunch (s : State) (g : Graph) (e : JEntry) : Launch :=
  let n := readNode s e.node
  let r : Record := ⟨nodeWord n 1, nodeWord n 2, 0, nodeWord n 4⟩
  let table := (nodeWord n 6).toNat
  let tab := (if recReplay r = 1 ∧ table ≠ 0 then snapshotTable s table else some ([], 0)).getD ([], 0)
  ⟨e.tag, e.attempt, g, e.node, .run, r, fld (nodeWord n 5) 48 16, fld (nodeWord n 5) 0 48, 0, table, tab.1, tab.2,
    nodeAsync n, counterPa e.tag⟩

/-- R339: the KERNEL that a graph reached last: its last LAUNCH that is no replay, or the last of all where no such entry is left. -/
def jLast (es : List JEntry) (g : Graph) : Option JEntry :=
  (((jOf es g 2).filter fun e => e.attempt == 1).getLast?).or (jOf es g 2).getLast?

/-- R339: a graph's walk goes on after the KERNEL that it reached last; without one it starts at its handle. -/
def jWalk (s : State) (es : List JEntry) (g : Graph) : Walk :=
  match jLast es g with
  | none => ⟨g, g.handle, .atNode, 0, 0⟩
  | some e =>
    let now := (((jOf es g 2).filter fun f => f.tag == e.tag).getLast?).getD e
    let isOpen := (jOpen es).any fun f => f.tag == e.tag && f.queue == g.queue && f.graphSeq == g.seq
    ⟨g, nodeNext (readNode s e.node), if isOpen then .kernel e.tag else .atNode, e.tag, now.attempt⟩

/-- R339: a graph that has a FAIL entry ends with FAIL. -/
def jFailed (es : List JEntry) (g : Graph) : Option Nat := ((jOf es g 4).head?).map fun e => e.node

/-- R341: the planes stop, and the host port reports a fatal status. -/
def fatalError (s : State) (kind detail : Nat) : State :=
  { s with pkg := { s.pkg with fatal := some (kind, detail), hostFatal := true } }

/-- R337, R339: a launch is purged and replayed, once the journal can take its entries. -/
def replayOrDefer (s : State) (l : Launch) : State :=
  if journalFull s 2 then
    modFoyer (setLaunch s l.tag { l with state := .purge }) fun f => { f with losses := f.losses ++ [l.tag] }
  else replayLaunch s l

/-- R339: after a hub-die reset the Foyer rebuilds its walks and launches from the journal, ends graphs that failed, and purges
and replays every launch that was not done, of graphs that have ended with FAIL too. Completions that wait for their ring stay recorded (log entry 19). -/
def rebuildFoyer (s : State) : State :=
  let es := jEntries s
  let gs := jGraphs es
  let u := modFoyer s fun f =>
    { f with intake := [], losses := [], waiting := gs.drop 64, walks := (gs.take 64).map (jWalk s es),
             launches := (jOpen es).map fun e => jLaunch s (jGraph es e) e }
  let tags := u.mem.tags.filter fun t => !(t.watch && t.strand.isNone && match t.lane with
    | some k => decide (2 ^ 48 ≤ k)
    | none => false)
  let v := { u with mem := { u.mem with tags := tags } }
  let w := gs.foldl (fun x g => match jFailed es g with
    | some n => if journalHeld x then modWalk x g fun y => { y with node := n, state := .ended true } else endGraph x g n true
    | none => x) v
  w.pkg.foyer.launches.foldl replayOrDefer w

end Sys2Proof.Machine
end

