-- ==== Sys2Proof/Machine/Sha.lean ====
section
/-!
DEFINITION. SHA-256 (R342), which the manual names and does not describe: FIPS 180-4 (log entry 20).
-/

namespace Sys2Proof.Machine

/-- The constants of the 64 rounds. -/
def shaConstants : List (BitVec 32) :=
  [0x428A2F98, 0x71374491, 0xB5C0FBCF, 0xE9B5DBA5, 0x3956C25B, 0x59F111F1, 0x923F82A4, 0xAB1C5ED5,
    0xD807AA98, 0x12835B01, 0x243185BE, 0x550C7DC3, 0x72BE5D74, 0x80DEB1FE, 0x9BDC06A7, 0xC19BF174,
    0xE49B69C1, 0xEFBE4786, 0x0FC19DC6, 0x240CA1CC, 0x2DE92C6F, 0x4A7484AA, 0x5CB0A9DC, 0x76F988DA,
    0x983E5152, 0xA831C66D, 0xB00327C8, 0xBF597FC7, 0xC6E00BF3, 0xD5A79147, 0x06CA6351, 0x14292967,
    0x27B70A85, 0x2E1B2138, 0x4D2C6DFC, 0x53380D13, 0x650A7354, 0x766A0ABB, 0x81C2C92E, 0x92722C85,
    0xA2BFE8A1, 0xA81A664B, 0xC24B8B70, 0xC76C51A3, 0xD192E819, 0xD6990624, 0xF40E3585, 0x106AA070,
    0x19A4C116, 0x1E376C08, 0x2748774C, 0x34B0BCB5, 0x391C0CB3, 0x4ED8AA4A, 0x5B9CCA4F, 0x682E6FF3,
    0x748F82EE, 0x78A5636F, 0x84C87814, 0x8CC70208, 0x90BEFFFA, 0xA4506CEB, 0xBEF9A3F7, 0xC67178F2]

/-- The hash of no block. -/
def shaStart : List (BitVec 32) :=
  [0x6A09E667, 0xBB67AE85, 0x3C6EF372, 0xA54FF53A, 0x510E527F, 0x9B05688C, 0x1F83D9AB, 0x5BE0CD19]

/-- Two rotations and a third one of a word, combined. -/
def shaRotations (a b c : Nat) (x : BitVec 32) : BitVec 32 := x.rotateRight a ^^^ x.rotateRight b ^^^ x.rotateRight c

/-- Two rotations and a shift of a word, combined. -/
def shaMix (a b c : Nat) (x : BitVec 32) : BitVec 32 := x.rotateRight a ^^^ x.rotateRight b ^^^ (x >>> c)

/-- The next word of a block's schedule, of the words so far, the latest first. -/
def shaNext (l : List (BitVec 32)) : BitVec 32 :=
  shaMix 17 19 10 (listGet 0 l 1) + listGet 0 l 6 + shaMix 7 18 3 (listGet 0 l 14) + listGet 0 l 15

/-- The schedule of a block of 16 words, the latest word first. -/
def shaSchedule : Nat → List (BitVec 32) → List (BitVec 32)
  | 0, l => l
  | n + 1, l => shaSchedule n (shaNext l :: l)

/-- One round, with the sum of its constant and its word of the schedule. -/
def shaRound (v : List (BitVec 32)) (kw : BitVec 32) : List (BitVec 32) :=
  match v with
  | [a, b, c, d, e, f, g, h] =>
    let t := h + shaRotations 6 11 25 e + ((e &&& f) ^^^ (~~~e &&& g)) + kw
    [t + shaRotations 2 13 22 a + ((a &&& b) ^^^ (a &&& c) ^^^ (b &&& c)), a, b, c, d + t, e, f, g]
  | _ => v

/-- The hash after a block of 16 words. -/
def shaBlock (h block : List (BitVec 32)) : List (BitVec 32) :=
  let kw := List.zipWith (· + ·) shaConstants (shaSchedule 48 block.reverse).reverse
  List.zipWith (· + ·) h (kw.foldl shaRound h)

/-- A word of a message of bytes, its first byte highest. -/
def shaWord (m : List Nat) (i : Nat) : BitVec 32 :=
  BitVec.ofNat 32 (((m.drop (4 * i)).take 4).foldl (fun n b => 256 * n + b % 256) 0)

/-- The bytes of a number, highest first. -/
def bigEndian (n x : Nat) : List Nat := (List.range n).map fun i => x / 256 ^ (n - 1 - i) % 256

/-- A message of bytes, padded to whole blocks of 64 bytes. -/
def shaPad (m : List Nat) : List Nat := m ++ [0x80] ++ List.replicate ((119 - m.length % 64) % 64) 0 ++ bigEndian 8 (8 * m.length)

/-- The SHA-256 of a message of bytes. -/
def sha256 (m : List Nat) : List Nat :=
  let p := shaPad m
  let h := (List.range (p.length / 64)).foldl (fun h b => shaBlock h ((List.range 16).map fun i => shaWord p (16 * b + i))) shaStart
  (h.map fun w => bigEndian 4 w.toNat).flatten

end Sys2Proof.Machine
end

