-- ==== Sys2Proof/Machine/Dump.lean ====
section
/-!
DEFINITION. Measurements, and the fatal dump (R341, R342, R344).
-/

namespace Sys2Proof

/-! ## Layouts that the manual leaves open (R342, log entry 20) -/

/-- R342: section 1, from the Usher and the named registers of its block. -/
opaque Config.dumpUsher : Machine.Usher → List Word → List Word

/-- R342: section 2, from the Foyer and the bytes of the journal's last entries. -/
opaque Config.dumpFoyer : Machine.Foyer → List Nat → List Word

/-- R342: section 3, from a die's landing state. -/
opaque Config.dumpLandings : Machine.Die → List Word

/-- R342: the rows of a core's bays, from their holders, their parity, and the vector side of each slot. -/
opaque Config.dumpBays : List (Option Nat) → List (Nat × Nat × Nat) → List Machine.Arcade → List Word

/-- R342: what a Mezzanine holds beside its accumulator rows. -/
opaque Config.dumpMezz : Machine.Mezz → List Word

/-- R342: section 7, from a cluster's Atrium, Newel and copy queues. -/
opaque Config.dumpCluster : Machine.Cluster → List Word

/-- R342: section 8, from a die's lines, its decoded coded lines, those of both with an error, and its tags. -/
opaque Config.dumpLines : Tbl Machine.L2Line → Tbl Machine.L2Line → List Nat → List Nat → List Machine.TagEntry →
  List Word

end Sys2Proof

namespace Sys2Proof.Machine

/-- A change to the Usher. -/
def modUsher (s : State) (f : Usher → Usher) : State := { s with pkg := { s.pkg with usher := f s.pkg.usher } }

/-! ## Measurements (R344) -/

/-- R344: measurement 5: row map, column repair, lane repair and stack rates, each list after its length (log entry 21). -/
def healthValue (s : State) : List Nat :=
  let rows := (s.cores.map fun c =>
    ((List.range 4).map fun b => (listGet [] c.2.retired b).map fun r => (c.1 * 4 + b) * 4096 + r).flatten).flatten
  let columns := s.pkg.usher.columns.map fun c => (c.1 * 4 + c.2.1) * 2048 + c.2.2
  let lanes := s.pkg.usher.repaired.map fun l => (l.1 * 64 + l.2.1) * 64 + l.2.2
  [rows.length] ++ rows ++ [columns.length] ++ columns ++ [lanes.length] ++ lanes ++ (List.range 12).map (stackRate s)

/-- R344: measurement 6: HPART and HMASK of every die, bring-up mode and package status. -/
def configValue (s : State) : List Nat :=
  ((List.range 4).map fun d => ((dieOf s d).hpart ++ (dieOf s d).hmask).map (·.toNat)).flatten ++
    [if s.pkg.bringUp then 1 else 0, if s.pkg.fit then 1 else 0]

/-- R344: the value of a measurement. -/
def measurement (s : State) (index : Nat) : List Nat :=
  match index with
  | 5 => healthValue s
  | 6 => configValue s
  | k => [(Config.firmwareMeasurement k).toNat]

/-! ## The sections of a dump (R342) -/

/-- R342: the PA of the header, in die 0's dump area. -/
abbrev dumpBase : Nat := 0x2F20000000

/-- R342: the sections in dump order, as kind and die: 1 and 2 for the package, 3 to 8 for each die (log entry 20). -/
def dumpSections : List (Nat × Nat) :=
  [(1, 0), (2, 0)] ++ ([3, 4, 5, 6, 7, 8].map fun k => (List.range 4).map fun d => (k, d)).flatten

/-- R342: a section's kind and die. -/
def dumpSection (k : Nat) : Nat × Nat := listGet (0, 0) dumpSections k

/-- R188: the accumulator rows of a core's Mezzanine, as MXDRN reads them. -/
def accRows (m : Mezz) : List Word :=
  ((List.range 512).map fun n => (List.range 128).map fun j => (BitVec.ofInt 64 (accAt m n j) : Word)).flatten

/-- R337, R342: the bytes of the journal's last entries, the latest first, each as a number. -/
def journalTail (s : State) : List Nat :=
  (List.range Config.tailEntries).map fun i => physRead s (jAddr 0 ((s.pkg.foyer.seq.toNat + 2 ^ 32 - 1 - i) % 2 ^ 20)) 32

/-- R342: section 8 of a die. -/
def dieLines (s : State) (die : Nat) : List Word :=
  let here := fun (n : Nat) => n < 2 ^ 34 && 64 * n / dieBytes == die
  let hereC := fun (k : Nat) => blockPa (regionOf s (k / 2 ^ 34)) (k % 2 ^ 34) / dieBytes == die
  let tag := fun (t : TagEntry) => match t.line with
    | .phys n => here n
    | .coded r j => hereC (codedKey r j)
    | .host _ => false
  Config.dumpLines (s.mem.l2.filter fun p => here p.1) (s.mem.coded.filter fun p => hereC p.1) (s.mem.l2Poison.filter here)
    (s.mem.codedPoison.filter hereC) (s.mem.tags.filter tag)

/-- R342: doublewords that a section of a kind has room for, as the sizes that the rule gives: those of a die, with the gaps between them,
lie within its dump area of 3.5 GiB (log entry 20). -/
def sectionRoom (kind : Nat) : Nat :=
  match kind with
  | 4 => 512 * saveWords
  | 5 => 0x2800000
  | 6 => 0x1000000
  | 7 => 0x1200000
  | 8 => 0x9200000
  | _ => 0x200000

/-- R342: what a section holds, in the room that it has: the R231 layout of every slot of the die in kind 4 and the accumulator rows of R188 in kind 6; the rest of
the units' state in layouts that the manual leaves open. The Seal keys are in none. -/
def sectionWords (s : State) (k : Nat) : List Word :=
  let d := (dumpSection k).2
  List.take (sectionRoom (dumpSection k).1) <| match (dumpSection k).1 with
  | 1 => Config.dumpUsher s.pkg.usher ((List.range usherNamed).map (usherField s))
  | 2 => Config.dumpFoyer s.pkg.foyer (journalTail s)
  | 3 => Config.dumpLandings (dieOf s d)
  | 4 => ((List.range 512).map fun i => saveImage s (512 * d + i)).flatten
  | 5 =>
    ((List.range 128).map fun i =>
      let c := 128 * d + i
      Config.dumpBays (coreOf s c).bayOwner (coreOf s c).parity ((List.range 4).map fun q => (strandOf s (4 * c + q)).arc)).flatten
  | 6 => ((List.range 128).map fun i => accRows (coreOf s (128 * d + i)).mezz ++ (Config.dumpMezz (coreOf s (128 * d + i)).mezz).take 0x10000).flatten
  | 7 => ((List.range 16).map fun i => Config.dumpCluster (clusterOf s (16 * d + i))).flatten
  | _ => dieLines s d

/-- R342: the doublewords between a section and the one before it. -/
def sectionGap (k : Nat) : Nat := min (Config.dumpGap k) 0x800000

/-- R342: the PA of a section, of sections of these contents: those of a die lie one after another in its dump area, after die 0's header
(log entry 20). -/
def sectionPa (ws : List (List Word)) (k : Nat) : Nat :=
  let die := (dumpSection k).2
  let before := (List.range k).filter fun j => (dumpSection j).2 == die
  die * dieBytes + dumpBase + 0x440 +
    before.foldl (fun n j => n + 8 * sectionGap j + 8 * (listGet [] ws j).length) (8 * sectionGap k)

/-! ## The dump (R341, R342) -/

/-- R342: the unit that a dump names: a core, a stack, or a unit of the hub; the manual names no other. -/
inductive DumpUnit where
  | core (c : Nat) | stack (k : Nat) | hubUnit | other
  deriving DecidableEq, Repr

/-- R342: the unit doubleword of a header. -/
def unitWord (kind detail : Nat) : DumpUnit → Word
  | .core c => BitVec.ofNat 64 c
  | .stack k => BitVec.ofNat 64 k
  | .hubUnit => BitVec.ofNat 64 (0x200 + Config.hubUnit kind detail)
  | .other => Config.fatalUnit kind detail

/-- R342: the SHA-256 over the measurements of R344, in the order of their indexes. -/
def dumpDigest (s : State) : List Nat :=
  sha256 ((List.range 6).map fun i => Config.measurementBytes (i + 1) (measurement s (i + 1))).flatten

/-- Eight bytes as a doubleword, the first one lowest. -/
def bytesWord (l : List Nat) (i : Nat) : Word :=
  BitVec.ofNat 64 (((l.drop (8 * i)).take 8).foldr (fun b n => b % 256 + 256 * n) 0)

/-- R342: the PA of a section's entry in the header. -/
def sectionEntry (k : Nat) : Nat := dumpBase + 0x100 + 32 * k

/-- R342: a section's kind, unit and flags. -/
def entryHead (k : Nat) (complete : Bool) : Word :=
  BitVec.ofNat 64 ((if complete then 2 ^ 32 else 0) + (dumpSection k).2 * 2 ^ 16 + (dumpSection k).1)

/-- R342: the header of a dump of sections `ws`, as doublewords, with every flag clear. -/
def dumpHeader (s : State) (ws : List (List Word)) (kind detail : Nat) (unit : DumpUnit) : List Word :=
  let digest := dumpDigest s
  let u := s.pkg.usher
  [0x0960D001, BitVec.ofNat 64 u.dumps, BitVec.ofNat 64 (100000 * u.time + Config.sinceSample s.free % 100000),
    Config.fatalCode kind ++ Config.fatalDetail kind detail, unitWord kind detail unit, Config.firmwareRelease] ++
    (List.range 4).map (bytesWord digest) ++ [BitVec.ofNat 64 dumpSections.length] ++ List.replicate 21 0 ++
    ((List.range dumpSections.length).map fun k =>
      [entryHead k false, BitVec.ofNat 64 (sectionPa ws k), BitVec.ofNat 64 (8 * (listGet [] ws k).length), 0]).flatten

/-- Doublewords written one after another. -/
def writeWords : List Word → Nat → State → State
  | [], _, s => s
  | w :: r, k, s => writeWords r (k + 8) (physWrite s k 8 w.toNat)

/-- R341, R342: a fatal error stops the planes and is reported to the host, and firmware writes the header of the dump; the sections
follow, from units that have stopped. A package that has stopped stays as it stopped. -/
def fatalStop (s : State) (kind detail : Nat) (unit : DumpUnit) : State :=
  if s.pkg.fatal.isSome then s
  else
    let ws := (List.range dumpSections.length).map (sectionWords s)
    let u := writeWords (dumpHeader s ws kind detail unit) dumpBase (fatalError s kind detail)
    { modUsher u fun x => { x with dumps := x.dumps + 1, dumpNext := some 0, dumpWords := ws } with free := s.free + 1 }

/-- R342: firmware writes the next section, and sets its flag once it is complete. -/
def writeSection (s : State) : State :=
  match s.pkg.usher.dumpNext with
  | none => s
  | some k =>
    let ws := s.pkg.usher.dumpWords
    let u := physWrite (writeWords (listGet [] ws k) (sectionPa ws k) s) (sectionEntry k) 8 (entryHead k true).toNat
    modUsher u fun x => { x with dumpNext := if k + 1 < dumpSections.length then some (k + 1) else none }

end Sys2Proof.Machine
end

