-- ==== Sys2Proof/Machine/Usher.lean ====
section
/-!
DEFINITION. Resets, fatal errors, tenant turnover, training, attestation and the governor (R125, R281, R316, R317, R320,
R339, R341-R346, R373).
-/

namespace Sys2Proof.Machine

/-! ## Faults and resets of one part (R281, R339, R341, R345, R373) -/

/-- R341: the part that is out while another faults, if there is one: a die by its number, a stack from 16 on. -/
def partOut (s : State) : Option Nat :=
  ((List.range 4).find? fun d => (dieOf s d).status == .out).or (s.mem.lostStacks.head?.map (· + 16))

/-- R341: a fault of one part, which is fatal while another part is out. -/
def partFaults (s : State) (unit : DumpUnit) (k : State → State) : State :=
  match partOut s with
  | some d => fatalStop s 0 d unit
  | none => k s

/-- R339, R341: the hub die resets: the Foyer rebuilds its state from the journal. When the journal is lost in both copies, that is
fatal. -/
def hubResets (s : State) : State := partFaults s .hubUnit fun u => if jLost u then fatalStop u 1 0 .other else rebuildFoyer u

/-- R339: the Usher resets the hub die. -/
def execHubDieReset (s : State) : Res := .next (hubResets s)

/-- R341: a replay is under way. -/
def replaying (s : State) : Bool :=
  s.pkg.foyer.launches.any fun l => l.state == .purge || l.state == .restore || (l.state == .emit && decide (1 < l.attempt))

/-- R339, R341: the hub die faults: it resets, but during a replay that is fatal. -/
def hubFaults (s : State) : State := if replaying s then fatalStop s 2 0 .hubUnit else hubResets s

/-- R341: the Usher watchdog expires. -/
def execUsherWatchdogExpiry (s : State) : Res := .next (fatalStop s 3 0 .hubUnit)

/-- R337: a line of a journal copy. -/
def journalLine (line : Nat) : Bool :=
  let a := 64 * line
  (a / dieBytes == 0 || a / dieBytes == 2) && decide (0x2F00000000 ≤ a % dieBytes) && decide (a % dieBytes < 0x2F08000000)

/-- R341: an uncorrectable error in both copies of the journal is fatal. -/
def journalGuard (s : State) : State := if jLost s then fatalStop s 1 0 .other else s

/-- R341: the same, where a line of the journal has failed. -/
def guardIf (b : Bool) (s : State) : State := if b then journalGuard s else s

/-- R281, R339, R373: the Usher resets a compute die; its work is lost, with one report for each item. -/
def execDieReset (die : Nat) (s : State) : Res :=
  if 4 ≤ die ∨ (dieOf s die).status ≠ .inService then .next s
  else
    .next (partFaults s .other fun s =>
      let v := (workOf s die).foldl reportLoss (clearDie s die)
      guardIf (s.mem.l2.any fun p => p.2.dirty && journalLine p.1 && lineBad s p.1)
        (setDie v die { dieOf v die with status := .out }))

/-- R373: the Usher declares a die back, which reads its landing table, or disables it with its cores. -/
def execDieBack (die : Nat) (enabled : Bool) (s : State) : Res :=
  if 4 ≤ die ∨ (dieOf s die).status ≠ .out then .next s
  else if enabled then .next (refreshDescs (setDie s die { dieOf s die with status := .inService }) die)
  else
    .next ((List.range 128).foldl (fun u k => modCore u (128 * die + k) fun x => { x with enabled := false })
      (setDie s die { dieOf s die with status := .disabled }))

/-- R281, R341: a core faults, and the Usher disables it. -/
def execCoreDisable (core : Nat) (s : State) : Res := .next (partFaults s (.core core) fun u => disableCore u core)

/-- R339: a cluster faults: the Usher disables its cores (log entry 70). -/
def clusterFaults (s : State) (cl : Nat) : State :=
  if 64 ≤ cl then s else partFaults s .other fun u => (List.range 8).foldl (fun v k => disableCore v (8 * cl + k)) u

/-- R302, R341: a home evicts a line. -/
def execLineEviction (coded : Bool) (key : Nat) (bad : Bool) (s : State) : Res :=
  .next (guardIf (!coded && journalLine key && (tblFind s.mem.l2 key).isSome) (evictLine coded key bad s))

/-- R289, R319, R341: a line of device memory takes an uncorrectable error. -/
def lineFails (s : State) (line : Nat) : State :=
  guardIf (journalLine line) (memoryFails s line)

/-- R315, R341: a read of a line from DRAM finds wrong symbols. -/
def readFindsSymbols (s : State) (line : Nat) (bytes : List Nat) : State :=
  guardIf (journalLine line) (symbolsFail s line bytes)

/-- R339: a stack faults: what it holds is lost (log entry 70). -/
def stackFaults (s : State) (stack : Nat) : State :=
  if 12 ≤ stack ∨ s.mem.lostStacks.contains stack then s
  else partFaults s (.stack stack) fun u => journalGuard { u with mem := { u.mem with lostStacks := insertNat stack u.mem.lostStacks } }

/-- R281: an entry of a landing's on-die queue takes an uncorrectable error, and its record is lost. -/
def queueFails (s : State) (die l i : Nat) : State :=
  let x := landingOf s die l
  match x.queue[i]? with
  | none => s
  | some e => reportLoss (setLanding s die l { x with queue := x.queue.eraseIdx i }) e.tag

/-- R281: an entry of a wait pool takes an uncorrectable error, and its record is lost. -/
def poolFails (s : State) (die i : Nat) : State :=
  match (dieOf s die).waitPool[i]? with
  | none => s
  | some w => reportLoss (setPool (dropPoolWatch s w) die ((dieOf s die).waitPool.eraseIdx i)) w.entry.tag

/-! ## What begins to fail, and is found when the Usher tests it (R104, R316, R343, R344) -/

/-- A change to what is unsound. -/
def modUnsound (s : State) (f : Unsound → Unsound) : State := modUsher s fun u => { u with unsound := f u.unsound }

/-- R316: the windows of a lane, in steps of its sweeps; a lane with one below 16 fails its training. -/
def laneWindow (s : State) (fast : Bool) (stack pc lane wlo whi rlo rhi : Nat) : State :=
  let put := fun (l : List (Nat × Nat × Nat)) =>
    if whi < wlo + 16 ∨ rhi < rlo + 16 then ((stack, pc, lane) :: l).eraseDups else l.filter (· != (stack, pc, lane))
  if 12 ≤ stack ∨ 64 ≤ pc ∨ 38 ≤ lane then s
  else modUsher s fun u => if fast then { u with failing10 := put u.failing10 } else { u with failing8 := put u.failing8 }

/-- R316: a stack begins to fail its command and address sweep, its pattern test or its march. -/
def stackFails (s : State) (fast : Bool) (stack : Nat) : State :=
  modUnsound s fun u => if fast then { u with stacks10 := insertNat stack u.stacks10 } else { u with stacks8 := insertNat stack u.stacks8 }

/-- R104: a column of a bay begins to fail. -/
def columnFails (s : State) (core bay column : Nat) : State :=
  if 512 ≤ core ∨ 4 ≤ bay ∨ 1152 ≤ column then s
  else modUnsound s fun u => { u with columns := ((core, bay, column) :: u.columns).eraseDups }

/-- R343: a Mezzanine begins to fail its self-test. -/
def mezzFails (s : State) (core : Nat) : State :=
  if 512 ≤ core then s else modUnsound s fun u => { u with mezzes := insertNat core u.mezzes }

/-- R344: the signature of a firmware image fails. -/
def imageFails (s : State) (image : Nat) : State := modUnsound s fun u => { u with images := insertNat image u.images }

/-! ## Training and repair (R316, R317) -/

/-- R317: the failed lanes of a pseudo-channel: those that fail now, and those that have once failed. -/
def failedLanes (u : Usher) (now : List (Nat × Nat × Nat)) (stack pc : Nat) : List (Nat × Nat × Nat) :=
  ((now ++ u.repaired).filter fun l => l.1 == stack && l.2.1 == pc).eraseDups

/-- R317: every pseudo-channel of a stack has at most 2 failed lanes. -/
def stackTrains (u : Usher) (now : List (Nat × Nat × Nat)) (stack : Nat) : Bool :=
  (List.range 64).all fun pc => decide ((failedLanes u now stack pc).length ≤ 2)

/-- R317: the repaired lanes after a training of a stack: the new ones of its pseudo-channels that can be repaired. -/
def repairLanes (u : Usher) (now : List (Nat × Nat × Nat)) (stack : Nat) : Usher :=
  let add := ((List.range 64).filter fun pc => decide ((failedLanes u now stack pc).length ≤ 2)).map fun pc =>
    failedLanes u now stack pc
  { u with repaired := (u.repaired ++ add.flatten).eraseDups }

/-- R316: a stack is trained at 10 Gb/s, on a failure at 8 Gb/s, and is FAILED on a failure there. -/
def trainStack (u : Usher) (stack : Nat) : Usher :=
  let a := repairLanes u u.failing10 stack
  let put := fun (x : Usher) (st : StackState) => { x with stackStates := tblSet x.stackStates stack st }
  if stackTrains u u.failing10 stack && !u.unsound.stacks10.contains stack then put a .full
  else
    let b := repairLanes a a.failing8 stack
    put b (if stackTrains a a.failing8 stack && !u.unsound.stacks8.contains stack then .degraded else .failed)

/-! ## Tenant turnover (R343) -/

/-- R125: the march reads every slot of every row: each mismatch is a detection, and rows that fail are retired. -/
def arcadeMarch (s : State) : State :=
  let found := (s.cores.map fun c => c.2.parity.map fun q => (c.1, q.1, q.2.1)).flatten.eraseDups
  let u := found.foldl (fun u q => reportDetection u q.1 q.2.1 q.2.2) s
  (found.filter fun q => decide (q.2.1 < 4) && decide (q.2.2 < 4096) && rowFailing u.pkg.usher q.1 q.2.1 q.2.2).foldl
    (fun w q => modCore w q.1 fun k =>
      { k with retired := listSet [] k.retired q.2.1 (insertNat q.2.2 (listGet [] k.retired q.2.1)) }) u

/-- R104: the columns that the health test replaces by spare columns. -/
def repairColumns (u : Usher) : Usher := { u with columns := (u.columns ++ u.unsound.columns).eraseDups }

/-- R343: the health test: the march, the repair of columns, and the training of every stack. -/
def healthTest (s : State) : State := modUsher (arcadeMarch s) fun u => (List.range 12).foldl trainStack (repairColumns u)

/-- R317: the stacks that have FAILED. -/
def failedStacks (u : Usher) : List Nat := (List.range 12).filter fun k => tblGet .full u.stackStates k == .failed

/-- R104, R343: a unit other than a stack fails the health test: a bay with more than 28 columns to repair, or a Mezzanine. -/
def unitFailed (u : Usher) : Bool :=
  !u.unsound.mezzes.isEmpty ||
    u.columns.any fun c => decide (28 < (u.columns.filter fun d => d.1 == c.1 && d.2.1 == c.2.1).length)

/-- R317, R340: what an UNFIT event names for each unit that failed. -/
def unfitUnits (u : Usher) : List Nat := failedStacks u ++ if unitFailed u then [15] else []

/-- R318, R343: an address of this package whose byte turnover clears: all memory outside the reserved areas, the journal copies, and
the landing tables. -/
def clearedPa (s : State) (a : Nat) : Bool :=
  decide (a < memTop) && (!reservedPa a ||
    ((a / dieBytes == 0 || a / dieBytes == 2) && decide (a % dieBytes < 0x2F08000000)) ||
    (List.range 4).any fun d => decide ((dieOf s d).tableBase ≤ a) && decide (a < (dieOf s d).tableBase + 0xA00))

/-- R343 steps 3 and 4: device memory is zeroed, and caches and link tags are empty. Memory of other packages, and the host's, is
not this package's. -/
def clearMem (s : State) : Mem where
  dram := s.mem.dram.filter fun c => !clearedPa s c.1
  l2 := s.mem.l2.filter fun p => decide (2 ^ 34 ≤ p.1)
  coded := []
  poison := s.mem.poison.filter fun n => !clearedPa s (64 * n)
  l2Poison := s.mem.l2Poison.filter fun n => decide (2 ^ 34 ≤ n)
  codedPoison := []
  tlb := []
  tags := []
  host := s.mem.host
  lostStacks := []

/-- R343 step 4: the package's registers take their reset values. What the Usher keeps, what has gone out to the host, the numbering
of strands and the host link stay. -/
def clearPackage (p : Package) : Package :=
  { Package.reset with
    hostReads := p.hostReads, messages := p.messages, hostLink := p.hostLink, nextIssuer := p.nextIssuer,
    usher := { p.usher with registers := [], dumpNext := none, dumpWords := [] }, turnovers := p.turnovers + 1, sealKey := Config.sealKey p.turnovers }

/-- R343 step 4: the router's registers take their reset values; links, and what has been sent and counted, stay. -/
def clearNet (n : Net) : Net := { Net.reset with links := n.links, sent := n.sent, tokens := n.tokens, discarded := n.discarded, otherTlps := n.otherTlps }

/-- R343 steps 2 to 7, after which doorbells open unless the health test failed. While an image is not loaded, the device stays in
bring-up mode, and UNFIT (log entry 73). The row map and what is disabled stay (R125). -/
def turnover (s : State) : State :=
  let h := healthTest s
  let core := fun (k : Core) => { Core.reset with enabled := k.enabled, retired := k.retired }
  let die := fun (d : Nat) (x : Die) => { Die.reset d with status := x.status, tableBase := x.tableBase }
  let bad := unfitUnits h.pkg.usher
  let u : State :=
    { h with strands := [], cores := h.cores.map (fun c => (c.1, core c.2)), clusters := [],
             dies := h.dies.map (fun d => (d.1, die d.1 d.2)), mem := clearMem h, net := clearNet h.net,
             pkg := { clearPackage h.pkg with bringUp := h.pkg.usher.unloaded, fit := bad.isEmpty && !h.pkg.usher.unloaded } }
  bad.foldl (fun v k => postEvent v 6 k 0) u

/-- R343: a turnover writes no completion slot for the work that it ends. -/
def execTenantTurnover (s : State) : Res := .next (turnover s)

/-- R345: every unit except the Usher resets, and the Usher runs R343. -/
def execFundamentalReset (s : State) : Res := .next (turnover s)

/-- R345: the Usher after its boot: its store holds the repair map and the row map, and the hardware is what it was. -/
def bootUsher (old : Usher) : Usher :=
  { Usher.reset with
    failing10 := old.failing10, failing8 := old.failing8, unsound := old.unsound, repaired := old.repaired, columns := old.columns,
    dumps := old.dumps, unloaded := !old.unsound.images.isEmpty }

/-- R344, R345: the device at power-on: the Usher boots from its store and verifies its images, and steps 2 to 7 of R343 run. An image
whose signature fails is not loaded: the device stays in bring-up mode, and UNFIT (log entry 73). -/
def execPowerOn (s : State) : Res :=
  .next (turnover { s with pkg := { s.pkg with usher := bootUsher s.pkg.usher } })

/-! ## Attestation (R344) -/

/-- R344: the Usher answers a request for one of the six measurements. -/
def execSpdmRequest (index : Nat) (nonce : BitVec 64) (s : State) : Res :=
  if index = 0 ∨ 6 < index then .next s
  else
    let r : SpdmResponse := ⟨index, nonce, measurement s index, Config.signature s.free⟩
    .next { modUsher s fun u => { u with responses := r :: u.responses } with free := s.free + 1 }

/-- R344: the Usher answers a request for its SPDM versions. -/
def spdmVersions (s : State) : State := modUsher s fun u => { u with answers := .versions [1, 1] [2, 3] :: u.answers }

/-- R344: the Usher answers a request for the certificate chain of its key. -/
def spdmChain (s : State) : State := modUsher s fun u => { u with answers := .chain Config.certificateChain :: u.answers }

/-! ## The governor (R346) -/

/-- R346: a step towards less power: the pass rate down to half, then the clock down to 1.2 GHz. -/
def throttle (u : Usher) : Usher :=
  if 4 < u.passEighths then { u with passEighths := u.passEighths - 1 }
  else { u with clockMHz := max 1200 (u.clockMHz - 100) }

/-- R346: a step back: the clock first, the pass rate last. -/
def unthrottle (u : Usher) : Usher :=
  if u.clockMHz < 2100 then { u with clockMHz := min 2100 (u.clockMHz + 100) }
  else { u with passEighths := min 8 (u.passEighths + 1) }

/-- R346: a sample, with the 10 ms average in watts. -/
def execPowerSample (averageWatts : Nat) (s : State) : Res :=
  .next (modUsher s fun u =>
    let v := if 3000 < averageWatts then throttle u else unthrottle u
    { v with time := u.time + 1 })

end Sys2Proof.Machine
end

