-- ==== Sys2Proof/Machine/Transfers.lean ====
section
/-!
DEFINITION. The collective engine's entries, remote transfers and COLLW (R360-R362, R364, R369, R370).
-/

namespace Sys2Proof.Machine

/-! ## Accesses of the engine (R361, R363) -/

/-- What pages an access of the engine may touch. -/
inductive PageRule where
  /-- R363: LOCAL and not CODED. -/
  | plain
  /-- R360: LOCAL. -/
  | near
  /-- R360: PEER. -/
  | peer
  deriving DecidableEq, Repr

/-- The page is one that the rule allows. -/
def pageFits (r : PageRule) (p : Page) : Bool :=
  match r with
  | .plain => p.kind == 0 && p.region.isNone
  | .near => p.kind == 0
  | .peer => p.kind == 1

/-- R361, R363: an access of the engine is translated and checked; a page of another kind and the Atrium window take ACCESS. -/
def engineTarget (s : State) (ag : Agent) (r : PageRule) (write : Bool) (a : Word) : Except XFault Target :=
  if inAtrium a then .error (xfault cACCESS)
  else if !canonical a then .error (xfault cPAGE_FAULT)
  else
    match pageWalk s (unitsOf ag) ag.ctx (va48 a) with
    | .error f => .error f
    | .ok p =>
      if (!p.u && !ag.supervisor) || (write && p.ro) || pageForbidden s p || !pageFits r p then .error (xfault cACCESS)
      else .ok (pageTarget s p)

/-- R351: the collective engine as the source of packets; its accesses of another die take a SEQ (log entry 12). -/
def noteEngine (s : State) (ag : Agent) (t : Target) : State := noteRemoteAs s 0 0 ag.tag (hubSid 1) (ag.cluster / 16) 0 t 0

/-- `z` bytes read by the engine at an address. -/
def engineRead (s : State) (ag : Agent) (r : PageRule) (a : Word) (z : Nat) : State × Except WordFault Nat :=
  match engineTarget s ag r false a with
  | .error f => (noteFault s f, .error (f.cause, a))
  | .ok t =>
    if targetBad s ag.cluster t z || unreachableTarget s (hubSid 1) t then (s, .error (cMEM_UE, a))
    else (noteEngine (targetFill s t) ag t, .ok (targetRead s ag.cluster t z))

/-- `z` bytes written by the engine at an address. -/
def engineWrite (s : State) (ag : Agent) (r : PageRule) (a : Word) (z v : Nat) : State × Option WordFault :=
  match engineTarget s ag r true a with
  | .error f => (noteFault s f, some (f.cause, a))
  | .ok t =>
    if nonfiniteWrite s t z v then (s, some (cCODED_NONFINITE, a))
    else if unreachableTarget s (hubSid 1) t then (s, some (cMEM_UE, a))
    else (noteEngine (targetWrite s ag.cluster ag.tag t z v) ag t, none)

/-- The agent of an operation. -/
def opAgent (o : EngineOp) : Agent := ⟨o.ctx, o.supervisor, clusterIdx o.strand, o.tag, none⟩

/-- R362, R368: accesses of the issuer are not performed, so that the engine must wait. -/
def issuerBusy (s : State) (o : EngineOp) : Bool :=
  !(liveCmds s (clusterIdx o.strand) o.issuer).isEmpty || s.net.unacked.any fun u => u.issuer == o.issuer

/-! ## FPUT and FGET (R360) -/

/-- The word of a transfer. -/
def wordXfer (get : Bool) (a b : BitVec 5) : BitVec 32 := wordS 0x38 a b (if get then 3 else 2) 0

/-- R360: a transfer as an operation of a strand; a length of 0 ends at once. -/
def xferEntry (s : State) (id : Nat) (get : Bool) (dst src : Word) (len : Nat) : EngineOp :=
  let t := strandOf s id
  ⟨t.issuer, id, stLanding t, stSuper t, t.tag, none, 0, get, dst, src, len, if len = 0 then some 0 else none, 0, false⟩

/-- An operation enters the engine. -/
def addOp (s : State) (o : EngineOp) : State := modEngine s fun e => { e with ops := e.ops ++ [o] }

/-- R360: the checks of a transfer, in order; it takes an entry of the engine or waits for one. -/
def xferOp (get : Bool) (a b : BitVec 5) (s : State) : State :=
  let id := s.cur
  let dst := reg s id a
  let len := reg s id (a ||| 1)
  let src := reg s id b
  if a = 0 ∨ 2 ^ 32 ≤ len.toNat then trapIllegal s id (wordXfer get a b)
  else
    match [dst, src, len].find? fun x => x.toNat % 8 != 0 with
    | some x => trapHere s id cMISALIGN x
    | none =>
      if engineFull s then blockOn s id (.transfer get a b)
      else finish (addOp s (xferEntry s id get dst src len.toNat)) id

def execFput (a : BitVec 4) (b : BitVec 5) (s : State) : Res := .next (xferOp false (pairReg a) b s)
def execFget (a : BitVec 4) (b : BitVec 5) (s : State) : Res := .next (xferOp true (pairReg a) b s)

/-- R361: words of a transfer from `i` on, each by the rules of R241. -/
def moveXfer (ag : Agent) (get : Bool) (dst src : Word) : Nat → Nat → State → State × Option WordFault
  | 0, _, s => (s, none)
  | n + 1, i, s =>
    let k := BitVec.ofNat 64 (8 * i)
    match engineRead s ag (if get then .peer else .near) (src + k) 8 with
    | (u, .error f) => (u, some f)
    | (u, .ok v) =>
      match engineWrite u ag (if get then .near else .peer) (dst + k) 8 v with
      | (w, some f) => (w, some f)
      | (w, none) => moveXfer ag get dst src n (i + 1) w

/-- R361, R369: the status word of a transfer. -/
def xferStatus : Option WordFault → Word
  | none => 0
  | some f => statusWord f.2 f.1 2

/-- R361, R362: a transfer moves its words once the strand's accesses are performed, and ends; an orphan ends without a status (R282). -/
def execTransferEnd (index : Nat) (s : State) : Res :=
  match s.pkg.engine.ops[index]? with
  | none => .next s
  | some o =>
    if o.coll.isSome || o.ended.isSome || issuerBusy s o then .next s
    else
      match moveXfer (opAgent o) o.get o.dst o.src (o.len / 8) 0 s with
      | (u, f) => .next (modEngine u fun e => { e with
          ops := if o.orphan then e.ops.eraseIdx index else e.ops.set index { o with ended := some (xferStatus f) } })

/-! ## COLLW (R369) -/

/-- R369: operations of a strand that `p` names are forgotten. -/
def forgetOps (s : State) (issuer : Nat) (p : EngineOp → Bool) : State :=
  modEngine s fun e => { e with ops := e.ops.filter fun o => !(o.issuer == issuer && p o) }

/-- R369: the strand's most recent collective with a descriptor address. -/
def lastColl (s : State) (issuer addr : Nat) : Option EngineOp :=
  ((opsOf s issuer).filter fun o => o.coll.isSome && o.descAddr == addr).getLast?

/-- R369: the first status that is not 0, in issue order. -/
def firstBadStatus (os : List EngineOp) : Word := ((os.filterMap fun o => o.ended).find? fun w => fld w 0 8 != 0).getD 0

/-- R369: the last place of an operation in a list. -/
def dropLast1 (o : EngineOp) (l : List EngineOp) : List EngineOp := (l.reverse.erase o).reverse

/-- R369: COLLW parks until what it reports has ended, reports it and forgets it. -/
def execCollw (a b : BitVec 5) (s : State) : Res :=
  let id := s.cur
  let g := (strandOf s id).issuer
  let v := reg s id b
  if v.toNat % 64 ≠ 0 then .next (trapIllegal s id (wordS 0x38 a b 1 0))
  else if v ≠ 0 then
    match lastColl s g v.toNat with
    | none => .next (finishReg s id a 5)
    | some o =>
      match o.ended with
      | none => .next (parkOn s id (.collw a b))
      | some w => .next (finishReg (modEngine (raise s id o.flags) fun e => { e with ops := dropLast1 o e.ops }) id a w)
  else if (openOps s id).isEmpty then
    let os := opsOf s g
    .next (finishReg (forgetOps (raise s id (orFlags (os.map fun o => o.flags))) g fun _ => true) id a (firstBadStatus os))
  else .next (parkOn s id (.collw a b))

end Sys2Proof.Machine
end

