-- ==== Sys2Proof/Machine/Reduce.lean ====
section
/-!
DEFINITION. The reductions of collectives as functions of their contributions (R35, R366, R367).
-/

namespace Sys2Proof.Machine

/-! ## Element types (R363) -/

/-- ETYPE: the element size in bytes. -/
def elemBytes (etype : Nat) : Nat :=
  match etype with
  | 0 => 4
  | 2 => 2
  | 3 => 4
  | _ => 8

/-- ETYPE of a floating-point type as a format. -/
def elemFmt (etype : Nat) : FFmt :=
  match etype with
  | 2 => fBF16
  | 3 => fFP32
  | _ => fFP64

/-! ## Exact (R366) -/

/-- R366: the saturating exact sum of integers. -/
def intSum (w : Nat) (xs : List Nat) : Fl Nat :=
  match satInt ((xs.map (signed w)).foldl (· + ·) 0) (sBounds w).1 (sBounds w).2 flagACCSAT with
  | (i, f) => (wrapInt w i, f)

/-- R366: ex(x) of a finite value that is not zero. -/
def exOf (f : FFmt) (x : Val) : Option Int :=
  match x with
  | .num _ m e => if m = 0 then none else some (max (leadExp m e) (1 - f.bias))
  | _ => none

/-- The larger of two exponents that may be undefined. -/
def maxEx : Option Int → Option Int → Option Int
  | none, y => y
  | x, none => x
  | some x, some y => some (max x y)

/-- R366: e[j] of a block, from all its values. -/
def blockEx (f : FFmt) (xs : List Val) : Option Int := (xs.map (exOf f)).foldl maxEx none

/-- R366: a term in units of 2^q, and NX when it is inexact. -/
def fixTerm (q : Int) (x : Val) : Fl Int :=
  match x with
  | .num n m e =>
    match roundNat m (e - q) with
    | (k, nx) => (if n then -(k : Int) else k, flagIf nx flagNX)
  | _ => (0, 0)

/-- R366: one index of a floating-point reduction; `e` is its block's exponent. -/
def fixSum (f : FFmt) (e : Option Int) (xs : List Val) : Fl Nat :=
  if xs.any isNaN || (xs.any (· = .inf true) && xs.any (· = .inf false)) then (fNaN f, flagNV)
  else if xs.any (· = .inf true) then fInf f true
  else if xs.any (· = .inf false) then fInf f false
  else
    match e with
    | none => (0, 0)
    | some k =>
      let q := k - 47
      match flSeq (xs.map (fixTerm q)) with
      | (ts, g) =>
        let a := ts.foldl (· + ·) 0
        if a = 0 then (0, g)
        else
          match roundFloat f (decide (a < 0)) a.natAbs q with
          | (r, h) => (r, g ||| h)

/-- R366: an exact reduction over `n` indices; `at'` gives the contributions at an index, one per rank. -/
def exactReduce (etype n : Nat) (at' : Nat → List Nat) : Fl (List Nat) :=
  if etype ≤ 1 then flSeq ((List.range n).map fun i => intSum (8 * elemBytes etype) (at' i))
  else
    let f := elemFmt etype
    let vals := fun i => (at' i).map (readFloat f)
    let ex := fun j => blockEx f (((List.range (min 64 (n - 64 * j))).map fun k => vals (64 * j + k)).flatten)
    flSeq ((List.range ((n + 63) / 64)).map fun j =>
      let e := ex j
      (List.range (min 64 (n - 64 * j))).map fun k => fixSum f e (vals (64 * j + k))).flatten

/-! ## Fast (R367) -/

/-- R367: FP32 values added two at a time in an order that free values choose, drawn from counter `c` on. -/
def fastSum : Nat → Nat → List Nat → Fl Nat
  | 0, _, l => (l.headD 0, 0)
  | n + 1, c, l =>
    if l.length < 2 then (l.headD 0, 0)
    else
      let i := Config.orderChoice c % l.length
      let l1 := l.eraseIdx i
      let j := Config.orderChoice (c + 1) % l1.length
      match fpAdd fFP32 (listGet 0 l i) (listGet 0 l1 j) with
      | (z, g) =>
        match fastSum n (c + 2) (z :: l1.eraseIdx j) with
        | (r, h) => (r, g ||| h)

/-- R19, R367: one index of a fast reduction: BF16 enters exactly, and its result is rounded once. The value of a single rank is
converted as a sum is, so that a NaN becomes the canonical one, and a signalling one sets NV. -/
def fastIndex (etype c : Nat) (xs : List Nat) : Fl Nat :=
  match fastSum xs.length c (if etype = 2 then xs.map (· * 2 ^ 16) else xs) with
  | (r, g) =>
    match toFloat (elemFmt etype) (readFloat fFP32 r) with
    | (b, h) => (b, g ||| h)

/-- R367: a fast reduction. -/
def fastReduce (etype n c : Nat) (at' : Nat → List Nat) : Fl (List Nat) :=
  flSeq ((List.range n).map fun i => fastIndex etype (c + 2 * (at' 0).length * i) (at' i))

/-! ## Results (R363) -/

/-- R363: the elements of SRC that a participant contributes. -/
def srcCount (d : CollDesc) : Nat :=
  match d.kind with
  | 1 => d.n * d.count
  | 3 => if d.rank = d.root then d.count else 0
  | _ => d.count

/-- R363: indices of the reduced space. -/
def redCount (d : CollDesc) : Nat := if d.kind = 1 then d.n * d.count else d.count

/-- R363, R365: the reduced space and its flags; `data` holds each rank's SRC elements, in rank order. -/
def reduceAll (d : CollDesc) (c : Nat) (data : List (List Nat)) : Fl (List Nat) :=
  let at' := fun i => data.map fun l => listGet 0 l i
  match d.kind with
  | 2 => (data.map (listFit 0 d.count)).flatten |> fun l => (l, 0)
  | 3 => (listFit 0 d.count (listGet [] data d.root), 0)
  | _ => if d.fast then fastReduce d.etype (redCount d) c at' else exactReduce d.etype (redCount d) at'

/-- R363: the DST elements of a rank. -/
def dstElems (d : CollDesc) (res : List Nat) : List Nat :=
  if d.kind = 1 then (res.drop (d.rank * d.count)).take d.count else res

end Sys2Proof.Machine
end

