-- ==== Sys2Proof/Machine/Collect.lean ====
section
/-!
DEFINITION. Collectives (R363-R371).
-/

namespace Sys2Proof.Machine

/-! ## Descriptors (R363) -/

/-- R363: the doublewords of a descriptor as a collective. -/
def descOf (kind : Nat) (fast : Bool) (w : Nat → Word) : CollDesc where
  kind := kind
  fast := fast
  gid := fld (w 0) 48 16
  cseq := fld (w 0) 32 16
  n := fld (w 0) 16 16
  rank := fld (w 0) 0 16
  etype := fld (w 1) 60 4
  count := fld (w 1) 0 32
  src := fld (w 2) 0 48
  dst := fld (w 3) 0 48
  rankTab := fld (w 4) 0 48
  root := fld (w 5) 0 16

/-- R364: a field of a descriptor that must be zero is not. -/
def descReserved (w : Nat → Word) : Bool :=
  fld (w 1) 32 28 != 0 || fld (w 2) 48 16 != 0 || fld (w 3) 48 16 != 0 || fld (w 4) 48 16 != 0 || fld (w 5) 16 48 != 0 ||
    w 6 != 0 || w 7 != 0

/-- R364: a descriptor that traps with ILLEGAL, apart from reserved fields and a collective in flight. -/
def collDescBad (d : CollDesc) : Bool :=
  decide (5 ≤ d.etype) || d.n == 0 || decide (d.n ≤ d.rank) || decide (d.n ≤ d.root) || (d.root != 0 && d.kind != 3) ||
    (d.fast && (decide (2 ≤ d.kind) || !(d.etype == 2 || d.etype == 3)))

/-- R364: a collective with the same GID, CSEQ and RANK is in flight on the package. -/
def collInFlight (s : State) (d : CollDesc) : Bool :=
  s.pkg.engine.ops.any fun o => o.ended.isNone && isColl d.gid d.cseq o && (o.coll.map (·.rank)) == some d.rank

/-! ## Participants -/

/-- The collective of an operation. -/
def collOf (o : EngineOp) : CollDesc := o.coll.getD (descOf 0 false fun _ => 0)

/-- The operations of the package that take part in a collective and have not ended. -/
def collOps (s : State) (gid cseq : Nat) : List EngineOp :=
  s.pkg.engine.ops.filter fun o => o.ended.isNone && isColl gid cseq o

/-- The contributions of other packages to a collective. -/
def collRemote (s : State) (gid cseq : Nat) : List Contribution :=
  s.pkg.engine.remote.filter fun c => c.desc.gid == gid && c.desc.cseq == cseq

/-- What the engines compare: the descriptor, the rank table and the issuer, as 4 x package + die. -/
structure Part where
  desc : CollDesc
  table : List Nat
  source : Nat
  deriving DecidableEq, Repr

/-- R363: a rank-table entry as the issuer that it names, as 4 x package + die. -/
def entryDie (e : Nat) : Nat := 4 * bitsOf e 0 12 + bitsOf e 12 2

/-- R365: two contributions disagree. -/
def partsDiffer (x y : Part) : Bool :=
  let a := x.desc
  let b := y.desc
  a.n != b.n || a.kind != b.kind || a.fast != b.fast || a.etype != b.etype || a.count != b.count || a.root != b.root ||
    x.table != y.table || decide (b.n ≤ a.rank)

/-- R365: a rank's table entry names another issuer, or has a bit set that must be zero. -/
def partMisplaced (x : Part) : Bool :=
  let e := listGet 0 x.table x.desc.rank
  decide (2 ^ 14 ≤ e) || entryDie e != x.source

/-- R365: a disagreement among the contributions present. -/
def partsMismatch (ps : List Part) : Bool :=
  ps.any partMisplaced || ps.any (fun x => ps.any (partsDiffer x)) ||
    decide ((ps.map fun x => x.desc.rank).eraseDups.length < ps.length)

/-- R371: a rank lies on an unreachable destination. -/
def partsLost (s : State) (ps : List Part) : Bool := ps.any fun x => x.table.any fun e => unreachableDie s (hubSid 1) (entryDie e)

/-! ## Reading and writing buffers (R363, R368) -/

/-- Elements of `z` bytes read from an address, from element `i` on. -/
def readBuffer (ag : Agent) (a : Word) (z : Nat) : Nat → Nat → State → State × Except WordFault (List Nat)
  | 0, _, s => (s, .ok [])
  | n + 1, i, s =>
    match engineRead s ag .plain (a + BitVec.ofNat 64 (z * i)) z with
    | (u, .error f) => (u, .error f)
    | (u, .ok v) =>
      match readBuffer ag a z n (i + 1) u with
      | (w, .ok l) => (w, .ok (v :: l))
      | (w, .error f) => (w, .error f)

/-- Elements written to an address, in ascending order. -/
def writeBuffer (ag : Agent) (z : Nat) : List Nat → Word → State → State × Option WordFault
  | [], _, s => (s, none)
  | v :: r, a, s =>
    match engineWrite s ag .plain a z v with
    | (u, some f) => (u, some f)
    | (u, none) => writeBuffer ag z r (a + BitVec.ofNat 64 z) u

/-- R363: the rank table of an operation. -/
def readTable (s : State) (o : EngineOp) : State × Except WordFault (List Nat) :=
  readBuffer (opAgent o) (addr48 (collOf o).rankTab) 2 (collOf o).n 0 s

/-! ## Endings (R365, R368) -/

/-- R365: a collective ends with one status everywhere. -/
def endAll (s : State) (gid cseq status : Nat) : State := endColl s gid cseq status fun _ => (statusWord 0 0 status, 0)

/-- R368: a fault on the buffers or the rank table of one participant. -/
def collFault (s : State) (gid cseq : Nat) (o : EngineOp) (f : WordFault) : State :=
  endColl s gid cseq 3 fun p =>
    if (collOf p).rank = (collOf o).rank then (statusWord f.2 f.1 2, 0) else (statusWord 0 0 3, 0)

/-- R365: the status of a contribution that arrives after its collective has ended. -/
def lateStatus (ended : Nat) : Nat := if ended ≤ 1 then 1 else if ended ≤ 3 then 3 else 4

/-! ## Matching (R365) -/

/-- The participants of the package, with their rank tables; the first whose table cannot be read ends it. -/
def localParts : List EngineOp → State → State × Except (EngineOp × WordFault) (List Part)
  | [], s => (s, .ok [])
  | o :: r, s =>
    match readTable s o with
    | (u, .error f) => (u, .error (o, f))
    | (u, .ok t) =>
      match localParts r u with
      | (w, .error e) => (w, .error e)
      | (w, .ok ps) => (w, .ok (⟨collOf o, t, 4 * pkgNumber s + dieIdx o.strand⟩ :: ps))

/-- A contribution of another package as a participant. -/
def remotePart (c : Contribution) : Part := ⟨c.desc, c.table, c.source⟩

/-- R365, R371: the contributions present are matched: a fault, a mismatch or an unreachable rank ends the collective. -/
def matchColl (s : State) (gid cseq : Nat) : State :=
  match localParts (collOps s gid cseq) s with
  | (u, .error (o, f)) => collFault u gid cseq o f
  | (u, .ok ps) =>
    let all := ps ++ (collRemote u gid cseq).map remotePart
    if partsMismatch all then endAll u gid cseq 1
    else if partsLost u all then endAll u gid cseq 4
    else u

/-- R365: outcomes of a group are forgotten once 2^15 later CSEQ values of it have been issued. -/
def ageOutcomes (s : State) (gid cseq : Nat) : State :=
  modEngine s fun e =>
    let note := fun (o : Outcome) => if o.gid = gid then { o with later := laterWith o cseq } else o
    { e with outcomes := (e.outcomes.map note).filter keptOutcome }

/-- R364, R365: an accepted collective: late, or matched with the contributions present. -/
def enterColl (s : State) (o : EngineOp) (d : CollDesc) : State :=
  let u := ageOutcomes s d.gid d.cseq
  match outcomeOf u d.gid d.cseq with
  | some st => addOp u { o with ended := some (statusWord 0 0 (lateStatus st)) }
  | none => matchColl (addOp u o) d.gid d.cseq

/-! ## COLL (R364) -/

/-- The word of a COLL. -/
def wordColl (kind : BitVec 2) (m : BitVec 1) (b : BitVec 5) : BitVec 32 := wordS 0x38 0 b 0 (0#8 ++ m ++ kind)

/-- R364 item 4: a buffer or table address that is not aligned. -/
def collMisaligned (d : CollDesc) : Option Word :=
  let z := elemBytes d.etype
  if d.src % z ≠ 0 then some (addr48 d.src)
  else if d.dst % z ≠ 0 then some (addr48 d.dst)
  else if d.rankTab % 2 ≠ 0 then some (addr48 d.rankTab)
  else none

/-- R364: the checks of a COLL after its descriptor has been read; it takes an entry of the engine or waits for one. -/
def collChecked (s : State) (id : Nat) (w : BitVec 32) (a : Word) (blk : Block) (bad : Bool) (d : CollDesc) : State :=
  let t := strandOf s id
  if bad || collDescBad d || collInFlight s d then trapIllegal s id w
  else
    match collMisaligned d with
    | some x => trapHere s id cMISALIGN x
    | none =>
      if engineFull s then blockOn s id blk
      else
        finish (enterColl s
          ⟨t.issuer, id, stLanding t, stSuper t, t.tag, some d, a.toNat, false, 0, 0, 0, none, 0, false⟩ d) id

/-- R364: COLL reads its descriptor on stream SC and is checked. -/
def collOp (kind : BitVec 2) (m : BitVec 1) (b : BitVec 5) (s : State) : State :=
  let id := s.cur
  let a := reg s id b
  let ag := agentOf s id
  let blk : Block := .coll kind m b
  if a.toNat % 64 ≠ 0 then trapHere s id cMISALIGN a
  else
    match engineTarget s ag .plain false a with
    | .error f => trapHere (noteFault s f) id f.cause a
    | .ok t =>
      if targetBad s ag.cluster t 64 || unreachableTarget s (sidOf id 0) t then trapHere s id cMEM_UE a
      else if streamHeld s id 0 [homeDie s t] then blockOn s id blk
      else
        let v := targetRead s ag.cluster t 64
        let dw := fun k => (BitVec.ofNat 64 (bitsOf v (64 * k) 64) : Word)
        collChecked (noteRemote s id 0 0 t 0) id (wordColl kind m b) a blk (descReserved dw) (descOf kind.toNat (m == 1) dw)

def execCollAllreduce (b : BitVec 5) (m : BitVec 1) (s : State) : Res := .next (collOp 0 m b s)
def execCollRedscat (b : BitVec 5) (m : BitVec 1) (s : State) : Res := .next (collOp 1 m b s)
def execCollAllgath (b : BitVec 5) (m : BitVec 1) (s : State) : Res := .next (collOp 2 m b s)
def execCollBcast (b : BitVec 5) (m : BitVec 1) (s : State) : Res := .next (collOp 3 m b s)

/-- R360: a transfer or collective that waits at issue is tried again. -/
def execEngineEntry (id : Nat) (s : State) : Res :=
  match (strandOf s id).blocked with
  | some (.transfer get a b) => .next (retryIssue s id (xferOp get a b))
  | some (.coll kind m b) => .next (retryIssue s id (collOp kind m b))
  | _ => .next s

/-! ## Arrival and end -/

/-- R365: a contribution of another package is matched, or answered late. -/
def execContributionArrival (index : Nat) (s : State) : Res :=
  match s.pkg.engine.arriving[index]? with
  | none => .next s
  | some c =>
    let d := c.desc
    let u := modEngine s fun e => { e with arriving := e.arriving.eraseIdx index }
    match outcomeOf u d.gid d.cseq with
    | some st =>
      .next (modEngine u fun e => { e with sent := (c.source, d.gid, d.cseq, d.rank, lateStatus st) :: e.sent })
    | none => .next (matchColl (modEngine u fun e => { e with remote := e.remote ++ [c] }) d.gid d.cseq)

/-- R368, R371: a participant of another package ends a collective with a fault on its buffers, or because its strand is purged. -/
def peerFaults (s : State) (gid cseq : Nat) : State :=
  match outcomeOf s gid cseq with
  | some _ => s
  | none => endAll s gid cseq 3

/-- R363, R368: the SRC elements of participants of the package, each with its rank. -/
def readSources : List EngineOp → State → State × Except (EngineOp × WordFault) (List (Nat × List Nat))
  | [], s => (s, .ok [])
  | o :: r, s =>
    let d := collOf o
    match readBuffer (opAgent o) (addr48 d.src) (elemBytes d.etype) (srcCount d) 0 s with
    | (u, .error f) => (u, .error (o, f))
    | (u, .ok l) =>
      match readSources r u with
      | (w, .error e) => (w, .error e)
      | (w, .ok ls) => (w, .ok ((d.rank, l) :: ls))

/-- R363: results are written at participants of the package; the first that faults ends the collective. -/
def writeResults (res : List Nat) : List EngineOp → State → State × Option (EngineOp × WordFault)
  | [], s => (s, none)
  | o :: r, s =>
    let d := collOf o
    match writeBuffer (opAgent o) (elemBytes d.etype) (dstElems d res) (addr48 d.dst) s with
    | (u, some f) => (u, some (o, f))
    | (u, none) => writeResults res r u

/-- R368: a matched collective reads every SRC, writes every DST and ends. -/
def runColl (s : State) (gid cseq : Nat) (d : CollDesc) (ops : List EngineOp) : State :=
  match readSources ops s with
  | (u, .error (o, f)) => collFault u gid cseq o f
  | (u, .ok ls) =>
    let all := ls ++ (collRemote u gid cseq).map fun c => (c.desc.rank, c.data)
    let data := (List.range d.n).map fun r => ((all.find? fun p => p.1 == r).map (·.2)).getD []
    match reduceAll d u.free data with
    | (res, flags) =>
      let v := if d.fast then { u with free := u.free + 2 * d.n * redCount d } else u
      match writeResults res ops v with
      | (w, some (o, f)) => collFault w gid cseq o f
      | (w, none) => endColl w gid cseq 0 fun _ => (0, flags)

/-- R365, R368: N agreeing contributions are present, and the accesses of the local participants are performed. -/
def execCollectiveEnd (gid cseq : Nat) (s : State) : Res :=
  let ops := collOps s gid cseq
  let n := ops.length + (collRemote s gid cseq).length
  match (ops.map collOf ++ (collRemote s gid cseq).map fun c => c.desc).head? with
  | none => .next s
  | some d => if n = d.n ∧ (ops.any (issuerBusy s)) = false then .next (runColl s gid cseq d ops) else .next s

end Sys2Proof.Machine
end

