-- ==== Sys2Proof/Machine/Concourse.lean ====
section
/-!
DEFINITION. The fabric: routing, the recovery token, the Escape Stair, sequencing and recovery (R350-R358, R371).
-/

namespace Sys2Proof.Machine

/-! ## Headers (R351) -/

def pkDpkg (p : Packet) : Nat := fld p.hw0 52 12
def pkDdie (p : Packet) : Nat := fld p.hw0 50 2
/-- Source, as 4 x package + die. -/
def pkSource (p : Packet) : Nat := fld p.hw0 36 14
def pkClass (p : Packet) : Nat := fld p.hw0 32 4
def pkSid (p : Packet) : Nat := fld p.hw0 16 14
def pkSeq (p : Packet) : BitVec 16 := BitVec.ofNat 16 p.hw0.toNat
def pkEsc (p : Packet) : Bool := fld p.hw1 63 1 == 1
def pkNmin (p : Packet) : Nat := fld p.hw1 61 2
def pkHops (p : Packet) : Nat := fld p.hw1 55 6
def pkAddr (p : Packet) : Nat := fld p.hw1 0 40

/-- FRCFG.MASTER. -/
def netMaster (n : Net) : Bool := fld n.frcfg 31 1 == 1

/-- A change to the router. -/
def modNet (s : State) (f : Net → Net) : State := { s with net := f s.net }

/-- A packet enters the router. -/
def sendPacket (s : State) (p : Packet) : State := modNet s fun n => { n with waiting := n.waiting ++ [⟨p, 16, none, false⟩] }

/-- R351, R353: a packet is discarded and counted. -/
def discardPacket (s : State) (p : Packet) : State :=
  addReport (modNet s fun n => { n with discarded := n.discarded + 1 }) 353 p.hw0.toNat

/-- R356: the port of a packet's first Stair hop. -/
def stairPort (s : State) (p : Packet) : Nat := tblGet 0 s.net.stairRoute (pkDpkg p)

/-! ## Forwarding (R353, R356) -/

/-- R350: a port's link is up. -/
def portUp (s : State) (q : Nat) : Bool := (tblGet ⟨16, 128, true⟩ s.net.links q).up

/-- Free buffers at the neighbour of a port. -/
def portFree (s : State) (free : List Nat) (q : Nat) : Nat := if portUp s q then listGet 0 free q else 0

/-- R353: the port with the most free buffers, a tie to the lower; none when all are full. -/
def bestPort (s : State) (free : List Nat) : List Nat → Option Nat
  | [] => none
  | q :: r =>
    match bestPort s free r with
    | none => if portFree s free q = 0 then none else some q
    | some b => if portFree s free b ≤ portFree s free q then some q else some b

/-- R353: the minimal ports of a package. -/
def minimalPorts (s : State) (pkg : Nat) : List Nat :=
  (List.range 16).filter fun q => bitsOf (tblGet (0 : BitVec 16) s.net.minimal pkg).toNat q 1 == 1

/-- A packet leaves by a port: HOPS rises, and NMIN with it on a non-minimal hop. -/
def sendOn (s : State) (p : Packet) (q nmin : Nat) : State :=
  let h := setFld (setFld p.hw1 55 6 (pkHops p + 1)) 61 2 (pkNmin p + nmin)
  modNet s fun n => { n with sent := (q, { p with hw1 := h }) :: n.sent }

/-- R353: a waiting packet for another package leaves by a minimal port, or when it may by another; the order among other ports
is open. -/
def forwardFrom (s : State) (i : Nat) (x : Waiting) (free : List Nat) : State :=
  let p := x.packet
  let out := modNet s fun n => { n with waiting := n.waiting.eraseIdx i }
  let ports := minimalPorts s (pkDpkg p)
  if pkHops p = 63 ∨ (pkEsc p = false ∧ ports = []) then discardPacket out p
  else if pkEsc p then if portFree s free (stairPort s p) = 0 then s else sendOn out p (stairPort s p) 0
  else
    match bestPort s free ports with
    | some q => sendOn out p q 0
    | none =>
      let others := (List.range 16).filter fun q => !ports.contains q && portFree s free q != 0
      if x.nonminimal && decide (pkNmin p < 2) && !others.isEmpty then
        { sendOn out p (listGet 0 others (Config.orderChoice s.free % others.length)) 1 with free := s.free + 1 }
      else s

/-- R353, R356: a packet is forwarded: waiting packets are numbered from 0, and packets in Stair buffers follow. `free` gives the free
buffers at each port's neighbour. A packet for this package is delivered, not forwarded, and so is a token. -/
def execPacketForward (index : Nat) (free : List Nat) (s : State) : Res :=
  match s.net.waiting[index]? with
  | some x =>
    if pkDpkg x.packet = pkgNumber s ∨ pkClass x.packet = 7 then .next s else .next (forwardFrom s index x free)
  | none =>
    let k := index - s.net.waiting.length
    match s.net.stair[k]? with
    | none => .next s
    | some (q, p) =>
      let out := modNet s fun n => { n with stair := n.stair.eraseIdx k }
      if pkHops p = 63 then .next (discardPacket out p)
      else if portFree s free q = 0 then .next s
      else .next (sendOn out p q 0)

/-- A waiting packet changed. -/
def modWaiting (s : State) (i : Nat) (f : Waiting → Waiting) : State :=
  match s.net.waiting[i]? with
  | none => s
  | some x => modNet s fun n => { n with waiting := n.waiting.set i (f x) }

/-- R353: a packet's minimal ports have been full for 1 microsecond. -/
def execNonminimalTimeout (index : Nat) (s : State) : Res := .next (modWaiting s index fun x => { x with nonminimal := true })

/-- R354: a packet has waited 8 microseconds; suspects stand in the order in which they became suspect. -/
def execSuspectTimeout (index : Nat) (s : State) : Res :=
  match s.net.waiting[index]? with
  | none => .next s
  | some x =>
    if x.suspect.isSome || pkEsc x.packet then .next s
    else
      let k := s.net.suspects
      .next (modNet (modWaiting s index fun y => { y with suspect := some k }) fun n => { n with suspects := k + 1 })

/-! ## The recovery token (R352, R355) -/

/-- R352: a written configuration takes effect at a token visit. Rewritten routes make destinations reachable again (R371). -/
def visitConfig (n : Net) : Net :=
  let a := match n.frcfgNew with
    | some w => { n with frcfg := w, frcfgNew := none, unreachable := [] }
    | none => n
  n.routesNew.foldl (fun m r =>
    { m with minimal := tblSet m.minimal r.1 r.2.1, stairRoute := tblSet m.stairRoute r.1 r.2.2, unreachable := [] })
    { a with routesNew := [] }

/-- R351, R355: a token as a packet, with its epoch; `x` gives the fields that the manual leaves open (log entry 71). -/
def tokenPacket (x : BitVec 256) (e : BitVec 16) : Packet where
  hw0 := setFld (setFld (x.extractLsb' 0 64) 32 4 7) 30 2 0
  hw1 := setFld (setFld (x.extractLsb' 64 64) 40 15 0) 0 16 e.toNat
  payload := []

/-- R352: FRCFG.NEXTPORT. -/
def nextPort (n : Net) : Nat := fld n.frcfg 22 4

/-- R355: the token goes on to the next router, on NEXTPORT. -/
def passToken (s : State) (e : BitVec 16) : State :=
  { modNet s fun n => { n with
      token := .idle, tokens := e :: n.tokens, sent := (nextPort n, tokenPacket (Config.tokenHeader s.free) e) :: n.sent } with
    free := s.free + 1 }

/-- R354: the place of the oldest suspect packet. -/
def oldestSuspect (s : State) : Option (Nat × Waiting) :=
  let l := s.net.waiting.zipIdx.filterMap fun x => x.1.suspect.map fun k => (k, x.2, x.1)
  (l.foldl (fun (b : Option (Nat × Nat × Waiting)) x => match b with
    | none => some x
    | some y => if x.1 < y.1 then some x else some y) none).map fun x => x.2

/-- R355: the Stair buffer of a packet's first Stair hop is free. -/
def stairFree (s : State) (p : Packet) : Bool :=
  pkDpkg p == pkgNumber s || !s.net.stair.any fun x => x.1 == stairPort s p

/-- R355: HOLD: the oldest suspect packet moves, or the token goes on. -/
def holdToken (s : State) (e : BitVec 16) : State :=
  match oldestSuspect s with
  | some (i, x) =>
    if stairFree s x.packet then
      modNet s fun n => { n with token := .move x.packet, waiting := n.waiting.eraseIdx i }
    else passToken s e
  | none => passToken s e

/-- R355: an epoch is older than the last one seen. -/
def olderEpoch (last : Option (BitVec 16)) (e : BitVec 16) : Bool :=
  match last with
  | none => false
  | some l => decide (2 ^ 15 ≤ (e - l).toNat)

/-- R355: the token arrives with an epoch. It cannot arrive while a packet moves. -/
def tokenArrives (s : State) (e : BitVec 16) : State :=
  if s.net.token ≠ .idle ∨ olderEpoch s.net.epoch e then s
  else holdToken (modNet s fun n => visitConfig { n with epoch := some e }) e

def execTokenArrival (epoch : BitVec 16) (s : State) : Res := .next (tokenArrives s epoch)

/-- R355: a master that has seen no token for two rotations sends the next epoch. -/
def execTokenRegeneration (s : State) : Res :=
  if netMaster s.net && s.net.token == .idle then
    match s.net.epoch with
    | some e => .next (passToken s (e + 1))
    | none => .next (passToken { s with free := s.free + 1 } (Config.firstEpoch s.free))
  else .next s

/-- R355: the moved packet is wholly in the Stair buffer, and the token goes on. -/
def execStairMoveComplete (s : State) : Res :=
  match s.net.token with
  | .idle => .next s
  | .move p =>
    let q := { p with hw1 := setFld p.hw1 63 1 1 }
    let u := if pkDpkg p = pkgNumber s then sendPacket s q else modNet s fun n => { n with stair := n.stair ++ [(stairPort s p, q)] }
    .next (passToken u (s.net.epoch.getD 0))

/-- R352: the fabric manager writes FRCFG; a RINGLEN of 0 or above 256 is ignored and reported. -/
def execFrcfgWrite (value : BitVec 64) (s : State) : Res := .next (frcfgWritten s value)

/-- R350: a port's link trains, or goes down. -/
def execFabricPortTraining (port width rate : Nat) (up : Bool) (s : State) : Res :=
  if port < 16 ∧ (width = 16 ∨ width = 8 ∨ width = 4) then
    .next (modNet s fun n => { n with links := tblSet n.links port ⟨width, min rate 128, up⟩ })
  else .next s

/-! ## Sources (R358, R371) -/

/-- R358: a source receives an acknowledgement. -/
def ackFrom (s : State) (sid dest : Nat) (seq : BitVec 16) : State :=
  modNet s fun n => { n with unacked := n.unacked.filter fun u => !(u.sid == sid && u.dest == dest && u.seq == seq) }

/-- R371: a source that receives NACK resends from that SEQ onward. -/
def nackFrom (s : State) (sid dest : Nat) (seq : BitVec 16) : State :=
  (s.net.unacked.filter fun u => u.sid == sid && u.dest == dest && decide ((u.seq - seq).toNat < 2 ^ 15)).foldl
    (fun v u => sendPacket v u.packet) s

def execAckReceive (sid dest : Nat) (seq : BitVec 16) (s : State) : Res := .next (ackFrom s sid dest seq)
def execNackReceive (sid dest : Nat) (seq : BitVec 16) (s : State) : Res := .next (nackFrom s sid dest seq)

/-- R371: a packet that is not acknowledged within 100 microseconds is sent again. -/
def execResendTimeout (index : Nat) (s : State) : Res :=
  match s.net.unacked[index]? with
  | none => .next s
  | some u => .next (sendPacket s u.packet)

/-- R371: collectives with a rank on an unreachable destination end with LOST. -/
def loseColls (s : State) : State :=
  let open' := (s.pkg.engine.ops.filter fun o => o.ended.isNone).filterMap (·.coll)
  ((open' ++ s.pkg.engine.remote.map fun c => c.desc).map fun d => (d.gid, d.cseq)).eraseDups.foldl (fun u g =>
    match localParts (collOps u g.1 g.2) u with
    | (w, .ok ps) => if partsLost w (ps ++ (collRemote w g.1 g.2).map remotePart) then endAll w g.1 g.2 4 else w
    | (w, .error _) => w) s

/-- R371: a destination that has acknowledged nothing for 1 ms is unreachable for the source that waits for it: that source's stores on
their way to it are write-back errors with the writer's launch tag, and collectives with a rank on it are lost. The path is the source
and the destination (log entry 86). -/
def execUnreachableTimeout (path : Nat × Nat) (s : State) : Res :=
  let sid := path.1
  let dest := path.2
  let gone := s.net.unacked.filter fun u => u.sid == sid && u.dest == dest
  let u := modNet s fun n =>
    { n with unreachable := (n.unreachable ++ [(sid, dest)]).eraseDups,
             unacked := n.unacked.filter fun x => !(x.sid == sid && x.dest == dest) }
  .next (loseColls (gone.foldl (fun v x => writeBackError v (pkAddr x.packet) x.tag) u))

/-! ## Targets (R358, R371) -/

/-- The key of a sequenced stream at a target die of this package. -/
def streamKey (p : Packet) : Nat := (pkSource p * 2 ^ 14 + pkSid p) * 4 + pkDdie p

/-- R351, R371: an answer to a packet: a response or a NACK with its SID and SEQ. -/
def answerOf (s : State) (p : Packet) (cls : Nat) (payload : List Word) : Packet where
  hw0 := BitVec.ofNat 64 (pkSource p * 2 ^ 50 + (4 * pkgNumber s + pkDdie p) * 2 ^ 36 + cls * 2 ^ 32 + pkSid p * 2 ^ 16 +
    (pkSeq p).toNat)
  hw1 := BitVec.ofNat 64 (payload.length * 2 ^ 48 + pkAddr p)
  payload := payload

/-- R358: what a sequenced packet does at its home: a write or bulk payload is stored at ADDR, a read is answered with its line,
an atomic leaves a value that the header does not give (log entry 22). With it comes the payload of the response. -/
def applyPacket (s : State) (p : Packet) : State × List Word :=
  let a := pkAddr p / 8 * 8
  let line := (List.range 8).map fun i => (BitVec.ofNat 64 (physRead s (a / 64 * 64 + 8 * i) 8) : Word)
  if memTop < a + 8 * max 1 p.payload.length then (s, [])
  else
    match pkClass p, p.payload with
    | 1, ws => (writeWords ws a s, [])
    | 6, w :: ws => (writeWords (w :: ws) a s, [])
    | 2, _ => ({ physWrite s a 8 (Config.remoteAtomic s.free).toNat with free := s.free + 1 }, [])
    | 5, _ => (s, [])
    | _, _ => (s, line)

/-- R358: packets that have become next in order are applied. -/
def drainReorder : Nat → Nat → State → State
  | 0, _, s => s
  | n + 1, k, s =>
    let e := tblGet (0 : BitVec 16) s.net.expected k
    match s.net.reorder.find? fun p => streamKey p == k && pkSeq p == e with
    | none => s
    | some p =>
      let u := applyPacket s p
      let r := answerOf s p 3 u.2
      drainReorder n k (modNet (sendPacket u.1 r) fun m =>
        { m with reorder := m.reorder.erase p, expected := tblSet m.expected k (e + 1),
                 answered := (streamKey p, pkSeq p, r) :: m.answered })

/-- R358, R371: a sequenced packet at its target: the next one is applied, an earlier one is answered again with the kept response, a
later one is held, or refused with NACK when the target's reorder buffer, which all its sources share, is full. A Stair packet is
never refused (R356). -/
def sequenced (s : State) (p : Packet) : State :=
  let k := streamKey p
  let e := tblGet (0 : BitVec 16) s.net.expected k
  if pkSeq p = e then
    let u := modNet s fun n => { n with reorder := n.reorder ++ [p] }
    drainReorder u.net.reorder.length k u
  else if 2 ^ 15 ≤ (pkSeq p - e).toNat then
    match ((s.net.answered.filter fun q => q.1 == k).take 1024).find? fun q => q.2.1 == pkSeq p with
    | some q => sendPacket s q.2.2
    | none => s
  else if s.net.reorder.any fun q => streamKey q == k && pkSeq q == pkSeq p then s
  else if 4096 ≤ (s.net.reorder.filter fun q => pkDdie q == pkDdie p).length ∧ pkEsc p = false then sendPacket s (answerOf s p 4 [])
  else modNet s fun n => { n with reorder := n.reorder ++ [p] }

/-- R353, R358: a packet for this package reaches its die, its source or the token's place. -/
def execPacketDeliver (index : Nat) (s : State) : Res :=
  match s.net.waiting[index]? with
  | none => .next s
  | some x =>
    let p := x.packet
    let u := modNet s fun n => { n with waiting := n.waiting.eraseIdx index }
    if pkClass p = 7 then .next (tokenArrives u (BitVec.ofNat 16 (pkAddr p)))
    else if pkDpkg p ≠ pkgNumber s then .next s
    else if pkClass p = 3 then .next (ackFrom u (pkSid p) (pkSource p) (pkSeq p))
    else if pkClass p = 4 then .next (nackFrom u (pkSid p) (pkSource p) (pkSeq p))
    else .next (sequenced u p)

end Sys2Proof.Machine
end

