-- ==== Sys2Proof/Machine/Float.lean ====
section
/-!
DEFINITION. Scalar floating point (R51, R89-R92).
-/

namespace Sys2Proof.Machine

/-- R89: the format of a `.s` or `.d` form. -/
def fpFmt (d : BitVec 1) : FFmt := if d = 1 then fFP64 else fFP32

/-- R89: an operand: bits [31:0] of a `.s` form. -/
def fpReg (s : State) (d : BitVec 1) (r : BitVec 5) : Nat := (reg s s.cur r).toNat % 2 ^ fWidth (fpFmt d)

/-- A result with its flags is written. -/
def fpDone (s : State) (a : BitVec 5) (r : Fl Nat) : Res := .next (finishFl s s.cur a (BitVec.ofNat 64 r.1, r.2))

/-- R89: sA := f(sB, sC). -/
def fpRR (s : State) (a b c : BitVec 5) (d : BitVec 1) (f : FFmt → Nat → Nat → Fl Nat) : Res :=
  fpDone s a (f (fpFmt d) (fpReg s d b) (fpReg s d c))

/-- R91: sA := 1 when the relation holds, else 0. -/
def fpCmp (s : State) (a b c : BitVec 5) (d : BitVec 1) (f : FFmt → Nat → Nat → Fl Bool) : Res :=
  match f (fpFmt d) (fpReg s d b) (fpReg s d c) with
  | (r, fl) => fpDone s a (if r then 1 else 0, fl)

def execFadd (a b c : BitVec 5) (d : BitVec 1) (s : State) : Res := fpRR s a b c d fpAdd
def execFsub (a b c : BitVec 5) (d : BitVec 1) (s : State) : Res := fpRR s a b c d fpSub
def execFmul (a b c : BitVec 5) (d : BitVec 1) (s : State) : Res := fpRR s a b c d fpMul
def execFdiv (a b c : BitVec 5) (d : BitVec 1) (s : State) : Res := fpRR s a b c d fpDiv
def execFsqrt (a b : BitVec 5) (d : BitVec 1) (s : State) : Res := fpDone s a (fpSqrt (fpFmt d) (fpReg s d b))

/-- R90: sA := sB x sC + sA, rounded once. -/
def execFma (a b c : BitVec 5) (d : BitVec 1) (s : State) : Res :=
  fpDone s a (fpFma (fpFmt d) (fpReg s d b) (fpReg s d c) (fpReg s d a))

def execFmin (a b c : BitVec 5) (d : BitVec 1) (s : State) : Res := fpRR s a b c d (fpPick true)
def execFmax (a b c : BitVec 5) (d : BitVec 1) (s : State) : Res := fpRR s a b c d (fpPick false)
def execFeq (a b c : BitVec 5) (d : BitVec 1) (s : State) : Res := fpCmp s a b c d fpEq
def execFlt (a b c : BitVec 5) (d : BitVec 1) (s : State) : Res := fpCmp s a b c d fpLt
def execFle (a b c : BitVec 5) (d : BitVec 1) (s : State) : Res := fpCmp s a b c d fpLe

/-- R91: the class word; no flag. -/
def execFclass (a b : BitVec 5) (d : BitVec 1) (s : State) : Res := fpDone s a (fpClass (fpFmt d) (fpReg s d b), 0)

/-- R92: a float operand of a conversion. -/
def cvtFrom (s : State) (d : BitVec 1) (b : BitVec 5) : Val := readFloat (fpFmt d) (fpReg s d b)

/-- R92: a float converted to an integer range, two's complement. -/
def cvtInt (s : State) (a b : BitVec 5) (d : BitVec 1) (bounds : Int × Int) : Res :=
  match toInt bounds.1 bounds.2 (cvtFrom s d b) with
  | (x, fl) => fpDone s a (wrapInt 64 x, fl)

/-- R92: a signed or unsigned register as an exact value. -/
def cvtOfInt (s : State) (sgn : Bool) (b : BitVec 5) : Val :=
  if sgn then intVal (reg s s.cur b).toInt else intVal (reg s s.cur b).toNat

def execFcvtDS (a b : BitVec 5) (s : State) : Res := fpDone s a (toFloat fFP64 (cvtFrom s 0 b))
def execFcvtSD (a b : BitVec 5) (s : State) : Res := fpDone s a (toFloat fFP32 (cvtFrom s 1 b))
def execFcvtSL (a b : BitVec 5) (s : State) : Res := fpDone s a (toFloat fFP32 (cvtOfInt s true b))
def execFcvtDL (a b : BitVec 5) (s : State) : Res := fpDone s a (toFloat fFP64 (cvtOfInt s true b))
def execFcvtLS (a b : BitVec 5) (s : State) : Res := cvtInt s a b 0 (sBounds 64)
def execFcvtLD (a b : BitVec 5) (s : State) : Res := cvtInt s a b 1 (sBounds 64)
def execFcvtSLu (a b : BitVec 5) (s : State) : Res := fpDone s a (toFloat fFP32 (cvtOfInt s false b))
def execFcvtDLu (a b : BitVec 5) (s : State) : Res := fpDone s a (toFloat fFP64 (cvtOfInt s false b))
def execFcvtLuS (a b : BitVec 5) (s : State) : Res := cvtInt s a b 0 (uBounds 64)
def execFcvtLuD (a b : BitVec 5) (s : State) : Res := cvtInt s a b 1 (uBounds 64)

end Sys2Proof.Machine
end

