-- ==== Sys2Proof/Machine/LoadStore.lean ====
section
/-!
DEFINITION. Scalar loads and stores, PREF, and the TCM (R50, R85-R88).
-/

namespace Sys2Proof.Machine

/-- R85: the effective address. -/
def addrOf (s : State) (b : BitVec 5) (i : BitVec 13) : Word := reg s s.cur b + sext i

/-- R85: a load of `n` bytes, extended by `f`. -/
def loadOp (s : State) (a b : BitVec 5) (i : BitVec 13) (n : Nat) (f : Nat → Word) : Res :=
  let p := addrOf s b i
  .next (scalarThen s.cur p (scalarRead s s.cur p n) fun v u => finishReg u s.cur a (f v))

/-- R85: a store of the low `n` bytes of sA. -/
def storeOp (s : State) (a b : BitVec 5) (i : BitVec 13) (n : Nat) : Res :=
  let p := addrOf s b i
  .next (scalarThen s.cur p (scalarWrite s s.cur p n ((reg s s.cur a).toNat % 2 ^ (8 * n))) fun _ u => finish u s.cur)

/-- `n` bytes sign-extended. -/
def signBytes (n v : Nat) : Word := wordOfInt (signed (8 * n) v)

def execLdb (a b : BitVec 5) (i : BitVec 13) (s : State) : Res := loadOp s a b i 1 (signBytes 1)
def execLdh (a b : BitVec 5) (i : BitVec 13) (s : State) : Res := loadOp s a b i 2 (signBytes 2)
def execLdw (a b : BitVec 5) (i : BitVec 13) (s : State) : Res := loadOp s a b i 4 (signBytes 4)
def execLdd (a b : BitVec 5) (i : BitVec 13) (s : State) : Res := loadOp s a b i 8 (BitVec.ofNat 64)
def execLdbu (a b : BitVec 5) (i : BitVec 13) (s : State) : Res := loadOp s a b i 1 (BitVec.ofNat 64)
def execLdhu (a b : BitVec 5) (i : BitVec 13) (s : State) : Res := loadOp s a b i 2 (BitVec.ofNat 64)
def execLdwu (a b : BitVec 5) (i : BitVec 13) (s : State) : Res := loadOp s a b i 4 (BitVec.ofNat 64)
def execStb (a b : BitVec 5) (i : BitVec 13) (s : State) : Res := storeOp s a b i 1
def execSth (a b : BitVec 5) (i : BitVec 13) (s : State) : Res := storeOp s a b i 2
def execStw (a b : BitVec 5) (i : BitVec 13) (s : State) : Res := storeOp s a b i 4
def execStd (a b : BitVec 5) (i : BitVec 13) (s : State) : Res := storeOp s a b i 8

/-- R87: a hint; no architectural effect other than timing. -/
def execPref (_h : BitVec 1) (_b : BitVec 5) (_i : BitVec 13) (s : State) : Res := .next (finish s s.cur)

/-- R88: the physical TCM address of an offset, for a slot and privilege. -/
def tcmAddr (slot : Nat) (sup : Bool) (t : Int) : Option Nat :=
  if 0 ≤ t ∧ t < 0x3C000 then some t.toNat
  else if -4096 ≤ t ∧ t < 0 then some (0x3C000 + 0x1000 * slot + (t + 4096).toNat)
  else if 0x3C000 ≤ t ∧ t < 0x40000 ∧ sup then some t.toNat
  else none

/-- R88, R205, R207: a TCM access at an offset, or its trap. It is an access of stream SC: it waits behind an SBAR and for the
stream's earlier accesses to other dies. -/
def tcmThen (s : State) (t : Word) (k : Nat → State) : State :=
  if t.toNat % 8 ≠ 0 then trapHere s s.cur cMISALIGN t
  else
    match tcmAddr (slotIdx s.cur) (stSuper (strandOf s s.cur)) t.toInt with
    | some p => if streamHeld s s.cur 0 [none] then blockOn s s.cur (.remote 0) else k p
    | none => trapHere s s.cur cACCESS t

/-- R88: eight bytes of the core's TCM. -/
def tcmRead (s : State) (p : Nat) : Word := BitVec.ofNat 64 (cellsRead (coreOf s (coreIdx s.cur)).tcm p 8)

/-- R88: eight bytes written to the core's TCM. -/
def tcmWrite (s : State) (p : Nat) (v : Word) : State :=
  let k := coreOf s (coreIdx s.cur)
  setCore s (coreIdx s.cur) { k with tcm := cellsWrite k.tcm p 8 v.toNat }

def execLdt (a b : BitVec 5) (i : BitVec 13) (s : State) : Res :=
  .next (tcmThen s (addrOf s b i) fun p => finishReg s s.cur a (tcmRead s p))

def execStt (a b : BitVec 5) (i : BitVec 13) (s : State) : Res :=
  .next (tcmThen s (addrOf s b i) fun p => finish (tcmWrite s p (reg s s.cur a)) s.cur)

end Sys2Proof.Machine
end

