-- ==== Sys2Proof/Machine/Park.lean ====
section
/-!
DEFINITION. Parked strands that test their condition again, polled HOST words and host completions (R79, R97, R223, R224, R272).
-/

namespace Sys2Proof.Machine

/-- A parked instruction of the strand `cur` runs again; a WAIT that is woken ends (R97). -/
def retest (b : Block) (s : State) : Res :=
  match b with
  | .semwait a c => execSemwait a c s
  | .barwait a c => execBarwait a c s
  | .vwaitm c a i msk mp g z o => execVwaitm c a i msk mp g z o s
  | .wait => .next (finish s s.cur)
  | .uwait a => execUwait a s
  | .collw a c => execCollw a c s
  | .endWait => execEndStrand s
  | _ => .next s

/-- R79: a parked instruction's condition is tested again: it completes, or parks again. A condition that lies on a HOST page needs the
host's answer (R223), and stays untested without it; so does one that traps behind older entries of the VIQ (R101). -/
def execParkWake (id : Nat) (s : State) : Res :=
  let t := strandOf s id
  match t.slot, t.blocked with
  | .park, some b =>
    match retest b (modStrand { s with cur := id } id fun x => { x with slot := .run }) with
    | .next u =>
      let v := { u with cur := s.cur }
      let x := strandOf v id
      if x.blocked = some .hostPage ∨ trapsEarly t x then .next s
      else if x.slot = .park then .next (setStrand v id { x with hostAnswer := none })
      else .next v
    | r => r
  | _, _ => .next s

/-! ## HOST pages -/

/-- R223: a parked VWAITM is tested again with the host's answer. -/
def pollStrand (id : Nat) (s : State) : Res :=
  match (strandOf s id).slot, (strandOf s id).blocked with
  | .park, some (.vwaitm ..) => execParkWake id (modStrand s id fun x => { x with hostAnswer := some true })
  | _, _ => .next s

/-- States handed on from one strand to the next. -/
def pollAll : List Nat → State → Res
  | [], s => .next s
  | i :: r, s =>
    match pollStrand i s with
    | .next u => pollAll r u
    | x => x

/-- R272: the counters of waiting records that lie on HOST pages are read again, from the last entry down, since an entry that becomes
eligible leaves the pool. -/
def pollCounters (die : Nat) : Nat → State → State
  | 0, s => s
  | n + 1, s =>
    match (dieOf s die).waitPool[n]? with
    | some w => pollCounters die n (if w.counter.kind = 2 then readCounter s die n else s)
    | none => pollCounters die n s

/-- R223, R272: the watched words and counters of a die that lie on HOST pages are polled. -/
def execHostPoll (die : Nat) (s : State) : Res :=
  let u := pollCounters die (dieOf s die).waitPool.length s
  pollAll (busyStrands u fun i t => dieIdx i == die && t.slot == .park) u

/-- R224: the host's completion for the access that a strand waits for: the access goes on, or takes ACCESS. -/
def execHostCompletion (id : Nat) (ok : Bool) (s : State) : Res :=
  let t := strandOf s id
  match t.slot, t.blocked with
  | .run, some .hostPage | .save, some .hostPage => .next (modStrand s id fun x => { x with hostAnswer := some ok })
  | .park, some (.vwaitm ..) => execParkWake id (modStrand s id fun x => { x with hostAnswer := some ok })
  | _, _ => .next (modArc s id fun a => { a with waits := a.waits.map fun w => if w = .host none then .host (some ok) else w })

end Sys2Proof.Machine
end

