-- ==== Sys2Proof/Machine/Scalar.lean ====
section
/-!
DEFINITION. Scalar integer instructions (R48, R49, R82-R84) and NOP (R41).
-/

namespace Sys2Proof.Machine

/-- R82: sA := f(sB, sC). -/
def aluRR (s : State) (a b c : BitVec 5) (f : Word → Word → Word) : Res :=
  .next (finishReg s s.cur a (f (reg s s.cur b) (reg s s.cur c)))

/-- R82: sA := f(sB). -/
def aluR (s : State) (a b : BitVec 5) (f : Word → Word) : Res := .next (finishReg s s.cur a (f (reg s s.cur b)))

/-- The shift distance of a word: bits [5:0]. -/
def shiftOf (w : Word) : Nat := w.toNat % 64

def execAdd (a b c : BitVec 5) (s : State) : Res := aluRR s a b c fun x y => x + y
def execSub (a b c : BitVec 5) (s : State) : Res := aluRR s a b c fun x y => x - y
def execAnd (a b c : BitVec 5) (s : State) : Res := aluRR s a b c fun x y => x &&& y
def execOr (a b c : BitVec 5) (s : State) : Res := aluRR s a b c fun x y => x ||| y
def execXor (a b c : BitVec 5) (s : State) : Res := aluRR s a b c fun x y => x ^^^ y
def execSll (a b c : BitVec 5) (s : State) : Res := aluRR s a b c fun x y => x <<< shiftOf y
def execSrl (a b c : BitVec 5) (s : State) : Res := aluRR s a b c fun x y => x >>> shiftOf y
def execSra (a b c : BitVec 5) (s : State) : Res := aluRR s a b c fun x y => x.sshiftRight (shiftOf y)
def execSlt (a b c : BitVec 5) (s : State) : Res := aluRR s a b c fun x y => wordOfBool (x.slt y)
def execSltu (a b c : BitVec 5) (s : State) : Res := aluRR s a b c fun x y => wordOfBool (x.ult y)
def execMin (a b c : BitVec 5) (s : State) : Res := aluRR s a b c fun x y => if x.slt y then x else y
def execMax (a b c : BitVec 5) (s : State) : Res := aluRR s a b c fun x y => if x.slt y then y else x
def execMinu (a b c : BitVec 5) (s : State) : Res := aluRR s a b c fun x y => if x.ult y then x else y
def execMaxu (a b c : BitVec 5) (s : State) : Res := aluRR s a b c fun x y => if x.ult y then y else x
def execMul (a b c : BitVec 5) (s : State) : Res := aluRR s a b c fun x y => x * y

/-- R82: bits [127:64] of the exact signed product. -/
def execMulh (a b c : BitVec 5) (s : State) : Res :=
  aluRR s a b c fun x y => wordOfInt (x.toInt * y.toInt / 2 ^ 64)

/-- R82: bits [127:64] of the exact unsigned product. -/
def execMulhu (a b c : BitVec 5) (s : State) : Res :=
  aluRR s a b c fun x y => BitVec.ofNat 64 (x.toNat * y.toNat / 2 ^ 64)

/-- R83. -/
def execDiv (a b c : BitVec 5) (s : State) : Res := aluRR s a b c fun x y => wordOfInt (quotS 64 x.toInt y.toInt)
/-- R83. -/
def execDivu (a b c : BitVec 5) (s : State) : Res :=
  aluRR s a b c fun x y => BitVec.ofNat 64 (quotU 64 x.toNat y.toNat)
/-- R83. -/
def execRem (a b c : BitVec 5) (s : State) : Res := aluRR s a b c fun x y => wordOfInt (remS x.toInt y.toInt)
/-- R83. -/
def execRemu (a b c : BitVec 5) (s : State) : Res :=
  aluRR s a b c fun x y => BitVec.ofNat 64 (remU x.toNat y.toNat)

def execClz (a b : BitVec 5) (s : State) : Res := aluR s a b fun x => BitVec.ofNat 64 (clzN 64 x.toNat)
def execCtz (a b : BitVec 5) (s : State) : Res := aluR s a b fun x => BitVec.ofNat 64 (ctzN 64 x.toNat)
def execPopc (a b : BitVec 5) (s : State) : Res := aluR s a b fun x => BitVec.ofNat 64 (popN 64 x.toNat)
def execSextw (a b : BitVec 5) (s : State) : Res := aluR s a b fun x => (x.setWidth 32).signExtend 64
def execZextw (a b : BitVec 5) (s : State) : Res := aluR s a b fun x => (x.setWidth 32).zeroExtend 64

/-- R48: sB + (sC << k). -/
def execAddsc (a b c : BitVec 5) (k : BitVec 2) (s : State) : Res := aluRR s a b c fun x y => x + (y <<< k.toNat)

def execAddi (a b : BitVec 5) (i : BitVec 16) (s : State) : Res := aluR s a b fun x => x + sext i
def execAndi (a b : BitVec 5) (i : BitVec 16) (s : State) : Res := aluR s a b fun x => x &&& zext i
def execOri (a b : BitVec 5) (i : BitVec 16) (s : State) : Res := aluR s a b fun x => x ||| zext i
def execXori (a b : BitVec 5) (i : BitVec 16) (s : State) : Res := aluR s a b fun x => x ^^^ zext i
def execSlti (a b : BitVec 5) (k : BitVec 11) (s : State) : Res := aluR s a b fun x => wordOfBool (x.slt (sext k))
/-- R49: against the sign-extended value taken as unsigned. -/
def execSltiu (a b : BitVec 5) (k : BitVec 11) (s : State) : Res := aluR s a b fun x => wordOfBool (x.ult (sext k))
def execSlli (a b : BitVec 5) (k : BitVec 6) (s : State) : Res := aluR s a b fun x => x <<< k.toNat
def execSrli (a b : BitVec 5) (k : BitVec 6) (s : State) : Res := aluR s a b fun x => x >>> k.toNat
def execSrai (a b : BitVec 5) (k : BitVec 6) (s : State) : Res := aluR s a b fun x => x.sshiftRight k.toNat

/-- R49: halfword h of sA replaced. -/
def execLih (a : BitVec 5) (h : BitVec 2) (i : BitVec 16) (s : State) : Res :=
  aluR s a a fun x => (x &&& ~~~((0xFFFF : Word) <<< (16 * h.toNat))) ||| (zext i <<< (16 * h.toNat))

/-- R49: halfword h in a word of zeros. -/
def execLihZ (a : BitVec 5) (h : BitVec 2) (i : BitVec 16) (s : State) : Res :=
  aluR s a a fun _ => zext i <<< (16 * h.toNat)

/-- R84: 2^len - 1, for the field len - 1. -/
def fieldMask (l : BitVec 6) : Word := BitVec.ofNat 64 (2 ^ (l.toNat + 1) - 1)

/-- R84. -/
def execBext (a b : BitVec 5) (p l : BitVec 6) (s : State) : Res := aluR s a b fun x => (x >>> p.toNat) &&& fieldMask l

/-- R84. -/
def execBins (a b : BitVec 5) (p l : BitVec 6) (s : State) : Res :=
  aluRR s a a b fun x y => (x &&& ~~~(fieldMask l <<< p.toNat)) ||| ((y &&& fieldMask l) <<< p.toNat)

/-- R41: no effect apart from advancing the program counter. -/
def execNop (s : State) : Res := .next (finish s s.cur)

end Sys2Proof.Machine
end

