-- ==== Sys2Proof/Machine/Dispatch.lean ====
section
/-!
DEFINITION. The dispatch of an instruction or event to its meaning: one arm per constructor of Instr.
-/

namespace Sys2Proof.Machine

/-- One instruction of the strand whose turn it is, or one event of another agent. -/
def exec (i : Instr) (s : State) : Host.Outcome State Fault Refusal :=
  match i with
  | .guard w => Sys2Proof.Machine.execGuard w s
  | .illegalInstruction w => Sys2Proof.Machine.execIllegalInstruction w s
  | .resultQueueReturn id => Sys2Proof.Machine.execResultQueueReturn id s
  | .endDrain id => Sys2Proof.Machine.execEndDrain id s
  | .contextSaveComplete id => Sys2Proof.Machine.execContextSaveComplete id s
  | .parkWake id => Sys2Proof.Machine.execParkWake id s
  | .add a b c => Sys2Proof.Machine.execAdd a b c s
  | .sub a b c => Sys2Proof.Machine.execSub a b c s
  | .and a b c => Sys2Proof.Machine.execAnd a b c s
  | .or a b c => Sys2Proof.Machine.execOr a b c s
  | .xor a b c => Sys2Proof.Machine.execXor a b c s
  | .sll a b c => Sys2Proof.Machine.execSll a b c s
  | .srl a b c => Sys2Proof.Machine.execSrl a b c s
  | .sra a b c => Sys2Proof.Machine.execSra a b c s
  | .slt a b c => Sys2Proof.Machine.execSlt a b c s
  | .sltu a b c => Sys2Proof.Machine.execSltu a b c s
  | .min a b c => Sys2Proof.Machine.execMin a b c s
  | .max a b c => Sys2Proof.Machine.execMax a b c s
  | .minu a b c => Sys2Proof.Machine.execMinu a b c s
  | .maxu a b c => Sys2Proof.Machine.execMaxu a b c s
  | .mul a b c => Sys2Proof.Machine.execMul a b c s
  | .mulh a b c => Sys2Proof.Machine.execMulh a b c s
  | .mulhu a b c => Sys2Proof.Machine.execMulhu a b c s
  | .div a b c => Sys2Proof.Machine.execDiv a b c s
  | .divu a b c => Sys2Proof.Machine.execDivu a b c s
  | .rem a b c => Sys2Proof.Machine.execRem a b c s
  | .remu a b c => Sys2Proof.Machine.execRemu a b c s
  | .clz a b => Sys2Proof.Machine.execClz a b s
  | .ctz a b => Sys2Proof.Machine.execCtz a b s
  | .popc a b => Sys2Proof.Machine.execPopc a b s
  | .sextw a b => Sys2Proof.Machine.execSextw a b s
  | .zextw a b => Sys2Proof.Machine.execZextw a b s
  | .addsc a b c k => Sys2Proof.Machine.execAddsc a b c k s
  | .addi a b im => Sys2Proof.Machine.execAddi a b im s
  | .andi a b im => Sys2Proof.Machine.execAndi a b im s
  | .ori a b im => Sys2Proof.Machine.execOri a b im s
  | .xori a b im => Sys2Proof.Machine.execXori a b im s
  | .slti a b k => Sys2Proof.Machine.execSlti a b k s
  | .sltiu a b k => Sys2Proof.Machine.execSltiu a b k s
  | .slli a b k => Sys2Proof.Machine.execSlli a b k s
  | .srli a b k => Sys2Proof.Machine.execSrli a b k s
  | .srai a b k => Sys2Proof.Machine.execSrai a b k s
  | .lih a h im => Sys2Proof.Machine.execLih a h im s
  | .lihZ a h im => Sys2Proof.Machine.execLihZ a h im s
  | .bext a b p l => Sys2Proof.Machine.execBext a b p l s
  | .bins a b p l => Sys2Proof.Machine.execBins a b p l s
  | .ldb a b im => Sys2Proof.Machine.execLdb a b im s
  | .ldh a b im => Sys2Proof.Machine.execLdh a b im s
  | .ldw a b im => Sys2Proof.Machine.execLdw a b im s
  | .ldd a b im => Sys2Proof.Machine.execLdd a b im s
  | .ldbu a b im => Sys2Proof.Machine.execLdbu a b im s
  | .ldhu a b im => Sys2Proof.Machine.execLdhu a b im s
  | .ldwu a b im => Sys2Proof.Machine.execLdwu a b im s
  | .pref h b im => Sys2Proof.Machine.execPref h b im s
  | .stb a b im => Sys2Proof.Machine.execStb a b im s
  | .sth a b im => Sys2Proof.Machine.execSth a b im s
  | .stw a b im => Sys2Proof.Machine.execStw a b im s
  | .std a b im => Sys2Proof.Machine.execStd a b im s
  | .ldt a b im => Sys2Proof.Machine.execLdt a b im s
  | .stt a b im => Sys2Proof.Machine.execStt a b im s
  | .fadd a b c d => Sys2Proof.Machine.execFadd a b c d s
  | .fsub a b c d => Sys2Proof.Machine.execFsub a b c d s
  | .fmul a b c d => Sys2Proof.Machine.execFmul a b c d s
  | .fdiv a b c d => Sys2Proof.Machine.execFdiv a b c d s
  | .fsqrt a b d => Sys2Proof.Machine.execFsqrt a b d s
  | .fma a b c d => Sys2Proof.Machine.execFma a b c d s
  | .fmin a b c d => Sys2Proof.Machine.execFmin a b c d s
  | .fmax a b c d => Sys2Proof.Machine.execFmax a b c d s
  | .feq a b c d => Sys2Proof.Machine.execFeq a b c d s
  | .flt a b c d => Sys2Proof.Machine.execFlt a b c d s
  | .fle a b c d => Sys2Proof.Machine.execFle a b c d s
  | .fclass a b d => Sys2Proof.Machine.execFclass a b d s
  | .fcvtDS a b => Sys2Proof.Machine.execFcvtDS a b s
  | .fcvtSD a b => Sys2Proof.Machine.execFcvtSD a b s
  | .fcvtSL a b => Sys2Proof.Machine.execFcvtSL a b s
  | .fcvtDL a b => Sys2Proof.Machine.execFcvtDL a b s
  | .fcvtLS a b => Sys2Proof.Machine.execFcvtLS a b s
  | .fcvtLD a b => Sys2Proof.Machine.execFcvtLD a b s
  | .fcvtSLu a b => Sys2Proof.Machine.execFcvtSLu a b s
  | .fcvtDLu a b => Sys2Proof.Machine.execFcvtDLu a b s
  | .fcvtLuS a b => Sys2Proof.Machine.execFcvtLuS a b s
  | .fcvtLuD a b => Sys2Proof.Machine.execFcvtLuD a b s
  | .beq a b o => Sys2Proof.Machine.execBeq a b o s
  | .bne a b o => Sys2Proof.Machine.execBne a b o s
  | .blt a b o => Sys2Proof.Machine.execBlt a b o s
  | .bge a b o => Sys2Proof.Machine.execBge a b o s
  | .bltu a b o => Sys2Proof.Machine.execBltu a b o s
  | .bgeu a b o => Sys2Proof.Machine.execBgeu a b o s
  | .beng e k b o => Sys2Proof.Machine.execBeng e k b o s
  | .jal o => Sys2Proof.Machine.execJal o s
  | .jalr a b im => Sys2Proof.Machine.execJalr a b im s
  | .svc k => Sys2Proof.Machine.execSvc k s
  | .brk k => Sys2Proof.Machine.execBrk k s
  | .getc a k => Sys2Proof.Machine.execGetc a k s
  | .setc b k => Sys2Proof.Machine.execSetc b k s
  | .setcStatus b => Sys2Proof.Machine.execSetcStatus b s
  | .setcSflags b => Sys2Proof.Machine.execSetcSflags b s
  | .setcVcfg b => Sys2Proof.Machine.execSetcVcfg b s
  | .setcMxcfg b => Sys2Proof.Machine.execSetcMxcfg b s
  | .setcVresume b => Sys2Proof.Machine.execSetcVresume b s
  | .setcChainsrc b => Sys2Proof.Machine.execSetcChainsrc b s
  | .setcRrate b n => Sys2Proof.Machine.execSetcRrate b n s
  | .vacq k => Sys2Proof.Machine.execVacq k s
  | .sbarAcquire w h k => Sys2Proof.Machine.execSbarAcquire w h k s
  | .sbarRelease w h k => Sys2Proof.Machine.execSbarRelease w h k s
  | .sbarFull w h k => Sys2Proof.Machine.execSbarFull w h k s
  | .ldl a b q z => Sys2Proof.Machine.execLdl a b q z s
  | .stc a b c r z => Sys2Proof.Machine.execStc a b c r z s
  | .amoAdd a b c q z => Sys2Proof.Machine.execAmoAdd a b c q z s
  | .amoMin a b c q z => Sys2Proof.Machine.execAmoMin a b c q z s
  | .amoMax a b c q z => Sys2Proof.Machine.execAmoMax a b c q z s
  | .amoMinu a b c q z => Sys2Proof.Machine.execAmoMinu a b c q z s
  | .amoMaxu a b c q z => Sys2Proof.Machine.execAmoMaxu a b c q z s
  | .amoAnd a b c q z => Sys2Proof.Machine.execAmoAnd a b c q z s
  | .amoOr a b c q z => Sys2Proof.Machine.execAmoOr a b c q z s
  | .amoXor a b c q z => Sys2Proof.Machine.execAmoXor a b c q z s
  | .amoSwap a b c q z => Sys2Proof.Machine.execAmoSwap a b c q z s
  | .amoCas a b c q z => Sys2Proof.Machine.execAmoCas a b c q z s
  | .vsetcfg a b => Sys2Proof.Machine.execVsetcfg a b s
  | .vbegin a b => Sys2Proof.Machine.execVbegin a b s
  | .vnext a o => Sys2Proof.Machine.execVnext a o s
  | .vadd d a b msk mp => Sys2Proof.Machine.execVadd d a b msk mp s
  | .vaddS d a b msk mp => Sys2Proof.Machine.execVaddS d a b msk mp s
  | .vsub d a b msk mp => Sys2Proof.Machine.execVsub d a b msk mp s
  | .vsubS d a b msk mp => Sys2Proof.Machine.execVsubS d a b msk mp s
  | .vrsub d a b msk mp => Sys2Proof.Machine.execVrsub d a b msk mp s
  | .vrsubS d a b msk mp => Sys2Proof.Machine.execVrsubS d a b msk mp s
  | .vmul d a b msk mp => Sys2Proof.Machine.execVmul d a b msk mp s
  | .vmulS d a b msk mp => Sys2Proof.Machine.execVmulS d a b msk mp s
  | .vmulh d a b msk mp => Sys2Proof.Machine.execVmulh d a b msk mp s
  | .vmulhS d a b msk mp => Sys2Proof.Machine.execVmulhS d a b msk mp s
  | .vmulhu d a b msk mp => Sys2Proof.Machine.execVmulhu d a b msk mp s
  | .vmulhuS d a b msk mp => Sys2Proof.Machine.execVmulhuS d a b msk mp s
  | .vdiv d a b msk mp => Sys2Proof.Machine.execVdiv d a b msk mp s
  | .vdivS d a b msk mp => Sys2Proof.Machine.execVdivS d a b msk mp s
  | .vdivu d a b msk mp => Sys2Proof.Machine.execVdivu d a b msk mp s
  | .vdivuS d a b msk mp => Sys2Proof.Machine.execVdivuS d a b msk mp s
  | .vrem d a b msk mp => Sys2Proof.Machine.execVrem d a b msk mp s
  | .vremS d a b msk mp => Sys2Proof.Machine.execVremS d a b msk mp s
  | .vremu d a b msk mp => Sys2Proof.Machine.execVremu d a b msk mp s
  | .vremuS d a b msk mp => Sys2Proof.Machine.execVremuS d a b msk mp s
  | .vand d a b msk mp => Sys2Proof.Machine.execVand d a b msk mp s
  | .vandS d a b msk mp => Sys2Proof.Machine.execVandS d a b msk mp s
  | .vor d a b msk mp => Sys2Proof.Machine.execVor d a b msk mp s
  | .vorS d a b msk mp => Sys2Proof.Machine.execVorS d a b msk mp s
  | .vxor d a b msk mp => Sys2Proof.Machine.execVxor d a b msk mp s
  | .vxorS d a b msk mp => Sys2Proof.Machine.execVxorS d a b msk mp s
  | .vnot d a msk mp => Sys2Proof.Machine.execVnot d a msk mp s
  | .vsll d a b msk mp => Sys2Proof.Machine.execVsll d a b msk mp s
  | .vsllS d a b msk mp => Sys2Proof.Machine.execVsllS d a b msk mp s
  | .vsrl d a b msk mp => Sys2Proof.Machine.execVsrl d a b msk mp s
  | .vsrlS d a b msk mp => Sys2Proof.Machine.execVsrlS d a b msk mp s
  | .vsra d a b msk mp => Sys2Proof.Machine.execVsra d a b msk mp s
  | .vsraS d a b msk mp => Sys2Proof.Machine.execVsraS d a b msk mp s
  | .vmin d a b msk mp => Sys2Proof.Machine.execVmin d a b msk mp s
  | .vminS d a b msk mp => Sys2Proof.Machine.execVminS d a b msk mp s
  | .vmax d a b msk mp => Sys2Proof.Machine.execVmax d a b msk mp s
  | .vmaxS d a b msk mp => Sys2Proof.Machine.execVmaxS d a b msk mp s
  | .vminu d a b msk mp => Sys2Proof.Machine.execVminu d a b msk mp s
  | .vminuS d a b msk mp => Sys2Proof.Machine.execVminuS d a b msk mp s
  | .vmaxu d a b msk mp => Sys2Proof.Machine.execVmaxu d a b msk mp s
  | .vmaxuS d a b msk mp => Sys2Proof.Machine.execVmaxuS d a b msk mp s
  | .vneg d a msk mp => Sys2Proof.Machine.execVneg d a msk mp s
  | .vsadd d a b msk mp => Sys2Proof.Machine.execVsadd d a b msk mp s
  | .vsaddS d a b msk mp => Sys2Proof.Machine.execVsaddS d a b msk mp s
  | .vssub d a b msk mp => Sys2Proof.Machine.execVssub d a b msk mp s
  | .vssubS d a b msk mp => Sys2Proof.Machine.execVssubS d a b msk mp s
  | .vsaddu d a b msk mp => Sys2Proof.Machine.execVsaddu d a b msk mp s
  | .vsadduS d a b msk mp => Sys2Proof.Machine.execVsadduS d a b msk mp s
  | .vssubu d a b msk mp => Sys2Proof.Machine.execVssubu d a b msk mp s
  | .vssubuS d a b msk mp => Sys2Proof.Machine.execVssubuS d a b msk mp s
  | .vmadd d a b msk mp => Sys2Proof.Machine.execVmadd d a b msk mp s
  | .vmaddS d a b msk mp => Sys2Proof.Machine.execVmaddS d a b msk mp s
  | .vclz d a msk mp => Sys2Proof.Machine.execVclz d a msk mp s
  | .vpopc d a msk mp => Sys2Proof.Machine.execVpopc d a msk mp s
  | .vwadd d a b msk mp => Sys2Proof.Machine.execVwadd d a b msk mp s
  | .vwaddS d a b msk mp => Sys2Proof.Machine.execVwaddS d a b msk mp s
  | .vwmul d a b msk mp => Sys2Proof.Machine.execVwmul d a b msk mp s
  | .vwmulS d a b msk mp => Sys2Proof.Machine.execVwmulS d a b msk mp s
  | .vnsrl d a b msk mp => Sys2Proof.Machine.execVnsrl d a b msk mp s
  | .vnsrlS d a b msk mp => Sys2Proof.Machine.execVnsrlS d a b msk mp s
  | .vnclip d a b msk mp => Sys2Proof.Machine.execVnclip d a b msk mp s
  | .vnclipS d a b msk mp => Sys2Proof.Machine.execVnclipS d a b msk mp s
  | .vfieldS d a b msk mp => Sys2Proof.Machine.execVfieldS d a b msk mp s
  | .vfadd d a b msk mp => Sys2Proof.Machine.execVfadd d a b msk mp s
  | .vfaddS d a b msk mp => Sys2Proof.Machine.execVfaddS d a b msk mp s
  | .vfsub d a b msk mp => Sys2Proof.Machine.execVfsub d a b msk mp s
  | .vfsubS d a b msk mp => Sys2Proof.Machine.execVfsubS d a b msk mp s
  | .vfmul d a b msk mp => Sys2Proof.Machine.execVfmul d a b msk mp s
  | .vfmulS d a b msk mp => Sys2Proof.Machine.execVfmulS d a b msk mp s
  | .vfdiv d a b msk mp => Sys2Proof.Machine.execVfdiv d a b msk mp s
  | .vfdivS d a b msk mp => Sys2Proof.Machine.execVfdivS d a b msk mp s
  | .vfsqrt d a msk mp => Sys2Proof.Machine.execVfsqrt d a msk mp s
  | .vfma d a b msk mp => Sys2Proof.Machine.execVfma d a b msk mp s
  | .vfmaS d a b msk mp => Sys2Proof.Machine.execVfmaS d a b msk mp s
  | .vfmin d a b msk mp => Sys2Proof.Machine.execVfmin d a b msk mp s
  | .vfminS d a b msk mp => Sys2Proof.Machine.execVfminS d a b msk mp s
  | .vfmax d a b msk mp => Sys2Proof.Machine.execVfmax d a b msk mp s
  | .vfmaxS d a b msk mp => Sys2Proof.Machine.execVfmaxS d a b msk mp s
  | .vfcvt d a k msk mp => Sys2Proof.Machine.execVfcvt d a k msk mp s
  | .vfclass d a msk mp => Sys2Proof.Machine.execVfclass d a msk mp s
  | .vlog2 d a msk mp => Sys2Proof.Machine.execVlog2 d a msk mp s
  | .vexp2 d a msk mp => Sys2Proof.Machine.execVexp2 d a msk mp s
  | .vcmpeq d a b msk mp => Sys2Proof.Machine.execVcmpeq d a b msk mp s
  | .vcmpeqS d a b msk mp => Sys2Proof.Machine.execVcmpeqS d a b msk mp s
  | .vcmpne d a b msk mp => Sys2Proof.Machine.execVcmpne d a b msk mp s
  | .vcmpneS d a b msk mp => Sys2Proof.Machine.execVcmpneS d a b msk mp s
  | .vcmplt d a b msk mp => Sys2Proof.Machine.execVcmplt d a b msk mp s
  | .vcmpltS d a b msk mp => Sys2Proof.Machine.execVcmpltS d a b msk mp s
  | .vcmpltu d a b msk mp => Sys2Proof.Machine.execVcmpltu d a b msk mp s
  | .vcmpltuS d a b msk mp => Sys2Proof.Machine.execVcmpltuS d a b msk mp s
  | .vcmple d a b msk mp => Sys2Proof.Machine.execVcmple d a b msk mp s
  | .vcmpleS d a b msk mp => Sys2Proof.Machine.execVcmpleS d a b msk mp s
  | .vcmpleu d a b msk mp => Sys2Proof.Machine.execVcmpleu d a b msk mp s
  | .vcmpleuS d a b msk mp => Sys2Proof.Machine.execVcmpleuS d a b msk mp s
  | .vfcmpeq d a b msk mp => Sys2Proof.Machine.execVfcmpeq d a b msk mp s
  | .vfcmpeqS d a b msk mp => Sys2Proof.Machine.execVfcmpeqS d a b msk mp s
  | .vfcmplt d a b msk mp => Sys2Proof.Machine.execVfcmplt d a b msk mp s
  | .vfcmpltS d a b msk mp => Sys2Proof.Machine.execVfcmpltS d a b msk mp s
  | .vfcmple d a b msk mp => Sys2Proof.Machine.execVfcmple d a b msk mp s
  | .vfcmpleS d a b msk mp => Sys2Proof.Machine.execVfcmpleS d a b msk mp s
  | .mand d a b => Sys2Proof.Machine.execMand d a b s
  | .mor d a b => Sys2Proof.Machine.execMor d a b s
  | .mxor d a b => Sys2Proof.Machine.execMxor d a b s
  | .mandn d a b => Sys2Proof.Machine.execMandn d a b s
  | .mnot d a => Sys2Proof.Machine.execMnot d a s
  | .msbf d a msk mp => Sys2Proof.Machine.execMsbf d a msk mp s
  | .msif d a msk mp => Sys2Proof.Machine.execMsif d a msk mp s
  | .mfirst d a msk mp => Sys2Proof.Machine.execMfirst d a msk mp s
  | .mcount d a msk mp => Sys2Proof.Machine.execMcount d a msk mp s
  | .viota d a msk mp => Sys2Proof.Machine.execViota d a msk mp s
  | .vsrch d a b msk mp => Sys2Proof.Machine.execVsrch d a b msk mp s
  | .vsrchr d a b msk mp => Sys2Proof.Machine.execVsrchr d a b msk mp s
  | .vtwr d a b => Sys2Proof.Machine.execVtwr d a b s
  | .vhamm d a b msk mp => Sys2Proof.Machine.execVhamm d a b msk mp s
  | .vtopkMax d a b msk mp => Sys2Proof.Machine.execVtopkMax d a b msk mp s
  | .vtopkMin d a b msk mp => Sys2Proof.Machine.execVtopkMin d a b msk mp s
  | .vredsum d a msk mp => Sys2Proof.Machine.execVredsum d a msk mp s
  | .vredmax d a msk mp => Sys2Proof.Machine.execVredmax d a msk mp s
  | .vredmin d a msk mp => Sys2Proof.Machine.execVredmin d a msk mp s
  | .vredmaxu d a msk mp => Sys2Proof.Machine.execVredmaxu d a msk mp s
  | .vredminu d a msk mp => Sys2Proof.Machine.execVredminu d a msk mp s
  | .vredand d a msk mp => Sys2Proof.Machine.execVredand d a msk mp s
  | .vredor d a msk mp => Sys2Proof.Machine.execVredor d a msk mp s
  | .vredxor d a msk mp => Sys2Proof.Machine.execVredxor d a msk mp s
  | .vfredsum d a msk mp => Sys2Proof.Machine.execVfredsum d a msk mp s
  | .vmaxi d a msk mp => Sys2Proof.Machine.execVmaxi d a msk mp s
  | .vmini d a msk mp => Sys2Proof.Machine.execVmini d a msk mp s
  | .vgathr d a b msk mp => Sys2Proof.Machine.execVgathr d a b msk mp s
  | .vshup d a b msk mp => Sys2Proof.Machine.execVshup d a b msk mp s
  | .vshdn d a b msk mp => Sys2Proof.Machine.execVshdn d a b msk mp s
  | .vbcst d a b msk mp => Sys2Proof.Machine.execVbcst d a b msk mp s
  | .vext d a b => Sys2Proof.Machine.execVext d a b s
  | .vins d a b => Sys2Proof.Machine.execVins d a b s
  | .vcomp d a msk => Sys2Proof.Machine.execVcomp d a msk s
  | .vbperm d a b msk mp => Sys2Proof.Machine.execVbperm d a b msk mp s
  | .vmv d a msk mp => Sys2Proof.Machine.execVmv d a msk mp s
  | .vmvi d im msk mp => Sys2Proof.Machine.execVmvi d im msk mp s
  | .vmerge d a b msk => Sys2Proof.Machine.execVmerge d a b msk s
  | .vid d msk mp => Sys2Proof.Machine.execVid d msk mp s
  | .vld d b msk mp g r => Sys2Proof.Machine.execVld d b msk mp g r s
  | .vlds d b k msk mp g r => Sys2Proof.Machine.execVlds d b k msk mp g r s
  | .vldx d b im msk mp g => Sys2Proof.Machine.execVldx d b im msk mp g s
  | .vldff d b msk mp g r => Sys2Proof.Machine.execVldff d b msk mp g r s
  | .vst d b msk mp g r => Sys2Proof.Machine.execVst d b msk mp g r s
  | .vsts d b k msk mp g r => Sys2Proof.Machine.execVsts d b k msk mp g r s
  | .vstx d b im msk mp g => Sys2Proof.Machine.execVstx d b im msk mp g s
  | .vstxo d b im msk mp g => Sys2Proof.Machine.execVstxo d b im msk mp g s
  | .vappend p h t msk mp g => Sys2Proof.Machine.execVappend p h t msk mp g s
  | .vldl d b im msk mp g => Sys2Proof.Machine.execVldl d b im msk mp g s
  | .vstc d b im msk mp g m => Sys2Proof.Machine.execVstc d b im msk mp g m s
  | .vamo d b im msk mp g o => Sys2Proof.Machine.execVamo d b im msk mp g o s
  | .vamoAcq d b im msk mp g o => Sys2Proof.Machine.execVamoAcq d b im msk mp g o s
  | .vamoRel d b im msk mp g o => Sys2Proof.Machine.execVamoRel d b im msk mp g o s
  | .vamoAr d b im msk mp g o => Sys2Proof.Machine.execVamoAr d b im msk mp g o s
  | .vwaitm c b im msk mp g z o => Sys2Proof.Machine.execVwaitm c b im msk mp g z o s
  | .vsclset a msk mp => Sys2Proof.Machine.execVsclset a msk mp s
  | .vbscale a msk mp => Sys2Proof.Machine.execVbscale a msk mp s
  | .vquant d a msk mp => Sys2Proof.Machine.execVquant d a msk mp s
  | .vdeq d a msk mp => Sys2Proof.Machine.execVdeq d a msk mp s
  | .vcbld c a => Sys2Proof.Machine.execVcbld c a s
  | .vcbx d a c msk mp => Sys2Proof.Machine.execVcbx d a c msk mp s
  | .vcvtl d a msk mp => Sys2Proof.Machine.execVcvtl d a msk mp s
  | .mxcfg b => Sys2Proof.Machine.execMxcfg b s
  | .mxtld x b => Sys2Proof.Machine.execMxtld x b s
  | .mxtsel b => Sys2Proof.Machine.execMxtsel b s
  | .mxr n m => Sys2Proof.Machine.execMxr n m s
  | .mxdrn d n => Sys2Proof.Machine.execMxdrn d n s
  | .mxdrs a n => Sys2Proof.Machine.execMxdrs a n s
  | .mxclr n => Sys2Proof.Machine.execMxclr n s
  | .mxfclr t f => Sys2Proof.Machine.execMxfclr t f s
  | .cpy a b c e => Sys2Proof.Machine.execCpy a b c e s
  | .cpy2d a b c e => Sys2Proof.Machine.execCpy2d a b c e s
  | .cpyg a b c e => Sys2Proof.Machine.execCpyg a b c e s
  | .cpyf a b c e => Sys2Proof.Machine.execCpyf a b c e s
  | .cpyres a b e => Sys2Proof.Machine.execCpyres a b e s
  | .seminc a b x r => Sys2Proof.Machine.execSeminc a b x r s
  | .semset a b x r => Sys2Proof.Machine.execSemset a b x r s
  | .semwait a b => Sys2Proof.Machine.execSemwait a b s
  | .semrd a b x r => Sys2Proof.Machine.execSemrd a b x r s
  | .barinit a b x r => Sys2Proof.Machine.execBarinit a b x r s
  | .bararr a b x r => Sys2Proof.Machine.execBararr a b x r s
  | .barwait a b => Sys2Proof.Machine.execBarwait a b s
  | .vsend k p => Sys2Proof.Machine.execVsend k p s
  | .vchain c p => Sys2Proof.Machine.execVchain c p s
  | .spawn a b => Sys2Proof.Machine.execSpawn a b s
  | .spawnc a b c => Sys2Proof.Machine.execSpawnc a b c s
  | .jdec a b => Sys2Proof.Machine.execJdec a b s
  | .lread a b => Sys2Proof.Machine.execLread a b s
  | .cflush a b => Sys2Proof.Machine.execCflush a b s
  | .cinv a b => Sys2Proof.Machine.execCinv a b s
  | .cpref a b => Sys2Proof.Machine.execCpref a b s
  | .tlbinv a b k => Sys2Proof.Machine.execTlbinv a b k s
  | .ubulkZero a r => Sys2Proof.Machine.execUbulkZero a r s
  | .ubulkCopy a b => Sys2Proof.Machine.execUbulkCopy a b s
  | .ubulkAnd a b => Sys2Proof.Machine.execUbulkAnd a b s
  | .ubulkOr a b => Sys2Proof.Machine.execUbulkOr a b s
  | .ubulkMaj3 a b => Sys2Proof.Machine.execUbulkMaj3 a b s
  | .ubulkNot a b => Sys2Proof.Machine.execUbulkNot a b s
  | .uwait a => Sys2Proof.Machine.execUwait a s
  | .hpost a b r => Sys2Proof.Machine.execHpost a b r s
  | .gsig a b => Sys2Proof.Machine.execGsig a b s
  | .collAllreduce b m => Sys2Proof.Machine.execCollAllreduce b m s
  | .collRedscat b m => Sys2Proof.Machine.execCollRedscat b m s
  | .collAllgath b m => Sys2Proof.Machine.execCollAllgath b m s
  | .collBcast b m => Sys2Proof.Machine.execCollBcast b m s
  | .collw a b => Sys2Proof.Machine.execCollw a b s
  | .fput a b => Sys2Proof.Machine.execFput a b s
  | .fget a b => Sys2Proof.Machine.execFget a b s
  | .regionDrainDone n => Sys2Proof.Machine.execRegionDrainDone n s
  | .arrayTrap id cause tval lane => Sys2Proof.Machine.execArrayTrap id cause tval lane s
  | .recordPop die => Sys2Proof.Machine.execRecordPop die s
  | .resumeRecordPop die => Sys2Proof.Machine.execResumeRecordPop die s
  | .watchdog id => Sys2Proof.Machine.execWatchdog id s
  | .waitTimeout id => Sys2Proof.Machine.execWaitTimeout id s
  | .bayGrant core => Sys2Proof.Machine.execBayGrant core s
  | .mezzanineClaim core => Sys2Proof.Machine.execMezzanineClaim core s
  | .mxFifoWaitEnd id => Sys2Proof.Machine.execMxFifoWaitEnd id s
  | .sequencerSelect core => Sys2Proof.Machine.execSequencerSelect core s
  | .priorityPreemption die landing => Sys2Proof.Machine.execPriorityPreemption die landing s
  | .sharePreemption die landing => Sys2Proof.Machine.execSharePreemption die landing s
  | .preemptionTaken id => Sys2Proof.Machine.execPreemptionTaken id s
  | .preemptForceLimit id => Sys2Proof.Machine.execPreemptForceLimit id s
  | .linkDeferLimit id => Sys2Proof.Machine.execLinkDeferLimit id s
  | .rowRetirement core bay row => Sys2Proof.Machine.execRowRetirement core bay row s
  | .usherScrub core bay => Sys2Proof.Machine.execUsherScrub core bay s
  | .copyQueueEntry id => Sys2Proof.Machine.execCopyQueueEntry id s
  | .copyStart cluster engine => Sys2Proof.Machine.execCopyStart cluster engine s
  | .fifoDelivery cluster engine => Sys2Proof.Machine.execFifoDelivery cluster engine s
  | .copyComplete cluster engine => Sys2Proof.Machine.execCopyComplete cluster engine s
  | .copyHalt cluster engine => Sys2Proof.Machine.execCopyHalt cluster engine s
  | .chainMessageArrival id => Sys2Proof.Machine.execChainMessageArrival id s
  | .portSpaceFree id => Sys2Proof.Machine.execPortSpaceFree id s
  | .spillRefill die landing => Sys2Proof.Machine.execSpillRefill die landing s
  | .counterReread die index => Sys2Proof.Machine.execCounterReread die index s
  | .hostPoll die => Sys2Proof.Machine.execHostPoll die s
  | .coreDisable core => Sys2Proof.Machine.execCoreDisable core s
  | .dieReset die => Sys2Proof.Machine.execDieReset die s
  | .dieBack die enabled => Sys2Proof.Machine.execDieBack die enabled s
  | .l2Fill coded key => Sys2Proof.Machine.execL2Fill coded key s
  | .lineEviction coded key bad => Sys2Proof.Machine.execLineEviction coded key bad s
  | .hashPartitionWrite die index value => Sys2Proof.Machine.execHashPartitionWrite die index value s
  | .undercroftQueueEntry id => Sys2Proof.Machine.execUndercroftQueueEntry id s
  | .undercroftStart die index => Sys2Proof.Machine.execUndercroftStart die index s
  | .undercroftComplete die index => Sys2Proof.Machine.execUndercroftComplete die index s
  | .engineEntry id => Sys2Proof.Machine.execEngineEntry id s
  | .doorbell value => Sys2Proof.Machine.execDoorbell value s
  | .kernelNode walk => Sys2Proof.Machine.execKernelNode walk s
  | .kernelEmit tag => Sys2Proof.Machine.execKernelEmit tag s
  | .kernelDone tag => Sys2Proof.Machine.execKernelDone tag s
  | .copyNode walk => Sys2Proof.Machine.execCopyNode walk s
  | .copyNodeDone walk => Sys2Proof.Machine.execCopyNodeDone walk s
  | .condNode walk => Sys2Proof.Machine.execCondNode walk s
  | .condReread walk => Sys2Proof.Machine.execCondReread walk s
  | .hostpostNode walk => Sys2Proof.Machine.execHostpostNode walk s
  | .endNode walk => Sys2Proof.Machine.execEndNode walk s
  | .snapshotCopyDone tag => Sys2Proof.Machine.execSnapshotCopyDone tag s
  | .restoreDone tag => Sys2Proof.Machine.execRestoreDone tag s
  | .ringCtimeExpiry ring => Sys2Proof.Machine.execRingCtimeExpiry ring s
  | .hrcfgWrite ring value => Sys2Proof.Machine.execHrcfgWrite ring value s
  | .hrheadWrite ring value => Sys2Proof.Machine.execHrheadWrite ring value s
  | .w2baseWrite value => Sys2Proof.Machine.execW2baseWrite value s
  | .hostRegisterWrite offset value => Sys2Proof.Machine.execHostRegisterWrite offset value s
  | .hostMemoryRead offset => Sys2Proof.Machine.execHostMemoryRead offset s
  | .hostMemoryWrite offset size value => Sys2Proof.Machine.execHostMemoryWrite offset size value s
  | .powerSample averageWatts => Sys2Proof.Machine.execPowerSample averageWatts s
  | .spdmRequest index nonce => Sys2Proof.Machine.execSpdmRequest index nonce s
  | .packetForward index free => Sys2Proof.Machine.execPacketForward index free s
  | .nonminimalTimeout index => Sys2Proof.Machine.execNonminimalTimeout index s
  | .suspectTimeout index => Sys2Proof.Machine.execSuspectTimeout index s
  | .tokenArrival epoch => Sys2Proof.Machine.execTokenArrival epoch s
  | .frcfgWrite value => Sys2Proof.Machine.execFrcfgWrite value s
  | .packetDeliver index => Sys2Proof.Machine.execPacketDeliver index s
  | .nackReceive sid dest seq => Sys2Proof.Machine.execNackReceive sid dest seq s
  | .ackReceive sid dest seq => Sys2Proof.Machine.execAckReceive sid dest seq s
  | .resendTimeout index => Sys2Proof.Machine.execResendTimeout index s
  | .unreachableTimeout path => Sys2Proof.Machine.execUnreachableTimeout path s
  | .contributionArrival index => Sys2Proof.Machine.execContributionArrival index s
  | .collectiveEnd gid cseq => Sys2Proof.Machine.execCollectiveEnd gid cseq s
  | .transferEnd index => Sys2Proof.Machine.execTransferEnd index s
  | .hostCompletion id ok => Sys2Proof.Machine.execHostCompletion id ok s
  | .fabricPortTraining port width rate up => Sys2Proof.Machine.execFabricPortTraining port width rate up s
  | .hostPortTraining width rate => Sys2Proof.Machine.execHostPortTraining width rate s
  | .msixUnmask vector => Sys2Proof.Machine.execMsixUnmask vector s
  | .nop => Sys2Proof.Machine.execNop s
  | .rets => Sys2Proof.Machine.execRets s
  | .endStrand => Sys2Proof.Machine.execEndStrand s
  | .yield => Sys2Proof.Machine.execYield s
  | .wait => Sys2Proof.Machine.execWait s
  | .vrel => Sys2Proof.Machine.execVrel s
  | .mxwait => Sys2Proof.Machine.execMxwait s
  | .lossReport => Sys2Proof.Machine.execLossReport s
  | .submissionAccept => Sys2Proof.Machine.execSubmissionAccept s
  | .graphStart => Sys2Proof.Machine.execGraphStart s
  | .hubDieReset => Sys2Proof.Machine.execHubDieReset s
  | .usherWatchdogExpiry => Sys2Proof.Machine.execUsherWatchdogExpiry s
  | .tenantTurnover => Sys2Proof.Machine.execTenantTurnover s
  | .powerOn => Sys2Proof.Machine.execPowerOn s
  | .fundamentalReset => Sys2Proof.Machine.execFundamentalReset s
  | .tokenRegeneration => Sys2Proof.Machine.execTokenRegeneration s
  | .stairMoveComplete => Sys2Proof.Machine.execStairMoveComplete s

end Sys2Proof.Machine
end

