-- ==== Sys2Proof/Machine/Issue.lean ====
section
/-!
DEFINITION. Issue behind entries of the VIQ that have not completed: which words wait for them, and the turn of a strand whose
oldest entry waits on the array side (R34, R46, R101, R183, R201-R204, R274, R278).
-/

namespace Sys2Proof.Machine

/-! ## Scalar registers that a word names (R41, R47-R62, R132) -/

/-- The register in the five bits of a word from `lo` up. -/
def regAt (w : BitVec 32) (lo : Nat) : Nat := bitsOf w.toNat lo 5

/-- A register and the odd one of its pair. -/
def regPair (r : Nat) : List Nat := [r / 2 * 2, r / 2 * 2 + 1]

/-- R37, R201: the scalar registers that a control-side word reads or writes. -/
def controlRegs (w : BitVec 32) : List Nat :=
  let a := regAt w 21
  let b := regAt w 16
  let c := regAt w 11
  let fn5 := c
  match w.toNat / 2 ^ 26 with
  | 0x01 | 0x0E | 0x1B | 0x34 => [a, b, c]
  | 0x08 | 0x21 => [a]
  | 0x0A => if bitsOf w.toNat 13 3 = 7 then [b] else [a, b]
  | 0x19 => if fn5 = 3 then [a] else if fn5 = 4 then [b] else []
  | 0x31 =>
    let op := bitsOf w.toNat 6 3
    if op = 4 then b :: regPair a else if op = 1 ∨ op = 2 then [a, b] ++ regPair c else [a, b, c]
  | 0x36 => if fn5 = 1 then [a] else regPair a ++ (List.range (bulkSources (bitsOf w.toNat 0 3))).map (b + ·)
  | 0x38 => if fn5 = 0 then [b] else if fn5 = 1 then [a, b] else b :: regPair a
  | 0x16 | 0x17 | 0x1A => []
  | _ => [a, b]

/-- R132: the scalar registers that an array-side word reads at its dispatch. -/
def operandRegs (w : BitVec 32) : List Nat :=
  let a := regAt w 21
  let b := regAt w 16
  let c := regAt w 11
  let fn := bitsOf w.toNat 0 8
  let mode := bitsOf w.toNat 4 3
  match w.toNat / 2 ^ 26 with
  | 0x23 | 0x25 => [c]
  | 0x26 => if 128 ≤ fn then [c] else []
  | 0x28 => if fn ≤ 1 then regPair c else [c]
  | 0x2A => if fn = 5 then [b, c] else if 1 ≤ fn ∧ fn ≤ 4 then [c] else []
  | 0x2B => if mode = 1 then [b, c] else [b]
  | 0x2C => if mode = 1 then [b, c] else [b]
  | 0x2D => if mode = 6 then [a, b] else [b]
  | 0x2E => if fn = 4 then [b] else []
  | 0x30 => if fn = 0 then [b] else if fn = 5 then [a] else []
  | _ => []

/-- R201: an array-side word. -/
def arraySide (w : BitVec 32) : Bool :=
  let m := w.toNat / 2 ^ 26
  (decide (0x22 ≤ m) && decide (m ≤ 0x2E)) || m == 0x30 || m == 0x33

/-- R203: the scalar registers that an array-side word writes through the result queue. -/
def resultRegs (w : BitVec 32) : List Nat :=
  let a := regAt w 21
  let fn := bitsOf w.toNat 0 8
  match w.toNat / 2 ^ 26 with
  | 0x27 => if fn = 7 ∨ fn = 8 then [a] else []
  | 0x29 => if fn = 9 ∨ fn = 10 then regPair a else [a]
  | 0x2A => if fn = 4 then [a] else []
  | 0x2C => if bitsOf w.toNat 4 3 = 4 then [regAt w 11] else []
  | _ => []

/-- R203: a register is pending: an entry of the VIQ writes it. Writes of s0 are discarded (R42). -/
def regPending (t : Strand) (r : Nat) : Bool := r != 0 && t.arc.viq.any fun h => (resultRegs h.word).contains r

/-- R203: a word reads or writes a pending register on the control side, or reads one as a scalar operand. -/
def touchesPending (t : Strand) (w : BitVec 32) : Bool :=
  (if arraySide w then operandRegs w else controlRegs w).any (regPending t)

/-! ## Words that wait for the VIQ -/

/-- R203: an entry stops issue altogether: VWAITM or MXWAIT. -/
def stopsIssue (t : Strand) : Bool :=
  t.arc.viq.any fun h =>
    let m := h.word.toNat / 2 ^ 26
    (m == 0x2D && bitsOf h.word.toNat 4 3 == 6) || (m == 0x30 && bitsOf h.word.toNat 0 8 == 8)

/-- An entry that acts on vector registers, masks, VL or the chain: each but those of the Mezzanine that drain no row to a register. -/
def vectorEntry (h : Held) : Bool := h.word.toNat / 2 ^ 26 != 0x30 || bitsOf h.word.toNat 0 8 == 4

/-- R34, R46, R201: a word waits at issue until the VIQ is empty. END, VACQ, VREL and SETC of VRESUME do as well; VSETCFG, VBEGIN and
VNEXT wait for vector entries alone, which a change of VL or VCFG must not pass (log entry 90). -/
def waitsForViq (t : Strand) (w : BitVec 32) : Bool :=
  let m := w.toNat / 2 ^ 26
  let fn5 := regAt w 11
  let k := bitsOf w.toNat 0 11
  if m = 0x19 then
    (fn5 == 3 && [0x001, 0x003, 0x005, 0x006, 0x009, 0x00A, 0x00B].contains k) ||
      (fn5 == 4 && [0x001, 0x002, 0x007, 0x008, 0x00B, 0x00D].contains k) || [5, 8, 9].contains fn5
  else (m == 0x20 || m == 0x21) && t.arc.viq.any vectorEntry

/-- R101: the run of a word has taken a trap, or failed the strand; a SETC of STATUS may set NEST as well. -/
def tookTrap (old new : Strand) (w : BitVec 32) : Bool :=
  new.slot == .drain ||
    (stNest new && !stNest old && !(w.toNat / 2 ^ 26 == 0x19 && regAt w 11 == 4 && bitsOf w.toNat 0 11 == 0))

/-- R274: after VBEGIN and VNEXT a strand stands at a control-side strip boundary. -/
def stripWord (w : BitVec 32) : Bool :=
  let m := w.toNat / 2 ^ 26
  m == 0x21 || (m == 0x20 && regAt w 11 == 1)

/-! ## The turn of a strand behind whose VIQ the control side goes on -/

/-- R101, R203: the control side issues a word behind entries of the VIQ. A word that must wait for them waits at issue, and so does
one that traps. -/
def issueBehind (s : State) (w : BitVec 32) (run : State → Res) : Res :=
  let id := s.cur
  let t := strandOf s id
  if waitsForViq t w || touchesPending t w then .next (blockOn s id .viq)
  else
    match run (atIssue s id) with
    | .next u =>
      if tookTrap t (strandOf u id) w then .next (blockOn s id .viq)
      else .next (modStrand u id fun x => { x with atStrip := stripWord w && x.blocked.isNone })
    | r => r

/-- R36, R101: the control side fetches and issues behind entries of the VIQ. -/
def fetchBehind (s : State) (run : BitVec 32 → State → Res) : Res :=
  if stopsIssue (strandOf s s.cur) then .next s
  else
    match fetch s s.cur with
    | .trap _ => .next (blockOn s s.cur .viq)
    | .word w => issueBehind s w (run w)

/-- R201, R276: the oldest entry of a VIQ runs where the sequencer admits it. -/
def headTurn (s : State) (h : Held) (run : BitVec 32 → State → Res) : Res :=
  match admitEntry s s.cur h.word with
  | (u, true) => runHead u s.cur (run h.word)
  | (u, false) => .next u

/-- R201: the oldest entry has neither completed nor trapped. -/
def headWaits (old new : Strand) : Bool :=
  new.arc.waits.isSome && new.arc.viq.length == old.arc.viq.length

/-- R201: the turn of a strand whose oldest entry waits on the array side: the entry runs if it can; if it cannot, the control side goes
on, by issuing in RUN or by testing its condition again in PARK. -/
def behindTurn (s : State) (h : Held) (run : BitVec 32 → State → Res) (park : State → Res) : Res :=
  match headTurn s h run with
  | .next u =>
    let t := strandOf u s.cur
    if headWaits (strandOf s s.cur) t then
      match t.slot with
      | .run => fetchBehind u run
      | .park => park u
      | _ => .next u
    else .next u
  | r => r

/-- R210, R229: an entry that RETS has redispatched runs in its turn; the SBARs that it was in E of count it off. -/
def countHolds (old : Strand) (id : Nat) : Res → Res
  | .next u =>
    .next (if (strandOf u id).arc.viq.length < old.arc.viq.length then modStrand u id popHolds else u)
  | r => r

end Sys2Proof.Machine
end

