-- ==== Sys2Proof/Machine/Step.lean ====
section
/-!
DEFINITION. One step of the machine. The head of the agenda says which agent moves (log entry 1); when the agenda is
empty, the strand `cur` does. The decoder builds constructors that the compiler cannot lay out, so that these definitions
are for the kernel to evaluate.
-/

namespace Sys2Proof.Machine

noncomputable section

/-- R229, R276: an entry that RETS has redispatched runs when the sequencer admits it. -/
def runEntry (s : State) (w : BitVec 32) : Res :=
  match admitEntry s s.cur w with
  | (u, admitted) => if admitted then exec (decodeWord w) u else .next u

/-- R36, R230, R276: the word at the program counter is issued when the sequencer admits it. -/
def issueWord (s : State) (w : BitVec 32) : Res :=
  match admitEntry s s.cur w with
  | (u, admitted) => if admitted then exec (decodeWord w) (atIssue u s.cur) else .next u

/-- R201, R229: the turn of a strand whose VIQ holds entries, the oldest of them `h`: one that RETS has redispatched runs before issue
resumes; behind one that waits on the array side the control side goes on. -/
def entryTurn (s : State) (h : Held) : Res :=
  let t := strandOf s s.cur
  if behind t then behindTurn s h (fun w => exec (decodeWord w)) (exec (.parkWake s.cur))
  else countHolds t s.cur (runEntry s h.word)

/-- R36, R79: the turn of the strand `cur`. A scalar result on its way is written first (R203), then entries of the VIQ run (R201,
R229), then the word at the program counter. A due pre-emption is taken first, wherever one of the points of
R278 is reached. A strand that drains, saves or is parked goes on with that. -/
def strandStep (s : State) : Res :=
  let id := s.cur
  let t := strandOf s id
  if s.pkg.fatal.isSome then .next s
  else if preemptsHere s id then exec (.preemptionTaken id) s
  else
    match t.slot with
    | .run =>
      if t.arc.results.isEmpty then
        match t.arc.viq with
        | h :: _ => entryTurn s h
        | [] =>
          match fetch s id with
          | .trap u => .next u
          | .word w => issueWord s w
      else exec (.resultQueueReturn id) s
    | .drain => exec (.endDrain id) s
    | .save =>
      match t.arc.viq with
      | h :: _ => entryTurn s h
      | [] => if t.arc.results.isEmpty then exec (.contextSaveComplete id) s else exec (.resultQueueReturn id) s
    | .park =>
      match t.arc.viq with
      | h :: _ => if behind t then entryTurn s h else exec (.parkWake id) s
      | [] => exec (.parkWake id) s
    | .free => .next s
    | .start => .next s

/-- R341: what a package accepts after a fatal error: reads of BAR0 and BAR2, and a reset. -/
def acceptedDead (i : Instr) : Bool :=
  match i with
  | .hostMemoryRead _ => true
  | .powerOn => true
  | .fundamentalReset => true
  | _ => false

/-- R341: the moves that a package takes after a fatal error: those accepted events, reads of BAR0, the dump, and what the host does to
its own memory. -/
def takenDead (m : Move) : Bool :=
  match m with
  | .event i => acceptedDead i
  | .hostStore .. | .registerRead _ | .dumpSection => true
  | _ => false

/-- A move other than a turn of a strand, which only an agent outside the strands makes. -/
def outside (m : Move) (s : State) : State :=
  match m with
  | .hostStore a b => hostWrite s a 1 b.toNat
  | .packetIn q p => packetArrives s q p
  | .otherTlpIn => otherTlpArrives s
  | .contributionIn c => contributionArrives s c
  | .routeIn p k q => routeWritten s p k q
  | .memoryError l => lineFails s l
  | .symbolErrors l bs => readFindsSymbols s l bs
  | .queueError d l i => queueFails s d l i
  | .poolError d i => poolFails s d i
  | .stackFault k => stackFaults s k
  | .clusterFault c => clusterFaults s c
  | .hubFault => hubFaults s
  | .laneWindow f k p l a b c d => laneWindow s f k p l a b c d
  | .stackFails f k => stackFails s f k
  | .columnFails c b k => columnFails s c b k
  | .mezzFails c => mezzFails s c
  | .imageFails i => imageFails s i
  | .usherPreempts id => usherPreempts s id
  | .usherOpens o => usherOpens s o
  | .usherWrites o v => usherWrites s o v
  | .dumpSection => writeSection s
  | .msixMask v => msixMask s v
  | .registerRead o => registerRead s o
  | .nodeRefused w => nodeRefused s w
  | .peerFault g c => peerFaults s g c
  | .spdmVersions => spdmVersions s
  | .spdmChain => spdmChain s
  | .codedError r b => codedFails s r b
  | .correctedError n => errorCorrected s n
  | .tlbFill u c a l => tlbFills s u c a l
  | .tlbDrop i => tlbDrops s i
  | .atriumError c w => atriumFails s c w
  | .parityError c b w k => parityFails s c b w k
  | .run _ => s
  | .event _ => s

/-- One step: the next move of the agenda, or the turn of the strand `cur`. -/
def step (s : State) : Host.Outcome State Fault Refusal :=
  match s.agenda with
  | [] => strandStep s
  | m :: r =>
    let u := { s with agenda := r }
    if u.pkg.fatal.isSome && !takenDead m then .next u
    else
      match m with
      | .run id => strandStep { u with cur := id }
      | .event i => exec i u
      | o => .next (outside o u)

/-- The state with an instruction word standing where the next step fetches it: no move is listed, the strand `cur` runs,
and its context maps its program counter onto memory that holds the word (log entry 14). -/
def State.withFetchWord (s : State) (_nbits w : Nat) : State :=
  placeWord (readyStrand { s with agenda := [] } s.cur) s.cur w

end

end Sys2Proof.Machine
end

