-- ==== Sys2Proof/Safety.lean ====
section
/-!
DEFINITION. What counts as a safe run, and the terms in which claims say what an instruction does: which parts of the state
a step leaves alone, how a strand goes on past an instruction, and how it enters a trap.
-/

namespace Sys2Proof.Machine

/-- Every memory of the package has its canonical form. -/
structure MemoriesWf (s : State) : Prop where
  dram : Memory.wf s.mem.dram = true
  host : Memory.wf s.mem.host = true
  tcm : ∀ p ∈ s.cores, Memory.wf p.2.tcm = true
  atrium : ∀ p ∈ s.clusters, Memory.wf p.2.atrium = true

/-- R18: the rational number that a finite value is. -/
def ratOf : Val → Option ℚ
  | .num neg m e => some ((if neg then -1 else 1) * (m : ℚ) * 2 ^ e)
  | _ => none

/-! ## Strands -/

/-- Of the whole machine only the strand whose turn it is has changed: no other strand, core, cluster, die, memory, nor
anything of the package or of the fabric. -/
structure OnlyStrand (s t : State) : Prop where
  agenda : t.agenda = s.agenda
  cur : t.cur = s.cur
  cores : t.cores = s.cores
  clusters : t.clusters = s.clusters
  dies : t.dies = s.dies
  mem : t.mem = s.mem
  pkg : t.pkg = s.pkg
  net : t.net = s.net
  free : t.free = s.free
  others : ∀ j, j ≠ s.cur → strandOf t j = strandOf s j

/-- The instruction answers a next state in which only the strand has changed, to what `f` makes of it. -/
def Completes (s : State) (i : Instr) (f : Strand → Strand) : Prop :=
  ∃ t, exec i s = .next t ∧ OnlyStrand s t ∧ strandOf t s.cur = f (strandOf s s.cur)

/-- The strand has gone on to the next word. -/
def past (t : Strand) : Strand := { t with pc := t.pc + 4, blocked := none, hostAnswer := none }

/-- The strand has gone on at an address. -/
def goneTo (p : BitVec 48) (t : Strand) : Strand := { t with pc := p, blocked := none, hostAnswer := none }

/-- The instruction writes `v` to a scalar register (s0 discards it) and nothing else, and the strand goes on. -/
def Writes (s : State) (i : Instr) (a : BitVec 5) (v : Word) : Prop := Completes s i fun t => past (putReg t a v)

/-- The same, with flags ORed into SFLAGS. -/
def WritesFl (s : State) (i : Instr) (a : BitVec 5) (v fl : Word) : Prop :=
  Completes s i fun t => past (putReg { t with sflags := t.sflags ||| fl } a v)

/-- R101: the strand after trap entry. -/
def entered (cause : Nat) (tval epc : Word) (t : Strand) : Strand :=
  { t with slot := .run, blocked := none, hostAnswer := none, cause := BitVec.ofNat 64 cause, epc := epc, tval := tval,
           status := trapStatus t.status, pc := BitVec.ofNat 48 t.tvec.toNat }

/-- R102: the strand after a trap with NEST = 1. -/
def failed (cause : Nat) (t : Strand) : Strand :=
  { t with cause := BitVec.ofNat 64 cause, slot := .drain, blocked := none, hostAnswer := none,
           arc := { t.arc with viq := [], waits := none, results := [] } }

/-- What a trap makes of a strand (R101, R102). -/
def trapped (cause : Nat) (tval epc : Word) (t : Strand) : Strand :=
  if stNest t then failed cause t else entered cause tval epc t

/-- The program counter as a word. -/
def pcOf (s : State) : Word := (strandOf s s.cur).pc.zeroExtend 64

/-- The word of the strand that stands after the present one. -/
def nextOf (s : State) : Word := ((strandOf s s.cur).pc + 4).zeroExtend 64

/-- The instruction traps at itself and changes nothing but the strand's trap registers. -/
def TrapsHere (s : State) (i : Instr) (cause : Nat) (tval : Word) : Prop :=
  Completes s i (trapped cause tval (pcOf s))

/-! ## Accesses to memory -/

/-- Outside memory, the package and the fabric only the strand whose turn it is has changed. -/
structure OnlyAccess (s t : State) : Prop where
  agenda : t.agenda = s.agenda
  cur : t.cur = s.cur
  cores : t.cores = s.cores
  dies : t.dies = s.dies
  free : t.free = s.free
  others : ∀ j, j ≠ s.cur → strandOf t j = strandOf s j

/-- R86, R207, R371: an access of `n` bytes at `a` on stream SC reaches the target `q`: it is aligned, translated and
permitted, its stream is not held back, and its home can be reached. -/
structure Reaches (s : State) (write : Bool) (a : Word) (n : Nat) (q : Target) : Prop where
  aligned : a.toNat % n = 0
  mapped : translate s (agentOf s s.cur) write a = .ok q
  free : streamHeld s s.cur 0 [homeDie s q] = false
  home : unreachableTarget s (sidOf s.cur 0) q = false

/-- R224: the host has answered the access, if it is one to a HOST page. -/
def HostAnswered (s : State) (q : Target) : Prop := ∀ h, q = .host h → (strandOf s s.cur).hostAnswer = some true

/-- The `n` bytes from the target `q`, reached from cluster `cl`, do not hold the byte that cluster `c` reads at `r`. A carrier
of a coded region lies under every coded target, so that nothing is said of coded bytes after a write to device memory. A line
is sealed as a whole, so that bytes of one line are compared under one SEALED bit. -/
def Apart (cl : Nat) (q : Target) (n c : Nat) (r : Target) : Prop :=
  match q, r with
  | .phys k sl, .phys j sl' => j / 64 ≠ k / 64 ∨ (sl' = sl ∧ (j < k ∨ k + n ≤ j))
  | .phys _ _, .coded _ _ _ => False
  | .coded g o sl, .coded g' o' sl' =>
    codedKey g' (o' / 64) ≠ codedKey g (o / 64) ∨ (g' = g ∧ o' / 64 = o / 64 ∧ sl' = sl ∧ (o' < o ∨ o + n ≤ o'))
  | .atrium o, .atrium o' => c ≠ cl ∨ o' < o ∨ o + n ≤ o'
  | .host a, .host b => b < a ∨ a + n ≤ b
  | _, _ => True

/-- In bring-up mode L2 is bypassed; nothing is claimed there of bytes reached through a SEALED page, whose round trip is
that of the cipher. -/
def Plain (s : State) (q : Target) : Prop := s.pkg.bringUp = true → ∀ k sl, q = .phys k sl → sl = false

/-- Of all bytes of memory only the `n` bytes from `q` have changed, and they hold `v`. -/
structure Stored (s t : State) (q : Target) (n v : Nat) : Prop where
  holds : targetRead t (clusterIdx s.cur) q n = v
  frame : ∀ c r, Apart (clusterIdx s.cur) q n c r → targetRead t c r 1 = targetRead s c r 1

/-! ## Vector instructions -/

/-- The vector side of the strand whose turn it is. -/
def arcOf (s : State) : Arcade := (strandOf s s.cur).arc

/-- R132, R229: the first scalar operand of an array-side instruction: that of its held entry, else the register. -/
def operand1 (s : State) (r : BitVec 5) : Word := (vop s s.cur 0 r 0).op1

/-- The second scalar operand. -/
def operand2 (s : State) (r : BitVec 5) : Word := (vop s s.cur 0 0 r).op2

/-- R258, R259: what the fields `vs` read of the chain: nothing, the message that the strand holds, or the next message of
the port; `w` is the state with it taken. -/
def ChainTaken (s : State) (vs : List (BitVec 5)) (w : State) (m : Option (List Word)) : Prop :=
  (vs.any (chained (arcOf s)) = false ∧ w = s ∧ m = none) ∨
  (vs.any (chained (arcOf s)) = true ∧ (arcOf s).chainIn ≠ none ∧ w = s ∧ m = (arcOf s).chainIn.map (·.2.2)) ∨
  (vs.any (chained (arcOf s)) = true ∧ (arcOf s).chainIn = none ∧ (coreOf s (chainCore (arcOf s))).enabled = true ∧
    chainContended s s.cur (arcOf s) = false ∧ takeMessage s s.cur = some w ∧ m = (arcOf w).chainIn.map (·.2.2))

/-- The registers that an instruction names: `ds`, and those of `vs` that do not read the chain. -/
def namedRegs (s : State) (ds vs : List (BitVec 5)) : List (BitVec 5) := ds ++ vs.filter fun f => !chained (arcOf s) f

/-- R120-R129, R201, R228, R258: a vector instruction runs: no entry before it waits on the array side, the strand has bays, LANE is not beyond VL, its message is there, its
registers `ds` and `vs` have become resident, in the state `u`, and no parity mismatch stands in them; it runs with `v`. -/
structure VecReady (s : State) (ds vs : List (BitVec 5)) (u : State) (v : VEnv) : Prop where
  turn : behind (strandOf s s.cur) = false
  bays : stNoBays (strandOf s s.cur) = false
  lane : (arcOf s).lane = 0 ∨ (arcOf s).lane < (arcOf s).vl
  chain : ∃ w, ChainTaken s vs w v.msg ∧ touchRegs w s.cur (namedRegs s ds vs) = .ok u
  env : v = envOf (arcOf u) v.msg
  cur : u.cur = s.cur
  whole : ∀ f ∈ namedRegs s ds vs, ∀ e < vlmaxOf (arcOf u), parityAt (arcOf u) (coreOf u (coreIdx s.cur)) f.toNat e = false

/-- R36, R116, R203, R229, R258, R275: a vector instruction that ran with `v` has completed, from the state `u` to `t`. The strand goes on,
its flags are ORed in, LANE is 0, the message is used up and the landing charged; every other strand and core and what an
instruction does not write is as it was. -/
structure VecRan (u t : State) (v : VEnv) (fl : Word) : Prop where
  agenda : t.agenda = u.agenda
  cur : t.cur = u.cur
  others : ∀ j, j ≠ u.cur → strandOf t j = strandOf u j
  cores : ∀ c, c ≠ coreIdx u.cur → coreOf t c = coreOf u c
  core : ∃ p d x m q, coreOf t (coreIdx u.cur) =
    { (coreOf u (coreIdx u.cur)) with parity := p, deficit := d, estSat := x, mezz := m, ports := q }
  dies : ∀ d, dieOf t d = { (dieOf u d) with landings := (dieOf t d).landings }
  landings : ∀ d l, landingOf t d l = { (landingOf u d l) with charge := (landingOf t d l).charge }
  strand : strandOf t u.cur = { (strandOf u u.cur) with
    pc := if (arcOf u).viq = [] then (strandOf u u.cur).pc + 4 else (strandOf u u.cur).pc,
    sflags := (strandOf u u.cur).sflags ||| fl, blocked := none, hostAnswer := none, arc := arcOf t,
    stripHead := if (arcOf u).viq = [] then false else (strandOf u u.cur).stripHead }
  arc : arcOf t = { (arcOf u) with
    regs := (arcOf t).regs, written := (arcOf t).written, masks := (arcOf t).masks,
    codebooks := (arcOf t).codebooks, mfmt := (arcOf t).mfmt, results := (arcOf t).results, lane := 0, part := none,
    viq := (arcOf u).viq.tail, chainIn := if v.msg.isSome then none else (arcOf u).chainIn }

/-- Outside memory and the fabric nothing but the strand, its core's parity and charge, and its landing's charge has changed. -/
structure Calm (u t : State) : Prop where
  clusters : t.clusters = u.clusters
  pkg : t.pkg = u.pkg
  free : t.free = u.free
  mezz : (coreOf t (coreIdx u.cur)).mezz = (coreOf u (coreIdx u.cur)).mezz
  estSat : (coreOf t (coreIdx u.cur)).estSat = (coreOf u (coreIdx u.cur)).estSat
  ports : (coreOf t (coreIdx u.cur)).ports = (coreOf u (coreIdx u.cur)).ports

/-- Nothing outside the strand, its core's parity and charge, and its landing's charge has changed. -/
structure Quiet (u t : State) : Prop extends Calm u t where
  mem : t.mem = u.mem
  net : t.net = u.net

/-- R358: of the fabric only the sequence numbers of one stream of the strand have changed. -/
structure OnlySeqs (u t : State) (stream : Nat) : Prop where
  net : t.net = { u.net with seqs := t.net.seqs }
  seqs : ∀ k, (∀ d, k ≠ sidOf u.cur stream * 2 ^ 14 + d) → tblGet (0 : BitVec 16) t.net.seqs k = tblGet 0 u.net.seqs k

/-- R301, R302, R358: what loads of a stream do outside the strand: coded lines may be filled, a block that cannot be decoded being
reported, and the stream's numbers go up. -/
structure Loaded (u t : State) (stream : Nat) : Prop extends OnlySeqs u t stream where
  mem : t.mem = { u.mem with coded := t.mem.coded, codedPoison := t.mem.codedPoison }
  pkg : t.pkg = { u.pkg with usher := { u.pkg.usher with log := t.pkg.usher.log } }
  log : t.mem.coded = u.mem.coded → t.pkg = u.pkg
  clusters : t.clusters = u.clusters
  free : t.free = u.free
  mezz : (coreOf t (coreIdx u.cur)).mezz = (coreOf u (coreIdx u.cur)).mezz
  estSat : (coreOf t (coreIdx u.cur)).estSat = (coreOf u (coreIdx u.cur)).estSat
  ports : (coreOf t (coreIdx u.cur)).ports = (coreOf u (coreIdx u.cur)).ports

/-- R116: of the vector registers only elements of the operand `d` below VL have changed: those that `f` names. -/
structure Wrote (u t : State) (v : VEnv) (d : Nat) (f : Nat → Option Word) : Prop where
  elems : ∀ e < vlmaxOf v.a, elemW (arcOf t) d e =
    if e < v.a.vl then (f e).getD (elemW (arcOf u) d e) else elemW (arcOf u) d e
  others : ∀ r, r < d ∨ d + vG v.a ≤ r → listGet [] (arcOf t).regs r = listGet [] (arcOf u).regs r

/-- No vector register has changed. -/
def SameRegs (u t : State) : Prop := (arcOf t).regs = (arcOf u).regs ∧ (arcOf t).written = (arcOf u).written

/-- The mask registers, the codebooks and the result queue are as they were. -/
def SameSide (u t : State) : Prop :=
  (arcOf t).masks = (arcOf u).masks ∧ (arcOf t).codebooks = (arcOf u).codebooks ∧ (arcOf t).results = (arcOf u).results

/-- R119, R159: MFMT after a write of the elements of `d` that `f` names: a write of v31 clears SC. -/
def scaleCleared (u : State) (v : VEnv) (d : Nat) (f : Nat → Option Word) : Word :=
  if d = 31 ∧ (List.range v.a.vl).any (fun e => (f e).isSome) then setFld (arcOf u).mfmt 7 1 0 else (arcOf u).mfmt

/-- What an array-side instruction that writes nothing of the vector side makes of its strand: it goes on, with flags ORed in. -/
def stepped (fl : Word) (t : Strand) : Strand :=
  { t with
    pc := if t.arc.viq = [] then t.pc + 4 else t.pc, sflags := t.sflags ||| fl, blocked := none, hostAnswer := none,
    stripHead := if t.arc.viq = [] then false else t.stripHead,
    arc := { t.arc with lane := 0, part := none, viq := t.arc.viq.tail } }

/-- R132, R201: the strand after an instruction of the word `w` has been dispatched, with the scalar operands `x` and `y`, behind the
entries of its VIQ, where the next one is no strip head. -/
def queued (w : BitVec 32) (x y : Word) (t : Strand) : Strand :=
  { t with
    pc := t.pc + 4, blocked := none, hostAnswer := none, stripHead := false, atStrip := false,
    arc := { t.arc with viq := t.arc.viq ++ [⟨w, t.pc, x, y, t.stripHead⟩] } }

/-- R183, R201, R204: behind an entry that waits on the array side an instruction that passes its issue enters the VIQ, and the control
side goes on; a full VIQ stalls issue. -/
def QueuesBehind (s : State) (i : Instr) : Prop :=
  ∀ w, encode i = some w → behind (strandOf s s.cur) = true →
    (32 ≤ (arcOf s).viq.length → Completes s i fun t => { t with blocked := some .viq }) ∧
    ((arcOf s).viq.length < 32 → ∃ a b, Completes s i (queued w (reg s s.cur a) (reg s s.cur b)))

/-- R183, R201: the strand after an instruction of the word `w`, with the scalar operands `x` and `y`, has come to wait on the array side:
it has been dispatched into the VIQ, or was its oldest entry and stays so. -/
def waitsOn (a : ArrayWait) (w : BitVec 32) (x y : Word) (t : Strand) : Strand :=
  if t.arc.viq = [] then { queued w x y t with arc := { (queued w x y t).arc with waits := some a } }
  else { t with blocked := none, arc := { t.arc with waits := some a } }

/-- R201: the state in which the oldest entry of a strand's VIQ runs while the control side has gone on. -/
def headState (s : State) (id : Nat) : State :=
  modStrand { s with cur := id } id fun t =>
    { t with slot := .run, blocked := none, hostAnswer := entryAnswer t.arc, arc := { t.arc with waits := none } }

/-- R201, R210: the strand when its oldest entry has completed, which has made `t` of it: the control side is as it was in `old`, and the
SBARs that the entry was in E of count it off. -/
def headDone (old t : Strand) : Strand :=
  { t with
    slot := old.slot, blocked := old.blocked, hostAnswer := old.hostAnswer,
    holds := t.holds.map fun h => { h with ahead := h.ahead - 1 },
    arc := { t.arc with waits := if t.arc.viq.isEmpty then none else some .turn } }

/-- R63, R127, R229: an instruction that enters the VIQ traps at issue: with ILLEGAL when it is bad or entries are held, then with
VDEAD without bays, TVAL holding the word and LANE 0. -/
def ArrayIssueTraps (s : State) (i : Instr) (bad : Bool) : Prop :=
  ∀ w, encode i = some w → ((arcOf s).viq = [] ∨ behind (strandOf s s.cur) = true) →
    ((heldOn (strandOf s s.cur) = true ∨ bad = true) → TrapsHere s i cILLEGAL (w.zeroExtend 64)) ∧
    (heldOn (strandOf s s.cur) = false → bad = false → stNoBays (strandOf s s.cur) = true →
      Completes s i fun t => trapped cVDEAD (w.zeroExtend 64) (pcOf s) { t with arc := { t.arc with lane := 0 } })

/-- R63, R127, R201, R228, R229: the course of a vector instruction: its traps at issue; behind entries that have not completed it enters
the VIQ; with LANE at or beyond VL it completes with no further effect, a message that it holds being used up; otherwise what `done`
says. -/
def VecCourse (s : State) (i : Instr) (bad : Bool) (done : Prop) : Prop :=
  ArrayIssueTraps s i bad ∧
  (heldOn (strandOf s s.cur) = false → bad = false → stNoBays (strandOf s s.cur) = false → QueuesBehind s i) ∧
  (heldOn (strandOf s s.cur) = false → bad = false → stNoBays (strandOf s s.cur) = false → behind (strandOf s s.cur) = false →
    0 < (arcOf s).lane → (arcOf s).vl ≤ (arcOf s).lane →
    Completes s i fun t => stepped 0 { t with arc := { t.arc with chainIn := none } }) ∧
  (heldOn (strandOf s s.cur) = false → bad = false → done)

/-- A vector instruction that names `ds` and `vs` completes: it writes to `d` the elements that `f` names, with their flags
and the flags `fl`, and nothing else. -/
def ElementWise (s : State) (ds vs : List (BitVec 5)) (d : Nat) (i : Instr) (fl : VEnv → Word)
    (f : VEnv → Nat → Option (Fl Word)) : Prop :=
  ∀ u v, VecReady s ds vs u v → ∃ t, exec i s = .next t ∧ VecRan u t v (fl v ||| flagsOf v (f v)) ∧ Quiet u t ∧
    Wrote u t v d (fun e => (f v e).map (·.1)) ∧ SameSide u t ∧
    (arcOf t).mfmt = scaleCleared u v d fun e => (f v e).map (·.1)

/-- A vector instruction completes: it writes the lanes below VL of a mask register that `f` names, and nothing else. -/
def MaskWise (s : State) (vs : List (BitVec 5)) (d : BitVec 2) (i : Instr) (fl : VEnv → Word)
    (f : VEnv → Nat → Option (Fl Bool)) : Prop :=
  ∀ u v, VecReady s [] vs u v → ∃ t, exec i s = .next t ∧ VecRan u t v (fl v ||| flagsOf v (f v)) ∧ Quiet u t ∧ SameRegs u t ∧
    (arcOf t).mfmt = (arcOf u).mfmt ∧ (arcOf t).codebooks = (arcOf u).codebooks ∧ (arcOf t).results = (arcOf u).results ∧
    (∀ l, maskBit (arcOf t) d.toNat l =
      if l < v.a.vl then ((f v l).map (·.1)).getD (maskBit (arcOf u) d.toNat l) else maskBit (arcOf u) d.toNat l) ∧
    ∀ m, m ≠ d.toNat → listGet [] (arcOf t).masks m = listGet [] (arcOf u).masks m

/-- R203: a vector instruction completes: it sends results to scalar registers through the result queue, and does nothing
else. -/
def ScalarWise (s : State) (vs : List (BitVec 5)) (i : Instr) (fl : VEnv → Word)
    (rs : VEnv → List (BitVec 5 × Word)) : Prop :=
  ∀ u v, VecReady s [] vs u v → ∃ t, exec i s = .next t ∧ VecRan u t v (fl v) ∧ Quiet u t ∧ SameRegs u t ∧
    (arcOf t).mfmt = (arcOf u).mfmt ∧ (arcOf t).masks = (arcOf u).masks ∧ (arcOf t).codebooks = (arcOf u).codebooks ∧
    (arcOf t).results = (arcOf u).results ++ rs v

/-- R108: a write of VCFG that changes the slot class, of a strand whose registers need no transfer, is taken, and the strand goes on
as `done` says; a register that needs a transfer and a Vault that is off give a trap with VAULT. -/
def ClassChange (s : State) (v : Word) (i : Instr) (done : Strand → Strand) : Prop :=
  let a := arcOf s
  let two := twoSlot (fld v 0 6) (fld v 7 7)
  let out := a.recency.take 16
  let taken := fun (regs : Nat → List Word) (resident : List Nat) => ∃ t : State, exec i s = .next t ∧
    strandOf t s.cur = done { (strandOf s s.cur) with
      arc := refitVl { a with vcfg := v, regs := (arcOf t).regs, resident := resident } } ∧
    (∀ r, listGet [] (arcOf t).regs r = regs r) ∧ t.mem = s.mem ∧ ∀ c, coreOf t c = coreOf s c
  let refused := Completes s i fun t => trapped cVAULT 0 (pcOf s) { t with arc := { t.arc with lane := 0 } }
  (two = true → vTwo a = false →
    ((∀ r ∈ out, regWritten a r = false) →
      taken (fun r => if r ∈ out then [] else listGet [] a.regs r) ((List.range 32).filter fun r => !out.contains r)) ∧
    ((∃ r ∈ out, regWritten a r = true) → vaultOn (strandOf s s.cur) = false → refused)) ∧
  (two = false → vTwo a = true →
    ((∀ r < 32, r ∉ a.resident → regWritten a r = false) →
      taken (fun r => (listGet [] a.regs r).map fun x => BitVec.ofNat 64 (x.toNat % 2 ^ 32)) a.resident) ∧
    ((∃ r < 32, r ∉ a.resident ∧ regWritten a r = true) → vaultOn (strandOf s s.cur) = false → refused))

/-! ## Vector accesses to memory -/

/-- The target `b` bytes on. -/
def byteAt (q : Target) (b : Nat) : Target :=
  match q with
  | .atrium o => .atrium (o + b)
  | .phys k sl => .phys (k + b) sl
  | .coded r o sl => .coded r (o + b) sl
  | .host a => .host (a + b)

/-- A target in the cluster's Atrium or in device memory of this package, outside coded regions. -/
def Near (u : State) (q : Target) : Prop :=
  (∃ o, q = .atrium o) ∨ ∃ k sl, q = .phys k sl ∧ pkgOf u k = pkgNumber u

/-- An element of `n` bytes at `a` is stored on a stream at the near target `q`. -/
structure LaneStores (u : State) (stream n : Nat) (a : Word) (q : Target) : Prop where
  aligned : a.toNat % n = 0
  near : Near u q
  free : streamHeld u u.cur stream [homeDie u q] = false
  home : unreachableTarget u (sidOf u.cur stream) q = false
  plain : Plain u q

/-- What a translation rests on beside the bytes of the tables is the same. -/
structure SameMaps (u t : State) : Prop where
  pkg : t.pkg = u.pkg
  frcfg : t.net.frcfg = u.net.frcfg
  sound : ∀ n, lineBad u n = false → stackLost u n = false → lineBad t n = false
  tlb : t.mem.tlb = u.mem.tlb
  lost : t.mem.lostStacks = u.mem.lostStacks

/-- The addresses `a` of the elements `es` map to the targets `q`, and go on doing so while only the `n` bytes at those
targets change: the stores do not reach the tables that map them. -/
def Steady (u : State) (es : List Nat) (n : Nat) (a : Nat → Word) (q : Nat → Target) : Prop :=
  ∀ t : State, SameMaps u t →
    (∀ c r, (∀ e ∈ es, Apart (clusterIdx u.cur) (q e) n c r) → targetRead t c r 1 = targetRead u c r 1) →
    ∀ e ∈ es, translate t (agentOf u u.cur) true (a e) = .ok (q e)

/-- While only the `n` bytes at the targets of `es` change, an access at `a` goes on failing with `cause`. -/
def SteadyFault (u : State) (es : List Nat) (n : Nat) (q : Nat → Target) (a : Word) (cause : Nat) : Prop :=
  ∀ t : State, SameMaps u t →
    (∀ c r, (∀ e ∈ es, Apart (clusterIdx u.cur) (q e) n c r) → targetRead t c r 1 = targetRead u c r 1) →
    ∃ f : XFault, f.cause = cause ∧ translate t (agentOf u u.cur) true a = .error f

/-- Of all bytes of memory only the `n` bytes at the targets of `es` have changed, and no link or watch on their lines is
left. -/
structure OnlyStores (u t : State) (es : List Nat) (n : Nat) (q : Nat → Target) : Prop where
  bytes : ∀ c r, (∀ e ∈ es, Apart (clusterIdx u.cur) (q e) n c r) → targetRead t c r 1 = targetRead u c r 1
  tags : ∀ g ∈ t.mem.tags, g ∈ u.mem.tags ∧ ∀ e ∈ es, targetLine (q e) ≠ some g.line

/-- R100, R101, R227-R229: a trap on the array side with NEST = 0: the strand enters its handler with EPC at the instruction,
LANE at the element, and the instruction and the entries behind it held for RETS, with the operands of their dispatch. -/
structure HeldEntry (u t : State) (o : Vop) (cause : Nat) (tval : Word) (lane : Nat) : Prop where
  cause : (strandOf t u.cur).cause = BitVec.ofNat 64 cause
  tval : (strandOf t u.cur).tval = tval
  epc : (strandOf t u.cur).epc =
    (((arcOf u).viq.head?.map (·.pc)).getD (strandOf u u.cur).pc).zeroExtend 64
  pc : (strandOf t u.cur).pc = (strandOf u u.cur).tvec.setWidth 48
  status : (strandOf t u.cur).status = trapStatus (strandOf u u.cur).status
  slot : (strandOf t u.cur).slot = .run
  regs : (strandOf t u.cur).regs = (strandOf u u.cur).regs
  lane : (strandOf t u.cur).arc.lane = lane
  held : (strandOf t u.cur).arc.held = ⟨o.word, ((arcOf u).viq.head?.map (·.pc)).getD (strandOf u u.cur).pc, o.op1, o.op2,
    ((arcOf u).viq.head?.map (·.head)).getD (strandOf u u.cur).stripHead⟩ :: (arcOf u).viq.tail
  point : (strandOf t u.cur).arc.heldPoint =
    if (arcOf u).viq = [] then (strandOf u u.cur).pc + 4 else (strandOf u u.cur).pc
  viq : (strandOf t u.cur).arc.viq = []

/-- The same, no element of a register having changed. -/
structure HeldTrap (u t : State) (o : Vop) (cause : Nat) (tval : Word) (lane : Nat) : Prop extends
    HeldEntry u t o cause tval lane where
  elems : ∀ r l, listGet 0 (listGet [] (strandOf t u.cur).arc.regs r) l = listGet 0 (listGet [] (arcOf u).regs r) l

/-! ## The Mezzanine -/

/-- R173: the strand holds the claim on its core's Mezzanine, or takes it now; `u` is the state in which it does. -/
def Claims (s u : State) : Prop :=
  (ownsMezz s s.cur = true ∧ u = s) ∨
  ((mezzOf s s.cur).owner = none ∧
    (claimWaiters s (coreIdx s.cur) = [] ∨ (claimWaiters s (coreIdx s.cur)).head? = some (slotIdx s.cur)) ∧
    u = takeClaim s s.cur)

/-- Beside strands nothing has changed but the core's Mezzanine, which is `m`; of the strands only the one whose turn it is in `u`. -/
structure MezzRan (u t : State) (m : Mezz) : Prop where
  others : ∀ j, j ≠ u.cur → strandOf t j = strandOf u j
  core : coreOf t (coreIdx u.cur) = { (coreOf u (coreIdx u.cur)) with mezz := m }
  cores : ∀ c, c ≠ coreIdx u.cur → coreOf t c = coreOf u c
  mem : t.mem = u.mem
  clusters : t.clusters = u.clusters
  dies : t.dies = u.dies
  pkg : t.pkg = u.pkg
  net : t.net = u.net
  agenda : t.agenda = u.agenda

/-- A Mezzanine instruction completes from the state `u` in which the strand holds the claim: the Mezzanine becomes `m`, the
strand goes on with the flags `fl`, and nothing else changes. -/
def MezzRuns (u : State) (i : Instr) (s : State) (m : Mezz) (fl : Word) : Prop :=
  ∃ t, exec i s = .next t ∧ strandOf t u.cur = stepped fl (strandOf u u.cur) ∧ MezzRan u t m ∧ t.cur = u.cur

/-- R181: K of a tile in the formats of MXCFG. -/
def tileK (m : Mezz) : Nat :=
  if etWidth (fmtType (mxAfmt m.cfg)) ≤ 4 ∧ etWidth (fmtType (mxTfmt m.cfg)) ≤ 4 then 256 else 128

/-- R180, R185: the beats of a tile. -/
def tileBeats (m : Mezz) : Nat := 128 * mxBeats (mxTfmt m.cfg) (tileK m)

/-- R180, R187: the beats of a row for the active tile. -/
def rowBeats (m : Mezz) : Nat := mxBeats (mxAfmt m.cfg) (if (activeTile m).wide then 256 else 128)

/-- R185: a load of the buffer `y`, with a norm row if `x` is 1, makes `n` of the Mezzanine of the state `u`, with the flags `fl`: the
tile's columns come from the oldest beats of FT, and each norm is the exact product of a column with itself, saturated once. -/
def TileLoaded (u : State) (x y : BitVec 1) (n : Mezz) (fl : Word) : Prop :=
  let m := mezzOf u u.cur
  let k := tileK m
  let col := fun (j : Nat) => mxVector (strandBook u u.cur (mxTcb m.cfg)) (mxTfmt m.cfg) k
    ((m.ft.drop (j * mxBeats (mxTfmt m.cfg) k)).take (mxBeats (mxTfmt m.cfg) k))
  ∃ t : Tile, n = { m with ft := m.ft.drop (tileBeats m), t0 := if y = 1 then m.t0 else t, t1 := if y = 1 then t else m.t1 } ∧
    t.wide = decide (k = 256) ∧ t.fmt = mxTfmt m.cfg ∧ t.dist = (x == 1) ∧ (∀ j < 128, listGet [] t.cols j = (col j).1) ∧
    let norm := fun (j : Nat) => mxDot (mxAccExp m.cfg) (listGet [] t.cols j) (listGet [] t.cols j)
    (x = 1 → ∀ j < 128, listGet 0 t.norm j = max (-2 ^ 63) (min (norm j) (2 ^ 63 - 1))) ∧
    (x ≠ 1 → t.norm = (if y = 1 then m.t1 else m.t0).norm) ∧
    fl = orFlags ((List.range 128).map fun j => (col j).2) |||
      if x = 1 ∧ ∃ j < 128, norm j < -2 ^ 63 ∨ 2 ^ 63 ≤ norm j then flagACCSAT else 0

/-- R187: a row of products with the active tile into the accumulators of row `r`, added to them if `x` is 1, makes `n` of the Mezzanine of
the state `u`, with the flags `fl`: the row comes from the oldest beats of FA, and each sum is exact and saturated once. -/
def RowSummed (u : State) (r : BitVec 9) (x : BitVec 1) (n : Mezz) (fl : Word) : Prop :=
  let m := mezzOf u u.cur
  let tile := activeTile m
  let row := mxVector (strandBook u u.cur (mxAcb m.cfg)) (mxAfmt m.cfg) (if tile.wide then 256 else 128) (m.fa.take (rowBeats m))
  let dot := fun (j : Nat) => mxDot (mxAccExp m.cfg) row.1 (listGet [] tile.cols j)
  let z := fun (j : Nat) => (if x = 1 then listGet 0 (tblGet [] m.acc r.toNat) j else 0) +
    (if tile.dist then listGet 0 tile.norm j - 2 * dot j else dot j)
  ∃ a, n = { m with fa := m.fa.drop (rowBeats m), acc := tblSet m.acc r.toNat a } ∧
    (∀ j < 128, listGet 0 a j = max (-2 ^ 63) (min (z j) (2 ^ 63 - 1))) ∧
    fl = row.2 ||| if (List.range 128).any fun j => z j < -2 ^ 63 || 2 ^ 63 ≤ z j then flagACCSAT else 0

/-! ## The Undercroft -/

/-- R321: the bits that a unit's destination receives, from those of its sources. -/
def bulkOut (op : Nat) (x : Nat → Nat) : Nat :=
  if op = 0 then 0 else if op = 1 then x 0 else if op = 2 then x 0 &&& x 1 else if op = 3 then x 0 ||| x 1 else
  if op = 4 then (x 0 &&& x 1) ||| (x 0 &&& x 2) ||| (x 1 &&& x 2) else 2 ^ 8192 - 1 - x 0

/-- R323: device memory before and after the units of a command, each a destination with its sources, formed in their order. -/
inductive BulkUnits (op : Nat) : List Host.Cell → List (Nat × List Nat) → List Host.Cell → Prop
  /-- No unit is left. -/
  | done (m : List Host.Cell) : BulkUnits op m [] m
  /-- The first unit writes its 1,024 bytes, and the others follow. -/
  | unit (m n k : List Host.Cell) (d : Nat) (src : List Nat) (us : List (Nat × List Nat)) :
      cellsRead n d 1024 = bulkOut op (fun i => cellsRead m (listGet 0 src i) 1024) →
      (∀ o, (o < d ∨ d + 1024 ≤ o) → cellsGet n o = cellsGet m o) → BulkUnits op n us k → BulkUnits op m ((d, src) :: us) k

/-! ## Collectives -/

/-- R365: a collective of the state `u` has ended in `t` with one status: `f` gives each participant of the package its status word and
its flags, every contribution of another package is answered and forgotten, and the outcome is kept, unless 2^15 later
numbers of the group are known already. -/
structure CollEnds (u t : State) (gid cseq status : Nat) (f : EngineOp → Word × Word) : Prop where
  ops : t.pkg.engine.ops = u.pkg.engine.ops.map fun o => if isColl gid cseq o && o.ended.isNone then
    { o with ended := some (f o).1, flags := (f o).2 } else o
  sent : ∀ c ∈ collRemote u gid cseq, (c.source, gid, cseq, c.desc.rank, status) ∈ t.pkg.engine.sent
  gone : collRemote t gid cseq = []
  outcome : (laterCseqs u.pkg.engine gid cseq).length < 2 ^ 15 → outcomeOf t gid cseq = some status
  mem : t.mem = u.mem
  strands : t.strands = u.strands

/-- R366: `e` is the exponent of a block of values: the largest ex(x) of its finite values that are not zero, where ex(x) is
floor(log2|x|), or the smallest normal exponent for a subnormal. -/
def BlockExponent (f : FFmt) (block : Val → Prop) (e : Int) : Prop :=
  1 - f.bias ≤ e ∧ (∀ x v, block x → ratOf x = some v → |v| < 2 ^ (e + 1)) ∧
  ∃ x v, block x ∧ ratOf x = some v ∧ v ≠ 0 ∧ (e = 1 - f.bias ∨ 2 ^ e ≤ |v|)

/-- R366: `k` is the value `x` in units of 2^q, rounded to an integer to nearest with ties to even. -/
def TermOf (q : Int) (x : Val) (k : Int) : Prop :=
  ∃ v, ratOf x = some v ∧ |v - k * 2 ^ q| * 2 ≤ 2 ^ q ∧ (|v - k * 2 ^ q| * 2 = 2 ^ q → Even k)

/-- R367: `r` with the flags `g` is a sum of FP32 values, two at a time in some order. -/
inductive FastSum : List Nat → Nat → Word → Prop
  /-- One value is left. -/
  | one (x : Nat) : FastSum [x] x 0
  /-- The values at `i` and then at `j` of those that remain are added. -/
  | add (l : List Nat) (i j r : Nat) (g : Word) : i < l.length → j < (l.eraseIdx i).length →
      FastSum ((fpAdd fFP32 (listGet 0 l i) (listGet 0 (l.eraseIdx i) j)).1 :: (l.eraseIdx i).eraseIdx j) r g →
      FastSum l r ((fpAdd fFP32 (listGet 0 l i) (listGet 0 (l.eraseIdx i) j)).2 ||| g)

/-! ## The host port -/

/-- R330: the slot of sequence number `i` of ring `n` holds its 16 bytes, no other byte of host memory has changed, and the
interrupt is coalesced. -/
structure Slotted (s t : State) (n i : Nat) (payload : Word) (tag attempt source : Nat) : Prop where
  slot : cellsRead t.mem.host (((ringOf s n).base.toNat + 16 * (i % ringSlots (ringOf s n))) % 2 ^ 64) 16 =
    payload.toNat + 2 ^ 64 * (tag % 2 ^ 16) + 2 ^ 80 * (attempt % 256) + 2 ^ 88 * source +
      2 ^ 127 * (1 - i / ringSlots (ringOf s n) % 2)
  frame : ∀ a, (∀ b < 16, a ≠ ((ringOf s n).base.toNat + 16 * (i % ringSlots (ringOf s n))) % 2 ^ 64 + b) →
    cellsGet t.mem.host a = cellsGet s.mem.host a
  device : t.mem = { s.mem with host := t.mem.host }
  base : (ringOf t n).base = (ringOf s n).base
  cfg : (ringOf t n).cfg = (ringOf s n).cfg
  head : (ringOf t n).head = (ringOf s n).head
  others : ∀ m, m ≠ n → ringOf t m = ringOf s m
  pend : (ringOf t n).pend = if fld (ringOf s n).cfg 16 16 ≠ 0 ∧ fld (ringOf s n).cfg 16 16 ≤ (ringOf s n).pend + 1 then 0
    else (ringOf s n).pend + 1
  raised : fld (ringOf s n).cfg 16 16 ≠ 0 → fld (ringOf s n).cfg 16 16 ≤ (ringOf s n).pend + 1 →
    if fld (ringOf s n).cfg 37 11 ∈ s.pkg.unmasked then t.pkg.messages = fld (ringOf s n).cfg 37 11 :: s.pkg.messages
    else t.pkg.messages = s.pkg.messages ∧ fld (ringOf s n).cfg 37 11 ∈ t.pkg.pending

/-- R330: a slot has been posted at TAIL, and TAIL has risen. -/
structure Posted (s t : State) (n : Nat) (payload : Word) (tag attempt source : Nat) : Prop where
  slotted : Slotted s t n (ringOf s n).tail payload tag attempt source
  tail : (ringOf t n).tail = ((ringOf s n).tail + 1) % 2 ^ 32

end Sys2Proof.Machine
end

