-- ==== Sys2Proof/Certificates/Slice0/Obligations.lean ====
section
/-!
DEFINITION. The statements for the provers.
-/

open Sys2Proof Sys2Proof.Machine

/-! ## Scalar integer and floating-point instructions -/

/-- R82: the results of the instructions of two register sources. Every one writes its result to sA, s0 discarding it, sets no
flag and changes nothing else.

R82, R49, R84: the results of the unary, immediate and bit-field instructions, with the counts of bits said through the bits
themselves. -/
def Obligations.ScalarIntegerResults : Prop :=
  (∀ (s : State) (a b c : BitVec 5) (x y : Word), reg s s.cur b = x → reg s s.cur c = y →
     Writes s (.add a b c) a (x + y) ∧ Writes s (.sub a b c) a (x - y) ∧
     Writes s (.and a b c) a (x &&& y) ∧ Writes s (.or a b c) a (x ||| y) ∧ Writes s (.xor a b c) a (x ^^^ y) ∧
     Writes s (.sll a b c) a (x <<< (y.toNat % 64)) ∧ Writes s (.srl a b c) a (x >>> (y.toNat % 64)) ∧
     Writes s (.sra a b c) a (BitVec.ofInt 64 (x.toInt / 2 ^ (y.toNat % 64))) ∧
     Writes s (.slt a b c) a (if x.toInt < y.toInt then 1 else 0) ∧
     Writes s (.sltu a b c) a (if x.toNat < y.toNat then 1 else 0) ∧
     Writes s (.min a b c) a (BitVec.ofInt 64 (min x.toInt y.toInt)) ∧
     Writes s (.max a b c) a (BitVec.ofInt 64 (max x.toInt y.toInt)) ∧
     Writes s (.minu a b c) a (BitVec.ofNat 64 (min x.toNat y.toNat)) ∧
     Writes s (.maxu a b c) a (BitVec.ofNat 64 (max x.toNat y.toNat)) ∧
     Writes s (.mul a b c) a (BitVec.ofNat 64 (x.toNat * y.toNat)) ∧
     Writes s (.mulh a b c) a (BitVec.ofInt 64 (x.toInt * y.toInt / 2 ^ 64)) ∧
     Writes s (.mulhu a b c) a (BitVec.ofNat 64 (x.toNat * y.toNat / 2 ^ 64)) ∧
     ∀ k : BitVec 2, Writes s (.addsc a b c k) a (x + y * BitVec.ofNat 64 (2 ^ k.toNat))) ∧
  (∀ (s : State) (a b : BitVec 5) (x y : Word), reg s s.cur b = x → reg s s.cur a = y →
     (∃ n : Nat, Writes s (.clz a b) a (BitVec.ofNat 64 n) ∧ n ≤ 64 ∧ x.toNat < 2 ^ (64 - n) ∧
       (n < 64 → 2 ^ (63 - n) ≤ x.toNat)) ∧
     (∃ n : Nat, Writes s (.ctz a b) a (BitVec.ofNat 64 n) ∧ n ≤ 64 ∧ (∀ i < n, x.getLsbD i = false) ∧
       (n < 64 → x.getLsbD n = true)) ∧
     Writes s (.popc a b) a (BitVec.ofNat 64 ((List.range 64).countP fun i => x.getLsbD i)) ∧
     Writes s (.sextw a b) a ((x.setWidth 32).signExtend 64) ∧ Writes s (.zextw a b) a ((x.setWidth 32).zeroExtend 64) ∧
     (∀ i : BitVec 16, Writes s (.addi a b i) a (x + i.signExtend 64) ∧ Writes s (.andi a b i) a (x &&& i.zeroExtend 64) ∧
       Writes s (.ori a b i) a (x ||| i.zeroExtend 64) ∧ Writes s (.xori a b i) a (x ^^^ i.zeroExtend 64)) ∧
     (∀ k : BitVec 11, Writes s (.slti a b k) a (if x.toInt < k.toInt then 1 else 0) ∧
       Writes s (.sltiu a b k) a (if x.toNat < (k.signExtend 64).toNat then 1 else 0)) ∧
     (∀ k : BitVec 6, Writes s (.slli a b k) a (x <<< k.toNat) ∧ Writes s (.srli a b k) a (x >>> k.toNat) ∧
       Writes s (.srai a b k) a (BitVec.ofInt 64 (x.toInt / 2 ^ k.toNat))) ∧
     (∀ (h : BitVec 2) (i : BitVec 16),
       (∃ v : Word, Writes s (.lih a h i) a v ∧ v.extractLsb' (16 * h.toNat) 16 = i ∧
         ∀ j < 64, j / 16 ≠ h.toNat → v.getLsbD j = y.getLsbD j) ∧
       Writes s (.lihZ a h i) a (BitVec.ofNat 64 (i.toNat * 2 ^ (16 * h.toNat)))) ∧
     (∀ p l : BitVec 6, p.toNat + l.toNat < 64 →
       Writes s (.bext a b p l) a (BitVec.ofNat 64 (x.toNat / 2 ^ p.toNat % 2 ^ (l.toNat + 1))) ∧
       ∃ v : Word, Writes s (.bins a b p l) a v ∧ ∀ j < 64,
         v.getLsbD j = if p.toNat ≤ j ∧ j ≤ p.toNat + l.toNat then x.getLsbD (j - p.toNat) else y.getLsbD j))

/-- R83: division. The quotient is rounded toward zero, the remainder takes the sign of the dividend; a quotient that is not
representable saturates toward the sign of the true result, and the remainder is then 0. DIVU and REMU read unsigned values
and by zero give 2^64 - 1 and 0, or 0 and 0 for a dividend of 0. Nothing traps and no flag is set. -/
def Obligations.DivisionCorners : Prop :=
  ∀ (s : State) (a b c : BitVec 5) (x y : Word), reg s s.cur b = x → reg s s.cur c = y →
    (y ≠ 0 → ¬ (x.toInt = -2 ^ 63 ∧ y.toInt = -1) →
      ∃ q r : Int, x.toInt = q * y.toInt + r ∧ |r| < |y.toInt| ∧ 0 ≤ r * x.toInt ∧
        Writes s (.div a b c) a (BitVec.ofInt 64 q) ∧ Writes s (.rem a b c) a (BitVec.ofInt 64 r)) ∧
    (y = 0 → 0 < x.toInt → Writes s (.div a b c) a (BitVec.ofInt 64 (2 ^ 63 - 1))) ∧
    (y = 0 → x.toInt < 0 → Writes s (.div a b c) a (BitVec.ofInt 64 (-2 ^ 63))) ∧
    (y = 0 → x = 0 → Writes s (.div a b c) a 0) ∧
    (x.toInt = -2 ^ 63 → y.toInt = -1 →
      Writes s (.div a b c) a (BitVec.ofInt 64 (2 ^ 63 - 1)) ∧ Writes s (.rem a b c) a 0) ∧
    (y = 0 → Writes s (.rem a b c) a 0 ∧ Writes s (.remu a b c) a 0 ∧
      Writes s (.divu a b c) a (if x = 0 then 0 else BitVec.ofNat 64 (2 ^ 64 - 1))) ∧
    (y ≠ 0 → Writes s (.divu a b c) a (BitVec.ofNat 64 (x.toNat / y.toNat)) ∧
      Writes s (.remu a b c) a (BitVec.ofNat 64 (x.toNat % y.toNat)))

/-- R89-R92: every scalar floating-point instruction completes: it reads FP32 operands from bits [31:0] or FP64 operands from
all bits, writes its result with zeros above it, ORs its flags into SFLAGS and changes nothing else.

R92: every conversion completes, with its result and flags, and changes nothing else.

R90, R91: what a NaN operand does, in both formats: the arithmetic results are the canonical NaN, comparisons are false,
selections return the other operand, and a signalling NaN sets NV.

R20, R21: rounding, for sums, differences, products, quotients and fused sums of finite operands, and for conversions of
finite values, in the formats that R21 lists as those with infinities, E5M2, BF16, FP16, FP19, FP32 and FP64: a finite
result is a nearest value of the format, and of two equally near ones it is even; the result is an infinity of the exact
sign, with OF and NX, exactly when the exact result is as large as the largest finite value and half a unit of its last
place; NX says that the result is not exact, and UF that it is not exact and tiny: below the smallest normal by more than a
quarter of a unit of the last place that a normal result has. Square roots, selections and comparisons are said through the
model's operations alone. -/
def Obligations.ScalarFloat : Prop :=
  (∀ (s : State) (a b c : BitVec 5) (d : BitVec 1) (f : FFmt) (x y z : Nat),
     f = (if d = 1 then fFP64 else fFP32) → x = (reg s s.cur b).toNat % 2 ^ (if d = 1 then 64 else 32) →
     y = (reg s s.cur c).toNat % 2 ^ (if d = 1 then 64 else 32) →
     z = (reg s s.cur a).toNat % 2 ^ (if d = 1 then 64 else 32) →
     let done := fun (i : Instr) (r : Fl Nat) => WritesFl s i a (BitVec.ofNat 64 r.1) r.2
     let truth := fun (r : Fl Bool) => ((if r.1 then 1 else 0, r.2) : Fl Nat)
     done (.fadd a b c d) (fpAdd f x y) ∧ done (.fsub a b c d) (fpSub f x y) ∧ done (.fmul a b c d) (fpMul f x y) ∧
     done (.fdiv a b c d) (fpDiv f x y) ∧ done (.fsqrt a b d) (fpSqrt f x) ∧ done (.fma a b c d) (fpFma f x y z) ∧
     done (.fmin a b c d) (fpPick true f x y) ∧ done (.fmax a b c d) (fpPick false f x y) ∧
     done (.feq a b c d) (truth (fpEq f x y)) ∧ done (.flt a b c d) (truth (fpLt f x y)) ∧
     done (.fle a b c d) (truth (fpLe f x y)) ∧ done (.fclass a b d) (fpClass f x, 0)) ∧
  (∀ (s : State) (a b : BitVec 5) (x : Word), reg s s.cur b = x →
     let done := fun (i : Instr) (r : Fl Nat) => WritesFl s i a (BitVec.ofNat 64 r.1) r.2
     let single := readFloat fFP32 (x.toNat % 2 ^ 32)
     let double := readFloat fFP64 x.toNat
     let i64 := fun (v : Val) => ((wrapInt 64 (toInt (-2 ^ 63) (2 ^ 63 - 1) v).1, (toInt (-2 ^ 63) (2 ^ 63 - 1) v).2) : Fl Nat)
     let n64 := fun (v : Val) => ((wrapInt 64 (toInt 0 (2 ^ 64 - 1) v).1, (toInt 0 (2 ^ 64 - 1) v).2) : Fl Nat)
     done (.fcvtDS a b) (toFloat fFP64 single) ∧ done (.fcvtSD a b) (toFloat fFP32 double) ∧
     done (.fcvtSL a b) (toFloat fFP32 (intVal x.toInt)) ∧ done (.fcvtDL a b) (toFloat fFP64 (intVal x.toInt)) ∧
     done (.fcvtSLu a b) (toFloat fFP32 (intVal x.toNat)) ∧ done (.fcvtDLu a b) (toFloat fFP64 (intVal x.toNat)) ∧
     done (.fcvtLS a b) (i64 single) ∧ done (.fcvtLD a b) (i64 double) ∧
     done (.fcvtLuS a b) (n64 single) ∧ done (.fcvtLuD a b) (n64 double)) ∧
  (∀ (f : FFmt) (x y z : Nat), (f = fFP32 ∨ f = fFP64) → isNaN (readFloat f x) = true →
     (fpAdd f x y).1 = fNaN f ∧ (fpAdd f y x).1 = fNaN f ∧ (fpSub f x y).1 = fNaN f ∧ (fpSub f y x).1 = fNaN f ∧
     (fpMul f x y).1 = fNaN f ∧ (fpMul f y x).1 = fNaN f ∧ (fpDiv f x y).1 = fNaN f ∧ (fpDiv f y x).1 = fNaN f ∧
     (fpSqrt f x).1 = fNaN f ∧ (fpFma f x y z).1 = fNaN f ∧ (fpFma f y x z).1 = fNaN f ∧ (fpFma f y z x).1 = fNaN f ∧
     (fpEq f x y).1 = false ∧ (fpEq f y x).1 = false ∧ fpLt f x y = (false, flagNV) ∧ fpLt f y x = (false, flagNV) ∧
     fpLe f x y = (false, flagNV) ∧ fpLe f y x = (false, flagNV) ∧
     (∀ least, isNaN (readFloat f y) = false → y < 2 ^ fWidth f →
       (fpPick least f x y).1 = y ∧ (fpPick least f y x).1 = y) ∧
     (∀ least, isNaN (readFloat f y) = true → (fpPick least f x y).1 = fNaN f) ∧
     (isSNaN (readFloat f x) = true → (fpAdd f x y).2 &&& flagNV = flagNV ∧ (fpMul f x y).2 &&& flagNV = flagNV ∧
       (fpDiv f x y).2 &&& flagNV = flagNV ∧ (fpSqrt f x).2 &&& flagNV = flagNV ∧ (fpEq f x y).2 &&& flagNV = flagNV ∧
       (fpPick true f x y).2 &&& flagNV = flagNV ∧ (fpPick false f x y).2 &&& flagNV = flagNV)) ∧
  (let formats := [fE5M2, fBF16, fFP16, fFP19, fFP32, fFP64]
   ∀ f ∈ formats, ∀ x y z : Nat, ∀ a b c : ℚ,
     ratOf (readFloat f x) = some a → ratOf (readFloat f y) = some b → ratOf (readFloat f z) = some c →
     let least := (2 : ℚ) ^ (1 - (f.bias : ℤ))
     let bound := (2 - (1 / 2) ^ (f.m + 1)) * (2 : ℚ) ^ f.bias
     let rounds := fun (r : Fl Nat) (v : ℚ) =>
       r.1 < 2 ^ fWidth f ∧
       (|v| < bound → ∃ q : ℚ, ratOf (readFloat f r.1) = some q ∧
         (∀ (k : Nat) (p : ℚ), ratOf (readFloat f k) = some p →
           |q - v| ≤ |p - v| ∧ (p ≠ q → |q - v| = |p - v| → r.1 % 2 = 0)) ∧
         r.2 = (if q = v then 0 else flagNX ||| (if |v| < least * (1 - (1 / 2) ^ (f.m + 2)) then flagUF else 0))) ∧
       (bound ≤ |v| → readFloat f r.1 = .inf (decide (v < 0)) ∧ r.2 = flagOF ||| flagNX)
     rounds (fpAdd f x y) (a + b) ∧ rounds (fpSub f x y) (a - b) ∧ rounds (fpMul f x y) (a * b) ∧
       rounds (fpFma f x y z) (a * b + c) ∧ (b ≠ 0 → rounds (fpDiv f x y) (a / b)) ∧
       ∀ g ∈ formats, ∀ (w : Nat) (d : ℚ), ratOf (readFloat g w) = some d → rounds (toFloat f (readFloat g w)) d)

/-- R41, R87: NOP and PREF have no effect apart from advancing the program counter, whatever the address; R97: YIELD too.

R97: WAIT goes on at once when the strand has no engine command outstanding and parks otherwise; the timeout lets a parked
WAIT go on. Neither has another effect. When a WAIT parks is the model's choice among those that R97 allows (log entry 40). -/
def Obligations.HintsAndWaits : Prop :=
  (∀ s : State, Completes s .nop past ∧ Completes s .yield past ∧
     ∀ (h : BitVec 1) (b : BitVec 5) (i : BitVec 13), Completes s (.pref h b i) past) ∧
  (∀ s : State,
     let idle := issuedCmds s (clusterIdx s.cur) (strandOf s s.cur).issuer = [] ∧ bulksOf s s.cur = [] ∧ openOps s s.cur = []
     (idle → Completes s .wait past) ∧
     (¬ idle → Completes s .wait fun t => { t with slot := .park, blocked := some .wait }) ∧
     ∀ id, (strandOf s id).slot = .park → (strandOf s id).blocked = some .wait →
       ∃ t : State, exec (.waitTimeout id) s = .next t ∧ strandOf t id = { past (strandOf s id) with slot := .run } ∧
         (∀ j, j ≠ id → strandOf t j = strandOf s j) ∧ t.mem = s.mem ∧ t.cores = s.cores ∧ t.dies = s.dies ∧ t.pkg = s.pkg)

/-! ## Control transfers, traps and return -/

/-- R93, R52: the conditional branches: taken, they go to PC + 4 x sext(OFF16), and a target that is not canonical traps at the
branch; not taken, they go on. Nothing else changes.

R93: JAL and JALR write PC + 4 as the link, zero-extended (log entry 54), and jump; the traps on their targets write no
link.

R94, R196: BENG tests one bit of the engine's status word, as one snapshot, against the sense; a strand that has no command
on an engine reads its DONE as 1. DONE of the Mezzanine is 1 for a strand that does not own it; for its owner it says
whether a Mezzanine instruction of the strand is held or stands in the VIQ, since every other has completed (log entry 2).
FAULT of a copy engine reads 0 until DONE (log entry 79). -/
def Obligations.ControlFlow : Prop :=
  (∀ (s : State) (a b : BitVec 5) (o : BitVec 16) (x y p : Word), reg s s.cur a = x → reg s s.cur b = y →
     p = (strandOf s s.cur).pc.signExtend 64 + 4 * o.signExtend 64 →
     let go := fun (i : Instr) (taken : Prop) =>
       (¬ taken → Completes s i past) ∧
       (taken → canonical p = true → Completes s i (goneTo (p.setWidth 48))) ∧
       (taken → canonical p = false → TrapsHere s i cPAGE_FAULT p)
     go (.beq a b o) (x = y) ∧ go (.bne a b o) (x ≠ y) ∧ go (.blt a b o) (x.toInt < y.toInt) ∧
     go (.bge a b o) (y.toInt ≤ x.toInt) ∧ go (.bltu a b o) (x.toNat < y.toNat) ∧ go (.bgeu a b o) (y.toNat ≤ x.toNat)) ∧
  (∀ (s : State) (a b : BitVec 5) (o : BitVec 26) (i : BitVec 16) (p q : Word),
     p = (strandOf s s.cur).pc.signExtend 64 + 4 * o.signExtend 64 → q = reg s s.cur b + i.signExtend 64 →
     (canonical p = true → Completes s (.jal o) fun t => goneTo (p.setWidth 48) (putReg t 31 (nextOf s))) ∧
     (canonical p = false → TrapsHere s (.jal o) cPAGE_FAULT p) ∧
     (q.toNat % 4 = 0 → canonical q = true →
       Completes s (.jalr a b i) fun t => goneTo (q.setWidth 48) (putReg t a (nextOf s))) ∧
     (q.toNat % 4 = 0 → canonical q = false → TrapsHere s (.jalr a b i) cPAGE_FAULT q) ∧
     (q.toNat % 4 ≠ 0 → TrapsHere s (.jalr a b i) cMISALIGN q)) ∧
  (∀ (s : State) (e : BitVec 5) (x : BitVec 1) (b : BitVec 4) (o : BitVec 16) (p : Word),
     p = (strandOf s s.cur).pc.signExtend 64 + 4 * o.signExtend 64 →
     (((engineStatus s s.cur e.toNat).testBit b.toNat = (x == 1)) →
       (canonical p = true → Completes s (.beng e x b o) (goneTo (p.setWidth 48))) ∧
       (canonical p = false → TrapsHere s (.beng e x b o) cPAGE_FAULT p)) ∧
     (((engineStatus s s.cur e.toNat).testBit b.toNat ≠ (x == 1)) → Completes s (.beng e x b o) past) ∧
     (e.toNat ≤ 3 → (engineQueue s (clusterIdx s.cur) e.toNat).all (·.issuer != (strandOf s s.cur).issuer) = true →
       (engineStatus s s.cur e.toNat).testBit 0 = true) ∧
     (ownsMezz s s.cur = false → (engineStatus s s.cur 4).testBit 0 = true) ∧
     (ownsMezz s s.cur = true → ((engineStatus s s.cur 4).testBit 0 = true ↔
       ∀ h ∈ (arcOf s).held ++ (arcOf s).viq, h.word.extractLsb' 26 6 ≠ 0x30)) ∧
     (bulksOf s s.cur = [] → (engineStatus s s.cur 5).testBit 0 = true) ∧
     (openOps s s.cur = [] → (engineStatus s s.cur 6).testBit 0 = true))

/-- R95: SVC and BRK always trap, with cause SVC and BRK and k in TVAL; EPC is the next instruction for SVC and the BRK itself
for BRK. -/
def Obligations.SvcAndBrkTrap : Prop :=
  ∀ (s : State) (k : BitVec 11),
    Completes s (.svc k) (trapped cSVC (k.zeroExtend 64) (nextOf s)) ∧
    Completes s (.brk k) (trapped cBRK (k.zeroExtend 64) (pcOf s))

/-- R39, R40: a guard word and an illegal word trap at themselves, with the word in TVAL.

R101: trap entry on STATUS: PP takes PRIV, PRIV becomes S, NEST becomes 1 and every other bit stays; return takes PRIV from
PP, clears NEST and keeps every other bit. The strand enters at TVEC with CAUSE, EPC and TVAL written and its registers,
SFLAGS and vector side as they were.

R53, R101, R229: RETS at S returns: STATUS as R101 says, and the program counter is EPC, or the resume point with the held
entries redispatched; at U it traps with PRIV. A due pre-emption whose PREEMPT trap was taken is then saved (R103), unless a
held entry or a link defers it. -/
def Obligations.TrapEntryAndReturn : Prop :=
  (∀ (s : State) (w : BitVec 32), TrapsHere s (.guard w) 0x02 (w.zeroExtend 64) ∧
     TrapsHere s (.illegalInstruction w) 0x01 (w.zeroExtend 64)) ∧
  ((∀ st : Word, fld (trapStatus st) 0 1 = 1 ∧ fld (trapStatus st) 1 1 = fld st 0 1 ∧ fld (trapStatus st) 3 1 = 1 ∧
     (trapStatus st).extractLsb' 4 60 = st.extractLsb' 4 60 ∧ fld (trapStatus st) 2 1 = fld st 2 1 ∧
     fld (returnStatus st) 0 1 = fld st 1 1 ∧ fld (returnStatus st) 3 1 = 0 ∧ fld (returnStatus st) 1 1 = fld st 1 1 ∧
     fld (returnStatus st) 2 1 = fld st 2 1 ∧ (returnStatus st).extractLsb' 4 60 = st.extractLsb' 4 60) ∧
   ∀ (t : Strand) (c : Nat) (v p : Word), stNest t = false →
     (trapped c v p t).cause.toNat = c % 2 ^ 64 ∧ (trapped c v p t).epc = p ∧ (trapped c v p t).tval = v ∧
     (trapped c v p t).pc = t.tvec.setWidth 48 ∧ (trapped c v p t).regs = t.regs ∧ (trapped c v p t).sflags = t.sflags ∧
     (trapped c v p t).arc = t.arc) ∧
  (∀ s : State,
     (stSuper (strandOf s s.cur) = false → TrapsHere s .rets 0x0E 0x64000800) ∧
     (stSuper (strandOf s s.cur) = true → ∃ t : State, exec .rets s = .next t ∧ OnlyStrand s t ∧
       ((strandOf t s.cur).regs = (strandOf s s.cur).regs ∧ (strandOf t s.cur).sflags = (strandOf s s.cur).sflags) ∧
       (strandOf t s.cur).status = returnStatus (strandOf s s.cur).status ∧
       ((strandOf s s.cur).arc.held = [] →
         (strandOf t s.cur).pc = (strandOf s s.cur).epc.setWidth 48 ∧ (strandOf t s.cur).arc = (strandOf s s.cur).arc) ∧
       ((strandOf s s.cur).arc.held ≠ [] →
         (strandOf t s.cur).pc = (strandOf s s.cur).arc.heldPoint ∧
         (strandOf t s.cur).arc.viq = (strandOf s s.cur).arc.held ∧ (strandOf t s.cur).arc.held = []) ∧
       ((strandOf t s.cur).slot = if (strandOf s s.cur).due = true ∧ (strandOf s s.cur).preemptTrapped = true ∧
           (strandOf t s.cur).arc.viq = [] ∧ linksDefer s s.cur = false then .save else (strandOf s s.cur).slot)))

/-! ## Scalar memory, atomics and ordering -/

/-- R85, R86, R224: a load whose access is aligned, mapped, permitted and good completes: its bytes, extended as the mnemonic
says, go to sA; the strand goes on; no byte of memory is written (a coded line may be filled, R302). A HOST page is answered
first.

R302: filling a coded line changes no byte that anything reads under one SEALED bit: device memory, host memory, the Atria,
and every coded byte.

R85, R214, R304: a store whose access is aligned, mapped, permitted and finite completes: the low bytes of sA stand at the
target, every other byte of memory reads as before, no link or watch on the line is left, and the strand goes on. That a
HOST page waits for the host first, and that a write to another package waits for its acknowledgement, is the model's
reading (log entries 12, 13). -/
def Obligations.ScalarAccesses : Prop :=
  (∀ (s : State) (a b : BitVec 5) (i : BitVec 13) (p : Word), p = reg s s.cur b + i.signExtend 64 →
     let loads := fun (i : Instr) (n : Nat) (f : Nat → Word) =>
       ∀ q, Reaches s false p n q → targetBad s (clusterIdx s.cur) q n = false → HostAnswered s q →
         ∃ t : State, exec i s = .next t ∧ OnlyAccess s t ∧ t.clusters = s.clusters ∧ t.mem = (targetFill s q).mem ∧
           t.pkg = (targetFill s q).pkg ∧
           strandOf t s.cur = past (putReg (strandOf s s.cur) a (f (targetRead s (clusterIdx s.cur) q n)))
     loads (.ldb a b i) 1 (fun v => (BitVec.ofNat 8 v).signExtend 64) ∧
     loads (.ldh a b i) 2 (fun v => (BitVec.ofNat 16 v).signExtend 64) ∧
     loads (.ldw a b i) 4 (fun v => (BitVec.ofNat 32 v).signExtend 64) ∧
     loads (.ldd a b i) 8 (fun v => BitVec.ofNat 64 v) ∧ loads (.ldbu a b i) 1 (fun v => BitVec.ofNat 64 v) ∧
     loads (.ldhu a b i) 2 (fun v => BitVec.ofNat 64 v) ∧ loads (.ldwu a b i) 4 (fun v => BitVec.ofNat 64 v)) ∧
  (∀ (s : State) (g o : Nat) (sl : Bool) (c : Nat) (r : Target),
     (∀ g' o' sl', r = .coded g' o' sl' → codedKey g' (o' / 64) = codedKey g (o / 64) → g' = g ∧ o' / 64 = o / 64 ∧ sl' = sl) →
     targetRead (targetFill s (.coded g o sl)) c r 1 = targetRead s c r 1) ∧
  (∀ (s : State) (a b : BitVec 5) (i : BitVec 13) (p : Word), MemoriesWf s → p = reg s s.cur b + i.signExtend 64 →
     let stores := fun (i : Instr) (n : Nat) =>
       ∀ q v, Reaches s true p n q → Plain s q → v = (reg s s.cur a).toNat % 2 ^ (8 * n) → nonfiniteWrite s q n v = false →
         ∃ t : State, exec i s = .next t ∧ OnlyAccess s t ∧ strandOf t s.cur = past (strandOf s s.cur) ∧ Stored s t q n v ∧
           ∀ e ∈ t.mem.tags, e ∈ s.mem.tags ∧ (∀ k sl, q = .phys k sl → e.line ≠ .phys (k / 64)) ∧
             ∀ g o sl, q = .coded g o sl → e.line ≠ .coded g (o / 64)
     stores (.stb a b i) 1 ∧ stores (.sth a b i) 2 ∧ stores (.stw a b i) 4 ∧ stores (.std a b i) 8)

/-- R86: the precise traps of scalar accesses, in their order, with TVAL: MISALIGN, then what translation refuses, then a store
that would leave a coded element non-finite, then bad data on a load. -/
def Obligations.ScalarAccessTraps : Prop :=
  ∀ (s : State) (a b : BitVec 5) (i : BitVec 13) (p : Word), p = reg s s.cur b + i.signExtend 64 →
    let misaligned := fun (i : Instr) (n : Nat) => p.toNat % n ≠ 0 → TrapsHere s i cMISALIGN p
    let refused := fun (i : Instr) (n : Nat) (write : Bool) => ∀ f, p.toNat % n = 0 →
      translate s (agentOf s s.cur) write p = .error f → ∃ t : State, exec i s = .next t ∧
        strandOf t s.cur = trapped f.cause p (pcOf s) (strandOf s s.cur) ∧ t.mem = s.mem ∧ t.clusters = s.clusters
    let nonfinite := fun (i : Instr) (n : Nat) => ∀ q, Reaches s true p n q →
      nonfiniteWrite s q n ((reg s s.cur a).toNat % 2 ^ (8 * n)) = true →
        TrapsHere s i cCODED_NONFINITE (p &&& ~~~7)
    let bad := fun (i : Instr) (n : Nat) => ∀ q, Reaches s false p n q → targetBad s (clusterIdx s.cur) q n = true →
      TrapsHere s i cMEM_UE p
    misaligned (.ldh a b i) 2 ∧ misaligned (.ldhu a b i) 2 ∧ misaligned (.ldw a b i) 4 ∧ misaligned (.ldwu a b i) 4 ∧
    misaligned (.ldd a b i) 8 ∧ misaligned (.sth a b i) 2 ∧ misaligned (.stw a b i) 4 ∧ misaligned (.std a b i) 8 ∧
    refused (.ldb a b i) 1 false ∧ refused (.ldh a b i) 2 false ∧ refused (.ldw a b i) 4 false ∧
    refused (.ldd a b i) 8 false ∧ refused (.ldbu a b i) 1 false ∧ refused (.ldhu a b i) 2 false ∧
    refused (.ldwu a b i) 4 false ∧ refused (.stb a b i) 1 true ∧ refused (.sth a b i) 2 true ∧
    refused (.stw a b i) 4 true ∧ refused (.std a b i) 8 true ∧
    nonfinite (.stb a b i) 1 ∧ nonfinite (.sth a b i) 2 ∧ nonfinite (.stw a b i) 4 ∧ nonfinite (.std a b i) 8 ∧
    bad (.ldb a b i) 1 ∧ bad (.ldh a b i) 2 ∧ bad (.ldw a b i) 4 ∧ bad (.ldd a b i) 8 ∧ bad (.ldbu a b i) 1 ∧
    bad (.ldhu a b i) 2 ∧ bad (.ldwu a b i) 4

/-- R88, R205: LDT and STT reach the shared area, the slot's own private area below 0, and at S all private areas; they trap
with MISALIGN and ACCESS otherwise. An access that stream SC does not hold back completes. A store changes its eight bytes
of the TCM alone. -/
def Obligations.TcmAccesses : Prop :=
  ∀ (s : State) (a b : BitVec 5) (i : BitVec 13) (w : Word), w = reg s s.cur b + i.signExtend 64 →
    let at' := fun (p : Nat) => (0 ≤ w.toInt ∧ w.toInt < 0x3C000 ∧ (p : Int) = w.toInt) ∨
      (-4096 ≤ w.toInt ∧ w.toInt < 0 ∧ (p : Int) = 0x3C000 + 0x1000 * slotIdx s.cur + (w.toInt + 4096)) ∨
      (0x3C000 ≤ w.toInt ∧ w.toInt < 0x40000 ∧ stSuper (strandOf s s.cur) = true ∧ (p : Int) = w.toInt)
    (w.toNat % 8 ≠ 0 → TrapsHere s (.ldt a b i) cMISALIGN w ∧ TrapsHere s (.stt a b i) cMISALIGN w) ∧
    (w.toNat % 8 = 0 → (¬ ∃ p, at' p) → TrapsHere s (.ldt a b i) cACCESS w ∧ TrapsHere s (.stt a b i) cACCESS w) ∧
    ∀ p, w.toNat % 8 = 0 → at' p → streamHeld s s.cur 0 [none] = false →
      Writes s (.ldt a b i) a (BitVec.ofNat 64 (cellsRead (coreOf s (coreIdx s.cur)).tcm p 8)) ∧
      (Memory.wf (coreOf s (coreIdx s.cur)).tcm = true → ∃ t : State, exec (.stt a b i) s = .next t ∧
        strandOf t s.cur = past (strandOf s s.cur) ∧
        (∀ c, c ≠ coreIdx s.cur → coreOf t c = coreOf s c) ∧
        coreOf t (coreIdx s.cur) = { coreOf s (coreIdx s.cur) with tcm := (coreOf t (coreIdx s.cur)).tcm } ∧
        cellsRead (coreOf t (coreIdx s.cur)).tcm p 8 = (reg s s.cur a).toNat ∧
        (∀ q, q < p ∨ p + 8 ≤ q → cellsGet (coreOf t (coreIdx s.cur)).tcm q = cellsGet (coreOf s (coreIdx s.cur)).tcm q) ∧
        t.mem = s.mem ∧ t.clusters = s.clusters ∧ t.dies = s.dies ∧ t.pkg = s.pkg ∧ t.net = s.net ∧
        ∀ j, j ≠ s.cur → strandOf t j = strandOf s j)

/-- R217, R222, R224: every scalar AMO on a word that it may update: the old value, sign-extended, goes to sA; the word takes
the operation's value in the same step and no other byte changes (a CAS that finds another value leaves it); links and
watches on the line are broken by a write. A requested release waits for earlier work first, and a HOST page is answered
first.

R86, R217, R225, R226: the traps of the scalar atomics, in their order and with TVAL the address: MISALIGN, ACCESS for the
Atrium, what translation refuses, then, once a requested release is done, ATOMIC_UNSUPPORTED in bring-up mode, except for an
ADD, SWAP or CAS on a HOST page, and MEM_UE. The traps of translation may leave a report to the Usher; the others change
nothing else.

R213, R217: LDL reads the word, writes it sign-extended to sA and leaves the strand one unbroken scalar link, on the word's
line; STC stores and writes 1 while that link is unbroken and names its line, and otherwise writes 0 and stores nothing; the
link is used up either way.

R210: an SBAR never stalls the control side and touches no register and no memory: what it changes of the strand is what
holds its streams back. Afterwards a stream of H waits as long as a copy command of the strand that W names has not ended,
or an entry of the VIQ whose accesses are in E has not completed, every one of a stream of W, but for an acquire no store;
streams outside H are not held by it. The wait for a HOST page is the model's reading (log entry 13), and that an
instruction's accesses are made at once its choice (log entry 2). -/
def Obligations.AtomicsAndOrdering : Prop :=
  (∀ (s : State) (a b c : BitVec 5) (q : BitVec 2) (z : BitVec 1) (g : Target) (n : Nat) (p : Word) (old x cmp : Nat),
     MemoriesWf s → n = (if z = 1 then 8 else 4) → p = reg s s.cur b → inAtrium p = false → Reaches s true p n g →
     targetBad s (clusterIdx s.cur) g n = false → HostAnswered s g → (q.getLsbD 0 = true → unperformed s s.cur = false) →
     old = targetRead s (clusterIdx s.cur) g n → x = (reg s s.cur c).toNat % 2 ^ (8 * n) →
     cmp = (reg s s.cur a).toNat % 2 ^ (8 * n) →
     let amo := fun (i : Instr) (host : Prop) (new : Nat) =>
       nonfiniteWrite s g n new = false → (s.pkg.bringUp = true → host ∧ ∃ h, g = .host h) →
         ∃ t : State, exec i s = .next t ∧ OnlyAccess s t ∧ Stored s t g n new ∧
           strandOf t s.cur = past (putReg (strandOf s s.cur) a (BitVec.ofInt 64 (signed (8 * n) old))) ∧
           ∀ e ∈ t.mem.tags, e ∈ s.mem.tags ∧ (∀ k sl, g = .phys k sl → e.line ≠ .phys (k / 64)) ∧
             ∀ r o sl, g = .coded r o sl → e.line ≠ .coded r (o / 64)
     let less := fun (u v : Nat) => signed (8 * n) u < signed (8 * n) v
     amo (.amoAdd a b c q z) True ((old + x) % 2 ^ (8 * n)) ∧
     (less x old → amo (.amoMin a b c q z) False x ∧ amo (.amoMax a b c q z) False old) ∧
     (less old x → amo (.amoMin a b c q z) False old ∧ amo (.amoMax a b c q z) False x) ∧
     (x = old → amo (.amoMin a b c q z) False old ∧ amo (.amoMax a b c q z) False old) ∧
     amo (.amoMinu a b c q z) False (min old x) ∧ amo (.amoMaxu a b c q z) False (max old x) ∧
     amo (.amoAnd a b c q z) False (old &&& x) ∧ amo (.amoOr a b c q z) False (old ||| x) ∧
     amo (.amoXor a b c q z) False (old ^^^ x) ∧ amo (.amoSwap a b c q z) True x ∧
     (old = cmp → amo (.amoCas a b c q z) True x) ∧
     (old ≠ cmp → (s.pkg.bringUp = true → ∃ h, g = .host h) →
       ∃ t : State, exec (.amoCas a b c q z) s = .next t ∧ OnlyAccess s t ∧ t.mem = (targetFill s g).mem ∧ t.clusters = s.clusters ∧
         strandOf t s.cur = past (putReg (strandOf s s.cur) a (BitVec.ofInt 64 (signed (8 * n) old))))) ∧
  (∀ (s : State) (a b c : BitVec 5) (q : BitVec 2) (y r z : BitVec 1) (n : Nat) (p : Word),
     n = (if z = 1 then 8 else 4) → p = reg s s.cur b →
     let helped := [Instr.amoAdd a b c q z, .amoSwap a b c q z, .amoCas a b c q z]
     let others := [Instr.amoMin a b c q z, .amoMax a b c q z, .amoMinu a b c q z, .amoMaxu a b c q z, .amoAnd a b c q z,
       .amoOr a b c q z, .amoXor a b c q z]
     let links := [(Instr.ldl a b y z, false), (.stc a b c r z, true)]
     let all := (helped ++ others).map (fun i => (i, true)) ++ links
     (∀ i ∈ all, p.toNat % n ≠ 0 → TrapsHere s i.1 cMISALIGN p) ∧
     (∀ i ∈ all, p.toNat % n = 0 → inAtrium p = true → TrapsHere s i.1 cACCESS p) ∧
     (∀ i ∈ all, ∀ f, p.toNat % n = 0 → inAtrium p = false → translate s (agentOf s s.cur) i.2 p = .error f →
       ∃ t : State, exec i.1 s = .next t ∧ strandOf t s.cur = trapped f.cause p (pcOf s) (strandOf s s.cur) ∧ t.mem = s.mem ∧
         t.clusters = s.clusters) ∧
     (∀ g, p.toNat % n = 0 → inAtrium p = false → (q.getLsbD 0 = true → unperformed s s.cur = false) →
       (r = 1 → unperformed s s.cur = false) → s.pkg.bringUp = true → (∀ k o sl, g ≠ .coded k o sl) →
       (∀ i ∈ others.map (fun i => (i, true)) ++ links, translate s (agentOf s s.cur) i.2 p = .ok g →
         TrapsHere s i.1 cATOMIC_UNSUPPORTED p) ∧
       (∀ i ∈ helped, (∀ h, g ≠ .host h) → translate s (agentOf s s.cur) true p = .ok g →
         TrapsHere s i cATOMIC_UNSUPPORTED p)) ∧
     (∀ g, p.toNat % n = 0 → inAtrium p = false → (q.getLsbD 0 = true → unperformed s s.cur = false) → s.pkg.bringUp = false →
       (∀ k o sl, g ≠ .coded k o sl) → targetBad s (clusterIdx s.cur) g n = true →
       (∀ i ∈ helped ++ others, translate s (agentOf s s.cur) true p = .ok g → TrapsHere s i cMEM_UE p) ∧
       (translate s (agentOf s s.cur) false p = .ok g → TrapsHere s (.ldl a b y z) cMEM_UE p))) ∧
  (∀ (s : State) (a b c : BitVec 5) (z r : BitVec 1) (g : Target) (n : Nat) (p : Word),
     n = (if z = 1 then 8 else 4) → p = reg s s.cur b → inAtrium p = false → s.pkg.bringUp = false →
     (Reaches s false p n g → targetBad s (clusterIdx s.cur) g n = false → HostAnswered s g →
       ∀ q, ∃ (t : State) (l : LineKey), exec (.ldl a b q z) s = .next t ∧ OnlyAccess s t ∧ targetLine g = some l ∧
         (∃ e, linkOf t s.cur none = some e ∧ e.line = l) ∧
         t.mem.dram = s.mem.dram ∧ t.mem.l2 = s.mem.l2 ∧ t.mem.host = s.mem.host ∧ t.clusters = s.clusters ∧
         strandOf t s.cur = { past (putReg (strandOf s s.cur) a
           (BitVec.ofInt 64 (signed (8 * n) (targetRead s (clusterIdx s.cur) g n)))) with linkDeferOver := false, linkCount := 0 }) ∧
     (∀ e v, MemoriesWf s → Reaches s true p n g → v = (reg s s.cur c).toNat % 2 ^ (8 * n) →
       (r = 1 → unperformed s s.cur = false) → linkOf s s.cur none = some e → targetLine g = some e.line →
       (∀ h, g ≠ .host h) → nonfiniteWrite s g n v = false →
         ∃ t : State, exec (.stc a b c r z) s = .next t ∧ OnlyAccess s t ∧ Stored s t g n v ∧ linkOf t s.cur none = none ∧
           strandOf t s.cur = past (putReg (strandOf s s.cur) a 1)) ∧
     (∀ v, MemoriesWf s → v = (reg s s.cur c).toNat % 2 ^ (8 * n) → Reaches s true p n g → HostAnswered s g →
       (r = 1 → unperformed s s.cur = false) →
       ∀ h e, g = .host h → targetBad s (clusterIdx s.cur) g n = false → linkOf s s.cur none = some e →
         targetLine g = some e.line →
         ∃ t : State, exec (.stc a b c r z) s = .next t ∧ linkOf t s.cur none = none ∧
           (targetRead s (clusterIdx s.cur) g n = e.value.toNat % 2 ^ (8 * n) → Stored s t g n v ∧
             strandOf t s.cur = past (putReg (strandOf s s.cur) a 1)) ∧
           (targetRead s (clusterIdx s.cur) g n ≠ e.value.toNat % 2 ^ (8 * n) → t.mem.host = s.mem.host ∧
             strandOf t s.cur = past (putReg (strandOf s s.cur) a 0))) ∧
     (p.toNat % n = 0 → translate s (agentOf s s.cur) true p = .ok g → (r = 1 → unperformed s s.cur = false) →
       nonfiniteWrite s g n ((reg s s.cur c).toNat % 2 ^ (8 * n)) = false →
       (∀ e, linkOf s s.cur none = some e → targetLine g ≠ some e.line) →
         ∃ t : State, exec (.stc a b c r z) s = .next t ∧ OnlyAccess s t ∧ linkOf t s.cur none = none ∧
           strandOf t s.cur = past (putReg (strandOf s s.cur) a 0) ∧
           t.mem = { s.mem with tags := t.mem.tags } ∧ t.clusters = s.clusters)) ∧
  (∀ (s : State) (w h : BitVec 5) (x : BitVec 3) (i : Instr),
     i = .sbarAcquire w h x ∨ i = .sbarRelease w h x ∨ i = .sbarFull w h x →
     ∃ t : State, exec i s = .next t ∧ OnlyStrand s t ∧
       strandOf t s.cur = { past (strandOf s s.cur) with holds := (strandOf t s.cur).holds } ∧
       (∀ n < 5, h.getLsbD n = true → w.getLsbD 3 = true →
         (∃ c ∈ liveCmds s (clusterIdx s.cur) (strandOf s s.cur).issuer,
           c.accepted < (clusterOf s (clusterIdx s.cur)).accepted) → streamFenced t s.cur n = true) ∧
       (behind (strandOf s s.cur) = true → ∀ e ∈ (arcOf s).viq, ∀ k < 5, entryStream e.word = some k → w.getLsbD k = true →
         (i ≠ .sbarAcquire w h x ∨ (e.word.extractLsb' 26 6 ≠ 0x2C ∧ ¬ (e.word.extractLsb' 26 6 = 0x30 ∧ e.word.extractLsb' 0 8 = 5))) →
         ∀ n < 5, h.getLsbD n = true → streamFenced t s.cur n = true) ∧
       (∀ n < 5, h.getLsbD n = false → streamFenced s s.cur n = false → streamFenced t s.cur n = false))

/-! ## Control registers -/

/-- R45, R96, R177: GETC of every index that names a register reads that register, MXCFG as the owner's Mezzanine instructions
of the VIQ leave it; an index that names none is ILLEGAL, and at U an index from 0x100 up traps with PRIV.

R9, R46, R80, R81, R96, R159, R227, R258: SETC of the strand's own registers: a 1 in a reserved bit is ILLEGAL, read-only
registers ignore the write, STATUS and VRESUME ignore it at U, and a trap register at U traps with PRIV. A discard of held
entries gives a message that is not consumed back to its port; no SBAR waits for them, and the next instruction that is
dispatched heads the strip of a strip head among them (log entry 90).

R106, R108: SETC of VCFG: a value that breaks the checks is ILLEGAL; one that keeps the slot class is taken, and VL follows
VLMAX and STRIP. A value that changes the slot class of a strand whose registers need no transfer is taken: from one slot to
two, the 16 least recent registers become non-resident and the others take slot pairs in ascending order (log entry 58);
from two slots to one, every lane keeps its low 32 bits. With a register that needs a transfer and no Vault, the write traps
with VAULT and changes neither VCFG nor a register.

R255, R258: SETC of CHAINSRC: reserved bits are ILLEGAL; disarmed, any value is taken; armed, the producer must lie on the
strand's die and be enabled. A message of the old source that is not consumed goes back to its port. -/
def Obligations.ControlRegisterAccess : Prop :=
  (∀ (s : State) (a : BitVec 5) (t : Strand) (m : Mezz), t = strandOf s s.cur → m = (coreOf s (coreIdx s.cur)).mezz →
     let gets := fun (k : Nat) (v : Word) => Writes s (.getc a (BitVec.ofNat 11 k)) a v
     gets 0x000 t.status ∧ gets 0x001 t.sflags ∧ gets 0x002 t.arc.vcfg ∧ gets 0x003 (BitVec.ofNat 64 t.arc.vl) ∧
     gets 0x004 (BitVec.ofNat 64 (vlmaxOf t.arc)) ∧ gets 0x005 t.arc.strip ∧ gets 0x006 t.arc.sidx ∧
     gets 0x007 t.arc.mfmt ∧
     gets 0x008 (if behind t = true ∧ ownsMezz s s.cur = true then mxcfgAfter m.cfg t.arc.viq else m.cfg) ∧ gets 0x009 (mxstatWord m) ∧ gets 0x00A (baysWord t.arc) ∧
     gets 0x00B (vresumeWord t.arc) ∧ gets 0x00C 32 ∧ gets 0x00D t.arc.chainsrc ∧
     (∀ n < 4, gets (0x010 + n) (lanemapWord t.arc n)) ∧
     (∀ k : BitVec 11, cregAssigned k.toNat = false →
       TrapsHere s (.getc a k) cILLEGAL ((wordS 0x19 a 0 3 k).zeroExtend 64)) ∧
     (∀ k : BitVec 11, cregAssigned k.toNat = true → 0x100 ≤ k.toNat → stSuper t = false →
       TrapsHere s (.getc a k) cPRIV ((wordS 0x19 a 0 3 k).zeroExtend 64)) ∧
     (stSuper t = true →
       gets 0x100 t.cause ∧ gets 0x101 t.epc ∧ gets 0x102 t.tval ∧ gets 0x103 t.tvec ∧ gets 0x104 t.vault ∧
       (∀ n < 64, gets (0x400 + 8 * n) (regionOf s n).rbase ∧ gets (0x401 + 8 * n) (regionOf s n).rsize ∧
         gets (0x402 + 8 * n) (regionOf s n).rrate ∧ gets (0x403 + 8 * n) (regionOf s n).errlim ∧
         gets (0x404 + 8 * n) (regionOf s n).enccnt ∧ gets (0x405 + 8 * n) (regionOf s n).errmax) ∧
       ∀ w < 16, ∀ j < 3, gets (0x600 + 4 * w + j) (tblGet 0 s.pkg.pool (4 * w + j)))) ∧
  (∀ (s : State) (b : BitVec 5) (v : Word), reg s s.cur b = v →
     let bad := fun (i : Instr) (k : Nat) => TrapsHere s i cILLEGAL ((wordS 0x19 0 b 4 (BitVec.ofNat 11 k)).zeroExtend 64)
     let creg := fun (k : Nat) => Instr.setc b (BitVec.ofNat 11 k)
     let super := stSuper (strandOf s s.cur) = true
     let discarded := fun (t : Strand) => { t with
       stripHead := t.stripHead || t.arc.held.any (·.head), holds := t.holds.map fun h => { h with ahead := 0 },
       arc := { t.arc with held := [], heldPoint := 0 } }
     (∀ k ∈ [0x003, 0x004, 0x005, 0x006, 0x009, 0x00A, 0x00C, 0x010, 0x011, 0x012, 0x013], Completes s (creg k) past) ∧
     (super → v &&& ~~~0x3F = 0 → Completes s (creg 0x100) fun t => past { t with cause := (t.cause &&& ~~~0x3F) ||| v }) ∧
     (super → v &&& ~~~0x3F ≠ 0 → bad (creg 0x100) 0x100) ∧
     (super → v &&& ~~~0xFFFFFFFFFFFC = 0 →
       (Completes s (creg 0x101) fun t => past { t with epc := (t.epc &&& ~~~0xFFFFFFFFFFFC) ||| v }) ∧
       Completes s (creg 0x103) fun t => past { t with tvec := (t.tvec &&& ~~~0xFFFFFFFFFFFC) ||| v }) ∧
     (super → v &&& ~~~0xFFFFFFFFFFFC ≠ 0 → bad (creg 0x101) 0x101 ∧ bad (creg 0x103) 0x103) ∧
     (super → Completes s (creg 0x102) fun t => past { t with tval := v }) ∧
     (super → v &&& ~~~0xFFFFFFFF0001 = 0 →
       Completes s (creg 0x104) fun t => past { t with vault := (t.vault &&& ~~~0xFFFFFFFF0001) ||| v }) ∧
     (super → v &&& ~~~0xFFFFFFFF0001 ≠ 0 → bad (creg 0x104) 0x104) ∧
     (v &&& ~~~0xDF00FF = 0 → fld v 0 6 ≤ 0x22 → Completes s (creg 0x007) fun t =>
       past { t with arc := { t.arc with mfmt := (t.arc.mfmt &&& ~~~0xDF00FF) ||| v } }) ∧
     ((v &&& ~~~0xDF00FF ≠ 0 ∨ 0x22 < fld v 0 6) → bad (creg 0x007) 0x007) ∧
     (¬ super → ∀ k ∈ [0x100, 0x101, 0x102, 0x103, 0x104],
       TrapsHere s (creg k) cPRIV ((wordS 0x19 0 b 4 (BitVec.ofNat 11 k)).zeroExtend 64)) ∧
     (¬ super → Completes s (.setcStatus b) past ∧ Completes s (.setcVresume b) past) ∧
     (super → v &&& 0xFFFFFFFF00000010 = 0 → Completes s (.setcStatus b) fun t =>
       past { t with status := (t.status &&& ~~~0x2A) ||| (v &&& 0x2A) }) ∧
     (super → v &&& 0xFFFFFFFF00000010 ≠ 0 → bad (.setcStatus b) 0x000) ∧
     (v.toNat < 0x400 → Completes s (.setcSflags b) fun t => past { t with sflags := v }) ∧
     (0x400 ≤ v.toNat → bad (.setcSflags b) 0x001) ∧
     (super → v &&& 0x40FFFFFFFFFC0000 = 0 →
       (fld v 63 1 = 0 → Completes s (.setcVresume b) fun t => past { t with arc := { t.arc with lane := fld v 0 18 } }) ∧
       (fld v 63 1 = 1 → (arcOf s).chainIn = none → Completes s (.setcVresume b) fun t =>
         past (discarded { t with arc := { t.arc with lane := fld v 0 18 } })) ∧
       (∀ c p m, fld v 63 1 = 1 → (arcOf s).chainIn = some (c, p, m) → ∃ t : State, exec (.setcVresume b) s = .next t ∧
         strandOf t s.cur = past (discarded { (strandOf s s.cur) with
           arc := { (arcOf s) with lane := fld v 0 18, chainIn := none } }) ∧
         listGet [] (coreOf t c).ports p = m :: listGet [] (coreOf s c).ports p ∧ t.mem = s.mem)) ∧
     (super → v &&& 0x40FFFFFFFFFC0000 ≠ 0 → bad (.setcVresume b) 0x00B)) ∧
  (∀ (s : State) (b : BitVec 5) (v : Word), reg s s.cur b = v →
     (vcfgOk v = false → TrapsHere s (.setcVcfg b) cILLEGAL ((wordS 0x19 0 b 4 0x002).zeroExtend 64)) ∧
     (vcfgOk v = true → twoSlot (fld v 0 6) (fld v 7 7) = vTwo (strandOf s s.cur).arc →
       Completes s (.setcVcfg b) fun t => past { t with arc :=
         { t.arc with vcfg := v, vl := min t.arc.strip.toNat (lanesOf t.arc * 2 ^ fld v 14 2) } }) ∧
     (vcfgOk v = true → (coreOf s (coreIdx s.cur)).parity = [] →
       ClassChange s v (.setcVcfg b) past)) ∧
  (∀ (s : State) (b : BitVec 5) (v : Word), reg s s.cur b = v →
     let taken := ((arcOf s).chainIn = none →
         Completes s (.setcChainsrc b) fun t => past { t with arc := { t.arc with chainsrc := v } }) ∧
       ∀ c p m, (arcOf s).chainIn = some (c, p, m) → ∃ t : State, exec (.setcChainsrc b) s = .next t ∧
         strandOf t s.cur = past { (strandOf s s.cur) with arc := { (arcOf s) with chainsrc := v, chainIn := none } } ∧
         listGet [] (coreOf t c).ports p = m :: listGet [] (coreOf s c).ports p ∧ t.mem = s.mem
     let w := (wordS 0x19 0 b 4 0x00D).zeroExtend 64
     (v &&& ~~~0xBFF ≠ 0 → TrapsHere s (.setcChainsrc b) cILLEGAL w) ∧
     (v &&& ~~~0xBFF = 0 → fld v 11 1 = 0 → taken) ∧
     (v &&& ~~~0xBFF = 0 → fld v 11 1 = 1 →
       (fld v 7 2 ≠ dieIdx s.cur → TrapsHere s (.setcChainsrc b) cILLEGAL w) ∧
       (fld v 7 2 = dieIdx s.cur → (coreOf s (fld v 0 9)).enabled = true → taken) ∧
       (fld v 7 2 = dieIdx s.cur → (coreOf s (fld v 0 9)).enabled = false →
         TrapsHere s (.setcChainsrc b) cCOORD (BitVec.ofNat 64 (fld v 0 9)))))

/-- R297: SETC of RRATE: at U, PRIV; a refused value, ILLEGAL; otherwise the region takes the value at once, except that a write
that clears V waits while homes hold lines of the region; RegionDrainDone then writes them back, drops them and completes
the write. R173, R184: SETC of MXCFG takes the value once the strand holds the claim.

R73, R297: SETC of a region's or a pool window's registers, at S: writable bits are taken, W1C bits written 1 are cleared, a
base or size of a valid region is refused, and nothing else of the machine changes: no other strand, register of the package
or region. -/
def Obligations.SharedRegisterWrites : Prop :=
  (∀ (s : State) (b : BitVec 5) (n : BitVec 6) (v : Word), reg s s.cur b = v →
     let super := stSuper (strandOf s s.cur) = true
     let w := (wordS 0x19 0 b 4 (BitVec.ofNat 11 (0x402 + 8 * n.toNat))).zeroExtend 64
     let clears := regionOn (regionOf s n.toNat) = true ∧ fld v 0 1 = 0 ∧ regionLines s n.toNat ≠ []
     (¬ super → TrapsHere s (.setcRrate b n) cPRIV w) ∧
     (super → rrateBad s n.toNat v = true → TrapsHere s (.setcRrate b n) cILLEGAL w) ∧
     (super → rrateBad s n.toNat v = false → clears →
       Completes s (.setcRrate b n) fun t => { t with blocked := some (.regionDrain n v) }) ∧
     (super → rrateBad s n.toNat v = false → ¬ clears → ∃ t : State, exec (.setcRrate b n) s = .next t ∧
       strandOf t s.cur = past (strandOf s s.cur) ∧ regionOf t n.toNat = { regionOf s n.toNat with rrate := v } ∧
       (∀ m, m ≠ n.toNat → regionOf t m = regionOf s m) ∧ t.mem = s.mem) ∧
     (∀ id x, regionWaiter s n.toNat = some (id, x) → ∃ t : State, exec (.regionDrainDone n.toNat) s = .next t ∧
       (strandOf t id).blocked = none ∧ (strandOf t id).pc = (strandOf s id).pc + 4 ∧
       (regionOf t n.toNat).rrate = x ∧ ∀ j < 2 ^ 34, tblFind t.mem.coded (codedKey n.toNat j) = none) ∧
     (mxcfgOk v = false → TrapsHere s (.setcMxcfg b) cILLEGAL ((wordS 0x19 0 b 4 0x008).zeroExtend 64)) ∧
     (mxcfgOk v = true → ownsMezz s s.cur = true → ∃ t : State, exec (.setcMxcfg b) s = .next t ∧
       strandOf t s.cur = past (strandOf s s.cur) ∧
       coreOf t (coreIdx s.cur) = { coreOf s (coreIdx s.cur) with
         mezz := { (coreOf s (coreIdx s.cur)).mezz with cfg := v } } ∧ t.mem = s.mem)) ∧
  (∀ (s : State) (b : BitVec 5) (v : Word), reg s s.cur b = v → stSuper (strandOf s s.cur) = true →
     let sets := fun (k : Nat) (t : State) => exec (.setc b (BitVec.ofNat 11 k)) s = .next t ∧
       strandOf t s.cur = past (strandOf s s.cur) ∧ OnlyStrand { s with pkg := t.pkg } t
     let region := fun (k n : Nat) (g : Region) => ∃ t, sets k t ∧ t.pkg = { s.pkg with regions := t.pkg.regions } ∧
       regionOf t n = g ∧ ∀ m, m ≠ n → regionOf t m = regionOf s m
     (∀ n < 64, regionOn (regionOf s n) = false → v &&& ~~~0xFFFFFFFFC0 = 0 → region (0x400 + 8 * n) n
       { regionOf s n with rbase := ((regionOf s n).rbase &&& ~~~0xFFFFFFFFC0) ||| v }) ∧
     (∀ n < 64, regionOn (regionOf s n) = false → v &&& ~~~0xFFFFFF0000 = 0 → region (0x401 + 8 * n) n
       { regionOf s n with rsize := ((regionOf s n).rsize &&& ~~~0xFFFFFF0000) ||| v }) ∧
     (∀ n < 64, regionOn (regionOf s n) = true → ∀ j < 2,
       TrapsHere s (.setc b (BitVec.ofNat 11 (0x400 + 8 * n + j))) cILLEGAL
         ((wordS 0x19 0 b 4 (BitVec.ofNat 11 (0x400 + 8 * n + j))).zeroExtend 64)) ∧
     (∀ n < 64, region (0x403 + 8 * n) n { regionOf s n with
         errlim := (v &&& 0x7FFFFFFFFFFFFFFF) ||| ((regionOf s n).errlim &&& 0x8000000000000000 &&& ~~~v) }) ∧
     (∀ n < 64, region (0x404 + 8 * n) n { regionOf s n with enccnt := (regionOf s n).enccnt &&& ~~~v }) ∧
     (∀ n < 64, fld v 63 1 = 0 → region (0x405 + 8 * n) n { regionOf s n with errmax := (regionOf s n).errmax &&& ~~~v }) ∧
     ∀ w < 16, ∀ j m, (j, m) ∈ [(0, 0xFFFFFFFFFFFD), (1, 0xFFFFFFFF), (2, (0xFFFFFFFFFFFF : Word))] → v &&& ~~~m = 0 →
       ∃ t, sets (0x600 + 4 * w + j) t ∧ t.pkg = { s.pkg with pool := t.pkg.pool } ∧
         tblGet 0 t.pkg.pool (4 * w + j) = (tblGet 0 s.pkg.pool (4 * w + j) &&& ~~~m) ||| v ∧
         ∀ k, k ≠ 4 * w + j → tblGet 0 t.pkg.pool k = tblGet 0 s.pkg.pool k)

/-! ## The Newel -/

/-- R249-R251, R358: SEMINC adds and saturates, SEMSET sets, SEMRD reads and SEMWAIT goes on when the count is reached and parks
when it is not; each acts on one semaphore of the cluster named and on nothing else, but that an operation on a cluster of
another die takes the next SEQ of stream SC to it. An operation that its stream holds back waits.

R252-R254: BARINIT gives the barrier its expectation and NORMAL and leaves its phase; BARARR returns the ticket of the phase
before the arrival, counts, and completes a phase when the expectation is reached, the units left after that counting in the
next phases and setting BAROVR; BARWAIT returns 0 for a phase that is over, 1 for a faulted one, and parks for one that is
open; uninitialised and faulted barriers trap.

R41, R45, R63, R250: the checks of the Newel instructions, before any wait: a register value outside its limits and a SEMRD
into s0 are ILLEGAL, then an operation that names a disabled core traps with COORD and that core's number. Nothing else
changes. -/
def Obligations.SemaphoresAndBarriers : Prop :=
  (∀ (s : State) (a b : BitVec 5) (x : BitVec 9) (r : BitVec 1) (cl : Nat),
     cl = (if r = 1 then x.toNat / 8 else clusterIdx s.cur) → (r = 1 → (coreOf s x.toNat).enabled = true) →
     let home := 4 * pkgNumber s + cl / 16
     let fabric := fun (t : State) => t.net = if cl / 16 = dieIdx s.cur then s.net else (takeSeq s (sidOf s.cur 0) home).net
     (streamHeld s s.cur 0 [some home] = true → (reg s s.cur a).toNat < 256 → (reg s s.cur b).toNat < 256 →
       Completes s (.seminc a b x r) (fun t => { t with blocked := some (.remote 0) }) ∧
       Completes s (.semset a b x r) (fun t => { t with blocked := some (.remote 0) }) ∧
       (a ≠ 0 → Completes s (.semrd a b x r) fun t => { t with blocked := some (.remote 0) })) ∧
     (streamHeld s s.cur 0 [some home] = false → streamHeld s s.cur 0 [some (4 * pkgNumber s + dieIdx s.cur)] = false →
     let puts := fun (i : Instr) (n v : Nat) => ∃ t : State, exec i s = .next t ∧ strandOf t s.cur = past (strandOf s s.cur) ∧
       (∀ j, j ≠ s.cur → strandOf t j = strandOf s j) ∧ (semOf t cl n).toNat = v ∧
       (∀ m, m ≠ n → semOf t cl m = semOf s cl m) ∧ (∀ k, k ≠ cl → clusterOf t k = clusterOf s k) ∧
       clusterOf t cl = { clusterOf s cl with sems := (clusterOf t cl).sems } ∧ t.mem = s.mem ∧ t.cores = s.cores ∧
       t.dies = s.dies ∧ t.pkg = s.pkg ∧ fabric t
     (∀ n v, (reg s s.cur a).toNat = n → (reg s s.cur b).toNat = v → n < 256 → v < 2 ^ 32 →
       puts (.seminc a b x r) n (min ((semOf s cl n).toNat + v) (2 ^ 32 - 1)) ∧ puts (.semset a b x r) n v) ∧
     (∀ n, (reg s s.cur b).toNat = n → n < 256 → a ≠ 0 →
       ∃ t : State, exec (.semrd a b x r) s = .next t ∧ OnlyStrand { s with net := t.net } t ∧ fabric t ∧
         strandOf t s.cur = past (putReg (strandOf s s.cur) a (BitVec.ofNat 64 (semOf s cl n).toNat))) ∧
     (∀ n v, (reg s s.cur a).toNat = n → (reg s s.cur b).toNat = v → n < 256 → v < 2 ^ 32 →
       (v ≤ (semOf s (clusterIdx s.cur) n).toNat → Completes s (.semwait a b) past) ∧
       ((semOf s (clusterIdx s.cur) n).toNat < v →
         Completes s (.semwait a b) fun t => { t with slot := .park, blocked := some (.semwait a b) })) ∧
     (256 ≤ (reg s s.cur a).toNat ∨ 2 ^ 32 ≤ (reg s s.cur b).toNat →
       TrapsHere s (.seminc a b x r) cILLEGAL ((wordNewel 0 a b x r).zeroExtend 64) ∧
       TrapsHere s (.semset a b x r) cILLEGAL ((wordNewel 1 a b x r).zeroExtend 64)))) ∧
  (∀ (s : State) (a b : BitVec 5) (x : BitVec 9) (r : BitVec 1) (cl n : Nat) (y : Barrier),
     cl = (if r = 1 then x.toNat / 8 else clusterIdx s.cur) → (r = 1 → (coreOf s x.toNat).enabled = true) →
     let home := 4 * pkgNumber s + cl / 16
     let fabric := fun (t : State) => t.net = if cl / 16 = dieIdx s.cur then s.net else (takeSeq s (sidOf s.cur 0) home).net
     streamHeld s s.cur 0 [some home] = false → streamHeld s s.cur 0 [some (4 * pkgNumber s + dieIdx s.cur)] = false → n < 64 →
     (strandOf s s.cur).slot = .run →
     (∀ v, (reg s s.cur a).toNat = n → (reg s s.cur b).toNat = v → 0 < v → v < 2 ^ 16 → y = barOf s cl n →
       ∃ t : State, exec (.barinit a b x r) s = .next t ∧ (strandOf t s.cur).pc = (strandOf s s.cur).pc + 4 ∧
         barOf t cl n = ⟨v, 0, y.phase, .normal⟩ ∧ (∀ m, m ≠ n → barOf t cl m = barOf s cl m) ∧
         (clusterOf t cl).sems = (clusterOf s cl).sems ∧ t.mem = s.mem ∧ fabric t) ∧
     (∀ w, (reg s s.cur b).toNat = w * 2 ^ 16 + n → w < 2 ^ 16 → y = barOf s cl n →
       (y.state ≠ .normal → ∃ t : State, exec (.bararr a b x r) s = .next t ∧ OnlyStrand { s with net := t.net } t ∧ fabric t ∧
         strandOf t s.cur = trapped cBARRIER_FAULT (BitVec.ofNat 64 n) (pcOf s) (strandOf s s.cur)) ∧
       (y.state = .normal → y.cnt < y.exp →
         ∃ t : State, exec (.bararr a b x r) s = .next t ∧
           (strandOf s s.cur).slot = (strandOf t s.cur).slot ∧ (strandOf t s.cur).pc = (strandOf s s.cur).pc + 4 ∧
           getReg (strandOf t s.cur) a = (if a = 0 then 0 else BitVec.ofNat 64 ((if y.phase then 256 else 0) + n)) ∧
           (y.cnt + w + 1 < y.exp → barOf t cl n = { y with cnt := y.cnt + w + 1 } ∧
             (strandOf t s.cur).sflags = (strandOf s s.cur).sflags) ∧
           (y.cnt + w + 1 = y.exp → barOf t cl n = { y with cnt := 0, phase := !y.phase } ∧
             (strandOf t s.cur).sflags = (strandOf s s.cur).sflags) ∧
           (y.exp < y.cnt + w + 1 → (strandOf t s.cur).sflags = (strandOf s s.cur).sflags ||| flagBAROVR ∧
             barOf t cl n = { y with
               cnt := (y.cnt + w + 1) % y.exp, phase := if (y.cnt + w + 1) / y.exp % 2 = 1 then !y.phase else y.phase }) ∧
           (∀ m, m ≠ n → barOf t cl m = barOf s cl m) ∧ t.mem = s.mem ∧ fabric t)) ∧
     (∀ p : Bool, reg s s.cur b = BitVec.ofNat 64 ((if p then 256 else 0) + n) → y = barOf s (clusterIdx s.cur) n →
       (y.state = .uninit → TrapsHere s (.barwait a b) cBARRIER_FAULT (BitVec.ofNat 64 n)) ∧
       (y.state ≠ .uninit → y.phase ≠ p → Writes s (.barwait a b) a 0) ∧
       (y.state = .faulted → y.phase = p → Writes s (.barwait a b) a 1) ∧
       (y.state = .normal → y.phase = p →
         Completes s (.barwait a b) fun t => { t with slot := .park, blocked := some (.barwait a b) }))) ∧
  (∀ (s : State) (a b : BitVec 5) (x : BitVec 9) (r : BitVec 1) (p q : Nat),
     (reg s s.cur a).toNat = p → (reg s s.cur b).toNat = q →
     let arrival := q % 2 ^ 16 < 64 ∧ q < 2 ^ 32
     let ticket := q < 512 ∧ q % 256 < 64
     let illegal := fun (i : Instr) => ∀ w, encode i = some w → TrapsHere s i cILLEGAL (w.zeroExtend 64)
     let absent := fun (i : Instr) => r = 1 → (coreOf s x.toNat).enabled = false → TrapsHere s i cCOORD (BitVec.ofNat 64 x.toNat)
     (256 ≤ p ∨ 2 ^ 32 ≤ q → illegal (.seminc a b x r) ∧ illegal (.semset a b x r) ∧ illegal (.semwait a b)) ∧
     (a = 0 ∨ 256 ≤ q → illegal (.semrd a b x r)) ∧
     (64 ≤ p ∨ q = 0 ∨ 2 ^ 16 ≤ q → illegal (.barinit a b x r)) ∧
     (¬ arrival → illegal (.bararr a b x r)) ∧ (¬ ticket → illegal (.barwait a b)) ∧
     (p < 256 → q < 2 ^ 32 → absent (.seminc a b x r) ∧ absent (.semset a b x r)) ∧
     (a ≠ 0 → q < 256 → absent (.semrd a b x r)) ∧ (p < 64 → 0 < q → q < 2 ^ 16 → absent (.barinit a b x r)) ∧
     (arrival → absent (.bararr a b x r)))

/-! ## Spawning, joining and the end of a strand -/

/-- R270, R263: SPAWN of a record that can be read: a landing that does not accept answers 2, a full one 1; otherwise sA takes 0
and the record stands behind every record of its landing with the spawner's launch tag, where its spill ring is full once
entries of the ring have moved on-die, its join counter, if it names one, having been incremented first, a HOST counter
after the host's answer (log entry 13).

R270, R272: SPAWNC: a landing that does not accept answers 2, a full wait pool 1, and neither changes a counter; otherwise
sA takes 0, and the record stands in its landing when its counter reads zero there, else in the wait pool; its join counter,
if it names one, has been incremented first.

R63, R269, R270: SPAWN and SPAWNC up to the answer of the landing controller. They wait for every access before them, and
for a die that is out of service; they trap with MISALIGN at the record's address, at the first doubleword of the record
that cannot be read, with COORD for a disabled die, at a join counter that is no doubleword of an atomic, with ILLEGAL for a
SPAWNC without a counter, and at such a counter that is none. A trap changes no counter and places no record. -/
def Obligations.SpawnQueuesTheRecord : Prop :=
  (∀ (s u : State) (a b : BitVec 5) (p : Word) (vs : List Nat) (r : Record) (d l : Nat),
     p = reg s s.cur b → p.toNat % 8 = 0 → unperformed s s.cur = false →
     readChunks s s.cur 0 (recordChunks p) = .ok vs u →
     r = ⟨BitVec.ofNat 64 (listGet 0 vs 0), BitVec.ofNat 64 (listGet 0 vs 1), BitVec.ofNat 64 (listGet 0 vs 2),
       BitVec.ofNat 64 (listGet 0 vs 3)⟩ →
     d = (if recDieAny r then dieIdx s.cur else recDie r) → l = recLanding r → (dieOf s d).status = .inService →
     let answer := fun (v : Word) (t : State) =>
       exec (.spawn a b) s = .next t ∧ strandOf t s.cur = past (putReg (strandOf s s.cur) a v)
     let all := fun (s : State) => (landingOf s d l).queue ++ (landingOf s d l).spill.map (·.2)
     (recJoin r = 0 → landingOn (dieOf s d) l = false → ∃ t : State, answer 2 t ∧ t.dies = s.dies) ∧
     (recJoin r = 0 → landingOn (dieOf s d) l = true → landingFull s d l = true → ∃ t : State, answer 1 t ∧ t.dies = s.dies) ∧
     (recJoin r = 0 → landingOn (dieOf s d) l = true → landingFull s d l = false →
       let ring := (landingOf s d l).spill
       ∃ (t : State) (e : Entry), answer 0 t ∧ e.record = r ∧ e.tag = (strandOf s s.cur).tag ∧
         (ring = [] ∨ ring.length < landingSpcap (dieOf s d) l → all t = all s ++ [e]) ∧
         all t = all (makeRoom d l 64 s) ++ [e] ∧ (landingOf t d l).queue.length ≤ max 64 (landingOf s d l).queue.length) ∧
     (∀ g, recJoin r ≠ 0 → endTarget u (agentOf u s.cur) (sidOf s.cur 0) true (addr48 (recJoin r)) = .ok g →
       HostAnswered s g → MemoriesWf u → Plain u g →
       landingOn (dieOf s d) l = true → (landingOf s d l).queue.length < 64 → (landingOf s d l).spill = [] →
       ∃ (t : State) (e : Entry), answer 0 t ∧ e.record = r ∧ e.tag = (strandOf s s.cur).tag ∧ all t = all s ++ [e] ∧
         targetRead t (clusterIdx s.cur) g 8 = (targetRead u (clusterIdx s.cur) g 8 + 1) % 2 ^ 64)) ∧
  (∀ (s u : State) (a b c : BitVec 5) (p x : Word) (vs : List Nat) (r : Record) (d l : Nat) (g : Target),
     p = reg s s.cur b → x = reg s s.cur c → p.toNat % 8 = 0 → unperformed s s.cur = false →
     readChunks s s.cur 0 (recordChunks p) = .ok vs u →
     r = ⟨BitVec.ofNat 64 (listGet 0 vs 0), BitVec.ofNat 64 (listGet 0 vs 1), BitVec.ofNat 64 (listGet 0 vs 2),
       BitVec.ofNat 64 (listGet 0 vs 3)⟩ →
     d = (if recDieAny r then dieIdx s.cur else recDie r) → l = recLanding r → (dieOf s d).status = .inService →
     x ≠ 0 → endTarget u (agentOf u s.cur) (sidOf s.cur 0) true x = .ok g → unreachableTarget u (hubSid 0) g = false →
     let answer := fun (v : Word) (t : State) =>
       exec (.spawnc a b c) s = .next t ∧ strandOf t s.cur = past (putReg (strandOf s s.cur) a v)
     let joins := fun (j : Target) => endTarget u (agentOf u s.cur) (sidOf s.cur 0) true (addr48 (recJoin r)) = .ok j
     ((recJoin r = 0 ∨ ∃ j, joins j) →
       (landingOn (dieOf s d) l = false → ∃ t : State, answer 2 t ∧ t.dies = s.dies ∧ t.mem = u.mem) ∧
       (landingOn (dieOf s d) l = true → 1024 ≤ (dieOf s d).waitPool.length → ∃ t : State, answer 1 t ∧ t.dies = s.dies ∧ t.mem = u.mem)) ∧
     (∀ j, recJoin r ≠ 0 → joins j → HostAnswered s j → MemoriesWf u → Plain u j → landingOn (dieOf s d) l = true →
       (dieOf s d).waitPool.length < 1024 → (∀ k < 8, Apart (clusterIdx s.cur) j 8 0 (byteAt g k)) → targetRead u 0 g 8 ≠ 0 →
       ∃ (t : State) (w : WaitEntry), answer 0 t ∧ w.entry.record = r ∧ w.entry.tag = (strandOf s s.cur).tag ∧ w.eligible = false ∧
         (dieOf t d).waitPool = (dieOf s d).waitPool ++ [w] ∧ (dieOf t d).landings = (dieOf s d).landings ∧
         targetRead t (clusterIdx s.cur) j 8 = (targetRead u (clusterIdx s.cur) j 8 + 1) % 2 ^ 64) ∧
     (recJoin r = 0 → landingOn (dieOf s d) l = true → (dieOf s d).waitPool.length < 1024 → targetRead u 0 g 8 ≠ 0 →
       ∃ (t : State) (w : WaitEntry), answer 0 t ∧ w.entry.record = r ∧ w.entry.tag = (strandOf s s.cur).tag ∧ w.eligible = false ∧
         (dieOf t d).waitPool = (dieOf s d).waitPool ++ [w] ∧ (dieOf t d).landings = (dieOf s d).landings) ∧
     (recJoin r = 0 → landingOn (dieOf s d) l = true → (dieOf s d).waitPool.length < 1024 → targetRead u 0 g 8 = 0 →
       landingFull s d l = false →
       ((landingOf s d l).spill = [] ∨ (landingOf s d l).spill.length < landingSpcap (dieOf s d) l) →
       ∃ (t : State) (e : Entry), answer 0 t ∧ e.record = r ∧ e.tag = (strandOf s s.cur).tag ∧
         (landingOf t d l).queue ++ (landingOf t d l).spill.map (·.2) =
           (landingOf s d l).queue ++ (landingOf s d l).spill.map (·.2) ++ [e] ∧
         (dieOf t d).waitPool = (dieOf s d).waitPool)) ∧
  (∀ (s u : State) (a b c : BitVec 5) (p x : Word) (i : Instr) (k : Nat) (vs : List Nat) (r : Record) (d : Nat),
     p = reg s s.cur b → x = reg s s.cur c → i = .spawn a b ∨ i = .spawnc a b c →
     let traps := fun (w : State) (cause : Nat) (v : Word) => ∃ t : State, exec i s = .next t ∧
       strandOf t s.cur = trapped cause v (pcOf s) (strandOf s s.cur) ∧ (∀ j, j ≠ s.cur → strandOf t j = strandOf s j) ∧
       t.mem = w.mem ∧ t.dies = s.dies ∧ t.cores = s.cores ∧ t.clusters = s.clusters
     (unperformed s s.cur = true → Completes s i fun t => { t with blocked := some .spawn }) ∧
     (unperformed s s.cur = false → p.toNat % 8 ≠ 0 → TrapsHere s i cMISALIGN p) ∧
     (unperformed s s.cur = false → p.toNat % 8 = 0 →
       (readChunks s s.cur 0 (recordChunks p) = .fault k u → ∃ n < 4, traps u k (p + BitVec.ofNat 64 (8 * n)) ∧
         ∀ j < n, ∃ q, translate s (agentOf s s.cur) false (p + BitVec.ofNat 64 (8 * j)) = .ok q ∧
           targetBad s (clusterIdx s.cur) q 8 = false ∧ unreachableTarget s (sidOf s.cur 0) q = false) ∧
       (readChunks s s.cur 0 (recordChunks p) = .ok vs u →
         r = ⟨BitVec.ofNat 64 (listGet 0 vs 0), BitVec.ofNat 64 (listGet 0 vs 1), BitVec.ofNat 64 (listGet 0 vs 2),
           BitVec.ofNat 64 (listGet 0 vs 3)⟩ →
         d = (if recDieAny r then dieIdx s.cur else recDie r) →
         let join := fun (g : Except XFault Target) => endTarget u (agentOf u s.cur) (sidOf s.cur 0) true (addr48 (recJoin r)) = g
         let counter := fun (g : Except XFault Target) => endTarget u (agentOf u s.cur) (sidOf s.cur 0) true x = g
         ((dieOf s d).status = .disabled → traps u cCOORD (BitVec.ofNat 64 (d * 128))) ∧
         ((dieOf s d).status = .out → ∃ t : State, exec i s = .next t ∧ (strandOf t s.cur).blocked = some (.landing d) ∧
           (strandOf t s.cur).pc = (strandOf s s.cur).pc ∧ (strandOf t s.cur).regs = (strandOf s s.cur).regs ∧
           t.mem = u.mem ∧ t.dies = s.dies) ∧
         ((dieOf s d).status = .inService →
           (∀ f, recJoin r ≠ 0 → join (.error f) → traps u f.cause (addr48 (recJoin r))) ∧
           (i = .spawnc a b c → (recJoin r = 0 ∨ ∃ g, join (.ok g)) →
             (x = 0 → ∀ w, encode i = some w → traps u cILLEGAL (w.zeroExtend 64)) ∧
             (x ≠ 0 → ∀ f, counter (.error f) → traps u f.cause x))))))

/-- R271: JDEC decrements a doubleword atomically, returns the old value, and changes no other byte. R273: LREAD reads the
depth, the waiting records, the saved strands with the slots held from START to DRAIN, or the charge of a landing, and
changes nothing. -/
def Obligations.JoinCountersAndLread : Prop :=
  ∀ (s : State) (a b : BitVec 5) (v : Word), v = reg s s.cur b →
    (∀ g, MemoriesWf s → endTarget s (agentOf s s.cur) (sidOf s.cur 0) true v = .ok g → unperformed s s.cur = false →
      streamHeld s s.cur 0 [homeDie s g] = false → HostAnswered s g →
      ∃ t : State, exec (.jdec a b) s = .next t ∧ OnlyAccess s t ∧
        Stored s t g 8 ((targetRead s (clusterIdx s.cur) g 8 + (2 ^ 64 - 1)) % 2 ^ 64) ∧
        strandOf t s.cur = past (putReg (strandOf s s.cur) a (BitVec.ofNat 64 (targetRead s (clusterIdx s.cur) g 8)))) ∧
    (∀ d l, a ≠ 0 → l < 32 → d < 4 → (dieOf s d).status = .inService →
      (v.toNat = d * 32 + l → Writes s (.lread a b) a
        (BitVec.ofNat 64 ((landingOf s d l).queue.length + (landingOf s d l).spill.length))) ∧
      (v.toNat = 256 + d * 32 + l → Writes s (.lread a b) a
        (BitVec.ofNat 64 ((dieOf s d).waitPool.countP fun w => recLanding w.entry.record == l))) ∧
      (v.toNat = 512 + d * 32 + l → Writes s (.lread a b) a
        (BitVec.ofNat 64 ((landingOf s d l).saved.length * 2 ^ 32 +
          s.strands.countP fun p => p.2.slot != .free && p.2.slot != .save && (dieIdx p.1 == d && stLanding p.2 == l)))) ∧
      (v.toNat = 768 + d * 32 + l → Writes s (.lread a b) a (landingOf s d l).charge))

/-- R98, R99: the completion word of an ending: DONE is set, the flags are ORed in, FAULT and CAUSE are written by the first
fault only, and every other bit stays.

R99, R248, R370: END of a strand whose commands and accesses have ended and whose words can be written drains; while
commands are outstanding it waits; a halted copy traps at once, even while other commands have not ended (log entry 56); a
bad status or a word that cannot be written traps at the END. An END in HANDLER drains whatever its words and statuses are.

R99, R235, R266: the end of a strand that drains with nothing outstanding: the completion word and the join counter are
written, no other byte changes, the slot is FREE, its bays and its claim are given up. What happens to a word that fails
only in the drain is the model's reading (log entry 24). That a FREE slot's registers read as after reset is the model's
choice (log entry 5). -/
def Obligations.EndOfAStrand : Prop :=
  (∀ (old : Word) (fl c : Nat), c < 64 →
     (completionWord old fl none).toNat = old.toNat ||| 2 ^ 63 ||| fl % 2 ^ 16 ∧
     (fld old 62 1 = 1 → (completionWord old fl (some c)).toNat = old.toNat ||| 2 ^ 63 ||| fl % 2 ^ 16) ∧
     (fld old 62 1 = 0 → fld (completionWord old fl (some c)) 62 1 = 1 ∧ fld (completionWord old fl (some c)) 63 1 = 1 ∧
       fld (completionWord old fl (some c)) 56 6 = c ∧ fld (completionWord old fl (some c)) 16 40 = fld old 16 40 ∧
       fld (completionWord old fl (some c)) 0 16 = fld old 0 16 ||| fl % 2 ^ 16)) ∧
  (∀ s : State,
     let t0 := strandOf s s.cur
     let drains := ∃ t : State, exec .endStrand s = .next t ∧ t.mem = s.mem ∧
       strandOf t s.cur = { t0 with slot := .drain, blocked := none, hostAnswer := none }
     (stNest t0 = false → haltedEngine s s.cur = none →
       (endPending s s.cur = true → Completes s .endStrand fun t => { t with blocked := some .endWait }) ∧
       (endPending s s.cur = false → openOps s s.cur ≠ [] →
         Completes s .endStrand fun t => { t with slot := .park, blocked := some .endWait }) ∧
       (endPending s s.cur = false → openOps s s.cur = [] → badOps s s.cur = true →
         TrapsHere s .endStrand cCOPY_FAULT 4) ∧
       (endPending s s.cur = false → openOps s s.cur = [] → badOps s s.cur = false →
         (endCheck s (endingOf s s.cur) = none → drains) ∧
         ∀ c a w, endCheck s (endingOf s s.cur) = some (c, a, w) → ∃ t : State, exec .endStrand s = .next t ∧ t.mem = s.mem ∧
           strandOf t s.cur = trapped c a (pcOf s) t0)) ∧
     (∀ e, stNest t0 = false → haltedEngine s s.cur = some e → TrapsHere s .endStrand cCOPY_FAULT (BitVec.ofNat 64 e)) ∧
     (stNest t0 = true → stSuper t0 = true → issuedCmds s (clusterIdx s.cur) t0.issuer = [] →
       endPending s s.cur = false → openOps s s.cur = [] → drains)) ∧
  (∀ (s : State) (id : Nat), (strandOf s id).slot = .drain → issuedCmds s (clusterIdx id) (strandOf s id).issuer = [] →
     endPending s id = false → openOps s id = [] → MemoriesWf s →
     ∃ t : State, exec (.endDrain id) s = .next t ∧ strandOf t id = Strand.reset id ∧
       (∀ j, j ≠ id → strandOf t j = strandOf s j) ∧
       (∀ b < 4, listGet none (coreOf t (coreIdx id)).bayOwner b ≠ some (slotIdx id)) ∧
       (∀ sl, (coreOf t (coreIdx id)).mezz.owner ≠ some ((strandOf s id).issuer, sl)) ∧
       (∀ g ∈ t.mem.tags, g.strand ≠ some id) ∧
       (recCmpl (strandOf s id).record = 0 → recJoin (strandOf s id).record = 0 →
         ∀ c r, targetRead t c r 1 = targetRead s c r 1) ∧
       (∀ g, recCmpl (strandOf s id).record ≠ 0 → recJoin (strandOf s id).record = 0 → Plain s g →
         endTarget s (agentOf s id) (sidOf id 0) false (addr48 (recCmpl (strandOf s id).record)) = .ok g →
         targetRead t (clusterIdx id) g 8 = (completionWord (BitVec.ofNat 64 (targetRead s (clusterIdx id) g 8))
           ((opsOf s (strandOf s id).issuer).foldl (fun f o => f ||| o.flags.toNat) (strandOf s id).sflags.toNat)
           (if stNest (strandOf s id) then some (fld (strandOf s id).cause 0 6) else none)).toNat ∧
         ∀ c r, Apart (clusterIdx id) g 8 c r → targetRead t c r 1 = targetRead s c r 1) ∧
       (∀ g, recCmpl (strandOf s id).record = 0 → recJoin (strandOf s id).record ≠ 0 →
         (strandOf s id).foyerJoin = false → Plain s g →
         endTarget s (agentOf s id) (sidOf id 0) true (addr48 (recJoin (strandOf s id).record)) = .ok g →
         targetRead t (clusterIdx id) g 8 = (targetRead s (clusterIdx id) g 8 + (2 ^ 64 - 1)) % 2 ^ 64 ∧
         ∀ c r, Apart (clusterIdx id) g 8 c r → targetRead t c r 1 = targetRead s c r 1) ∧
       (∀ g h u, u = (writeCompletion s (endingOf s id)).1 → recCmpl (strandOf s id).record ≠ 0 →
         recJoin (strandOf s id).record ≠ 0 → (strandOf s id).foyerJoin = false → Plain s g → Plain s h →
         endTarget s (agentOf s id) (sidOf id 0) false (addr48 (recCmpl (strandOf s id).record)) = .ok g →
         endTarget u (agentOf s id) (sidOf id 0) true (addr48 (recJoin (strandOf s id).record)) = .ok h →
         targetRead u (clusterIdx id) g 8 = (completionWord (BitVec.ofNat 64 (targetRead s (clusterIdx id) g 8))
           ((opsOf s (strandOf s id).issuer).foldl (fun f o => f ||| o.flags.toNat) (strandOf s id).sflags.toNat)
           (if stNest (strandOf s id) then some (fld (strandOf s id).cause 0 6) else none)).toNat ∧
         (∀ c r, Apart (clusterIdx id) g 8 c r → targetRead u c r 1 = targetRead s c r 1) ∧
         targetRead t (clusterIdx id) h 8 = (targetRead u (clusterIdx id) h 8 + (2 ^ 64 - 1)) % 2 ^ 64 ∧
         ∀ c r, Apart (clusterIdx id) h 8 c r → targetRead t c r 1 = targetRead u c r 1) ∧
       ∀ k, recCmpl (strandOf s id).record = 0 → k = recJoin (strandOf s id).record → k ≠ 0 → k % 8 = 0 →
         (strandOf s id).foyerJoin = true → lineBad s (k / 64) = false →
         physRead t k 8 = (physRead s k 8 + (2 ^ 64 - 1)) % 2 ^ 64 ∧
         ∀ c r, Apart (clusterIdx id) (.phys k false) 8 c r → targetRead t c r 1 = targetRead s c r 1)

/-! ## Vector instructions -/

/-- R116, R131, R132, R139, R83: every integer and bitwise vector instruction of two sources, vector-vector and vector-scalar:
ILLEGAL, VDEAD, or its result in every active element of vd, every other element, register, mask and flag being kept. `w` is
the element width and `x`, `y` the low `w` bits of the elements; a scalar is its low bits, and in a shift it is read whole;
in a bitwise instruction of an F type it is converted, and its flags count when an element is active. -/
def Obligations.VecIntegerTwoSource : Prop :=
  ∀ (s : State) (d a b : BitVec 5) (m : BitVec 2) (mp : BitVec 1),
    let bad := fun (ints : Bool) (l : List (BitVec 5)) => (ints && !inCls (arcOf s) [.i]) || badGroups (arcOf s) l
    let put := fun (v : VEnv) (e : Nat) (r : Fl Nat) =>
      if active v.a m mp e then some (laneValue (vWe v.a) r.1, r.2) else none
    let both := fun (ints whole : Bool) (i j : Instr) (f : Nat → Nat → Nat → Fl Nat) =>
      VecCourse s i (bad ints [d, a, b]) (ElementWise s [d] [a, b] d.toNat i (fun _ => 0) fun v e =>
        put v e (f (vWe v.a) (srcN v a e) (srcN v b e))) ∧
      VecCourse s j (bad ints [d, a]) (ElementWise s [d] [a] d.toNat j
        (fun v => if whole then 0 else scalarFlags v m mp (scalarElem v.a (operand1 s b)).2) fun v e =>
        put v e (f (vWe v.a) (srcN v a e)
          (if whole then (operand1 s b).toNat else (scalarElem v.a (operand1 s b)).1)))
    let ints := both true false
    let sat := fun (w : Nat) (lo hi x : Int) => ((wrapInt w (max lo (min hi x)), if x < lo ∨ hi < x then flagQSAT else 0) : Fl Nat)
    let satS := fun (w : Nat) (x : Int) => sat w (-2 ^ (w - 1)) (2 ^ (w - 1) - 1) x
    let satU := fun (w : Nat) (x : Int) => sat w 0 (2 ^ w - 1) x
    ints (.vadd d a b m mp) (.vaddS d a b m mp) (fun w x y => ((x + y) % 2 ^ w, 0)) ∧
    ints (.vsub d a b m mp) (.vsubS d a b m mp) (fun w x y => (wrapInt w (x - y), 0)) ∧
    ints (.vrsub d a b m mp) (.vrsubS d a b m mp) (fun w x y => (wrapInt w (y - x), 0)) ∧
    ints (.vmul d a b m mp) (.vmulS d a b m mp) (fun w x y => (x * y % 2 ^ w, 0)) ∧
    ints (.vmulh d a b m mp) (.vmulhS d a b m mp) (fun w x y => (wrapInt w (signed w x * signed w y / 2 ^ w), 0)) ∧
    ints (.vmulhu d a b m mp) (.vmulhuS d a b m mp) (fun w x y => (x * y / 2 ^ w, 0)) ∧
    ints (.vdiv d a b m mp) (.vdivS d a b m mp) (fun w x y => (wrapInt w (quotS w (signed w x) (signed w y)), 0)) ∧
    ints (.vdivu d a b m mp) (.vdivuS d a b m mp) (fun w x y => (if y = 0 then if x = 0 then 0 else 2 ^ w - 1 else x / y, 0)) ∧
    ints (.vrem d a b m mp) (.vremS d a b m mp) (fun w x y => (wrapInt w (remS (signed w x) (signed w y)), 0)) ∧
    ints (.vremu d a b m mp) (.vremuS d a b m mp) (fun _ x y => (if y = 0 then 0 else x % y, 0)) ∧
    ints (.vmin d a b m mp) (.vminS d a b m mp) (fun w x y => (if signed w x < signed w y then x else y, 0)) ∧
    ints (.vmax d a b m mp) (.vmaxS d a b m mp) (fun w x y => (if signed w x < signed w y then y else x, 0)) ∧
    ints (.vminu d a b m mp) (.vminuS d a b m mp) (fun _ x y => (min x y, 0)) ∧
    ints (.vmaxu d a b m mp) (.vmaxuS d a b m mp) (fun _ x y => (max x y, 0)) ∧
    ints (.vsadd d a b m mp) (.vsaddS d a b m mp) (fun w x y => satS w (signed w x + signed w y)) ∧
    ints (.vssub d a b m mp) (.vssubS d a b m mp) (fun w x y => satS w (signed w x - signed w y)) ∧
    ints (.vsaddu d a b m mp) (.vsadduS d a b m mp) (fun w x y => satU w (x + y)) ∧
    ints (.vssubu d a b m mp) (.vssubuS d a b m mp) (fun w x y => satU w (x - y)) ∧
    both true true (.vsll d a b m mp) (.vsllS d a b m mp)
      (fun w x y => (if w ≤ y % 128 then 0 else x * 2 ^ (y % 128) % 2 ^ w, 0)) ∧
    both true true (.vsrl d a b m mp) (.vsrlS d a b m mp) (fun _ x y => (x / 2 ^ (y % 128), 0)) ∧
    both true true (.vsra d a b m mp) (.vsraS d a b m mp) (fun w x y => (wrapInt w (signed w x / 2 ^ (y % 128)), 0)) ∧
    both false false (.vand d a b m mp) (.vandS d a b m mp) (fun _ x y => (x &&& y, 0)) ∧
    both false false (.vor d a b m mp) (.vorS d a b m mp) (fun _ x y => (x ||| y, 0)) ∧
    both false false (.vxor d a b m mp) (.vxorS d a b m mp) (fun _ x y => (x ^^^ y, 0))

/-- R139-R141: the remaining integer vector instructions: of one source, the multiply-add, the bit field, and the widening and
narrowing forms, which read the low Wn = We / 2 bits by the signedness of TYPE and saturate with QSAT. -/
def Obligations.VecIntegerOther : Prop :=
  ∀ (s : State) (d a b : BitVec 5) (m : BitVec 2) (mp : BitVec 1),
    let wrong := fun (l : List (BitVec 5)) => !inCls (arcOf s) [.i] || badGroups (arcOf s) l
    let put := fun (w : Nat) (v : VEnv) (e : Nat) (r : Fl Nat) => if active v.a m mp e then some (laneValue w r.1, r.2) else none
    let one := fun (i : Instr) (bad : Bool) (f : Nat → Nat → Nat) =>
      VecCourse s i bad (ElementWise s [d] [a] d.toNat i (fun _ => 0) fun v e =>
        put (vWe v.a) v e (f (vWe v.a) (srcN v a e), 0))
    let ext := fun (v : VEnv) (w x : Nat) => if signedCode (vType v.a) then signed w x else ((x % 2 ^ w : Nat) : Int)
    let wide := fun (bad : List (BitVec 5) → Bool) (out : VEnv → Nat) (i j : Instr) (f : VEnv → Nat → Nat → Fl Nat) =>
      VecCourse s i (bad [d, a, b]) (ElementWise s [d] [a, b] d.toNat i (fun _ => 0) fun v e =>
        put (out v) v e (f v (srcN v a e) (srcN v b e))) ∧
      VecCourse s j (bad [d, a]) (ElementWise s [d] [a] d.toNat j (fun _ => 0) fun v e =>
        put (out v) v e (f v (srcN v a e) (operand1 s b).toNat))
    let notWideType := fun (l : List (BitVec 5)) => !((vType (arcOf s) ∈ [0x21, 0x22] ∧ vW (arcOf s) % 2 = 0) ∨
      vType (arcOf s) ∈ [0x1F, 0x00, 0x02, 0x01]) || badGroups (arcOf s) l
    one (.vnot d a m mp) (badGroups (arcOf s) [d, a]) (fun w x => 2 ^ w - 1 - x) ∧
    one (.vneg d a m mp) (wrong [d, a]) (fun w x => (2 ^ w - x) % 2 ^ w) ∧
    one (.vpopc d a m mp) (wrong [d, a]) (fun w x => (List.range w).countP x.testBit) ∧
    one (.vclz d a m mp) (wrong [d, a]) (fun w x => w - (List.range w).countP fun k => decide (2 ^ k ≤ x)) ∧
    VecCourse s (.vmadd d a b m mp) (wrong [d, a, b]) (ElementWise s [d] [a, b] d.toNat (.vmadd d a b m mp) (fun _ => 0)
      fun v e => put (vWe v.a) v e ((srcN v a e * srcN v b e + elemN v.a d.toNat e) % 2 ^ vWe v.a, 0)) ∧
    VecCourse s (.vmaddS d a b m mp) (wrong [d, a]) (ElementWise s [d] [a] d.toNat (.vmaddS d a b m mp) (fun _ => 0)
      fun v e => put (vWe v.a) v e
        ((srcN v a e * ((operand1 s b).toNat % 2 ^ vWe v.a) + elemN v.a d.toNat e) % 2 ^ vWe v.a, 0)) ∧
    VecCourse s (.vfieldS d a b m mp) (wrong [d, a]) (ElementWise s [d] [a] d.toNat (.vfieldS d a b m mp) (fun _ => 0)
      fun v e => put (vWe v.a) v e
        (srcN v a e / 2 ^ fld (operand1 s b) 0 6 % 2 ^ (fld (operand1 s b) 8 6 + 1), 0)) ∧
    wide notWideType (fun v => vWe v.a) (.vwadd d a b m mp) (.vwaddS d a b m mp)
      (fun v x y => (wrapInt (vWe v.a) (ext v (vWe v.a / 2) x + ext v (vWe v.a / 2) y), 0)) ∧
    wide notWideType (fun v => vWe v.a) (.vwmul d a b m mp) (.vwmulS d a b m mp)
      (fun v x y => (wrapInt (vWe v.a) (ext v (vWe v.a / 2) x * ext v (vWe v.a / 2) y), 0)) ∧
    wide notWideType (fun v => vWe v.a / 2) (.vnsrl d a b m mp) (.vnsrlS d a b m mp)
      (fun _ x y => (x / 2 ^ (y % 128), 0)) ∧
    wide notWideType (fun v => vWe v.a / 2) (.vnclip d a b m mp) (.vnclipS d a b m mp)
      (fun v x y =>
        let r := rneInt (ext v (vWe v.a) x) (y % 128)
        let n := vWe v.a / 2
        let lo : Int := if signedCode (vType v.a) then -2 ^ (n - 1) else 0
        let hi : Int := if signedCode (vType v.a) then 2 ^ (n - 1) - 1 else 2 ^ n - 1
        (wrapInt n (max lo (min hi r)), if r < lo ∨ hi < r then flagQSAT else 0))

/-- R131, R132, R142-R145: every floating-point vector instruction: the operation of the element format with one rounding, its
flags, and nothing else; a conversion between TYPE and the named format, whose selector's bit 4 gives the direction. -/
def Obligations.VecFloat : Prop :=
  ∀ (s : State) (d a b : BitVec 5) (m : BitVec 2) (mp : BitVec 1),
    let bad := fun (l : List (BitVec 5)) => !inCls (arcOf s) [.f] || badGroups (arcOf s) l
    let put := fun (v : VEnv) (e : Nat) (w : Nat) (r : Fl Nat) => if active v.a m mp e then some (laneValue w r.1, r.2) else none
    let sc := fun (v : VEnv) => scalarElem v.a (operand1 s b)
    let both := fun (i j : Instr) (f : FFmt → Nat → Nat → Nat → Fl Nat) =>
      VecCourse s i (bad [d, a, b]) (ElementWise s [d] [a, b] d.toNat i (fun _ => 0) fun v e =>
        put v e (vWe v.a) (f (vFmt v.a) (srcN v a e) (srcN v b e) (elemN v.a d.toNat e))) ∧
      VecCourse s j (bad [d, a]) (ElementWise s [d] [a] d.toNat j (fun v => scalarFlags v m mp (sc v).2) fun v e =>
        put v e (vWe v.a) (f (vFmt v.a) (srcN v a e) (sc v).1 (elemN v.a d.toNat e)))
    let one := fun (i : Instr) (w : VEnv → Nat) (f : FFmt → Nat → Fl Nat) =>
      VecCourse s i (bad [d, a]) (ElementWise s [d] [a] d.toNat i (fun _ => 0) fun v e =>
        put v e (w v) (f (vFmt v.a) (srcN v a e)))
    both (.vfadd d a b m mp) (.vfaddS d a b m mp) (fun f x y _ => fpAdd f x y) ∧
    both (.vfsub d a b m mp) (.vfsubS d a b m mp) (fun f x y _ => fpSub f x y) ∧
    both (.vfmul d a b m mp) (.vfmulS d a b m mp) (fun f x y _ => fpMul f x y) ∧
    both (.vfdiv d a b m mp) (.vfdivS d a b m mp) (fun f x y _ => fpDiv f x y) ∧
    both (.vfmin d a b m mp) (.vfminS d a b m mp) (fun f x y _ => fpPick true f x y) ∧
    both (.vfmax d a b m mp) (.vfmaxS d a b m mp) (fun f x y _ => fpPick false f x y) ∧
    both (.vfma d a b m mp) (.vfmaS d a b m mp) fpFma ∧
    one (.vfsqrt d a m mp) (fun v => vWe v.a) fpSqrt ∧ one (.vlog2 d a m mp) (fun v => vWe v.a) fpLog2 ∧
    one (.vexp2 d a m mp) (fun v => vWe v.a) fpExp2 ∧ one (.vfclass d a m mp) (fun _ => 5) (fun f x => (fpClass f x, 0)) ∧
    VecCourse s (.vfcvt d a b m mp) (!inCls (arcOf s) [.i, .f] || cvtBad (arcOf s) b || badGroups (arcOf s) [d, a])
      (∀ f, cvtFormat b = some f → ElementWise s [d] [a] d.toNat (.vfcvt d a b m mp) (fun _ => 0) fun v e =>
        let t := typeOf (vType v.a) (vW v.a)
        if b.getLsbD 4 then put v e (etWidth f) (convertElem t f ((srcW v a e).toNat % 2 ^ etWidth t))
        else put v e (etWidth t) (convertElem f t ((srcW v a e).toNat % 2 ^ etWidth f)))

/-- R117, R146-R149: compares, mask algebra, the cuts at the first set bit, and the scalars and indexes taken from a mask: lanes
at and above VL, inactive lanes, other masks and every vector register are kept. -/
def Obligations.VecMasks : Prop :=
  ∀ (s : State) (p q r m : BitVec 2) (d a b : BitVec 5) (mp : BitVec 1),
    let cmp := fun (cls : Cls) (i j : Instr) (f : VEnv → Nat → Nat → Fl Bool) =>
      VecCourse s i (!inCls (arcOf s) [cls] || vG (arcOf s) != 1) (MaskWise s [a, b] p i (fun _ => 0) fun v e =>
        if active v.a m mp e then some (f v (srcN v a e) (srcN v b e)) else none) ∧
      VecCourse s j (!inCls (arcOf s) [cls] || vG (arcOf s) != 1) (MaskWise s [a] p j
        (fun v => scalarFlags v m mp (scalarElem v.a (operand1 s b)).2) fun v e =>
        if active v.a m mp e then some (f v (srcN v a e) (scalarElem v.a (operand1 s b)).1) else none)
    let ints := fun (i j : Instr) (f : Nat → Nat → Nat → Bool) => cmp .i i j fun v x y => (f (vWe v.a) x y, 0)
    let flts := fun (i j : Instr) (f : FFmt → Nat → Nat → Fl Bool) => cmp .f i j fun v x y => f (vFmt v.a) x y
    let algebra := fun (i : Instr) (f : Bool → Bool → Bool) =>
      VecCourse s i (vG (arcOf s) != 1) (MaskWise s [] p i (fun _ => 0) fun v e =>
        if v.a.lane ≤ e then some (f (maskBit v.a q.toNat e) (maskBit v.a r.toNat e), 0) else none)
    let isSet := fun (v : VEnv) (e : Nat) => active v.a m mp e && maskBit v.a q.toNat e
    let cut := fun (i : Instr) (upTo : Nat → Nat → Bool) =>
      VecCourse s i (vG (arcOf s) != 1) (MaskWise s [] p i (fun _ => 0) fun v e =>
        if active v.a m mp e then
          some (!((List.range v.a.vl).any fun f => isSet v f && upTo f e), 0)
        else none)
    ints (.vcmpeq p a b m mp) (.vcmpeqS p a b m mp) (fun _ x y => x == y) ∧
    ints (.vcmpne p a b m mp) (.vcmpneS p a b m mp) (fun _ x y => x != y) ∧
    ints (.vcmplt p a b m mp) (.vcmpltS p a b m mp) (fun w x y => signed w x < signed w y) ∧
    ints (.vcmpltu p a b m mp) (.vcmpltuS p a b m mp) (fun _ x y => x < y) ∧
    ints (.vcmple p a b m mp) (.vcmpleS p a b m mp) (fun w x y => signed w x ≤ signed w y) ∧
    ints (.vcmpleu p a b m mp) (.vcmpleuS p a b m mp) (fun _ x y => x ≤ y) ∧
    flts (.vfcmpeq p a b m mp) (.vfcmpeqS p a b m mp) fpEq ∧ flts (.vfcmplt p a b m mp) (.vfcmpltS p a b m mp) fpLt ∧
    flts (.vfcmple p a b m mp) (.vfcmpleS p a b m mp) fpLe ∧
    algebra (.mand p q r) (fun x y => x && y) ∧ algebra (.mor p q r) (fun x y => x || y) ∧
    algebra (.mxor p q r) (fun x y => x != y) ∧ algebra (.mandn p q r) (fun x y => x && !y) ∧
    algebra (.mnot p q) (fun x _ => !x) ∧
    cut (.msbf p q m mp) (fun f e => f ≤ e) ∧ cut (.msif p q m mp) (fun f e => f < e) ∧
    VecCourse s (.mcount d q m mp) (vG (arcOf s) != 1) (ScalarWise s [] (.mcount d q m mp) (fun _ => 0) fun v =>
      [(d, BitVec.ofNat 64 ((List.range v.a.vl).countP (isSet v)))]) ∧
    VecCourse s (.mfirst d q m mp) (vG (arcOf s) != 1) (ScalarWise s [] (.mfirst d q m mp) (fun _ => 0) fun v =>
      [(d, match (List.range v.a.vl).find? (isSet v) with | none => -1 | some e => BitVec.ofNat 64 e)]) ∧
    VecCourse s (.viota d q m mp) (!inCls (arcOf s) [.i] || vG (arcOf s) != 1)
      (ElementWise s [d] [] d.toNat (.viota d q m mp) (fun _ => 0) fun v e =>
        if active v.a m mp e then some (laneValue (vWe v.a) ((List.range e).countP (isSet v)), 0) else none)

/-- R150-R153: the associative instructions: a pattern under a care mask, a range of values, a scalar written to tagged lanes,
distances, and the first k of a ranking in which NaNs come last and ties go to the lower index.

R154-R156: the reductions over the active elements, to a scalar register: the sum of the extended elements modulo 2^64,
extremes and bitwise folds, the exact floating-point sum rounded once, and the best value with its lowest index. That VTWR
sets the flags of its converted scalar only when a lane is tagged, and that no signalling NaN sets a flag in VSRCHR, VTOPK,
VMAXI and VMINI, are the model's readings (log entries 61, 82). -/
def Obligations.VecSearchesAndReductions : Prop :=
  (∀ (s : State) (p q m : BitVec 2) (d a b : BitVec 5) (c : BitVec 4) (mp : BitVec 1),
     let lo := fun (v : VEnv) => (operand1 s (c ++ 0#1)).toNat % 2 ^ vWe v.a
     let hi := fun (v : VEnv) => (operand2 s (c ++ 1#1)).toNat % 2 ^ vWe v.a
     let val := fun (v : VEnv) (x : Nat) => (readElem 0 (typeOf (vType v.a) (vW v.a)) x).1
     let ranked := !inCls (arcOf s) [.i, .f, .l] || vG (arcOf s) != 1
     let top := fun (i : Instr) (better : Val → Val → Bool) =>
       VecCourse s i ranked (∀ u v, VecReady s [] [a] u v → ∃ t : State, exec i s = .next t ∧ VecRan u t v 0 ∧ SameRegs u t ∧
         t.mem = u.mem ∧ t.pkg = u.pkg ∧ t.net = u.net ∧ t.clusters = u.clusters ∧ (arcOf t).results = (arcOf u).results ∧
         (∀ n, n ≠ p.toNat → listGet [] (arcOf t).masks n = listGet [] (arcOf u).masks n) ∧
         ∀ l, maskBit (arcOf t) p.toNat l =
           if l < v.a.vl ∧ active v.a m mp l then
             decide ((((actives v.a m mp).filter fun f =>
               let x := val v (srcN v a f)
               let y := val v (srcN v a l)
               if isNaN x then isNaN y && decide (f < l)
               else isNaN y || better x y || (!better y x && decide (f < l))).length) < (operand1 s b).toNat)
           else maskBit (arcOf u) p.toNat l)
     VecCourse s (.vsrch p a c m mp) (vG (arcOf s) != 1) (MaskWise s [a] p (.vsrch p a c m mp) (fun _ => 0) fun v e =>
       if active v.a m mp e then some (srcN v a e &&& hi v == lo v &&& hi v, 0) else none) ∧
     VecCourse s (.vsrchr p a c m mp) ranked (MaskWise s [a] p (.vsrchr p a c m mp) (fun _ => 0) fun v e =>
       if active v.a m mp e then
         some (!isNaN (val v (srcN v a e)) && !isNaN (val v (lo v)) && !isNaN (val v (hi v)) &&
           !ltVal (val v (srcN v a e)) (val v (lo v)) && !ltVal (val v (hi v)) (val v (srcN v a e)), 0)
       else none) ∧
     VecCourse s (.vtwr d q b) (vG (arcOf s) != 1) (ElementWise s [d] [] d.toNat (.vtwr d q b) (fun _ => 0) fun v e =>
       if v.a.lane ≤ e ∧ e < v.a.vl ∧ maskBit v.a q.toNat e then
         some (laneValue (vWe v.a) (scalarElem v.a (operand1 s b)).1, (scalarElem v.a (operand1 s b)).2)
       else none) ∧
     VecCourse s (.vhamm d a b m mp) (badGroups (arcOf s) [d, a]) (ElementWise s [d] [a] d.toNat (.vhamm d a b m mp)
       (fun _ => 0) fun v e => if active v.a m mp e then
         some (laneValue (vWe v.a) ((List.range (vWe v.a)).countP fun k =>
           (srcN v a e).testBit k != (operand1 s b).toNat.testBit k), 0) else none) ∧
     top (.vtopkMax p a b m mp) (fun x y => ltVal y x) ∧ top (.vtopkMin p a b m mp) ltVal) ∧
  (∀ (s : State) (d a : BitVec 5) (c : BitVec 4) (m : BitVec 2) (mp : BitVec 1),
     let elems := fun (v : VEnv) => (actives v.a m mp).map (srcN v a)
     let ext := fun (v : VEnv) (x : Nat) => if signedCode (vType v.a) then signed (vWe v.a) x else ((x % 2 ^ vWe v.a : Nat) : Int)
     let ints := fun (i : Instr) (f : VEnv → List Nat → Int) =>
       VecCourse s i (!inCls (arcOf s) [.i] || badGroups (arcOf s) [a]) (ScalarWise s [a] i (fun _ => 0) fun v =>
         [(d, BitVec.ofInt 64 (f v (elems v)))])
     let best := fun (i : Instr) (better : Val → Val → Bool) =>
       VecCourse s i (!inCls (arcOf s) [.i, .f, .l] || badGroups (arcOf s) [a]) (∀ u v, VecReady s [] [a] u v →
         let val := fun (e : Nat) => (readElem 0 (typeOf (vType v.a) (vW v.a)) (srcN v a e)).1
         let gives := fun (x y : Word) => ∃ t : State, exec i s = .next t ∧ VecRan u t v 0 ∧ Quiet u t ∧ SameRegs u t ∧
           (arcOf t).masks = (arcOf u).masks ∧ (arcOf t).results = (arcOf u).results ++ [(c ++ 0#1, x), (c ++ 1#1, y)]
         ((∀ e ∈ actives v.a m mp, isNaN (val e) = true) → gives (BitVec.ofNat 64 (emptyBest v.a)) (-1)) ∧
         ((∃ e ∈ actives v.a m mp, isNaN (val e) = false) → ∃ j ∈ actives v.a m mp, isNaN (val j) = false ∧
           (∀ e ∈ actives v.a m mp, isNaN (val e) = false →
             better (val e) (val j) = false ∧ (e < j → better (val j) (val e) = true)) ∧
           gives (if clsOf (vType v.a) = .i then BitVec.ofInt 64 (ext v (srcN v a j)) else BitVec.ofNat 64 (srcN v a j))
             (BitVec.ofNat 64 j)))
     ints (.vredsum d a m mp) (fun v l => (l.map (ext v)).sum) ∧
     ints (.vredmax d a m mp) (fun v l => (l.map (signed (vWe v.a))).foldl max (-2 ^ (vWe v.a - 1))) ∧
     ints (.vredmin d a m mp) (fun v l => (l.map (signed (vWe v.a))).foldl min (2 ^ (vWe v.a - 1) - 1)) ∧
     ints (.vredmaxu d a m mp) (fun _ l => (l.foldl max 0 : Nat)) ∧
     ints (.vredminu d a m mp) (fun v l => (l.foldl min (2 ^ vWe v.a - 1) : Nat)) ∧
     ints (.vredand d a m mp) (fun v l => (l.foldl (· &&& ·) (2 ^ vWe v.a - 1) : Nat)) ∧
     ints (.vredor d a m mp) (fun _ l => (l.foldl (· ||| ·) 0 : Nat)) ∧
     ints (.vredxor d a m mp) (fun _ l => (l.foldl (· ^^^ ·) 0 : Nat)) ∧
     VecCourse s (.vfredsum d a m mp) (!inCls (arcOf s) [.f] || badGroups (arcOf s) [a])
       (ScalarWise s [a] (.vfredsum d a m mp)
         (fun v => (exactSum (vFmt v.a) (if vType v.a = 0x20 then fFP64 else fFP32) (elems v)).2) fun v =>
         [(d, BitVec.ofNat 64 (exactSum (vFmt v.a) (if vType v.a = 0x20 then fFP64 else fFP32) (elems v)).1)]) ∧
     best (.vmaxi c a m mp) (fun x y => ltVal y x) ∧ best (.vmini c a m mp) ltVal)

/-- R118, R157, R158: the permutes and moves: each writes the elements that its rule names from the sources as they were, an
index at or beyond VLMAX reading 0, and keeps everything else. That VINS with an index at or past VL converts nothing is the
model's reading (log entry 61), and what VEXT of class P gives its choice (log entry 59). -/
def Obligations.VecPermutes : Prop :=
  ∀ (s : State) (d a b : BitVec 5) (m : BitVec 2) (mp : BitVec 1) (k : BitVec 10),
    let grp := fun (l : List (BitVec 5)) => badGroups (arcOf s) l
    let x := (operand1 s b).toNat
    let put := fun (v : VEnv) (e : Nat) (r : Nat) => if active v.a m mp e then some ((laneValue (vWe v.a) r, 0) : Fl Word) else none
    let perm := fun (i : Instr) (vs : List (BitVec 5)) (pick : VEnv → Nat → Option Nat) =>
      VecCourse s i (grp (d :: vs)) (ElementWise s [d] vs d.toNat i (fun _ => 0) fun v e =>
        (pick v e).bind fun j => put v e (srcN v a j))
    perm (.vgathr d a b m mp) [a, b] (fun v e => some (srcIndex v b e)) ∧
    perm (.vbperm d a b m mp) [a, b] (fun v e => some (e ^^^ srcIndex v b e)) ∧
    perm (.vshup d a b m mp) [a] (fun _ e => if x ≤ e then some (e - x) else none) ∧
    perm (.vshdn d a b m mp) [a] (fun _ e => some (e + x)) ∧ perm (.vbcst d a b m mp) [a] (fun _ _ => some x) ∧
    perm (.vmv d a m mp) [a] (fun _ e => some e) ∧
    VecCourse s (.vext d a b) (grp [a]) (ScalarWise s [a] (.vext d a b) (fun _ => 0) fun v =>
      [(d, extElem v.a (srcN v a x))]) ∧
    VecCourse s (.vins d a b) (grp [d]) (ElementWise s [d] [] d.toNat (.vins d a b) (fun _ => 0) fun v e =>
      if e = (operand2 s b).toNat then
        some (laneValue (vWe v.a) (scalarElem v.a (operand1 s a)).1, (scalarElem v.a (operand1 s a)).2) else none) ∧
    VecCourse s (.vcomp d a m) (grp [d, a]) (ElementWise s [d] [a] d.toNat (.vcomp d a m) (fun _ => 0) fun v e =>
      (((List.range v.a.vl).filter fun f => maskBit v.a m.toNat (f % lanesOf v.a))[e]?).map fun j =>
        (laneValue (vWe v.a) (srcN v a j), 0)) ∧
    VecCourse s (.vmerge d a b m) (grp [d, a, b]) (ElementWise s [d] [a, b] d.toNat (.vmerge d a b m) (fun _ => 0) fun v e =>
      if v.a.lane ≤ e ∧ e < v.a.vl then
        some (laneValue (vWe v.a) (if maskBit v.a m.toNat (e % lanesOf v.a) then srcN v b e else srcN v a e), 0) else none) ∧
    VecCourse s (.vmvi d k m mp) (grp [d]) (ElementWise s [d] [] d.toNat (.vmvi d k m mp) (fun _ => 0) fun v e =>
      if active v.a m mp e then some (laneValue (vWe v.a) (immElem v.a k).1, (immElem v.a k).2) else none) ∧
    VecCourse s (.vid d m mp) (!inCls (arcOf s) [.i] || grp [d]) (ElementWise s [d] [] d.toNat (.vid d m mp) (fun _ => 0) fun v e =>
      put v e e)

/-- R23-R29, R119, R168-R172: the conversions: scales set and computed (SC says by whom), elements quantised into QFMT and read
back, logarithmic codes, and codebook look-up and load. The only flag of VBSCALE is QSAT, of a block whose scale exponent
R24 clamps. VBSCALE of a QFMT that has no scales gives values that the manual does not state (log entry 15). That the
MISALIGN of VCBLD sets VRESUME.HELD is the model's reading of R229 (log entry 47), and so are the flags of VBSCALE and of
VCVTL under a device scale (log entries 76, 82). -/
def Obligations.VectorConversions : Prop :=
  ∀ (s : State) (d a b : BitVec 5) (c m : BitVec 2) (mp : BitVec 1),
    let code := fld (arcOf s).mfmt 16 5
    let scaled := fmtScale code != .none
    let linear := inCls (arcOf s) [.i, .f]
    let lns := decide (code ∈ [0x0F, 0x10, 0x1B])
    let regs := if scaled then [d, 31] else [d]
    let conv := fun (i : Instr) (bad : Bool) (f : VEnv → Nat → Fl Word) =>
      VecCourse s i (bad || !linear || badGroups (arcOf s) [d, a] || (scaled && vG (arcOf s) != 1))
        (ElementWise s regs [a] d.toNat i (fun _ => 0) fun v e => if active v.a m mp e then some (f v e) else none)
    let val := fun (v : VEnv) (e : Nat) => (readElem 0 (typeOf (vType v.a) (vW v.a)) (srcN v a e)).1
    let scale := fun (v : VEnv) (e : Nat) => if scaled then (elemW v.a 31 e).toNat else 0
    let quant := fun (v : VEnv) (e : Nat) =>
      let r := quantise (mBook v.a) code (vW v.a) (fld v.a.mfmt 7 1 == 1) (scale v e) (val v e)
      ((laneValue (etWidth (fmtType code)) r.1, r.2) : Fl Word)
    let block := fun (v : VEnv) (e : Nat) => (v.a.sidx.toNat + e) / scaleBlock (fmtScale code)
    conv (.vquant d a m mp) lns quant ∧ conv (.vcvtl d a m mp) (!lns) quant ∧
    conv (.vdeq d a m mp) false (fun v e =>
      let x := scaledVal (mBook v.a) code (fmtType code) (scale v e) ((srcW v a e).toNat % 2 ^ etWidth (fmtType code))
      let r := toElem (typeOf (vType v.a) (vW v.a)) x.1
      (laneValue (vWe v.a) r.1, x.2 ||| r.2)) ∧
    VecCourse s (.vcbx d a c m mp) (!linear || badGroups (arcOf s) [d, a])
      (ElementWise s [d] [a] d.toNat (.vcbx d a c m mp) (fun _ => 0) fun v e =>
        let r := toElem (typeOf (vType v.a) (vW v.a)) (cbEntry (listGet 0 v.a.codebooks c.toNat) (srcW v a e).toNat)
        if active v.a m mp e then some (laneValue (vWe v.a) r.1, r.2) else none) ∧
    VecCourse s (.vsclset a m mp) (!scaled || vG (arcOf s) != 1) (∀ u v, VecReady s [31] [a] u v →
      ∃ t : State, exec (.vsclset a m mp) s = .next t ∧ VecRan u t v 0 ∧ Quiet u t ∧ SameSide u t ∧
        (arcOf t).mfmt = setFld (arcOf u).mfmt 7 1 0 ∧ Wrote u t v 31 fun e =>
          if active v.a m mp e then
            some (laneValue (if fmtScale code = .bf16 then 16 else 8) (srcW v a (block v e - block v 0)).toNat) else none) ∧
    VecCourse s (.vbscale a m mp) (!linear || vG (arcOf s) != 1) (∀ u v, VecReady s [31] [a] u v →
      let members := fun (e : Nat) => (actives v.a m mp).filter fun j => block v j == block v e
      let scales := fun (e : Nat) => blockScale (mBook v.a) code ((members e).map (val v))
      let ran := fun (t : State) (fl : Word) (f : Nat → Option Word) => exec (.vbscale a m mp) s = .next t ∧ VecRan u t v fl ∧
        SameSide u t ∧ (arcOf t).mfmt = setFld (arcOf u).mfmt 7 1 1 ∧ Wrote u t v 31 f
      (scaled = true → ∃ t : State, Quiet u t ∧ ran t (orFlags ((actives v.a m mp).map fun e => (scales e).2)) fun e =>
        if active v.a m mp e then some (BitVec.ofNat 64 (scales e).1) else none) ∧
      (scaled = false → ∃ t f, Quiet { u with free := t.free } t ∧ ran t 0 f ∧ ∀ e, (f e).isSome = active v.a m mp e) ∧
      (fmtScale code = .bf16 → ∀ e, (scales e).2 = 0) ∧
      (fmtScale code = .e8m0 → ∀ (e : Nat) (r : ℚ), 0 < r →
        (∃ j ∈ members e, ∃ x, ratOf (val v j) = some x ∧ |x| = r) →
        (∀ j ∈ members e, ∃ x, ratOf (val v j) = some x ∧ |x| ≤ r) →
        let x := Int.log 2 r - emaxOf code
        scales e = ((max (-127) (min x 127) + 127).toNat, if -127 ≤ x ∧ x ≤ 127 then 0 else flagQSAT))) ∧
    VecCourse s (.vcbld c b) false (∀ u v, VecReady s [] [] u v →
      ((v.a.lane = 0 ∨ v.a.lane < v.a.vl) → (operand1 s b).toNat % 32 ≠ 0 → stNest (strandOf u u.cur) = false →
        ∃ t : State, exec (.vcbld c b) s = .next t ∧ t.mem = u.mem ∧
          HeldTrap u t ⟨(encode (.vcbld c b)).getD 0, operand1 s b, operand2 s 0⟩ cMISALIGN (operand1 s b) 0) ∧
      ∀ n w, (v.a.lane = 0 ∨ v.a.lane < v.a.vl) → (operand1 s b).toNat % 32 = 0 →
        readChunks u u.cur 1 [(operand1 s b, 32)] = .ok [n] w →
        ∃ t : State, exec (.vcbld c b) s = .next t ∧ VecRan u t v 0 ∧ SameRegs u t ∧ (arcOf t).masks = (arcOf u).masks ∧
          listGet 0 (arcOf t).codebooks c.toNat = BitVec.ofNat 256 n ∧ t.mem.dram = u.mem.dram ∧ t.mem.l2 = u.mem.l2 ∧
          ∀ j, j ≠ c.toNat → listGet 0 (arcOf t).codebooks j = listGet 0 (arcOf u).codebooks j)

/-! ## Vector memory -/

/-- R160-R164: the vector loads: every active element takes the value of its place in memory, converted from the memory type;
nothing else changes but that coded lines may have been filled and the stream's sequence numbers have gone up. `n e` is what
a read of the place of `e` gives; with several active elements the places are near ones. A first fault of VLDFF beyond its
lowest active element, the one it began with when it has waited, shortens VL to it, and the VLDFF completes with the
elements below it; of the rest of the machine it leaves what that read leaves, a report of the fault (R293). -/
def Obligations.VectorLoads : Prop :=
  ∀ (s : State) (d b x : BitVec 5) (m : BitVec 2) (mp g r : BitVec 1),
    let loads := fun (i : Instr) (vs : List (BitVec 5)) (packed : Bool) (place : VEnv → Nat → ElemPlace) =>
      VecCourse s i (badMem (arcOf s) d packed || badGroups (arcOf s) vs)
        (∀ (u : State) (v : VEnv) (n : Nat → Nat), VecReady s (d :: scaleReg (arcOf s)) vs u v →
          (∀ e ∈ actives v.a m mp, ∃ w, readElemAt u u.cur (1 + g.toNat) (mWidth v.a) (place v e) = .ok (n e) w) →
          ((actives v.a m mp).length ≤ 1 ∨ ∀ e ∈ actives v.a m mp, ∀ c ∈ elemChunks (mWidth v.a) (place v e),
            ∃ q, translate u (agentOf u u.cur) false c.1 = .ok q ∧ Near u q) →
          let f := fun (e : Nat) => if active v.a m mp e then some (fromMem v.a e (n e)) else none
          ∃ t : State, exec i s = .next t ∧ VecRan u t v (flagsOf v f) ∧ Wrote u t v d.toNat (fun e => (f e).map (·.1)) ∧
            SameSide u t ∧ (arcOf t).mfmt = (scaleCleared u v d.toNat fun e => (f e).map (·.1)) ∧ Loaded u t (1 + g.toNat))
    loads (.vld d b m mp g r) [] true (fun v => contiguous v.a (operand1 s b) r) ∧
    loads (.vlds d b x m mp g r) [] false (fun v => strided v.a (operand1 s b) (operand2 s x) r) ∧
    loads (.vldx d b x m mp g) [x] false (fun v => indexed v (operand1 s b) x) ∧
    loads (.vldff d b m mp g r) [] true (fun v => contiguous v.a (operand1 s b) r) ∧
    ∀ (u : State) (v : VEnv) (n : Nat → Nat) (c j : List Nat) (k : Nat) (w : State), VecReady s (d :: scaleReg (arcOf s)) [] u v → heldOn (strandOf s s.cur) = false →
      badMem (arcOf s) d true = false → actives v.a m mp = c ++ k :: j →
      (c ≠ [] ∨ ∃ l ∈ actives { v.a with lane := startLane v.a } m mp, l < k) →
      (∀ e ∈ c, ∃ w, readElemAt u u.cur (1 + g.toNat) (mWidth v.a) (contiguous v.a (operand1 s b) r e) = .ok (n e) w) →
      (∀ e ∈ c, ∀ p ∈ elemChunks (mWidth v.a) (contiguous v.a (operand1 s b) r e),
        ∃ q, translate u (agentOf u u.cur) false p.1 = .ok q ∧ Near u q) →
      (∃ f ∈ [cPAGE_FAULT, cACCESS, cMEM_UE],
        readElemAt u u.cur (1 + g.toNat) (mWidth v.a) (contiguous v.a (operand1 s b) r k) = .fault f w) →
      let f := fun (e : Nat) => if e ∈ c then some (fromMem v.a e (n e)) else none
      ∃ t : State, exec (.vldff d b m mp g r) s = .next (modArc t u.cur fun a => { a with vl := k }) ∧ VecRan u t v (flagsOf v f) ∧
        (Wrote u t v d.toNat fun e => (f e).map (·.1)) ∧ SameSide u t ∧
        (arcOf t).mfmt = (scaleCleared u v d.toNat fun e => (f e).map (·.1)) ∧ t.mem = u.mem ∧
        Calm { u with pkg := w.pkg } t ∧ OnlySeqs u t (1 + g.toNat)

/-- R160-R166: the vector stores of elements of whole bytes to near targets: every byte of an element that no later element
covers holds what the element's value converts to, every byte outside all elements, every register and every mask is kept.
Of VSTX elements that reach one place, one is left. A packed store completes when its bytes can be written in turn. The
order of the elements is a free value where R166 leaves it open (log entry 3). -/
def Obligations.VectorStores : Prop :=
  ∀ (s : State) (d b x : BitVec 5) (m : BitVec 2) (mp g r : BitVec 1),
    let stores := fun (i : Instr) (vs : List (BitVec 5)) (packed free : Bool) (place : VEnv → Nat → ElemPlace) =>
      VecCourse s i (badMem (arcOf s) d packed || badGroups (arcOf s) vs)
        (∀ u v, VecReady s (d :: scaleReg (arcOf s)) vs u v →
          let es := actives v.a m mp
          let val := fun (e : Nat) => toMem v.a e (elemN v.a d.toNat e)
          let n := mWidth v.a / 8
          let ran := fun (t : State) => exec i s = .next t ∧ VecRan u t v (orFlags (es.map fun e => (val e).2)) ∧
            SameRegs u t ∧ SameSide u t ∧ (arcOf t).mfmt = (arcOf u).mfmt
          (∀ q, MemoriesWf u → 8 ≤ mWidth v.a →
            (∀ e ∈ es, LaneStores u (1 + g.toNat) n (place v e).addr (q e)) → Steady u es n (fun e => (place v e).addr) q →
            ∃ t, ran t ∧ OnlyStores u t es n q ∧
              (free = false → ∀ e ∈ es, ∀ k < n,
                (∀ f ∈ es, e < f → Apart (clusterIdx u.cur) (q f) n (clusterIdx u.cur) (byteAt (q e) k)) →
                targetRead t (clusterIdx u.cur) (byteAt (q e) k) 1 = (val e).1 / 2 ^ (8 * k) % 256) ∧
              (free = true → ∀ e ∈ es, (∀ f ∈ es, q f ≠ q e → ∀ k < n,
                  Apart (clusterIdx u.cur) (q f) n (clusterIdx u.cur) (byteAt (q e) k)) →
                ∃ f ∈ es, q f = q e ∧ ∀ k < n,
                  targetRead t (clusterIdx u.cur) (byteAt (q e) k) 1 = (val f).1 / 2 ^ (8 * k) % 256)) ∧
          (∀ w got, free = false → mWidth v.a < 8 →
            memLoop (fun t e => writeElemAt t u.cur (1 + g.toNat) (mWidth v.a) (place v e) (val e).1) es u = (w, got, .done) →
            ∃ t, ran t ∧ t.mem = w.mem ∧ t.clusters = w.clusters))
    stores (.vst d b m mp g r) [] true false (fun v => contiguous v.a (operand1 s b) r) ∧
    stores (.vsts d b x m mp g r) [] false false (fun v => strided v.a (operand1 s b) (operand2 s x) r) ∧
    stores (.vstxo d b x m mp g) [x] false false (fun v => indexed v (operand1 s b) x) ∧
    stores (.vstx d b x m mp g) [x] false true (fun v => indexed v (operand1 s b) x)

/-- R100, R163, R165, R227-R229: an element of a vector load or store that faults while no earlier one is active traps at the
instruction: the address goes to TVAL, the element to LANE, the instruction is held, and no register element and no byte of
memory has changed.

R33, R161, R165, R228: an element of a vector load or store that faults after earlier active elements leaves those complete,
loaded or stored, with their flags, and nothing at or beyond it changes: LANE holds its number, and the instruction is held.
The earlier elements lie at near places; a store's translation of the failing address does not rest on what they change. A
VLDFF traps so for the causes that do not end its strip. Of VSTX elements that reach one place, one is left. That
VRESUME.HELD is set is R229's (log entry 47). Which address TVAL holds for a narrow store, and LANE for a header, are the
model's readings (log entries 81, 84). -/
def Obligations.VectorAccessFaults : Prop :=
  (∀ (s : State) (d b x : BitVec 5) (m : BitVec 2) (mp g r : BitVec 1) (u w : State) (v : VEnv) (e c : Nat) (es : List Nat),
     heldOn (strandOf s s.cur) = false → stNest (strandOf u s.cur) = false → actives v.a m mp = e :: es →
     let faults := fun (i : Instr) (o : Vop) (p : ElemPlace) =>
       ∃ t : State, exec i s = .next t ∧ HeldTrap u t o c (faultAddr c p.addr) e ∧
         t.mem = u.mem ∧ t.clusters = u.clusters ∧ ∀ j, j ≠ s.cur → strandOf t j = strandOf u j
     let vop := fun (i : Instr) (p q : BitVec 5) => (⟨(encode i).getD 0, operand1 s p, operand2 s q⟩ : Vop)
     let load := fun (i : Instr) (p q : BitVec 5) (vs : List (BitVec 5)) (packed : Bool) (place : VEnv → Nat → ElemPlace) =>
       (badMem (arcOf s) d packed || badGroups (arcOf s) vs) = false → VecReady s (d :: scaleReg (arcOf s)) vs u v →
       readElemAt u u.cur (1 + g.toNat) (mWidth v.a) (place v e) = .fault c w → faults i (vop i p q) (place v e)
     let store := fun (i : Instr) (p q : BitVec 5) (vs : List (BitVec 5)) (packed : Bool) (place : VEnv → Nat → ElemPlace) =>
       (badMem (arcOf s) d packed || badGroups (arcOf s) vs) = false → VecReady s (d :: scaleReg (arcOf s)) vs u v →
       8 ≤ mWidth v.a →
       writeElemAt u u.cur (1 + g.toNat) (mWidth v.a) (place v e) (toMem v.a e (elemN v.a d.toNat e)).1 = .fault c w →
       faults i (vop i p q) (place v e)
     load (.vld d b m mp g r) b 0 [] true (fun v => contiguous v.a (operand1 s b) r) ∧
     load (.vlds d b x m mp g r) b x [] false (fun v => strided v.a (operand1 s b) (operand2 s x) r) ∧
     load (.vldx d b x m mp g) b 0 [x] false (fun v => indexed v (operand1 s b) x) ∧
     ((arcOf u).part = none → load (.vldff d b m mp g r) b 0 [] true (fun v => contiguous v.a (operand1 s b) r)) ∧
     store (.vst d b m mp g r) b 0 [] true (fun v => contiguous v.a (operand1 s b) r) ∧
     store (.vsts d b x m mp g r) b x [] false (fun v => strided v.a (operand1 s b) (operand2 s x) r) ∧
     store (.vstxo d b x m mp g) b 0 [x] false (fun v => indexed v (operand1 s b) x) ∧
     store (.vstx d b x m mp g) b 0 [x] false (fun v => indexed v (operand1 s b) x)) ∧
  (∀ (s : State) (d b x : BitVec 5) (m : BitVec 2) (mp g r : BitVec 1) (u w : State) (v : VEnv) (e c : Nat) (es rest : List Nat),
     heldOn (strandOf s s.cur) = false → stNest (strandOf u s.cur) = false → actives v.a m mp = es ++ e :: rest →
     let vop := fun (i : Instr) (p q : BitVec 5) => (⟨(encode i).getD 0, operand1 s p, operand2 s q⟩ : Vop)
     let faults := fun (t : State) (o : Vop) (p : ElemPlace) (fl : Word) =>
       HeldEntry u t o c (faultAddr c p.addr) e ∧ (strandOf t u.cur).sflags = (strandOf u u.cur).sflags ||| fl
     let load := fun (i : Instr) (p q : BitVec 5) (vs : List (BitVec 5)) (packed : Bool) (place : VEnv → Nat → ElemPlace) =>
       ∀ n : Nat → Nat, (badMem (arcOf s) d packed || badGroups (arcOf s) vs) = false → VecReady s (d :: scaleReg (arcOf s)) vs u v →
       (∀ f ∈ es, ∃ w, readElemAt u u.cur (1 + g.toNat) (mWidth v.a) (place v f) = .ok (n f) w) →
       (∀ f ∈ es, ∀ c ∈ elemChunks (mWidth v.a) (place v f),
         ∃ q, translate u (agentOf u u.cur) false c.1 = .ok q ∧ Near u q) →
       readElemAt u u.cur (1 + g.toNat) (mWidth v.a) (place v e) = .fault c w →
       ∃ t : State, exec i s = .next t ∧ faults t (vop i p q) (place v e) (orFlags (es.map fun f => (fromMem v.a f (n f)).2)) ∧
         (Wrote u t v d.toNat fun f => if f ∈ es then some (fromMem v.a f (n f)).1 else none) ∧
         t.mem.dram = u.mem.dram ∧ t.mem.l2 = u.mem.l2 ∧ t.clusters = u.clusters
     let store := fun (i : Instr) (p q' : BitVec 5) (vs : List (BitVec 5)) (packed free : Bool) (place : VEnv → Nat → ElemPlace) =>
       ∀ (q : Nat → Target) (n : Nat), (badMem (arcOf s) d packed || badGroups (arcOf s) vs) = false →
       VecReady s (d :: scaleReg (arcOf s)) vs u v → MemoriesWf u → n = mWidth v.a / 8 → 8 ≤ mWidth v.a →
       (∀ f ∈ es, LaneStores u (1 + g.toNat) n (place v f).addr (q f)) → Steady u es n (fun f => (place v f).addr) q →
       (place v e).addr.toNat % n = 0 → SteadyFault u es n q (place v e).addr c →
       ∃ t : State, exec i s = .next t ∧
         faults t (vop i p q') (place v e) (orFlags (es.map fun f => (toMem v.a f (elemN v.a d.toNat f)).2)) ∧
         SameRegs u t ∧ OnlyStores u t es n q ∧
         (free = false → ∀ f ∈ es, ∀ k < n,
           (∀ h ∈ es, f < h → Apart (clusterIdx u.cur) (q h) n (clusterIdx u.cur) (byteAt (q f) k)) →
           targetRead t (clusterIdx u.cur) (byteAt (q f) k) 1 = (toMem v.a f (elemN v.a d.toNat f)).1 / 2 ^ (8 * k) % 256) ∧
         (free = true → ∀ f ∈ es,
           (∀ h ∈ es, q h ≠ q f → ∀ k < n, Apart (clusterIdx u.cur) (q h) n (clusterIdx u.cur) (byteAt (q f) k)) →
           ∃ h ∈ es, q h = q f ∧ ∀ k < n,
             targetRead t (clusterIdx u.cur) (byteAt (q f) k) 1 = (toMem v.a h (elemN v.a d.toNat h)).1 / 2 ^ (8 * k) % 256)
     load (.vld d b m mp g r) b 0 [] true (fun v => contiguous v.a (operand1 s b) r) ∧
     load (.vlds d b x m mp g r) b x [] false (fun v => strided v.a (operand1 s b) (operand2 s x) r) ∧
     load (.vldx d b x m mp g) b 0 [x] false (fun v => indexed v (operand1 s b) x) ∧
     ((arcOf u).part = none → c ∉ [cPAGE_FAULT, cACCESS, cMEM_UE] →
       load (.vldff d b m mp g r) b 0 [] true (fun v => contiguous v.a (operand1 s b) r)) ∧
     store (.vst d b m mp g r) b 0 [] true false (fun v => contiguous v.a (operand1 s b) r) ∧
     store (.vsts d b x m mp g r) b x [] false false (fun v => strided v.a (operand1 s b) (operand2 s x) r) ∧
     store (.vstxo d b x m mp g) b 0 [x] false false (fun v => indexed v (operand1 s b) x) ∧
     store (.vstx d b x m mp g) b 0 [x] false true (fun v => indexed v (operand1 s b) x))

/-- R167: VAPPEND with its header and kept elements on near targets: TAIL rises by the number of active elements, its old value
goes through the result queue to sT, each element that fits stands at BASE + Sm x (TAIL + place), those beyond CAP are
dropped, and no other byte changes.

R213, R215, R218-R222: the vector atomics complete when the scalar operation, link or conditional store completes on every
active lane in turn, and leave what these leave; with one active lane a VAMO leaves in the word what the scalar operation
does and gives its old value to the lane, VLDL reads the word and links the lane to its line, and VSTC stores and writes a 1
to its mask exactly when that link holds. Nothing else changes but the stream's sequence numbers and, after a VLDL, the
count that defers a save (R230).

R223: VWAITM on near words: when every active lane's word satisfies its condition against sC it goes on and no watch of the
strand is left; otherwise the strand parks with a watch on the line of each lane that does not. LANE at a fault of VAPPEND's
header is the model's reading (log entry 84). -/
def Obligations.VectorAtomicsAndWaits : Prop :=
  (∀ (s u : State) (v : VEnv) (p h t : BitVec 5) (m : BitVec 2) (mp g : BitVec 1) (q : Nat → Target) (n old cap base : Nat) (hd : Word),
     VecCourse s (.vappend p h t m mp g) (badMem (arcOf s) p false || vG (arcOf s) != 1) <|
       let es := actives v.a m mp
       let addr := fun (e : Nat) => BitVec.ofNat 64 (base + n * (old + es.idxOf e))
       let val := fun (e : Nat) => toMem v.a e (elemN v.a p.toNat e)
       let kept := es.filter fun e => decide (old + es.idxOf e < cap)
       let cl := clusterIdx u.cur
       VecReady s (p :: scaleReg (arcOf s)) [] u v → MemoriesWf u → n = mWidth v.a / 8 → 8 ≤ mWidth v.a →
       (arcOf u).part = none → hd = operand1 s h → hd.toNat % 8 = 0 → inAtrium hd = false → u.pkg.bringUp = false →
       (∀ k < 3, ∃ x, translate u (agentOf u u.cur) (k == 0) (hd + BitVec.ofNat 64 (8 * k)) = .ok x ∧
         Near u x ∧ targetBad u cl x 8 = false ∧ unreachableTarget u (sidOf u.cur (1 + g.toNat)) x = false ∧
         streamHeld u u.cur (1 + g.toNat) [homeDie u x] = false ∧
         targetRead u cl x 8 = (if k = 0 then old else if k = 1 then cap else base)) →
       ∀ z, translate u (agentOf u u.cur) true hd = .ok z →
       (∀ e ∈ kept, LaneStores u (1 + g.toNat) n (addr e) (q e) ∧ ∀ k < 8, Apart cl (q e) n cl (byteAt z k)) →
       (∀ w : State, SameMaps u w →
         (∀ c r, Apart cl z 8 c r → (∀ e ∈ kept, Apart cl (q e) n c r) → targetRead w c r 1 = targetRead u c r 1) →
         ∀ e ∈ kept, translate w (agentOf u u.cur) true (addr e) = .ok (q e)) →
       ∃ w, exec (.vappend p h t m mp g) s = .next w ∧ VecRan u w v (orFlags (kept.map fun e => (val e).2)) ∧ SameRegs u w ∧
         (arcOf w).results = (arcOf u).results ++ [(t, BitVec.ofNat 64 old)] ∧ (arcOf w).masks = (arcOf u).masks ∧
         (arcOf w).codebooks = (arcOf u).codebooks ∧ (arcOf w).mfmt = (arcOf u).mfmt ∧
         Calm { u with clusters := w.clusters } w ∧ OnlySeqs u w (1 + g.toNat) ∧ w.mem.host = u.mem.host ∧
         targetRead w cl z 8 = (old + es.length) % 2 ^ 64 ∧
         (∀ e ∈ kept, ∀ k < n, (∀ f ∈ kept, e < f → Apart cl (q f) n cl (byteAt (q e) k)) →
           targetRead w cl (byteAt (q e) k) 1 = (val e).1 / 2 ^ (8 * k) % 256) ∧
         ∀ c r, Apart cl z 8 c r → (∀ e ∈ kept, Apart cl (q e) n c r) → targetRead w c r 1 = targetRead u c r 1) ∧
  (∀ (s : State) (d b i : BitVec 5) (m k : BitVec 2) (mp g : BitVec 1) (o : BitVec 4),
     let rdy := VecReady s
     let word := fun (v : VEnv) (e : Nat) => operand1 s b + BitVec.ofNat 64 (vWe v.a / 8 * srcIndex v i e)
     let bad := vG (arcOf s) != 1 || !mRaw (arcOf s) || !(vType (arcOf s) == 0x21 || vType (arcOf s) == 0x22) ||
       !(vW (arcOf s) == 32 || vW (arcOf s) == 64)
     let cas := o.toNat = 9
     let wrote := fun (t u : State) (v : VEnv) (f : Nat → Option Word) =>
       Wrote u t v d.toNat f ∧ (arcOf t).mfmt = scaleCleared u v d.toNat f
     let taken := fun (t u : State) (v : VEnv) (got : List (Nat × Nat)) =>
       wrote t u v fun e => (tblFind got e).map fun x => BitVec.ofNat 64 (x % 2 ^ vWe v.a)
     let onlyMask := fun (t u : State) => SameRegs u t ∧ (arcOf t).codebooks = (arcOf u).codebooks ∧
       (arcOf t).results = (arcOf u).results ∧ (arcOf t).mfmt = (arcOf u).mfmt ∧
       ∀ n, n ≠ k.toNat → listGet [] (arcOf t).masks n = listGet [] (arcOf u).masks n
     let amo := fun (i' : Instr) (release : Bool) =>
       VecCourse s i' (bad || decide (10 ≤ o.toNat) || (o == 9 && (d.toNat % 2 == 1 || d == 30)))
         (∀ u v w got z, rdy (if cas then [d, d ||| 1] else [d]) [i] u v → z = vWe v.a / 8 →
           (release = true → unperformed u u.cur = false) →
           memLoop (fun t e => laneWord t u.cur true (word v e) z fun tg =>
             rmw t u.cur (1 + g.toNat) o.toNat tg z (elemN v.a (if cas then d ||| 1 else d).toNat e) (elemN v.a d.toNat e))
             (actives v.a m mp) u = (w, got, .done) →
           ∃ t : State, exec i' s = .next t ∧ VecRan u t v 0 ∧ SameSide u t ∧ Quiet w t ∧ taken t u v got) ∧
       VecCourse s i' (bad || decide (10 ≤ o.toNat) || (o == 9 && (d.toNat % 2 == 1 || d == 30)))
         (∀ u v e q z old, rdy (if cas then [d, d ||| 1] else [d]) [i] u v → z = vWe v.a / 8 → MemoriesWf u →
           (release = true → unperformed u u.cur = false) → actives v.a m mp = [e] → (word v e).toNat % z = 0 →
           inAtrium (word v e) = false → translate u (agentOf u u.cur) true (word v e) = .ok q → Near u q →
           streamHeld u u.cur (1 + g.toNat) [homeDie u q] = false → unreachableTarget u (sidOf u.cur (1 + g.toNat)) q = false →
           targetBad u (clusterIdx u.cur) q z = false → u.pkg.bringUp = false → old = targetRead u (clusterIdx u.cur) q z →
           let x := elemN v.a d.toNat e
           let n := elemN v.a (if cas then d ||| 1 else d).toNat e
           let less := fun (a b : Nat) => signed (8 * z) a < signed (8 * z) b
           ∃ t new, exec i' s = .next t ∧ VecRan u t v 0 ∧ SameSide u t ∧ Calm u t ∧ OnlySeqs u t (1 + g.toNat) ∧
             t.mem.host = u.mem.host ∧ Stored u t q z new ∧
             (o.toNat = 0 → new = (old + x) % 2 ^ (8 * z)) ∧ (o.toNat = 1 → new = if less x old then x else old) ∧
             (o.toNat = 2 → new = if less old x then x else old) ∧ (o.toNat = 3 → new = min old x) ∧
             (o.toNat = 4 → new = max old x) ∧ (o.toNat = 5 → new = old &&& x) ∧ (o.toNat = 6 → new = old ||| x) ∧
             (o.toNat = 7 → new = old ^^^ x) ∧ (o.toNat = 8 → new = x) ∧ (cas → new = if old = x then n else old) ∧
             wrote t u v fun f => if f = e then some (BitVec.ofNat 64 old) else none)
     amo (.vamo d b i m mp g o) false ∧ amo (.vamoAcq d b i m mp g o) false ∧ amo (.vamoRel d b i m mp g o) true ∧
     amo (.vamoAr d b i m mp g o) true ∧
     VecCourse s (.vldl d b i m mp g) bad (∀ u v w got z, rdy [d] [i] u v → z = vWe v.a / 8 →
       memLoop (fun t e => laneWord t u.cur false (word v e) z fun tg =>
           linkedRead t u.cur (1 + g.toNat) (some e) (lowestLane v.a m mp == some e) tg z) (actives v.a m mp)
         (if (actives v.a m mp).head? = lowestLane v.a m mp then renewLowest u u.cur else u) = (w, got, .done) →
       ∃ t : State, exec (.vldl d b i m mp g) s = .next t ∧ VecRan w t v 0 ∧ SameSide u t ∧ Quiet w t ∧ taken t u v got) ∧
     VecCourse s (.vldl d b i m mp g) bad (∀ u v e q z, rdy [d] [i] u v → z = vWe v.a / 8 → actives v.a m mp = [e] →
       (word v e).toNat % z = 0 → inAtrium (word v e) = false →
       translate u (agentOf u u.cur) false (word v e) = .ok q → Near u q → targetBad u (clusterIdx u.cur) q z = false →
       streamHeld u u.cur (1 + g.toNat) [homeDie u q] = false → unreachableTarget u (sidOf u.cur (1 + g.toNat)) q = false → u.pkg.bringUp = false →
       ∃ t x, exec (.vldl d b i m mp g) s = .next t ∧
         VecRan (modStrand u u.cur fun y => { y with linkDeferOver := false, linkCount := 0 }) t v 0 ∧ SameSide u t ∧ Calm u t ∧
         OnlySeqs u t (1 + g.toNat) ∧ t.mem = { u.mem with tags := t.mem.tags } ∧
         (wrote t u v fun f => if f = e then some (BitVec.ofNat 64 (targetRead u (clusterIdx u.cur) q z)) else none) ∧
         linkOf t u.cur (some e) = some x ∧ targetLine q = some x.line) ∧
     VecCourse s (.vstc d b i m mp g k) bad (∀ u v w got z, rdy [d] [i] u v → z = vWe v.a / 8 →
       memLoop (fun t e => laneWord t u.cur true (word v e) z fun tg =>
         linkedWrite t u.cur (1 + g.toNat) (some e) tg z (elemN v.a d.toNat e)) (actives v.a m mp) (linksStored u u.cur) =
           (w, got, .done) →
       ∃ t : State, exec (.vstc d b i m mp g k) s = .next t ∧ VecRan w t v 0 ∧ Quiet w t ∧ onlyMask t u ∧
         ∀ l, maskBit (arcOf t) k.toNat l = (tblFind got l).getD (maskBit (arcOf u) k.toNat l)) ∧
     VecCourse s (.vstc d b i m mp g k) bad (∀ u v e q z, rdy [d] [i] u v → z = vWe v.a / 8 → MemoriesWf u →
       actives v.a m mp = [e] → (word v e).toNat % z = 0 → inAtrium (word v e) = false →
       translate u (agentOf u u.cur) true (word v e) = .ok q → Near u q →
       streamHeld u u.cur (1 + g.toNat) [homeDie u q] = false → unreachableTarget u (sidOf u.cur (1 + g.toNat)) q = false → u.pkg.bringUp = false →
       let holds := (linkHolds u u.cur (some e) q).isSome
       ∃ t : State, exec (.vstc d b i m mp g k) s = .next t ∧ VecRan u t v 0 ∧ Calm u t ∧ OnlySeqs u t (1 + g.toNat) ∧
         onlyMask t u ∧ t.mem.host = u.mem.host ∧ linkOf t u.cur (some e) = none ∧
         (∀ l, maskBit (arcOf t) k.toNat l = if l = e then holds else maskBit (arcOf u) k.toNat l) ∧
         (holds = true → Stored u t q z (elemN v.a d.toNat e)) ∧
         (holds = false → t.mem = { u.mem with tags := t.mem.tags } ∧ t.net = u.net))) ∧
  (∀ (s u : State) (v : VEnv) (c b i : BitVec 5) (m : BitVec 2) (mp g z : BitVec 1) (o : BitVec 2) (q : Nat → Target) (n : Nat),
     VecCourse s (.vwaitm c b i m mp g z o) (vG (arcOf s) != 1) <|
       n = (if z = 1 then 8 else 4) → VecReady s [] [i] u v → u.pkg.bringUp = false →
       (∀ e ∈ actives v.a m mp, let a := operand2 s b + BitVec.ofNat 64 (n * srcIndex v i e)
         a.toNat % n = 0 ∧ inAtrium a = false ∧ translate u (agentOf u u.cur) false a = .ok (q e) ∧ Near u (q e) ∧
         targetBad u (clusterIdx u.cur) (q e) n = false ∧ unreachableTarget u (sidOf u.cur (1 + g.toNat)) (q e) = false ∧
         streamHeld u u.cur (1 + g.toNat) [homeDie u (q e)] = false) →
       let x := (operand1 s c).toNat % 2 ^ (8 * n)
       let word := fun (e : Nat) => targetRead u (clusterIdx u.cur) (q e) n
       let good := fun (e : Nat) => (o = 0 → word e = x) ∧ (o = 1 → word e ≠ x) ∧
         (o = 2 → signed (8 * n) x ≤ signed (8 * n) (word e)) ∧ (o = 3 → signed (8 * n) (word e) < signed (8 * n) x)
       ((∀ e ∈ actives v.a m mp, good e) → ∃ t : State, exec (.vwaitm c b i m mp g z o) s = .next t ∧ VecRan u t v 0 ∧ SameRegs u t ∧
         SameSide u t ∧ (arcOf t).mfmt = (arcOf u).mfmt ∧ Calm u t ∧ OnlySeqs u t (1 + g.toNat) ∧
         t.mem = { u.mem with tags := t.mem.tags } ∧ ∀ y ∈ t.mem.tags, y.watch = true → y.strand ≠ some u.cur) ∧
       ((∃ e ∈ actives v.a m mp, ¬ good e) → ∃ t : State, exec (.vwaitm c b i m mp g z o) s = .next t ∧
         strandOf t u.cur = { strandOf u u.cur with slot := .park, blocked := some (.vwaitm c b i m mp g z o) } ∧
         (∀ j, j ≠ u.cur → strandOf t j = strandOf u j) ∧ t.cores = u.cores ∧ t.dies = u.dies ∧ Calm u t ∧
         OnlySeqs u t (1 + g.toNat) ∧ t.mem = { u.mem with tags := t.mem.tags } ∧
         (u.mem.tags = [] → (actives v.a m mp).length ≤ 16384 → ∀ e ∈ actives v.a m mp, ¬ good e →
           ∃ y ∈ t.mem.tags, y.watch = true ∧ y.strand = some u.cur ∧ targetLine (q e) = some y.line)))

/-! ## Configuration, chaining and bays -/

/-- R106, R108, R115, R127, R136-R138, R274: VSETCFG checks and takes VCFG, changing the slot class with it, and returns VLMAX;
VBEGIN begins a strip and returns VL; VNEXT takes the strip's elements off, returns the new VL and branches while elements
remain. The vector instruction after VBEGIN and VNEXT heads a strip. Without bays they trap with VDEAD, and LANE is 0. Which
slot pairs the registers take in a class change is the model's choice (log entry 58).

R203: the oldest result on its way reaches its scalar register, and nothing else changes. What becomes of a parity mismatch
of a register that moves is the model's choice (log entry 64). -/
def Obligations.VectorConfiguration : Prop :=
  (∀ (s : State) (a b : BitVec 5) (o : BitVec 16) (v p : Word), reg s s.cur b = v →
     p = (strandOf s s.cur).pc.signExtend 64 + 4 * o.signExtend 64 →
     let dead := fun (i : Instr) => ∀ w, encode i = some w →
       Completes s i fun t => trapped cVDEAD (w.zeroExtend 64) (pcOf s) { t with arc := { t.arc with lane := 0 } }
     let up := stNoBays (strandOf s s.cur) = false
     let most := fun (t : Arcade) => lanesOf t * vG t
     (vcfgOk v = false → ∀ w, encode (.vsetcfg a b) = some w → TrapsHere s (.vsetcfg a b) cILLEGAL (w.zeroExtend 64)) ∧
     (vcfgOk v = true → ¬ up → dead (.vsetcfg a b)) ∧
     (vcfgOk v = true → up → twoSlot (fld v 0 6) (fld v 7 7) = vTwo (arcOf s) → Completes s (.vsetcfg a b) fun t =>
       let n := lanesOf t.arc * 2 ^ fld v 14 2
       past (putReg { t with arc := { t.arc with vcfg := v, vl := min t.arc.strip.toNat n } } a (BitVec.ofNat 64 n))) ∧
     (vcfgOk v = true → up → (coreOf s (coreIdx s.cur)).parity = [] → ClassChange s v (.vsetcfg a b) fun t => past (putReg t a (BitVec.ofNat 64 (most t.arc)))) ∧
     (¬ up → dead (.vbegin a b) ∧ dead (.vnext a o)) ∧
     (up → Completes s (.vbegin a b) fun t =>
       let n := min v.toNat (most t.arc)
       past (putReg { t with stripHead := true, arc := { t.arc with strip := v, sidx := 0, vl := n } } a (BitVec.ofNat 64 n))) ∧
     (up → (arcOf s).strip = 0 → Completes s (.vnext a o) fun t => past (putReg { t with stripHead := true } a 0)) ∧
     (up → (arcOf s).strip ≠ 0 →
       let left := (arcOf s).strip - BitVec.ofNat 64 (arcOf s).vl
       let n := min left.toNat (most (arcOf s))
       let on := fun (t : Strand) => putReg { t with stripHead := true, arc := { t.arc with
         strip := left, sidx := t.arc.sidx + BitVec.ofNat 64 t.arc.vl, vl := n } } a (BitVec.ofNat 64 n)
       (left = 0 → Completes s (.vnext a o) fun t => past (on t)) ∧
       (left ≠ 0 → canonical p = true → Completes s (.vnext a o) fun t => goneTo (p.setWidth 48) (on t)) ∧
       (left ≠ 0 → canonical p = false → TrapsHere s (.vnext a o) cPAGE_FAULT p))) ∧
  (∀ (s : State) (id : Nat) (r : BitVec 5) (v : Word) (q : List (BitVec 5 × Word)), (strandOf s id).arc.results = (r, v) :: q →
     ∃ t : State, exec (.resultQueueReturn id) s = .next t ∧ (∀ j, j ≠ id → strandOf t j = strandOf s j) ∧
       strandOf t id = putReg { (strandOf s id) with arc := { (strandOf s id).arc with results := q } } r v ∧
       t.mem = s.mem ∧ t.cores = s.cores ∧ t.clusters = s.clusters ∧ t.dies = s.dies ∧ t.pkg = s.pkg ∧ t.net = s.net)

/-- R63, R183, R201, R255-R259: VSEND puts the elements below VL, whatever the masks, behind the messages of its port, or waits
in the VIQ for space in it; a message longer than the buffer enters an empty one that a consumer waits at (log entry 97). A
VSEND that reads the chain waits in the VIQ for its message, its request behind those at the port. VCHAIN arms the chain
source, and a message that the strand has taken and not used goes back to its port. PortSpaceFree completes a waiting VSEND
once there is space; a message that arrives leaves its port for the consumer whose request was first. -/
def Obligations.Chaining : Prop :=
  ∀ (s : State) (r : BitVec 5) (p : BitVec 1) (c : BitVec 9) (id : Nat),
    let used := fun (u : State) => (((listGet [] (coreOf u (coreIdx u.cur)).ports p.toNat).map List.length).sum)
    let port := fun (u : State) (n : Nat) => listGet [] (coreOf u (coreIdx u.cur)).ports n
    VecCourse s (.vsend r p) (badGroup (arcOf s) r) (∀ u v, VecReady s [] [r] u v →
      let msg := (List.range v.a.vl).map (srcW v r)
      let sends := ∃ t : State, exec (.vsend r p) s = .next t ∧ VecRan u t v 0 ∧ SameRegs u t ∧ SameSide u t ∧
        t.mem = u.mem ∧ t.clusters = u.clusters ∧ t.net = u.net ∧ t.pkg = u.pkg ∧
        port t p.toNat = port u p.toNat ++ [msg] ∧ ∀ k, k ≠ p.toNat → port t k = port u k
      let waits := ∀ w, encode (.vsend r p) = some w → ∃ t : State, exec (.vsend r p) s = .next t ∧ OnlyStrand u t ∧
        strandOf t u.cur = waitsOn (.portSpace r p) w 0 0 (strandOf u u.cur)
      (used u + v.a.vl ≤ 8192 → sends) ∧ (8192 < used u + v.a.vl → v.a.vl ≤ 8192 → waits) ∧
      (8192 < v.a.vl → used u = 0 → portQueue u (coreIdx u.cur) p.toNat ≠ [] → sends) ∧
      (8192 < v.a.vl → (0 < used u ∨ portQueue u (coreIdx u.cur) p.toNat = []) → waits)) ∧
    (let k := chainCore (arcOf s)
     let n := chainPort (arcOf s)
     stNoBays (strandOf s s.cur) = false → heldOn (strandOf s s.cur) = false → badGroup (arcOf s) r = false →
      behind (strandOf s s.cur) = false → ((arcOf s).lane = 0 ∨ (arcOf s).lane < (arcOf s).vl) → chained (arcOf s) r = true →
      (arcOf s).chainIn = none → (coreOf s k).enabled = true →
      (listGet [] (coreOf s k).ports n = [] ∨ chainContended s s.cur (arcOf s) = true) →
      ∀ w, encode (.vsend r p) = some w → ∃ t : State, exec (.vsend r p) s = .next t ∧
        strandOf t s.cur = waitsOn .chain w 0 0 (strandOf s s.cur) ∧ (∀ j, j ≠ s.cur → strandOf t j = strandOf s j) ∧
        portQueue t k n = (if s.cur ∈ portQueue s k n then portQueue s k n else portQueue s k n ++ [s.cur]) ∧
        (∀ j, (coreOf t j).ports = (coreOf s j).ports) ∧ t.mem = s.mem ∧ t.clusters = s.clusters) ∧
    ((coreOf s c.toNat).enabled = true → VecCourse s (.vchain c p) (decide (c.toNat / 128 ≠ dieIdx s.cur)) (
      stNoBays (strandOf s s.cur) = false → behind (strandOf s s.cur) = false →
      ((arcOf s).lane = 0 ∨ (arcOf s).lane < (arcOf s).vl) →
      let armed := fun (t : Strand) => stepped 0 { t with arc := { t.arc with
        chainIn := none, chainsrc := BitVec.ofNat 64 (0x800 + p.toNat * 0x200 + c.toNat) } }
      ((arcOf s).chainIn = none → Completes s (.vchain c p) armed) ∧
      (∀ k n m, (arcOf s).chainIn = some (k, n, m) → ∃ t : State, exec (.vchain c p) s = .next t ∧ t.mem = s.mem ∧
        strandOf t s.cur = armed (strandOf s s.cur) ∧ (∀ j, j ≠ s.cur → strandOf t j = strandOf s j) ∧
        listGet [] (coreOf t k).ports n = m :: listGet [] (coreOf s k).ports n))) ∧
    ((c.toNat / 128 ≠ dieIdx s.cur ∨ heldOn (strandOf s s.cur) = true) → ((arcOf s).viq = [] ∨ behind (strandOf s s.cur) = true) →
      ∀ w, encode (.vchain c p) = some w → TrapsHere s (.vchain c p) cILLEGAL (w.zeroExtend 64)) ∧
    (c.toNat / 128 = dieIdx s.cur → (coreOf s c.toNat).enabled = false → heldOn (strandOf s s.cur) = false →
      ((arcOf s).viq = [] ∨ behind (strandOf s s.cur) = true) → TrapsHere s (.vchain c p) cCOORD (BitVec.ofNat 64 c.toNat)) ∧
    ((strandOf s id).arc.waits = some (.portSpace r p) → (strandOf s id).arc.viq ≠ [] → heldOn (strandOf s id) = false →
      badGroup (strandOf s id).arc r = false → ∀ u v, VecReady (headState s id) [] [r] u v → used u + v.a.vl ≤ 8192 →
      ∃ t : State, exec (.portSpaceFree id) s = .next (modStrand { t with cur := s.cur } id (headDone (strandOf s id))) ∧
        VecRan u t v 0 ∧ SameRegs u t ∧ SameSide u t ∧ t.mem = u.mem ∧
        port t p.toNat = port u p.toNat ++ [(List.range v.a.vl).map (srcW v r)]) ∧
    ((∀ r p, (strandOf s id).arc.waits ≠ some (.portSpace r p)) → exec (.portSpaceFree id) s = .next s) ∧
    (∀ m q, (strandOf s id).arc.waits = some .chain → (strandOf s id).arc.chainIn = none →
      chainContended s id (strandOf s id).arc = false →
      let k := chainCore (strandOf s id).arc
      let n := chainPort (strandOf s id).arc
      listGet [] (coreOf s k).ports n = m :: q →
      ∃ t : State, exec (.chainMessageArrival id) s = .next t ∧ (∀ j, j ≠ id → strandOf t j = strandOf s j) ∧ t.mem = s.mem ∧
        strandOf t id = { (strandOf s id) with arc := { (strandOf s id).arc with chainIn := some (k, n, m) } } ∧
        listGet [] (coreOf t k).ports n = q ∧ id ∉ portQueue t k n)

/-- R125, R127-R130: VACQ of a count that can be served, with no other request waiting, grants the lowest bays and clears what
they hold; one that cannot be served waits behind the others, and BayGrant serves the oldest. VREL gives the bays up. -/
def Obligations.BaysAcquiredAndReleased : Prop :=
  ∀ (s : State) (k : BitVec 3) (c : Nat),
    let t0 := strandOf s s.cur
    let granted := fun (id : Nat) (bs : List Nat) (t : State) =>
      (strandOf t id).pc = (strandOf s id).pc + 4 ∧ (strandOf t id).blocked = none ∧
      (strandOf t id).arc.bays = bayMask bs ∧ stNoBays (strandOf t id) = false ∧ (strandOf t id).regs = (strandOf s id).regs ∧
      (strandOf t id).sflags = (strandOf s id).sflags ∧
      (∀ r l, listGet 0 (listGet [] (strandOf t id).arc.regs r) l = 0) ∧ (∀ m l, maskBit (strandOf t id).arc m l = false) ∧
      (∀ m, listGet 0 (strandOf t id).arc.codebooks m = 0) ∧ (strandOf t id).arc.written = 0 ∧
      (∀ b ∈ bs, listGet none (coreOf t (coreIdx id)).bayOwner b = some (slotIdx id)) ∧
      (∀ b, b ∉ bs → listGet none (coreOf t (coreIdx id)).bayOwner b = listGet none (coreOf s (coreIdx id)).bayOwner b) ∧
      (∀ q ∈ (coreOf t (coreIdx id)).bayRequests, q.1 ≠ slotIdx id) ∧ (∀ j, j ≠ id → strandOf t j = strandOf s j) ∧
      t.mem = s.mem ∧ t.clusters = s.clusters ∧ t.dies = s.dies
    let free := grantable s (coreIdx s.cur) t0.arc.snapEnabled (vaultOn t0) t0.issuer
    ((k = 0 ∨ 4 < k.toNat ∨ stNoBays t0 = false ∨ popN 4 t0.arc.snapEnabled.toNat < k.toNat) →
      ∀ w, encode (.vacq k) = some w → TrapsHere s (.vacq k) cILLEGAL (w.zeroExtend 64)) ∧
    (k ≠ 0 → k.toNat ≤ 4 → stNoBays t0 = true → k.toNat ≤ popN 4 t0.arc.snapEnabled.toNat →
      (coreOf s (coreIdx s.cur)).bayRequests = [] →
      (k.toNat ≤ free.length → ∃ t : State, exec (.vacq k) s = .next t ∧ granted s.cur (free.take k.toNat) t) ∧
      (free.length < k.toNat → ∃ t : State, exec (.vacq k) s = .next t ∧
        strandOf t s.cur = { t0 with blocked := some (.vacq k) } ∧
        (coreOf t (coreIdx s.cur)).bayRequests = [(slotIdx s.cur, k.toNat)] ∧ t.mem = s.mem)) ∧
    (∀ sl bs, servable s c = some (sl, bs) → sl < 4 → ∃ t : State, exec (.bayGrant c) s = .next t ∧ granted (4 * c + sl) bs t) ∧
    (stNoBays t0 = true → Completes s .vrel past) ∧
    (stNoBays t0 = false → ∃ t : State, exec .vrel s = .next t ∧ stNoBays (strandOf t s.cur) = true ∧
      (strandOf t s.cur).arc.bays = 0 ∧ (strandOf t s.cur).pc = t0.pc + 4 ∧ (strandOf t s.cur).regs = t0.regs ∧
      (∀ b, listGet none (coreOf t (coreIdx s.cur)).bayOwner b ≠ some (slotIdx s.cur)) ∧
      (∀ b o, o ≠ slotIdx s.cur → (listGet none (coreOf t (coreIdx s.cur)).bayOwner b = some o ↔
        listGet none (coreOf s (coreIdx s.cur)).bayOwner b = some o)) ∧
      (∀ g ∈ t.mem.tags, g.strand ≠ some s.cur) ∧ t.mem = { s.mem with tags := t.mem.tags } ∧
      ∀ j, j ≠ s.cur → strandOf t j = strandOf s j)

/-! ## The Mezzanine -/

/-- R173-R178, R183-R188, R192-R194, R201: the Mezzanine instructions, by a strand that holds the claim or takes it now: the
configuration, the tiles and rows taken from the FIFOs' beats, the norm row of a load in distance mode, the products
accumulated exactly, each sum saturated once with ACCSAT, and the clearing of accumulators and FIFOs. One that lacks beats
is dispatched and waits for them in the VIQ, and behind an entry that waits every one enters the VIQ. A claim resets MXCFG
and ACT and keeps the accumulators and FIFOs.

R24, R25, R35, R189-R191, R198, R228: the drains: MXDRN writes the accumulators of a row to the elements of vd from 128 x
DBASE on, from LANE on and below VL, with the flags of their conversion, and advances DBASE under DINC; with LANE beyond VL
it does nothing; into a scaled TYPE it writes their block scales to v31, with the flag of a scale that is clamped, and sets
SC. A trap of MXDRS comes before the claim and leaves the Mezzanine as it was. MXDRS writes the row of 128 elements of SFMT
to the Atrium, which it alone changes, with the flags of their conversion.

R61, R127, R173, R183, R184, R189, R193, R197, R201: what a Mezzanine instruction traps on at issue; a strand waits for the
claim while another holds it; it passes to the strand that has waited longest, and beats that arrive complete the
instruction that waits for them in the VIQ, the control side staying as it was. That a wait of MXTLD, MXR or MXWAIT ends
with WATCHDOG on the array side, with VRESUME.HELD 1, is the model's reading (log entry 83). -/
def Obligations.Mezzanine : Prop :=
  (∀ (s u : State) (a b d : BitVec 5) (n : BitVec 9) (x y : BitVec 1),
     heldOn (strandOf s s.cur) = false → stNoBays (strandOf s s.cur) = false → Claims s u →
     let m := mezzOf u u.cur
     let runs := fun (i : Instr) (m' : Mezz) (fl : Word) => behind (strandOf s s.cur) = false → MezzRuns u i s m' fl
     let waits := fun (i : Instr) (z : ArrayWait) => behind (strandOf s s.cur) = false → ∀ w, encode i = some w →
       ∃ t : State, exec i s = .next t ∧ OnlyStrand u t ∧ strandOf t u.cur = waitsOn z w 0 0 (strandOf u u.cur)
     let queues := fun (i : Instr) => behind (strandOf s s.cur) = true → ∀ w, encode i = some w → ∃ t : State, exec i s = .next t ∧
       OnlyStrand u t ∧ (32 ≤ (arcOf s).viq.length → strandOf t u.cur = { (strandOf u u.cur) with blocked := some .viq }) ∧
       ((arcOf s).viq.length < 32 → ∃ r : BitVec 5, strandOf t u.cur = queued w (reg s s.cur r) 0 (strandOf u u.cur))
     let free := streamFenced u u.cur 4 = false
     (mxcfgOk (operand1 s b) = true → runs (.mxcfg b) { m with cfg := operand1 s b } 0 ∧ queues (.mxcfg b)) ∧
     runs (.mxtsel x) { m with act := x == 1 } 0 ∧ queues (.mxtsel x) ∧
     runs (.mxclr n) { m with acc := m.acc.filter fun p => p.1 != n.toNat } 0 ∧ queues (.mxclr n) ∧
     (x = 1 ∨ y = 1 → runs (.mxfclr x y) { m with fa := if y = 1 then [] else m.fa, ft := if x = 1 then [] else m.ft } 0 ∧
       queues (.mxfclr x y)) ∧
     runs .mxwait m 0 ∧ queues .mxwait ∧
     (free → m.ft.length < tileBeats m → waits (.mxtld x y) (.mxtld x y)) ∧
     (free → m.fa.length < rowBeats m → waits (.mxr n x) (.mxr n x)) ∧
     (free → tileBeats m ≤ m.ft.length → ∃ m' fl, TileLoaded u x y m' fl ∧ runs (.mxtld x y) m' fl) ∧ queues (.mxtld x y) ∧
     (free → rowBeats m ≤ m.fa.length → ∃ m' fl, RowSummed u n x m' fl ∧ runs (.mxr n x) m' fl) ∧ queues (.mxr n x) ∧
     (badDrain (arcOf s) (mxcfgSeen s s.cur) d = false → queues (.mxdrn d n)) ∧
     ((operand1 s a).toNat % 8 = 0 → (operand1 s a).toNat + 128 * sfmtBytes (mxSfmt (mxcfgSeen s s.cur)) ≤ 0x800000 →
       queues (.mxdrs a n)) ∧
     (u ≠ s → m.cfg = 0x2000000 ∧ m.act = false ∧ m.owner = some ((strandOf s s.cur).issuer, slotIdx s.cur) ∧
       m.acc = (mezzOf s s.cur).acc ∧ m.fa = (mezzOf s s.cur).fa ∧ m.ft = (mezzOf s s.cur).ft)) ∧
  (∀ (s c : State) (d a : BitVec 5) (n : BitVec 9),
     let m := mezzOf c c.cur
     let acc := fun (j : Nat) => listGet 0 (tblGet [] m.acc n.toNat) j
     (heldOn (strandOf s s.cur) = false → badDrain (arcOf s) (mxcfgSeen s s.cur) d = false →
       ∀ u v, VecReady s (if typeScaled (arcOf s) then [d, 31] else [d]) [] u v → Claims u c →
         let base := 128 * mxDbase m.cfg
         let here := fun (e : Nat) => decide (v.a.lane ≤ e) && decide (base ≤ e) && decide (e < base + 128)
         let es := (List.range v.a.vl).filter here
         let val := fun (e : Nat) => Val.num (decide (acc (e - base) < 0)) (acc (e - base)).natAbs (mxAccExp m.cfg)
         let raw := mxDraw m.cfg
         let scaled := typeScaled (arcOf s)
         let block := fun (e : Nat) => (e - base) / scaleBlock (fmtScale (vType v.a))
         let scale := fun (e : Nat) => blockScale (mBook v.a) (vType v.a) ((es.filter fun f => block f == block e).map val)
         let elem := fun (e : Nat) => quantise (mBook v.a) (vType v.a) (vW v.a) scaled (if scaled then (scale e).1 else 0) (val e)
         let word := fun (e : Nat) => if raw then BitVec.ofInt 64 (acc (e - base)) else laneValue (vWe v.a) (elem e).1
         let fl := orFlags (es.map fun e => (if raw then 0 else (elem e).2) ||| if scaled then (scale e).2 else 0)
         ∃ t, exec (.mxdrn d n) s = .next t ∧ VecRan c t v fl ∧ SameSide c t ∧ t.mem = c.mem ∧ t.clusters = c.clusters ∧
           t.pkg = c.pkg ∧ t.net = c.net ∧
           mezzOf t c.cur = { m with cfg := if fld m.cfg 35 1 = 1 then setFld m.cfg 28 7 (fld m.cfg 28 7 + 1) else m.cfg } ∧
           (scaled = false → Wrote c t v d.toNat fun e => if here e then some (word e) else none) ∧
           (scaled = true → (arcOf t).mfmt = setFld (arcOf c).mfmt 7 1 1 ∧
             (∀ e < vlmaxOf v.a, elemW (arcOf t) d.toNat e =
               if here e && decide (e < v.a.vl) then word e else elemW (arcOf c) d.toNat e) ∧
             (∀ e < vlmaxOf v.a, elemW (arcOf t) 31 e =
               if here e && decide (e < v.a.vl) then BitVec.ofNat 64 (scale e).1 else elemW (arcOf c) 31 e) ∧
             ∀ r, r ≠ d.toNat → r ≠ 31 → listGet [] (arcOf t).regs r = listGet [] (arcOf c).regs r)) ∧
     (heldOn (strandOf s s.cur) = false → badDrain (arcOf s) (mxcfgSeen s s.cur) d = false → stNoBays (strandOf s s.cur) = false →
       behind (strandOf s s.cur) = false → 0 < (arcOf s).lane → (arcOf s).vl ≤ (arcOf s).lane →
       Completes s (.mxdrn d n) fun t => stepped 0 { t with arc := { t.arc with chainIn := none } }) ∧
     (Claims s c → heldOn (strandOf s s.cur) = false → stNoBays (strandOf s s.cur) = false →
       let f := mxSfmt (mxcfgSeen s s.cur)
       let z := if f ≤ 1 then 8 else if f = 2 then 4 else if f = 6 then 1 else 2
       let p := (operand1 s a).toNat
       let elem := fun (j : Nat) => sfmtElem f (acc j) (mxAccExp m.cfg)
       let issuing := (arcOf s).viq = [] ∨ behind (strandOf s s.cur) = true
       (p % 8 ≠ 0 → issuing → TrapsHere s (.mxdrs a n) cMISALIGN (operand1 s a)) ∧
       (p % 8 = 0 → 0x800000 < p + 128 * z → issuing → TrapsHere s (.mxdrs a n) cACCESS (operand1 s a)) ∧
       (p % 8 = 0 → p + 128 * z ≤ 0x800000 → streamFenced c c.cur 4 = false → behind (strandOf s s.cur) = false →
         Memory.wf (clusterOf s (clusterIdx s.cur)).atrium = true →
         ∃ t, exec (.mxdrs a n) s = .next t ∧
           strandOf t s.cur = stepped (orFlags ((List.range 128).map fun j => (elem j).2)) (strandOf c s.cur) ∧
           t.cores = c.cores ∧ t.mem = s.mem ∧ (∀ k, k ≠ clusterIdx s.cur → clusterOf t k = clusterOf s k) ∧
           (∀ j < 128, cellsRead (clusterOf t (clusterIdx s.cur)).atrium (p + z * j) z = (elem j).1 % 2 ^ (8 * z)) ∧
           ∀ o, (o < p ∨ p + 128 * z ≤ o) → cellsGet (clusterOf t (clusterIdx s.cur)).atrium o =
             cellsGet (clusterOf s (clusterIdx s.cur)).atrium o))) ∧
  (∀ (s : State) (c sl : Nat) (q : List Nat),
     (∀ (o : Nat × Nat) (i : Instr), (i = .mxwait ∨ ∃ x, i = .mxtsel x) → (mezzOf s s.cur).owner = some o →
       o.1 ≠ (strandOf s s.cur).issuer → heldOn (strandOf s s.cur) = false → stNoBays (strandOf s s.cur) = false →
       ∃ t : State, exec i s = .next t ∧ (strandOf t s.cur).blocked = some .mezzClaim ∧
         (strandOf t s.cur).pc = (strandOf s s.cur).pc ∧ (mezzOf t s.cur).owner = some o ∧
         slotIdx s.cur ∈ (mezzOf t s.cur).waiters ∧ t.mem = s.mem) ∧
     ((coreOf s c).mezz.owner = none → claimWaiters s c = sl :: q → sl < 4 → ∃ t : State, exec (.mezzanineClaim c) s = .next t ∧
         (coreOf t c).mezz.owner = some ((strandOf s (4 * c + sl)).issuer, sl) ∧ (coreOf t c).mezz.cfg = 0x2000000 ∧
         (coreOf t c).mezz.act = false ∧ sl ∉ (coreOf t c).mezz.waiters ∧
         strandOf t (4 * c + sl) = { (strandOf s (4 * c + sl)) with blocked := none } ∧
         (∀ j, j ≠ 4 * c + sl → strandOf t j = strandOf s j) ∧ t.mem = s.mem ∧ ∀ k, k ≠ c → coreOf t k = coreOf s k) ∧
     (∀ id u i, ((∃ x b, (strandOf s id).arc.waits = some (.mxtld x b) ∧ i = .mxtld x b) ∨
         ∃ n a, (strandOf s id).arc.waits = some (.mxr n a) ∧ i = .mxr n a) →
       exec i (headState s id) = .next u →
       exec (.mxFifoWaitEnd id) s = .next (modStrand { u with cur := s.cur } id (afterHead (strandOf s id)))) ∧
     (∀ id u, heldOn (strandOf s id) = false → stNoBays (strandOf s id) = false → Claims (headState s id) u →
       (strandOf s id).arc.viq ≠ [] → streamFenced u id 4 = false →
       let m := mezzOf u id
       let goesOn := fun (n : Mezz) (fl : Word) => ∃ t, exec (.mxFifoWaitEnd id) s = .next t ∧ t.cur = s.cur ∧
         strandOf t id = headDone (strandOf s id) (stepped fl (strandOf u id)) ∧ MezzRan u t n
       (∀ x b, (strandOf s id).arc.waits = some (.mxtld x b) → tileBeats m ≤ m.ft.length →
         ∃ n fl, TileLoaded u x b n fl ∧ goesOn n fl) ∧
       (∀ r a, (strandOf s id).arc.waits = some (.mxr r a) → rowBeats m ≤ m.fa.length →
         ∃ n fl, RowSummed u r a n fl ∧ goesOn n fl)) ∧
     (∀ (id : Nat), (∀ x b, (strandOf s id).arc.waits ≠ some (.mxtld x b)) → (∀ n a, (strandOf s id).arc.waits ≠ some (.mxr n a)) →
       exec (.mxFifoWaitEnd id) s = .next s) ∧
     ∀ (d b : BitVec 5) (n : BitVec 9) (x y : BitVec 1),
       ArrayIssueTraps s (.mxcfg b) (!mxcfgOk (operand1 s b)) ∧ ArrayIssueTraps s (.mxfclr x y) (x == 0 && y == 0) ∧
       ArrayIssueTraps s (.mxdrn d n) (badDrain (arcOf s) (mxcfgSeen s s.cur) d) ∧
       ∀ i ∈ [Instr.mxtld x y, .mxtsel x, .mxr n x, .mxclr n, .mxwait, .mxdrs b n], ArrayIssueTraps s i false)

/-! ## Copy engines and the Undercroft -/

/-- R239-R243: CPY, CPY2D, CPYG and CPYF: the checks in their order and their traps; a command that passes them and finds an
entry is accepted behind the engine's others, nothing else changing; without an entry it waits, or traps when the engine is
halted; behind an SBAR it waits. A command that waits has passed its checks, and CopyQueueEntry accepts it once an entry is
free; it does not come to a trap before older entries of the VIQ have completed (R101). -/
def Obligations.CopyIssue : Prop :=
  ∀ (s : State) (a b c : BitVec 5) (p : BitVec 4) (e : BitVec 2),
    let issues := fun (i : Instr) (op : Nat) (ctl ext : Word) (blk : Block) =>
      let dst := reg s s.cur a
      let src := reg s s.cur b
      let t := strandOf s s.cur
      let q := engineQueue s (clusterIdx s.cur) e.toNat
      let k := clusterOf s (clusterIdx s.cur)
      let legal := copyIllegal op dst ctl ext = false
      let there := ctDk ctl = 0 ∨ (coreOf s (copyTarget s.cur ctl)).enabled = true
      let lined := ∀ x ∈ copyAligned op dst src ctl ext, x.1.toNat % x.2 = 0
      let ranged := copyBadRange op dst src ctl ext = none
      let barred := ctBarv ctl = false ∨ (barOf s (clusterIdx s.cur) (ctBar ctl)).state = .normal
      let fresh := t.blocked ≠ some blk
      (fresh → ¬ legal → ∀ w, encode i = some w → TrapsHere s i cILLEGAL (w.zeroExtend 64)) ∧
      (fresh → legal → ¬ there → TrapsHere s i cCOORD (BitVec.ofNat 64 (copyTarget s.cur ctl))) ∧
      (fresh → legal → there → ∀ x y z, copyAligned op dst src ctl ext = x ++ y :: z → (∀ w ∈ x, w.1.toNat % w.2 = 0) →
        y.1.toNat % y.2 ≠ 0 → TrapsHere s i cMISALIGN y.1) ∧
      (fresh → legal → there → lined → ∀ x, copyBadRange op dst src ctl ext = some x → TrapsHere s i cACCESS x) ∧
      (fresh → legal → there → lined → ranged → ¬ barred → TrapsHere s i cBARRIER_FAULT (BitVec.ofNat 64 (ctBar ctl))) ∧
      ((¬ fresh ∨ (legal ∧ there ∧ lined ∧ ranged ∧ barred)) →
        (streamFenced s s.cur 3 = true → (q.length < 16 ∨ q.all (fun x => x.state != .halted) = true) →
          Completes s i fun x => { x with blocked := some blk }) ∧
        (q.length < 16 → streamFenced s s.cur 3 = false → ∃ u : State, exec i s = .next u ∧ strandOf u s.cur = past t ∧ (∀ j, j ≠ s.cur → strandOf u j = strandOf s j) ∧
          engineQueue u (clusterIdx s.cur) e.toNat = q ++ [⟨t.issuer, coreIdx s.cur, slotIdx s.cur, stLanding t, stSuper t,
            t.tag, op, dst, src, ctl, ext, .queued, 0, 0, 0, k.accepted⟩] ∧
          (∀ n, n ≠ e.toNat → engineQueue u (clusterIdx s.cur) n = engineQueue s (clusterIdx s.cur) n) ∧
          (∀ n, n ≠ clusterIdx s.cur → clusterOf u n = clusterOf s n) ∧
          clusterOf u (clusterIdx s.cur) = { k with
            engines := (clusterOf u (clusterIdx s.cur)).engines, accepted := k.accepted + 1 } ∧
          u.mem = s.mem ∧ u.cores = s.cores ∧ u.dies = s.dies ∧ u.pkg = s.pkg ∧ u.net = s.net) ∧
        (16 ≤ q.length → q.all (fun x => x.state != .halted) = true →
          Completes s i fun x => { x with blocked := some blk }) ∧
        (16 ≤ q.length → q.any (fun x => x.state == .halted) = true →
          TrapsHere s i cCOPY_FAULT (BitVec.ofNat 64 e.toNat)))
    issues (.cpy a b c e) 0 (reg s s.cur c) 0 (.copy 0 a b c e) ∧
    issues (.cpyf a b c e) 3 (reg s s.cur c) 0 (.copy 3 a b c e) ∧
    issues (.cpy2d a b p e) 1 (reg s s.cur (p ++ 0#1)) (reg s s.cur (p ++ 1#1)) (.copy 1 a b (p ++ 0#1) e) ∧
    issues (.cpyg a b p e) 2 (reg s s.cur (p ++ 0#1)) (reg s s.cur (p ++ 1#1)) (.copy 2 a b (p ++ 0#1) e) ∧
    (∀ id u i blk, (strandOf s id).blocked = some blk →
      (i = .cpy a b c e ∧ blk = .copy 0 a b c e ∨ i = .cpyf a b c e ∧ blk = .copy 3 a b c e ∨
        i = .cpy2d a b p e ∧ blk = .copy 1 a b (p ++ 0#1) e ∨ i = .cpyg a b p e ∧ blk = .copy 2 a b (p ++ 0#1) e) →
      exec i { s with cur := id } = .next u →
      exec (.copyQueueEntry id) s = .next (if trapsEarly (strandOf s id) (strandOf u id) then s else { u with cur := s.cur })) ∧
    (∀ (id : Nat) (op : BitVec 3) (r : BitVec 5), (strandOf s id).blocked = some (.copy op a b r e) → streamFenced s id 3 = false →
      let q := engineQueue s (clusterIdx id) e.toNat
      q.length < 16 → ∃ u x, exec (.copyQueueEntry id) s = .next u ∧ u.cur = s.cur ∧ strandOf u id = past (strandOf s id) ∧
        engineQueue u (clusterIdx id) e.toNat = q ++ [x] ∧ x.issuer = (strandOf s id).issuer ∧ x.op = op.toNat ∧
        x.state = .queued ∧ x.dst = reg s id a ∧ x.src = reg s id b ∧ x.ctl = reg s id r ∧
        (op = 1 ∨ op = 2 → x.ext = reg s id (r ||| 1)) ∧ u.mem = s.mem ∧ u.cores = s.cores ∧ u.dies = s.dies ∧
        u.pkg = s.pkg ∧ u.net = s.net ∧ ∀ j, j ≠ id → strandOf u j = strandOf s j) ∧
    ∀ (id : Nat), (∀ op a b r e, (strandOf s id).blocked ≠ some (.copy op a b r e)) → exec (.copyQueueEntry id) s = .next s

/-- R241, R243-R246, R358: a command at the head becomes ACTIVE when no earlier unended command conflicts with it. One that may
be performed completes when its words have moved, leaves its engine and signals; one whose next access its stream holds back
keeps its progress; in particular a fill or a contiguous copy within the Atrium leaves in each word of its destination the
pattern or the source word, and every other byte as it was. A FIFO takes a command's beats one by one, each an access that
waits like every other.

R242, R245, R247, R254: a word that faults halts its engine with the cause, the address and the bytes delivered, faults the
command's barrier, and gives the strands whose commands wait for an entry of the full queue a COPY_FAULT trap, at once where
no older entry of the VIQ is left (R101); CPYRES, at S, reads the record of a halted command, and restarts or discards it.
That a halted command holds back conflicting ones is the model's reading of R243 (log entry 45). -/
def Obligations.CopyExecution : Prop :=
  (∀ (s : State) (cl e : Nat) (c : CopyCmd) (q : List CopyCmd), engineQueue s cl e = c :: q →
     let first := (clusterCmds s cl).all fun d => decide (c.accepted ≤ d.accepted) || !conflicts s cl c d
     let mine := (clusterCmds s cl).all fun d => d.issuer != c.issuer || decide (c.accepted ≤ d.accepted)
     (c.state = .queued → first = true → ∃ t : State, exec (.copyStart cl e) s = .next t ∧
       engineQueue t cl e = { c with state := .active } :: q ∧ t.strands = s.strands ∧ t.mem = s.mem ∧ t.cores = s.cores ∧
       (∀ n, n ≠ e → engineQueue t cl n = engineQueue s cl n) ∧ (clusterOf t cl).atrium = (clusterOf s cl).atrium) ∧
     (∀ u o, c.state = .active → mine = true → moveRest s cl c = (u, o, .done) →
       ∃ t : State, exec (.copyComplete cl e) s = .next t ∧ engineQueue t cl e = q ∧ t.mem = u.mem ∧
         (ctSemv c.ctl = true → semOf t cl (ctSem c.ctl) = BitVec.ofNat 32 (min ((semOf u cl (ctSem c.ctl)).toNat + 1) (2 ^ 32 - 1))) ∧
         (∀ n, (ctSemv c.ctl = false ∨ n ≠ ctSem c.ctl) → semOf t cl n = semOf u cl n)) ∧
     (∀ u o, c.state = .active → mine = true → moveRest s cl c = (u, o, .held) → ∃ t : State,
       exec (.copyComplete cl e) s = .next t ∧ engineQueue t cl e = { c with offset := o } :: q ∧ t.mem = u.mem) ∧
     (∀ d x, c.state = .active → mine = true → wordHeld s c none = false → c.offset = 0 → (c.op = 0 ∨ c.op = 3) → ctDk c.ctl = 0 → ctLen c.ctl % 8 = 0 →
       Memory.wf (clusterOf s cl).atrium = true → (clusterOf s cl).poison = [] →
       c.dst.toNat = 0x7FFFFF800000 + d → d + ctLen c.ctl ≤ 0x800000 →
       (c.op = 0 → c.src.toNat = 0x7FFFFF800000 + x ∧ x + ctLen c.ctl ≤ 0x800000 ∧ (x + ctLen c.ctl ≤ d ∨ d + ctLen c.ctl ≤ x)) →
       ∃ t : State, exec (.copyComplete cl e) s = .next t ∧ engineQueue t cl e = q ∧ t.mem = s.mem ∧
         (∀ k, 8 * k < ctLen c.ctl → cellsRead (clusterOf t cl).atrium (d + 8 * k) 8 =
           if c.op = 3 then c.src.toNat else cellsRead (clusterOf s cl).atrium (x + 8 * k) 8) ∧
         ∀ o, (o < d ∨ d + ctLen c.ctl ≤ o) → cellsGet (clusterOf t cl).atrium o = cellsGet (clusterOf s cl).atrium o) ∧
     (∀ u f, c.state = .active → mine = true → ctDk c.ctl = f → (f = 1 ∨ f = 2) → c.offset < copyTotal c.op c.ctl c.ext →
       let k := copyTarget (4 * c.coord + c.slot) c.ctl
       let fifo := fun (s : State) => if f = 1 then (coreOf s k).mezz.fa else (coreOf s k).mezz.ft
       (fifo s).length < (if f = 1 then 512 else 2048) →
       ∀ v, gatherBeat cl c 8 c.offset s = (u, .ok v) →
         (wordHeld u c none = false → ∃ t : State, exec (.fifoDelivery cl e) s = .next t ∧
           fifo t = fifo s ++ [BitVec.ofNat 512 v] ∧ engineQueue t cl e = { c with offset := c.offset + 64 } :: q ∧
           t.mem = u.mem ∧ t.strands = u.strands) ∧
         (wordHeld u c none = true → exec (.fifoDelivery cl e) s = .next s))) ∧
  ((∀ (s u : State) (cl e o : Nat) (c : CopyCmd) (q : List CopyCmd) (f : Nat × Word),
     engineQueue s cl e = c :: q → c.state = .active →
     (clusterCmds s cl).all (fun d => d.issuer != c.issuer || decide (c.accepted ≤ d.accepted)) = true →
     moveRest s cl c = (u, o, .fault f) → ∃ t : State, exec (.copyHalt cl e) s = .next t ∧ t.mem = u.mem ∧
       engineQueue t cl e = { c with
         state := .halted, offset := o, cause := BitVec.ofNat 6 f.1, faultAddr := f.2 } :: q ∧
       (ctBarv c.ctl = true → (barOf s cl (ctBar c.ctl)).state ≠ .uninit → (barOf t cl (ctBar c.ctl)).state = .faulted) ∧
       (∀ n, semOf t cl n = semOf u cl n) ∧
       ∀ id op a b r (n : BitVec 2), id / 32 = cl → n.toNat = e → 16 ≤ q.length + 1 → (strandOf s id).slot = .run →
         (strandOf s id).blocked = some (.copy op a b r n) → strandOf t id = if behind (strandOf s id) then strandOf s id else
           trapped cCOPY_FAULT (BitVec.ofNat 64 e) ((strandOf s id).pc.zeroExtend 64) (strandOf s id)) ∧
   ∀ (s : State) (a : BitVec 4) (b : BitVec 5) (e : BitVec 2) (v : Word), reg s s.cur b = v →
     let i : Instr := .cpyres a b e
     let cl := clusterIdx s.cur
     let both := fun (x y : Word) (t : Strand) => past (putReg (putReg t (a ++ 0#1) x) (a ++ 1#1) y)
     let super := stSuper (strandOf s s.cur) = true
     (2 < v.toNat → ∀ w, encode i = some w → TrapsHere s i cILLEGAL (w.zeroExtend 64)) ∧
     (v.toNat ≤ 2 → ¬ super → ∀ w, encode i = some w → TrapsHere s i cPRIV (w.zeroExtend 64)) ∧
     (v.toNat ≤ 2 → super → (engineQueue s cl e.toNat).all (fun c => c.state != .halted) = true →
       Completes s i (both 0 0)) ∧
     ∀ c q, v.toNat ≤ 2 → super → engineQueue s cl e.toNat = c :: q → c.state = .halted →
       ∃ t : State, exec i s = .next t ∧
         strandOf t s.cur = both (BitVec.ofNat 64 (2 ^ 63 + c.cause.toNat * 2 ^ 56 + fld c.faultAddr 0 48))
           (BitVec.ofNat 64 (c.coord * 2 ^ 55 + c.slot * 2 ^ 53 + c.op * 2 ^ 50 + c.offset % 2 ^ 32)) (strandOf s s.cur) ∧
         (v = 0 → t.clusters = s.clusters) ∧
         (v = 1 → engineQueue t cl e.toNat = { c with state := .active } :: q) ∧ (v = 2 → engineQueue t cl e.toNat = q) ∧
         t.mem = s.mem ∧ t.cores = s.cores ∧ ∀ j, j ≠ s.cur → strandOf t j = strandOf s j)

/-- R321, R322, R324: every UBULK: its checks and traps; one that passes them and finds an entry of the die's queue is accepted
with its units, and otherwise waits, to be accepted once there is one. The first operand that does not start a row unit, the
destination first, is MISALIGN.

R311, R321, R323-R326: a command starts when no earlier one of its die clashes with it. Unit by unit, in their order, it
writes to the 1,024 bytes of a destination the function of its sources' stored bits and to no other, and drops every cached
copy of the lines and every decoded line that they back. Lines formed from bad ones are poisoned, and the issuer's poison
record says so. UWAIT reports and forgets a poisoned destination once the strand's commands are done, and parks until then.
That decoded coded lines with carriers in the row are dropped is the model's reading (log entry 27). -/
def Obligations.Undercroft : Prop :=
  (∀ (s : State) (a b : BitVec 4) (c : BitVec 5) (m : BitVec 3) (r : BitVec 1),
     let n := (reg s s.cur (a ++ 1#1)).toNat
     let dst := reg s s.cur (a ++ 0#1)
     let src := fun (k : Nat) (b : BitVec 5) => (List.range k).map fun j => reg s s.cur (b + BitVec.ofNat 5 j)
     let issues := fun (i : Instr) (op : Nat) (raw : Bool) (b : BitVec 5) (srcs : List Word) (blk : Block) =>
       let named := a ≠ 0 ∧ (op = 0 ∨ b ≠ 0) ∧ n ≠ 0 ∧ n ≤ 2 ^ 20
       let q := (dieOf s (dieIdx s.cur)).undercroft
       let ops := (dst, true) :: srcs.map fun x => (x, false)
       let lined := ∀ x ∈ dst :: srcs, x.toNat % 1024 = 0
       let may := raw = false ∨ stSuper (strandOf s s.cur) = true
       (¬ named → ∀ w, encode i = some w → TrapsHere s i cILLEGAL (w.zeroExtend 64)) ∧
       (named → ¬ may → ∀ w, encode i = some w → TrapsHere s i cPRIV (w.zeroExtend 64)) ∧
       (named → may → ∀ x y z, dst :: srcs = x ++ y :: z → (∀ w ∈ x, w.toNat % 1024 = 0) → y.toNat % 1024 ≠ 0 →
         TrapsHere s i cMISALIGN y) ∧
       (named → may → lined → ∀ x f, unitList s s.cur raw ops n 0 = .error (x, f) → ∃ t : State, exec i s = .next t ∧
         strandOf t s.cur = trapped f.cause x (pcOf s) (strandOf s s.cur) ∧ t.mem = s.mem ∧ t.dies = s.dies) ∧
       ∀ us, named → may → lined → unitList s s.cur raw ops n 0 = .ok us → streamFenced s s.cur 0 = false →
         s.net.unacked.any (fun u => u.sid == sidOf s.cur 0) = false →
         (q.length < 64 → ∃ t : State, exec i s = .next t ∧ strandOf t s.cur = past (strandOf s s.cur) ∧
           (dieOf t (dieIdx s.cur)).undercroft =
             q ++ [⟨(strandOf s s.cur).issuer, (strandOf s s.cur).tag, op, us, false⟩] ∧
           t.mem = s.mem ∧ t.cores = s.cores ∧ t.clusters = s.clusters ∧ ∀ j, j ≠ s.cur → strandOf t j = strandOf s j) ∧
         (64 ≤ q.length → Completes s i fun t => { t with blocked := some blk }) ∧
         ∀ k, (strandOf s s.cur).blocked = some blk → q.length < 64 → ∃ t : State,
           exec (.undercroftQueueEntry s.cur) { s with cur := k } = .next t ∧ t.cur = k ∧
           strandOf t s.cur = past (strandOf s s.cur) ∧ (dieOf t (dieIdx s.cur)).undercroft =
             q ++ [⟨(strandOf s s.cur).issuer, (strandOf s s.cur).tag, op, us, false⟩] ∧
           t.mem = s.mem ∧ t.cores = s.cores ∧ t.clusters = s.clusters ∧ ∀ j, j ≠ s.cur → strandOf t j = strandOf s j
     issues (.ubulkZero a r) 0 (r == 1) 0 [] (.ubulk 0 r (a ++ 0#1) 0) ∧
     issues (.ubulkCopy a c) 1 false c (src 1 c) (.ubulk 1 0 (a ++ 0#1) c) ∧
     issues (.ubulkNot a c) 5 false c (src 1 c) (.ubulk 5 0 (a ++ 0#1) c) ∧
     issues (.ubulkAnd a b) 2 false (b ++ 0#1) (src 2 (b ++ 0#1)) (.ubulk 2 0 (a ++ 0#1) (b ++ 0#1)) ∧
     issues (.ubulkOr a b) 3 false (b ++ 0#1) (src 2 (b ++ 0#1)) (.ubulk 3 0 (a ++ 0#1) (b ++ 0#1)) ∧
     issues (.ubulkMaj3 a m) 4 false (m ++ 0#2) (src 3 (m ++ 0#2)) (.ubulk 4 0 (a ++ 0#1) (m ++ 0#2)) ∧
     (∀ (id : Nat), (∀ op r a b, (strandOf s id).blocked ≠ some (.ubulk op r a b)) →
       exec (.undercroftQueueEntry id) s = .next s) ∧
     ∀ id u i blk, (strandOf s id).blocked = some blk → exec i { s with cur := id } = .next u →
       (i, blk) ∈ [(.ubulkZero a r, .ubulk 0 r (a ++ 0#1) 0), (.ubulkCopy a c, .ubulk 1 0 (a ++ 0#1) c),
         (.ubulkNot a c, .ubulk 5 0 (a ++ 0#1) c), (.ubulkAnd a b, .ubulk 2 0 (a ++ 0#1) (b ++ 0#1)),
         (.ubulkOr a b, .ubulk 3 0 (a ++ 0#1) (b ++ 0#1)),
         ((.ubulkMaj3 a m, .ubulk 4 0 (a ++ 0#1) (m ++ 0#2)) : Instr × Block)] →
       exec (.undercroftQueueEntry id) s = .next (if trapsEarly (strandOf s id) (strandOf u id) then s else { u with cur := s.cur })) ∧
  ((∀ (s : State) (die : Nat) (c : UCmd) (p q : List UCmd), (dieOf s die).undercroft = p ++ c :: q →
     (p.any (bulkClash c) = false → ∃ t : State, exec (.undercroftStart die p.length) s = .next t ∧
       (dieOf t die).undercroft = p ++ { c with active := true } :: q ∧ t.mem = s.mem ∧ t.strands = s.strands) ∧
     (c.active = true → Memory.wf s.mem.dram = true → c.op ≤ 5 →
       (∀ u ∈ c.units, u.2.length = if c.op = 0 then 0 else if c.op = 1 ∨ c.op = 5 then 1 else if c.op = 4 then 3 else 2) →
       let badLine := fun (u : Nat × List Nat) (i : Nat) => u.2.any fun a => dramBad s (a / 64 + i)
       let apart := fun (u w : Nat × List Nat) => ∀ i < 16, ∀ j < 16, u.1 / 64 + i ≠ w.1 / 64 + j ∧
         (∀ a ∈ w.2, u.1 / 64 + i ≠ a / 64 + j) ∧ ∀ a ∈ u.2, w.1 / 64 + i ≠ a / 64 + j
       ∃ t : State, exec (.undercroftComplete die p.length) s = .next t ∧ (dieOf t die).undercroft = p ++ q ∧
         BulkUnits c.op s.mem.dram c.units t.mem.dram ∧ t.mem.host = s.mem.host ∧ t.strands = s.strands ∧ t.cores = s.cores ∧
         t.clusters = s.clusters ∧
         (∀ u ∈ c.units, (∀ i < 16, tblFind t.mem.l2 (u.1 / 64 + i) = none) ∧
           ∀ r j, j < 2 ^ 34 → overRow s u.1 r j = true → tblFind t.mem.coded (codedKey r j) = none) ∧
         (∀ g ∈ t.mem.tags, g ∈ s.mem.tags) ∧
         (c.units.Pairwise apart →
           (∀ u ∈ c.units, ∀ i < 16, t.mem.poison.contains (u.1 / 64 + i) = badLine u i) ∧
           t.pkg.poisoned.contains c.issuer =
             (s.pkg.poisoned.contains c.issuer || c.units.any fun u => (List.range 16).any (badLine u))))) ∧
   ∀ (s : State) (a : BitVec 5),
     (bulksOf s s.cur ≠ [] → Completes s (.uwait a) fun t => { t with slot := .park, blocked := some (.uwait a) }) ∧
     (bulksOf s s.cur = [] → ∃ t : State, exec (.uwait a) s = .next t ∧ t.mem = s.mem ∧
       strandOf t s.cur = past (putReg (strandOf s s.cur) a
         (if s.pkg.poisoned.contains (strandOf s s.cur).issuer then 1 else 0)) ∧
       t.pkg.poisoned.contains (strandOf s s.cur).issuer = false ∧ ∀ j, j ≠ s.cur → strandOf t j = strandOf s j))

/-! ## Transfers and collectives -/

/-- R360-R362, R369: FPUT and FGET trap on a bad pair or length and on misalignment, enter the collective engine, or wait for an
entry; a transfer that may run moves its words and ends with its status, or with none where its strand has been aborted: a
transfer of one word moves that word and changes nothing else of memory. COLLW reports a status once it is there and forgets
what it reports. Which operations fill the engine, and for which accesses it waits, is the model's reading (log entry 26).
What becomes of the transfers of an aborted strand is its reading of R282 and R371 (log entry 23). -/
def Obligations.TransfersAndCollw : Prop :=
  (∀ (s : State) (a : BitVec 4) (b : BitVec 5),
    let dst := reg s s.cur (a ++ 0#1)
    let len := reg s s.cur (a ++ 1#1)
    let src := reg s s.cur b
    let t := strandOf s s.cur
    let lined := dst.toNat % 8 = 0 ∧ src.toNat % 8 = 0 ∧ len.toNat % 8 = 0
    let issues := fun (i : Instr) (get : Bool) =>
      (a = 0 ∨ 2 ^ 32 ≤ len.toNat → ∀ w, encode i = some w → TrapsHere s i cILLEGAL (w.zeroExtend 64)) ∧
      (a ≠ 0 → len.toNat < 2 ^ 32 →
        (dst.toNat % 8 ≠ 0 → TrapsHere s i cMISALIGN dst) ∧
        (dst.toNat % 8 = 0 → src.toNat % 8 ≠ 0 → TrapsHere s i cMISALIGN src) ∧
        (dst.toNat % 8 = 0 → src.toNat % 8 = 0 → len.toNat % 8 ≠ 0 → TrapsHere s i cMISALIGN len) ∧
        (lined → engineFull s = false → ∃ u : State, exec i s = .next u ∧ strandOf u s.cur = past t ∧
          u.pkg = { s.pkg with engine := { s.pkg.engine with ops := s.pkg.engine.ops ++ [⟨t.issuer, s.cur, stLanding t,
            stSuper t, t.tag, none, 0, get, dst, src, len.toNat, if len = 0 then some 0 else none, 0, false⟩] } } ∧
          u.mem = s.mem ∧ u.cores = s.cores ∧ u.clusters = s.clusters ∧ u.dies = s.dies ∧ u.net = s.net ∧
          ∀ j, j ≠ s.cur → strandOf u j = strandOf s j) ∧
        (lined → engineFull s = true → Completes s i fun x =>
          { x with blocked := some (.transfer get (a ++ 0#1) b) }) ∧
        ((strandOf s s.cur).blocked = some (.transfer get (a ++ 0#1) b) → lined → engineFull s = false → ∀ k, ∃ u : State,
          exec (.engineEntry s.cur) { s with cur := k } = .next u ∧ u.cur = k ∧ strandOf u s.cur = past t ∧
          u.pkg.engine.ops.length = s.pkg.engine.ops.length + 1 ∧ u.mem = s.mem ∧ u.cores = s.cores ∧ u.clusters = s.clusters ∧
          u.dies = s.dies ∧ u.net = s.net ∧ ∀ j, j ≠ s.cur → strandOf u j = strandOf s j))
    issues (.fput a b) false ∧ issues (.fget a b) true) ∧
  (∀ (s : State) (o : EngineOp) (p q : List EngineOp), s.pkg.engine.ops = p ++ o :: q → o.coll = none → o.ended = none →
    issuerBusy s o = false →
    (∀ u f, moveXfer (opAgent o) o.get o.dst o.src (o.len / 8) 0 s = (u, f) → u.pkg.engine = s.pkg.engine →
      ∃ t : State, exec (.transferEnd p.length) s = .next t ∧ t.mem = u.mem ∧
        (o.orphan = false → t.pkg.engine.ops = p ++ { o with
          ended := some (match f with | none => 0 | some x => statusWord x.2 x.1 2) } :: q) ∧
        (o.orphan = true → t.pkg.engine.ops = p ++ q)) ∧
    ∀ x y, o.len = 8 → MemoriesWf s →
      engineTarget s (opAgent o) (if o.get then .peer else .near) false o.src = .ok x →
      engineTarget (targetFill s x) (opAgent o) (if o.get then .near else .peer) true o.dst = .ok y →
      targetBad s (opAgent o).cluster x 8 = false → unreachableTarget s (hubSid 1) x = false →
      unreachableTarget s (hubSid 1) y = false →
      (∀ g o sl, x ≠ .coded g o sl) → Plain s y → nonfiniteWrite s y 8 (targetRead s (opAgent o).cluster x 8) = false →
      ∃ t : State, exec (.transferEnd p.length) s = .next t ∧
        (o.orphan = false → t.pkg.engine.ops = p ++ { o with ended := some 0 } :: q) ∧
        targetRead t (opAgent o).cluster y 8 = targetRead s (opAgent o).cluster x 8 ∧ t.strands = s.strands ∧
        ∀ c r, Apart (opAgent o).cluster y 8 c r → targetRead t c r 1 = targetRead s c r 1) ∧
  ∀ (s : State) (a b : BitVec 5) (v : Word), reg s s.cur b = v →
    let g := (strandOf s s.cur).issuer
    let parks := Completes s (.collw a b) fun t => { t with slot := .park, blocked := some (.collw a b) }
    (v.toNat % 64 ≠ 0 → ∀ w, encode (.collw a b) = some w → TrapsHere s (.collw a b) cILLEGAL (w.zeroExtend 64)) ∧
    (v.toNat % 64 = 0 → v ≠ 0 →
      (lastColl s g v.toNat = none → Writes s (.collw a b) a 5) ∧
      (∀ o, lastColl s g v.toNat = some o → o.ended = none → parks) ∧
      ∀ o w, lastColl s g v.toNat = some o → o.ended = some w → ∃ t : State, exec (.collw a b) s = .next t ∧ t.mem = s.mem ∧
        strandOf t s.cur = past (putReg { (strandOf s s.cur) with sflags := (strandOf s s.cur).sflags ||| o.flags } a w) ∧
        t.pkg.engine.ops.length + 1 = s.pkg.engine.ops.length ∧ ∀ x ∈ t.pkg.engine.ops, x ∈ s.pkg.engine.ops) ∧
    (v = 0 → openOps s s.cur ≠ [] → parks) ∧
    (v = 0 → openOps s s.cur = [] → ∃ t : State, exec (.collw a b) s = .next t ∧ opsOf t g = [] ∧ t.mem = s.mem ∧
      strandOf t s.cur = past (putReg { (strandOf s s.cur) with
        sflags := (strandOf s s.cur).sflags ||| orFlags ((opsOf s g).map (·.flags)) } a (firstBadStatus (opsOf s g))) ∧
      ∀ x ∈ s.pkg.engine.ops, x.issuer ≠ g → x ∈ t.pkg.engine.ops)

/-- R363-R365: the four collectives: a descriptor that can be read and is legal enters the engine once, with the fields of the
descriptor, unless its collective has ended or its parts disagree; a descriptor that is misaligned, cannot be accessed or
holds bad data traps.

R101, R360: an instruction that waits for an entry of the engine is tried again, without coming to a trap before older
entries of the VIQ have completed, and nothing happens to a strand that waits for none. R365: a contribution from another
package joins its collective, or is answered with the status of one that has ended. Which operations fill the engine is the
model's reading (log entry 26). -/
def Obligations.CollectiveIssue : Prop :=
  (∀ (s : State) (b : BitVec 5) (m : BitVec 1) (v : Word), reg s s.cur b = v →
     let t := strandOf s s.cur
     let issues := fun (i : Instr) (kind : BitVec 2) =>
       (v.toNat % 64 ≠ 0 → TrapsHere s i cMISALIGN v) ∧
       (v.toNat % 64 = 0 → ∀ f, engineTarget s (agentOf s s.cur) .plain false v = .error f → ∃ u : State, exec i s = .next u ∧
         strandOf u s.cur = trapped f.cause v (pcOf s) t ∧ u.mem = s.mem) ∧
       (v.toNat % 64 = 0 → ∀ x, engineTarget s (agentOf s s.cur) .plain false v = .ok x →
         (targetBad s (clusterIdx s.cur) x 64 = true ∨ unreachableTarget s (sidOf s.cur 0) x = true) →
         TrapsHere s i cMEM_UE v) ∧
       (v.toNat % 64 = 0 → ∀ x, engineTarget s (agentOf s s.cur) .plain false v = .ok x →
         (targetBad s (clusterIdx s.cur) x 64 || unreachableTarget s (sidOf s.cur 0) x) = false →
         streamHeld s s.cur 0 [homeDie s x] = false →
         let w := fun (k : Nat) => BitVec.ofNat 64 (targetRead s (clusterIdx s.cur) x 64 / 2 ^ (64 * k) % 2 ^ 64)
         let d : CollDesc := descOf kind.toNat (m == 1) w
         let bad := descReserved w || collDescBad d || collInFlight s d
         (bad = true → ∀ y, encode i = some y → ∃ u : State, exec i s = .next u ∧
           strandOf u s.cur = trapped cILLEGAL (y.zeroExtend 64) (pcOf s) t ∧ u.mem = s.mem ∧ u.pkg = s.pkg) ∧
         (bad = false → ∀ y, collMisaligned d = some y → ∃ u : State, exec i s = .next u ∧
           strandOf u s.cur = trapped cMISALIGN y (pcOf s) t ∧ u.mem = s.mem ∧ u.pkg = s.pkg) ∧
         (bad = false → collMisaligned d = none → engineFull s = true → ∃ u : State, exec i s = .next u ∧
           strandOf u s.cur = { t with blocked := some (.coll kind m b) } ∧ u.mem = s.mem ∧ u.pkg = s.pkg) ∧
         (bad = false → collMisaligned d = none → engineFull s = false → ∃ u e, exec i s = .next u ∧
           strandOf u s.cur = past t ∧ (∀ j, j ≠ s.cur → strandOf u j = strandOf s j) ∧ u.mem.dram = s.mem.dram ∧
           u.mem.l2 = s.mem.l2 ∧ u.pkg.engine.ops.getLast? = some e ∧
           u.pkg.engine.ops.length = s.pkg.engine.ops.length + 1 ∧ e.issuer = t.issuer ∧ e.coll = some d ∧
           e.descAddr = v.toNat ∧ (∀ st, outcomeOf (ageOutcomes s d.gid d.cseq) d.gid d.cseq = some st →
             e.ended = some (statusWord 0 0 (if st ≤ 1 then 1 else if st ≤ 3 then 3 else 4)))))
     issues (.collAllreduce b m) 0 ∧ issues (.collRedscat b m) 1 ∧ issues (.collAllgath b m) 2 ∧ issues (.collBcast b m) 3) ∧
  ((∀ (s u : State) (id : Nat) (a : BitVec 4) (b : BitVec 5) (m : BitVec 1) (i : Instr) (blk : Block),
     (strandOf s id).blocked = some blk → exec i { s with cur := id } = .next u →
     (i, blk) ∈ [(.fput a b, .transfer false (a ++ 0#1) b), (.fget a b, .transfer true (a ++ 0#1) b),
       (.collAllreduce b m, .coll 0 m b), (.collRedscat b m, .coll 1 m b), (.collAllgath b m, .coll 2 m b),
       ((.collBcast b m, .coll 3 m b) : Instr × Block)] →
     exec (.engineEntry id) s = .next (if trapsEarly (strandOf s id) (strandOf u id) then s else { u with cur := s.cur })) ∧
   (∀ (s : State) (id : Nat), (∀ g a b, (strandOf s id).blocked ≠ some (.transfer g a b)) →
     (∀ k m b, (strandOf s id).blocked ≠ some (.coll k m b)) → exec (.engineEntry id) s = .next s) ∧
   ∀ (s : State) (p q : List Contribution) (c : Contribution), s.pkg.engine.arriving = p ++ c :: q →
     (∀ st, outcomeOf s c.desc.gid c.desc.cseq = some st → ∃ t : State, exec (.contributionArrival p.length) s = .next t ∧
       t.pkg.engine.arriving = p ++ q ∧ t.pkg.engine.sent =
         (c.source, c.desc.gid, c.desc.cseq, c.desc.rank, if st ≤ 1 then 1 else if st ≤ 3 then 3 else 4) :: s.pkg.engine.sent ∧
       t.pkg.engine.ops = s.pkg.engine.ops ∧ t.mem = s.mem ∧ t.strands = s.strands) ∧
     (outcomeOf s c.desc.gid c.desc.cseq = none → collOps s c.desc.gid c.desc.cseq = [] → partMisplaced (remotePart c) = false →
       collRemote s c.desc.gid c.desc.cseq = [] → partsDiffer (remotePart c) (remotePart c) = false →
       partsLost s [remotePart c] = false → ∃ t : State, exec (.contributionArrival p.length) s = .next t ∧
       t.pkg.engine.arriving = p ++ q ∧ t.pkg.engine.remote = s.pkg.engine.remote ++ [c] ∧ t.mem = s.mem ∧
       t.pkg.engine.outcomes = s.pkg.engine.outcomes))

/-- R365-R369: a collective whose N contributions are present and whose issuers' accesses are performed reads every SRC, writes
every DST and ends with status 0 and the flags of its reduction, or with FAULT at the participant whose buffer faults and
PEERFAULT at the others; a fault at a participant of another package is PEERFAULT here. A contribution that arrives is
matched: a rank table that cannot be read, a disagreement and an unreachable rank end the collective with FAULT and
PEERFAULT, MISMATCH or LOST, and nothing is written.

R19, R363, R365-R367: the results of collectives: a broadcast gives every rank the root's elements, an all-gather the ranks'
elements in rank order, and a reduce-scatter each rank its part. An exact integer sum saturates with ACCSAT. An exact
floating-point sum adds terms rounded to its block's fixed point and rounds once, NaN and infinities apart, and its flags
are the OR over all elements. A fast sum adds FP32 values two at a time in some order, and its result enters the format of
the elements, BF16 being rounded once; with one rank too a NaN becomes the canonical one, and a signalling one sets NV
(R19). Contributions of other packages are inputs (log entry 31); that a failed collective has no flags is the model's
reading (log entry 34). -/
def Obligations.CollectiveResults : Prop :=
  ((∀ (s : State) (gid cseq : Nat) (d : CollDesc),
     let ops := collOps s gid cseq
     let faults := fun (o : EngineOp) (f : WordFault) (p : EngineOp) =>
       if (collOf p).rank = (collOf o).rank then (statusWord f.2 f.1 2, 0) else (statusWord 0 0 3, 0)
     (ops.map collOf).head? = some d → ops.length + (collRemote s gid cseq).length = d.n → ops.any (issuerBusy s) = false →
     (∀ u o f, readSources ops s = (u, .error (o, f)) →
       ∃ t : State, exec (.collectiveEnd gid cseq) s = .next t ∧ CollEnds u t gid cseq 3 (faults o f)) ∧
     ∀ u ls, readSources ops s = (u, .ok ls) →
       let data := (List.range d.n).map fun r => (((ls ++ (collRemote u gid cseq).map fun c => (c.desc.rank, c.data)).find?
         fun p => p.1 == r).map (·.2)).getD []
       let v := if d.fast = true then { u with free := u.free + 2 * d.n * redCount d } else u
       (∀ w o f, writeResults (reduceAll d u.free data).1 ops v = (w, some (o, f)) →
         ∃ t : State, exec (.collectiveEnd gid cseq) s = .next t ∧ CollEnds w t gid cseq 3 (faults o f)) ∧
       ∀ w, writeResults (reduceAll d u.free data).1 ops v = (w, none) →
         ∃ t : State, exec (.collectiveEnd gid cseq) s = .next t ∧
           CollEnds w t gid cseq 0 fun _ => (0, (reduceAll d u.free data).2)) ∧
   (∀ (s : State) (gid cseq : Nat) (r : List Move), s.agenda = .peerFault gid cseq :: r → s.pkg.fatal = none →
     (outcomeOf s gid cseq = none → ∃ t : State, step s = .next t ∧ CollEnds s t gid cseq 3 fun _ => (statusWord 0 0 3, 0)) ∧
     (outcomeOf s gid cseq ≠ none → step s = .next { s with agenda := r })) ∧
   (∀ (s u : State) (p q : List Contribution) (c : Contribution) (x : Except (EngineOp × WordFault) (List Part)),
     s.pkg.engine.arriving = p ++ c :: q → outcomeOf s c.desc.gid c.desc.cseq = none →
     let gid := c.desc.gid
     let cseq := c.desc.cseq
     localParts (collOps s gid cseq) { s with pkg := { s.pkg with engine := { s.pkg.engine with
       arriving := p ++ q, remote := s.pkg.engine.remote ++ [c] } } } = (u, x) →
     ∃ t : State, exec (.contributionArrival p.length) s = .next t ∧
       (∀ o f, x = .error (o, f) → CollEnds u t gid cseq 3 fun y =>
         if (collOf y).rank = (collOf o).rank then (statusWord f.2 f.1 2, 0) else (statusWord 0 0 3, 0)) ∧
       ∀ ps, x = .ok ps →
         let all := ps ++ (collRemote u gid cseq).map remotePart
         (partsMismatch all = true → CollEnds u t gid cseq 1 fun _ => (statusWord 0 0 1, 0)) ∧
         (partsMismatch all = false → partsLost u all = true → CollEnds u t gid cseq 4 fun _ => (statusWord 0 0 4, 0)) ∧
         (partsMismatch all = false → partsLost u all = false → t = u)) ∧
   ∀ ps : List Part, partsMismatch ps = true ↔
     (∃ x ∈ ps, ∃ y ∈ ps, x.desc.n ≠ y.desc.n ∨ x.desc.kind ≠ y.desc.kind ∨ x.desc.fast ≠ y.desc.fast ∨
       x.desc.etype ≠ y.desc.etype ∨ x.desc.count ≠ y.desc.count ∨ x.desc.root ≠ y.desc.root ∨ x.table ≠ y.table ∨
       y.desc.n ≤ x.desc.rank) ∨
     ¬ (ps.map fun x => x.desc.rank).Nodup ∨
     ∃ x ∈ ps, 2 ^ 14 ≤ listGet 0 x.table x.desc.rank ∨
       4 * (listGet 0 x.table x.desc.rank % 2 ^ 12) + listGet 0 x.table x.desc.rank / 2 ^ 12 % 4 ≠ x.source) ∧
  ((∀ (d : CollDesc) (c : Nat) (data : List (List Nat)),
     let res := (reduceAll d c data).1
     let fl := (reduceAll d c data).2
     let count := if d.kind = 1 then d.n * d.count else d.count
     (d.kind = 3 → res = listFit 0 d.count (listGet [] data d.root) ∧ fl = 0) ∧
     (d.kind = 2 → res = data.flatMap (listFit 0 d.count) ∧ fl = 0) ∧
     (d.kind = 0 ∨ d.kind = 1 → d.fast = false → d.etype ≤ 1 →
       let w := if d.etype = 0 then 32 else 64
       let sum := fun (i : Nat) => (data.map fun l => signed w (listGet 0 l i)).sum
       res = (List.range count).map (fun i => wrapInt w (max (-2 ^ (w - 1)) (min (sum i) (2 ^ (w - 1) - 1)))) ∧
       fl = if (List.range count).any (fun i => sum i < -2 ^ (w - 1) || 2 ^ (w - 1) - 1 < sum i) then flagACCSAT else 0) ∧
     (d.kind = 0 ∨ d.kind = 1 → d.fast = false → 2 ≤ d.etype → d.etype ≤ 4 →
       let f := if d.etype = 2 then fBF16 else if d.etype = 3 then fFP32 else fFP64
       let xs := fun (i : Nat) => data.map fun l => readFloat f (listGet 0 l i)
       let block := fun (i : Nat) (x : Val) => ∃ k < count, k / 64 = i / 64 ∧ x ∈ xs k
       res.length = count ∧ ∃ g : Nat → Word, fl = orFlags ((List.range count).map g) ∧ ∀ i < count,
         let r := listGet 0 res i
         let nan := (∃ b, .nan b ∈ xs i) ∨ (.inf true ∈ xs i ∧ .inf false ∈ xs i)
         (nan → r = fNaN f ∧ g i = flagNV) ∧
         (∀ n, ¬ nan → .inf n ∈ xs i → r = (fInf f n).1 ∧ g i = 0) ∧
         (¬ nan → (∀ n, .inf n ∉ xs i) →
           ((∀ x v, block i x → ratOf x = some v → v = 0) → r = 0 ∧ g i = 0) ∧
           ∀ e ts, BlockExponent f (block i) e → List.Forall₂ (TermOf (e - 47)) (xs i) ts →
             let nx := if List.Forall₂ (fun x k => ratOf x = some ((k : ℚ) * 2 ^ (e - 47))) (xs i) ts then (0 : Word) else flagNX
             (ts.sum = 0 → r = 0 ∧ g i = nx) ∧
             (ts.sum ≠ 0 → r = (toFloat f (.num (decide (ts.sum < 0)) ts.sum.natAbs (e - 47))).1 ∧
               g i = nx ||| (toFloat f (.num (decide (ts.sum < 0)) ts.sum.natAbs (e - 47))).2))) ∧
     (d.kind = 0 ∨ d.kind = 1 → d.fast = true → data ≠ [] → d.etype = 3 ∨ d.etype = 2 →
       res.length = count ∧ ∃ g : Nat → Word, fl = orFlags ((List.range count).map g) ∧ ∀ i < count,
         let f := if d.etype = 2 then fBF16 else fFP32
         ∃ r h, FastSum (data.map fun l => (if d.etype = 2 then 2 ^ 16 else 1) * listGet 0 l i) r h ∧
           listGet 0 res i = (toFloat f (readFloat fFP32 r)).1 ∧ g i = h ||| (toFloat f (readFloat fFP32 r)).2)) ∧
   ∀ (d : CollDesc) (res : List Nat), (d.kind = 1 → dstElems d res = (res.drop (d.rank * d.count)).take d.count) ∧
     (d.kind ≠ 1 → dstElems d res = res))

/-! ## Landings and pre-emption -/

/-- R77, R78, R80, R128, R174, R265, R266: the pop of a fresh record. The choice falls on a landing of the highest PRIO that has
a record for a free slot, on its save list first; the slot is FREE, its core enabled and in the placement. A saved Mezzanine
owner that can resume comes before any other record of its core, and of resume records with bays it alone passes a request
for bays that waits. The strand starts with PC = CODE, s1 = FRAME, which the model extends with zeros (log entry 33), zeros
elsewhere, its STATUS, TVEC, Vault area and bays, and its record leaves the queue. A malformed record completes as faulted
with ILLEGAL and its slot stays FREE. Of other strands no more changes than that a pre-emption made due for the record is
for none now.

R8, R36, R233, R235, R274: the pop of a resume record: the slot reads the save slot at VAULT + 0x40_0000 and restores the
scalar registers, the PC, the status and trap registers, with reserved bits and the two lowest bits of an instruction's
address zero whatever memory holds and the vector side: its control registers, the v registers of the slot map with their
parity, the masks, the codebooks, the recency, the written mask and the held entries; its HELD bays are its own. When the
slot cannot be read or holds another format the strand completes as faulted with VAULT, and while commands of it have not
ended the slot drains until they have: the model's reading (log entry 24). Its COORD and SLOT are those of the slot that
resumes (log entry 93), and the next vector instruction or the first held one heads a strip. That a FREE slot's registers
read as after reset is the model's choice (log entry 5). -/
def Obligations.RecordsPop : Prop :=
  ((∀ (s : State) (die : Nat) (p : Pick), pick s die = some p →
     (dieOf s die).status = .inService ∧ landingPops (dieOf s die) p.landing = true ∧ (strandOf s p.id).slot = .free ∧
     (p.resume = false → dieIdx p.id = die) ∧
     (∀ l, (pickIn s die l).isSome = true → l < 32 → landingPrio (dieOf s die) l ≤ landingPrio (dieOf s die) p.landing) ∧
     (p.resume = false → p.entry ∈ window s die p.landing ∧
       ∀ e ∈ (landingOf s die p.landing).saved, resumeSlot s die e = none) ∧
     (p.resume = true → recBays p.entry.record = 0 ∨ (coreOf s (coreIdx p.id)).bayRequests = [] ∨
       ∃ o, savedOwner s (coreIdx p.id) = some o ∧ o.issuer = p.entry.issuer) ∧
     ∀ o, savedOwner s (coreIdx p.id) = some o → ownerReady s (coreIdx p.id) o = true → o.issuer = p.entry.issuer) ∧
   ∀ (s : State) (die : Nat), let s0 := reportUnfit s die
     (dieOf s die).status = .inService →
     (pick s0 die = none → exec (.recordPop die) s = .next s0) ∧
     ∀ p, pick s0 die = some p → p.resume = false →
       let r := p.entry.record
       let d := dieOf s die
       let unoffered := fun (j : Nat) => { (strandOf s j) with
         dueFor := if (strandOf s j).dueFor = some p.entry.issuer then none else (strandOf s j).dueFor }
       (recBad r = false → (coreOf s (coreIdx p.id)).enabled = true ∧ recPlaces r (coreIdx p.id) = true ∧
         ∃ t : State, exec (.recordPop die) s = .next t ∧ t.mem = s.mem ∧ (∀ j, j ≠ p.id → strandOf t j = unoffered j) ∧
         (landingOf t die p.landing).queue = (landingOf s die p.landing).queue.filter (fun e => e.issuer != p.entry.issuer) ∧
         (landingOf t die p.landing).spill = (landingOf s die p.landing).spill.filter (fun q => q.2.issuer != p.entry.issuer) ∧
         let x := strandOf t p.id
         x.slot = .run ∧ x.blocked = none ∧ x.pc = recCode r ∧ getReg x 1 = BitVec.ofNat 64 (recFrame r) ∧
         (∀ n, n ≠ 1 → getReg x n = 0) ∧ x.sflags = 0 ∧ x.cause = 0 ∧ x.epc = 0 ∧ x.tval = 0 ∧
         x.tvec = landingTvec d (recLanding r) ∧ x.record = r ∧ x.tag = p.entry.tag ∧ x.issuer = p.entry.issuer ∧
         (die < 4 → fld x.status 32 32 = 0) ∧ fld x.status 23 9 = coreIdx p.id % 512 ∧ fld x.status 21 2 = slotIdx p.id ∧
         fld x.status 16 5 = recLanding r ∧ fld x.status 8 8 = recStage r ∧ fld x.status 6 2 = recReplay r ∧
         fld x.status 3 3 = 0 ∧ fld x.status 0 2 = 0 ∧ stNoBays x = (recBays r == 0) ∧
         popN 4 x.arc.bays.toNat = recBays r ∧
         (landingVcount d p.landing = 0 → x.vault = 0) ∧
         (landingVcount d p.landing ≠ 0 → ∃ n < landingVcount d p.landing, n ∉ (landingOf s die p.landing).areas ∧
           x.vault = BitVec.ofNat 64 (landingVpool d (recLanding r) + n * 0x640000 + 1) ∧
           (landingOf t die p.landing).areas = (landingOf s die p.landing).areas ++ [n])) ∧
       (recBad r = true → ∃ t : State, exec (.recordPop die) s = .next t ∧ (∀ j, strandOf t j = unoffered j) ∧
         (landingOf t die p.landing).queue = (landingOf s die p.landing).queue.filter (fun e => e.issuer != p.entry.issuer) ∧
         (recCmpl r = 0 → recJoin r = 0 → t.mem = s.mem) ∧
         ∀ g, recCmpl r ≠ 0 → recJoin r = 0 → MemoriesWf s → Plain s g →
           endTarget s ⟨recLanding r, false, clusterIdx p.id, p.entry.tag, none⟩ (sidOf p.id 0) false (addr48 (recCmpl r)) = .ok g →
           targetRead t (clusterIdx p.id) g 8 =
             (completionWord (BitVec.ofNat 64 (targetRead s (clusterIdx p.id) g 8)) 0 (some cILLEGAL)).toNat)) ∧
  (∀ (s : State) (die : Nat) (p : Pick), pick s die = some p → p.resume = true →
     let base := fld p.entry.record.dw0 16 32 * 2 ^ 16
     let g := p.entry.issuer
     let ready : Strand := { Strand.reset p.id with
       tag := p.entry.tag, status := startStatus p.id p.entry.record, vault := BitVec.ofNat 64 (base + 1) }
     let codeAddr := fun (v : Word) => BitVec.ofNat 48 (v.toNat - v.toNat % 4)
     let img := vaultRead (setStrand s p.id ready) p.id (0x240000 / 8) (base + 0x400000)
     let unoffered := fun (j : Nat) => { (strandOf s j) with
       dueFor := if (strandOf s j).dueFor = some g then none else (strandOf s j).dueFor }
     let kept := (landingOf s die p.landing).saved.filter fun e => e.issuer != g
     (∀ m, img = .ok m → listGet 0 m 0 = 0x09600001 →
       let w := fun (off : Nat) => listGet (0 : Word) m (off / 8)
       ∃ t : State, exec (.resumeRecordPop die) s = .next t ∧ t.mem = s.mem ∧ (∀ j, j ≠ p.id → strandOf t j = unoffered j) ∧
       (landingOf t die p.landing).saved = kept ∧
       (∀ b < 4, bitsOf (resumeHeld p.entry.record).toNat b 1 = 1 →
         listGet none (coreOf t (coreIdx p.id)).bayOwner b = some (slotIdx p.id)) ∧
       let x := strandOf t p.id
       x.slot = .run ∧ x.blocked = none ∧ x.pc = codeAddr (w 0x008) ∧
       (∀ n : BitVec 5, n ≠ 0 → getReg x n = w (0x10 + 8 * (n.toNat - 1))) ∧ getReg x 0 = 0 ∧
       fld x.status 0 21 = fld (w 0x108 &&& ~~~0x10) 0 21 ∧ fld x.status 32 32 = 0 ∧ fld x.status 21 2 = slotIdx p.id ∧
       x.sflags = w 0x110 &&& 0x3FF ∧ x.cause = w 0x150 &&& 0x3F ∧ x.epc = (codeAddr (w 0x158)).zeroExtend 64 ∧ x.tval = w 0x160 ∧
       x.tvec = (codeAddr (w 0x168)).zeroExtend 64 ∧ x.vault = BitVec.ofNat 64 (base + 1) ∧
       x.arc.bays = resumeHeld p.entry.record ∧ x.arc.vcfg = w 0x118 &&& 0xFFBF ∧ x.arc.mfmt = w 0x120 &&& 0xDF00FF ∧ x.arc.vl = (w 0x128).toNat ∧
       x.arc.strip = w 0x130 ∧ x.arc.sidx = w 0x138 ∧ x.arc.chainsrc = w 0x140 &&& 0xBFF ∧ x.arc.lane = fld (w 0x148) 0 18 ∧
       x.record = p.entry.record ∧ x.tag = p.entry.tag ∧ x.issuer = g ∧
       let a := x.arc
       let slot := fun (k : Nat) => imageByte m 0x1A0 k
       a.recency = (List.range 32).map (fun i => imageByte m 0x1C0 i % 32) ∧ a.written = BitVec.ofNat 32 (w 0x1E0).toNat ∧
       (∀ b < 4, ∀ i < 4, (listGet 0 a.codebooks b).extractLsb' (64 * i) 64 = w (0x200 + 32 * b + 8 * i)) ∧
       a.held = (if fld (w 0x148) 63 1 = 1 then (List.range (fld (w 0x148) 56 6)).map fun i =>
         ⟨BitVec.ofNat 32 (w (0x400 + 32 * i)).toNat, codeAddr (w (0x408 + 32 * i)), w (0x410 + 32 * i),
           w (0x418 + 32 * i), i == 0⟩ else []) ∧
       a.heldPoint = codeAddr (w 0x178) ∧ x.stripHead = a.held.isEmpty ∧
       (∀ b < 4, bitsOf a.snapEnabled.toNat b 1 = fld (w (0x180 + 8 * b)) 30 1) ∧ a.snapRetired = p.entry.rows ∧
       (∀ q < 4, ∀ l < lanesOf a, maskBit a q l = (fld (w (0x1000 + 0x800 * q + 8 * (l / 64))) (l % 64) 1 == 1)) ∧
       (∀ k < 32, ∀ r < 32, ∀ h < 2, slot k = r + 32 * h → (∀ j < k, slot j ≠ r + 32 * h) → (∃ j < 32, slot j = r) →
         (h = 1 → vTwo a = true) → ∀ l < lanesOf a,
         bitsOf (listGet 0 (listGet [] a.regs r) l).toNat (32 * h) 32 = imageHalf m (0x20000 + 0x10000 * k) l) ∧
       (∀ r < 32, (∀ k < 32, slot k ≠ r) → listGet [] a.regs r = []) ∧
       (vTwo a = true → ∀ i < 16, listGet noReg a.resident i = if slot (2 * i) = 0xFF then noReg else slot (2 * i) % 32) ∧
       ∀ b r k, bayHeld a b = true → ((b, r, k) ∈ (coreOf t (coreIdx p.id)).parity ↔ k < 32 ∧ ∃ l < lanesOf a,
         laneRow a l = (b, r) ∧ popN 32 (imageHalf m (0x20000 + 0x10000 * k) l) % 2 ≠ bitsOf (imageHalf m 0x10000 l) k 1)) ∧
     ((∀ m, img = .ok m → listGet 0 m 0 ≠ 0x09600001) →
       let u := setStrand s p.id { Strand.reset p.id with issuer := g, tag := p.entry.tag }
       (endPending u p.id = true → ∃ t : State, exec (.resumeRecordPop die) s = .next t ∧ (strandOf t p.id).slot = .drain ∧
         (strandOf t p.id).issuer = g ∧ (landingOf t die p.landing).saved = kept ∧ t.mem = s.mem) ∧
       (endPending u p.id = false → opsOf u g = [] →
       ∃ t : State, exec (.resumeRecordPop die) s = .next t ∧ strandOf t p.id = Strand.reset p.id ∧
       (∀ j, j ≠ p.id → strandOf t j = unoffered j) ∧ (landingOf t die p.landing).saved = kept ∧
       (recCmpl p.entry.record = 0 → recJoin p.entry.record = 0 → t.mem = { s.mem with tags := t.mem.tags }) ∧
       ∀ q, recCmpl p.entry.record ≠ 0 → recJoin p.entry.record = 0 → MemoriesWf s → Plain s q →
         endTarget s ⟨recLanding p.entry.record, false, clusterIdx p.id, p.entry.tag, some (coreIdx p.id)⟩ (sidOf p.id 0) false
           (addr48 (recCmpl p.entry.record)) = .ok q →
         targetRead t (clusterIdx p.id) q 8 =
           (completionWord (BitVec.ofNat 64 (targetRead s (clusterIdx p.id) q 8)) 0 (some cVAULT)).toNat)))

/-- R262, R263, R272, R281: the head of the spill ring moves on-die while there is room, and is lost when its line is bad;
nothing enters or moves on-die in a landing with EN = 0. A waiting record whose counter is read as zero moves to the tail of
its landing, where the head of a full ring first moves on-die, or becomes eligible while that is full; with any other value
it waits with its watch placed again, and with a bad counter it is lost. Counters on HOST pages are polled. -/
def Obligations.SpillsAndCounters : Prop :=
  ∀ (s : State) (d : Nat),
    (∀ l i e r, (landingOf s d l).spill = (i, e) :: r → landingOn (dieOf s d) l = true →
      let k := landingSpbase (dieOf s d) l + 64 * i
      (lineBad s (k / 64) = true → ∃ t : State, exec (.spillRefill d l) s = .next t ∧ (landingOf t d l).spill = r ∧
        (landingOf t d l).queue = (landingOf s d l).queue ∧ t.pkg.foyer.losses = s.pkg.foyer.losses ++ [e.tag] ∧ t.mem = s.mem) ∧
      (lineBad s (k / 64) = false → 64 ≤ (landingOf s d l).queue.length → exec (.spillRefill d l) s = .next s) ∧
      (lineBad s (k / 64) = false → (landingOf s d l).queue.length < 64 → ∃ t f, exec (.spillRefill d l) s = .next t ∧
        (landingOf t d l).spill = r ∧
        (landingOf t d l).queue = (landingOf s d l).queue ++ [f] ∧ t.mem = s.mem ∧ t.strands = s.strands ∧ f.record.dw0.toNat = physRead s k 8 ∧
        f.record.dw1.toNat = physRead s (k + 8) 8 ∧ f.record.dw2.toNat = physRead s (k + 16) 8 ∧ f.record.dw3.toNat = physRead s (k + 24) 8 ∧
        f.tag = physRead s (k + 32) 2 ∧ f.issuer = e.issuer)) ∧
    (∀ l, landingOn (dieOf s d) l = false → exec (.spillRefill d l) s = .next s) ∧
    (∀ i w, (dieOf s d).waitPool[i]? = some w → w.eligible = false → poolWatched s w = false →
      let g := placeTarget w.counter
      let l := recLanding w.entry.record
      let all := fun (s : State) => (landingOf s d l).queue ++ (landingOf s d l).spill.map (·.2)
      let on := landingOn (dieOf s d) l = true
      let room := (landingOf s d l).spill = [] ∨ (landingOf s d l).spill.length < landingSpcap (dieOf s d) l
      ((targetBad s 0 g 8 || unreachableTarget s (hubSid 0) g) = true → ∃ t : State, exec (.counterReread d i) s = .next t ∧
        (dieOf t d).waitPool = (dieOf s d).waitPool.eraseIdx i ∧
        t.pkg.foyer.losses = s.pkg.foyer.losses ++ [w.entry.tag]) ∧
      ((targetBad s 0 g 8 || unreachableTarget s (hubSid 0) g) = false →
        (targetRead s 0 g 8 ≠ 0 → ∃ t : State, exec (.counterReread d i) s = .next t ∧ t.dies = s.dies ∧ poolWatched t w = true ∧
          t.strands = s.strands ∧ ∀ c r, targetRead t c r 1 = targetRead s c r 1) ∧
        (targetRead s 0 g 8 = 0 → on → landingFull s d l = false → ∃ t : State, exec (.counterReread d i) s = .next t ∧
          (dieOf t d).waitPool = (dieOf s d).waitPool.eraseIdx i ∧ t.strands = s.strands ∧
          (room → all t = all s ++ [w.entry]) ∧
          ∀ j e r, (landingOf s d l).spill = (j, e) :: r → landingSpcap (dieOf s d) l ≤ (landingOf s d l).spill.length →
            r.length < landingSpcap (dieOf s d) l → r ≠ [] →
            lineBad s ((landingSpbase (dieOf s d) l + 64 * j) / 64) = false → ∃ f : Entry, f.issuer = e.issuer ∧
            (landingOf t d l).queue = (landingOf s d l).queue ++ [f] ∧
            (landingOf t d l).spill.map (·.2) = r.map (·.2) ++ [w.entry]) ∧
        (targetRead s 0 g 8 = 0 → (¬ on ∨ landingFull s d l = true) → ∃ t : State, exec (.counterReread d i) s = .next t ∧
          (dieOf t d).waitPool = (dieOf s d).waitPool.set i { w with eligible := true } ∧ all t = all s))) ∧
    ∀ w a sl, (dieOf s d).waitPool = [w] → w.counter = ⟨2, a, sl⟩ → w.eligible = false →
      (∀ id, dieIdx id = d → (strandOf s id).slot ≠ .park) →
      let l := recLanding w.entry.record
      (cellsRead s.mem.host a 8 ≠ 0 → ∃ t : State, exec (.hostPoll d) s = .next t ∧ t.dies = s.dies ∧ t.strands = s.strands) ∧
      (cellsRead s.mem.host a 8 = 0 → landingOn (dieOf s d) l = true → landingFull s d l = false →
        ((landingOf s d l).spill = [] ∨ (landingOf s d l).spill.length < landingSpcap (dieOf s d) l) →
        ∃ t : State, exec (.hostPoll d) s = .next t ∧
        (dieOf t d).waitPool = [] ∧ (landingOf t d l).queue ++ (landingOf t d l).spill.map (·.2) =
          (landingOf s d l).queue ++ (landingOf s d l).spill.map (·.2) ++ [w.entry])

/-- R277: a record that has waited for its period makes the strand of lowest PRIO due, then the one running longest, then the
lowest coordinate and slot, among those that run in its placement with a Vault and outside NEST = 1: strands of lower PRIO,
or strands of another landing of equal PRIO with a slice. R278, R230: the limits that force a due pre-emption, or break its
deferral by links after 256 instructions.

R101, R103, R230, R278: a due pre-emption is taken outside NEST = 1, at a point where the strand may be saved, unless its
links defer it, the trap of PTRAP as well as the save (log entry 55), and a trap comes after the entries of the VIQ, but for
a VWAITM or an MXDRN that itself waits there: with PTRAP the strand first traps with PREEMPT, otherwise its save begins; it
leaves the waits of its core and its watches are cleared. Anywhere else nothing happens. Links defer it when one that no
store has used is left, for 256 instructions. -/
def Obligations.Preemption : Prop :=
  ((∀ (s : State) (d l : Nat) (p q : List Entry) (e : Entry),
     let k := dieOf s d
     let made := fun (e : Entry) => s.strands.any fun x => x.2.due && x.2.dueFor == some e.issuer
     let below := fun (t : Strand) => decide (landingPrio k (stLanding t) < landingPrio k l)
     let equal := fun (t : Strand) => stLanding t != l && landingPrio k (stLanding t) == landingPrio k l &&
       landingSlice k (stLanding t) != 0
     let victim := fun (g : Strand → Bool) (x : Nat × Strand) => canBeVictim s d l e x.1 x.2 && g x.2
     let effect := fun (i : Instr) (g : Strand → Bool) => ∀ y ∈ s.strands, victim g y = true →
       ∃ v ∈ s.strands, victim g v = true ∧
         exec i s = .next (setStrand s v.1 { (strandOf s v.1) with due := true, dueFor := some e.issuer }) ∧
         ∀ z ∈ s.strands, victim g z = true →
           landingPrio k (stLanding v.2) < landingPrio k (stLanding z.2) ∨
           (landingPrio k (stLanding v.2) = landingPrio k (stLanding z.2) ∧
             (v.2.started < z.2.started ∨ (v.2.started = z.2.started ∧ v.1 ≤ z.1)))
     waitingRecords s d l = p ++ e :: q → (∀ f ∈ p, (cannotPop s d l f && !made f) = false) → cannotPop s d l e = true →
     made e = false → landingPops k l = true →
     effect (.priorityPreemption d l) below ∧
     (landingSlice k l ≠ 0 → effect (.sharePreemption d l) equal)) ∧
   (∀ (s : State) (d l : Nat), (∀ e ∈ waitingRecords s d l, cannotPop s d l e = false) →
     exec (.priorityPreemption d l) s = .next s ∧ exec (.sharePreemption d l) s = .next s) ∧
   ∀ (s : State) (id : Nat),
     ((strandOf s id).due = true → exec (.preemptForceLimit id) s =
       .next (setStrand s id { (strandOf s id) with dueForced := true })) ∧
     ((strandOf s id).due = false → exec (.preemptForceLimit id) s = .next s) ∧
     ((∃ g ∈ s.mem.tags, g.watch = false ∧ g.strand = some id) → 256 ≤ (strandOf s id).linkCount → exec (.linkDeferLimit id) s =
       .next (setStrand s id { (strandOf s id) with linkDeferOver := true })) ∧
     ((∀ g ∈ s.mem.tags, g.watch = true ∨ g.strand ≠ some id) → exec (.linkDeferLimit id) s = .next s) ∧
     ((strandOf s id).linkCount < 256 → exec (.linkDeferLimit id) s = .next s)) ∧
  (∀ (s : State) (id : Nat),
     let t := strandOf s id
     let taken := t.due = true ∧ stNest t = false ∧ atSavePoint t = true ∧ linksDefer s id = false ∧
       ¬ (t.arc.viq ≠ [] ∧ claimOnly t = false ∧ stPtrap t = true ∧ t.preemptTrapped = false ∧
         ¬ (t.slot = .park ∧ ∃ c b i m p g z o, t.blocked = some (.vwaitm c b i m p g z o)))
     (linksDefer s id = true ↔ t.linkDeferOver = false ∧ t.linkCount < 256 ∧
       ∃ g ∈ s.mem.tags, g.watch = false ∧ g.strand = some id ∧ g.stored = false) ∧
     (preemptsHere s id = true ↔ taken) ∧
     (¬ taken → exec (.preemptionTaken id) s = .next s) ∧
     (taken → ∃ u : State, exec (.preemptionTaken id) s = .next u ∧ (∀ j, j ≠ id → strandOf u j = strandOf s j) ∧
       (∀ q ∈ (coreOf u (coreIdx id)).bayRequests, q.1 ≠ slotIdx id) ∧
       slotIdx id ∉ (coreOf u (coreIdx id)).mezz.waiters ∧ (∀ g ∈ u.mem.tags, g.watch = false ∨ g.strand ≠ some id) ∧
       (∀ c r, targetRead u c r 1 = targetRead s c r 1) ∧
       (stPtrap t = true → t.preemptTrapped = false → strandOf u id =
         entered cPREEMPT 0 ((withdraw t).pc.zeroExtend 64) { (withdraw t) with preemptTrapped := true }) ∧
       (stPtrap t = false ∨ t.preemptTrapped = true → strandOf u id =
         { (withdraw t) with slot := .save, hostAnswer := none, blocked := none })))

/-- R231, R232, R234, R279: the save writes its image, doubleword by doubleword, at VAULT.BASE + 0x40_0000, frees the slot and
its bays, and appends the resume record to the save list of the strand's landing, with its launch tag and issuer tag; the
slot is first offered to the record that made the pre-emption due, if it still waits. A save that cannot be written, or a
strand without VAULT.V, abandons the save: no bay is freed and the strand traps with VAULT, TVAL being the address that
failed. The image holds every field of R231, its reserved ranges zeros. That an abandoned save is no longer due, and that a
message goes back to its port, are the model's readings (log entries 24, 44). That a FREE slot's registers read as after
reset is the model's choice (log entry 5). -/
def Obligations.ContextSave : Prop :=
  (∀ (s : State) (id : Nat),
    let t := strandOf s id
    let die := dieIdx id
    let l := stLanding t
    let r := resumeRecord t id
    let write := vaultWrite id (saveImage s id) (saveBase t) s
    t.slot = .save → savePending s id = false → t.arc.viq = [] → t.arc.results = [] →
    (vaultOn t = false → exec (.contextSaveComplete id) s =
      .next (abandonSave s id (BitVec.ofNat 64 (fld t.vault 16 32 * 2 ^ 16 + 0x400000)))) ∧
    (∀ a u, vaultOn t = true → write = .error (a, u) →
      exec (.contextSaveComplete id) s = .next (abandonSave u id (BitVec.ofNat 64 a))) ∧
    (∀ u, vaultOn t = true → write = .ok u → ∃ w e, exec (.contextSaveComplete id) s = .next w ∧
      strandOf w id = Strand.reset id ∧ w.mem.dram = u.mem.dram ∧ w.mem.l2 = u.mem.l2 ∧
      (∀ b < 4, listGet none (coreOf w (coreIdx id)).bayOwner b ≠ some (slotIdx id)) ∧
      (landingOf w die l).saved = (landingOf s die l).saved ++ [e] ∧ e.record = r ∧ e.tag = t.tag ∧ e.issuer = t.issuer ∧
      e.area = t.vaultArea ∧ e.rows = t.arc.snapRetired ∧
      (dieOf w die).offers = (dieOf s die).offers ++ ((t.dueFor.toList.filter fun n => (List.range 32).any fun m =>
        ((landingOf w die m).saved ++ (landingOf w die m).queue ++ (landingOf w die m).spill.map (·.2)).any
          fun x => x.issuer == n).map fun n => (id, n)) ∧
      (landingOf w die l).areas = (landingOf s die l).areas) ∧
    recBays r = popN 4 t.arc.bays.toNat ∧ recLanding r = l ∧ recStage r = fld t.status 8 8 ∧
    r.dw0.toNat % 2 ^ 48 = fld t.vault 16 32 * 2 ^ 16 ∧ recReplay r = fld t.status 6 2 ∧
    resumeHeld r = t.arc.bays ∧ (id < 2048 → r.dw1.toNat / 2 ^ 63 = 1 ∧ resumeCore r = coreIdx id) ∧ r.dw2 = t.record.dw2 ∧ r.dw3 = t.record.dw3) ∧
  (∀ (s : State) (id : Nat) (x : Word),
    let t := strandOf s id
    abandonSave s id x = setStrand s id (trapped cVAULT x (t.pc.zeroExtend 64)
      { t with due := false, dueForced := false, dueFor := none, preemptTrapped := false })) ∧
  ∀ (s : State) (id : Nat),
    let t := strandOf s id
    let img := fun (off : Nat) => listGet (0 : Word) (saveImage s id) (off / 8)
    (saveImage s id).length = 0x240000 / 8 ∧ img 0 = 0x09600001 ∧ img 0x008 = t.pc.zeroExtend 64 ∧
    (∀ n : BitVec 5, n ≠ 0 → img (0x10 + 8 * (n.toNat - 1)) = getReg t n) ∧ img 0x108 = t.status ∧ img 0x110 = t.sflags ∧
    img 0x118 = t.arc.vcfg ∧ img 0x120 = t.arc.mfmt ∧ img 0x128 = BitVec.ofNat 64 t.arc.vl ∧ img 0x130 = t.arc.strip ∧
    img 0x138 = t.arc.sidx ∧ img 0x140 = t.arc.chainsrc ∧ img 0x150 = t.cause ∧ img 0x158 = t.epc ∧ img 0x160 = t.tval ∧
    img 0x168 = t.tvec ∧ img 0x148 = vresumeWord t.arc ∧ img 0x170 = baysWord t.arc ∧ img 0x178 = t.arc.heldPoint.zeroExtend 64 ∧
    (∀ b < 4, img (0x180 + 8 * b) = lanemapWord t.arc b) ∧ img 0x1E0 = t.arc.written.zeroExtend 64 ∧
    (∀ b < 4, ∀ i < 4, img (0x200 + 32 * b + 8 * i) = (listGet 0 t.arc.codebooks b).extractLsb' (64 * i) 64) ∧
    (∀ n < 32, (∀ h, t.arc.held[n]? = some h → img (0x400 + 32 * n) = h.word.zeroExtend 64 ∧
      img (0x408 + 32 * n) = h.pc.zeroExtend 64 ∧ img (0x410 + 32 * n) = h.op1 ∧ img (0x418 + 32 * n) = h.op2) ∧
      (t.arc.held.length ≤ n → ∀ i < 4, img (0x400 + 32 * n + 8 * i) = 0)) ∧
    ((∀ r ∈ t.arc.recency, r < 256) → ∀ k < 32, imageByte (saveImage s id) 0x1C0 k = listGet 0 t.arc.recency k) ∧
    ((∀ r ∈ t.arc.resident, r ≤ noReg) → ∀ k < 32,
      let r := listGet noReg t.arc.resident (k / 2)
      imageByte (saveImage s id) 0x1A0 k =
        if t.arc.bays = 0 then 0xFF else if vTwo t.arc = false then k else if r = noReg then 0xFF else r + 32 * (k % 2)) ∧
    (∀ k < 32, ∀ lane < 16384,
      let r := listGet noReg t.arc.resident (k / 2)
      let elem := fun (r : Nat) => (listGet 0 (listGet [] t.arc.regs r) lane).toNat
      let half := imageHalf (saveImage s id) (0x20000 + 0x10000 * k) lane
      (half = if lanesOf t.arc ≤ lane ∨ t.arc.bays = 0 then 0 else if vTwo t.arc = false then elem k % 2 ^ 32
        else if r = noReg then 0 else elem r / 2 ^ (32 * (k % 2)) % 2 ^ 32) ∧
      bitsOf (imageHalf (saveImage s id) 0x10000 lane) k 1 = if lanesOf t.arc ≤ lane then 0 else
        (popN 32 half + if ((laneRow t.arc lane).1, (laneRow t.arc lane).2, k) ∈ (coreOf s (coreIdx id)).parity then 1 else 0) % 2) ∧
    (∀ i, (0x1E8 ≤ 8 * i ∧ 8 * i < 0x200) ∨ (0x280 ≤ 8 * i ∧ 8 * i < 0x400) ∨ (0x800 ≤ 8 * i ∧ 8 * i < 0x1000) ∨
      (0x3000 ≤ 8 * i ∧ 8 * i < 0x10000) ∨ 0x220000 ≤ 8 * i → listGet (0 : Word) (saveImage s id) i = 0) ∧
    (∀ m < 4, ∀ lane < 16384, fld (img (0x1000 + 0x800 * m + 8 * (lane / 64))) (lane % 64) 1 =
      if lane < lanesOf t.arc ∧ listGet false (listGet [] t.arc.masks m) lane = true then 1 else 0)

/-! ## Cores, waits and caches -/

/-- R276: at a boundary, of the core's slots with a ready entry that needs the sequencer, it serves one whose landing has the
largest deficit, then the lower landing, then the lower slot; while no ready landing has a deficit above 0, each first gains
its weight, up to that value. A strand that is served is served until its next boundary.

R79, R197, R259: a wait longer than the watchdog period of the strand's landing traps with WATCHDOG at its instruction and
has consumed nothing, a message that it has received going back to its port; a landing without a period never does. R229:
the oldest entry of a VIQ, which waits on the array side while the control side goes on, traps with it and every younger
entry held; a wait of the control side behind such an entry does not trap before it (R101).

R79, R97, R223, R224: a parked instruction runs again: it goes on, or parks again, or waits on if it would trap behind
entries of the VIQ that have not completed (R101). The host's answer lets an access to a HOST page go on, and the oldest
entry of a VIQ that waits for it; a parked VWAITM on a HOST page is tested with it, and polls test it likewise. A parked
WAIT that is woken ends. That ARRAY_TRAP needs a redispatched entry is the model's reading (log entry 25). What a host
answer does is the model's reading (log entry 13), and so are what ends a parked WAIT (log entry 40), the claim that stays
after a WATCHDOG, its side, and that a parked instruction does not trap before an older entry of the VIQ (log entries 67,
83). -/
def Obligations.SequencerAndWaits : Prop :=
  (∀ (s : State) (c : Nat),
     let ready := (List.range 4).filter fun k => sequencerReady s (4 * c + k)
     let land := fun (k : Nat) => stLanding (strandOf s (4 * c + k))
     let weight := fun (l : Nat) => (landingWeight (dieOf s (c / 128)) l * 2 ^ 20 : Int)
     let old := deficitOf (coreOf s c)
     let refill := ∀ k ∈ ready, old (land k) ≤ 0
     (ready = [] → exec (.sequencerSelect c) s = .next s) ∧
     ((served s c).isSome = true → exec (.sequencerSelect c) s = .next s) ∧
     (served s c = none → ready ≠ [] → ∃ t, ∃ k ∈ ready, exec (.sequencerSelect c) s = .next t ∧ (coreOf t c).sequencer = some k ∧
       let new := deficitOf (coreOf t c)
       (∀ j ∈ ready, new (land j) < new (land k) ∨
         (new (land j) = new (land k) ∧ (land k < land j ∨ (land k = land j ∧ k ≤ j)))) ∧
       (refill → ∃ n : Nat, 0 < n ∧ (∀ j ∈ ready, new (land j) = min (old (land j) + n * weight (land j)) (weight (land j))) ∧
         ((∃ j ∈ ready, 0 < weight (land j)) → (∃ j ∈ ready, 0 < new (land j)) ∧
           ∀ m < n, ∀ j ∈ ready, old (land j) + m * weight (land j) ≤ 0)) ∧
       (¬ refill → ∀ l, new l = old l) ∧ (∀ l, (∀ j ∈ ready, land j ≠ l) → new l = old l) ∧
       t.strands = s.strands ∧ t.mem = s.mem ∧ t.dies = s.dies ∧ ∀ d, d ≠ c → coreOf t d = coreOf s d)) ∧
  (∀ (s : State) (id : Nat),
     let t := strandOf s id
     let held := fun (i : Instr) (o : Vop) (cause : Nat) (v : Word) (lane : Nat) => stNest t = false →
       ∃ u : State, exec i s = .next u ∧ HeldTrap { s with cur := id } { u with cur := id } o cause v lane ∧
         (∀ j, j ≠ id → strandOf u j = strandOf s j) ∧ (∀ c r, targetRead u c r 1 = targetRead s c r 1) ∧
         (∀ k, (coreOf u k).mezz = (coreOf s k).mezz) ∧
         (t.arc.chainIn = none ∨ lane ≠ 0 → ∀ k p, listGet [] (coreOf u k).ports p = listGet [] (coreOf s k).ports p) ∧
         ∀ k p m, lane = 0 → t.arc.chainIn = some (k, p, m) → (strandOf u id).arc.chainIn = none ∧
           listGet [] (coreOf u k).ports p = m :: listGet [] (coreOf s k).ports p
     let here := ∃ u : State, exec (.watchdog id) s = .next u ∧ strandOf u id = trapped cWATCHDOG 0 (t.pc.zeroExtend 64) t ∧
         (∀ j, j ≠ id → strandOf u j = strandOf s j) ∧ u.cores = s.cores ∧ ∀ c r, targetRead u c r 1 = targetRead s c r 1
     (watchdogOn s id = false → exec (.watchdog id) s = .next s) ∧
     (watchdogOn s id = true →
       (∀ a b, t.slot = .park → t.blocked ∈ [some (.semwait a b), some (.barwait a b), some (.uwait a), some (.collw a b),
         some .endWait] → t.arc.waits = none → here) ∧
       (∀ (h : Held) (r : List Held) (a : ArrayWait), t.arc.viq = h :: r → t.arc.waits = some a →
         (∀ x b n m, (a = .mxtld x b ∨ a = .mxr n m) → held (.watchdog id) ⟨h.word, h.op1, h.op2⟩ cWATCHDOG 0 0) ∧
         (∀ x p, (a = .chain ∨ a = .portSpace x p) → held (.watchdog id) ⟨h.word, h.op1, h.op2⟩ cWATCHDOG 0 t.arc.lane) ∧
         (∀ o b c, t.slot = .park → (a = .host o ∨ a = .turn) → t.blocked ∈ [some (.semwait b c), some (.barwait b c),
           some (.uwait b), some (.collw b c), some .endWait] → exec (.watchdog id) s = .next s)) ∧
       (∀ c b i m p g z o w, encode (.vwaitm c b i m p g z o) = some w → t.arc.waits = none →
         t.blocked = some (.vwaitm c b i m p g z o) → held (.watchdog id) (vop s id w c b) cWATCHDOG 0 0)) ∧
     ∀ (h : Held) (r : List Held) (c : BitVec 6) (v : Word) (lane : Nat), t.slot = .run → t.arc.viq = h :: r →
       (h.word.toNat / 2 ^ 26 = 0x30 → (h.word.toNat % 256 ≠ 4 ∨ c.toNat ∉ [cVAULT, cARCADE_PARITY]) →
         exec (.arrayTrap id c v lane) s = .next s) ∧
       (wordRaises h.word c.toNat = false → exec (.arrayTrap id c v lane) s = .next s) ∧
       (wordRaises h.word c.toNat = true → held (.arrayTrap id c v lane) ⟨h.word, h.op1, h.op2⟩ c.toNat v lane) ∧
       (wordRaises h.word c.toNat = true → stNest t = true → ∃ u : State, exec (.arrayTrap id c v lane) s = .next u ∧ strandOf u id =
         failed c.toNat { t with arc := { t.arc with chainIn := if lane = 0 then none else t.arc.chainIn } })) ∧
  ((∀ (s u : State) (id : Nat) (i : Instr) (b : Block) (x y z : BitVec 5) (m : BitVec 2) (p g w : BitVec 1) (o : BitVec 2),
     (i, b) ∈ [(.semwait x y, .semwait x y), (.barwait x y, .barwait x y), (.uwait x, .uwait x), (.collw x y, .collw x y),
       (.endStrand, .endWait), ((.vwaitm x y z m p g w o, .vwaitm x y z m p g w o) : Instr × Block)] →
     (strandOf s id).slot = .park → (strandOf s id).blocked = some b →
     exec i { (setStrand s id { (strandOf s id) with slot := .run }) with cur := id } = .next u →
     let on := (strandOf u id).blocked = some .hostPage ∨ trapsEarly (strandOf s id) (strandOf u id) = true
     (on → exec (.parkWake id) s = .next s) ∧
     (¬ on → (strandOf u id).slot ≠ .park → exec (.parkWake id) s = .next { u with cur := s.cur }) ∧
     (¬ on → (strandOf u id).slot = .park →
       exec (.parkWake id) s = .next { (setStrand u id { (strandOf u id) with hostAnswer := none }) with cur := s.cur })) ∧
   ∀ (s : State) (id : Nat),
     let t := strandOf s id
     (t.slot ≠ .park → exec (.parkWake id) s = .next s) ∧
     (t.slot = .park → t.blocked = some .wait → exec (.parkWake id) s = .next (setStrand s id { past t with slot := .run })) ∧
     (∀ ok, t.slot = .run → t.blocked ≠ some .hostPage → t.arc.waits = some (.host none) → exec (.hostCompletion id ok) s =
       .next (setStrand s id { t with arc := { t.arc with waits := some (.host (some ok)) } })) ∧
     (∀ ok, (t.slot = .run ∨ t.slot = .save) → t.blocked = some .hostPage → exec (.hostCompletion id ok) s =
       .next (setStrand s id { t with hostAnswer := some ok })) ∧
     ∀ ok x y z m p g w o, t.slot = .park → t.blocked = some (.vwaitm x y z m p g w o) →
       exec (.hostCompletion id ok) s = exec (.parkWake id) (setStrand s id { t with hostAnswer := some ok }) ∧
       (busyStrands s (fun i t => dieIdx i == dieIdx id && t.slot == .park) = [id] → (dieOf s (dieIdx id)).waitPool = [] →
         exec (.hostPoll (dieIdx id)) s = exec (.hostCompletion id true) s))

/-- R281, R4, R341: a core that is disabled loses its strands: every slot is FREE, each lost strand's launch tag is reported to
the Foyer, and the core is disabled. While another part is out, the loss of a core is a fatal error.

R125: the Usher retires a row that has failed three times within the window and no other; a bay that this disables stays
available to the strands that have it; a scrub of an idle bay reports each of its rows that holds a mismatch, and changes
nothing else. -/
def Obligations.CoresAndRows : Prop :=
  (∀ (s : State) (c : Nat),
     (partOut s = none → ∃ t : State, exec (.coreDisable c) s = .next t ∧ (coreOf t c).enabled = false ∧
       (∀ k < 4, (strandOf t (4 * c + k)).slot = .free) ∧
       ∀ k < 4, (strandOf s (4 * c + k)).slot ≠ .free → (strandOf s (4 * c + k)).tag ∈ t.pkg.foyer.losses) ∧
     ∀ d, partOut s = some d → s.pkg.fatal = none → ∃ t : State, exec (.coreDisable c) s = .next t ∧ t.pkg.fatal = some (0, d) ∧
       t.pkg.hostFatal = true ∧ t.strands = s.strands) ∧
  (∀ (s : State) (c b r : Nat),
     (b < 4 → r < 4096 → rowFailing s.pkg.usher c b r = true → ∃ t : State, exec (.rowRetirement c b r) s = .next t ∧
       (∀ x, x ∈ listGet [] (coreOf t c).retired b ↔ x = r ∨ x ∈ listGet [] (coreOf s c).retired b) ∧
       (∀ d, d ≠ b → listGet [] (coreOf t c).retired d = listGet [] (coreOf s c).retired d) ∧ t.strands = s.strands ∧
       t.mem = s.mem ∧ t.pkg = s.pkg ∧ (bayEnabled (coreOf s c) b = true → bayEnabled (coreOf t c) b = false →
         ∀ g ∈ bayNamers s c b, (b, g) ∈ (coreOf t c).keepers)) ∧
     (rowFailing s.pkg.usher c b r = false → exec (.rowRetirement c b r) s = .next s) ∧
     (b < 4 → listGet none (coreOf s c).bayOwner b = none → ∃ t : State, exec (.usherScrub c b) s = .next t ∧ t.cores = s.cores ∧
       t.strands = s.strands ∧ t.mem = s.mem ∧
       ∀ x, (∃ k, (b, x, k) ∈ (coreOf s c).parity) → (c, b, x, s.pkg.usher.time) ∈ t.pkg.usher.detections))

/-- R207, R295, R299, R301, R302, R305-R310: CFLUSH of a line writes it back to HBM and leaves it clean; CINV then drops it, and
no byte changes that is not reached through a SEALED page. A dirty coded line is encoded into its carrier, counted, and
takes the values that its block decodes to. A range need not begin at a line: its lines are those that it overlaps, and
several are flushed as the first and then the rest are, whichever registers name it; lines of the Atrium, of PEER and of
HOST pages are skipped; a line that does not translate traps with its address. A length above 2^30 is ILLEGAL; both wait for
the strand's unacknowledged SC writes. CPREF has no effect. TLBINV is privileged, waits for the accesses of its scope, drops
the cached entries that it names, and refreshes what its scope names.

R285, R289, R302, R319: a fill decodes a coded line, or holds a plain one, without changing a byte; an eviction writes a
dirty line back and drops it, and an uncorrectable error there, or one that it is held with, poisons its DRAM line; an error
of a clean line goes with it; a hash register takes its writable bits while the die holds no line, and is otherwise only
reported. Which translations are cached is an input (log entry 16), L2 fills are events of their own (log entry 68), and
that a bad sB is ILLEGAL before PRIV its reading (log entry 48). That a codec write whose carrier cannot be read or written
loses its line is the model's choice (log entry 88). -/
def Obligations.Caches : Prop :=
  (∀ (s : State) (a b : BitVec 5) (p n : Word), p = reg s s.cur a → n = reg s s.cur b →
     (∀ i ∈ ([.cflush a b, .cinv a b, .cpref a b] : List Instr), 2 ^ 30 < n.toNat →
       ∀ w, encode i = some w → TrapsHere s i cILLEGAL (w.zeroExtend 64)) ∧
     (n.toNat ≤ 2 ^ 30 → Completes s (.cpref a b) past) ∧
     (streamFenced s s.cur 0 = true ∨ (∃ u ∈ s.net.unacked, u.sid = sidOf s.cur 0) → n.toNat ≤ 2 ^ 30 → ∀ i ∈ ([.cflush a b, .cinv a b] : List Instr),
       Completes s i fun t => { t with blocked := some (.remote 0) }) ∧
     (streamFenced s s.cur 0 = false → (∀ u ∈ s.net.unacked, u.sid ≠ sidOf s.cur 0) → ∀ i ∈ ([.cflush a b, .cinv a b] : List Instr),
       (n = 0 → Completes s i past) ∧
       (n ≠ 0 → p.toNat % 64 + n.toNat ≤ 64 → let x := p &&& ~~~63
         (∀ f, translate s (agentOf s s.cur) false x = .error f → ∃ t : State, exec i s = .next t ∧ t.mem = s.mem ∧
           strandOf t s.cur = trapped f.cause x (pcOf s) (strandOf s s.cur)) ∧
         ∀ q, translate s (agentOf s s.cur) false x = .ok q → ∃ t : State, exec i s = .next t ∧
           strandOf t s.cur = past (strandOf s s.cur) ∧ (∀ j, j ≠ s.cur → strandOf t j = strandOf s j) ∧
           (∀ o, q = .atrium o ∨ q = .host o ∨ (∃ sl, q = .phys o sl ∧ 2 ^ 40 ≤ o) → t.mem = s.mem) ∧
           (∀ k sl, q = .phys k sl → k < 2 ^ 40 → MemoriesWf s →
             (∀ l, tblFind t.mem.l2 (k / 64) = some l → l.dirty = false) ∧
             (i = .cinv a b → lineNow t (k / 64) false = dramLine t.mem (k / 64)) ∧
             (lineBad s (k / 64) = false → stackLost s (k / 64) = false →
               ∀ l, tblFind s.mem.l2 (k / 64) = some l → l.dirty = true → dramLine t.mem (k / 64) = lineNow s (k / 64) false) ∧
             (lineBad s (k / 64) = false → stackLost s (k / 64) = false → i = .cflush a b ∨ (∀ l, tblFind s.mem.l2 (k / 64) = some l → l.dirty = true ∧ l.isSealed = false) →
               ∀ c r, targetRead t c r 1 = targetRead s c r 1)) ∧
           ∀ r o sl, q = .coded r o sl →
             let j := o / 64
             let g := regionOf s r
             let n := blockPa g j / 64
             (∀ l, tblFind t.mem.coded (codedKey r j) = some l → l.dirty = false) ∧
             (i = .cinv a b → tblFind t.mem.coded (codedKey r j) = none) ∧
             (∀ l, tblFind s.mem.coded (codedKey r j) = some l → l.dirty = true → l.isSealed = false → g.rbase.toNat % 64 = 0 →
               MemoriesWf s → codedBad s r j = false → lineBad s n = false → stackLost s n = false →
               let rate := regionRate g
               let code := encodeBlock rate (lineDoubles l.data)
               let values := (decodeBlock rate code).1
               lineBits (lineNow t n false) (blockPa g j % 64) (codedRate rate) = code % 2 ^ (8 * codedRate rate) ∧
               (regionOf t r).enccnt = g.enccnt + 1 ∧
               (i = .cflush a b → tblFind t.mem.coded (codedKey r j) = some { l with data := lineOfDoubles values, dirty := false }))) ∧
       (64 < p.toNat % 64 + n.toNat → n.toNat ≤ 2 ^ 30 →
         let k := 64 - BitVec.ofNat 64 (p.toNat % 64)
         ∀ q, translate s (agentOf s s.cur) false (p &&& ~~~63) = .ok q →
         ∀ j, (i, j) ∈ ([(.cflush a b, .cflush 1 2), (.cinv a b, .cinv 1 2)] : List (Instr × Instr)) →
         ∀ t1, exec j (setReg (setReg s s.cur 1 p) s.cur 2 k) = .next t1 →
         ∀ t2, exec j (setReg (setReg { s with mem := t1.mem, pkg := t1.pkg } s.cur 1 (p + k)) s.cur 2 (n - k)) = .next t2 →
         ∃ t : State, exec i s = .next t ∧ t.mem = t2.mem ∧ t.pkg = t2.pkg ∧ (strandOf t s.cur).regs = (strandOf s s.cur).regs ∧
           (strandOf t s.cur).pc = (strandOf t2 s.cur).pc ∧ (strandOf t s.cur).tval = (strandOf t2 s.cur).tval ∧
           (strandOf t s.cur).cause = (strandOf t2 s.cur).cause)) ∧
     ∀ (k : BitVec 3), 
       let bad := 5 ≤ k.toNat ∨ fld n 38 26 ≠ 0 ∨ (fld n 37 1 = 1 ∧ fld n 32 5 ≠ 0) ∨
         (fld n 0 32 ≠ 0 ∧ ¬ (p.toNat < 2 ^ 47 ∨ 2 ^ 64 - 2 ^ 47 ≤ p.toNat))
       let busy := unperformed s s.cur = true ∨ inFlight s s.cur k.toNat = true
       let gone := fun (e : TlbEntry) => inScope s.cur k.toNat e.unit && (fld n 37 1 == 1 || e.ctx == fld n 32 5) &&
         entryOverlaps e (va48 p) (fld n 0 32)
       let dropped := fun (t : State) => t.mem = { s.mem with tlb := s.mem.tlb.filter fun e => !gone e }
       let ready := ¬ bad ∧ stSuper (strandOf s s.cur) = true ∧ ¬ busy
       (∀ w, encode (.tlbinv a b k) = some w →
         (bad → TrapsHere s (.tlbinv a b k) cILLEGAL (w.zeroExtend 64)) ∧
         (¬ bad → stSuper (strandOf s s.cur) = false → TrapsHere s (.tlbinv a b k) cPRIV (w.zeroExtend 64))) ∧
       (¬ bad → stSuper (strandOf s s.cur) = true → busy →
         Completes s (.tlbinv a b k) fun t => { t with blocked := some (.remote 0) }) ∧
       (ready → k.toNat < 3 → ∃ t : State, exec (.tlbinv a b k) s = .next t ∧ dropped t ∧
         strandOf t s.cur = past (strandOf s s.cur) ∧ (∀ j, j ≠ s.cur → strandOf t j = strandOf s j) ∧ t.pkg = s.pkg ∧
         t.dies = s.dies ∧ t.cores = s.cores ∧ t.clusters = s.clusters ∧ t.net = s.net) ∧
       (ready → k = 3 → ∃ t : State, exec (.tlbinv a b k) s = .next t ∧ dropped t ∧
         (strandOf t s.cur).pc = (strandOf s s.cur).pc + 4 ∧ (strandOf t s.cur).regs = (strandOf s s.cur).regs ∧
         ∀ l < 32, ∀ j < 8, (descWord (dieOf t (dieIdx s.cur)) l j).toNat =
           physRead s ((dieOf s (dieIdx s.cur)).tableBase + 8 * (8 * l + j)) 8 % 2 ^ 64) ∧
       (ready → k = 4 → ∃ t : State, exec (.tlbinv a b k) s = .next t ∧ dropped t ∧
         (strandOf t s.cur).pc = (strandOf s s.cur).pc + 4 ∧ (strandOf t s.cur).regs = (strandOf s s.cur).regs ∧
         t.pkg.ptrootNow = s.pkg.ptroot ∧ t.pkg.poolNow = s.pkg.pool)) ∧
  (∀ s : State,
     (∀ r j sl, s.pkg.bringUp = false → r < 64 → regionOn (regionOf s r) = true → 64 * j < (regionOf s r).rsize.toNat → j < 2 ^ 34 →
       codedBad s r j = false → ∃ t : State, exec (.l2Fill true (fillKey (r * 2 ^ 34 + j) sl)) s = .next t ∧
       (tblFind t.mem.coded (codedKey r j)).isSome = true ∧ codedLine t r j sl = codedLine s r j sl ∧
       t.mem.dram = s.mem.dram ∧ t.mem.l2 = s.mem.l2 ∧ t.strands = s.strands) ∧
     (∀ n sl, s.pkg.bringUp = false → 64 * n < memTop → lineBad s n = false → ∃ t : State, exec (.l2Fill false (fillKey n sl)) s = .next t ∧
       (tblFind t.mem.l2 n).isSome = true ∧ t.mem.dram = s.mem.dram ∧ t.mem.coded = s.mem.coded ∧ t.strands = s.strands ∧
       (sl = false → ∀ c r, targetRead t c r 1 = targetRead s c r 1)) ∧
     (∀ n sl, s.pkg.bringUp = true → exec (.l2Fill false (fillKey n sl)) s = .next s) ∧
     (∀ k bad, tblFind s.mem.l2 k = none → exec (.lineEviction false k bad) s = .next s) ∧
     (∀ k l bad, tblFind s.mem.l2 k = some l → MemoriesWf s → (journalLine k = true → jLost (evictLine false k bad s) = false) →
       ∃ t : State, exec (.lineEviction false k bad) s = .next t ∧ tblFind t.mem.l2 k = none ∧ t.strands = s.strands ∧
       (l.dirty = true → (bad = true ∨ lineBad s k = true) → lineBad t k = true ∧ t.mem.dram = s.mem.dram) ∧
       (l.dirty = true → bad = false → lineBad s k = false → s.mem.lostStacks = [] →
         dramLine t.mem k = lineNow s k false ∧ lineBad t k = false ∧ ∀ n, n ≠ k → lineBad t n = lineBad s n) ∧
       (l.dirty = false → t.mem.dram = s.mem.dram ∧ t.mem.poison = s.mem.poison ∧ lineBad t k = dramBad s k)) ∧
     (∀ k l bad, tblFind s.mem.l2 k = some l → journalLine k = true → jLost (evictLine false k bad s) = true → s.pkg.fatal = none →
       ∃ t : State, exec (.lineEviction false k bad) s = .next t ∧ t.pkg.fatal = some (1, 0)) ∧
     (∀ r j l bad, j < 2 ^ 34 → tblFind s.mem.coded (codedKey r j) = some l →
       ∃ t : State, exec (.lineEviction true (codedKey r j) bad) s = .next t ∧ tblFind t.mem.coded (codedKey r j) = none ∧
       (l.dirty = true → bad = true → lineBad t (blockPa (regionOf s r) j / 64) = true ∧ t.mem.dram = s.mem.dram) ∧
       (l.dirty = false → t.mem.dram = s.mem.dram ∧ t.mem.l2 = s.mem.l2)) ∧
     ∀ d i v, d < 4 → i < 28 →
       (dieHolds s d = true → ∃ t : State, exec (.hashPartitionWrite d i v) s = .next t ∧ t.dies = s.dies) ∧
       (dieHolds s d = false → ∃ t : State, exec (.hashPartitionWrite d i v) s = .next t ∧ t.mem = s.mem ∧
         (i < 4 → listGet 0 (dieOf t d).hpart i = v &&& 0x83FFFFFFFFC00000 ∧ (dieOf t d).hmask = (dieOf s d).hmask) ∧
         (4 ≤ i → listGet 0 (dieOf t d).hmask (i - 4) = v &&& 0xFFFFFFFFC0 ∧ (dieOf t d).hpart = (dieOf s d).hpart)))

/-! ## The host port and the Foyer -/

/-- R330-R332: HPOST answers 2 for a disabled ring and 1 for a full one; otherwise it writes a slot at TAIL with the poster's
launch tag and answers 0: with the attempt of that launch, or, once it is DONE, the attempt kept for the strands that it has
left. GSIG stores a doubleword as STD does and fires the watches on its line; an aligned Atrium address takes ACCESS. Both
wait for the strand's accesses.

R329, R330, R336: writes of HRCFG and HRHEAD: enabling a ring clears TAIL and HEAD, a completion ring without held
completions takes ACCEPTED; SIZE cannot change while EN = 1 and a SIZE outside 4 to 20 leaves EN at 0; a CCOUNT at or below
the slots that are pending raises the vector; a HEAD outside its range clears EN and reports RING_ERROR. The time threshold
and the MSI-X mask. That the attempt of a launch that is DONE is kept for HPOST is the model's reading (log entry 95). That
vectors start masked is presumed of the PCI Express family (log entry 8); HEAD is compared serially, and a ring takes up
held completions only, as the model reads it (log entries 29, 49). -/
def Obligations.RingsAndInterrupts : Prop :=
  (∀ (s : State) (a b : BitVec 5) (r : BitVec 4), MemoriesWf s →
     let t0 := strandOf s s.cur
     let g := ringOf s r.toNat
     let p := reg s s.cur a
     (unperformed s s.cur = true → ∀ i ∈ ([.hpost a b r, .gsig a b] : List Instr),
       Completes s i fun t => { t with blocked := some (.remote 0) }) ∧
     (unperformed s s.cur = false →
       (ringOn g = false → Writes s (.hpost a b r) a 2) ∧
       (ringOn g = true → ringFull g = true → Writes s (.hpost a b r) a 1) ∧
       (ringOn g = true → ringFull g = false → ∃ t : State, exec (.hpost a b r) s = .next t ∧
         Posted s t r.toNat (reg s s.cur b) t0.tag (attemptOf s t0.tag) 0 ∧ strandOf t s.cur = past (putReg t0 a 0) ∧
         (∀ j, j ≠ s.cur → strandOf t j = strandOf s j) ∧ t.cores = s.cores ∧ t.clusters = s.clusters ∧ t.dies = s.dies ∧
         t.net = s.net) ∧
       (∀ l, launchOf s t0.tag = some l → attemptOf s t0.tag = l.attempt) ∧
       (launchOf s t0.tag = none → attemptOf s t0.tag = tblGet 0 s.pkg.foyer.attempts t0.tag) ∧
       (p.toNat % 8 = 0 → inAtrium p = true → TrapsHere s (.gsig a b) cACCESS p) ∧
       (p.toNat % 8 ≠ 0 → TrapsHere s (.gsig a b) cMISALIGN p) ∧
       ∀ q, inAtrium p = false → Reaches s true p 8 q → Plain s q → nonfiniteWrite s q 8 (reg s s.cur b).toNat = false →
         ∃ t : State, exec (.gsig a b) s = .next t ∧ OnlyAccess s t ∧ strandOf t s.cur = past t0 ∧
           Stored s t q 8 (reg s s.cur b).toNat ∧ ∀ e ∈ t.mem.tags, e ∈ s.mem.tags ∧ ∀ k sl, q = .phys k sl → e.line ≠ .phys (k / 64))) ∧
  ((∀ (s : State) (n : Nat) (x : Word), n < 33 →
     let r := ringOf s n
     let v := x &&& 0xFC00FFE0FFFFFFFF
     let sized := fun (w : Word) => 4 ≤ fld w 58 5 ∧ fld w 58 5 ≤ 20
     let set := fun (y : Ring) => ∃ t : State, exec (.hrcfgWrite n x) s = .next t ∧ ringOf t n = y ∧ (∀ m, m ≠ n → ringOf t m = ringOf s m) ∧
       t.mem = s.mem ∧ t.strands = s.strands
     (ringOn r = false → sized v → fld v 63 1 = 1 → n < 16 ∨ n = 32 → set { r with cfg := v, tail := 0, head := 0, pend := 0 }) ∧
     (ringOn r = false → sized v → fld v 63 1 = 1 → 16 ≤ n → n < 32 → (∀ h ∈ s.pkg.foyer.heldSlots, h.1 ≠ n - 16) →
       set { r with cfg := v, tail := tblGet 0 s.pkg.foyer.accepted (n - 16), head := tblGet 0 s.pkg.foyer.accepted (n - 16),
                    pend := 0 }) ∧
     let keeps := fun (w : Word) =>
       let due := fld w 16 16 ≠ 0 ∧ fld w 16 16 ≤ r.pend
       let vec := fld w 37 11
       (¬ due → set { r with cfg := w }) ∧ (due → set { r with cfg := w, pend := 0 } ∧ ∀ t, exec (.hrcfgWrite n x) s = .next t →
         (vec ∈ s.pkg.unmasked → t.pkg.messages = vec :: s.pkg.messages) ∧ (vec ∉ s.pkg.unmasked → vec ∈ t.pkg.pending))
     (ringOn r = false → sized v → fld v 63 1 = 0 → keeps v) ∧
     (ringOn r = false → ¬ sized v → keeps (setFld v 63 1 0)) ∧
     (ringOn r = true → sized r.cfg → keeps (setFld v 58 5 (fld r.cfg 58 5)))) ∧
   (∀ (s : State) (n : Nat) (x : Word), n < 33 →
     let r := ringOf s n
     let h := fld x 0 32
     (badHead r h = false → (∀ q ∈ s.pkg.foyer.heldSlots, q.1 + 16 ≠ n) → ∃ t : State, exec (.hrheadWrite n x) s = .next t ∧
       ringOf t n = { r with head := h } ∧ (∀ m, m ≠ n → ringOf t m = ringOf s m) ∧ t.mem = s.mem) ∧
     (badHead r h = true → n < 32 → ∃ t : State, exec (.hrheadWrite n x) s = .next t ∧ ringOf t n =
         { r with cfg := setFld r.cfg 63 1 0, head := h } ∧
       (MemoriesWf s → ringOn (ringOf s 32) = true → ringFull (ringOf s 32) = false →
         cellsRead t.mem.host (((ringOf s 32).base.toNat + 16 * ((ringOf s 32).tail % ringSlots (ringOf s 32))) % 2 ^ 64) 8 =
           3 * 2 ^ 56 + n)) ∧
     (r.tail < 2 ^ 31 → h ≤ r.tail → (badHead r h = true ↔ ringSlots r < r.tail - h)) ∧
     (r.tail < h → h < 2 ^ 31 → badHead r h = true)) ∧
   (∀ (s : State) (n : Nat),
     let r := ringOf s n
     let v := fld r.cfg 37 11
     (fld r.cfg 0 16 = 0 ∨ r.pend = 0 → exec (.ringCtimeExpiry n) s = .next s) ∧
     (fld r.cfg 0 16 ≠ 0 → r.pend ≠ 0 → ∃ t : State, exec (.ringCtimeExpiry n) s = .next t ∧ ringOf t n = { r with pend := 0 } ∧
       t.mem = s.mem ∧ (v ∈ s.pkg.unmasked → t.pkg.messages = v :: s.pkg.messages ∧ t.pkg.pending = s.pkg.pending) ∧
       (v ∉ s.pkg.unmasked → t.pkg.messages = s.pkg.messages ∧ v ∈ t.pkg.pending))) ∧
   (∀ (s : State) (v : Nat) (r : List Move), s.pkg.fatal = none → s.agenda = .msixMask v :: r →
     step s = .next { s with agenda := r, pkg := { s.pkg with unmasked := s.pkg.unmasked.filter (· != v) } }) ∧
   ∀ (s : State) (v : Nat), v < 2048 → ∃ t : State, exec (.msixUnmask v) s = .next t ∧ v ∈ t.pkg.unmasked ∧ v ∉ t.pkg.pending ∧
     (∀ w, w ≠ v → (w ∈ t.pkg.pending ↔ w ∈ s.pkg.pending) ∧ (w ∈ t.pkg.unmasked ↔ w ∈ s.pkg.unmasked)) ∧ t.mem = s.mem ∧
     t.pkg.messages = if v ∈ s.pkg.pending then v :: s.pkg.messages else s.pkg.messages)

/-- R328, R340: a doorbell that is well formed enters the intake while there is room and doorbells are open; any other is
counted in DROPS, and the event DOORBELL_DROP is posted when ring 32 takes it. R328, R337: acceptance writes an ACCEPT entry
to both journal copies and ACCEPTED rises; the graph waits for a walk, and starts when fewer than 64 are walked. Where the
journal lies and what its CRC covers are the model's (log entries 17, 18). Which entries the journal must keep is its
reading (log entries 17, 87). -/
def Obligations.DoorbellsAndAcceptance : Prop :=
  (∀ (s : State) (v : Word),
    let q := fld v 60 4
    let f := s.pkg.foyer
    let good := fld v 0 1 = 1 ∧ fld v 1 5 = 0 ∧ fld v 48 12 = 0 ∧ f.intake.length < 64 ∧ s.pkg.fit = true ∧ s.pkg.bringUp = false
    (good → exec (.doorbell v) s = .next { s with pkg := { s.pkg with foyer := { f with intake := f.intake ++ [v] } } }) ∧
    (¬ good → ∃ t : State, exec (.doorbell v) s = .next t ∧ t.pkg.foyer.intake = f.intake ∧ t.strands = s.strands ∧
      tblGet 0 t.pkg.foyer.drops q = (tblGet 0 f.drops q + 1) % 2 ^ 32 ∧
      (MemoriesWf s → ringOn (ringOf s 32) = true → ringFull (ringOf s 32) = false →
        Posted s t 32 (BitVec.ofNat 64 (4 * 2 ^ 56 + q)) 0 0 3) ∧
      ((ringOn (ringOf s 32) && !ringFull (ringOf s 32)) = false → t.mem = s.mem ∧
        t.pkg.usher.log = ⟨340, 4 * 2 ^ 56 + q⟩ :: s.pkg.usher.log))) ∧
  (∀ (s : State) (v : Word) (r : List Word), s.pkg.foyer.intake = v :: r →
    let q := fld v 60 4
    let n := tblGet 0 s.pkg.foyer.accepted q
    let k := s.pkg.foyer.seq.toNat % 2 ^ 20
    (journalHeld s = true ∨ s.pkg.fit = false ∨ s.pkg.bringUp = true → exec .submissionAccept s = .next s) ∧
    (journalHeld s = false → s.pkg.fit = true → s.pkg.bringUp = false → n < 2 ^ 32 → ∃ t : State, exec .submissionAccept s = .next t ∧
      t.pkg.foyer.intake = r ∧ tblGet 0 t.pkg.foyer.accepted q = (n + 1) % 2 ^ 32 ∧
      t.pkg.foyer.waiting = s.pkg.foyer.waiting ++ [⟨q, n, fld v 6 42 * 64⟩] ∧ t.strands = s.strands ∧ t.dies = s.dies ∧
      t.pkg.foyer.seq = s.pkg.foyer.seq + 1 ∧
      ∀ d ∈ [0, 2], fld (BitVec.ofNat 64 (physRead t (jAddr d k) 8)) 56 8 = 1 ∧
        physRead t (jAddr d k) 8 % 2 ^ 32 = s.pkg.foyer.seq.toNat ∧
        physRead t (jAddr d k + 8) 8 = fld v 6 42 * 64 ∧ physRead t (jAddr d k + 16) 8 = q * 2 ^ 60 + n)) ∧
  ∀ (s : State) (g : Graph) (r : List Graph), s.pkg.foyer.waiting = g :: r →
    (s.pkg.foyer.walks.length < 64 → exec .graphStart s = .next { s with pkg := { s.pkg with foyer :=
      { s.pkg.foyer with waiting := r, walks := s.pkg.foyer.walks ++ [⟨g, g.handle, .atNode, 0, 0⟩] } } }) ∧
    (64 ≤ s.pkg.foyer.walks.length → exec .graphStart s = .next s)

/-- R8, R285, R290, R316, R318, R327-R329, R352: the host's accesses. A read of BAR0 returns ACCEPTED and DROPS of a queue, the
four registers of a ring, PTROOT, W2BASE or a register of the Usher's block, HPART, HMASK, FRCFG, the routes and the rates
of the stacks among them; FDOOR, which is write-only, reads 0, and a read changes nothing. A write of the block acts on a
register that the Usher has opened. W2BASE takes a legal value and keeps its own otherwise; HRBASE is written while its ring
is disabled; PTROOT takes effect only with TLBINV; a read through BAR2 returns the doubleword, or a Completer Abort in a
reserved area or on bad data; a write through BAR2 changes its bytes alone, and none in a reserved area. That reserved bits
of a register are dropped is the model's reading (log entry 33); what stands in the Usher's block is its firmware's (log
entry 21). That a read of bad data completes with Completer Abort is the model's choice (log entry 85), and the places and
the order of the named registers of the block its own (log entry 89). -/
def Obligations.HostAccesses : Prop :=
  ∀ (s : State) (v : Word),
    (v.toNat % 2 ^ 36 = 0 → v.toNat / 2 ^ 36 < 12 → exec (.w2baseWrite v) s = .next { s with pkg := { s.pkg with w2base := v } }) ∧
    (v.toNat % 2 ^ 36 ≠ 0 ∨ 12 ≤ v.toNat / 2 ^ 36 → exec (.w2baseWrite v) s = .next s) ∧
    (∀ n < 33, (ringOn (ringOf s n) = true → exec (.hostRegisterWrite (0x10000 + 32 * n) v) s = .next s) ∧
      (ringOn (ringOf s n) = false → exec (.hostRegisterWrite (0x10000 + 32 * n) v) s =
        .next (setRing s n { (ringOf s n) with base := v &&& ~~~0xF }))) ∧
    (∀ c < 32, ∃ t : State, exec (.hostRegisterWrite (0x20000 + 8 * c) v) s = .next t ∧
      tblGet 0 t.pkg.ptroot c = v &&& 0xFFFFFFF001 ∧ t.pkg.ptrootNow = s.pkg.ptrootNow ∧ t.mem = s.mem) ∧
    (∀ o, 0x100000 ≤ o → o < 0x4000000 → (o ∉ s.pkg.usher.opened → exec (.hostRegisterWrite o v) s = .next s) ∧
      (o ∈ s.pkg.usher.opened → (∀ k < usherNamed, usherPlace k ≠ o) → ∃ t : State,
        exec (.hostRegisterWrite o v) s = .next t ∧ tblGet 0 t.pkg.usher.registers o = v) ∧
      ∀ k < usherNamed, o = usherPlace k → (∀ j < k, usherPlace j ≠ o) → o ∈ s.pkg.usher.opened →
        (k < 112 → exec (.hostRegisterWrite o v) s = exec (.hashPartitionWrite (k / 28) (k % 28) v) s) ∧
        (k = 112 → exec (.hostRegisterWrite o v) s = exec (.frcfgWrite v) s) ∧
        (113 ≤ k → k < 125 → exec (.hostRegisterWrite o v) s = .next s) ∧
        (125 ≤ k → k < 4221 → ∃ t : State, exec (.hostRegisterWrite o v) s = .next t ∧
          routeNow t.net (k - 125) = (v.setWidth 16, (routeNow s.net (k - 125)).2 % 16)) ∧
        (4221 ≤ k → ∃ t : State, exec (.hostRegisterWrite o v) s = .next t ∧
          routeNow t.net (k - 4221) = ((routeNow s.net (k - 4221)).1, v.toNat % 16))) ∧
    (∀ (o : Nat) (r : List Move), s.pkg.fatal = none → s.agenda = .registerRead o :: r → ∃ w : Word,
      step s = .next { s with agenda := r, pkg := { s.pkg with hostReads := some w :: s.pkg.hostReads } } ∧
      (∀ q < 16, (o = 0x100 + 8 * q → tblGet 0 s.pkg.foyer.accepted q < 2 ^ 32 → tblGet 0 s.pkg.foyer.drops q < 2 ^ 32 →
          fld w 0 32 = tblGet 0 s.pkg.foyer.accepted q ∧ fld w 32 32 = tblGet 0 s.pkg.foyer.drops q)) ∧
      (∀ n < 33, (o = 0x10000 + 32 * n → w = (ringOf s n).base) ∧ (o = 0x10008 + 32 * n → w = (ringOf s n).cfg) ∧
        (o = 0x10010 + 32 * n → w = BitVec.ofNat 64 (ringOf s n).tail) ∧
        (o = 0x10018 + 32 * n → w = BitVec.ofNat 64 (ringOf s n).head)) ∧
      (∀ c < 32, o = 0x20000 + 8 * c → w = tblGet 0 s.pkg.ptroot c) ∧ (o = 0x30000 → w = s.pkg.w2base) ∧
      (0x100000 ≤ o → o < 0x4000000 → (∀ k < usherNamed, usherPlace k ≠ o) → w = tblGet 0 s.pkg.usher.registers o) ∧
      (∀ k < usherNamed, o = usherPlace k → (∀ j < k, usherPlace j ≠ o) →
        (k < 112 → k % 28 < 4 → w = listGet 0 (dieOf s (k / 28)).hpart (k % 28)) ∧
        (k < 112 → 4 ≤ k % 28 → w = listGet 0 (dieOf s (k / 28)).hmask (k % 28 - 4)) ∧
        (k = 112 → w = s.net.frcfgNew.getD s.net.frcfg) ∧
        (113 ≤ k → k < 125 → w = match tblGet StackState.full s.pkg.usher.stackStates (k - 113) with
          | .full => 10 | .degraded => 8 | .failed => 0) ∧
        (125 ≤ k → k < 4221 → w = (routeNow s.net (k - 125)).1.zeroExtend 64) ∧
        (4221 ≤ k → w = BitVec.ofNat 64 (routeNow s.net (k - 4221)).2)) ∧ (o < 0x100 → w = 0)) ∧
    (∀ o, let pa := windowPa s o / 8 * 8
      ∃ t : State, exec (.hostMemoryRead o) s = .next t ∧ t.mem = s.mem ∧ t.strands = s.strands ∧
        ((reservedPa pa || lineBad s (pa / 64)) = true → t.pkg.hostReads = none :: s.pkg.hostReads) ∧
        ((reservedPa pa || lineBad s (pa / 64)) = false → ∃ w : Word, t.pkg.hostReads = some w :: s.pkg.hostReads ∧
          w.toNat = physRead s pa 8)) ∧
    (∀ o, ∀ n ∈ [1, 2, 4, 8], o % n = 0 → let pa := windowPa s o
      (reservedPa pa = true → ∃ t : State, exec (.hostMemoryWrite o n v) s = .next t ∧ t.mem = s.mem) ∧
      (reservedPa pa = false → MemoriesWf s → ∃ t : State, exec (.hostMemoryWrite o n v) s = .next t ∧
        Stored s t (.phys pa false) n (v.toNat % 2 ^ (8 * n)) ∧ t.strands = s.strands ∧ t.pkg = s.pkg)) ∧
    ∀ w r, (w = 16 ∨ w = 8 ∨ w = 4 → exec (.hostPortTraining w r) s =
        .next { s with pkg := { s.pkg with hostLink := (w, min r 128) } }) ∧
      (¬ (w = 16 ∨ w = 8 ∨ w = 4) → exec (.hostPortTraining w r) s = .next s)

/-- R332-R336: a walk at a well-formed node that can be read. COPY starts its move and, when it has moved, goes on at NEXT, or
ends its graph with FAIL. COND goes on at EXIT when its comparison holds, else at NEXT, or waits with a watch on its line
and reads again when that has fired. HOSTPOST posts under the graph's last launch, waits for a full ring and drops the post
for a disabled one. END and every malformed node end the graph. All but KERNEL wait for the graph's kernels. While all eight
node engines are busy no node is started; which nodes hold one is log entry 69. An access of a COPY node that the host
completes with an error ends its graph with FAIL. COPY moves words at any address. Which nodes count as malformed beyond
R333's list is the model's reading (log entry 28). -/
def Obligations.GraphNodes : Prop :=
  (∀ (s : State) (w : Nat) (x : Walk) (n : Node), s.pkg.foyer.walks[w]? = some x → x.state = .atNode → journalHeld s = false →
    foyerHeld s = false → x.node + 64 ≤ memTop → n = readNode s x.node →
    let good := nodeBad n = false ∧ foyerBad s x.node 64 = false
    let goes := fun (i : Instr) (y : Walk) => ∃ t : State, exec i s = .next t ∧ t.pkg.foyer.walks = s.pkg.foyer.walks.set w y ∧
      t.strands = s.strands ∧ t.dies = s.dies ∧ ∀ c r, targetRead t c r 1 = targetRead s c r 1
    let fails := fun (i : Instr) => exec i s = .next (endGraph s x.graph x.node true)
    (¬ good →
      (nodeKind n = 1 → fails (.kernelNode w)) ∧ (nodeKind n = 2 → fails (.copyNode w)) ∧ (nodeKind n = 3 → fails (.condNode w)) ∧
      (nodeKind n = 4 → fails (.hostpostNode w)) ∧ (nodeKind n = 0 ∨ 5 ≤ nodeKind n → fails (.endNode w))) ∧
    (good → kernelsOpen s x.graph = true → 
      (nodeKind n = 2 → exec (.copyNode w) s = .next s) ∧ (nodeKind n = 3 → exec (.condNode w) s = .next s) ∧
      (nodeKind n = 4 → exec (.hostpostNode w) s = .next s) ∧ (nodeKind n = 5 → exec (.endNode w) s = .next s)) ∧
    (good → kernelsOpen s x.graph = false →
      (nodeKind n = 2 → goes (.copyNode w)
        { x with state := .copying (nodeWord n 1) (nodeWord n 2) (nodeWord n 3) (nodeNext n) }) ∧
      (nodeKind n = 3 →
        let a := (nodeWord n 1).toNat
        let v : Word := BitVec.ofNat 64 (physRead s a 8)
        let holds := [v = nodeWord n 2, v ≠ nodeWord n 2, (nodeWord n 2).toInt ≤ v.toInt, v.toInt < (nodeWord n 2).toInt].getD
          (fld (nodeWord n 3) 0 2) False
        let readable := a + 8 ≤ memTop ∧ foyerBad s a 8 = false
        (readable → holds → goes (.condNode w) { x with node := fld (nodeWord n 4) 6 42 * 64 }) ∧
        (readable → ¬ holds → fld (nodeWord n 3) 2 1 = 0 → goes (.condNode w) { x with node := nodeNext n }) ∧
        (readable → ¬ holds → fld (nodeWord n 3) 2 1 = 1 → goes (.condNode w)
          { x with state := .condWait a (nodeWord n 2) (fld (nodeWord n 3) 0 2) (fld (nodeWord n 4) 6 42 * 64) } ∧
          ∀ t, exec (.condNode w) s = .next t → condWatch x.graph a ∈ t.mem.tags) ∧
        (¬ readable → ∃ t : State, exec (.condNode w) s = .next t ∧ ∀ y ∈ t.pkg.foyer.walks, y.graph ≠ x.graph)) ∧
      (nodeKind n = 4 →
        let r := fld (nodeWord n 2) 0 4
        (ringOn (ringOf s r) = true → ringFull (ringOf s r) = true → exec (.hostpostNode w) s = .next s) ∧
        (ringOn (ringOf s r) = true → ringFull (ringOf s r) = false → MemoriesWf s → ∃ t : State, exec (.hostpostNode w) s = .next t ∧
          t.pkg.foyer.walks = s.pkg.foyer.walks.set w { x with node := nodeNext n } ∧
          Posted s t r (nodeWord n 1) x.lastTag x.lastAttempt 1) ∧
        (ringOn (ringOf s r) = false → ∃ t : State, exec (.hostpostNode w) s = .next t ∧
          t.pkg.foyer.walks = s.pkg.foyer.walks.set w { x with node := nodeNext n } ∧ ∀ m < 32, ringOf t m = ringOf s m)) ∧
      (nodeKind n = 5 → exec (.endNode w) s = .next (endGraph s x.graph x.node false)))) ∧
  (∀ (s : State) (w : Nat), foyerHeld s = true → ∀ x, s.pkg.foyer.walks[w]? = some x → x.state = .atNode →
    ∀ i ∈ ([.kernelNode w, .copyNode w, .condNode w, .hostpostNode w, .endNode w] : List Instr), exec i s = .next s) ∧
  (∀ (s u : State) (w : Nat) (x : Walk) (dst src ctl : Word) (next : Nat) (r : List Move), s.pkg.fatal = none →
    s.agenda = .nodeRefused w :: r → u = { s with agenda := r } → s.pkg.foyer.walks[w]? = some x →
    x.state = .copying dst src ctl next → journalHeld u = false →
    (fld ctl 62 1 = 1 ∨ fld ctl 63 1 = 1 → step s = .next (endGraph u x.graph x.node true)) ∧
    (fld ctl 62 1 = 0 → fld ctl 63 1 = 0 → step s = .next u)) ∧
  (∀ (s : State) (w : Nat) (x : Walk) (dst src ctl : Word) (next : Nat), s.pkg.foyer.walks[w]? = some x →
    x.state = .copying dst src ctl next → journalHeld s = false → (fld ctl 63 1 = 1 ∨ dst.toNat + fld ctl 0 32 ≤ memTop) →
    (fld ctl 62 1 = 1 ∨ src.toNat + fld ctl 0 32 ≤ memTop) →
    (∀ u ok, moveNode dst.toNat src.toNat (fld ctl 63 1 == 1) (fld ctl 62 1 == 1) (fld ctl 0 32 / 8) 0 s = (u, ok) →
      exec (.copyNodeDone w) s = .next (if ok then setWalk u w { x with state := .atNode, node := next }
        else endGraph u x.graph x.node true)) ∧
    (ctl = 64 → MemoriesWf s → dst.toNat % 64 = 0 → src.toNat % 64 = 0 → foyerBad s src.toNat 64 = false →
      ∃ t : State, exec (.copyNodeDone w) s = .next t ∧ lineNow t (dst.toNat / 64) false = lineNow s (src.toNat / 64) false ∧
        t.pkg.foyer.walks = s.pkg.foyer.walks.set w { x with state := .atNode, node := next } ∧
        ∀ c r, Apart 0 (.phys dst.toNat false) 64 c r → targetRead t c r 1 = targetRead s c r 1) ∧
    (∀ n, ctl = BitVec.ofNat 64 (8 * n) → 8 * n < 2 ^ 32 → MemoriesWf s → (∀ k < n, foyerBad s (src.toNat + 8 * k) 8 = false) →
      dst.toNat + 8 * n ≤ src.toNat ∨ src.toNat + 8 * n ≤ dst.toNat ∨ n = 1 → ∃ t : State, exec (.copyNodeDone w) s = .next t ∧
        t.pkg.foyer.walks = s.pkg.foyer.walks.set w { x with state := .atNode, node := next } ∧
        (∀ b < 8 * n, targetRead t 0 (.phys (dst.toNat + b) false) 1 = targetRead s 0 (.phys (src.toNat + b) false) 1) ∧
        ∀ k, k < dst.toNat ∨ dst.toNat + 8 * n ≤ k → targetRead t 0 (.phys k false) 1 = targetRead s 0 (.phys k false) 1)) ∧
  (∀ (s : State) (w : Nat) (x : Walk) (a : Nat) (v : Word) (cmp exit : Nat), s.pkg.foyer.walks[w]? = some x →
    x.state = .condWait a v cmp exit →
    let watched := s.mem.tags.any fun t => t.watch && t.strand.isNone && t.lane == some (2 ^ 48 + snapKey x.graph)
    let holds := condHolds cmp (BitVec.ofNat 64 (physRead s a 8)) v
    (watched = true → exec (.condReread w) s = .next s) ∧
    (watched = false → a + 8 ≤ memTop → foyerBad s a 8 = false → ∃ t : State, exec (.condReread w) s = .next t ∧
      (holds = true → t.pkg.foyer.walks = s.pkg.foyer.walks.set w { x with state := .atNode, node := exit }) ∧
      (holds = false → t.pkg = s.pkg ∧ condWatch x.graph a ∈ t.mem.tags) ∧ t.strands = s.strands)) ∧
  ∀ (s : State) (g : Graph) (node : Nat) (fail : Bool), MemoriesWf s → node % 64 = 0 → node < 2 ^ 48 →
    let u := jWrite s .graphEnd 1 0 g.handle g.queue g.seq
    let t := endGraph s g node fail
    let payload : Word := BitVec.ofNat 64 (node + if fail then 2 ^ 63 else 0)
    (∀ y ∈ t.pkg.foyer.walks, y.graph ≠ g) ∧ t.strands = s.strands ∧ t.dies = s.dies ∧
    (ringOn (ringOf s (16 + g.queue)) = false → t.mem = u.mem ∧
      t.pkg.foyer.heldSlots = s.pkg.foyer.heldSlots ++ [(g.queue, g.seq, payload)]) ∧
    ((∀ h ∈ s.pkg.foyer.heldSlots, h.1 ≠ g.queue) → tblGet 0 s.pkg.foyer.nextSlot g.queue = g.seq →
      ringOn (ringOf s (16 + g.queue)) = true → slotBlocked (ringOf s (16 + g.queue)) g.seq = false →
      Slotted u t (16 + g.queue) g.seq payload g.seq 0 2 ∧ t.pkg.foyer.heldSlots = s.pkg.foyer.heldSlots ∧
      tblGet 0 t.pkg.foyer.nextSlot g.queue = (g.seq + 1) % 2 ^ 32)

/-- R334, R337, R338: a KERNEL node whose template passes its check writes LAUNCH, sets its counter to COUNT and emits its
records in turn: FRAME + i x FSTRIDE, the counter as JOIN, marked as a Foyer join and with the launch's tag; a SNAPSHOT
launch copies its ranges first. A launch whose counter reads zero writes DONE, and its graph goes on. A failed check writes
LAUNCH and FAIL and ends the graph, and so does a landing that has become unusable, once the journal can take the entries.

R281, R282, R338: a loss purges the launch's tag, so that no strand, queued, waiting or saved record carries it, and replays
the launch: its attempt rises, LAUNCH is written and the counter is COUNT again; a launch of class NONE or at its fourth
attempt fails. A purge answers every report of its tag (log entry 72). A snapshot's ranges are copied before its records are
emitted, and restored before they are emitted again; a range with an uncorrectable error, a carrier's among them that its
dirty coded line leaves with one, fails the launch. That the attempt of a launch that is DONE is kept is the model's reading
(log entry 95). Where the journal and the Foyer's counters lie, and what the CRC covers, are the model's (log entries 17,
18); what becomes of transfers of purged strands and of decoded lines at a restore are its readings (log entries 23, 27).
That the LAUNCH of a launch that is not over is kept in the journal is its reading (log entry 87). -/
def Obligations.KernelLaunches : Prop :=
  ((∀ (s : State) (w : Nat) (x : Walk) (n : Node) (r : Record), s.pkg.foyer.walks[w]? = some x → x.state = .atNode →
     journalHeld s = false → foyerHeld s = false → x.node + 64 ≤ memTop → n = readNode s x.node → nodeKind n = 1 → nodeBad n = false →
     foyerBad s x.node 64 = false → r = ⟨nodeWord n 1, nodeWord n 2, 0, nodeWord n 4⟩ → MemoriesWf s →
     (∀ j y, s.pkg.foyer.walks[j]? = some y → y.graph = x.graph → j = w) → (∀ y ∈ s.pkg.foyer.launches, y.tag < 2 ^ 16) →
     let count := fld (nodeWord n 5) 48 16
     let dies := (diesUsed s r count).all (dieUsable s (recLanding r))
     let tag := freshTag s
     let k := s.pkg.foyer.seq.toNat % 2 ^ 20
     (dies = true → recReplay r ≠ 1 → ∃ (t : State) (l : Launch), exec (.kernelNode w) s = .next t ∧
       t.pkg.foyer.launches = s.pkg.foyer.launches ++ [l] ∧ l.tag = tag ∧ l.attempt = 1 ∧ l.graph = x.graph ∧ l.state = .emit ∧
       l.template = r ∧ l.count = count ∧ l.stride = fld (nodeWord n 5) 0 48 ∧ l.emitted = 0 ∧ l.async = nodeAsync n ∧
       physRead t l.counter 8 = count ∧ t.pkg.foyer.walks = s.pkg.foyer.walks.set w
         { x with state := .kernel tag, node := nodeNext n, lastTag := tag, lastAttempt := 1 } ∧
       t.pkg.foyer.seq = s.pkg.foyer.seq + 1 ∧ (∀ d ∈ [0, 2], physRead t (jAddr d k) 8 =
         2 * 2 ^ 56 + 2 ^ 48 + tag * 2 ^ 32 + s.pkg.foyer.seq.toNat) ∧ t.strands = s.strands ∧ t.dies = s.dies ∧
       tblGet 0 t.pkg.foyer.attempts tag = 1) ∧
     (dies = true → recReplay r = 1 → (nodeWord n 6 = 0 ∨ (snapshotTable s (nodeWord n 6).toNat).isSome = true) →
       ∃ (t : State) (l : Launch), exec (.kernelNode w) s = .next t ∧ t.mem = s.mem ∧ t.pkg.foyer.launches = s.pkg.foyer.launches ++ [l] ∧
       l.state = .snap ∧ l.template = r ∧ l.count = count ∧ l.graph = x.graph ∧ t.pkg.foyer.seq = s.pkg.foyer.seq) ∧
     (dies = false ∨ (recReplay r = 1 ∧ nodeWord n 6 ≠ 0 ∧ snapshotTable s (nodeWord n 6).toNat = none) →
       (journalFull s 3 = true → exec (.kernelNode w) s = .next s) ∧ (journalFull s 3 = false → ∃ t : State, exec (.kernelNode w) s = .next t ∧ (∀ y ∈ t.pkg.foyer.walks, y.graph ≠ x.graph) ∧
       t.pkg.foyer.launches = s.pkg.foyer.launches ∧ t.pkg.foyer.seq = s.pkg.foyer.seq + 3 ∧ t.dies = s.dies))) ∧
   (∀ (s : State) (tag : Nat) (l : Launch) (d : Nat), launchOf s tag = some l → l.state = .emit →
     (if recDieAny l.template then (dealOrder s).head? else some (recDie l.template)) = some d →
     let lan := recLanding l.template
     let usable := (dieOf s d).status = .inService ∧ landingOn (dieOf s d) lan = true
     ((dieOf s d).status = .out → exec (.kernelEmit tag) s = .next s) ∧
     ((dieOf s d).status ≠ .out → ¬ usable → (journalFull s 2 = true → exec (.kernelEmit tag) s = .next s) ∧
       (journalFull s 2 = false → ∃ t : State, exec (.kernelEmit tag) s = .next t ∧ launchOf t tag = none ∧
         (∀ y ∈ t.pkg.foyer.walks, y.graph ≠ l.graph) ∧ strandOf t = strandOf (purgeTag s tag))) ∧
     (usable → landingFull s d lan = true → exec (.kernelEmit tag) s = .next s) ∧
     (usable → landingFull s d lan = false →
       ((landingOf s d lan).spill = [] ∨ (landingOf s d lan).spill.length < landingSpcap (dieOf s d) lan) →
       ∃ (t : State) (e : Entry) (m : Launch), exec (.kernelEmit tag) s = .next t ∧
       (landingOf t d lan).queue ++ (landingOf t d lan).spill.map (·.2) =
         (landingOf s d lan).queue ++ (landingOf s d lan).spill.map (·.2) ++ [e] ∧
       e.record.dw0 = l.template.dw0 ∧ e.record.dw3 = l.template.dw3 ∧ e.record.dw2 = BitVec.ofNat 64 l.counter ∧
       recFrame e.record = (recFrame l.template + l.emitted * l.stride) % 2 ^ 48 ∧
       fld e.record.dw1 48 16 = fld l.template.dw1 48 16 ∧ e.tag = tag ∧ e.foyerJoin = true ∧ launchOf t tag = some m ∧
       m.emitted = l.emitted + 1 ∧ m.state = (if l.emitted + 1 = l.count then .run else .emit) ∧ t.strands = s.strands)) ∧
   ∀ (s : State) (tag : Nat) (l : Launch), launchOf s tag = some l → l.state = .run →
     (physRead s l.counter 8 ≠ 0 → exec (.kernelDone tag) s = .next s) ∧
     (physRead s l.counter 8 = 0 → journalHeld s = false → ∃ t : State, exec (.kernelDone tag) s = .next t ∧
       launchOf t tag = none ∧ t.pkg.foyer.seq = s.pkg.foyer.seq + 1 ∧ t.strands = s.strands ∧
       t.pkg.foyer.attempts = s.pkg.foyer.attempts ∧ ∀ y ∈ t.pkg.foyer.walks, y.graph = l.graph → y.state ≠ .kernel tag)) ∧
  ((∀ (s : State) (tag : Nat), let t := purgeTag s tag
     (∀ id, (strandOf t id).slot ≠ .free → (strandOf t id).tag ≠ tag) ∧
     ∀ d < 4, (∀ w ∈ (dieOf t d).waitPool, w.entry.tag ≠ tag) ∧ ∀ l < 32, (∀ e ∈ (landingOf t d l).queue, e.tag ≠ tag) ∧
       (∀ e ∈ (landingOf t d l).spill, e.2.tag ≠ tag) ∧ ∀ e ∈ (landingOf t d l).saved, e.tag ≠ tag) ∧
   (∀ (s : State) (tag : Nat) (q : List Nat), s.pkg.foyer.losses = tag :: q →
     (journalFull s 2 = true → exec .lossReport s = .next s) ∧ (journalFull s 2 = false →
     (launchOf s tag = none → exec .lossReport s = .next { s with pkg := { s.pkg with foyer := { s.pkg.foyer with losses := q } } }) ∧
     ∀ l, launchOf s tag = some l → l.state = .emit ∨ l.state = .run ∨ l.state = .purge → tag < 2 ^ 16 → MemoriesWf s → l.count < 2 ^ 64 →
       let class' := recReplay l.template
       (l.attempt < 4 → class' = 0 ∨ (class' = 1 ∧ l.table ≠ 0) → ∃ (t : State) (m : Launch), exec .lossReport s = .next t ∧
         launchOf t tag = some m ∧ m.attempt = l.attempt + 1 ∧ m.state = (if class' = 0 then .emit else .restore) ∧ m.emitted = 0 ∧
         m.tag = tag ∧ m.count = l.count ∧ m.template = l.template ∧ physRead t m.counter 8 = l.count ∧
         t.pkg.foyer.seq = s.pkg.foyer.seq + 1 ∧ (strandOf t = strandOf (purgeTag s tag)) ∧ t.dies = (purgeTag s tag).dies ∧
         tag ∉ t.pkg.foyer.losses ∧ tblGet 0 t.pkg.foyer.attempts tag = l.attempt + 1) ∧
       (4 ≤ l.attempt ∨ 2 ≤ class' ∨ (class' = 1 ∧ l.table = 0) → ∃ t : State, exec .lossReport s = .next t ∧
         launchOf t tag = none ∧ (∀ y ∈ t.pkg.foyer.walks, y.graph ≠ l.graph) ∧ strandOf t = strandOf (purgeTag s tag)))) ∧
   ∀ (s : State) (tag : Nat) (l : Launch), launchOf s tag = some l → snapWaits s l = false → journalHeld s = false →
     (l.state = .snap → snapBad s l = true → exec (.snapshotCopyDone tag) s = .next (if journalFull s 3 then s else failLaunch s l false)) ∧
     (l.state = .restore → snapBad s l = true → exec (.restoreDone tag) s = .next (if journalFull s 2 then s else failLaunch s l true)) ∧
     let u := (snapCoded s l).foldl (fun u p => codecWrite u p.1 p.2) s
     (l.state = .snap → snapBad s l = false → snapBad u l = true →
       exec (.snapshotCopyDone tag) s = .next (if journalFull s 3 then s else failLaunch u l false)) ∧
     (∀ p ∈ snapCoded s l, ∀ y, tblFind s.mem.coded (codedKey p.1 p.2) = some y → y.dirty = true → codedBad s p.1 p.2 = true →
       lineBad (codecWrite s p.1 p.2) (blockPa (regionOf s p.1) p.2 / 64) = true) ∧
     (l.state = .snap → snapBad s l = false → snapBad u l = false → ∃ (t : State) (m : Launch), exec (.snapshotCopyDone tag) s = .next t ∧ m ∈ t.pkg.foyer.launches ∧
       m.graph = l.graph ∧ m.attempt = 1 ∧ m.state = .emit ∧ m.emitted = 0 ∧ t.pkg.foyer.seq = s.pkg.foyer.seq + 1) ∧
     (l.state = .restore → snapBad s l = false → ∃ t : State, exec (.restoreDone tag) s = .next t ∧
       launchOf t tag = some { l with state := .emit, emitted := 0 } ∧ t.pkg.foyer.seq = s.pkg.foyer.seq ∧ t.strands = s.strands) ∧
     ∀ a b, l.ranges = [(64 * a, 64)] → l.save = 64 * b → a < 2 ^ 30 → b < 2 ^ 30 → s.pkg.bringUp = false → snapBad s l = false →
       snapCoded s l = [] → l.counter / 64 ≠ a →
       (l.state = .snap → ∃ t : State, exec (.snapshotCopyDone tag) s = .next t ∧ lineNow t b false = lineNow s a false) ∧
       (l.state = .restore → ∃ t : State, exec (.restoreDone tag) s = .next t ∧ lineNow t a false = lineNow s b false))

/-! ## The management plane -/

/-- R125, R316-R318, R343, R345: tenant turnover, a fundamental reset and power-on: every slot is FREE, every register, cache
and local memory has its reset value, all of device memory outside the reserved areas reads as zero, the Seal key is new,
bring-up mode is cleared, and the package is fit exactly when no stack, Mezzanine or bay has failed its test. Retired rows,
repaired columns and disabled cores stay, what other packages and the host hold stays, and no completion slot is written. A
stack with a pseudo-channel of more than 2 failed lanes at both rates fails; one without a failing lane trains in full, or
at 8 Gb/s when its pattern test fails at 10. A power-on that meets an image whose signature fails leaves bring-up mode on
and the package UNFIT, and so does every turnover and fundamental reset until a power-on finds its images sound (log entry
73). Which registers a turnover keeps beyond those that R343 names, and what the march counts, is the model's reading (log
entry 38). That a FREE slot's registers read as after reset is the model's choice (log entry 5). -/
def Obligations.TenantTurnover : Prop :=
  (∀ (s : State) (i : Instr), (i = .powerOn ∧ s.pkg.usher.unsound.images ≠ []) ∨
      (i ∈ ([.tenantTurnover, .fundamentalReset] : List Instr) ∧ s.pkg.usher.unloaded = true) →
    ∃ t : State, exec i s = .next t ∧ t.pkg.bringUp = true ∧ t.pkg.fit = false ∧ t.pkg.usher.unloaded = true ∧
    t.pkg.fatal = none ∧ (∀ id, strandOf t id = Strand.reset id) ∧ t.pkg.sealKey = Config.sealKey s.pkg.turnovers) ∧
  ∀ (s : State) (i : Instr), i ∈ ([.tenantTurnover, .fundamentalReset, .powerOn] : List Instr) →
    (i = .powerOn → s.pkg.usher.unsound.images = []) → (i ≠ .powerOn → s.pkg.usher.unloaded = false) →
    ∃ t : State, exec i s = .next t ∧ (∀ id, strandOf t id = Strand.reset id) ∧ (∀ c, clusterOf t c = Cluster.reset) ∧
      (∀ c, coreOf t c = { Core.reset with enabled := (coreOf s c).enabled, retired := (coreOf t c).retired }) ∧
      (∀ c b r, r ∈ listGet [] (coreOf s c).retired b → r ∈ listGet [] (coreOf t c).retired b) ∧
      (∀ d, dieOf t d = { Die.reset d with status := (dieOf s d).status, tableBase := (dieOf s d).tableBase }) ∧
      (∀ a, a < memTop → reservedPa a = false → physRead t a 1 = 0 ∧ lineBad t (a / 64) = false) ∧
      (∀ d a, d < 4 → (dieOf s d).tableBase ≤ a → a < (dieOf s d).tableBase + 0xA00 → a < memTop → cellsGet t.mem.dram a = 0) ∧
      t.mem.host = s.mem.host ∧ t.mem.coded = [] ∧ t.mem.tags = [] ∧ t.mem.tlb = [] ∧ t.mem.lostStacks = [] ∧
      (∀ n, ringOf t n = Ring.reset) ∧ (∀ n, regionOf t n = Region.reset) ∧ t.pkg.ptroot = [] ∧ t.pkg.ptrootNow = [] ∧
      t.pkg.pool = [] ∧ t.pkg.poolNow = [] ∧ t.pkg.foyer = Foyer.reset ∧ t.pkg.engine = ⟨[], [], [], [], []⟩ ∧
      t.pkg.bringUp = false ∧ t.pkg.usher.unloaded = false ∧ t.pkg.fatal = none ∧ t.pkg.hostFatal = false ∧ t.pkg.turnovers = s.pkg.turnovers + 1 ∧
      t.pkg.sealKey = Config.sealKey s.pkg.turnovers ∧ t.pkg.messages = s.pkg.messages ∧
      (t.pkg.fit = true ↔ (∀ k < 12, tblGet .full t.pkg.usher.stackStates k ≠ .failed) ∧ s.pkg.usher.unsound.mezzes = [] ∧
        ∀ c b, (t.pkg.usher.columns.filter fun q => q.1 == c && q.2.1 == b).length ≤ 28) ∧
      (∀ q, q ∈ t.pkg.usher.columns ↔ q ∈ s.pkg.usher.columns ∨ q ∈ s.pkg.usher.unsound.columns) ∧
      ∀ k < 12,
        let u := s.pkg.usher
        ((∃ pc < 64, 2 < (failedLanes u u.failing10 k pc).length ∧ 2 < (failedLanes u u.failing8 k pc).length) →
          tblGet .full t.pkg.usher.stackStates k = .failed) ∧
        (k ∈ u.unsound.stacks10 → k ∈ u.unsound.stacks8 → tblGet .full t.pkg.usher.stackStates k = .failed) ∧
        (k ∉ u.unsound.stacks10 → (∀ x ∈ u.failing10 ++ u.repaired, x.1 ≠ k) → tblGet .full t.pkg.usher.stackStates k = .full) ∧
        (k ∈ u.unsound.stacks10 → k ∉ u.unsound.stacks8 → (∀ x ∈ u.failing10 ++ u.failing8 ++ u.repaired, x.1 ≠ k) →
          tblGet .full t.pkg.usher.stackStates k = .degraded)

/-- R341, R342: an expiry of the Usher watchdog, a second part that faults while one is out, a hub die that faults during a
replay and a journal lost in both copies are fatal, and reported to the host: the dump's header is written with every flag
clear, the unit and the digest of the measurements in it, its sections follow as the units stood, and each one's flag is set
once it is written. A die's sections lie one after another within the 3.5 GiB of its dump area. From then on the package
accepts only reads of its registers and its memory, and a reset. An error in a line is one of the copy that L2 holds, or
else of its DRAM. The order and the places of the sections, the numbers of hub units and the bytes of a measurement are log
entry 20.

R281, R302, R339, R373: the reset of a die puts it out: its slots are FREE, its landings empty, the tags of its work are
reported as lost, one report for each, and its dirty lines have reached memory; what only a turnover clears, and other dies'
strands, stay. A die that comes back reads its landing table; one that does not is disabled with its cores. After a hub-die
reset the launches that the journal leaves open, those of ended graphs too, are its last LAUNCH entries with neither DONE
nor FAIL behind them; the reset empties the intake, and a graph that was accepted and never started walks again from its
handle.

R316, R344, R346: the governor lowers the pass rate to half, then the clock to 1.2 GHz, while the average exceeds 3,000 W,
and restores the clock first and the pass rate last; it changes nothing else. The Usher answers a request for one of its six
measurements, for its SPDM versions 1.2 and 1.3, and for its certificate chain. The layout of measurement 6 as a list of
numbers is log entry 21. How much room each section of a dump has is the model's reading of R342 (log entry 20). What a die
reset clears, the parts of a package, and what a hub-die reset keeps are the model's readings (log entries 19, 30, 70). -/
def Obligations.DieResetsAndUsher : Prop :=
  ((∀ (s : State) (r : List Move), MemoriesWf s → s.pkg.fatal = none →
     let dumped := fun (u t : State) (kind detail : Nat) (unit : DumpUnit) => t.pkg.fatal = some (kind, detail) ∧ t.pkg.hostFatal = true ∧
       physRead t 0x2F20000000 8 = 0x0960D001 ∧ physRead t 0x2F20000008 8 = u.pkg.usher.dumps % 2 ^ 64 ∧
       physRead t 0x2F20000020 8 = (match unit with
         | .core c => c % 2 ^ 64
         | .stack k => k % 2 ^ 64
         | .hubUnit => (0x200 + Config.hubUnit kind detail) % 2 ^ 64
         | .other => (Config.fatalUnit kind detail).toNat) ∧
       (∀ i < 4, physRead t (0x2F20000030 + 8 * i) 8 =
         (bytesWord (sha256 ((List.range 6).flatMap fun j => Config.measurementBytes (j + 1) (measurement u (j + 1)))) i).toNat) ∧
       physRead t 0x2F20000050 8 = 26 ∧ (∀ i < 21, physRead t (0x2F20000058 + 8 * i) 8 = 0) ∧
       t.pkg.usher.dumps = u.pkg.usher.dumps + 1 ∧ t.pkg.usher.dumpNext = some 0 ∧ t.strands = u.strands ∧
       t.pkg.usher.dumpWords = (List.range 26).map (sectionWords u) ∧
       ∀ k < 26, physRead t (sectionEntry k) 8 = (dumpSection k).2 * 2 ^ 16 + (dumpSection k).1 ∧
         physRead t (sectionEntry k + 8) 8 = sectionPa t.pkg.usher.dumpWords k % 2 ^ 64 ∧
         physRead t (sectionEntry k + 16) 8 = 8 * (sectionWords u k).length % 2 ^ 64 ∧ physRead t (sectionEntry k + 24) 8 = 0
     let stops := fun (i : Instr) (kind detail : Nat) (unit : DumpUnit) => ∃ t : State, exec i s = .next t ∧ dumped s t kind detail unit
     let u := { s with agenda := r }
     stops .usherWatchdogExpiry 3 0 .hubUnit ∧
     (∀ d, partOut s = some d → stops .hubDieReset 0 d .hubUnit) ∧ (partOut s = none → jLost s = true → stops .hubDieReset 1 0 .other) ∧
     (∀ d e, d < 4 → (dieOf s d).status = .inService → partOut s = some e → stops (.dieReset d) 0 e .other) ∧
     (∀ c e, partOut s = some e → stops (.coreDisable c) 0 e (.core c)) ∧
     (s.agenda = .hubFault :: r → (∃ l ∈ s.pkg.foyer.launches, l.state = .purge ∨ l.state = .restore ∨ (l.state = .emit ∧ 1 < l.attempt)) →
       ∃ t, step s = .next t ∧ dumped u t 2 0 .hubUnit) ∧
     (∀ k e, k < 12 → k ∉ s.mem.lostStacks → partOut s = some e → s.agenda = .stackFault k :: r →
       ∃ t, step s = .next t ∧ dumped u t 0 e (.stack k)) ∧
     (∀ c e, c < 64 → partOut s = some e → s.agenda = .clusterFault c :: r → ∃ t, step s = .next t ∧ dumped u t 0 e .other) ∧
     ∀ n, s.agenda = .memoryError n :: r →
       let v := { u with mem := if tblFind s.mem.l2 n = none then { s.mem with poison := insertNat n s.mem.poison }
         else { s.mem with l2Poison := insertNat n s.mem.l2Poison } }
       lineBad v n = true ∧ (∀ j, j ≠ n → lineBad v j = lineBad s j) ∧
       ((journalLine n && jLost v) = false → step s = .next v) ∧
       (journalLine n = true → jLost v = true → ∃ t, step s = .next t ∧ dumped v t 1 0 .other)) ∧
   (∀ (s : State) (d : Nat), d < 4 →
     sectionWords s (6 + d) = (List.range 512).flatMap (fun i => saveImage s (512 * d + i)) ∧
     sectionWords s (14 + d) = (List.range 128).flatMap (fun i =>
       accRows (coreOf s (128 * d + i)).mezz ++ (Config.dumpMezz (coreOf s (128 * d + i)).mezz).take 0x10000)) ∧
   (∀ (s : State) (k : Nat), k < 26 →
     let ws := (List.range 26).map (sectionWords s)
     let d := (dumpSection k).2 * dieBytes + 0x2F20000000
     d + 0x440 ≤ sectionPa ws k ∧ sectionPa ws k + 8 * (listGet [] ws k).length ≤ d + 0xE0000000 ∧
       ∀ j < k, (dumpSection j).2 = (dumpSection k).2 → sectionPa ws j + 8 * (listGet [] ws j).length ≤ sectionPa ws k) ∧
   (∀ (s : State) (r : List Move) (k : Nat), MemoriesWf s → s.agenda = .dumpSection :: r → s.pkg.usher.dumpNext = some k → k < 26 →
     ∃ t : State, step s = .next t ∧ t.pkg.usher.dumpNext = (if k < 25 then some (k + 1) else none) ∧ t.strands = s.strands ∧
       physRead t (sectionEntry k) 8 = 2 ^ 32 + (dumpSection k).2 * 2 ^ 16 + (dumpSection k).1 ∧
       (∀ i x, (listGet [] s.pkg.usher.dumpWords k)[i]? = some x →
         physRead t (sectionPa s.pkg.usher.dumpWords k + 8 * i) 8 = x.toNat) ∧
       ∀ j < 26, j ≠ k → physRead t (sectionEntry j) 8 = physRead s (sectionEntry j) 8) ∧
   ∀ (s : State) (r : List Move), s.pkg.fatal ≠ none →
     (∀ m, s.agenda = m :: r → m ≠ .event .powerOn → m ≠ .event .fundamentalReset → (∀ o, m ≠ .event (.hostMemoryRead o)) →
       (∀ a b, m ≠ .hostStore a b) → (∀ o, m ≠ .registerRead o) → m ≠ .dumpSection → step s = .next { s with agenda := r }) ∧
     (s.agenda = [] → step s = .next s)) ∧
  ((∀ (s : State) (d : Nat), d < 4 →
     ((dieOf s d).status = .inService → partOut s = none → ∃ t : State, exec (.dieReset d) s = .next t ∧
       (dieOf t d).status = .out ∧ (∀ id, dieIdx id = d → (strandOf t id).slot = .free) ∧
       (∀ id, dieIdx id ≠ d → strandOf t id = strandOf s id) ∧ (∀ l, landingOf t d l = Landing.reset) ∧
       (dieOf t d).waitPool = [] ∧ (∀ g, (workOf s d).count g ≤ t.pkg.foyer.losses.count g) ∧
       (∀ c, (clusterOf t c).atrium = (clusterOf s c).atrium) ∧
       (∀ c, (coreOf t c).tcm = (coreOf s c).tcm ∧ (coreOf t c).enabled = (coreOf s c).enabled ∧
         (coreOf t c).retired = (coreOf s c).retired) ∧
       (MemoriesWf s → s.mem.coded = [] → (∀ p ∈ s.mem.l2, p.2.dirty = true → journalLine p.1 = true → lineBad s p.1 = false) → ∀ n l, n < 2 ^ 34 → 64 * n / dieBytes = d → tblFind s.mem.l2 n = some l →
         l.dirty = true → lineBad s n = false → dramLine t.mem n = lineNow s n false ∧ tblFind t.mem.l2 n = none)) ∧
     ((dieOf s d).status ≠ .inService → exec (.dieReset d) s = .next s) ∧
     (∀ e, (dieOf s d).status ≠ .out → exec (.dieBack d e) s = .next s) ∧
     ((dieOf s d).status = .out →
       (∃ t : State, exec (.dieBack d true) s = .next t ∧ (dieOf t d).status = .inService ∧ t.mem = s.mem ∧ ∀ l < 32, ∀ j < 8,
         (descWord (dieOf t d) l j).toNat = physRead s ((dieOf s d).tableBase + 8 * (8 * l + j)) 8 % 2 ^ 64) ∧
       ∃ t : State, exec (.dieBack d false) s = .next t ∧ (dieOf t d).status = .disabled ∧ t.mem = s.mem ∧ t.strands = s.strands ∧
         ∀ k < 128, (coreOf t (128 * d + k)).enabled = false)) ∧
   (∀ (es : List JEntry) (e : JEntry), e ∈ jOpen es ↔ ∃ p q, es = p ++ e :: q ∧ e.kind = 2 ∧
     ∀ f ∈ q, f.tag = e.tag → f.queue = e.queue → f.graphSeq = e.graphSeq → f.kind ≠ 2 ∧ f.kind ≠ 3 ∧ f.kind ≠ 4) ∧
   ∀ s : State, partOut s = none → jLost s = false →
     (jEntries s = [] → ∃ t : State, exec .hubDieReset s = .next t ∧ t.pkg.foyer.intake = [] ∧ t.pkg.foyer.walks = [] ∧
       t.pkg.foyer.waiting = [] ∧ t.pkg.foyer.launches = [] ∧ t.pkg.foyer.accepted = s.pkg.foyer.accepted ∧
       t.strands = s.strands ∧ t.mem.dram = s.mem.dram) ∧
     ∀ e, jEntries s = [e] → e.kind = 1 → ∃ t : State, exec .hubDieReset s = .next t ∧ t.pkg.foyer.intake = [] ∧
       t.pkg.foyer.walks = [⟨⟨e.queue, e.graphSeq, e.node⟩, e.node, .atNode, 0, 0⟩] ∧ t.pkg.foyer.launches = [] ∧
       t.strands = s.strands) ∧
  (∀ s : State, let u := s.pkg.usher
     (∀ w, ∃ t : State, exec (.powerSample w) s = .next t ∧ t.pkg.usher.time = u.time + 1 ∧
       t = { s with pkg := { s.pkg with usher := { u with time := t.pkg.usher.time, passEighths := t.pkg.usher.passEighths,
                                                          clockMHz := t.pkg.usher.clockMHz } } } ∧
       (3000 < w → 4 < u.passEighths → t.pkg.usher.passEighths = u.passEighths - 1 ∧ t.pkg.usher.clockMHz = u.clockMHz) ∧
       (3000 < w → u.passEighths ≤ 4 → t.pkg.usher.passEighths = u.passEighths ∧
         t.pkg.usher.clockMHz = max 1200 (u.clockMHz - 100)) ∧
       (w ≤ 3000 → u.clockMHz < 2100 → t.pkg.usher.passEighths = u.passEighths ∧
         t.pkg.usher.clockMHz = min 2100 (u.clockMHz + 100)) ∧
       (w ≤ 3000 → 2100 ≤ u.clockMHz → t.pkg.usher.passEighths = min 8 (u.passEighths + 1) ∧
         t.pkg.usher.clockMHz = u.clockMHz)) ∧
     (∀ r, s.pkg.fatal = none → (s.agenda = .spdmVersions :: r → ∃ t : State, step s = .next t ∧
         t.pkg.usher.answers = .versions [1, 1] [2, 3] :: u.answers ∧ t.mem = s.mem ∧ t.strands = s.strands) ∧
       (s.agenda = .spdmChain :: r → ∃ t : State, step s = .next t ∧
         t.pkg.usher.answers = .chain Config.certificateChain :: u.answers ∧ t.mem = s.mem ∧ t.strands = s.strands)) ∧
     ∀ k (nonce : Word), (k = 0 ∨ 6 < k → exec (.spdmRequest k nonce) s = .next s) ∧
       (0 < k → k ≤ 6 → ∃ (t : State) (r : SpdmResponse), exec (.spdmRequest k nonce) s = .next t ∧
         t.pkg.usher.responses = r :: u.responses ∧ r.index = k ∧ r.nonce = nonce ∧ t.strands = s.strands ∧ t.mem = s.mem ∧
         (k = 5 → ∃ l, r.value = l ++ (List.range 12).map fun n => match tblGet StackState.full u.stackStates n with
           | .full => 10 | .degraded => 8 | .failed => 0) ∧
         (k = 6 → r.value = ((List.range 4).map fun d => ((dieOf s d).hpart ++ (dieOf s d).hmask).map (·.toNat)).flatten ++
           [if s.pkg.bringUp then 1 else 0, if s.pkg.fit then 1 else 0])))

/-! ## The fabric -/

/-- R353, R354, R356: a packet for another package leaves by the minimal port with the most free buffers, a tie going to the
lower; when all are full and it has waited, by any other port with NMIN one higher; at 63 hops, or without a minimal port,
it is discarded and counted. A packet in the Stair keeps to its Stair route. Waiting packets become suspect in order. R350,
R351: a packet that arrives takes one of its port's eight adaptive buffers, or its Stair buffer, with the payload that LEN
gives; one whose header is not accepted, and any other TLP, is discarded and counted. That a packet without a free buffer
stays at the neighbour is log entry 65.

R350, R352, R355: a token whose epoch is not older records it, lets written configuration take effect, and moves the oldest
suspect packet into the Stair when its buffer is free; otherwise it goes on, as a packet of class TOKEN with its epoch on
NEXTPORT (its other fields are free values, log entry 71). An older token is discarded. A moved packet has ESC set. A master
without a token sends the next epoch. FRCFG ignores a bad RINGLEN. A fabric port trains. The choice among non-minimal ports
and the first epoch are free values (log entry 37); how Stair buffers are numbered and when a written configuration counts
are the model's readings (log entries 35, 36). That a packet without a minimal port is discarded and counted is the model's
inference from R353 and R371, which say no such thing of it. -/
def Obligations.PacketForwarding : Prop :=
  ((∀ (s u : State) (r : List Move) (q : Nat) (p : Packet), s.pkg.fatal = none → u = { s with agenda := r } →
     (s.agenda = .otherTlpIn :: r → step s = .next { u with net := { s.net with otherTlps := s.net.otherTlps + 1 } }) ∧
     (s.agenda = .packetIn q p :: r → q < 16 →
       let used := (s.net.waiting.filter fun x => x.port == q && pkEsc x.packet == pkEsc p).length
       let room := used < if pkEsc p then 1 else 8
       let good := pkClass p ≤ 7 ∧ fld p.hw0 30 2 = 0 ∧ fld p.hw1 40 8 = 0 ∧ fld p.hw1 48 7 ≤ 32
       (room → good → ∃ y : Packet, step s = .next { u with net := { s.net with
           waiting := s.net.waiting ++ [⟨y, q, none, false⟩] } } ∧ y.hw0 = p.hw0 ∧ y.hw1 = p.hw1 ∧
         y.payload.length = fld p.hw1 48 7 ∧ ∀ j < fld p.hw1 48 7, listGet 0 y.payload j = listGet 0 p.payload j) ∧
       (room → ¬ good → ∃ t : State, step s = .next t ∧ t.net = { s.net with discarded := s.net.discarded + 1 } ∧
         t.pkg.usher.log = ⟨351, p.hw0.toNat⟩ :: s.pkg.usher.log ∧ t.mem = s.mem ∧ t.strands = s.strands) ∧
       (¬ room → step s = .next u))) ∧
   (∀ (s : State) (i : Nat) (free : List Nat) (x : Waiting), s.net.waiting[i]? = some x → pkClass x.packet ≠ 7 →
     let p := x.packet
     let ports := minimalPorts s (pkDpkg p)
     let room := portFree s free
     let away := pkDpkg p ≠ pkgNumber s ∧ pkHops p ≠ 63
     let leaves := fun (q n : Nat) => ∃ (t : State) (y : Packet), exec (.packetForward i free) s = .next t ∧
       t.net.waiting = s.net.waiting.eraseIdx i ∧ t.net.sent = (q, y) :: s.net.sent ∧ y.hw0 = p.hw0 ∧ y.payload = p.payload ∧
       pkHops y = pkHops p + 1 ∧ pkNmin y = pkNmin p + n ∧ pkEsc y = pkEsc p ∧ pkAddr y = pkAddr p ∧ t.strands = s.strands ∧
       t.mem = s.mem ∧ t.pkg = s.pkg
     let lost := ∃ t : State, exec (.packetForward i free) s = .next t ∧ t.net.waiting = s.net.waiting.eraseIdx i ∧
       t.net.sent = s.net.sent ∧ t.net.discarded = s.net.discarded + 1 ∧ t.mem = s.mem ∧ t.strands = s.strands
     (pkDpkg p = pkgNumber s → exec (.packetForward i free) s = .next s) ∧
     (pkDpkg p ≠ pkgNumber s → pkHops p = 63 ∨ (pkEsc p = false ∧ ports = []) → lost) ∧
     (away → pkEsc p = true → (room (stairPort s p) ≠ 0 → leaves (stairPort s p) 0) ∧
       (room (stairPort s p) = 0 → exec (.packetForward i free) s = .next s)) ∧
     (away → pkEsc p = false →
       (∀ q ∈ ports, room q ≠ 0 → (∀ r ∈ ports, room r < room q ∨ (room r = room q ∧ q ≤ r)) → leaves q 0) ∧
       ((∀ q ∈ ports, room q = 0) → ports ≠ [] →
         ((∃ q < 16, q ∉ ports ∧ room q ≠ 0) → x.nonminimal = true → pkNmin p < 2 →
           ∃ q, q ∉ ports ∧ room q ≠ 0 ∧ leaves q 1) ∧
         (x.nonminimal = false ∨ 2 ≤ pkNmin p ∨ (∀ q < 16, q ∉ ports → room q = 0) →
           exec (.packetForward i free) s = .next s))) ∧
     exec (.nonminimalTimeout i) s =
       .next { s with net := { s.net with waiting := s.net.waiting.set i { x with nonminimal := true } } } ∧
     (x.suspect = none → pkEsc p = false → exec (.suspectTimeout i) s =
       .next { s with net := { s.net with waiting := s.net.waiting.set i { x with suspect := some s.net.suspects },
                                          suspects := s.net.suspects + 1 } }) ∧
     (x.suspect ≠ none ∨ pkEsc p = true → exec (.suspectTimeout i) s = .next s)) ∧
   ∀ (s : State) (k q : Nat) (free : List Nat) (p : Packet), s.net.stair[k]? = some (q, p) →
     let i := Instr.packetForward (s.net.waiting.length + k) free
     (pkHops p = 63 → ∃ t : State, exec i s = .next t ∧ t.net.stair = s.net.stair.eraseIdx k ∧ t.net.sent = s.net.sent ∧
       t.net.discarded = s.net.discarded + 1) ∧
     (pkHops p ≠ 63 → portFree s free q = 0 → exec i s = .next s) ∧
     (pkHops p ≠ 63 → portFree s free q ≠ 0 → ∃ (t : State) (y : Packet), exec i s = .next t ∧ t.net.stair = s.net.stair.eraseIdx k ∧
       t.net.sent = (q, y) :: s.net.sent ∧ y.hw0 = p.hw0 ∧ pkHops y = pkHops p + 1 ∧ pkNmin y = pkNmin p ∧ pkEsc y = pkEsc p)) ∧
  (let passes := fun (s t : State) (e : BitVec 16) => t.net.tokens = e :: s.net.tokens ∧ ∃ y : Packet,
     t.net.sent = (fld t.net.frcfg 22 4, y) :: s.net.sent ∧ pkClass y = 7 ∧ BitVec.ofNat 16 (pkAddr y) = e ∧ y.payload = []
   (∀ (s : State) (e : BitVec 16),
     let older := ∃ l, s.net.epoch = some l ∧ 2 ^ 15 ≤ (e - l).toNat
     (s.net.token ≠ .idle ∨ older → exec (.tokenArrival e) s = .next s) ∧
     (s.net.token = .idle → ¬ older → ∃ t : State, exec (.tokenArrival e) s = .next t ∧ t.net.epoch = some e ∧
       (∀ w, s.net.frcfgNew = some w → t.net.frcfg = w ∧ t.net.frcfgNew = none) ∧
       (s.net.frcfgNew = none → t.net.frcfg = s.net.frcfg) ∧ t.net.routesNew = [] ∧
       (∀ k m q, s.net.routesNew = [(k, m, q)] → tblGet 0 t.net.minimal k = m ∧ tblGet 0 t.net.stairRoute k = q ∧
         t.net.unreachable = []) ∧ t.mem = s.mem ∧ t.strands = s.strands ∧
       ((∀ x ∈ s.net.waiting, x.suspect = none) → t.net.token = .idle ∧ passes s t e ∧
         t.net.waiting = s.net.waiting) ∧
       (s.net.frcfgNew = none → s.net.routesNew = [] → ∀ i x n, s.net.waiting[i]? = some x → x.suspect = some n →
         (∀ (j : Nat) (y : Waiting) (m : Nat), s.net.waiting[j]? = some y → y.suspect = some m → j = i ∨ n < m) →
         (stairFree s x.packet = true → t.net.token = .move x.packet ∧ t.net.waiting = s.net.waiting.eraseIdx i ∧
           t.net.tokens = s.net.tokens ∧ t.net.sent = s.net.sent) ∧
         (stairFree s x.packet = false → t.net.token = .idle ∧ t.net.waiting = s.net.waiting ∧
           passes s t e)))) ∧
   (∀ s : State,
     (fld s.net.frcfg 31 1 = 0 ∨ s.net.token ≠ .idle → exec .tokenRegeneration s = .next s) ∧
     (fld s.net.frcfg 31 1 = 1 → s.net.token = .idle → ∃ (t : State) (e : BitVec 16), exec .tokenRegeneration s = .next t ∧
       passes s t e ∧ t.net = { s.net with tokens := t.net.tokens, sent := t.net.sent } ∧ (∀ l, s.net.epoch = some l → e = l + 1) ∧ t.pkg = s.pkg ∧
       t.strands = s.strands ∧ t.mem = s.mem) ∧
     (s.net.token = .idle → exec .stairMoveComplete s = .next s) ∧
     ∀ p, s.net.token = .move p → ∃ (t : State) (y : Packet), exec .stairMoveComplete s = .next t ∧ t.net.token = .idle ∧
       y.hw0 = p.hw0 ∧ pkEsc y = true ∧ y.payload = p.payload ∧
       (pkDpkg p = pkgNumber s → t.net.waiting = s.net.waiting ++ [⟨y, 16, none, false⟩] ∧ t.net.stair = s.net.stair) ∧
       (pkDpkg p ≠ pkgNumber s → t.net.stair = s.net.stair ++ [(stairPort s p, y)] ∧ t.net.waiting = s.net.waiting) ∧
       ∀ e, s.net.epoch = some e → passes s t e) ∧
   (∀ (s : State) (v : Word),
     let r := fld v 32 9
     (1 ≤ r → r ≤ 256 → exec (.frcfgWrite v) s =
       .next { s with net := { s.net with frcfgNew := some (v &&& 0x1FFFFC00FFF) } }) ∧
     (r = 0 ∨ 256 < r → ∃ (t : State) (w : Word), exec (.frcfgWrite v) s = .next t ∧
       t.net = { s.net with frcfgNew := some w } ∧ fld w 32 9 = fld (s.net.frcfgNew.getD s.net.frcfg) 32 9 ∧
       fld w 0 32 = fld (v &&& 0x1FFFFC00FFF) 0 32 ∧ t.pkg.usher.log = ⟨352, r⟩ :: s.pkg.usher.log)) ∧
   ∀ (s : State) (q w r : Nat) (up : Bool),
     (q < 16 → w = 16 ∨ w = 8 ∨ w = 4 → exec (.fabricPortTraining q w r up) s =
       .next { s with net := { s.net with links := tblSet s.net.links q ⟨w, min r 128, up⟩ } }) ∧
     (16 ≤ q ∨ ¬ (w = 16 ∨ w = 8 ∨ w = 4) → exec (.fabricPortTraining q w r up) s = .next s))

/-- R351, R358, R371: what this package does with a packet that reaches it. A token acts as it does at a port. A response
acknowledges and a NACK resends from its SEQ on. A sequenced packet that is next in its stream is applied and answered, a
duplicate is answered with the response kept among the last 1,024 and not applied, a later one is held, and refused with
NACK when the reorder buffer of its die holds 4,096. A packet that is not acknowledged is sent again; a destination that
acknowledges nothing to a source that waits for it becomes unreachable for that source and for no other, and its stores on
their way there are lost with the launch tag of their writer (that the event names its source is log entry 86). What an
applied packet does to memory is the model's reading (log entry 22). That the event of an unreachable destination names its
source is the model's choice (log entry 86). -/
def Obligations.PacketDelivery : Prop :=
  (∀ (s : State) (i : Nat) (x : Waiting), s.net.waiting[i]? = some x →
    let p := x.packet
    let rest := s.net.waiting.eraseIdx i
    let u := { s with net := { s.net with waiting := rest } }
    let k := streamKey p
    let e := tblGet (0 : BitVec 16) s.net.expected k
    let own := pkDpkg p = pkgNumber s
    let seq := pkClass p ≠ 3 ∧ pkClass p ≠ 4 ∧ pkClass p ≠ 7
    let answer := fun (y : Packet) (cls : Nat) => pkClass y = cls ∧ fld y.hw0 50 14 = pkSource p ∧ pkSid y = pkSid p ∧ pkSeq y = pkSeq p
    let a := pkAddr p / 8 * 8
    (pkClass p = 7 → exec (.packetDeliver i) s = exec (.tokenArrival (BitVec.ofNat 16 (pkAddr p))) u) ∧
    (pkClass p ≠ 7 → ¬ own → exec (.packetDeliver i) s = .next s) ∧
    (own → pkClass p = 3 → exec (.packetDeliver i) s = exec (.ackReceive (pkSid p) (pkSource p) (pkSeq p)) u) ∧
    (own → pkClass p = 4 → exec (.packetDeliver i) s = exec (.nackReceive (pkSid p) (pkSource p) (pkSeq p)) u) ∧
    (own → seq → pkSeq p = e → (∀ q ∈ s.net.reorder, streamKey q ≠ k) →
      ∃ (t : State) (y : Packet), exec (.packetDeliver i) s = .next t ∧ tblGet (0 : BitVec 16) t.net.expected k = e + 1 ∧
        t.net.waiting = rest ++ [⟨y, 16, none, false⟩] ∧ answer y 3 ∧ t.net.reorder = s.net.reorder ∧
        t.net.answered = (k, pkSeq p, y) :: s.net.answered ∧ t.strands = s.strands ∧
        (pkClass p = 0 → a + 8 * max 1 p.payload.length ≤ memTop → t.mem = s.mem ∧ y.payload.length = 8 ∧
          ∀ j < 8, (listGet 0 y.payload j).toNat = physRead s (a / 64 * 64 + 8 * j) 8) ∧
        (∀ w, MemoriesWf s → pkClass p = 1 → p.payload = [w] → a + 8 ≤ memTop → physRead t a 8 = w.toNat ∧
          ∀ c r, Apart 0 (.phys a false) 8 c r → targetRead t c r 1 = targetRead s c r 1)) ∧
    (own → seq → 2 ^ 15 ≤ (pkSeq p - e).toNat →
      let kept := (s.net.answered.filter fun q => q.1 == k).take 1024
      (∀ q, kept.find? (fun q => q.2.1 == pkSeq p) = some q → exec (.packetDeliver i) s =
        .next { s with net := { s.net with waiting := rest ++ [⟨q.2.2, 16, none, false⟩] } }) ∧
      ((∀ q ∈ kept, q.2.1 ≠ pkSeq p) → exec (.packetDeliver i) s = .next u)) ∧
    (own → seq → pkSeq p ≠ e → (pkSeq p - e).toNat < 2 ^ 15 →
      (∀ q ∈ s.net.reorder, streamKey q = k → pkSeq q ≠ pkSeq p) →
      ((s.net.reorder.filter fun q => pkDdie q == pkDdie p).length < 4096 ∨ pkEsc p = true →
        exec (.packetDeliver i) s = .next { s with net := { s.net with waiting := rest, reorder := s.net.reorder ++ [p] } }) ∧
      (4096 ≤ (s.net.reorder.filter fun q => pkDdie q == pkDdie p).length → pkEsc p = false → ∃ (t : State) (y : Packet),
        exec (.packetDeliver i) s = .next t ∧ t.net.waiting = rest ++ [⟨y, 16, none, false⟩] ∧ answer y 4 ∧
        t.net.reorder = s.net.reorder ∧ t.mem = s.mem))) ∧
  (∀ (s : State) (sid dest : Nat) (seq : BitVec 16),
    exec (.ackReceive sid dest seq) s = .next { s with net := { s.net with
      unacked := s.net.unacked.filter fun u => !(u.sid == sid && u.dest == dest && u.seq == seq) } } ∧
    exec (.nackReceive sid dest seq) s = .next { s with net := { s.net with
      waiting := s.net.waiting ++ ((s.net.unacked.filter fun u => u.sid == sid && u.dest == dest &&
        decide ((u.seq - seq).toNat < 2 ^ 15)).map fun u => ⟨u.packet, 16, none, false⟩) } }) ∧
  (∀ (s : State) (i : Nat) (u : Unacked), s.net.unacked[i]? = some u → exec (.resendTimeout i) s =
    .next { s with net := { s.net with waiting := s.net.waiting ++ [⟨u.packet, 16, none, false⟩] } }) ∧
  ∀ (s : State) (sid d : Nat),
    s.pkg.engine.ops = [] → s.pkg.engine.remote = [] →
    ∃ t : State, exec (.unreachableTimeout (sid, d)) s = .next t ∧ t.strands = s.strands ∧ t.mem.dram = s.mem.dram ∧
      t.net.unacked = s.net.unacked.filter (fun x => !(x.sid == sid && x.dest == d)) ∧
      (∀ k e, (k, e) ∈ t.net.unreachable ↔ (k, e) ∈ s.net.unreachable ∨ (k = sid ∧ e = d)) ∧
      ((∀ u ∈ s.net.unacked, u.sid = sid → u.dest ≠ d) → t.mem = s.mem ∧ t.pkg = s.pkg) ∧
      ∀ u ∈ s.net.unacked, u.sid = sid → u.dest = d →
        (∃ l ∈ s.pkg.foyer.launches, l.tag = u.tag ∧ l.state = .run) → u.tag ∈ t.pkg.foyer.losses

/-! ## Encoding and the machine -/

/-- R36-R63: words that the manual writes out decode to the instructions it gives them for; 0 and all ones are the guard words,
and a word with a reserved field set is no instruction. -/
def Obligations.DecodeWords : Prop :=
  (∀ x ∈ [(0x08000000, Instr.nop), (0x28856010, .ldd 4 5 16), (0x04632000, .add 3 3 4), (0x08E7FFFF, .addi 7 7 0xFFFF),
      (0x44E0FFFD, .bne 7 0 0xFFFD), (0x64002800, .endStrand), (0x34203FF8, .stt 1 0 0x1FF8), (0x64201900, .getc 1 0x100),
      (0x64012101, .setc 1 0x101), (0x64000800, .rets), (0x64004002, .vacq 2), (0x64004800, .vrel), (0x80620000, .vsetcfg 3 2),
      (0x80A40800, .vbegin 5 4), (0x88443300, .vadd 2 4 6 1 1), (0x88443200, .vadd 2 4 6 1 0), (0x6C860002, .ldl 4 6 0 1),
      (0xC4853200, .cpy 4 5 6 1), (0xC8E30005, .bararr 7 3 0 0), (0xC9070006, .barwait 8 7), (0xC0600001, .mxtld 1 1),
      (0xC04B0003, .mxr 37 1), (0xC0A01005, .mxdrs 5 1), (0xC0600007, .mxfclr 1 1), (0xC0000008, .mxwait),
      (0xDC640002, .hpost 3 4 2), (0xDC640800, .gsig 3 4), ((0, .guard 0) : BitVec 32 × Instr), (0xFFFFFFFF, .guard 0xFFFFFFFF),
      (0x04632708, .illegalInstruction 0x04632708), (0x08000001, .illegalInstruction 0x08000001)], decodeWord x.1 = x.2) ∧
  decode [0x00, 0x20, 0x63, 0x04, 0xAA] = .ok (.add 3 3 4, [0xAA])

/-- R36-R63: every well-formed instruction, with every operand at every value, is what the decoder reads from its word. The term
illegalInstruction, which stands for every word that is no instruction, has no word of its own and is left out; EncodeDecode
says what holds of it. -/
def Obligations.DecodeEncode : Prop :=
  ∀ (i : Instr) (w : BitVec 32), wellFormed i = true → encode i = some w → (∀ v, i ≠ .illegalInstruction v) → decodeWord w = i

/-- R39, R40: decoding loses no bit: the instruction read from any word has that word, and is well formed. -/
def Obligations.EncodeDecode : Prop :=
  ∀ w : BitVec 32, encode (decodeWord w) = some w ∧ wellFormed (decodeWord w) = true ∧
    (decodeWord w = .guard w ↔ w = 0 ∨ w = 0xFFFFFFFF)

/-- R36, R203, R229, R278: the turn of a strand that runs: a due pre-emption is taken where one may be; otherwise a result on
its way is written first, then an entry that RETS has redispatched runs, then the word at the program counter, whatever
instruction it is. Behind an oldest entry that waits on the array side, and cannot run in its turn, the control side goes on
(R201): it issues the next word, unless that must wait for the VIQ or for a pending register (R34, R46, R203; which words
those are is log entry 90), or traps, which waits for the older entries (R101); an entry that completes is counted off by
the SBARs that it was in E of (R210). A word that the sequencer of the core takes in turn (R274, R276) runs when it is
admitted, and the issue of a word marks a strand of a landing that drains as due and counts instructions after a link (R230,
R277). A strand that drains, saves or is parked goes on with that. R63, R73, R86, R294: the fetch reads four bytes of an
executable page, and traps with the address of its word; a pool word is refused before the word's line is read. The agenda,
which says whose turn it is, is the model's own (log entry 1). TVAL of a fetch trap, the PC sign-extended, is its reading
(log entry 77), and so is the moment at which a changed bitmap is seen (log entry 78). -/
def Obligations.StepRunsDecoded : Prop :=
  (∀ (s : State) (r : List Move) (u : State), s.pkg.fatal = none →
    (s.agenda = [] ∧ u = s) ∨ (∃ id, s.agenda = .run id :: r ∧ u = { s with agenda := r, cur := id }) →
    let t := strandOf u u.cur
    (preemptsHere u u.cur = true → step s = exec (.preemptionTaken u.cur) u) ∧
    (preemptsHere u u.cur = true → t.slot = .run ∨ t.slot = .park) ∧
    (preemptsHere u u.cur = false → t.slot = .run → t.arc.results ≠ [] → step s = exec (.resultQueueReturn u.cur) u) ∧
    (∀ h l, preemptsHere u u.cur = false → (t.slot = .run ∧ t.arc.results = []) ∨ t.slot = .save → t.arc.viq = h :: l →
      t.arc.waits = none →
      let v := admitEntry u u.cur h.word
      (v.2 = false → step s = .next v.1) ∧
      (v.2 = true → (∀ f, exec (decodeWord h.word) v.1 = .fault f → step s = .fault f) ∧
        ∀ w, exec (decodeWord h.word) v.1 = .next w → step s = .next (if (strandOf w u.cur).arc.viq.length < t.arc.viq.length then
          modStrand w u.cur fun x => { x with holds := x.holds.map fun y => { y with ahead := y.ahead - 1 } } else w))) ∧
    (∀ h l, preemptsHere u u.cur = false → (t.slot = .run ∧ t.arc.results = []) ∨ t.slot = .save ∨ t.slot = .park →
      t.arc.viq = h :: l → t.arc.waits ≠ none →
      let stall := fun (x : State) => step s = .next (modStrand x u.cur fun y => { y with blocked := some .viq })
      let goesOn := fun (x : State) =>
        let z := strandOf x u.cur
        (z.slot = .park → step s = exec (.parkWake u.cur) x) ∧
        (z.slot ≠ .run → z.slot ≠ .park → step s = .next x) ∧
        (z.slot = .run → stopsIssue z = true → step s = .next x) ∧
        (∀ y, z.slot = .run → stopsIssue z = false → fetch x u.cur = .trap y → stall x) ∧
        ∀ w, z.slot = .run → stopsIssue z = false → fetch x u.cur = .word w →
          (waitsForViq z w = true ∨ touchesPending z w = true → stall x) ∧
          (waitsForViq z w = false → touchesPending z w = false → ∀ y, exec (decodeWord w) (atIssue x u.cur) = .next y →
            (tookTrap z (strandOf y u.cur) w = true → stall x) ∧
            (tookTrap z (strandOf y u.cur) w = false →
              step s = .next (modStrand y u.cur fun q => { q with atStrip := stripWord w && q.blocked.isNone })))
      let v := admitEntry u u.cur h.word
      (v.2 = false → goesOn v.1) ∧
      (v.2 = true → (∀ f, exec (decodeWord h.word) (headState v.1 u.cur) = .fault f → step s = .fault f) ∧
        ∀ w, exec (decodeWord h.word) (headState v.1 u.cur) = .next w →
          let x := modStrand { w with cur := u.cur } u.cur (afterHead t)
          let z := strandOf x u.cur
          ((z.arc.waits ≠ none ∧ z.arc.viq.length = t.arc.viq.length) → goesOn x) ∧
          (¬ (z.arc.waits ≠ none ∧ z.arc.viq.length = t.arc.viq.length) → step s = .next x))) ∧
    (∀ w, preemptsHere u u.cur = false → t.slot = .run → t.arc.results = [] → t.arc.viq = [] → fetch u u.cur = .word w →
      let v := admitEntry u u.cur w
      (v.2 = true → step s = exec (decodeWord w) (atIssue v.1 u.cur)) ∧ (v.2 = false → step s = .next v.1)) ∧
    (∀ w, needsSequencer w = false ∨ t.arc.bays = 0 → admitEntry u u.cur w = (u, true)) ∧
    (∀ w, (admitEntry u u.cur w).1.strands = u.strands ∧ (admitEntry u u.cur w).1.mem = u.mem) ∧
    (atIssue u u.cur).mem = u.mem ∧ (atIssue u u.cur).cores = u.cores ∧ (atIssue u u.cur).pkg = u.pkg ∧
    (∀ j, j ≠ u.cur → strandOf (atIssue u u.cur) j = strandOf u j) ∧
    (∃ d n, strandOf (atIssue u u.cur) u.cur = { t with due := d, linkCount := n }) ∧
    (mustDrain u u.cur = false → holdsLink u u.cur = false → atIssue u u.cur = u) ∧
    (∀ v, preemptsHere u u.cur = false → t.slot = .run → t.arc.results = [] → t.arc.viq = [] → fetch u u.cur = .trap v → step s = .next v) ∧
    (t.slot = .drain → step s = exec (.endDrain u.cur) u) ∧
    (preemptsHere u u.cur = false → t.slot = .park → t.arc.viq = [] ∨ t.arc.waits = none → step s = exec (.parkWake u.cur) u) ∧
    (t.slot = .save → t.arc.results = [] → t.arc.viq = [] → step s = exec (.contextSaveComplete u.cur) u) ∧
    (t.slot = .save → t.arc.results ≠ [] → t.arc.viq = [] → step s = exec (.resultQueueReturn u.cur) u) ∧
    (t.slot = .free ∨ t.slot = .start → step s = .next u)) ∧
  (∀ (s : State) (i : Instr) (r : List Move), s.pkg.fatal = none → s.agenda = .event i :: r →
    step s = exec i { s with agenda := r }) ∧
  ∀ (s : State) (id : Nat),
    let t := strandOf s id
    let a : Word := t.pc.signExtend 64
    let traps := fun (cause : Nat) => ∃ u, fetch s id = .trap u ∧ strandOf u id = trapped cause a (t.pc.zeroExtend 64) t ∧
      u.mem = s.mem ∧ ∀ j, j ≠ id → strandOf u j = strandOf s j
    (∀ f, translateFetch s (agentOf s id) a = .error f → traps f.cause) ∧
    ∀ q, translateFetch s (agentOf s id) a = .ok q →
      ((poolCheck s (stLanding t) a).1 = true → traps cEXEC_POOL) ∧
      ((poolCheck s (stLanding t) a).1 = false → targetBad s (clusterIdx id) q 4 = true → traps cMEM_UE) ∧
      ((poolCheck s (stLanding t) a).1 = false → targetBad s (clusterIdx id) q 4 = false →
        fetch s id = .word (BitVec.ofNat 32 (targetRead s (clusterIdx id) q 4)))

/-- What reset leaves, as the manual states it: bring-up mode (R345), FREE slots with PRIV, NEST and PTRAP 0 and NOBAYS 1 (R80),
the reset masks of R286, FRCFG of a fabric of one package (R352), disabled rings (R329) and regions (R297), barriers without
a phase (R252), W2BASE 0 (R327) and no page table (R290). The first step, which boots the Usher and runs a turnover, ends
bring-up mode (R343, R345; that it is the first step from reset is log entry 14). That memory lists nothing is the model's
own reading of RAM after power-on (log entry 4). -/
def Obligations.ResetAndInvariant : Prop :=
  let s := State.reset
  s.pkg.bringUp = true ∧ s.pkg.fatal = none ∧ s.mem.tags = [] ∧ s.mem.l2 = [] ∧ MemoriesWf s ∧
    (∀ id < 2048, (strandOf s id).slot = .free ∧ fld (strandOf s id).status 23 9 = coreIdx id ∧
      fld (strandOf s id).status 21 2 = slotIdx id ∧ fld (strandOf s id).status 0 21 = 4) ∧
    fld s.net.frcfg 32 9 = 1 ∧ fld s.net.frcfg 31 1 = 1 ∧ fld s.net.frcfg 30 1 = 1 ∧ fld s.net.frcfg 0 30 = 0 ∧
    (∀ d < 4, (dieOf s d).hpart = [0, 0, 0, 0] ∧ (dieOf s d).hmask = hmaskReset ∧ (dieOf s d).status = .inService) ∧
    (∀ n, ringOf s n = ⟨0, 0, 0, 0, 0⟩ ∧ (regionOf s n).rrate = 0 ∧ (regionOf s n).errlim = 0x7FF0000000000000) ∧
    (∀ c b, tblGet Barrier.reset (clusterOf s c).bars b = ⟨0, 0, false, .uninit⟩) ∧ s.pkg.w2base = 0 ∧ s.pkg.ptroot = [] ∧
    ∃ t, step s = .next t ∧ t.agenda = [] ∧ t.pkg.bringUp = false ∧ t.pkg.fit = true ∧ ∀ id, (strandOf t id).slot = .free

/-- Every step keeps the canonical form of every memory of the package: device memory, host memory, the TCMs and the Atria. The
canonical form is the model's representation of memory (log entry 4). -/
def Obligations.StepKeepsMemories : Prop :=
  ∀ s t : State, MemoriesWf s → step s = .next t → MemoriesWf t
end

