-- ==== Sys2Proof/Laws/Cells.lean ====
section
/-!
SUPPORT. Memories: a byte reads back as it was written, other bytes are left alone, and every operation keeps the canonical
form.
-/

namespace Sys2Proof.Machine

/-! ## The canonical form -/

theorem cellsAbove_iff (m : List Host.Cell) (j : Nat) :
    cellsAbove j m = true ↔ (∀ c ∈ m, j < c.1) ∧ m.Pairwise (fun c d => c.1 < d.1) ∧ ∀ c ∈ m, c.2 ≠ 0 := by
  induction m generalizing j with
  | nil => simp [cellsAbove]
  | cons p r ih =>
    obtain ⟨i, v⟩ := p
    simp only [cellsAbove, Bool.and_eq_true, decide_eq_true_eq, ih, List.pairwise_cons, List.forall_mem_cons]
    constructor
    · rintro ⟨⟨h1, h2⟩, h3, h4, h5⟩
      exact ⟨⟨h1, fun c hc => h1.trans (h3 c hc)⟩, ⟨h3, h4⟩, h2, h5⟩
    · rintro ⟨⟨h1, -⟩, ⟨h3, h4⟩, h2, h5⟩
      exact ⟨⟨h1, h2⟩, h3, h4, h5⟩

/-- The canonical form: addresses strictly rising, and no byte listed that an unlisted address reads as. -/
theorem wf_iff (m : List Host.Cell) :
    Memory.wf m = true ↔ m.Pairwise (fun c d => c.1 < d.1) ∧ ∀ c ∈ m, c.2 ≠ 0 := by
  cases m with
  | nil => simp [Memory.wf]
  | cons p r =>
    obtain ⟨i, v⟩ := p
    simp only [Memory.wf, Bool.and_eq_true, decide_eq_true_eq, cellsAbove_iff, List.pairwise_cons, List.forall_mem_cons]
    tauto

/-- Dropping cells keeps the canonical form. -/
theorem filter_wf (m : List Host.Cell) (p : Host.Cell → Bool) (h : Memory.wf m = true) : Memory.wf (m.filter p) = true := by
  rw [wf_iff] at h ⊢
  exact ⟨h.1.filter p, fun c hc => h.2 c (List.mem_of_mem_filter hc)⟩

/-- Clearing a range keeps the canonical form. -/
theorem cellsClear_wf (m : List Host.Cell) (lo hi : Nat) (h : Memory.wf m = true) : Memory.wf (cellsClear m lo hi) = true :=
  filter_wf m _ h

/-! ## Reading by membership -/

theorem cellsGet_mem (m : List Host.Cell) (a : Nat) (b : Byte) (h : Memory.wf m = true) (hm : (a, b) ∈ m) :
    cellsGet m a = b := by
  rw [wf_iff] at h
  obtain ⟨hp, -⟩ := h
  induction m with
  | nil => cases hm
  | cons q r ih =>
    obtain ⟨i, v⟩ := q
    rw [List.pairwise_cons] at hp
    rcases List.mem_cons.mp hm with e | e
    · cases e
      simp [cellsGet]
    · have := hp.1 _ e
      have h1 : ¬ a < i := by simp at this; omega
      have h2 : ¬ i = a := by simp at this; omega
      simpa [cellsGet, h1, h2] using ih e hp.2

theorem cellsGet_not_mem (m : List Host.Cell) (a : Nat) (h : ∀ b, (a, b) ∉ m) : cellsGet m a = 0 := by
  induction m with
  | nil => rfl
  | cons q r ih =>
    obtain ⟨i, v⟩ := q
    have h1 : ¬ i = a := fun e => h v (by simp [e])
    simp only [cellsGet, h1, if_false]
    split
    · rfl
    · exact ih fun b hb => h b (List.mem_cons_of_mem _ hb)

/-- Two memories in canonical form that list a byte alike read it alike. -/
theorem cellsGet_eq (m k : List Host.Cell) (a : Nat) (hm : Memory.wf m = true) (hk : Memory.wf k = true)
    (h : ∀ b, (a, b) ∈ m ↔ (a, b) ∈ k) : cellsGet m a = cellsGet k a := by
  by_cases e : ∃ b, (a, b) ∈ m
  · obtain ⟨b, hb⟩ := e
    rw [cellsGet_mem m a b hm hb, cellsGet_mem k a b hk ((h b).mp hb)]
  · rw [cellsGet_not_mem m a fun b hb => e ⟨b, hb⟩, cellsGet_not_mem k a fun b hb => e ⟨b, (h b).mpr hb⟩]

/-! ## Writing -/

theorem mem_cellsOf (a n v : Nat) (c : Host.Cell) :
    c ∈ cellsOf a n v ↔ ∃ i < n, c.1 = a + i ∧ c.2 = BitVec.ofNat 8 (v / 256 ^ i) ∧ v / 256 ^ i % 256 ≠ 0 := by
  induction n generalizing a v with
  | zero => simp [cellsOf]
  | succ n ih =>
    have step : (∃ i < n + 1, c.1 = a + i ∧ c.2 = BitVec.ofNat 8 (v / 256 ^ i) ∧ v / 256 ^ i % 256 ≠ 0) ↔
        (c.1 = a ∧ c.2 = BitVec.ofNat 8 v ∧ v % 256 ≠ 0) ∨
        ∃ i < n, c.1 = a + 1 + i ∧ c.2 = BitVec.ofNat 8 (v / 256 / 256 ^ i) ∧ v / 256 / 256 ^ i % 256 ≠ 0 := by
      constructor
      · rintro ⟨i, hi, h1, h2, h3⟩
        cases i with
        | zero => exact .inl ⟨by simpa using h1, by simpa using h2, by simpa using h3⟩
        | succ i =>
          rw [Nat.pow_succ, Nat.mul_comm, ← Nat.div_div_eq_div_mul] at h2 h3
          exact .inr ⟨i, by omega, by omega, h2, h3⟩
      · rintro (⟨h1, h2, h3⟩ | ⟨i, hi, h1, h2, h3⟩)
        · exact ⟨0, by omega, by simpa using h1, by simpa using h2, by simpa using h3⟩
        · rw [Nat.div_div_eq_div_mul, Nat.mul_comm, ← Nat.pow_succ] at h2 h3
          exact ⟨i + 1, by omega, by omega, h2, h3⟩
    rw [step]
    unfold cellsOf
    obtain ⟨j, b⟩ := c
    split
    · rename_i h0
      simp [ih, h0]
    · rename_i h0
      simp [ih, h0]

theorem cellsOf_wf (a n v : Nat) : Memory.wf (cellsOf a n v) = true := by
  rw [wf_iff]
  constructor
  · induction n generalizing a v with
    | zero => exact List.Pairwise.nil
    | succ n ih =>
      unfold cellsOf
      split
      · exact ih _ _
      · refine List.pairwise_cons.mpr ⟨fun c hc => ?_, ih _ _⟩
        obtain ⟨i, -, h, -⟩ := (mem_cellsOf _ _ _ c).mp hc
        simp only [h]
        omega
  · intro c hc e
    obtain ⟨i, -, -, h2, h3⟩ := (mem_cellsOf _ _ _ c).mp hc
    rw [h2] at e
    have := congrArg BitVec.toNat e
    simp at this
    omega

/-- What a write lists. -/
theorem mem_cellsWrite (m : List Host.Cell) (a n v : Nat) (c : Host.Cell) :
    c ∈ cellsWrite m a n v ↔ (c ∈ m ∧ (c.1 < a ∨ a + n ≤ c.1)) ∨ c ∈ cellsOf a n v := by
  simp only [cellsWrite, List.mem_append, List.mem_filter, decide_eq_true_eq]
  tauto

/-- Writing bytes keeps the canonical form. -/
theorem cellsWrite_wf (m : List Host.Cell) (a n v : Nat) (h : Memory.wf m = true) : Memory.wf (cellsWrite m a n v) = true := by
  have h1 := (wf_iff _).mp (filter_wf m (fun c => decide (c.1 < a)) h)
  have h2 := (wf_iff _).mp (filter_wf m (fun c => decide (a + n ≤ c.1)) h)
  have h3 := (wf_iff _).mp (cellsOf_wf a n v)
  rw [wf_iff]
  constructor
  · refine List.pairwise_append.mpr ⟨h1.1, List.pairwise_append.mpr ⟨h3.1, h2.1, ?_⟩, ?_⟩
    · intro c hc d hd
      obtain ⟨i, hi, e, -⟩ := (mem_cellsOf _ _ _ c).mp hc
      have := of_decide_eq_true (List.mem_filter.mp hd).2
      omega
    · intro c hc d hd
      have h4 := of_decide_eq_true (List.mem_filter.mp hc).2
      rcases List.mem_append.mp hd with hd | hd
      · obtain ⟨i, hi, e, -⟩ := (mem_cellsOf _ _ _ d).mp hd
        omega
      · have := of_decide_eq_true (List.mem_filter.mp hd).2
        omega
  · intro c hc
    rcases (mem_cellsWrite m a n v c).mp hc with hc | hc
    · exact ((wf_iff _).mp h).2 c hc.1
    · exact h3.2 c hc

/-- Bytes outside those written read as before. -/
theorem cellsGet_cellsWrite_ne (m : List Host.Cell) (a n v c : Nat) (h : Memory.wf m = true) (hc : c < a ∨ a + n ≤ c) :
    cellsGet (cellsWrite m a n v) c = cellsGet m c := by
  refine cellsGet_eq _ _ _ (cellsWrite_wf m a n v h) h fun b => ?_
  rw [mem_cellsWrite]
  constructor
  · rintro (h1 | h1)
    · exact h1.1
    · obtain ⟨i, hi, e, -⟩ := (mem_cellsOf _ _ _ _).mp h1
      simp only at e
      omega
  · exact fun h1 => .inl ⟨h1, hc⟩

/-- The bytes written read back. -/
theorem cellsGet_cellsWrite (m : List Host.Cell) (a n v i : Nat) (h : Memory.wf m = true) (hi : i < n) :
    cellsGet (cellsWrite m a n v) (a + i) = BitVec.ofNat 8 (v / 256 ^ i) := by
  by_cases h0 : v / 256 ^ i % 256 = 0
  · rw [cellsGet_not_mem]
    · apply BitVec.eq_of_toNat_eq
      simp [h0]
    · intro b hb
      rcases (mem_cellsWrite _ _ _ _ _).mp hb with h1 | h1
      · have := h1.2
        simp only at this
        omega
      · obtain ⟨j, hj, e, -, h3⟩ := (mem_cellsOf _ _ _ _).mp h1
        have : i = j := by simp only at e; omega
        subst this
        exact h3 h0
  · refine cellsGet_mem _ _ _ (cellsWrite_wf m a n v h) ((mem_cellsWrite _ _ _ _ _).mpr (.inr ?_))
    exact (mem_cellsOf _ _ _ _).mpr ⟨i, hi, rfl, rfl, h0⟩

/-! ## Wide reads -/

/-- A wide read is made of the bytes read. -/
theorem cellsRead_congr (m k : List Host.Cell) (a b n : Nat) (h : ∀ i < n, cellsGet m (a + i) = cellsGet k (b + i)) :
    cellsRead m a n = cellsRead k b n := by
  induction n generalizing a b with
  | zero => rfl
  | succ n ih =>
    have h0 := h 0 (by omega)
    have := ih (a + 1) (b + 1) (fun i hi => by
      have := h (i + 1) (by omega)
      rwa [show a + 1 + i = a + (i + 1) by omega, show b + 1 + i = b + (i + 1) by omega])
    simp only [Nat.add_zero] at h0
    simp [cellsRead, h0, this]

theorem cellsRead_lt (m : List Host.Cell) (a n : Nat) : cellsRead m a n < 2 ^ (8 * n) := by
  induction n generalizing a with
  | zero => simp [cellsRead]
  | succ n ih =>
    have := ih (a + 1)
    have h2 := (cellsGet m a).isLt
    rw [cellsRead, Nat.mul_succ, Nat.pow_add]
    omega

/-- Bytes that read as those of a value make it up. -/
theorem cellsRead_eq (m : List Host.Cell) (a n v : Nat) (h : ∀ i < n, cellsGet m (a + i) = BitVec.ofNat 8 (v / 256 ^ i)) :
    cellsRead m a n = v % 2 ^ (8 * n) := by
  induction n generalizing a v with
  | zero => simp [cellsRead, Nat.mod_one]
  | succ n ih =>
    have h0 := h 0 (by omega)
    have h1 := ih (a + 1) (v / 256) fun i hi => by
      have := h (i + 1) (by omega)
      rw [Nat.pow_succ, Nat.mul_comm, ← Nat.div_div_eq_div_mul] at this
      rwa [show a + 1 + i = a + (i + 1) by omega]
    simp only [Nat.add_zero, Nat.pow_zero, Nat.div_one] at h0
    rw [cellsRead, h0, h1, Nat.mul_succ, Nat.add_comm (8 * n) 8, Nat.pow_add, Nat.mod_mul]
    simp

/-- What is written reads back. -/
theorem cellsRead_cellsWrite (m : List Host.Cell) (a n v : Nat) (h : Memory.wf m = true) :
    cellsRead (cellsWrite m a n v) a n = v % 2 ^ (8 * n) :=
  cellsRead_eq _ _ _ _ fun i hi => cellsGet_cellsWrite m a n v i h hi

theorem cellsRead_cellsWrite_ne (m : List Host.Cell) (a n v b k : Nat) (h : Memory.wf m = true)
    (hd : b + k ≤ a ∨ a + n ≤ b) : cellsRead (cellsWrite m a n v) b k = cellsRead m b k :=
  cellsRead_congr _ _ _ _ _ fun i hi => cellsGet_cellsWrite_ne m a n v (b + i) h (by omega)

/-! ## Equality -/

/-- Two memories in canonical form that read alike are equal. -/
theorem wf_ext (m k : List Host.Cell) (hm : Memory.wf m = true) (hk : Memory.wf k = true)
    (h : ∀ a, cellsGet m a = cellsGet k a) : m = k := by
  have sub : ∀ (x y : List Host.Cell), Memory.wf x = true → Memory.wf y = true → (∀ a, cellsGet x a = cellsGet y a) →
      ∀ c ∈ x, c ∈ y := by
    intro x y hx hy hxy c hc
    have h1 := cellsGet_mem x c.1 c.2 hx hc
    have h2 := ((wf_iff x).mp hx).2 c hc
    by_contra hn
    have : cellsGet y c.1 = 0 := cellsGet_not_mem y c.1 fun b hb => hn (by
      have := cellsGet_mem y c.1 b hy hb
      rw [← hxy, h1] at this
      rwa [← this] at hb)
    rw [← hxy, h1] at this
    exact h2 this
  refine List.Perm.eq_of_pairwise (le := fun c d : Host.Cell => c.1 < d.1) (fun a b _ _ h1 h2 => by omega)
    ((wf_iff m).mp hm).1 ((wf_iff k).mp hk).1 ((List.perm_ext_iff_of_nodup ?_ ?_).mpr fun c => ⟨sub m k hm hk h c, sub k m hk hm (fun a => (h a).symm) c⟩)
  · exact ((wf_iff m).mp hm).1.imp fun {a b} h e => by subst e; omega
  · exact ((wf_iff k).mp hk).1.imp fun {a b} h e => by subst e; omega

end Sys2Proof.Machine
end

