-- ==== Sys2Proof/Laws/Tables.lean ====
section
/-!
SUPPORT. Keyed tables and lists as arrays: reading after writing.
-/

namespace Sys2Proof.Machine

variable {α : Type}

@[simp] theorem tblGet_tblSet (d : α) (t : Tbl α) (k : Nat) (v : α) : tblGet d (tblSet t k v) k = v := by
  induction t with
  | nil => simp [tblSet, tblGet]
  | cons p r ih =>
    obtain ⟨j, w⟩ := p
    unfold tblSet
    split
    · simp [tblGet]
    · split
      · simp [tblGet]
      · have : ¬ j = k := fun h => by omega
        simpa [tblGet, this] using ih

theorem tblGet_tblSet_ne (d : α) (t : Tbl α) (k j : Nat) (v : α) (h : j ≠ k) :
    tblGet d (tblSet t k v) j = tblGet d t j := by
  have hk : ¬ k = j := fun e => h e.symm
  induction t with
  | nil => simp [tblSet, tblGet, hk]
  | cons p r ih =>
    obtain ⟨i, w⟩ := p
    unfold tblSet
    split
    · simp [tblGet, hk]
    · split
      · rename_i e
        subst e
        simp [tblGet, hk]
      · simp [tblGet, ih]

theorem tblFind_absent (t : Tbl α) (k : Nat) (h : k ∉ t.map (·.1)) : tblFind t k = none := by
  induction t with
  | nil => rfl
  | cons p r ih =>
    obtain ⟨j, v⟩ := p
    simp only [List.map_cons, List.mem_cons, not_or] at h
    simp [tblFind, Ne.symm h.1, ih h.2]

@[simp] theorem tblFind_tblSet (t : Tbl α) (k : Nat) (v : α) : tblFind (tblSet t k v) k = some v := by
  induction t with
  | nil => simp [tblSet, tblFind]
  | cons p r ih =>
    obtain ⟨j, w⟩ := p
    unfold tblSet
    split
    · simp [tblFind]
    · split
      · simp [tblFind]
      · have : ¬ j = k := fun h => by omega
        simpa [tblFind, this] using ih

theorem tblFind_tblSet_ne (t : Tbl α) (k j : Nat) (v : α) (h : j ≠ k) : tblFind (tblSet t k v) j = tblFind t j := by
  have hk : ¬ k = j := fun e => h e.symm
  induction t with
  | nil => simp [tblSet, tblFind, hk]
  | cons p r ih =>
    obtain ⟨i, w⟩ := p
    unfold tblSet
    split
    · simp [tblFind, hk]
    · split
      · rename_i e
        subst e
        simp [tblFind, hk]
      · simp [tblFind, ih]

@[simp] theorem tblFind_tblDel (t : Tbl α) (k : Nat) : tblFind (tblDel t k) k = none := by
  induction t with
  | nil => rfl
  | cons p r ih =>
    obtain ⟨j, w⟩ := p
    by_cases h : j = k
    · simpa [tblDel, h] using ih
    · simpa [tblDel, h, tblFind] using ih

theorem tblFind_tblDel_ne (t : Tbl α) (k j : Nat) (h : j ≠ k) : tblFind (tblDel t k) j = tblFind t j := by
  induction t with
  | nil => rfl
  | cons p r ih =>
    obtain ⟨i, w⟩ := p
    by_cases hi : i = k
    · subst hi
      have hj : ¬ i = j := fun e => h e.symm
      simpa [tblDel, tblFind, hj] using ih
    · have : tblDel ((i, w) :: r) k = (i, w) :: tblDel r k := by simp [tblDel, hi]
      rw [this]
      simp [tblFind, ih]

/-- A default value stands for every key that is not listed. -/
theorem tblGet_eq_getD (d : α) (t : Tbl α) (k : Nat) : tblGet d t k = (tblFind t k).getD d := by
  induction t with
  | nil => rfl
  | cons p r ih =>
    obtain ⟨j, w⟩ := p
    by_cases h : j = k <;> simp [tblGet, tblFind, h, ih]

@[simp] theorem listGet_listSet (d : α) (l : List α) (i : Nat) (v : α) : listGet d (listSet d l i v) i = v := by
  induction l generalizing i with
  | nil => induction i with
    | zero => rfl
    | succ i ih => simpa [listSet, listGet] using ih
  | cons x r ih => cases i with
    | zero => rfl
    | succ i => simpa [listSet, listGet] using ih i

theorem listGet_listSet_ne (d : α) (l : List α) (i j : Nat) (v : α) (h : j ≠ i) :
    listGet d (listSet d l i v) j = listGet d l j := by
  induction l generalizing i j with
  | nil =>
    induction i generalizing j with
    | zero => cases j with
      | zero => exact absurd rfl h
      | succ j => simp [listSet, listGet]
    | succ i ih => cases j with
      | zero => simp [listSet, listGet]
      | succ j => simpa [listSet, listGet] using ih j (fun e => h (by omega))
  | cons x r ih => cases i with
    | zero => cases j with
      | zero => exact absurd rfl h
      | succ j => simp [listSet, listGet]
    | succ i => cases j with
      | zero => simp [listSet, listGet]
      | succ j => simpa [listSet, listGet] using ih i j (fun e => h (by omega))

end Sys2Proof.Machine
end

