-- ==== Sys2Proof/Laws/HostPort.lean ====
section
/-!
SUPPORT. The register that stands at an offset of the Usher's block: the first named register placed there, or none. The claims about
the block cite these and never search the list of named registers.
-/

namespace Sys2Proof.Machine

theorem usherAt_none (o : Nat) (h : ∀ k < usherNamed, usherPlace k ≠ o) : usherAt o = none := by
  unfold usherAt
  rw [List.find?_eq_none]
  intro k hk
  simpa using h k (List.mem_range.mp hk)

theorem usherAt_first (k : Nat) (hk : k < usherNamed) (h : ∀ j < k, usherPlace j ≠ usherPlace k) : usherAt (usherPlace k) = some k := by
  unfold usherAt
  rw [List.find?_range_eq_some]
  exact ⟨by simp, List.mem_range.mpr hk, fun j hj => by simpa using h j hj⟩

theorem blockValue_none (s : State) (o : Nat) (h : ∀ k < usherNamed, usherPlace k ≠ o) :
    blockValue s o = tblGet 0 s.pkg.usher.registers o := by
  unfold blockValue
  rw [usherAt_none o h]

theorem blockValue_first (s : State) (k : Nat) (hk : k < usherNamed) (h : ∀ j < k, usherPlace j ≠ usherPlace k) :
    blockValue s (usherPlace k) = usherField s k := by
  unfold blockValue
  rw [usherAt_first k hk h]

theorem blockWritten_none (s : State) (o : Nat) (v : Word) (h : ∀ k < usherNamed, usherPlace k ≠ o) :
    tblGet 0 (blockWritten s o v).pkg.usher.registers o = v := by
  unfold blockWritten
  rw [usherAt_none o h]
  exact tblGet_tblSet ..

theorem blockWritten_first (s : State) (k : Nat) (v : Word) (hk : k < usherNamed) (h : ∀ j < k, usherPlace j ≠ usherPlace k) :
    blockWritten s (usherPlace k) v = usherStore s k v := by
  unfold blockWritten
  rw [usherAt_first k hk h]

end Sys2Proof.Machine
end

