-- ==== Sys2Proof/Laws/State.lean ====
section
/-!
SUPPORT. What the updates of the state leave alone: one lemma per field per update, and what a part reads after it has been
replaced.
-/

namespace Sys2Proof.Machine

/-! ## Fields of the state -/

@[simp] theorem setStrand_agenda (s : State) (id : Nat) (t : Strand) : (setStrand s id t).agenda = s.agenda := rfl
@[simp] theorem setStrand_cur (s : State) (id : Nat) (t : Strand) : (setStrand s id t).cur = s.cur := rfl
@[simp] theorem setStrand_cores (s : State) (id : Nat) (t : Strand) : (setStrand s id t).cores = s.cores := rfl
@[simp] theorem setStrand_clusters (s : State) (id : Nat) (t : Strand) : (setStrand s id t).clusters = s.clusters := rfl
@[simp] theorem setStrand_dies (s : State) (id : Nat) (t : Strand) : (setStrand s id t).dies = s.dies := rfl
@[simp] theorem setStrand_mem (s : State) (id : Nat) (t : Strand) : (setStrand s id t).mem = s.mem := rfl
@[simp] theorem setStrand_pkg (s : State) (id : Nat) (t : Strand) : (setStrand s id t).pkg = s.pkg := rfl
@[simp] theorem setStrand_net (s : State) (id : Nat) (t : Strand) : (setStrand s id t).net = s.net := rfl
@[simp] theorem setStrand_free (s : State) (id : Nat) (t : Strand) : (setStrand s id t).free = s.free := rfl

@[simp] theorem setCore_agenda (s : State) (c : Nat) (k : Core) : (setCore s c k).agenda = s.agenda := rfl
@[simp] theorem setCore_cur (s : State) (c : Nat) (k : Core) : (setCore s c k).cur = s.cur := rfl
@[simp] theorem setCore_strands (s : State) (c : Nat) (k : Core) : (setCore s c k).strands = s.strands := rfl
@[simp] theorem setCore_clusters (s : State) (c : Nat) (k : Core) : (setCore s c k).clusters = s.clusters := rfl
@[simp] theorem setCore_dies (s : State) (c : Nat) (k : Core) : (setCore s c k).dies = s.dies := rfl
@[simp] theorem setCore_mem (s : State) (c : Nat) (k : Core) : (setCore s c k).mem = s.mem := rfl
@[simp] theorem setCore_pkg (s : State) (c : Nat) (k : Core) : (setCore s c k).pkg = s.pkg := rfl
@[simp] theorem setCore_net (s : State) (c : Nat) (k : Core) : (setCore s c k).net = s.net := rfl
@[simp] theorem setCore_free (s : State) (c : Nat) (k : Core) : (setCore s c k).free = s.free := rfl

@[simp] theorem setCluster_agenda (s : State) (c : Nat) (k : Cluster) : (setCluster s c k).agenda = s.agenda := rfl
@[simp] theorem setCluster_cur (s : State) (c : Nat) (k : Cluster) : (setCluster s c k).cur = s.cur := rfl
@[simp] theorem setCluster_strands (s : State) (c : Nat) (k : Cluster) : (setCluster s c k).strands = s.strands := rfl
@[simp] theorem setCluster_cores (s : State) (c : Nat) (k : Cluster) : (setCluster s c k).cores = s.cores := rfl
@[simp] theorem setCluster_dies (s : State) (c : Nat) (k : Cluster) : (setCluster s c k).dies = s.dies := rfl
@[simp] theorem setCluster_mem (s : State) (c : Nat) (k : Cluster) : (setCluster s c k).mem = s.mem := rfl
@[simp] theorem setCluster_pkg (s : State) (c : Nat) (k : Cluster) : (setCluster s c k).pkg = s.pkg := rfl
@[simp] theorem setCluster_net (s : State) (c : Nat) (k : Cluster) : (setCluster s c k).net = s.net := rfl
@[simp] theorem setCluster_free (s : State) (c : Nat) (k : Cluster) : (setCluster s c k).free = s.free := rfl

@[simp] theorem setDie_agenda (s : State) (d : Nat) (k : Die) : (setDie s d k).agenda = s.agenda := rfl
@[simp] theorem setDie_cur (s : State) (d : Nat) (k : Die) : (setDie s d k).cur = s.cur := rfl
@[simp] theorem setDie_strands (s : State) (d : Nat) (k : Die) : (setDie s d k).strands = s.strands := rfl
@[simp] theorem setDie_cores (s : State) (d : Nat) (k : Die) : (setDie s d k).cores = s.cores := rfl
@[simp] theorem setDie_clusters (s : State) (d : Nat) (k : Die) : (setDie s d k).clusters = s.clusters := rfl
@[simp] theorem setDie_mem (s : State) (d : Nat) (k : Die) : (setDie s d k).mem = s.mem := rfl
@[simp] theorem setDie_pkg (s : State) (d : Nat) (k : Die) : (setDie s d k).pkg = s.pkg := rfl
@[simp] theorem setDie_net (s : State) (d : Nat) (k : Die) : (setDie s d k).net = s.net := rfl
@[simp] theorem setDie_free (s : State) (d : Nat) (k : Die) : (setDie s d k).free = s.free := rfl

@[simp] theorem modStrand_agenda (s : State) (id : Nat) (f : Strand → Strand) : (modStrand s id f).agenda = s.agenda := rfl
@[simp] theorem modStrand_cur (s : State) (id : Nat) (f : Strand → Strand) : (modStrand s id f).cur = s.cur := rfl
@[simp] theorem modStrand_cores (s : State) (id : Nat) (f : Strand → Strand) : (modStrand s id f).cores = s.cores := rfl
@[simp] theorem modStrand_clusters (s : State) (id : Nat) (f : Strand → Strand) : (modStrand s id f).clusters = s.clusters := rfl
@[simp] theorem modStrand_dies (s : State) (id : Nat) (f : Strand → Strand) : (modStrand s id f).dies = s.dies := rfl
@[simp] theorem modStrand_mem (s : State) (id : Nat) (f : Strand → Strand) : (modStrand s id f).mem = s.mem := rfl
@[simp] theorem modStrand_pkg (s : State) (id : Nat) (f : Strand → Strand) : (modStrand s id f).pkg = s.pkg := rfl
@[simp] theorem modStrand_net (s : State) (id : Nat) (f : Strand → Strand) : (modStrand s id f).net = s.net := rfl
@[simp] theorem modStrand_free (s : State) (id : Nat) (f : Strand → Strand) : (modStrand s id f).free = s.free := rfl

@[simp] theorem modArc_agenda (s : State) (id : Nat) (f : Arcade → Arcade) : (modArc s id f).agenda = s.agenda := rfl
@[simp] theorem modArc_cur (s : State) (id : Nat) (f : Arcade → Arcade) : (modArc s id f).cur = s.cur := rfl
@[simp] theorem modArc_cores (s : State) (id : Nat) (f : Arcade → Arcade) : (modArc s id f).cores = s.cores := rfl
@[simp] theorem modArc_clusters (s : State) (id : Nat) (f : Arcade → Arcade) : (modArc s id f).clusters = s.clusters := rfl
@[simp] theorem modArc_dies (s : State) (id : Nat) (f : Arcade → Arcade) : (modArc s id f).dies = s.dies := rfl
@[simp] theorem modArc_mem (s : State) (id : Nat) (f : Arcade → Arcade) : (modArc s id f).mem = s.mem := rfl
@[simp] theorem modArc_pkg (s : State) (id : Nat) (f : Arcade → Arcade) : (modArc s id f).pkg = s.pkg := rfl
@[simp] theorem modArc_net (s : State) (id : Nat) (f : Arcade → Arcade) : (modArc s id f).net = s.net := rfl
@[simp] theorem modArc_free (s : State) (id : Nat) (f : Arcade → Arcade) : (modArc s id f).free = s.free := rfl

@[simp] theorem setReg_agenda (s : State) (id : Nat) (r : BitVec 5) (v : Word) : (setReg s id r v).agenda = s.agenda := rfl
@[simp] theorem setReg_cur (s : State) (id : Nat) (r : BitVec 5) (v : Word) : (setReg s id r v).cur = s.cur := rfl
@[simp] theorem setReg_cores (s : State) (id : Nat) (r : BitVec 5) (v : Word) : (setReg s id r v).cores = s.cores := rfl
@[simp] theorem setReg_clusters (s : State) (id : Nat) (r : BitVec 5) (v : Word) : (setReg s id r v).clusters = s.clusters := rfl
@[simp] theorem setReg_dies (s : State) (id : Nat) (r : BitVec 5) (v : Word) : (setReg s id r v).dies = s.dies := rfl
@[simp] theorem setReg_mem (s : State) (id : Nat) (r : BitVec 5) (v : Word) : (setReg s id r v).mem = s.mem := rfl
@[simp] theorem setReg_pkg (s : State) (id : Nat) (r : BitVec 5) (v : Word) : (setReg s id r v).pkg = s.pkg := rfl
@[simp] theorem setReg_net (s : State) (id : Nat) (r : BitVec 5) (v : Word) : (setReg s id r v).net = s.net := rfl
@[simp] theorem setReg_free (s : State) (id : Nat) (r : BitVec 5) (v : Word) : (setReg s id r v).free = s.free := rfl

@[simp] theorem raise_agenda (s : State) (id : Nat) (f : Word) : (raise s id f).agenda = s.agenda := rfl
@[simp] theorem raise_cur (s : State) (id : Nat) (f : Word) : (raise s id f).cur = s.cur := rfl
@[simp] theorem raise_cores (s : State) (id : Nat) (f : Word) : (raise s id f).cores = s.cores := rfl
@[simp] theorem raise_clusters (s : State) (id : Nat) (f : Word) : (raise s id f).clusters = s.clusters := rfl
@[simp] theorem raise_dies (s : State) (id : Nat) (f : Word) : (raise s id f).dies = s.dies := rfl
@[simp] theorem raise_mem (s : State) (id : Nat) (f : Word) : (raise s id f).mem = s.mem := rfl
@[simp] theorem raise_pkg (s : State) (id : Nat) (f : Word) : (raise s id f).pkg = s.pkg := rfl
@[simp] theorem raise_net (s : State) (id : Nat) (f : Word) : (raise s id f).net = s.net := rfl
@[simp] theorem raise_free (s : State) (id : Nat) (f : Word) : (raise s id f).free = s.free := rfl

@[simp] theorem finish_agenda (s : State) (id : Nat) : (finish s id).agenda = s.agenda := rfl
@[simp] theorem finish_cur (s : State) (id : Nat) : (finish s id).cur = s.cur := rfl
@[simp] theorem finish_cores (s : State) (id : Nat) : (finish s id).cores = s.cores := rfl
@[simp] theorem finish_clusters (s : State) (id : Nat) : (finish s id).clusters = s.clusters := rfl
@[simp] theorem finish_dies (s : State) (id : Nat) : (finish s id).dies = s.dies := rfl
@[simp] theorem finish_mem (s : State) (id : Nat) : (finish s id).mem = s.mem := rfl
@[simp] theorem finish_pkg (s : State) (id : Nat) : (finish s id).pkg = s.pkg := rfl
@[simp] theorem finish_net (s : State) (id : Nat) : (finish s id).net = s.net := rfl
@[simp] theorem finish_free (s : State) (id : Nat) : (finish s id).free = s.free := rfl

@[simp] theorem finishAt_agenda (s : State) (id : Nat) (p : BitVec 48) : (finishAt s id p).agenda = s.agenda := rfl
@[simp] theorem finishAt_cur (s : State) (id : Nat) (p : BitVec 48) : (finishAt s id p).cur = s.cur := rfl
@[simp] theorem finishAt_cores (s : State) (id : Nat) (p : BitVec 48) : (finishAt s id p).cores = s.cores := rfl
@[simp] theorem finishAt_clusters (s : State) (id : Nat) (p : BitVec 48) : (finishAt s id p).clusters = s.clusters := rfl
@[simp] theorem finishAt_dies (s : State) (id : Nat) (p : BitVec 48) : (finishAt s id p).dies = s.dies := rfl
@[simp] theorem finishAt_mem (s : State) (id : Nat) (p : BitVec 48) : (finishAt s id p).mem = s.mem := rfl
@[simp] theorem finishAt_pkg (s : State) (id : Nat) (p : BitVec 48) : (finishAt s id p).pkg = s.pkg := rfl
@[simp] theorem finishAt_net (s : State) (id : Nat) (p : BitVec 48) : (finishAt s id p).net = s.net := rfl
@[simp] theorem finishAt_free (s : State) (id : Nat) (p : BitVec 48) : (finishAt s id p).free = s.free := rfl

@[simp] theorem finishV_agenda (s : State) (id : Nat) : (finishV s id).agenda = s.agenda := rfl
@[simp] theorem finishV_cur (s : State) (id : Nat) : (finishV s id).cur = s.cur := rfl
@[simp] theorem finishV_cores (s : State) (id : Nat) : (finishV s id).cores = s.cores := rfl
@[simp] theorem finishV_clusters (s : State) (id : Nat) : (finishV s id).clusters = s.clusters := rfl
@[simp] theorem finishV_dies (s : State) (id : Nat) : (finishV s id).dies = s.dies := rfl
@[simp] theorem finishV_mem (s : State) (id : Nat) : (finishV s id).mem = s.mem := rfl
@[simp] theorem finishV_pkg (s : State) (id : Nat) : (finishV s id).pkg = s.pkg := rfl
@[simp] theorem finishV_net (s : State) (id : Nat) : (finishV s id).net = s.net := rfl
@[simp] theorem finishV_free (s : State) (id : Nat) : (finishV s id).free = s.free := rfl

@[simp] theorem blockOn_agenda (s : State) (id : Nat) (b : Block) : (blockOn s id b).agenda = s.agenda := rfl
@[simp] theorem blockOn_cur (s : State) (id : Nat) (b : Block) : (blockOn s id b).cur = s.cur := rfl
@[simp] theorem blockOn_cores (s : State) (id : Nat) (b : Block) : (blockOn s id b).cores = s.cores := rfl
@[simp] theorem blockOn_clusters (s : State) (id : Nat) (b : Block) : (blockOn s id b).clusters = s.clusters := rfl
@[simp] theorem blockOn_dies (s : State) (id : Nat) (b : Block) : (blockOn s id b).dies = s.dies := rfl
@[simp] theorem blockOn_mem (s : State) (id : Nat) (b : Block) : (blockOn s id b).mem = s.mem := rfl
@[simp] theorem blockOn_pkg (s : State) (id : Nat) (b : Block) : (blockOn s id b).pkg = s.pkg := rfl
@[simp] theorem blockOn_net (s : State) (id : Nat) (b : Block) : (blockOn s id b).net = s.net := rfl
@[simp] theorem blockOn_free (s : State) (id : Nat) (b : Block) : (blockOn s id b).free = s.free := rfl

@[simp] theorem parkOn_agenda (s : State) (id : Nat) (b : Block) : (parkOn s id b).agenda = s.agenda := rfl
@[simp] theorem parkOn_cur (s : State) (id : Nat) (b : Block) : (parkOn s id b).cur = s.cur := rfl
@[simp] theorem parkOn_cores (s : State) (id : Nat) (b : Block) : (parkOn s id b).cores = s.cores := rfl
@[simp] theorem parkOn_clusters (s : State) (id : Nat) (b : Block) : (parkOn s id b).clusters = s.clusters := rfl
@[simp] theorem parkOn_dies (s : State) (id : Nat) (b : Block) : (parkOn s id b).dies = s.dies := rfl
@[simp] theorem parkOn_mem (s : State) (id : Nat) (b : Block) : (parkOn s id b).mem = s.mem := rfl
@[simp] theorem parkOn_pkg (s : State) (id : Nat) (b : Block) : (parkOn s id b).pkg = s.pkg := rfl
@[simp] theorem parkOn_net (s : State) (id : Nat) (b : Block) : (parkOn s id b).net = s.net := rfl
@[simp] theorem parkOn_free (s : State) (id : Nat) (b : Block) : (parkOn s id b).free = s.free := rfl

@[simp] theorem finishReg_agenda (s : State) (id : Nat) (r : BitVec 5) (v : Word) : (finishReg s id r v).agenda = s.agenda := rfl
@[simp] theorem finishReg_cur (s : State) (id : Nat) (r : BitVec 5) (v : Word) : (finishReg s id r v).cur = s.cur := rfl
@[simp] theorem finishReg_cores (s : State) (id : Nat) (r : BitVec 5) (v : Word) : (finishReg s id r v).cores = s.cores := rfl
@[simp] theorem finishReg_clusters (s : State) (id : Nat) (r : BitVec 5) (v : Word) : (finishReg s id r v).clusters = s.clusters := rfl
@[simp] theorem finishReg_dies (s : State) (id : Nat) (r : BitVec 5) (v : Word) : (finishReg s id r v).dies = s.dies := rfl
@[simp] theorem finishReg_mem (s : State) (id : Nat) (r : BitVec 5) (v : Word) : (finishReg s id r v).mem = s.mem := rfl
@[simp] theorem finishReg_pkg (s : State) (id : Nat) (r : BitVec 5) (v : Word) : (finishReg s id r v).pkg = s.pkg := rfl
@[simp] theorem finishReg_net (s : State) (id : Nat) (r : BitVec 5) (v : Word) : (finishReg s id r v).net = s.net := rfl
@[simp] theorem finishReg_free (s : State) (id : Nat) (r : BitVec 5) (v : Word) : (finishReg s id r v).free = s.free := rfl

@[simp] theorem finishFl_agenda (s : State) (id : Nat) (r : BitVec 5) (v : Fl Word) : (finishFl s id r v).agenda = s.agenda := rfl
@[simp] theorem finishFl_cur (s : State) (id : Nat) (r : BitVec 5) (v : Fl Word) : (finishFl s id r v).cur = s.cur := rfl
@[simp] theorem finishFl_cores (s : State) (id : Nat) (r : BitVec 5) (v : Fl Word) : (finishFl s id r v).cores = s.cores := rfl
@[simp] theorem finishFl_clusters (s : State) (id : Nat) (r : BitVec 5) (v : Fl Word) : (finishFl s id r v).clusters = s.clusters := rfl
@[simp] theorem finishFl_dies (s : State) (id : Nat) (r : BitVec 5) (v : Fl Word) : (finishFl s id r v).dies = s.dies := rfl
@[simp] theorem finishFl_mem (s : State) (id : Nat) (r : BitVec 5) (v : Fl Word) : (finishFl s id r v).mem = s.mem := rfl
@[simp] theorem finishFl_pkg (s : State) (id : Nat) (r : BitVec 5) (v : Fl Word) : (finishFl s id r v).pkg = s.pkg := rfl
@[simp] theorem finishFl_net (s : State) (id : Nat) (r : BitVec 5) (v : Fl Word) : (finishFl s id r v).net = s.net := rfl
@[simp] theorem finishFl_free (s : State) (id : Nat) (r : BitVec 5) (v : Fl Word) : (finishFl s id r v).free = s.free := rfl

@[simp] theorem strandFailure_agenda (s : State) (id c : Nat) : (strandFailure s id c).agenda = s.agenda := rfl
@[simp] theorem strandFailure_cur (s : State) (id c : Nat) : (strandFailure s id c).cur = s.cur := rfl
@[simp] theorem strandFailure_cores (s : State) (id c : Nat) : (strandFailure s id c).cores = s.cores := rfl
@[simp] theorem strandFailure_clusters (s : State) (id c : Nat) : (strandFailure s id c).clusters = s.clusters := rfl
@[simp] theorem strandFailure_dies (s : State) (id c : Nat) : (strandFailure s id c).dies = s.dies := rfl
@[simp] theorem strandFailure_mem (s : State) (id c : Nat) : (strandFailure s id c).mem = s.mem := rfl
@[simp] theorem strandFailure_pkg (s : State) (id c : Nat) : (strandFailure s id c).pkg = s.pkg := rfl
@[simp] theorem strandFailure_net (s : State) (id c : Nat) : (strandFailure s id c).net = s.net := rfl
@[simp] theorem strandFailure_free (s : State) (id c : Nat) : (strandFailure s id c).free = s.free := rfl

@[simp] theorem breakLine_agenda (s : State) (k : LineKey) : (breakLine s k).agenda = s.agenda := rfl
@[simp] theorem breakLine_cur (s : State) (k : LineKey) : (breakLine s k).cur = s.cur := rfl
@[simp] theorem breakLine_strands (s : State) (k : LineKey) : (breakLine s k).strands = s.strands := rfl
@[simp] theorem breakLine_cores (s : State) (k : LineKey) : (breakLine s k).cores = s.cores := rfl
@[simp] theorem breakLine_clusters (s : State) (k : LineKey) : (breakLine s k).clusters = s.clusters := rfl
@[simp] theorem breakLine_dies (s : State) (k : LineKey) : (breakLine s k).dies = s.dies := rfl
@[simp] theorem breakLine_pkg (s : State) (k : LineKey) : (breakLine s k).pkg = s.pkg := rfl
@[simp] theorem breakLine_net (s : State) (k : LineKey) : (breakLine s k).net = s.net := rfl
@[simp] theorem breakLine_free (s : State) (k : LineKey) : (breakLine s k).free = s.free := rfl

@[simp] theorem breakStrand_agenda (s : State) (id : Nat) : (breakStrand s id).agenda = s.agenda := rfl
@[simp] theorem breakStrand_cur (s : State) (id : Nat) : (breakStrand s id).cur = s.cur := rfl
@[simp] theorem breakStrand_strands (s : State) (id : Nat) : (breakStrand s id).strands = s.strands := rfl
@[simp] theorem breakStrand_cores (s : State) (id : Nat) : (breakStrand s id).cores = s.cores := rfl
@[simp] theorem breakStrand_clusters (s : State) (id : Nat) : (breakStrand s id).clusters = s.clusters := rfl
@[simp] theorem breakStrand_dies (s : State) (id : Nat) : (breakStrand s id).dies = s.dies := rfl
@[simp] theorem breakStrand_pkg (s : State) (id : Nat) : (breakStrand s id).pkg = s.pkg := rfl
@[simp] theorem breakStrand_net (s : State) (id : Nat) : (breakStrand s id).net = s.net := rfl
@[simp] theorem breakStrand_free (s : State) (id : Nat) : (breakStrand s id).free = s.free := rfl

/-! ## Taking a trap changes one strand only -/

@[simp] theorem takeTrap_agenda (s : State) (id c : Nat) (v p : Word) : (takeTrap s id c v p).agenda = s.agenda := by
  unfold takeTrap; split <;> rfl
@[simp] theorem trapHere_agenda (s : State) (id c : Nat) (v : Word) : (trapHere s id c v).agenda = s.agenda := by simp [trapHere]
@[simp] theorem takeTrap_cur (s : State) (id c : Nat) (v p : Word) : (takeTrap s id c v p).cur = s.cur := by
  unfold takeTrap; split <;> rfl
@[simp] theorem trapHere_cur (s : State) (id c : Nat) (v : Word) : (trapHere s id c v).cur = s.cur := by simp [trapHere]
@[simp] theorem takeTrap_cores (s : State) (id c : Nat) (v p : Word) : (takeTrap s id c v p).cores = s.cores := by
  unfold takeTrap; split <;> rfl
@[simp] theorem trapHere_cores (s : State) (id c : Nat) (v : Word) : (trapHere s id c v).cores = s.cores := by simp [trapHere]
@[simp] theorem takeTrap_clusters (s : State) (id c : Nat) (v p : Word) : (takeTrap s id c v p).clusters = s.clusters := by
  unfold takeTrap; split <;> rfl
@[simp] theorem trapHere_clusters (s : State) (id c : Nat) (v : Word) : (trapHere s id c v).clusters = s.clusters := by simp [trapHere]
@[simp] theorem takeTrap_dies (s : State) (id c : Nat) (v p : Word) : (takeTrap s id c v p).dies = s.dies := by
  unfold takeTrap; split <;> rfl
@[simp] theorem trapHere_dies (s : State) (id c : Nat) (v : Word) : (trapHere s id c v).dies = s.dies := by simp [trapHere]
@[simp] theorem takeTrap_mem (s : State) (id c : Nat) (v p : Word) : (takeTrap s id c v p).mem = s.mem := by
  unfold takeTrap; split <;> rfl
@[simp] theorem trapHere_mem (s : State) (id c : Nat) (v : Word) : (trapHere s id c v).mem = s.mem := by simp [trapHere]
@[simp] theorem takeTrap_pkg (s : State) (id c : Nat) (v p : Word) : (takeTrap s id c v p).pkg = s.pkg := by
  unfold takeTrap; split <;> rfl
@[simp] theorem trapHere_pkg (s : State) (id c : Nat) (v : Word) : (trapHere s id c v).pkg = s.pkg := by simp [trapHere]
@[simp] theorem takeTrap_net (s : State) (id c : Nat) (v p : Word) : (takeTrap s id c v p).net = s.net := by
  unfold takeTrap; split <;> rfl
@[simp] theorem trapHere_net (s : State) (id c : Nat) (v : Word) : (trapHere s id c v).net = s.net := by simp [trapHere]
@[simp] theorem takeTrap_free (s : State) (id c : Nat) (v p : Word) : (takeTrap s id c v p).free = s.free := by
  unfold takeTrap; split <;> rfl
@[simp] theorem trapHere_free (s : State) (id c : Nat) (v : Word) : (trapHere s id c v).free = s.free := by simp [trapHere]

/-! ## A part after it has been replaced -/

@[simp] theorem strandOf_setStrand (s : State) (id : Nat) (t : Strand) : strandOf (setStrand s id t) id = t := by
  simp [strandOf, setStrand]

theorem strandOf_setStrand_ne (s : State) (id j : Nat) (t : Strand) (h : j ≠ id) :
    strandOf (setStrand s id t) j = strandOf s j := by
  simp [strandOf, setStrand, tblGet_tblSet_ne _ _ _ _ _ h]

@[simp] theorem strandOf_modStrand (s : State) (id : Nat) (f : Strand → Strand) :
    strandOf (modStrand s id f) id = f (strandOf s id) := by
  simp [modStrand]

theorem strandOf_modStrand_ne (s : State) (id j : Nat) (f : Strand → Strand) (h : j ≠ id) :
    strandOf (modStrand s id f) j = strandOf s j := by
  simp [modStrand, strandOf_setStrand_ne _ _ _ _ h]

@[simp] theorem strandOf_modArc (s : State) (id : Nat) (f : Arcade → Arcade) :
    strandOf (modArc s id f) id = { strandOf s id with arc := f (strandOf s id).arc } := by
  simp [modArc]

@[simp] theorem coreOf_setCore (s : State) (c : Nat) (k : Core) : coreOf (setCore s c k) c = k := by simp [coreOf, setCore]

theorem coreOf_setCore_ne (s : State) (c j : Nat) (k : Core) (h : j ≠ c) : coreOf (setCore s c k) j = coreOf s j := by
  simp [coreOf, setCore, tblGet_tblSet_ne _ _ _ _ _ h]

@[simp] theorem clusterOf_setCluster (s : State) (c : Nat) (k : Cluster) : clusterOf (setCluster s c k) c = k := by
  simp [clusterOf, setCluster]

theorem clusterOf_setCluster_ne (s : State) (c j : Nat) (k : Cluster) (h : j ≠ c) :
    clusterOf (setCluster s c k) j = clusterOf s j := by
  simp [clusterOf, setCluster, tblGet_tblSet_ne _ _ _ _ _ h]

@[simp] theorem dieOf_setDie (s : State) (d : Nat) (k : Die) : dieOf (setDie s d k) d = k := by simp [dieOf, setDie]

theorem dieOf_setDie_ne (s : State) (d j : Nat) (k : Die) (h : j ≠ d) : dieOf (setDie s d k) j = dieOf s j := by
  simp [dieOf, setDie, tblGet_tblSet_ne _ _ _ _ _ h]

/-! ## Other parts -/

@[simp] theorem coreOf_setStrand (s : State) (id : Nat) (t : Strand) (j : Nat) : coreOf (setStrand s id t) j = coreOf s j := rfl
@[simp] theorem clusterOf_setStrand (s : State) (id : Nat) (t : Strand) (j : Nat) : clusterOf (setStrand s id t) j = clusterOf s j := rfl
@[simp] theorem dieOf_setStrand (s : State) (id : Nat) (t : Strand) (j : Nat) : dieOf (setStrand s id t) j = dieOf s j := rfl
@[simp] theorem strandOf_setCore (s : State) (c : Nat) (k : Core) (j : Nat) : strandOf (setCore s c k) j = strandOf s j := rfl
@[simp] theorem clusterOf_setCore (s : State) (c : Nat) (k : Core) (j : Nat) : clusterOf (setCore s c k) j = clusterOf s j := rfl
@[simp] theorem dieOf_setCore (s : State) (c : Nat) (k : Core) (j : Nat) : dieOf (setCore s c k) j = dieOf s j := rfl
@[simp] theorem strandOf_setCluster (s : State) (c : Nat) (k : Cluster) (j : Nat) : strandOf (setCluster s c k) j = strandOf s j := rfl
@[simp] theorem coreOf_setCluster (s : State) (c : Nat) (k : Cluster) (j : Nat) : coreOf (setCluster s c k) j = coreOf s j := rfl
@[simp] theorem dieOf_setCluster (s : State) (c : Nat) (k : Cluster) (j : Nat) : dieOf (setCluster s c k) j = dieOf s j := rfl
@[simp] theorem strandOf_setDie (s : State) (d : Nat) (k : Die) (j : Nat) : strandOf (setDie s d k) j = strandOf s j := rfl
@[simp] theorem coreOf_setDie (s : State) (d : Nat) (k : Die) (j : Nat) : coreOf (setDie s d k) j = coreOf s j := rfl
@[simp] theorem clusterOf_setDie (s : State) (d : Nat) (k : Die) (j : Nat) : clusterOf (setDie s d k) j = clusterOf s j := rfl
@[simp] theorem coreOf_modStrand (s : State) (id : Nat) (f : Strand → Strand) (j : Nat) : coreOf (modStrand s id f) j = coreOf s j := rfl
@[simp] theorem clusterOf_modStrand (s : State) (id : Nat) (f : Strand → Strand) (j : Nat) : clusterOf (modStrand s id f) j = clusterOf s j := rfl
@[simp] theorem dieOf_modStrand (s : State) (id : Nat) (f : Strand → Strand) (j : Nat) : dieOf (modStrand s id f) j = dieOf s j := rfl
@[simp] theorem coreOf_modArc (s : State) (id : Nat) (f : Arcade → Arcade) (j : Nat) : coreOf (modArc s id f) j = coreOf s j := rfl
@[simp] theorem clusterOf_modArc (s : State) (id : Nat) (f : Arcade → Arcade) (j : Nat) : clusterOf (modArc s id f) j = clusterOf s j := rfl
@[simp] theorem dieOf_modArc (s : State) (id : Nat) (f : Arcade → Arcade) (j : Nat) : dieOf (modArc s id f) j = dieOf s j := rfl

/-! ## Registers (R42) -/

@[simp] theorem getReg_zero (t : Strand) : getReg t 0 = 0 := by simp [getReg]

@[simp] theorem putReg_zero (t : Strand) (v : Word) : putReg t 0 v = t := by simp [putReg]

theorem getReg_putReg (t : Strand) (r q : BitVec 5) (v : Word) :
    getReg (putReg t r v) q = if q = 0 then 0 else if q = r then v else getReg t q := by
  unfold getReg putReg
  by_cases h0 : q = 0#5
  · simp [h0]
  · by_cases hr : r = 0#5
    · subst hr; simp [h0]
    · by_cases hq : q = r
      · subst hq; simp [h0]
      · have : r.toNat ≠ q.toNat := fun h => hq (BitVec.eq_of_toNat_eq h).symm
        simp [h0, hr, hq, this]

@[simp] theorem putReg_slot (t : Strand) (r : BitVec 5) (v : Word) : (putReg t r v).slot = t.slot := by
  unfold putReg; split <;> rfl
@[simp] theorem putReg_blocked (t : Strand) (r : BitVec 5) (v : Word) : (putReg t r v).blocked = t.blocked := by
  unfold putReg; split <;> rfl
@[simp] theorem putReg_pc (t : Strand) (r : BitVec 5) (v : Word) : (putReg t r v).pc = t.pc := by
  unfold putReg; split <;> rfl
@[simp] theorem putReg_status (t : Strand) (r : BitVec 5) (v : Word) : (putReg t r v).status = t.status := by
  unfold putReg; split <;> rfl
@[simp] theorem putReg_sflags (t : Strand) (r : BitVec 5) (v : Word) : (putReg t r v).sflags = t.sflags := by
  unfold putReg; split <;> rfl
@[simp] theorem putReg_cause (t : Strand) (r : BitVec 5) (v : Word) : (putReg t r v).cause = t.cause := by
  unfold putReg; split <;> rfl
@[simp] theorem putReg_epc (t : Strand) (r : BitVec 5) (v : Word) : (putReg t r v).epc = t.epc := by
  unfold putReg; split <;> rfl
@[simp] theorem putReg_tval (t : Strand) (r : BitVec 5) (v : Word) : (putReg t r v).tval = t.tval := by
  unfold putReg; split <;> rfl
@[simp] theorem putReg_tvec (t : Strand) (r : BitVec 5) (v : Word) : (putReg t r v).tvec = t.tvec := by
  unfold putReg; split <;> rfl
@[simp] theorem putReg_vault (t : Strand) (r : BitVec 5) (v : Word) : (putReg t r v).vault = t.vault := by
  unfold putReg; split <;> rfl
@[simp] theorem putReg_arc (t : Strand) (r : BitVec 5) (v : Word) : (putReg t r v).arc = t.arc := by
  unfold putReg; split <;> rfl
@[simp] theorem putReg_record (t : Strand) (r : BitVec 5) (v : Word) : (putReg t r v).record = t.record := by
  unfold putReg; split <;> rfl
@[simp] theorem putReg_foyerJoin (t : Strand) (r : BitVec 5) (v : Word) : (putReg t r v).foyerJoin = t.foyerJoin := by
  unfold putReg; split <;> rfl
@[simp] theorem putReg_tag (t : Strand) (r : BitVec 5) (v : Word) : (putReg t r v).tag = t.tag := by
  unfold putReg; split <;> rfl
@[simp] theorem putReg_issuer (t : Strand) (r : BitVec 5) (v : Word) : (putReg t r v).issuer = t.issuer := by
  unfold putReg; split <;> rfl
@[simp] theorem putReg_vaultArea (t : Strand) (r : BitVec 5) (v : Word) : (putReg t r v).vaultArea = t.vaultArea := by
  unfold putReg; split <;> rfl
@[simp] theorem putReg_due (t : Strand) (r : BitVec 5) (v : Word) : (putReg t r v).due = t.due := by
  unfold putReg; split <;> rfl
@[simp] theorem putReg_dueForced (t : Strand) (r : BitVec 5) (v : Word) : (putReg t r v).dueForced = t.dueForced := by
  unfold putReg; split <;> rfl
@[simp] theorem putReg_dueFor (t : Strand) (r : BitVec 5) (v : Word) : (putReg t r v).dueFor = t.dueFor := by
  unfold putReg; split <;> rfl
@[simp] theorem putReg_started (t : Strand) (r : BitVec 5) (v : Word) : (putReg t r v).started = t.started := by
  unfold putReg; split <;> rfl
@[simp] theorem putReg_preemptTrapped (t : Strand) (r : BitVec 5) (v : Word) : (putReg t r v).preemptTrapped = t.preemptTrapped := by
  unfold putReg; split <;> rfl
@[simp] theorem putReg_linkDeferOver (t : Strand) (r : BitVec 5) (v : Word) : (putReg t r v).linkDeferOver = t.linkDeferOver := by
  unfold putReg; split <;> rfl
@[simp] theorem putReg_hostAnswer (t : Strand) (r : BitVec 5) (v : Word) : (putReg t r v).hostAnswer = t.hostAnswer := by
  unfold putReg; split <;> rfl
@[simp] theorem putReg_holds (t : Strand) (r : BitVec 5) (v : Word) : (putReg t r v).holds = t.holds := by
  unfold putReg; split <;> rfl

end Sys2Proof.Machine
end

