-- ==== Sys2Proof/Laws/Memory.lean ====
section
/-!
SUPPORT. Memory: lines and their bytes, what a write to a target changes and what it leaves alone, and that every operation over a
memory keeps its canonical form.
-/

namespace Sys2Proof.Machine

/-! ## Bytes of lines -/

theorem lineBits_getLsbD (l : Line) (i n : Nat) : lineBits l i n = (l.extractLsb' (8 * i) (8 * n)).toNat := by
  simp [lineBits, bitsOf, BitVec.extractLsb', Nat.shiftRight_eq_div_pow]

theorem lineSet_getLsbD (l : Line) (i n v j : Nat) (hj : j < 512) :
    (lineSet l i n v).getLsbD j = if 8 * i ≤ j ∧ j < 8 * i + 8 * n then v.testBit (j - 8 * i) else l.getLsbD j := by
  have e : (lineSet l i n v).getLsbD j = ((l.getLsbD j && !(decide (8 * i ≤ j) && decide (j - 8 * i < 8 * n))) ||
      (decide (8 * i ≤ j) && decide (j - 8 * i < 8 * n) && v.testBit (j - 8 * i))) := by
    have hj' : j - 8 * i < 512 := by omega
    by_cases h : 8 * i ≤ j
    · have h2 : ¬ j < 8 * i := by omega
      simp only [lineSet, BitVec.getLsbD_or, BitVec.getLsbD_and, BitVec.getLsbD_not, BitVec.getLsbD_shiftLeft,
        BitVec.getLsbD_ofNat, Nat.testBit_two_pow_sub_one, Nat.testBit_mod_two_pow, hj, hj', h, h2]
      simp
    · have h2 : j < 8 * i := by omega
      simp only [lineSet, BitVec.getLsbD_or, BitVec.getLsbD_and, BitVec.getLsbD_not, BitVec.getLsbD_shiftLeft,
        BitVec.getLsbD_ofNat, hj, h, h2]
      simp
  rw [e]
  by_cases h : 8 * i ≤ j ∧ j < 8 * i + 8 * n
  · have h2 : j - 8 * i < 8 * n := by omega
    simp [h, h2]
  · have h2 : ¬ (8 * i ≤ j ∧ j - 8 * i < 8 * n) := by omega
    rw [if_neg h]
    by_cases h3 : 8 * i ≤ j
    · have h4 : ¬ j - 8 * i < 8 * n := by omega
      simp [h4]
    · simp [h3]

/-- The bytes written to a line read back. -/
theorem lineBits_lineSet (l : Line) (i n v : Nat) (h : i + n ≤ 64) : lineBits (lineSet l i n v) i n = v % 2 ^ (8 * n) := by
  rw [lineBits_getLsbD]
  refine Nat.eq_of_testBit_eq fun j => ?_
  rw [Nat.testBit_mod_two_pow, BitVec.testBit_toNat, BitVec.getLsbD_extractLsb']
  by_cases hj : j < 8 * n
  · rw [lineSet_getLsbD _ _ _ _ _ (by omega)]
    have e : 8 * i ≤ 8 * i + j ∧ 8 * i + j < 8 * i + 8 * n := by omega
    simp [hj, e]
  · simp [hj]

/-- Bytes of a line outside those written read as before. -/
theorem lineBits_lineSet_ne (l : Line) (i n v j m : Nat) (hm : j + m ≤ 64) (h : j + m ≤ i ∨ i + n ≤ j) :
    lineBits (lineSet l i n v) j m = lineBits l j m := by
  rw [lineBits_getLsbD, lineBits_getLsbD]
  refine Nat.eq_of_testBit_eq fun k => ?_
  rw [BitVec.testBit_toNat, BitVec.testBit_toNat, BitVec.getLsbD_extractLsb', BitVec.getLsbD_extractLsb']
  by_cases hk : k < 8 * m
  · rw [lineSet_getLsbD _ _ _ _ _ (by omega)]
    have e : ¬ (8 * i ≤ 8 * j + k ∧ 8 * j + k < 8 * i + 8 * n) := by omega
    simp [hk, e]
  · simp [hk]

/-! ## Lines of DRAM -/

theorem setDramLine_wf (m : Mem) (n : Nat) (l : Line) (h : Memory.wf m.dram = true) :
    Memory.wf (setDramLine m n l).dram = true := by
  simp only [setDramLine, cellsWrite_wf _ _ _ _ h]

@[simp] theorem dramLine_setDramLine (m : Mem) (n : Nat) (l : Line) (h : Memory.wf m.dram = true) :
    dramLine (setDramLine m n l) n = l := by
  have := l.isLt
  simp only [dramLine, setDramLine, cellsRead_cellsWrite _ _ _ _ h]
  rw [show (8 * 64 : Nat) = 512 from rfl, Nat.mod_eq_of_lt this]
  simp

theorem dramLine_setDramLine_ne (m : Mem) (n k : Nat) (l : Line) (h : Memory.wf m.dram = true) (hk : k ≠ n) :
    dramLine (setDramLine m n l) k = dramLine m k := by
  simp only [dramLine, setDramLine]
  rw [cellsRead_cellsWrite_ne _ _ _ _ _ _ h (by omega)]

/-! ## What a store of a line leaves -/

@[simp] theorem throughSeal_self (key : BitVec 512) (b : Bool) (n : Nat) (l : Line) : throughSeal key b b n l = l := by
  simp [throughSeal]

@[simp] theorem dramLine_l2 (m : Mem) (x : Tbl L2Line) (n : Nat) : dramLine { m with l2 := x } n = dramLine m n := rfl

/-- A line stored reads back through a mapping with the same SEALED bit. -/
theorem lineNow_storeLine (s : State) (n : Nat) (sl : Bool) (tag : Nat) (l : Line) (h : Memory.wf s.mem.dram = true)
    (hp : s.pkg.bringUp = true → sl = false) : lineNow (storeLine s n sl tag l) n sl = l := by
  unfold storeLine
  split
  · rename_i hb
    obtain rfl := hp hb
    simp only [lineNow, tblFind_tblDel, throughSeal_self]
    exact dramLine_setDramLine _ _ _ h
  · simp only [lineNow, tblFind_tblSet, throughSeal_self]

/-- Other lines are as they were. -/
theorem lineNow_storeLine_ne (s : State) (n k : Nat) (sl sl' : Bool) (tag : Nat) (l : Line) (h : Memory.wf s.mem.dram = true)
    (hk : k ≠ n) : lineNow (storeLine s n sl tag l) k sl' = lineNow s k sl' := by
  unfold storeLine
  split
  · simp only [lineNow, tblFind_tblDel_ne _ _ _ hk]
    rw [← dramLine_setDramLine_ne s.mem n k _ h hk]
    rfl
  · simp only [lineNow, tblFind_tblSet_ne _ _ _ _ hk]
    rfl

/-- A store into a sound line leaves every line as sound as it was. -/
theorem lineBad_storeLine (s : State) (n k : Nat) (sl : Bool) (tag : Nat) (l : Line) (h : lineBad s n = false)
    (hs : stackLost s n = false) : lineBad (storeLine s n sl tag l) k = lineBad s k := by
  have hb : ∀ b, stackLost (storeLine s n sl tag l) b = stackLost s b := fun b => by
    unfold storeLine; split <;> rfl
  simp only [lineBad, dramBad, hb]
  unfold storeLine
  simp only [h]
  by_cases hk : k = n
  · subst hk
    have h2 := h
    simp only [lineBad, dramBad] at h2
    split
    · rw [h2]
      simp [tblFind_tblDel, hs]
    · rw [h2]
      simp [tblFind_tblSet]
  · split
    · simp [setDramLine, tblFind_tblDel_ne _ _ _ hk, hk]
    · simp [tblFind_tblSet_ne _ _ _ _ hk, hk]

/-! ## What a write to a target leaves -/

/-- The target's bytes lie within one line. -/
def InLine (q : Target) (n : Nat) : Prop :=
  match q with
  | .phys k _ => k % 64 + n ≤ 64
  | .coded _ o _ => o % 64 + n ≤ 64
  | _ => True

theorem MemoriesWf.coreOf {s : State} (h : MemoriesWf s) (c : Nat) : Memory.wf (coreOf s c).tcm = true := by
  unfold Machine.coreOf
  have := h.tcm
  generalize s.cores = t at this
  induction t with
  | nil => rfl
  | cons p r ih =>
    obtain ⟨j, k⟩ := p
    by_cases hj : j = c
    · simpa [tblGet, hj] using this (j, k) (by simp)
    · simpa [tblGet, hj] using ih fun q hq => this q (List.mem_cons_of_mem _ hq)

theorem MemoriesWf.clusterOf {s : State} (h : MemoriesWf s) (c : Nat) : Memory.wf (clusterOf s c).atrium = true := by
  unfold Machine.clusterOf
  have := h.atrium
  generalize s.clusters = t at this
  induction t with
  | nil => rfl
  | cons p r ih =>
    obtain ⟨j, k⟩ := p
    by_cases hj : j = c
    · simpa [tblGet, hj] using this (j, k) (by simp)
    · simpa [tblGet, hj] using ih fun q hq => this q (List.mem_cons_of_mem _ hq)

theorem mem_tblSet {α : Type} (t : Tbl α) (k : Nat) (v : α) (p : Nat × α) (h : p ∈ tblSet t k v) : p = (k, v) ∨ p ∈ t := by
  induction t with
  | nil => exact .inl (by simpa [tblSet] using h)
  | cons q r ih =>
    obtain ⟨j, w⟩ := q
    unfold tblSet at h
    split at h
    · rcases List.mem_cons.mp h with h | h
      · exact .inl h
      · exact .inr h
    · split at h
      · rcases List.mem_cons.mp h with h | h
        · exact .inl h
        · exact .inr (List.mem_cons_of_mem _ h)
      · rcases List.mem_cons.mp h with h | h
        · exact .inr (h ▸ List.mem_cons_self)
        · exact (ih h).imp id (List.mem_cons_of_mem _)

/-! ## The canonical form is kept -/

/-- Only DRAM, host memory, the cores and the clusters bear on the canonical form. -/
theorem MemoriesWf.congr {s t : State} (h : MemoriesWf s) (d : t.mem.dram = s.mem.dram) (m : t.mem.host = s.mem.host)
    (c : t.cores = s.cores) (k : t.clusters = s.clusters) : MemoriesWf t :=
  ⟨d ▸ h.dram, m ▸ h.host, c ▸ h.tcm, k ▸ h.atrium⟩

theorem MemoriesWf.setStrand {s : State} (h : MemoriesWf s) (id : Nat) (t : Strand) : MemoriesWf (setStrand s id t) :=
  h.congr rfl rfl rfl rfl

theorem MemoriesWf.setDie {s : State} (h : MemoriesWf s) (d : Nat) (k : Die) : MemoriesWf (setDie s d k) :=
  h.congr rfl rfl rfl rfl

theorem MemoriesWf.setCore {s : State} (h : MemoriesWf s) (c : Nat) (k : Core) (hk : Memory.wf k.tcm = true) :
    MemoriesWf (setCore s c k) :=
  ⟨h.dram, h.host, fun p hp => (mem_tblSet _ _ _ p hp).elim (fun e => e ▸ hk) (h.tcm p), h.atrium⟩

theorem MemoriesWf.setCluster {s : State} (h : MemoriesWf s) (c : Nat) (k : Cluster) (hk : Memory.wf k.atrium = true) :
    MemoriesWf (setCluster s c k) :=
  ⟨h.dram, h.host, h.tcm, fun p hp => (mem_tblSet _ _ _ p hp).elim (fun e => e ▸ hk) (h.atrium p)⟩

theorem MemoriesWf.tcmWrite {s : State} (h : MemoriesWf s) (p : Nat) (v : Word) : MemoriesWf (tcmWrite s p v) :=
  h.setCore _ _ (cellsWrite_wf _ _ _ _ (h.coreOf _))

theorem MemoriesWf.hostWrite {s : State} (h : MemoriesWf s) (a n v : Nat) : MemoriesWf (hostWrite s a n v) :=
  ⟨h.dram, cellsWrite_wf _ _ _ _ h.host, h.tcm, h.atrium⟩

theorem MemoriesWf.storeLine {s : State} (h : MemoriesWf s) (n : Nat) (sl : Bool) (tag : Nat) (l : Line) :
    MemoriesWf (storeLine s n sl tag l) := by
  unfold Machine.storeLine
  split
  · have := setDramLine_wf s.mem n (throughSeal s.pkg.sealKey sl false n l) h.dram
    exact ⟨this, h.host, h.tcm, h.atrium⟩
  · exact h.congr rfl rfl rfl rfl

theorem MemoriesWf.ringSignal {s : State} (h : MemoriesWf s) (n : Nat) : MemoriesWf (ringSignal s n) := by
  unfold Machine.ringSignal
  dsimp only
  split
  · unfold raiseVector
    split <;> exact h.congr rfl rfl rfl rfl
  · exact h.congr rfl rfl rfl rfl

theorem MemoriesWf.setRing {s : State} (h : MemoriesWf s) (n : Nat) (r : Ring) : MemoriesWf (setRing s n r) :=
  h.congr rfl rfl rfl rfl

theorem MemoriesWf.writeSlotAt {s : State} (h : MemoriesWf s) (n i : Nat) (payload : Word) (tag attempt source : Nat) :
    MemoriesWf (writeSlotAt s n i payload tag attempt source) := h.hostWrite _ _ _

theorem MemoriesWf.postSlot {s : State} (h : MemoriesWf s) (n : Nat) (payload : Word) (tag attempt source : Nat) :
    MemoriesWf (postSlot s n payload tag attempt source) := ((h.writeSlotAt _ _ _ _ _ _).setRing _ _).ringSignal _

theorem MemoriesWf.postEvent {s : State} (h : MemoriesWf s) (kind payload tag : Nat) : MemoriesWf (postEvent s kind payload tag) := by
  by_cases c : (ringOn (ringOf s 32) && !ringFull (ringOf s 32)) = true
  · rw [Machine.postEvent, if_pos c]
    exact h.postSlot _ _ _ _ _
  · rw [Machine.postEvent, if_neg c]
    exact h.congr rfl rfl rfl rfl

/-- R289, R319: a lost line is dropped and reported; the report may write a slot of a host ring. -/
theorem MemoriesWf.loseLine {s : State} (h : MemoriesWf s) (n tag : Nat) : MemoriesWf (loseLine s n tag) := by
  have e : MemoriesWf (poisonLine (dropLine s n) n) := h.congr rfl rfl rfl rfl
  refine MemoriesWf.congr (s := writeBackError (poisonLine (dropLine s n) n) (paOf (64 * n)) tag) ?_ rfl rfl rfl rfl
  unfold writeBackError
  split
  · exact e.congr rfl rfl rfl rfl
  · exact e.postEvent _ _ _

theorem MemoriesWf.writeBack {s : State} (h : MemoriesWf s) (n : Nat) : MemoriesWf (writeBack s n) := by
  unfold Machine.writeBack
  split
  · exact h
  · rename_i l _
    split
    · exact h.loseLine _ _
    split
    · have := setDramLine_wf s.mem n (throughSeal s.pkg.sealKey l.isSealed false n l.data) h.dram
      exact ⟨this, h.host, h.tcm, h.atrium⟩
    · exact h

theorem MemoriesWf.breakLine {s : State} (h : MemoriesWf s) (k : LineKey) : MemoriesWf (breakLine s k) :=
  h.congr rfl rfl rfl rfl

theorem MemoriesWf.addReport {s : State} (h : MemoriesWf s) (k n : Nat) : MemoriesWf (addReport s k n) :=
  h.congr rfl rfl rfl rfl

theorem MemoriesWf.fillCoded {s : State} (h : MemoriesWf s) (r j : Nat) (sl : Bool) : MemoriesWf (fillCoded s r j sl) := by
  unfold Machine.fillCoded
  split
  · exact h
  · split
    split
    · exact h.congr rfl rfl rfl rfl
    · exact h.congr rfl rfl rfl rfl

/-- R214, R302, R304: every write to a target keeps the canonical form of every memory. -/
theorem MemoriesWf.targetWrite {s : State} (h : MemoriesWf s) (cl tag : Nat) (q : Target) (n v : Nat) :
    MemoriesWf (targetWrite s cl tag q n v) := by
  cases q with
  | atrium o => exact h.setCluster _ _ (cellsWrite_wf _ _ _ _ (h.clusterOf _))
  | phys k sl => exact (h.storeLine _ _ _ _).breakLine _
  | coded r o sl => exact (h.fillCoded r (o / 64) sl).congr rfl rfl rfl rfl
  | host a => exact h.hostWrite _ _ _

theorem MemoriesWf.physWrite {s : State} (h : MemoriesWf s) (k n v : Nat) : MemoriesWf (physWrite s k n v) :=
  h.targetWrite _ _ _ _ _

/-! ## Reading after a write to a target -/

@[simp] theorem addReport_mem (s : State) (k n : Nat) : (addReport s k n).mem = s.mem := rfl
@[simp] theorem addReport_net (s : State) (k n : Nat) : (addReport s k n).net = s.net := rfl
@[simp] theorem addReport_clusters (s : State) (k n : Nat) : (addReport s k n).clusters = s.clusters := rfl

/-- Filling a coded line changes no other memory. -/
theorem fillCoded_mem (s : State) (r j : Nat) (sl : Bool) :
    (fillCoded s r j sl).mem =
      { s.mem with coded := (fillCoded s r j sl).mem.coded, codedPoison := (fillCoded s r j sl).mem.codedPoison } := by
  unfold fillCoded
  split
  · rfl
  · split
    split <;> rfl

theorem fillCoded_same (s : State) (r j : Nat) (sl : Bool) :
    (fillCoded s r j sl).clusters = s.clusters ∧ (fillCoded s r j sl).pkg.regions = s.pkg.regions ∧
    (fillCoded s r j sl).pkg.sealKey = s.pkg.sealKey ∧ (fillCoded s r j sl).strands = s.strands ∧
    (fillCoded s r j sl).cores = s.cores ∧ (fillCoded s r j sl).dies = s.dies ∧ (fillCoded s r j sl).net = s.net := by
  unfold fillCoded
  split
  · simp
  · split
    split <;> exact ⟨rfl, rfl, rfl, rfl, rfl, rfl, rfl⟩

theorem lineNow_fillCoded (s : State) (r j n : Nat) (sl b : Bool) : lineNow (fillCoded s r j sl) n b = lineNow s n b := by
  have h1 := fillCoded_mem s r j sl
  have h2 := (fillCoded_same s r j sl).2.2.1
  simp only [lineNow, h2, dramLine]
  rw [h1]

theorem blockBits_fillCoded (s : State) (r j g k : Nat) (sl b : Bool) :
    blockBits (fillCoded s r j sl) g k b = blockBits s g k b := by
  simp only [blockBits, regionOf, (fillCoded_same s r j sl).2.1, lineNow_fillCoded]

/-- A filled line holds what reading it gave. -/
theorem tblFind_fillCoded (s : State) (r j : Nat) (sl : Bool) :
    (tblFind (fillCoded s r j sl).mem.coded (codedKey r j)).map (·.data) = some (codedLine s r j sl) := by
  unfold fillCoded codedLine
  cases h : tblFind s.mem.coded (codedKey r j) with
  | some l => simp [h]
  | none =>
    simp only
    split <;> simp

theorem codedLine_fillCoded (s : State) (r j : Nat) (sl b : Bool) :
    codedLine (fillCoded s r j sl) r j b = codedLine s r j sl := by
  have h := tblFind_fillCoded s r j sl
  cases e : tblFind (fillCoded s r j sl).mem.coded (codedKey r j) with
  | none => simp [e] at h
  | some l => simpa [codedLine, e] using h

theorem codedLine_fillCoded_ne (s : State) (r j g k : Nat) (sl b : Bool) (h : codedKey g k ≠ codedKey r j) :
    codedLine (fillCoded s r j sl) g k b = codedLine s g k b := by
  have e : tblFind (fillCoded s r j sl).mem.coded (codedKey g k) = tblFind s.mem.coded (codedKey g k) := by
    unfold fillCoded
    split
    · rfl
    · split
      split <;> exact tblFind_tblSet_ne _ _ _ _ h
  simp only [codedLine, e, regionOf, (fillCoded_same s r j sl).2.1, blockBits_fillCoded]

/-- R302: filling a coded line changes no byte that anything reads under one SEALED bit. -/
theorem targetRead_fillCoded (s : State) (g o : Nat) (sl : Bool) (c : Nat) (r : Target) (m : Nat)
    (h : ∀ g' o' sl', r = .coded g' o' sl' → codedKey g' (o' / 64) = codedKey g (o / 64) →
      g' = g ∧ o' / 64 = o / 64 ∧ sl' = sl) :
    targetRead (fillCoded s g (o / 64) sl) c r m = targetRead s c r m := by
  cases r with
  | atrium a => simp only [targetRead, clusterOf, (fillCoded_same s g (o / 64) sl).1]
  | phys k b => simp only [targetRead, lineNow_fillCoded]
  | host a => simp only [targetRead]; rw [fillCoded_mem]
  | coded g' o' b =>
    simp only [targetRead]
    by_cases e : codedKey g' (o' / 64) = codedKey g (o / 64)
    · obtain ⟨rfl, h2, rfl⟩ := h g' o' b rfl e
      rw [h2, codedLine_fillCoded]
    · rw [codedLine_fillCoded_ne _ _ _ _ _ _ _ e]

theorem lineNow_breakLine (s : State) (k : LineKey) (n : Nat) (b : Bool) : lineNow (breakLine s k) n b = lineNow s n b := rfl

theorem codedLine_breakLine (s : State) (k : LineKey) (r j : Nat) (b : Bool) : codedLine (breakLine s k) r j b = codedLine s r j b :=
  rfl

/-- The bytes written to a target read back. -/
theorem targetRead_targetWrite (s : State) (cl tag : Nat) (q : Target) (n v : Nat) (h : MemoriesWf s) (hp : Plain s q)
    (hl : InLine q n) : targetRead (targetWrite s cl tag q n v) cl q n = v % 2 ^ (8 * n) := by
  cases q with
  | atrium o => simp only [targetRead, targetWrite, clusterOf_setCluster, cellsRead_cellsWrite _ _ _ _ (h.clusterOf cl)]
  | phys k sl =>
    simp only [targetRead, targetWrite, lineNow_breakLine, lineNow_storeLine s _ sl tag _ h.dram (fun hb => hp hb k sl rfl)]
    exact lineBits_lineSet _ _ _ _ hl
  | coded r o sl =>
    simp only [targetRead, targetWrite, codedLine_breakLine]
    simp only [codedLine, tblFind_tblSet]
    exact lineBits_lineSet _ _ _ _ hl
  | host a => simp only [targetRead, targetWrite, hostWrite, cellsRead_cellsWrite _ _ _ _ h.host]

/-- Bytes apart from those written read as before. -/
theorem targetRead_targetWrite_ne (s : State) (cl tag : Nat) (q : Target) (n v c : Nat) (r : Target) (h : MemoriesWf s)
    (hp : Plain s q) (hl : InLine q n) (ha : Apart cl q n c r) :
    targetRead (targetWrite s cl tag q n v) c r 1 = targetRead s c r 1 := by
  cases q with
  | atrium o =>
    cases r with
    | atrium o' =>
      by_cases e : c = cl
      · subst e
        have ha' : o' < o ∨ o + n ≤ o' := by simpa [Apart] using ha
        simp only [targetRead, targetWrite, clusterOf_setCluster]
        exact cellsRead_cellsWrite_ne _ _ _ _ _ _ (h.clusterOf c) (by omega)
      · simp only [targetRead, targetWrite, clusterOf_setCluster_ne _ _ _ _ e]
    | phys k b => rfl
    | coded g o' b => rfl
    | host a => rfl
  | phys k sl =>
    cases r with
    | atrium o' =>
      have e : (targetWrite s cl tag (.phys k sl) n v).clusters = s.clusters := by
        simp only [targetWrite, breakLine_clusters, storeLine]
        split <;> rfl
      simp only [targetRead, clusterOf, e]
    | phys j b =>
      simp only [targetRead, targetWrite, lineNow_breakLine]
      by_cases e : j / 64 = k / 64
      · have ha' : b = sl ∧ (j < k ∨ k + n ≤ j) := by simpa [Apart, e] using ha
        obtain ⟨rfl, hd⟩ := ha'
        rw [e, lineNow_storeLine s _ b tag _ h.dram (fun hb => hp hb k b rfl)]
        exact lineBits_lineSet_ne _ _ _ _ _ _ (by omega) (by omega)
      · rw [lineNow_storeLine_ne _ _ _ _ _ _ _ h.dram e]
    | coded g o' b => exact absurd ha (by simp [Apart])
    | host a =>
      have e : (targetWrite s cl tag (.phys k sl) n v).mem.host = s.mem.host := by
        simp only [targetWrite, breakLine, storeLine]
        split <;> rfl
      simp only [targetRead, e]
  | coded g o sl =>
    by_cases hn : ∃ o' b g', r = Target.coded g' o' b ∧ codedKey g' (o' / 64) = codedKey g (o / 64)
    · obtain ⟨o', b, g', rfl, e⟩ := hn
      have ha' : g' = g ∧ o' / 64 = o / 64 ∧ b = sl ∧ (o' < o ∨ o + n ≤ o') := by simpa [Apart, e] using ha
      obtain ⟨rfl, h2, rfl, hd⟩ := ha'
      have hl' : o % 64 + n ≤ 64 := hl
      simp only [targetRead, targetWrite, codedLine_breakLine]
      rw [h2]
      have e2 : ∀ (u : State) (l : Line) (f : Bool) (tg : Nat), codedLine
          { u with mem := { u.mem with coded := tblSet u.mem.coded (codedKey g' (o / 64)) ⟨l, f, b, tg⟩ } } g' (o / 64) b = l := by
        intro u l f tg
        simp only [codedLine, tblFind_tblSet]
      rw [e2, lineBits_lineSet_ne _ _ _ _ _ _ (by omega) (by omega), codedLine_fillCoded]
    · rw [← targetRead_fillCoded s g o sl c r 1 fun g' o' b hr e => absurd ⟨o', b, g', hr, e⟩ hn]
      cases r with
      | atrium o' => rfl
      | phys j b => rfl
      | host a => rfl
      | coded g' o' b =>
        have e : codedKey g' (o' / 64) ≠ codedKey g (o / 64) := fun e => hn ⟨o', b, g', rfl, e⟩
        simp only [targetRead, targetWrite, codedLine_breakLine]
        simp only [codedLine, tblFind_tblSet_ne _ _ _ _ e]
        rfl
  | host a =>
    cases r with
    | host b =>
      have ha' : b < a ∨ a + n ≤ b := by simpa [Apart] using ha
      simp only [targetRead, targetWrite, hostWrite]
      exact cellsRead_cellsWrite_ne _ _ _ _ _ _ h.host (by omega)
    | atrium o' => rfl
    | phys k b => rfl
    | coded g o' b => rfl

theorem memoriesWf_reset : MemoriesWf State.reset := ⟨rfl, rfl, by decide, by decide⟩

end Sys2Proof.Machine
end

