-- ==== Sys2Proof/Laws/Ops.lean ====
section
/-!
SUPPORT. What the shared operations over a strand can do: registers, going on, waiting, taking a trap. A meaning that answers one of
these operations has the completion that the claims speak of.
-/

namespace Sys2Proof.Machine

/-! ## Registers (R42) -/

theorem getReg_putReg_ne (t : Strand) (r q : BitVec 5) (v : Word) (h : q ≠ r) : getReg (putReg t r v) q = getReg t q := by
  have : r.toNat ≠ q.toNat := fun e => h (BitVec.eq_of_toNat_eq e.symm)
  unfold getReg putReg
  split
  · rfl
  · split
    · rfl
    · simp [Vector.getElem_set_ne _ _ this]

/-- A register write touches the register file alone. -/
theorem putReg_eq (t : Strand) (r : BitVec 5) (v : Word) : putReg t r v = { t with regs := (putReg t r v).regs } := by
  unfold putReg
  split <;> rfl

/-! ## Only the strand changes -/

theorem onlyStrand_modStrand (s : State) (f : Strand → Strand) : OnlyStrand s (modStrand s s.cur f) :=
  ⟨rfl, rfl, rfl, rfl, rfl, rfl, rfl, rfl, rfl, fun _ hj => strandOf_modStrand_ne _ _ _ _ hj⟩

theorem onlyStrand_trans {s t u : State} (h : OnlyStrand s t) (k : OnlyStrand t u) : OnlyStrand s u :=
  ⟨k.1.trans h.1, k.2.trans h.2, k.3.trans h.3, k.4.trans h.4, k.5.trans h.5, k.6.trans h.6, k.7.trans h.7, k.8.trans h.8,
   k.9.trans h.9, fun j hj => (k.10 j (by rw [h.2]; exact hj)).trans (h.10 j hj)⟩

/-- A meaning that changes its strand alone completes. -/
theorem completes_modStrand (s : State) (i : Instr) (f : Strand → Strand) (h : exec i s = .next (modStrand s s.cur f)) :
    Completes s i f :=
  ⟨_, h, onlyStrand_modStrand s f, strandOf_modStrand s s.cur f⟩

theorem completes_finish (s : State) (i : Instr) (h : exec i s = .next (finish s s.cur)) : Completes s i past :=
  completes_modStrand s i past h

theorem completes_finishAt (s : State) (i : Instr) (p : BitVec 48) (h : exec i s = .next (finishAt s s.cur p)) :
    Completes s i (goneTo p) :=
  completes_modStrand s i (goneTo p) h

theorem completes_blockOn (s : State) (i : Instr) (b : Block) (h : exec i s = .next (blockOn s s.cur b)) :
    Completes s i fun t => { t with blocked := some b } :=
  completes_modStrand s i _ h

theorem completes_parkOn (s : State) (i : Instr) (b : Block) (h : exec i s = .next (parkOn s s.cur b)) :
    Completes s i fun t => { t with slot := .park, blocked := some b } :=
  completes_modStrand s i _ h

theorem writes_of (s : State) (i : Instr) (a : BitVec 5) (v : Word) (h : exec i s = .next (finishReg s s.cur a v)) :
    Writes s i a v := by
  refine ⟨_, h, onlyStrand_trans (onlyStrand_modStrand s (putReg · a v)) (onlyStrand_modStrand (setReg s s.cur a v) past), ?_⟩
  simp [finishReg, finish, setReg, past, nextPc]

theorem writesFl_of (s : State) (i : Instr) (a : BitVec 5) (v : Fl Word) (h : exec i s = .next (finishFl s s.cur a v)) :
    WritesFl s i a v.1 v.2 := by
  refine ⟨_, h, onlyStrand_trans (onlyStrand_modStrand s fun t => { t with sflags := t.sflags ||| v.2 })
    (onlyStrand_trans (onlyStrand_modStrand (raise s s.cur v.2) (putReg · a v.1))
      (onlyStrand_modStrand (setReg (raise s s.cur v.2) s.cur a v.1) past)), ?_⟩
  simp [finishFl, finishReg, finish, setReg, raise, past, nextPc]

/-! ## Traps (R101, R102) -/

theorem onlyStrand_takeTrap (s : State) (c : Nat) (v p : Word) : OnlyStrand s (takeTrap s s.cur c v p) := by
  unfold takeTrap strandFailure
  split <;> exact onlyStrand_modStrand _ _

/-- All that a trap does to its strand. -/
theorem strandOf_takeTrap (s : State) (id c : Nat) (v p : Word) :
    strandOf (takeTrap s id c v p) id = trapped c v p (strandOf s id) := by
  unfold takeTrap trapped strandFailure
  split
  · exact strandOf_modStrand s id _
  · exact strandOf_modStrand s id _

theorem completes_takeTrap (s : State) (i : Instr) (c : Nat) (v p : Word) (h : exec i s = .next (takeTrap s s.cur c v p)) :
    Completes s i (trapped c v p) :=
  ⟨_, h, onlyStrand_takeTrap s c v p, strandOf_takeTrap s s.cur c v p⟩

theorem trapsHere_of (s : State) (i : Instr) (c : Nat) (v : Word) (h : exec i s = .next (trapHere s s.cur c v)) :
    TrapsHere s i c v :=
  completes_takeTrap s i c v _ h

theorem trapsHere_word (s : State) (i : Instr) (c : Nat) (w : BitVec 32) (h : exec i s = .next (trapWord s s.cur c w)) :
    TrapsHere s i c (w.zeroExtend 64) :=
  completes_takeTrap s i c _ _ h

theorem trapsHere_illegal (s : State) (i : Instr) (w : BitVec 32) (h : exec i s = .next (trapIllegal s s.cur w)) :
    TrapsHere s i cILLEGAL (w.zeroExtend 64) :=
  completes_takeTrap s i _ _ _ h

/-! ## Array-side instructions -/

theorem strandOf_finishV (s : State) (id : Nat) : strandOf (finishV s id) id = stepped 0 (strandOf s id) := by
  rw [finishV, strandOf_modStrand, stepped]
  cases h : (strandOf s id).arc.viq <;> simp [nextPc, h]

theorem strandOf_finishV_ne (s : State) (id j : Nat) (h : j ≠ id) : strandOf (finishV s id) j = strandOf s j :=
  strandOf_modStrand_ne _ _ _ _ h

/-! ## Entries that wait in the VIQ (R201-R204) -/

/-- An instruction that cannot complete stands in the VIQ with its operands, and the control side goes on. -/
theorem strandOf_awaitArray (s : State) (id : Nat) (o : Vop) (a : ArrayWait) :
    strandOf (awaitArray s id o a) id = waitsOn a o.word o.op1 o.op2 (strandOf s id) := by
  rw [awaitArray, strandOf_modStrand, waitsOn]
  cases h : (strandOf s id).arc.viq <;> simp [enterQueue, queued, entryOf, nextPc, h]

theorem onlyStrand_awaitArray (s : State) (o : Vop) (a : ArrayWait) : OnlyStrand s (awaitArray s s.cur o a) :=
  onlyStrand_modStrand s _

/-- Behind an entry that waits an instruction enters the VIQ while it has room. -/
theorem strandOf_dispatchBehind (s : State) (id : Nat) (o : Vop) (h : (strandOf s id).arc.viq.length < 32) :
    strandOf (dispatchBehind s id o) id = queued o.word o.op1 o.op2 (strandOf s id) := by
  rw [dispatchBehind, if_neg (by omega), strandOf_modStrand]
  rfl

/-- A full VIQ stalls issue. -/
theorem dispatchBehind_full (s : State) (id : Nat) (o : Vop) (h : 32 ≤ (strandOf s id).arc.viq.length) :
    dispatchBehind s id o = blockOn s id .viq := if_pos h

/-- The oldest entry of the VIQ runs with the control side set aside. -/
theorem runHead_next (s u : State) (id : Nat) (run : State → Res) (h : run (headState s id) = .next u) :
    runHead s id run = .next (modStrand { u with cur := s.cur } id (afterHead (strandOf s id))) := by
  unfold runHead
  unfold headState at h
  simp only [h]

/-- An entry that has completed leaves the control side as it was. -/
theorem afterHead_done (old t : Strand) (held : heldOn t = false) (run : t.slot = .run)
    (done : t.arc.viq.length < old.arc.viq.length) : afterHead old t = headDone old t := by
  simp [afterHead, held, run, done, headDone, popHolds, restoreControl]

/-- An instruction that waits at issue and is tried again acts as it would in its turn, or waits on where it would trap behind older
entries. -/
theorem retryIssue_cases (s : State) (id : Nat) (run : State → State) :
    (trapsEarly (strandOf s id) (strandOf (run { s with cur := id }) id) = true ∧ retryIssue s id run = s) ∨
    (trapsEarly (strandOf s id) (strandOf (run { s with cur := id }) id) = false ∧
      retryIssue s id run = { run { s with cur := id } with cur := s.cur }) := by
  cases h : trapsEarly (strandOf s id) (strandOf (run { s with cur := id }) id) <;> simp [retryIssue, h]

end Sys2Proof.Machine
end

