-- ==== Sys2Proof/Laws/Vec.lean ====
section
/-!
SUPPORT. When a vector instruction of the one-slot class is ready: its registers are resident, so that only their order of use
changes.
-/

namespace Sys2Proof.Machine

/-- The state in which the registers an instruction names are the most recent of the strand (R120). -/
def touched (s : State) (ds vs : List (BitVec 5)) : State :=
  let named := ((namedRegs s ds vs).map (groupRegs (strandOf s s.cur).arc)).flatten
  modArc s s.cur fun b => { b with recency := touchRecency b.recency named }

theorem touchRegs_oneSlot (s : State) (ds vs : List (BitVec 5)) (h : vTwo (arcOf s) = false) :
    touchRegs s s.cur (namedRegs s ds vs) = .ok (touched s ds vs) := by
  unfold arcOf at h
  simp [touchRegs, touched, h]

theorem coreOf_touched (s : State) (ds vs : List (BitVec 5)) (c : Nat) : coreOf (touched s ds vs) c = coreOf s c := rfl

theorem parityAt_nil (a : Arcade) (k : Core) (h : k.parity = []) (v e : Nat) : parityAt a k v e = false := by
  simp [parityAt, h]

theorem any_chained_off (a : Arcade) (h : fld a.chainsrc 11 1 = 0) (vs : List (BitVec 5)) : vs.any (chained a) = false := by
  simp [chained, h]

/-- A strand with bays, whose VCFG is of the one-slot class, on a core without parity mismatches, with no source that reads the
chain: every vector instruction that may name its registers is ready. -/
theorem vecReady_oneSlot (s : State) (ds vs : List (BitVec 5)) (turn : behind (strandOf s s.cur) = false)
    (bays : stNoBays (strandOf s s.cur) = false)
    (chain : fld (arcOf s).chainsrc 11 1 = 0) (one : vTwo (arcOf s) = false)
    (whole : (coreOf s (coreIdx s.cur)).parity = []) (lane : (arcOf s).lane = 0 ∨ (arcOf s).lane < (arcOf s).vl) :
    VecReady s ds vs (touched s ds vs) (envOf (arcOf (touched s ds vs)) none) where
  turn := turn
  bays := bays
  lane := lane
  chain := ⟨s, .inl ⟨any_chained_off _ chain vs, rfl, rfl⟩, touchRegs_oneSlot s ds vs one⟩
  env := rfl
  cur := rfl
  whole := fun f _ e _ => parityAt_nil _ _ (by rw [coreOf_touched]; exact whole) _ _

end Sys2Proof.Machine
end

