-- ==== Sys2Proof/Laws/Walk.lean ====
section
/-!
SUPPORT. A context whose tables map its first GiB onto itself, as `placeWord` lays them: every address below 2^30 translates to
itself, and writes to other lines keep the map. With it a Vault can be read and written from end to end.
-/

namespace Sys2Proof.Machine

/-- The tables of a context map its first GiB onto itself. -/
structure LowMap (s : State) (ctx : Nat) : Prop where
  root : tblGet 0 s.pkg.ptrootNow ctx = 0x40000001
  mode : s.pkg.bringUp = false
  regions : s.pkg.regions = []
  whole : s.mem.poison = []
  held : s.mem.l2Poison = []
  present : s.mem.lostStacks = []
  cold : s.mem.tlb = []
  upper : lineBits (lineNow s 0x1000000 false) 0 8 = 0x8000000040001000
  lower : lineBits (lineNow s 0x1000040 false) 0 8 = 0x9000000000000050
  wf : Memory.wf s.mem.dram = true

/-- The walk of an address below 2^30. -/
theorem LowMap.walked {s : State} {ag : Agent} (h : LowMap s ag.ctx) (a : Nat) (ha : a < 2 ^ 30) :
    pageWalk s (unitsOf ag) ag.ctx a = .ok ⟨0, a, Option.none, false, false, true, false, true⟩ := by
  have i3 : walkIndex 3 a = 0 := by simp only [walkIndex, bitsOf]; omega
  have i2 : walkIndex 2 a = 0 := by simp only [walkIndex, bitsOf]; omega
  have none : ∀ lo hi, inCarrier s lo hi = false := fun lo hi => by simp [inCarrier, h.regions]
  have good : ∀ n, lineBad s n = false := fun n => by simp [lineBad, dramBad, stackLost, h.whole, h.held, h.present]
  have e1 : badTableEntry s 3 (BitVec.ofNat 64 0x8000000040001000) = false := by
    simp only [badTableEntry, none, Bool.or_false]; decide
  have f0 : fld (0x40000001 : Word) 0 1 = 1 := by decide
  have f1 : fld (0x40000001 : Word) 12 28 * 4096 = 0x40000000 := by decide
  have w2 : walk s a 3 0x40001000 = .ok ⟨0, a, Option.none, false, false, true, false, true⟩ := by
    rw [walk]
    simp only [i2, Nat.mul_zero, Nat.add_zero, good]
    rw [show 0x40001000 / 64 = 0x1000040 from rfl, show 0x40001000 % 64 = 0 from rfl, h.lower]
    rw [if_neg (by decide), if_neg (by decide), if_neg (by decide), if_pos (by decide), if_neg (by decide)]
    have e : a % 2 ^ pageBits 2 = a := Nat.mod_eq_of_lt ha
    simp only [pageOf, e]
    have k : ∀ x : Nat, fld 0x9000000000000050#64 16 36 * 2 ^ 16 + x = x := fun x => by
      rw [show fld 0x9000000000000050#64 16 36 = 0 from rfl, Nat.zero_mul, Nat.zero_add]
    simp only [k]
    congr 2
  have w3 : walk s a 4 0x40000000 = .ok ⟨0, a, Option.none, false, false, true, false, true⟩ := by
    rw [walk]
    simp only [i3, Nat.mul_zero, Nat.add_zero, good]
    rw [show 0x40000000 / 64 = 0x1000000 from rfl, show 0x40000000 % 64 = 0 from rfl, h.upper]
    rw [if_neg (by decide), if_neg (by decide), if_neg (by decide), if_neg (by decide), if_neg (by rw [e1]; decide)]
    rw [show fld (BitVec.ofNat 64 0x8000000040001000) 8 32 * 256 = 0x40001000 by decide, w2]
  have hc : cachedEntry s (unitsOf ag) ag.ctx a = Option.none := by simp [cachedEntry, cachedAt, h.cold]
  simp only [pageWalk, hc, tableWalk, h.root, f0, f1, none, w3]
  rfl

theorem LowMap.translate {s : State} {ag : Agent} (h : LowMap s ag.ctx) (w : Bool) (a : Nat) (ha : a < 2 ^ 30) :
    translate s ag w (BitVec.ofNat 64 a) = .ok (.phys a false) := by
  have hn : (BitVec.ofNat 64 a).toNat = a := by simp; omega
  have hva : va48 (BitVec.ofNat 64 a) = a := by simp only [va48, fld, bitsOf, hn]; omega
  have hat : inAtrium (BitVec.ofNat 64 a) = false := by simp [inAtrium, hn]; omega
  have hcan : canonical (BitVec.ofNat 64 a) = true := by simp only [canonical, fld, bitsOf, hn]; simp; omega
  have hp := h.walked a ha
  rw [Sys2Proof.Machine.translate, hat, hcan, hva, hp]
  have hr : reservedPa (a % 1099511627776) = false := by simp only [reservedPa, dieBytes]; simp; omega
  simp [pageForbidden, pageTarget, hr]

theorem addr48_low (a : Nat) (ha : a < 2 ^ 30) : addr48 a = BitVec.ofNat 64 a := by
  have h : (BitVec.ofNat 48 a).msb = false := by
    rw [BitVec.msb_eq_decide, BitVec.toNat_ofNat, decide_eq_false_iff_not]; omega
  unfold addr48
  apply BitVec.eq_of_toNat_eq
  rw [BitVec.toNat_signExtend, h]
  simp
  omega

/-- The page of an address below 2^30 is LOCAL. -/
theorem LowMap.page {s : State} {ag : Agent} (h : LowMap s ag.ctx) (a : Nat) (ha : a < 2 ^ 30) :
    pageWalk s (unitsOf ag) ag.ctx (va48 (BitVec.ofNat 64 a)) =
      .ok ⟨0, a, Option.none, false, false, true, false, true⟩ := by
  rw [show va48 (BitVec.ofNat 64 a) = a by
    simp only [va48, fld, bitsOf, BitVec.toNat_ofNat]; omega]
  exact h.walked a ha

theorem LowMap.vaultTarget {s : State} {id : Nat} (h : LowMap s (stLanding (strandOf s id))) (w : Bool) (a : Nat)
    (ha : a < 2 ^ 30) : vaultTarget s id w a = .ok (.phys a false) := by
  have t := LowMap.translate (s := s) (ag := { agentOf s id with supervisor := true }) h w a ha
  have p := LowMap.page (s := s) (ag := { agentOf s id with supervisor := true }) h a ha
  have b : targetBad s (clusterIdx id) (.phys a false) 8 = false := by
    simp [targetBad, lineBad, dramBad, stackLost, h.whole, h.held, h.present]
  simp only [Machine.vaultTarget, translateLocal, addr48_low a ha, t, p]
  simp [b]

/-- A Vault below 2^30 can be read. -/
theorem LowMap.vaultRead {s : State} {id : Nat} (h : LowMap s (stLanding (strandOf s id))) (n a : Nat) (ha : a + 8 * n ≤ 2 ^ 30) :
    vaultRead s id n a = .ok ((List.range n).map fun i =>
      BitVec.ofNat 64 (targetRead s (clusterIdx id) (.phys (a + 8 * i) false) 8)) := by
  induction n generalizing a with
  | zero => rfl
  | succ n ih =>
    simp only [Machine.vaultRead, h.vaultTarget false a (by omega), ih (a + 8) (by omega)]
    simp only [List.range_succ_eq_map, List.map_cons, List.map_map, Nat.mul_zero, Nat.add_zero]
    congr 2
    apply List.map_congr_left
    intro i _
    simp only [Function.comp, Nat.succ_eq_add_one]
    rw [show a + 8 + 8 * i = a + 8 * (i + 1) by omega]

/-- A write elsewhere keeps the map. -/
theorem LowMap.targetWrite {s : State} {ctx : Nat} (h : LowMap s ctx) (cl tag k v : Nat) (h1 : k / 64 ≠ 0x1000000)
    (h2 : k / 64 ≠ 0x1000040) : LowMap (targetWrite s cl tag (.phys k false) 8 v) ctx := by
  have m : s.pkg.bringUp = false := h.mode
  have g : lineBad s (k / 64) = false := by simp [lineBad, dramBad, stackLost, h.whole, h.held, h.present]
  refine ⟨?_, ?_, ?_, ?_, ?_, ?_, ?_, ?_, ?_, ?_⟩
  · simpa [Machine.targetWrite, breakLine, storeLine, m] using h.root
  · simp [Machine.targetWrite, breakLine, storeLine, m]
  · simpa [Machine.targetWrite, breakLine, storeLine, m] using h.regions
  · simpa [Machine.targetWrite, breakLine, storeLine, m] using h.whole
  · simp [Machine.targetWrite, breakLine, storeLine, m, g, h.held]
  · simpa [Machine.targetWrite, breakLine, storeLine, m] using h.present
  · simpa [Machine.targetWrite, breakLine, storeLine, m] using h.cold
  · rw [← h.upper]
    simp only [Machine.targetWrite, lineNow_breakLine, lineNow_storeLine_ne s (k / 64) 0x1000000 _ _ _ _ h.wf (Ne.symm h1)]
  · rw [← h.lower]
    simp only [Machine.targetWrite, lineNow_breakLine, lineNow_storeLine_ne s (k / 64) 0x1000040 _ _ _ _ h.wf (Ne.symm h2)]
  · simpa [Machine.targetWrite, breakLine, storeLine, m] using h.wf

theorem strandOf_targetWrite_phys (s : State) (cl tag k v id : Nat) :
    strandOf (targetWrite s cl tag (.phys k false) 8 v) id = strandOf s id := by
  simp only [Machine.targetWrite, breakLine, storeLine]
  split <;> rfl

/-- A Vault below 2^30 can be written, whatever is written. -/
theorem LowMap.vaultWrite {s : State} {id : Nat} (h : LowMap s (stLanding (strandOf s id))) (ws : List Word) (a : Nat)
    (ha : a + 8 * ws.length ≤ 2 ^ 30) : ∃ u, vaultWrite id ws a s = .ok u := by
  induction ws generalizing a s with
  | nil => exact ⟨s, rfl⟩
  | cons w r ih =>
    simp only [List.length_cons] at ha
    simp only [Machine.vaultWrite, h.vaultTarget true a (by omega)]
    apply ih
    · rw [strandOf_targetWrite_phys]
      exact h.targetWrite _ _ _ _ (by omega) (by omega)
    · omega

end Sys2Proof.Machine
end

