-- ==== Sys2Proof/Tests/Slice0.lean ====
section
/-!
SUPPORT. Tests: ill-formed terms that the check of the operands refuses, words of every instruction written out from the manual's
encodings, and for every statement a concrete state and operands that meet its hypotheses. Expected values come from the
manual's rules and worked examples.
-/

set_option maxRecDepth 100000
set_option exponentiation.threshold 10000

namespace Sys2Proof.Tests

set_option Elab.async false

open Sys2Proof Sys2Proof.Machine

/-! ## States to test on -/

/-- The package in service, every slot FREE. -/
def idle : State := { State.reset with agenda := [], pkg := { State.reset.pkg with bringUp := false, fit := true } }

/-- Strand 0 runs at address 0; its context maps the first GiB onto itself, and a NOP stands at its program counter. -/
def up : State := placeWord (modStrand idle 0 fun t => { t with slot := .run }) 0 0x08000000

/-- The same at S. -/
def sup : State := modStrand up 0 fun t => { t with status := t.status ||| 1 }

/-- The scalar registers named set. -/
def rg (s : State) (l : List (BitVec 5 × Word)) : State := l.foldl (fun u p => setReg u 0 p.1 p.2) s

/-- A strand changed. -/
def st (s : State) (f : Strand → Strand) : State := modStrand s 0 f

/-- The state after an instruction. -/
def after (i : Instr) (s : State) : State :=
  match exec i s with
  | .next t => t
  | _ => s

/-- The instruction answers a next state. -/
def runs (i : Instr) (s : State) : Bool :=
  match exec i s with
  | .next _ => true
  | _ => false

/-- A scalar register of strand 0. -/
def x (s : State) (r : BitVec 5) : Word := reg s 0 r

/-- Strand 0. -/
def z (s : State) : Strand := strandOf s 0

/-- An address of the Atrium window. -/
abbrev atr (o : Nat) : Word := BitVec.ofNat 64 (0x7FFFFF800000 + o)

/-- Lines take uncorrectable errors, in L2 and in DRAM. -/
def hurt (s : State) (l : List Nat) : State := { s with mem := { s.mem with poison := l, l2Poison := l } }

/-! ## Witnesses: scalar instructions -/

theorem test_add_wraps : let s := rg up [(2, -1), (3, 2)]
    runs (.add 1 2 3) s = true ∧ x (after (.add 1 2 3) s) 1 = 1 ∧ x (after (.mulh 1 2 3) s) 1 = -1 ∧
    x (after (.mulhu 1 2 3) s) 1 = 1 ∧ x (after (.sra 1 2 3) s) 1 = -1 ∧ x (after (.sltu 1 2 3) s) 1 = 0 := by decide

theorem test_bit_fields : let s := rg up [(2, 0xF0), (3, 0)]
    x (after (.clz 1 2) s) 1 = 56 ∧ x (after (.ctz 1 2) s) 1 = 4 ∧ x (after (.clz 1 3) s) 1 = 64 ∧
    x (after (.ctz 1 3) s) 1 = 64 ∧ x (after (.popc 1 2) s) 1 = 4 ∧ x (after (.bext 1 2 4 3) s) 1 = 15 ∧
    x (after (.bins 3 2 60 3) s) 3 = 0 ∧ x (after (.lihZ 1 3 0x8000) s) 1 = 0x8000000000000000 := by decide

theorem test_division_corners : let s := rg up [(2, 0x8000000000000000), (3, -1), (4, 0), (5, -7), (6, 2)]
    x (after (.div 1 2 3) s) 1 = 0x7FFFFFFFFFFFFFFF ∧ x (after (.rem 1 2 3) s) 1 = 0 ∧ x (after (.div 1 5 6) s) 1 = -3 ∧
    x (after (.rem 1 5 6) s) 1 = -1 ∧ x (after (.div 1 5 4) s) 1 = 0x8000000000000000 ∧ x (after (.div 1 6 4) s) 1 = 0x7FFFFFFFFFFFFFFF ∧
    x (after (.div 1 4 4) s) 1 = 0 ∧ x (after (.divu 1 6 4) s) 1 = -1 ∧ x (after (.remu 1 6 4) s) 1 = 0 ∧
    x (after (.divu 1 4 4) s) 1 = 0 := by decide

theorem test_float : let s := rg up [(2, 0x3FF0000000000000), (3, 0), (4, 0x7FF0000000000001)]
    x (after (.fdiv 1 2 3 1) s) 1 = 0x7FF0000000000000 ∧ (z (after (.fdiv 1 2 3 1) s)).sflags = flagDZ ∧
    x (after (.fadd 1 2 2 1) s) 1 = 0x4000000000000000 ∧ (z (after (.fadd 1 2 4 1) s)).sflags = flagNV ∧
    x (after (.fcvtLD 1 2) s) 1 = 1 ∧ isNaN (readFloat fFP64 0x7FF0000000000001) = true ∧
    isSNaN (readFloat fFP64 0x7FF0000000000001) = true ∧ isNaN (readFloat fFP32 0x7FC00000) = true := by decide

theorem test_wait : issuedCmds up 0 0 = [] ∧ bulksOf up 0 = [] ∧ openOps up 0 = [] ∧ (z (after .wait up)).pc = 4 ∧
    (let c : CopyCmd := ⟨0, 0, 0, 0, false, 0, 3, atr 0, 5, 8, 0, .queued, 0, 0, 0, 0⟩
     let s := setCluster up 0 { (clusterOf up 0) with engines := [[c]] }
     issuedCmds s 0 0 ≠ [] ∧ (z (after .wait s)).slot = .park ∧ (z (after (.waitTimeout 0) (after .wait s))).pc = 4) := by decide

theorem test_branches : let s := rg (st up fun t => { t with pc := 0x1000 }) [(2, -1), (3, 1), (4, 0x2002), (5, 0x8000000000000000)]
    (z (after (.blt 2 3 0xFFFF) s)).pc = 0xFFC ∧ (z (after (.bltu 2 3 0xFFFF) s)).pc = 0x1004 ∧
    x (after (.jal 2) s) 31 = 0x1004 ∧ (z (after (.jalr 1 4 0) s)).cause = 4 ∧ x (after (.jalr 1 4 0) s) 1 = 0 ∧
    (z (after (.jalr 1 5 0) s)).cause = 5 ∧ (z (after (.jalr 1 5 0) s)).tval = 0x8000000000000000 ∧
    (z (after (.jalr 4 4 0xFFFE) s)).pc = 0x2000 ∧ x (after (.jalr 4 4 0xFFFE) s) 4 = 0x1004 ∧
    (z (after (.beq 3 3 0x8000) (st s fun t => { t with pc := 0x7FFFFFFFFFFC }))).pc = 0x7FFFFFFDFFFC ∧
    (z (after (.beq 3 3 0x7FFF) (st s fun t => { t with pc := 0x7FFFFFFFFFFC }))).cause = 5 := by decide

theorem test_beng : (engineStatus up 0 0).testBit 0 = true ∧ (engineStatus up 0 4).testBit 0 = true ∧
    (z (after (.beng 0 1 0 4) up)).pc = 16 ∧ (z (after (.beng 0 0 0 4) up)).pc = 4 := by decide

theorem test_svc : let s := st up fun t => { t with pc := 0x1000, tvec := 0x8000, sflags := 3 }
    (z (after (.svc 77) s)).epc = 0x1004 ∧ (z (after (.svc 77) s)).tval = 77 ∧ (z (after (.svc 77) s)).pc = 0x8000 ∧
    (z (after (.brk 5) s)).epc = 0x1000 ∧ (z (after (.brk 5) s)).cause = 0x10 ∧ stSuper (z (after (.brk 5) s)) = true ∧
    stNest (z (after (.brk 5) s)) = true ∧ (z (after (.svc 1) (after (.brk 5) s))).slot = .drain ∧
    (z (after .rets (after (.svc 77) s))).pc = 0x1004 ∧ stSuper (z (after .rets (after (.svc 77) s))) = false ∧
    (z (after .rets s)).cause = 0xE ∧ (z (after (.guard 0) s)).cause = 2 ∧
    (z (after (.illegalInstruction 1) s)).tval = 1 ∧ stNest (z s) = false := by decide

theorem test_rets_held : let s := st sup fun t => { t with arc := { t.arc with held := [⟨0x88443300, 8, 1, 2, false⟩], heldPoint := 12 } }
    (z s).arc.held ≠ [] ∧ (z (after .rets s)).pc = 12 ∧ (z (after .rets s)).arc.viq = (z s).arc.held ∧
    (z (after .rets s)).arc.held = [] := by decide

/-! ## Witnesses: scalar memory -/

theorem wf_up : MemoriesWf up := ⟨by decide, by decide, by decide, by decide⟩

theorem reaches_atrium : Reaches (rg up [(2, atr 8)]) false (atr 8) 8 (.atrium 8) ∧
    Reaches (rg up [(2, atr 8)]) true (atr 8) 8 (.atrium 8) ∧ HostAnswered up (.atrium 8) :=
  ⟨⟨by decide, by decide, by decide, by decide⟩, ⟨by decide, by decide, by decide, by decide⟩, (by intro _ h; cases h)⟩

theorem reaches_phys : Reaches (rg up [(2, 0x20000)]) true 0x20000 8 (.phys 0x20000 false) ∧
    Reaches (rg up [(2, 0x20000)]) false 0x20000 4 (.phys 0x20000 false) ∧ Plain up (.phys 0x20000 false) ∧
    HostAnswered up (.phys 0x20000 false) :=
  ⟨⟨by decide, by decide, by decide, by decide⟩, ⟨by decide, by decide, by decide, by decide⟩, (by intro h; cases h),
   (by intro _ h; cases h)⟩

theorem test_store_load : let s := rg up [(2, 0x20000), (3, 0x1122334455667788)]
    let t := after (.std 3 2 0) s
    targetRead t 0 (.phys 0x20000 false) 8 = 0x1122334455667788 ∧ x (after (.ldb 1 2 7) t) 1 = 0x11 ∧
    x (after (.ldh 1 2 0) t) 1 = 0x7788 ∧ x (after (.ldb 1 2 0) t) 1 = 0xFFFFFFFFFFFFFF88 ∧
    targetBad s 0 (.phys 0x20000 false) 8 = false ∧ nonfiniteWrite s (.phys 0x20000 false) 8 0x1122334455667788 = false ∧
    (z (after (.ldw 1 2 2) s)).cause = 4 ∧ (z (after (.ldw 1 2 2) s)).tval = 0x20002 := by decide

theorem test_access_refused : let s := rg up [(2, 0x40000000)]
    translate s (agentOf s 0) false 0x40000000 = .error (xfault cPAGE_FAULT) ∧
    (z (after (.ldd 1 2 0) s)).cause = 5 ∧ (z (after (.ldd 1 2 0) s)).tval = 0x40000000 ∧
    targetBad (hurt s [0x800]) 0 (.phys 0x20000 false) 8 = true ∧
    (z (after (.ldd 1 3 0) (rg (hurt s [0x800]) [(3, 0x20000)]))).cause = 0x15 := by decide

theorem test_tcm : let s := rg up [(2, -8), (3, 77), (4, 0x3BFF8), (5, 0x3C000), (6, 4)]
    let t := after (.stt 3 2 0) s
    cellsRead (coreOf t 0).tcm 0x3CFF8 8 = 77 ∧ x (after (.ldt 1 2 0) t) 1 = 77 ∧
    (z (after (.ldt 1 4 0) s)).cause = 0 ∧ (z (after (.ldt 1 5 0) s)).cause = 6 ∧ (z (after (.ldt 1 6 0) s)).cause = 4 ∧
    (z (after (.ldt 1 5 0) (rg sup [(5, 0x3C000)]))).cause = 0 := by decide

theorem test_amo : let s := rg up [(1, 5), (2, 0x20000), (3, 7)]
    let t := after (.amoCas 1 2 3 0 1) (after (.amoAdd 4 2 1 0 1) s)
    x (after (.amoAdd 4 2 1 0 1) s) 4 = 0 ∧ x t 1 = 5 ∧ targetRead t 0 (.phys 0x20000 false) 8 = 7 ∧
    unperformed s 0 = false ∧ inAtrium 0x20000 = false ∧ (z (after (.amoAdd 4 2 1 0 1) (rg s [(2, atr 0)]))).cause ≠ 0 ∧
    nonfiniteWrite s (.phys 0x20000 false) 8 5 = false := by decide

theorem test_link : let s := rg up [(2, 0x20000), (3, 9)]
    let t := after (.ldl 1 2 0 1) s
    (linkOf t 0 none).map (·.line) = some (.phys 0x800) ∧ targetLine (.phys 0x20000 false) = some (.phys 0x800) ∧
    x (after (.stc 1 2 3 0 1) t) 1 = 1 ∧ targetRead (after (.stc 1 2 3 0 1) t) 0 (.phys 0x20000 false) 8 = 9 ∧
    linkOf (after (.stc 1 2 3 0 1) t) 0 none = none ∧ x (after (.stc 1 2 3 0 1) (rg s [(1, 4)])) 1 = 0 ∧
    targetRead (after (.stc 1 2 3 0 1) s) 0 (.phys 0x20000 false) 8 = 0 ∧
    x (after (.stc 1 2 3 0 1) (after (.std 3 2 8) t)) 1 = 0 := by decide

theorem test_host_link : let e : TagEntry := ⟨.host 0x100, some 0, none, false, 7, false, false⟩
    let s := { up with mem := { up.mem with tags := [e] } }
    linkOf s 0 none = some e ∧ targetLine (.host 0x4000) = some (.host 0x100) := by decide

theorem test_sbar : let c : CopyCmd := ⟨0, 0, 0, 0, false, 0, 3, atr 0, 5, 8, 0, .queued, 0, 0, 0, 0⟩
    let s := setCluster up 0 { (clusterOf up 0) with engines := [[c]], accepted := 1 }
    (issuedCmds s 0 0).any (fun c => decide (c.accepted < (clusterOf s 0).accepted)) = true ∧
    streamFenced (after (.sbarFull 8 1 0) s) 0 0 = true ∧ streamFenced (after (.sbarFull 8 1 0) s) 0 1 = false ∧
    (z (after (.ldd 1 2 0) (rg (after (.sbarFull 8 1 0) s) [(2, 0x20000)]))).blocked = some (.remote 0) := by decide

/-! ## Witnesses: control registers and the Newel -/

theorem test_getc : let s := st sup fun t => { t with arc := { t.arc with mfmt := 0x22, vl := 5 }, tval := 9 }
    x (after (.getc 1 0x007) s) 1 = 0x22 ∧ x (after (.getc 1 0x003) s) 1 = 5 ∧ x (after (.getc 1 0x102) s) 1 = 9 ∧
    x (after (.getc 1 0x5FB) s) 1 = 0x7FF0000000000000 ∧ cregAssigned 0x00E = false ∧ (z (after (.getc 1 0x00E) s)).cause = 1 ∧
    stSuper (z s) = true ∧ cregAssigned 0x102 = true ∧ (z (after (.getc 1 0x102) up)).cause = 0xE := by decide

theorem test_setc : let s := rg sup [(2, 0x8000), (3, 3), (4, 0xDF0022), (5, -1), (6, 0x2A), (7, 0x8000000000000007)]
    (z (after (.setc 2 0x103) s)).tvec = 0x8000 ∧ (z (after (.setc 3 0x103) s)).cause = 1 ∧
    (z (after (.setc 4 0x007) s)).arc.mfmt = 0xDF0022 ∧ (z (after (.setc 5 0x007) s)).cause = 1 ∧
    (z (after (.setcStatus 6) s)).status = 0x2F ∧ (z (after (.setcStatus 6) (rg up [(6, 0x2A)]))).status = 4 ∧
    (z (after (.setcSflags 3) s)).sflags = 3 ∧ (z (after (.setcSflags 5) s)).cause = 1 ∧
    (z (after (.setcVresume 7) s)).arc.lane = 7 ∧ (z (after (.setc 2 0x103) (rg up [(2, 0x8000)]))).cause = 0xE ∧
    (z (after (.setc 5 0x102) s)).tval = -1 ∧ (z (after (.setc 5 0x003) s)).pc = 4 := by decide

/-- TYPE I32 signed, W 32, G 1: a value of the one-slot class, which reset's VCFG has too. -/
theorem test_setc_vcfg : let s := rg up [(2, 0x1021), (3, 0x3F)]
    vcfgOk 0x1021 = true ∧ twoSlot (fld 0x1021 0 6) (fld 0x1021 7 7) = vTwo (z s).arc ∧
    (z (after (.setcVcfg 2) s)).arc.vcfg = 0x1021 ∧ vcfgOk 0x3F = false ∧ (z (after (.setcVcfg 3) s)).cause = 1 := by decide

theorem test_setc_chainsrc : let s := rg up [(2, 0x805), (3, 0x880), (4, 0x400), (5, 5)]
    (z (after (.setcChainsrc 2) s)).arc.chainsrc = 0x805 ∧ (z (after (.setcChainsrc 3) s)).cause = 1 ∧
    (z (after (.setcChainsrc 4) s)).cause = 1 ∧ (z (after (.setcChainsrc 5) s)).arc.chainsrc = 5 ∧ fld 0x880 7 2 = 1 ∧
    (z (after (.setcChainsrc 2) (setCore s 5 { Core.reset with enabled := false }))).cause = 0x13 := by decide

theorem test_setc_region : let s := rg sup [(2, 0x100000), (3, 0x10000), (4, 1), (5, 0x8000000000000001), (6, 2)]
    let t := after (.setcRrate 4 1) (after (.setc 3 0x409) (after (.setc 2 0x408) s))
    (regionOf t 1).rbase = 0x100000 ∧ (regionOf t 1).rsize = 0x10000 ∧ regionOn (regionOf t 1) = true ∧
    rrateBad s 1 1 = true ∧ regionOn (regionOf s 1) = false ∧ (z (after (.setc 2 0x408) t)).cause = 1 ∧
    (z (after (.setcRrate 4 1) (rg up [(4, 1)]))).cause = 0xE ∧ (regionOf (after (.setc 5 0x40B) s) 1).errlim = 1 ∧
    tblGet 0 (after (.setc 4 0x604) s).pkg.pool 4 = 1 ∧ (z (after (.setc 6 0x604) s)).cause = 1 := by decide

/-- A region that a home holds a line of waits before it is turned off, and drains. -/
theorem test_region_drain : let g : Region := { Region.reset with rbase := 0x100000, rsize := 0x10000, rrate := 1 }
    let s := { sup with pkg := { sup.pkg with regions := [(1, g)] },
                        mem := { sup.mem with coded := [(codedKey 1 0, ⟨0, false, false, 0⟩)] } }
    let t := after (.setcRrate 0 1) s
    regionLines s 1 ≠ [] ∧ rrateBad s 1 0 = false ∧ (z t).blocked = some (.regionDrain 1 0) ∧ regionWaiter t 1 = some (0, 0) ∧
    (z (after (.regionDrainDone 1) t)).pc = 4 ∧ regionOn (regionOf (after (.regionDrainDone 1) t) 1) = false ∧
    tblFind (after (.regionDrainDone 1) t).mem.coded (codedKey 1 0) = none := by decide

theorem test_setc_mxcfg : let s := setCore (rg up [(2, 0x2000000), (3, -1)]) 0 { Core.reset with mezz := { Mezz.reset with owner := some (0, 0) } }
    mxcfgOk 0x2000000 = true ∧ ownsMezz s 0 = true ∧ (z (after (.setcMxcfg 2) s)).pc = 4 ∧ mxcfgOk (-1) = false ∧
    (z (after (.setcMxcfg 3) s)).cause = 1 := by decide

theorem test_semaphores : let s := rg up [(1, 255), (2, 0xFFFFFFFF), (3, 256), (4, 5)]
    let t := after (.seminc 1 4 0 0) (after (.semset 1 2 0 0) s)
    semOf t 0 255 = 0xFFFFFFFF ∧ x (after (.semrd 6 1 0 0) t) 6 = 0xFFFFFFFF ∧ (z (after (.semwait 1 2) t)).pc = 12 ∧
    (z (after (.semwait 1 4) s)).slot = .park ∧ (z (after (.seminc 3 4 0 0) s)).cause = 1 ∧
    (coreOf s 8).enabled = true ∧ semOf (after (.seminc 1 4 8 1) s) 1 255 = 5 ∧ streamFenced s 0 0 = false := by decide

theorem test_barriers : let s := rg up [(1, 63), (2, 2), (3, 0x3F), (4, 0x1003F), (5, 0x4003F)]
    let t := after (.barinit 1 2 0 0) s
    barOf t 0 63 = ⟨2, 0, false, .normal⟩ ∧ (z (after (.bararr 6 3 0 0) s)).cause = 0xC ∧
    x (after (.bararr 6 3 0 0) t) 6 = 0x3F ∧ (barOf (after (.bararr 6 3 0 0) t) 0 63).cnt = 1 ∧
    barOf (after (.bararr 6 4 0 0) t) 0 63 = ⟨2, 0, true, .normal⟩ ∧
    (z (after (.bararr 6 5 0 0) t)).sflags = flagBAROVR ∧ x (after (.barwait 6 3) (after (.bararr 6 4 0 0) t)) 6 = 0 ∧
    (z (after (.barwait 6 3) t)).slot = .park ∧ (z (after (.barwait 6 3) s)).cause = 0xC ∧
    x (after (.barwait 6 3) (setCluster t 0 { (clusterOf t 0) with bars := [(63, ⟨2, 0, false, .faulted⟩)] })) 6 = 1 := by decide

/-! ## Witnesses: spawning and ending, with the records of the manual's fork and join -/

/-- Landing 3 of die 0 accepts records. -/
def lan (s : State) : State := setDie s 0 { (dieOf s 0) with descs := [(24, 0x8000000000000000), (25, 0x0001000000000000)] }

/-- The frame of the fork and join at 0x00A0_0000. -/
def fork : State :=
  let s := lan (rg up [(1, 0x00A00000), (2, 0x00A00020), (4, 0x00A00060)])
  let s := physWrite (physWrite (physWrite s 0x00A00020 8 0x0300000000600100) 0x00A00028 8 0x2210000000A00000) 0x00A00030 8 0xA00000
  physWrite (physWrite (physWrite s 0x00A00060 8 0x0300000000600300) 0x00A00068 8 0x2210000000A00000) 0x00A00078 8 0xA01000

theorem test_spawn : let t := after (.spawn 3 2) fork
    x t 3 = 0 ∧ targetRead t 0 (.phys 0xA00000 false) 8 = 1 ∧ (landingOf t 0 3).queue.map (recCode ·.record) = [0x600100] ∧
    unperformed fork 0 = false ∧ landingOn (dieOf fork 0) 3 = true ∧ landingFull fork 0 3 = false ∧
    (match readChunks fork 0 0 (recordChunks 0x00A00020) with | .ok vs _ => vs.length == 4 | _ => false) = true ∧
    endTarget fork (agentOf fork 0) (sidOf 0 0) true (addr48 0xA00000) = .ok (.phys 0xA00000 false) ∧
    (dieOf fork 0).status = .inService ∧ x (after (.spawn 3 4) (setDie fork 0 (Die.reset 0))) 3 = 2 := by decide

theorem test_spawnc : let t := after (.spawn 3 2) fork
    let w := after (.spawnc 5 4 1) t
    x w 5 = 0 ∧ (dieOf w 0).waitPool.map (recCode ·.entry.record) = [0x600300] ∧
    (landingOf (after (.spawnc 5 4 1) fork) 0 3).queue.map (recCode ·.record) = [0x600300] ∧
    (dieOf (after (.counterReread 0 0) (physWrite w 0xA00000 8 0)) 0).waitPool = [] ∧
    (landingOf (after (.counterReread 0 0) (physWrite w 0xA00000 8 0)) 0 3).queue.length = 2 := by decide

theorem test_jdec : let s := physWrite (rg up [(2, 0xA00000)]) 0xA00000 8 3
    let t := after (.jdec 1 2) s
    x t 1 = 3 ∧ targetRead t 0 (.phys 0xA00000 false) 8 = 2 ∧
    endTarget s (agentOf s 0) (sidOf 0 0) true 0xA00000 = .ok (.phys 0xA00000 false) ∧
    targetRead (after (.jdec 1 2) (rg up [(2, 0xA00000)])) 0 (.phys 0xA00000 false) 8 = 2 ^ 64 - 1 := by decide

theorem test_lread : let s := rg (after (.spawn 3 2) fork) [(6, 3), (7, 0x103), (8, 0x200), (9, 0x303)]
    x (after (.lread 1 6) s) 1 = 1 ∧ x (after (.lread 1 7) s) 1 = 0 ∧ x (after (.lread 1 8) s) 1 = 1 ∧
    x (after (.lread 1 9) s) 1 = 0 := by decide

theorem test_end : let s := st up fun t => { t with record := ⟨0, 0, 0, 0xA01000⟩, sflags := 0x1 }
    let t := after (.endDrain 0) (after .endStrand s)
    haltedEngine s 0 = none ∧ endPending s 0 = false ∧ badOps s 0 = false ∧ endCheck s (endingOf s 0) = none ∧
    (z (after .endStrand s)).slot = .drain ∧ (z t).slot = .free ∧
    targetRead t 0 (.phys 0xA01000 false) 8 = 0x8000000000000001 := by decide

theorem test_end_join : let s := st up fun t => { t with record := ⟨0, 0, 0xA00000, 0⟩ }
    let t := after (.endDrain 0) (after .endStrand (physWrite s 0xA00000 8 1))
    targetRead t 0 (.phys 0xA00000 false) 8 = 0 ∧
    (z (after .endStrand (st up fun t => { t with record := ⟨0, 0, 0x40000000, 0⟩ }))).cause = 5 := by decide

theorem test_end_waits : let c : CopyCmd := ⟨0, 0, 0, 0, false, 0, 3, atr 0, 5, 8, 0, .queued, 0, 0, 0, 0⟩
    let s := setCluster up 0 { (clusterOf up 0) with engines := [[c]] }
    let h := setCluster up 0 { (clusterOf up 0) with engines := [[{ c with state := .halted }]] }
    endPending s 0 = true ∧ (z (after .endStrand s)).blocked = some .endWait ∧ haltedEngine h 0 = some 0 ∧
    (z (after .endStrand h)).cause = 0xB := by decide

theorem test_core_disable : let t := after (.coreDisable 0) (st up fun t => { t with tag := 9 })
    (coreOf t 0).enabled = false ∧ (z t).slot = .free ∧ 9 ∈ t.pkg.foyer.losses := by decide

theorem test_row_retirement : let u := { up.pkg.usher with detections := [(0, 1, 2, 0), (0, 1, 2, 0), (0, 1, 2, 0)] }
    let s := { up with pkg := { up.pkg with usher := u } }
    rowFailing u 0 1 2 = true ∧ listGet [] (coreOf (after (.rowRetirement 0 1 2) s) 0).retired 1 = [2] ∧
    listGet none (coreOf s 0).bayOwner 1 = none ∧
    (let p := setCore s 0 { Core.reset with parity := [(1, 7, 3)] }
     (0, 1, 7, 0) ∈ (after (.usherScrub 0 1) p).pkg.usher.detections) := by decide

/-! ## Witnesses: vector instructions -/

/-- Strand 0 with bay 0, the VCFG, MFMT and VL, and vector registers named set. -/
def vec (vcfg mfmt : Word) (vl : Nat) (l : List (Nat × List Word)) : State :=
  st up fun t => { t with
    status := t.status &&& ~~~4#64,
    arc := { t.arc with bays := 1, vcfg := vcfg, mfmt := mfmt, vl := vl,
                        regs := l.foldl (fun rs p => listSet [] rs p.1 p.2) t.arc.regs } }

/-- A state of a strand with masks. -/
def masked (s : State) (l : List (Nat × List Bool)) : State :=
  st s fun t => { t with arc := { t.arc with masks := l.foldl (fun ms p => listSet [] ms p.1 p.2) t.arc.masks } }

/-- The elements below 4 of a register of strand 0. -/
def e4 (s : State) (r : Nat) : List Word := (List.range 4).map (elemW (z s).arc r)

/-- The lanes below 4 of a mask register of strand 0. -/
def m4 (s : State) (m : Nat) : List Bool := (List.range 4).map (maskBit (z s).arc m)

/-- Elements of TYPE I32. -/
def vi : State := vec 0x1021 0x160061 4 [(1, [9, 9, 9, 9, 9]), (2, [1, 2, 3, 0xFFFFFFFF]), (3, [10, 20, 0, 2])]

/-- Elements of TYPE FP32: 1, 2, -1, NaN. -/
def vf : State := vec 0x0E 0x160061 4 [(2, [0x3F800000, 0x40000000, 0xBF800000, 0x7FC00000]), (3, [0x3F800000, 0, 0, 0])]

/-- Whatever its registers, an instruction of no chain source is ready. -/
theorem ready (d a b : BitVec 5) :
    VecReady vi [d] [a, b] (touched vi [d] [a, b]) (envOf (arcOf (touched vi [d] [a, b])) none) ∧
    VecReady vi [d] [a] (touched vi [d] [a]) (envOf (arcOf (touched vi [d] [a])) none) ∧
    VecReady vi [] [a, b] (touched vi [] [a, b]) (envOf (arcOf (touched vi [] [a, b])) none) ∧
    VecReady vf [d] [a, b] (touched vf [d] [a, b]) (envOf (arcOf (touched vf [d] [a, b])) none) := by
  have h : ∀ ds vs, VecReady vi ds vs (touched vi ds vs) (envOf (arcOf (touched vi ds vs)) none) := fun ds vs =>
    vecReady_oneSlot vi ds vs (by decide) (by decide) (by decide) (by decide) (by decide) (by decide)
  exact ⟨h _ _, h _ _, h _ _, vecReady_oneSlot vf _ _ (by decide) (by decide) (by decide) (by decide) (by decide) (by decide)⟩

theorem test_vector_integer : let s := rg (masked vi [(1, [true, false, true])]) [(4, 33)]
    heldOn (z s) = false ∧ badGroups (arcOf s) [1, 2, 3] = false ∧ inCls (arcOf s) [.i] = true ∧
    e4 (after (.vadd 1 2 3 0 0) s) 1 = [11, 22, 3, 1] ∧ e4 (after (.vdiv 1 3 2 0 0) s) 1 = [10, 10, 0, 0xFFFFFFFE] ∧
    e4 (after (.vadd 1 2 3 1 0) s) 1 = [9, 22, 9, 1] ∧ listGet 0 (listGet [] (z (after (.vadd 1 2 3 0 0) s)).arc.regs 1) 4 = 9 ∧
    e4 (after (.vsllS 1 2 4 0 0) s) 1 = [0, 0, 0, 0] ∧ e4 (after (.vrsubS 1 2 4 0 0) s) 1 = [32, 31, 30, 34] ∧
    (z (after (.vfadd 1 2 3 0 0) s)).cause = 1 ∧ (z (after (.vadd 1 2 3 0 0) up)).cause = 0xA := by decide

theorem test_vector_saturation : let s := vec 0x1021 0x160061 2 [(2, [0x7FFFFFFF, 5]), (3, [1, 6])]
    (List.range 2).map (elemW (z (after (.vsadd 1 2 3 0 0) s)).arc 1) = [0x7FFFFFFF, 11] ∧
    (z (after (.vsadd 1 2 3 0 0) s)).sflags = flagQSAT ∧
    (List.range 2).map (elemW (z (after (.vnclip 1 2 3 0 0) s)).arc 1) = [0x7FFF, 0] ∧
    (List.range 2).map (elemW (z (after (.vwmul 1 2 3 0 0) s)).arc 1) = [0xFFFFFFFF, 30] := by decide

theorem test_vector_float : let s := rg vf [(4, 0x3FF0000000000000)]
    vcfgOk 0x0E = true ∧ e4 (after (.vfadd 1 2 3 0 0) s) 1 = [0x40000000, 0x40000000, 0xBF800000, 0x7FC00000] ∧
    e4 (after (.vfdiv 1 2 3 0 0) s) 1 = [0x3F800000, 0x7F800000, 0xFF800000, 0x7FC00000] ∧
    (z (after (.vfdiv 1 2 3 0 0) s)).sflags = flagDZ ∧ e4 (after (.vfmaxS 1 2 4 0 0) s) 1 = [0x3F800000, 0x40000000, 0x3F800000, 0x3F800000] ∧
    e4 (after (.vlog2 1 2 0 0) s) 1 = [0, 0x3F800000, 0x7FC00000, 0x7FC00000] ∧
    e4 (after (.vfcvt 1 2 0x1B 0 0) s) 1 = [1, 2, 0xFFFFFFFF, 0] := by decide

theorem test_vector_masks : let s := masked vi [(1, [true, false, true, false, true]), (2, [false, false, true, true])]
    m4 (after (.vcmplt 3 2 3 0 0) s) 3 = [true, true, false, true] ∧ m4 (after (.mand 3 1 2) s) 3 = [false, false, true, false] ∧
    m4 (after (.msbf 3 2 0 0) s) 3 = [true, true, false, false] ∧ m4 (after (.msif 3 2 0 0) s) 3 = [true, true, true, false] ∧
    (z (after (.mcount 5 1 0 0) s)).arc.results = [(5, 2)] ∧ (z (after (.mfirst 5 2 0 0) s)).arc.results = [(5, 2)] ∧
    (z (after (.mfirst 5 3 0 0) s)).arc.results = [(5, -1)] ∧ e4 (after (.viota 1 1 0 0) s) 1 = [0, 1, 1, 2] ∧
    maskBit (z (after (.mnot 1 1) s)).arc 1 4 = true ∧ (z (after (.vfcmpeq 3 2 3 0 0) s)).cause = 1 := by decide

theorem test_vector_searches : let s := rg (masked vi [(1, [true, false, true])]) [(4, 2), (5, 0xFF), (6, 7), (8, 1), (9, 3)]
    m4 (after (.vsrch 3 2 2 0 0) s) 3 = [false, true, false, false] ∧ m4 (after (.vsrchr 3 2 4 0 0) s) 3 = [true, true, true, false] ∧
    e4 (after (.vtwr 1 1 6) s) 1 = [7, 9, 7, 9] ∧ e4 (after (.vhamm 1 2 9 0 0) s) 1 = [1, 1, 0, 30] ∧
    m4 (after (.vtopkMax 3 3 4 0 0) s) 3 = [true, true, false, false] ∧
    m4 (after (.vtopkMin 3 3 4 0 0) s) 3 = [false, false, true, true] := by decide

theorem test_vector_reductions : let s := vi
    (z (after (.vredsum 5 2 0 0) s)).arc.results = [(5, 5)] ∧ (z (after (.vredmin 5 2 0 0) s)).arc.results = [(5, -1)] ∧
    (z (after (.vredmaxu 5 2 0 0) s)).arc.results = [(5, 0xFFFFFFFF)] ∧ (z (after (.vmaxi 3 3 0 0) s)).arc.results = [(6, 20), (7, 1)] := by decide

theorem test_vector_permutes : let s := rg (masked vi [(1, [true, false, true])]) [(4, 1), (5, 2), (6, 77)]
    e4 (after (.vgathr 1 2 2 0 0) s) 1 = [2, 3, 0xFFFFFFFF, 0] ∧ e4 (after (.vbperm 1 2 2 0 0) s) 1 = [2, 0xFFFFFFFF, 2, 0] ∧
    e4 (after (.vshup 1 2 4 0 0) s) 1 = [9, 1, 2, 3] ∧ e4 (after (.vshdn 1 2 4 0 0) s) 1 = [2, 3, 0xFFFFFFFF, 0] ∧
    e4 (after (.vbcst 1 2 4 0 0) s) 1 = [2, 2, 2, 2] ∧ e4 (after (.vmv 1 2 0 0) s) 1 = [1, 2, 3, 0xFFFFFFFF] ∧
    (z (after (.vext 7 2 5) s)).arc.results = [(7, 3)] ∧ e4 (after (.vins 1 6 5) s) 1 = [9, 9, 77, 9] ∧
    e4 (after (.vcomp 1 2 1) s) 1 = [1, 3, 9, 9] ∧ e4 (after (.vmerge 1 2 3 1) s) 1 = [10, 2, 0, 0xFFFFFFFF] ∧
    e4 (after (.vmvi 1 0x3FF 0 0) s) 1 = [0xFFFFFFFF, 0xFFFFFFFF, 0xFFFFFFFF, 0xFFFFFFFF] ∧ e4 (after (.vid 1 0 0) s) 1 = [0, 1, 2, 3] := by
  decide
/-! ## Witnesses: conversions and vector memory -/

/-- MXFP8 scaled E8M0 (QFMT 0x12) quantises by blocks of 32; LNS8 is converted by VCVTL; codebook 0 holds BF16 entries. -/
theorem test_vector_conversions : let s := vec 0x0E 0x120061 2 [(2, [0x40400000, 0xC0000000]), (3, [1, 0]), (31, [0x7F, 0x7F])]
    let c := st s fun t => { t with arc := { t.arc with codebooks := listSet 0 t.arc.codebooks 1 0x3F803F004000, mfmt := 0xF0061 } }
    let e2 := fun (u : State) (r : Nat) => (List.range 2).map (elemW (z u).arc r)
    fmtScale 0x12 = .e8m0 ∧ e2 (after (.vquant 1 2 0 0) s) 1 = [0x44, 0xC0] ∧
    e2 (after (.vdeq 4 1 0 0) (after (.vquant 1 2 0 0) s)) 4 = [0x40400000, 0xC0000000] ∧
    e2 (after (.vbscale 2 0 0) s) 31 = [120, 120] ∧ (z (after (.vbscale 2 0 0) s)).arc.mfmt = 0x1200E1 ∧
    e2 (after (.vsclset 3 0 0) s) 31 = [1, 1] ∧ e2 (after (.vcvtl 1 2 0 0) c) 1 = [0x19, 0x90] ∧
    (z (after (.vquant 1 2 0 0) c)).cause = 1 ∧ e2 (after (.vcbx 1 3 1 0 0) c) 1 = [0x3F000000, 0x40000000] := by decide

/-- What a read gives. -/
def okOf {α : Type} (r : Acc α) : Option α := match r with | .ok x _ => some x | _ => none

theorem okOf_eq {α : Type} {r : Acc α} {x : α} (h : okOf r = some x) : ∃ w, r = .ok x w := by
  cases r <;> simp_all [okOf]

/-- What a refused access says. -/
def faultOf {α : Type} (r : Acc α) : Option Nat := match r with | .fault c _ => some c | _ => none

theorem faultOf_eq {α : Type} {r : Acc α} {c : Nat} (h : faultOf r = some c) : ∃ w, r = .fault c w := by
  cases r <;> simp_all [faultOf]

/-- Vector registers and scalars for accesses to memory. -/
def vm : State := physWrite (rg vi [(4, 0x20000), (5, 8), (6, atr 0), (7, 0x20002), (8, 0x40000000)]) 0x20000 16 0x00000004000000030000000200000001

/-- The state after its registers have become recent. -/
abbrev tc (s : State) (ds vs : List (BitVec 5)) : State := touched s ds vs

theorem ready_vm (ds vs : List (BitVec 5)) : VecReady vm ds vs (tc vm ds vs) (envOf (arcOf (tc vm ds vs)) none) :=
  vecReady_oneSlot vm ds vs (by decide) (by decide) (by decide) (by decide) (by decide) (by decide)

theorem reads_vm : ∀ e ∈ actives (envOf (arcOf (tc vm [1] [])) none).a 0 0,
    ∃ w, readElemAt (tc vm [1] []) 0 1 32 (contiguous (arcOf (tc vm [1] [])) 0x20000 0 e) = .ok (e + 1) w := by
  intro e he
  have h : ∀ e ∈ actives (envOf (arcOf (tc vm [1] [])) none).a 0 0,
      okOf (readElemAt (tc vm [1] []) 0 1 32 (contiguous (arcOf (tc vm [1] [])) 0x20000 0 e)) = some (e + 1) := by decide
  exact okOf_eq (h e he)

theorem near_vm : ∀ e ∈ actives (envOf (arcOf (tc vm [1] [])) none).a 0 0, ∀ c ∈ elemChunks 32 (contiguous (arcOf vm) 0x20000 0 e),
    ∃ q, translate (tc vm [1] []) (agentOf (tc vm [1] []) 0) false c.1 = .ok q ∧ Near (tc vm [1] []) q := by
  intro e he c hc
  have h : ∀ e ∈ actives (envOf (arcOf (tc vm [1] [])) none).a 0 0, ∀ c ∈ elemChunks 32 (contiguous (arcOf vm) 0x20000 0 e),
    translate (tc vm [1] []) (agentOf (tc vm [1] []) 0) false c.1 = .ok (.phys c.1.toNat false) ∧
      pkgOf (tc vm [1] []) c.1.toNat = pkgNumber (tc vm [1] []) := by decide
  exact ⟨_, (h e he c hc).1, .inr ⟨_, _, rfl, (h e he c hc).2⟩⟩

theorem test_vector_loads : badMem (arcOf vm) 1 true = false ∧ mWidth (arcOf vm) = 32 ∧
    e4 (after (.vld 1 4 0 0 0 0) vm) 1 = [1, 2, 3, 4] ∧ e4 (after (.vlds 1 4 5 0 0 0 0) vm) 1 = [1, 3, 0, 0] ∧
    e4 (after (.vldx 1 4 2 0 0 0) (st vm fun t => { t with arc := { t.arc with vl := 3 } })) 1 = [2, 3, 4, 9] ∧
    e4 (after (.vldff 1 4 0 0 0 0) vm) 1 = [1, 2, 3, 4] ∧ (z (after (.vld 1 7 0 0 0 0) vm)).cause = 4 ∧
    (z (after (.vld 1 7 0 0 0 0) vm)).tval = 0x20002 ∧ (z (after (.vld 1 7 0 0 0 0) vm)).arc.lane = 0 ∧
    (z (after (.vld 1 8 0 0 0 0) vm)).cause = 5 := by decide

/-- A first fault after the first element ends VLDFF at it: the last four bytes of the page and the first beyond. -/
theorem test_vldff : let s := rg vm [(4, 0x3FFFFFF8)]
    let t := after (.vldff 1 4 0 0 0 0) s
    (z t).arc.vl = 2 ∧ (z t).cause = 0 ∧ e4 t 1 = [0, 0, 9, 9] ∧
    actives (arcOf s) 0 0 = [0, 1] ++ 2 :: [3] ∧
    faultOf (readElemAt (tc s [1] []) 0 1 32 (contiguous (arcOf s) 0x3FFFFFF8 0 2)) = some cPAGE_FAULT := by decide

theorem test_vector_stores : let s := masked vm [(1, [true, true, true])]
    let t := after (.vstxo 2 6 3 1 1 0) s
    targetRead (after (.vst 2 4 0 0 0 0) s) 0 (.phys 0x20000 false) 16 = 0xFFFFFFFF000000030000000200000001 ∧
    targetRead (after (.vsts 3 4 5 0 0 0 0) s) 0 (.phys 0x20008 false) 8 = 0x0000000400000014 ∧
    targetRead t 0 (.atrium 40) 4 = 1 ∧ targetRead t 0 (.atrium 80) 4 = 2 ∧ targetRead t 0 (.atrium 0) 4 = 3 ∧
    targetRead (after (.vstx 2 6 3 1 1 0) s) 0 (.atrium 80) 4 = 2 ∧ (z (after (.vst 2 7 0 0 0 0) s)).cause = 4 ∧
    (z (after (.vst 2 7 0 0 0 0) s)).arc.held.length = 1 ∧ targetRead (after (.vst 2 7 0 0 0 0) s) 0 (.phys 0x20000 false) 8 = 0x200000001 := by
  decide

/-- Elements stored to the Atrium map there whatever memory holds, and the stores are of the near kind. -/
theorem stores_vm : let u := tc vm [2] []
    let es := actives (envOf (arcOf u) none).a 0 0
    MemoriesWf u ∧ 8 ≤ mWidth (arcOf u) ∧
    (∀ e ∈ es, LaneStores u 1 4 (contiguous (arcOf u) (atr 0) 0 e).addr (.atrium (4 * e))) ∧
    Steady u es 4 (fun e => (contiguous (arcOf u) (atr 0) 0 e).addr) (fun e => .atrium (4 * e)) := by
  refine ⟨⟨by decide, by decide, by decide, by decide⟩, by decide, fun e he => ?_, fun t _ _ e he => ?_⟩
  · have h : ∀ e ∈ actives (envOf (arcOf (tc vm [2] [])) none).a 0 0,
        (contiguous (arcOf (tc vm [2] [])) (atr 0) 0 e).addr.toNat % 4 = 0 ∧
        streamHeld (tc vm [2] []) 0 1 [homeDie (tc vm [2] []) (.atrium (4 * e))] = false ∧
        unreachableTarget (tc vm [2] []) (sidOf 0 1) (.atrium (4 * e)) = false := by decide
    exact ⟨(h e he).1, .inl ⟨_, rfl⟩, (h e he).2.1, (h e he).2.2, by intro h; cases h⟩
  · have h : ∀ e ∈ actives (envOf (arcOf (tc vm [2] [])) none).a 0 0,
        inAtrium (contiguous (arcOf (tc vm [2] [])) (atr 0) 0 e).addr = true ∧
        (contiguous (arcOf (tc vm [2] [])) (atr 0) 0 e).addr.toNat - 0x7FFFFF800000 = 4 * e := by decide
    rw [Sys2Proof.Machine.translate, if_pos (h e he).1, (h e he).2]

theorem test_vector_fault_hypotheses : let u := tc vm [1] []
    heldOn (z vm) = false ∧ stNest (z u) = false ∧ actives (envOf (arcOf u) none).a 0 0 = 0 :: [1, 2, 3] ∧
    (badMem (arcOf vm) 1 true || badGroups (arcOf vm) []) = false ∧
    faultOf (readElemAt u 0 1 32 (contiguous (arcOf u) 0x20002 0 0)) = some cMISALIGN ∧
    faultOf (writeElemAt u 0 1 32 (contiguous (arcOf u) 0x20002 0 0) 9) = some cMISALIGN := by decide

/-- Elements of INT4 stored two to the byte. -/
theorem test_packed_store : let s := st vm fun t => { t with arc := { t.arc with mfmt := 0x160002 } }
    let w := memLoop (fun t e => writeElemAt t 0 1 4 (contiguous (arcOf s) 0x20000 0 e) (e + 1)) [0, 1, 2, 3] s
    mWidth (arcOf s) = 4 ∧ w.2.2 = .done ∧ targetRead w.1 0 (.phys 0x20000 false) 2 = 0x4321 ∧
    targetRead (after (.vst 2 4 0 0 0 0) s) 0 (.phys 0x20000 false) 2 = 0xF321 := by decide

/-- A header at 0x21000: TAIL 2, CAP 5, BASE in the Atrium. -/
def va : State := physWrite (rg vi [(4, 0x21000)]) 0x21000 24 (2 + 5 * 2 ^ 64 + 0x7FFFFF800000 * 2 ^ 128)

theorem test_append : let t := after (.vappend 2 4 9 0 0 0) va
    targetRead t 0 (.phys 0x21000 false) 8 = 6 ∧ (z t).arc.results = [(9, 2)] ∧ targetRead t 0 (.atrium 8) 4 = 1 ∧
    targetRead t 0 (.atrium 16) 4 = 3 ∧ targetRead t 0 (.atrium 20) 4 = 0 := by decide

theorem test_append_hypotheses : let u := tc va [2] []
    (∀ k < 3, translate u (agentOf u 0) (k == 0) (0x21000 + BitVec.ofNat 64 (8 * k)) = .ok (.phys (0x21000 + 8 * k) false) ∧
      pkgOf u (0x21000 + 8 * k) = pkgNumber u ∧ targetBad u 0 (.phys (0x21000 + 8 * k) false) 8 = false ∧
      unreachableTarget u (sidOf 0 1) (.phys (0x21000 + 8 * k) false) = false ∧
      streamHeld u 0 1 [homeDie u (.phys (0x21000 + 8 * k) false)] = false ∧
      targetRead u 0 (.phys (0x21000 + 8 * k) false) 8 = if k = 0 then 2 else if k = 1 then 5 else 0x7FFFFF800000) ∧
    (∀ e < 3, (atr (4 * (2 + e))).toNat % 4 = 0 ∧ inAtrium (atr (4 * (2 + e))) = true ∧
      streamHeld u 0 1 [homeDie u (.atrium (4 * (2 + e)))] = false ∧ unreachableTarget u (sidOf 0 1) (.atrium (4 * (2 + e))) = false) := by
  decide

/-- One active lane, whose word is the one at 0x20008. -/
def v1 : State := st vm fun t => { t with arc := { t.arc with vl := 1, regs := listSet [] t.arc.regs 3 [2] } }

theorem test_vector_atomics : let u := tc v1 [2] [3]
    let w := memLoop (fun t e => laneWord t 0 true 0x20008 4 fun tg => rmw t 0 1 0 tg 4 (elemN (arcOf u) 2 e) 0) [0] u
    actives (envOf (arcOf u) none).a 0 0 = [0] ∧ w.2 = ([(0, 3)], .done) ∧ unperformed u 0 = false ∧
    operand1 v1 4 + BitVec.ofNat 64 (4 * srcIndex (envOf (arcOf u) none) 3 0) = 0x20008 ∧
    translate u (agentOf u 0) true 0x20008 = .ok (.phys 0x20008 false) ∧ targetBad u 0 (.phys 0x20008 false) 4 = false ∧
    unreachableTarget u (sidOf 0 1) (.phys 0x20008 false) = false ∧ streamHeld u 0 1 [homeDie u (.phys 0x20008 false)] = false ∧
    (elemW (z (after (.vamo 2 4 3 0 0 0 0) v1)).arc 2 0) = 3 ∧
    targetRead (after (.vamo 2 4 3 0 0 0 0) v1) 0 (.phys 0x20008 false) 4 = 4 ∧
    (z (after (.vamo 2 4 3 0 0 0 10) v1)).cause = 1 ∧ (z (after (.vamoAr 3 4 3 0 0 0 9) v1)).cause = 1 := by decide

theorem test_vector_links : let t := after (.vldl 1 4 3 0 0 0) v1
    elemW (z t).arc 1 0 = 3 ∧ (linkHolds t 0 (some 0) (.phys 0x20008 false)).isSome = true ∧
    m4 (after (.vstc 2 4 3 0 0 0 1) t) 1 = [true, false, false, false] ∧
    targetRead (after (.vstc 2 4 3 0 0 0 1) t) 0 (.phys 0x20008 false) 4 = 1 ∧
    m4 (after (.vstc 2 4 3 0 0 0 1) v1) 1 = [false, false, false, false] ∧
    targetRead (after (.vstc 2 4 3 0 0 0 1) v1) 0 (.phys 0x20008 false) 4 = 3 := by decide

theorem test_vwaitm : let s := rg v1 [(10, 3), (11, 4)]
    (z (after (.vwaitm 10 4 3 0 0 0 0 0) s)).pc = 4 ∧ (z (after (.vwaitm 11 4 3 0 0 0 0 0) s)).slot = .park ∧
    (after (.vwaitm 11 4 3 0 0 0 0 0) s).mem.tags.length = 1 ∧ s.mem.tags = [] ∧ (z (after (.vwaitm 10 4 3 0 0 0 0 2) s)).pc = 4 := by
  decide

/-! ## Witnesses: configuration, chaining, bays -/

theorem test_vsetcfg : let s := rg vi [(2, 0x5021), (3, 0x3F), (4, 0x2021), (5, 9000)]
    vcfgOk 0x5021 = true ∧ twoSlot 0x21 32 = vTwo (arcOf s) ∧ stNoBays (z s) = false ∧
    x (after (.vsetcfg 1 2) s) 1 = 2 * BitVec.ofNat 64 (lanesOf (arcOf s)) ∧ (z (after (.vsetcfg 1 3) s)).cause = 1 ∧
    (z (after (.vsetcfg 1 2) up)).pc ≠ 4 ∧ (z (after (.vsetcfg 1 2) (rg up [(2, 0x1021)]))).cause = 0xA ∧
    lanesOf (arcOf s) = 4096 ∧ x (after (.vbegin 1 5) s) 1 = 4096 ∧ (z (after (.vbegin 1 5) s)).arc.vl = 4096 := by decide

theorem test_vnext : let s := rg (st vi fun t => { t with pc := 0x1000 }) [(5, 9000)]
    let t := after (.vbegin 1 5) s
    let u := after (.vnext 1 (-1)) t
    x u 1 = 4096 ∧ (z u).pc = 0x1000 ∧ (z u).arc.strip = 4904 ∧ (z u).arc.sidx = 4096 ∧
    x (after (.vnext 1 (-1)) u) 1 = 808 ∧ x (after (.vnext 1 (-1)) (after (.vnext 1 (-1)) u)) 1 = 0 ∧
    (z (after (.vnext 1 (-1)) (after (.vnext 1 (-1)) u))).pc = 0x1000 ∧
    (z (after (.vnext 1 1) (st t fun q => { q with pc := 0x7FFFFFFFFFFC }))).cause = 5 := by decide

theorem test_result_queue : let t := after (.resultQueueReturn 0) (after (.mcount 5 1 0 0) (masked vi [(1, [true, false, true])]))
    x t 5 = 2 ∧ (z t).arc.results = [] := by decide

/-- Strand 0, whose VIQ holds an instruction that waits on the array side. -/
def hd (i : Instr) (a : ArrayWait) (s : State) : State :=
  st s fun t => { t with pc := t.pc + 4, arc := { t.arc with viq := [⟨(encode i).getD 0, t.pc, 0, 0, false⟩], waits := some a } }

theorem test_chain : let s := after (.vsend 2 1) vi
    let t := after (.vchain 0 1) s
    let u := after (.portSpaceFree 0) (hd (.vsend 2 1) (.portSpace 2 1) vi)
    listGet [] (coreOf s 0).ports 1 = [[1, 2, 3, 0xFFFFFFFF]] ∧ (z t).arc.chainsrc = 0xA00 ∧
    e4 (after (.vadd 1 30 30 0 0) t) 1 = [2, 4, 6, 0xFFFFFFFE] ∧ listGet [] (coreOf (after (.vadd 1 30 30 0 0) t) 0).ports 1 = [] ∧
    (z (after (.vchain 128 1) s)).cause = 1 ∧ (z (after (.vchain 5 1) (setCore s 5 { Core.reset with enabled := false }))).cause = 0x13 ∧
    (coreOf s 0).enabled = true ∧ listGet [] (coreOf u 0).ports 1 = [[1, 2, 3, 0xFFFFFFFF]] ∧ (z u).arc.viq = [] ∧ (z u).pc = 4 ∧
    (z u).arc.waits = none := by decide

/-- A VSEND waits while its port has no room, and an instruction waits for its message. -/
theorem test_chain_waits : let full := setCore vi 0 { (coreOf vi 0) with ports := [[List.replicate 8190 0], []] }
    let t := after (.vadd 1 30 2 0 0) (after (.vchain 0 1) vi)
    (z (after (.vsend 2 0) full)).arc.waits = some (.portSpace 2 0) ∧ (z (after (.vsend 2 0) full)).pc = 4 ∧ (z t).arc.waits = some .chain ∧
    (z t).arc.viq.length = 1 ∧ (z t).blocked = none ∧ portQueue t 0 1 = [0] ∧ (z t).arc.chainIn = none ∧
    (z (after (.chainMessageArrival 0) (setCore t 0 { (coreOf t 0) with ports := [[], [[7]]] }))).arc.chainIn = some (0, 1, [7]) := by decide

theorem test_bays : let s := up
    let t := after (.vacq 2) s
    let w := setCore s 0 { (coreOf s 0) with bayOwner := [some 1, some 1, some 1, none] }
    grantable s 0 (z s).arc.snapEnabled (vaultOn (z s)) (z s).issuer = [0, 1, 2, 3] ∧ popN 4 (z s).arc.snapEnabled.toNat = 4 ∧
    (z t).arc.bays = 3 ∧ listGet none (coreOf t 0).bayOwner 1 = some 0 ∧ (z (after (.vacq 1) t)).cause = 1 ∧
    (z (after (.vacq 0) s)).cause = 1 ∧ (z (after .vrel t)).arc.bays = 0 ∧ stNoBays (z (after .vrel t)) = true ∧
    (z (after .vrel s)).pc = 4 ∧ (z (after (.vacq 2) w)).blocked = some (.vacq 2) ∧
    (coreOf (after (.vacq 2) w) 0).bayRequests = [(0, 2)] ∧
    servable (setCore (after (.vacq 2) w) 0 { (coreOf (after (.vacq 2) w) 0) with bayOwner := [none, none, some 1, none] }) 0 =
      some (0, [0, 1]) := by decide

/-! ## Witnesses: the Mezzanine, copy engines, the Undercroft -/

/-- Strand 0 may claim the Mezzanine, whose accumulators have 3, 4 and whose FIFOs have beats. -/
def mz : State := setCore (rg vi [(2, 0x2000000), (3, 0x100)]) 0
  { (coreOf vi 0) with mezz := { Mezz.reset with acc := [(7, [3, -4])], fa := List.replicate 2 0x0302, ft := List.replicate 256 0 } }

/-- It holds the claim. -/
def mo : State := setCore mz 0 { (coreOf mz 0) with mezz := { (coreOf mz 0).mezz with owner := some (0, 0), cfg := 0x800000000 } }

theorem claims_free : Claims mz (takeClaim mz 0) := .inr ⟨by decide, .inl (by decide), rfl⟩

theorem claims_held : Claims mo mo := .inl ⟨by decide, rfl⟩

theorem test_mezzanine : let t := after .mxwait mz
    (mezzOf t 0).owner = some (0, 0) ∧ (mezzOf t 0).cfg = 0x2000000 ∧ (mezzOf t 0).acc = [(7, [3, -4])] ∧ (z t).pc = 4 ∧
    (mezzOf (after (.mxtsel 1) mo) 0).act = true ∧ (mezzOf (after (.mxclr 7) mo) 0).acc = [] ∧
    (mezzOf (after (.mxfclr 0 1) mo) 0).fa = [] ∧ (mezzOf (after (.mxfclr 1 0) mo) 0).ft = [] ∧
    (mezzOf (after (.mxfclr 1 0) mo) 0).fa.length = 2 ∧ (mezzOf (after (.mxcfg 2) mo) 0).cfg = 0x2000000 ∧
    mxcfgOk 0x2000000 = true ∧ (z (after .mxwait up)).cause = 0xA ∧
    (z (after .mxwait (setCore mz 0 { (coreOf mz 0) with mezz := { Mezz.reset with owner := some (9, 1) } }))).blocked =
      some .mezzClaim := by decide

theorem test_mezzanine_fifos : streamFenced mo 0 4 = false ∧ mxBeats 0 128 = 2 ∧ (mezzOf mo 0).ft.length = 128 * mxBeats 0 128 ∧
    (mezzOf (after (.mxtld 0 1) mo) 0).ft = [] ∧ (z (after (.mxtld 0 1) (after (.mxfclr 1 0) mo))).arc.waits = some (.mxtld 0 1) ∧
    (z (after (.mxr 9 0) (after (.mxfclr 0 1) mo))).arc.waits = some (.mxr 9 0) ∧
    (mezzOf (after (.mxr 9 0) mo) 0).fa.length = 0 := by decide

/-- One column of the tile is 2, 1, 0 ...: 2 x 2 + 3 x 1 are added to 3; the next is 0, -1, 0 ...: 3 x (-1) is added to -4. -/
theorem test_mxr : let m := { (mezzOf mo 0) with t0 := { (mezzOf mo 0).t0 with
      cols := [[⟨false, false, 4096⟩, ⟨false, false, 0⟩], [⟨false, true, 0⟩, ⟨true, false, 0⟩]] } }
    tblGet [] (mezzOf (after (.mxr 7 1) (setCore mo 0 { (coreOf mo 0) with mezz := m })) 0).acc 7 =
      10 :: -7 :: List.replicate 126 0 := by decide +kernel

theorem test_mxdrn : let s := st mo fun t => { t with arc := { t.arc with vcfg := 0x1021 } }
    badDrain (arcOf s) (mxcfgSeen s 0) 1 = false ∧ typeScaled (arcOf s) = false ∧
    e4 (after (.mxdrn 1 7) s) 1 = [3, 0xFFFFFFFC, 0, 0] ∧ (mezzOf (after (.mxdrn 1 7) s) 0).cfg = 0x810000000 := by decide

theorem test_mxdrs : let s := mo
    mxSfmt (mxcfgSeen s 0) = 0 ∧ cellsRead (clusterOf (after (.mxdrs 3 7) s) 0).atrium 0x100 16 = 0xFFFFFFFFFFFFFFFC0000000000000003 ∧
    (z (after (.mxdrs 2 7) (rg s [(2, 0x101)]))).cause = 4 ∧ (z (after (.mxdrs 2 7) (rg s [(2, 0x800000)]))).cause = 6 ∧
    (z (after (.mxdrs 2 7) (rg s [(2, 0x7FFC00)]))).cause = 0 ∧ (arcOf s).viq = [] := by decide

/-- A waiting strand takes the claim, and one that waits for beats tries again. -/
theorem test_mezz_waits : let s := setCore (st mz fun t => { t with blocked := some .mezzClaim }) 0 { (coreOf mz 0) with mezz := { (coreOf mz 0).mezz with waiters := [0] } }
    (coreOf (after (.mezzanineClaim 0) s) 0).mezz.owner = some (0, 0) ∧ (z (after (.mezzanineClaim 0) s)).blocked = none ∧
    runs (.mxtld 0 1) (headState (hd (.mxtld 0 1) (.mxtld 0 1) mo) 0) = true ∧
    (mezzOf (after (.mxFifoWaitEnd 0) (hd (.mxtld 0 1) (.mxtld 0 1) mo)) 0).ft = [] ∧
    (z (after (.mxFifoWaitEnd 0) (hd (.mxtld 0 1) (.mxtld 0 1) mo))).arc.viq = [] := by decide

/-- Copies from and to the Atrium: sB at 64, sA at 0, LEN 16. -/
def cp : State := rg up [(1, atr 0), (2, atr 64), (3, 16), (4, atr 1), (6, 16), (7, 2 + 2 ^ 20 + 2 ^ 44), (8, 0x1000010), (9, 8), (10, 16), (11, 16), (12, 3 * 2 ^ 48)]

theorem test_copy_issue : let t := after (.cpy 1 2 3 1) cp
    let q : CopyCmd := ⟨0, 0, 0, 0, false, 0, 0, atr 0, atr 64, 16, 0, .queued, 0, 0, 0, 0⟩
    engineQueue t 0 1 = [q] ∧ (clusterOf t 0).accepted = 1 ∧ copyIllegal 0 (atr 0) 16 0 = false ∧
    (copyAligned 0 (atr 0) (atr 64) 16 0).all (fun x => x.1.toNat % x.2 == 0) = true ∧
    copyBadRange 0 (atr 0) (atr 64) 16 0 = none ∧ (z (after (.cpy 4 2 3 1) cp)).cause = 4 ∧ (z (after (.cpy 4 2 3 1) cp)).tval = atr 1 ∧
    (z (after (.cpy 1 2 8 1) cp)).cause = 6 ∧ (z (after (.cpy 1 2 12 1) cp)).cause = 1 ∧
    (z (after (.cpyf 1 9 6 0) cp)).pc = 4 ∧ (z (after (.cpy2d 1 2 3 0) cp)).pc = 4 ∧ (z (after (.cpyg 1 2 5 0) cp)).cause = 6 ∧
    (z (after (.cpy 1 2 3 1) (setEngine cp 0 1 (List.replicate 16 q)))).blocked = some (.copy 0 1 2 3 1) ∧
    (z (after (.cpy 1 2 3 1) (setEngine cp 0 1 (List.replicate 16 { q with state := .halted })))).cause = 0xB := by decide

theorem test_copy_target : let s := rg up [(1, 0), (2, atr 0), (3, 64 + 2 ^ 48 + 3 * 2 ^ 50), (5, 64 + 2 ^ 47 + 3 * 2 ^ 41)]
    (z (after (.cpy 1 2 3 0) (setCore s 3 { Core.reset with enabled := false }))).cause = 0x13 ∧
    (z (after (.cpy 2 2 5 0) s)).cause = 0xC ∧ (z (after (.cpy 2 2 5 0) s)).tval = 3 ∧
    (z (after (.copyQueueEntry 0) (st cp fun t => { t with blocked := some (.copy 0 1 2 3 1) }))).pc = 4 := by decide

/-- Commands at the heads of their engines: a copy of 16 bytes, a fill, and a beat for FA. -/
def ce : State := setCluster up 0 { (clusterOf up 0) with
  accepted := 3, atrium := cellsWrite [] 64 16 0x22222222222222221111111111111111,
  engines := [[⟨0, 0, 0, 0, false, 0, 0, atr 0, atr 64, 16 + 2 ^ 40, 0, .active, 0, 0, 0, 0⟩],
    [⟨1, 0, 1, 0, false, 0, 3, atr 256, 5, 16, 0, .queued, 0, 0, 0, 1⟩],
    [⟨2, 0, 2, 0, false, 0, 0, 0, atr 64, 64 + 2 ^ 48, 0, .active, 0, 0, 0, 2⟩],
    [⟨3, 0, 3, 0, false, 0, 0, atr 0, 0x40000000, 16 + 2 ^ 47, 0, .active, 0, 0, 0, 3⟩]] }

theorem test_copy_execution : let t := after (.copyComplete 0 0) ce
    (z (after (.copyStart 0 1) ce)).pc = 0 ∧ (engineQueue (after (.copyStart 0 1) ce) 0 1).map (·.state) = [.active] ∧
    engineQueue t 0 0 = [] ∧ cellsRead (clusterOf t 0).atrium 8 8 = 0x2222222222222222 ∧ semOf t 0 0 = 1 ∧
    cellsRead (clusterOf (after (.copyComplete 0 1) (after (.copyStart 0 1) ce)) 0).atrium 264 8 = 5 ∧
    (coreOf (after (.fifoDelivery 0 2) ce) 0).mezz.fa = [0x22222222222222221111111111111111] ∧
    (engineQueue (after (.fifoDelivery 0 2) ce) 0 2).map (·.offset) = [64] := by decide

theorem test_copy_halt : let t := after (.copyHalt 0 3) (setCluster ce 0 { (clusterOf ce 0) with bars := [(0, ⟨1, 0, false, .normal⟩)] })
    let s := rg { t with strands := t.strands } [(5, 2), (6, 3), (7, 1), (9, 0)]
    let u := st s fun t => { t with status := t.status ||| 1 }
    (engineQueue t 0 3).map (fun c => (c.state, c.cause, c.faultAddr)) = [(.halted, 5, 0x40000000)] ∧
    (barOf t 0 0).state = .faulted ∧ (z (after (.cpyres 4 5 3) s)).cause = 0xE ∧ (z (after (.cpyres 4 6 3) u)).cause = 1 ∧
    engineQueue (after (.cpyres 4 5 3) u) 0 3 = [] ∧ x (after (.cpyres 4 5 3) u) 8 = 0x8500000040000000 ∧
    (engineQueue (after (.cpyres 4 7 3) u) 0 3).map (·.state) = [.active] ∧ x (after (.cpyres 4 9 0) u) 8 = 0 := by decide

/-- Units at 0x100000 and at 0x200000, in a page with NEAR = 1. -/
def ub : State := physWrite { (rg up [(2, 0x100000), (3, 1), (4, 0x200000), (5, 0x200400), (6, 0x200400), (8, 0x200000),
  (9, 0x200400), (10, 0x200800), (12, 0x100001), (13, 1), (14, 0x40000000), (15, 1)]) with
    mem := { up.mem with dram := cellsWrite up.mem.dram 0x200000 8 0xFF00 } } (placeTable + 0x1000) 8 0x90000000000000D0

theorem test_ubulk : let t := after (.ubulkAnd 1 2) ub
    (dieOf t 0).undercroft = [⟨0, 0, 2, [(0x100000, [0x200000, 0x200400])], false⟩] ∧ (z t).pc = 4 ∧
    (z (after (.ubulkZero 0 0) ub)).cause = 1 ∧ (z (after (.ubulkZero 1 1) ub)).cause = 0xE ∧
    (z (after (.ubulkZero 6 0) ub)).cause = 4 ∧ (z (after (.ubulkZero 7 0) ub)).cause = 5 ∧
    (z (after (.ubulkMaj3 1 2) ub)).pc = 4 ∧ (z (after (.ubulkCopy 1 4) ub)).pc = 4 ∧ streamFenced ub 0 0 = false ∧
    (z (after (.ubulkOr 1 2) (setDie ub 0 { (dieOf ub 0) with undercroft := List.replicate 64 ⟨1, 0, 0, [], false⟩ }))).blocked =
      some (.ubulk 3 0 2 4) ∧
    (z (after (.undercroftQueueEntry 0) (st ub fun t => { t with blocked := some (.ubulk 3 0 2 4) }))).pc = 4 := by decide

theorem test_undercroft : let s := setDie ub 0 { (dieOf ub 0) with undercroft := [⟨9, 0, 0, [(0, [])], true⟩, ⟨0, 0, 5, [(0x100000, [0x200000])], false⟩] }
    let c : UCmd := ⟨0, 0, 5, [(0x100000, [0x200000])], false⟩
    let t := after (.undercroftComplete 0 1) (after (.undercroftStart 0 1) s)
    ([⟨9, 0, 0, [(0, [])], true⟩] : List UCmd).any (bulkClash c) = false ∧ (dieOf t 0).undercroft.length = 1 ∧
    physRead t 0x100000 8 = 0xFFFFFFFFFFFF00FF ∧ bulksOf s 0 ≠ [] ∧ (z (after (.uwait 7) s)).slot = .park ∧
    x (after (.uwait 7) { ub with pkg := { ub.pkg with poisoned := [0] } }) 7 = 1 := by decide

/-! ## Witnesses: transfers and collectives -/

/-- A second GiB of PEER pages that maps this package; 8 bytes to move at 0x20000. -/
def xf : State := physWrite (physWrite (rg up [(2, 0x40030000), (3, 8), (4, 0x20000), (5, 0x40030001), (6, 0x40030000), (7, 2 ^ 32), (8, 64),
  (10, 0x40030000), (11, 0)]) 0x20000 8 0x1122334455667788) (placeTable + 0x1008) 8 0xB000000000000050

theorem test_transfer : let t := after (.fput 1 4) xf
    let u := after (.transferEnd 0) t
    engineFull xf = false ∧ (z t).pc = 4 ∧ t.pkg.engine.ops.length = 1 ∧ (t.pkg.engine.ops.map (·.ended)) = [none] ∧
    (u.pkg.engine.ops.map (·.ended)) = [some 0] ∧ targetRead u 0 (.phys 0x30000 false) 8 = 0x1122334455667788 ∧
    (z (after (.fput 0 4) xf)).cause = 1 ∧ (z (after (.fget 3 4) xf)).cause = 1 ∧ (z (after (.fput 1 5) xf)).cause = 4 ∧
    ((after (.fput 5 4) xf).pkg.engine.ops.map (·.ended)) = [some 0] ∧
    (z (after (.fget 1 4) { xf with pkg := { xf.pkg with engine := { xf.pkg.engine with
      ops := List.replicate 256 ⟨5, 9, 0, false, 0, none, 0, false, 0, 0, 8, none, 0, false⟩ } } })).blocked = some (.transfer true 2 4) := by decide

theorem test_transfer_hypotheses : let o : EngineOp := ⟨0, 0, 0, false, 0, none, 0, false, 0x40030000, 0x20000, 8, none, 0, false⟩
    let s := { xf with pkg := { xf.pkg with engine := { xf.pkg.engine with ops := [o] } } }
    issuerBusy s o = false ∧ engineTarget s (opAgent o) .near false o.src = .ok (.phys 0x20000 false) ∧
    engineTarget s (opAgent o) .peer true o.dst = .ok (.phys 0x30000 false) ∧
    targetBad s (opAgent o).cluster (.phys 0x20000 false) 8 = false ∧ unreachableTarget s (hubSid 1) (.phys 0x20000 false) = false ∧
    nonfiniteWrite s (.phys 0x30000 false) 8 (targetRead s (opAgent o).cluster (.phys 0x20000 false) 8) = false ∧
    (moveXfer (opAgent o) o.get o.dst o.src (o.len / 8) 0 s).1.pkg.engine = s.pkg.engine := by decide

theorem test_collw : let o : EngineOp := ⟨0, 0, 0, false, 0, some ⟨0, false, 1, 2, 1, 0, 0, 4, 0, 0, 0, 0⟩, 64, false, 0, 0, 0, none, 0, false⟩
    let s := fun (l : List EngineOp) => { xf with pkg := { xf.pkg with engine := { xf.pkg.engine with ops := l } } }
    x (after (.collw 1 8) xf) 1 = 5 ∧ (z (after (.collw 1 5) xf)).cause = 1 ∧ (z (after (.collw 1 8) (s [o]))).slot = .park ∧
    lastColl (s [o]) 0 64 = some o ∧ openOps (s [o]) 0 ≠ [] ∧ (z (after (.collw 1 0) (s [o]))).slot = .park ∧
    x (after (.collw 1 8) (s [{ o with ended := some 3, flags := 1 }])) 1 = 3 ∧
    (after (.collw 1 0) (s [{ o with ended := some 3, flags := 1 }, { o with issuer := 4 }])).pkg.engine.ops.length = 1 ∧
    (z (after (.collw 1 0) (s [{ o with ended := some 3, flags := 1 }]))).sflags = 1 := by decide

/-- A descriptor at 0x20000: GID 1, CSEQ 2, N 1, RANK 0, four elements I32 from 0x20100 to 0x20200. -/
def cl : State := physWrite (physWrite (rg up [(2, 0x20000), (3, 0x20020), (4, 0x40000000), (5, 0x21000)]) 0x20000 40
  (0x0001000200010000 + 4 * 2 ^ 64 + 0x20100 * 2 ^ 128 + 0x20200 * 2 ^ 192 + 0x20300 * 2 ^ 256)) 0x20100 16 0x00000004000000030000000200000001

theorem test_collective : let t := after (.collAllreduce 2 0) cl
    let u := after (.collectiveEnd 1 2) t
    engineTarget cl (agentOf cl 0) .plain false 0x20000 = .ok (.phys 0x20000 false) ∧ (z t).pc = 4 ∧
    t.pkg.engine.ops.map (·.descAddr) = [0x20000] ∧ (collOps t 1 2).length = 1 ∧ (collOps t 1 2).any (issuerBusy t) = false ∧
    (match readSources (collOps t 1 2) t with | (_, .ok ls) => ls == [(0, [1, 2, 3, 4])] | _ => false) = true ∧
    (readSources (collOps t 1 2) t).1.pkg.engine = t.pkg.engine ∧
    u.pkg.engine.ops.map (·.ended) = [some 0] ∧ targetRead u 0 (.phys 0x20200 false) 16 = 0x00000004000000030000000200000001 ∧
    (z (after (.collBcast 3 0) cl)).cause = 4 ∧ (z (after (.collAllgath 4 0) cl)).cause = 5 ∧ (z (after (.collRedscat 5 0) cl)).cause = 1 ∧
    (z (after (.collAllreduce 2 0) t)).cause = 1 ∧
    (z (after (.engineEntry 0) (st cl fun t => { t with blocked := some (.coll 0 0 2) }))).pc = 4 := by decide

theorem test_reduction : let d : CollDesc := ⟨0, false, 1, 2, 2, 0, 0, 3, 0, 0, 0, 0⟩
    reduceAll d 0 [[1, 0x7FFFFFFF, 5], [2, 1, 0xFFFFFFFF]] = ([3, 0x7FFFFFFF, 4], flagACCSAT) ∧
    reduceAll { d with kind := 3, root := 1 } 0 [[1, 2, 3], [7, 8, 9]] = ([7, 8, 9], 0) ∧
    reduceAll { d with kind := 2 } 0 [[1, 2, 3], [7, 8, 9]] = ([1, 2, 3, 7, 8, 9], 0) ∧
    dstElems { d with kind := 1, rank := 1, count := 1 } [5, 6] = [6] := by decide

theorem test_contribution : let c : Contribution := ⟨⟨0, false, 1, 2, 2, 1, 0, 4, 0, 0, 0, 0⟩, [0, 1], [1, 2, 3, 4], 4⟩
    let s := { up with net := { up.net with minimal := [(1, 1)] }, pkg := { up.pkg with engine := { up.pkg.engine with arriving := [c] } } }
    let o := { s with pkg := { s.pkg with engine := { s.pkg.engine with outcomes := [⟨1, 2, 3, []⟩] } } }
    outcomeOf s 1 2 = none ∧ collOps s 1 2 = [] ∧ partMisplaced (remotePart c) = false ∧ collRemote s 1 2 = [] ∧
    partsDiffer (remotePart c) (remotePart c) = false ∧ partsLost s [remotePart c] = false ∧
    (after (.contributionArrival 0) s).pkg.engine.remote = [c] ∧ outcomeOf o 1 2 = some 3 ∧
    (after (.contributionArrival 0) o).pkg.engine.sent = [(4, 1, 2, 1, 3)] := by decide

/-! ## Witnesses: landings and pre-emption -/

/-- A record for landing 0 of die 0 on any core, with two bays, stage 5, code 0x600100, frame 0xA00000, no words. -/
def ra : Record := ⟨0x4005000000600100, 0x2210000000A00000, 0, 0⟩

/-- A queue entry of a record. -/
def ent (r : Record) (n : Nat) : Entry := ⟨r, 7, false, n, none, [], []⟩

/-- Landing 0 with a descriptor, VCOUNT 2 and VPOOL 0x2000000; its queue, saved records and spill ring. -/
def land (s : State) (l : Landing) : State :=
  setDie s 0 { (dieOf s 0) with descs := [(0, 0x8000000000008000), (1, 0x0001000002000002), (2, 0x3000000), (3, 4)], landings := [(0, l)] }

theorem test_record_pop : let s := land up { Landing.reset with queue := [ent ra 70] }
    let t := after (.recordPop 0) s
    let q := strandOf t 1
    (pick s 0).map (fun p => (p.landing, p.id, p.resume)) = some (0, 1, false) ∧ (pick (reportUnfit s 0) 0).isSome = true ∧
    recBad ra = false ∧ q.slot = .run ∧ q.pc = 0x600100 ∧ getReg q 1 = 0xA00000 ∧ q.arc.bays = 3 ∧ q.vault = 0x2000001 ∧
    q.tvec = 0x8000 ∧ q.issuer = 70 ∧ q.tag = 7 ∧ fld q.status 8 8 = 5 ∧ (landingOf t 0 0).queue = [] ∧ (landingOf t 0 0).areas = [0] ∧
    (dieOf s 0).status = .inService ∧ landingVcount (dieOf s 0) 0 = 2 ∧ pick up 0 = none ∧
    vTwo q.arc = false ∧ (after (.recordPop 0) t).strands = t.strands := by decide

/-- A malformed record (BAYS 5) completes as faulted; its completion word is at 0xA01000. -/
theorem test_record_malformed : let r : Record := { ra with dw0 := 0xA005000000600100, dw3 := 0xA01000 }
    let s := land up { Landing.reset with queue := [ent r 70] }
    let t := after (.recordPop 0) s
    recBad r = true ∧ (pick s 0).map (·.id) = some 1 ∧ t.strands.map (·.1) = s.strands.map (·.1) ∧
    endTarget s ⟨0, false, 0, 7, none⟩ (sidOf 1 0) false (addr48 0xA01000) = .ok (.phys 0xA01000 false) ∧
    targetRead t 0 (.phys 0xA01000 false) 8 = 0xC100000000000000 ∧ (landingOf t 0 0).queue = [] := by decide

/-- A resume record of core 0 without bays, whose Vault is at 0x1000000. -/
def rr : Record := ⟨0x1000000, 0x8000000000000000, 0, 0xA01000⟩

/-- Its save slot holds nothing. -/
def rs0 : State := land up { Landing.reset with saved := [ent rr 70] }

/-- Its save slot holds the format word. -/
def rs : State := physWrite rs0 0x1400000 8 0x09600001

/-- The slot as it reads the save slot. -/
def readied (w : State) : State := setStrand w 1 { Strand.reset 1 with tag := 7, status := startStatus 1 rr, vault := 0x1000001 }

theorem listGet_range {α : Type} (d : α) (f : Nat → α) (n : Nat) : listGet d ((List.range (n + 1)).map f) 0 = f 0 := by
  simp [listGet, List.range_succ_eq_map]

theorem lowMap_resume (w : State) (h : w = rs ∨ w = rs0) : LowMap (readied w) (stLanding (strandOf (readied w) 1)) := by
  rcases h with rfl | rfl <;> exact ⟨by decide, by decide, by decide, by decide, by decide, by decide, by decide, by decide, by decide, by decide⟩

theorem test_resume_hypotheses : (pick rs 0).map (fun p => (p.landing, p.id, p.resume, p.entry)) = some (0, 1, true, ent rr 70) ∧
    fld rr.dw0 16 32 * 2 ^ 16 = 0x1000000 ∧ recBad rr = true ∧
    (let u := setStrand rs 1 { Strand.reset 1 with issuer := 70, tag := 7 }
     endPending u 1 = false ∧ opsOf u 70 = []) ∧
    endTarget rs ⟨0, false, 0, 7, some 0⟩ (sidOf 1 0) false (addr48 0xA01000) = .ok (.phys 0xA01000 false) := by decide

/-- The image can be read, with the format of this hardware and with another. -/
theorem test_resume_image :
    (∃ m, vaultRead (readied rs) 1 (0x240000 / 8) 0x1400000 = .ok m ∧ listGet 0 m 0 = 0x09600001) ∧
    ∃ m, vaultRead (readied rs0) 1 (0x240000 / 8) 0x1400000 = .ok m ∧ listGet 0 m 0 ≠ 0x09600001 :=
  ⟨⟨_, (lowMap_resume _ (.inl rfl)).vaultRead (0x240000 / 8) 0x1400000 (by decide), by rw [listGet_range _ _ 294911]; decide⟩,
   ⟨_, (lowMap_resume _ (.inr rfl)).vaultRead (0x240000 / 8) 0x1400000 (by decide), by rw [listGet_range _ _ 294911]; decide⟩⟩

theorem test_spill : let s := physWrite (land up { Landing.reset with spill := [(1, ent ra 70)] }) 0x3000040 8 ra.dw0.toNat
    let t := after (.spillRefill 0 0) s
    landingSpbase (dieOf s 0) 0 = 0x3000000 ∧ (landingOf t 0 0).spill = [] ∧ (landingOf t 0 0).queue.map (·.record.dw0) = [ra.dw0] ∧
    (after (.spillRefill 0 0) (hurt s [0xC0001])).pkg.foyer.losses = [7] := by decide

theorem test_counters : let w := fun (k a : Nat) => ({ entry := ent ra 70, counter := ⟨k, a, false⟩, eligible := false } : WaitEntry)
    let s := fun (k a : Nat) (l : Landing) => setPool (land up l) 0 [w k a]
    let full := { Landing.reset with queue := List.replicate 64 (ent ra 1), spill := List.replicate 4 (0, ent ra 1) }
    let bad := s 0 0xA00000 Landing.reset
    poolWatched (s 0 0xA00000 Landing.reset) (w 0 0xA00000) = false ∧
    (landingOf (after (.counterReread 0 0) (s 0 0xA00000 Landing.reset)) 0 0).queue.length = 1 ∧
    poolWatched (after (.counterReread 0 0) (physWrite (s 0 0xA00000 Landing.reset) 0xA00000 8 1)) (w 0 0xA00000) = true ∧
    (dieOf (after (.counterReread 0 0) (s 0 0xA00000 full)) 0).waitPool.map (·.eligible) = [true] ∧
    (after (.counterReread 0 0) (hurt bad [0x28000])).pkg.foyer.losses = [7] ∧
    (landingOf (after (.hostPoll 0) (s 2 0x5000 Landing.reset)) 0 0).queue.length = 1 ∧
    (dieOf (after (.hostPoll 0) (hostWrite (s 2 0x5000 Landing.reset) 0x5000 8 1)) 0).waitPool.length = 1 ∧
    landingFull (s 2 0x5000 Landing.reset) 0 0 = false := by decide

/-- The four slots of core 0 run strands of landings 0, 1, 1 and 0 with Vaults; a record of landing 3 must run there. -/
def pe : State :=
  let put := fun (s : State) (k l n : Nat) => modStrand s k fun t =>
    { t with slot := .run, status := setFld t.status 16 5 l, vault := 0x1000001, started := n, issuer := n }
  let s := put (put (put (put up 0 0 5) 1 1 6) 2 1 4) 3 0 3
  setDie s 0 { (dieOf s 0) with
    descs := [(0, 0x8010000000000000), (1, 0x0001000000000000), (8, 0x8010000000000000), (9, 0x0001000000000000),
      (24, 0x9010000000000000), (25, 0x0001000000000000)],
    landings := [(3, { Landing.reset with queue := [ent ⟨0x0300000000600100, 0xA00000, 0, 0⟩ 70] }),
      (1, { Landing.reset with queue := [ent ⟨0x0100000000600100, 0xA00000, 0, 0⟩ 71] })] }

theorem test_preemption : let t := after (.priorityPreemption 0 3) pe
    let u := after (.sharePreemption 0 1) pe
    (waitingRecords pe 0 3).map (cannotPop pe 0 3) = [true] ∧ landingPops (dieOf pe 0) 3 = true ∧ landingPrio (dieOf pe 0) 3 = 1 ∧
    pe.strands.any (fun q => q.2.due && q.2.dueFor == some 70) = false ∧ (strandOf t 3).due = true ∧ (strandOf t 3).dueFor = some 70 ∧
    (strandOf t 0).due = false ∧ landingSlice (dieOf pe 0) 1 ≠ 0 ∧ (strandOf u 3).due = true ∧
    (strandOf (after (.preemptForceLimit 3) t) 3).dueForced = true ∧ (waitingRecords up 0 3) = [] := by decide

theorem test_preemption_taken : let s := st sup fun t => { t with due := true, tvec := 0x8000}
    let p := st s fun t => { t with status := t.status ||| 0x20 }
    atSavePoint (z s) = true ∧ linksDefer s 0 = false ∧ (z (after (.preemptionTaken 0) s)).slot = .save ∧
    stPtrap (z p) = true ∧ (z (after (.preemptionTaken 0) p)).cause = 0x11 ∧ (z (after (.preemptionTaken 0) p)).pc = 0x8000 ∧
    (z (after (.preemptionTaken 0) (st s fun t => { t with due := false }))).slot = .run ∧
    (let l := { s with mem := { s.mem with tags := [⟨.phys 0, some 0, none, false, 0, false, false⟩] } }
     linksDefer l 0 = true ∧ (z (after (.linkDeferLimit 0) l)).linkDeferOver = false ∧
     (z (after (.linkDeferLimit 0) (st l fun t => { t with linkCount := 256 }))).linkDeferOver = true) := by decide

/-- A strand of landing 0 whose save has begun. -/
def sv (v : Word) : State := st (land up Landing.reset) fun t => { t with slot := .save, vault := v, issuer := 5 }

theorem saveImage_fits (s : State) (id : Nat) : (saveImage s id).length ≤ 0x1000000 := by
  simp only [saveImage, saveHeader, halves, bytesToWords, List.length_append, List.length_map, List.length_range, List.length_flatten,
    List.length_replicate, List.length_cons, List.length_nil, List.map_map, Function.comp_def]
  have h : ∀ f : Nat → Nat, (∀ i, f i = 4) → ((List.range 32).map f).sum = 128 := fun f hf => by
    rw [List.map_congr_left (fun i _ => hf i)]; rfl
  rw [h _ (fun i => by split <;> rfl)]
  decide

theorem test_save : savePending (sv 0) 0 = false ∧ vaultOn (z (sv 0)) = false ∧ vaultOn (z (sv 0x1000001)) = true ∧
    (z (after (.contextSaveComplete 0) (sv 0))).cause = 0x14 ∧ (z (after (.contextSaveComplete 0) (sv 0))).slot = .run ∧
    (z (sv 0)).arc.viq = [] ∧ (z (sv 0)).arc.results = [] := by decide

theorem test_save_written : ∃ u, vaultWrite 0 (saveImage (sv 0x1000001) 0) (saveBase (z (sv 0x1000001))) (sv 0x1000001) = .ok u := by
  have h : LowMap (sv 0x1000001) (stLanding (strandOf (sv 0x1000001) 0)) :=
    ⟨by decide, by decide, by decide, by decide, by decide, by decide, by decide, by decide, by decide, by decide⟩
  refine h.vaultWrite _ _ ?_
  have := saveImage_fits (sv 0x1000001) 0
  have : saveBase (z (sv 0x1000001)) = 0x1400000 := by decide
  omega

/-- A Vault that no page maps: the first doubleword cannot be written. -/
theorem test_save_refused : ∃ u, vaultWrite 0 (saveImage (sv 0x40000001) 0) (saveBase (z (sv 0x40000001))) (sv 0x40000001) =
    .error (0x40400000, u) := by
  have h : vaultTarget (sv 0x40000001) 0 true 0x40400000 = .error (xfault cPAGE_FAULT) := by decide
  have e : saveBase (z (sv 0x40000001)) = 0x40400000 := by decide
  rw [e]
  exact ⟨noteFault (sv 0x40000001) (xfault cPAGE_FAULT), by rw [show saveImage (sv 0x40000001) 0 = 0x09600001 :: (saveImage (sv 0x40000001) 0).tail from rfl, vaultWrite, h]⟩

/-! ## Witnesses: cores, waits and caches -/

/-- Slots 0 and 1 of core 0 stand at a VADD with bays; their landings 0 and 1 have weights 1 and 2. -/
def sq : State :=
  let w := ((encode (.vadd 1 2 3 0 0)).getD 0).toNat
  let s := modStrand (placeWord up 0 w) 1 fun _ => { (z vi) with pc := 0, status := setFld (z vi).status 16 5 1 }
  setDie { s with pkg := { s.pkg with ptrootNow := [(0, 0x40000001), (1, 0x40000001)] } } 0
    { (dieOf s 0) with descs := [(0, 2 ^ 63), (1, 2 ^ 48), (8, 2 ^ 63), (9, 2 ^ 49)] }

theorem test_sequencer : let s := modStrand sq 0 fun t => { t with arc := { t.arc with bays := 1 } }
    ((List.range 4).filter fun k => sequencerReady s k) = [0, 1] ∧
    (coreOf (after (.sequencerSelect 0) s) 0).sequencer = some 1 ∧
    deficitOf (coreOf (after (.sequencerSelect 0) s) 0) 1 = 2 ^ 21 ∧ deficitOf (coreOf (after (.sequencerSelect 0) s) 0) 0 = 2 ^ 20 ∧
    (coreOf (after (.sequencerSelect 0) (setCore s 0 { (coreOf s 0) with deficit := [(0, 5)] })) 0).sequencer = some 0 ∧
    ((List.range 4).filter fun k => sequencerReady up k) = [] := by decide

/-- Landing 0 has a watchdog period. -/
def wd (s : State) : State := setDie s 0 { (dieOf s 0) with descs := [(0, 2 ^ 63 + 10 * 2 ^ 54), (1, 2 ^ 48)] }

theorem test_watchdog : let s := fun (b : Block) => wd (st vi fun t => { t with slot := .park, blocked := some b, tvec := 0x8000 })
    let a := hd (.vsend 2 1) (.portSpace 2 1) (wd (st vi fun t => { t with tvec := 0x8000 }))
    watchdogOn (s (.semwait 1 2)) 0 = true ∧ (z (after (.watchdog 0) (s (.semwait 1 2)))).cause = 0x12 ∧
    (z (after (.watchdog 0) (s (.uwait 1)))).pc = 0x8000 ∧ (z (after (.watchdog 0) a)).arc.held.length = 1 ∧
    (z (after (.watchdog 0) a)).cause = 0x12 ∧ stNest (z a) = false ∧ watchdogOn up 0 = false ∧
    (z (after (.watchdog 0) (s (.vwaitm 1 2 3 0 0 0 0 0)))).arc.held.length = 1 ∧
    (z (after (.watchdog 0) (hd (.vadd 1 30 2 0 0) .chain (wd vi)))).arc.held.map (·.pc) = [0] ∧
    (z (after (.watchdog 0) (hd (.mxtld 0 1) (.mxtld 0 1) (wd vi)))).cause = 0x12 ∧
    after (.watchdog 0) (hd (.vadd 1 30 2 0 0) .turn (s (.uwait 1))) = hd (.vadd 1 30 2 0 0) .turn (s (.uwait 1)) := by decide

/-- An entry of the VIQ faults. -/
theorem test_array_trap : let s := st vi fun t => { t with tvec := 0x8000, pc := 0x100, arc := { t.arc with viq := [⟨0xB0000000, 0x40, 1, 2, false⟩, ⟨8, 0x44, 3, 4, false⟩] } }
    let t := after (.arrayTrap 0 6 9 3) s
    (z t).cause = 6 ∧ (z t).tval = 9 ∧ (z t).epc = 0x40 ∧ (z t).arc.held.map (·.word) = [0xB0000000, 8] ∧ (z t).arc.lane = 3 ∧
    (z t).arc.heldPoint = 0x100 ∧ (z t).pc = 0x8000 ∧
    (z (after (.arrayTrap 0 6 9 3) (st s fun t => { t with status := t.status ||| 8 }))).slot = .drain ∧
    stNest (z (st s fun t => { t with status := t.status ||| 8 })) = true := by decide

theorem test_park_wake : let s := st (rg up [(1, 5), (2, 0)]) fun t => { t with slot := .park, blocked := some (.semwait 1 2) }
    let h := st up fun t => { t with blocked := some .hostPage }
    (z (after (.parkWake 0) s)).slot = .run ∧ (z (after (.parkWake 0) s)).pc = 4 ∧
    (z (after (.parkWake 0) (rg s [(2, 1)]))).slot = .park ∧
    (z (after (.parkWake 0) (st up fun t => { t with slot := .park, blocked := some .wait }))).pc = 4 ∧
    (z (after (.hostCompletion 0 true) h)).hostAnswer = some true ∧ bulksOf up 0 = [] := by decide

theorem test_cache_instructions : let s := physWrite (rg up [(1, 0x20000), (2, 64), (3, 0x40000001), (4, 0x40000000), (5, 0)]) 0x20000 8 77
    let t := after (.cflush 1 2) s
    translate s (agentOf s 0) false 0x20000 = .ok (.phys 0x20000 false) ∧ (tblFind s.mem.l2 0x800).map (·.dirty) = some true ∧
    (tblFind t.mem.l2 0x800).map (·.dirty) = some false ∧ cellsRead t.mem.dram 0x20000 8 = 77 ∧
    tblFind (after (.cinv 1 2) t).mem.l2 0x800 = none ∧ (z (after (.cflush 1 3) s)).cause = 1 ∧ (z (after (.cinv 4 2) s)).cause = 5 ∧
    (z (after (.cpref 4 2) s)).pc = 4 ∧ (z (after (.cinv 1 5) s)).pc = 4 ∧ streamFenced s 0 0 = false := by decide

theorem test_cflush_waits : let c : CopyCmd := ⟨0, 0, 0, 0, false, 0, 3, atr 0, 5, 8, 0, .queued, 0, 0, 0, 0⟩
    let s := after (.sbarFull 8 1 0) (setCluster (rg up [(1, 0x20000), (2, 64)]) 0 { (clusterOf up 0) with engines := [[c]], accepted := 1 })
    streamFenced s 0 0 = true ∧ (z (after (.cflush 1 2) s)).blocked = some (.remote 0) := by decide

theorem test_tlbinv : let s := rg sup [(1, 0), (2, 0), (3, 2 ^ 38), (4, 5), (5, 0x800000000000), (6, 1)]
    let u := { s with pkg := { s.pkg with ptroot := [(0, 0x50000001)], pool := [(2, 9)] } }
    (z (after (.tlbinv 1 2 5) s)).cause = 1 ∧ (z (after (.tlbinv 1 3 0) s)).cause = 1 ∧ (z (after (.tlbinv 5 6 0) s)).cause = 1 ∧
    (z (after (.tlbinv 1 2 0) (rg up [(1, 0), (2, 0)]))).cause = 0xE ∧ (z (after (.tlbinv 1 2 2) s)).pc = 4 ∧
    unperformed s 0 = false ∧ tblGet 0 (after (.tlbinv 1 2 4) u).pkg.ptrootNow 0 = 0x50000001 ∧
    (after (.tlbinv 1 2 4) u).pkg.poolNow = [(2, 9)] ∧
    runs (.tlbinv 1 2 3) s = true := by decide

theorem test_lines : let g : Region := { Region.reset with rbase := 0x100000, rsize := 0x10000, rrate := 1 }
    let s := { (physWrite up 0x20000 8 77) with pkg := { up.pkg with regions := [(1, g)] } }
    let l : L2Line := ⟨0, true, false, 0⟩
    let c := { s with mem := { s.mem with coded := [(codedKey 1 3, l)] } }
    regionOn (regionOf s 1) = true ∧ codedBad s 1 3 = false ∧ (tblFind (after (.l2Fill true (fillKey (2 ^ 34 + 3) false)) s).mem.coded (codedKey 1 3)).isSome = true ∧
    tblFind (after (.lineEviction false 0x800 false) s).mem.l2 0x800 = none ∧
    cellsRead (after (.lineEviction false 0x800 false) s).mem.dram 0x20000 8 = 77 ∧
    lineBad (after (.lineEviction false 0x800 true) s) 0x800 = true ∧
    tblFind (after (.lineEviction true (codedKey 1 3) false) c).mem.coded (codedKey 1 3) = none ∧
    lineBad (after (.lineEviction true (codedKey 1 3) true) c) (blockPa g 3 / 64) = true := by decide

theorem test_hash_registers : let s := physWrite idle 0x20000 8 77
    dieHolds s 0 = true ∧ dieHolds idle 1 = false ∧ listGet 0 (dieOf (after (.hashPartitionWrite 1 2 (-1)) idle) 1).hpart 2 = 0x83FFFFFFFFC00000 ∧
    listGet 0 (dieOf (after (.hashPartitionWrite 1 27 (-1)) idle) 1).hmask 23 = 0xFFFFFFFFC0 ∧
    (dieOf (after (.hashPartitionWrite 0 2 (-1)) s) 0).hpart = (dieOf s 0).hpart := by decide

/-! ## Witnesses: the host port and the Foyer -/

/-- Ring 2 is enabled with 16 slots at 0x7000, an interrupt after two posts, and vector 5. -/
def rn (s : State) : State := setRing s 2 { Ring.reset with base := 0x7000, cfg := BitVec.ofNat 64 (2 ^ 63 + 4 * 2 ^ 58 + 2 ^ 17 + 5 * 2 ^ 37) }

theorem test_hpost : let s := st (rg (rn up) [(1, 9), (2, 0xAB)]) fun t => { t with tag := 3 }
    let t := after (.hpost 1 2 2) s
    ringOn (ringOf s 2) = true ∧ ringFull (ringOf s 2) = false ∧ x t 1 = 0 ∧ (ringOf t 2).tail = 1 ∧
    cellsRead t.mem.host 0x7000 8 = 0xAB ∧ fld (BitVec.ofNat 64 (cellsRead t.mem.host 0x7008 8)) 0 16 = 3 ∧ t.pkg.messages = [] ∧
    (after (.hpost 1 2 2) t).pkg.pending = [5] ∧ (z (after (.hpost 1 2 3) s)).regs[1] = 2 ∧
    x (after (.hpost 1 2 2) (setRing s 2 { (ringOf s 2) with tail := 16 })) 1 = 1 := by decide

theorem test_gsig : let s := rg up [(1, 0x20000), (2, 0xAB), (3, atr 0), (4, 0x20004)]
    targetRead (after (.gsig 1 2) s) 0 (.phys 0x20000 false) 8 = 0xAB ∧ (z (after (.gsig 3 2) s)).cause = 6 ∧
    (z (after (.gsig 4 2) s)).cause = 4 := by decide

theorem test_ring_registers : let s := idle
    let v : Word := BitVec.ofNat 64 (2 ^ 63 + 4 * 2 ^ 58)
    let on := after (.hrcfgWrite 2 v) s
    let q := { s with pkg := { s.pkg with foyer := { s.pkg.foyer with accepted := [(1, 9)] } } }
    ringOn (ringOf s 2) = false ∧ ringOn (ringOf on 2) = true ∧ (ringOf (after (.hrcfgWrite 17 v) q) 17).tail = 9 ∧
    ringOn (ringOf (after (.hrcfgWrite 2 (BitVec.ofNat 64 (2 ^ 63 + 3 * 2 ^ 58))) s) 2) = false ∧
    ringOn (ringOf (after (.hrcfgWrite 2 0) on) 2) = false ∧ (ringOf (after (.hrcfgWrite 2 (v ||| 5)) on) 2).cfg = v ||| 5 ∧
    badHead (ringOf on 2) 1 = true ∧ ringOn (ringOf (after (.hrheadWrite 2 1) on) 2) = false ∧
    badHead (ringOf on 2) 0 = false ∧ (ringOf (after (.hrheadWrite 2 0) on) 2).head = 0 := by decide

/-- The event ring is enabled at 0x9000. -/
def ev (s : State) : State := setRing s 32 { Ring.reset with base := 0x9000, cfg := BitVec.ofNat 64 (2 ^ 63 + 4 * 2 ^ 58) }

theorem test_ring_error : cellsRead (after (.hrheadWrite 2 1) (ev (after (.hrcfgWrite 2 (BitVec.ofNat 64 (2 ^ 63 + 4 * 2 ^ 58))) idle))).mem.host
    0x9000 8 = 0x0300000000000002 := by decide

theorem test_interrupts : let s := setRing idle 2 { (ringOf (rn idle) 2) with pend := 1, cfg := (ringOf (rn idle) 2).cfg ||| 7 }
    let u := after (.msixUnmask 5) s
    (after (.ringCtimeExpiry 2) s).pkg.pending = [5] ∧ (after (.ringCtimeExpiry 2) u).pkg.messages = [5] ∧
    (ringOf (after (.ringCtimeExpiry 2) s) 2).pend = 0 ∧ (after (.msixUnmask 5) (after (.ringCtimeExpiry 2) s)).pkg.messages = [5] ∧
    (after (.ringCtimeExpiry 2) idle).pkg.pending = [] := by decide

/-- A doorbell for queue 3: the graph at 0x50000. -/
def db : Word := 0x3000000000050001

theorem test_doorbell : let t := after (.doorbell db) (ev idle)
    let u := after .submissionAccept t
    let w := after .graphStart u
    t.pkg.foyer.intake = [db] ∧ u.pkg.foyer.waiting = [⟨3, 0, 0x50000⟩] ∧ tblGet 0 u.pkg.foyer.accepted 3 = 1 ∧
    physRead u (jAddr 0 0 + 8) 8 = 0x50000 ∧ physRead u (jAddr 2 0 + 16) 8 = 0x3000000000000000 ∧ journalHeld t = false ∧
    w.pkg.foyer.walks.map (·.node) = [0x50000] ∧ w.pkg.foyer.waiting = [] ∧
    tblGet 0 (after (.doorbell (db ||| 4)) (ev idle)).pkg.foyer.drops 3 = 1 ∧
    cellsRead (after (.doorbell (db ||| 4)) (ev idle)).mem.host 0x9000 8 = 0x0400000000000003 ∧
    (after (.doorbell 0) idle).pkg.usher.log = [⟨340, 4 * 2 ^ 56⟩] ∧
    (after .graphStart { u with pkg := { u.pkg with foyer := { u.pkg.foyer with
      walks := List.replicate 64 ⟨⟨0, 0, 0⟩, 0, .atNode, 0, 0⟩ } } }).pkg.foyer.waiting.length = 1 := by decide

theorem test_host_accesses : let s := physWrite idle 0x20000 8 77
    (after (.w2baseWrite 0x1000000000) s).pkg.w2base = 0x1000000000 ∧ (after (.w2baseWrite 5) s).pkg.w2base = s.pkg.w2base ∧
    (ringOf (after (.hostRegisterWrite 0x10040 0x7008) s) 2).base = 0x7000 ∧
    (ringOf (after (.hostRegisterWrite 0x10040 0x8000) (rn s)) 2).base = 0x7000 ∧
    tblGet 0 (after (.hostRegisterWrite 0x20008 (-1)) s).pkg.ptroot 1 = 0xFFFFFFF001 ∧
    (after (.hostMemoryRead 0x20000) s).pkg.hostReads = [some 77] ∧
    (after (.hostMemoryRead 0xF00000000) (after (.w2baseWrite 0x2000000000) s)).pkg.hostReads = [none] ∧
    reservedPa (windowPa (after (.w2baseWrite 0x2000000000) s) 0xF00000000) = true ∧
    physRead (after (.hostMemoryWrite 0x20004 4 5) s) 0x20000 8 = 0x50000004D ∧ reservedPa (windowPa s 0x20004) = false ∧
    (after (.hostPortTraining 8 200) s).pkg.hostLink = (8, 128) ∧ (after (.hostPortTraining 5 200) s).pkg.hostLink = s.pkg.hostLink := by decide

/-- A named register of the block is at its own offset, and an offset that is no multiple of 8 is none. -/
theorem test_usher_places : (∀ j < 0, usherPlace j ≠ usherPlace 0) ∧ (∀ k < usherNamed, usherPlace k ≠ 0x100004) :=
  ⟨fun j h => absurd h (Nat.not_lt_zero j), fun k _ h => by simp only [usherPlace] at h; omega⟩

theorem test_usher_block : usherField (usherStore idle 0 0x8000000000400001) 0 = 0x8000000000400000 ∧
    (dieOf (usherStore idle 33 (-1)) 1).hmask[1]? = some 0xFFFFFFFFC0 ∧ usherField (usherStore idle 112 0x100000005) 112 = 0x100000005 ∧
    usherField idle 113 = 10 ∧ usherStore idle 113 5 = idle ∧ usherField (usherStore idle 130 3) 130 = 3 ∧
    usherField (usherStore idle 4226 3) 4226 = 3 ∧ dieHolds idle 0 = false := by decide

theorem test_block_write (o : Nat) (h : ∀ k < usherNamed, usherPlace k ≠ o) (s : State) :
    tblGet 0 (blockWritten s o 6).pkg.usher.registers o = 6 := blockWritten_none s o 6 h

/-- The host masks a vector. -/
theorem test_msix_mask : let s := { idle with agenda := [.msixMask 7], pkg := { idle.pkg with unmasked := [3, 7] } }
    (match step s with | .next t => t.pkg.unmasked | _ => []) = [3] := by decide


/-! ## Witnesses: graph nodes and launches -/

/-- A walk of the graph of queue 3 at a node at 0x50000 whose doublewords are given. -/
def nd (s : State) (dw : List Nat) : State :=
  let u := physWrite s 0x50000 64 (dw.foldr (fun x n => x + 2 ^ 64 * n) 0)
  { u with pkg := { u.pkg with foyer := { u.pkg.foyer with walks := [⟨⟨3, 0, 0x50000⟩, 0x50000, .atNode, 6, 1⟩] } } }

/-- The walks. -/
def wk (s : State) : List Walk := s.pkg.foyer.walks

/-- KINDs: COPY of 64 bytes, COND, HOSTPOST to ring 2, END; NEXT is 0x60000. -/
def ncopy : State := nd (physWrite idle 0x20000 64 77) [0x2000000000060000, 0x30000, 0x20000, 64]
def ncond (c v : Nat) : State := nd (physWrite idle 0x20000 8 v) [0x3000000000060000, 0x20000, 5, c, 0x70000]
def npost : State := nd (rn idle) [0x4000000000060000, 0xAB, 2]
def nend : State := nd idle [0x5000000000000000]

theorem test_copy_node : let t := after (.copyNode 0) ncopy
    let u := after (.copyNodeDone 0) t
    nodeBad (readNode ncopy 0x50000) = false ∧ (wk t).map (·.state) = [.copying 0x30000 0x20000 64 0x60000] ∧
    (wk u).map (·.node) = [0x60000] ∧ physRead u 0x30000 8 = 77 ∧ lineBad t 0x800 = false ∧ journalHeld t = false ∧
    kernelsOpen ncopy ⟨3, 0, 0x50000⟩ = false ∧
    (moveNode 0x30000 0x20000 false false 8 0 t).2 = true ∧ after (.condNode 0) ncopy = ncopy := by decide

theorem test_cond_node : (wk (after (.condNode 0) (ncond 0 5))).map (·.node) = [0x70000] ∧
    (wk (after (.condNode 0) (ncond 0 6))).map (·.node) = [0x60000] ∧ (wk (after (.condNode 0) (ncond 2 6))).map (·.node) = [0x70000] ∧
    (let t := after (.condNode 0) (ncond 4 6)
     (wk t).map (·.state) = [.condWait 0x20000 5 0 0x70000] ∧ t.mem.tags = [condWatch ⟨3, 0, 0x50000⟩ 0x20000] ∧
     (wk (after (.condReread 0) (physWrite t 0x20000 8 5))).map (·.node) = [0x70000] ∧
     (after (.condReread 0) (physWrite t 0x20000 8 7)).mem.tags = [condWatch ⟨3, 0, 0x50000⟩ 0x20000] ∧
     wk (after (.condReread 0) t) = wk t) ∧
    (let s := ncond 0 5
     (wk (after (.condNode 0) (hurt s [0x800]))) = []) := by decide

theorem test_hostpost_node : let t := after (.hostpostNode 0) npost
    (wk t).map (·.node) = [0x60000] ∧ cellsRead t.mem.host 0x7000 8 = 0xAB ∧
    fld (BitVec.ofNat 64 (cellsRead t.mem.host 0x7008 8)) 0 25 = 6 + 2 ^ 16 + 2 ^ 24 ∧
    wk (after (.hostpostNode 0) (setRing npost 2 { (ringOf npost 2) with tail := 16 })) = wk npost ∧
    (wk (after (.hostpostNode 0) (setRing npost 2 { (ringOf npost 2) with cfg := 0 }))).map (·.node) = [0x60000] := by decide

/-- The end of a graph: its slot in ring 19, or held while that is disabled; a malformed node fails. -/
theorem test_end_node : let s := setRing nend 19 { Ring.reset with base := 0xA000, cfg := BitVec.ofNat 64 (2 ^ 63 + 4 * 2 ^ 58) }
    let t := after (.endNode 0) s
    wk t = [] ∧ cellsRead t.mem.host 0xA000 8 = 0x50000 ∧ (after (.endNode 0) nend).pkg.foyer.heldSlots = [(3, 0, 0x50000)] ∧
    slotBlocked (ringOf s 19) 0 = false ∧ tblGet 0 s.pkg.foyer.nextSlot 3 = 0 ∧
    (after (.endNode 0) (nd idle [0x5000000000000001])).pkg.foyer.heldSlots = [(3, 0, 0x8000000000050000)] ∧
    (after (.kernelNode 0) (nd idle [0x1000000000000000])).pkg.foyer.heldSlots = [(3, 0, 0x8000000000050000)] := by decide

/-- A KERNEL node of two records of landing 0 of die 0, of replay class `k`, with a snapshot table at `n`. -/
def nk (k n : Nat) : State :=
  let s := nd (land idle Landing.reset) [0x1000000000060000, 0x600100, 0x2200000000A00000 + k * 2 ^ 48, 0, 0, 2 * 2 ^ 48 + 64, n]
  setDie s 0 { (dieOf s 0) with descs := [(0, 2 ^ 63), (1, 2 ^ 48)] }

/-- Its launch, and its two records. -/
noncomputable def ne : State := after (.kernelNode 0) (nk 0 0)
noncomputable def nf : State := after (.kernelEmit 1) (after (.kernelEmit 1) ne)

theorem test_kernel : ne.pkg.foyer.launches.map (fun l => (l.state, l.tag, l.attempt, l.count, l.stride)) = [(.emit, 1, 1, 2, 64)] ∧
    physRead ne (counterPa 1) 8 = 2 ∧ physRead ne (jAddr 2 0) 8 = 2 * 2 ^ 56 + 2 ^ 48 + 2 ^ 32 ∧ ne.pkg.foyer.seq = 1 ∧
    (wk ne).map (·.state) = [.kernel 1] ∧ (diesUsed (nk 0 0) ⟨0x600100, 0x2200000000A00000, 0, 0⟩ 2).all (dieUsable (nk 0 0) 0) = true ∧
    (landingOf nf 0 0).queue.map (fun e => recFrame e.record) = [0xA00000, 0xA00040] ∧
    nf.pkg.foyer.launches.map (·.state) = [.run] ∧ after (.kernelDone 1) nf = nf := by decide

theorem test_kernel_ends : let d := after (.kernelDone 1) (physWrite nf (counterPa 1) 8 0)
    let b := after (.kernelNode 0) (setDie (nk 0 0) 0 { (dieOf idle 0) with descs := [] })
    launchOf d 1 = none ∧ (wk d).map (·.state) = [.atNode] ∧ wk b = [] ∧ b.pkg.foyer.seq = 3 ∧
    wk (after (.kernelNode 0) (nk 1 0x30001)) = [] ∧ snapshotTable (nk 1 0x30001) 0x30001 = none := by decide

/-- A lost launch is purged and launched again; class NONE and the fourth attempt fail. -/
theorem test_replay : let lose := fun (s : State) => { s with pkg := { s.pkg with foyer := { s.pkg.foyer with losses := [1] } } }
    let t := after .lossReport (lose nf)
    let n := after .lossReport (lose (after (.kernelNode 0) (nk 2 0)))
    journalHeld nf = false ∧ t.pkg.foyer.launches.map (fun l => (l.attempt, l.state, l.emitted)) = [(2, .emit, 0)] ∧
    (landingOf t 0 0).queue = [] ∧ physRead t (counterPa 1) 8 = 2 ∧ n.pkg.foyer.launches = [] ∧ wk n = [] ∧
    (after .lossReport (lose idle)).pkg.foyer.losses = [] ∧
    (after .lossReport (lose (setLaunch nf 1 { (nf.pkg.foyer.launches.headD ⟨0, 0, ⟨0, 0, 0⟩, 0, .run, ⟨0, 0, 0, 0⟩, 0, 0, 0, 0, [], 0, false, 0⟩) with
      attempt := 4 }))).pkg.foyer.launches = [] := by decide

/-- A snapshot launch with one range at 0x20000 and a save area at 0x40000. -/
def ns : State := nk 1 0x30000
noncomputable def nt : State := after (.kernelNode 0) (physWrite (physWrite ns 0x30000 24 (2 ^ 56 + 0x40000 + 0x20000 * 2 ^ 64 + 64 * 2 ^ 128)) 0x20000 8 77)

theorem test_snapshot : let key := snapKey ⟨3, 0, 0x50000⟩
    let t := after (.snapshotCopyDone key) nt
    let bad := (hurt nt [0x800])
    nt.pkg.foyer.launches.map (fun l => (l.state, l.ranges, l.save, l.tag)) = [(.snap, [(64 * 0x800, 64)], 64 * 0x1000, key)] ∧
    physRead t 0x40000 8 = 77 ∧ t.pkg.foyer.launches.map (·.state) = [.emit] ∧
    (nt.pkg.foyer.launches.map fun l => (snapBad nt l, snapWaits nt l, snapCoded nt l)) = [(false, false, [])] ∧
    (bad.pkg.foyer.launches.map (snapBad bad)) = [true] ∧ (after (.snapshotCopyDone key) bad).pkg.foyer.launches = [] := by decide

theorem test_restore : let t := after (.snapshotCopyDone (snapKey ⟨3, 0, 0x50000⟩)) nt
    let r := after .lossReport { (physWrite t 0x20000 8 9) with pkg := { t.pkg with foyer := { t.pkg.foyer with losses := [1] } } }
    r.pkg.foyer.launches.map (·.state) = [.restore] ∧ physRead (after (.restoreDone 1) r) 0x20000 8 = 77 ∧
    (after (.restoreDone 1) r).pkg.foyer.launches.map (·.state) = [.emit] := by decide

/-! ## Witnesses: the management plane -/

theorem test_turnover : let u := { up.pkg.usher with
      failing10 := [(3, 1, 5), (3, 1, 6), (3, 1, 7)], failing8 := [(3, 1, 5), (3, 1, 6), (3, 1, 7)] }
    let t := after .tenantTurnover { up with pkg := { up.pkg with usher := u } }
    2 < (failedLanes u u.failing10 3 1).length ∧ tblGet .full t.pkg.usher.stackStates 3 = .failed ∧ t.pkg.fit = false ∧
    tblGet .full t.pkg.usher.stackStates 2 = .full ∧ (z t).slot = .free ∧ t.pkg.ptroot = [] ∧
    (after .powerOn up).pkg.fit = true ∧ (after .fundamentalReset up).pkg.turnovers = up.pkg.turnovers + 1 := by decide

theorem test_fatal : let t := after .usherWatchdogExpiry up
    let o := setDie up 2 { (dieOf up 2) with status := .out }
    t.pkg.fatal = some (3, 0) ∧ t.pkg.usher.dumps = up.pkg.usher.dumps + 1 ∧ partOut up = none ∧ partOut o = some 2 ∧
    (after .hubDieReset o).pkg.fatal = some (0, 2) ∧ (after (.dieReset 1) o).pkg.fatal = some (0, 2) ∧
    (match step { t with agenda := [.event (.doorbell 1)] } with | .next u => u.pkg.foyer.intake == [] && u.agenda == [] | _ => false) = true ∧
    (match step { t with agenda := [.run 3] } with | .next u => u.cur == 0 && u.agenda == [] | _ => false) = true := by decide

theorem not_lost (s : State) (h : s.mem.poison = []) (q : s.mem.l2Poison = []) (l : s.mem.lostStacks = []) : jLost s = false := by
  simp [jLost, lineBad, dramBad, stackLost, h, q, l]

/-- Both copies of an entry are on a bad line. -/
theorem lost : jLost (hurt idle [0xBC000010, 0x23C000010]) = true :=
  List.any_eq_true.mpr ⟨0, List.mem_range.mpr (by decide), by decide⟩

theorem jCopy_zero (s : State) (d k : Nat) (h : physRead s (jAddr d k) 32 = 0) : jCopy s d k = none := by
  simp [jCopy, h, bitsOf]

theorem quiet_line (s : State) (n : Nat) (h : tblFind s.mem.l2 n = none) (d : s.mem.dram = []) : lineNow s n false = 0 := by
  have e : ∀ a k, cellsRead [] a k = 0 := fun a k => by induction k generalizing a <;> simp_all [cellsRead, cellsGet]
  simp only [lineNow, h, throughSeal_self, dramLine, d, e]
  rfl

theorem jAt_quiet (s : State) (k : Nat) (d : s.mem.dram = []) (h0 : tblFind s.mem.l2 (jAddr 0 k / 64) = none)
    (h2 : tblFind s.mem.l2 (jAddr 2 k / 64) = none) : jAt s k = none := by
  have z : ∀ i n, lineBits 0 i n = 0 := fun i n => by simp [lineBits, bitsOf]
  have r : ∀ n, tblFind s.mem.l2 (jAddr n k / 64) = none → physRead s (jAddr n k) 32 = 0 := fun n h => by
    rw [physRead, quiet_line _ _ h d, z]
  rw [jAt, jCopy_zero s 0 k (r 0 h0), jCopy_zero s 2 k (r 2 h2)]
  rfl

/-- The journal of a package in service that has accepted nothing. -/
theorem empty_journal : jEntries idle = [] := by
  simp only [jEntries, List.filterMap_eq_nil_iff]
  intro i _
  rw [jAt_quiet idle _ rfl rfl rfl]
  rfl

/-- A package that has accepted one graph. -/
noncomputable def one : State := after .submissionAccept (after (.doorbell db) idle)

theorem one_quiet (k : Nat) (h : 2 ≤ k) (hk : k < 2 ^ 20) : jAt one k = none := by
  have e : one.mem.l2.map (·.1) = [0xBC000010, 0x23C000010] := by decide
  have f : ∀ n, n ≠ 0xBC000010 → n ≠ 0x23C000010 → tblFind one.mem.l2 n = none := fun n h1 h2 =>
    tblFind_absent _ _ (by rw [e]; simp [h1, h2])
  refine jAt_quiet one k (by decide) (f _ ?_ ?_) (f _ ?_ ?_) <;> simp only [jAddr, dieBytes] <;> omega

/-- Its journal holds the ACCEPT entry alone. -/
theorem one_entry : jEntries one = [⟨1, 1, 0, 0, 0x50000, 3, 0⟩] := by
  have q : one.pkg.foyer.seq.toNat = 1 := by decide
  have a0 : jAt one 0 = some ⟨1, 1, 0, 0, 0x50000, 3, 0⟩ := by decide
  have a1 : jAt one 1 = none := by decide
  have g : ∀ i, i < 2 ^ 20 - 1 → jAt one ((1 + 2 ^ 32 - 2 ^ 20 + i) % 2 ^ 32 % 2 ^ 20) = none := fun i hi => by
    rcases Nat.eq_zero_or_pos i with rfl | hp
    · exact a1
    · rw [show (1 + 2 ^ 32 - 2 ^ 20 + i) % 2 ^ 32 % 2 ^ 20 = i + 1 by omega]
      exact one_quiet _ (by omega) (by omega)
  rw [jEntries, q, show (2 ^ 20 : Nat) = (2 ^ 20 - 1) + 1 from rfl, List.range_succ, List.filterMap_append,
    List.filterMap_eq_nil_iff.mpr (fun i hi => by
      have := g i (by simpa using hi)
      simp only [Nat.sub_add_cancel (show 1 ≤ 2 ^ 20 by decide)] at *
      rw [this]; rfl)]
  decide

theorem test_die_reset : let s := modStrand (physWrite up 0x20000 8 77) 0 fun t => { t with tag := 9 }
    let t := after (.dieReset 0) s
    let b := after (.dieBack 0 true) t
    (dieOf t 0).status = .out ∧ (z t).slot = .free ∧ 9 ∈ t.pkg.foyer.losses ∧ cellsRead t.mem.dram 0x20000 8 = 77 ∧ workOf s 0 = [9] ∧
    (dieOf b 0).status = .inService ∧ (dieOf (after (.dieBack 0 false) t) 0).status = .disabled ∧ s.mem.coded = [] ∧
    (dieOf (after (.dieBack 0 true) s) 0).status = .inService := by decide

theorem test_governor : let s := fun (p c : Nat) => { idle with pkg := { idle.pkg with usher := { idle.pkg.usher with passEighths := p, clockMHz := c } } }
    let f := fun (s : State) (w : Nat) => ((after (.powerSample w) s).pkg.usher.passEighths, (after (.powerSample w) s).pkg.usher.clockMHz)
    f (s 8 2100) 3001 = (7, 2100) ∧ f (s 4 2100) 3001 = (4, 2000) ∧ f (s 4 1200) 4000 = (4, 1200) ∧ f (s 4 2000) 3000 = (4, 2100) ∧
    f (s 4 2100) 3000 = (5, 2100) ∧ (after (.spdmRequest 6 5) idle).pkg.usher.responses.map (fun r => (r.index, r.nonce)) = [(6, 5)] ∧
    (after (.spdmRequest 7 5) idle).pkg.usher.responses = [] := by decide

/-! ## Witnesses: the fabric -/

/-- A package of a fabric of several: packages 1 and 2 by ports 1 and 2, the Stair to package 1 by port 3. -/
def fb : State := { idle with net := { idle.net with minimal := [(1, 6), (2, 4)], stairRoute := [(1, 3)], links := [(9, ⟨16, 128, false⟩)] } }

/-- Packets that wait. -/
def wt (s : State) (l : List Waiting) : State := { s with net := { s.net with waiting := l } }

/-- A packet of class `c`, SEQ `q`, for package `p`, from package 1, die 0, to address 0x20000, with more header bits. -/
def pk (p c q : Nat) (h : Nat) (l : List Word) : Packet :=
  ⟨BitVec.ofNat 64 (p * 2 ^ 52 + 4 * 2 ^ 36 + c * 2 ^ 32 + 5 * 2 ^ 16 + q), BitVec.ofNat 64 (h + 0x20000), l⟩

/-- The ports by which packets have left. -/
def left (s : State) : List Nat := s.net.sent.map (·.1)

theorem test_forwarding : let a : Waiting := ⟨pk 1 1 0 0 [7], 16, none, false⟩
    let s := wt fb [a]
    let full := [0, 0, 0, 0, 0, 5]
    minimalPorts s 1 = [1, 2] ∧ left (after (.packetForward 0 [9, 4, 4, 9]) s) = [1] ∧ left (after (.packetForward 0 [9, 4, 5]) s) = [2] ∧
    after (.packetForward 0 full) s = s ∧ (left (after (.packetForward 0 full) (wt fb [{ a with nonminimal := true }]))).length = 1 ∧
    (after (.packetForward 0 full) (wt fb [{ a with packet := pk 1 1 0 (63 * 2 ^ 55) [] }])).net.discarded = 1 ∧
    (after (.packetForward 0 full) (wt fb [{ a with packet := pk 3 1 0 0 [] }])).net.discarded = 1 ∧
    left (after (.packetForward 0 [0, 0, 0, 1]) (wt fb [{ a with packet := pk 1 1 0 (2 ^ 63) [] }])) = [3] ∧
    after (.packetForward 0 [1]) (wt fb [{ a with packet := pk 1 1 0 (2 ^ 63) [] }]) = wt fb [{ a with packet := pk 1 1 0 (2 ^ 63) [] }] ∧
    ((after (.suspectTimeout 0) s).net.waiting.map (·.suspect)) = [some 0] ∧
    ((after (.nonminimalTimeout 0) s).net.waiting.map (·.nonminimal)) = [true] ∧
    after (.packetForward 0 [1]) (wt fb [{ a with packet := pk 0 1 0 0 [] }]) = wt fb [{ a with packet := pk 0 1 0 0 [] }] := by
  decide +kernel

theorem test_stair : let s := { fb with net := { fb.net with stair := [(3, pk 1 1 0 (2 ^ 63) [])] } }
    left (after (.packetForward 0 [0, 0, 0, 1]) s) = [3] ∧ (after (.packetForward 0 [1]) s).net.stair.length = 1 ∧
    (after (.packetForward 0 []) { fb with net := { fb.net with stair := [(3, pk 1 1 0 (2 ^ 63 + 63 * 2 ^ 55) [])] } }).net.discarded = 1 := by
  decide +kernel

theorem test_token : let a : Waiting := ⟨pk 1 1 0 0 [7], 16, some 0, false⟩
    let s := wt { fb with net := { fb.net with epoch := some 5 } } [a]
    let n := { fb with net := { fb.net with frcfgNew := some 0x200000000, routesNew := [(7, 3, 2)] } }
    (after (.tokenArrival 6) s).net.token = .move a.packet ∧ stairFree s a.packet = true ∧ (after (.tokenArrival 6) s).net.epoch = some 6 ∧
    (after (.tokenArrival 4) s).net.token = .idle ∧ (after (.tokenArrival 4) s).net.epoch = some 5 ∧
    (after (.tokenArrival 6) { s with net := { s.net with stair := [(3, a.packet)] } }).net.tokens = [6] ∧
    (after (.tokenArrival 1) n).net.frcfg = 0x200000000 ∧ tblGet 0 (after (.tokenArrival 1) n).net.minimal 7 = 3 ∧
    (after (.tokenArrival 1) n).net.tokens = [1] ∧
    (after .stairMoveComplete (after (.tokenArrival 6) s)).net.stair.map (fun x => (x.1, pkEsc x.2)) = [(3, true)] ∧
    (after .stairMoveComplete (after (.tokenArrival 6) s)).net.tokens = [6] := by decide +kernel

theorem test_token_master : let s := { fb with net := { fb.net with epoch := some 5, frcfg := 0x1C0000000 } }
    (after .tokenRegeneration s).net.tokens = [6] ∧ (after .tokenRegeneration { s with net := { s.net with frcfg := 0 } }).net.tokens = [] ∧
    (after (.frcfgWrite 0x300000000) s).net.frcfgNew = some 0x300000000 ∧
    (after (.frcfgWrite 0) s).pkg.usher.log = [⟨352, 0⟩] ∧ fld ((after (.frcfgWrite 0) s).net.frcfgNew.getD 0) 32 9 = 1 ∧
    (after (.fabricPortTraining 4 8 200 false) s).net.links = [(4, ⟨8, 128, false⟩), (9, ⟨16, 128, false⟩)] ∧
    (after (.fabricPortTraining 16 8 200 false) s).net.links = s.net.links := by decide +kernel

theorem test_delivery : let s := fun (c q : Nat) (l : List Word) => wt fb [⟨pk 0 c q 0 l, 16, none, false⟩]
    let w := after (.packetDeliver 0) (s 1 0 [77])
    let r := after (.packetDeliver 0) (wt (physWrite fb 0x20000 8 77) [⟨pk 0 0 0 0 [], 16, none, false⟩])
    pkgNumber fb = 0 ∧ physRead w 0x20000 8 = 77 ∧ w.net.waiting.map (fun x => pkClass x.packet) = [3] ∧
    r.net.waiting.map (fun x => listGet 0 x.packet.payload 0) = [77] ∧
    (after (.packetDeliver 0) (s 1 2 [77])).net.reorder.length = 1 ∧ (after (.packetDeliver 0) (s 1 0xFFFF [77])).net.waiting = [] ∧
    (after (.packetDeliver 0) (wt w [⟨pk 0 1 0 0 [5], 16, none, false⟩])).net.waiting.map (fun x => pkClass x.packet) = [3] ∧
    physRead (after (.packetDeliver 0) (wt w [⟨pk 0 1 0 0 [5], 16, none, false⟩])) 0x20000 8 = 77 ∧
    (after (.packetDeliver 0) (wt fb [⟨pk 0 7 0 9 [], 16, none, false⟩])).net.epoch = some 9 ∧
    (after (.packetDeliver 0) (wt fb [⟨pk 1 1 0 0 [], 16, none, false⟩])) = wt fb [⟨pk 1 1 0 0 [], 16, none, false⟩] := by decide +kernel

/-- 4,096 later packets of one stream are held; the next is refused. -/
theorem test_nack : let s := wt { fb with net := { fb.net with reorder := List.replicate 4096 (pk 0 1 3 0 []) } } [⟨pk 0 1 2 0 [], 16, none, false⟩]
    (after (.packetDeliver 0) s).net.waiting.map (fun x => pkClass x.packet) = [4] := by decide +kernel

theorem test_acknowledgement : let u : Unacked := ⟨5, 0, 3, 9, 4, 7, pk 1 1 7 0 []⟩
    let s := { fb with net := { fb.net with unacked := [u] } }
    (after (.ackReceive 9 4 7) s).net.unacked = [] ∧ (after (.ackReceive 9 4 8) s).net.unacked = [u] ∧
    (after (.nackReceive 9 4 6) s).net.waiting.length = 1 ∧ (after (.nackReceive 9 4 8) s).net.waiting.length = 0 ∧
    (after (.resendTimeout 0) s).net.waiting.length = 1 ∧ (9, 4) ∈ (after (.unreachableTimeout (9, 4)) s).net.unreachable ∧
    (after (.unreachableTimeout (9, 4)) s).net.unacked = [] ∧ (after (.unreachableTimeout (10, 4)) s).net.unacked = [u] ∧
    (9, 4) ∉ (after (.unreachableTimeout (10, 4)) s).net.unreachable ∧
    s.pkg.engine.ops = [] ∧ s.pkg.engine.remote = [] := by decide +kernel

theorem test_unreachable_loss : let u : Unacked := ⟨5, 0, 3, 9, 4, 7, pk 1 1 7 0 []⟩
    let l : Launch := ⟨3, 1, ⟨0, 0, 0⟩, 0, .run, ⟨0, 0, 0, 0⟩, 1, 0, 1, 0, [], 0, false, 0⟩
    let s := { fb with net := { fb.net with unacked := [u] }, pkg := { fb.pkg with foyer := { fb.pkg.foyer with launches := [l] } } }
    3 ∈ (after (.unreachableTimeout (9, 4)) s).pkg.foyer.losses := by decide +kernel

/-! ## Witnesses: the machine -/

/-- What a step answers. -/
noncomputable def stepped' (s : State) : State := match step s with | .next t => t | _ => s

theorem test_step : fetch up 0 = .word 0x08000000 ∧ (z (stepped' up)).pc = 4 ∧ up.pkg.fatal = none ∧ up.agenda = [] ∧
    (z (stepped' { up with agenda := [.run 0] })).pc = 4 ∧ (stepped' { up with agenda := [.event (.doorbell 0)] }).agenda = [] ∧
    (let r := st up fun t => { t with arc := { t.arc with results := [(5, 9)] } }
     x (stepped' r) 5 = 9 ∧ (z (stepped' r)).pc = 0) ∧
    (z (stepped' (st up fun t => { t with arc := { t.arc with viq := [⟨0x88443200, 0x40, 0, 0, false⟩] } }))).cause = 0xA ∧
    (z (stepped' (st up fun t => { t with slot := .drain }))).slot = .free ∧
    (z (stepped' (st up fun t => { t with slot := .save }))).cause = 0x14 ∧
    (z (stepped' (st up fun t => { t with slot := .park, blocked := some .wait }))).pc = 4 := by decide +kernel

/-- A fetch from a page that is not executable, from an address that no page maps, of a bad line, and outside the pools. -/
theorem test_fetch : let at' := fun (s : State) => (z (stepped' s)).cause
    at' (st up fun t => { t with pc := 0x40000000 }) = 5 ∧ at' (hurt up [0]) = 0x15 ∧
    at' { up with pkg := { up.pkg with poolNow := [(0, 1), (1, 0x1000), (2, 0x40000000)] } } = 3 ∧
    (z (stepped' (st up fun t => { t with pc := 0x40000000, tvec := 0x80 }))).tval = 0x40000000 := by decide +kernel

theorem test_reset : State.reset.pkg.bringUp = true ∧ MemoriesWf State.reset :=
  ⟨rfl, memoriesWf_reset⟩

/-- A state with memories in their form, which steps. -/
theorem test_keeps_memories : MemoriesWf up ∧ step up = .next (stepped' up) := ⟨wf_up, rfl⟩

theorem test_encode : wellFormed (.add 3 3 4) = true ∧ encode (.add 3 3 4) = some 0x04632000 ∧ (∀ v, Instr.add 3 3 4 ≠ .illegalInstruction v) :=
  ⟨by decide, by decide, fun _ h => by cases h⟩

/-! ## Witnesses of further clauses -/

/-- 1 + 2^-8 lies half-way between two BF16 values, and the even one is taken; the largest value doubled overflows. -/
theorem test_rounding : (∃ a, ratOf (readFloat fBF16 0x3F80) = some a) ∧ (∃ a, ratOf (readFloat fBF16 0x3B80) = some a) ∧
    fpAdd fBF16 0x3F80 0x3B80 = (0x3F80, flagNX) ∧ fpAdd fBF16 0x3F81 0x3B80 = (0x3F82, flagNX) ∧
    fpMul fBF16 0x7F7F 0x4000 = (0x7F80, flagOF ||| flagNX) := by
  refine ⟨⟨_, by rw [show readFloat fBF16 0x3F80 = .num false 128 (-7) by decide]; rfl⟩,
    ⟨_, by rw [show readFloat fBF16 0x3B80 = .num false 128 (-15) by decide]; rfl⟩, by decide, by decide, by decide⟩

theorem test_link_value : let s := st up fun t => { t with pc := 0x800000000000 }
    x (after (.jal 2) s) 31 = 0x800000000004 ∧ (z (after (.jal 2) s)).pc = 0x80000000000C - 4 := by decide

theorem test_tcm_held : let c : CopyCmd := ⟨0, 0, 0, 0, false, 0, 3, atr 0, 5, 8, 0, .queued, 0, 0, 0, 0⟩
    let s := after (.sbarFull 8 1 0) (setCluster up 0 { (clusterOf up 0) with engines := [[c]], accepted := 1 })
    liveCmds s 0 0 = [c] ∧ streamHeld s 0 0 [none] = true ∧ (z (after (.ldt 1 0 0) s)).blocked = some (.remote 0) ∧
    streamHeld up 0 0 [none] = false := by decide

theorem test_atomic_traps : let s := rg up [(2, 0x20004), (3, atr 0), (4, 0x40000000), (5, 0x20000), (1, 9)]
    let b := { s with pkg := { s.pkg with bringUp := true } }
    let p := (hurt s [0x800])
    (z (after (.amoMin 1 2 1 0 1) s)).cause = 4 ∧ (z (after (.ldl 1 3 0 1) s)).cause = 6 ∧ (z (after (.stc 1 4 1 0 1) s)).cause = 5 ∧
    translate s (agentOf s 0) true 0x40000000 = .error (xfault cPAGE_FAULT) ∧ (z (after (.amoAdd 1 5 1 0 1) b)).cause = 0xD ∧
    (z (after (.ldl 1 5 0 1) b)).cause = 0xD ∧ translate b (agentOf b 0) true 0x20000 = .ok (.phys 0x20000 false) ∧
    targetBad p 0 (.phys 0x20000 false) 8 = true ∧ (z (after (.amoMaxu 1 5 1 0 1) p)).cause = 0x15 ∧
    x (after (.amoMin 1 5 0 0 1) s) 1 = 0 ∧ targetRead (after (.amoMin 1 5 0 0 1) s) 0 (.phys 0x20000 false) 8 = 0 := by decide

/-! ### Configuration -/

/-- A strand of the one-slot class whose registers have never been written, with a message from port 1 of core 0. -/
def cc : State := st (vec 0x1021 0x160061 4 []) fun t => { t with arc := { t.arc with
  chainIn := some (0, 1, [7]), recency := List.range 32, resident := [] } }

/-- The two-slot class: TYPE I64. -/
theorem test_class_change : let s := rg cc [(2, 0x2021), (3, 0x8000000000000000)]
    let w := st s fun t => { t with arc := { t.arc with regs := listSet [] t.arc.regs 3 [1], written := 8 } }
    let t := after (.setcVcfg 2) s
    vcfgOk 0x2021 = true ∧ twoSlot (fld 0x2021 0 6) (fld 0x2021 7 7) = true ∧ vTwo (arcOf s) = false ∧
    ((arcOf s).recency.take 16).any (regWritten (arcOf s)) = false ∧ (arcOf t).vcfg = 0x2021 ∧
    (arcOf t).resident = (List.range 16).map (· + 16) ∧ ((arcOf w).recency.take 16).any (regWritten (arcOf w)) = true ∧
    vaultOn (z w) = false ∧ (z (after (.setcVcfg 2) w)).cause = 0x14 ∧ (arcOf (after (.setcVcfg 2) w)).vcfg = 0x1021 ∧
    (coreOf s 0).parity = [] ∧ (z (after (.vsetcfg 5 2) s)).pc = 4 ∧ x (after (.vsetcfg 5 2) s) 5 = BitVec.ofNat 64 (lanesOf (arcOf t)) ∧
    (listGet [] (coreOf (after (.setcVresume 3) (st s fun t => { t with status := t.status ||| 1 })) 0).ports 1) = [[7]] ∧
    (listGet [] (coreOf (after (.setcChainsrc 0) s) 0).ports 1) = [[7]] ∧ (arcOf (after (.setcChainsrc 0) s)).chainIn = none := by
  decide +kernel

theorem test_class_change_back : let s := st (vec 0x2021 0x160061 4 [(20, [0x500000007])]) fun t => { t with arc := { t.arc with
      resident := (List.range 16).map (· + 16), written := 0x100000 } }
    let b := st s fun t => { t with arc := { t.arc with written := 8, regs := listSet [] t.arc.regs 3 [1] } }
    vTwo (arcOf s) = true ∧ (List.range 32).all (fun r => (arcOf s).resident.contains r || !regWritten (arcOf s) r) = true ∧
    listGet [] (arcOf (after (.setcVcfg 2) (rg s [(2, 0x1021)]))).regs 20 = [7] ∧
    (List.range 32).any (fun r => !(arcOf b).resident.contains r && regWritten (arcOf b) r) = true ∧
    (z (after (.setcVcfg 2) (rg b [(2, 0x1021)]))).cause = 0x14 := by decide +kernel

theorem test_strip_heads : let s := rg (st vi fun t => { t with arc := { t.arc with lane := 3 } }) [(5, 9)]
    (z (after (.vbegin 1 5) s)).stripHead = true ∧ (z (after (.vnext 1 1) s)).stripHead = true ∧
    (z (after (.vsetcfg 1 5) (st (rg up [(5, 0x1021)]) fun t => { t with arc := { t.arc with lane := 3 } }))).cause = 0xA ∧
    (arcOf (after (.vsetcfg 1 5) (st (rg up [(5, 0x1021)]) fun t => { t with arc := { t.arc with lane := 3 } }))).lane = 0 := by decide

/-- With LANE at VL an instruction has no further effect, and a message is used up. -/
theorem test_lane_past : let s := st vi fun t => { t with arc := { t.arc with lane := 4, chainIn := some (0, 1, [7]) } }
    let t := after (.vadd 1 2 3 0 0) s
    (arcOf s).vl ≤ (arcOf s).lane ∧ (z t).pc = 4 ∧ (arcOf t).lane = 0 ∧ e4 t 1 = e4 s 1 ∧ (arcOf t).chainIn = none ∧
    (z (after (.vadd 1 2 3 0 0) (st up fun t => { t with arc := { t.arc with lane := 4 } }))).cause = 0xA ∧
    (arcOf (after (.vadd 1 2 3 0 0) (st up fun t => { t with arc := { t.arc with lane := 4 } }))).lane = 0 := by decide

/-! ### Accesses that fault after earlier elements -/

/-- The last two words below the top of a page that is mapped, and the one after it. -/
def vp : State := rg vm [(4, 0x3FFFFFF8), (6, atr 0x7FFFF8)]

theorem ready_vp (ds vs : List (BitVec 5)) : VecReady vp ds vs (tc vp ds vs) (envOf (arcOf (tc vp ds vs)) none) :=
  vecReady_oneSlot vp ds vs (by decide) (by decide) (by decide) (by decide) (by decide) (by decide)

theorem test_part_fault : let t := after (.vld 1 4 0 0 0 0) vp
    let w := after (.vst 2 6 0 0 0 0) vp
    actives (envOf (arcOf (tc vp [1] [])) none).a 0 0 = [0, 1] ++ 2 :: [3] ∧ stNest (z (tc vp [1] [])) = false ∧
    (z t).cause = 5 ∧ (z t).tval = 0x40000000 ∧ (arcOf t).lane = 2 ∧ e4 t 1 = [0, 0, 9, 9] ∧ (arcOf t).held.length = 1 ∧
    (z w).cause = 5 ∧ (z w).tval = 0x800000000000 ∧ (arcOf w).lane = 2 ∧ cellsRead (clusterOf w 0).atrium 0x7FFFF8 8 = 0x200000001 := by
  decide

theorem reads_vp : (∀ e ∈ [0, 1], ∃ w, readElemAt (tc vp [1] []) 0 1 32 (contiguous (arcOf (tc vp [1] [])) 0x3FFFFFF8 0 e) = .ok 0 w) ∧
    (∃ w, readElemAt (tc vp [1] []) 0 1 32 (contiguous (arcOf (tc vp [1] [])) 0x3FFFFFF8 0 2) = .fault cPAGE_FAULT w) ∧
    ∀ e ∈ [0, 1], ∀ c ∈ elemChunks 32 (contiguous (arcOf vp) 0x3FFFFFF8 0 e),
      ∃ q, translate (tc vp [1] []) (agentOf (tc vp [1] []) 0) false c.1 = .ok q ∧ Near (tc vp [1] []) q := by
  refine ⟨fun e he => ?_, faultOf_eq (by decide), fun e he c hc => ?_⟩
  · have h : ∀ e ∈ [0, 1], okOf (readElemAt (tc vp [1] []) 0 1 32 (contiguous (arcOf (tc vp [1] [])) 0x3FFFFFF8 0 e)) = some 0 := by decide
    exact okOf_eq (h e he)
  · have h : ∀ e ∈ [0, 1], ∀ c ∈ elemChunks 32 (contiguous (arcOf vp) 0x3FFFFFF8 0 e),
      translate (tc vp [1] []) (agentOf (tc vp [1] []) 0) false c.1 = .ok (.phys c.1.toNat false) ∧
        pkgOf (tc vp [1] []) c.1.toNat = pkgNumber (tc vp [1] []) := by decide
    exact ⟨_, (h e he c hc).1, .inr ⟨_, _, rfl, (h e he c hc).2⟩⟩

/-- Two elements in the Atrium, and a third beyond the window, whose address is not canonical. -/
theorem stores_vp : let u := tc vp [2] []
    let a := fun e => (contiguous (arcOf u) (atr 0x7FFFF8) 0 e).addr
    MemoriesWf u ∧ (∀ e ∈ [0, 1], LaneStores u 1 4 (a e) (.atrium (0x7FFFF8 + 4 * e))) ∧
    Steady u [0, 1] 4 a (fun e => .atrium (0x7FFFF8 + 4 * e)) ∧ (a 2).toNat % 4 = 0 ∧
    SteadyFault u [0, 1] 4 (fun e => .atrium (0x7FFFF8 + 4 * e)) (a 2) cPAGE_FAULT := by
  refine ⟨⟨by decide, by decide, by decide, by decide⟩, fun e he => ?_, fun t _ _ e he => ?_, by decide, fun t _ _ => ?_⟩
  · have h : ∀ e ∈ [0, 1], (contiguous (arcOf (tc vp [2] [])) (atr 0x7FFFF8) 0 e).addr.toNat % 4 = 0 ∧
        streamHeld (tc vp [2] []) 0 1 [homeDie (tc vp [2] []) (.atrium (0x7FFFF8 + 4 * e))] = false ∧
        unreachableTarget (tc vp [2] []) (sidOf 0 1) (.atrium (0x7FFFF8 + 4 * e)) = false := by decide
    exact ⟨(h e he).1, .inl ⟨_, rfl⟩, (h e he).2.1, (h e he).2.2, by intro h; cases h⟩
  · have h : ∀ e ∈ [0, 1], inAtrium (contiguous (arcOf (tc vp [2] [])) (atr 0x7FFFF8) 0 e).addr = true ∧
        (contiguous (arcOf (tc vp [2] [])) (atr 0x7FFFF8) 0 e).addr.toNat - 0x7FFFFF800000 = 0x7FFFF8 + 4 * e := by decide
    rw [Sys2Proof.Machine.translate, if_pos (h e he).1, (h e he).2]
  · have h : inAtrium (contiguous (arcOf (tc vp [2] [])) (atr 0x7FFFF8) 0 2).addr = false ∧
        canonical (contiguous (arcOf (tc vp [2] [])) (atr 0x7FFFF8) 0 2).addr = false := by decide
    refine ⟨xfault cPAGE_FAULT, rfl, ?_⟩
    simp only [Sys2Proof.Machine.translate, h.1, h.2]
    rfl

/-! ### Chaining and bays -/

/-- A message that is longer than the buffer, with a consumer that waits at the port, and without one. -/
theorem test_long_message : let s := st vi fun t => { t with arc := { t.arc with vl := 9000 } }
    let w := modStrand s 1 fun _ => { (z (hd (.vadd 1 30 2 0 0) .chain vi)) with arc := { (z (hd (.vadd 1 30 2 0 0) .chain vi)).arc with chainsrc := 0xA00 } }
    let c := setCore w 0 { (coreOf w 0) with portRequests := [[], [1]] }
    8192 < (arcOf s).vl ∧ portQueue c 0 1 ≠ [] ∧ portQueue s 0 1 = [] ∧ heldOn (z s) = false ∧ badGroup (arcOf s) 2 = false := by decide

theorem test_chain_gives_back : let s := st vi fun t => { t with arc := { t.arc with chainIn := some (0, 1, [7]) } }
    let w := hd (.vsend 2 1) (.portSpace 2 1) vi
    let t := after (.portSpaceFree 0) w
    listGet [] (coreOf (after (.vchain 0 1) s) 0).ports 1 = [[7]] ∧ (arcOf (after (.vchain 0 1) s)).chainIn = none ∧
    listGet [] (coreOf t 0).ports 1 = [[1, 2, 3, 0xFFFFFFFF]] ∧ (z t).pc = 4 ∧ (z t).blocked = none ∧
    after (.portSpaceFree 0) vi = vi ∧ (z (after (.vchain 0 1) up)).cause = 0xA := by decide

theorem ready_portSpace : let w := headState (hd (.vsend 2 1) (.portSpace 2 1) vi) 0
    VecReady w [] [2] (touched w [] [2]) (envOf (arcOf (touched w [] [2])) none) :=
  vecReady_oneSlot (headState (hd (.vsend 2 1) (.portSpace 2 1) vi) 0) [] [2] (by decide) (by decide) (by decide) (by decide) (by decide) (by decide)

/-- A bay that is disabled under a strand stays available to it. -/
theorem test_keepers : let s := setCore vi 0 { (coreOf vi 0) with bayOwner := [some 0, none, none, none], retired := [List.range 64] }
    let u := { s.pkg.usher with detections := [(0, 0, 100, 0), (0, 0, 100, 0), (0, 0, 100, 0)] }
    let t := after (.rowRetirement 0 0 100) { s with pkg := { s.pkg with usher := u } }
    bayEnabled (coreOf s 0) 0 = true ∧ bayEnabled (coreOf t 0) 0 = false ∧ bayNamers s 0 0 = [0] ∧ (coreOf t 0).keepers = [(0, 0)] ∧
    0 ∈ grantable (after .vrel t) 0 (z t).arc.snapEnabled (vaultOn (z t)) (z t).issuer := by decide +kernel

/-! ### The Mezzanine -/

/-- An owner whose MXDRN is held. -/
theorem test_mx_done : let h := ((encode (.mxdrn 1 7)).getD 0)
    let s := st mo fun t => { t with arc := { t.arc with held := [⟨h, 0, 0, 0, false⟩] } }
    ownsMezz s 0 = true ∧ (engineStatus s 0 4).testBit 0 = false ∧ (engineStatus mo 0 4).testBit 0 = true ∧
    h.extractLsb' 26 6 = 0x30 := by decide

/-- Columns of 128 elements of I8, in distance mode; the norm of a column of ones is 128. -/
theorem test_norm : let one := BitVec.ofNat 512 ((List.range 64).foldl (fun n _ => n * 256 + 1) 0)
    let s := setCore mo 0 { (coreOf mo 0) with mezz := { (coreOf mo 0).mezz with ft := List.replicate 256 one } }
    let t := (mezzOf (after (.mxtld 1 0) s) 0).t0
    t.dist = true ∧ listGet 0 t.norm 0 = 128 ∧ listGet 0 t.norm 127 = 128 := by decide +kernel

/-- MXDRN into MXFP8 with E8M0 scales: the largest of 3 and -4 gives the scale 2^(2 - 8), so the codes are those of 192 and -256. -/
theorem test_drain_scaled : let s := st mo fun t => { t with arc := { t.arc with vcfg := 0x12, mfmt := 0x160061, vl := 2 } }
    let t := after (.mxdrn 1 7) s
    typeScaled (arcOf s) = true ∧ badDrain (arcOf s) (mxcfgSeen s 0) 1 = false ∧ vcfgOk 0x12 = true ∧
    (List.range 2).map (elemW (arcOf t) 31) = [121, 121] ∧ fld (arcOf t).mfmt 7 1 = 1 ∧
    (List.range 2).map (elemW (arcOf t) 1) = [0x74, 0xF8] := by decide +kernel

theorem ready_drain : let s := st mo fun t => { t with arc := { t.arc with vcfg := 0x12, mfmt := 0x160061, vl := 2 } }
    VecReady s [1, 31] [] (touched s [1, 31] []) (envOf (arcOf (touched s [1, 31] [])) none) ∧
    Claims (touched s [1, 31] []) (touched s [1, 31] []) :=
  ⟨vecReady_oneSlot (st mo fun t => { t with arc := { t.arc with vcfg := 0x12, mfmt := 0x160061, vl := 2 } }) [1, 31] []
    (by decide) (by decide) (by decide) (by decide) (by decide) (by decide), .inl ⟨by decide, rfl⟩⟩

theorem test_mx_waits_end : let s := hd (.mxr 9 0) (.mxr 9 0) mo
    let t := after (.mxFifoWaitEnd 0) s
    (z t).pc = 4 ∧ (mezzOf t 0).fa = [] ∧ (z t).arc.waits = none ∧ after (.mxFifoWaitEnd 0) mo = mo ∧
    mxBeats (mxAfmt (mezzOf s 0).cfg) 128 ≤ (mezzOf s 0).fa.length ∧ (z (after (.mxfclr 0 0) mo)).cause = 1 ∧
    (z (after (.mxcfg 3) (rg mo [(3, -1)]))).cause = 1 ∧ (z (after (.mxtsel 1) up)).cause = 0xA := by decide

/-! ### Endings, copies and bulk operations -/

/-- The state after a move of an agent outside the strands. -/
noncomputable def moved (m : Move) (s : State) : State := stepped' { s with agenda := [m] }

theorem test_lread_save : x (after (.lread 1 2) (rg up [(2, 512)])) 1 = 1 ∧
    x (after (.lread 1 2) (rg (st up fun t => { t with slot := .save }) [(2, 512)])) 1 = 0 := by decide

/-- An END with a completion word and a join counter, which are two words of one line. -/
theorem test_end_both : let s := st (physWrite up 0xA00000 8 3) fun t => { t with record := ⟨0, 0, 0xA00000, 0xA00008⟩, slot := .drain }
    let t := after (.endDrain 0) s
    endTarget s (agentOf s 0) (sidOf 0 0) false (addr48 0xA00008) = .ok (.phys 0xA00008 false) ∧
    endTarget (writeCompletion s (endingOf s 0)).1 (agentOf s 0) (sidOf 0 0) true (addr48 0xA00000) = .ok (.phys 0xA00000 false) ∧
    targetRead t 0 (.phys 0xA00008 false) 8 = 2 ^ 63 ∧ targetRead t 0 (.phys 0xA00000 false) 8 = 2 ∧ (z t).slot = .free := by decide

/-- A waiting command is accepted, or stays; the strand whose command waits for an entry of a queue that halts takes COPY_FAULT. -/
theorem test_copy_waiter : let q := (engineQueue ce 0 3).headD ⟨0, 0, 0, 0, false, 0, 0, 0, 0, 0, 0, .queued, 0, 0, 0, 0⟩
    let w := st (setEngine ce 0 3 (List.replicate 16 q)) fun t => { t with blocked := some (.copy 0 1 2 3 3) }
    let e := after (.copyQueueEntry 0) (st cp fun t => { t with blocked := some (.copy 0 1 2 3 1) })
    after (.copyQueueEntry 0) cp = cp ∧ (engineQueue e 0 1).map (fun c => (c.op, c.dst, c.src, c.ctl)) = [(0, atr 0, atr 64, 16)] ∧
    streamFenced (st cp fun t => { t with blocked := some (.copy 0 1 2 3 1) }) 0 3 = false ∧
    (z (after (.copyHalt 0 3) w)).cause = 0xB ∧ (z (after (.copyHalt 0 3) w)).tval = 3 ∧ (z (after (.copyHalt 0 3) w)).blocked = none ∧
    (match (moveRest w 0 q).2 with | (o, .fault f) => o == 0 && f.1 == 5 && f.2 == 0x40000000 | _ => false) = true ∧
    (z (after (.cpy 1 2 3 3) (setEngine cp 0 3 (List.replicate 16 { q with state := .halted })))).tval = 3 := by decide

/-- A fill of a line of another package, whose stream has 1,024 writes that are not acknowledged. -/
theorem test_copy_held : let c : CopyCmd := ⟨0, 0, 0, 0, false, 0, 3, 0x40000, 5, 16, 0, .active, 0, 0, 0, 0⟩
    let u : Unacked := ⟨9, 0, 0, sidOf 0 3, 4, 7, pk 1 1 7 0 []⟩
    let s := setCluster (physWrite up (placeTable + 0x1000) 8 0xB000010000000050) 0 { (clusterOf up 0) with engines := [[c]], accepted := 1 }
    let h := { s with net := { s.net with unacked := List.replicate 1024 u, minimal := [(1, 1)] } }
    (match (moveRest h 0 c).2 with | (o, .held) => o == 0 | _ => false) = true ∧
    (engineQueue (after (.copyComplete 0 0) h) 0 0).map (·.offset) = [0] ∧
    (match (moveRest s 0 c).2 with | (o, .done) => o == 16 | _ => false) = true := by decide

theorem test_bulk_waiter : let g : Region := { Region.reset with rbase := 0x100000, rsize := 0x10000, rrate := 1 }
    let u := { ub with pkg := { ub.pkg with regions := [(1, g)] }, mem := { ub.mem with coded := [(codedKey 1 0, ⟨0, true, false, 0⟩)] } }
    let s := setDie u 0 { (dieOf u 0) with undercroft := [⟨0, 0, 0, [(blockPa g 0 / 1024 * 1024, [])], true⟩] }
    let w := st ub fun t => { t with blocked := some (.ubulk 3 0 2 4) }
    overRow s (blockPa g 0 / 1024 * 1024) 1 0 = true ∧ (after (.undercroftComplete 0 0) s).mem.coded = [] ∧
    after (.undercroftQueueEntry 0) ub = ub ∧ (dieOf (after (.undercroftQueueEntry 0) w) 0).undercroft =
      [⟨0, 0, 3, [(0x100000, [0x200000, 0x200400])], false⟩] := by decide

theorem test_engine_waiter : let w := st xf fun t => { t with blocked := some (.transfer false 2 4) }
    (after (.engineEntry 0) w).pkg.engine.ops.length = 1 ∧ (z (after (.engineEntry 0) w)).pc = 4 ∧ engineFull w = false ∧
    (z (after (.fput 1 4) (rg xf [(3, 12)]))).cause = 4 ∧ (z (after (.fput 1 4) (rg xf [(3, 12)]))).tval = 12 := by decide

/-! ### Landings and pre-emption -/

/-- The oldest record has spilled; a resume record that cannot be read and whose commands have not ended drains. -/
theorem test_pop_further : let s := land up { Landing.reset with spill := [(1, ent ra 70)] }
    let c : CopyCmd := ⟨70, 0, 1, 0, false, 7, 3, atr 0, 5, 8, 0, .queued, 0, 0, 0, 0⟩
    let r := setCluster rs0 0 { (clusterOf rs0 0) with engines := [[c]], accepted := 1 }
    let u := setStrand r 1 { Strand.reset 1 with issuer := 70, tag := 7 }
    (pick s 0).map (·.entry.issuer) = some 70 ∧ (landingOf (after (.recordPop 0) s) 0 0).spill = [] ∧
    (strandOf (after (.recordPop 0) s) 1).slot = .run ∧ endPending u 1 = true ∧ (pick r 0).map (·.resume) = some true := by decide

/-- A landing with EN = 0 keeps its spilled and its waiting records where they are. -/
theorem test_landing_off : let o := fun (s : State) => setDie s 0 { (dieOf s 0) with descs := [] }
    let w : WaitEntry := { entry := ent ra 70, counter := ⟨0, 0xA00000, false⟩, eligible := false }
    let s := o (setPool (land up { Landing.reset with spill := [(1, ent ra 71)] }) 0 [w])
    landingOn (dieOf s 0) 0 = false ∧ after (.spillRefill 0 0) s = s ∧ (dieOf (after (.counterReread 0 0) s) 0).waitPool.map (·.eligible) = [true] ∧
    (landingOf (after (.counterReread 0 0) s) 0 0).queue = [] := by decide

theorem test_preempt_order : let s := st sup fun t => { t with due := true, dueForced := true, tvec := 0x8000, status := t.status ||| 0x20, arc := { t.arc with viq := [⟨7, 0x40, 1, 2, false⟩] } }
    after (.preemptionTaken 0) s = s ∧ linksDefer s 0 = false ∧ stPtrap (z s) = true ∧ atSavePoint (z s) = true := by decide

/-- The slot that is served keeps the sequencer; a landing whose deficit is far below 0 needs several refills. -/
theorem test_served : let s := modStrand sq 0 fun t => { t with arc := { t.arc with bays := 1 } }
    let b := setCore (modStrand s 1 fun t => { t with stripHead := false }) 0 { (coreOf s 0) with sequencer := some 1 }
    let d := setCore s 0 { (coreOf s 0) with deficit := [(0, -3 * 2 ^ 20), (1, -5 * 2 ^ 20)] }
    let t := after (.sequencerSelect 0) d
    served b 0 = some 1 ∧ after (.sequencerSelect 0) b = b ∧
    (coreOf t 0).sequencer = some 1 ∧ deficitOf (coreOf t 0) 0 = 0 ∧ deficitOf (coreOf t 0) 1 = 2 ^ 20 := by decide

theorem test_watchdog_further : let w := fun (l : Nat) => hd (.vsend 30 1) (.portSpace 30 1) (wd (st vi fun t => { t with tvec := 0x8000, arc := { t.arc with
      chainIn := some (0, 1, [7]), lane := l } }))
    let v := hd (.mxtld 0 1) (.mxtld 0 1) (wd (st vi fun t => { t with slot := .park, blocked := some (.uwait 1), tvec := 0x8000 }))
    (z (after (.watchdog 0) v)).cause = 0x12 ∧ (z (after (.watchdog 0) v)).arc.held.length = 1 ∧ watchdogOn v 0 = true ∧
    listGet [] (coreOf (after (.watchdog 0) (w 0)) 0).ports 1 = [[7]] ∧
    (z (after (.watchdog 0) (w 0))).arc.chainIn = none ∧
    listGet [] (coreOf (after (.watchdog 0) (w 3)) 0).ports 1 = [] := by decide

theorem test_host_answers : let h := st up fun t => { t with slot := .save, blocked := some .hostPage }
    let p := st up fun t => { t with slot := .park, blocked := some .hostPage }
    (z (after (.hostCompletion 0 false) h)).hostAnswer = some false ∧ after (.hostCompletion 0 true) up = up ∧ after (.parkWake 0) up = up ∧
    (z p).slot = .park := by decide

/-! ### Caches and the host port -/

/-- A write of stream SC to another package is not acknowledged: CFLUSH waits, and so does TLBINV; then it drops the entry. -/
theorem test_cache_further : let u : Unacked := ⟨9, 0, 0, sidOf 0 0, 4, 7, pk 1 1 7 0 []⟩
    let e : TlbEntry := ⟨0, 0, 0, 0, 0⟩
    let s := { (rg sup [(1, 0x20000), (2, 64), (3, 0), (4, 0)]) with net := { sup.net with unacked := [u] }, mem := { sup.mem with tlb := [e, { e with ctx := 1 }] } }
    let q := { s with net := sup.net }
    (z (after (.cflush 1 2) s)).blocked = some (.remote 0) ∧ (z (after (.tlbinv 3 4 0) s)).blocked = some (.remote 0) ∧
    inFlight s 0 0 = true ∧ inFlight q 0 0 = false ∧ entryOverlaps e (va48 0) 0 = true ∧
    (after (.tlbinv 3 4 0) q).mem.tlb = [{ e with ctx := 1 }] ∧ (after (.tlbinv 3 4 0) (rg q [(4, 2 ^ 37)])).mem.tlb = [] := by decide

theorem test_plain_fill : let s := { up with mem := { up.mem with dram := cellsWrite up.mem.dram 0x20000 8 77 } }
    let p := hurt (physWrite up 0x20000 8 77) [0x800]
    (tblFind (after (.l2Fill false (fillKey 0x800 false)) s).mem.l2 0x800).map (·.dirty) = some false ∧ lineBad s 0x800 = false ∧
    physRead (after (.l2Fill false (fillKey 0x800 false)) s) 0x20000 8 = 77 ∧
    after (.l2Fill false (fillKey 0x800 false)) { s with pkg := { s.pkg with bringUp := true } } = { s with pkg := { s.pkg with bringUp := true } } ∧
    lineBad (after (.lineEviction false 0x800 false) p) 0x800 = true := by decide

/-- A CCOUNT at or below the slots that are pending. -/
theorem test_ccount : let s := setRing idle 2 { (ringOf (rn idle) 2) with pend := 1, cfg := BitVec.ofNat 64 (2 ^ 63 + 4 * 2 ^ 58 + 2 ^ 17 + 5 * 2 ^ 37) }
    let t := after (.hrcfgWrite 2 (BitVec.ofNat 64 (2 ^ 63 + 4 * 2 ^ 58 + 2 ^ 16 + 5 * 2 ^ 37))) s
    t.pkg.pending = [5] ∧ (ringOf t 2).pend = 0 ∧ ringOn (ringOf s 2) = true := by decide

theorem test_bar_reads : let s := { (rn idle) with pkg := { (rn idle).pkg with w2base := 0x1000000000, foyer := { idle.pkg.foyer with
      accepted := [(3, 2)], drops := [(3, 1)] } } }
    let r := fun (o : Nat) => (moved (.registerRead o) s).pkg.hostReads
    r 0x118 = [some 0x100000002] ∧ r 0x10040 = [some 0x7000] ∧ r 0x30000 = [some 0x1000000000] ∧ r 0 = [some 0] ∧ r 0x10058 = [some 0] := by
  decide +kernel

/-! ### Graphs and launches -/

/-- Eight nodes are in progress: a ninth is not started. A refused host access of a COPY node fails its graph. -/
theorem test_node_engines : let b : Walk := ⟨⟨4, 0, 0x90000⟩, 0x90000, .copying 0 0 64 0, 0, 0⟩
    let s := { ncopy with pkg := { ncopy.pkg with foyer := { ncopy.pkg.foyer with walks := ncopy.pkg.foyer.walks ++ List.replicate 8 b } } }
    let h := nd idle [0x2000000000060000, 0x30000, 0x20000, 64 + 2 ^ 62]
    let c := after (.copyNode 0) h
    foyerHeld s = true ∧ foyerHeld ncopy = false ∧ wk (after (.copyNode 0) s) = wk s ∧
    (wk c).map (·.state) = [.copying 0x30000 0x20000 (64 + 2 ^ 62) 0x60000] ∧ wk (moved (.nodeRefused 0) c) = [] ∧
    wk (moved (.nodeRefused 0) (after (.copyNode 0) ncopy)) = wk (after (.copyNode 0) ncopy) := by decide +kernel

/-- The journal has come round to an entry that must be kept. -/
theorem test_journal_full : let f := { one with pkg := { one.pkg with foyer := { one.pkg.foyer with seq := BitVec.ofNat 32 (2 ^ 20) } } }
    let l := { f with pkg := { f.pkg with foyer := { f.pkg.foyer with losses := [1] } } }
    journalFull f 2 = true ∧ journalHeld f = true ∧ after .lossReport l = l ∧ after .submissionAccept f = f := by decide +kernel

/-- A landing that has become unusable ends the launch. -/
theorem test_unusable : let s := setDie ne 0 { (dieOf ne 0) with descs := [] }
    launchOf (after (.kernelEmit 1) s) 1 = none ∧ wk (after (.kernelEmit 1) s) = [] ∧ landingOn (dieOf s 0) 0 = false ∧
    journalFull s 2 = false ∧ (dieOf s 0).status = .inService ∧
    after (.kernelEmit 1) (setDie ne 0 { (dieOf ne 0) with status := .out }) = setDie ne 0 { (dieOf ne 0) with status := .out } := by decide +kernel

/-! ### The management plane and the fabric -/

/-- What does not pass the Usher's tests. -/
def usher (s : State) (f : Usher → Usher) : State := { s with pkg := { s.pkg with usher := f s.pkg.usher } }

theorem test_unsound : let u := fun (g : Unsound) => usher up fun u => { u with unsound := g }
    let t := fun (g : Unsound) => after .tenantTurnover (u g)
    let k := fun (g : Unsound) => tblGet .full (t g).pkg.usher.stackStates 3
    k ⟨[], [], [3], [], []⟩ = .degraded ∧ k ⟨[], [], [3], [3], []⟩ = .failed ∧ (t ⟨[], [4], [], [], []⟩).pkg.fit = false ∧
    (t ⟨[(1, 2, 3)], [], [], [], []⟩).pkg.usher.columns = [(1, 2, 3)] ∧ (t ⟨[(1, 2, 3)], [], [], [], []⟩).pkg.fit = true ∧
    (t ⟨(List.range 29).map fun i => (1, 2, i), [], [], [], []⟩).pkg.fit = false ∧
    (after .powerOn (u ⟨[], [], [], [], [2]⟩)).pkg.bringUp = true ∧ (after .powerOn (u ⟨[], [], [], [], [2]⟩)).pkg.fit = false := by decide +kernel

/-- Faults of a stack while a die is out, and of the hub die during a replay; the dump's sections are written in turn. -/
theorem test_fatal_moves : let o := setDie up 2 { (dieOf up 2) with status := .out }
    let f := { up with pkg := { up.pkg with foyer := { up.pkg.foyer with launches := [⟨1, 2, ⟨0, 0, 0⟩, 0, .emit, ⟨0, 0, 0, 0⟩, 1, 0, 0, 0, [], 0, false, 0⟩] } } }
    (moved (.stackFault 3) o).pkg.fatal = some (0, 2) ∧ (moved .hubFault f).pkg.fatal = some (2, 0) ∧ journalLine 0xBC000010 = true ∧
    partOut o = some 2 := by decide +kernel

theorem test_dump : let t := after .usherWatchdogExpiry up
    t.pkg.usher.dumpNext = some 0 ∧ (moved .dumpSection t).pkg.usher.dumpNext = some 1 ∧
    (moved .dumpSection { t with pkg := { t.pkg with usher := { t.pkg.usher with dumpNext := some 25 } } }).pkg.usher.dumpNext = none ∧
    (moved (.registerRead 0) t).pkg.hostReads = [some 0] := by decide +kernel

/-- A journal line fails whose other copy has failed before. -/
theorem test_lost_again : jLost (poisonLine (hurt idle [0x23C000010]) 0xBC000010) = true :=
  List.any_eq_true.mpr ⟨0, List.mem_range.mpr (by decide), by decide⟩

theorem test_spdm : (moved .spdmVersions idle).pkg.usher.answers = [.versions [1, 1] [2, 3]] ∧
    (moved .spdmChain idle).pkg.usher.answers.length = 1 := by decide +kernel

/-- Packets that arrive: with 2 payload words, at a port whose buffers are full, with class 9, and another TLP. -/
theorem test_arrival : let p := pk 1 1 0 (2 * 2 ^ 48) [7, 8]
    let e := pk 1 1 0 (2 ^ 63 + 2 ^ 48) [7]
    let full := wt fb (List.replicate 8 ⟨p, 2, none, false⟩)
    ((moved (.packetIn 2 p) fb).net.waiting.map fun w => (w.port, w.packet.payload)) = [(2, [7, 8])] ∧
    (moved (.packetIn 2 p) full).net.waiting.length = 8 ∧ (moved (.packetIn 2 e) full).net.waiting.length = 9 ∧
    (moved (.packetIn 2 (pk 1 9 0 0 [])) fb).net.discarded = 1 ∧ (moved .otherTlpIn fb).net.otherTlps = 1 := by decide +kernel

/-- The token leaves by NEXTPORT; a duplicate is answered with the response that is kept. -/
theorem test_token_packet : let s := { fb with net := { fb.net with frcfg := 0x100000000 + 5 * 2 ^ 22 } }
    let t := after (.tokenArrival 6) s
    let w := after (.packetDeliver 0) (wt fb [⟨pk 0 1 0 (2 ^ 48) [77], 16, none, false⟩])
    let d := after (.packetDeliver 0) (wt { w with net := { w.net with reorder := [] } } [⟨pk 0 1 0 (2 ^ 48) [5], 16, none, false⟩])
    left t = [5] ∧ w.net.answered.length = 1 ∧
    d.net.waiting.map (·.packet) = w.net.answered.map (·.2.2) := by decide +kernel

/-- A word that needs the sequencer, of a strand that the sequencer does not serve, waits for its turn. -/
theorem test_not_admitted : let s := modStrand sq 0 fun t => { t with arc := { t.arc with bays := 1 } }
    let w := (encode (.vadd 1 2 3 0 0)).getD 0
    let b := setCore (modStrand s 1 fun t => { t with stripHead := false }) 0 { (coreOf s 0) with sequencer := some 1 }
    (admitEntry b 0 w).2 = false ∧ (z (stepped' b)).pc = 0 ∧ (admitEntry b 1 w).2 = true ∧
    (z (stepped' (st up fun t => { t with slot := .save, arc := { t.arc with viq := [⟨0x08000000, 0x40, 0, 0, false⟩] } }))).slot = .save := by
  decide +kernel

/-! ## Witnesses: more forms and clauses -/

/-- The quotient of 1 and 1 + 2^-10 x 512 of FP19 is not exact. -/
theorem test_fp19 : (∃ a, ratOf (readFloat fFP19 0x1FC00) = some a) ∧ (∃ a, ratOf (readFloat fFP19 0x20200) = some a) ∧
    fpDiv fFP19 0x1FC00 0x20200 = (0x1F555, flagNX) := by
  refine ⟨⟨_, by rw [show readFloat fFP19 0x1FC00 = .num false 1024 (-10) by decide]; rfl⟩,
    ⟨_, by rw [show readFloat fFP19 0x20200 = .num false 1536 (-9) by decide]; rfl⟩, by decide⟩

/-- A semaphore operation on a cluster of another die takes a SEQ of stream SC; one to a die with 1,024 unacknowledged writes waits. -/
theorem test_newel_far : let s := rg up [(1, 5), (2, 7), (3, 0x1003F)]
    let t := after (.seminc 1 2 128 1) s
    let u : Unacked := ⟨9, 0, 0, sidOf 0 0, 1, 7, pk 0 1 7 0 []⟩
    let h := { s with net := { s.net with unacked := List.replicate 1024 u } }
    (coreOf s 128).enabled = true ∧ streamHeld s 0 0 [some 1] = false ∧ streamHeld s 0 0 [some 0] = false ∧
    (semOf t 16 5).toNat = 7 ∧ t.net = (takeSeq s (sidOf 0 0) 1).net ∧ t.net ≠ s.net ∧
    barOf (after (.barinit 1 2 128 1) s) 16 5 = ⟨7, 0, false, .normal⟩ ∧ streamHeld h 0 0 [some 1] = true ∧
    (z (after (.semset 1 2 128 1) h)).blocked = some (.remote 0) ∧ (z (after (.semrd 1 2 128 1) h)).blocked = some (.remote 0) := by
  decide +kernel

/-- A ring that is full while the queue holds 63 records: its oldest moves on-die and the new record takes its place. -/
theorem test_spawn_ring : let e := fun n => ent ra n
    let u := land fork { Landing.reset with queue := List.replicate 63 (e 1), spill := (List.range 4).map fun i => (i, e (80 + i)) }
    let s := physWrite u 0xA00020 32 (0x0000000000600100 + 2 ^ 64 * 0x2210000000A00000)
    let f := land s { Landing.reset with spill := (List.range 3).map fun i => (i, e (80 + i)) }
    let t := after (.spawn 3 2) s
    landingSpcap (dieOf s 0) 0 = 4 ∧ landingOn (dieOf s 0) 0 = true ∧ landingFull s 0 0 = false ∧ x t 3 = 0 ∧
    (landingOf t 0 0).queue.length = 64 ∧ (landingOf t 0 0).spill.map (·.2.issuer) = [81, 82, 83, s.pkg.nextIssuer] ∧
    (landingOf t 0 0).spill.map (·.1) = [1, 2, 3, 0] ∧ landingFull f 0 0 = false ∧
    (landingOf (after (.spawn 3 2) f) 0 0).spill.map (·.1) = [0, 1, 2, 3] ∧
    (match readChunks s 0 0 (recordChunks 0xA00020) with | .ok vs _ => listGet 0 vs 2 == 0 | _ => false) = true := by decide +kernel

/-- VSTX whose third element lies beyond the window. -/
def vq : State := st vp fun t => { t with arc := { t.arc with regs := listSet [] t.arc.regs 3 [0, 1, 2, 3] } }

theorem ready_vq : VecReady vq [2] [3] (tc vq [2] [3]) (envOf (arcOf (tc vq [2] [3])) none) :=
  vecReady_oneSlot vq [2] [3] (by decide) (by decide) (by decide) (by decide) (by decide) (by decide)

theorem stores_vq : let u := tc vq [2] [3]
    let a := fun e => (indexed (envOf (arcOf u) none) (atr 0x7FFFF8) 3 e).addr
    MemoriesWf u ∧ (∀ e ∈ [0, 1], LaneStores u 1 4 (a e) (.atrium (0x7FFFF8 + 4 * e))) ∧
    Steady u [0, 1] 4 a (fun e => .atrium (0x7FFFF8 + 4 * e)) ∧ (a 2).toNat % 4 = 0 ∧
    SteadyFault u [0, 1] 4 (fun e => .atrium (0x7FFFF8 + 4 * e)) (a 2) cPAGE_FAULT := by
  refine ⟨⟨by decide, by decide, by decide, by decide⟩, fun e he => ?_, fun t _ _ e he => ?_, by decide, fun t _ _ => ?_⟩
  · have h : ∀ e ∈ [0, 1], (indexed (envOf (arcOf (tc vq [2] [3])) none) (atr 0x7FFFF8) 3 e).addr.toNat % 4 = 0 ∧
        streamHeld (tc vq [2] [3]) 0 1 [homeDie (tc vq [2] [3]) (.atrium (0x7FFFF8 + 4 * e))] = false ∧
        unreachableTarget (tc vq [2] [3]) (sidOf 0 1) (.atrium (0x7FFFF8 + 4 * e)) = false := by decide
    exact ⟨(h e he).1, .inl ⟨_, rfl⟩, (h e he).2.1, (h e he).2.2, by intro h; cases h⟩
  · have h : ∀ e ∈ [0, 1], inAtrium (indexed (envOf (arcOf (tc vq [2] [3])) none) (atr 0x7FFFF8) 3 e).addr = true ∧
        (indexed (envOf (arcOf (tc vq [2] [3])) none) (atr 0x7FFFF8) 3 e).addr.toNat - 0x7FFFFF800000 = 0x7FFFF8 + 4 * e := by decide
    rw [Sys2Proof.Machine.translate, if_pos (h e he).1, (h e he).2]
  · have h : inAtrium (indexed (envOf (arcOf (tc vq [2] [3])) none) (atr 0x7FFFF8) 3 2).addr = false ∧
        canonical (indexed (envOf (arcOf (tc vq [2] [3])) none) (atr 0x7FFFF8) 3 2).addr = false := by decide
    refine ⟨xfault cPAGE_FAULT, rfl, ?_⟩
    simp only [Sys2Proof.Machine.translate, h.1, h.2]
    rfl

theorem test_vstx_fault : let t := after (.vstx 2 6 3 0 0 0) vq
    heldOn (z vq) = false ∧ stNest (z (tc vq [2] [3])) = false ∧ actives (envOf (arcOf (tc vq [2] [3])) none).a 0 0 = [0, 1] ++ 2 :: [3] ∧
    (z t).cause = 5 ∧ (arcOf t).lane = 2 ∧ cellsRead (clusterOf t 0).atrium 0x7FFFF8 8 = 0x200000001 ∧
    faultOf (readElemAt (tc vm [1] []) 0 1 32 (contiguous (arcOf (tc vm [1] [])) 0x20002 0 0)) = some cMISALIGN ∧
    (z (after (.vldff 1 7 0 0 0 0) vm)).cause = 4 ∧ (arcOf (tc vm [1] [])).part = none := by decide

/-! ### The Mezzanine and copies, further -/

/-- MXDRN begins at LANE; at or beyond VL it has no effect, and a message is used up. -/
theorem test_mxdrn_lanes : let s := fun (l : Nat) => st mo fun t => { t with arc := { t.arc with lane := l, chainIn := some (0, 1, [7]) } }
    let t := after (.mxdrn 1 7) (s 2)
    let u := after (.mxdrn 1 7) (s 4)
    badDrain (arcOf (s 4)) (mxcfgSeen (s 4) 0) 1 = false ∧ (arcOf (s 4)).vl ≤ (arcOf (s 4)).lane ∧ stNoBays (z (s 4)) = false ∧
    e4 t 1 = [9, 9, 0, 0] ∧ (mezzOf t 0).cfg = 0x810000000 ∧ e4 u 1 = [9, 9, 9, 9] ∧ (mezzOf u 0).cfg = 0x800000000 ∧
    (arcOf u).lane = 0 ∧ (arcOf u).chainIn = none ∧ (z u).pc = 4 := by decide

/-- Behind an SBAR that holds CP a command waits, but a full queue with a halted command traps. -/
theorem test_copy_fenced : let c : CopyCmd := ⟨0, 0, 0, 0, false, 0, 3, atr 0, 5, 8, 0, .queued, 0, 0, 0, 0⟩
    let s := after (.sbarFull 8 8 0) (setCluster cp 0 { (clusterOf cp 0) with accepted := 1, engines := [[c]] })
    let h := setEngine s 0 1 (List.replicate 16 { c with state := .halted })
    streamFenced s 0 3 = true ∧ streamFenced h 0 3 = true ∧ (z (after (.cpy 1 2 3 1) s)).blocked = some (.copy 0 1 2 3 1) ∧
    (z (after (.cpy 1 2 3 1) h)).cause = 0xB ∧ (z (after (.cpy 1 2 3 1) h)).tval = 1 := by decide

/-- Of the Mezzanine only MXDRN traps on the array side, for its swap. -/
theorem test_array_trap_words : let w := fun (i : Instr) => (encode i).getD 0
    let s := fun (i : Instr) => st vi fun t => { t with tvec := 0x80, arc := { t.arc with viq := [⟨w i, 0x40, 0, 0, false⟩] } }
    arrayCause cVAULT = true ∧ wordRaises (w (.mxclr 7)) cVAULT = false ∧ wordRaises (w (.mxdrn 1 7)) cVAULT = true ∧
    wordRaises (w (.mxdrn 1 7)) cMISALIGN = false ∧ wordRaises (w (.vld 1 4 0 0 0 0)) cMISALIGN = true ∧
    wordRaises (w (.vld 1 4 0 0 0 0)) cCODED_NONFINITE = false ∧
    after (.arrayTrap 0 (BitVec.ofNat 6 cVAULT) 5 0) (s (.mxclr 7)) = s (.mxclr 7) ∧
    (z (after (.arrayTrap 0 (BitVec.ofNat 6 cVAULT) 5 0) (s (.mxdrn 1 7)))).cause = 0x14 := by decide

/-! ### Coded lines -/

/-- Region 1 at rate 1 from 0x100000, its pages at the second GiB; a dirty line of it holds eight times 1. -/
def cd : State :=
  let g : Region := { Region.reset with rbase := 0x100000, rsize := 0x10000, rrate := 1 }
  let s := physWrite up (placeTable + 0x1008) 8 0x9060000000000050
  { s with pkg := { s.pkg with regions := [(1, g)] },
           mem := { s.mem with coded := [(codedKey 1 3, ⟨lineOfDoubles (List.replicate 8 0x3FF0000000000000), true, false, 0⟩)] } }

theorem test_coded_flush : let s := rg cd [(1, 0x400000C0), (2, 64)]
    let g := regionOf s 1
    let t := after (.cflush 1 2) s
    let u := after (.cinv 1 2) s
    let line := lineOfDoubles (List.replicate 8 0x3FF0000000000000)
    let code := encodeBlock (regionRate g) (lineDoubles line)
    translate s (agentOf s 0) false 0x400000C0 = .ok (.coded 1 0xC0 false) ∧ codedBad s 1 3 = false ∧
    lineBad s (blockPa g 3 / 64) = false ∧ stackLost s (blockPa g 3 / 64) = false ∧ g.rbase.toNat % 64 = 0 ∧
    lineBits (lineNow t (blockPa g 3 / 64) false) (blockPa g 3 % 64) (codedRate (regionRate g)) = code % 2 ^ (8 * codedRate (regionRate g)) ∧
    (regionOf t 1).enccnt = 1 ∧
    tblFind t.mem.coded (codedKey 1 3) = some ⟨lineOfDoubles (decodeBlock (regionRate g) code).1, false, false, 0⟩ ∧
    tblFind u.mem.coded (codedKey 1 3) = none ∧ (z t).pc = 4 := by decide +kernel

/-- CFLUSH of two lines: the first is written back, and then the second. -/
theorem test_flush_lines : let s := physWrite (physWrite (rg up [(1, 0x20000), (2, 128)]) 0x20000 8 77) 0x20040 8 78
    let t := after (.cflush 1 2) s
    let t1 := after (.cflush 1 2) (setReg s 0 2 64)
    let t2 := after (.cflush 1 2) (setReg (setReg { s with mem := t1.mem, pkg := t1.pkg } 0 1 0x20040) 0 2 64)
    translate s (agentOf s 0) false 0x20000 = .ok (.phys 0x20000 false) ∧ t.mem = t2.mem ∧ t.pkg = t2.pkg ∧ (z t).pc = (z t2).pc ∧
    cellsRead t.mem.dram 0x20000 8 = 77 ∧ cellsRead t.mem.dram 0x20040 8 = 78 ∧ runs (.cflush 1 2) (setReg s 0 2 64) = true := by decide

/-- A line of the journal, held with an error whose other copy is good, leaves; and one that loses the entry stops the machine. -/
theorem test_journal_eviction : let s := physWrite idle (64 * 0xBC000010) 8 7
    journalLine 0xBC000010 = true ∧ (tblFind s.mem.l2 0xBC000010).isSome = true ∧ jLost (evictLine false 0xBC000010 false s) = false ∧
    jLost (evictLine false 0xBC000010 true { s with mem := { s.mem with poison := [0x23C000010] } }) = true := by
  refine ⟨by decide, by decide, not_lost _ (by decide) (by decide) (by decide), ?_⟩
  exact List.any_eq_true.mpr ⟨0, List.mem_range.mpr (by decide), by decide⟩

/-! ### Landings, further -/

theorem test_refill_full : let q := List.replicate 64 (ent ra 1)
    let s := land up { Landing.reset with queue := q, spill := [(1, ent ra 70)] }
    let w : WaitEntry := { entry := ent ra 90, counter := ⟨0, 0xA00000, false⟩, eligible := false }
    let r := (List.range 4).map fun i => (i, ent ra (80 + i))
    let f := setPool (land up { Landing.reset with queue := [ent ra 1], spill := r }) 0 [w]
    let t := after (.counterReread 0 0) f
    after (.spillRefill 0 0) s = s ∧ lineBad s 0xC0001 = false ∧ landingFull f 0 0 = false ∧ landingSpcap (dieOf f 0) 0 = 4 ∧
    targetBad f 0 (.phys 0xA00000 false) 8 = false ∧ targetRead f 0 (.phys 0xA00000 false) 8 = 0 ∧ lineBad f 0xC0000 = false ∧
    (landingOf t 0 0).queue.map (·.issuer) = [1, 80] ∧ (landingOf t 0 0).spill.map (·.2.issuer) = [81, 82, 83, 90] := by decide +kernel

/-- A link whose store has issued defers nothing. -/
theorem test_links : let g : TagEntry := ⟨.phys 0x800, some 0, none, false, 0, false, false⟩
    let s := { (st sup fun t => { t with due := true }) with mem := { sup.mem with tags := [g] } }
    let f := { s with mem := { s.mem with tags := [{ g with stored := true }] } }
    let v := st s fun t => { t with linkCount := 256 }
    linksDefer s 0 = true ∧ linksDefer f 0 = false ∧ linksDefer v 0 = false ∧ preemptsHere s 0 = false ∧ preemptsHere f 0 = true ∧
    (z (after (.preemptionTaken 0) f)).slot = .save ∧ after (.preemptionTaken 0) s = s ∧
    (z (after (.linkDeferLimit 0) v)).linkDeferOver = true ∧ after (.linkDeferLimit 0) s = s ∧
    (z (stepped' f)).slot = .save ∧ (z (stepped' s)).pc = 4 := by decide +kernel

/-! ### Collectives, further -/

/-- The descriptor's line has an uncorrectable error. -/
theorem test_coll_mem_ue : let s := hurt cl [0x800]
    engineTarget s (agentOf s 0) .plain false 0x20000 = .ok (.phys 0x20000 false) ∧ targetBad s 0 (.phys 0x20000 false) 64 = true ∧
    (z (after (.collAllreduce 2 0) s)).cause = 0x15 ∧ (z (after (.collBcast 2 0) s)).tval = 0x20000 := by decide

/-- A source or a destination that no page maps: FAULT at the participant. -/
theorem test_coll_faults : let bad := fun (o : Nat) => after (.collAllreduce 2 0) (physWrite cl (0x20000 + o) 8 0x40000000)
    let ends := fun (s : State) => (after (.collectiveEnd 1 2) s).pkg.engine.ops.map (·.ended)
    (match readSources (collOps (bad 16) 1 2) (bad 16) with | (_, .error (o, f)) => (collOf o).rank == 0 && f.1 == 5 | _ => false) = true ∧
    (match readSources (collOps (bad 24) 1 2) (bad 24) with
      | (u, .ok ls) => (match writeResults (ls.flatMap (·.2)) (collOps (bad 24) 1 2) u with | (_, some (o, _)) => (collOf o).rank == 0 | _ => false)
      | _ => false) = true ∧
    ends (bad 16) = [some (statusWord 0x40000000 5 2)] ∧ ends (bad 24) = [some (statusWord 0x40000000 5 2)] ∧
    (collOps (bad 16) 1 2).any (issuerBusy (bad 16)) = false ∧ outcomeOf (after (.collectiveEnd 1 2) (bad 16)) 1 2 = some 3 := by decide

/-- A fault at a participant of another package is PEERFAULT here; a collective that has ended is left as it is. -/
theorem test_peer_fault : let s := { (after (.collAllreduce 2 0) cl) with agenda := [.peerFault 1 2] }
    let t := stepped' s
    outcomeOf s 1 2 = none ∧ t.pkg.engine.ops.map (·.ended) = [some (statusWord 0 0 3)] ∧ outcomeOf t 1 2 = some 3 ∧
    stepped' { t with agenda := [.peerFault 1 2] } = t := by decide +kernel

/-- A local participant, rank 0 of two, whose rank table is at 0x20300, and a contribution of rank 1 from die 0 of package 1. -/
noncomputable def pc (n : Nat) : State :=
  let s := physWrite (physWrite (physWrite cl 0x20000 8 0x0001000200020000) 0x20020 8 0x20300) 0x20300 4 0x10000
  let t := after (.collAllreduce 2 0) { s with net := { s.net with minimal := [(1, 1)] } }
  { t with pkg := { t.pkg with engine := { t.pkg.engine with
      arriving := [⟨⟨0, false, 1, 2, n, 1, 0, 4, 0, 0, 0, 0⟩, [0, 1], [1, 2, 3, 4], 4⟩] } } }

theorem test_arrivals : let ends := fun (s : State) => (after (.contributionArrival 0) s).pkg.engine.ops.map (·.ended)
    let far := { pc 2 with net := { (pc 2).net with minimal := [] } }
    let bad := hurt (pc 2) [0x80C]
    let parts := fun (s : State) => match localParts (collOps s 1 2) s with
      | (u, .ok ps) => (partsMismatch (ps ++ [⟨⟨0, false, 1, 2, 2, 1, 0, 4, 0, 0, 0, 0⟩, [0, 1], 4⟩]), partsLost u ps)
      | (_, .error _) => (true, true)
    outcomeOf (pc 2) 1 2 = none ∧ ends (pc 2) = [none] ∧ ends (pc 3) = [some (statusWord 0 0 1)] ∧
    ends bad = [some (statusWord 0x20300 0x15 2)] ∧ ends far = [some (statusWord 0 0 4)] ∧
    parts (pc 2) = (false, false) ∧ parts far = (false, true) ∧ parts bad = (true, true) ∧
    outcomeOf (after (.contributionArrival 0) (pc 3)) 1 2 = some 1 := by decide

/-- The sums of 1 and 2^-48, of which the second rounds to 0 at the block's fixed point; of NaN, of infinities, and of zeros. -/
theorem test_exact_sum : let d : CollDesc := ⟨0, false, 1, 2, 2, 0, 3, 4, 0, 0, 0, 0⟩
    reduceAll d 0 [[0x3F800000, 0x7FC00000, 0x7F800000, 0], [0x27800000, 0x3F800000, 0x3F800000, 0x80000000]] =
      ([0x3F800000, 0x7FC00000, 0x7F800000, 0], flagNX ||| flagNV) ∧
    reduceAll { d with fast := true } 0 [[0x3F800000, 0, 5, 7]] = ([0x3F800000, 0, 5, 7], 0) ∧
    reduceAll { d with count := 1 } 0 [[0], [0x80000000]] = ([0], 0) := by decide

theorem test_exact_sum_terms : let one := Val.num false (2 ^ 23) (-23)
    let low := Val.num false (2 ^ 23) (-71)
    readFloat fFP32 0x3F800000 = one ∧ readFloat fFP32 0x27800000 = low ∧
    BlockExponent fFP32 (fun x => ∃ k < 1, k / 64 = 0 / 64 ∧ x ∈ [one, low]) 0 ∧
    List.Forall₂ (TermOf (0 - 47)) [one, low] [2 ^ 47, 0] := by
  have h1 : ratOf (Val.num false (2 ^ 23) (-23)) = some 1 := by norm_num [ratOf]
  have h2 : ratOf (Val.num false (2 ^ 23) (-71)) = some (1 / 2 ^ 48) := by norm_num [ratOf]
  refine ⟨by decide, by decide, ⟨by decide, ?_, _, _, ⟨0, by decide, rfl, List.mem_cons_self ..⟩, h1, by norm_num, .inr (by norm_num)⟩,
    .cons ⟨_, h1, by norm_num, fun h => by norm_num at h⟩ (.cons ⟨_, h2, by norm_num, fun _ => by decide⟩ .nil)⟩
  rintro x v ⟨_, _, _, hx⟩ hv
  simp only [List.mem_cons, List.not_mem_nil, or_false] at hx
  rcases hx with rfl | rfl
  · rw [h1] at hv; cases hv; norm_num
  · rw [h2] at hv; cases hv; norm_num

/-! ### Resumes and saves, further -/

/-- A resume record that held bay 0. -/
def rh : Record := ⟨0x4000000001000000, 0x8000000000000001, 0, 0⟩

/-- Its save slot: the format, a configuration of the two-slot class, bay 0 of 4,096 rows, and the slot map 0, 32, 1. -/
def rt : State :=
  let s := physWrite (land up { Landing.reset with saved := [ent rh 70] }) 0x1400000 8 0x09600001
  physWrite (physWrite (physWrite s 0x1400118 8 0x2021) 0x1400180 8 0x40001000) 0x14001A0 3 0x012000

/-- The slot as it reads the save slot. -/
def readied2 : State := setStrand rt 1 { Strand.reset 1 with tag := 7, status := startStatus 1 rh, vault := 0x1000001 }

theorem listGet_map_range {α : Type} (d : α) (f : Nat → α) (n i : Nat) (h : i < n) : listGet d ((List.range n).map f) i = f i := by
  simp [listGet, h]

theorem test_resume_two : (pick rt 0).map (fun p => (p.id, p.resume, resumeHeld p.entry.record)) = some (1, true, 1) ∧
    ∃ m, vaultRead readied2 1 (0x240000 / 8) 0x1400000 = .ok m ∧ listGet 0 m 0 = 0x09600001 ∧ listGet 0 m (0x118 / 8) = 0x2021 ∧
      imageByte m 0x1A0 0 = 0 ∧ imageByte m 0x1A0 1 = 32 ∧ imageByte m 0x1A0 2 = 1 := by
  have h : LowMap readied2 (stLanding (strandOf readied2 1)) :=
    ⟨by decide, by decide, by decide, by decide, by decide, by decide, by decide, by decide, by decide, by decide⟩
  have g : ∀ f : Nat → Word, ∀ i < 294912, listGet 0 ((List.range (0x240000 / 8)).map f) i = f i :=
    fun f i hi => listGet_map_range 0 f _ i hi
  refine ⟨by decide, _, h.vaultRead (0x240000 / 8) 0x1400000 (by decide), ?_, ?_, ?_, ?_, ?_⟩
  · rw [g _ _ (by decide)]; decide
  · rw [g _ _ (by decide)]; decide
  · rw [imageByte, g _ _ (by decide)]; decide
  · rw [imageByte, g _ _ (by decide)]; decide
  · rw [imageByte, g _ _ (by decide)]; decide

/-- Without VAULT.V a save is abandoned with the address that failed. -/
theorem test_save_unvaulted : let t := after (.contextSaveComplete 0) (sv 0x1000000)
    vaultOn (z (sv 0x1000000)) = false ∧ (z t).cause = 0x14 ∧ (z t).tval = 0x1400000 ∧ (z t).due = false ∧
    (arcOf (sv 0)).recency.all (fun r => decide (r < 256)) = true ∧ (arcOf (sv 0)).resident.all (fun r => decide (r ≤ noReg)) = true := by
  decide

/-! ### The host port and graphs, further -/

/-- The Usher has opened its first named register, and the offset behind the named ones. -/
theorem test_opened : let o := usherPlace 0
    0x100000 ≤ o ∧ o < 0x4000000 ∧ o ∈ (usher idle fun u => { u with opened := [o] }).pkg.usher.opened ∧ (0 : Nat) < usherNamed ∧
    (0x100004 : Nat) ∈ (usher idle fun u => { u with opened := [0x100004] }).pkg.usher.opened := by
  refine ⟨by simp only [usherPlace]; omega, by simp only [usherPlace]; omega, List.mem_cons_self .., by decide, List.mem_cons_self ..⟩

/-- A COPY node of 64 bytes from 0x2003D to 0x30003: words cross lines and lie askew. -/
theorem test_copy_askew : let s := nd (physWrite (physWrite idle 0x20038 8 0x1122334455667788) 0x20040 8 0x99AABBCCDDEEFF00) [0x2000000000060000, 0x30003, 0x2003D, 64]
    let t := after (.copyNodeDone 0) (after (.copyNode 0) s)
    nodeBad (readNode s 0x50000) = false ∧ foyerBad s 0x50000 64 = false ∧ (List.range 8).all (fun k => !foyerBad s (0x2003D + 8 * k) 8) = true ∧
    (wk t).map (·.node) = [0x60000] ∧ foyerBad ncopy 0x20000 64 = false ∧
    (List.range 8).map (fun b => targetRead t 0 (.phys (0x30003 + b) false) 1) = [0x33, 0x22, 0x11, 0x00, 0xFF, 0xEE, 0xDD, 0xCC] ∧
    targetRead t 0 (.phys 0x3000D false) 1 = 0x99 ∧ targetRead t 0 (.phys 0x30002 false) 1 = 0 := by decide

/-- A node, or a source, with an uncorrectable error fails the graph. -/
theorem test_bad_nodes : let s := hurt ncopy [0x1400]
    let t := hurt (after (.copyNode 0) ncopy) [0x800]
    foyerBad s 0x50000 64 = true ∧ wk (after (.copyNode 0) s) = [] ∧ foyerBad t 0x20000 64 = true ∧
    (moveNode 0x30000 0x20000 false false 8 0 t).2 = false ∧ wk (after (.copyNodeDone 0) t) = [] ∧
    foyerBad (nk 0 0) 0x50000 64 = false ∧ foyerBad (ncond 4 6) 0x20000 8 = false := by decide

/-! ### The management plane, further -/

theorem test_unloaded : let s := usher up fun u => { u with unloaded := true }
    let t := after .tenantTurnover s
    t.pkg.bringUp = true ∧ t.pkg.fit = false ∧ t.pkg.usher.unloaded = true ∧ (after .fundamentalReset s).pkg.fit = false ∧
    (after .powerOn s).pkg.fit = true ∧ (after .powerOn s).pkg.usher.unloaded = false := by decide +kernel

/-- A core that faults, and a cluster, while a die is out; errors in a line of L2 and in one of memory. -/
theorem test_fatal_further : let o := setDie up 2 { (dieOf up 2) with status := .out }
    let c := after (.coreDisable 5) o
    let d := physWrite up 0x20000 8 77
    partOut o = some 2 ∧ c.pkg.fatal = some (0, 2) ∧ c.pkg.hostFatal = true ∧ c.strands = o.strands ∧
    (moved (.clusterFault 3) o).pkg.fatal = some (0, 2) ∧ (moved (.memoryError 0x800) d).mem.l2Poison = [0x800] ∧
    (moved (.memoryError 0x800) up).mem.poison = [0x800] ∧ (tblFind d.mem.l2 0x800).isSome = true ∧ journalLine 0x800 = false := by decide +kernel

/-- A section of a dump is written from its words. -/
def ds : State := usher up fun u => { u with dumpNext := some 0, dumpWords := [[7, 8]] }

theorem test_dump_section : (moved .dumpSection ds).pkg.usher.dumpNext = some 1 ∧ (listGet [] ds.pkg.usher.dumpWords 0)[1]? = some 8 ∧
    ds.pkg.fatal = none := by decide +kernel

theorem wf_dump : MemoriesWf ds := ⟨by decide, by decide, by decide, by decide⟩

/-- The digest of "abc" that FIPS 180-4 gives. -/
theorem test_sha : sha256 [0x61, 0x62, 0x63] = [0xba, 0x78, 0x16, 0xbf, 0x8f, 0x01, 0xcf, 0xea, 0x41, 0x41, 0x40, 0xde, 0x5d, 0xae, 0x22, 0x23,
    0xb0, 0x03, 0x61, 0xa3, 0x96, 0x17, 0x7a, 0x9c, 0xb4, 0x10, 0xff, 0x61, 0xf2, 0x00, 0x15, 0xad] := by decide +kernel

/-- A die reset with no dirty journal line that is bad; the journal of a replayed LAUNCH keeps the later one. -/
theorem test_journal_further : let e := fun (k q a : Nat) => (⟨k, a, 1, q, 0x50000, 3, 0⟩ : JEntry)
    (up.mem.l2.all fun p => !(p.2.dirty && journalLine p.1) || !lineBad up p.1) = true ∧
    (jOpen [e 1 1 0, e 2 2 1, e 2 3 2, e 5 4 0]).map (·.seq) = [3] ∧ jOpen [e 2 2 1, e 3 3 0] = [] ∧ jOpen [e 2 2 1, e 4 3 0] = [] := by
  decide

/-- One stream of a strand finds a die unreachable; its other streams do not. -/
theorem test_unreachable_streams : let t := after (.unreachableTimeout (sidOf 0 1, 4)) (st fb fun t => { t with slot := .run })
    t.net.unreachable = [(sidOf 0 1, 4)] := by decide +kernel

/-! ## Witnesses: behind entries of the VIQ, and further checks -/

theorem test_newel_traps : let s := rg up [(1, 256), (2, 5), (3, 64), (4, 0), (5, 0x3F), (6, 512), (7, 0x10000)]
    let c := fun (i : Instr) => (z (after i (setCore s 9 { Core.reset with enabled := false }))).cause
    [Instr.seminc 1 2 0 1, .semset 1 2 0 1, .semwait 1 2, .semrd 0 2 0 1, .semrd 5 1 0 1, .barinit 3 2 0 1, .barinit 2 4 0 1,
      .barinit 2 7 0 1, .bararr 4 3 0 0, .barwait 4 6].map c = List.replicate 10 1 ∧
    [Instr.seminc 2 2 9 1, .semset 2 2 9 1, .semrd 5 2 9 1, .barinit 2 5 9 1, .bararr 4 5 9 1].map c = List.replicate 5 0x13 := by
  decide

/-- Four units arrive at a barrier that expects three. -/
theorem test_barovr : let s := after (.barinit 1 2 0 0) (rg up [(1, 5), (2, 3), (3, 0x30005)])
    let t := after (.bararr 8 3 0 0) s
    barOf s 0 5 = ⟨3, 0, false, .normal⟩ ∧ barOf t 0 5 = ⟨3, 1, true, .normal⟩ ∧ (z t).sflags = flagBAROVR ∧ (z s).sflags = 0 := by decide

/-- An SBAR that waits for streams of entries in the VIQ. -/
theorem test_sbar_viq : let s := hd (.vst 2 4 0 0 0 0) .turn vm
    let t := after (.sbarFull 2 1 0) s
    behind (z s) = true ∧ (arcOf s).viq.map (fun e => entryStream e.word) = [some 1] ∧ streamFenced t 0 0 = true ∧
    streamFenced t 0 1 = false ∧ streamFenced (after (.sbarFull 1 1 0) s) 0 0 = false := by decide

theorem test_spawn_checks : let dis := setDie fork 3 { (dieOf fork 3) with status := .disabled }
    let out := setDie fork 0 { (dieOf fork 0) with status := .out }
    let to3 := fun (s : State) => physWrite s 0x00A00028 8 0x020C000000A00000
    (z (after (.spawn 3 2) (rg fork [(2, 0xA00021)]))).cause = 4 ∧
    (z (after (.spawn 3 2) (rg fork [(2, 0x3FFFFFF8)]))).cause = 5 ∧ (z (after (.spawn 3 2) (rg fork [(2, 0x3FFFFFF8)]))).tval = 0x40000000 ∧
    (z (after (.spawn 3 2) out)).blocked = some (.landing 0) ∧ recDie ⟨0, 0x020C000000A00000, 0, 0⟩ = 3 ∧
    (z (after (.spawn 3 2) (to3 dis))).cause = 0x13 ∧ (z (after (.spawn 3 2) (to3 dis))).tval = 384 ∧
    (z (after (.spawnc 5 4 0) fork)).cause = 1 ∧ (z (after (.spawnc 5 4 6) (rg fork [(6, 0xA00003)]))).cause = 4 ∧
    (z (after (.spawn 3 2) (physWrite fork 0x00A00030 8 0xA00003))).cause = 4 := by decide

/-- A SPAWNC of a record that names a join counter: it rises, and the record waits for the other counter. -/
theorem test_spawnc_join : let s := physWrite (rg fork [(1, 0xA02000)]) 0xA02000 8 2
    let t := after (.spawnc 5 2 1) s
    x t 5 = 0 ∧ targetRead t 0 (.phys 0xA00000 false) 8 = 1 ∧ (dieOf t 0).waitPool.map (recJoin ·.entry.record) = [0xA00000] ∧
    endTarget s (agentOf s 0) (sidOf 0 0) true 0xA02000 = .ok (.phys 0xA02000 false) := by decide

/-- A lane's link is made, and its conditional store is done. -/
theorem test_vector_link_loops : let u := tc v1 [1] [3]
    let l := memLoop (fun t e => laneWord t 0 false 0x20008 4 fun g => linkedRead t 0 1 (some e) true g 4) [0] (renewLowest u 0)
    let t := tc (after (.vldl 1 4 3 0 0 0) v1) [2] [3]
    let w := memLoop (fun t e => laneWord t 0 true 0x20008 4 fun g => linkedWrite t 0 1 (some e) g 4 1) [0] (linksStored t 0)
    l.2 = ([(0, 3)], .done) ∧ lowestLane (envOf (arcOf u) none).a 0 0 = some 0 ∧ w.2 = ([(0, true)], .done) := by decide

/-! ### The control side behind an entry that waits -/

/-- A strand whose VADD waits for a message, with a word at its program counter. -/
def wq (i : Instr) : State :=
  let s := hd (.vadd 1 30 2 0 0) .chain (st vi fun t => { t with pc := 0, arc := { t.arc with chainsrc := 0xA00 } })
  placeWord s 0 ((encode i).getD 0).toNat

theorem test_behind_issues : let s := wq (.addi 5 0 7)
    behind (z s) = true ∧ x (stepped' s) 5 = 7 ∧ (z (stepped' s)).arc.viq.length = 1 ∧ (z (stepped' s)).arc.waits = some .chain := by
  decide +kernel

/-- Behind it a vector instruction enters the VIQ; END waits; a word that traps waits. -/
theorem test_behind_waits : (z (stepped' (wq (.vsub 3 2 2 0 0)))).arc.viq.length = 2 ∧
    (z (stepped' (wq .endStrand))).blocked = some .viq ∧ (z (stepped' (wq (.svc 3)))).blocked = some .viq ∧
    (z (stepped' (wq (.svc 3)))).arc.viq.length = 1 := by decide +kernel

/-- Its message has come: the entry completes in the strand's turn, and the control side stays where it is. -/
theorem test_behind_completes : let s := wq (.addi 5 0 7)
    let t := stepped' (st s fun t => { t with arc := { t.arc with chainIn := some (0, 1, [10, 20]) } })
    e4 t 1 = [11, 22, 9, 9] ∧ (z t).arc.viq = [] ∧ (z t).arc.waits = none ∧ (z t).pc = (z s).pc ∧ (z t).arc.chainIn = none := by
  decide +kernel

/-- A VSEND of the chain source waits for its message. -/
theorem test_vsend_chained : let s := st vi fun t => { t with arc := { t.arc with chainsrc := 0xA00 } }
    let t := after (.vsend 30 0) s
    chained (arcOf s) 30 = true ∧ (z t).arc.waits = some .chain ∧ portQueue t 0 1 = [0] ∧ (z t).pc = 4 := by decide

theorem test_parked_wait : (z (after (.parkWake 0) (st up fun t => { t with slot := .park, blocked := some .wait }))).slot = .run ∧
    (z (after (.hostCompletion 0 true) (hd (.vld 1 4 0 0 0 0) (.host none) vm))).arc.waits = some (.host (some true)) ∧
    trapsEarly (z (wq .nop)) (z (st up fun t => { t with status := t.status ||| 8 })) = true := by decide

/-- A copy that waits for an entry of a halted queue would trap, which older entries of the VIQ come before. -/
theorem test_retry_behind : let q : CopyCmd := ⟨9, 0, 0, 0, false, 0, 0, atr 0, atr 64, 16, 0, .halted, 0, 0, 0, 0⟩
    let b := st (setEngine cp 0 1 (List.replicate 16 q)) fun t => { t with blocked := some (.copy 0 1 2 3 1) }
    let s := hd (.vadd 1 30 2 0 0) .chain b
    (z (after (.copyQueueEntry 0) s)).blocked = some (.copy 0 1 2 3 1) ∧ stNest (z (after (.copyQueueEntry 0) s)) = false ∧
    stNest (z (after (.copyQueueEntry 0) b)) = true := by decide

/-! ### Lines, bulk operations, launches -/

/-- A range that begins in one line and ends in the next, whichever registers name it; one within a line. -/
theorem test_flush_ranges : let s := physWrite (physWrite (rg up [(1, 0x2003C), (2, 8), (3, 0x20004)]) 0x20000 8 77) 0x20040 8 78
    let d := fun (t : State) (n : Nat) => (tblFind t.mem.l2 n).map (·.dirty)
    d s 0x800 = some true ∧ d s 0x801 = some true ∧ d (after (.cflush 1 2) s) 0x800 = some false ∧
    d (after (.cflush 1 2) s) 0x801 = some false ∧ d (after (.cflush 3 2) s) 0x800 = some false ∧
    d (after (.cflush 3 2) s) 0x801 = some true ∧ (z (after (.cflush 0 2) s)).pc = 4 := by decide +kernel

theorem test_undercroft_units : let c : UCmd := ⟨0, 0, 1, [(0x100000, [0x200000]), (0x100400, [0x200400])], true⟩
    let s := setDie { ub with mem := { ub.mem with dram := cellsWrite ub.mem.dram 0x200400 8 5, poison := [0x200440 / 64] } } 0
      { (dieOf ub 0) with undercroft := [c] }
    let t := after (.undercroftComplete 0 0) s
    physRead t 0x100000 8 = 0xFF00 ∧ physRead t 0x100400 8 = 5 ∧ t.mem.poison.contains (0x100440 / 64) = true ∧
    t.mem.poison.contains (0x100040 / 64) = false ∧ t.pkg.poisoned = [0] := by decide

/-- The attempt of a launch outlives its DONE. -/
theorem test_attempt_kept : let d := after (.kernelDone 1) (physWrite nf (counterPa 1) 8 0)
    attemptOf nf 1 = 1 ∧ d.pkg.foyer.launches = [] ∧ attemptOf d 1 = 1 := by decide

/-- A dirty coded line that is held bad leaves its carrier bad. -/
theorem test_bad_carrier : let g : Region := { Region.reset with rbase := 0x20000, rsize := 0x10000, rrate := 1 }
    let s := { up with pkg := { up.pkg with regions := [(1, g)] }, mem := { up.mem with
      coded := [(codedKey 1 0, ⟨0, true, false, 0⟩)], codedPoison := [codedKey 1 0] } }
    codedBad s 1 0 = true ∧ lineBad s (blockPa g 0 / 64) = false ∧ lineBad (codecWrite s 1 0) (blockPa g 0 / 64) = true := by decide

/-- The second section of die 0 begins where the first ends, within the area. -/
theorem test_section_places : sectionPa [[1, 2, 3]] 1 = sectionPa [] 0 + 24 + 8 * sectionGap 1 := by
  simp only [sectionPa, dumpSection, dumpSections]
  norm_num [listGet, List.range_succ]
  omega

/-! ## Decoding: a word of every row of the opcode table, from its fixed bits and fields -/

theorem test_decode_02 : ∀ x ∈ [((0x08000000, .nop) : BitVec 32 × Instr), (0x093273D0, .addi 9 18 0x73d0)], decodeWord x.1 =
    x.2 := by decide

theorem test_decode_01_0 : ∀ x ∈ [((0x0532A800, .add 9 18 21) : BitVec 32 × Instr), (0x0532A801, .sub 9 18 21), (0x0532A802,
    .and 9 18 21), (0x0532A803, .or 9 18 21), (0x0532A804, .xor 9 18 21), (0x0532A805, .sll 9 18 21), (0x0532A806, .srl 9 18
    21), (0x0532A807, .sra 9 18 21), (0x0532A808, .slt 9 18 21), (0x0532A809, .sltu 9 18 21), (0x0532A80A, .min 9 18 21),
    (0x0532A80B, .max 9 18 21), (0x0532A80C, .minu 9 18 21), (0x0532A80D, .maxu 9 18 21), (0x0532A810, .mul 9 18 21),
    (0x0532A811, .mulh 9 18 21)], decodeWord x.1 = x.2 := by decide

theorem test_decode_01_1 : ∀ x ∈ [((0x0532A812, .mulhu 9 18 21) : BitVec 32 × Instr), (0x0532A814, .div 9 18 21),
    (0x0532A815, .divu 9 18 21), (0x0532A816, .rem 9 18 21), (0x0532A817, .remu 9 18 21), (0x05320018, .clz 9 18),
    (0x05320019, .ctz 9 18), (0x0532001A, .popc 9 18), (0x0532001B, .sextw 9 18), (0x0532001C, .zextw 9 18), (0x0532A823,
    .addsc 9 18 21 3)], decodeWord x.1 = x.2 := by decide

theorem test_decode_03 : ∀ x ∈ [((0x0D32DDA2, .andi 9 18 0xdda2) : BitVec 32 × Instr)], decodeWord x.1 = x.2 := by decide

theorem test_decode_04 : ∀ x ∈ [((0x11328F4E, .ori 9 18 0x8f4e) : BitVec 32 × Instr)], decodeWord x.1 = x.2 := by decide

theorem test_decode_05 : ∀ x ∈ [((0x1532DB5C, .xori 9 18 0xdb5c) : BitVec 32 × Instr)], decodeWord x.1 = x.2 := by decide

theorem test_decode_06 : ∀ x ∈ [((0x19320765, .slti 9 18 0x765) : BitVec 32 × Instr), (0x19320E40, .sltiu 9 18 0x640)],
    decodeWord x.1 = x.2 := by decide

theorem test_decode_07 : ∀ x ∈ [((0x1D320015, .slli 9 18 21) : BitVec 32 × Instr), (0x1D320815, .srli 9 18 21), (0x1D321015,
    .srai 9 18 21)], decodeWord x.1 = x.2 := by decide

theorem test_decode_08 : ∀ x ∈ [((0x21227735, .lih 9 2 0x7735) : BitVec 32 × Instr), (0x212673AC, .lihZ 9 2 0x73ac)],
    decodeWord x.1 = x.2 := by decide

theorem test_decode_09 : ∀ x ∈ [((0x25320546, .bext 9 18 21 6) : BitVec 32 × Instr), (0x25321546, .bins 9 18 21 6)],
    decodeWord x.1 = x.2 := by decide

theorem test_decode_0a : ∀ x ∈ [((0x29321041, .ldb 9 18 0x1041) : BitVec 32 × Instr), (0x29323B5D, .ldh 9 18 0x1b5d),
    (0x293252CC, .ldw 9 18 0x12cc), (0x29326614, .ldd 9 18 0x614), (0x293285E9, .ldbu 9 18 0x5e9), (0x2932B9BA, .ldhu 9 18
    0x19ba), (0x2932D062, .ldwu 9 18 0x1062), (0x2832EF3A, .pref 1 18 0xf3a)], decodeWord x.1 = x.2 := by decide

theorem test_decode_0c : ∀ x ∈ [((0x31321428, .stb 9 18 0x1428) : BitVec 32 × Instr), (0x313233A6, .sth 9 18 0x13a6),
    (0x31325961, .stw 9 18 0x1961), (0x313265F6, .std 9 18 0x5f6)], decodeWord x.1 = x.2 := by decide

theorem test_decode_0d : ∀ x ∈ [((0x35320304, .ldt 9 18 0x304) : BitVec 32 × Instr), (0x35322E4B, .stt 9 18 0xe4b)],
    decodeWord x.1 = x.2 := by decide

theorem test_decode_0e_0 : ∀ x ∈ [((0x3932A808, .fadd 9 18 21 1) : BitVec 32 × Instr), (0x3932A818, .fsub 9 18 21 1),
    (0x3932A828, .fmul 9 18 21 1), (0x3932A838, .fdiv 9 18 21 1), (0x39320048, .fsqrt 9 18 1), (0x3932A858, .fma 9 18 21 1),
    (0x3932A868, .fmin 9 18 21 1), (0x3932A878, .fmax 9 18 21 1), (0x3932A888, .feq 9 18 21 1), (0x3932A898, .flt 9 18 21
    1), (0x3932A8A8, .fle 9 18 21 1), (0x393200B8, .fclass 9 18 1), (0x393200C0, .fcvtDS 9 18), (0x393208C0, .fcvtSD 9 18),
    (0x393210C0, .fcvtSL 9 18), (0x393218C0, .fcvtDL 9 18)], decodeWord x.1 = x.2 := by decide

theorem test_decode_0e_1 : ∀ x ∈ [((0x393220C0, .fcvtLS 9 18) : BitVec 32 × Instr), (0x393228C0, .fcvtLD 9 18), (0x393230C0,
    .fcvtSLu 9 18), (0x393238C0, .fcvtDLu 9 18), (0x393240C0, .fcvtLuS 9 18), (0x393248C0, .fcvtLuD 9 18)], decodeWord x.1 =
    x.2 := by decide

theorem test_decode_10 : ∀ x ∈ [((0x41324DAC, .beq 9 18 0x4dac) : BitVec 32 × Instr)], decodeWord x.1 = x.2 := by decide

theorem test_decode_11 : ∀ x ∈ [((0x4532244D, .bne 9 18 0x244d) : BitVec 32 × Instr)], decodeWord x.1 = x.2 := by decide

theorem test_decode_12 : ∀ x ∈ [((0x49321737, .blt 9 18 0x1737) : BitVec 32 × Instr)], decodeWord x.1 = x.2 := by decide

theorem test_decode_13 : ∀ x ∈ [((0x4D3289E8, .bge 9 18 0x89e8) : BitVec 32 × Instr)], decodeWord x.1 = x.2 := by decide

theorem test_decode_14 : ∀ x ∈ [((0x5132CF45, .bltu 9 18 0xcf45) : BitVec 32 × Instr)], decodeWord x.1 = x.2 := by decide

theorem test_decode_15 : ∀ x ∈ [((0x5532E3F0, .bgeu 9 18 0xe3f0) : BitVec 32 × Instr)], decodeWord x.1 = x.2 := by decide

theorem test_decode_16 : ∀ x ∈ [((0x58B5B186, .beng 5 1 5 0xb186) : BitVec 32 × Instr)], decodeWord x.1 = x.2 := by decide

theorem test_decode_17 : ∀ x ∈ [((0x5E89ADFE, .jal 0x289adfe) : BitVec 32 × Instr)], decodeWord x.1 = x.2 := by decide

theorem test_decode_18 : ∀ x ∈ [((0x61320AB9, .jalr 9 18 0xab9) : BitVec 32 × Instr)], decodeWord x.1 = x.2 := by decide

theorem test_decode_19 : ∀ x ∈ [((0x640004C4, .svc 0x4c4) : BitVec 32 × Instr), (0x64000800, .rets), (0x640017DC, .brk
    0x7dc), (0x65201B2C, .getc 9 0x32c), (0x640927B8, .setc 9 0x7b8), (0x64092000, .setcStatus 9), (0x64092001, .setcSflags
    9), (0x64092002, .setcVcfg 9), (0x64092008, .setcMxcfg 9), (0x6409200B, .setcVresume 9), (0x6409200D, .setcChainsrc 9),
    (0x64002800, .endStrand), (0x64003000, .yield), (0x64003800, .wait), (0x64004001, .vacq 1), (0x64004800, .vrel)],
    decodeWord x.1 = x.2 := by decide

theorem test_decode_1a : ∀ x ∈ [((0x6932A000, .sbarAcquire 9 18 5) : BitVec 32 × Instr), (0x6932A800, .sbarRelease 9 18 5),
    (0x6932B000, .sbarFull 9 18 5)], decodeWord x.1 = x.2 := by decide

theorem test_decode_1b : ∀ x ∈ [((0x6D32000A, .ldl 9 18 1 1) : BitVec 32 × Instr), (0x6D32A906, .stc 9 18 21 1 1),
    (0x6D32AA0E, .amoAdd 9 18 21 3 1), (0x6D32AA1E, .amoMin 9 18 21 3 1), (0x6D32AA2E, .amoMax 9 18 21 3 1), (0x6D32AA3E,
    .amoMinu 9 18 21 3 1), (0x6D32AA4E, .amoMaxu 9 18 21 3 1), (0x6D32AA5E, .amoAnd 9 18 21 3 1), (0x6D32AA6E, .amoOr 9 18
    21 3 1), (0x6D32AA7E, .amoXor 9 18 21 3 1), (0x6D32AA8E, .amoSwap 9 18 21 3 1), (0x6D32AA9E, .amoCas 9 18 21 3 1)],
    decodeWord x.1 = x.2 := by decide

theorem test_decode_20 : ∀ x ∈ [((0x81320000, .vsetcfg 9 18) : BitVec 32 × Instr), (0x81320800, .vbegin 9 18)], decodeWord
    x.1 = x.2 := by decide

theorem test_decode_21 : ∀ x ∈ [((0x852073F8, .vnext 9 0x73f8) : BitVec 32 × Instr)], decodeWord x.1 = x.2 := by decide

theorem test_decode_22_0 : ∀ x ∈ [((0x8932AD00, .vadd 9 18 21 2 1) : BitVec 32 × Instr), (0x8932AD01, .vsub 9 18 21 2 1),
    (0x8932AD02, .vrsub 9 18 21 2 1), (0x8932AD03, .vmul 9 18 21 2 1), (0x8932AD04, .vmulh 9 18 21 2 1), (0x8932AD05,
    .vmulhu 9 18 21 2 1), (0x8932AD06, .vdiv 9 18 21 2 1), (0x8932AD07, .vdivu 9 18 21 2 1), (0x8932AD08, .vrem 9 18 21 2
    1), (0x8932AD09, .vremu 9 18 21 2 1), (0x8932AD0A, .vand 9 18 21 2 1), (0x8932AD0B, .vor 9 18 21 2 1), (0x8932AD0C,
    .vxor 9 18 21 2 1), (0x8932050D, .vnot 9 18 2 1), (0x8932AD0E, .vsll 9 18 21 2 1), (0x8932AD0F, .vsrl 9 18 21 2 1)],
    decodeWord x.1 = x.2 := by decide

theorem test_decode_22_1 : ∀ x ∈ [((0x8932AD10, .vsra 9 18 21 2 1) : BitVec 32 × Instr), (0x8932AD11, .vmin 9 18 21 2 1),
    (0x8932AD12, .vmax 9 18 21 2 1), (0x8932AD13, .vminu 9 18 21 2 1), (0x8932AD14, .vmaxu 9 18 21 2 1), (0x89320515, .vneg
    9 18 2 1), (0x8932AD16, .vsadd 9 18 21 2 1), (0x8932AD17, .vssub 9 18 21 2 1), (0x8932AD18, .vsaddu 9 18 21 2 1),
    (0x8932AD19, .vssubu 9 18 21 2 1), (0x8932AD1A, .vmadd 9 18 21 2 1), (0x8932051B, .vclz 9 18 2 1), (0x8932051C, .vpopc 9
    18 2 1), (0x8932AD1D, .vwadd 9 18 21 2 1), (0x8932AD1E, .vwmul 9 18 21 2 1), (0x8932AD1F, .vnsrl 9 18 21 2 1)],
    decodeWord x.1 = x.2 := by decide

theorem test_decode_22_2 : ∀ x ∈ [((0x8932AD20, .vnclip 9 18 21 2 1) : BitVec 32 × Instr)], decodeWord x.1 = x.2 := by
    decide

theorem test_decode_23_0 : ∀ x ∈ [((0x8D32AD00, .vaddS 9 18 21 2 1) : BitVec 32 × Instr), (0x8D32AD01, .vsubS 9 18 21 2 1),
    (0x8D32AD02, .vrsubS 9 18 21 2 1), (0x8D32AD03, .vmulS 9 18 21 2 1), (0x8D32AD04, .vmulhS 9 18 21 2 1), (0x8D32AD05,
    .vmulhuS 9 18 21 2 1), (0x8D32AD06, .vdivS 9 18 21 2 1), (0x8D32AD07, .vdivuS 9 18 21 2 1), (0x8D32AD08, .vremS 9 18 21
    2 1), (0x8D32AD09, .vremuS 9 18 21 2 1), (0x8D32AD0A, .vandS 9 18 21 2 1), (0x8D32AD0B, .vorS 9 18 21 2 1), (0x8D32AD0C,
    .vxorS 9 18 21 2 1), (0x8D32AD0E, .vsllS 9 18 21 2 1), (0x8D32AD0F, .vsrlS 9 18 21 2 1), (0x8D32AD10, .vsraS 9 18 21 2
    1)], decodeWord x.1 = x.2 := by decide

theorem test_decode_23_1 : ∀ x ∈ [((0x8D32AD11, .vminS 9 18 21 2 1) : BitVec 32 × Instr), (0x8D32AD12, .vmaxS 9 18 21 2 1),
    (0x8D32AD13, .vminuS 9 18 21 2 1), (0x8D32AD14, .vmaxuS 9 18 21 2 1), (0x8D32AD16, .vsaddS 9 18 21 2 1), (0x8D32AD17,
    .vssubS 9 18 21 2 1), (0x8D32AD18, .vsadduS 9 18 21 2 1), (0x8D32AD19, .vssubuS 9 18 21 2 1), (0x8D32AD1A, .vmaddS 9 18
    21 2 1), (0x8D32AD1D, .vwaddS 9 18 21 2 1), (0x8D32AD1E, .vwmulS 9 18 21 2 1), (0x8D32AD1F, .vnsrlS 9 18 21 2 1),
    (0x8D32AD20, .vnclipS 9 18 21 2 1), (0x8D32AD21, .vfieldS 9 18 21 2 1)], decodeWord x.1 = x.2 := by decide

theorem test_decode_24 : ∀ x ∈ [((0x9132AD00, .vfadd 9 18 21 2 1) : BitVec 32 × Instr), (0x9132AD01, .vfsub 9 18 21 2 1),
    (0x9132AD02, .vfmul 9 18 21 2 1), (0x9132AD03, .vfdiv 9 18 21 2 1), (0x91320504, .vfsqrt 9 18 2 1), (0x9132AD05, .vfma 9
    18 21 2 1), (0x9132AD06, .vfmin 9 18 21 2 1), (0x9132AD07, .vfmax 9 18 21 2 1), (0x9132AD08, .vfcvt 9 18 21 2 1),
    (0x91320509, .vfclass 9 18 2 1), (0x9132050A, .vlog2 9 18 2 1), (0x9132050B, .vexp2 9 18 2 1)], decodeWord x.1 = x.2 :=
    by decide

theorem test_decode_25 : ∀ x ∈ [((0x9532AD00, .vfaddS 9 18 21 2 1) : BitVec 32 × Instr), (0x9532AD01, .vfsubS 9 18 21 2 1),
    (0x9532AD02, .vfmulS 9 18 21 2 1), (0x9532AD03, .vfdivS 9 18 21 2 1), (0x9532AD05, .vfmaS 9 18 21 2 1), (0x9532AD06,
    .vfminS 9 18 21 2 1), (0x9532AD07, .vfmaxS 9 18 21 2 1)], decodeWord x.1 = x.2 := by decide

theorem test_decode_26_0 : ∀ x ∈ [((0x9832AD00, .vcmpeq 1 18 21 2 1) : BitVec 32 × Instr), (0x9832AD80, .vcmpeqS 1 18 21 2
    1), (0x9832AD01, .vcmpne 1 18 21 2 1), (0x9832AD81, .vcmpneS 1 18 21 2 1), (0x9832AD02, .vcmplt 1 18 21 2 1),
    (0x9832AD82, .vcmpltS 1 18 21 2 1), (0x9832AD03, .vcmpltu 1 18 21 2 1), (0x9832AD83, .vcmpltuS 1 18 21 2 1),
    (0x9832AD04, .vcmple 1 18 21 2 1), (0x9832AD84, .vcmpleS 1 18 21 2 1), (0x9832AD05, .vcmpleu 1 18 21 2 1), (0x9832AD85,
    .vcmpleuS 1 18 21 2 1), (0x9832AD08, .vfcmpeq 1 18 21 2 1), (0x9832AD88, .vfcmpeqS 1 18 21 2 1), (0x9832AD09, .vfcmplt 1
    18 21 2 1), (0x9832AD89, .vfcmpltS 1 18 21 2 1)], decodeWord x.1 = x.2 := by decide

theorem test_decode_26_1 : ∀ x ∈ [((0x9832AD0A, .vfcmple 1 18 21 2 1) : BitVec 32 × Instr), (0x9832AD8A, .vfcmpleS 1 18 21 2
    1)], decodeWord x.1 = x.2 := by decide

theorem test_decode_27 : ∀ x ∈ [((0x9C220800, .mand 1 2 1) : BitVec 32 × Instr), (0x9C220801, .mor 1 2 1), (0x9C220802,
    .mxor 1 2 1), (0x9C220803, .mandn 1 2 1), (0x9C220004, .mnot 1 2), (0x9C220505, .msbf 1 2 2 1), (0x9C220506, .msif 1 2 2
    1), (0x9D220507, .mfirst 9 2 2 1), (0x9D220508, .mcount 9 2 2 1), (0x9D220509, .viota 9 2 2 1)], decodeWord x.1 = x.2 :=
    by decide

theorem test_decode_28 : ∀ x ∈ [((0xA0325500, .vsrch 1 18 5 2 1) : BitVec 32 × Instr), (0xA0325501, .vsrchr 1 18 5 2 1),
    (0xA122A802, .vtwr 9 2 21), (0xA132AD03, .vhamm 9 18 21 2 1), (0xA032AD04, .vtopkMax 1 18 21 2 1), (0xA032AD05,
    .vtopkMin 1 18 21 2 1)], decodeWord x.1 = x.2 := by decide

theorem test_decode_29 : ∀ x ∈ [((0xA5320500, .vredsum 9 18 2 1) : BitVec 32 × Instr), (0xA5320501, .vredmax 9 18 2 1),
    (0xA5320502, .vredmin 9 18 2 1), (0xA5320503, .vredmaxu 9 18 2 1), (0xA5320504, .vredminu 9 18 2 1), (0xA5320505,
    .vredand 9 18 2 1), (0xA5320506, .vredor 9 18 2 1), (0xA5320507, .vredxor 9 18 2 1), (0xA5320508, .vfredsum 9 18 2 1),
    (0xA6520509, .vmaxi 9 18 2 1), (0xA652050A, .vmini 9 18 2 1)], decodeWord x.1 = x.2 := by decide

theorem test_decode_2a : ∀ x ∈ [((0xA932AD00, .vgathr 9 18 21 2 1) : BitVec 32 × Instr), (0xA932AD01, .vshup 9 18 21 2 1),
    (0xA932AD02, .vshdn 9 18 21 2 1), (0xA932AD03, .vbcst 9 18 21 2 1), (0xA932A804, .vext 9 18 21), (0xA932A805, .vins 9 18
    21), (0xA9320506, .vcomp 9 18 2), (0xA932AD07, .vbperm 9 18 21 2 1), (0xA9320508, .vmv 9 18 2 1), (0xA934F509, .vmvi 9
    0x29e 2 1), (0xA932AD0A, .vmerge 9 18 21 2), (0xA920050B, .vid 9 2 1)], decodeWord x.1 = x.2 := by decide

theorem test_decode_2b : ∀ x ∈ [((0xAD320588, .vld 9 18 2 1 1 1) : BitVec 32 × Instr), (0xAD32AD98, .vlds 9 18 21 2 1 1 1),
    (0xAD32ADA0, .vldx 9 18 21 2 1 1), (0xAD3205B8, .vldff 9 18 2 1 1 1)], decodeWord x.1 = x.2 := by decide

theorem test_decode_2c : ∀ x ∈ [((0xB1320588, .vst 9 18 2 1 1 1) : BitVec 32 × Instr), (0xB132AD98, .vsts 9 18 21 2 1 1 1),
    (0xB132ADA0, .vstx 9 18 21 2 1 1), (0xB132ADB0, .vstxo 9 18 21 2 1 1), (0xB132ADC0, .vappend 9 18 21 2 1 1)], decodeWord
    x.1 = x.2 := by decide

theorem test_decode_2d : ∀ x ∈ [((0xB532AD80, .vldl 9 18 21 2 1 1) : BitVec 32 × Instr), (0xB532AD91, .vstc 9 18 21 2 1 1
    1), (0xB532ADA5, .vamo 9 18 21 2 1 1 5), (0xB532ADB5, .vamoAcq 9 18 21 2 1 1 5), (0xB532ADC5, .vamoRel 9 18 21 2 1 1 5),
    (0xB532ADD5, .vamoAr 9 18 21 2 1 1 5), (0xB532ADE7, .vwaitm 9 18 21 2 1 1 1 3)], decodeWord x.1 = x.2 := by decide

theorem test_decode_2e : ∀ x ∈ [((0xB8090500, .vsclset 9 2 1) : BitVec 32 × Instr), (0xB8090501, .vbscale 9 2 1),
    (0xB9320502, .vquant 9 18 2 1), (0xB9320503, .vdeq 9 18 2 1), (0xB8320004, .vcbld 1 18), (0xB9320D05, .vcbx 9 18 1 2 1),
    (0xB9320506, .vcvtl 9 18 2 1)], decodeWord x.1 = x.2 := by decide

theorem test_decode_30 : ∀ x ∈ [((0xC0090000, .mxcfg 9) : BitVec 32 × Instr), (0xC0600001, .mxtld 1 1), (0xC0200002, .mxtsel
    1), (0xC2F70003, .mxr 0x17b 1), (0xC133C004, .mxdrn 9 0x13c), (0xC134D005, .mxdrs 9 0x14d), (0xC0A20006, .mxclr 0x51),
    (0xC0600007, .mxfclr 1 1), (0xC0000008, .mxwait)], decodeWord x.1 = x.2 := by decide

theorem test_decode_31 : ∀ x ∈ [((0xC532AE00, .cpy 9 18 21 3) : BitVec 32 × Instr), (0xC5325640, .cpy2d 9 18 5 3),
    (0xC5325680, .cpyg 9 18 5 3), (0xC532AEC0, .cpyf 9 18 21 3), (0xC6520300, .cpyres 9 18 1)], decodeWord x.1 = x.2 := by
    decide

theorem test_decode_32 : ∀ x ∈ [((0xC932A008, .seminc 9 18 0x140 1) : BitVec 32 × Instr), (0xC9320409, .semset 9 18 0x8 1),
    (0xC9320002, .semwait 9 18), (0xC932D50B, .semrd 9 18 0x1aa 1), (0xC932878C, .barinit 9 18 0x10f 1), (0xC932108D,
    .bararr 9 18 0x21 1), (0xC9320006, .barwait 9 18)], decodeWord x.1 = x.2 := by decide

theorem test_decode_33 : ∀ x ∈ [((0xCD200001, .vsend 9 1) : BitVec 32 × Instr), (0xCC000F83, .vchain 0x1f 1)], decodeWord
    x.1 = x.2 := by decide

theorem test_decode_34 : ∀ x ∈ [((0xD1320000, .spawn 9 18) : BitVec 32 × Instr), (0xD132A801, .spawnc 9 18 21), (0xD1320002,
    .jdec 9 18), (0xD1320003, .lread 9 18)], decodeWord x.1 = x.2 := by decide

theorem test_decode_35 : ∀ x ∈ [((0xD5320000, .cflush 9 18) : BitVec 32 × Instr), (0xD5320800, .cinv 9 18), (0xD5321000,
    .cpref 9 18), (0xD5321804, .tlbinv 9 18 4)], decodeWord x.1 = x.2 := by decide

theorem test_decode_36 : ∀ x ∈ [((0xDA400008, .ubulkZero 9 1) : BitVec 32 × Instr), (0xDA520001, .ubulkCopy 9 18),
    (0xDA4C0002, .ubulkAnd 9 6), (0xDA4C0003, .ubulkOr 9 6), (0xDA580004, .ubulkMaj3 9 6), (0xDA520005, .ubulkNot 9 18),
    (0xD9200800, .uwait 9)], decodeWord x.1 = x.2 := by decide

theorem test_decode_37 : ∀ x ∈ [((0xDD320005, .hpost 9 18 5) : BitVec 32 × Instr), (0xDD320800, .gsig 9 18)], decodeWord x.1
    = x.2 := by decide

theorem test_decode_38 : ∀ x ∈ [((0xE0090004, .collAllreduce 9 1) : BitVec 32 × Instr), (0xE0090005, .collRedscat 9 1),
    (0xE0090006, .collAllgath 9 1), (0xE0090007, .collBcast 9 1), (0xE1320800, .collw 9 18), (0xE2521000, .fput 9 18),
    (0xE2521800, .fget 9 18)], decodeWord x.1 = x.2 := by decide

/-! ## Ill-formed terms: one for each check, refused by the check and by the decoder -/

/-- R41: an instruction whose only effect is a scalar write may not name s0. -/
theorem test_ill_zero_0 : ∀ x ∈ [((0x04031800, .add 0 3 3) : BitVec 32 × Instr), (0x04031801, .sub 0 3 3), (0x04031802,
    .and 0 3 3), (0x04031803, .or 0 3 3), (0x04031804, .xor 0 3 3), (0x04031805, .sll 0 3 3), (0x04031806, .srl 0 3 3),
    (0x04031807, .sra 0 3 3), (0x04031808, .slt 0 3 3), (0x04031809, .sltu 0 3 3), (0x0403180A, .min 0 3 3),
    (0x0403180B, .max 0 3 3), (0x0403180C, .minu 0 3 3), (0x0403180D, .maxu 0 3 3), (0x04031810, .mul 0 3 3),
    (0x04031811, .mulh 0 3 3), (0x04031812, .mulhu 0 3 3), (0x04031814, .div 0 3 3)], wellFormed x.2 = false ∧
    decodeWord x.1 = .illegalInstruction x.1 := by decide

/-- R41: an instruction whose only effect is a scalar write may not name s0. -/
theorem test_ill_zero_1 : ∀ x ∈ [((0x04031815, .divu 0 3 3) : BitVec 32 × Instr), (0x04031816, .rem 0 3 3), (0x04031817,
    .remu 0 3 3), (0x04030018, .clz 0 3), (0x04030019, .ctz 0 3), (0x0403001A, .popc 0 3), (0x0403001B, .sextw 0 3),
    (0x0403001C, .zextw 0 3), (0x04031821, .addsc 0 3 3 1), (0x08030003, .addi 0 3 3), (0x0C030003, .andi 0 3 3),
    (0x10030003, .ori 0 3 3), (0x14030003, .xori 0 3 3), (0x18030003, .slti 0 3 3), (0x18030803, .sltiu 0 3 3),
    (0x1C030003, .slli 0 3 3), (0x1C030803, .srli 0 3 3), (0x1C031003, .srai 0 3 3)], wellFormed x.2 = false ∧
    decodeWord x.1 = .illegalInstruction x.1 := by decide

/-- R41: an instruction whose only effect is a scalar write may not name s0. -/
theorem test_ill_zero_2 : ∀ x ∈ [((0x20010003, .lih 0 1 3) : BitVec 32 × Instr), (0x20050003, .lihZ 0 1 3), (0x240300C3,
    .bext 0 3 3 3), (0x240310C3, .bins 0 3 3 3), (0x28030003, .ldb 0 3 3), (0x28032003, .ldh 0 3 3), (0x28034003, .ldw 0
    3 3), (0x28036003, .ldd 0 3 3), (0x28038003, .ldbu 0 3 3), (0x2803A003, .ldhu 0 3 3), (0x2803C003, .ldwu 0 3 3),
    (0x34030003, .ldt 0 3 3), (0x38031808, .fadd 0 3 3 1), (0x38031818, .fsub 0 3 3 1), (0x38031828, .fmul 0 3 3 1),
    (0x38031838, .fdiv 0 3 3 1), (0x38030048, .fsqrt 0 3 1), (0x38031858, .fma 0 3 3 1)], wellFormed x.2 = false ∧
    decodeWord x.1 = .illegalInstruction x.1 := by decide

/-- R41: an instruction whose only effect is a scalar write may not name s0. -/
theorem test_ill_zero_3 : ∀ x ∈ [((0x38031868, .fmin 0 3 3 1) : BitVec 32 × Instr), (0x38031878, .fmax 0 3 3 1),
    (0x38031888, .feq 0 3 3 1), (0x38031898, .flt 0 3 3 1), (0x380318A8, .fle 0 3 3 1), (0x380300B8, .fclass 0 3 1),
    (0x380300C0, .fcvtDS 0 3), (0x380308C0, .fcvtSD 0 3), (0x380310C0, .fcvtSL 0 3), (0x380318C0, .fcvtDL 0 3),
    (0x380320C0, .fcvtLS 0 3), (0x380328C0, .fcvtLD 0 3), (0x380330C0, .fcvtSLu 0 3), (0x380338C0, .fcvtDLu 0 3),
    (0x380340C0, .fcvtLuS 0 3), (0x380348C0, .fcvtLuD 0 3), (0x64001803, .getc 0 3), (0x9C010307, .mfirst 0 1 1 1)],
    wellFormed x.2 = false ∧ decodeWord x.1 = .illegalInstruction x.1 := by decide

/-- R41: an instruction whose only effect is a scalar write may not name s0. -/
theorem test_ill_zero_4 : ∀ x ∈ [((0x9C010308, .mcount 0 1 1 1) : BitVec 32 × Instr), (0xA4030300, .vredsum 0 3 1 1),
    (0xA4030301, .vredmax 0 3 1 1), (0xA4030302, .vredmin 0 3 1 1), (0xA4030303, .vredmaxu 0 3 1 1), (0xA4030304,
    .vredminu 0 3 1 1), (0xA4030305, .vredand 0 3 1 1), (0xA4030306, .vredor 0 3 1 1), (0xA4030307, .vredxor 0 3 1 1),
    (0xA4030308, .vfredsum 0 3 1 1), (0xA8031804, .vext 0 3 3), (0xC803018B, .semrd 0 3 3 1), (0xD0030003, .lread 0 3)],
    wellFormed x.2 = false ∧ decodeWord x.1 = .illegalInstruction x.1 := by decide

/-- R49: a field that ends above bit 63. -/
theorem test_ill_field : ∀ x ∈ [((0x24630A18, .bext 3 3 40 24) : BitVec 32 × Instr), (0x24631A18, .bins 3 3 40 24)],
    wellFormed x.2 = false ∧ decodeWord x.1 = .illegalInstruction x.1 := by decide

/-- R51: BENG names one of seven engagements. -/
theorem test_ill_beng : ∀ x ∈ [((0x58F30003, .beng 7 1 3 3) : BitVec 32 × Instr)], wellFormed x.2 = false ∧ decodeWord
    x.1 = .illegalInstruction x.1 := by decide

/-- The control registers that have rows of their own are not the general row. -/
theorem test_ill_setc : ∀ x ∈ [((0x64032000, .setc 3 0) : BitVec 32 × Instr), (0x64032001, .setc 3 1), (0x64032002,
    .setc 3 2), (0x64032008, .setc 3 8), (0x6403200B, .setc 3 11), (0x6403200D, .setc 3 13), (0x64032402, .setc 3
    1026)], wellFormed x.2 = false ∧ decodeWord x.1 ≠ x.2 := by decide

/-- R53: VACQ asks for one to four slots. -/
theorem test_ill_vacq : ∀ x ∈ [((0x64004000, .vacq 0) : BitVec 32 × Instr), (0x64004005, .vacq 5)], wellFormed x.2 =
    false ∧ decodeWord x.1 = .illegalInstruction x.1 := by decide

/-- R53: the scopes of SBAR. -/
theorem test_ill_sbar : ∀ x ∈ [((0x6863C000, .sbarAcquire 3 3 6) : BitVec 32 × Instr), (0x6863C800, .sbarRelease 3 3 6),
    (0x6863D000, .sbarFull 3 3 6)], wellFormed x.2 = false ∧ decodeWord x.1 = .illegalInstruction x.1 := by decide

/-- R57: source format 15. -/
theorem test_ill_cvt : ∀ x ∈ [((0x90637B08, .vfcvt 3 3 15 1 1) : BitVec 32 × Instr)], wellFormed x.2 = false ∧
    decodeWord x.1 = .illegalInstruction x.1 := by decide

/-- R55, R59: an operation above 9, and CAS with an odd destination or v30. -/
theorem test_ill_vamo : ∀ x ∈ [((0xB4831BAA, .vamo 4 3 3 1 1 1 10) : BitVec 32 × Instr), (0xB4A31BA9, .vamo 5 3 3 1 1 1
    9), (0xB7C31BA9, .vamo 30 3 3 1 1 1 9), (0xB4831BBA, .vamoAcq 4 3 3 1 1 1 10), (0xB4A31BB9, .vamoAcq 5 3 3 1 1 1 9),
    (0xB7C31BB9, .vamoAcq 30 3 3 1 1 1 9), (0xB4831BCA, .vamoRel 4 3 3 1 1 1 10), (0xB4A31BC9, .vamoRel 5 3 3 1 1 1 9),
    (0xB7C31BC9, .vamoRel 30 3 3 1 1 1 9), (0xB4831BDA, .vamoAr 4 3 3 1 1 1 10), (0xB4A31BD9, .vamoAr 5 3 3 1 1 1 9),
    (0xB7C31BD9, .vamoAr 30 3 3 1 1 1 9)], wellFormed x.2 = false ∧ decodeWord x.1 = .illegalInstruction x.1 := by
    decide

/-- R60: MXFCLR with no flag. -/
theorem test_ill_mxf : ∀ x ∈ [((0xC0000007, .mxfclr 0 0) : BitVec 32 × Instr)], wellFormed x.2 = false ∧ decodeWord x.1
    = .illegalInstruction x.1 := by decide

/-- R62: a coordinate with REM = 0. -/
theorem test_ill_rem : ∀ x ∈ [((0xC8630380, .seminc 3 3 7 0) : BitVec 32 × Instr), (0xC8630381, .semset 3 3 7 0),
    (0xC8630383, .semrd 3 3 7 0), (0xC8630384, .barinit 3 3 7 0), (0xC8630385, .bararr 3 3 7 0)], wellFormed x.2 = false
    ∧ decodeWord x.1 = .illegalInstruction x.1 := by decide

/-- R62: the scopes of TLBINV. -/
theorem test_ill_tlb : ∀ x ∈ [((0xD4631805, .tlbinv 3 3 5) : BitVec 32 × Instr)], wellFormed x.2 = false ∧ decodeWord
    x.1 = .illegalInstruction x.1 := by decide

/-- R62: row 0 or bay 0 of the bulk operations, FPUT and FGET. -/
theorem test_ill_bulk : ∀ x ∈ [((0xD8000008, .ubulkZero 0 1) : BitVec 32 × Instr), (0xD8030001, .ubulkCopy 0 3),
    (0xD8C00001, .ubulkCopy 3 0), (0xD8060002, .ubulkAnd 0 3), (0xD8C00002, .ubulkAnd 3 0), (0xD8060003, .ubulkOr 0 3),
    (0xD8C00003, .ubulkOr 3 0), (0xD80C0004, .ubulkMaj3 0 3), (0xD8C00004, .ubulkMaj3 3 0), (0xD8030005, .ubulkNot 0 3),
    (0xD8C00005, .ubulkNot 3 0), (0xE0031000, .fput 0 3), (0xE0031800, .fget 0 3)], wellFormed x.2 = false ∧ decodeWord
    x.1 = .illegalInstruction x.1 := by decide

/-- R40: the guard words are GUARD alone. -/
theorem test_ill_guard : wellFormed (.guard 5) = false ∧ wellFormed (.illegalInstruction 0) = false ∧
    decodeWord 0 = .guard 0 ∧ decodeWord 0xFFFFFFFF = .guard 0xFFFFFFFF := by decide

end Sys2Proof.Tests
end

namespace Sys2Proof.Machine

/-! ## Folds over the state -/

/-- What every step of a fold keeps, the fold keeps. -/
theorem foldl_keeps {α β : Type} (P : State → β) (f : State → α → State) (h : ∀ u x, P (f u x) = P u) (l : List α) (s : State) :
    P (l.foldl f s) = P s := by
  induction l generalizing s with
  | nil => rfl
  | cons x r ih => exact (ih (f s x)).trans (h s x)

/-! ## Reports -/

@[simp] theorem addReport_strands (s : State) (k n : Nat) : (addReport s k n).strands = s.strands := rfl
@[simp] theorem addReport_cores (s : State) (k n : Nat) : (addReport s k n).cores = s.cores := rfl
@[simp] theorem reportLoss_strands (s : State) (tag : Nat) : (reportLoss s tag).strands = s.strands := rfl
@[simp] theorem reportLoss_losses (s : State) (tag : Nat) :
    (reportLoss s tag).pkg.foyer.losses = s.pkg.foyer.losses ++ [tag] := rfl
@[simp] theorem strandOf_reportLoss (s : State) (tag j : Nat) : strandOf (reportLoss s tag) j = strandOf s j := rfl
@[simp] theorem coreOf_modCore (s : State) (c : Nat) (f : Core → Core) : coreOf (modCore s c f) c = f (coreOf s c) := by
  simp [modCore]
@[simp] theorem modCore_strands (s : State) (c : Nat) (f : Core → Core) : (modCore s c f).strands = s.strands := rfl
@[simp] theorem modCore_pkg (s : State) (c : Nat) (f : Core → Core) : (modCore s c f).pkg = s.pkg := rfl
@[simp] theorem modCore_mem (s : State) (c : Nat) (f : Core → Core) : (modCore s c f).mem = s.mem := rfl
@[simp] theorem modCore_dies (s : State) (c : Nat) (f : Core → Core) : (modCore s c f).dies = s.dies := rfl
@[simp] theorem strandOf_modCore (s : State) (c : Nat) (f : Core → Core) (j : Nat) : strandOf (modCore s c f) j = strandOf s j := rfl

/-! ## A slot that becomes FREE (R79) touches its own strand alone, and nothing of the package -/

theorem strandOf_congr {s t : State} (h : t.strands = s.strands) (j : Nat) : strandOf t j = strandOf s j := by
  simp only [strandOf, h]

@[simp] theorem withdrawRequest_strands (s : State) (id : Nat) : (withdrawRequest s id).strands = s.strands := by
  unfold withdrawRequest
  dsimp only
  split <;> rfl

@[simp] theorem withdrawRequest_pkg (s : State) (id : Nat) : (withdrawRequest s id).pkg = s.pkg := by
  unfold withdrawRequest
  dsimp only
  split <;> rfl

@[simp] theorem returnMessage_pkg (s : State) (id : Nat) : (returnMessage s id).pkg = s.pkg := by
  unfold returnMessage
  split <;> rfl

theorem strandOf_returnMessage_ne (s : State) (id j : Nat) (h : j ≠ id) : strandOf (returnMessage s id) j = strandOf s j := by
  unfold returnMessage
  split
  · rfl
  · exact strandOf_modStrand_ne _ _ _ _ h

@[simp] theorem resetDeficit_strands (s : State) (c l : Nat) : (resetDeficit s c l).strands = s.strands := by
  unfold resetDeficit
  split <;> rfl

@[simp] theorem resetDeficit_pkg (s : State) (c l : Nat) : (resetDeficit s c l).pkg = s.pkg := by
  unfold resetDeficit
  split <;> rfl

@[simp] theorem releaseBays_pkg (s : State) (id : Nat) : (releaseBays s id).pkg = s.pkg := by
  simp [releaseBays]

theorem strandOf_releaseBays_ne (s : State) (id j : Nat) (h : j ≠ id) : strandOf (releaseBays s id) j = strandOf s j := by
  unfold releaseBays
  rw [strandOf_congr (resetDeficit_strands ..), strandOf_modStrand_ne _ _ _ _ h, strandOf_modCore]

@[simp] theorem freeArea_strands (s : State) (die l : Nat) (a : Option Nat) : (freeArea s die l a).strands = s.strands := by
  cases a <;> rfl

@[simp] theorem freeArea_pkg (s : State) (die l : Nat) (a : Option Nat) : (freeArea s die l a).pkg = s.pkg := by
  cases a <;> rfl

@[simp] theorem strandOf_freeSlot (s : State) (id : Nat) (area : Bool) : strandOf (freeSlot s id area) id = Strand.reset id := by
  simp [freeSlot]

theorem strandOf_freeSlot_ne (s : State) (id j : Nat) (area : Bool) (h : j ≠ id) :
    strandOf (freeSlot s id area) j = strandOf s j := by
  have before : strandOf (releaseBays (withdrawRequest (returnMessage s id) id) id) j = strandOf s j := by
    rw [strandOf_releaseBays_ne _ _ _ h, strandOf_congr (withdrawRequest_strands ..), strandOf_returnMessage_ne _ _ _ h]
  rw [freeSlot, strandOf_setStrand_ne _ _ _ _ h]
  split
  · rw [strandOf_congr (freeArea_strands ..), strandOf_modCore, strandOf_congr (breakStrand_strands ..), before]
  · rw [strandOf_modCore, strandOf_congr (breakStrand_strands ..), before]

@[simp] theorem freeSlot_pkg (s : State) (id : Nat) (area : Bool) : (freeSlot s id area).pkg = s.pkg := by
  cases area <;> simp [freeSlot]

/-! ## Losing strands (R281) -/

@[simp] theorem endColl_strands (s : State) (g c k : Nat) (f : EngineOp → Word × Word) : (endColl s g c k f).strands = s.strands := rfl
@[simp] theorem endColl_foyer (s : State) (g c k : Nat) (f : EngineOp → Word × Word) : (endColl s g c k f).pkg.foyer = s.pkg.foyer := rfl

/-- Abandoning an issuer's operations changes nothing that the collective engine does not hold. -/
theorem abandonOps_keeps {β : Type} (P : State → β) (h : ∀ u f, P (modEngine u f) = P u)
    (draw : ∀ u : State, P { u with free := u.free + 1 } = P u) (s : State) (g : Nat) : P (abandonOps s g) = P s := by
  unfold abandonOps
  refine (h _ _).trans ((draw _).trans (foldl_keeps P _ (fun u o => ?_) _ s))
  cases o.coll with
  | none => rfl
  | some d => exact h u _

@[simp] theorem abandonOps_strands (s : State) (g : Nat) : (abandonOps s g).strands = s.strands :=
  abandonOps_keeps (·.strands) (fun _ _ => rfl) (fun _ => rfl) s g

@[simp] theorem abandonOps_foyer (s : State) (g : Nat) : (abandonOps s g).pkg.foyer = s.pkg.foyer :=
  abandonOps_keeps (·.pkg.foyer) (fun _ _ => rfl) (fun _ => rfl) s g

@[simp] theorem endClaim_strands (s : State) (c g : Nat) : (endClaim s c g).strands = s.strands := by
  unfold endClaim
  split
  · split <;> rfl
  · rfl

@[simp] theorem endClaim_pkg (s : State) (c g : Nat) : (endClaim s c g).pkg = s.pkg := by
  unfold endClaim
  split
  · split <;> rfl
  · rfl

@[simp] theorem abandonCopies_strands (s : State) (cl g : Nat) (a : Bool) : (abandonCopies s cl g a).strands = s.strands := rfl
@[simp] theorem abandonCopies_pkg (s : State) (cl g : Nat) (a : Bool) : (abandonCopies s cl g a).pkg = s.pkg := rfl

@[simp] theorem strandOf_loseStrand (s : State) (id : Nat) : strandOf (loseStrand s id) id = Strand.reset id := by
  simp [loseStrand, abortStrand]

theorem strandOf_loseStrand_ne (s : State) (id j : Nat) (h : j ≠ id) : strandOf (loseStrand s id) j = strandOf s j := by
  rw [loseStrand, strandOf_reportLoss, abortStrand, strandOf_freeSlot_ne _ _ _ _ h, strandOf_congr (endClaim_strands ..),
    strandOf_congr (abandonOps_strands ..), strandOf_congr (abandonCopies_strands ..)]

@[simp] theorem loseStrand_losses (s : State) (id : Nat) :
    (loseStrand s id).pkg.foyer.losses = s.pkg.foyer.losses ++ [(strandOf s id).tag] := by
  simp [loseStrand, abortStrand]

/-- R281: of a list of strands that are lost each slot is FREE, and the tag of each is reported; other slots stay as they are. -/
theorem loseStrands (l : List Nat) (s : State) (i : Nat) :
    (strandOf (l.foldl loseStrand s) i = if i ∈ l then Strand.reset i else strandOf s i) ∧
    (∀ g ∈ s.pkg.foyer.losses, g ∈ (l.foldl loseStrand s).pkg.foyer.losses) ∧
    (i ∈ l → (strandOf s i).tag ∈ (l.foldl loseStrand s).pkg.foyer.losses) := by
  induction l generalizing s with
  | nil => simp
  | cons x r ih =>
    obtain ⟨hslot, hkept, htag⟩ := ih (loseStrand s x)
    rw [List.foldl_cons]
    have hmem : ∀ g, g ∈ s.pkg.foyer.losses ∨ g = (strandOf s x).tag → g ∈ (r.foldl loseStrand (loseStrand s x)).pkg.foyer.losses :=
      fun g hg => hkept g (by simpa using hg)
    by_cases hi : i = x
    · subst hi
      refine ⟨?_, fun g hg => hmem g (.inl hg), fun _ => hmem _ (.inr rfl)⟩
      rw [hslot]
      simp
    · rw [strandOf_loseStrand_ne _ _ _ hi] at hslot htag
      refine ⟨?_, fun g hg => hmem g (.inl hg), fun h => htag ?_⟩
      · rw [hslot]
        simp [hi]
      · simpa [hi] using h

/-- A slot that is not FREE is listed. -/
theorem mem_busyStrands (s : State) (p : Nat → Strand → Bool) (i : Nat) (h : (strandOf s i).slot ≠ .free)
    (hp : p i (strandOf s i) = true) : i ∈ busyStrands s p := by
  have listed : (i, strandOf s i) ∈ s.strands := by
    unfold strandOf at h ⊢
    generalize s.strands = l at h ⊢
    induction l with
    | nil => exact absurd rfl h
    | cons q r ih =>
      obtain ⟨j, w⟩ := q
      by_cases hj : j = i
      · subst hj; simp [tblGet]
      · simp only [tblGet, if_neg hj] at h ⊢
        exact List.mem_cons_of_mem _ (ih h)
  exact List.mem_map.mpr ⟨(i, strandOf s i), List.mem_filter.mpr ⟨listed, by simp [h, hp]⟩, rfl⟩

/-! ## The loss of a core (R281) -/

@[simp] theorem dropSaved_strands (s : State) (die l : Nat) (e : Entry) : (dropSaved s die l e).strands = s.strands := by
  simp [dropSaved, setLanding]

@[simp] theorem dropSaved_foyer (s : State) (die l : Nat) (e : Entry) : (dropSaved s die l e).pkg.foyer = s.pkg.foyer := by
  simp [dropSaved, setLanding]

/-- What the drop of one saved record keeps, the drop of all that satisfy `p` keeps. -/
theorem dropSavedIf_keeps {β : Type} (P : State → β) (s : State) (die : Nat) (p : Entry → Bool)
    (h : ∀ u l e, P (dropSaved u die l e) = P u) : P (dropSavedIf s die p) = P s :=
  foldl_keeps P _ (fun u l => foldl_keeps P _ (fun v e => h v l e) _ u) _ s

/-- More losses are reported, and the strands stay. -/
theorem reportLosses (l : List Entry) (s : State) :
    (l.foldl (fun u e => reportLoss u e.tag) s).strands = s.strands ∧
    ∀ g ∈ s.pkg.foyer.losses, g ∈ (l.foldl (fun u e => reportLoss u e.tag) s).pkg.foyer.losses := by
  induction l generalizing s with
  | nil => simp
  | cons e r ih =>
    obtain ⟨hs, hl⟩ := ih (reportLoss s e.tag)
    exact ⟨hs, fun g hg => hl g (by simp [hg])⟩

/-- R281: a disabled core has lost its strands, and each lost strand's tag is reported. -/
theorem disableCore_loses (s : State) (c i : Nat) (hi : coreIdx i = c) :
    (strandOf (disableCore s c) i).slot = .free ∧
    ((strandOf s i).slot ≠ .free → (strandOf s i).tag ∈ (disableCore s c).pkg.foyer.losses) := by
  unfold disableCore
  dsimp only
  generalize ((dieOf s (c / 128)).landings.map _).flatten = gone
  obtain ⟨hslot, -, htag⟩ := loseStrands (busyStrands s fun i _ => coreIdx i == c) s i
  generalize hu : (busyStrands s fun i _ => coreIdx i == c).foldl loseStrand s = u at hslot htag ⊢
  have hd := dropSavedIf_keeps (·.strands) u (c / 128) (fun e => resumeCore e.record == c) fun v l e => dropSaved_strands v _ l e
  have hf := dropSavedIf_keeps (·.pkg.foyer) u (c / 128) (fun e => resumeCore e.record == c) fun v l e => dropSaved_foyer v _ l e
  obtain ⟨hr, hl⟩ := reportLosses gone (dropSavedIf u (c / 128) fun e => resumeCore e.record == c)
  have listed : (strandOf s i).slot ≠ .free → i ∈ busyStrands s fun i _ => coreIdx i == c :=
    fun h => mem_busyStrands s _ i h (by simp [hi])
  constructor
  · rw [strandOf_modCore, strandOf_congr hr, strandOf_congr hd, hslot]
    split
    · rfl
    · rename_i h
      by_contra hn
      exact h (listed hn)
  · intro h
    rw [modCore_pkg]
    exact hl _ (by rw [hf]; exact htag (listed h))

@[simp] theorem coreOf_disableCore (s : State) (c : Nat) : (coreOf (disableCore s c) c).enabled = false := by
  simp [disableCore]

/-! ## A fatal stop (R341) -/

@[simp] theorem targetWrite_phys_strands (s : State) (cl tag k n v : Nat) (sl : Bool) :
    (targetWrite s cl tag (.phys k sl) n v).strands = s.strands := by
  simp only [targetWrite, breakLine, storeLine]
  split <;> rfl

@[simp] theorem targetWrite_phys_pkg (s : State) (cl tag k n v : Nat) (sl : Bool) :
    (targetWrite s cl tag (.phys k sl) n v).pkg = s.pkg := by
  simp only [targetWrite, breakLine, storeLine]
  split <;> rfl

/-- Words written to device memory change memory alone. -/
theorem writeWords_keeps (ws : List Word) (k : Nat) (s : State) :
    (writeWords ws k s).strands = s.strands ∧ (writeWords ws k s).pkg = s.pkg := by
  induction ws generalizing k s with
  | nil => exact ⟨rfl, rfl⟩
  | cons w r ih =>
    obtain ⟨h1, h2⟩ := ih (k + 8) (physWrite s k 8 w.toNat)
    exact ⟨h1.trans (targetWrite_phys_strands ..), h2.trans (targetWrite_phys_pkg ..)⟩

theorem fatalStop_stops (s : State) (kind detail : Nat) (unit : DumpUnit) (h : s.pkg.fatal = none) :
    (fatalStop s kind detail unit).pkg.fatal = some (kind, detail) ∧ (fatalStop s kind detail unit).pkg.hostFatal = true ∧
    (fatalStop s kind detail unit).strands = s.strands := by
  obtain ⟨hs, hp⟩ := writeWords_keeps (dumpHeader s ((List.range dumpSections.length).map (sectionWords s)) kind detail unit)
    dumpBase (fatalError s kind detail)
  simp only [fatalStop, h, Option.isSome_none, Bool.false_eq_true, if_false, modUsher, hs, hp]
  exact ⟨rfl, rfl, rfl⟩

/-! ## Rows (R125) -/

@[simp] theorem mem_insertNat (n x : Nat) (l : List Nat) : x ∈ insertNat n l ↔ x = n ∨ x ∈ l := by
  induction l with
  | nil => simp [insertNat]
  | cons m r ih =>
    unfold insertNat
    split
    · simp
    · split
      · rename_i h; subst h; simp
      · simp only [List.mem_cons, ih]; tauto

/-- R125: the row map after a row is retired, and who keeps a bay that this disables. -/
theorem coreOf_retireRow (s : State) (c b r : Nat) :
    (coreOf (retireRow s c b r) c).retired =
      listSet [] (coreOf s c).retired b (insertNat r (listGet [] (coreOf s c).retired b)) ∧
    (bayEnabled (coreOf s c) b = true → bayEnabled (coreOf (retireRow s c b r) c) b = false →
      ∀ g ∈ bayNamers s c b, (b, g) ∈ (coreOf (retireRow s c b r) c).keepers) := by
  rw [retireRow, coreOf_setCore]
  split
  · exact ⟨rfl, fun _ _ g hg => by simp [hg]⟩
  · rename_i h
    exact ⟨rfl, fun h1 h2 => absurd (by rw [h1, h2]; rfl) h⟩

/-- R125: mismatches reported by a scrub become detections, and nothing else of the machine changes. -/
theorem scrub_reports (c b : Nat) (l : List Nat) (s : State) :
    let t := l.foldl (fun u row => reportDetection u c b row) s
    t.cores = s.cores ∧ t.strands = s.strands ∧ t.mem = s.mem ∧ t.pkg.usher.time = s.pkg.usher.time ∧
      (∀ x ∈ s.pkg.usher.detections, x ∈ t.pkg.usher.detections) ∧
      ∀ x ∈ l, (c, b, x, s.pkg.usher.time) ∈ t.pkg.usher.detections := by
  induction l generalizing s with
  | nil => simp
  | cons x r ih =>
    obtain ⟨h1, h2, h3, h4, h5, h6⟩ := ih (reportDetection s c b x)
    refine ⟨h1, h2, h3, h4, fun y hy => h5 y (List.mem_cons_of_mem _ hy), fun y hy => ?_⟩
    rcases List.mem_cons.mp hy with rfl | hy
    · exact h5 _ List.mem_cons_self
    · exact h6 y hy

theorem exec_coreDisable (c : Nat) (s : State) :
    exec (.coreDisable c) s = .next (partFaults s (.core c) fun u => disableCore u c) := rfl
theorem exec_rowRetirement (c b r : Nat) (s : State) : exec (.rowRetirement c b r) s = execRowRetirement c b r s := rfl
theorem exec_usherScrub (c b : Nat) (s : State) : exec (.usherScrub c b) s = execUsherScrub c b s := rfl

/-- Settles O44: a loss folds over the strands of a core or of a part, and a retirement and a scrub act on one core. -/
theorem coresAndRows : Obligations.CoresAndRows := by
  refine ⟨fun s c => ⟨fun hout => ?_, fun d hout hf => ?_⟩, fun s c b r => ⟨fun hb hr hfail => ?_, fun hok => ?_, fun hb hfree => ?_⟩⟩
  · refine ⟨disableCore s c, by rw [exec_coreDisable, partFaults, hout], coreOf_disableCore s c, fun k hk => ?_, fun k hk => ?_⟩
    · exact (disableCore_loses s c _ (by unfold coreIdx; omega)).1
    · exact (disableCore_loses s c _ (by unfold coreIdx; omega)).2
  · exact ⟨_, by rw [exec_coreDisable, partFaults, hout], fatalStop_stops s 0 d _ hf⟩
  · obtain ⟨hret, hkeep⟩ := coreOf_retireRow s c b r
    refine ⟨retireRow s c b r, by rw [exec_rowRetirement, execRowRetirement, if_pos ⟨hb, hr, hfail⟩], fun x => ?_, fun d hd => ?_,
      rfl, rfl, rfl, hkeep⟩
    · rw [hret, listGet_listSet, mem_insertNat]
    · rw [hret, listGet_listSet_ne _ _ _ _ _ hd]
  · rw [exec_rowRetirement, execRowRetirement, if_neg (by simp [hok])]
  · have idle : b < 4 ∧ bayFree (coreOf s c) b = true := ⟨hb, by simp [bayFree, hfree]⟩
    refine ⟨_, by rw [exec_usherScrub, execUsherScrub, if_pos idle], ?_⟩
    obtain ⟨h1, h2, h3, -, -, h6⟩ := scrub_reports c b ((((coreOf s c).parity.filter fun q => q.1 == b).map (·.2.1)).eraseDups) s
    refine ⟨h1, h2, h3, fun x ⟨k, hk⟩ => h6 x ?_⟩
    rw [List.mem_eraseDups]
    exact List.mem_map.mpr ⟨(b, x, k), List.mem_filter.mpr ⟨hk, by simp⟩, rfl⟩

end Sys2Proof.Machine
namespace Sys2Proof.Machine

theorem exec_w2baseWrite (v : Word) (s : State) : exec (.w2baseWrite v) s = execW2baseWrite v s := rfl
theorem exec_hostRegisterWrite (o : Nat) (v : Word) (s : State) : exec (.hostRegisterWrite o v) s = execHostRegisterWrite o v s := rfl
theorem exec_hashPartitionWrite (d i : Nat) (v : Word) (s : State) :
    exec (.hashPartitionWrite d i v) s = .next (hashWritten s d i v) := rfl
theorem exec_frcfgWrite (v : Word) (s : State) : exec (.frcfgWrite v) s = .next (frcfgWritten s v) := rfl
theorem exec_hostMemoryRead (o : Nat) (s : State) : exec (.hostMemoryRead o) s = execHostMemoryRead o s := rfl
theorem exec_hostMemoryWrite (o n : Nat) (v : Word) (s : State) : exec (.hostMemoryWrite o n v) s = execHostMemoryWrite o n v s := rfl
theorem exec_hostPortTraining (w r : Nat) (s : State) : exec (.hostPortTraining w r) s = execHostPortTraining w r s := rfl

/-! ## W2BASE (R327) -/

/-- R327: the values that W2BASE takes: no reserved bit is set, and the window lies in device memory. -/
theorem w2base_legal_iff (v : Word) :
    ¬ (v &&& ~~~0xF000000000 ≠ 0 ∨ 12 ≤ fld v 36 4) ↔ v.toNat % 2 ^ 36 = 0 ∧ v.toNat / 2 ^ 36 < 12 := by
  have lt := v.isLt
  have reserved : v &&& ~~~0xF000000000 = 0 ↔ v.toNat % 2 ^ 36 = 0 ∧ v.toNat / 2 ^ 40 = 0 := by
    rw [← BitVec.toNat_inj, BitVec.toNat_and]
    have low : (v.toNat &&& (~~~0xF000000000 : Word).toNat) % 2 ^ 36 = v.toNat % 2 ^ 36 := by
      rw [Nat.and_mod_two_pow]
      exact (Nat.and_two_pow_sub_one_eq_mod _ 36).trans (Nat.mod_mod _ _)
    have mid : (v.toNat &&& (~~~0xF000000000 : Word).toNat) / 2 ^ 36 % 2 ^ 4 = 0 := by
      rw [Nat.and_div_two_pow, Nat.and_mod_two_pow]
      exact Nat.and_zero _
    have high : (v.toNat &&& (~~~0xF000000000 : Word).toNat) / 2 ^ 40 = v.toNat / 2 ^ 40 := by
      rw [Nat.and_div_two_pow]
      exact (Nat.and_two_pow_sub_one_eq_mod _ 24).trans (Nat.mod_eq_of_lt (by omega))
    rw [show (0 : Word).toNat = 0 from rfl]
    generalize v.toNat &&& (~~~0xF000000000 : Word).toNat = y at low mid high ⊢
    omega
  simp only [fld, bitsOf, ne_eq, not_or, not_not, reserved]
  omega

/-! ## Writes of BAR0 (R290, R327, R329) -/

theorem write_hrbase (s : State) (n : Nat) (v : Word) (h : n < 33) : execHostRegisterWrite (0x10000 + 32 * n) v s =
    .next (if ringOn (ringOf s n) then s else setRing s n { ringOf s n with base := v &&& ~~~0xF }) := by
  have k : (0x10000 + 32 * n - 0x10000) / 32 = n := by omega
  rw [execHostRegisterWrite, if_pos (by omega)]
  simp only [k]

theorem write_ptroot (s : State) (c : Nat) (v : Word) (h : c < 32) : execHostRegisterWrite (0x20000 + 8 * c) v s =
    .next { s with pkg := { s.pkg with ptroot := tblSet s.pkg.ptroot c (v &&& 0xFFFFFFF001) } } := by
  have k : (0x20000 + 8 * c - 0x20000) / 8 = c := by omega
  rw [execHostRegisterWrite, if_neg (by omega), if_pos (by omega), k]

/-- R327: a register of the Usher's block acts on a write once the Usher has opened it. -/
theorem write_block (s : State) (o : Nat) (v : Word) (h1 : 0x100000 ≤ o) (h2 : o < 0x4000000) : execHostRegisterWrite o v s =
    .next (if o ∈ s.pkg.usher.opened then blockWritten s o v else s) := by
  rw [execHostRegisterWrite, if_neg (by omega), if_neg (by omega)]
  by_cases h : o ∈ s.pkg.usher.opened
  · simp [h, h1, h2]
  · simp [h]

/-- R352: a route reads as it was last written. -/
theorem routeNow_routeWritten (s : State) (p : Nat) (m : BitVec 16) (q : Nat) (h : p < 4096) :
    routeNow (routeWritten s p m q).net p = (m, q % 16) := by
  have e : (routeWritten s p m q).net.routesNew.reverse = (p, m, q % 16) :: s.net.routesNew.reverse := by
    rw [routeWritten, List.reverse_append, Nat.mod_eq_of_lt h]
    rfl
  simp [routeNow, e]

/-! ## Reads of BAR0 (R8, R327-R329) -/

/-- What is to come next is in no register. -/
theorem usherField_agenda (s : State) (r : List Move) (k : Nat) : usherField { s with agenda := r } k = usherField s k := by
  unfold usherField stackRate dieOf
  rfl

theorem blockValue_agenda (s : State) (r : List Move) (o : Nat) : blockValue { s with agenda := r } o = blockValue s o := by
  unfold blockValue
  cases usherAt o with
  | none => rfl
  | some k => exact usherField_agenda s r k

theorem registerValue_agenda (s : State) (r : List Move) (o : Nat) :
    registerValue { s with agenda := r } o = registerValue s o := by
  unfold registerValue ringOf
  rw [blockValue_agenda]

theorem read_register (s : State) (o : Nat) (r : List Move) (hf : s.pkg.fatal = none) (ha : s.agenda = .registerRead o :: r) :
    step s = .next { s with agenda := r, pkg := { s.pkg with hostReads := some (registerValue s o) :: s.pkg.hostReads } } := by
  unfold step
  rw [ha]
  simp only [hf, Option.isSome_none, Bool.false_and, Bool.false_eq_true, if_false, outside, registerRead, registerValue_agenda]

theorem registerValue_queue (s : State) (q : Nat) (h : q < 16) : registerValue s (0x100 + 8 * q) =
    BitVec.ofNat 64 (tblGet 0 s.pkg.foyer.drops q * 2 ^ 32 + tblGet 0 s.pkg.foyer.accepted q) := by
  have k : (0x100 + 8 * q - 0x100) / 8 = q := by omega
  rw [registerValue, if_pos (by omega)]
  simp only [k]

/-- R329: the four registers of a ring stand 8 bytes apart. -/
theorem registerValue_ring (s : State) (n j : Nat) (h : n < 33) (hj : j < 4) : registerValue s (0x10000 + 32 * n + 8 * j) =
    match j with
    | 0 => (ringOf s n).base
    | 1 => (ringOf s n).cfg
    | 2 => BitVec.ofNat 64 (ringOf s n).tail
    | _ => BitVec.ofNat 64 (ringOf s n).head := by
  have k : (0x10000 + 32 * n + 8 * j - 0x10000) / 32 = n := by omega
  have m : (0x10000 + 32 * n + 8 * j) % 32 = 8 * j := by omega
  rw [registerValue, if_neg (by omega), if_pos (by omega)]
  simp only [k, m]
  interval_cases j <;> rfl

theorem registerValue_ptroot (s : State) (c : Nat) (h : c < 32) : registerValue s (0x20000 + 8 * c) = tblGet 0 s.pkg.ptroot c := by
  have k : (0x20000 + 8 * c - 0x20000) / 8 = c := by omega
  rw [registerValue, if_neg (by omega), if_neg (by omega), if_pos (by omega), k]

theorem registerValue_w2base (s : State) : registerValue s 0x30000 = s.pkg.w2base := rfl

theorem registerValue_block (s : State) (o : Nat) (h1 : 0x100000 ≤ o) (h2 : o < 0x4000000) :
    registerValue s o = blockValue s o := by
  rw [registerValue, if_neg (by omega), if_neg (by omega), if_neg (by omega), if_neg (by omega), if_pos ⟨h1, h2⟩]

theorem registerValue_low (s : State) (o : Nat) (h : o < 0x100) : registerValue s o = 0 := by
  rw [registerValue, if_neg (by omega), if_neg (by omega), if_neg (by omega), if_neg (by omega), if_neg (by omega)]

/-! ## Accesses through BAR2 (R318, R327) -/

/-- The bytes of a line as a number fit their width. -/
theorem lineBits_lt (l : Line) (i n : Nat) : lineBits l i n < 2 ^ (8 * n) := Nat.mod_lt _ (by positivity)

/-- A write of no bytes does nothing. -/
theorem windowWrite_zero (s : State) (pa v : Nat) : windowWrite s pa 0 v = s := if_pos rfl

/-- An aligned write lies in one line, so that it is one write. -/
theorem write_window (s : State) (o n : Nat) (v : Word) (hn : n ∈ [1, 2, 4, 8]) (ho : o % n = 0) :
    execHostMemoryWrite o n v s = .next (windowWrite s (windowPa s o) n (v.toNat % 2 ^ (8 * n))) := by
  have size : min n 8 = n := by
    simp only [List.mem_cons, List.not_mem_nil, or_false] at hn
    omega
  have inLine : min n (64 - windowPa s o % 64) = n := by
    unfold windowPa
    simp only [List.mem_cons, List.not_mem_nil, or_false] at hn
    rcases hn with rfl | rfl | rfl | rfl <;> omega
  simp only [execHostMemoryWrite, size, inLine, Nat.sub_self, windowWrite_zero, Nat.mod_mod]

/-- What bytes a target of device memory is apart from does not depend on the cluster that writes it. -/
theorem apart_phys_cluster (c1 c2 k n c : Nat) (sl : Bool) (r : Target) (h : Apart c1 (.phys k sl) n c r) :
    Apart c2 (.phys k sl) n c r := by
  cases r <;> exact h

/-- A write of the device's own agents stores its bytes and no others. -/
theorem stored_physWrite (s : State) (k n v : Nat) (h : MemoriesWf s) (hl : k % 64 + n ≤ 64) :
    Stored s (physWrite s k n v) (.phys k false) n (v % 2 ^ (8 * n)) where
  holds := targetRead_targetWrite s 0 0 (.phys k false) n v h (by rintro - _ _ ⟨⟩; rfl) hl
  frame c r ha := targetRead_targetWrite_ne s 0 0 (.phys k false) n v c r h (by rintro - _ _ ⟨⟩; rfl) hl
    (apart_phys_cluster _ 0 _ _ _ _ _ ha)


/-! ## The named registers of the Usher's block (R285, R316, R352) -/

theorem usherField_hash (s : State) (k : Nat) (h : k < 112) : usherField s k =
    if k % 28 < 4 then listGet 0 (dieOf s (k / 28)).hpart (k % 28) else listGet 0 (dieOf s (k / 28)).hmask (k % 28 - 4) := by
  rw [usherField, if_pos h]

theorem usherField_frcfg (s : State) : usherField s 112 = s.net.frcfgNew.getD s.net.frcfg := rfl

theorem usherField_rate (s : State) (k : Nat) (h1 : 113 ≤ k) (h2 : k < 125) :
    usherField s k = BitVec.ofNat 64 (stackRate s (k - 113)) := by
  rw [usherField, if_neg (by omega), if_neg (by omega), if_pos h2]

theorem usherField_mask (s : State) (k : Nat) (h1 : 125 ≤ k) (h2 : k < 4221) :
    usherField s k = (routeNow s.net (k - 125)).1.zeroExtend 64 := by
  rw [usherField, if_neg (by omega), if_neg (by omega), if_neg (by omega), if_pos h2]

theorem usherField_stair (s : State) (k : Nat) (h : 4221 ≤ k) :
    usherField s k = BitVec.ofNat 64 (routeNow s.net (k - 4221)).2 := by
  rw [usherField, if_neg (by omega), if_neg (by omega), if_neg (by omega), if_neg (by omega)]

theorem usherStore_hash (s : State) (k : Nat) (v : Word) (h : k < 112) :
    usherStore s k v = hashWritten s (k / 28) (k % 28) v := by
  rw [usherStore, if_pos h]

theorem usherStore_frcfg (s : State) (v : Word) : usherStore s 112 v = frcfgWritten s v := rfl

theorem usherStore_rate (s : State) (k : Nat) (v : Word) (h1 : 113 ≤ k) (h2 : k < 125) : usherStore s k v = s := by
  rw [usherStore, if_neg (by omega), if_neg (by omega), if_pos h2]

theorem usherStore_mask (s : State) (k : Nat) (v : Word) (h1 : 125 ≤ k) (h2 : k < 4221) :
    usherStore s k v = routeWritten s (k - 125) (v.truncate 16) (routeNow s.net (k - 125)).2 := by
  rw [usherStore, if_neg (by omega), if_neg (by omega), if_neg (by omega), if_pos h2]

theorem usherStore_stair (s : State) (k : Nat) (v : Word) (h : 4221 ≤ k) :
    usherStore s k v = routeWritten s (k - 4221) (routeNow s.net (k - 4221)).1 (v.toNat % 16) := by
  rw [usherStore, if_neg (by omega), if_neg (by omega), if_neg (by omega), if_neg (by omega)]

/-- R8, R327-R329: the value `w` that a read of the BAR0 offset `o` returns: the clause of the statement about reads. -/
def RegisterReads (s : State) (o : Nat) (w : Word) : Prop :=
  (∀ q < 16, (o = 0x100 + 8 * q → tblGet 0 s.pkg.foyer.accepted q < 2 ^ 32 → tblGet 0 s.pkg.foyer.drops q < 2 ^ 32 →
      fld w 0 32 = tblGet 0 s.pkg.foyer.accepted q ∧ fld w 32 32 = tblGet 0 s.pkg.foyer.drops q)) ∧
  (∀ n < 33, (o = 0x10000 + 32 * n → w = (ringOf s n).base) ∧ (o = 0x10008 + 32 * n → w = (ringOf s n).cfg) ∧
    (o = 0x10010 + 32 * n → w = BitVec.ofNat 64 (ringOf s n).tail) ∧
    (o = 0x10018 + 32 * n → w = BitVec.ofNat 64 (ringOf s n).head)) ∧
  (∀ c < 32, o = 0x20000 + 8 * c → w = tblGet 0 s.pkg.ptroot c) ∧ (o = 0x30000 → w = s.pkg.w2base) ∧
  (0x100000 ≤ o → o < 0x4000000 → (∀ k < usherNamed, usherPlace k ≠ o) → w = tblGet 0 s.pkg.usher.registers o) ∧
  (∀ k < usherNamed, o = usherPlace k → (∀ j < k, usherPlace j ≠ o) → w = usherField s k) ∧ (o < 0x100 → w = 0)

/-- R327: every named register of the block lies in the block. -/
theorem usherPlace_range (k : Nat) : 0x100000 ≤ usherPlace k ∧ usherPlace k < 0x4000000 := by
  unfold usherPlace
  omega

theorem registerReads (s : State) (o : Nat) : RegisterReads s o (registerValue s o) := by
  refine ⟨fun q hq ho ha hd => ?_, fun n hn => ⟨fun ho => ?_, fun ho => ?_, fun ho => ?_, fun ho => ?_⟩, fun c hc ho => ?_, fun ho => ?_,
    fun h1 h2 hn => ?_, fun k hk ho hfirst => ?_, fun ho => registerValue_low s o ho⟩
  · rw [ho, registerValue_queue s q hq]
    simp only [fld, bitsOf, BitVec.toNat_ofNat]
    omega
  · rw [ho]; exact registerValue_ring s n 0 hn (by omega)
  · rw [ho, show 0x10008 + 32 * n = 0x10000 + 32 * n + 8 * 1 by omega]; exact registerValue_ring s n 1 hn (by omega)
  · rw [ho, show 0x10010 + 32 * n = 0x10000 + 32 * n + 8 * 2 by omega]; exact registerValue_ring s n 2 hn (by omega)
  · rw [ho, show 0x10018 + 32 * n = 0x10000 + 32 * n + 8 * 3 by omega]; exact registerValue_ring s n 3 hn (by omega)
  · rw [ho, registerValue_ptroot s c hc]
  · rw [ho, registerValue_w2base]
  · rw [registerValue_block s o h1 h2, blockValue_none s o hn]
  · subst ho
    obtain ⟨h1, h2⟩ := usherPlace_range k
    rw [registerValue_block s _ h1 h2, blockValue_first s k hk hfirst]

/-- Settles O48: each access is the equation of its register or of its window, and a write of bytes is that of a target. -/
theorem hostAccesses : Obligations.HostAccesses := by
  intro s v
  refine ⟨fun h1 h2 => ?_, fun h => ?_, fun n hn => ⟨fun hon => ?_, fun hoff => ?_⟩, fun c hc => ?_, fun o h1 h2 => ⟨fun hshut => ?_,
    fun hopen hnone => ?_, fun k hk ho hfirst hopen => ?_⟩, fun o r hf ha => ?_, fun o => ?_, fun o n hn ho => ⟨fun hres => ?_,
    fun hres hwf => ?_⟩, fun w r => ⟨fun h => ?_, fun h => ?_⟩⟩
  · rw [exec_w2baseWrite, execW2baseWrite, if_neg ((w2base_legal_iff v).mpr ⟨h1, h2⟩)]
  · have refused := mt (w2base_legal_iff v).mp (by omega)
    rw [exec_w2baseWrite, execW2baseWrite, if_pos (not_not.mp refused)]
  · rw [exec_hostRegisterWrite, write_hrbase s n v hn, if_pos hon]
  · rw [exec_hostRegisterWrite, write_hrbase s n v hn, if_neg (by simp [hoff])]
  · exact ⟨_, (exec_hostRegisterWrite _ v s).trans (write_ptroot s c v hc), tblGet_tblSet .., rfl, rfl⟩
  · rw [exec_hostRegisterWrite, write_block s o v h1 h2, if_neg hshut]
  · refine ⟨blockWritten s o v, ?_, blockWritten_none s o v hnone⟩
    rw [exec_hostRegisterWrite, write_block s o v h1 h2, if_pos hopen]
  · have written : exec (.hostRegisterWrite o v) s = .next (usherStore s k v) := by
      subst ho
      rw [exec_hostRegisterWrite, write_block s _ v h1 h2, if_pos hopen, blockWritten_first s k v hk hfirst]
    refine ⟨fun h => ?_, fun h => ?_, fun ha hb => ?_, fun ha hb => ?_, fun ha => ?_⟩
    · rw [written, usherStore_hash s k v h, exec_hashPartitionWrite]
    · subst h
      rw [written, usherStore_frcfg, exec_frcfgWrite]
    · rw [written, usherStore_rate s k v ha hb]
    · exact ⟨_, written, by rw [usherStore_mask s k v ha hb]; exact routeNow_routeWritten s _ _ _ (by omega)⟩
    · refine ⟨_, written, ?_⟩
      rw [usherStore_stair s k v ha, routeNow_routeWritten s _ _ _ (Nat.sub_lt_right_of_lt_add ha hk), Nat.mod_mod]
  · obtain ⟨hqueue, hring, hroot, hbase, hblock, hnamed, hlow⟩ := registerReads s o
    refine ⟨registerValue s o, read_register s o r hf ha, hqueue, hring, hroot, hbase, hblock, fun k hk ho hfirst => ?_, hlow⟩
    rw [hnamed k hk ho hfirst]
    refine ⟨fun h hp => ?_, fun h hp => ?_, fun h => ?_, fun ha hb => ?_, usherField_mask s k, usherField_stair s k⟩
    · rw [usherField_hash s k h, if_pos hp]
    · rw [usherField_hash s k h, if_neg (by omega)]
    · rw [h, usherField_frcfg]
    · rw [usherField_rate s k ha hb, stackRate]
      cases tblGet StackState.full s.pkg.usher.stackStates (k - 113) <;> rfl
  · refine ⟨_, exec_hostMemoryRead o s, rfl, rfl, fun hbad => ?_, fun hgood => ⟨BitVec.ofNat 64 (physRead s (windowPa s o / 8 * 8) 8), ?_, ?_⟩⟩
    · simp only [hbad, if_true]
    · simp only [hgood, Bool.false_eq_true, if_false]
    · rw [BitVec.toNat_ofNat]
      exact Nat.mod_eq_of_lt (lineBits_lt _ _ 8)
  · refine ⟨_, (exec_hostMemoryWrite o n v s).trans (write_window s o n v hn ho), ?_⟩
    unfold windowWrite
    rw [if_pos hres]
    split <;> rfl
  · have positive : n ≠ 0 := by rintro rfl; simp at hn
    have inLine : windowPa s o % 64 + n ≤ 64 := by
      unfold windowPa
      simp only [List.mem_cons, List.not_mem_nil, or_false] at hn
      rcases hn with rfl | rfl | rfl | rfl <;> omega
    have write : windowWrite s (windowPa s o) n (v.toNat % 2 ^ (8 * n)) =
        physWrite s (windowPa s o) n (v.toNat % 2 ^ (8 * n)) := by
      rw [windowWrite, if_neg positive, if_neg (by simp [hres])]
    refine ⟨_, (exec_hostMemoryWrite o n v s).trans (write_window s o n v hn ho), ?_⟩
    rw [write]
    have stored := stored_physWrite s (windowPa s o) n (v.toNat % 2 ^ (8 * n)) hwf inLine
    rw [Nat.mod_mod] at stored
    exact ⟨stored, targetWrite_phys_strands .., targetWrite_phys_pkg ..⟩
  · rw [exec_hostPortTraining, execHostPortTraining, if_pos h]
  · rw [exec_hostPortTraining, execHostPortTraining, if_neg h]

end Sys2Proof.Machine

namespace Sys2Proof.Machine

/-! ## A landing table out of order (R265, R174)

The table of a die's landings is a list, and nothing in `State` keeps its keys rising. Where key 5 stands before key 3, `tblSet` puts
landing 3 in front and leaves the old one behind: a pop from landing 3 moves its save list before that of landing 5. When two saved
records have the issuer tag of the Mezzanine's owner, `savedOwner` then finds the other one, and other bays are withheld than those
that the choice of the slot has looked at. -/

/-- A record for landing 3 that asks for one bay and may start on any core. -/
def oneBayRecord : Record := ⟨2 ^ 61 + 3 * 2 ^ 56, 2 ^ 61 + 2 ^ 57 + 2 ^ 52, 0, 0⟩

/-- The resume record of landing 3 that names core 1 and all four bays. -/
def fourBaysRecord : Record := ⟨3 * 2 ^ 56, 2 ^ 58 + 15, 0, 0⟩

/-- An entry of a queue or a save list. -/
def plainEntry (r : Record) (issuer : Nat) : Entry := ⟨r, 0, false, issuer, none, [], []⟩

/-- Die 0 with landing 3 enabled, and its landings out of order: landing 5 has saved a record without bays of issuer 7, landing 3 one
with all bays of the same issuer, and it queues a record for one bay. -/
def unorderedDie : Die :=
  { Die.reset 0 with
    descs := [(24, 2 ^ 63), (25, 2 ^ 48)]
    landings := [(5, { Landing.reset with saved := [plainEntry Record.zero 7] }),
      (3, { Landing.reset with queue := [plainEntry oneBayRecord 9], saved := [plainEntry fourBaysRecord 7] })] }

/-- Issuer 7 owns the Mezzanine of core 0, and core 1 is disabled, so that the resume record that names it cannot be popped. -/
def unorderedState : State :=
  { State.reset with
    cores := [(0, { Core.reset with mezz := { Mezz.reset with owner := some (7, 0) } }), (1, { Core.reset with enabled := false })]
    dies := [(0, unorderedDie)] }

/-- The controller of die 0 hands the queued record to slot 0 of core 0. -/
def unorderedPick : Pick := ⟨3, plainEntry oneBayRecord 9, 0, false⟩

/-- R265: the state of a die that has taken a fresh record from its landing. -/
def recordTaken (s : State) (die : Nat) (p : Pick) : State :=
  let x := landingOf s die p.landing
  let u := setLanding s die p.landing { x with
    queue := x.queue.filter (fun e => e.issuer != p.entry.issuer), spill := x.spill.filter fun q => q.2.issuer != p.entry.issuer }
  dropOffers (setDie u die { dieOf u die with lastServed := p.landing }) die p.id p.entry.issuer

theorem exec_recordPop_fresh (s : State) (die : Nat) (p : Pick) (hin : (dieOf s die).status = .inService)
    (hp : pick (reportUnfit s die) die = some p) (hr : p.resume = false) (hb : recBad p.entry.record = false) :
    exec (.recordPop die) s = .next (startFresh (recordTaken (reportUnfit s die) die p) die p) := by
  change execRecordPop die s = _
  simp only [execRecordPop, hin, if_true, hp, hr, hb, Bool.false_eq_true, if_false]
  rfl

theorem unorderedState_picks : pick (reportUnfit unorderedState 0) 0 = some unorderedPick := by decide +kernel

/-- The bays that were free for the record are withheld by the time it starts, so that its strand gets none. -/
theorem unorderedState_starts :
    (strandOf (startFresh (recordTaken (reportUnfit unorderedState 0) 0 unorderedPick) 0 unorderedPick) 0).arc.bays = 0 := by decide +kernel

theorem oneBayRecord_wellFormed : recBad oneBayRecord = false := by decide +kernel

/-- Refutes O39: in `unorderedState`, whose landing table does not rise, the pop of a record that asks for one bay starts a strand
that has none (`popN 4 bays = 0`, where the statement says 1). -/
theorem not_recordsPop : ¬ Obligations.RecordsPop := by
  unfold Obligations.RecordsPop
  rintro ⟨⟨-, fresh⟩, -⟩
  obtain ⟨-, pops⟩ := fresh unorderedState 0 rfl
  obtain ⟨starts, -⟩ := pops unorderedPick unorderedState_picks rfl
  obtain ⟨-, -, t, hexec, -, -, -, -, hstrand⟩ := starts oneBayRecord_wellFormed
  obtain ⟨-, -, -, -, -, -, -, -, -, -, -, -, -, -, -, -, -, -, -, -, -, -, hbays, -⟩ := hstrand
  rw [exec_recordPop_fresh unorderedState 0 unorderedPick rfl unorderedState_picks rfl oneBayRecord_wellFormed] at hexec
  obtain rfl := Host.Outcome.next.inj hexec
  rw [show unorderedPick.id = 0 from rfl, unorderedState_starts] at hbays
  exact absurd hbays (by decide +kernel)

end Sys2Proof.Machine

namespace Sys2Proof.Machine

/-! ## Completing on the strand -/

/-- Only what is made of the strand of the turn counts. -/
theorem Completes.congr {s : State} {i : Instr} {f g : Strand → Strand} (h : Completes s i f)
    (e : f (strandOf s s.cur) = g (strandOf s s.cur)) : Completes s i g := by
  obtain ⟨t, hx, ho, hs⟩ := h
  exact ⟨t, hx, ho, hs.trans e⟩

/-- Registers of the strand change and it goes on. -/
theorem completes_modStrand_finish (s : State) (i : Instr) (f : Strand → Strand)
    (h : exec i s = .next (finish (modStrand s s.cur f) s.cur)) : Completes s i fun t => past (f t) :=
  ⟨_, h, onlyStrand_trans (onlyStrand_modStrand s f) (onlyStrand_modStrand (modStrand s s.cur f) past), by
    simp [finish, past, nextPc]⟩

/-! ## The index space (R45, R46) -/

theorem exec_getc (a : BitVec 5) (k : BitVec 11) (s : State) : exec (.getc a k) s = execGetc a k s := rfl
theorem exec_setc (b : BitVec 5) (k : BitVec 11) (s : State) : exec (.setc b k) s = execSetc b k s := rfl

/-- R46: the strand may access the register of an index. -/
def cregAllowed (s : State) (k : Nat) : Prop := k < 0x100 ∨ stSuper (strandOf s s.cur) = true

theorem cregThen_unassigned (s : State) (w : BitVec 32) (k : Nat) (f : State) (h : cregAssigned k = false) :
    cregThen s w k f = trapIllegal s s.cur w := by
  simp [cregThen, h]

theorem cregThen_priv (s : State) (w : BitVec 32) (k : Nat) (f : State) (h : cregAssigned k = true) (hk : 0x100 ≤ k)
    (hu : stSuper (strandOf s s.cur) = false) : cregThen s w k f = trapWord s s.cur cPRIV w := by
  simp [cregThen, h, hk, hu]

theorem cregThen_allowed (s : State) (w : BitVec 32) (k : Nat) (f : State) (h : cregAssigned k = true) (ha : cregAllowed s k) :
    cregThen s w k f = f := by
  have hp : ¬ (0x100 ≤ k ∧ stSuper (strandOf s s.cur) = false) := by
    rintro ⟨hk, hu⟩
    rcases ha with ha | ha
    · omega
    · simp [hu] at ha
  simp [cregThen, h, hp]

/-! ## GETC (R96) -/

/-- R96: GETC reads the register of an index. -/
theorem getc_writes (s : State) (a : BitVec 5) (k : Nat) (v : Word) (hk : k < 2 ^ 11) (h : cregAssigned k = true)
    (ha : cregAllowed s k) (hv : readCreg s s.cur k = v) : Writes s (.getc a (BitVec.ofNat 11 k)) a v := by
  refine writes_of _ _ _ _ ?_
  rw [exec_getc, execGetc, BitVec.toNat_ofNat, Nat.mod_eq_of_lt hk, cregThen_allowed _ _ _ _ h ha, hv]

theorem readCreg_lanemap (s : State) (id n : Nat) (h : n < 4) :
    readCreg s id (0x010 + n) = lanemapWord (strandOf s id).arc n := by
  interval_cases n <;> rfl

theorem readCreg_region (s : State) (id n j : Nat) (hn : n < 64) (hj : j < 8) :
    readCreg s id (0x400 + 8 * n + j) = regionReg (regionOf s n) j := by
  have region : (0x400 + 8 * n + j - 0x400) / 8 = n := by omega
  have place : (0x400 + 8 * n + j) % 8 = j := by omega
  unfold readCreg
  rw [if_neg (by omega), if_pos (by omega), region, place]

theorem readCreg_pool (s : State) (id j : Nat) : readCreg s id (0x600 + j) = tblGet 0 s.pkg.pool j := by
  unfold readCreg
  rw [if_pos (by omega), Nat.add_sub_cancel_left]

theorem cregAssigned_region (n j : Nat) (hn : n < 64) (hj : j ≤ 5) : cregAssigned (0x400 + 8 * n + j) = true := by
  have place : (0x400 + 8 * n + j) % 8 = j := by omega
  simp [cregAssigned, place, hj]
  omega

theorem cregAssigned_pool (w j : Nat) (hw : w < 16) (hj : j < 3) : cregAssigned (0x600 + 4 * w + j) = true := by
  have place : (0x600 + 4 * w + j) % 4 = j := by omega
  simp [cregAssigned, place]
  omega

theorem mxcfgNow_eq (s : State) (id : Nat) : mxcfgNow s id =
    if behind (strandOf s id) = true ∧ ownsMezz s id = true then
      mxcfgAfter (coreOf s (coreIdx id)).mezz.cfg (strandOf s id).arc.viq else (coreOf s (coreIdx id)).mezz.cfg := by
  simp [mxcfgNow]

/-! ## SETC of registers without a behaviour of their own (R46, R96) -/

/-- The word of a SETC, as TVAL holds it. -/
abbrev setcWord (b : BitVec 5) (k : BitVec 11) : Word := (wordS 0x19 0 b 4 k).zeroExtend 64

theorem setBits_writable (m old v : Word) (h : v &&& ~~~m = 0) : setBits (m, 0) old v = (old &&& ~~~m) ||| v := by
  have hv : v &&& m = v := by
    calc v &&& m = (v &&& m) ||| (v &&& ~~~m) := by rw [h]; simp
      _ = v := by rw [← BitVec.and_or_distrib_left, BitVec.or_not_self, BitVec.and_allOnes]
  simp [setBits, hv]

/-- R46: a register without a writable bit ignores the write. -/
theorem setc_readOnly (s : State) (b : BitVec 5) (k : Nat) (hk : k < 2 ^ 11) (h : cregAssigned k = true)
    (ha : cregAllowed s k) (hm : cregMasks k = none) : Completes s (.setc b (BitVec.ofNat 11 k)) past := by
  refine completes_finish _ _ ?_
  rw [exec_setc, execSetc, BitVec.toNat_ofNat, Nat.mod_eq_of_lt hk]
  simp only [cregThen_allowed _ _ _ _ h ha, hm]

theorem setc_taken (s : State) (b : BitVec 5) (k : Nat) (m : Word) (f : Strand → Strand) (hk : k < 2 ^ 11)
    (h : cregAssigned k = true) (ha : cregAllowed s k) (hm : cregMasks k = some (m, 0))
    (hv : reg s s.cur b &&& ~~~m = 0) (hb : cregBad s k (reg s s.cur b) = false)
    (hw : writeCreg s s.cur k ((readCreg s s.cur k &&& ~~~m) ||| reg s s.cur b) = modStrand s s.cur f) :
    Completes s (.setc b (BitVec.ofNat 11 k)) fun t => past (f t) := by
  refine completes_modStrand_finish _ _ _ ?_
  rw [exec_setc, execSetc, BitVec.toNat_ofNat, Nat.mod_eq_of_lt hk]
  have zero : m ||| 0 = m := BitVec.or_zero
  simp only [cregThen_allowed _ _ _ _ h ha, hm, zero, hv, hb, ne_eq, not_true_eq_false, false_or, Bool.false_eq_true,
    if_false, setBits_writable m _ _ hv, hw]

theorem setc_refused (s : State) (b : BitVec 5) (k : Nat) (m : Word) (hk : k < 2 ^ 11)
    (h : cregAssigned k = true) (ha : cregAllowed s k) (hm : cregMasks k = some (m, 0))
    (hv : reg s s.cur b &&& ~~~m ≠ 0 ∨ cregBad s k (reg s s.cur b) = true) :
    TrapsHere s (.setc b (BitVec.ofNat 11 k)) cILLEGAL (setcWord b (BitVec.ofNat 11 k)) := by
  refine trapsHere_illegal _ _ _ ?_
  rw [exec_setc, execSetc, BitVec.toNat_ofNat, Nat.mod_eq_of_lt hk]
  have zero : m ||| 0 = m := BitVec.or_zero
  simp only [cregThen_allowed _ _ _ _ h ha, hm, zero, if_pos hv]

/-- R46: a trap register at U. -/
theorem setc_priv (s : State) (b : BitVec 5) (k : Nat) (hk : k < 2 ^ 11) (h : cregAssigned k = true) (h1 : 0x100 ≤ k)
    (hu : stSuper (strandOf s s.cur) = false) :
    TrapsHere s (.setc b (BitVec.ofNat 11 k)) cPRIV (setcWord b (BitVec.ofNat 11 k)) := by
  refine trapsHere_word _ _ _ _ ?_
  rw [exec_setc, execSetc, BitVec.toNat_ofNat, Nat.mod_eq_of_lt hk]
  simp only [cregThen_priv _ _ _ _ h h1 hu]

/-! ## STATUS, SFLAGS, VRESUME (R80, R33, R227) -/

theorem exec_setcStatus (b : BitVec 5) (s : State) : exec (.setcStatus b) s = execSetcStatus b s := rfl
theorem exec_setcSflags (b : BitVec 5) (s : State) : exec (.setcSflags b) s = execSetcSflags b s := rfl
theorem exec_setcVresume (b : BitVec 5) (s : State) : exec (.setcVresume b) s = execSetcVresume b s := rfl
theorem exec_setcVcfg (b : BitVec 5) (s : State) :
    exec (.setcVcfg b) s = .next (vcfgThen s s.cur (wordS 0x19 0 b 4 0x002) (reg s s.cur b) fun u => finish u s.cur) := rfl
theorem exec_setcChainsrc (b : BitVec 5) (s : State) : exec (.setcChainsrc b) s = execSetcChainsrc b s := rfl

theorem setcStatus_user (s : State) (b : BitVec 5) (h : stSuper (strandOf s s.cur) = false) : Completes s (.setcStatus b) past := by
  refine completes_finish _ _ ?_
  rw [exec_setcStatus]
  simp only [execSetcStatus, h, if_true]

theorem setcStatus_taken (s : State) (b : BitVec 5) (h : stSuper (strandOf s s.cur) = true)
    (hv : reg s s.cur b &&& 0xFFFFFFFF00000010 = 0) : Completes s (.setcStatus b) fun t =>
      past { t with status := (t.status &&& ~~~0x2A) ||| (reg s s.cur b &&& 0x2A) } := by
  refine completes_modStrand_finish s _ (fun t => { t with status := (t.status &&& ~~~0x2A) ||| (reg s s.cur b &&& 0x2A) }) ?_
  have bits : ∀ old : Word, setBits (0x2A, 0) old (reg s s.cur b) = (old &&& ~~~0x2A) ||| (reg s s.cur b &&& 0x2A) :=
    fun old => by simp [setBits]
  rw [exec_setcStatus]
  simp only [execSetcStatus, h, hv, Bool.true_eq_false, if_false, ne_eq, not_true_eq_false, bits]

theorem setcStatus_refused (s : State) (b : BitVec 5) (h : stSuper (strandOf s s.cur) = true)
    (hv : reg s s.cur b &&& 0xFFFFFFFF00000010 ≠ 0) : TrapsHere s (.setcStatus b) cILLEGAL (setcWord b 0) := by
  refine trapsHere_illegal _ _ _ ?_
  rw [exec_setcStatus]
  simp only [execSetcStatus, h, Bool.true_eq_false, if_false, if_pos hv]

/-- R33: the ten flags. -/
theorem sflags_legal_iff (v : Word) : v &&& ~~~sflagsMask = 0 ↔ v.toNat < 0x400 := by
  rw [← BitVec.toNat_inj, BitVec.toNat_and]
  have lt := v.isLt
  have low : (v.toNat &&& (~~~sflagsMask).toNat) % 2 ^ 10 = 0 := by
    rw [Nat.and_mod_two_pow]
    exact Nat.and_zero _
  have high : (v.toNat &&& (~~~sflagsMask).toNat) / 2 ^ 10 = v.toNat / 2 ^ 10 := by
    rw [Nat.and_div_two_pow]
    exact (Nat.and_two_pow_sub_one_eq_mod _ 54).trans (Nat.mod_eq_of_lt (by omega))
  rw [show (0 : Word).toNat = 0 from rfl]
  generalize v.toNat &&& (~~~sflagsMask).toNat = y at low high ⊢
  omega

theorem setcSflags_taken (s : State) (b : BitVec 5) (h : (reg s s.cur b).toNat < 0x400) :
    Completes s (.setcSflags b) fun t => past { t with sflags := reg s s.cur b } := by
  refine completes_modStrand_finish s _ (fun t => { t with sflags := reg s s.cur b }) ?_
  rw [exec_setcSflags]
  simp only [execSetcSflags, (sflags_legal_iff _).mpr h, ne_eq, not_true_eq_false, if_false]

theorem setcSflags_refused (s : State) (b : BitVec 5) (h : 0x400 ≤ (reg s s.cur b).toNat) :
    TrapsHere s (.setcSflags b) cILLEGAL (setcWord b 1) := by
  have reserved : reg s s.cur b &&& ~~~sflagsMask ≠ 0 := fun e => by have := (sflags_legal_iff _).mp e; omega
  refine trapsHere_illegal _ _ _ ?_
  rw [exec_setcSflags]
  simp only [execSetcSflags, if_pos reserved]


/-! ## Held entries and messages given back (R227, R258) -/

theorem returnMessage_none (s : State) (id : Nat) (h : (strandOf s id).arc.chainIn = none) : returnMessage s id = s := by
  rw [returnMessage, h]

/-- R258: a message that is not consumed goes back to the head of its port. -/
theorem returnMessage_some (s : State) (id c p : Nat) (m : List Word) (h : (strandOf s id).arc.chainIn = some (c, p, m)) :
    strandOf (returnMessage s id) id = { strandOf s id with arc := { (strandOf s id).arc with chainIn := none } } ∧
    listGet [] (coreOf (returnMessage s id) c).ports p = m :: listGet [] (coreOf s c).ports p ∧
    (returnMessage s id).mem = s.mem ∧ (returnMessage s id).cur = s.cur := by
  simp [returnMessage, h]

/-- R227: what is left of a strand whose held entries are discarded. -/
def discarded (t : Strand) : Strand :=
  { t with stripHead := t.stripHead || t.arc.held.any (·.head), holds := t.holds.map fun h => { h with ahead := 0 },
           arc := { t.arc with held := [], heldPoint := 0 } }

theorem setcVresume_user (s : State) (b : BitVec 5) (h : stSuper (strandOf s s.cur) = false) :
    Completes s (.setcVresume b) past := by
  refine completes_finish _ _ ?_
  rw [exec_setcVresume]
  simp only [execSetcVresume, h, if_true]

theorem setcVresume_refused (s : State) (b : BitVec 5) (h : stSuper (strandOf s s.cur) = true)
    (hv : reg s s.cur b &&& 0x40FFFFFFFFFC0000 ≠ 0) : TrapsHere s (.setcVresume b) cILLEGAL (setcWord b 0x00B) := by
  refine trapsHere_illegal _ _ _ ?_
  rw [exec_setcVresume]
  simp only [execSetcVresume, h, Bool.true_eq_false, if_false, if_pos hv]

/-- R227: at S, LANE is written, and a 1 in HELD discards the held entries. -/
theorem exec_setcVresume_taken (s : State) (b : BitVec 5) (h : stSuper (strandOf s s.cur) = true)
    (hv : reg s s.cur b &&& 0x40FFFFFFFFFC0000 = 0) : exec (.setcVresume b) s =
      .next (finish (modArc (if fld (reg s s.cur b) 63 1 = 1 then discardHeld (returnMessage s s.cur) s.cur else s) s.cur
        fun a => { a with lane := fld (reg s s.cur b) 0 18 }) s.cur) := by
  rw [exec_setcVresume]
  simp only [execSetcVresume, h, hv, Bool.true_eq_false, if_false, ne_eq, not_true_eq_false]

theorem strandOf_discardHeld (s : State) (id : Nat) : strandOf (discardHeld s id) id = discarded (strandOf s id) :=
  strandOf_modStrand s id _

theorem strandOf_finish (s : State) (id : Nat) : strandOf (finish s id) id = past (strandOf s id) := strandOf_modStrand s id _

/-- R227: LANE is written. -/
def withLane (n : Nat) (t : Strand) : Strand := { t with arc := { t.arc with lane := n } }

theorem setcVresume_lane (s : State) (b : BitVec 5) (h : stSuper (strandOf s s.cur) = true)
    (hv : reg s s.cur b &&& 0x40FFFFFFFFFC0000 = 0) (hh : fld (reg s s.cur b) 63 1 = 0) :
    Completes s (.setcVresume b) fun t => past (withLane (fld (reg s s.cur b) 0 18) t) := by
  refine completes_modStrand_finish s _ _ ?_
  rw [exec_setcVresume_taken s b h hv, if_neg (by omega)]
  rfl

theorem setcVresume_discards (s : State) (b : BitVec 5) (h : stSuper (strandOf s s.cur) = true)
    (hv : reg s s.cur b &&& 0x40FFFFFFFFFC0000 = 0) (hh : fld (reg s s.cur b) 63 1 = 1) (hc : (arcOf s).chainIn = none) :
    Completes s (.setcVresume b) fun t => past (discarded (withLane (fld (reg s s.cur b) 0 18) t)) := by
  refine ⟨_, exec_setcVresume_taken s b h hv, ?_, ?_⟩
  · rw [if_pos hh, returnMessage_none s _ hc]
    exact onlyStrand_trans (onlyStrand_modStrand s _) (onlyStrand_trans (onlyStrand_modStrand (discardHeld s s.cur) _)
      (onlyStrand_modStrand _ past))
  · rw [if_pos hh, returnMessage_none s _ hc, strandOf_finish, strandOf_modArc, strandOf_discardHeld]
    rfl

theorem setcVresume_returns (s : State) (b : BitVec 5) (c p : Nat) (m : List Word) (h : stSuper (strandOf s s.cur) = true)
    (hv : reg s s.cur b &&& 0x40FFFFFFFFFC0000 = 0) (hh : fld (reg s s.cur b) 63 1 = 1)
    (hc : (arcOf s).chainIn = some (c, p, m)) : ∃ t : State, exec (.setcVresume b) s = .next t ∧
      strandOf t s.cur = past (discarded { (strandOf s s.cur) with
        arc := { (arcOf s) with lane := fld (reg s s.cur b) 0 18, chainIn := none } }) ∧
      listGet [] (coreOf t c).ports p = m :: listGet [] (coreOf s c).ports p ∧ t.mem = s.mem := by
  obtain ⟨hstrand, hport, hmem, -⟩ := returnMessage_some s s.cur c p m hc
  refine ⟨_, exec_setcVresume_taken s b h hv, ?_, ?_, ?_⟩
  · rw [if_pos hh, strandOf_finish, strandOf_modArc, strandOf_discardHeld, hstrand]
    rfl
  · rw [if_pos hh]
    exact hport
  · rw [if_pos hh]
    exact hmem

/-! ## CHAINSRC (R255, R258) -/

theorem setcChainsrc_reserved (s : State) (b : BitVec 5) (h : reg s s.cur b &&& ~~~0xBFF ≠ 0) :
    TrapsHere s (.setcChainsrc b) cILLEGAL (setcWord b 0x00D) := by
  refine trapsHere_illegal _ _ _ ?_
  rw [exec_setcChainsrc, execSetcChainsrc, if_pos h]

/-- R255: a value without reserved bits is taken or traps, as `chainBad` says. -/
theorem exec_setcChainsrc_checked (s : State) (b : BitVec 5) (h : reg s s.cur b &&& ~~~0xBFF = 0) :
    exec (.setcChainsrc b) s = .next (chainsrcThen s s.cur (wordS 0x19 0 b 4 0x00D) (reg s s.cur b) fun u => finish u s.cur) := by
  rw [exec_setcChainsrc, execSetcChainsrc, if_neg (not_not.mpr h)]

/-- R255, R258: CHAINSRC takes the value of the register, and a message of the old source goes back to its port. -/
def ChainsrcTaken (s : State) (b : BitVec 5) : Prop :=
  ((arcOf s).chainIn = none → Completes s (.setcChainsrc b) fun t => past { t with arc := { t.arc with chainsrc := reg s s.cur b } }) ∧
  ∀ c p m, (arcOf s).chainIn = some (c, p, m) → ∃ t : State, exec (.setcChainsrc b) s = .next t ∧
    strandOf t s.cur = past { (strandOf s s.cur) with arc := { (arcOf s) with chainsrc := reg s s.cur b, chainIn := none } } ∧
    listGet [] (coreOf t c).ports p = m :: listGet [] (coreOf s c).ports p ∧ t.mem = s.mem

theorem setcChainsrc_taken (s : State) (b : BitVec 5) (h : reg s s.cur b &&& ~~~0xBFF = 0)
    (hok : chainBad s s.cur (reg s s.cur b) = none) : ChainsrcTaken s b := by
  have run : exec (.setcChainsrc b) s = .next (finish (modArc (returnMessage s s.cur) s.cur fun a =>
      { a with chainsrc := reg s s.cur b }) s.cur) := by
    rw [exec_setcChainsrc_checked s b h, chainsrcThen, hok]
  refine ⟨fun hc => ?_, fun c p m hc => ?_⟩
  · rw [returnMessage_none s _ hc] at run
    exact completes_modStrand_finish s _ (fun t => { t with arc := { t.arc with chainsrc := reg s s.cur b } }) run
  · obtain ⟨hstrand, hport, hmem, -⟩ := returnMessage_some s s.cur c p m hc
    refine ⟨_, run, ?_, hport, hmem⟩
    rw [strandOf_finish, strandOf_modArc, hstrand]
    rfl

theorem setcChainsrc_otherDie (s : State) (b : BitVec 5) (h : reg s s.cur b &&& ~~~0xBFF = 0)
    (harm : fld (reg s s.cur b) 11 1 = 1) (hdie : fld (reg s s.cur b) 7 2 ≠ dieIdx s.cur) :
    TrapsHere s (.setcChainsrc b) cILLEGAL (setcWord b 0x00D) := by
  have bad : chainBad s s.cur (reg s s.cur b) = some cILLEGAL := by rw [chainBad, if_neg (by omega), if_pos hdie]
  refine trapsHere_word _ _ _ _ ?_
  rw [exec_setcChainsrc_checked s b h, chainsrcThen, bad]
  rfl

theorem setcChainsrc_disabled (s : State) (b : BitVec 5) (h : reg s s.cur b &&& ~~~0xBFF = 0)
    (harm : fld (reg s s.cur b) 11 1 = 1) (hdie : fld (reg s s.cur b) 7 2 = dieIdx s.cur)
    (hoff : (coreOf s (fld (reg s s.cur b) 0 9)).enabled = false) :
    TrapsHere s (.setcChainsrc b) cCOORD (BitVec.ofNat 64 (fld (reg s s.cur b) 0 9)) := by
  have bad : chainBad s s.cur (reg s s.cur b) = some cCOORD := by
    rw [chainBad, if_neg (by omega), if_neg (by simp [hdie]), hoff]
    rfl
  refine trapsHere_of _ _ _ _ ?_
  rw [exec_setcChainsrc_checked s b h, chainsrcThen, bad]
  rfl

/-! ## VCFG (R106-R108) -/

theorem setcVcfg_refused (s : State) (b : BitVec 5) (h : vcfgOk (reg s s.cur b) = false) :
    TrapsHere s (.setcVcfg b) cILLEGAL (setcWord b 0x002) := by
  refine trapsHere_illegal _ _ _ ?_
  rw [exec_setcVcfg, vcfgThen, h]
  rfl

/-- R108: a value that the checks accept is taken. -/
theorem exec_setcVcfg_ok (s u : State) (b : BitVec 5) (h : vcfgOk (reg s s.cur b) = true)
    (hs : switchVcfg s s.cur (reg s s.cur b) = .ok u) : exec (.setcVcfg b) s = .next (finish u s.cur) := by
  rw [exec_setcVcfg, vcfgThen, h, hs]
  rfl

/-- R108: a Vault transfer that the change needs fails. -/
theorem exec_setcVcfg_error (s u : State) (b : BitVec 5) (c : Nat) (x : Word) (h : vcfgOk (reg s s.cur b) = true)
    (hs : switchVcfg s s.cur (reg s s.cur b) = .error (c, x, u)) :
    exec (.setcVcfg b) s = .next (trapHere (modArc u s.cur fun a => { a with lane := 0 }) s.cur c x) := by
  rw [exec_setcVcfg, vcfgThen, h, hs]
  rfl

theorem setcVcfg_sameClass (s : State) (b : BitVec 5) (h : vcfgOk (reg s s.cur b) = true)
    (hc : twoSlot (fld (reg s s.cur b) 0 6) (fld (reg s s.cur b) 7 7) = vTwo (strandOf s s.cur).arc) :
    Completes s (.setcVcfg b) fun t => past { t with arc := refitVl { t.arc with vcfg := reg s s.cur b } } := by
  refine completes_modStrand_finish s _ (fun t => { t with arc := refitVl { t.arc with vcfg := reg s s.cur b } }) ?_
  exact exec_setcVcfg_ok s _ b h (by rw [switchVcfg, if_pos hc]; rfl)

/-- R122: a change of class that needs the Vault of a strand without one traps, and leaves VCFG and the registers. -/
theorem setcVcfg_noVault (s u : State) (b : BitVec 5) (h : vcfgOk (reg s s.cur b) = true)
    (hs : switchVcfg s s.cur (reg s s.cur b) = .error (cVAULT, 0, u)) (hu : OnlyStrand s u)
    (ht : strandOf u s.cur = strandOf s s.cur) :
    Completes s (.setcVcfg b) fun t => trapped cVAULT 0 (pcOf s) { t with arc := { t.arc with lane := 0 } } := by
  refine ⟨_, exec_setcVcfg_error s u b _ _ h hs, ?_, ?_⟩
  · have cur : s.cur = u.cur := hu.cur.symm
    refine onlyStrand_trans hu ?_
    rw [cur]
    exact onlyStrand_trans (onlyStrand_modStrand u _) (onlyStrand_takeTrap (modArc u u.cur _) _ _ _)
  · unfold trapHere
    rw [strandOf_takeTrap, strandOf_modArc, ht]
    rfl


/-! ## Changes of the slot class (R108, R120) -/

theorem swapOut_unwritten (s : State) (id q : Nat) (hp : (coreOf s (coreIdx id)).parity = [])
    (hq : regWritten (strandOf s id).arc q = false) :
    swapOut s id q = .ok (emptyPair s id ((strandOf s id).arc.resident.idxOf q) q) := by
  simp [swapOut, hp, hq]

theorem swapOut_noVault (s : State) (id q : Nat) (hp : (coreOf s (coreIdx id)).parity = [])
    (hq : regWritten (strandOf s id).arc q = true) (hv : vaultOn (strandOf s id) = false) :
    swapOut s id q = .error (cVAULT, 0, s) := by
  simp [swapOut, hp, hq, hv]

/-- The registers of a strand, and which of them are resident. -/
def withPairs (regs : List (List Word)) (resident : List Nat) (t : Strand) : Strand :=
  { t with arc := { t.arc with regs := regs, resident := resident } }

theorem withPairs_withPairs (x y : List (List Word)) (n m : List Nat) (t : Strand) :
    withPairs x n (withPairs y m t) = withPairs x n t := rfl

theorem regWritten_withPairs (x : List (List Word)) (n : List Nat) (t : Strand) (q : Nat) :
    regWritten (withPairs x n t).arc q = regWritten t.arc q := rfl

theorem vaultOn_withPairs (x : List (List Word)) (n : List Nat) (t : Strand) : vaultOn (withPairs x n t) = vaultOn t := rfl

/-- R120: registers that need no transfer have left their slot pairs: of the machine only the strand has changed, and of the strand
only what holds them. -/
structure PairsLeft (l : List Nat) (s u : State) : Prop where
  only : OnlyStrand s u
  strand : strandOf u s.cur = withPairs (arcOf u).regs (arcOf u).resident (strandOf s s.cur)
  regs : ∀ r, listGet [] (arcOf u).regs r = if r ∈ l then [] else listGet [] (arcOf s).regs r

theorem pairsLeft_nil (s : State) : PairsLeft [] s s :=
  ⟨⟨rfl, rfl, rfl, rfl, rfl, rfl, rfl, rfl, rfl, fun _ _ => rfl⟩, rfl, fun _ => rfl⟩

theorem onlyStrand_modArc (s : State) (f : Arcade → Arcade) : OnlyStrand s (modArc s s.cur f) := onlyStrand_modStrand s _

theorem pairsLeft_emptyPair (s : State) (i q : Nat) : PairsLeft [q] s (emptyPair s s.cur i q) := by
  have strand : strandOf (emptyPair s s.cur i q) s.cur =
      withPairs (listSet [] (arcOf s).regs q []) ((arcOf s).resident.set i noReg) (strandOf s s.cur) := strandOf_modArc s s.cur _
  have arc : arcOf (emptyPair s s.cur i q) = (strandOf (emptyPair s s.cur i q) s.cur).arc := rfl
  refine ⟨onlyStrand_modArc s _, ?_, fun r => ?_⟩
  · rw [arc, strand]
    rfl
  · rw [arc, strand]
    by_cases hr : r = q
    · subst hr
      simp [withPairs]
    · simp [withPairs, hr, listGet_listSet_ne _ _ _ _ _ hr]

theorem PairsLeft.trans {l k : List Nat} {s t u : State} (h : PairsLeft l s t) (g : PairsLeft k t u) : PairsLeft (l ++ k) s u := by
  have strand := g.strand
  rw [h.only.cur, h.strand, withPairs_withPairs] at strand
  refine ⟨onlyStrand_trans h.only g.only, strand, fun r => ?_⟩
  rw [g.regs, h.regs]
  by_cases hk : r ∈ k <;> by_cases hl : r ∈ l <;> simp [hk, hl]

/-- The registers written since VACQ, the core's parity and the Vault do not change with it. -/
theorem PairsLeft.keeps {l : List Nat} {s u : State} (h : PairsLeft l s u) :
    (∀ q, regWritten (strandOf u s.cur).arc q = regWritten (strandOf s s.cur).arc q) ∧
    vaultOn (strandOf u s.cur) = vaultOn (strandOf s s.cur) ∧ ∀ c, coreOf u c = coreOf s c := by
  refine ⟨fun q => ?_, ?_, fun c => ?_⟩
  · rw [h.strand, regWritten_withPairs]
  · rw [h.strand, vaultOn_withPairs]
  · simp only [coreOf, h.only.cores]

theorem framesOut_unwritten (l : List Nat) (s : State) (id : Nat) (hid : s.cur = id) (hp : (coreOf s (coreIdx id)).parity = [])
    (hw : ∀ q ∈ l, regWritten (strandOf s id).arc q = false) : ∃ u, framesOut id l s = .ok u ∧ PairsLeft l s u := by
  subst hid
  induction l generalizing s with
  | nil => exact ⟨s, rfl, pairsLeft_nil s⟩
  | cons q r ih =>
    have out := swapOut_unwritten s s.cur q hp (hw q (by simp))
    have left := pairsLeft_emptyPair s ((strandOf s s.cur).arc.resident.idxOf q) q
    obtain ⟨hwritten, -, hcore⟩ := left.keeps
    obtain ⟨u, hu, hl⟩ := ih (emptyPair s s.cur ((strandOf s s.cur).arc.resident.idxOf q) q) (by rw [left.only.cur, hcore, hp])
      fun x hx => by rw [left.only.cur, hwritten]; exact hw x (List.mem_cons_of_mem _ hx)
    refine ⟨u, ?_, left.trans hl⟩
    rw [framesOut, out]
    exact hu

theorem framesOut_noVault (l : List Nat) (s : State) (id : Nat) (hid : s.cur = id) (hp : (coreOf s (coreIdx id)).parity = [])
    (hv : vaultOn (strandOf s id) = false) (hw : ∃ q ∈ l, regWritten (strandOf s id).arc q = true) :
    ∃ u, framesOut id l s = .error (cVAULT, 0, u) ∧ OnlyStrand s u := by
  subst hid
  induction l generalizing s with
  | nil => simp at hw
  | cons q r ih =>
    cases hq : regWritten (strandOf s s.cur).arc q with
    | true =>
      refine ⟨s, ?_, (pairsLeft_nil s).only⟩
      rw [framesOut, swapOut_noVault s s.cur q hp hq hv]
    | false =>
      have left := pairsLeft_emptyPair s ((strandOf s s.cur).arc.resident.idxOf q) q
      obtain ⟨hwritten, hvault, hcore⟩ := left.keeps
      have rest : ∃ x ∈ r, regWritten (strandOf s s.cur).arc x = true := by
        obtain ⟨x, hx, hwx⟩ := hw
        rcases List.mem_cons.mp hx with rfl | hx
        · simp [hq] at hwx
        · exact ⟨x, hx, hwx⟩
      obtain ⟨u, hu, hl⟩ := ih (emptyPair s s.cur ((strandOf s s.cur).arc.resident.idxOf q) q) (by rw [left.only.cur, hcore, hp])
        (by rw [left.only.cur, hvault, hv]) (by simpa only [left.only.cur, hwritten] using rest)
      refine ⟨u, ?_, onlyStrand_trans left.only hl⟩
      rw [framesOut, swapOut_unwritten s s.cur q hp hq]
      exact hu

/-- Without parity mismatches there is none to move. -/
theorem coreOf_moveParity (s : State) (id : Nat) (f : Nat → Option Nat) (hp : (coreOf s (coreIdx id)).parity = []) (c : Nat) :
    coreOf (moveParity s id f) c = coreOf s c := by
  have same : { coreOf s (coreIdx id) with parity := [] } = coreOf s (coreIdx id) := by rw [← hp]
  by_cases hc : c = coreIdx id
  · subst hc
    simp [moveParity, hp, same]
  · rw [moveParity, coreOf_setCore_ne _ _ _ _ hc]

/-- R122: the strand of a failed change of class is as it was. -/
theorem onlyStrand_undo {s u : State} (h : OnlyStrand s u) : OnlyStrand s (setStrand u s.cur (strandOf s s.cur)) := by
  have := onlyStrand_modStrand u fun _ => strandOf s s.cur
  rw [h.cur] at this
  exact onlyStrand_trans h this

/-- R108: the registers that stay resident on a change to the two-slot class, ascending (log entry 58). -/
def staying (a : Arcade) : List Nat := (List.range 32).filter fun r => !(a.recency.take 16).contains r

/-- R108: the vector side that has come to the two-slot class with VCFG `v`, the registers `n` being resident. -/
def inTwoSlots (v : Word) (n : List Nat) (a : Arcade) : Arcade := refitVl { a with vcfg := v, resident := n }

/-- R108: lane values cut to 32 bits. -/
def lowHalves (regs : List (List Word)) : List (List Word) := regs.map fun l => l.map fun x => BitVec.ofNat 64 (x.toNat % 2 ^ 32)

/-- R108: the vector side that has come to the one-slot class with VCFG `v`. -/
def inOneSlot (v : Word) (a : Arcade) : Arcade := refitVl { a with vcfg := v, regs := lowHalves a.regs }

theorem switchVcfg_toTwo (s : State) (id : Nat) (v : Word) (u : State) (h2 : twoSlot (fld v 0 6) (fld v 7 7) = true)
    (h1 : vTwo (strandOf s id).arc = false) (hu : framesOut id ((strandOf s id).arc.recency.take 16) s = .ok u) :
    ∃ f, switchVcfg s id v = .ok (modArc (moveParity u id f) id (inTwoSlots v (staying (strandOf s id).arc))) := by
  refine ⟨fun sl => if (staying (strandOf s id).arc).contains sl then some (2 * (staying (strandOf s id).arc).idxOf sl) else none, ?_⟩
  rw [switchVcfg, if_neg (by simp [h2, h1]), if_neg (by simp [h1])]
  simp only [hu]
  rfl

theorem switchVcfg_toTwo_fails (s : State) (id : Nat) (v : Word) (u : State) (h2 : twoSlot (fld v 0 6) (fld v 7 7) = true)
    (h1 : vTwo (strandOf s id).arc = false)
    (hu : framesOut id ((strandOf s id).arc.recency.take 16) s = .error (cVAULT, 0, u)) :
    switchVcfg s id v = .error (cVAULT, 0, setStrand u id (strandOf s id)) := by
  rw [switchVcfg, if_neg (by simp [h2, h1]), if_neg (by simp [h1])]
  simp only [hu]

/-- R108: registers that have been written and are not resident come back from their frames. -/
def framesAway (a : Arcade) : List Nat := (List.range 32).filter fun r => !a.resident.contains r && regWritten a r

theorem mem_framesAway (a : Arcade) (r : Nat) : r ∈ framesAway a ↔ r < 32 ∧ r ∉ a.resident ∧ regWritten a r = true := by
  simp [framesAway]

theorem switchVcfg_toOne (s : State) (id : Nat) (v : Word) (h2 : twoSlot (fld v 0 6) (fld v 7 7) = false)
    (h1 : vTwo (strandOf s id).arc = true) (hu : framesAway (strandOf s id).arc = []) :
    ∃ f, switchVcfg s id v = .ok (modArc (moveParity s id f) id (inOneSlot v)) := by
  refine ⟨fun sl => if sl % 2 = 0 then ((strandOf s id).arc.resident[sl / 2]?).filter (· != noReg) else none, ?_⟩
  unfold framesAway at hu
  rw [switchVcfg, if_neg (by simp [h2, h1]), if_pos h1]
  simp only [hu]
  rfl

theorem switchVcfg_toOne_fails (s : State) (id : Nat) (v : Word) (h2 : twoSlot (fld v 0 6) (fld v 7 7) = false)
    (h1 : vTwo (strandOf s id).arc = true) (hu : framesAway (strandOf s id).arc ≠ []) (hv : vaultOn (strandOf s id) = false) :
    switchVcfg s id v = .error (cVAULT, 0, setStrand s id (strandOf s id)) := by
  have fails : framesIn id (framesAway (strandOf s id).arc) s = .error (cVAULT, 0, s) := by
    obtain ⟨q, r, e⟩ := List.exists_cons_of_ne_nil hu
    simp [e, framesIn, hv]
  unfold framesAway at fails
  rw [switchVcfg, if_neg (by simp [h2, h1]), if_pos h1]
  simp only [fails]

theorem listGet_lowHalves (regs : List (List Word)) (r : Nat) :
    listGet [] (lowHalves regs) r = (listGet [] regs r).map fun x => BitVec.ofNat 64 (x.toNat % 2 ^ 32) := by
  unfold listGet lowHalves
  rw [List.getElem?_map]
  cases regs[r]? <;> rfl

/-- R108: the state after a change of class, from the state `u` in which the registers have left. -/
def classTaken (u : State) (id : Nat) (f : Nat → Option Nat) (g : Arcade → Arcade) : State :=
  finish (modArc (moveParity u id f) id g) id

/-- A strand with another vector side. -/
def withArc (a : Arcade) (t : Strand) : Strand := { t with arc := a }

theorem withArc_withPairs (a : Arcade) (regs : List (List Word)) (n : List Nat) (t : Strand) :
    withArc a (withPairs regs n t) = withArc a t := rfl

theorem past_withArc_arc (a : Arcade) (t : Strand) : (past (withArc a t)).arc = a := rfl

theorem refitVl_regs (a : Arcade) : (refitVl a).regs = a.regs := rfl

theorem strandOf_classTaken (u : State) (id : Nat) (f : Nat → Option Nat) (g : Arcade → Arcade) :
    strandOf (classTaken u id f g) id = past (withArc (g (strandOf u id).arc) (strandOf u id)) := by
  rw [classTaken, strandOf_finish, strandOf_modArc]
  rfl

/-- Beside the strand, a change of class without parity mismatches leaves the machine alone. -/
theorem classTaken_frame (u : State) (id : Nat) (f : Nat → Option Nat) (g : Arcade → Arcade)
    (hp : (coreOf u (coreIdx id)).parity = []) : (classTaken u id f g).cur = u.cur ∧ (classTaken u id f g).mem = u.mem ∧
      ∀ c, coreOf (classTaken u id f g) c = coreOf u c := ⟨rfl, rfl, fun c => coreOf_moveParity u id f hp c⟩

theorem inTwoSlots_withPairs (v : Word) (n m : List Nat) (regs : List (List Word)) (t : Strand) :
    inTwoSlots v n (withPairs regs m t).arc = refitVl { t.arc with vcfg := v, regs := regs, resident := n } := rfl

theorem setcVcfg_toTwo (s : State) (b : BitVec 5) (hok : vcfgOk (reg s s.cur b) = true)
    (hp : (coreOf s (coreIdx s.cur)).parity = []) (h2 : twoSlot (fld (reg s s.cur b) 0 6) (fld (reg s s.cur b) 7 7) = true)
    (h1 : vTwo (arcOf s) = false) (hw : ∀ r ∈ (arcOf s).recency.take 16, regWritten (arcOf s) r = false) :
    ∃ t : State, exec (.setcVcfg b) s = .next t ∧
      strandOf t s.cur = past { (strandOf s s.cur) with
        arc := refitVl { arcOf s with vcfg := reg s s.cur b, regs := (arcOf t).regs, resident := staying (arcOf s) } } ∧
      (∀ r, listGet [] (arcOf t).regs r = if r ∈ (arcOf s).recency.take 16 then [] else listGet [] (arcOf s).regs r) ∧
      t.mem = s.mem ∧ ∀ c, coreOf t c = coreOf s c := by
  obtain ⟨u, hu, left⟩ := framesOut_unwritten _ s s.cur rfl hp hw
  obtain ⟨f, hs⟩ : ∃ f, switchVcfg s s.cur (reg s s.cur b) =
      .ok (modArc (moveParity u s.cur f) s.cur (inTwoSlots (reg s s.cur b) (staying (arcOf s)))) :=
    switchVcfg_toTwo s s.cur (reg s s.cur b) u h2 h1 hu
  generalize staying (arcOf s) = n at hs ⊢
  obtain ⟨-, -, hcore⟩ := left.keeps
  obtain ⟨cur, mem, cores⟩ := classTaken_frame u s.cur f (inTwoSlots (reg s s.cur b) n) (by rw [hcore, hp])
  have run : exec (.setcVcfg b) s = .next (classTaken u s.cur f (inTwoSlots (reg s s.cur b) n)) :=
    exec_setcVcfg_ok s _ b hok hs
  have strand := strandOf_classTaken u s.cur f (inTwoSlots (reg s s.cur b) n)
  generalize classTaken u s.cur f (inTwoSlots (reg s s.cur b) n) = t at run strand cur mem cores
  rw [left.strand, inTwoSlots_withPairs, withArc_withPairs] at strand
  have regs : (arcOf t).regs = (arcOf u).regs := by
    rw [arcOf, cur, left.only.cur, strand, past_withArc_arc, refitVl_regs]
  refine ⟨t, run, ?_, fun r => ?_, mem.trans left.only.mem, fun c => (cores c).trans (hcore c)⟩
  · rw [regs, strand]
    rfl
  · rw [regs]
    exact left.regs r

theorem setcVcfg_toOne (s : State) (b : BitVec 5) (hok : vcfgOk (reg s s.cur b) = true)
    (hp : (coreOf s (coreIdx s.cur)).parity = []) (h2 : twoSlot (fld (reg s s.cur b) 0 6) (fld (reg s s.cur b) 7 7) = false)
    (h1 : vTwo (arcOf s) = true) (hw : ∀ r < 32, r ∉ (arcOf s).resident → regWritten (arcOf s) r = false) :
    ∃ t : State, exec (.setcVcfg b) s = .next t ∧
      strandOf t s.cur = past { (strandOf s s.cur) with
        arc := refitVl { arcOf s with vcfg := reg s s.cur b, regs := (arcOf t).regs, resident := (arcOf s).resident } } ∧
      (∀ r, listGet [] (arcOf t).regs r = (listGet [] (arcOf s).regs r).map fun x => BitVec.ofNat 64 (x.toNat % 2 ^ 32)) ∧
      t.mem = s.mem ∧ ∀ c, coreOf t c = coreOf s c := by
  have none : framesAway (strandOf s s.cur).arc = [] := by
    refine List.eq_nil_iff_forall_not_mem.mpr fun r hr => ?_
    obtain ⟨hlt, hres, hwr⟩ := (mem_framesAway _ r).mp hr
    exact absurd (hw r hlt hres) (by rw [arcOf, hwr]; decide)
  obtain ⟨f, hs⟩ := switchVcfg_toOne s s.cur (reg s s.cur b) h2 h1 none
  obtain ⟨cur, mem, cores⟩ := classTaken_frame s s.cur f (inOneSlot (reg s s.cur b)) hp
  have run : exec (.setcVcfg b) s = .next (classTaken s s.cur f (inOneSlot (reg s s.cur b))) := exec_setcVcfg_ok s _ b hok hs
  have strand := strandOf_classTaken s s.cur f (inOneSlot (reg s s.cur b))
  generalize classTaken s s.cur f (inOneSlot (reg s s.cur b)) = t at run strand cur mem cores
  have regs : (arcOf t).regs = lowHalves (arcOf s).regs := by
    rw [arcOf, cur, strand, past_withArc_arc]
    rfl
  refine ⟨t, run, ?_, fun r => ?_, mem, cores⟩
  · rw [regs, strand]
    rfl
  · rw [regs]
    exact listGet_lowHalves _ r

theorem setcVcfg_classChange (s : State) (b : BitVec 5) (hok : vcfgOk (reg s s.cur b) = true)
    (hp : (coreOf s (coreIdx s.cur)).parity = []) : ClassChange s (reg s s.cur b) (.setcVcfg b) past := by
  refine ⟨fun h2 h1 => ⟨fun hw => setcVcfg_toTwo s b hok hp h2 h1 hw, fun hw hv => ?_⟩,
    fun h2 h1 => ⟨fun hw => setcVcfg_toOne s b hok hp h2 h1 hw, fun hw hv => ?_⟩⟩
  · obtain ⟨u, hu, only⟩ := framesOut_noVault _ s s.cur rfl hp hv hw
    exact setcVcfg_noVault s _ b hok (switchVcfg_toTwo_fails s s.cur _ u h2 h1 hu) (onlyStrand_undo only) (strandOf_setStrand ..)
  · obtain ⟨r, hlt, hres, hwr⟩ := hw
    have some : framesAway (strandOf s s.cur).arc ≠ [] :=
      List.ne_nil_of_mem ((mem_framesAway _ r).mpr ⟨hlt, hres, hwr⟩)
    exact setcVcfg_noVault s _ b hok (switchVcfg_toOne_fails s s.cur _ h2 h1 some hv) (onlyStrand_undo (pairsLeft_nil s).only)
      (strandOf_setStrand ..)

/-! ## The clauses of the obligation -/

theorem getc_unassigned (s : State) (a : BitVec 5) (k : BitVec 11) (h : cregAssigned k.toNat = false) :
    TrapsHere s (.getc a k) cILLEGAL ((wordS 0x19 a 0 3 k).zeroExtend 64) := by
  refine trapsHere_illegal _ _ _ ?_
  rw [exec_getc, execGetc, cregThen_unassigned _ _ _ _ h]

theorem getc_priv (s : State) (a : BitVec 5) (k : BitVec 11) (h : cregAssigned k.toNat = true) (hk : 0x100 ≤ k.toNat)
    (hu : stSuper (strandOf s s.cur) = false) :
    TrapsHere s (.getc a k) cPRIV ((wordS 0x19 a 0 3 k).zeroExtend 64) := by
  refine trapsHere_word _ _ _ _ ?_
  rw [exec_getc, execGetc, cregThen_priv _ _ _ _ h hk hu]

/-- R96: the registers below 0x100 are read at U and at S. -/
theorem getc_user (s : State) (a : BitVec 5) (k : Nat) (v : Word) (hk : k < 0x100) (h : cregAssigned k = true)
    (hv : readCreg s s.cur k = v) : Writes s (.getc a (BitVec.ofNat 11 k)) a v :=
  getc_writes s a k v (by omega) h (.inl hk) hv

theorem getc_mxcfg (s : State) (a : BitVec 5) : Writes s (.getc a (BitVec.ofNat 11 0x008)) a
    (if behind (strandOf s s.cur) = true ∧ ownsMezz s s.cur = true then
      mxcfgAfter (coreOf s (coreIdx s.cur)).mezz.cfg (strandOf s s.cur).arc.viq else (coreOf s (coreIdx s.cur)).mezz.cfg) :=
  getc_user s a 0x008 _ (by decide) (by decide) (mxcfgNow_eq s s.cur)

theorem getc_lanemap (s : State) (a : BitVec 5) (n : Nat) (hn : n < 4) :
    Writes s (.getc a (BitVec.ofNat 11 (0x010 + n))) a (lanemapWord (strandOf s s.cur).arc n) := by
  refine getc_user s a _ _ (by omega) ?_ (readCreg_lanemap s s.cur n hn)
  simp only [cregAssigned, Bool.or_eq_true, Bool.and_eq_true, decide_eq_true_eq]
  omega

theorem getc_region (s : State) (a : BitVec 5) (k n j : Nat) (hk : k = 0x400 + 8 * n + j) (hs : stSuper (strandOf s s.cur) = true)
    (hn : n < 64) (hj : j ≤ 5) : Writes s (.getc a (BitVec.ofNat 11 k)) a (regionReg (regionOf s n) j) := by
  subst hk
  exact getc_writes s a _ _ (by omega) (cregAssigned_region n j hn hj) (.inr hs) (readCreg_region s s.cur n j hn (by omega))

theorem getc_pool (s : State) (a : BitVec 5) (w j : Nat) (hs : stSuper (strandOf s s.cur) = true) (hw : w < 16) (hj : j < 3) :
    Writes s (.getc a (BitVec.ofNat 11 (0x600 + 4 * w + j))) a (tblGet 0 s.pkg.pool (4 * w + j)) := by
  refine getc_writes s a _ _ (by omega) (cregAssigned_pool w j hw hj) (.inr hs) ?_
  rw [Nat.add_assoc]
  exact readCreg_pool s s.cur (4 * w + j)

theorem trapRegister_assigned : ∀ k ∈ [0x100, 0x101, 0x102, 0x103, 0x104],
    0x100 ≤ k ∧ k < 2 ^ 11 ∧ cregAssigned k = true ∧ decide (k = 0x007) = false ∧ decide (0x400 ≤ k) = false := by decide

/-- R46, R96: SETC of a trap register at S. -/
theorem setc_trapRegister (s : State) (b : BitVec 5) (k : Nat) (m : Word) (f : Word → Strand → Strand) (g : Strand → Strand)
    (hk : k ∈ [0x100, 0x101, 0x102, 0x103, 0x104]) (hs : stSuper (strandOf s s.cur) = true) (hm : cregMasks k = some (m, 0))
    (hv : reg s s.cur b &&& ~~~m = 0)
    (hw : ∀ v, writeCreg s s.cur k v = modStrand s s.cur (f v))
    (hg : f ((readCreg s s.cur k &&& ~~~m) ||| reg s s.cur b) (strandOf s s.cur) = g (strandOf s s.cur)) :
    Completes s (.setc b (BitVec.ofNat 11 k)) fun t => past (g t) := by
  obtain ⟨-, hlt, hassigned, hmfmt, hregion⟩ := trapRegister_assigned k hk
  have good (v : Word) : cregBad s k v = false := by simp [cregBad, hmfmt, hregion]
  exact (setc_taken s b k m _ hlt hassigned (.inr hs) hm hv (good _) (hw _)).congr (congrArg past hg)

theorem setc_trapRegister_refused (s : State) (b : BitVec 5) (k : Nat) (m : Word) (hk : k ∈ [0x100, 0x101, 0x102, 0x103, 0x104])
    (hs : stSuper (strandOf s s.cur) = true) (hm : cregMasks k = some (m, 0)) (hv : reg s s.cur b &&& ~~~m ≠ 0) :
    TrapsHere s (.setc b (BitVec.ofNat 11 k)) cILLEGAL (setcWord b (BitVec.ofNat 11 k)) := by
  obtain ⟨-, hlt, hassigned, -, -⟩ := trapRegister_assigned k hk
  exact setc_refused s b k m hlt hassigned (.inr hs) hm (.inl hv)

theorem setc_trapRegister_priv (s : State) (b : BitVec 5) (k : Nat) (hk : k ∈ [0x100, 0x101, 0x102, 0x103, 0x104])
    (hu : stSuper (strandOf s s.cur) = false) :
    TrapsHere s (.setc b (BitVec.ofNat 11 k)) cPRIV (setcWord b (BitVec.ofNat 11 k)) := by
  obtain ⟨hle, hlt, hassigned, -, -⟩ := trapRegister_assigned k hk
  exact setc_priv s b k hlt hassigned hle hu

/-- R46, R96: the registers that a strand of either mode may name in SETC and that have no writable bit. -/
theorem readOnly_assigned : ∀ k ∈ [0x003, 0x004, 0x005, 0x006, 0x009, 0x00A, 0x00C, 0x010, 0x011, 0x012, 0x013],
    k < 2 ^ 11 ∧ cregAssigned k = true ∧ k < 0x100 ∧ cregMasks k = none := by decide

/-- R159: a value of MFMT with no reserved bit and a format that exists is taken. -/
theorem setcMfmt_taken (s : State) (b : BitVec 5) (hv : reg s s.cur b &&& ~~~0xDF00FF = 0) (hf : fld (reg s s.cur b) 0 6 ≤ 0x22) :
    Completes s (.setc b (BitVec.ofNat 11 0x007)) fun t =>
      past { t with arc := { t.arc with mfmt := (t.arc.mfmt &&& ~~~0xDF00FF) ||| reg s s.cur b } } := by
  have good : cregBad s 0x007 (reg s s.cur b) = false := by simpa [cregBad] using hf
  have taken := setc_taken s b 0x007 0xDF00FF (fun t => { t with arc := { t.arc with
    mfmt := (readCreg s s.cur 0x007 &&& ~~~0xDF00FF) ||| reg s s.cur b } }) (by decide) (by decide) (.inl (by decide)) rfl hv good rfl
  exact taken.congr rfl

theorem setcMfmt_refused (s : State) (b : BitVec 5)
    (hv : reg s s.cur b &&& ~~~0xDF00FF ≠ 0 ∨ 0x22 < fld (reg s s.cur b) 0 6) :
    TrapsHere s (.setc b (BitVec.ofNat 11 0x007)) cILLEGAL (setcWord b (BitVec.ofNat 11 0x007)) := by
  refine setc_refused s b 0x007 _ (by decide) (by decide) (.inl (by decide)) rfl (hv.imp_right fun hf => ?_)
  simpa [cregBad] using hf

/-- Settles O12: each clause is the rule of its register, and a change of VCFG that changes the slot class moves no register unless one
of them has been written (R108, R120). -/
theorem controlRegisterAccess : Obligations.ControlRegisterAccess := by
  refine ⟨?_, ?_, ?_, ?_⟩
  · rintro s a t m rfl rfl
    have user (k : Nat) (v : Word) := getc_user s a k v
    refine ⟨?_, ?_, ?_, ?_, ?_, ?_, ?_, ?_, getc_mxcfg s a, ?_, ?_, ?_, ?_, ?_, fun n hn => getc_lanemap s a n hn,
      fun k h => getc_unassigned s a k h, fun k h hk hu => getc_priv s a k h hk hu, fun hs => ?_⟩
    case refine_14 =>
      have region (k n j : Nat) (hk : k = 0x400 + 8 * n + j) := getc_region s a k n j hk hs
      refine ⟨?_, ?_, ?_, ?_, ?_, fun n hn => ⟨region _ n 0 ?_ hn ?_, region _ n 1 ?_ hn ?_, region _ n 2 ?_ hn ?_,
        region _ n 3 ?_ hn ?_, region _ n 4 ?_ hn ?_, region _ n 5 ?_ hn ?_⟩, fun w hw j hj => getc_pool s a w j hs hw hj⟩
      iterate 5 exact getc_writes s a _ _ (by decide) (by decide) (.inr hs) rfl
      all_goals omega
    all_goals exact user _ _ (by decide) (by decide) rfl
  · rintro s b _ rfl
    have user (h : ¬ stSuper (strandOf s s.cur) = true) : stSuper (strandOf s s.cur) = false := Bool.eq_false_of_not_eq_true h
    have taken (k : Nat) (m : Word) (f : Word → Strand → Strand) (g : Strand → Strand) := setc_trapRegister s b k m f g
    have refused (k : Nat) (m : Word) := setc_trapRegister_refused s b k m
    have readOnly (k : Nat) (hk : k ∈ [0x003, 0x004, 0x005, 0x006, 0x009, 0x00A, 0x00C, 0x010, 0x011, 0x012, 0x013]) :
        Completes s (.setc b (BitVec.ofNat 11 k)) past := by
      obtain ⟨hlt, hassigned, huser, hmasks⟩ := readOnly_assigned k hk
      exact setc_readOnly s b k hlt hassigned (.inl huser) hmasks
    exact ⟨readOnly,
      fun hs hv => taken 0x100 _ (fun v t => { t with cause := v }) _ (by decide) hs rfl hv (fun _ => rfl) rfl,
      fun hs hv => refused 0x100 _ (by decide) hs rfl hv,
      fun hs hv => ⟨taken 0x101 _ (fun v t => { t with epc := v }) _ (by decide) hs rfl hv (fun _ => rfl) rfl,
        taken 0x103 _ (fun v t => { t with tvec := v }) _ (by decide) hs rfl hv (fun _ => rfl) rfl⟩,
      fun hs hv => ⟨refused 0x101 _ (by decide) hs rfl hv, refused 0x103 _ (by decide) hs rfl hv⟩,
      fun hs => taken 0x102 _ (fun v t => { t with tval := v }) _ (by decide) hs rfl (by simp) (fun _ => rfl) (by simp),
      fun hs hv => taken 0x104 _ (fun v t => { t with vault := v }) _ (by decide) hs rfl hv (fun _ => rfl) rfl,
      fun hs hv => refused 0x104 _ (by decide) hs rfl hv,
      setcMfmt_taken s b, setcMfmt_refused s b,
      fun hu k hk => setc_trapRegister_priv s b k hk (user hu),
      fun hu => ⟨setcStatus_user s b (user hu), setcVresume_user s b (user hu)⟩,
      setcStatus_taken s b, setcStatus_refused s b, setcSflags_taken s b, setcSflags_refused s b,
      fun hs hv => ⟨setcVresume_lane s b hs hv, setcVresume_discards s b hs hv, fun c p m => setcVresume_returns s b c p m hs hv⟩,
      setcVresume_refused s b⟩
  · rintro s b _ rfl
    exact ⟨setcVcfg_refused s b, setcVcfg_sameClass s b, setcVcfg_classChange s b⟩
  · rintro s b _ rfl
    have accepted := setcChainsrc_taken s b
    refine ⟨setcChainsrc_reserved s b, fun hv harm => accepted hv ?_, fun hv harm =>
      ⟨setcChainsrc_otherDie s b hv harm, fun hdie hon => accepted hv ?_, setcChainsrc_disabled s b hv harm⟩⟩
    · rw [chainBad, if_pos harm]
    · rw [chainBad, if_neg (by omega), if_neg (by simp [hdie]), hon]
      rfl

end Sys2Proof.Machine

namespace Sys2Proof.Machine

/-! ## Rounding to an integer (R11) -/

/-- R11: `k` is the integer nearest to `x`, of two equally near ones the even one. -/
def NearestInt (x : ℚ) (k : ℤ) : Prop := |x - k| * 2 ≤ 1 ∧ (|x - k| * 2 = 1 → Even k)

theorem NearestInt.bounds {x : ℚ} {k : ℤ} (h : NearestInt x k) : k - 1 / 2 ≤ x ∧ x ≤ k + 1 / 2 := by
  have := abs_le.mp (show |x - k| ≤ 1 / 2 by linarith [h.1])
  constructor <;> linarith [this.1, this.2]

theorem nearestInt_self (k : ℤ) : NearestInt (k : ℚ) k := by simp [NearestInt]

/-- No integer is nearer, and one that is equally near says that the nearest one is even. -/
theorem NearestInt.le_dist {x : ℚ} {k : ℤ} (h : NearestInt x k) (z : ℤ) :
    |x - k| ≤ |x - z| ∧ (z ≠ k → |x - k| = |x - z| → Even k) := by
  rcases eq_or_ne z k with rfl | hz
  · exact ⟨le_rfl, fun g => absurd rfl g⟩
  · have one : (1 : ℚ) ≤ |x - k| + |x - z| := by
      have : (1 : ℤ) ≤ |z - k| := Int.one_le_abs (sub_ne_zero.mpr hz)
      calc (1 : ℚ) ≤ |(z : ℚ) - k| := by exact_mod_cast this
        _ = |(x - k) - (x - z)| := by congr 1; ring
        _ ≤ |x - k| + |x - z| := abs_sub _ _
    exact ⟨by linarith [h.1], fun _ g => h.2 (by linarith [h.1])⟩

theorem NearestInt.unique {x : ℚ} {j k : ℤ} (h : NearestInt x j) (g : NearestInt x k) : j = k := by
  by_contra hne
  have e : |x - j| = |x - k| := le_antisymm (h.le_dist k).1 (g.le_dist j).1
  have hj := (h.le_dist k).2 (Ne.symm hne) e
  have hk := (g.le_dist j).2 hne e.symm
  have b1 := h.bounds
  have b2 := g.bounds
  have h1 : (j : ℚ) - k ≤ 1 := by linarith [b1.1, b2.2]
  have h2 : (k : ℚ) - j ≤ 1 := by linarith [b1.2, b2.1]
  have h1 : j - k ≤ 1 := by exact_mod_cast h1
  have h2 : k - j ≤ 1 := by exact_mod_cast h2
  obtain ⟨a, ha⟩ := hj
  obtain ⟨b, hb⟩ := hk
  omega

theorem NearestInt.neg {x : ℚ} {k : ℤ} (h : NearestInt x k) : NearestInt (-x) (-k) := by
  have e : |-x - ((-k : ℤ) : ℚ)| = |x - k| := by
    rw [show -x - ((-k : ℤ) : ℚ) = -(x - k) by push_cast; ring, abs_neg]
  rw [NearestInt, e]
  exact ⟨h.1, fun g => (h.2 g).neg⟩

theorem NearestInt.le_of_le {x : ℚ} {k t : ℤ} (h : NearestInt x k) (g : x ≤ t) : k ≤ t := by
  have : (k : ℚ) < t + 1 := by linarith [h.bounds.1]
  exact Int.lt_add_one_iff.mp (by exact_mod_cast this)

theorem NearestInt.ge_of_ge {x : ℚ} {k t : ℤ} (h : NearestInt x k) (g : t ≤ x) : t ≤ k := by
  have : (t : ℚ) < k + 1 := by linarith [h.bounds.2]
  exact Int.lt_add_one_iff.mp (by exact_mod_cast this)

/-- A number rounds to less than an even integer exactly when it lies below the middle before it. -/
theorem NearestInt.lt_even_iff {x : ℚ} {k t : ℤ} (h : NearestInt x k) (ht : Even t) : k < t ↔ x < t - 1 / 2 := by
  constructor
  · intro hk
    have hk' : (k : ℚ) ≤ t - 1 := by exact_mod_cast Int.le_sub_one_of_lt hk
    refine lt_of_le_of_ne (by linarith [h.bounds.2]) fun hx => ?_
    have e : (k : ℚ) = t - 1 := by linarith [h.bounds.2]
    have ek : k = t - 1 := by exact_mod_cast e
    have hev : Even k := h.2 (by rw [hx, e]; norm_num)
    rw [ek] at hev
    exact Int.not_even_iff_odd.mpr (by simpa using ht.sub_odd odd_one) hev
  · intro hx
    by_contra hk
    have hk' : (t : ℚ) ≤ k := by exact_mod_cast not_lt.mp hk
    linarith [h.bounds.1]

theorem two_zpow_pos (n : ℤ) : (0 : ℚ) < 2 ^ n := zpow_pos (by norm_num) n

theorem two_zpow_toNat {n : ℤ} (h : 0 ≤ n) : ((2 ^ n.toNat : ℕ) : ℚ) = 2 ^ n := by
  obtain ⟨k, rfl⟩ := Int.eq_ofNat_of_zero_le h
  simp

/-- A number `q + r / 2h` with `r` at most `h` rounds down, an even `q` on a tie. -/
theorem nearestInt_down (q r h : ℕ) (hh : 0 < h) (hr : r ≤ h) (tie : r = h → Even q) :
    NearestInt (q + r / (2 * h)) (q : ℤ) := by
  have hpos : (0 : ℚ) < h := by exact_mod_cast hh
  have e : |(q : ℚ) + r / (2 * h) - ((q : ℤ) : ℚ)| * 2 = r / h := by
    rw [show (q : ℚ) + r / (2 * h) - ((q : ℤ) : ℚ) = r / (2 * h) by push_cast; ring, abs_of_nonneg (by positivity)]
    field_simp
  rw [NearestInt, e, div_le_one hpos, div_eq_one_iff_eq hpos.ne']
  exact ⟨by exact_mod_cast hr, fun g => by exact_mod_cast tie (by exact_mod_cast g)⟩

/-- A number `q + r / 2h` with `r` from `h` to `2h` rounds up, to an even `q + 1` on a tie. -/
theorem nearestInt_up (q r h : ℕ) (hh : 0 < h) (hr : h ≤ r) (hr' : r ≤ 2 * h) (tie : r = h → Even (q + 1)) :
    NearestInt (q + r / (2 * h)) ((q + 1 : ℕ) : ℤ) := by
  have hpos : (0 : ℚ) < h := by exact_mod_cast hh
  have hle : (r : ℚ) ≤ 2 * h := by exact_mod_cast hr'
  have e : |(q : ℚ) + r / (2 * h) - (((q + 1 : ℕ) : ℤ) : ℚ)| * 2 = (2 * h - r) / h := by
    rw [show (q : ℚ) + r / (2 * h) - (((q + 1 : ℕ) : ℤ) : ℚ) = -((2 * h - r) / (2 * h)) by
      push_cast; field_simp; ring, abs_neg, abs_of_nonneg (div_nonneg (by linarith) (by positivity))]
    field_simp
  rw [NearestInt, e, div_le_one hpos, div_eq_one_iff_eq hpos.ne']
  have hge : (h : ℚ) ≤ r := by exact_mod_cast hr
  refine ⟨by linarith, fun g => ?_⟩
  have e' : (r : ℚ) = h := by linarith
  exact_mod_cast tie (by exact_mod_cast e')

/-- R11: the shift rounds to the nearest integer with ties to even. -/
theorem nearestInt_rneShift (m : ℕ) (s : ℤ) : NearestInt (m * 2 ^ (-s)) (rneShift m s) := by
  by_cases hs : s ≤ 0
  · have e : (m * 2 ^ (-s) : ℚ) = ((rneShift m s : ℤ) : ℚ) := by
      rw [rneShift, if_pos hs, ← two_zpow_toNat (by omega : 0 ≤ -s)]
      push_cast
      rfl
    rw [e]
    exact nearestInt_self _
  · obtain ⟨k, rfl⟩ : ∃ k : ℕ, s = (k + 1 : ℕ) := ⟨(s - 1).toNat, by omega⟩
    have hd := Nat.div_add_mod m (2 ^ (k + 1))
    have hr : m % 2 ^ (k + 1) < 2 ^ (k + 1) := Nat.mod_lt _ (by positivity)
    simp only [rneShift, if_neg hs, Int.toNat_natCast, Nat.add_sub_cancel]
    generalize m / 2 ^ (k + 1) = q at *
    generalize m % 2 ^ (k + 1) = r at *
    rw [show (2 : ℕ) ^ (k + 1) = 2 * 2 ^ k by ring] at hd hr
    have hh : 0 < 2 ^ k := by positivity
    have x_eq : (m * 2 ^ (-((k + 1 : ℕ) : ℤ)) : ℚ) = q + r / (2 * (2 ^ k : ℕ)) := by
      rw [zpow_neg, zpow_natCast, ← hd, pow_succ]
      push_cast
      field_simp
    rw [x_eq]
    have even_iff : q % 2 = 0 ↔ Even q := Nat.even_iff.symm
    split_ifs with h1 h2 h3
    · exact nearestInt_down q r _ hh h1.le fun g => absurd g h1.ne
    · exact nearestInt_up q r _ hh h2.le hr.le fun g => absurd g h2.ne'
    · exact nearestInt_down q r _ hh (by omega) fun _ => even_iff.mp h3
    · exact nearestInt_up q r _ hh (by omega) hr.le fun _ => by rw [Nat.even_iff]; omega

/-- The shift is exact when it moves left or drops only zeros. -/
theorem rneShift_exact_iff (m : ℕ) (s : ℤ) : (m * 2 ^ (-s) : ℚ) = rneShift m s ↔ s ≤ 0 ∨ m % 2 ^ s.toNat = 0 := by
  by_cases hs : s ≤ 0
  · rw [rneShift, if_pos hs, ← two_zpow_toNat (by omega : 0 ≤ -s)]
    simp [hs]
  · have hpow : (2 : ℚ) ^ (-s) = ((2 ^ s.toNat : ℕ) : ℚ)⁻¹ := by rw [two_zpow_toNat (by omega), zpow_neg]
    have hpos : (0 : ℚ) < ((2 ^ s.toNat : ℕ) : ℚ) := by positivity
    rw [hpow, ← div_eq_mul_inv, div_eq_iff hpos.ne', or_iff_right hs]
    constructor
    · intro h
      have h : m = rneShift m s * 2 ^ s.toNat := by exact_mod_cast h
      rw [h]
      exact Nat.mul_mod_left _ _
    · intro h
      have hd := Nat.div_add_mod m (2 ^ s.toNat)
      rw [h, Nat.add_zero] at hd
      have hr : rneShift m s = m / 2 ^ s.toNat := by
        simp [rneShift, hs, h]
      rw [hr]
      exact_mod_cast (by rw [Nat.mul_comm]; exact hd.symm : m = m / 2 ^ s.toNat * 2 ^ s.toNat)

/-- The leading bit of `m × 2^e`. -/
theorem leadExp_bounds (m : ℕ) (e : ℤ) (h : m ≠ 0) : (2 : ℚ) ^ leadExp m e ≤ m * 2 ^ e ∧ (m : ℚ) * 2 ^ e < 2 ^ (leadExp m e + 1) := by
  have h1 : (2 ^ Nat.log2 m : ℕ) ≤ m := Nat.log2_self_le h
  have h2 : m < 2 ^ (Nat.log2 m + 1) := Nat.lt_log2_self
  have h1 : (2 : ℚ) ^ Nat.log2 m ≤ m := by exact_mod_cast h1
  have h2 : (m : ℚ) < 2 ^ (Nat.log2 m + 1) := by exact_mod_cast h2
  have he := two_zpow_pos e
  unfold leadExp
  constructor
  · rw [zpow_add₀ (by norm_num), zpow_natCast]
    exact mul_le_mul_of_nonneg_right h1 he.le
  · rw [show ((Nat.log2 m : ℤ) + e + 1) = ((Nat.log2 m + 1 : ℕ) : ℤ) + e by push_cast; ring, zpow_add₀ (by norm_num), zpow_natCast]
    exact mul_lt_mul_of_pos_right h2 he

end Sys2Proof.Machine

namespace Sys2Proof.Machine

/-! ## What the sequencer changes (R274, R276) -/

/-- Nothing but cores has changed. -/
def OnlyCores (s t : State) : Prop := t = { s with cores := t.cores }

theorem OnlyCores.refl (s : State) : OnlyCores s s := rfl

theorem OnlyCores.trans {s t u : State} (h : OnlyCores s t) (g : OnlyCores t u) : OnlyCores s u := by
  unfold OnlyCores at *
  rw [g, h]

theorem onlyCores_modCore (s : State) (c : Nat) (f : Core → Core) : OnlyCores s (modCore s c f) := rfl

theorem onlyCores_foldl {α : Type} (f : State → α → State) (h : ∀ s a, OnlyCores s (f s a)) (l : List α) (s : State) :
    OnlyCores s (l.foldl f s) := by
  induction l generalizing s with
  | nil => exact .refl s
  | cons a l ih => exact (h s a).trans (ih (f s a))

theorem onlyCores_refillDeficits (s : State) (core : Nat) (ls : List Nat) : OnlyCores s (refillDeficits s core ls) :=
  onlyCores_foldl _ (fun _ _ => onlyCores_modCore _ _ _) ls s

theorem onlyCores_chooseAmong (s : State) (core : Nat) (ready : List Nat) : OnlyCores s (chooseAmong s core ready) := by
  unfold chooseAmong
  cases ready with
  | nil => exact .refl s
  | cons x r =>
    dsimp only
    split
    · exact (onlyCores_refillDeficits s core _).trans (onlyCores_modCore _ _ _)
    · exact onlyCores_modCore _ _ _

theorem onlyCores_admitEntry (s : State) (id : Nat) (w : BitVec 32) : OnlyCores s (admitEntry s id w).1 := by
  unfold admitEntry
  dsimp only
  split
  · exact .refl s
  · split
    · exact .refl s
    · exact onlyCores_chooseAmong _ _ _

theorem OnlyCores.strands {s t : State} (h : OnlyCores s t) : t.strands = s.strands := by rw [h]
theorem OnlyCores.mem {s t : State} (h : OnlyCores s t) : t.mem = s.mem := by rw [h]
theorem OnlyCores.cur {s t : State} (h : OnlyCores s t) : t.cur = s.cur := by rw [h]
theorem OnlyCores.strandOf {s t : State} (h : OnlyCores s t) (j : Nat) : strandOf t j = strandOf s j := by
  rw [Machine.strandOf, h.strands, Machine.strandOf]

theorem admitEntry_unsequenced (s : State) (id : Nat) (w : BitVec 32)
    (h : needsSequencer w = false ∨ (strandOf s id).arc.bays = 0) : admitEntry s id w = (s, true) :=
  if_pos (by rcases h with h | h <;> simp [h])

/-! ## What the issue of a word changes (R230, R277) -/

/-- The issue of a word may make its strand due and count it; nothing else. -/
theorem atIssue_eq (s : State) (id : Nat) : ∃ d n, (atIssue s id = s ∧ d = (strandOf s id).due ∧ n = (strandOf s id).linkCount) ∨
    atIssue s id = modStrand s id fun x => { x with due := d, linkCount := n } := by
  unfold atIssue
  dsimp only
  split
  · exact ⟨_, _, .inr rfl⟩
  · exact ⟨_, _, .inl ⟨rfl, rfl, rfl⟩⟩

theorem atIssue_mem (s : State) (id : Nat) : (atIssue s id).mem = s.mem := by
  obtain ⟨d, n, ⟨h, -, -⟩ | h⟩ := atIssue_eq s id <;> simp [h]
theorem atIssue_cores (s : State) (id : Nat) : (atIssue s id).cores = s.cores := by
  obtain ⟨d, n, ⟨h, -, -⟩ | h⟩ := atIssue_eq s id <;> simp [h]
theorem atIssue_pkg (s : State) (id : Nat) : (atIssue s id).pkg = s.pkg := by
  obtain ⟨d, n, ⟨h, -, -⟩ | h⟩ := atIssue_eq s id <;> simp [h]
theorem strandOf_atIssue_ne (s : State) (id j : Nat) (hj : j ≠ id) : strandOf (atIssue s id) j = strandOf s j := by
  obtain ⟨d, n, ⟨h, -, -⟩ | h⟩ := atIssue_eq s id
  · rw [h]
  · rw [h, strandOf_modStrand_ne _ _ _ _ hj]
theorem strandOf_atIssue (s : State) (id : Nat) :
    ∃ d n, strandOf (atIssue s id) id = { (strandOf s id) with due := d, linkCount := n } := by
  obtain ⟨d, n, ⟨h, rfl, rfl⟩ | h⟩ := atIssue_eq s id
  · exact ⟨_, _, by rw [h]⟩
  · exact ⟨d, n, by rw [h, strandOf_modStrand]⟩
theorem atIssue_plain (s : State) (id : Nat) (hd : mustDrain s id = false) (hl : holdsLink s id = false) : atIssue s id = s := by
  simp [atIssue, hd, hl]

/-! ## The turn of a strand (R36, R229, R278) -/

/-- R278: a pre-emption is taken from a strand that runs or is parked. -/
theorem slot_of_preemptsHere (s : State) (id : Nat) (h : preemptsHere s id = true) :
    (strandOf s id).slot = .run ∨ (strandOf s id).slot = .park := by
  simp only [preemptsHere, atSavePoint, Bool.and_eq_true, Bool.or_eq_true, beq_iff_eq] at h
  obtain ⟨⟨⟨-, hp | ⟨⟨hr, -⟩, -⟩⟩, -⟩, -⟩ := h
  · exact .inr hp
  · exact .inl hr

theorem preemptsHere_off (s : State) (id : Nat) (h : (strandOf s id).slot ≠ .run) (g : (strandOf s id).slot ≠ .park) :
    preemptsHere s id = false :=
  Bool.eq_false_iff.mpr fun hp => (slot_of_preemptsHere s id hp).elim h g

/-- The next move of the agenda is the turn of the strand `u.cur`, in the state `u`. -/
def TurnOf (s u : State) (r : List Move) : Prop :=
  (s.agenda = [] ∧ u = s) ∨ ∃ id, s.agenda = .run id :: r ∧ u = { s with agenda := r, cur := id }

theorem step_turn {s u : State} {r : List Move} (hf : s.pkg.fatal = none) (h : TurnOf s u r) :
    step s = strandStep u ∧ u.pkg.fatal = none := by
  obtain ⟨ha, rfl⟩ | ⟨id, ha, rfl⟩ := h
  · exact ⟨by rw [step, ha], hf⟩
  · exact ⟨by simp [step, ha, hf], hf⟩

theorem step_event {s : State} {i : Instr} {r : List Move} (hf : s.pkg.fatal = none) (h : s.agenda = .event i :: r) :
    step s = exec i { s with agenda := r } := by
  simp [step, h, hf]

section
variable {u : State} (hf : u.pkg.fatal = none)
include hf

theorem strandStep_preempts (h : preemptsHere u u.cur = true) : strandStep u = exec (.preemptionTaken u.cur) u := by
  simp [strandStep, hf, h]

theorem strandStep_results (h : preemptsHere u u.cur = false) (hr : (strandOf u u.cur).slot = .run)
    (hq : (strandOf u u.cur).arc.results ≠ []) : strandStep u = exec (.resultQueueReturn u.cur) u := by
  simp [strandStep, hf, h, hr, hq]

/-- The oldest entry of the VIQ has its turn where the strand runs or drains before a save, and where it is parked behind the entry. -/
theorem strandStep_entry (h : preemptsHere u u.cur = false) {e : Held} {l : List Held} (hv : (strandOf u u.cur).arc.viq = e :: l)
    (hs : ((strandOf u u.cur).slot = .run ∧ (strandOf u u.cur).arc.results = []) ∨ (strandOf u u.cur).slot = .save ∨
      ((strandOf u u.cur).slot = .park ∧ behind (strandOf u u.cur) = true)) : strandStep u = entryTurn u e := by
  obtain ⟨hs, hr⟩ | hs | ⟨hs, hb⟩ := hs
  · simp [strandStep, hf, h, hs, hr, hv]
  · simp [strandStep, hf, h, hs, hv]
  · simp [strandStep, hf, h, hs, hv, hb]

theorem strandStep_fetch (h : preemptsHere u u.cur = false) (hs : (strandOf u u.cur).slot = .run)
    (hr : (strandOf u u.cur).arc.results = []) (hv : (strandOf u u.cur).arc.viq = []) :
    (∀ v, fetch u u.cur = .trap v → strandStep u = .next v) ∧ ∀ w, fetch u u.cur = .word w → strandStep u = issueWord u w := by
  constructor <;> intro x hx <;> simp [strandStep, hf, h, hs, hr, hv, hx]

theorem strandStep_drain (hs : (strandOf u u.cur).slot = .drain) : strandStep u = exec (.endDrain u.cur) u := by
  have h := preemptsHere_off u u.cur (by rw [hs]; decide) (by rw [hs]; decide)
  simp [strandStep, hf, h, hs]

theorem strandStep_park (h : preemptsHere u u.cur = false) (hs : (strandOf u u.cur).slot = .park)
    (hv : (strandOf u u.cur).arc.viq = [] ∨ (strandOf u u.cur).arc.waits = none) : strandStep u = exec (.parkWake u.cur) u := by
  cases hq : (strandOf u u.cur).arc.viq with
  | nil => simp [strandStep, hf, h, hs, hq]
  | cons e l => simp [strandStep, hf, h, hs, hq, behind, hv.resolve_left (by simp [hq])]

theorem strandStep_save (hs : (strandOf u u.cur).slot = .save) (hv : (strandOf u u.cur).arc.viq = []) :
    strandStep u = if (strandOf u u.cur).arc.results = [] then exec (.contextSaveComplete u.cur) u
      else exec (.resultQueueReturn u.cur) u := by
  have h := preemptsHere_off u u.cur (by rw [hs]; decide) (by rw [hs]; decide)
  simp [strandStep, hf, h, hs, hv]

theorem strandStep_idle (hs : (strandOf u u.cur).slot = .free ∨ (strandOf u u.cur).slot = .start) : strandStep u = .next u := by
  have h := preemptsHere_off u u.cur (by rcases hs with hs | hs <;> rw [hs] <;> decide)
    (by rcases hs with hs | hs <;> rw [hs] <;> decide)
  rcases hs with hs | hs <;> simp [strandStep, hf, h, hs]

end

/-! ## Entries that RETS has redispatched (R210, R229, R276) -/

theorem issueWord_eq (u : State) (w : BitVec 32) :
    issueWord u w = if (admitEntry u u.cur w).2 then exec (decodeWord w) (atIssue (admitEntry u u.cur w).1 u.cur)
      else .next (admitEntry u u.cur w).1 := rfl

theorem runEntry_eq (u : State) (w : BitVec 32) :
    runEntry u w = if (admitEntry u u.cur w).2 then exec (decodeWord w) (admitEntry u u.cur w).1
      else .next (admitEntry u u.cur w).1 := rfl

theorem entryTurn_redispatched (u : State) (e : Held) (h : (strandOf u u.cur).arc.waits = none) :
    entryTurn u e = countHolds (strandOf u u.cur) u.cur (runEntry u e.word) := by
  simp [entryTurn, behind, h]

theorem entryTurn_waiting (u : State) (e : Held) (h : (strandOf u u.cur).arc.waits ≠ none) :
    entryTurn u e = behindTurn u e (fun w => exec (decodeWord w)) (exec (.parkWake u.cur)) := by
  simp [entryTurn, behind, Option.isSome_iff_ne_none.mpr h]

/-! ## The control side behind an entry that waits (R101, R201, R203) -/

/-- The turn of the control side of the strand `cur` after the oldest entry of its VIQ has not completed. -/
def controlTurn (x : State) (run : BitVec 32 → State → Res) (park : State → Res) : Res :=
  match (strandOf x x.cur).slot with
  | .run => fetchBehind x run
  | .park => park x
  | _ => .next x

theorem behindTurn_eq (u x : State) (e : Held) (run : BitVec 32 → State → Res) (park : State → Res) (hc : x.cur = u.cur)
    (h : headTurn u e run = .next x) : behindTurn u e run park =
      if headWaits (strandOf u u.cur) (strandOf x u.cur) then controlTurn x run park else .next x := by
  rw [behindTurn, h, controlTurn, hc] <;> rfl

theorem headTurn_refused (u : State) (e : Held) (run : BitVec 32 → State → Res) (h : (admitEntry u u.cur e.word).2 = false) :
    headTurn u e run = .next (admitEntry u u.cur e.word).1 := by
  unfold headTurn
  split <;> simp_all

theorem headTurn_admitted (u : State) (e : Held) (run : BitVec 32 → State → Res) (h : (admitEntry u u.cur e.word).2 = true) :
    headTurn u e run = runHead (admitEntry u u.cur e.word).1 u.cur (run e.word) := by
  unfold headTurn
  split <;> simp_all

theorem headWaits_iff (old new : Strand) :
    headWaits old new = true ↔ new.arc.waits ≠ none ∧ new.arc.viq.length = old.arc.viq.length := by
  simp [headWaits, Option.isSome_iff_ne_none]

theorem runHead_fault (s : State) (id : Nat) (run : State → Res) (f : Fault) (h : run (headState s id) = .fault f) :
    runHead s id run = .fault f := by
  unfold runHead
  unfold headState at h
  simp only [h]

theorem issueBehind_waits (x : State) (w : BitVec 32) (run : State → Res)
    (h : waitsForViq (strandOf x x.cur) w = true ∨ touchesPending (strandOf x x.cur) w = true) :
    issueBehind x w run = .next (blockOn x x.cur .viq) :=
  if_pos (by simpa using h)

theorem issueBehind_runs (x y : State) (w : BitVec 32) (run : State → Res) (h : waitsForViq (strandOf x x.cur) w = false)
    (g : touchesPending (strandOf x x.cur) w = false) (hy : run (atIssue x x.cur) = .next y) :
    issueBehind x w run = if tookTrap (strandOf x x.cur) (strandOf y x.cur) w then .next (blockOn x x.cur .viq)
      else .next (modStrand y x.cur fun q => { q with atStrip := stripWord w && q.blocked.isNone }) := by
  rw [issueBehind, if_neg (by simp [h, g]), hy]

/-- What the turn `out` of the control side of the strand `id` is in the state `x`. -/
structure ControlGoesOn (out : Res) (id : Nat) (x : State) : Prop where
  park : (strandOf x id).slot = .park → out = exec (.parkWake id) x
  other : (strandOf x id).slot ≠ .run → (strandOf x id).slot ≠ .park → out = .next x
  stops : (strandOf x id).slot = .run → stopsIssue (strandOf x id) = true → out = .next x
  trap : ∀ y, (strandOf x id).slot = .run → stopsIssue (strandOf x id) = false → fetch x id = .trap y → out = .next (blockOn x id .viq)
  word : ∀ w, (strandOf x id).slot = .run → stopsIssue (strandOf x id) = false → fetch x id = .word w →
    (waitsForViq (strandOf x id) w = true ∨ touchesPending (strandOf x id) w = true → out = .next (blockOn x id .viq)) ∧
    (waitsForViq (strandOf x id) w = false → touchesPending (strandOf x id) w = false →
      ∀ y, exec (decodeWord w) (atIssue x id) = .next y →
        (tookTrap (strandOf x id) (strandOf y id) w = true → out = .next (blockOn x id .viq)) ∧
        (tookTrap (strandOf x id) (strandOf y id) w = false →
          out = .next (modStrand y id fun q => { q with atStrip := stripWord w && q.blocked.isNone })))

theorem controlGoesOn (x : State) :
    ControlGoesOn (controlTurn x (fun w => exec (decodeWord w)) (exec (.parkWake x.cur))) x.cur x where
  park hs := by simp [controlTurn, hs]
  other hr hp := by
    unfold controlTurn
    split
    · exact absurd ‹_› hr
    · exact absurd ‹_› hp
    · rfl
  stops hs h := by simp [controlTurn, hs, fetchBehind, h]
  trap y hs h hy := by simp [controlTurn, hs, fetchBehind, h, hy]
  word w hs h hw := by
    have e : controlTurn x (fun w => exec (decodeWord w)) (exec (.parkWake x.cur)) = issueBehind x w (exec (decodeWord w)) := by
      simp [controlTurn, hs, fetchBehind, h, hw]
    rw [e]
    refine ⟨issueBehind_waits x w _, fun h1 h2 y hy => ?_⟩
    rw [issueBehind_runs x y w _ h1 h2 hy]
    exact ⟨fun ht => if_pos ht, fun ht => if_neg (by simp [ht])⟩

/-! ## Traps of the fetch (R63, R73, R294) -/

/-- Only the Usher's log has changed. -/
def OnlyLog (s t : State) : Prop := t = { s with pkg := { s.pkg with usher := { s.pkg.usher with log := t.pkg.usher.log } } }

theorem OnlyLog.trans {s t u : State} (h : OnlyLog s t) (g : OnlyLog t u) : OnlyLog s u := by
  unfold OnlyLog at *
  rw [g, h]

theorem onlyLog_addReportOnce (s : State) (k n : Nat) : OnlyLog s (addReportOnce s k n) := by
  unfold addReportOnce
  split <;> rfl

theorem onlyLog_noteFault (s : State) (f : XFault) : OnlyLog s (noteFault s f) := by
  unfold noteFault
  split
  · rfl
  · exact onlyLog_addReportOnce _ _ _

theorem onlyLog_reports (l : List (Nat × XFault)) (s : State) :
    OnlyLog s (l.foldl (fun u x => addReportOnce (noteFault u x.2) 73 x.1) s) := by
  induction l generalizing s with
  | nil => rfl
  | cons x l ih => exact ((onlyLog_noteFault s x.2).trans (onlyLog_addReportOnce _ _ _)).trans (ih _)

theorem onlyLog_poolCheck (s : State) (ctx : Nat) (a : Word) : OnlyLog s (poolCheck s ctx a).2 := onlyLog_reports _ s

theorem OnlyLog.mem {s t : State} (h : OnlyLog s t) : t.mem = s.mem := by rw [h]
theorem OnlyLog.strandOf {s t : State} (h : OnlyLog s t) (j : Nat) : strandOf t j = strandOf s j := by
  rw [h]
  rfl

/-- R101: what a fetch that traps leaves: its strand enters the trap, and beside a report nothing else changes. -/
def FetchTraps (s : State) (id cause : Nat) : Prop :=
  ∃ u, fetch s id = .trap u ∧
    strandOf u id = trapped cause ((strandOf s id).pc.signExtend 64) ((strandOf s id).pc.zeroExtend 64) (strandOf s id) ∧
    u.mem = s.mem ∧ ∀ j, j ≠ id → strandOf u j = strandOf s j

theorem fetchTraps_of {s u : State} {id cause : Nat} (h : OnlyLog s u)
    (hf : fetch s id = .trap (takeTrap u id cause ((strandOf s id).pc.signExtend 64) (pcWord (strandOf s id)))) :
    FetchTraps s id cause := by
  refine ⟨_, hf, by rw [strandOf_takeTrap, h.strandOf]; rfl, by rw [takeTrap_mem, h.mem], fun j hj => ?_⟩
  rw [← h.strandOf j]
  unfold takeTrap strandFailure
  split <;> exact strandOf_modStrand_ne _ _ _ _ hj

/-! ## The clauses of the obligation -/

theorem fetch_untranslated (s : State) (id : Nat) (f : XFault)
    (h : translateFetch s (agentOf s id) ((strandOf s id).pc.signExtend 64) = .error f) : FetchTraps s id f.cause :=
  fetchTraps_of (onlyLog_noteFault s f) (by simp only [fetch, h])

theorem fetch_pool (s : State) (id : Nat) (q : Target)
    (h : translateFetch s (agentOf s id) ((strandOf s id).pc.signExtend 64) = .ok q)
    (hp : (poolCheck s (stLanding (strandOf s id)) ((strandOf s id).pc.signExtend 64)).1 = true) : FetchTraps s id cEXEC_POOL := by
  refine fetchTraps_of (onlyLog_poolCheck s (stLanding (strandOf s id)) ((strandOf s id).pc.signExtend 64)) ?_
  simp only [fetch, h]
  split
  · simp_all
  · simp_all

theorem fetch_noPool (s : State) (id : Nat) (q : Target)
    (h : translateFetch s (agentOf s id) ((strandOf s id).pc.signExtend 64) = .ok q)
    (hp : (poolCheck s (stLanding (strandOf s id)) ((strandOf s id).pc.signExtend 64)).1 = false) :
    fetch s id = if targetBad s (clusterIdx id) q 4 then
        .trap (takeTrap s id cMEM_UE ((strandOf s id).pc.signExtend 64) (pcWord (strandOf s id)))
      else .word (BitVec.ofNat 32 (targetRead s (clusterIdx id) q 4)) := by
  simp only [fetch, h]
  split
  · simp_all
  · rfl

/-- R201: what the turn of the oldest entry, which waits on the array side, makes of a step. -/
theorem strandStep_behind {u : State} (hf : u.pkg.fatal = none) (h : preemptsHere u u.cur = false) {e : Held} {l : List Held}
    (hs : ((strandOf u u.cur).slot = .run ∧ (strandOf u u.cur).arc.results = []) ∨ (strandOf u u.cur).slot = .save ∨
      (strandOf u u.cur).slot = .park) (hv : (strandOf u u.cur).arc.viq = e :: l) (hw : (strandOf u u.cur).arc.waits ≠ none) :
    strandStep u = behindTurn u e (fun w => exec (decodeWord w)) (exec (.parkWake u.cur)) := by
  rw [strandStep_entry hf h hv (hs.imp_right (Or.imp_right fun g => ⟨g, Option.isSome_iff_ne_none.mpr hw⟩)), entryTurn_waiting _ _ hw]

theorem behindTurn_goesOn {u x : State} {e : Held} (hc : x.cur = u.cur) (h : headTurn u e (fun w => exec (decodeWord w)) = .next x)
    (hw : headWaits (strandOf u u.cur) (strandOf x u.cur) = true) :
    ControlGoesOn (behindTurn u e (fun w => exec (decodeWord w)) (exec (.parkWake u.cur))) u.cur x := by
  rw [behindTurn_eq u x e _ _ hc h, if_pos hw, ← hc]
  exact controlGoesOn x

theorem behindTurn_fault {u : State} {e : Held} {run : BitVec 32 → State → Res} {park : State → Res} {f : Fault}
    (h : headTurn u e run = .fault f) : behindTurn u e run park = .fault f := by
  rw [behindTurn, h]

/-- R201: the oldest entry has run, and the control side is taken up again. -/
theorem headTurn_next {u w : State} {e : Held} (ha : (admitEntry u u.cur e.word).2 = true)
    (he : exec (decodeWord e.word) (headState (admitEntry u u.cur e.word).1 u.cur) = .next w) :
    headTurn u e (fun w => exec (decodeWord w)) =
      .next (modStrand { w with cur := u.cur } u.cur (afterHead (strandOf u u.cur))) := by
  have held := onlyCores_admitEntry u u.cur e.word
  rw [headTurn_admitted u e _ ha, runHead_next _ w _ (exec (decodeWord e.word)) he, held.cur, held.strandOf]

/-- Settles O58: a step is the turn of its strand, each kind of turn has its equation, and the control side behind a waiting entry is
one turn of its own. -/
theorem stepRunsDecoded : Obligations.StepRunsDecoded := by
  refine ⟨fun s r u hf hu => ?_, fun s i r hf h => step_event hf h, fun s id => ?_⟩
  · obtain ⟨hstep, hf⟩ := step_turn hf hu
    rw [hstep]
    have held (w : BitVec 32) := onlyCores_admitEntry u u.cur w
    refine ⟨strandStep_preempts hf, slot_of_preemptsHere u u.cur, strandStep_results hf, ?_, ?_, ?_,
      fun w hw => admitEntry_unsequenced u u.cur w hw, fun w => ⟨(held w).strands, (held w).mem⟩, atIssue_mem _ _, atIssue_cores _ _,
      atIssue_pkg _ _, strandOf_atIssue_ne _ _, strandOf_atIssue _ _, atIssue_plain _ _,
      fun v hp hs hr hv => (strandStep_fetch hf hp hs hr hv).1 v, strandStep_drain hf, strandStep_park hf, ?_, ?_, strandStep_idle hf⟩
    · intro e l hp hs hv hw
      rw [strandStep_entry hf hp hv (hs.imp_right .inl), entryTurn_redispatched u e hw, runEntry_eq]
      refine ⟨fun ha => ?_, fun ha => ⟨fun f he => ?_, fun w he => ?_⟩⟩
      · simp [ha, countHolds, (held e.word).strandOf]
      · simp [ha, he, countHolds]
      · simp only [ha, he, countHolds, if_true]
        rfl
    · intro e l hp hs hv hw
      rw [strandStep_behind hf hp hs hv hw]
      have goesOn (x : State) (hc : x.cur = u.cur) (h : headTurn u e (fun w => exec (decodeWord w)) = .next x)
          (hx : headWaits (strandOf u u.cur) (strandOf x u.cur) = true) := behindTurn_goesOn hc h hx
      refine ⟨fun ha => ?_, fun ha => ⟨fun f he => ?_, fun w he => ⟨fun hx => ?_, fun hx => ?_⟩⟩⟩
      · obtain ⟨hpark, hother, hstops, htrap, hword⟩ := goesOn _ (held e.word).cur (headTurn_refused u e _ ha)
          ((headWaits_iff _ _).mpr (by rw [(held e.word).strandOf]; exact ⟨hw, rfl⟩))
        exact ⟨hpark, hother, hstops, htrap, hword⟩
      · exact behindTurn_fault ((headTurn_admitted u e _ ha).trans (runHead_fault _ _ _ f he))
      · obtain ⟨hpark, hother, hstops, htrap, hword⟩ := goesOn _ (by rfl) (headTurn_next ha he) ((headWaits_iff _ _).mpr hx)
        exact ⟨hpark, hother, hstops, htrap, hword⟩
      · rw [behindTurn_eq u _ e _ _ (by rfl) (headTurn_next ha he), if_neg (mt (headWaits_iff _ _).mp hx)]
    · intro w hp hs hr hv hw
      rw [(strandStep_fetch hf hp hs hr hv).2 w hw, issueWord_eq]
      exact ⟨fun ha => if_pos ha, fun ha => if_neg (by simp [ha])⟩
    · intro hs hr hv
      rw [strandStep_save hf hs hv, if_pos hr]
    · intro hs hr hv
      rw [strandStep_save hf hs hv, if_neg hr]
  · refine ⟨fetch_untranslated s id, fun q hq => ⟨fetch_pool s id q hq, fun hp hb => ?_, fun hp hb => ?_⟩⟩
    · exact fetchTraps_of (u := s) rfl (by rw [fetch_noPool s id q hq hp, if_pos hb])
    · rw [fetch_noPool s id q hq hp, if_neg (by simp [hb])]

end Sys2Proof.Machine

namespace Sys2Proof.Machine

/-! ## The end of a collective (R365, R368) -/

theorem exec_collectiveEnd (gid cseq : Nat) (s : State) : exec (.collectiveEnd gid cseq) s = execCollectiveEnd gid cseq s := rfl
theorem exec_contributionArrival (n : Nat) (s : State) : exec (.contributionArrival n) s = execContributionArrival n s := rfl

theorem modEngine_engine (s : State) (f : CollEngine → CollEngine) : (modEngine s f).pkg.engine = f s.pkg.engine := rfl

/-- Ending a collective is what R365 says of an end, of the state in which it ends. -/
theorem collEnds_endColl (s : State) (gid cseq status : Nat) (f : EngineOp → Word × Word) :
    CollEnds s (endColl s gid cseq status f) gid cseq status f where
  ops := rfl
  sent c hc := by
    simp only [endColl, modEngine_engine, List.mem_append, List.mem_map]
    exact .inl ⟨c, hc, rfl⟩
  gone := by
    simp only [collRemote, endColl, modEngine_engine, List.filter_filter]
    exact List.filter_eq_nil_iff.mpr fun c _ => by simp
  outcome h := by
    have kept : keptOutcome ⟨gid, cseq, status, laterCseqs s.pkg.engine gid cseq⟩ = true := decide_eq_true h
    simp only [outcomeOf, endColl, modEngine_engine, List.filter_cons_of_pos kept]
    simp
  mem := rfl
  strands := rfl

theorem collEnds_collFault (s : State) (gid cseq : Nat) (o : EngineOp) (f : WordFault) :
    CollEnds s (collFault s gid cseq o f) gid cseq 3 fun p =>
      if (collOf p).rank = (collOf o).rank then (statusWord f.2 f.1 2, 0) else (statusWord 0 0 3, 0) :=
  collEnds_endColl _ _ _ _ _

theorem collEnds_endAll (s : State) (gid cseq status : Nat) :
    CollEnds s (endAll s gid cseq status) gid cseq status fun _ => (statusWord 0 0 status, 0) :=
  collEnds_endColl _ _ _ _ _

/-- An end rests on the engine, memory and strands of the state alone. -/
theorem CollEnds.of_agenda {s t : State} {r : List Move} {gid cseq status : Nat} {f : EngineOp → Word × Word}
    (h : CollEnds { s with agenda := r } t gid cseq status f) : CollEnds s t gid cseq status f :=
  ⟨h.ops, h.sent, h.gone, h.outcome, h.mem, h.strands⟩

/-- A collective whose contributions are present and whose issuers are idle runs. -/
theorem exec_collectiveEnd_ready (s : State) (gid cseq : Nat) (d : CollDesc) (hd : ((collOps s gid cseq).map collOf).head? = some d)
    (hn : (collOps s gid cseq).length + (collRemote s gid cseq).length = d.n) (hb : (collOps s gid cseq).any (issuerBusy s) = false) :
    exec (.collectiveEnd gid cseq) s = .next (runColl s gid cseq d (collOps s gid cseq)) := by
  rw [exec_collectiveEnd, execCollectiveEnd]
  simp only [List.head?_append, hd, Option.some_or]
  rw [if_pos ⟨hn, hb⟩]

/-- Each rank's elements, of those read here and those of other packages. -/
def rankData (d : CollDesc) (ls : List (Nat × List Nat)) (remote : List Contribution) : List (List Nat) :=
  (List.range d.n).map fun r => (((ls ++ remote.map fun c => (c.desc.rank, c.data)).find? fun p => p.1 == r).map (·.2)).getD []

/-- The free values that a fast reduction draws. -/
def drawn (d : CollDesc) (u : State) : State := if d.fast = true then { u with free := u.free + 2 * d.n * redCount d } else u

theorem runColl_unread (s u : State) (gid cseq : Nat) (d : CollDesc) (ops : List EngineOp) (o : EngineOp) (f : WordFault)
    (h : readSources ops s = (u, .error (o, f))) : runColl s gid cseq d ops = collFault u gid cseq o f := by
  simp only [runColl, h]

theorem runColl_unwritten (s u w : State) (gid cseq : Nat) (d : CollDesc) (ops : List EngineOp) (ls : List (Nat × List Nat))
    (o : EngineOp) (f : WordFault) (h : readSources ops s = (u, .ok ls))
    (hw : writeResults (reduceAll d u.free (rankData d ls (collRemote u gid cseq))).1 ops (drawn d u) = (w, some (o, f))) :
    runColl s gid cseq d ops = collFault w gid cseq o f := by
  unfold rankData drawn at hw
  simp only [runColl, h, hw]

theorem runColl_done (s u w : State) (gid cseq : Nat) (d : CollDesc) (ops : List EngineOp) (ls : List (Nat × List Nat))
    (h : readSources ops s = (u, .ok ls))
    (hw : writeResults (reduceAll d u.free (rankData d ls (collRemote u gid cseq))).1 ops (drawn d u) = (w, none)) :
    runColl s gid cseq d ops =
      endColl w gid cseq 0 fun _ => (0, (reduceAll d u.free (rankData d ls (collRemote u gid cseq))).2) := by
  unfold rankData drawn at *
  simp only [runColl, h, hw]

/-! ## Matching (R365, R371) -/

theorem exec_contributionArrival_matched (s : State) (p q : List Contribution) (c : Contribution)
    (ha : s.pkg.engine.arriving = p ++ c :: q) (ho : outcomeOf s c.desc.gid c.desc.cseq = none) :
    exec (.contributionArrival p.length) s = .next (matchColl { s with pkg := { s.pkg with engine := { s.pkg.engine with
      arriving := p ++ q, remote := s.pkg.engine.remote ++ [c] } } } c.desc.gid c.desc.cseq) := by
  have hi : s.pkg.engine.arriving[p.length]? = some c := by simp [ha]
  have he : s.pkg.engine.arriving.eraseIdx p.length = p ++ q := by
    rw [ha, List.eraseIdx_append_of_length_le le_rfl]
    simp
  rw [exec_contributionArrival, execContributionArrival, hi]
  unfold outcomeOf at ho
  simp only [outcomeOf, modEngine, he, ho]

theorem matchColl_unread (s u : State) (gid cseq : Nat) (o : EngineOp) (f : WordFault)
    (h : localParts (collOps s gid cseq) s = (u, .error (o, f))) : matchColl s gid cseq = collFault u gid cseq o f := by
  simp only [matchColl, h]

theorem matchColl_read (s u : State) (gid cseq : Nat) (ps : List Part) (h : localParts (collOps s gid cseq) s = (u, .ok ps)) :
    matchColl s gid cseq = if partsMismatch (ps ++ (collRemote u gid cseq).map remotePart) then endAll u gid cseq 1
      else if partsLost u (ps ++ (collRemote u gid cseq).map remotePart) then endAll u gid cseq 4 else u := by
  simp only [matchColl, h]

theorem length_filter_ne_lt (a : Nat) (l : List Nat) (h : a ∈ l) : (l.filter fun b => !b == a).length < l.length := by
  exact List.length_filter_lt_length_iff_exists.mpr ⟨a, h, by simp⟩

theorem length_eraseDups (l : List Nat) : l.eraseDups.length ≤ l.length ∧ (l.eraseDups.length < l.length ↔ ¬ l.Nodup) := by
  induction h : l.length using Nat.strong_induction_on generalizing l with
  | _ n ih =>
    subst h
    cases l with
    | nil => simp
    | cons a l =>
      rw [List.eraseDups_cons]
      have hle := List.length_filter_le (fun b => !b == a) l
      obtain ⟨h1, h2⟩ := ih _ (by simp only [List.length_cons]; omega) (l.filter fun b => !b == a) rfl
      simp only [List.length_cons, List.nodup_cons]
      by_cases ha : a ∈ l
      · have := length_filter_ne_lt a l ha
        exact ⟨by omega, ⟨fun _ hn => hn.1 ha, fun _ => by omega⟩⟩
      · have e : (l.filter fun b => !b == a) = l := List.filter_eq_self.mpr fun b hb => by
          simp only [Bool.not_eq_true', beq_eq_false_iff_ne]
          rintro rfl
          exact ha hb
        rw [e] at h1 h2 ⊢
        simp only [ha, not_false_eq_true, true_and, ← h2]
        omega

/-- R365: what counts as a disagreement. -/
theorem partsMismatch_iff (ps : List Part) : partsMismatch ps = true ↔
    (∃ x ∈ ps, ∃ y ∈ ps, x.desc.n ≠ y.desc.n ∨ x.desc.kind ≠ y.desc.kind ∨ x.desc.fast ≠ y.desc.fast ∨
      x.desc.etype ≠ y.desc.etype ∨ x.desc.count ≠ y.desc.count ∨ x.desc.root ≠ y.desc.root ∨ x.table ≠ y.table ∨
      y.desc.n ≤ x.desc.rank) ∨
    ¬ (ps.map fun x => x.desc.rank).Nodup ∨
    ∃ x ∈ ps, 2 ^ 14 ≤ listGet 0 x.table x.desc.rank ∨
      4 * (listGet 0 x.table x.desc.rank % 2 ^ 12) + listGet 0 x.table x.desc.rank / 2 ^ 12 % 4 ≠ x.source := by
  have dups := (length_eraseDups (ps.map fun x => x.desc.rank)).2
  rw [List.length_map] at dups
  simp only [partsMismatch, Bool.or_eq_true, decide_eq_true_eq, dups, List.any_eq_true, partMisplaced, partsDiffer, entryDie, bitsOf,
    bne_iff_ne, or_assoc]
  simp only [pow_zero, Nat.div_one, Nat.reducePow]
  exact or_comm.trans or_assoc

/-! ## Flagged lists and sums -/

theorem foldl_add_int (l : List Int) (a : Int) : l.foldl (· + ·) a = a + l.sum := by
  induction l generalizing a with
  | nil => simp
  | cons x l ih => rw [List.foldl_cons, ih, List.sum_cons, add_assoc]

theorem foldl_or_word (l : List Word) (a : Word) : l.foldl (· ||| ·) a = a ||| orFlags l := by
  unfold orFlags
  induction l generalizing a with
  | nil => simp
  | cons x l ih => rw [List.foldl_cons, ih, List.foldl_cons, ih (0 ||| x), show (0 : Word) ||| x = x from BitVec.zero_or, BitVec.or_assoc]

@[simp] theorem orFlags_nil : orFlags [] = 0 := rfl
@[simp] theorem orFlags_cons (x : Word) (l : List Word) : orFlags (x :: l) = x ||| orFlags l := by
  rw [orFlags, List.foldl_cons, foldl_or_word, show (0 : Word) ||| x = x from BitVec.zero_or]

/-- One flag is raised exactly when some of the results raises it. -/
theorem orFlags_flagIf {α : Type} (l : List α) (c : α → Bool) (f : Word) :
    orFlags (l.map fun x => flagIf (c x) f) = if l.any c then f else 0 := by
  induction l with
  | nil => rfl
  | cons x l ih =>
    rw [List.map_cons, orFlags_cons, ih, List.any_cons]
    cases c x <;> cases l.any c <;> simp [flagIf]

theorem clampInt_eq (x lo hi : Int) (h : lo ≤ hi) : clampInt x lo hi = max lo (min x hi) := by
  unfold clampInt
  split_ifs <;> omega

theorem listGet_flSeq {α : Type} (d : α) (f : Nat → Fl α) (n i : Nat) (h : i < n) :
    listGet d (flSeq ((List.range n).map f)).1 i = (f i).1 := by
  simp [listGet, flSeq, h]

theorem flSeq_range {α : Type} (f : Nat → Fl α) (n : Nat) : (flSeq ((List.range n).map f)).1.length = n ∧
    (flSeq ((List.range n).map f)).2 = orFlags ((List.range n).map fun i => (f i).2) := by
  simp [flSeq, Function.comp_def]

/-! ## The exact sum of integers (R366) -/

theorem intSum_eq (w : Nat) (xs : List Nat) : intSum w xs =
    (wrapInt w (max (-2 ^ (w - 1)) (min (xs.map (signed w)).sum (2 ^ (w - 1) - 1))),
      flagIf (decide ((xs.map (signed w)).sum < -2 ^ (w - 1)) || decide (2 ^ (w - 1) - 1 < (xs.map (signed w)).sum)) flagACCSAT) := by
  have hb : -(2 : Int) ^ (w - 1) ≤ 2 ^ (w - 1) - 1 := by
    have : (0 : Int) < 2 ^ (w - 1) := by positivity
    omega
  simp only [intSum, satInt, sBounds, foldl_add_int, zero_add, clampInt_eq _ _ _ hb]

theorem reduceAll_int (d : CollDesc) (c : Nat) (data : List (List Nat)) (hk : d.kind = 0 ∨ d.kind = 1) (hf : d.fast = false)
    (he : d.etype ≤ 1) : reduceAll d c data = flSeq ((List.range (redCount d)).map fun i =>
      intSum (if d.etype = 0 then 32 else 64) (data.map fun l => listGet 0 l i)) := by
  have hb : 8 * elemBytes d.etype = if d.etype = 0 then 32 else 64 := by
    obtain h | h : d.etype = 0 ∨ d.etype = 1 := by omega
    all_goals simp [h, elemBytes]
  unfold reduceAll
  rcases hk with hk | hk <;> simp only [hk, hf, exactReduce, if_pos he, hb] <;> rfl

/-! ## Blocks of an exact sum (R366) -/

/-- Blocks of 64 indices in a row are the indices. -/
theorem flatten_blocks {α : Type} (F : Nat → Nat → α) (n B : Nat) :
    ((List.range B).map fun j => (List.range (min 64 (n - 64 * j))).map fun k => F j k).flatten =
      (List.range (min n (64 * B))).map fun i => F (i / 64) (i % 64) := by
  induction B with
  | zero => simp
  | succ B ih =>
    rw [List.range_succ, List.map_append, List.flatten_append, ih]
    simp only [List.map_cons, List.map_nil, List.flatten_cons, List.flatten_nil, List.append_nil]
    by_cases h : 64 * B ≤ n
    · rw [show min n (64 * (B + 1)) = min n (64 * B) + min 64 (n - 64 * B) by omega, List.range_add, List.map_append, List.map_map]
      congr 1
      refine List.map_congr_left fun k hk => ?_
      have hk := List.mem_range.mp hk
      rw [Function.comp_apply, show (min n (64 * B) + k) / 64 = B by omega, show (min n (64 * B) + k) % 64 = k by omega]
    · rw [show min 64 (n - 64 * B) = 0 by omega, show min n (64 * (B + 1)) = min n (64 * B) by omega]
      simp

/-- The values of the block of index `i` among `n`. -/
def blockVals (vals : Nat → List Val) (n j : Nat) : List Val :=
  ((List.range (min 64 (n - 64 * j))).map fun k => vals (64 * j + k)).flatten

theorem mem_blockVals (vals : Nat → List Val) (n j : Nat) (x : Val) :
    x ∈ blockVals vals n j ↔ ∃ k < n, k / 64 = j ∧ x ∈ vals k := by
  simp only [blockVals, List.mem_flatten, List.mem_map, List.mem_range]
  constructor
  · rintro ⟨_, ⟨k, hk, rfl⟩, hx⟩
    exact ⟨64 * j + k, by omega, by omega, hx⟩
  · rintro ⟨k, hk, rfl, hx⟩
    exact ⟨_, ⟨k % 64, by omega, rfl⟩, by rwa [Nat.div_add_mod]⟩

theorem exactReduce_float (etype n : Nat) (at' : Nat → List Nat) (he : 2 ≤ etype) : exactReduce etype n at' =
    flSeq ((List.range n).map fun i => fixSum (elemFmt etype)
      (blockEx (elemFmt etype) (blockVals (fun i => (at' i).map (readFloat (elemFmt etype))) n (i / 64)))
      ((at' i).map (readFloat (elemFmt etype)))) := by
  rw [exactReduce, if_neg (by omega)]
  refine congrArg flSeq ((flatten_blocks (fun j k => fixSum (elemFmt etype)
    (blockEx (elemFmt etype) (blockVals (fun i => (at' i).map (readFloat (elemFmt etype))) n j))
    ((at' (64 * j + k)).map (readFloat (elemFmt etype)))) n ((n + 63) / 64)).trans ?_)
  rw [show min n (64 * ((n + 63) / 64)) = n by omega]
  simp only [Nat.div_add_mod]

/-- The exponent of a list of values bounds that of each and is that of one, and there is none when no value has one. -/
theorem blockEx_spec (f : FFmt) (xs : List Val) :
    (blockEx f xs = none ∧ ∀ x ∈ xs, exOf f x = none) ∨
    ∃ e, blockEx f xs = some e ∧ (∃ x ∈ xs, exOf f x = some e) ∧ ∀ x ∈ xs, ∀ k, exOf f x = some k → k ≤ e := by
  unfold blockEx
  induction xs using List.reverseRecOn with
  | nil => exact .inl ⟨rfl, fun x hx => absurd hx List.not_mem_nil⟩
  | append_singleton xs y ih =>
    rw [List.map_append, List.foldl_append]
    simp only [List.map_cons, List.map_nil, List.foldl_cons, List.foldl_nil, List.mem_append, List.mem_singleton]
    cases hy : exOf f y with
    | none =>
      obtain ⟨h, g⟩ | ⟨e, h, ⟨x, hx, hxe⟩, g⟩ := ih
      · exact .inl ⟨by rw [h]; rfl, by rintro x (hx | rfl); exacts [g x hx, hy]⟩
      · refine .inr ⟨e, by rw [h]; rfl, ⟨x, .inl hx, hxe⟩, ?_⟩
        rintro z (hz | rfl) k hk
        · exact g z hz k hk
        · simp [hy] at hk
    | some a =>
      obtain ⟨h, g⟩ | ⟨e, h, ⟨x, hx, hxe⟩, g⟩ := ih
      · refine .inr ⟨a, by rw [h]; rfl, ⟨y, .inr rfl, hy⟩, ?_⟩
        rintro z (hz | rfl) k hk
        · simp [g z hz] at hk
        · exact (Option.some.inj (hy ▸ hk)).ge
      · refine .inr ⟨max e a, by rw [h]; rfl, ?_, ?_⟩
        · obtain hm | hm := max_choice e a
          · exact ⟨x, .inl hx, by rw [hm, hxe]⟩
          · exact ⟨y, .inr rfl, by rw [hm, hy]⟩
        · rintro z (hz | rfl) k hk
          · exact (g z hz k hk).trans (le_max_left _ _)
          · exact (Option.some.inj (hy ▸ hk)).ge.trans (le_max_right _ _)

theorem ratOf_num (n : Bool) (m : Nat) (e : Int) : ratOf (.num n m e) = some ((if n then -1 else 1) * (m : ℚ) * 2 ^ e) := rfl

theorem abs_signed_num (n : Bool) (m : Nat) (e : Int) : |(if n then -1 else 1) * (m : ℚ) * 2 ^ e| = m * 2 ^ e := by
  have := two_zpow_pos e
  rw [abs_mul, abs_mul, abs_of_pos this, Nat.abs_cast]
  cases n <;> simp

theorem exOf_eq_some (f : FFmt) (x : Val) (k : Int) (h : exOf f x = some k) : ∃ v, ratOf x = some v ∧ v ≠ 0 ∧ 1 - (f.bias : Int) ≤ k ∧
    |v| < 2 ^ (k + 1) ∧ (k = 1 - f.bias ∨ 2 ^ k ≤ |v|) := by
  cases x with
  | num n m e =>
    simp only [exOf] at h
    split at h
    · cases h
    · rename_i hm
      obtain rfl := Option.some.inj h
      obtain ⟨h1, h2⟩ := leadExp_bounds m e hm
      refine ⟨_, ratOf_num n m e, ?_, le_max_right _ _, ?_, ?_⟩
      · rw [← abs_pos, abs_signed_num]
        exact lt_of_lt_of_le (two_zpow_pos _) h1
      · rw [abs_signed_num]
        exact h2.trans_le (zpow_le_zpow_right₀ (by norm_num) (by omega))
      · rw [abs_signed_num]
        obtain hk | hk := max_choice (leadExp m e) (1 - (f.bias : Int))
        · exact .inr (by rwa [hk])
        · exact .inl hk
  | _ => simp [exOf] at h

theorem exOf_eq_none (f : FFmt) (x : Val) (v : ℚ) (h : exOf f x = none) (hv : ratOf x = some v) : v = 0 := by
  cases x with
  | num n m e =>
    simp only [exOf] at h
    split at h
    · rename_i hm
      rw [ratOf_num, hm] at hv
      simpa using hv.symm
    · cases h
  | _ => cases hv

theorem lt_of_two_zpow_lt {a b : Int} (h : (2 : ℚ) ^ a < 2 ^ b) : a < b := (zpow_lt_zpow_iff_right₀ (by norm_num)).mp h

/-- R366: the exponent that R366 describes is the one that is computed. -/
theorem BlockExponent.eq (f : FFmt) (block : Val → Prop) (xs : List Val) (hm : ∀ x, x ∈ xs ↔ block x) (e : Int)
    (h : BlockExponent f block e) : blockEx f xs = some e := by
  obtain ⟨hlow, hlt, x, v, hx, hv, hv0, hbig⟩ := h
  obtain ⟨-, hn⟩ | ⟨k, hk, ⟨y, hy, hye⟩, hle⟩ := blockEx_spec f xs
  · exact absurd (exOf_eq_none f x v (hn x ((hm x).mpr hx)) hv) hv0
  · obtain ⟨w, hw, -, hklow, hwlt, hwbig⟩ := exOf_eq_some f y k hye
    cases hxe : exOf f x with
    | none => exact absurd (exOf_eq_none f x v hxe hv) hv0
    | some j =>
      obtain ⟨v', hv', -, hjlow, hvlt, -⟩ := exOf_eq_some f x j hxe
      obtain rfl := Option.some.inj (hv ▸ hv')
      have hjk := hle x ((hm x).mpr hx) j hxe
      have upper : k ≤ e := by
        obtain rfl | hwbig := hwbig
        · exact hlow
        · have := lt_of_two_zpow_lt (hwbig.trans_lt (hlt y w ((hm y).mp hy) hw))
          omega
      have lower : e ≤ k := by
        obtain rfl | hbig := hbig
        · exact hklow
        · have := lt_of_two_zpow_lt (hbig.trans_lt hvlt)
          omega
      rw [hk, le_antisymm upper lower]

/-- A block whose values are all zero has no exponent. -/
theorem blockEx_zeros (f : FFmt) (xs : List Val) (h : ∀ x ∈ xs, ∀ v, ratOf x = some v → v = 0) : blockEx f xs = none := by
  obtain ⟨hn, -⟩ | ⟨e, -, ⟨x, hx, hxe⟩, -⟩ := blockEx_spec f xs
  · exact hn
  · obtain ⟨v, hv, hv0, -⟩ := exOf_eq_some f x e hxe
    exact absurd (h x hx v hv) hv0

/-! ## Terms in fixed point (R366) -/

theorem TermOf.nearest {q : Int} {x : Val} {k : Int} (h : TermOf q x k) : ∃ v, ratOf x = some v ∧ NearestInt (v * 2 ^ (-q)) k := by
  obtain ⟨v, hv, h1, h2⟩ := h
  have hq := two_zpow_pos q
  have e : |v * 2 ^ (-q) - k| * 2 * 2 ^ q = |v - k * 2 ^ q| * 2 := by
    rw [show v - k * 2 ^ q = (v * 2 ^ (-q) - k) * 2 ^ q by
      rw [sub_mul, mul_assoc, ← zpow_add₀ (by norm_num)]; simp, abs_mul, abs_of_pos hq]
    ring
  refine ⟨v, hv, ?_, fun g => h2 ?_⟩
  · rw [← e] at h1
    exact le_of_mul_le_mul_right (by rwa [one_mul]) hq
  · rw [← e, g, one_mul]

theorem ratOf_fixTerm (q : Int) (x : Val) (v : ℚ) (h : ratOf x = some v) : NearestInt (v * 2 ^ (-q)) (fixTerm q x).1 ∧
    (fixTerm q x).2 = if v = (fixTerm q x).1 * 2 ^ q then 0 else flagNX := by
  cases x with
  | num n m e =>
    rw [ratOf_num] at h
    obtain rfl := Option.some.inj h
    have near := nearestInt_rneShift m (-(e - q))
    have exact := rneShift_exact_iff m (-(e - q))
    rw [neg_neg] at near exact
    have scaled : (if n then -1 else 1) * (m : ℚ) * 2 ^ e * 2 ^ (-q) = (if n then -1 else 1) * (m * 2 ^ (e - q)) := by
      rw [mul_assoc _ ((2 : ℚ) ^ e), ← zpow_add₀ (by norm_num), mul_assoc]
      rfl
    have hterm : (fixTerm q (.num n m e)).1 = (if n then -1 else 1) * (rneShift m (-(e - q)) : Int) := by
      cases n <;> simp [fixTerm, roundNat]
    have inexact : (if 0 ≤ e - q then false else m % 2 ^ (-(e - q)).toNat != 0) = true ↔
        ¬ (m * 2 ^ (e - q) : ℚ) = rneShift m (-(e - q)) := by
      rw [exact]
      simp
    have same : (if n then -1 else 1) * (m : ℚ) * 2 ^ e = (fixTerm q (.num n m e)).1 * 2 ^ q ↔
        (m * 2 ^ (e - q) : ℚ) = rneShift m (-(e - q)) := by
      rw [← mul_left_inj' (two_zpow_pos (-q)).ne', scaled, mul_assoc, ← zpow_add₀ (by norm_num), add_neg_cancel, zpow_zero, mul_one, hterm]
      cases n <;> simp
    refine ⟨?_, ?_⟩
    · rw [scaled, hterm]
      cases n
      · simpa using near
      · simpa using near.neg
    · rw [if_congr same rfl rfl]
      by_cases hx : (m * 2 ^ (e - q) : ℚ) = rneShift m (-(e - q))
      · rw [if_pos hx]
        have := (not_congr inexact).mpr (not_not.mpr hx)
        simp only [fixTerm, roundNat, Bool.not_eq_true] at this ⊢
        rw [this]
        rfl
      · rw [if_neg hx]
        have := inexact.mpr hx
        simp only [fixTerm, roundNat]
        rw [this]
        rfl
  | _ => cases h

theorem terms_eq {q : Int} {xs : List Val} {ts : List Int} (h : List.Forall₂ (TermOf q) xs ts) :
    ts = xs.map fun x => (fixTerm q x).1 := by
  induction h with
  | nil => rfl
  | cons hx _ ih =>
    obtain ⟨v, hv, hn⟩ := hx.nearest
    rw [List.map_cons, ← ih, hn.unique (ratOf_fixTerm q _ v hv).1]

theorem termFlags_eq {q : Int} {xs : List Val} {ts : List Int} (h : List.Forall₂ (TermOf q) xs ts) :
    (List.Forall₂ (fun x (k : ℤ) => ratOf x = some ((k : ℚ) * 2 ^ q)) xs ts → orFlags (xs.map fun x => (fixTerm q x).2) = 0) ∧
    (¬ List.Forall₂ (fun x (k : ℤ) => ratOf x = some ((k : ℚ) * 2 ^ q)) xs ts → orFlags (xs.map fun x => (fixTerm q x).2) = flagNX) := by
  induction h with
  | nil => exact ⟨fun _ => rfl, fun h => absurd .nil h⟩
  | @cons x k l m hx _ ih =>
    obtain ⟨v, hv, hn⟩ := hx.nearest
    obtain ⟨hn', hf⟩ := ratOf_fixTerm q x v hv
    obtain rfl := hn.unique hn'
    rw [List.forall₂_cons, List.map_cons, orFlags_cons, hf, hv, Option.some_inj]
    by_cases e : v = ((fixTerm q x).1 : ℚ) * 2 ^ q
    · rw [if_pos e]
      simp only [e, true_and]
      simpa using ih
    · rw [if_neg e]
      simp only [e, false_and, not_false_eq_true, true_implies, false_implies, true_and]
      by_cases hr : List.Forall₂ (fun x (k : ℤ) => ratOf x = some ((k : ℚ) * 2 ^ q)) l m
      · simp [ih.1 hr]
      · simp [ih.2 hr]

/-! ## One index of an exact sum (R366) -/

/-- R366: the terms at an index have a NaN, or infinities of both signs. -/
def NoSum (xs : List Val) : Prop := (∃ b, .nan b ∈ xs) ∨ (.inf true ∈ xs ∧ .inf false ∈ xs)

theorem any_isNaN_iff (xs : List Val) : xs.any isNaN = true ↔ ∃ b, .nan b ∈ xs := by
  rw [List.any_eq_true]
  constructor
  · rintro ⟨x, hx, h⟩
    cases x with
    | nan b => exact ⟨b, hx⟩
    | _ => cases h
  · rintro ⟨b, h⟩
    exact ⟨_, h, rfl⟩

theorem noSum_iff (xs : List Val) :
    (xs.any isNaN || (xs.any (· = .inf true) && xs.any (· = .inf false))) = true ↔ NoSum xs := by
  rw [Bool.or_eq_true, Bool.and_eq_true, any_isNaN_iff, NoSum]
  simp

theorem fixSum_nan (f : FFmt) (e : Option Int) (xs : List Val) (h : NoSum xs) : fixSum f e xs = (fNaN f, flagNV) := by
  rw [fixSum.eq_def, if_pos ((noSum_iff xs).mpr h)]

theorem fixSum_inf (f : FFmt) (e : Option Int) (xs : List Val) (n : Bool) (h : ¬ NoSum xs) (hn : .inf n ∈ xs) :
    fixSum f e xs = fInf f n := by
  rw [fixSum.eq_def, if_neg (mt (noSum_iff xs).mp h)]
  cases n with
  | true => exact if_pos (by simpa using hn)
  | false =>
    have ht : .inf true ∉ xs := fun ht => h (.inr ⟨ht, hn⟩)
    rw [if_neg (by simpa using ht), if_pos (by simpa using hn)]

theorem fixSum_finite (f : FFmt) (xs : List Val) (h : ¬ NoSum xs) (hi : ∀ n, .inf n ∉ xs) : fixSum f none xs = (0, 0) ∧
    ∀ k, fixSum f (some k) xs =
      if (xs.map fun x => (fixTerm (k - 47) x).1).sum = 0 then (0, orFlags (xs.map fun x => (fixTerm (k - 47) x).2))
      else ((toFloat f (.num (decide ((xs.map fun x => (fixTerm (k - 47) x).1).sum < 0))
          (xs.map fun x => (fixTerm (k - 47) x).1).sum.natAbs (k - 47))).1,
        orFlags (xs.map fun x => (fixTerm (k - 47) x).2) |||
          (toFloat f (.num (decide ((xs.map fun x => (fixTerm (k - 47) x).1).sum < 0))
            (xs.map fun x => (fixTerm (k - 47) x).1).sum.natAbs (k - 47))).2) := by
  have h1 : ¬ xs.any (· = .inf true) = true := by simpa using hi true
  have h2 : ¬ xs.any (· = .inf false) = true := by simpa using hi false
  constructor
  · rw [fixSum.eq_def, if_neg (mt (noSum_iff xs).mp h), if_neg h1, if_neg h2]
  · intro k
    rw [fixSum.eq_def, if_neg (mt (noSum_iff xs).mp h), if_neg h1, if_neg h2]
    simp only [flSeq, List.map_map, Function.comp_def, foldl_add_int, zero_add, toFloat, linearize]

theorem snd_fInf (f : FFmt) (n : Bool) (h : f.special = .ieee) : (fInf f n).2 = 0 := by
  rw [fInf, h]

/-- The terms as numbers are those of the integers. -/
theorem forall₂_cast_iff (q : Int) (xs : List Val) (ts : List Int) :
    List.Forall₂ (fun x (k : ℚ) => ratOf x = some (k * 2 ^ q)) xs (do let a ← ts; pure (a : ℚ)) ↔
      List.Forall₂ (fun x (k : ℤ) => ratOf x = some ((k : ℚ) * 2 ^ q)) xs ts := by
  rw [show (do let a ← ts; pure (a : ℚ)) = ts.map fun a : ℤ => (a : ℚ) from List.flatMap_pure_eq_map .., List.forall₂_map_right_iff]

/-! ## Fast sums (R367) -/

theorem fastSum_spec (n c : Nat) (l : List Nat) (hl : l ≠ []) (hn : l.length ≤ n) :
    FastSum l (fastSum n c l).1 (fastSum n c l).2 := by
  induction n generalizing c l with
  | zero => exact absurd (List.length_eq_zero_iff.mp (Nat.le_zero.mp hn)) hl
  | succ n ih =>
    match l, hl with
    | [x], _ => exact .one x
    | x :: y :: r, _ =>
      set l := x :: y :: r with hl
      have h2 : ¬ l.length < 2 := by simp [hl]
      have hpos : 0 < l.length := by simp [hl]
      have hi : Config.orderChoice c % l.length < l.length := Nat.mod_lt _ hpos
      have hlen := List.length_eraseIdx_of_lt hi
      have hpos' : 0 < (l.eraseIdx (Config.orderChoice c % l.length)).length := by omega
      have hj := Nat.mod_lt (Config.orderChoice (c + 1)) hpos'
      have hlen' := List.length_eraseIdx_of_lt hj
      rw [fastSum, if_neg h2]
      exact .add l _ _ _ _ hi hj (ih _ _ (by simp) (by simp only [List.length_cons]; omega))

theorem fastIndex_spec (etype c : Nat) (xs : List Nat) (hx : xs ≠ []) : ∃ r h,
    FastSum (xs.map fun x => (if etype = 2 then 2 ^ 16 else 1) * x) r h ∧
      fastIndex etype c xs = ((toFloat (elemFmt etype) (readFloat fFP32 r)).1, h ||| (toFloat (elemFmt etype) (readFloat fFP32 r)).2) := by
  have e : (if etype = 2 then xs.map (· * 2 ^ 16) else xs) = xs.map fun x => (if etype = 2 then 2 ^ 16 else 1) * x := by
    split <;> simp [Nat.mul_comm]
  rw [fastIndex, e]
  exact ⟨_, _, fastSum_spec xs.length c _ (by simpa using hx) (by simp), rfl⟩

/-! ## The clauses of the obligation -/

/-- R366: index `i` of the exact sum of `data` over `n` indices. -/
def exactAt (f : FFmt) (data : List (List Nat)) (n i : Nat) : Fl Nat :=
  fixSum f (blockEx f (blockVals (fun k => data.map fun l => readFloat f (listGet 0 l k)) n (i / 64)))
    (data.map fun l => readFloat f (listGet 0 l i))

theorem reduceAll_exact (d : CollDesc) (c : Nat) (data : List (List Nat)) (f : FFmt) (hk : d.kind = 0 ∨ d.kind = 1)
    (hf : d.fast = false) (he : 2 ≤ d.etype) (hfmt : elemFmt d.etype = f) :
    reduceAll d c data = flSeq ((List.range (redCount d)).map (exactAt f data (redCount d))) := by
  have e := exactReduce_float d.etype (redCount d) (fun i => data.map fun l => listGet 0 l i) he
  simp only [hfmt, List.map_map, Function.comp_def] at e
  refine Eq.trans ?_ e
  unfold reduceAll
  rcases hk with hk | hk <;> simp [hk, hf]

/-- R367: index `i` of the fast sum of `data`. -/
def fastAt (d : CollDesc) (c : Nat) (data : List (List Nat)) (i : Nat) : Fl Nat :=
  fastIndex d.etype (c + 2 * (data.map fun l => listGet 0 l 0).length * i) (data.map fun l => listGet 0 l i)

theorem reduceAll_fast (d : CollDesc) (c : Nat) (data : List (List Nat)) (hk : d.kind = 0 ∨ d.kind = 1) (hf : d.fast = true) :
    reduceAll d c data = flSeq ((List.range (redCount d)).map (fastAt d c data)) := by
  unfold reduceAll
  rcases hk with hk | hk <;> simp only [hk, hf, if_true, fastReduce] <;> rfl

/-- The formats of R363. -/
theorem elemFmt_eq (etype : Nat) (h1 : 2 ≤ etype) (h2 : etype ≤ 4) :
    elemFmt etype = (if etype = 2 then fBF16 else if etype = 3 then fFP32 else fFP64) ∧ (elemFmt etype).special = .ieee := by
  obtain rfl | rfl | rfl : etype = 2 ∨ etype = 3 ∨ etype = 4 := by omega
  all_goals exact ⟨rfl, rfl⟩

/-- R366: an index of an exact sum, whose terms are `xs` and whose block holds the values `block`. -/
theorem fixSum_clauses (f : FFmt) (hf : f.special = .ieee) (xs l : List Val) (block : Val → Prop) (hm : ∀ x, x ∈ l ↔ block x) :
    let r := (fixSum f (blockEx f l) xs).1
    let g := (fixSum f (blockEx f l) xs).2
    (NoSum xs → r = fNaN f ∧ g = flagNV) ∧ (∀ n, ¬ NoSum xs → .inf n ∈ xs → r = (fInf f n).1 ∧ g = 0) ∧
    (¬ NoSum xs → (∀ n, .inf n ∉ xs) →
      ((∀ x v, block x → ratOf x = some v → v = 0) → r = 0 ∧ g = 0) ∧
      ∀ e ts, BlockExponent f block e → List.Forall₂ (TermOf (e - 47)) xs ts →
        let nx := if List.Forall₂ (fun x (k : ℚ) => ratOf x = some (k * 2 ^ (e - 47))) xs (do let a ← ts; pure (a : ℚ)) then (0 : Word) else flagNX
        (ts.sum = 0 → r = 0 ∧ g = nx) ∧
        (ts.sum ≠ 0 → r = (toFloat f (.num (decide (ts.sum < 0)) ts.sum.natAbs (e - 47))).1 ∧
          g = nx ||| (toFloat f (.num (decide (ts.sum < 0)) ts.sum.natAbs (e - 47))).2)) := by
  refine ⟨fun h => by simp [fixSum_nan _ _ _ h], fun n h hn => by simp [fixSum_inf _ _ _ n h hn, snd_fInf f n hf], fun h hi => ?_⟩
  obtain ⟨hnone, hsome⟩ := fixSum_finite f xs h hi
  refine ⟨fun hz => ?_, fun e ts he ht => ?_⟩
  · rw [blockEx_zeros f l fun x hx v hv => hz x v ((hm x).mp hx) hv, hnone]
    exact ⟨rfl, rfl⟩
  · have flags := termFlags_eq ht
    rw [BlockExponent.eq f block l hm e he, hsome, ← terms_eq ht]
    intro nx
    have hnx : orFlags (xs.map fun x => (fixTerm (e - 47) x).2) = nx := by
      by_cases hx : List.Forall₂ (fun x (k : ℤ) => ratOf x = some ((k : ℚ) * 2 ^ (e - 47))) xs ts
      · rw [flags.1 hx]
        exact (if_pos ((forall₂_cast_iff _ _ _).mpr hx)).symm
      · rw [flags.2 hx]
        exact (if_neg (mt (forall₂_cast_iff _ _ _).mp hx)).symm
    rw [hnx]
    exact ⟨fun h0 => by simp [h0], fun h0 => by simp [h0]⟩

/-- Settles O38: the course of a collective is the run of its model, and a reduction is, index by index, its sum: an exact one rounds
terms to the fixed point that the block's exponent gives, a fast one adds in the order that free values choose. -/
theorem collectiveResults : Obligations.CollectiveResults := by
  refine ⟨⟨fun s gid cseq d => ?_, fun s gid cseq r ha hf => ?_, fun s u p q c x ha ho => ?_, partsMismatch_iff⟩, fun d c data => ?_,
    fun d res => ⟨fun h => if_pos h, fun h => if_neg h⟩⟩
  · intro ops faults hd hn hb
    have run := exec_collectiveEnd_ready s gid cseq d hd hn hb
    refine ⟨fun u o f h => ⟨_, run.trans ?_, collEnds_collFault u gid cseq o f⟩, fun u ls h => ⟨fun w o f hw => ?_, fun w hw => ?_⟩⟩
    · rw [runColl_unread s u gid cseq d _ o f h]
    · exact ⟨_, run.trans (by rw [runColl_unwritten s u w gid cseq d _ ls o f h hw]), collEnds_collFault w gid cseq o f⟩
    · exact ⟨_, run.trans (congrArg _ (runColl_done s u w gid cseq d _ ls h hw)), collEnds_endColl w gid cseq 0 _⟩
  · have hstep : step s = .next (peerFaults { s with agenda := r } gid cseq) := by simp [step, ha, hf, outside]
    have same : outcomeOf { s with agenda := r } gid cseq = outcomeOf s gid cseq := rfl
    rw [hstep]
    refine ⟨fun ho => ⟨_, rfl, ?_⟩, fun ho => ?_⟩
    · rw [peerFaults, same, ho]
      exact (collEnds_endAll _ gid cseq 3).of_agenda
    · obtain ⟨o, ho⟩ := Option.ne_none_iff_exists'.mp ho
      rw [peerFaults, same, ho]
  · intro gid cseq h
    refine ⟨_, exec_contributionArrival_matched s p q c ha ho, ?_, ?_⟩
    · rintro o f rfl
      rw [matchColl_unread _ u gid cseq o f h]
      exact collEnds_collFault u gid cseq o f
    · rintro ps rfl
      rw [matchColl_read _ u gid cseq ps h]
      refine ⟨fun hm => ?_, fun hm hl => ?_, fun hm hl => ?_⟩
      · rw [if_pos hm]
        exact collEnds_endAll u gid cseq 1
      · rw [if_neg (by simp [hm]), if_pos hl]
        exact collEnds_endAll u gid cseq 4
      · rw [if_neg (by simp [hm]), if_neg (by simp [hl])]
  · refine ⟨fun hk => ?_, fun hk => ?_, fun hk hf he => ?_, fun hk hf he he' => ?_, fun hk hf hd he => ?_⟩
    · simp [reduceAll, hk]
    · simp [reduceAll, hk, List.flatMap_def]
    · rw [reduceAll_int d c data hk hf he]
      simp only [intSum_eq, List.map_map, Function.comp_def, flSeq]
      exact ⟨rfl, orFlags_flagIf _ _ _⟩
    · obtain ⟨hfmt, hieee⟩ := elemFmt_eq d.etype he he'
      obtain ⟨hlen, hfl⟩ := flSeq_range (exactAt (elemFmt d.etype) data (redCount d)) (redCount d)
      rw [reduceAll_exact d c data _ hk hf he rfl, ← hfmt]
      refine ⟨hlen, _, hfl, fun i hi => ?_⟩
      rw [listGet_flSeq 0 _ (redCount d) i hi]
      exact fixSum_clauses _ hieee _ _ _ (mem_blockVals _ _ _)
    · have hne (i : Nat) : (data.map fun l => listGet 0 l i) ≠ [] := by simpa using hd
      have hfmt : elemFmt d.etype = if d.etype = 2 then fBF16 else fFP32 := by rcases he with he | he <;> simp [he, elemFmt]
      obtain ⟨hlen, hfl⟩ := flSeq_range (fastAt d c data) (redCount d)
      rw [reduceAll_fast d c data hk hf]
      refine ⟨hlen, _, hfl, fun i hi => ?_⟩
      obtain ⟨r, h, hsum, hr⟩ := fastIndex_spec d.etype (c + 2 * (data.map fun l => listGet 0 l 0).length * i) _ (hne i)
      rw [List.map_map] at hsum
      rw [hfmt] at hr
      have hat : fastAt d c data i = _ := hr
      rw [listGet_flSeq 0 _ (redCount d) i hi, hat]
      exact ⟨r, h, hsum, rfl, rfl⟩

end Sys2Proof.Machine

namespace Sys2Proof.Machine

/-! ## Formats with infinities (R18, R21) -/

/-- R18: the shape of the formats that R21 lists as those with infinities. -/
structure WithInf (f : FFmt) : Prop where
  ieee : f.special = .ieee
  m_pos : 1 ≤ f.m
  m_le : f.m ≤ 52
  bias_pos : 1 ≤ f.bias
  exps : 2 ^ f.e = 2 * f.bias + 2

theorem withInf_of_mem (f : FFmt) (h : f ∈ [fE5M2, fBF16, fFP16, fFP19, fFP32, fFP64]) : WithInf f := by
  simp only [List.mem_cons, List.not_mem_nil, or_false] at h
  rcases h with rfl | rfl | rfl | rfl | rfl | rfl <;> exact ⟨rfl, by decide, by decide, by decide, by decide⟩

/-- The exponent of the last place of a subnormal. -/
def quantum (f : FFmt) : ℤ := 1 - (f.bias : ℤ) - f.m

/-- R18: the magnitude of an encoding without its sign. -/
def mag (f : FFmt) (enc : ℕ) : ℚ :=
  if enc / 2 ^ f.m = 0 then enc * 2 ^ quantum f
  else ((2 ^ f.m + enc % 2 ^ f.m : ℕ) : ℚ) * 2 ^ ((enc / 2 ^ f.m : ℕ) - 1 + quantum f)

/-- A sign as a factor. -/
def sgn (neg : Bool) : ℚ := if neg then -1 else 1

theorem sgn_mul_sgn_mul (neg : Bool) (x : ℚ) : sgn neg * (sgn neg * x) = x := by cases neg <;> simp [sgn]
theorem sgn_mul_eq_iff (neg : Bool) (x y : ℚ) : sgn neg * x = y ↔ x = sgn neg * y := by
  cases neg <;> simp [sgn, neg_eq_iff_eq_neg]
theorem abs_sgn (neg : Bool) : |sgn neg| = 1 := by cases neg <;> norm_num [sgn]

theorem abs_sgn_mul_sub (neg : Bool) (x y : ℚ) : |sgn neg * x - sgn neg * y| = |x - y| := by
  rw [← mul_sub, abs_mul, abs_sgn, one_mul]

theorem sgn_mul_eq_abs (v : ℚ) : sgn (decide (v < 0)) * v = |v| := by
  by_cases h : v < 0
  · simp [sgn, h, abs_of_neg]
  · simp [sgn, h, abs_of_nonneg (not_lt.mp h)]

section
variable {f : FFmt}

theorem bitsOf_exponent (bits : ℕ) : bitsOf bits f.m f.e = bits % 2 ^ (f.e + f.m) / 2 ^ f.m := by
  rw [bitsOf, Nat.add_comm, pow_add, Nat.mod_mul_right_div_self]

theorem bitsOf_fraction (bits : ℕ) : bitsOf bits 0 f.m = bits % 2 ^ (f.e + f.m) % 2 ^ f.m := by
  rw [bitsOf, pow_zero, Nat.div_one, Nat.mod_mod_of_dvd _ (pow_dvd_pow 2 (Nat.le_add_left _ _))]

theorem sign_add (neg : Bool) (enc : ℕ) (h : enc < 2 ^ (f.e + f.m)) :
    (fSign f neg + enc) % 2 ^ (f.e + f.m) = enc ∧ (bitsOf (fSign f neg + enc) (f.e + f.m) 1 == 1) = neg ∧
      fSign f neg + enc < 2 ^ fWidth f := by
  have hw : 2 ^ fWidth f = 2 * 2 ^ (f.e + f.m) := by rw [fWidth, show 1 + f.e + f.m = f.e + f.m + 1 by omega, pow_succ]; ring
  have hpos : 0 < 2 ^ (f.e + f.m) := by positivity
  cases neg
  · simp only [fSign, Bool.false_eq_true, if_false, Nat.zero_add, bitsOf, Nat.div_eq_of_lt h, hw]
    exact ⟨Nat.mod_eq_of_lt h, by simp, by omega⟩
  · simp only [fSign, if_true, bitsOf, hw]
    rw [Nat.add_mod_left, Nat.add_div_left _ hpos, Nat.div_eq_of_lt h]
    exact ⟨Nat.mod_eq_of_lt h, by simp, by omega⟩

/-- The magnitude of an encoding that `roundFloat` forms from an exponent and an integer, a carry into the next exponent included. -/
theorem mag_of_parts (n r : ℕ) (hr : r ≤ 2 ^ (f.m + 1)) (h : n = 0 ∨ 2 ^ f.m ≤ r) :
    mag f (n * 2 ^ f.m + r) = r * 2 ^ (n + quantum f) := by
  have hpos : 0 < 2 ^ f.m := by positivity
  have parts (k x : ℕ) (hx : x < 2 ^ f.m) : (k * 2 ^ f.m + x) / 2 ^ f.m = k ∧ (k * 2 ^ f.m + x) % 2 ^ f.m = x := by
    rw [Nat.mul_comm, Nat.mul_add_div hpos, Nat.div_eq_of_lt hx, Nat.mul_add_mod, Nat.mod_eq_of_lt hx]
    exact ⟨rfl, rfl⟩
  rw [pow_succ] at hr
  by_cases h1 : r < 2 ^ f.m
  · obtain rfl : n = 0 := h.resolve_right (by omega)
    obtain ⟨hd, -⟩ := parts 0 r h1
    rw [mag, if_pos hd]
    simp
  · by_cases h2 : r < 2 ^ f.m * 2
    · obtain ⟨hd, hm⟩ := parts (n + 1) (r - 2 ^ f.m) (by omega)
      have e : n * 2 ^ f.m + r = (n + 1) * 2 ^ f.m + (r - 2 ^ f.m) := by rw [Nat.add_mul]; omega
      rw [e, mag, hd, if_neg (by omega), hm, show 2 ^ f.m + (r - 2 ^ f.m) = r by omega]
      push_cast
      congr 2
      ring
    · obtain rfl : r = 2 ^ f.m * 2 := by omega
      obtain ⟨hd, hm⟩ := parts (n + 2) 0 hpos
      have e : n * 2 ^ f.m + 2 ^ f.m * 2 = (n + 2) * 2 ^ f.m + 0 := by ring
      rw [e, mag, hd, if_neg (by omega), hm, show (((n + 2 : ℕ) : ℤ) - 1 + quantum f) = (n + quantum f) + 1 by push_cast; ring,
        zpow_add_one₀ (by norm_num)]
      push_cast
      ring

/-- The finite values of a format, among multiples of a power of two: each is one, or lies below the normal values of that last place. -/
theorem mag_grid (enc : ℕ) (q : ℤ) (hq : quantum f ≤ q) :
    (∃ z : ℤ, mag f enc = z * 2 ^ q) ∨ (quantum f < q ∧ mag f enc < 2 ^ (q + f.m)) := by
  have two : (2 : ℚ) ≠ 0 := by norm_num
  have mono {a b : ℤ} (h : a ≤ b) : (2 : ℚ) ^ a ≤ 2 ^ b := zpow_le_zpow_right₀ (by norm_num) h
  rw [mag]
  split_ifs with h0
  · obtain rfl | hq := hq.eq_or_lt
    · exact .inl ⟨enc, by simp⟩
    · refine .inr ⟨hq, ?_⟩
      have henc : (enc : ℚ) < 2 ^ f.m := by exact_mod_cast (Nat.div_eq_zero_iff_lt (by positivity)).mp h0
      calc (enc : ℚ) * 2 ^ quantum f < 2 ^ f.m * 2 ^ quantum f := mul_lt_mul_of_pos_right henc (two_zpow_pos _)
        _ = 2 ^ (quantum f + f.m) := by rw [zpow_add₀ two, zpow_natCast]; ring
        _ ≤ 2 ^ (q + f.m) := mono (by omega)
  · have hpos := Nat.one_le_iff_ne_zero.mpr h0
    generalize enc / 2 ^ f.m = k at hpos
    generalize hx : (k : ℤ) - 1 + quantum f = x
    have hxq : quantum f ≤ x := by omega
    have hlt : 2 ^ f.m + enc % 2 ^ f.m < 2 ^ (f.m + 1) := by
      have := Nat.mod_lt enc (by positivity : 0 < 2 ^ f.m)
      rw [pow_succ]
      omega
    generalize 2 ^ f.m + enc % 2 ^ f.m = y at hlt
    obtain h | h := le_or_gt q x
    · refine .inl ⟨(y : ℤ) * 2 ^ (x - q).toNat, ?_⟩
      have e : (2 : ℚ) ^ x = 2 ^ (x - q).toNat * 2 ^ q := by
        rw [← zpow_natCast, ← zpow_add₀ two, Int.toNat_of_nonneg (by omega)]
        congr 1
        ring
      rw [e]
      push_cast
      ring
    · refine .inr ⟨by omega, ?_⟩
      calc (y : ℚ) * 2 ^ x < 2 ^ (f.m + 1) * 2 ^ x :=
            mul_lt_mul_of_pos_right (by exact_mod_cast hlt) (two_zpow_pos _)
        _ = 2 ^ (x + 1 + f.m) := by rw [zpow_add₀ two, zpow_add₀ two, zpow_natCast, pow_succ, zpow_one]; ring
        _ ≤ 2 ^ (q + f.m) := mono (by omega)

variable (hf : WithInf f)
include hf

/-- R18: what an encoding with an exponent field that is not all ones reads as. -/
theorem readFloat_finite (bits : ℕ) (h : bits % 2 ^ (f.e + f.m) / 2 ^ f.m ≠ 2 ^ f.e - 1) :
    ratOf (readFloat f bits) = some (sgn (bitsOf bits (f.e + f.m) 1 == 1) * mag f (bits % 2 ^ (f.e + f.m))) := by
  simp only [readFloat, hf.ieee, bitsOf_exponent, bitsOf_fraction, if_neg h]
  generalize bits % 2 ^ (f.e + f.m) = enc
  by_cases h0 : enc / 2 ^ f.m = 0
  · have hlt : enc % 2 ^ f.m = enc := Nat.mod_eq_of_lt ((Nat.div_eq_zero_iff_lt (by positivity)).mp h0)
    rw [if_pos h0, ratOf, mag, if_pos h0, hlt, mul_assoc]
    rfl
  · rw [if_neg h0, ratOf, mag, if_neg h0, mul_assoc, quantum, show ((enc / 2 ^ f.m : ℕ) : ℤ) - 1 + (1 - (f.bias : ℤ) - f.m) =
      (enc / 2 ^ f.m : ℕ) - f.bias - f.m by ring]
    rfl

theorem readFloat_special (bits : ℕ) (h : bits % 2 ^ (f.e + f.m) / 2 ^ f.m = 2 ^ f.e - 1) : readFloat f bits =
    if bits % 2 ^ (f.e + f.m) % 2 ^ f.m = 0 then .inf (bitsOf bits (f.e + f.m) 1 == 1)
    else .nan (f.m != 2 && bits % 2 ^ (f.e + f.m) % 2 ^ f.m < 2 ^ (f.m - 1)) := by
  simp only [readFloat, hf.ieee, bitsOf_exponent, bitsOf_fraction, if_pos h]

/-- Every finite value of the format has the magnitude of an encoding. -/
theorem mag_of_readFloat (bits : ℕ) (p : ℚ) (h : ratOf (readFloat f bits) = some p) :
    ∃ neg enc, p = sgn neg * mag f enc := by
  by_cases h1 : bits % 2 ^ (f.e + f.m) / 2 ^ f.m = 2 ^ f.e - 1
  · rw [readFloat_special hf bits h1] at h
    split at h <;> cases h
  · rw [readFloat_finite hf bits h1] at h
    exact ⟨_, _, (Option.some.inj h).symm⟩

theorem top_le : (2 ^ f.e - 1) * 2 ^ f.m < 2 ^ (f.e + f.m) := by
  have := hf.exps
  have : 2 ^ f.e - 1 < 2 ^ f.e := by omega
  rw [pow_add]
  exact Nat.mul_lt_mul_of_pos_right this (by positivity)

theorem readFloat_encoded (neg : Bool) (enc : ℕ) (h : enc < (2 ^ f.e - 1) * 2 ^ f.m) :
    ratOf (readFloat f (fSign f neg + enc)) = some (sgn neg * mag f enc) := by
  obtain ⟨h1, h2, -⟩ := sign_add neg enc (h.trans (top_le hf))
  rw [readFloat_finite hf _ (by rw [h1]; exact (Nat.div_lt_of_lt_mul (by rwa [Nat.mul_comm])).ne), h1, h2]

theorem readFloat_infinity (neg : Bool) : readFloat f (fSign f neg + (2 ^ f.e - 1) * 2 ^ f.m) = .inf neg := by
  obtain ⟨h1, h2, -⟩ := sign_add neg _ (top_le hf)
  have hpos : 0 < 2 ^ f.m := by positivity
  rw [readFloat_special hf _ (by rw [h1, Nat.mul_div_cancel _ hpos]), h1, h2, Nat.mul_mod_left, if_pos rfl]

end

end Sys2Proof.Machine

namespace Sys2Proof.Machine

/-! ## Numbers whose last bit stands for the rest -/

/-- `m × 2^e` is `a`, or has more than 60 bits, of which the last stands for a rest of `a` that it does not hold. -/
def Stands (m : ℕ) (e : ℤ) (a : ℚ) : Prop :=
  a = m * 2 ^ e ∨ (Odd m ∧ 2 ^ 60 ≤ m ∧ ((m : ℚ) - 1) * 2 ^ e < a ∧ a < ((m : ℚ) + 1) * 2 ^ e)

theorem Stands.leadExp {m : ℕ} {e : ℤ} {a : ℚ} (h : Stands m e a) (hm : m ≠ 0) :
    (2 : ℚ) ^ leadExp m e ≤ a ∧ a < 2 ^ (leadExp m e + 1) := by
  obtain rfl | ⟨hodd, hbig, hlo, hhi⟩ := h
  · exact leadExp_bounds m e hm
  · have h1 : 2 ^ Nat.log2 m ≤ m := Nat.log2_self_le hm
    have h2 : m < 2 ^ (Nat.log2 m + 1) := Nat.lt_log2_self
    have hlog : 60 ≤ Nat.log2 m := (Nat.le_log2 hm).mpr hbig
    have heven : Even (2 ^ Nat.log2 m) := (Nat.even_pow.mpr ⟨even_two, by omega⟩)
    have h1 : 2 ^ Nat.log2 m + 1 ≤ m := by
      refine lt_of_le_of_ne h1 fun hx => ?_
      exact Nat.not_even_iff_odd.mpr hodd (hx ▸ heven)
    have h1 : (2 : ℚ) ^ Nat.log2 m ≤ m - 1 := by
      have : ((2 ^ Nat.log2 m + 1 : ℕ) : ℚ) ≤ m := by exact_mod_cast h1
      push_cast at this
      linarith
    have h2 : (m : ℚ) + 1 ≤ 2 ^ (Nat.log2 m + 1) := by exact_mod_cast h2
    have he := two_zpow_pos e
    have two : (2 : ℚ) ≠ 0 := by norm_num
    unfold Machine.leadExp
    constructor
    · rw [zpow_add₀ two, zpow_natCast]
      exact (mul_le_mul_of_nonneg_right h1 he.le).trans hlo.le
    · rw [show ((Nat.log2 m : ℤ) + e + 1) = ((Nat.log2 m + 1 : ℕ) : ℤ) + e by push_cast; ring, zpow_add₀ two, zpow_natCast]
      exact hhi.trans_le (mul_le_mul_of_nonneg_right h2 he.le)

/-- A number whose last bit stands for the rest lies strictly between the multiples of larger units that its digits lie between. -/
theorem sticky_shift {m : ℕ} {e q : ℤ} {a : ℚ} (hodd : Odd m) (hlo : ((m : ℚ) - 1) * 2 ^ e < a) (hhi : a < ((m : ℚ) + 1) * 2 ^ e)
    (hq : e + 2 ≤ q) (k : ℤ) (h : NearestInt (m * 2 ^ (-(q - e))) k) : |a * 2 ^ (-q) - k| < 1 / 2 := by
  have two : (2 : ℚ) ≠ 0 := by norm_num
  obtain ⟨s, hs⟩ : ∃ s : ℕ, q - e = ((s + 2 : ℕ) : ℤ) := ⟨(q - e - 2).toNat, by omega⟩
  have hpos : (0 : ℚ) < 2 ^ (s + 2) := by positivity
  have hpow : (2 : ℚ) ^ (-q) = (2 ^ (s + 2))⁻¹ * 2 ^ (-e) := by
    rw [← zpow_natCast, ← zpow_neg, ← zpow_add₀ two, ← hs]
    congr 1
    ring
  have he : (2 : ℚ) ^ e * 2 ^ (-e) = 1 := by rw [← zpow_add₀ two]; simp
  have b := h.bounds
  rw [hs, zpow_neg, zpow_natCast, ← div_eq_mul_inv, le_div_iff₀ hpos, div_le_iff₀ hpos] at b
  have lo : (2 * k - 1) * 2 ^ (s + 1) ≤ (m : ℤ) := by
    have : ((2 * k - 1) * 2 ^ (s + 1) : ℚ) ≤ m := by rw [pow_succ] at b; linarith [b.1]
    exact_mod_cast this
  have hi : (m : ℤ) ≤ (2 * k + 1) * 2 ^ (s + 1) := by
    have : (m : ℚ) ≤ (2 * k + 1) * 2 ^ (s + 1) := by rw [pow_succ] at b; linarith [b.2]
    exact_mod_cast this
  obtain ⟨n, rfl⟩ := hodd
  have lo' : (2 * k - 1) * 2 ^ (s + 1) ≤ ((2 * n + 1 : ℕ) : ℤ) - 1 := by
    have e2 : (2 * k - 1) * 2 ^ (s + 1) = 2 * ((2 * k - 1) * 2 ^ s) := by ring
    rw [e2] at lo ⊢
    push_cast at lo ⊢
    omega
  have hi' : ((2 * n + 1 : ℕ) : ℤ) + 1 ≤ (2 * k + 1) * 2 ^ (s + 1) := by
    have e2 : (2 * k + 1) * 2 ^ (s + 1) = 2 * ((2 * k + 1) * 2 ^ s) := by ring
    rw [e2] at hi ⊢
    push_cast at hi ⊢
    omega
  have lo' : ((2 * k - 1) * 2 ^ (s + 1) : ℚ) ≤ ((2 * n + 1 : ℕ) : ℚ) - 1 := by exact_mod_cast lo'
  have hi' : ((2 * n + 1 : ℕ) : ℚ) + 1 ≤ (2 * k + 1) * 2 ^ (s + 1) := by exact_mod_cast hi'
  have hlo := mul_lt_mul_of_pos_right hlo (two_zpow_pos (-e))
  have hhi := mul_lt_mul_of_pos_right hhi (two_zpow_pos (-e))
  rw [mul_assoc, he, mul_one] at hlo hhi
  have ea : a * 2 ^ (-q) = a * 2 ^ (-e) / 2 ^ (s + 2) := by rw [hpow, div_eq_mul_inv]; ring
  rw [ea, abs_lt]
  constructor
  · rw [lt_sub_iff_add_lt, lt_div_iff₀ hpos]
    rw [pow_succ (2 : ℚ) (s + 1)]
    linarith
  · rw [sub_lt_iff_lt_add, div_lt_iff₀ hpos]
    rw [pow_succ (2 : ℚ) (s + 1)]
    linarith

/-- The digits round as the number that they stand for, where at most 53 of the leading ones stay. -/
theorem Stands.nearest {m : ℕ} {e q : ℤ} {a : ℚ} (h : Stands m e a) (hq : Machine.leadExp m e - 52 ≤ q) :
    NearestInt (a * 2 ^ (-q)) (rneShift m (q - e)) ∧ (a = rneShift m (q - e) * 2 ^ q ↔ q ≤ e ∨ m % 2 ^ (q - e).toNat = 0) := by
  have two : (2 : ℚ) ≠ 0 := by norm_num
  have near := nearestInt_rneShift m (q - e)
  have scale (x y : ℚ) : x = y * 2 ^ q ↔ x * 2 ^ (-q) = y := by
    rw [zpow_neg, ← div_eq_mul_inv, div_eq_iff (two_zpow_pos q).ne']
  obtain rfl | ⟨hodd, hbig, hlo, hhi⟩ := h
  · have e1 : (m : ℚ) * 2 ^ e * 2 ^ (-q) = m * 2 ^ (-(q - e)) := by
      rw [mul_assoc, ← zpow_add₀ two]
      congr 2
      ring
    rw [scale, e1, rneShift_exact_iff, sub_nonpos]
    exact ⟨near, Iff.rfl⟩
  · have hm : m ≠ 0 := by rintro rfl; simp at hodd
    have hlog : 60 ≤ Nat.log2 m := (Nat.le_log2 hm).mpr hbig
    have hq2 : e + 2 ≤ q := by unfold Machine.leadExp at hq; omega
    have hlt := sticky_shift hodd hlo hhi hq2 _ near
    refine ⟨⟨by linarith, fun g => by linarith⟩, ⟨fun hx => ?_, ?_⟩⟩
    · exfalso
      obtain ⟨s, hs⟩ : ∃ s : ℕ, q = e + ((s + 2 : ℕ) : ℤ) := ⟨(q - e - 2).toNat, by omega⟩
      have he := two_zpow_pos e
      rw [hs, zpow_add₀ two, zpow_natCast] at hx
      generalize rneShift m (e + ((s + 2 : ℕ) : ℤ) - e) = k at hx
      rw [hx, show (k : ℚ) * (2 ^ e * 2 ^ (s + 2)) = (k * 2 ^ (s + 2) : ℚ) * 2 ^ e by ring] at hlo hhi
      have hlo := lt_of_mul_lt_mul_right hlo he.le
      have hhi := lt_of_mul_lt_mul_right hhi he.le
      have h1 : m < k * 2 ^ (s + 2) + 1 := by
        have : (m : ℚ) < ((k * 2 ^ (s + 2) + 1 : ℕ) : ℚ) := by push_cast; linarith
        exact_mod_cast this
      have h2 : k * 2 ^ (s + 2) < m + 1 := by exact_mod_cast hhi
      have e2 : k * 2 ^ (s + 2) = 2 * (k * 2 ^ (s + 1)) := by ring
      obtain ⟨n, rfl⟩ := hodd
      omega
    · rintro (hle | h0)
      · omega
      · exfalso
        obtain ⟨s, hs⟩ : ∃ s : ℕ, (q - e).toNat = s + 1 := ⟨(q - e).toNat - 1, by omega⟩
        rw [hs, pow_succ] at h0
        obtain ⟨c, hc⟩ := Nat.dvd_of_mod_eq_zero h0
        obtain ⟨n, rfl⟩ := hodd
        have : 2 ^ s * 2 * c = 2 * (2 ^ s * c) := by ring
        omega

/-! ## The nearest value of a format (R20) -/

/-- The last place of a result with the leading exponent `ex`. -/
def lastPlace (f : FFmt) (ex : ℤ) : ℤ := max ex (1 - f.bias) - f.m

theorem lastPlace_ge (f : FFmt) (ex : ℤ) : quantum f ≤ lastPlace f ex ∧ ex - f.m ≤ lastPlace f ex ∧
    (lastPlace f ex = quantum f ∨ lastPlace f ex = ex - f.m) := by
  unfold lastPlace quantum
  omega

/-- A multiple of the last place that is nearest to a number is nearest to it among the values of the format, and even if another is as
near. -/
theorem nearest_in_format {f : FFmt} {ex : ℤ} {a : ℚ} {r : ℤ} (hlo : (2 : ℚ) ^ ex ≤ a)
    (hr : NearestInt (a * 2 ^ (-lastPlace f ex)) r) (x : ℚ)
    (hx : (∃ z : ℤ, x = z * 2 ^ lastPlace f ex) ∨ (quantum f < lastPlace f ex ∧ x < 2 ^ (lastPlace f ex + f.m))) :
    |r * 2 ^ lastPlace f ex - a| ≤ |x - a| ∧ (x ≠ r * 2 ^ lastPlace f ex → |r * 2 ^ lastPlace f ex - a| = |x - a| → Even r) := by
  have two : (2 : ℚ) ≠ 0 := by norm_num
  obtain ⟨-, -, hcase⟩ := lastPlace_ge f ex
  generalize lastPlace f ex = q at *
  have hq := two_zpow_pos q
  have dist (z : ℤ) : |z * 2 ^ q - a| = |a * 2 ^ (-q) - z| * 2 ^ q := by
    rw [← abs_of_pos hq, ← abs_mul, abs_of_pos hq, sub_mul, mul_assoc a, ← zpow_add₀ two, neg_add_cancel, zpow_zero, mul_one, abs_sub_comm]
  have grid (z : ℤ) : |r * 2 ^ q - a| ≤ |z * 2 ^ q - a| ∧
      (z ≠ r → |r * 2 ^ q - a| = |z * 2 ^ q - a| → Even r) := by
    rw [dist, dist]
    refine ⟨mul_le_mul_of_nonneg_right (hr.le_dist z).1 hq.le, fun hz h => (hr.le_dist z).2 hz ?_⟩
    exact mul_right_cancel₀ hq.ne' h
  obtain ⟨z, rfl⟩ | ⟨hsub, hlt⟩ := hx
  · exact ⟨(grid z).1, fun hz => (grid z).2 (by rintro rfl; exact hz rfl)⟩
  · obtain rfl : q = ex - f.m := hcase.resolve_left hsub.ne'
    have e : (2 : ℚ) ^ ex = ((2 ^ f.m : ℤ) : ℚ) * 2 ^ (ex - f.m) := by
      push_cast
      rw [← zpow_natCast, ← zpow_add₀ two]
      congr 1
      ring
    rw [sub_add_cancel] at hlt
    have step := (grid (2 ^ f.m)).1
    rw [← e, abs_of_nonpos (sub_nonpos.mpr hlo)] at step
    have far : |x - a| = a - x := by rw [abs_of_nonpos (by linarith)]; ring
    exact ⟨by rw [far]; linarith, fun _ h => by rw [far] at h; linarith⟩

end Sys2Proof.Machine

namespace Sys2Proof.Machine

/-! ## Overflow and underflow (R20, R21) -/

/-- R21: the largest finite value and half a unit of its last place. -/
def overBound (f : FFmt) : ℚ := (2 - (1 / 2) ^ (f.m + 1)) * (2 : ℚ) ^ f.bias

/-- R20: the smallest normal less a quarter of a unit of the last place that a normal result has. -/
def tinyBound (f : FFmt) : ℚ := (2 : ℚ) ^ (1 - (f.bias : ℤ)) * (1 - (1 / 2) ^ (f.m + 2))

/-- R20, R21: `r` is the number `v` rounded into a format with infinities, with the flags of its rounding. -/
def Rounds (f : FFmt) (r : Fl Nat) (v : ℚ) : Prop :=
  r.1 < 2 ^ fWidth f ∧
  (|v| < overBound f → ∃ q : ℚ, ratOf (readFloat f r.1) = some q ∧
    (∀ (k : Nat) (p : ℚ), ratOf (readFloat f k) = some p → |q - v| ≤ |p - v| ∧ (p ≠ q → |q - v| = |p - v| → r.1 % 2 = 0)) ∧
    r.2 = (if q = v then 0 else flagNX ||| (if |v| < tinyBound f then flagUF else 0))) ∧
  (overBound f ≤ |v| → readFloat f r.1 = .inf (decide (v < 0)) ∧ r.2 = flagOF ||| flagNX)

theorem half_pow_lt_one (n : ℕ) : (0 : ℚ) < (1 / 2) ^ (n + 1) ∧ ((1 / 2) ^ (n + 1) : ℚ) < 1 :=
  ⟨by positivity, pow_lt_one₀ (by norm_num) (by norm_num) (by omega)⟩

/-- A number of the exponent `ex` is rounded to `m` places without a carry below the middle before the next power of two. -/
theorem lt_carry_iff {a : ℚ} {ex : ℤ} {m : ℕ} {r : ℤ} (h : NearestInt (a * 2 ^ (-(ex - m))) r) :
    r < 2 ^ (m + 1) ↔ a < (2 - (1 / 2) ^ (m + 1)) * 2 ^ ex := by
  have two : (2 : ℚ) ≠ 0 := by norm_num
  have hpos := two_zpow_pos (ex - m)
  rw [h.lt_even_iff (Int.even_pow.mpr ⟨even_two, by omega⟩), zpow_neg, ← div_eq_mul_inv, div_lt_iff₀ hpos]
  have e : (2 : ℚ) ^ ex = 2 ^ m * 2 ^ (ex - m) := by rw [← zpow_natCast, ← zpow_add₀ two]; congr 1; ring
  have half : ((1 / 2) ^ (m + 1) * 2 ^ m : ℚ) = 1 / 2 := by rw [pow_succ, mul_right_comm, ← mul_pow]; norm_num
  rw [e, show (2 - (1 / 2) ^ (m + 1)) * ((2 : ℚ) ^ m * 2 ^ (ex - m)) =
    (2 * 2 ^ m - (1 / 2) ^ (m + 1) * 2 ^ m) * 2 ^ (ex - m) by ring, half]
  push_cast
  rw [pow_succ, mul_comm (2 : ℚ) (2 ^ m)]

section
variable {f : FFmt} {a : ℚ} {ex : ℤ} (hlo : (2 : ℚ) ^ ex ≤ a) (hhi : a < 2 ^ (ex + 1))
include hlo hhi

/-- What the integer of a rounding can be: it has the places of the format, all of them unless the result is subnormal. -/
theorem rounded_range {r : ℤ} (hr : NearestInt (a * 2 ^ (-lastPlace f ex)) r) : 0 ≤ r ∧ r ≤ 2 ^ (f.m + 1) ∧
    (lastPlace f ex = quantum f ∨ 2 ^ f.m ≤ r) := by
  have two : (2 : ℚ) ≠ 0 := by norm_num
  obtain ⟨-, hge, hcase⟩ := lastPlace_ge f ex
  have hpos := two_zpow_pos (-lastPlace f ex)
  have ha : 0 < a := (two_zpow_pos ex).trans_le hlo
  refine ⟨hr.ge_of_ge (by push_cast; positivity), hr.le_of_le ?_, hcase.imp_right fun hq => hr.ge_of_ge ?_⟩
  · calc a * 2 ^ (-lastPlace f ex) ≤ 2 ^ (ex + 1) * 2 ^ (-lastPlace f ex) := mul_le_mul_of_nonneg_right hhi.le hpos.le
      _ = 2 ^ (ex + 1 - lastPlace f ex) := by rw [← zpow_add₀ two]; rfl
      _ ≤ 2 ^ ((f.m + 1 : ℕ) : ℤ) := zpow_le_zpow_right₀ (by norm_num) (by push_cast; omega)
      _ = _ := by rw [zpow_natCast]; norm_cast
  · calc ((2 ^ f.m : ℤ) : ℚ) = 2 ^ ex * 2 ^ (-lastPlace f ex) := by
          rw [← zpow_add₀ two, hq, show ex + -(ex - (f.m : ℤ)) = f.m by ring, zpow_natCast]; norm_cast
      _ ≤ a * 2 ^ (-lastPlace f ex) := mul_le_mul_of_nonneg_right hlo hpos.le

/-- R21: the encoding passes the largest finite one exactly when the number is as large as that value and half a unit of its last
place. -/
theorem overflows_iff (hf : WithInf f) {r : ℕ} (hr : NearestInt (a * 2 ^ (-lastPlace f ex)) r) :
    (2 ^ f.e - 1) * 2 ^ f.m ≤ (lastPlace f ex - quantum f).toNat * 2 ^ f.m + r ↔ overBound f ≤ a := by
  have mono {x y : ℤ} (h : x ≤ y) : (2 : ℚ) ^ x ≤ 2 ^ y := zpow_le_zpow_right₀ (by norm_num) h
  obtain ⟨-, hr1, hr2⟩ := rounded_range hlo hhi hr
  have hr1 : r ≤ 2 ^ (f.m + 1) := by exact_mod_cast hr1
  have hr2 : lastPlace f ex = quantum f ∨ 2 ^ f.m ≤ r := hr2.imp_right fun h => by exact_mod_cast h
  have hb := hf.bias_pos
  obtain ⟨hh, hh'⟩ := half_pow_lt_one f.m
  have hbpos : (0 : ℚ) < 2 ^ f.bias := by positivity
  have two_bias : (2 : ℚ) ^ ((f.bias : ℤ) + 1) = 2 * 2 ^ f.bias := by
    rw [zpow_add_one₀ (by norm_num), zpow_natCast, mul_comm]
  rw [show 2 ^ f.e - 1 = 2 * f.bias + 1 by rw [hf.exps]; omega]
  rw [pow_succ] at hr1
  obtain h | h | h := lt_trichotomy ex f.bias
  · refine iff_of_false (fun hx => ?_) (not_le.mpr ?_)
    · have hn : (lastPlace f ex - quantum f).toNat + 2 ≤ 2 * f.bias := by unfold lastPlace quantum; omega
      have hmul := Nat.mul_le_mul_right (2 ^ f.m) hn
      have hpos : 0 < 2 ^ f.m := by positivity
      rw [Nat.add_mul] at hmul hx
      generalize 2 ^ f.m = p at *
      omega
    · calc a < 2 ^ (ex + 1) := hhi
        _ ≤ 2 ^ (f.bias : ℤ) := mono (by omega)
        _ = 1 * 2 ^ f.bias := by rw [zpow_natCast, one_mul]
        _ ≤ overBound f := mul_le_mul_of_nonneg_right (by linarith) hbpos.le
  · have hq : lastPlace f ex = ex - f.m := by unfold lastPlace; omega
    have hn : (lastPlace f ex - quantum f).toNat + 1 = 2 * f.bias := by unfold lastPlace quantum; omega
    rw [hq] at hr
    have hc := lt_carry_iff hr
    rw [h, zpow_natCast] at hc
    have hc : r < 2 ^ (f.m + 1) ↔ a < overBound f := by rw [overBound, ← hc]; norm_cast
    have hge : overBound f ≤ a ↔ 2 ^ f.m * 2 ≤ r := by rw [← not_lt, ← hc, not_lt, pow_succ]
    rw [hge, ← hn, Nat.add_mul, Nat.add_mul]
    omega
  · refine iff_of_true ?_ ?_
    · have hq : lastPlace f ex = ex - f.m := by unfold lastPlace; omega
      have hne : lastPlace f ex ≠ quantum f := by rw [hq]; unfold quantum; omega
      have hn : 2 * f.bias ≤ (lastPlace f ex - quantum f).toNat := by rw [hq]; unfold quantum; omega
      have := Nat.mul_le_mul_right (2 ^ f.m) hn
      have := hr2.resolve_left hne
      rw [Nat.add_mul]
      omega
    · calc overBound f ≤ 2 * 2 ^ f.bias := mul_le_mul_of_nonneg_right (by linarith) hbpos.le
        _ = 2 ^ ((f.bias : ℤ) + 1) := two_bias.symm
        _ ≤ 2 ^ ex := mono (by omega)
        _ ≤ a := hlo

/-- R20: rounded with an unbounded exponent, a number lies below the smallest normal exactly when it is tiny. -/
theorem tiny_iff (f : FFmt) {u : ℕ} (hu : NearestInt (a * 2 ^ (-(ex - f.m))) u) :
    leadExp u (ex - f.m) < 1 - f.bias ↔ a < tinyBound f := by
  have two : (2 : ℚ) ≠ 0 := by norm_num
  have mono {x y : ℤ} (h : x ≤ y) : (2 : ℚ) ^ x ≤ 2 ^ y := zpow_le_zpow_right₀ (by norm_num) h
  have hpos := two_zpow_pos (-(ex - f.m))
  have up : (u : ℤ) ≤ 2 ^ (f.m + 1) := by
    refine hu.le_of_le ?_
    calc a * 2 ^ (-(ex - f.m)) ≤ 2 ^ (ex + 1) * 2 ^ (-(ex - f.m)) := mul_le_mul_of_nonneg_right hhi.le hpos.le
      _ = 2 ^ ((f.m + 1 : ℕ) : ℤ) := by rw [← zpow_add₀ two]; congr 1; push_cast; ring
      _ = _ := by rw [zpow_natCast]; norm_cast
  have low : (2 : ℤ) ^ f.m ≤ u := by
    refine hu.ge_of_ge ?_
    calc ((2 ^ f.m : ℤ) : ℚ) = 2 ^ ex * 2 ^ (-(ex - f.m)) := by
          rw [← zpow_add₀ two, show ex + -(ex - (f.m : ℤ)) = f.m by ring, zpow_natCast]; norm_cast
      _ ≤ a * 2 ^ (-(ex - f.m)) := mul_le_mul_of_nonneg_right hlo hpos.le
  have up : u ≤ 2 ^ (f.m + 1) := by exact_mod_cast up
  have low : 2 ^ f.m ≤ u := by exact_mod_cast low
  have hu0 : u ≠ 0 := by have : 0 < 2 ^ f.m := by positivity
                         omega
  have lead : leadExp u (ex - f.m) = if u < 2 ^ (f.m + 1) then ex else ex + 1 := by
    unfold leadExp
    split
    · rename_i h
      rw [(Nat.log2_eq_iff hu0).mpr ⟨low, h⟩]
      ring
    · rw [show u = 2 ^ (f.m + 1) by omega, Nat.log2_two_pow]
      push_cast
      ring
  have hc := lt_carry_iff hu
  have hc : u < 2 ^ (f.m + 1) ↔ a < (2 - (1 / 2) ^ (f.m + 1)) * 2 ^ ex := by rw [← hc]; norm_cast
  obtain ⟨hh, hh'⟩ := half_pow_lt_one (f.m + 1)
  rw [show f.m + 1 + 1 = f.m + 2 from rfl] at hh hh'
  have hmin := two_zpow_pos (1 - (f.bias : ℤ))
  rw [lead]
  obtain h | h | h := lt_trichotomy (ex + 1) (1 - (f.bias : ℤ))
  · refine iff_of_true (by split <;> omega) ?_
    have half : (1 / 2 : ℚ) ≤ 1 - (1 / 2) ^ (f.m + 2) := by
      have : ((1 / 2) ^ (f.m + 2) : ℚ) ≤ (1 / 2) ^ 1 := pow_le_pow_of_le_one (by norm_num) (by norm_num) (by omega)
      linarith
    calc a < 2 ^ (ex + 1) := hhi
      _ ≤ 2 ^ ((1 - (f.bias : ℤ)) + -1) := mono (by omega)
      _ = 2 ^ (1 - (f.bias : ℤ)) * (1 / 2) := by rw [zpow_add₀ two, zpow_neg_one, one_div]
      _ ≤ tinyBound f := mul_le_mul_of_nonneg_left half hmin.le
  · have e : tinyBound f = (2 - (1 / 2) ^ (f.m + 1)) * 2 ^ ex := by
      rw [tinyBound, ← h, zpow_add_one₀ two, pow_succ _ (f.m + 1)]
      ring
    rw [e, ← hc]
    split <;> omega
  · refine iff_of_false (by split <;> omega) (not_lt.mpr ?_)
    calc tinyBound f ≤ 2 ^ (1 - (f.bias : ℤ)) * 1 := mul_le_mul_of_nonneg_left (by linarith) hmin.le
      _ = 2 ^ (1 - (f.bias : ℤ)) := mul_one _
      _ ≤ 2 ^ ex := mono (by omega)
      _ ≤ a := hlo

end

end Sys2Proof.Machine

namespace Sys2Proof.Machine

/-! ## Rounding into a format (R20, R21) -/

/-- The integer that a rounding puts into the encoding. -/
def roundedUnits (f : FFmt) (m : ℕ) (e : ℤ) : ℕ := rneShift m (lastPlace f (leadExp m e) - e)

/-- The encoding that a rounding forms, before it is seen whether it is finite. -/
def roundedCode (f : FFmt) (m : ℕ) (e : ℤ) : ℕ :=
  (lastPlace f (leadExp m e) - quantum f).toNat * 2 ^ f.m + roundedUnits f m e

/-- R20: the rounding drops digits that are not all zero. -/
def roundedInexact (f : FFmt) (m : ℕ) (e : ℤ) : Bool :=
  !(decide (lastPlace f (leadExp m e) ≤ e) || decide (m % 2 ^ (lastPlace f (leadExp m e) - e).toNat = 0))

/-- R20: the number, rounded with an unbounded exponent, lies below the smallest normal. -/
def roundedTiny (f : FFmt) (m : ℕ) (e : ℤ) : Bool :=
  decide (leadExp (rneShift m (leadExp m e - f.m - e)) (leadExp m e - f.m) < 1 - f.bias)

theorem roundFloat_zero (f : FFmt) (neg : Bool) (e : ℤ) : roundFloat f neg 0 e = (fSign f neg, 0) := if_pos rfl

theorem roundFloat_eq {f : FFmt} (hf : WithInf f) (neg : Bool) (m : ℕ) (e : ℤ) (hm : m ≠ 0) : roundFloat f neg m e =
    if (2 ^ f.e - 1) * 2 ^ f.m ≤ roundedCode f m e then (fSign f neg + (2 ^ f.e - 1) * 2 ^ f.m, flagOF ||| flagNX)
    else (fSign f neg + roundedCode f m e,
      flagIf (roundedInexact f m e) flagNX ||| flagIf (roundedInexact f m e && roundedTiny f m e) flagUF) := by
  have hpos : 0 < (2 ^ f.e - 1) * 2 ^ f.m := by
    have := hf.exps
    exact Nat.mul_pos (by omega) (by positivity)
  have hmax (x : ℕ) : fMax f < x ↔ (2 ^ f.e - 1) * 2 ^ f.m ≤ x := by
    simp only [fMax, hf.ieee]
    omega
  have hexact : (if lastPlace f (leadExp m e) ≤ e then true else decide (m % 2 ^ (lastPlace f (leadExp m e) - e).toNat = 0)) =
      (decide (lastPlace f (leadExp m e) ≤ e) || decide (m % 2 ^ (lastPlace f (leadExp m e) - e).toNat = 0)) := by
    by_cases h : lastPlace f (leadExp m e) ≤ e <;> simp [h]
  rw [roundFloat, if_neg hm, if_congr (hmax _) rfl rfl]
  simp only [hf.ieee]
  unfold roundedInexact
  rw [← hexact]
  rfl

/-- The code of an even integer is even, whatever its sign. -/
theorem even_code {f : FFmt} (hf : WithInf f) (neg : Bool) (m : ℕ) (e : ℤ) (h : Even (roundedUnits f m e)) :
    (fSign f neg + roundedCode f m e) % 2 = 0 := by
  have hm := hf.m_pos
  have h2 : Even (2 ^ f.m) := Nat.even_pow.mpr ⟨even_two, by omega⟩
  have hs : Even (fSign f neg) := by
    cases neg
    · exact Even.zero
    · exact Nat.even_pow.mpr ⟨even_two, by omega⟩
  exact Nat.even_iff.mp (hs.add ((h2.mul_left _).add h))

/-- A value of the format, its sign turned, is a multiple of a last place or lies below its normal values. -/
theorem sgn_mag_grid (f : FFmt) (neg : Bool) (enc : ℕ) (q : ℤ) (hq : quantum f ≤ q) :
    (∃ z : ℤ, sgn neg * mag f enc = z * 2 ^ q) ∨ (quantum f < q ∧ sgn neg * mag f enc < 2 ^ (q + f.m)) := by
  obtain ⟨z, hz⟩ | ⟨h, hlt⟩ := mag_grid (f := f) enc q hq
  · refine .inl ⟨if neg then -z else z, ?_⟩
    rw [hz]
    cases neg <;> simp [sgn]
  · refine .inr ⟨h, ?_⟩
    have := two_zpow_pos (q + f.m)
    have hmag : 0 ≤ mag f enc := by unfold mag; split <;> positivity
    cases neg
    · simpa [sgn] using hlt
    · simp only [sgn, if_true]
      linarith

section
variable {f : FFmt} (hf : WithInf f)
include hf

/-- What the parts of a rounding say of the number that its digits stand for. -/
theorem rounded_parts {m : ℕ} {e : ℤ} {a : ℚ} (hs : Stands m e a) (hm : m ≠ 0) :
    (∀ x : ℚ, ((∃ z : ℤ, x = z * 2 ^ lastPlace f (leadExp m e)) ∨
        (quantum f < lastPlace f (leadExp m e) ∧ x < 2 ^ (lastPlace f (leadExp m e) + f.m))) →
      |mag f (roundedCode f m e) - a| ≤ |x - a| ∧
        (x ≠ mag f (roundedCode f m e) → |mag f (roundedCode f m e) - a| = |x - a| → Even (roundedUnits f m e))) ∧
    ((2 ^ f.e - 1) * 2 ^ f.m ≤ roundedCode f m e ↔ overBound f ≤ a) ∧
    (roundedInexact f m e = true ↔ mag f (roundedCode f m e) ≠ a) ∧ (roundedTiny f m e = true ↔ a < tinyBound f) := by
  obtain ⟨hlo, hhi⟩ := hs.leadExp hm
  obtain ⟨-, hge, -⟩ := lastPlace_ge f (leadExp m e)
  have hle := hf.m_le
  obtain ⟨hnear, hexact⟩ := hs.nearest (q := lastPlace f (leadExp m e)) (by omega)
  obtain ⟨htiny, -⟩ := hs.nearest (q := leadExp m e - f.m) (by omega)
  obtain ⟨-, hr1, hr2⟩ := rounded_range hlo hhi hnear
  have hq := (lastPlace_ge f (leadExp m e)).1
  have hmag : mag f (roundedCode f m e) = roundedUnits f m e * 2 ^ lastPlace f (leadExp m e) := by
    rw [roundedCode, mag_of_parts _ _ (by exact_mod_cast hr1) (hr2.imp (fun h => by omega) fun h => by exact_mod_cast h)]
    congr 2
    omega
  rw [hmag]
  refine ⟨fun x hx => ?_, overflows_iff hlo hhi hf hnear, ?_, by rw [roundedTiny, decide_eq_true_eq]; exact tiny_iff hlo hhi f htiny⟩
  · obtain ⟨h1, h2⟩ := nearest_in_format hlo hnear x hx
    exact ⟨h1, fun hx h => by exact_mod_cast h2 hx h⟩
  · have hexact : a = roundedUnits f m e * 2 ^ lastPlace f (leadExp m e) ↔ _ := hexact
    rw [ne_comm, Ne, hexact]
    simp [roundedInexact]

/-- R20, R21: a number is rounded into a format with infinities through any digits that stand for its magnitude. -/
theorem rounds_roundFloat {m : ℕ} {e : ℤ} {v : ℚ} (neg : Bool) (hs : Stands m e |v|) (hn : m ≠ 0 → neg = decide (v < 0)) :
    Rounds f (roundFloat f neg m e) v := by
  have hpos : 0 < (2 ^ f.e - 1) * 2 ^ f.m := by
    have := hf.exps
    exact Nat.mul_pos (by omega) (by positivity)
  obtain rfl | hm := eq_or_ne m 0
  · have hv : v = 0 := by
      obtain h | ⟨h, -⟩ := hs
      · simpa using h
      · simp at h
    subst hv
    have hz := readFloat_encoded hf neg 0 hpos
    have hover : 0 < overBound f := by
      obtain ⟨-, h⟩ := half_pow_lt_one f.m
      exact mul_pos (by linarith) (by positivity)
    have hmag : sgn neg * mag f 0 = 0 := by simp [mag]
    rw [hmag, Nat.add_zero] at hz
    rw [roundFloat_zero]
    refine ⟨(sign_add neg 0 (by positivity)).2.2, fun _ => ⟨0, hz, fun k p _ => ?_, by simp⟩, fun h => ?_⟩
    · rw [sub_zero, sub_zero, abs_zero]
      exact ⟨abs_nonneg p, fun hp h0 => absurd (abs_eq_zero.mp h0.symm) hp⟩
    · rw [abs_zero] at h
      exact absurd h (not_le.mpr hover)
  · obtain rfl := hn hm
    obtain ⟨hnear, hover, hinexact, htiny⟩ := rounded_parts hf hs hm
    rw [roundFloat_eq hf _ _ _ hm, if_congr hover rfl rfl]
    by_cases ho : overBound f ≤ |v|
    · rw [if_pos ho]
      exact ⟨(sign_add _ _ (top_le hf)).2.2, fun h => absurd h (not_lt.mpr ho), fun _ => ⟨readFloat_infinity hf _, rfl⟩⟩
    · rw [if_neg ho]
      have hfin := not_le.mp (mt hover.mp ho)
      obtain ⟨-, -, hwidth⟩ := sign_add (f := f) (decide (v < 0)) _ (hfin.trans (top_le hf))
      have dist (x : ℚ) : |x - v| = abs (sgn (decide (v < 0)) * x - |v|) := by
        rw [← sgn_mul_eq_abs v, abs_sgn_mul_sub]
      refine ⟨hwidth, fun _ => ⟨_, readFloat_encoded hf _ _ hfin, fun k p hp => ?_, ?_⟩, fun h => absurd h ho⟩
      · obtain ⟨neg, enc, rfl⟩ := mag_of_readFloat hf k p hp
        rw [dist, dist (sgn neg * _), sgn_mul_sgn_mul]
        have grid : sgn (decide (v < 0)) * (sgn neg * mag f enc) = sgn (decide (v < 0) != neg) * mag f enc := by
          cases decide (v < 0) <;> cases neg <;> simp [sgn]
        obtain ⟨h1, h2⟩ := hnear _ (grid ▸ sgn_mag_grid f _ enc _ (lastPlace_ge f (leadExp m e)).1)
        refine ⟨h1, fun hne h => even_code hf _ m e (h2 (fun h => hne ?_) h)⟩
        rw [← h, sgn_mul_sgn_mul]
      · have hq : sgn (decide (v < 0)) * mag f (roundedCode f m e) = v ↔ mag f (roundedCode f m e) = |v| := by
          rw [sgn_mul_eq_iff, sgn_mul_eq_abs]
        rw [if_congr hq rfl rfl]
        by_cases hx : mag f (roundedCode f m e) = |v|
        · rw [if_pos hx, Bool.eq_false_iff.mpr (mt hinexact.mp (not_not.mpr hx))]
          simp [flagIf]
        · rw [if_neg hx, hinexact.mpr hx, if_congr htiny.symm rfl rfl]
          simp [flagIf]

end

end Sys2Proof.Machine

namespace Sys2Proof.Machine

/-! ## Instructions that write a floating-point result (R89, R92) -/

theorem writesFl_fpDone {s : State} {i : Instr} {a : BitVec 5} {r : Fl Nat} (h : exec i s = fpDone s a r) :
    WritesFl s i a (BitVec.ofNat 64 r.1) r.2 :=
  writesFl_of s i a (BitVec.ofNat 64 r.1, r.2) h

theorem fWidth_fpFmt (d : BitVec 1) : fWidth (fpFmt d) = if d = 1 then 64 else 32 := by
  unfold fpFmt
  split <;> rfl

theorem fpReg_eq (s : State) (d : BitVec 1) (r : BitVec 5) :
    fpReg s d r = (reg s s.cur r).toNat % 2 ^ (if d = 1 then 64 else 32) := by
  rw [fpReg, fWidth_fpFmt]

/-- R92: the operand of a conversion from `.d` is the whole register. -/
theorem cvtFrom_double (s : State) (b : BitVec 5) : cvtFrom s 1 b = readFloat fFP64 (reg s s.cur b).toNat := by
  rw [cvtFrom, fpReg_eq]
  exact congrArg _ (Nat.mod_eq_of_lt (reg s s.cur b).isLt)

/-! ## NaN operands (R90, R91) -/

theorem isNaN_iff (v : Val) : isNaN v = true ↔ ∃ b, v = .nan b := by cases v <;> simp [isNaN]

theorem addVal_nan_left (b : Bool) (y : Val) : addVal (.nan b) y = (.nan false, snanFlag [.nan b, linearize y]) := rfl

theorem addVal_nan_right (b : Bool) (x : Val) : addVal x (.nan b) = (.nan false, snanFlag [linearize x, .nan b]) := by
  unfold addVal
  generalize linearize x = z
  cases z <;> rfl

theorem mulVal_nan_left (b : Bool) (y : Val) : mulVal (.nan b) y = (.nan false, snanFlag [.nan b, y]) := rfl

theorem mulVal_nan_right (b : Bool) (x : Val) : mulVal x (.nan b) = (.nan false, snanFlag [x, .nan b]) := by
  cases x <;> rfl

theorem divVal_nan_left (b : Bool) (y : Val) : divVal (.nan b) y = (.nan false, snanFlag [.nan b, linearize y]) := rfl

theorem divVal_nan_right (b : Bool) (x : Val) : divVal x (.nan b) = (.nan false, snanFlag [linearize x, .nan b]) := by
  unfold divVal
  generalize linearize x = z
  cases z <;> rfl

theorem negVal_nan (b : Bool) : negVal (.nan b) = .nan b := rfl

theorem fmaVal_eq (a b c : Val) : fmaVal a b c = ((addVal (mulVal a b).1 c).1,
    (mulVal a b).2 ||| (addVal (mulVal a b).1 c).2 ||| snanFlag [a, b, c]) := rfl

/-- R90: a fused product and sum of which one operand is a NaN is a NaN. -/
theorem fmaVal_nan (a b c : Val) (h : isNaN a = true ∨ isNaN b = true ∨ isNaN c = true) : ∃ s, (fmaVal a b c).1 = .nan s := by
  simp only [isNaN_iff] at h
  obtain ⟨s, rfl⟩ | ⟨s, rfl⟩ | ⟨s, rfl⟩ := h
  · exact ⟨false, by simp only [fmaVal_eq, mulVal_nan_left, addVal_nan_left]⟩
  · exact ⟨false, by simp only [fmaVal_eq, mulVal_nan_right, addVal_nan_left]⟩
  · exact ⟨false, by simp only [fmaVal_eq, addVal_nan_right]⟩

section
variable {f : FFmt} (hf : WithInf f)
include hf

theorem arith_nan (s : Bool) (fl : Word) : arith f (.nan s, fl) = (fNaN f, fl ||| flagIf s flagNV ||| 0) := by
  simp only [arith, toFloat, linearize, hf.ieee]

theorem fst_arith_nan {r : Fl Val} {s : Bool} (h : r.1 = .nan s) : (arith f r).1 = fNaN f := by
  obtain ⟨v, fl⟩ := r
  obtain rfl : v = .nan s := h
  rw [arith_nan hf]

omit hf in
theorem snanFlag_of_mem (l : List Val) (h : .nan true ∈ l) : snanFlag l = flagNV := by
  rw [snanFlag, List.any_eq_true.mpr ⟨_, h, rfl⟩]
  rfl

/-- R19: the result of a signalling NaN raises NV. -/
theorem arith_signals (l : List Val) (h : .nan true ∈ l) : (arith f (.nan false, snanFlag l)).2 &&& flagNV = flagNV := by
  rw [arith_nan hf, snanFlag_of_mem l h]
  dsimp only
  decide

end

/-- R91: FMIN and FMAX return the operand that is not a NaN. -/
theorem fpPick_one_nan (least : Bool) (f : FFmt) (x y : Nat) (hx : isNaN (readFloat f x) = true) (hy : isNaN (readFloat f y) = false)
    (hw : y < 2 ^ fWidth f) : (fpPick least f x y).1 = y ∧ (fpPick least f y x).1 = y := by
  simp only [fpPick, hx, hy, Nat.mod_eq_of_lt hw, and_self]

theorem fpPick_two_nans (least : Bool) (f : FFmt) (x y : Nat) (hx : isNaN (readFloat f x) = true) (hy : isNaN (readFloat f y) = true) :
    (fpPick least f x y).1 = fNaN f := by
  simp only [fpPick, hx, hy]

theorem fpPick_signals (least : Bool) (f : FFmt) (x y : Nat) (hx : readFloat f x = .nan true) :
    (fpPick least f x y).2 = flagNV := by
  have h := snanFlag_of_mem [.nan true, readFloat f y] (List.mem_cons_self ..)
  have hn : isNaN (.nan true) = true := rfl
  cases hy : isNaN (readFloat f y) <;> simp only [fpPick, hx, hy, hn, h]

theorem fpEq_nan (f : FFmt) (x y : Nat) (h : isNaN (readFloat f x) = true ∨ isNaN (readFloat f y) = true) :
    fpEq f x y = (false, snanFlag [readFloat f x, readFloat f y]) := by
  rw [fpEq]
  exact if_pos (by simpa using h)

theorem fpLt_nan (f : FFmt) (x y : Nat) (h : isNaN (readFloat f x) = true ∨ isNaN (readFloat f y) = true) :
    fpLt f x y = (false, flagNV) := by
  rw [fpLt]
  exact if_pos (by simpa using h)

theorem fpLe_nan (f : FFmt) (x y : Nat) (h : isNaN (readFloat f x) = true ∨ isNaN (readFloat f y) = true) :
    fpLe f x y = (false, flagNV) := by
  rw [fpLe]
  exact if_pos (by simpa using h)

/-! ## Finite operands (R20, R90) -/

theorem ratOf_eq_some (v : Val) (a : ℚ) (h : ratOf v = some a) : ∃ n m e, v = .num n m e ∧ a = sgn n * (m * 2 ^ e) := by
  cases v with
  | num n m e => exact ⟨n, m, e, rfl, by rw [← Option.some.inj h, sgn, mul_assoc]⟩
  | _ => cases h

theorem ratOf_num_sgn (n : Bool) (m : Nat) (e : Int) : ratOf (.num n m e) = some (sgn n * (m * 2 ^ e)) := by
  rw [ratOf, sgn, mul_assoc]

theorem abs_sgn_num (n : Bool) (m : Nat) (e : Int) : |sgn n * (m * 2 ^ e)| = m * 2 ^ e := by
  have := two_zpow_pos e
  rw [abs_mul, abs_sgn, one_mul, abs_of_nonneg (by positivity)]

theorem sign_of_num (n : Bool) (m : Nat) (e : Int) (hm : m ≠ 0) : n = decide (sgn n * (m * 2 ^ e) < 0) := by
  have hpos : (0 : ℚ) < m * 2 ^ e := mul_pos (by exact_mod_cast Nat.pos_of_ne_zero hm) (two_zpow_pos e)
  cases n
  · simp [sgn, hpos.le]
  · simp [sgn, hpos]

theorem toUnits_mul (n : Bool) (m : Nat) (e u : Int) (h : u ≤ e) : (toUnits n m e u : ℚ) * 2 ^ u = sgn n * (m * 2 ^ e) := by
  have hp : ((m * 2 ^ (e - u).toNat : ℕ) : ℚ) * 2 ^ u = m * 2 ^ e := by
    push_cast
    rw [mul_assoc, ← zpow_natCast, ← zpow_add₀ (by norm_num), Int.toNat_of_nonneg (by omega), sub_add_cancel]
  rw [← hp]
  cases n <;> simp [toUnits, sgn]

/-- R90: the sum of two finite numbers is exact. -/
theorem addVal_finite (x y : Val) (a b : ℚ) (hx : ratOf x = some a) (hy : ratOf y = some b) :
    (addVal x y).2 = 0 ∧ ratOf (addVal x y).1 = some (a + b) := by
  obtain ⟨n, m, e, rfl, rfl⟩ := ratOf_eq_some x a hx
  obtain ⟨k, p, g, rfl, rfl⟩ := ratOf_eq_some y b hy
  have sum : ((toUnits n m e (min e g) + toUnits k p g (min e g) : ℤ) : ℚ) * 2 ^ min e g =
      sgn n * (m * 2 ^ e) + sgn k * (p * 2 ^ g) := by
    rw [← toUnits_mul n m e _ (min_le_left e g), ← toUnits_mul k p g _ (min_le_right e g)]
    push_cast
    ring
  simp only [addVal, linearize]
  rw [← sum]
  generalize toUnits n m e (min e g) + toUnits k p g (min e g) = t
  split
  · rename_i h0
    subst h0
    exact ⟨rfl, by rw [ratOf_num_sgn]; simp⟩
  · refine ⟨rfl, ?_⟩
    have ht : sgn (decide (t < 0)) * ((t.natAbs : ℕ) : ℚ) = t := by
      have h := sgn_mul_eq_abs (t : ℚ)
      have hc : decide ((t : ℚ) < 0) = decide (t < 0) := by simp
      rw [hc, sgn_mul_eq_iff] at h
      rw [h, Nat.cast_natAbs, Int.cast_abs]
    rw [ratOf_num_sgn, ← mul_assoc, ht]

theorem mulVal_finite (x y : Val) (a b : ℚ) (hx : ratOf x = some a) (hy : ratOf y = some b) :
    (mulVal x y).2 = 0 ∧ ratOf (mulVal x y).1 = some (a * b) := by
  obtain ⟨n, m, e, rfl, rfl⟩ := ratOf_eq_some x a hx
  obtain ⟨k, p, g, rfl, rfl⟩ := ratOf_eq_some y b hy
  refine ⟨rfl, ?_⟩
  have hs : sgn (n != k) = sgn n * sgn k := by cases n <;> cases k <;> norm_num [sgn]
  have hv : (mulVal (.num n m e) (.num k p g)).1 = .num (n != k) (m * p) (e + g) := rfl
  rw [hv, ratOf_num_sgn, hs, zpow_add₀ (by norm_num)]
  push_cast
  congr 1
  ring

theorem negVal_finite (x : Val) (a : ℚ) (hx : ratOf x = some a) : ratOf (negVal x) = some (-a) := by
  obtain ⟨n, m, e, rfl, rfl⟩ := ratOf_eq_some x a hx
  rw [show negVal (.num n m e) = .num (!n) m e from rfl, ratOf_num_sgn]
  cases n <;> simp [sgn]

theorem fmaVal_finite (x y z : Val) (a b c : ℚ) (hx : ratOf x = some a) (hy : ratOf y = some b) (hz : ratOf z = some c) :
    (fmaVal x y z).2 = 0 ∧ ratOf (fmaVal x y z).1 = some (a * b + c) := by
  obtain ⟨hm, hp⟩ := mulVal_finite x y a b hx hy
  obtain ⟨ha, hs⟩ := addVal_finite _ z _ c hp hz
  refine ⟨?_, hs⟩
  have hn : snanFlag [x, y, z] = 0 := by
    obtain ⟨_, _, _, rfl, -⟩ := ratOf_eq_some x a hx
    obtain ⟨_, _, _, rfl, -⟩ := ratOf_eq_some y b hy
    obtain ⟨_, _, _, rfl, -⟩ := ratOf_eq_some z c hz
    rfl
  rw [fmaVal_eq, hm, ha, hn]
  rfl

/-- The digits of a quotient of integers, of 130 bits or more, the last of which stands for a remainder. -/
theorem quotient_stands (m p j : Nat) (u : Int) (hp : p ≠ 0) (hj : 130 + Nat.log2 p ≤ j) :
    Stands (2 * (m * 2 ^ j / p) + if m * 2 ^ j % p = 0 then 0 else 1) u ((m : ℚ) * 2 ^ j / p * 2 ^ (u + 1)) := by
  have hpq : (0 : ℚ) < p := by exact_mod_cast Nat.pos_of_ne_zero hp
  have hu := two_zpow_pos u
  have hd := Nat.div_add_mod (m * 2 ^ j) p
  have hr := Nat.mod_lt (m * 2 ^ j) (Nat.pos_of_ne_zero hp)
  have hm : m * 2 ^ j % p ≠ 0 → 2 ^ 60 ≤ m * 2 ^ j / p := by
    intro h
    have hm : 1 ≤ m := Nat.one_le_iff_ne_zero.mpr (by rintro rfl; simp at h)
    rw [Nat.le_div_iff_mul_le (Nat.pos_of_ne_zero hp)]
    have hlog : p < 2 ^ (Nat.log2 p + 1) := Nat.lt_log2_self
    calc 2 ^ 60 * p ≤ 2 ^ 60 * 2 ^ (Nat.log2 p + 1) := Nat.mul_le_mul_left _ hlog.le
      _ = 2 ^ (60 + (Nat.log2 p + 1)) := (pow_add _ _ _).symm
      _ ≤ 2 ^ j := Nat.pow_le_pow_right (by norm_num) (by omega)
      _ ≤ m * 2 ^ j := Nat.le_mul_of_pos_left _ hm
  have hdq : ((m : ℚ) * 2 ^ j) = p * (m * 2 ^ j / p : ℕ) + (m * 2 ^ j % p : ℕ) := by exact_mod_cast hd.symm
  rw [hdq, zpow_add_one₀ (by norm_num)]
  generalize m * 2 ^ j / p = q at *
  generalize m * 2 ^ j % p = r at *
  split_ifs with h0
  · left
    subst h0
    push_cast
    field_simp
    ring
  · right
    have hr0 : (0 : ℚ) < r := by exact_mod_cast Nat.pos_of_ne_zero h0
    have hrp : (r : ℚ) < p := by exact_mod_cast hr
    have e : ((p : ℚ) * q + r) / p * (2 ^ u * 2) = (2 * q + 2 * (r / p)) * 2 ^ u := by field_simp
    have h1 : 0 < (r : ℚ) / p := div_pos hr0 hpq
    have h2 : (r : ℚ) / p < 1 := (div_lt_one hpq).mpr hrp
    have hm := hm h0
    rw [e]
    refine ⟨⟨q, rfl⟩, by omega, mul_lt_mul_of_pos_right ?_ hu, mul_lt_mul_of_pos_right ?_ hu⟩ <;> push_cast <;> linarith

theorem sgn_bne (n k : Bool) : sgn (n != k) = sgn n * sgn k := by cases n <;> cases k <;> norm_num [sgn]

/-- The digits of a quotient stand for it. -/
theorem divNum_stands (n k : Bool) (m p : Nat) (e g : Int) (hp : p ≠ 0) : ∃ d u, divNum (n != k) m e p g false = .num (n != k) d u ∧
    Stands d u |sgn n * (m * 2 ^ e) / (sgn k * (p * 2 ^ g))| ∧
    (d ≠ 0 → (n != k) = decide (sgn n * (m * 2 ^ e) / (sgn k * (p * 2 ^ g)) < 0)) := by
  have two : (2 : ℚ) ≠ 0 := by norm_num
  have hpq : (p : ℚ) ≠ 0 := by exact_mod_cast hp
  have hg := (two_zpow_pos g).ne'
  have quot : sgn n * (m * 2 ^ e) / (sgn k * (p * 2 ^ g)) = sgn (n != k) * (m / p * 2 ^ (e - g)) := by
    rw [sgn_bne, zpow_sub₀ two]
    cases k
    · simp only [sgn, Bool.false_eq_true, if_false]
      field_simp
    · simp only [sgn, if_true]
      field_simp
  refine ⟨_, _, rfl, ?_, fun hd => ?_⟩
  · have hs := quotient_stands m p (130 + Nat.log2 p + (e - g).toNat) (e - g - (130 + Nat.log2 p + (e - g).toNat : ℕ) - 1) hp (by omega)
    rw [quot, abs_mul, abs_sgn, one_mul, abs_of_nonneg (by positivity)]
    have hmag : (m : ℚ) / p * 2 ^ (e - g) = m * 2 ^ (130 + Nat.log2 p + (e - g).toNat) / p *
        2 ^ (e - g - (130 + Nat.log2 p + (e - g).toNat : ℕ) - 1 + 1) := by
      rw [sub_add_cancel, zpow_sub₀ two (e - g), zpow_natCast]
      field_simp
    rw [hmag]
    simpa using hs
  · have hm : m ≠ 0 := by
      rintro rfl
      simp at hd
    have hm : (0 : ℚ) < m := by exact_mod_cast Nat.pos_of_ne_zero hm
    have hpos : (0 : ℚ) < m / p * 2 ^ (e - g) := mul_pos (div_pos hm (by positivity)) (two_zpow_pos _)
    rw [quot]
    generalize (n != k) = b
    cases b
    · simp [sgn, hpos.le]
    · simp [sgn, hpos]

section
variable {f : FFmt} (hf : WithInf f)
include hf

theorem roundFloat_noQsat (n : Bool) (m : Nat) (e : Int) : (roundFloat f n m e).2 &&& flagQSAT = 0 := by
  obtain rfl | hm := eq_or_ne m 0
  · rw [roundFloat_zero]
    dsimp only
    decide
  · rw [roundFloat_eq hf _ _ _ hm]
    split
    · dsimp only
      decide
    · dsimp only
      cases roundedInexact f m e <;> cases roundedTiny f m e <;> decide

theorem rounds_arith_num {n : Bool} {m : Nat} {e : Int} {v : ℚ} (hs : Stands m e |v|) (hn : m ≠ 0 → n = decide (v < 0)) :
    Rounds f (arith f (.num n m e, 0)) v := by
  have h : arith f (.num n m e, 0) = roundFloat f n m e := by
    have hq := roundFloat_noQsat hf n m e
    simp only [arith, toFloat, linearize, hq, flagIf]
    simp
  rw [h]
  exact rounds_roundFloat hf n hs hn

theorem rounds_arith {r : Fl Val} {v : ℚ} (h0 : r.2 = 0) (h : ratOf r.1 = some v) : Rounds f (arith f r) v := by
  obtain ⟨x, fl⟩ := r
  obtain rfl : fl = 0 := h0
  obtain ⟨n, m, e, rfl, rfl⟩ := ratOf_eq_some x v h
  exact rounds_arith_num hf (.inl (abs_sgn_num n m e)) (sign_of_num n m e)

theorem rounds_toFloat {x : Val} {v : ℚ} (h : ratOf x = some v) : Rounds f (toFloat f x) v := by
  obtain ⟨n, m, e, rfl, rfl⟩ := ratOf_eq_some x v h
  exact rounds_roundFloat hf n (.inl (abs_sgn_num n m e)) (sign_of_num n m e)

theorem rounds_fpDiv {x y : Nat} {a b : ℚ} (ha : ratOf (readFloat f x) = some a) (hb : ratOf (readFloat f y) = some b) (h0 : b ≠ 0) :
    Rounds f (fpDiv f x y) (a / b) := by
  obtain ⟨n, m, e, hx, rfl⟩ := ratOf_eq_some _ a ha
  obtain ⟨k, p, g, hy, rfl⟩ := ratOf_eq_some _ b hb
  have hp : p ≠ 0 := by
    rintro rfl
    simp at h0
  obtain ⟨d, u, hd, hs, hn⟩ := divNum_stands n k m p e g hp
  have hv : divVal (.num n m e) (.num k p g) = (.num (n != k) d u, 0) := by
    simp only [divVal, linearize, if_neg hp, irrational, hd]
  rw [fpDiv, hx, hy, hv]
  exact rounds_arith_num hf hs hn

end

/-! ## The clauses of the obligation -/

/-- R89-R91: the arithmetic instructions, selections, comparisons and the class. -/
theorem scalarFloat_instructions (s : State) (a b c : BitVec 5) (d : BitVec 1) :
    let done := fun (i : Instr) (r : Fl Nat) => WritesFl s i a (BitVec.ofNat 64 r.1) r.2
    let truth := fun (r : Fl Bool) => ((if r.1 then 1 else 0, r.2) : Fl Nat)
    let f := fpFmt d
    let x := fpReg s d b
    let y := fpReg s d c
    done (.fadd a b c d) (fpAdd f x y) ∧ done (.fsub a b c d) (fpSub f x y) ∧ done (.fmul a b c d) (fpMul f x y) ∧
    done (.fdiv a b c d) (fpDiv f x y) ∧ done (.fsqrt a b d) (fpSqrt f x) ∧ done (.fma a b c d) (fpFma f x y (fpReg s d a)) ∧
    done (.fmin a b c d) (fpPick true f x y) ∧ done (.fmax a b c d) (fpPick false f x y) ∧
    done (.feq a b c d) (truth (fpEq f x y)) ∧ done (.flt a b c d) (truth (fpLt f x y)) ∧
    done (.fle a b c d) (truth (fpLe f x y)) ∧ done (.fclass a b d) (fpClass f x, 0) :=
  ⟨writesFl_fpDone rfl, writesFl_fpDone rfl, writesFl_fpDone rfl, writesFl_fpDone rfl, writesFl_fpDone rfl, writesFl_fpDone rfl,
    writesFl_fpDone rfl, writesFl_fpDone rfl, writesFl_fpDone rfl, writesFl_fpDone rfl, writesFl_fpDone rfl, writesFl_fpDone rfl⟩

/-- R92: the conversions. -/
theorem scalarFloat_conversions (s : State) (a b : BitVec 5) :
    let done := fun (i : Instr) (r : Fl Nat) => WritesFl s i a (BitVec.ofNat 64 r.1) r.2
    let x := reg s s.cur b
    let i64 := fun (v : Val) => ((wrapInt 64 (toInt (-2 ^ 63) (2 ^ 63 - 1) v).1, (toInt (-2 ^ 63) (2 ^ 63 - 1) v).2) : Fl Nat)
    let n64 := fun (v : Val) => ((wrapInt 64 (toInt 0 (2 ^ 64 - 1) v).1, (toInt 0 (2 ^ 64 - 1) v).2) : Fl Nat)
    done (.fcvtDS a b) (toFloat fFP64 (cvtFrom s 0 b)) ∧ done (.fcvtSD a b) (toFloat fFP32 (cvtFrom s 1 b)) ∧
    done (.fcvtSL a b) (toFloat fFP32 (intVal x.toInt)) ∧ done (.fcvtDL a b) (toFloat fFP64 (intVal x.toInt)) ∧
    done (.fcvtSLu a b) (toFloat fFP32 (intVal x.toNat)) ∧ done (.fcvtDLu a b) (toFloat fFP64 (intVal x.toNat)) ∧
    done (.fcvtLS a b) (i64 (cvtFrom s 0 b)) ∧ done (.fcvtLD a b) (i64 (cvtFrom s 1 b)) ∧
    done (.fcvtLuS a b) (n64 (cvtFrom s 0 b)) ∧ done (.fcvtLuD a b) (n64 (cvtFrom s 1 b)) :=
  ⟨writesFl_fpDone rfl, writesFl_fpDone rfl, writesFl_fpDone rfl, writesFl_fpDone rfl, writesFl_fpDone rfl, writesFl_fpDone rfl,
    writesFl_fpDone rfl, writesFl_fpDone rfl, writesFl_fpDone rfl, writesFl_fpDone rfl⟩

/-- R90, R91: a NaN operand `x` beside operands `y` and `z`. -/
theorem scalarFloat_nan {f : FFmt} (hf : WithInf f) (x y z : Nat) (hx : isNaN (readFloat f x) = true) :
    (fpAdd f x y).1 = fNaN f ∧ (fpAdd f y x).1 = fNaN f ∧ (fpSub f x y).1 = fNaN f ∧ (fpSub f y x).1 = fNaN f ∧
    (fpMul f x y).1 = fNaN f ∧ (fpMul f y x).1 = fNaN f ∧ (fpDiv f x y).1 = fNaN f ∧ (fpDiv f y x).1 = fNaN f ∧
    (fpSqrt f x).1 = fNaN f ∧ (fpFma f x y z).1 = fNaN f ∧ (fpFma f y x z).1 = fNaN f ∧ (fpFma f y z x).1 = fNaN f := by
  obtain ⟨b, hb⟩ := (isNaN_iff _).mp hx
  have nan {r : Fl Val} (h : ∃ s, r.1 = .nan s) : (arith f r).1 = fNaN f := h.elim fun _ h => fst_arith_nan hf h
  refine ⟨nan ⟨false, ?_⟩, nan ⟨false, ?_⟩, nan ⟨false, ?_⟩, nan ⟨false, ?_⟩, nan ⟨false, ?_⟩, nan ⟨false, ?_⟩, nan ⟨false, ?_⟩,
    nan ⟨false, ?_⟩, nan ⟨false, ?_⟩, nan (fmaVal_nan _ _ _ (.inl hx)), nan (fmaVal_nan _ _ _ (.inr (.inl hx))),
    nan (fmaVal_nan _ _ _ (.inr (.inr hx)))⟩
  · rw [hb, addVal_nan_left]
  · rw [hb, addVal_nan_right]
  · rw [hb, addVal_nan_left]
  · rw [hb, negVal_nan, addVal_nan_right]
  · rw [hb, mulVal_nan_left]
  · rw [hb, mulVal_nan_right]
  · rw [hb, divVal_nan_left]
  · rw [hb, divVal_nan_right]
  · rw [hb]
    rfl

/-- R19, R91: a signalling NaN operand sets NV. -/
theorem scalarFloat_signals {f : FFmt} (hf : WithInf f) (x y : Nat) (hx : isSNaN (readFloat f x) = true) :
    (fpAdd f x y).2 &&& flagNV = flagNV ∧ (fpMul f x y).2 &&& flagNV = flagNV ∧
    (fpDiv f x y).2 &&& flagNV = flagNV ∧ (fpSqrt f x).2 &&& flagNV = flagNV ∧ (fpEq f x y).2 &&& flagNV = flagNV ∧
    (fpPick true f x y).2 &&& flagNV = flagNV ∧ (fpPick false f x y).2 &&& flagNV = flagNV := by
  obtain hb : readFloat f x = .nan true := by
    cases hv : readFloat f x <;> simp_all [isSNaN]
  have first (l : List Val) : .nan true ∈ .nan true :: l := List.mem_cons_self ..
  refine ⟨?_, ?_, ?_, ?_, ?_, by rw [fpPick_signals true f x y hb, BitVec.and_self],
    by rw [fpPick_signals false f x y hb, BitVec.and_self]⟩
  · rw [fpAdd, hb, addVal_nan_left]
    exact arith_signals hf _ (first _)
  · rw [fpMul, hb, mulVal_nan_left]
    exact arith_signals hf _ (first _)
  · rw [fpDiv, hb, divVal_nan_left]
    exact arith_signals hf _ (first _)
  · rw [fpSqrt, hb]
    exact arith_signals hf _ (first _)
  · rw [fpEq_nan f x y (.inl (by rw [hb]; rfl)), hb, snanFlag_of_mem _ (first _), BitVec.and_self]

/-- Settles O3: the instructions apply the operations of the number formats, a NaN operand goes through them as R90 and R91 say, and
exact results are rounded once, a quotient through digits that stand for it. -/
theorem scalarFloat : Obligations.ScalarFloat := by
  refine ⟨?_, ?_, ?_, ?_⟩
  · rintro s a b c d f x y z rfl rfl rfl rfl
    rw [← fpReg_eq, ← fpReg_eq, ← fpReg_eq]
    exact scalarFloat_instructions s a b c d
  · rintro s a b x rfl
    rw [← cvtFrom_double]
    exact scalarFloat_conversions s a b
  · intro f x y z hf hx
    have hf : WithInf f := withInf_of_mem f (by rcases hf with rfl | rfl <;> simp)
    obtain ⟨h1, h2, h3, h4, h5, h6, h7, h8, h9, h10, h11, h12⟩ := scalarFloat_nan hf x y z hx
    exact ⟨h1, h2, h3, h4, h5, h6, h7, h8, h9, h10, h11, h12,
      by rw [fpEq_nan f x y (.inl hx)], by rw [fpEq_nan f y x (.inr hx)], fpLt_nan f x y (.inl hx), fpLt_nan f y x (.inr hx),
      fpLe_nan f x y (.inl hx), fpLe_nan f y x (.inr hx), fun least hy hw => fpPick_one_nan least f x y hx hy hw,
      fun least hy => fpPick_two_nans least f x y hx hy, scalarFloat_signals hf x y⟩
  · intro formats f hf x y z a b c ha hb hc least bound rounds
    have hf := withInf_of_mem f hf
    obtain ⟨add0, add⟩ := addVal_finite _ _ a b ha hb
    obtain ⟨sub0, sub⟩ := addVal_finite _ _ a (-b) ha (negVal_finite _ b hb)
    obtain ⟨mul0, mul⟩ := mulVal_finite _ _ a b ha hb
    obtain ⟨fma0, fma⟩ := fmaVal_finite _ _ _ a b c ha hb hc
    rw [← sub_eq_add_neg] at sub
    exact ⟨rounds_arith hf add0 add, rounds_arith hf sub0 sub, rounds_arith hf mul0 mul, rounds_arith hf fma0 fma,
      rounds_fpDiv hf ha hb, fun g _ w d hd => rounds_toFloat hf hd⟩

end Sys2Proof.Machine

namespace Sys2Proof.Machine

/-! ## The issue of an array-side instruction (R63, R127, R201, R229) -/

@[simp] theorem vop_word (s : State) (id : Nat) (w : BitVec 32) (a b : BitVec 5) : (vop s id w a b).word = w := by
  unfold vop
  split <;> rfl

/-- R132: behind an entry that waits, the operands are the registers. -/
theorem vop_behind (s : State) (id : Nat) (w : BitVec 32) (a b : BitVec 5) (h : behind (strandOf s id) = true) :
    vop s id w a b = ⟨w, reg s id a, reg s id b⟩ := by
  unfold vop
  cases hw : (strandOf s id).arc.waits with
  | none => simp [behind, hw] at h
  | some x => cases (strandOf s id).arc.viq <;> rfl

theorem vop_op1 (s : State) (w : BitVec 32) (a b : BitVec 5) : (vop s s.cur w a b).op1 = operand1 s a := by
  unfold operand1 vop
  cases (strandOf s s.cur).arc.waits <;> cases (strandOf s s.cur).arc.viq <;> rfl

theorem vop_op2 (s : State) (w : BitVec 32) (a b : BitVec 5) : (vop s s.cur w a b).op2 = operand2 s b := by
  unfold operand2 vop
  cases (strandOf s s.cur).arc.waits <;> cases (strandOf s s.cur).arc.viq <;> rfl

theorem vop_eq (s : State) (w : BitVec 32) (a b : BitVec 5) : vop s s.cur w a b = ⟨w, operand1 s a, operand2 s b⟩ := by
  have h : ∀ o : Vop, o.word = w → o.op1 = operand1 s a → o.op2 = operand2 s b → o = ⟨w, operand1 s a, operand2 s b⟩ := by
    rintro ⟨_, _, _⟩ rfl rfl rfl
    rfl
  exact h _ (vop_word ..) (vop_op1 ..) (vop_op2 ..)

/-- A trap at issue is precise. -/
theorem trapDispatch_issue (s : State) (id : Nat) (o : Vop) (c : Nat) (v : Word)
    (h : (strandOf s id).arc.viq = [] ∨ behind (strandOf s id) = true) : trapDispatch s id o c v = trapHere s id c v := by
  rcases h with h | h <;> simp [trapDispatch, h]

theorem arrayChecks_passed (s : State) (id : Nat) (o : Vop) (bad : Bool) (k : State) (hh : heldOn (strandOf s id) = false)
    (hb : bad = false) (hn : stNoBays (strandOf s id) = false) : arrayChecks s id o bad k = k := by
  simp [arrayChecks, hh, hb, hn]

theorem arrayIssue_behind (s : State) (id : Nat) (o : Vop) (bad : Bool) (k : State) (hh : heldOn (strandOf s id) = false)
    (hb : bad = false) (hn : stNoBays (strandOf s id) = false) (h : behind (strandOf s id) = true) :
    arrayIssue s id o bad k = dispatchBehind s id o := by
  simp [arrayIssue, arrayChecks_passed _ _ _ _ _ hh hb hn, queueOr, h]

theorem arrayIssue_turn (s : State) (id : Nat) (o : Vop) (bad : Bool) (k : State) (hh : heldOn (strandOf s id) = false)
    (hb : bad = false) (hn : stNoBays (strandOf s id) = false) (h : behind (strandOf s id) = false) :
    arrayIssue s id o bad k = k := by
  simp [arrayIssue, arrayChecks_passed _ _ _ _ _ hh hb hn, queueOr, h]

section
variable {s k : State} {i : Instr} {w : BitVec 32} {a b : BitVec 5} {bad : Bool}

theorem arrayChecks_traps (he : exec i s = .next (arrayChecks s s.cur (vop s s.cur w a b) bad k)) (hw : encode i = some w) :
    ArrayIssueTraps s i bad := by
  intro w' hw' hv
  obtain rfl : w = w' := Option.some.inj (hw.symm.trans hw')
  refine ⟨fun hbad => ?_, fun hh hb hn => ?_⟩
  · refine trapsHere_of _ _ _ _ (he.trans ?_)
    rw [arrayChecks, if_pos (by simpa using hbad), trapDispatch_issue _ _ _ _ _ hv, vop_word]
  · have hm : (strandOf (modArc s s.cur fun c => { c with lane := 0 }) s.cur).arc.viq = [] ∨
        behind (strandOf (modArc s s.cur fun c => { c with lane := 0 }) s.cur) = true := by
      rw [strandOf_modArc]
      exact hv
    refine ⟨_, he, ?_, ?_⟩ <;>
      rw [arrayChecks, if_neg (by simp [hh, hb]), if_pos hn, trapDispatch_issue _ _ _ _ _ hm, trapHere]
    · exact onlyStrand_trans (onlyStrand_modStrand s _) (onlyStrand_takeTrap (modArc s s.cur _) _ _ _)
    · rw [strandOf_takeTrap, strandOf_modArc, vop_word]
      rfl

theorem queuesBehind_of (he : exec i s = .next (arrayIssue s s.cur (vop s s.cur w a b) bad k)) (hw : encode i = some w)
    (hh : heldOn (strandOf s s.cur) = false) (hb : bad = false) (hn : stNoBays (strandOf s s.cur) = false) :
    QueuesBehind s i := by
  intro w' hw' hv
  obtain rfl : w = w' := Option.some.inj (hw.symm.trans hw')
  rw [arrayIssue_behind _ _ _ _ _ hh hb hn hv] at he
  refine ⟨fun full => ?_, fun room => ⟨a, b, _, he, ?_, ?_⟩⟩
  · rw [dispatchBehind_full _ _ _ full] at he
    exact completes_blockOn _ _ _ he
  · rw [dispatchBehind, if_neg (by unfold arcOf at room; omega)]
    exact onlyStrand_modStrand s _
  · rw [strandOf_dispatchBehind _ _ _ room, vop_behind _ _ _ _ _ hv]

end

/-! ## The course of a vector instruction -/

section
variable {s : State} {i : Instr} {w : BitVec 32} {a b : BitVec 5} {bad : Bool} {ds vs : List (BitVec 5)}
  {src : VEnv → List Source} {k : State → VEnv → State} {done : Prop}

/-- R228: with LANE at or beyond VL an instruction completes with no further effect. -/
theorem vecIssue_beyond {o : Vop} {k : State} (he : exec i s = .next (vecIssue s s.cur o bad k))
    (hh : heldOn (strandOf s s.cur) = false) (hb : bad = false) (hn : stNoBays (strandOf s s.cur) = false)
    (ht : behind (strandOf s s.cur) = false) (h0 : 0 < (arcOf s).lane) (hl : (arcOf s).vl ≤ (arcOf s).lane) :
    Completes s i fun t => stepped 0 { t with arc := { t.arc with chainIn := none } } := by
  have beyond : laneBeyond (strandOf s s.cur).arc = true := by
    unfold arcOf at h0 hl
    simp [laneBeyond, h0, hl]
  refine ⟨_, he, ?_, ?_⟩ <;>
    rw [vecIssue, arrayIssue_turn _ _ _ _ _ hh hb hn ht, if_pos beyond]
  · exact onlyStrand_trans (onlyStrand_modStrand s _) (onlyStrand_modStrand (modArc s s.cur _) _)
  · rw [strandOf_finishV, strandOf_modArc]

/-- What is said of a vector instruction besides what it does when it is ready. -/
theorem vecCourse_of (he : exec i s = .next (vecRun s (vop s s.cur w a b) bad ds vs src k)) (hw : encode i = some w)
    (hd : heldOn (strandOf s s.cur) = false → bad = false → done) : VecCourse s i bad done :=
  ⟨arrayChecks_traps he hw, fun hh hb hn => queuesBehind_of he hw hh hb hn,
    fun hh hb hn ht h0 hl => vecIssue_beyond he hh hb hn ht h0 hl, hd⟩

end

/-! ### What the chain and the swaps leave (R120, R258) -/

@[simp] theorem withdrawRequest_cur (s : State) (id : Nat) : (withdrawRequest s id).cur = s.cur := by
  unfold withdrawRequest
  dsimp only
  split <;> rfl

/-- The vector side with another message. -/
def withMessage (c : Option (Nat × Nat × List Word)) (a : Arcade) : Arcade := { a with chainIn := c }

/-- R258: of the strand only the message has changed. -/
theorem takeMessage_strand (s w : State) (id : Nat) (h : takeMessage s id = some w) :
    ∃ c, strandOf w id = { strandOf s id with arc := withMessage c (strandOf s id).arc } ∧ w.cur = s.cur := by
  unfold takeMessage at h
  dsimp only at h
  split at h
  · cases h
  · rename_i m r _
    cases h
    refine ⟨some (chainCore (strandOf s id).arc, chainPort (strandOf s id).arc, m), ?_, withdrawRequest_cur s id⟩
    rw [strandOf_modArc, strandOf_setCore, strandOf_congr (withdrawRequest_strands s id)]
    rfl

theorem ChainTaken.strand {s w : State} {vs : List (BitVec 5)} {m : Option (List Word)} (h : ChainTaken s vs w m) :
    ∃ c, strandOf w s.cur = { strandOf s s.cur with arc := withMessage c (arcOf s) } ∧ w.cur = s.cur := by
  obtain ⟨-, rfl, -⟩ | ⟨-, -, rfl, -⟩ | ⟨-, -, -, -, hw, -⟩ := h
  · exact ⟨_, rfl, rfl⟩
  · exact ⟨_, rfl, rfl⟩
  · exact takeMessage_strand s w s.cur hw

/-- Memory is written without strands and cores. -/
theorem targetWrite_sides (s : State) (cl tag : Nat) (t : Target) (n v : Nat) :
    (targetWrite s cl tag t n v).strands = s.strands ∧ (targetWrite s cl tag t n v).cores = s.cores := by
  cases t with
  | atrium o => exact ⟨rfl, rfl⟩
  | phys k sl =>
    refine ⟨targetWrite_phys_strands .., ?_⟩
    simp only [targetWrite, breakLine, storeLine]
    split <;> rfl
  | coded r o sl =>
    obtain ⟨-, -, -, strands, cores, -⟩ := fillCoded_same s r (o / 64) sl
    exact ⟨strands, cores⟩
  | host a => exact ⟨rfl, rfl⟩

/-- Strands and cores are as they were. -/
def SameSides (s u : State) : Prop := u.strands = s.strands ∧ u.cores = s.cores

theorem SameSides.trans {s t u : State} (h : SameSides s t) (g : SameSides t u) : SameSides s u :=
  ⟨g.1.trans h.1, g.2.trans h.2⟩

theorem sameSides_noteFault (s : State) (f : XFault) : SameSides s (noteFault s f) := by
  rw [onlyLog_noteFault s f]
  exact ⟨rfl, rfl⟩

theorem vaultWrite_sides (id : Nat) (ws : List Word) (a : Nat) (s : State) :
    (∀ u, vaultWrite id ws a s = .ok u → SameSides s u) ∧ ∀ e u, vaultWrite id ws a s = .error (e, u) → SameSides s u := by
  induction ws generalizing a s with
  | nil =>
    rw [vaultWrite]
    exact ⟨fun u h => by rw [← Except.ok.inj h]; exact ⟨rfl, rfl⟩, fun e u h => absurd h (by simp)⟩
  | cons x r ih =>
    rw [vaultWrite]
    split
    · refine ⟨fun u h => absurd h (by simp), fun e u h => ?_⟩
      obtain ⟨-, rfl⟩ := Prod.mk.inj (Except.error.inj h)
      exact sameSides_noteFault s _
    · obtain ⟨hok, herr⟩ := ih (a + 8) (targetWrite s (clusterIdx id) (strandOf s id).tag _ 8 x.toNat)
      have written := targetWrite_sides s (clusterIdx id) (strandOf s id).tag ‹Target› 8 x.toNat
      exact ⟨fun u h => SameSides.trans written (hok u h), fun e u h => SameSides.trans written (herr e u h)⟩

theorem sameSides_forgetFrame (s : State) (id r : Nat) : SameSides s (forgetFrame s id r) := by
  unfold forgetFrame forgetWords
  obtain ⟨hok, herr⟩ := vaultWrite_sides id ((List.range (lanesOf (strandOf s id).arc)).map (Config.frameWord s.free))
    (frameBase (strandOf s id) r) { s with free := s.free + 1 }
  split
  · exact herr _ _ ‹_›
  · exact hok _ ‹_›

/-- A relation of states that the steps of a swap keep. -/
structure SwapRel (id : Nat) (R : State → State → Prop) : Prop where
  trans : ∀ s t u, R s t → R t u → R s u
  same : ∀ s u, SameSides s u → R s u
  empty : ∀ s i q, R s (emptyPair s id i q)
  fill : ∀ s i r vals, R s (fillPair s id i r vals)
  recent : ∀ s regs, R s (modArc s id fun b => { b with recency := touchRecency b.recency regs })

section
variable {id : Nat} {R : State → State → Prop} (hR : SwapRel id R)
include hR

theorem SwapRel.swapOut (s u : State) (q : Nat) (h : swapOut s id q = .ok u) : R s u := by
  unfold Machine.swapOut at h
  dsimp only at h
  split at h
  · cases h
  · split at h
    · split at h
      · cases h
      · split at h
        · cases h
        · rename_i w hw
          cases h
          exact hR.trans _ _ _ (hR.same _ _ ((vaultWrite_sides ..).1 w hw)) (hR.empty ..)
    · cases h
      exact hR.empty ..

theorem SwapRel.bringIn (s u : State) (r : Nat) (h : bringIn s id r = .ok u) : R s u := by
  unfold Machine.bringIn at h
  dsimp only at h
  split at h
  · split at h
    · cases h
    · split at h
      · cases h
      · cases h
        exact hR.trans _ _ _ (hR.same _ _ (sameSides_forgetFrame s id r)) (hR.fill ..)
  · cases h
    exact hR.fill ..

theorem SwapRel.swapIn (s u : State) (named : List Nat) (r : Nat) (h : swapIn s id named r = .ok u) : R s u := by
  unfold Machine.swapIn at h
  dsimp only at h
  split at h
  · cases h
    exact hR.same _ _ ⟨rfl, rfl⟩
  · split at h
    · exact hR.bringIn s u r h
    · split at h
      · cases h
        exact hR.same _ _ ⟨rfl, rfl⟩
      · split at h
        · cases h
        · rename_i w hw
          exact hR.trans _ _ _ (hR.swapOut s w _ hw) (hR.bringIn w u r h)

theorem SwapRel.swaps (l named : List Nat) (acc : Swap) (s u : State) (ha : ∀ w, acc = .ok w → R s w)
    (h : l.foldl (fun (acc : Swap) r => match acc with | .error e => .error e | .ok u => Machine.swapIn u id named r) acc = .ok u) :
    R s u := by
  induction l generalizing acc with
  | nil => exact ha u h
  | cons r l ih =>
    refine ih _ (fun w hw => ?_) h
    cases acc with
    | error e => cases hw
    | ok x => exact hR.trans _ _ _ (ha x rfl) (hR.swapIn x w named r hw)

theorem SwapRel.touchRegs (s u : State) (vs : List (BitVec 5)) (h : touchRegs s id vs = .ok u) : R s u := by
  unfold Machine.touchRegs at h
  dsimp only at h
  split at h
  · split at h
    · cases h
    · rename_i w hw
      cases h
      exact hR.trans _ _ _ (hR.swaps _ _ _ s w (fun x hx => by cases hx; exact hR.same _ _ ⟨rfl, rfl⟩) hw) (hR.recent w _)
  · cases h
    exact hR.recent s _

end

/-- R120: of a strand only what holds its registers, and their recency, has changed. -/
def Swapped (id : Nat) (s u : State) : Prop :=
  ∃ x n r, strandOf u id = { strandOf s id with arc := { (strandOf s id).arc with regs := x, resident := n, recency := r } }

theorem swapRel_swapped (id : Nat) : SwapRel id (Swapped id) where
  trans := by
    rintro s t u ⟨x, n, r, hs⟩ ⟨y, m, q, ht⟩
    exact ⟨y, m, q, by rw [ht, hs]⟩
  same s u h := ⟨_, _, _, strandOf_congr h.1 id⟩
  empty s i q := ⟨_, _, _, strandOf_modArc s id _⟩
  fill s i r vals := by
    refine ⟨listSet [] (strandOf s id).arc.regs r vals, (strandOf s id).arc.resident.set i r, (strandOf s id).arc.recency, ?_⟩
    rw [fillPair, strandOf_modArc]
    rfl
  recent s f := ⟨_, _, _, strandOf_modArc s id _⟩

theorem swapped_touchRegs (s u : State) (id : Nat) (vs : List (BitVec 5)) (h : touchRegs s id vs = .ok u) : Swapped id s u :=
  (swapRel_swapped id).touchRegs s u vs h

/-! ### A ready instruction runs -/

/-- R120, R258: of a ready strand only what holds its registers, their recency, and the message have changed. -/
theorem VecReady.same {s u : State} {ds vs : List (BitVec 5)} {v : VEnv} (h : VecReady s ds vs u v) :
    ∃ x n r c, strandOf u s.cur = { strandOf s s.cur with
      arc := withMessage c { arcOf s with regs := x, resident := n, recency := r } } := by
  obtain ⟨w, hc, ht⟩ := h.chain
  obtain ⟨c, hw, -⟩ := hc.strand
  obtain ⟨x, n, r, hu⟩ := swapped_touchRegs w u s.cur _ ht
  exact ⟨x, n, r, c, by rw [hu, hw]; rfl⟩

/-- What VCFG, MFMT and CHAINSRC say has not changed. -/
theorem VecReady.config {s u : State} {ds vs : List (BitVec 5)} {v : VEnv} (h : VecReady s ds vs u v) :
    (arcOf u).vcfg = (arcOf s).vcfg ∧ (arcOf u).mfmt = (arcOf s).mfmt ∧ (arcOf u).chainsrc = (arcOf s).chainsrc := by
  obtain ⟨x, n, r, c, hu⟩ := h.same
  unfold arcOf at *
  rw [h.cur, hu]
  exact ⟨rfl, rfl, rfl⟩

/-- A source of the instruction is one of the registers that it names, whatever its message and length. -/
def SourcesNamed (s : State) (ds vs : List (BitVec 5)) (src : VEnv → List Source) : Prop :=
  ∀ c m, ∀ q ∈ src (envOf (withMessage c (arcOf s)) m), ∃ f ∈ namedRegs s ds vs, f.toNat = q.1

theorem parityHit_none (a : Arcade) (k : Core) (src : List Source)
    (h : ∀ q ∈ src, ∀ e < vlmaxOf a, parityAt a k q.1 e = false) : parityHit a k src = none := by
  unfold parityHit
  split
  · rfl
  · refine List.findSome?_eq_none_iff.mpr fun q hq => ?_
    rw [Option.map_eq_none_iff, List.find?_eq_none]
    intro e he
    simp [h q hq e (List.mem_range.mp he)]

section
variable {s u : State} {o : Vop} {bad : Bool} {ds vs : List (BitVec 5)} {v : VEnv} {src : VEnv → List Source}

theorem ChainTaken.runs {w : State} {m : Option (List Word)} (h : ChainTaken s vs w m)
    (k : State → Option (List Word) → State) : chainThen s s.cur o vs k = k w m := by
  unfold ChainTaken arcOf at h
  unfold chainThen
  obtain ⟨off, rfl, rfl⟩ | ⟨on, has, rfl, rfl⟩ | ⟨on, no, en, free, hw, rfl⟩ := h
  · simp [off]
  · cases hm : (strandOf w w.cur).arc.chainIn with
    | none => exact absurd hm has
    | some x => simp [on, hm]
  · obtain ⟨-, -, cur⟩ := takeMessage_strand s w s.cur hw
    simp only [on, no, en, free, hw, cur, if_true, Bool.not_true, Bool.false_eq_true, if_false]

theorem vecRun_ready (k : State → VEnv → State) (h : VecReady s ds vs u v) (hh : heldOn (strandOf s s.cur) = false)
    (hb : bad = false) (hs : SourcesNamed s ds vs src) : vecRun s o bad ds vs src k = k u v := by
  obtain ⟨w, hc, ht⟩ := h.chain
  obtain ⟨c, hw, -⟩ := hc.strand
  have lane : laneBeyond (strandOf s s.cur).arc = false := by
    have := h.lane
    unfold arcOf at this
    simp only [laneBeyond, Bool.and_eq_false_iff, decide_eq_false_iff_not]
    omega
  have whole : parityHit (strandOf u s.cur).arc (coreOf u (coreIdx s.cur)) (src (envOf (strandOf w s.cur).arc v.msg)) = none := by
    refine parityHit_none _ _ _ fun q hq e he => ?_
    rw [hw] at hq
    obtain ⟨f, hf, e1⟩ := hs c v.msg q hq
    have arc : (strandOf u s.cur).arc = arcOf u := by rw [arcOf, h.cur]
    rw [arc] at he ⊢
    rw [← e1]
    exact h.whole f hf e he
  have env : envOf (strandOf u s.cur).arc v.msg = v := by rw [h.env, arcOf, h.cur]; rfl
  unfold namedRegs arcOf at ht
  rw [vecRun, vecIssue, arrayIssue_turn _ _ _ _ _ hh hb h.bays h.turn, if_neg (by simp [lane]), hc.runs, vecTouch]
  simp only [ht, whole, env]

end

end Sys2Proof.Machine

namespace Sys2Proof.Machine

/-! ## The charge of an instruction (R275) -/

/-- R275: of the machine only the deficits of a core and the charges of landings have changed. -/
structure Charged (c : Nat) (s t : State) : Prop where
  rest : t = { s with cores := t.cores, dies := t.dies }
  core : ∃ d, coreOf t c = { coreOf s c with deficit := d }
  cores : ∀ j, j ≠ c → coreOf t j = coreOf s j
  dies : ∀ d, dieOf t d = { dieOf s d with landings := (dieOf t d).landings }
  landings : ∀ d l, landingOf t d l = { landingOf s d l with charge := (landingOf t d l).charge }

theorem Charged.refl (c : Nat) (s : State) : Charged c s s := ⟨rfl, ⟨_, rfl⟩, fun _ _ => rfl, fun _ => rfl, fun _ _ => rfl⟩

theorem Charged.strands {c : Nat} {s t : State} (h : Charged c s t) : t.strands = s.strands := by rw [h.rest]

theorem charged_beats (s : State) (id beats : Nat) : Charged (coreIdx id) s (chargeBeats s id beats) := by
  unfold chargeBeats
  dsimp only
  generalize hn : tblSet (dieOf s (dieIdx id)).landings (stLanding (strandOf s id)) _ = n
  refine ⟨rfl, ⟨_, coreOf_setCore _ _ _⟩, fun j hj => by rw [coreOf_setCore_ne _ _ _ _ hj, coreOf_setDie], fun d => ?_, fun d l => ?_⟩
  · rw [dieOf_setCore]
    by_cases hd : d = dieIdx id
    · subst hd
      rw [dieOf_setDie]
    · rw [dieOf_setDie_ne _ _ _ _ hd]
  · unfold landingOf
    rw [dieOf_setCore]
    by_cases hd : d = dieIdx id
    · subst hd
      rw [dieOf_setDie, ← hn]
      by_cases hl : l = stLanding (strandOf s id)
      · subst hl
        rw [tblGet_tblSet]
      · rw [tblGet_tblSet_ne _ _ _ _ _ hl]
    · rw [dieOf_setDie_ne _ _ _ _ hd]

theorem charged_op (s : State) (id : Nat) (o : Vop) (v : VEnv) : Charged (coreIdx id) s (chargeOp s id o v) := by
  unfold chargeOp
  dsimp only
  split
  · exact .refl _ _
  · exact charged_beats _ _ _

theorem charged_part (s : State) (id : Nat) (o : Vop) (v : VEnv) (e : Nat) : Charged (coreIdx id) s (chargePart s id o v e) := by
  unfold chargePart
  dsimp only
  split
  · exact .refl _ _
  · exact charged_beats _ _ _

/-! ## Elements written (R112, R116) -/

theorem listGet_foldl_listSet {α : Type} (d : α) (v n : Nat) (f : α → Nat → α) (l : List α) (r : Nat) :
    listGet d ((List.range n).foldl (fun l j => listSet d l (v + j) (f (listGet d l (v + j)) j)) l) r =
      if v ≤ r ∧ r < v + n then f (listGet d l r) (r - v) else listGet d l r := by
  induction n with
  | zero => simp
  | succ n ih =>
    rw [List.range_succ, List.foldl_append]
    simp only [List.foldl_cons, List.foldl_nil]
    by_cases hr : r = v + n
    · subst hr
      rw [listGet_listSet]
      generalize List.foldl _ l (List.range n) = x at ih ⊢
      rw [ih, if_neg (by omega), if_pos (by omega), Nat.add_sub_cancel_left]
    · rw [listGet_listSet_ne _ _ _ _ _ hr, ih]
      by_cases h : v ≤ r ∧ r < v + n
      · rw [if_pos h, if_pos (by omega)]
      · rw [if_neg h, if_neg (by omega)]

theorem listGet_map_range_append {α : Type} (d : α) (g : Nat → α) (c : Nat) (old : List α) (l : Nat) :
    listGet d ((List.range c).map g ++ old.drop c) l = if l < c then g l else listGet d old l := by
  unfold listGet
  by_cases h : l < c
  · rw [if_pos h, List.getElem?_append_left (by simpa using h)]
    simp [h]
  · rw [if_neg h, List.getElem?_append_right (by simpa using h), List.getElem?_drop]
    simp only [List.length_map, List.length_range]
    rw [Nat.add_sub_cancel' (by omega)]

/-- R112: register `j` of a group that held `old`, with the elements below VL that `f` names. -/
def putRow (a : Arcade) (f : Nat → Option Word) (old : List Word) (j : Nat) : List Word :=
  (List.range (min (lanesOf a) (a.vl - j * lanesOf a))).map (fun l => (f (j * lanesOf a + l)).getD (listGet 0 old l)) ++
    old.drop (min (lanesOf a) (a.vl - j * lanesOf a))

theorem regs_writeElems (a : Arcade) (d : Nat) (f : Nat → Option Word) (r : Nat) :
    listGet [] (writeElems a d f).regs r =
      if d ≤ r ∧ r < d + vG a then putRow a f (listGet [] a.regs r) (r - d) else listGet [] a.regs r :=
  listGet_foldl_listSet [] d (vG a) (putRow a f) a.regs r

/-- A register outside the group is not written. -/
theorem regs_writeElems_ne (a : Arcade) (d : Nat) (f : Nat → Option Word) (r : Nat) (h : r < d ∨ d + vG a ≤ r) :
    listGet [] (writeElems a d f).regs r = listGet [] a.regs r := by
  rw [regs_writeElems, if_neg (by omega)]

/-- An element of a group is written when it lies below VL and `f` names it. -/
theorem elemW_writeElems (a : Arcade) (d : Nat) (f : Nat → Option Word) (e : Nat) (he : e < vlmaxOf a) :
    elemW (writeElems a d f) d e = if e < a.vl then (f e).getD (elemW a d e) else elemW a d e := by
  have same : vlmaxOf (writeElems a d f) = vlmaxOf a ∧ lanesOf (writeElems a d f) = lanesOf a := ⟨rfl, rfl⟩
  have pos : 0 < lanesOf a := Nat.pos_of_ne_zero fun h => by simp [vlmaxOf, h] at he
  have hq : e / lanesOf a < vG a := Nat.div_lt_of_lt_mul (by simpa [vlmaxOf] using he)
  have hl : e % lanesOf a < lanesOf a := Nat.mod_lt _ pos
  have parts : e / lanesOf a * lanesOf a + e % lanesOf a = e := by rw [Nat.mul_comm]; exact Nat.div_add_mod e _
  unfold elemW
  rw [same.1, same.2, if_pos he, if_pos he]
  generalize e / lanesOf a = j at hq parts
  rw [regs_writeElems, if_pos ⟨by omega, by omega⟩, putRow, listGet_map_range_append, Nat.add_sub_cancel_left, parts]
  by_cases hv : e < a.vl
  · rw [if_pos hv, if_pos (lt_min hl (by omega))]
  · rw [if_neg hv, if_neg (by simp only [lt_min_iff]; omega)]

end Sys2Proof.Machine

namespace Sys2Proof.Machine

/-! ## Part of a vector instruction's effect (R33, R116, R258) -/

/-- From `u` to `x` a vector instruction has done part of its work, with the flags `fl`: its strand and its core have changed where
an instruction writes, and nothing else of strands, cores and dies. -/
structure Partly (u x : State) (fl : Word) : Prop where
  agenda : x.agenda = u.agenda
  cur : x.cur = u.cur
  others : ∀ j, j ≠ u.cur → strandOf x j = strandOf u j
  cores : ∀ c, c ≠ coreIdx u.cur → coreOf x c = coreOf u c
  core : ∃ p m q, coreOf x (coreIdx u.cur) = { (coreOf u (coreIdx u.cur)) with parity := p, mezz := m, ports := q }
  dies : x.dies = u.dies
  strand : ∃ h, strandOf x u.cur = { (strandOf u u.cur) with
    sflags := (strandOf u u.cur).sflags ||| fl, hostAnswer := h, arc := arcOf x }
  arc : arcOf x = { (arcOf u) with
    regs := (arcOf x).regs, written := (arcOf x).written, masks := (arcOf x).masks,
    codebooks := (arcOf x).codebooks, mfmt := (arcOf x).mfmt, results := (arcOf x).results }

theorem or_zero_word (x : Word) : x ||| 0 = x := BitVec.or_zero

theorem Partly.refl (u : State) : Partly u u 0 :=
  ⟨rfl, rfl, fun _ _ => rfl, fun _ _ => rfl, ⟨_, _, _, rfl⟩, rfl, ⟨(strandOf u u.cur).hostAnswer, by rw [or_zero_word]; rfl⟩, rfl⟩

/-- R123: a heal changes the parity of a core alone. -/
theorem healParity_eq (s : State) (id v : Nat) (wr : Nat → Bool) :
    ∃ p, (healParity s id v wr = s ∨
      healParity s id v wr = setCore s (coreIdx id) { coreOf s (coreIdx id) with parity := p }) := by
  unfold healParity
  dsimp only
  split
  · exact ⟨[], .inl rfl⟩
  · exact ⟨_, .inr rfl⟩

/-- What a heal leaves: everything but the parity of the core. -/
theorem healParity_frame (s : State) (id v : Nat) (wr : Nat → Bool) :
    healParity s id v wr = { s with cores := (healParity s id v wr).cores } ∧
    (∃ p, coreOf (healParity s id v wr) (coreIdx id) = { coreOf s (coreIdx id) with parity := p }) ∧
    ∀ c, c ≠ coreIdx id → coreOf (healParity s id v wr) c = coreOf s c := by
  obtain ⟨p, h | h⟩ := healParity_eq s id v wr <;> rw [h]
  · exact ⟨rfl, ⟨_, rfl⟩, fun _ _ => rfl⟩
  · exact ⟨rfl, ⟨p, coreOf_setCore _ _ _⟩, fun c hc => coreOf_setCore_ne _ _ _ _ hc⟩

section
variable (u : State) (v : VEnv) (d : BitVec 5) (f : Nat → Option (Fl Word))

/-- The vector side after elements of an operand have been written. -/
theorem strandOf_vecPart : strandOf (vecPart u v d f) u.cur = { (strandOf u u.cur) with
    sflags := (strandOf u u.cur).sflags ||| flagsOf v f,
    arc := { (arcOf u) with
      regs := (writeElems { (arcOf u) with vl := v.a.vl } d.toNat fun e => (f e).map (·.1)).regs,
      written := (writeElems { (arcOf u) with vl := v.a.vl } d.toNat fun e => (f e).map (·.1)).written,
      mfmt := scaleCleared u v d.toNat fun e => (f e).map (·.1) } } := by
  obtain ⟨frame, -, -⟩ := healParity_frame u u.cur d.toNat fun e => decide (e < v.a.vl) && (f e).isSome
  have same := strandOf_congr (congrArg State.strands frame) u.cur
  have any : ((List.range v.a.vl).any fun e => decide (e < v.a.vl) && (f e).isSome) =
      (List.range v.a.vl).any fun e => ((f e).map (·.1)).isSome := by
    rw [Bool.eq_iff_iff]
    simp
  unfold vecPart raise
  dsimp only
  rw [strandOf_modStrand, strandOf_modArc, same, any]
  unfold scaleCleared clearScale
  by_cases hd : d.toNat = 31 <;> by_cases hx : (List.range v.a.vl).any fun e => ((f e).map (·.1)).isSome <;>
    simp only [hd, hx, and_self, and_true, if_true, if_false] <;> rfl

theorem arcOf_vecPart : arcOf (vecPart u v d f) = { (arcOf u) with
    regs := (writeElems { (arcOf u) with vl := v.a.vl } d.toNat fun e => (f e).map (·.1)).regs,
    written := (writeElems { (arcOf u) with vl := v.a.vl } d.toNat fun e => (f e).map (·.1)).written,
    mfmt := scaleCleared u v d.toNat fun e => (f e).map (·.1) } := by
  have cur : (vecPart u v d f).cur = u.cur := by
    obtain ⟨frame, -, -⟩ := healParity_frame u u.cur d.toNat fun e => decide (e < v.a.vl) && (f e).isSome
    exact (congrArg State.cur frame :)
  conv_lhs => rw [arcOf, cur, strandOf_vecPart]

/-- Beside the strand an operand that is written changes the parity of its core alone. -/
theorem vecPart_frame : vecPart u v d f = { u with strands := (vecPart u v d f).strands, cores := (vecPart u v d f).cores } ∧
    (∃ p, coreOf (vecPart u v d f) (coreIdx u.cur) = { coreOf u (coreIdx u.cur) with parity := p }) ∧
    (∀ c, c ≠ coreIdx u.cur → coreOf (vecPart u v d f) c = coreOf u c) ∧
    ∀ j, j ≠ u.cur → strandOf (vecPart u v d f) j = strandOf u j := by
  obtain ⟨frame, core, cores⟩ := healParity_frame u u.cur d.toNat fun e => decide (e < v.a.vl) && (f e).isSome
  refine ⟨?_, core, cores, fun j hj => ?_⟩
  · unfold vecPart
    dsimp only
    rw [frame]
    rfl
  · unfold vecPart raise
    dsimp only
    rw [strandOf_modStrand_ne _ _ _ _ hj, modArc, strandOf_modStrand_ne _ _ _ _ hj]
    exact strandOf_congr (congrArg State.strands frame) j

theorem partly_vecPart : Partly u (vecPart u v d f) (flagsOf v f) := by
  obtain ⟨frame, ⟨p, core⟩, cores, others⟩ := vecPart_frame u v d f
  refine ⟨by rw [frame], by rw [frame], others, cores, ⟨p, _, _, core⟩, by rw [frame], ⟨(strandOf u u.cur).hostAnswer, ?_⟩, ?_⟩
  · rw [strandOf_vecPart, arcOf_vecPart]
  · rw [arcOf_vecPart]

theorem quiet_vecPart : Quiet u (vecPart u v d f) := by
  obtain ⟨frame, ⟨p, core⟩, -⟩ := vecPart_frame u v d f
  refine ⟨⟨by rw [frame], by rw [frame], by rw [frame], ?_, ?_, ?_⟩, by rw [frame], by rw [frame]⟩ <;> rw [core]

theorem sameSide_vecPart : SameSide u (vecPart u v d f) := by
  unfold SameSide
  rw [arcOf_vecPart]
  exact ⟨rfl, rfl, rfl⟩

end

/-- R258: the vector side that an instruction runs with is that of its strand, with a length of its own. -/
def OwnLength (u : State) (v : VEnv) : Prop := ∃ n, v.a = { (arcOf u) with vl := n }

theorem VecReady.own {s u : State} {ds vs : List (BitVec 5)} {v : VEnv} (h : VecReady s ds vs u v) : OwnLength u v := by
  rw [h.env]
  cases v.msg with
  | none => exact ⟨_, rfl⟩
  | some m => exact ⟨_, rfl⟩

theorem elemW_congr (a b : Arcade) (bays : b.bays = a.bays) (retired : b.snapRetired = a.snapRetired) (vcfg : b.vcfg = a.vcfg)
    (regs : b.regs = a.regs) (d e : Nat) : elemW b d e = elemW a d e := by
  unfold elemW vlmaxOf vG lanesOf bayRows bayHeld
  rw [bays, retired, vcfg, regs]

/-- R116: what the registers hold after a write of the elements that `f` names. -/
theorem wrote_of_arc {u t : State} {v : VEnv} {d : Nat} {f : Nat → Option Word} (h : OwnLength u v)
    (regs : (arcOf t).regs = (writeElems { (arcOf u) with vl := v.a.vl } d f).regs)
    (arc : arcOf t = { (arcOf u) with
      regs := (arcOf t).regs, written := (arcOf t).written, masks := (arcOf t).masks,
      codebooks := (arcOf t).codebooks, mfmt := (arcOf t).mfmt, results := (arcOf t).results, lane := (arcOf t).lane,
      part := (arcOf t).part, viq := (arcOf t).viq, chainIn := (arcOf t).chainIn }) : Wrote u t v d f := by
  obtain ⟨n, hv⟩ := h
  have vl : v.a = { (arcOf u) with vl := v.a.vl } := by rw [hv]
  have group : vG v.a = vG { (arcOf u) with vl := v.a.vl } := by rw [← vl]
  refine ⟨fun e he => ?_, fun r hr => ?_⟩
  · rw [vl] at he
    have elem := elemW_writeElems { (arcOf u) with vl := v.a.vl } d f e he
    have bays : (arcOf t).bays = (arcOf u).bays := (congrArg Arcade.bays arc :)
    have retired : (arcOf t).snapRetired = (arcOf u).snapRetired := (congrArg Arcade.snapRetired arc :)
    have vcfg : (arcOf t).vcfg = (arcOf u).vcfg := (congrArg Arcade.vcfg arc :)
    have same := elemW_congr (writeElems { (arcOf u) with vl := v.a.vl } d f) (arcOf t) bays retired vcfg regs d e
    rw [same, elem]
    rfl
  · rw [regs]
    exact regs_writeElems_ne _ d f r (by rw [← group]; exact hr)

end Sys2Proof.Machine

namespace Sys2Proof.Machine

/-! ## The end of a vector instruction -/

/-- What a vector instruction changes of the vector side at its end: where instructions write. -/
def SideOnly (f : Arcade → Arcade) : Prop :=
  ∀ b, f b = { b with regs := (f b).regs, written := (f b).written, masks := (f b).masks,
                      codebooks := (f b).codebooks, mfmt := (f b).mfmt, results := (f b).results }

theorem sideOnly_id : SideOnly fun b => b := fun _ => rfl

/-- The vector side at the end of an instruction that makes `f` of it; its message is used up. -/
def endArc (v : VEnv) (f : Arcade → Arcade) (b : Arcade) : Arcade :=
  { f { b with vl := v.a.vl } with vl := b.vl, chainIn := if v.msg.isSome then none else b.chainIn }

section
variable (x : State) (o : Vop) (v : VEnv) (fl : Word) (f : Arcade → Arcade)

theorem charged_vecEnd : Charged (coreIdx x.cur) (raise (modArc x x.cur (endArc v f)) x.cur fl)
    (chargeOp (raise (modArc x x.cur (endArc v f)) x.cur fl) x.cur o v) := charged_op _ _ _ _

theorem vecEnd_eq : vecEnd x o v fl f =
    finishV (chargeOp (raise (modArc x x.cur (endArc v f)) x.cur fl) x.cur o v) x.cur := rfl

theorem strandOf_vecEnd : strandOf (vecEnd x o v fl f) x.cur =
    stepped 0 { (strandOf x x.cur) with sflags := (strandOf x x.cur).sflags ||| fl, arc := endArc v f (arcOf x) } := by
  rw [vecEnd_eq, strandOf_finishV, strandOf_congr (charged_vecEnd x o v fl f).strands, raise, strandOf_modStrand, strandOf_modArc]
  rfl

theorem strandOf_vecEnd_ne (j : Nat) (h : j ≠ x.cur) : strandOf (vecEnd x o v fl f) j = strandOf x j := by
  rw [vecEnd_eq, strandOf_finishV_ne _ _ _ h, strandOf_congr (charged_vecEnd x o v fl f).strands, raise,
    strandOf_modStrand_ne _ _ _ _ h, modArc, strandOf_modStrand_ne _ _ _ _ h]

/-- Beside the strand only the charge has changed. -/
theorem vecEnd_frame : ∃ y, Charged (coreIdx x.cur) x y ∧ vecEnd x o v fl f = { y with strands := (vecEnd x o v fl f).strands } := by
  obtain ⟨rest, core, cores, dies, landings⟩ := charged_vecEnd x o v fl f
  generalize hz : chargeOp (raise (modArc x x.cur (endArc v f)) x.cur fl) x.cur o v = z at *
  refine ⟨{ x with cores := z.cores, dies := z.dies }, ⟨rfl, core, cores, dies, landings⟩, ?_⟩
  rw [vecEnd_eq, hz, rest]
  rfl

theorem vecEnd_cur : (vecEnd x o v fl f).cur = x.cur := by
  obtain ⟨y, hc, hy⟩ := vecEnd_frame x o v fl f
  rw [hy]
  exact (congrArg State.cur hc.rest :)

theorem arcOf_vecEnd : arcOf (vecEnd x o v fl f) =
    { endArc v f (arcOf x) with lane := 0, part := none, viq := (f { arcOf x with vl := v.a.vl }).viq.tail } := by
  conv_lhs => rw [arcOf, vecEnd_cur, strandOf_vecEnd]
  rfl

end

section
variable {u x : State} {o : Vop} {v : VEnv} {fl fl' : Word} {f : Arcade → Arcade}

theorem vecRan_vecEnd (h : Partly u x fl) (hf : SideOnly f) : VecRan u (vecEnd x o v fl' f) v (fl ||| fl') := by
  obtain ⟨y, charged, frame⟩ := vecEnd_frame x o v fl' f
  have rest := charged.rest
  have strand := strandOf_vecEnd x o v fl' f
  have arc := arcOf_vecEnd x o v fl' f
  have side := hf { arcOf x with vl := v.a.vl }
  have others := strandOf_vecEnd_ne x o v fl' f
  generalize vecEnd x o v fl' f = t at *
  have cores : ∀ c, coreOf t c = coreOf y c := fun c => by rw [frame]; rfl
  have dies : ∀ d, dieOf t d = dieOf y d := fun d => by rw [frame]; rfl
  have landings : ∀ d l, landingOf t d l = landingOf y d l := fun d l => by rw [frame]; rfl
  have dies' : ∀ d, dieOf x d = dieOf u d := fun d => by unfold dieOf; rw [h.dies]
  have landings' : ∀ d l, landingOf x d l = landingOf u d l := fun d l => by unfold landingOf; rw [dies']
  rw [h.cur] at charged strand others
  have viq : (arcOf x).viq = (arcOf u).viq := (congrArg Arcade.viq h.arc :)
  have viq' : (f { arcOf x with vl := v.a.vl }).viq = (arcOf u).viq := (congrArg Arcade.viq side :).trans viq
  refine ⟨?_, ?_, fun j hj => (others j hj).trans (h.others j hj), fun c hc => ?_, ?_, fun d => ?_, fun d l => ?_, ?_, ?_⟩
  · rw [frame, rest]
    exact h.agenda
  · rw [frame, rest]
    exact h.cur
  · rw [cores, charged.cores c hc, h.cores c hc]
  · obtain ⟨p, m, q, core⟩ := h.core
    obtain ⟨d, deficit⟩ := charged.core
    exact ⟨p, d, _, m, q, by rw [cores, deficit, core]⟩
  · rw [dies, charged.dies, dies']
  · rw [landings, charged.landings, landings']
  · obtain ⟨ans, hs⟩ := h.strand
    rw [strand, hs, arc]
    unfold stepped endArc
    simp only [viq', BitVec.or_assoc, or_zero_word]
  · obtain ⟨r, w, m, c, q, e, side⟩ : ∃ r w m c q e, f { arcOf x with vl := v.a.vl } = { arcOf x with
        vl := v.a.vl, regs := r, written := w, masks := m, codebooks := c, mfmt := q, results := e } := ⟨_, _, _, _, _, _, side⟩
    obtain ⟨r', w', m', c', q', e', before⟩ : ∃ r w m c q e, arcOf x = { arcOf u with
        regs := r, written := w, masks := m, codebooks := c, mfmt := q, results := e } := ⟨_, _, _, _, _, _, h.arc⟩
    rw [viq', endArc, side, before] at arc
    rw [arc]

/-- Beside the charge an end changes nothing outside the strand. -/
theorem quiet_vecEnd (h : Quiet u x) (hc : x.cur = u.cur) : Quiet u (vecEnd x o v fl f) := by
  obtain ⟨y, charged, frame⟩ := vecEnd_frame x o v fl f
  obtain ⟨d, core⟩ := charged.core
  rw [hc] at core
  have rest := charged.rest
  generalize vecEnd x o v fl f = t at *
  have cores : coreOf t (coreIdx u.cur) = coreOf y (coreIdx u.cur) := by rw [frame]; rfl
  refine ⟨⟨?_, ?_, ?_, ?_, ?_, ?_⟩, ?_, ?_⟩
  · rw [frame, rest]; exact h.clusters
  · rw [frame, rest]; exact h.pkg
  · rw [frame, rest]; exact h.free
  · rw [cores, core]; exact h.mezz
  · rw [cores, core]; exact h.estSat
  · rw [cores, core]; exact h.ports
  · rw [frame, rest]; exact h.mem
  · rw [frame, rest]; exact h.net

end

/-! ## Elements written and the instruction completed -/

section
variable {u : State} {v : VEnv}

/-- R116: the elements that `f` names, in what the end of the instruction leaves. -/
theorem wrote_vecEnd (h : OwnLength u v) (o : Vop) (d : BitVec 5) (f : Nat → Option (Fl Word)) (fl : Word)
    (g : Arcade → Arcade) (hg : SideOnly g) (hr : ∀ b, (g b).regs = b.regs) :
    Wrote u (vecEnd (vecPart u v d f) o v fl g) v d.toNat fun e => (f e).map (·.1) := by
  have ran := vecRan_vecEnd (o := o) (v := v) (fl' := fl) (partly_vecPart u v d f) hg
  refine wrote_of_arc h ?_ ?_
  · rw [arcOf_vecEnd, endArc]
    simp only [hr]
    rw [arcOf_vecPart]
  · obtain ⟨r, w, m, c, q, e, x, y, z, n, arc⟩ : ∃ r w m c q e x y z n, arcOf (vecEnd (vecPart u v d f) o v fl g) =
        { arcOf u with regs := r, written := w, masks := m, codebooks := c, mfmt := q, results := e, lane := x, part := y,
                       viq := z, chainIn := n } := ⟨_, _, _, _, _, _, _, _, _, _, ran.arc⟩
    rw [arc]

theorem vecWrite_writes (h : OwnLength u v) (o : Vop) (d : BitVec 5) (fl : Word) (f : Nat → Option (Fl Word)) :
    VecRan u (vecWrite u o v d fl f) v (fl ||| flagsOf v f) ∧ Quiet u (vecWrite u o v d fl f) ∧
    (Wrote u (vecWrite u o v d fl f) v d.toNat fun e => (f e).map (·.1)) ∧ SameSide u (vecWrite u o v d fl f) ∧
    (arcOf (vecWrite u o v d fl f)).mfmt = scaleCleared u v d.toNat fun e => (f e).map (·.1) := by
  have cur : (vecPart u v d f).cur = u.cur := (partly_vecPart u v d f).cur
  refine ⟨?_, quiet_vecEnd (quiet_vecPart u v d f) cur, wrote_vecEnd h o d f fl _ sideOnly_id fun _ => rfl, ?_, ?_⟩
  · rw [BitVec.or_comm]
    exact vecRan_vecEnd (partly_vecPart u v d f) sideOnly_id
  · unfold SameSide vecWrite
    rw [arcOf_vecEnd, endArc, arcOf_vecPart]
    exact ⟨rfl, rfl, rfl⟩
  · unfold vecWrite
    rw [arcOf_vecEnd, endArc, arcOf_vecPart]

end

end Sys2Proof.Machine

namespace Sys2Proof.Machine

/-! ## Traps on the array side (R101, R227-R229) -/

/-- What a trap keeps of the control side, and the entries behind it, stand in `y` as in `t`. -/
structure SameControl (t y : Strand) : Prop where
  status : y.status = t.status
  tvec : y.tvec = t.tvec
  regs : y.regs = t.regs
  pc : y.pc = t.pc
  strip : y.stripHead = t.stripHead
  viq : y.arc.viq = t.arc.viq

theorem SameControl.refl (t : Strand) : SameControl t t := ⟨rfl, rfl, rfl, rfl, rfl, rfl⟩

/-- The program counter of an instruction at work. -/
def opPc (t : Strand) : BitVec 48 := (t.arc.viq.head?.map (·.pc)).getD t.pc

/-- R229: the vector side of a strand that has trapped on the array side at `lane`. -/
def heldArc (t : Strand) (o : Vop) (lane : Nat) (c : Option (Nat × Nat × List Word)) : Arcade :=
  { t.arc with
    chainIn := c, lane := lane, part := none, held := vEntries t o,
    heldPoint := if t.arc.viq.isEmpty then nextPc t else t.pc, viq := [], waits := none }

theorem vEntries_head (t : Strand) (o : Vop) : ((vEntries t o).head?.map (·.pc)).getD t.pc = opPc t := by
  unfold vEntries opPc
  cases t.arc.viq <;> rfl

theorem strandOf_returnMessage (s : State) (id : Nat) :
    strandOf (returnMessage s id) id = { strandOf s id with arc := withMessage none (strandOf s id).arc } := by
  unfold returnMessage
  split
  · rename_i h
    rw [← h]
    rfl
  · rw [strandOf_modArc]
    rfl

/-- R259: an instruction that has done nothing gives its message back. -/
theorem strandOf_beforeTrap (s : State) (id lane : Nat) :
    ∃ c, strandOf (withdrawRequest (if lane = 0 then returnMessage s id else s) id) id =
      { strandOf s id with arc := withMessage c (strandOf s id).arc } := by
  rw [strandOf_congr (withdrawRequest_strands ..)]
  split
  · exact ⟨none, strandOf_returnMessage s id⟩
  · exact ⟨_, rfl⟩

theorem strandOf_trapArray (s : State) (id : Nat) (o : Vop) (cause : Nat) (tval : Word) (lane : Nat)
    (h : stNest (strandOf s id) = false) : ∃ c, strandOf (trapArray s id o cause tval lane) id =
      entered cause tval ((opPc (strandOf s id)).zeroExtend 64)
        { strandOf s id with stripHead := (strandOf s id).stripHead && !(strandOf s id).arc.viq.isEmpty,
                             arc := heldArc (strandOf s id) o lane c } := by
  obtain ⟨c, hc⟩ := strandOf_beforeTrap s id lane
  refine ⟨c, ?_⟩
  have nest : stNest (strandOf (withdrawRequest (if lane = 0 then returnMessage s id else s) id) id) = false := by
    rw [hc]
    exact h
  unfold trapArray
  dsimp only
  rw [if_neg (by simp [nest]), strandOf_takeTrap, strandOf_modArc, strandOf_modStrand, hc]
  unfold trapped
  rw [if_neg (by simpa [stNest] using h), ← vEntries_head _ o]
  rfl

/-- Withdrawn requests and returned messages change cores and the strand alone. -/
theorem beforeTrap_frame (s : State) (id lane : Nat) :
    let x := withdrawRequest (if lane = 0 then returnMessage s id else s) id
    x = { s with strands := x.strands, cores := x.cores } ∧ ∀ j, j ≠ id → strandOf x j = strandOf s j := by
  have back : ∀ s : State, withdrawRequest s id = { s with cores := (withdrawRequest s id).cores } := fun s => by
    unfold withdrawRequest
    dsimp only
    split <;> rfl
  intro x
  have strands := strandOf_congr (withdrawRequest_strands (if lane = 0 then returnMessage s id else s) id)
  refine ⟨?_, fun j hj => ?_⟩
  · unfold x
    rw [back]
    split
    · unfold returnMessage
      split <;> rfl
    · rfl
  · rw [strands j]
    split
    · exact strandOf_returnMessage_ne s id j hj
    · rfl

theorem trapArray_frame (s : State) (id : Nat) (o : Vop) (cause : Nat) (tval : Word) (lane : Nat) :
    (trapArray s id o cause tval lane).mem = s.mem ∧ (trapArray s id o cause tval lane).clusters = s.clusters ∧
    (trapArray s id o cause tval lane).cur = s.cur ∧
    ∀ j, j ≠ id → strandOf (trapArray s id o cause tval lane) j = strandOf s j := by
  obtain ⟨frame, others⟩ := beforeTrap_frame s id lane
  have mem := congrArg State.mem frame
  have clusters := congrArg State.clusters frame
  have cur := congrArg State.cur frame
  unfold trapArray
  dsimp only
  generalize withdrawRequest (if lane = 0 then returnMessage s id else s) id = x at *
  split
  · exact ⟨mem, clusters, cur, fun j hj => (strandOf_modStrand_ne _ _ _ _ hj).trans (others j hj)⟩
  · refine ⟨by rw [takeTrap_mem]; exact mem, by rw [takeTrap_clusters]; exact clusters, by rw [takeTrap_cur]; exact cur,
      fun j hj => ?_⟩
    have taken : ∀ (y : State) c v p, strandOf (takeTrap y id c v p) j = strandOf y j := fun y c v p => by
      unfold takeTrap strandFailure
      split <;> exact strandOf_modStrand_ne _ _ _ _ hj
    rw [taken, modArc, strandOf_modStrand_ne _ _ _ _ hj, strandOf_modStrand_ne _ _ _ _ hj, others j hj]

theorem heldEntry_trapArray {u x : State} {o : Vop} {cause : Nat} {tval : Word} {lane : Nat}
    (h : SameControl (strandOf u u.cur) (strandOf x u.cur)) (hn : stNest (strandOf u u.cur) = false) :
    HeldEntry u (trapArray x u.cur o cause tval lane) o cause tval lane := by
  have nest : stNest (strandOf x u.cur) = false := by rw [stNest, h.status]; exact hn
  obtain ⟨c, hc⟩ := strandOf_trapArray x u.cur o cause tval lane nest
  have pc : opPc (strandOf x u.cur) = opPc (strandOf u u.cur) := by rw [opPc, h.viq, h.pc]; rfl
  rw [pc] at hc
  refine ⟨?_, ?_, ?_, ?_, ?_, ?_, ?_, ?_, ?_, ?_, ?_⟩ <;> rw [hc]
  · rfl
  · rfl
  · rfl
  · show BitVec.ofNat 48 (strandOf x u.cur).tvec.toNat = _
    rw [h.tvec, BitVec.ofNat_toNat]
  · show trapStatus (strandOf x u.cur).status = _
    rw [h.status]
  · rfl
  · exact h.regs
  · rfl
  · show vEntries (strandOf x u.cur) o = _
    have viq := h.viq
    unfold vEntries arcOf
    rw [viq]
    cases (strandOf u u.cur).arc.viq <;> simp [entryOf, h.pc, h.strip]
  · show (if (strandOf x u.cur).arc.viq.isEmpty then nextPc (strandOf x u.cur) else (strandOf x u.cur).pc) = _
    rw [h.viq, nextPc, h.pc]
    unfold arcOf
    cases (strandOf u u.cur).arc.viq <;> rfl
  · rfl

/-- R116: after a trap the registers hold what they held before it. -/
theorem regs_trapArray (s : State) (id : Nat) (o : Vop) (cause : Nat) (tval : Word) (lane : Nat)
    (h : stNest (strandOf s id) = false) :
    (strandOf (trapArray s id o cause tval lane) id).arc.regs = (strandOf s id).arc.regs := by
  obtain ⟨c, hc⟩ := strandOf_trapArray s id o cause tval lane h
  rw [hc]
  rfl

end Sys2Proof.Machine

namespace Sys2Proof.Machine

/-! ## What a read leaves (R224, R301, R302, R358) -/

/-- Beside the host's answer to the strand a read may have filled coded lines, with reports, and taken sequence numbers. -/
structure ReadOnly (id : Nat) (s w : State) : Prop where
  rest : w = { s with strands := w.strands, mem := w.mem, pkg := w.pkg, net := w.net }
  strand : ∃ h, strandOf w id = { strandOf s id with hostAnswer := h }
  others : ∀ j, j ≠ id → strandOf w j = strandOf s j
  mem : w.mem = { s.mem with coded := w.mem.coded, codedPoison := w.mem.codedPoison }

theorem ReadOnly.refl (id : Nat) (s : State) : ReadOnly id s s := ⟨rfl, ⟨_, rfl⟩, fun _ _ => rfl, rfl⟩

theorem ReadOnly.trans {id : Nat} {s t u : State} (h : ReadOnly id s t) (g : ReadOnly id t u) : ReadOnly id s u := by
  obtain ⟨a, ha⟩ := h.strand
  obtain ⟨b, hb⟩ := g.strand
  refine ⟨by rw [g.rest, h.rest], ⟨b, by rw [hb, ha]⟩, fun j hj => (g.others j hj).trans (h.others j hj), by rw [g.mem, h.mem]⟩

theorem noteRemote_eq (s : State) (id stream cls : Nat) (t : Target) (v : Nat) :
    noteRemote s id stream cls t v = { s with net := (noteRemote s id stream cls t v).net } := by
  unfold noteRemote noteRemoteAs
  split
  · rfl
  · split
    · rfl
    · dsimp only
      split
      · split <;> rfl
      · rfl

theorem readOnly_noteRemote (s : State) (id stream cls : Nat) (t : Target) (v : Nat) : ReadOnly id s (noteRemote s id stream cls t v) := by
  have h := noteRemote_eq s id stream cls t v
  generalize noteRemote s id stream cls t v = w at *
  refine ⟨by rw [h], ⟨(strandOf s id).hostAnswer, by rw [h]; rfl⟩, fun j _ => by rw [h]; rfl, by rw [h]⟩

theorem fillCoded_rest (s : State) (r j : Nat) (sl : Bool) :
    fillCoded s r j sl = { s with strands := (fillCoded s r j sl).strands, mem := (fillCoded s r j sl).mem,
                                  pkg := (fillCoded s r j sl).pkg, net := (fillCoded s r j sl).net } := by
  unfold fillCoded
  split
  · rfl
  · split
    split <;> rfl

theorem readOnly_targetFill (s : State) (id : Nat) (t : Target) : ReadOnly id s (targetFill s t) := by
  cases t with
  | coded r o sl =>
    have mem := fillCoded_mem s r (o / 64) sl
    obtain ⟨clusters, -, -, strands, cores, dies, net⟩ := fillCoded_same s r (o / 64) sl
    refine ⟨?_, ⟨(strandOf s id).hostAnswer, strandOf_congr strands id⟩, fun j _ => strandOf_congr strands j, mem⟩
    exact fillCoded_rest s r (o / 64) sl
  | atrium o => exact .refl id s
  | phys k sl => exact .refl id s
  | host a => exact .refl id s

theorem readOnly_foldl {α : Type} (id : Nat) (f : State → α → State) (h : ∀ s a, ReadOnly id s (f s a)) (l : List α) (s : State) :
    ReadOnly id s (l.foldl f s) := by
  induction l generalizing s with
  | nil => exact .refl id s
  | cons a l ih => exact (h s a).trans (ih (f s a))

theorem readOnly_hostAnswer (s : State) (id : Nat) (h : Option Bool) :
    ReadOnly id s (modStrand s id fun t => { t with hostAnswer := h }) :=
  ⟨rfl, ⟨h, strandOf_modStrand s id _⟩, fun j hj => strandOf_modStrand_ne s id j _ hj, rfl⟩

/-- R224: an access that the host answered goes on from a state without the answer. -/
theorem hostThen_ok {α : Type} {s w : State} {id : Nat} {host : Bool} {k : State → Acc α} {v : α} (h : hostThen s id host k = .ok v w) :
    ∃ u, ReadOnly id s u ∧ k u = .ok v w := by
  unfold hostThen at h
  cases host with
  | false => exact ⟨s, .refl id s, h⟩
  | true =>
    simp only [if_true] at h
    split at h
    · cases h
    · split at h
      · exact ⟨_, readOnly_hostAnswer s id none, h⟩
      · cases h

theorem readChunks_ok {s w : State} {id stream : Nat} {cs : List (Word × Nat)} {l : List Nat}
    (h : readChunks s id stream cs = .ok l w) : ReadOnly id s w := by
  unfold readChunks at h
  split at h
  · cases h
  · split at h
    · cases h
    · split at h
      · cases h
      · obtain ⟨u, hu, hk⟩ := hostThen_ok h
        obtain ⟨-, rfl⟩ := Acc.ok.inj hk
        exact hu.trans (readOnly_foldl id _ (fun x (t : Target × Nat) => (readOnly_targetFill x id t.1).trans (readOnly_noteRemote _ id stream 0 t.1 0)) _ u)

theorem ReadOnly.partly {u w : State} (h : ReadOnly u.cur u w) : Partly u w 0 := by
  obtain ⟨a, ha⟩ := h.strand
  have cur : w.cur = u.cur := by rw [h.rest]
  have core : ∀ c, coreOf w c = coreOf u c := fun c => by rw [h.rest]; rfl
  have arc : arcOf w = arcOf u := by rw [arcOf, cur, ha]; rfl
  exact ⟨by rw [h.rest], cur, h.others, fun c _ => core c, ⟨_, _, _, core _⟩, by rw [h.rest],
    ⟨a, by rw [ha, arc, or_zero_word]; rfl⟩, by rw [arc]⟩

theorem ReadOnly.arc {u w : State} (h : ReadOnly u.cur u w) : arcOf w = arcOf u := by
  obtain ⟨a, ha⟩ := h.strand
  have cur : w.cur = u.cur := by rw [h.rest]
  rw [arcOf, cur, ha]
  rfl

end Sys2Proof.Machine

namespace Sys2Proof.Machine

/-! ## Instruction words as numbers (R37) -/

theorem toNat_append_add {n m : Nat} (x : BitVec n) (y : BitVec m) : (x ++ y).toNat = x.toNat * 2 ^ m + y.toNat := by
  rw [BitVec.toNat_append, ← Nat.shiftLeft_add_eq_or_of_lt y.isLt, Nat.shiftLeft_eq]

theorem toNat_wordV (maj : BitVec 6) (d a b : BitVec 5) (m : BitVec 2) (mp : BitVec 1) (fn : BitVec 8) :
    (wordV maj d a b m mp fn).toNat = maj.toNat * 2 ^ 26 + d.toNat * 2 ^ 21 + a.toNat * 2 ^ 16 + b.toNat * 2 ^ 11 +
      m.toNat * 2 ^ 9 + mp.toNat * 2 ^ 8 + fn.toNat := by
  unfold wordV
  simp only [toNat_append_add]
  ring

/-- A number with the value of a word encodes as that word. -/
theorem encode_of_toNat {i : Instr} {n : Nat} {w : BitVec 32} (h : encodeNat i = some n) (e : n = w.toNat) : encode i = some w := by
  rw [encode, h, Option.map_some, e, BitVec.ofNat_toNat, BitVec.setWidth_eq]

/-! ## The sources of a vector instruction -/

theorem envOf_arc (a : Arcade) (m : Option (List Word)) : ∃ n, (envOf a m).a = { a with vl := n } := by
  cases m with
  | none => exact ⟨_, rfl⟩
  | some l => exact ⟨_, rfl⟩

section
variable {s : State} {ds vs : List (BitVec 5)}

theorem SourcesNamed.append {f g : VEnv → List Source} (hf : SourcesNamed s ds vs f) (hg : SourcesNamed s ds vs g) :
    SourcesNamed s ds vs fun v => f v ++ g v :=
  fun c m q hq => (List.mem_append.mp hq).elim (hf c m q) (hg c m q)

theorem sourcesNamed_nil : SourcesNamed s ds vs fun _ => [] := nofun

/-- A field that may read the chain is a source only when it names a register. -/
theorem sourcesNamed_srcOf (f : BitVec 5) (hf : f ∈ vs) (p : VEnv → Nat → Bool) : SourcesNamed s ds vs fun v => srcOf v f (p v) := by
  intro c m q hq
  obtain ⟨n, hn⟩ := envOf_arc (withMessage c (arcOf s)) m
  have same : chained (envOf (withMessage c (arcOf s)) m).a f = chained (arcOf s) f := by rw [hn]; rfl
  dsimp only [srcOf] at hq
  rw [same] at hq
  split at hq
  · cases hq
  · rename_i off
    rw [List.mem_singleton.mp hq]
    exact ⟨f, List.mem_append_right _ (List.mem_filter.mpr ⟨hf, by simp [off]⟩), rfl⟩

/-- A field that always names a register is a source. -/
theorem sourcesNamed_reg (f : BitVec 5) (hf : f ∈ ds) (p : VEnv → Nat → Bool) : SourcesNamed s ds vs fun v => [(f.toNat, p v)] := by
  intro c m q hq
  rw [List.mem_singleton.mp hq]
  exact ⟨f, List.mem_append_left _ hf, rfl⟩

/-- A ready instruction does what its body says. -/
theorem exec_ready {i : Instr} {o : Vop} {bad : Bool} {src : VEnv → List Source} {k : State → VEnv → State} {u : State} {v : VEnv}
    (he : exec i s = .next (vecRun s o bad ds vs src k)) (hr : VecReady s ds vs u v) (hh : heldOn (strandOf s s.cur) = false)
    (hb : bad = false) (hs : SourcesNamed s ds vs src) : exec i s = .next (k u v) := by
  rw [he, vecRun_ready _ hr hh hb hs]

/-- An instruction that writes elements when it is ready. -/
theorem elementWise_of {i : Instr} {o : Vop} {bad : Bool} {src : VEnv → List Source} {d : BitVec 5} {fl : VEnv → Word}
    {f : VEnv → Nat → Option (Fl Word)}
    (he : exec i s = .next (vecRun s o bad ds vs src fun u v => vecWrite u o v d (fl v) (f v)))
    (hs : SourcesNamed s ds vs src) (hh : heldOn (strandOf s s.cur) = false) (hb : bad = false) :
    ElementWise s ds vs d.toNat i fl f := by
  intro u v hr
  exact ⟨_, exec_ready he hr hh hb hs, vecWrite_writes hr.own o d (fl v) (f v)⟩

theorem ElementWise.congr {i : Instr} {d : Nat} {fl : VEnv → Word} {f g : VEnv → Nat → Option (Fl Word)}
    (h : ElementWise s ds vs d i fl f) (e : ∀ u v, VecReady s ds vs u v → f v = g v) : ElementWise s ds vs d i fl g := by
  intro u v hr
  rw [← e u v hr]
  exact h u v hr

theorem VecReady.mfmt {u : State} {v : VEnv} (h : VecReady s ds vs u v) : v.a.mfmt = (arcOf s).mfmt := by
  obtain ⟨n, hn⟩ := h.own
  obtain ⟨-, hm, -⟩ := h.config
  rw [hn, ← hm]

theorem VecReady.vcfg {u : State} {v : VEnv} (h : VecReady s ds vs u v) : v.a.vcfg = (arcOf s).vcfg := by
  obtain ⟨n, hn⟩ := h.own
  obtain ⟨hc, -, -⟩ := h.config
  rw [hn, ← hc]

end

/-! ## Conversions to and from QFMT (R170, R172) -/

section
variable {s : State} {d a : BitVec 5} {m : BitVec 2} {mp : BitVec 1}

theorem qCode_ready {ds vs : List (BitVec 5)} {u : State} {v : VEnv} (h : VecReady s ds vs u v) :
    qCode v.a = fld (arcOf s).mfmt 16 5 := by rw [qCode, h.mfmt]

theorem sourcesNamed_qSrc (vs : List (BitVec 5)) :
    SourcesNamed s (d :: qReg (arcOf s)) vs fun v => qSrc v m mp := by
  intro c x q hq
  obtain ⟨n, hn⟩ := envOf_arc (withMessage c (arcOf s)) x
  have same : qScaled (envOf (withMessage c (arcOf s)) x).a = qScaled (arcOf s) := by rw [hn]; rfl
  dsimp only [qSrc] at hq
  rw [same] at hq
  split at hq
  · rename_i on
    rw [List.mem_singleton.mp hq]
    exact ⟨31, List.mem_append_left _ (by simp [qReg, on]), rfl⟩
  · cases hq

theorem vConvOp_course {i : Instr} {fn : BitVec 8} {bad : Arcade → Bool} {f : VEnv → Nat → Fl Word}
    (he : exec i s = vConvOp fn d a m mp s bad f) (hw : encode i = some (wordConv fn d a 0 m mp)) :
    VecCourse s i (bad (arcOf s) || notLinear (arcOf s) || badGroups (arcOf s) [d, a] || (qScaled (arcOf s) && grouped (arcOf s)))
      (ElementWise s (d :: qReg (arcOf s)) [a] d.toNat i (fun _ => 0) fun v e => if active v.a m mp e then some (f v e) else none) :=
  vecCourse_of he hw fun hh hb =>
    elementWise_of he ((sourcesNamed_srcOf a (by simp) _).append (sourcesNamed_qSrc [a])) hh hb

end

/-- The logarithmic formats. -/
theorem qLns_eq (a : Arcade) : qLns a = decide (fld a.mfmt 16 5 ∈ [0x0F, 0x10, 0x1B]) := by
  unfold qLns qCode
  rw [Bool.eq_iff_iff]
  simp [or_assoc]

/-- The registers that a conversion names. -/
theorem convRegs_eq (d : BitVec 5) (a : Arcade) : d :: qReg a = if fmtScale (fld a.mfmt 16 5) != .none then [d, 31] else [d] := by
  unfold qReg qScaled qScale qCode
  split <;> rfl

/-! ## Scales (R24, R25, R168, R169) -/

theorem setFld_cleared (w : Word) (lo n v : Nat) : setFld (setFld w lo n 0) lo n v = setFld w lo n v := by
  simp [setFld, BitVec.and_assoc]

/-- R119: SC after a write of v31 is what the writer sets. -/
theorem setFld_scaleCleared (u : State) (v : VEnv) (d : Nat) (f : Nat → Option Word) (b : Nat) :
    setFld (scaleCleared u v d f) 7 1 b = setFld (arcOf u).mfmt 7 1 b := by
  unfold scaleCleared
  split
  · exact setFld_cleared _ _ _ _
  · rfl

/-- Elements without flags raise none. -/
theorem flagsOf_none {v : VEnv} {f : Nat → Option (Fl Word)} (h : ∀ e x, f e = some x → x.2 = 0) : flagsOf v f = 0 := by
  unfold flagsOf
  induction List.range v.a.vl with
  | nil => rfl
  | cons e l ih =>
    cases hf : f e with
    | none => simpa [hf] using ih
    | some x => simp [hf, ih, h e x hf]

/-- The flags of the elements that a condition names. -/
theorem flagsOf_filter (v : VEnv) (p : Nat → Bool) (g : Nat → Fl Word) :
    flagsOf v (fun e => if p e then some (g e) else none) = orFlags (((List.range v.a.vl).filter p).map fun e => (g e).2) := by
  unfold flagsOf
  congr 1
  induction List.range v.a.vl with
  | nil => rfl
  | cons e l ih => cases hp : p e <;> simpa [hp] using ih

theorem orFlags_zeros {α : Type} (l : List α) : orFlags (l.map fun _ => 0) = 0 := by
  induction l with
  | nil => rfl
  | cons x l ih => rw [List.map_cons, orFlags_cons, ih, or_zero_word]

section
variable {u : State} {v : VEnv}

/-- R119, R159: an instruction that writes elements of v31 and then sets SC. -/
theorem scales_end (h : OwnLength u v) (o : Vop) (f : Nat → Option (Fl Word)) (b : Nat) :
    let t := vecEnd (vecPart u v 31 f) o v 0 fun c => { c with mfmt := setFld c.mfmt 7 1 b }
    VecRan u t v (flagsOf v f) ∧ Quiet u t ∧ SameSide u t ∧ (arcOf t).mfmt = setFld (arcOf u).mfmt 7 1 b ∧
    Wrote u t v 31 fun e => (f e).map (·.1) := by
  have side : SideOnly fun c => { c with mfmt := setFld c.mfmt 7 1 b } := fun _ => rfl
  have arc := arcOf_vecEnd (vecPart u v 31 f) o v 0 fun c => { c with mfmt := setFld c.mfmt 7 1 b }
  refine ⟨?_, quiet_vecEnd (quiet_vecPart u v 31 f) (partly_vecPart u v 31 f).cur, ?_, ?_,
    wrote_vecEnd h o 31 f 0 _ side fun _ => rfl⟩
  · rw [← or_zero_word (flagsOf v f)]
    exact vecRan_vecEnd (partly_vecPart u v 31 f) side
  · unfold SameSide
    rw [arc, endArc, arcOf_vecPart]
    exact ⟨rfl, rfl, rfl⟩
  · rw [arc, endArc, arcOf_vecPart]
    exact setFld_scaleCleared u v 31 _ b

end

/-! ### The largest magnitude of a block (R24) -/

theorem ltVal_num (n k : Bool) (m p : Nat) (e f : Int) :
    ltVal (.num n m e) (.num k p f) = true ↔ sgn n * ((m : ℚ) * 2 ^ e) < sgn k * ((p : ℚ) * 2 ^ f) := by
  have pos := two_zpow_pos (min e f)
  rw [← toUnits_mul n m e _ (min_le_left e f), ← toUnits_mul k p f _ (min_le_right e f), mul_lt_mul_iff_left₀ pos, Int.cast_lt]
  simp [ltVal, linearize]

/-- Without NaN and infinities the largest magnitude bounds the others and is that of one of them, or 0. -/
theorem maxAbs_spec (l : List Val) (h : ∀ x ∈ l, ∃ n m e, x = .num n m e) :
    ∃ m e, maxAbs l = .num false m e ∧ (∀ x ∈ l, ∀ v, ratOf x = some v → |v| ≤ m * 2 ^ e) ∧
      (m = 0 ∨ ∃ x ∈ l, ∃ v, ratOf x = some v ∧ |v| = m * 2 ^ e) := by
  unfold maxAbs
  induction l using List.reverseRecOn with
  | nil => exact ⟨0, 0, rfl, by simp, .inl rfl⟩
  | append_singleton l x ih =>
    obtain ⟨m, e, hm, bound, attained⟩ := ih fun y hy => h y (List.mem_append_left _ hy)
    obtain ⟨n, k, f, rfl⟩ := h x (by simp)
    rw [List.foldl_append, hm]
    have lt := ltVal_num false false m k e f
    simp only [sgn, Bool.false_eq_true, if_false, one_mul] at lt
    have abs : ∀ v, ratOf (.num n k f) = some v → |v| = k * 2 ^ f := fun v hv => by
      rw [← Option.some.inj hv, abs_signed_num]
    by_cases hlt : (m : ℚ) * 2 ^ e < k * 2 ^ f
    · refine ⟨k, f, by simp [withSign, lt.mpr hlt], fun y hy v hv => ?_, .inr ⟨.num n k f, by simp, _, ratOf_num n k f, abs _ rfl⟩⟩
      rcases List.mem_append.mp hy with hy | hy
      · exact (bound y hy v hv).trans hlt.le
      · exact (abs v (List.mem_singleton.mp hy ▸ hv)).le
    · have stays : ¬ ltVal (.num false m e) (.num false k f) = true := fun g => hlt (lt.mp g)
      refine ⟨m, e, by simp [withSign, stays], fun y hy v hv => ?_, ?_⟩
      · rcases List.mem_append.mp hy with hy | hy
        · exact bound y hy v hv
        · exact (abs v (List.mem_singleton.mp hy ▸ hv)).le.trans (not_lt.mp hlt)
      · exact attained.imp_right fun ⟨y, hy, v, hv, hv'⟩ => ⟨y, List.mem_append_left _ hy, v, hv, hv'⟩

theorem num_of_ratOf {x : Val} {v : ℚ} (h : ratOf x = some v) : ∃ n m e, x = .num n m e := by
  cases x with
  | num n m e => exact ⟨n, m, e, rfl⟩
  | nan b => simp [ratOf] at h
  | inf b => simp [ratOf] at h
  | pow n l => simp [ratOf] at h

/-- The exponent of a positive number's leading bit is the floor of its binary logarithm. -/
theorem leadExp_eq_log (m : Nat) (e : Int) (h : m ≠ 0) : leadExp m e = Int.log 2 ((m : ℚ) * 2 ^ e) := by
  obtain ⟨low, high⟩ := leadExp_bounds m e h
  have pos : (0 : ℚ) < m * 2 ^ e := (two_zpow_pos _).trans_le low
  refine le_antisymm ((Int.zpow_le_iff_le_log (by norm_num) pos).mp (by exact_mod_cast low)) ?_
  have := (Int.lt_zpow_iff_log_lt (b := 2) (by norm_num) pos).mp (by exact_mod_cast high)
  omega

/-- R24: the scale of a block whose largest magnitude is `r`. -/
theorem ocpScale_eq (code : Nat) (l : List Val) (r : ℚ) (pos : 0 < r) (top : ∃ y ∈ l, ∃ v, ratOf y = some v ∧ |v| = r)
    (all : ∀ y ∈ l, ∃ v, ratOf y = some v ∧ |v| ≤ r) :
    let x := Int.log 2 r - emaxOf code
    ocpScale code l = ((max (-127) (min x 127) + 127).toNat, if -127 ≤ x ∧ x ≤ 127 then 0 else flagQSAT) := by
  intro x
  have nums : ∀ y ∈ l, ∃ n m e, y = .num n m e := fun y hy => num_of_ratOf (all y hy).choose_spec.1
  obtain ⟨m, e, hm, bound, attained⟩ := maxAbs_spec l nums
  have finite : (l.any fun x => isNaN x || isInf x) = false := by
    rw [List.any_eq_false]
    intro y hy
    obtain ⟨n, k, f, rfl⟩ := nums y hy
    simp [isNaN, isInf]
  have hr : r = m * 2 ^ e := by
    obtain ⟨y, hy, v, hv, rfl⟩ := top
    refine le_antisymm (bound y hy v hv) ?_
    rcases attained with rfl | ⟨z, hz, w, hw, hwm⟩
    · simp
    · obtain ⟨w', hw', le⟩ := all z hz
      rw [← hwm, Option.some.inj (hw.symm.trans hw')]
      exact le
  have m0 : m ≠ 0 := fun h => by simp [hr, h] at pos
  have hx : leadExp m e - emaxOf code = x := by rw [leadExp_eq_log m e m0, ← hr]
  unfold ocpScale
  simp only [finite, hm, m0, hx, Bool.false_eq_true, if_false]
  rw [clampInt_eq _ _ _ (by norm_num)]
  refine Prod.ext rfl ?_
  by_cases hin : -127 ≤ x ∧ x ≤ 127
  · have : max (-127) (min x 127) = x := by omega
    rw [if_pos hin, this]
    simp [flagIf]
  · have : max (-127) (min x 127) ≠ x := by omega
    rw [if_neg hin]
    simp [flagIf, this]

/-! ## Codebooks (R171) -/

section
variable {s u : State} {v : VEnv}

/-- An instruction that has done nothing and traps changes no element of a register. -/
theorem heldTrap_trapArray (hn : stNest (strandOf u u.cur) = false) (o : Vop) (cause : Nat) (tval : Word) (lane : Nat) :
    HeldTrap u (trapArray u u.cur o cause tval lane) o cause tval lane :=
  ⟨heldEntry_trapArray (.refl _) hn, fun r l => by rw [regs_trapArray _ _ _ _ _ _ hn]; rfl⟩

/-- R171: a codebook is loaded from the state that its read has left. -/
theorem codebook_loaded {w : State} (hw : ReadOnly u.cur u w) (o : Vop) (c n : Nat) :
    let t := vecEnd w o v 0 fun x => { x with codebooks := listSet 0 x.codebooks c (BitVec.ofNat 256 n) }
    VecRan u t v 0 ∧ SameRegs u t ∧ (arcOf t).masks = (arcOf u).masks ∧ listGet 0 (arcOf t).codebooks c = BitVec.ofNat 256 n ∧
      t.mem.dram = u.mem.dram ∧ t.mem.l2 = u.mem.l2 ∧
      ∀ j, j ≠ c → listGet 0 (arcOf t).codebooks j = listGet 0 (arcOf u).codebooks j := by
  intro t
  have arc := arcOf_vecEnd w o v 0 fun x => { x with codebooks := listSet 0 x.codebooks c (BitVec.ofNat 256 n) }
  obtain ⟨y, charged, frame⟩ := vecEnd_frame w o v 0 fun x => { x with codebooks := listSet 0 x.codebooks c (BitVec.ofNat 256 n) }
  have mem : t.mem = w.mem := (congrArg State.mem frame :).trans (congrArg State.mem charged.rest :)
  unfold endArc at arc
  rw [hw.arc] at arc
  refine ⟨vecRan_vecEnd hw.partly fun _ => rfl, ?_, ?_, ?_, ?_, ?_, fun j hj => ?_⟩
  · unfold SameRegs t
    rw [arc]
    exact ⟨rfl, rfl⟩
  · unfold t
    rw [arc]
  · unfold t
    rw [arc]
    exact listGet_listSet _ _ _ _
  · rw [mem, hw.mem]
  · rw [mem, hw.mem]
  · unfold t
    rw [arc]
    exact listGet_listSet_ne _ _ _ _ _ hj

end

/-! ## The instructions of MAJ 0x2E -/

theorem VecCourse.congr {s : State} {i : Instr} {bad bad' : Bool} {done done' : Prop} (h : VecCourse s i bad done) (e : bad = bad')
    (g : done → done') : VecCourse s i bad' done' := by
  subst e
  obtain ⟨issue, queue, beyond, run⟩ := h
  exact ⟨issue, queue, beyond, fun hh hb => g (run hh hb)⟩

section
variable (s : State) (d a b : BitVec 5) (c m : BitVec 2) (mp : BitVec 1)

theorem exec_vquant : exec (.vquant d a m mp) s = execVquant d a m mp s := rfl
theorem exec_vcvtl : exec (.vcvtl d a m mp) s = execVcvtl d a m mp s := rfl
theorem exec_vdeq : exec (.vdeq d a m mp) s = execVdeq d a m mp s := rfl
theorem exec_vcbx : exec (.vcbx d a c m mp) s = execVcbx d a c m mp s := rfl
theorem exec_vsclset : exec (.vsclset a m mp) s = execVsclset a m mp s := rfl
theorem exec_vbscale : exec (.vbscale a m mp) s = execVbscale a m mp s := rfl
theorem exec_vcbld : exec (.vcbld c b) s = execVcbld c b s := rfl

/-- R37: the words of MAJ 0x2E as numbers. -/
theorem toNat_wordConv (fn : BitVec 8) : (wordConv fn d a b m mp).toNat = 0xB8000000 + d.toNat * 0x200000 + a.toNat * 0x10000 +
    b.toNat * 0x800 + m.toNat * 0x200 + mp.toNat * 0x100 + fn.toNat := by
  rw [wordConv, toNat_wordV]
  rfl

theorem encode_vquant : encode (.vquant d a m mp) = some (wordConv 0x02 d a 0 m mp) :=
  encode_of_toNat rfl (by rw [toNat_wordConv]; simp; omega)
theorem encode_vcvtl : encode (.vcvtl d a m mp) = some (wordConv 0x06 d a 0 m mp) :=
  encode_of_toNat rfl (by rw [toNat_wordConv]; simp; omega)
theorem encode_vdeq : encode (.vdeq d a m mp) = some (wordConv 0x03 d a 0 m mp) :=
  encode_of_toNat rfl (by rw [toNat_wordConv]; simp; omega)
theorem encode_vcbx : encode (.vcbx d a c m mp) = some (wordConv 0x05 d a (c.zeroExtend 5) m mp) :=
  encode_of_toNat rfl (by rw [toNat_wordConv]; simp; omega)
theorem encode_vsclset : encode (.vsclset a m mp) = some (wordConv 0x00 0 a 0 m mp) :=
  encode_of_toNat rfl (by rw [toNat_wordConv]; simp)
theorem encode_vbscale : encode (.vbscale a m mp) = some (wordConv 0x01 0 a 0 m mp) :=
  encode_of_toNat rfl (by rw [toNat_wordConv]; simp; omega)
theorem encode_vcbld : encode (.vcbld c b) = some (wordConv 0x04 (c.zeroExtend 5) b 0 0 0) :=
  encode_of_toNat rfl (by rw [toNat_wordConv]; simp; omega)

/-- What makes a conversion of an element from QFMT. -/
def fromQ (v : VEnv) (r : BitVec 5) (e : Nat) : Fl Word :=
  let x := scaledVal (mBook v.a) (qCode v.a) (fmtType (qCode v.a)) (qBits v.a e) ((srcW v r e).toNat % 2 ^ qWidth v.a)
  let y := toElem (typeOf (vType v.a) (vW v.a)) x.1
  (laneValue (vWe v.a) y.1, x.2 ||| y.2)

theorem vquant_course : VecCourse s (.vquant d a m mp)
    (qLns (arcOf s) || notLinear (arcOf s) || badGroups (arcOf s) [d, a] || (qScaled (arcOf s) && grouped (arcOf s)))
    (ElementWise s (d :: qReg (arcOf s)) [a] d.toNat (.vquant d a m mp) (fun _ => 0) fun v e =>
      if active v.a m mp e then some (toQ v a (scalesOurs v.a) e) else none) :=
  vConvOp_course (exec_vquant s d a m mp) (encode_vquant d a m mp)

theorem vcvtl_course : VecCourse s (.vcvtl d a m mp)
    (!qLns (arcOf s) || notLinear (arcOf s) || badGroups (arcOf s) [d, a] || (qScaled (arcOf s) && grouped (arcOf s)))
    (ElementWise s (d :: qReg (arcOf s)) [a] d.toNat (.vcvtl d a m mp) (fun _ => 0) fun v e =>
      if active v.a m mp e then some (toQ v a (scalesOurs v.a) e) else none) :=
  vConvOp_course (bad := fun ar => !qLns ar) (exec_vcvtl s d a m mp) (encode_vcvtl d a m mp)

theorem vdeq_course : VecCourse s (.vdeq d a m mp)
    (false || notLinear (arcOf s) || badGroups (arcOf s) [d, a] || (qScaled (arcOf s) && grouped (arcOf s)))
    (ElementWise s (d :: qReg (arcOf s)) [a] d.toNat (.vdeq d a m mp) (fun _ => 0) fun v e =>
      if active v.a m mp e then some (fromQ v a e) else none) :=
  vConvOp_course (bad := fun _ => false) (exec_vdeq s d a m mp) (encode_vdeq d a m mp)

/-- R171: the element that a codebook look-up gives. -/
def fromBook (v : VEnv) (r : BitVec 5) (c : BitVec 2) (e : Nat) : Fl Word :=
  let x := toElem (typeOf (vType v.a) (vW v.a)) (cbEntry (listGet 0 v.a.codebooks c.toNat) (srcW v r e).toNat)
  (laneValue (vWe v.a) x.1, x.2)

theorem vcbx_course : VecCourse s (.vcbx d a c m mp) (notLinear (arcOf s) || badGroups (arcOf s) [d, a])
    (ElementWise s [d] [a] d.toNat (.vcbx d a c m mp) (fun _ => 0) fun v e =>
      if active v.a m mp e then some (fromBook v a c e) else none) :=
  vecCourse_of (exec_vcbx s d a c m mp) (encode_vcbx d a c m mp) fun hh hb =>
    elementWise_of (exec_vcbx s d a c m mp) (sourcesNamed_srcOf a (by simp) _) hh hb

/-- R168: VSCLSET when it is ready. -/
def ScalesSet : Prop :=
  ∀ u v, VecReady s [31] [a] u v → ∃ t : State, exec (.vsclset a m mp) s = .next t ∧ VecRan u t v 0 ∧ Quiet u t ∧ SameSide u t ∧
    (arcOf t).mfmt = setFld (arcOf u).mfmt 7 1 0 ∧ Wrote u t v 31 fun e =>
      if active v.a m mp e then
        some (laneValue (if qScale v.a = .bf16 then 16 else 8) (srcW v a (scaleIndex v.a e)).toNat) else none

theorem vsclset_course : VecCourse s (.vsclset a m mp) (!qScaled (arcOf s) || grouped (arcOf s)) (ScalesSet s a m mp) := by
  refine vecCourse_of (exec_vsclset s a m mp) (encode_vsclset a m mp) fun hh hb u v hr => ?_
  have he := exec_ready (exec_vsclset s a m mp) hr hh hb (sourcesNamed_srcOf a (by simp) _)
  obtain ⟨ran, quiet, side, mfmt, wrote⟩ := scales_end hr.own (vop s s.cur (wordConv 0x00 0 a 0 m mp) 0 0) (fun e =>
    if active v.a m mp e then
      some (laneValue (if qScale v.a = .bf16 then 16 else 8) (srcW v a (scaleIndex v.a e)).toNat, 0) else none) 0
  rw [flagsOf_none fun e x hx => by split at hx <;> cases hx; rfl] at ran
  refine ⟨_, he, ran, quiet, side, mfmt, ?_⟩
  convert wrote using 2
  split <;> rfl

/-- The counter of free values plays no part in a write of elements. -/
theorem vecPart_free (u : State) (v : VEnv) (d : BitVec 5) (f : Nat → Option (Fl Word)) (n : Nat) :
    { vecPart u v d f with free := n } = vecPart { u with free := n } v d f := by
  unfold vecPart healParity
  dsimp only
  have core : coreOf { u with free := n } = coreOf u := rfl
  rw [core]
  split <;> rfl

/-- R169: the scale of the block of element `e` in a format that has scales. -/
def blockScaleIn (v : VEnv) (r : BitVec 5) (m : BitVec 2) (mp : BitVec 1) (e : Nat) : Fl Nat :=
  blockScale (mBook v.a) (qCode v.a) (((actives v.a m mp).filter fun f =>
    blockOf v.a (qScale v.a) f == blockOf v.a (qScale v.a) e).map (linearVal v r))

theorem VecRan.of_free {u t : State} {v : VEnv} {fl : Word} {n : Nat} (h : VecRan { u with free := n } t v fl) : VecRan u t v fl :=
  ⟨h.agenda, h.cur, h.others, h.cores, h.core, h.dies, h.landings, h.strand, h.arc⟩

/-- R169: what VBSCALE does in its turn, in terms of the scales that it computes. -/
def ScalesComputed : Prop :=
  ∀ u v, VecReady s [31] [a] u v → ∃ t : State, exec (.vbscale a m mp) s = .next t ∧
    VecRan u t v (orFlags ((actives v.a m mp).map fun e => (blockScaleOf v a m mp u.free e).2)) ∧
    Quiet { u with free := t.free } t ∧ (qScaled v.a = true → Quiet u t) ∧ SameSide u t ∧
    (arcOf t).mfmt = setFld (arcOf u).mfmt 7 1 1 ∧ Wrote u t v 31 fun e =>
      if active v.a m mp e then some (BitVec.ofNat 64 (blockScaleOf v a m mp u.free e).1) else none

/-- R169: the elements that VBSCALE writes. -/
def scaleElems (v : VEnv) (a : BitVec 5) (m : BitVec 2) (mp : BitVec 1) (free e : Nat) : Option (Fl Word) :=
  if active v.a m mp e then
    some (BitVec.ofNat 64 (blockScaleOf v a m mp free e).1, (blockScaleOf v a m mp free e).2)
  else none

theorem vbscale_course : VecCourse s (.vbscale a m mp) (notLinear (arcOf s) || grouped (arcOf s)) (ScalesComputed s a m mp) := by
  refine vecCourse_of (exec_vbscale s a m mp) (encode_vbscale a m mp) fun hh hb u v hr => ?_
  have he := exec_ready (exec_vbscale s a m mp) hr hh hb (sourcesNamed_srcOf a (by simp) _)
  dsimp only at he
  have named : (fun e => if active v.a m mp e then some ((BitVec.ofNat 64 (blockScaleOf v a m mp u.free e).1,
      (blockScaleOf v a m mp u.free e).2) : Fl Word) else none) = scaleElems v a m mp u.free := rfl
  rw [named] at he
  have flags := flagsOf_filter v (active v.a m mp) fun e => ((BitVec.ofNat 64 (blockScaleOf v a m mp u.free e).1,
    (blockScaleOf v a m mp u.free e).2) : Fl Word)
  have elems : (fun e => (scaleElems v a m mp u.free e).map (·.1)) = fun e =>
      if active v.a m mp e then some (BitVec.ofNat 64 (blockScaleOf v a m mp u.free e).1) else none := by
    funext e
    unfold scaleElems
    split <;> rfl
  cases hq : qScaled v.a with
  | true =>
    obtain ⟨ran, quiet, side, mfmt, wrote⟩ := scales_end hr.own (vop s s.cur (wordConv 0x01 0 a 0 m mp) 0 0)
      (scaleElems v a m mp u.free) 1
    rw [if_pos hq] at he
    refine ⟨_, he, flags ▸ ran, ?_, fun _ => quiet, side, mfmt, elems ▸ wrote⟩
    rw [quiet.free]
    exact quiet
  | false =>
    rw [if_neg (by simp [hq]), (quiet_vecPart u v 31 _).free, vecPart_free] at he
    obtain ⟨ran, quiet, side, mfmt, wrote⟩ := scales_end (u := { u with free := u.free + v.a.vl }) hr.own
      (vop s s.cur (wordConv 0x01 0 a 0 m mp) 0 0) (scaleElems v a m mp u.free) 1
    refine ⟨_, he, flags ▸ ran.of_free, ?_, fun h => absurd h (by simp), side, mfmt, elems ▸ ⟨wrote.1, wrote.2⟩⟩
    rw [quiet.free]
    exact quiet

/-- R171, R229: VCBLD in its turn: an address that is not aligned traps, and a read that succeeds fills the codebook. -/
def BookLoaded : Prop :=
  ∀ u v, VecReady s [] [] u v →
    ((v.a.lane = 0 ∨ v.a.lane < v.a.vl) → (operand1 s b).toNat % 32 ≠ 0 → stNest (strandOf u u.cur) = false →
      ∃ t : State, exec (.vcbld c b) s = .next t ∧ t.mem = u.mem ∧
        HeldTrap u t ⟨(encode (.vcbld c b)).getD 0, operand1 s b, operand2 s 0⟩ cMISALIGN (operand1 s b) 0) ∧
    ∀ n w, (v.a.lane = 0 ∨ v.a.lane < v.a.vl) → (operand1 s b).toNat % 32 = 0 →
      readChunks u u.cur 1 [(operand1 s b, 32)] = .ok [n] w →
      ∃ t : State, exec (.vcbld c b) s = .next t ∧ VecRan u t v 0 ∧ SameRegs u t ∧ (arcOf t).masks = (arcOf u).masks ∧
        listGet 0 (arcOf t).codebooks c.toNat = BitVec.ofNat 256 n ∧ t.mem.dram = u.mem.dram ∧ t.mem.l2 = u.mem.l2 ∧
        ∀ j, j ≠ c.toNat → listGet 0 (arcOf t).codebooks j = listGet 0 (arcOf u).codebooks j

theorem vcbld_course : VecCourse s (.vcbld c b) false (BookLoaded s b c) := by
  refine vecCourse_of (exec_vcbld s b c) (encode_vcbld b c) fun hh hb u v hr => ?_
  have he := exec_ready (exec_vcbld s b c) hr hh rfl sourcesNamed_nil
  have op := vop_eq s (wordConv 0x04 (c.zeroExtend 5) b 0 0 0) b 0
  have cur := hr.cur
  rw [op, ← cur] at he
  have inside : (v.a.lane = 0 ∨ v.a.lane < v.a.vl) → ¬ (v.a.lane ≠ 0 ∧ v.a.vl ≤ v.a.lane) := by omega
  refine ⟨fun hl hm hn => ?_, fun n w hl hm hw => ?_⟩
  · rw [if_neg (inside hl), if_pos hm] at he
    refine ⟨_, he, (trapArray_frame ..).1, ?_⟩
    rw [encode_vcbld, Option.getD_some]
    exact heldTrap_trapArray hn _ _ _ _
  · rw [if_neg (inside hl), if_neg (by simp [hm]), hw] at he
    exact ⟨_, he, codebook_loaded (readChunks_ok hw) _ c.toNat n⟩

end

/-- Settles O24: each conversion has the course of a vector instruction, and what it does when it is ready is what its elements, its
scales or its codebook say. -/
theorem vectorConversions : Obligations.VectorConversions := by
  intro s d a b c m mp
  dsimp only
  refine ⟨?_, ?_, ?_, ?_, ?_, ?_, ?_⟩
  · refine (vquant_course s d a m mp).congr (by rw [qLns_eq]; rfl) fun h => ?_
    rw [← convRegs_eq]
    refine h.congr fun u v hr => ?_
    rw [← hr.mfmt]
    rfl
  · refine (vcvtl_course s d a m mp).congr (by rw [qLns_eq]; rfl) fun h => ?_
    rw [← convRegs_eq]
    refine h.congr fun u v hr => ?_
    rw [← hr.mfmt]
    rfl
  · refine (vdeq_course s d a m mp).congr rfl fun h => ?_
    rw [← convRegs_eq]
    refine h.congr fun u v hr => ?_
    rw [← hr.mfmt]
    rfl
  · exact vcbx_course s d a c m mp
  · refine (vsclset_course s a m mp).congr rfl fun h u v hr => ?_
    obtain ⟨t, he, ran, quiet, side, mfmt, wrote⟩ := h u v hr
    rw [← hr.mfmt]
    exact ⟨t, he, ran, quiet, side, mfmt, wrote⟩
  · refine (vbscale_course s a m mp).congr rfl fun h u v hr => ?_
    obtain ⟨t, he, ran, free, quiet, side, mfmt, wrote⟩ := h u v hr
    rw [← hr.mfmt]
    refine ⟨fun hq => ?_, fun hq => ?_, fun hk e => ?_, fun hk e r pos top all => ?_⟩
    · have scales : ∀ e, blockScaleOf v a m mp u.free e = blockScaleIn v a m mp e := fun e => if_pos hq
      simp only [scales] at ran wrote
      exact ⟨t, quiet hq, he, ran, side, mfmt, wrote⟩
    · have unscaled : qScaled v.a = false := hq
      have scales : ∀ e, (blockScaleOf v a m mp u.free e).2 = 0 := fun e => by simp [blockScaleOf, unscaled]
      simp only [scales, orFlags_zeros] at ran
      refine ⟨t, _, free, ⟨he, ran, side, mfmt, wrote⟩, fun e => ?_⟩
      split <;> simp [*]
    · exact congrArg Prod.snd (if_pos hk)
    · have e8m0 : ∀ book l, blockScale book (fld v.a.mfmt 16 5) l = ocpScale (fld v.a.mfmt 16 5) l := fun book l =>
        if_neg (by simp [hk])
      rw [e8m0]
      refine ocpScale_eq _ _ r pos ?_ ?_
      · obtain ⟨j, hj, top⟩ := top
        exact ⟨_, List.mem_map_of_mem hj, top⟩
      · intro y hy
        obtain ⟨j, hj, rfl⟩ := List.mem_map.mp hy
        exact all j hj
  · exact vcbld_course s b c

end Sys2Proof.Machine

namespace Sys2Proof.Machine

/-! ## A cached page beyond the end of memory (R284, R295)

A translation takes a page from a cached leaf entry as it stands, and nothing in `State` says that a TLB caches only what a walk gives.
An entry whose FRAME is the end of memory, 0xC000000000, maps to a target that is near, being of this package, and whose home die is 4,
which counts as one of the next package: the store of an element there stays unacknowledged, and the next element, homed on die 0, waits
for it and does not let the fault beyond be reached. -/

/-- A leaf entry of level 0 that core 0 caches in context 0: U pages of 64 KiB, FRAME at `pa`. -/
def cachedLeaf (path pa : Nat) : TlbEntry := ⟨0, 0, 0, path, BitVec.ofNat 64 (2 ^ 60 + pa + 16)⟩

/-- Strand 0 with bay 0 and three elements of 32 bits; s3 holds the stride 2^46. -/
def farStrand : Strand :=
  { Strand.reset 0 with
    slot := .run
    status := 0
    regs := (Strand.reset 0).regs.set 3 (2 ^ 46)
    arc := { (Strand.reset 0).arc with bays := 1, vcfg := 0x1021, mfmt := 0x60, vl := 3 } }

/-- Address 0 is cached as a page at the end of memory, address 2^46 as one at PA 0; die 4 can be reached. -/
def farState : State :=
  { State.reset with
    agenda := []
    strands := [(0, farStrand)]
    mem := { State.reset.mem with tlb := [cachedLeaf 0 memTop, cachedLeaf (2 ^ 30) 0] }
    pkg := { State.reset.pkg with bringUp := false, ptrootNow := [(0, 1)] }
    net := { State.reset.net with minimal := [(1, 1)] } }

/-- The state in which v1 has become recent. -/
def farReady : State := touched farState [1] []

/-- Where the first two elements go. -/
def farTarget (e : Nat) : Target := .phys (if e = 0 then memTop else 0) false

/-- Where the elements lie: at 0, 2^46 and 2^47, which is not canonical. -/
def farPlace (e : Nat) : Word := (strided (envOf (arcOf farReady) none).a 0 (2 ^ 46) 0 e).addr

theorem farState_ready : VecReady farState [1] [] farReady (envOf (arcOf farReady) none) :=
  vecReady_oneSlot farState [1] [] (by decide) (by decide) (by decide) (by decide) (by decide) (by decide)

theorem farState_waits : ∃ t, exec (.vsts 1 2 3 0 0 0 0) farState = .next t ∧ (strandOf t 0).cause = 0 :=
  ⟨_, rfl, by decide +kernel⟩

theorem farPlace_eq : farPlace 0 = 0 ∧ farPlace 1 = 2 ^ 46 ∧ farPlace 2 = 2 ^ 47 := by decide +kernel

/-- The cached pages are used whatever memory holds. -/
theorem farTarget_steady (t : State) (h : SameMaps farReady t) :
    ∀ e ∈ [0, 1], translate t (agentOf farReady 0) true (farPlace e) = .ok (farTarget e) := by
  obtain ⟨p0, p1, -⟩ := farPlace_eq
  have first : translate t (agentOf farReady 0) true 0 = .ok (farTarget 0) := by
    simp only [translate, pageWalk, cachedEntry, cachedAt, h.tlb, h.pkg]
    rfl
  have second : translate t (agentOf farReady 0) true (2 ^ 46) = .ok (farTarget 1) := by
    simp only [translate, pageWalk, cachedEntry, cachedAt, h.tlb, h.pkg]
    rfl
  intro e he
  obtain rfl | rfl : e = 0 ∨ e = 1 := by simpa using he
  · rw [p0]; exact first
  · rw [p1]; exact second

/-- The third address is not canonical, whatever memory holds. -/
theorem farPlace_fails (t : State) : translate t (agentOf farReady 0) true (farPlace 2) = .error (xfault cPAGE_FAULT) := by
  obtain ⟨-, -, p2⟩ := farPlace_eq
  have outside : inAtrium (2 ^ 47) = false ∧ canonical (2 ^ 47) = false := by decide
  rw [p2, translate, outside.1, outside.2]
  rfl

theorem farTarget_stores : ∀ e ∈ [0, 1], LaneStores farReady 1 4 (farPlace e) (farTarget e) := by
  have h : ∀ e ∈ [0, 1], (farPlace e).toNat % 4 = 0 ∧ pkgOf farReady (if e = 0 then memTop else 0) = pkgNumber farReady ∧
      streamHeld farReady 0 1 [homeDie farReady (farTarget e)] = false ∧
      unreachableTarget farReady (sidOf 0 1) (farTarget e) = false := by decide +kernel
  intro e he
  obtain ⟨aligned, own, free, home⟩ := h e he
  exact ⟨aligned, .inr ⟨_, false, rfl, own⟩, free, home, by intro hb; cases hb⟩

/-- Refutes O27: in `farState` the second element of the store waits for the acknowledgement of the first, whose home counts as one of
another package, and the fault of the third is not reached (`cause = 0`, where the statement says PAGE_FAULT). -/
theorem not_vectorAccessFaults : ¬ Obligations.VectorAccessFaults := by
  unfold Obligations.VectorAccessFaults
  rintro ⟨-, later⟩
  have clause := later farState 1 2 3 0 0 0 0 farReady farReady (envOf (arcOf farReady) none) 2 cPAGE_FAULT [0, 1] []
    (by decide) (by decide) (by decide +kernel)
  obtain ⟨-, -, -, -, -, vsts, -⟩ := clause
  obtain ⟨t, hexec, ⟨held, -⟩, -⟩ := vsts farTarget 4 (by decide) farState_ready
    ⟨by decide, by decide, by decide, by decide⟩ (by decide) (by decide) farTarget_stores
    (fun t maps _ => farTarget_steady t maps) (by decide +kernel) fun t _ _ => ⟨_, rfl, farPlace_fails t⟩
  obtain ⟨w, hw, cause⟩ := farState_waits
  obtain rfl := Host.Outcome.next.inj (hw.symm.trans hexec)
  have trapped := held.cause
  rw [show farReady.cur = 0 from rfl, cause] at trapped
  exact absurd trapped (by decide)

end Sys2Proof.Machine

namespace Sys2Proof.Machine

/-! ## The claim (R173) -/

/-- Nothing but the cores has changed, and of the core of the turn only the Mezzanine. -/
theorem Claims.cores {s u : State} (h : Claims s u) : u = { s with cores := u.cores } := by
  obtain ⟨-, rfl⟩ | ⟨-, -, rfl⟩ := h <;> rfl

theorem Claims.cur {s u : State} (h : Claims s u) : u.cur = s.cur := by rw [h.cores]

theorem Claims.strandOf {s u : State} (h : Claims s u) (j : Nat) : strandOf u j = strandOf s j := by
  rw [h.cores]
  rfl

theorem Claims.arc {s u : State} (h : Claims s u) : arcOf u = arcOf s := by
  rw [arcOf, h.cur, h.strandOf]
  rfl

theorem ownsMezz_free (s : State) (id : Nat) (h : (mezzOf s id).owner = none) : ownsMezz s id = false := by
  unfold mezzOf at h
  simp [ownsMezz, h]

theorem mayClaim_free (s : State) (h : (mezzOf s s.cur).owner = none)
    (hw : claimWaiters s (coreIdx s.cur) = [] ∨ (claimWaiters s (coreIdx s.cur)).head? = some (slotIdx s.cur)) :
    mayClaim s s.cur = true := by
  unfold mezzOf at h
  rcases hw with hw | hw <;> simp [mayClaim, h, hw]

/-- R173: a strand that holds the claim or takes it goes on from the state in which it does. -/
theorem Claims.runs {s u : State} (h : Claims s u) (k : State → State) : claimThen s s.cur k = k u := by
  unfold claimThen
  obtain ⟨own, rfl⟩ | ⟨none, first, rfl⟩ := h
  · rw [if_pos own]
  · rw [if_neg (by simp [ownsMezz_free s s.cur none]), if_pos (mayClaim_free s none first)]

/-- R173, R177: what a claim that is taken now makes of the Mezzanine. -/
theorem Claims.taken {s u : State} (h : Claims s u) (hu : u ≠ s) :
    (mezzOf u u.cur).cfg = 0x2000000 ∧ (mezzOf u u.cur).act = false ∧
    (mezzOf u u.cur).owner = some ((Machine.strandOf s s.cur).issuer, slotIdx s.cur) ∧
    (mezzOf u u.cur).acc = (mezzOf s s.cur).acc ∧ (mezzOf u u.cur).fa = (mezzOf s s.cur).fa ∧
    (mezzOf u u.cur).ft = (mezzOf s s.cur).ft := by
  obtain ⟨-, rfl⟩ | ⟨-, -, rfl⟩ := h
  · exact absurd rfl hu
  · have mezz : mezzOf (takeClaim s s.cur) s.cur = (coreOf (takeClaim s s.cur) (coreIdx s.cur)).mezz := rfl
    have cur : (takeClaim s s.cur).cur = s.cur := rfl
    rw [cur, mezz, takeClaim, modMezz, coreOf_setCore]
    exact ⟨rfl, rfl, rfl, rfl, rfl, rfl⟩

/-! ## The course of a Mezzanine instruction (R183, R201) -/

@[simp] theorem reg_zero (s : State) (id : Nat) : reg s id 0 = 0 := getReg_zero _

section
variable {s u : State} {o : Vop} {bad : Bool}

theorem mxRun_turn (k : State → State) (h : Claims s u) (hh : heldOn (strandOf s s.cur) = false) (hb : bad = false)
    (hn : stNoBays (strandOf s s.cur) = false) (ht : behind (strandOf s s.cur) = false) : mxRun s o bad k = k u := by
  have turn : behind (strandOf u s.cur) = false := by rw [h.strandOf]; exact ht
  rw [mxRun, arrayChecks_passed _ _ _ _ _ hh hb hn, mxClaim, h.runs, queueOr, if_neg (by simp [turn])]

theorem mxRun_behind (k : State → State) (h : Claims s u) (hh : heldOn (strandOf s s.cur) = false) (hb : bad = false)
    (hn : stNoBays (strandOf s s.cur) = false) (ht : behind (strandOf s s.cur) = true) :
    mxRun s o bad k = dispatchBehind u s.cur o := by
  have waits : behind (strandOf u s.cur) = true := by rw [h.strandOf]; exact ht
  rw [mxRun, arrayChecks_passed _ _ _ _ _ hh hb hn, mxClaim, h.runs, queueOr, if_pos waits]

/-- Behind an entry that waits the instruction enters the VIQ, which a full VIQ delays. -/
theorem mezz_queues {i : Instr} {w : BitVec 32} {a : BitVec 5} (he : exec i s = .next (dispatchBehind u s.cur (vop s s.cur w a 0)))
    (h : Claims s u) (ht : behind (strandOf s s.cur) = true) (hw : encode i = some w) : ∀ w, encode i = some w →
    ∃ t : State, exec i s = .next t ∧ OnlyStrand u t ∧
      (32 ≤ (arcOf s).viq.length → strandOf t u.cur = { (strandOf u u.cur) with blocked := some .viq }) ∧
      ((arcOf s).viq.length < 32 → ∃ r : BitVec 5, strandOf t u.cur = queued w (reg s s.cur r) 0 (strandOf u u.cur)) := by
  intro w' hw'
  obtain rfl : w = w' := Option.some.inj (hw.symm.trans hw')
  have viq : (strandOf u s.cur).arc.viq = (arcOf s).viq := by rw [h.strandOf]; rfl
  rw [vop_behind s s.cur w a 0 ht, ← h.cur] at he
  rw [← h.cur] at viq
  refine ⟨_, he, ?_, fun full => ?_, fun room => ⟨a, ?_⟩⟩
  · unfold dispatchBehind
    split
    · exact onlyStrand_modStrand u _
    · exact onlyStrand_modStrand u _
  · rw [dispatchBehind_full _ _ _ (by rw [viq]; exact full)]
    exact strandOf_modStrand _ _ _
  · rw [strandOf_dispatchBehind _ _ _ (by rw [viq]; exact room), h.cur, reg_zero]

end

/-! ## The end of a Mezzanine instruction -/

theorem stepped_raise (fl : Word) (t : Strand) : stepped 0 { t with sflags := t.sflags ||| fl } = stepped fl t := by
  unfold stepped
  simp only [or_zero_word]

section
variable {u : State} {i : Instr} {s : State} (f : Mezz → Mezz)

/-- Beside the strand only the Mezzanine changes. -/
theorem mezzRan_modMezz (t : State) (h : t = { (modMezz u (coreIdx u.cur) f) with strands := t.strands })
    (others : ∀ j, j ≠ u.cur → strandOf t j = strandOf u j) : MezzRan u t (f (mezzOf u u.cur)) := by
  have core : ∀ c, coreOf t c = coreOf (modMezz u (coreIdx u.cur) f) c := fun c => by rw [h]; rfl
  refine ⟨others, ?_, fun c hc => ?_, by rw [h]; rfl, by rw [h]; rfl, by rw [h]; rfl, by rw [h]; rfl, by rw [h]; rfl, by rw [h]; rfl⟩
  · rw [core, modMezz, coreOf_setCore]
    rfl
  · rw [core, modMezz, coreOf_setCore_ne _ _ _ _ hc]

/-- The Mezzanine changes and the instruction completes with flags. -/
theorem mezzRuns_raise (fl : Word) (he : exec i s = .next (finishV (raise (modMezz u (coreIdx u.cur) f) u.cur fl) u.cur)) :
    MezzRuns u i s (f (mezzOf u u.cur)) fl := by
  refine ⟨_, he, ?_, mezzRan_modMezz f _ rfl fun j hj => ?_, rfl⟩
  · rw [strandOf_finishV, raise, strandOf_modStrand, stepped_raise]
    rfl
  · rw [strandOf_finishV_ne _ _ _ hj, raise, strandOf_modStrand_ne _ _ _ _ hj]
    rfl

/-- The Mezzanine changes and the instruction completes. -/
theorem mezzRuns_of (he : exec i s = .next (finishV (modMezz u (coreIdx u.cur) f) u.cur)) :
    MezzRuns u i s (f (mezzOf u u.cur)) 0 := by
  refine ⟨_, he, ?_, mezzRan_modMezz f _ rfl fun j hj => ?_, rfl⟩
  · rw [strandOf_finishV]
    rfl
  · rw [strandOf_finishV_ne _ _ _ hj]
    rfl

/-- The instruction completes and the Mezzanine stays as it is. -/
theorem mezzRuns_same (he : exec i s = .next (finishV u u.cur)) : MezzRuns u i s (mezzOf u u.cur) 0 :=
  ⟨_, he, strandOf_finishV u u.cur, ⟨fun _ hj => strandOf_finishV_ne _ _ _ hj, rfl, fun _ _ => rfl, rfl, rfl, rfl, rfl, rfl, rfl⟩, rfl⟩

/-- The instruction is dispatched and waits for its beats. -/
theorem mezz_waits {w : BitVec 32} {z : ArrayWait} (he : exec i s = .next (awaitArray u u.cur (vop s s.cur w 0 0) z))
    (h : Claims s u) (hw : encode i = some w) : ∀ w, encode i = some w →
    ∃ t : State, exec i s = .next t ∧ OnlyStrand u t ∧ strandOf t u.cur = waitsOn z w 0 0 (strandOf u u.cur) := by
  intro w' hw'
  obtain rfl : w = w' := Option.some.inj (hw.symm.trans hw')
  refine ⟨_, he, onlyStrand_awaitArray u _ z, ?_⟩
  rw [strandOf_awaitArray, vop_word]
  unfold waitsOn
  split
  · rename_i empty
    have viq : (strandOf s s.cur).arc.viq = [] := by rw [← h.strandOf, ← h.cur]; exact empty
    have regs : vop s s.cur w 0 0 = ⟨w, reg s s.cur 0, reg s s.cur 0⟩ := by
      unfold vop
      rw [viq]
      split <;> simp_all
    rw [regs, reg_zero]
  · rfl

end

end Sys2Proof.Machine

namespace Sys2Proof.Machine

/-! ## The words and meanings of MAJ 0x30 -/

theorem toNat_wordMx (f : BitVec 15) (fn : BitVec 8) : (wordMx f fn).toNat = 0xC0000000 + f.toNat * 0x800 + fn.toNat := by
  unfold wordMx
  simp only [toNat_append_add]
  simp
  omega

section
variable (s : State) (a b d : BitVec 5) (n : BitVec 9) (x y : BitVec 1)

theorem encode_mxcfg : encode (.mxcfg b) = some (wordMx (0#5 ++ b ++ 0#5) 0x00) :=
  encode_of_toNat rfl (by rw [toNat_wordMx]; simp only [toNat_append_add]; simp; omega)
theorem encode_mxtld : encode (.mxtld x y) = some (wordMx (0#3 ++ x ++ y ++ 0#10) 0x01) :=
  encode_of_toNat rfl (by rw [toNat_wordMx]; simp only [toNat_append_add]; simp; omega)
theorem encode_mxtsel : encode (.mxtsel x) = some (wordMx (0#4 ++ x ++ 0#10) 0x02) :=
  encode_of_toNat rfl (by rw [toNat_wordMx]; simp only [toNat_append_add]; simp; omega)
theorem encode_mxr : encode (.mxr n x) = some (wordMx (n ++ x ++ 0#5) 0x03) :=
  encode_of_toNat rfl (by rw [toNat_wordMx]; simp only [toNat_append_add]; simp; omega)
theorem encode_mxdrn : encode (.mxdrn d n) = some (wordMx (d ++ n ++ 0#1) 0x04) :=
  encode_of_toNat rfl (by rw [toNat_wordMx]; simp only [toNat_append_add]; simp; omega)
theorem encode_mxdrs : encode (.mxdrs a n) = some (wordMx (a ++ n ++ 0#1) 0x05) :=
  encode_of_toNat rfl (by rw [toNat_wordMx]; simp only [toNat_append_add]; simp; omega)
theorem encode_mxclr : encode (.mxclr n) = some (wordMx (n ++ 0#6) 0x06) :=
  encode_of_toNat rfl (by rw [toNat_wordMx]; simp only [toNat_append_add]; simp; omega)
theorem encode_mxfclr : encode (.mxfclr x y) = some (wordMx (0#3 ++ x ++ y ++ 0#10) 0x07) :=
  encode_of_toNat rfl (by rw [toNat_wordMx]; simp only [toNat_append_add]; simp; omega)
theorem encode_mxwait : encode .mxwait = some (wordMx 0 0x08) := encode_of_toNat rfl (by rw [toNat_wordMx]; simp)

theorem exec_mxcfg : exec (.mxcfg b) s = execMxcfg b s := rfl
theorem exec_mxtld : exec (.mxtld x y) s = execMxtld x y s := rfl
theorem exec_mxtsel : exec (.mxtsel x) s = execMxtsel x s := rfl
theorem exec_mxr : exec (.mxr n x) s = execMxr n x s := rfl
theorem exec_mxdrn : exec (.mxdrn d n) s = execMxdrn d n s := rfl
theorem exec_mxdrs : exec (.mxdrs a n) s = execMxdrs a n s := rfl
theorem exec_mxclr : exec (.mxclr n) s = execMxclr n s := rfl
theorem exec_mxfclr : exec (.mxfclr x y) s = execMxfclr x y s := rfl
theorem exec_mxwait : exec .mxwait s = execMxwait s := rfl
theorem exec_mezzanineClaim (c : Nat) : exec (.mezzanineClaim c) s = execMezzanineClaim c s := rfl
theorem exec_mxFifoWaitEnd (id : Nat) : exec (.mxFifoWaitEnd id) s = execMxFifoWaitEnd id s := rfl

end

/-! ## What a Mezzanine instruction does at issue and in its turn -/

/-- A Mezzanine instruction with the word `w` and the scalar operand `r` that does `k` when it has the claim. -/
def MxInstr (s : State) (i : Instr) (w : BitVec 32) (r : BitVec 5) (bad : Bool) (k : State → State) : Prop :=
  encode i = some w ∧ exec i s = .next (mxRun s (vop s s.cur w r 0) bad k)

section
variable {s u : State} {i : Instr} {w : BitVec 32} {r : BitVec 5} {bad : Bool} {k : State → State}

theorem MxInstr.traps (h : MxInstr s i w r bad k) : ArrayIssueTraps s i bad := arrayChecks_traps h.2 h.1

theorem MxInstr.turn (h : MxInstr s i w r bad k) (hc : Claims s u) (hh : heldOn (strandOf s s.cur) = false) (hb : bad = false)
    (hn : stNoBays (strandOf s s.cur) = false) (ht : behind (strandOf s s.cur) = false) : exec i s = .next (k u) := by
  rw [h.2, mxRun_turn k hc hh hb hn ht]

theorem MxInstr.queues (h : MxInstr s i w r bad k) (hc : Claims s u) (hh : heldOn (strandOf s s.cur) = false) (hb : bad = false)
    (hn : stNoBays (strandOf s s.cur) = false) (ht : behind (strandOf s s.cur) = true) : ∀ w, encode i = some w →
    ∃ t : State, exec i s = .next t ∧ OnlyStrand u t ∧
      (32 ≤ (arcOf s).viq.length → strandOf t u.cur = { (strandOf u u.cur) with blocked := some .viq }) ∧
      ((arcOf s).viq.length < 32 → ∃ r : BitVec 5, strandOf t u.cur = queued w (reg s s.cur r) 0 (strandOf u u.cur)) :=
  mezz_queues (by rw [h.2, mxRun_behind k hc hh hb hn ht]) hc ht h.1

end

section
variable (s : State) (b : BitVec 5) (n : BitVec 9) (x y : BitVec 1)

theorem mxInstr_mxcfg : MxInstr s (.mxcfg b) (wordMx (0#5 ++ b ++ 0#5) 0x00) b (!mxcfgOk (operand1 s b))
    fun u => finishV (setMxcfg u s.cur (operand1 s b)) s.cur := by
  refine ⟨encode_mxcfg b, (exec_mxcfg s b).trans ?_⟩
  unfold execMxcfg
  dsimp only
  rw [vop_op1]

theorem mxInstr_mxtsel : MxInstr s (.mxtsel x) (wordMx (0#4 ++ x ++ 0#10) 0x02) 0 false
    fun u => finishV (modMezz u (coreIdx s.cur) fun z => { z with act := x == 1 }) s.cur := ⟨encode_mxtsel x, rfl⟩

theorem mxInstr_mxclr : MxInstr s (.mxclr n) (wordMx (n ++ 0#6) 0x06) 0 false
    fun u => finishV (modMezz u (coreIdx s.cur) fun z => { z with acc := tblDel z.acc n.toNat }) s.cur := ⟨encode_mxclr n, rfl⟩

theorem mxInstr_mxfclr : MxInstr s (.mxfclr x y) (wordMx (0#3 ++ x ++ y ++ 0#10) 0x07) 0 (x == 0 && y == 0)
    fun u => finishV (modMezz u (coreIdx s.cur) fun z =>
      { z with fa := if y = 1 then [] else z.fa, ft := if x = 1 then [] else z.ft }) s.cur := ⟨encode_mxfclr x y, rfl⟩

theorem mxInstr_mxwait : MxInstr s .mxwait (wordMx 0 0x08) 0 false fun u => finishV u s.cur := ⟨encode_mxwait, rfl⟩

end

end Sys2Proof.Machine

namespace Sys2Proof.Machine

/-! ## Sums that saturate (R35) -/

/-- A sum is saturated once, with ACCSAT. -/
theorem mxSat_eq (z : Int) : mxSat z = (max (-2 ^ 63) (min z (2 ^ 63 - 1)),
    flagIf (decide (z < -2 ^ 63) || decide (2 ^ 63 ≤ z)) flagACCSAT) := by
  have above : (2 ^ 63 - 1 < z) = (2 ^ 63 ≤ z) := propext Int.sub_one_lt_iff
  have bounds : sBounds 64 = (-2 ^ 63, 2 ^ 63 - 1) := rfl
  rw [mxSat, satInt, bounds, clampInt_eq _ _ _ (by norm_num)]
  simp only [above]

theorem mxSat_flags (z : Nat → Int) (n : Nat) : (flSeq ((List.range n).map fun j => mxSat (z j))).2 =
    if (List.range n).any fun j => decide (z j < -2 ^ 63) || decide (2 ^ 63 ≤ z j) then flagACCSAT else 0 := by
  rw [(flSeq_range _ n).2, ← orFlags_flagIf]
  simp only [mxSat_eq]

/-! ## Tiles and rows (R185, R187) -/

theorem eq_map_listGet {α : Type} (d : α) (l : List α) (n : Nat) (h : l.length = n) : l = (List.range n).map (listGet d l) := by
  subst h
  refine List.ext_getElem (by simp) fun i hi _ => ?_
  simp [listGet, hi]

/-- The beats of a column lie in those of its tile. -/
theorem take_drop_take {α : Type} (l : List α) (n b j : Nat) (h : j < n) :
    ((l.take (n * b)).drop (j * b)).take b = (l.drop (j * b)).take b := by
  have fits : b ≤ n * b - j * b := by
    rw [← Nat.sub_mul]
    exact Nat.le_mul_of_pos_left b (by omega)
  rw [List.drop_take, List.take_take, min_eq_left fits]

/-- R185: the columns of a tile. -/
theorem mxTile_cols (book : BitVec 256) (afmt tfmt : Nat) (dist : Bool) (q : Int) (ft : List Line) :
    let b := mxBeats tfmt (mxK afmt tfmt)
    let col := fun j => mxVector book tfmt (mxK afmt tfmt) ((ft.drop (j * b)).take b)
    (mxTile book afmt tfmt dist q (ft.take (128 * b))).1.cols = (flSeq ((List.range 128).map col)).1 ∧
    (mxTile book afmt tfmt dist q (ft.take (128 * b))).2 = orFlags ((List.range 128).map fun j => (col j).2) |||
      if dist then (flSeq ((List.range 128).map fun j => mxSat (mxDot q (listGet [] (flSeq ((List.range 128).map col)).1 j)
        (listGet [] (flSeq ((List.range 128).map col)).1 j)))).2 else 0 := by
  intro b col
  have cols : ((List.range 128).map fun j => mxVector book tfmt (mxK afmt tfmt) (((ft.take (128 * b)).drop (j * b)).take b)) =
      (List.range 128).map col :=
    List.map_congr_left fun j hj => by rw [take_drop_take _ _ _ _ (List.mem_range.mp hj)]
  obtain ⟨len, flags⟩ := flSeq_range col 128
  unfold mxTile
  dsimp only
  rw [cols, ← flags]
  refine ⟨rfl, ?_⟩
  cases dist with
  | false => rfl
  | true =>
    conv_lhs => rw [eq_map_listGet [] _ 128 len]
    rw [List.map_map]
    rfl

/-- R185: the norm row of a tile. -/
theorem mxTile_norm (book : BitVec 256) (afmt tfmt : Nat) (q : Int) (beats : List Line) :
    let t := (mxTile book afmt tfmt true q beats).1
    ∀ j < 128, listGet 0 t.norm j = (mxSat (mxDot q (listGet [] t.cols j) (listGet [] t.cols j))).1 := by
  intro t j hj
  have norm : t.norm = (flSeq (t.cols.map fun c => mxSat (mxDot q c c))).1 := rfl
  have len : t.cols.length = 128 := (flSeq_range _ 128).1
  rw [norm, eq_map_listGet [] t.cols 128 len, List.map_map]
  exact (listGet_flSeq 0 _ 128 j hj).trans (by rw [← eq_map_listGet [] t.cols 128 len]; rfl)

/-- One flag of some norm, when there are norms. -/
theorem ite_any (x : BitVec 1) (n : Nat) (b : Nat → Bool) (f : Word) (p : Nat → Prop) [Decidable (x = 1 ∧ ∃ j < n, p j)]
    (h : ∀ j, b j = true ↔ p j) :
    (if (x == 1) = true then if (List.range n).any b then f else 0 else 0) = if x = 1 ∧ ∃ j < n, p j then f else 0 := by
  have some : (List.range n).any b = true ↔ ∃ j < n, p j := by simp [List.any_eq_true, h]
  rw [← ite_and]
  simp only [some, beq_iff_eq]

section
variable (u : State) (x y : BitVec 1)

/-- R185: the buffer that a load fills, as it was. -/
def oldTile (m : Mezz) (y : BitVec 1) : Tile := if y = 1 then m.t1 else m.t0

/-- R185: the tile that a load takes from FT, with its flags. -/
def newTile : Fl Tile :=
  let m := mezzOf u u.cur
  mxTile (strandBook u u.cur (mxTcb m.cfg)) (mxAfmt m.cfg) (mxTfmt m.cfg) (x == 1) (mxAccExp m.cfg) (m.ft.take (tileBeats m))

/-- R185: a tile enters its buffer. -/
def loadTile (y : BitVec 1) (n : Nat) (t : Tile) (z : Mezz) : Mezz :=
  { z with ft := z.ft.drop n, t0 := if y = 1 then z.t0 else t, t1 := if y = 1 then t else z.t1 }

theorem tileLoaded :
    TileLoaded u x y
      (loadTile y (tileBeats (mezzOf u u.cur))
        { (newTile u x).1 with norm := if x = 1 then (newTile u x).1.norm else (oldTile (mezzOf u u.cur) y).norm } (mezzOf u u.cur))
      (newTile u x).2 := by
  obtain ⟨cols, flags⟩ := mxTile_cols (strandBook u u.cur (mxTcb (mezzOf u u.cur).cfg)) (mxAfmt (mezzOf u u.cur).cfg)
    (mxTfmt (mezzOf u u.cur).cfg) (x == 1) (mxAccExp (mezzOf u u.cur).cfg) (mezzOf u u.cur).ft
  refine ⟨_, rfl, rfl, rfl, rfl, fun j hj => ?_, fun hx j hj => ?_, fun hx => if_neg hx, ?_⟩
  · exact (congrArg (listGet [] · j) cols).trans (listGet_flSeq [] _ 128 j hj)
  · subst hx
    exact (mxTile_norm _ _ _ _ _ j hj).trans (congrArg Prod.fst (mxSat_eq _))
  · refine flags.trans (congrArg _ ?_)
    dsimp only
    rw [mxSat_flags, ← cols]
    exact ite_any x 128 _ _ _ fun j => by simp only [Bool.or_eq_true, decide_eq_true_eq]; rfl

end

section
variable (u : State) (n : BitVec 9) (x y : BitVec 1)

/-- R187: the row that an MXR takes from FA, with its flags. -/
def newRow : Fl (List LVal) :=
  let m := mezzOf u u.cur
  mxVector (strandBook u u.cur (mxAcb m.cfg)) (mxAfmt m.cfg) (if (activeTile m).wide then 256 else 128) (m.fa.take (rowBeats m))

/-- R187: the accumulators after an MXR, with their flags. -/
def newSums : Fl (List Int) :=
  let m := mezzOf u u.cur
  flSeq ((List.range 128).map fun j =>
    mxSat ((if x = 1 then accAt m n.toNat j else 0) + mxColumn (activeTile m) (mxAccExp m.cfg) (newRow u).1 j))

/-- R187: the sums enter a row of accumulators. -/
def sumRow (n : BitVec 9) (b : Nat) (a : List Int) (z : Mezz) : Mezz := { z with fa := z.fa.drop b, acc := tblSet z.acc n.toNat a }

theorem rowSummed : RowSummed u n x (sumRow n (rowBeats (mezzOf u u.cur)) (newSums u n x).1 (mezzOf u u.cur))
    ((newRow u).2 ||| (newSums u n x).2) := by
  refine ⟨_, rfl, fun j hj => (listGet_flSeq 0 _ 128 j hj).trans (congrArg Prod.fst (mxSat_eq _)), ?_⟩
  rw [newSums, mxSat_flags]
  rfl

/-! ## MXTLD and MXR (R185, R187, R197) -/

theorem mxInstr_mxtld (s : State) : MxInstr s (.mxtld x y) (wordMx (0#3 ++ x ++ y ++ 0#10) 0x01) 0 false fun u =>
    if streamFenced u s.cur 4 then blockOn u s.cur (.remote 4)
    else if (mezzOf u s.cur).ft.length < tileBeats (mezzOf u s.cur) then
      awaitArray u s.cur (vop s s.cur (wordMx (0#3 ++ x ++ y ++ 0#10) 0x01) 0 0) (.mxtld x y)
    else
      let t := newTile { u with cur := s.cur } x
      finishV (raise (modMezz u (coreIdx s.cur) (loadTile y (tileBeats (mezzOf u s.cur))
        { t.1 with norm := if x = 1 then t.1.norm else (oldTile (mezzOf u s.cur) y).norm })) s.cur t.2) s.cur :=
  ⟨encode_mxtld x y, rfl⟩

theorem mxInstr_mxr (s : State) : MxInstr s (.mxr n x) (wordMx (n ++ x ++ 0#5) 0x03) 0 false fun u =>
    if streamFenced u s.cur 4 then blockOn u s.cur (.remote 4)
    else if (mezzOf u s.cur).fa.length < rowBeats (mezzOf u s.cur) then
      awaitArray u s.cur (vop s s.cur (wordMx (n ++ x ++ 0#5) 0x03) 0 0) (.mxr n x)
    else
      let r := newRow { u with cur := s.cur }
      let z := newSums { u with cur := s.cur } n x
      finishV (raise (modMezz u (coreIdx s.cur) (sumRow n (rowBeats (mezzOf u s.cur)) z.1)) s.cur (r.2 ||| z.2)) s.cur :=
  ⟨encode_mxr n x, rfl⟩

end

section
variable {s u : State} (n : BitVec 9) (x y : BitVec 1) (hc : Claims s u) (hh : heldOn (strandOf s s.cur) = false)
  (hn : stNoBays (strandOf s s.cur) = false) (hf : streamFenced u u.cur 4 = false)
include hc hh hn hf

section
variable (ht : behind (strandOf s s.cur) = false)
include ht

theorem mxtld_waits (h : (mezzOf u u.cur).ft.length < tileBeats (mezzOf u u.cur)) : ∀ w, encode (.mxtld x y) = some w →
    ∃ t : State, exec (.mxtld x y) s = .next t ∧ OnlyStrand u t ∧ strandOf t u.cur = waitsOn (.mxtld x y) w 0 0 (strandOf u u.cur) := by
  refine mezz_waits ?_ hc (encode_mxtld x y)
  have he := (mxInstr_mxtld x y s).turn hc hh rfl hn ht
  rw [← hc.cur] at he ⊢
  rw [he, if_neg (by simp [hf]), if_pos h]

theorem mxr_waits (h : (mezzOf u u.cur).fa.length < rowBeats (mezzOf u u.cur)) : ∀ w, encode (.mxr n x) = some w →
    ∃ t : State, exec (.mxr n x) s = .next t ∧ OnlyStrand u t ∧ strandOf t u.cur = waitsOn (.mxr n x) w 0 0 (strandOf u u.cur) := by
  refine mezz_waits ?_ hc (encode_mxr n x)
  have he := (mxInstr_mxr n x s).turn hc hh rfl hn ht
  rw [← hc.cur] at he ⊢
  rw [he, if_neg (by simp [hf]), if_pos h]

end

theorem mxtld_runs (h : tileBeats (mezzOf u u.cur) ≤ (mezzOf u u.cur).ft.length) :
    ∃ m' fl, TileLoaded u x y m' fl ∧ (behind (strandOf s s.cur) = false → MezzRuns u (.mxtld x y) s m' fl) := by
  refine ⟨_, _, tileLoaded u x y, fun ht => mezzRuns_raise _ _ ?_⟩
  have he := (mxInstr_mxtld x y s).turn hc hh rfl hn ht
  rw [← hc.cur] at he
  rw [he, if_neg (by simp [hf]), if_neg (by omega)]

theorem mxr_runs (h : rowBeats (mezzOf u u.cur) ≤ (mezzOf u u.cur).fa.length) :
    ∃ m' fl, RowSummed u n x m' fl ∧ (behind (strandOf s s.cur) = false → MezzRuns u (.mxr n x) s m' fl) := by
  refine ⟨_, _, rowSummed u n x, fun ht => mezzRuns_raise _ _ ?_⟩
  have he := (mxInstr_mxr n x s).turn hc hh rfl hn ht
  rw [← hc.cur] at he
  rw [he, if_neg (by simp [hf]), if_neg (by omega)]

end

end Sys2Proof.Machine

namespace Sys2Proof.Machine

/-! ## What the claim rests on (R173) -/

/-- The Mezzanines and what strands wait for are the same. -/
structure SameClaims (s u : State) : Prop where
  mezz : ∀ c, (coreOf u c).mezz = (coreOf s c).mezz
  blocked : ∀ j, (strandOf u j).blocked = (strandOf s j).blocked
  issuer : ∀ j, (strandOf u j).issuer = (strandOf s j).issuer

/-- R120: a swap does not touch the claims. -/
theorem swapRel_sameClaims (id : Nat) : SwapRel id SameClaims := by
  have arc : ∀ s f, SameClaims s (modArc s id f) := fun s f => by
    refine ⟨fun _ => rfl, fun j => ?_, fun j => ?_⟩ <;>
    · by_cases h : j = id
      · subst h
        rw [strandOf_modArc]
      · rw [modArc, strandOf_modStrand_ne _ _ _ _ h]
  have core : ∀ s c k, k.mezz = (coreOf s c).mezz → SameClaims s (setCore s c k) := fun s c k h =>
    ⟨fun d => by
      by_cases hd : d = c
      · subst hd
        rw [coreOf_setCore, h]
      · rw [coreOf_setCore_ne _ _ _ _ hd], fun _ => rfl, fun _ => rfl⟩
  have trans : ∀ s t u, SameClaims s t → SameClaims t u → SameClaims s u := fun s t u h g =>
    ⟨fun c => (g.mezz c).trans (h.mezz c), fun j => (g.blocked j).trans (h.blocked j), fun j => (g.issuer j).trans (h.issuer j)⟩
  refine ⟨trans, fun s u h => ⟨fun c => ?_, fun j => ?_, fun j => ?_⟩, fun s i q => arc s _, fun s i r vals => ?_, fun s regs => arc s _⟩
  · rw [coreOf, h.2, coreOf]
  · rw [strandOf_congr h.1]
  · rw [strandOf_congr h.1]
  · have healed : SameClaims s (healSlots s id [2 * i, 2 * i + 1]) := core s _ _ rfl
    unfold fillPair
    dsimp only
    refine trans _ _ _ (trans _ _ _ healed ?_) (arc _ _)
    exact core _ _ _ rfl

section
variable {s u : State} (h : SameClaims s u)
include h

theorem SameClaims.owns (id : Nat) : ownsMezz u id = ownsMezz s id := by
  unfold ownsMezz
  rw [h.mezz, h.issuer]

theorem SameClaims.waiters (c : Nat) : claimWaiters u c = claimWaiters s c := by
  unfold claimWaiters
  rw [h.mezz]
  exact List.filter_congr fun k _ => by rw [h.blocked]

theorem SameClaims.may (id : Nat) : mayClaim u id = mayClaim s id := by
  unfold mayClaim
  rw [h.mezz, h.waiters]

end

/-- R173: a strand that holds or takes the claim need not wait for it. -/
theorem Claims.free {s u : State} (h : Claims s u) : (!ownsMezz s s.cur && !mayClaim s s.cur) = false := by
  obtain ⟨own, -⟩ | ⟨none, first, -⟩ := h
  · simp [own]
  · simp [mayClaim_free s none first]

/-! ## The Mezzanine among what an instruction changes -/

theorem Partly.trans {u x y : State} {fl fl' : Word} (h : Partly u x fl) (g : Partly x y fl') : Partly u y (fl ||| fl') := by
  obtain ⟨p, m, q, core⟩ := h.core
  obtain ⟨p', m', q', core'⟩ := g.core
  obtain ⟨a, strand⟩ := h.strand
  obtain ⟨b, strand'⟩ := g.strand
  have others := g.others
  have cores := g.cores
  rw [h.cur] at core' strand' others cores
  refine ⟨g.agenda.trans h.agenda, g.cur.trans h.cur, fun j hj => (others j hj).trans (h.others j hj),
    fun c hc => (cores c hc).trans (h.cores c hc), ⟨p', m', q', by rw [core', core]⟩, g.dies.trans h.dies,
    ⟨b, by rw [strand', strand, BitVec.or_assoc]⟩, ?_⟩
  rw [g.arc, h.arc]

theorem partly_modMezz (u : State) (f : Mezz → Mezz) : Partly u (modMezz u (coreIdx u.cur) f) 0 :=
  ⟨rfl, rfl, fun _ _ => rfl, fun c hc => by rw [modMezz, coreOf_setCore_ne _ _ _ _ hc],
    ⟨_, _, _, by rw [modMezz, coreOf_setCore]⟩, rfl, ⟨(strandOf u u.cur).hostAnswer, by rw [or_zero_word]; rfl⟩, rfl⟩

/-! ## MXDRN (R189, R190, R198, R228) -/

section
variable (s : State) (d : BitVec 5) (n : BitVec 9)

/-- R189: what MXDRN writes, with the claim. -/
def drainParts (o : Vop) (d : BitVec 5) (n : BitVec 9) (id : Nat) (u : State) : State :=
  let v := envOf (strandOf u id).arc none
  let m := mezzOf u id
  let c := m.cfg
  let acc := accAt m n.toNat
  let val := fun i => accVal (acc i) (mxAccExp c)
  let w0 := vecPart u v d fun e => (drainIndex v.a c e).map (drainElem v.a c acc)
  let w1 := if typeScaled v.a then vecPart w0 v 31 fun e =>
      (drainIndex v.a c e).map fun j => let r := drainScale v.a c val j; (BitVec.ofNat 64 r.1, r.2)
    else w0
  let w2 := modMezz w1 (coreIdx id) fun z => { z with cfg := advanceBase z.cfg }
  vecEnd w2 o v 0 fun b => if typeScaled v.a then { b with mfmt := setFld b.mfmt 7 1 1 } else b

/-- R189, R198: MXDRN in its turn, with LANE below VL. -/
def drainTurn (o : Vop) (d : BitVec 5) (n : BitVec 9) : State :=
  if !ownsMezz s s.cur && !mayClaim s s.cur then awaitClaim s s.cur
  else vecTouch s s.cur o (d :: if typeScaled (arcOf s) then [31] else []) [] fun u => claimThen u s.cur (drainParts o d n s.cur)

/-- The word of an MXDRN with its operands, of which it has none. -/
abbrev drainOp : Vop := vop s s.cur (wordMx (d ++ n ++ 0#1) 0x04) 0 0

theorem exec_mxdrn_eq : exec (.mxdrn d n) s = .next
    (if behind (strandOf s s.cur) then mxRun s (drainOp s d n) (badDrain (arcOf s) (mxcfgSeen s s.cur) d) fun u => u
    else vecIssue s s.cur (drainOp s d n) (badDrain (arcOf s) (mxcfgSeen s s.cur) d) (drainTurn s (drainOp s d n) d n)) := rfl

theorem mxdrn_traps : ArrayIssueTraps s (.mxdrn d n) (badDrain (arcOf s) (mxcfgSeen s s.cur) d) := by
  have he := exec_mxdrn_eq s d n
  split at he
  · exact arrayChecks_traps he (encode_mxdrn d n)
  · exact arrayChecks_traps he (encode_mxdrn d n)

theorem mxdrn_queues {u : State} (hc : Claims s u) (hh : heldOn (strandOf s s.cur) = false)
    (hb : badDrain (arcOf s) (mxcfgSeen s s.cur) d = false) (hn : stNoBays (strandOf s s.cur) = false)
    (ht : behind (strandOf s s.cur) = true) : ∀ w, encode (.mxdrn d n) = some w →
    ∃ t : State, exec (.mxdrn d n) s = .next t ∧ OnlyStrand u t ∧
      (32 ≤ (arcOf s).viq.length → strandOf t u.cur = { (strandOf u u.cur) with blocked := some .viq }) ∧
      ((arcOf s).viq.length < 32 → ∃ r : BitVec 5, strandOf t u.cur = queued w (reg s s.cur r) 0 (strandOf u u.cur)) :=
  mezz_queues (by rw [exec_mxdrn_eq, if_pos ht, mxRun_behind _ hc hh hb hn ht]) hc ht (encode_mxdrn d n)

/-- R228: with LANE at or beyond VL nothing is drained. -/
theorem mxdrn_beyond (hh : heldOn (strandOf s s.cur) = false) (hb : badDrain (arcOf s) (mxcfgSeen s s.cur) d = false)
    (hn : stNoBays (strandOf s s.cur) = false) (ht : behind (strandOf s s.cur) = false) (h0 : 0 < (arcOf s).lane)
    (hl : (arcOf s).vl ≤ (arcOf s).lane) :
    Completes s (.mxdrn d n) fun t => stepped 0 { t with arc := { t.arc with chainIn := none } } := by
  have he := exec_mxdrn_eq s d n
  rw [if_neg (by simp [ht])] at he
  exact vecIssue_beyond he hh hb hn ht h0 hl

end

end Sys2Proof.Machine

namespace Sys2Proof.Machine

/-! ## Elements written, in parts (R116) -/

/-- Elements of registers have been written, with the flags `fl`, and nothing else of the machine has changed but parity. -/
structure ElementsPut (u x : State) (fl : Word) : Prop extends Partly u x fl where
  frame : x = { u with strands := x.strands, cores := x.cores }
  parity : ∃ p, coreOf x (coreIdx u.cur) = { coreOf u (coreIdx u.cur) with parity := p }
  side : SameSide u x

theorem elementsPut_vecPart (u : State) (v : VEnv) (d : BitVec 5) (f : Nat → Option (Fl Word)) :
    ElementsPut u (vecPart u v d f) (flagsOf v f) :=
  ⟨partly_vecPart u v d f, (vecPart_frame u v d f).1, (vecPart_frame u v d f).2.1, sameSide_vecPart u v d f⟩

theorem ElementsPut.trans {u x y : State} {fl fl' : Word} (h : ElementsPut u x fl) (g : ElementsPut x y fl') : ElementsPut u y (fl ||| fl') := by
  obtain ⟨p, hp⟩ := h.parity
  obtain ⟨q, hq⟩ := g.parity
  obtain ⟨m, c, r⟩ := h.side
  obtain ⟨m', c', r'⟩ := g.side
  rw [h.cur] at hq
  exact ⟨h.toPartly.trans g.toPartly, by rw [g.frame, h.frame], ⟨q, by rw [hq, hp]⟩, m'.trans m, c'.trans c, r'.trans r⟩

/-- The Mezzanine and a field of MFMT change after elements have been written, and the instruction completes. -/
theorem drain_end {u x : State} {fl : Word} (h : ElementsPut u x fl) (o : Vop) (v : VEnv) (f : Mezz → Mezz) (q : Word → Word) :
    let t := vecEnd (modMezz x (coreIdx u.cur) f) o v 0 fun b => { b with mfmt := q b.mfmt }
    VecRan u t v fl ∧ SameSide u t ∧ t.mem = u.mem ∧ t.clusters = u.clusters ∧ t.pkg = u.pkg ∧ t.net = u.net ∧
    mezzOf t u.cur = f (mezzOf u u.cur) ∧ (arcOf t).regs = (arcOf x).regs ∧ (arcOf t).mfmt = q (arcOf x).mfmt := by
  intro t
  have side : SideOnly fun b => { b with mfmt := q b.mfmt } := fun _ => rfl
  have mezz := partly_modMezz x f
  rw [h.cur] at mezz
  have ran : VecRan u t v (fl ||| 0 ||| 0) := vecRan_vecEnd (h.toPartly.trans mezz) side
  rw [or_zero_word, or_zero_word] at ran
  have cur : (modMezz x (coreIdx u.cur) f).cur = u.cur := h.cur
  obtain ⟨y, charged, frame⟩ := vecEnd_frame (modMezz x (coreIdx u.cur) f) o v 0 fun b => { b with mfmt := q b.mfmt }
  have arc : arcOf t = _ := arcOf_vecEnd (modMezz x (coreIdx u.cur) f) o v 0 fun b => { b with mfmt := q b.mfmt }
  have same : arcOf (modMezz x (coreIdx u.cur) f) = arcOf x := rfl
  rw [same] at arc
  rw [cur] at charged
  obtain ⟨e, core⟩ := charged.core
  obtain ⟨p, parity⟩ := h.parity
  obtain ⟨masks, books, results⟩ := h.side
  have rest := charged.rest
  have whole := h.frame
  have tcore : coreOf t (coreIdx u.cur) = coreOf y (coreIdx u.cur) := by
    show coreOf (vecEnd _ _ _ _ _) _ = _
    rw [frame]
    rfl
  have tmem : t.mem = u.mem ∧ t.clusters = u.clusters ∧ t.pkg = u.pkg ∧ t.net = u.net := by
    show (vecEnd _ _ _ _ _).mem = _ ∧ (vecEnd _ _ _ _ _).clusters = _ ∧ (vecEnd _ _ _ _ _).pkg = _ ∧ (vecEnd _ _ _ _ _).net = _
    rw [frame, rest, whole]
    exact ⟨rfl, rfl, rfl, rfl⟩
  obtain ⟨hm, hk, hp, hn⟩ := tmem
  refine ⟨ran, ?_, hm, hk, hp, hn, ?_, ?_, ?_⟩
  · unfold SameSide
    rw [arc]
    exact ⟨masks, books, results⟩
  · unfold mezzOf
    rw [tcore, core, modMezz, coreOf_setCore, parity]
  · rw [arc]
    rfl
  · rw [arc]
    rfl

section
variable (u : State) (v : VEnv) (d : BitVec 5) (f : Nat → Option (Fl Word))

theorem elems_vecPart (e : Nat) (he : e < vlmaxOf (arcOf u)) : elemW (arcOf (vecPart u v d f)) d.toNat e =
    if e < v.a.vl then ((f e).map (·.1)).getD (elemW (arcOf u) d.toNat e) else elemW (arcOf u) d.toNat e := by
  have same := elemW_congr (writeElems { (arcOf u) with vl := v.a.vl } d.toNat fun e => (f e).map (·.1)) (arcOf (vecPart u v d f))
    (by rw [arcOf_vecPart]; rfl) (by rw [arcOf_vecPart]; rfl) (by rw [arcOf_vecPart]; rfl) (by rw [arcOf_vecPart]) d.toNat e
  exact same.trans (elemW_writeElems { (arcOf u) with vl := v.a.vl } _ _ e he)

theorem regs_vecPart_ne (r : Nat) (h : r < d.toNat ∨ d.toNat + vG (arcOf u) ≤ r) :
    listGet [] (arcOf (vecPart u v d f)).regs r = listGet [] (arcOf u).regs r := by
  rw [arcOf_vecPart]
  exact regs_writeElems_ne { (arcOf u) with vl := v.a.vl } d.toNat (fun e => (f e).map (·.1)) r h

theorem shape_vecPart : vG (arcOf (vecPart u v d f)) = vG (arcOf u) ∧ vlmaxOf (arcOf (vecPart u v d f)) = vlmaxOf (arcOf u) := by
  rw [arcOf_vecPart]
  exact ⟨rfl, rfl⟩

end

/-- Of a register that is no group the elements are those of the register. -/
theorem elemW_register {a b : Arcade} (hg : vG a = 1) (bays : b.bays = a.bays) (retired : b.snapRetired = a.snapRetired)
    (vcfg : b.vcfg = a.vcfg) (d : Nat) (h : listGet [] b.regs d = listGet [] a.regs d) (e : Nat) : elemW b d e = elemW a d e := by
  rw [elemW_congr { a with regs := b.regs } b bays retired vcfg rfl]
  have shape : lanesOf { a with regs := b.regs } = lanesOf a ∧ vlmaxOf { a with regs := b.regs } = vlmaxOf a := ⟨rfl, rfl⟩
  unfold elemW
  rw [shape.1, shape.2]
  by_cases he : e < vlmaxOf a
  · have lanes : e / lanesOf a = 0 := Nat.div_eq_of_lt (by simpa [vlmaxOf, hg] using he)
    rw [if_pos he, if_pos he, lanes, Nat.add_zero, h]
  · rw [if_neg he, if_neg he]

/-- R189, R190: elements of `d` and then of another register, v31. -/
theorem two_parts (u : State) (v : VEnv) (d b : BitVec 5) (f g : Nat → Option (Fl Word)) (hg : vG (arcOf u) = 1) (hd : d ≠ b)
    (hl : vlmaxOf v.a = vlmaxOf (arcOf u)) :
    let x := vecPart (vecPart u v d f) v b g
    (∀ e < vlmaxOf v.a, elemW (arcOf x) d.toNat e =
      if e < v.a.vl then ((f e).map (·.1)).getD (elemW (arcOf u) d.toNat e) else elemW (arcOf u) d.toNat e) ∧
    (∀ e < vlmaxOf v.a, elemW (arcOf x) b.toNat e =
      if e < v.a.vl then ((g e).map (·.1)).getD (elemW (arcOf u) b.toNat e) else elemW (arcOf u) b.toNat e) ∧
    ∀ r, r ≠ d.toNat → r ≠ b.toNat → listGet [] (arcOf x).regs r = listGet [] (arcOf u).regs r := by
  intro x
  have ne : d.toNat ≠ b.toNat := fun h => hd (BitVec.eq_of_toNat_eq h)
  obtain ⟨shape, len⟩ := shape_vecPart u v d f
  have first : ∀ r, r ≠ d.toNat → listGet [] (arcOf (vecPart u v d f)).regs r = listGet [] (arcOf u).regs r := fun r hr =>
    regs_vecPart_ne u v d f r (by rw [hg]; omega)
  have second : ∀ r, r ≠ b.toNat → listGet [] (arcOf x).regs r = listGet [] (arcOf (vecPart u v d f)).regs r := fun r hr =>
    regs_vecPart_ne _ v b g r (by rw [shape, hg]; omega)
  refine ⟨fun e he => ?_, fun e he => ?_, fun r hr hb => (second r hb).trans (first r hr)⟩
  · rw [hl] at he
    rw [← elems_vecPart u v d f e he]
    exact elemW_register (by rw [shape, hg]) (by unfold x; rw [arcOf_vecPart]) (by unfold x; rw [arcOf_vecPart])
      (by unfold x; rw [arcOf_vecPart]) _ (second _ ne) e
  · rw [hl] at he
    have before : elemW (arcOf (vecPart u v d f)) b.toNat e = elemW (arcOf u) b.toNat e :=
      elemW_register hg (by rw [arcOf_vecPart]) (by rw [arcOf_vecPart]) (by rw [arcOf_vecPart]) _ (first _ (Ne.symm ne)) e
    have elems := elems_vecPart (vecPart u v d f) v b g e (by rw [len]; exact he)
    rw [before] at elems
    exact elems

end Sys2Proof.Machine

namespace Sys2Proof.Machine

/-! ## MXDRN in its turn (R189, R190) -/

section
variable {s u c : State} {d : BitVec 5} {n : BitVec 9} {v : VEnv}

/-- R198: a drain that is ready and has the claim writes its elements. -/
theorem mxdrn_ready (hh : heldOn (strandOf s s.cur) = false) (hb : badDrain (arcOf s) (mxcfgSeen s s.cur) d = false)
    (hr : VecReady s (if typeScaled (arcOf s) then [d, 31] else [d]) [] u v) (hc : Claims u c) :
    exec (.mxdrn d n) s = .next (drainParts (drainOp s d n) d n s.cur c) := by
  obtain ⟨w, chain, touch⟩ := hr.chain
  obtain rfl : w = s := by
    obtain ⟨-, hw, -⟩ | ⟨off, -⟩ | ⟨off, -⟩ := chain
    · exact hw
    · exact absurd off (by simp)
    · exact absurd off (by simp)
  have same : SameClaims w u := (swapRel_sameClaims w.cur).touchRegs w u _ touch
  have free := hc.free
  rw [hr.cur, same.owns, same.may] at free
  have lane : laneBeyond (strandOf w w.cur).arc = false := by
    have := hr.lane
    unfold arcOf at this
    simp only [laneBeyond, Bool.and_eq_false_iff, decide_eq_false_iff_not]
    omega
  have named : namedRegs w (if typeScaled (arcOf w) then [d, 31] else [d]) [] = d :: if typeScaled (arcOf w) then [31] else [] := by
    cases typeScaled (arcOf w) <;> rfl
  have run := hc.runs (drainParts (drainOp w d n) d n w.cur)
  rw [named] at touch
  rw [hr.cur] at run
  rw [exec_mxdrn_eq, if_neg (by simp [hr.turn]), vecIssue, arrayIssue_turn _ _ _ _ _ hh hb hr.bays hr.turn,
    if_neg (by simp [lane]), drainTurn, if_neg (by simp [free]), vecTouch, touch]
  dsimp only
  rw [parityHit_none _ _ [] (by simp)]
  dsimp only
  rw [run]

end

/-! ### The elements of a drain -/

/-- R189, R228: the elements that a drain writes, where they lie below VL. -/
def drained (a : Arcade) (b : Nat) (e : Nat) : Bool := decide (a.lane ≤ e) && decide (b ≤ e) && decide (e < b + 128)

theorem drainIndex_eq (a : Arcade) (c : Word) (e : Nat) :
    drainIndex a c e = if drained a (128 * mxDbase c) e then some (e - 128 * mxDbase c) else none := by
  simp only [drainIndex, drained, Bool.and_eq_true, decide_eq_true_eq, and_assoc]

/-- The drained elements below VL of which `p` holds, by their accumulators. -/
theorem filter_drained (a : Arcade) (b : Nat) (p : Nat → Bool) :
    ((List.range a.vl).filter (drained a b)).filter (fun e => p (e - b)) =
      ((List.range 128).filter fun i => decide (a.lane ≤ b + i) && decide (b + i < a.vl) && p i).map (b + ·) := by
  refine List.Pairwise.eq_of_mem_iff (r := (· < ·)) ?_ ?_ fun e => ?_
  · exact (List.pairwise_lt_range.filter _).filter _
  · exact List.Pairwise.map _ (fun x y h => by omega) (List.pairwise_lt_range.filter _)
  · simp only [List.mem_filter, List.mem_map, List.mem_range, drained, Bool.and_eq_true, decide_eq_true_eq]
    constructor
    · rintro ⟨⟨vl, ⟨lane, low⟩, high⟩, hp⟩
      exact ⟨e - b, ⟨by omega, ⟨by omega, by omega⟩, hp⟩, by omega⟩
    · rintro ⟨i, ⟨hi, ⟨lane, vl⟩, hp⟩, rfl⟩
      exact ⟨⟨vl, ⟨lane, by omega⟩, by omega⟩, by rw [Nat.add_sub_cancel_left]; exact hp⟩

/-- R190: the scale of a drained element comes from the drained elements of its block. -/
theorem drainScale_eq (a : Arcade) (c : Word) (val : Nat → Val) (e : Nat) :
    let b := 128 * mxDbase c
    let block := fun e => (e - b) / scaleBlock (fmtScale (vType a))
    drainScale a c val (e - b) = blockScale (mBook a) (vType a)
      ((((List.range a.vl).filter (drained a b)).filter fun f => block f == block e).map fun f => val (f - b)) := by
  intro b block
  have list := filter_drained a b fun i => i / scaleBlock (fmtScale (vType a)) == block e
  unfold drainScale
  dsimp only
  rw [list, List.map_map]
  congr 1
  exact List.map_congr_left fun i _ => congrArg val (Nat.add_sub_cancel_left b i).symm

theorem orFlags_or {α : Type} (l : List α) (f g : α → Word) :
    orFlags (l.map fun x => f x ||| g x) = orFlags (l.map f) ||| orFlags (l.map g) := by
  induction l with
  | nil => exact (or_zero_word 0).symm
  | cons x l ih =>
    simp only [List.map_cons, orFlags_cons, ih]
    ac_rfl

/-! ### What a drain leaves -/

theorem typeScaled_congr {a b : Arcade} (h : b.vcfg = a.vcfg) : typeScaled b = typeScaled a := by
  unfold typeScaled vType
  rw [h]

theorem vG_congr {a b : Arcade} (h : b.vcfg = a.vcfg) : vG b = vG a := by
  unfold vG
  rw [h]

/-- R190: into a scaled TYPE no groups are drained, and v31 is no destination. -/
theorem badDrain_scaled {a : Arcade} {c : Word} {d : BitVec 5} (h : badDrain a c d = false) (hs : typeScaled a = true) :
    vG a = 1 ∧ d ≠ 31 := by
  simp only [badDrain, hs, Bool.or_eq_false_iff, Bool.true_and] at h
  obtain ⟨-, hg, hd⟩ := h
  exact ⟨by simpa [grouped] using hg, by simpa using hd⟩

/-- R116: what the registers hold after a vector instruction ran that has written the elements that `f` names. -/
theorem VecRan.wrote {c t : State} {v : VEnv} {fl : Word} {d : Nat} {f : Nat → Option Word} (h : VecRan c t v fl) (own : OwnLength c v)
    (regs : (arcOf t).regs = (writeElems { (arcOf c) with vl := v.a.vl } d f).regs) : Wrote c t v d f := by
  refine wrote_of_arc own regs ?_
  obtain ⟨r, w, m, b, q, e, x, y, z, k, arc⟩ : ∃ r w m b q e x y z k, arcOf t =
      { arcOf c with regs := r, written := w, masks := m, codebooks := b, mfmt := q, results := e, lane := x, part := y,
                     viq := z, chainIn := k } := ⟨_, _, _, _, _, _, _, _, _, _, h.arc⟩
  rw [arc]

section
variable (c : State) (o : Vop) (d : BitVec 5) (v : VEnv) (f g : Nat → Option (Fl Word)) (own : OwnLength c v)
  (h : Mezz → Mezz)
include own

/-- R189: a drain into a TYPE without scales. -/
theorem drain_plain :
    let t := vecEnd (modMezz (vecPart c v d f) (coreIdx c.cur) h) o v 0 fun b => b
    VecRan c t v (flagsOf v f) ∧ SameSide c t ∧ t.mem = c.mem ∧ t.clusters = c.clusters ∧ t.pkg = c.pkg ∧ t.net = c.net ∧
    mezzOf t c.cur = h (mezzOf c c.cur) ∧ Wrote c t v d.toNat fun e => (f e).map (·.1) := by
  obtain ⟨ran, side, mem, clusters, pkg, net, mezz, regs, -⟩ := drain_end (elementsPut_vecPart c v d f) o v h id
  refine ⟨ran, side, mem, clusters, pkg, net, mezz, ran.wrote own ?_⟩
  rw [arcOf_vecPart] at regs
  exact regs

/-- R190: a drain into a scaled TYPE. -/
theorem drain_scaled (hg : vG (arcOf c) = 1) (hd : d ≠ 31) :
    let t := vecEnd (modMezz (vecPart (vecPart c v d f) v 31 g) (coreIdx c.cur) h) o v 0
      fun b => { b with mfmt := setFld b.mfmt 7 1 1 }
    VecRan c t v (flagsOf v f ||| flagsOf v g) ∧ SameSide c t ∧ t.mem = c.mem ∧ t.clusters = c.clusters ∧ t.pkg = c.pkg ∧
    t.net = c.net ∧ mezzOf t c.cur = h (mezzOf c c.cur) ∧ (arcOf t).mfmt = setFld (arcOf c).mfmt 7 1 1 ∧
    (∀ e < vlmaxOf v.a, elemW (arcOf t) d.toNat e =
      if e < v.a.vl then ((f e).map (·.1)).getD (elemW (arcOf c) d.toNat e) else elemW (arcOf c) d.toNat e) ∧
    (∀ e < vlmaxOf v.a, elemW (arcOf t) 31 e =
      if e < v.a.vl then ((g e).map (·.1)).getD (elemW (arcOf c) 31 e) else elemW (arcOf c) 31 e) ∧
    ∀ r, r ≠ d.toNat → r ≠ 31 → listGet [] (arcOf t).regs r = listGet [] (arcOf c).regs r := by
  intro t
  have both := (elementsPut_vecPart c v d f).trans (elementsPut_vecPart (vecPart c v d f) v 31 g)
  have vl : vlmaxOf v.a = vlmaxOf (arcOf c) := by
    obtain ⟨n, hn⟩ := own
    rw [hn]
    rfl
  obtain ⟨ran, side, mem, clusters, pkg, net, mezz, regs, mfmt⟩ := drain_end both o v h fun x => setFld x 7 1 1
  obtain ⟨elems, scales, others⟩ := two_parts c v d 31 f g hg hd vl
  have bays : (arcOf t).bays = (arcOf c).bays := (congrArg Arcade.bays ran.arc :)
  have retired : (arcOf t).snapRetired = (arcOf c).snapRetired := (congrArg Arcade.snapRetired ran.arc :)
  have vcfg : (arcOf t).vcfg = (arcOf c).vcfg := (congrArg Arcade.vcfg ran.arc :)
  have bays' := (congrArg Arcade.bays both.arc :)
  have retired' := (congrArg Arcade.snapRetired both.arc :)
  have vcfg' := (congrArg Arcade.vcfg both.arc :)
  have same := elemW_congr _ (arcOf t) (bays.trans bays'.symm) (retired.trans retired'.symm) (vcfg.trans vcfg'.symm) regs
  refine ⟨ran, side, mem, clusters, pkg, net, mezz, mfmt.trans ?_, fun e he => ?_, fun e he => ?_, fun r hr h31 => ?_⟩
  · rw [arcOf_vecPart]
    refine (setFld_scaleCleared _ v 31 _ 1).trans ?_
    rw [arcOf_vecPart]
    exact setFld_scaleCleared c v d.toNat _ 1
  · rw [same]
    exact elems e he
  · rw [same]
    exact scales e he
  · rw [← others r hr h31]
    exact congrArg (listGet [] · r) regs

end

end Sys2Proof.Machine

namespace Sys2Proof.Machine

/-! ## The elements and scales of a drain, as values (R189, R190) -/

section
variable (a : Arcade) (c : Word) (acc : Nat → Int)

/-- R189: the value of a drained element. -/
def drainVal (e : Nat) : Val := accVal (acc (e - 128 * mxDbase c)) (mxAccExp c)

/-- R190: the scale of the block of a drained element. -/
def blockDrained (e : Nat) : Fl Nat :=
  let block := fun e => (e - 128 * mxDbase c) / scaleBlock (fmtScale (vType a))
  blockScale (mBook a) (vType a)
    ((((List.range a.vl).filter (drained a (128 * mxDbase c))).filter fun f => block f == block e).map (drainVal c acc))

/-- R189, R190: a drained element in TYPE. -/
def elemDrained (e : Nat) : Fl Nat :=
  quantise (mBook a) (vType a) (vW a) (typeScaled a) (if typeScaled a then (blockDrained a c acc e).1 else 0) (drainVal c acc e)

/-- R189: what is written of a drained element. -/
def wordDrained (e : Nat) : Word :=
  if mxDraw c then BitVec.ofInt 64 (acc (e - 128 * mxDbase c)) else laneValue (vWe a) (elemDrained a c acc e).1

/-- Its flags. -/
def flagDrained (e : Nat) : Word := if mxDraw c then 0 else (elemDrained a c acc e).2

theorem drainScale_drained (e : Nat) :
    drainScale a c (fun i => accVal (acc i) (mxAccExp c)) (e - 128 * mxDbase c) = blockDrained a c acc e := drainScale_eq a c _ e

theorem drainElem_drained (e : Nat) :
    drainElem a c acc (e - 128 * mxDbase c) = (wordDrained a c acc e, flagDrained a c acc e) := by
  unfold drainElem wordDrained flagDrained elemDrained
  dsimp only
  rw [drainScale_drained]
  cases mxDraw c <;> rfl

theorem drained_elems : (fun e => (drainIndex a c e).map (drainElem a c acc)) =
    fun e => if drained a (128 * mxDbase c) e then some (wordDrained a c acc e, flagDrained a c acc e) else none := by
  funext e
  rw [drainIndex_eq]
  split
  · rw [Option.map_some, drainElem_drained]
  · rfl

theorem drained_scales : (fun e => (drainIndex a c e).map fun j =>
      let r := drainScale a c (fun i => accVal (acc i) (mxAccExp c)) j; (BitVec.ofNat 64 r.1, r.2)) =
    fun e => if drained a (128 * mxDbase c) e then
      some (BitVec.ofNat 64 (blockDrained a c acc e).1, (blockDrained a c acc e).2) else none := by
  funext e
  rw [drainIndex_eq]
  split
  · rw [Option.map_some, drainScale_drained]
  · rfl

/-- The words that a condition names. -/
theorem words_ite (p : Nat → Bool) (w fl : Nat → Word) :
    (fun e => (if p e then some (w e, fl e) else none : Option (Fl Word)).map (·.1)) = fun e => if p e then some (w e) else none := by
  funext e
  cases p e <;> rfl

theorem getD_ite (p q : Bool) (w x : Word) :
    (if q then (if p then some w else none).getD x else x) = if p && q then w else x := by
  cases p <;> cases q <;> rfl

end

section
variable {s u c : State} {d : BitVec 5} {n : BitVec 9} {v : VEnv}

/-- R189, R190, R198: MXDRN of a strand that is ready and has the claim. -/
theorem mxdrn_drains (hh : heldOn (strandOf s s.cur) = false) (hb : badDrain (arcOf s) (mxcfgSeen s s.cur) d = false)
    (hr : VecReady s (if typeScaled (arcOf s) then [d, 31] else [d]) [] u v) (hc : Claims u c) :
    let m := mezzOf c c.cur
    let acc := accAt m n.toNat
    let here := drained v.a (128 * mxDbase m.cfg)
    ∃ t, exec (.mxdrn d n) s = .next t ∧
      VecRan c t v (orFlags (((List.range v.a.vl).filter here).map fun e =>
        flagDrained v.a m.cfg acc e ||| if typeScaled v.a then (blockDrained v.a m.cfg acc e).2 else 0)) ∧
      SameSide c t ∧ t.mem = c.mem ∧ t.clusters = c.clusters ∧ t.pkg = c.pkg ∧ t.net = c.net ∧
      mezzOf t c.cur = { m with cfg := advanceBase m.cfg } ∧
      (typeScaled v.a = false → Wrote c t v d.toNat fun e => if here e then some (wordDrained v.a m.cfg acc e) else none) ∧
      (typeScaled v.a = true → (arcOf t).mfmt = setFld (arcOf c).mfmt 7 1 1 ∧
        (∀ e < vlmaxOf v.a, elemW (arcOf t) d.toNat e =
          if here e && decide (e < v.a.vl) then wordDrained v.a m.cfg acc e else elemW (arcOf c) d.toNat e) ∧
        (∀ e < vlmaxOf v.a, elemW (arcOf t) 31 e =
          if here e && decide (e < v.a.vl) then BitVec.ofNat 64 (blockDrained v.a m.cfg acc e).1 else elemW (arcOf c) 31 e) ∧
        ∀ r, r ≠ d.toNat → r ≠ 31 → listGet [] (arcOf t).regs r = listGet [] (arcOf c).regs r) := by
  intro m acc here
  have run := mxdrn_ready (n := n) hh hb hr hc
  have cur : c.cur = s.cur := hc.cur.trans hr.cur
  have env : v = envOf (strandOf c c.cur).arc none := by
    obtain ⟨w, ⟨-, -, none⟩ | ⟨off, -⟩ | ⟨off, -⟩, -⟩ := hr.chain
    · have arc : (strandOf c c.cur).arc = arcOf u := hc.arc
      rw [arc, ← none, ← hr.env]
    · exact absurd off (by simp)
    · exact absurd off (by simp)
  have own : OwnLength c v := ⟨_, by rw [env]; rfl⟩
  have same : typeScaled v.a = typeScaled (arcOf s) := typeScaled_congr hr.vcfg
  rw [← cur] at run
  unfold drainParts at run
  rw [← env] at run
  dsimp only at run
  rw [drained_elems, drained_scales] at run
  refine ⟨_, run, ?_⟩
  rw [orFlags_or]
  cases hs : typeScaled v.a with
  | false =>
    obtain ⟨ran, side, mem, clusters, pkg, net, mezz, wrote⟩ := drain_plain c (drainOp s d n) d v
      (fun e => if here e then some (wordDrained v.a m.cfg acc e, flagDrained v.a m.cfg acc e) else none) own
      fun z => { z with cfg := advanceBase z.cfg }
    rw [words_ite] at wrote
    rw [flagsOf_filter] at ran
    simp only [Bool.false_eq_true, if_false, orFlags_zeros, or_zero_word]
    exact ⟨ran, side, mem, clusters, pkg, net, mezz, fun _ => wrote, nofun⟩
  | true =>
    obtain ⟨hg, hd⟩ := badDrain_scaled hb (same.symm.trans hs)
    have group : vG (arcOf c) = 1 := by
      obtain ⟨k, hk⟩ := own
      have vcfg : (arcOf c).vcfg = v.a.vcfg := by rw [hk]
      rw [vG_congr vcfg, vG_congr hr.vcfg, hg]
    obtain ⟨ran, side, mem, clusters, pkg, net, mezz, mfmt, elems, scales, others⟩ := drain_scaled c (drainOp s d n) d v
      (fun e => if here e then some (wordDrained v.a m.cfg acc e, flagDrained v.a m.cfg acc e) else none)
      (fun e => if here e then some (BitVec.ofNat 64 (blockDrained v.a m.cfg acc e).1, (blockDrained v.a m.cfg acc e).2) else none)
      own (fun z => { z with cfg := advanceBase z.cfg }) group hd
    rw [flagsOf_filter, flagsOf_filter] at ran
    simp only [if_true]
    refine ⟨ran, side, mem, clusters, pkg, net, mezz, nofun, fun _ => ⟨mfmt, fun e he => ?_, fun e he => ?_, others⟩⟩
    · rw [elems e he, ← getD_ite]
      cases here e <;> simp
    · rw [scales e he, ← getD_ite]
      cases here e <;> simp

end

end Sys2Proof.Machine

namespace Sys2Proof.Machine

/-! ## Encodings fit their formats (R21, R29) -/

theorem roundFloat_lt {f : FFmt} (hf : WithInf f) (neg : Bool) (m : Nat) (e : Int) : (roundFloat f neg m e).1 < 2 ^ (f.e + f.m + 1) := by
  have top := top_le hf
  have sign : fSign f neg ≤ 2 ^ (f.e + f.m) := by cases neg <;> simp [fSign]
  have max : fMax f ≤ (2 ^ f.e - 1) * 2 ^ f.m := by
    simp only [fMax, hf.ieee]
    omega
  have fits : ∀ x < 2 ^ (f.e + f.m), fSign f neg + x < 2 ^ (f.e + f.m + 1) := fun x hx => by rw [pow_succ]; omega
  unfold roundFloat
  split
  · simpa using fits 0 (by positivity)
  · dsimp only
    split
    · simp only [hf.ieee]
      exact fits _ top
    · exact fits _ (by omega)

theorem wrapInt_lt (n : Nat) (i : Int) : wrapInt n i < 2 ^ n := by
  have := Int.emod_lt_of_pos i (show (0 : Int) < 2 ^ n by positivity)
  have := Int.emod_nonneg i (show (2 : Int) ^ n ≠ 0 by positivity)
  unfold wrapInt
  zify
  omega

theorem toLns_num_lt (w frac : Nat) (hw : 2 ≤ w) (n : Bool) (m : Nat) (e : Int) : (toLns w frac (.num n m e)).1 < 2 ^ w := by
  obtain ⟨k, rfl⟩ : ∃ k, w = k + 2 := ⟨w - 2, by omega⟩
  unfold toLns
  dsimp only
  split
  · exact Nat.pow_lt_pow_right (by norm_num) (by omega)
  · have := wrapInt_lt (k + 1) (clampInt (logRound (2 ^ frac) m e) (-(2 ^ (k + 2 - 2) - 1)) (2 ^ (k + 2 - 2) - 1))
    unfold lnsClamp
    dsimp only
    split <;> rw [pow_succ] <;> simp only [show k + 2 - 1 = k + 1 by omega] at * <;> omega

/-- R191: an element of SFMT has the bits of its format. -/
theorem sfmtElem_lt (f : Nat) (x q : Int) : (sfmtElem f x q).1 < 2 ^ (8 * sfmtBytes f) := by
  have float : ∀ g ∈ [fE5M2, fBF16, fFP16, fFP19, fFP32, fFP64], (toFloat g (accVal x q)).1 < 2 ^ (g.e + g.m + 1) :=
    fun g hg => roundFloat_lt (withInf_of_mem g hg) _ _ _
  match f with
  | 0 => exact wrapInt_lt 64 x
  | 1 => exact float fFP64 (by simp)
  | 2 => exact float fFP32 (by simp)
  | 3 => exact float fBF16 (by simp)
  | 4 => exact float fFP16 (by simp)
  | 5 => exact toLns_num_lt 16 8 (by norm_num) _ _ _
  | 6 => exact toLns_num_lt 8 4 (by norm_num) _ _ _
  | n + 7 =>
    have small : (toLns 8 4 (accVal x q)).1 < 2 ^ 8 := toLns_num_lt 8 4 (by norm_num) _ _ _
    have two : sfmtBytes (n + 7) = 2 := by
      unfold sfmtBytes
      rw [if_neg (by omega), if_neg (by omega), if_neg (by omega)]
    rw [two]
    exact small.trans (by norm_num)

/-! ## A row as one number -/

/-- Numbers below `b`, as the digits of one. -/
theorem digit_foldr (b : Nat) (l : List Nat) (h : ∀ x ∈ l, x < b) (j : Nat) :
    l.foldr (fun x acc => x + b * acc) 0 / b ^ j % b = listGet 0 l j := by
  induction l generalizing j with
  | nil => simp [listGet]
  | cons x l ih =>
    have hx : x < b := h x List.mem_cons_self
    have pos : 0 < b := by omega
    cases j with
    | zero => simp [listGet, Nat.mod_eq_of_lt hx]
    | succ j =>
      have tail := ih (fun y hy => h y (List.mem_cons_of_mem x hy)) j
      rw [List.foldr_cons, Nat.pow_succ', ← Nat.div_div_eq_div_mul, Nat.add_mul_div_left _ _ pos, Nat.div_eq_of_lt hx, Nat.zero_add, tail]
      simp [listGet]

/-- The bytes of one of the elements of `z` bytes that were written. -/
theorem cellsRead_element (m : List Host.Cell) (p z n v j : Nat) (h : Memory.wf m = true) (hj : j < n) :
    cellsRead (cellsWrite m p (n * z) v) (p + z * j) z = v / (2 ^ (8 * z)) ^ j % 2 ^ (8 * z) := by
  refine cellsRead_eq _ _ _ _ fun i hi => ?_
  have inside : z * j + i < n * z := by nlinarith
  have bytes : (2 ^ (8 * z)) ^ j = 256 ^ (z * j) := by
    rw [← pow_mul, show (256 : Nat) = 2 ^ 8 by norm_num, ← pow_mul, Nat.mul_assoc]
  rw [Nat.add_assoc, cellsGet_cellsWrite m p _ v _ h inside, bytes, pow_add, Nat.div_div_eq_div_mul]

end Sys2Proof.Machine

namespace Sys2Proof.Machine

/-! ## MXDRS (R191, R198) -/

/-- R191: a row of accumulators in SFMT, with its flags. -/
def rowDrained (f : Nat) (m : Mezz) (n : BitVec 9) : Fl (List Nat) :=
  flSeq ((List.range 128).map fun j => sfmtElem f (accAt m n.toNat j) (mxAccExp m.cfg))

/-- R191: a row of elements of `z` bytes enters the Atrium. -/
def storeRow (u : State) (id p z : Nat) (row : Fl (List Nat)) : State :=
  finishV (raise (targetWrite u (clusterIdx id) 0 (.atrium p) (128 * z) (row.1.foldr (fun x acc => x + 2 ^ (8 * z) * acc) 0)) id row.2) id

section
variable (s : State) (a : BitVec 5) (n : BitVec 9)

/-- The word of an MXDRS with its operand. -/
abbrev rowOp : Vop := vop s s.cur (wordMx (a ++ n ++ 0#1) 0x05) a 0

/-- SFMT as an MXDRS finds it. -/
abbrev sfmtSeen : Nat := mxSfmt (mxcfgSeen s s.cur)

theorem exec_mxdrs_eq : exec (.mxdrs a n) s = .next (arrayChecks s s.cur (rowOp s a n) false <|
    if (operand1 s a).toNat % 8 ≠ 0 then trapDispatch s s.cur (rowOp s a n) cMISALIGN (operand1 s a)
    else if 0x800000 < (operand1 s a).toNat + 128 * sfmtBytes (sfmtSeen s) then
      trapDispatch s s.cur (rowOp s a n) cACCESS (operand1 s a)
    else mxClaim s s.cur (rowOp s a n) fun u =>
      if streamFenced u s.cur 4 then blockOn u s.cur (.remote 4)
      else storeRow u s.cur (operand1 s a).toNat (sfmtBytes (sfmtSeen s)) (rowDrained (sfmtSeen s) (mezzOf u s.cur) n)) := by
  rw [exec_mxdrs, execMxdrs]
  dsimp only
  rw [vop_op1]
  rfl

theorem mxdrs_traps : ArrayIssueTraps s (.mxdrs a n) false := arrayChecks_traps (exec_mxdrs_eq s a n) (encode_mxdrs a n)

variable {s a} (hh : heldOn (strandOf s s.cur) = false) (hn : stNoBays (strandOf s s.cur) = false)
include hh hn

theorem mxdrs_misaligned (hp : (operand1 s a).toNat % 8 ≠ 0) (hi : (arcOf s).viq = [] ∨ behind (strandOf s s.cur) = true) :
    TrapsHere s (.mxdrs a n) cMISALIGN (operand1 s a) := by
  refine trapsHere_of _ _ _ _ ?_
  rw [exec_mxdrs_eq, arrayChecks_passed _ _ _ _ _ hh rfl hn, if_pos hp, trapDispatch_issue _ _ _ _ _ hi]

theorem mxdrs_outside (hp : (operand1 s a).toNat % 8 = 0)
    (ho : 0x800000 < (operand1 s a).toNat + 128 * sfmtBytes (sfmtSeen s))
    (hi : (arcOf s).viq = [] ∨ behind (strandOf s s.cur) = true) : TrapsHere s (.mxdrs a n) cACCESS (operand1 s a) := by
  refine trapsHere_of _ _ _ _ ?_
  rw [exec_mxdrs_eq, arrayChecks_passed _ _ _ _ _ hh rfl hn, if_neg (by simp [hp]), if_pos ho, trapDispatch_issue _ _ _ _ _ hi]

section
variable {u : State} (hc : Claims s u) (hp : (operand1 s a).toNat % 8 = 0)
  (ho : (operand1 s a).toNat + 128 * sfmtBytes (sfmtSeen s) ≤ 0x800000)
include hc hp ho

theorem mxdrs_queues (ht : behind (strandOf s s.cur) = true) : ∀ w, encode (.mxdrs a n) = some w →
    ∃ t : State, exec (.mxdrs a n) s = .next t ∧ OnlyStrand u t ∧
      (32 ≤ (arcOf s).viq.length → strandOf t u.cur = { (strandOf u u.cur) with blocked := some .viq }) ∧
      ((arcOf s).viq.length < 32 → ∃ r : BitVec 5, strandOf t u.cur = queued w (reg s s.cur r) 0 (strandOf u u.cur)) := by
  have waits : behind (strandOf u s.cur) = true := by rw [hc.strandOf]; exact ht
  refine mezz_queues (a := a) ?_ hc ht (encode_mxdrs a n)
  rw [exec_mxdrs_eq, arrayChecks_passed _ _ _ _ _ hh rfl hn, if_neg (by simp [hp]), if_neg (by omega), mxClaim, hc.runs, queueOr,
    if_pos waits]

theorem mxdrs_turn (ht : behind (strandOf s s.cur) = false) (hf : streamFenced u u.cur 4 = false) : exec (.mxdrs a n) s =
    .next (storeRow u s.cur (operand1 s a).toNat (sfmtBytes (sfmtSeen s)) (rowDrained (sfmtSeen s) (mezzOf u u.cur) n)) := by
  have turn : behind (strandOf u s.cur) = false := by rw [hc.strandOf]; exact ht
  have cur := hc.cur
  rw [cur] at hf ⊢
  rw [exec_mxdrs_eq, arrayChecks_passed _ _ _ _ _ hh rfl hn, if_neg (by simp [hp]), if_neg (by omega), mxClaim, hc.runs, queueOr,
    if_neg (by simp [turn]), if_neg (by simp [hf])]

end
end

/-- R191: of the machine the row in the Atrium and the strand have changed. -/
theorem storeRow_stores (u : State) (id p f : Nat) (m : Mezz) (n : BitVec 9)
    (hw : Memory.wf (clusterOf u (clusterIdx id)).atrium = true) :
    let z := sfmtBytes f
    let elem := fun j => sfmtElem f (accAt m n.toNat j) (mxAccExp m.cfg)
    let t := storeRow u id p z (rowDrained f m n)
    strandOf t id = stepped (orFlags ((List.range 128).map fun j => (elem j).2)) (strandOf u id) ∧ t.cores = u.cores ∧
    t.mem = u.mem ∧ (∀ k, k ≠ clusterIdx id → clusterOf t k = clusterOf u k) ∧
    (∀ j < 128, cellsRead (clusterOf t (clusterIdx id)).atrium (p + z * j) z = (elem j).1 % 2 ^ (8 * z)) ∧
    ∀ o, (o < p ∨ p + 128 * z ≤ o) →
      cellsGet (clusterOf t (clusterIdx id)).atrium o = cellsGet (clusterOf u (clusterIdx id)).atrium o := by
  intro z elem t
  obtain ⟨-, flags⟩ := flSeq_range elem 128
  have written : (clusterOf t (clusterIdx id)).atrium = cellsWrite (clusterOf u (clusterIdx id)).atrium p (128 * z)
      ((rowDrained f m n).1.foldr (fun x acc => x + 2 ^ (8 * z) * acc) 0) :=
    congrArg Cluster.atrium (clusterOf_setCluster u (clusterIdx id) _)
  have small : ∀ x ∈ (rowDrained f m n).1, x < 2 ^ (8 * z) := fun x hx => by
    simp only [rowDrained, flSeq, List.map_map, List.mem_map] at hx
    obtain ⟨j, -, rfl⟩ := hx
    exact sfmtElem_lt f _ _
  refine ⟨?_, rfl, rfl, fun k hk => clusterOf_setCluster_ne u (clusterIdx id) k _ hk, fun j hj => ?_, fun o ho => ?_⟩
  · show strandOf (storeRow u id p z (rowDrained f m n)) id = _
    rw [storeRow, strandOf_finishV, raise, strandOf_modStrand, stepped_raise, rowDrained, flags]
    rfl
  · have digit := digit_foldr _ _ small j
    rw [written, cellsRead_element _ p z 128 _ j hw hj, digit, rowDrained, listGet_flSeq 0 _ 128 j hj,
      Nat.mod_eq_of_lt (sfmtElem_lt f _ _)]
  · rw [written, cellsGet_cellsWrite_ne _ _ _ _ _ hw ho]

end Sys2Proof.Machine

namespace Sys2Proof.Machine

/-! ## Waiting for the claim (R173) -/

/-- R173: while another holds the claim the strand waits for it. -/
theorem mezz_awaits {s : State} {i : Instr} {w : BitVec 32} {r : BitVec 5} {k : State → State} {o : Nat × Nat}
    (h : MxInstr s i w r false k) (owner : (mezzOf s s.cur).owner = some o) (other : o.1 ≠ (strandOf s s.cur).issuer)
    (hh : heldOn (strandOf s s.cur) = false) (hn : stNoBays (strandOf s s.cur) = false) : exec i s = .next (awaitClaim s s.cur) := by
  unfold mezzOf at owner
  have own : ownsMezz s s.cur = false := by simp [ownsMezz, owner, other]
  have may : mayClaim s s.cur = false := by simp [mayClaim, owner]
  rw [h.2, mxRun, arrayChecks_passed _ _ _ _ _ hh rfl hn, mxClaim, claimThen, if_neg (by simp [own]), if_neg (by simp [may])]

/-- A strand that waits already keeps its place; another stands behind those that wait. -/
def joinWaiters (s : State) (id : Nat) (m : Mezz) : Mezz :=
  { m with waiters := if waitsForClaim s id then m.waiters else m.waiters.filter (· != slotIdx id) ++ [slotIdx id] }

theorem awaitClaim_eq (s : State) (id : Nat) : ∃ d, strandOf (awaitClaim s id) id = { strandOf s id with due := d, blocked := some .mezzClaim } ∧
    mezzOf (awaitClaim s id) id = joinWaiters s id (mezzOf s id) ∧ (awaitClaim s id).mem = s.mem := by
  have mezz : ∀ t : State, t.cores = (modMezz s (coreIdx id) (joinWaiters s id)).cores → mezzOf t id = joinWaiters s id (mezzOf s id) :=
    fun t h => by
      have core : coreOf t (coreIdx id) = coreOf (modMezz s (coreIdx id) (joinWaiters s id)) (coreIdx id) := by rw [coreOf, h, coreOf]
      rw [mezzOf, core, modMezz, coreOf_setCore]
      rfl
  unfold awaitClaim
  dsimp only
  split
  · refine ⟨true, ?_, mezz _ rfl, rfl⟩
    rw [blockOn, strandOf_modStrand, strandOf_modStrand]
    rfl
  · refine ⟨(strandOf s id).due, ?_, mezz _ rfl, rfl⟩
    rw [blockOn, strandOf_modStrand]
    rfl

theorem mem_joinWaiters (s : State) (id : Nat) : slotIdx id ∈ (joinWaiters s id (mezzOf s id)).waiters := by
  unfold joinWaiters
  dsimp only
  split
  · rename_i waits
    exact List.mem_of_mem_filter (List.contains_iff_mem.mp waits)
  · simp

/-- R173: the strand that has waited longest takes a claim that is free. -/
theorem mezzanineClaim_passes {s : State} {c sl : Nat} {q : List Nat} (free : (coreOf s c).mezz.owner = none)
    (first : claimWaiters s c = sl :: q) (hsl : sl < 4) : ∃ t : State, exec (.mezzanineClaim c) s = .next t ∧
      (coreOf t c).mezz.owner = some ((strandOf s (4 * c + sl)).issuer, sl) ∧ (coreOf t c).mezz.cfg = 0x2000000 ∧
      (coreOf t c).mezz.act = false ∧ sl ∉ (coreOf t c).mezz.waiters ∧
      strandOf t (4 * c + sl) = { (strandOf s (4 * c + sl)) with blocked := none } ∧
      (∀ j, j ≠ 4 * c + sl → strandOf t j = strandOf s j) ∧ t.mem = s.mem ∧ ∀ k, k ≠ c → coreOf t k = coreOf s k := by
  have core : coreIdx (4 * c + sl) = c := by unfold coreIdx; omega
  have slot : slotIdx (4 * c + sl) = sl := by unfold slotIdx; omega
  have run : exec (.mezzanineClaim c) s =
      .next (modStrand (takeClaim s (4 * c + sl)) (4 * c + sl) fun t => { t with blocked := none }) := by
    rw [exec_mezzanineClaim, execMezzanineClaim, free, first]
  have taken : coreOf (modStrand (takeClaim s (4 * c + sl)) (4 * c + sl) fun t => { t with blocked := none }) c =
      { coreOf s c with mezz := { (coreOf s c).mezz with
        owner := some ((strandOf s (4 * c + sl)).issuer, sl), cfg := Mezz.reset.cfg, act := false,
        waiters := (coreOf s c).mezz.waiters.filter (· != sl) } } := by
    have same : ∀ (x : State) f, coreOf (modStrand x (4 * c + sl) f) c = coreOf x c := fun _ _ => rfl
    rw [same, takeClaim, core, slot, modMezz, coreOf_setCore]
  refine ⟨_, run, ?_, ?_, ?_, ?_, strandOf_modStrand _ _ _, fun j hj => strandOf_modStrand_ne _ _ _ _ hj, rfl, fun k hk => ?_⟩
  · rw [taken]
  · rw [taken]
    rfl
  · rw [taken]
  · rw [taken]
    simp
  · show coreOf (takeClaim s (4 * c + sl)) k = coreOf s k
    rw [takeClaim, core, modMezz, coreOf_setCore_ne _ _ _ _ hk]

/-! ## Beats that arrive (R197, R201) -/

section
variable {s : State} {id : Nat}

theorem exec_mxFifoWaitEnd_mxtld {x b : BitVec 1} (hw : (strandOf s id).arc.waits = some (.mxtld x b)) :
    exec (.mxFifoWaitEnd id) s = runHead s id (execMxtld x b) := by
  rw [exec_mxFifoWaitEnd, execMxFifoWaitEnd, hw]

theorem exec_mxFifoWaitEnd_mxr {n : BitVec 9} {a : BitVec 1} (hw : (strandOf s id).arc.waits = some (.mxr n a)) :
    exec (.mxFifoWaitEnd id) s = runHead s id (execMxr n a) := by
  rw [exec_mxFifoWaitEnd, execMxFifoWaitEnd, hw]

theorem exec_mxFifoWaitEnd_else (h : ∀ x b, (strandOf s id).arc.waits ≠ some (.mxtld x b))
    (g : ∀ n a, (strandOf s id).arc.waits ≠ some (.mxr n a)) : exec (.mxFifoWaitEnd id) s = .next s := by
  rw [exec_mxFifoWaitEnd, execMxFifoWaitEnd]
  split
  · exact absurd ‹_› (h _ _)
  · exact absurd ‹_› (g _ _)
  · rfl

/-- What the oldest entry of a strand rests on, with the control side set aside. -/
theorem headState_ready (hh : heldOn (strandOf s id) = false) (hn : stNoBays (strandOf s id) = false) :
    heldOn (strandOf (headState s id) (headState s id).cur) = false ∧
    stNoBays (strandOf (headState s id) (headState s id).cur) = false ∧
    behind (strandOf (headState s id) (headState s id).cur) = false := by
  have cur : (headState s id).cur = id := rfl
  rw [cur, headState, strandOf_modStrand]
  exact ⟨hh, hn, rfl⟩

/-- R201: the oldest entry has completed, and the control side stays as it was. -/
theorem head_goesOn {u t : State} {n : Mezz} {fl : Word} {i : Instr} {run : State → Res} (hc : Claims (headState s id) u)
    (hh : heldOn (strandOf s id) = false) (hv : (strandOf s id).arc.viq ≠ []) (he : exec (.mxFifoWaitEnd id) s = runHead s id run)
    (hr : ∀ x, exec i x = run x) (ht : exec i (headState s id) = .next t) (hs : strandOf t u.cur = stepped fl (strandOf u u.cur))
    (ran : MezzRan u t n) : ∃ t, exec (.mxFifoWaitEnd id) s = .next t ∧ t.cur = s.cur ∧
      strandOf t id = headDone (strandOf s id) (stepped fl (strandOf u id)) ∧ MezzRan u t n := by
  have cur : u.cur = id := hc.cur
  rw [cur] at hs
  have before : strandOf u id = strandOf (headState s id) id := hc.strandOf id
  rw [headState, strandOf_modStrand] at before
  have held : heldOn (strandOf t id) = false := by rw [hs, before]; exact hh
  have slot : (strandOf t id).slot = .run := by rw [hs, before]; rfl
  have shorter : (strandOf t id).arc.viq.length < (strandOf s id).arc.viq.length := by
    rw [hs, before]
    show (strandOf s id).arc.viq.tail.length < _
    have := List.length_pos_of_ne_nil hv
    rw [List.length_tail]
    omega
  refine ⟨_, he.trans (runHead_next s t id run ((hr _).symm.trans ht)), rfl, ?_, ?_⟩
  · rw [strandOf_modStrand]
    exact (afterHead_done _ _ held slot shorter).trans (by rw [hs])
  · have others := ran.others
    exact ⟨fun j hj => (strandOf_modStrand_ne _ _ _ _ (by rw [← cur]; exact hj)).trans (others j hj), ran.core, ran.cores, ran.mem,
      ran.clusters, ran.dies, ran.pkg, ran.net, ran.agenda⟩

section
variable {u : State} (hh : heldOn (strandOf s id) = false) (hn : stNoBays (strandOf s id) = false) (hc : Claims (headState s id) u)
  (hv : (strandOf s id).arc.viq ≠ []) (hf : streamFenced u id 4 = false)
include hh hn hc hv hf

theorem mxtld_goesOn {x b : BitVec 1} (hw : (strandOf s id).arc.waits = some (.mxtld x b))
    (hb : tileBeats (mezzOf u id) ≤ (mezzOf u id).ft.length) : ∃ n fl, TileLoaded u x b n fl ∧
      ∃ t, exec (.mxFifoWaitEnd id) s = .next t ∧ t.cur = s.cur ∧
        strandOf t id = headDone (strandOf s id) (stepped fl (strandOf u id)) ∧ MezzRan u t n := by
  obtain ⟨held, bays, turn⟩ := headState_ready hh hn
  have cur : u.cur = id := hc.cur
  rw [← cur] at hf hb
  obtain ⟨n, fl, loaded, runs⟩ := mxtld_runs x b hc held bays hf hb
  obtain ⟨t, ht, hs, ran, -⟩ := runs turn
  exact ⟨n, fl, loaded, head_goesOn hc hh hv (exec_mxFifoWaitEnd_mxtld hw) (fun y => exec_mxtld y x b) ht hs ran⟩

theorem mxr_goesOn {r : BitVec 9} {a : BitVec 1} (hw : (strandOf s id).arc.waits = some (.mxr r a))
    (hb : rowBeats (mezzOf u id) ≤ (mezzOf u id).fa.length) : ∃ n fl, RowSummed u r a n fl ∧
      ∃ t, exec (.mxFifoWaitEnd id) s = .next t ∧ t.cur = s.cur ∧
        strandOf t id = headDone (strandOf s id) (stepped fl (strandOf u id)) ∧ MezzRan u t n := by
  obtain ⟨held, bays, turn⟩ := headState_ready hh hn
  have cur : u.cur = id := hc.cur
  rw [← cur] at hf hb
  obtain ⟨n, fl, summed, runs⟩ := mxr_runs r a hc held bays hf hb
  obtain ⟨t, ht, hs, ran, -⟩ := runs turn
  exact ⟨n, fl, summed, head_goesOn hc hh hv (exec_mxFifoWaitEnd_mxr hw) (fun y => exec_mxr y r a) ht hs ran⟩

end
end

end Sys2Proof.Machine

namespace Sys2Proof.Machine

/-! ## The Mezzanine (R173-R201) -/

section
variable {s u : State} (hh : heldOn (strandOf s s.cur) = false) (hn : stNoBays (strandOf s s.cur) = false) (hc : Claims s u)
include hh hn hc

/-- A Mezzanine instruction runs in its turn, and enters the VIQ behind an entry that waits. -/
theorem MxInstr.course {i : Instr} {w : BitVec 32} {r : BitVec 5} {bad : Bool} {k : State → State} (h : MxInstr s i w r bad k)
    (hb : bad = false) {m : Mezz} {fl : Word} (hk : exec i s = .next (k u) → MezzRuns u i s m fl) :
    (behind (strandOf s s.cur) = false → MezzRuns u i s m fl) ∧
    (behind (strandOf s s.cur) = true → ∀ w, encode i = some w → ∃ t : State, exec i s = .next t ∧
      OnlyStrand u t ∧ (32 ≤ (arcOf s).viq.length → strandOf t u.cur = { (strandOf u u.cur) with blocked := some .viq }) ∧
      ((arcOf s).viq.length < 32 → ∃ r : BitVec 5, strandOf t u.cur = queued w (reg s s.cur r) 0 (strandOf u u.cur))) :=
  ⟨fun ht => hk (h.turn hc hh hb hn ht), fun ht => h.queues hc hh hb hn ht⟩

end

/-- R177, R189: DBASE moves on under DINC. -/
theorem advanceBase_eq (c : Word) : advanceBase c = if fld c 35 1 = 1 then setFld c 28 7 (fld c 28 7 + 1) else c := by
  simp only [advanceBase, mxDinc, mxDbase, beq_iff_eq]

/-- Settles O32: each instruction goes through its issue and the claim; then the tiles, rows and drains by the lemmas above. -/
theorem mezzanine : Obligations.Mezzanine := by
  unfold Obligations.Mezzanine
  refine ⟨?_, ?_, ?_⟩
  · intro s u a b d n x y hh hn hc
    have cur := hc.cur
    dsimp only
    have simple : ∀ {i : Instr} {f : Mezz → Mezz}, exec i s = .next (finishV (modMezz u (coreIdx s.cur) f) s.cur) →
        MezzRuns u i s (f (mezzOf u u.cur)) 0 := fun h => mezzRuns_of _ (by rw [← cur] at h; exact h)
    obtain ⟨tsel, tselQ⟩ := (mxInstr_mxtsel s x).course hh hn hc rfl simple
    obtain ⟨clr, clrQ⟩ := (mxInstr_mxclr s n).course hh hn hc rfl simple
    obtain ⟨wait, waitQ⟩ := (mxInstr_mxwait s).course hh hn hc rfl fun h => mezzRuns_same (by rw [← cur] at h; exact h)
    refine ⟨fun ok => (mxInstr_mxcfg s b).course hh hn hc (by simp [ok]) simple, tsel, tselQ, clr, clrQ,
      fun some => (mxInstr_mxfclr s x y).course hh hn hc (by rcases some with rfl | rfl <;> simp) simple, wait, waitQ,
      fun free few ht => mxtld_waits x y hc hh hn free ht few, fun free few ht => mxr_waits n x hc hh hn free ht few,
      fun free all => mxtld_runs x y hc hh hn free all, fun ht => (mxInstr_mxtld x y s).queues hc hh rfl hn ht,
      fun free all => mxr_runs n x hc hh hn free all, fun ht => (mxInstr_mxr n x s).queues hc hh rfl hn ht,
      fun ok ht => mxdrn_queues s d n hc hh ok hn ht, fun hp ho ht => mxdrs_queues n hh hn hc hp ho ht, hc.taken⟩
  · intro s c d a n
    dsimp only
    refine ⟨fun hh hb u v hr hc => ?_, fun hh hb hn ht h0 hl => mxdrn_beyond s d n hh hb hn ht h0 hl, fun hc hh hn => ?_⟩
    · have same : typeScaled v.a = typeScaled (arcOf s) := typeScaled_congr hr.vcfg
      have drains := mxdrn_drains (n := n) hh hb hr hc
      dsimp only at drains
      rw [advanceBase_eq] at drains
      rw [← same]
      exact drains
    · refine ⟨fun hp hi => mxdrs_misaligned n hh hn hp hi, fun hp ho hi => mxdrs_outside n hh hn hp ho hi,
        fun hp ho hf ht hw => ?_⟩
      have run := mxdrs_turn n hh hn hc hp ho ht hf
      have wf : Memory.wf (clusterOf c (clusterIdx s.cur)).atrium = true := by rw [hc.cores]; exact hw
      obtain ⟨strand, cores, mem, clusters, elems, others⟩ := storeRow_stores c s.cur (operand1 s a).toNat (sfmtSeen s)
        (mezzOf c c.cur) n wf
      have mem' : c.mem = s.mem := by rw [hc.cores]
      have clusters' : ∀ k, clusterOf c k = clusterOf s k := fun k => by rw [hc.cores]; rfl
      refine ⟨_, run, strand, cores, mem.trans mem', fun k hk => (clusters k hk).trans (clusters' k), elems, fun o ho => ?_⟩
      rw [others o ho, clusters']
  · intro s c sl q
    dsimp only
    refine ⟨fun o i hi owner other hh hn => ?_, fun free first hsl => mezzanineClaim_passes free first hsl, fun id u i hi hu => ?_,
      fun id u hh hn hc hv hf => ⟨fun x b hw hb => mxtld_goesOn hh hn hc hv hf hw hb, fun r a hw hb => mxr_goesOn hh hn hc hv hf hw hb⟩,
      fun id h g => exec_mxFifoWaitEnd_else h g, fun d b n x y => ⟨(mxInstr_mxcfg s b).traps, (mxInstr_mxfclr s x y).traps,
        mxdrn_traps s d n, fun i hi => ?_⟩⟩
    · obtain ⟨due, strand, mezz, mem⟩ := awaitClaim_eq s s.cur
      have run : exec i s = .next (awaitClaim s s.cur) := by
        rcases hi with rfl | ⟨x, rfl⟩
        · exact mezz_awaits (mxInstr_mxwait s) owner other hh hn
        · exact mezz_awaits (mxInstr_mxtsel s x) owner other hh hn
      refine ⟨_, run, by rw [strand], by rw [strand], ?_, ?_, mem⟩
      · rw [mezz]
        exact owner
      · rw [mezz]
        exact mem_joinWaiters s s.cur
    · rcases hi with ⟨x, b, hw, rfl⟩ | ⟨n, a, hw, rfl⟩
      · exact (exec_mxFifoWaitEnd_mxtld hw).trans (runHead_next s u id _ hu)
      · exact (exec_mxFifoWaitEnd_mxr hw).trans (runHead_next s u id _ hu)
    · simp only [List.mem_cons, List.not_mem_nil, or_false] at hi
      rcases hi with rfl | rfl | rfl | rfl | rfl | rfl
      · exact (mxInstr_mxtld x y s).traps
      · exact (mxInstr_mxtsel s x).traps
      · exact (mxInstr_mxr n x s).traps
      · exact (mxInstr_mxclr s n).traps
      · exact (mxInstr_mxwait s).traps
      · exact mxdrs_traps s b n

end Sys2Proof.Machine

namespace Sys2Proof.Machine

/-! ## Words as sums of weighted fields (R37)

The encoder adds a field `z` of `m` bits at the weight `K`; the decoder divides. A field does not reach the bits below its weight,
and, where nothing else stands in its place, it is read back and leaves the bits above it alone. The primed lemmas are those of a
field of weight 1. -/

@[simp] theorem bitsAt_literal (w lo n : Nat) [w.AtLeastTwo] : bitsAt ofNat(w) lo n = OfNat.ofNat w / 2 ^ lo % 2 ^ n := rfl

/-- What stands below the place of a field, with the field, does not carry into the bits above it. -/
theorem div_place_add_field (F K : Nat) {m : Nat} (z : BitVec m) (free : F % (K * 2 ^ m) < K) :
    (F + z.toNat * K) / (K * 2 ^ m) = F / (K * 2 ^ m) := by
  have top : F % (K * 2 ^ m) + z.toNat * K < K * 2 ^ m := by
    have : (z.toNat + 1) * K ≤ 2 ^ m * K := Nat.mul_le_mul_right K z.isLt
    rw [Nat.mul_comm (2 ^ m), Nat.add_mul, Nat.one_mul] at this
    omega
  have pos : 0 < K * 2 ^ m := Nat.lt_of_le_of_lt (Nat.zero_le _) top
  conv_lhs => rw [← Nat.div_add_mod F (K * 2 ^ m), Nat.add_assoc, Nat.mul_add_div pos, Nat.div_eq_of_lt top, Nat.add_zero]

@[simp] theorem mod_weight (F K M : Nat) {m : Nat} (z : BitVec m) (h : K % M = 0) : (F + z.toNat * K) % M = F % M := by
  obtain ⟨c, rfl⟩ := Nat.dvd_of_mod_eq_zero h
  rw [Nat.mul_left_comm, Nat.add_mul_mod_self_left]

@[simp] theorem bitsAt_below (F K lo n : Nat) {m : Nat} (z : BitVec m) (h : K % 2 ^ (lo + n) = 0) :
    bitsAt (F + z.toNat * K) lo n = bitsAt F lo n := by
  obtain ⟨c, rfl⟩ := Nat.dvd_of_mod_eq_zero h
  have e : F + z.toNat * (2 ^ (lo + n) * c) = F + 2 ^ lo * (2 ^ n * (z.toNat * c)) := by ring
  rw [bitsAt, bitsAt, e, Nat.add_mul_div_left _ _ (by positivity), Nat.add_mul_mod_self_left]

@[simp] theorem bitsAt_above (F K lo n : Nat) {m : Nat} (z : BitVec m) (h : 2 ^ lo % (K * 2 ^ m) = 0)
    (free : F % (K * 2 ^ m) < K) : bitsAt (F + z.toNat * K) lo n = bitsAt F lo n := by
  obtain ⟨c, hc⟩ := Nat.dvd_of_mod_eq_zero h
  rw [bitsAt, bitsAt, hc, ← Nat.div_div_eq_div_mul, ← Nat.div_div_eq_div_mul _ _ c, div_place_add_field F K z free]

@[simp] theorem bitsAt_above' (F lo n : Nat) {m : Nat} (z : BitVec m) (h : 2 ^ lo % 2 ^ m = 0) (free : F % 2 ^ m = 0) :
    bitsAt (F + z.toNat) lo n = bitsAt F lo n := by
  simpa using bitsAt_above F 1 lo n z (by simpa using h) (by simp [free])

@[simp] theorem fieldAt_below (F K lo n : Nat) {m : Nat} (z : BitVec m) (h : K % 2 ^ (lo + n) = 0) :
    fieldAt (F + z.toNat * K) lo n = fieldAt F lo n :=
  congrArg (BitVec.ofNat n) (bitsAt_below F K lo n z h)

@[simp] theorem fieldAt_above (F K lo n : Nat) {m : Nat} (z : BitVec m) (h : 2 ^ lo % (K * 2 ^ m) = 0)
    (free : F % (K * 2 ^ m) < K) : fieldAt (F + z.toNat * K) lo n = fieldAt F lo n :=
  congrArg (BitVec.ofNat n) (bitsAt_above F K lo n z h free)

@[simp] theorem fieldAt_above' (F lo n : Nat) {m : Nat} (z : BitVec m) (h : 2 ^ lo % 2 ^ m = 0) (free : F % 2 ^ m = 0) :
    fieldAt (F + z.toNat) lo n = fieldAt F lo n :=
  congrArg (BitVec.ofNat n) (bitsAt_above' F lo n z h free)

@[simp] theorem fieldAt_same (F K lo : Nat) {m : Nat} (z : BitVec m) (h : 2 ^ lo = K) (free : F % (K * 2 ^ m) < K) :
    fieldAt (F + z.toNat * K) lo m = z := by
  subst h
  have zero : F / 2 ^ lo % 2 ^ m = 0 := by rw [← Nat.mod_mul_right_div_self, Nat.div_eq_of_lt free]
  have read : (F + z.toNat * 2 ^ lo) / 2 ^ lo % 2 ^ m = z.toNat := by
    rw [Nat.add_mul_div_right _ _ (by positivity), Nat.add_mod, zero, Nat.zero_add, Nat.mod_mod, Nat.mod_eq_of_lt z.isLt]
  rw [fieldAt, bitsAt, read, BitVec.ofNat_toNat, BitVec.setWidth_eq]

@[simp] theorem fieldAt_same' (F : Nat) {m : Nat} (z : BitVec m) (free : F % 2 ^ m = 0) : fieldAt (F + z.toNat) 0 m = z := by
  simpa using fieldAt_same F 1 0 z rfl (by simp [free])

/-! ## Every instruction is decoded from its word (R36-R63) -/

/-- The word of a well-formed instruction has 32 bits, and the decoder's choice by major opcode reads the instruction from it. -/
def Decodes (i : Instr) : Prop := ∀ n, encodeNat i = some n → wellFormed i = true → n < 2 ^ 32 ∧ decodeMajor n = some i

theorem decodes_of {i : Instr} {n : Nat} (h : encodeNat i = some n) (lt : n < 2 ^ 32)
    (reads : wellFormed i = true → decodeMajor n = some i) : Decodes i := by
  intro k hk wf
  cases h.symm.trans hk
  exact ⟨lt, reads wf⟩

/-- R49: ADDSC's selector is that of shift count 0 plus the count. -/
@[simp] theorem decodes_addsc (a b c : BitVec 5) (k : BitVec 2) : Decodes (.addsc a b c k) := by
  refine decodes_of rfl (by omega) fun _ => ?_
  have selector : bitsAt (0x04000020 + a.toNat * 0x200000 + b.toNat * 0x10000 + c.toNat * 0x800 + k.toNat) 0 11 = 32 + k.toNat := by
    unfold bitsAt; omega
  have count : k.toNat = 0 ∨ k.toNat = 1 ∨ k.toNat = 2 ∨ k.toNat = 3 := by omega
  rcases count with h | h | h | h <;> simp [decodeMajor, decodeAlu, selector] <;> simp [h]

/-- R41, R49: an ADDI that may not name s0 is never the word of NOP. -/
@[simp] theorem decodes_addi (a b : BitVec 5) (i : BitVec 16) : Decodes (.addi a b i) := by
  refine decodes_of rfl (by omega) fun wf => ?_
  have notZero : a.toNat ≠ 0 := fun h => of_decide_eq_true wf (BitVec.eq_of_toNat_eq h)
  have notNop : bitsAt (0x08000000 + a.toNat * 0x200000 + b.toNat * 0x10000 + i.toNat) 0 26 ≠ 0 := by
    unfold bitsAt; omega
  simp [decodeMajor, decodeAddi, notNop]

/-- R45: SETC of an index without a row of its own. -/
@[simp] theorem decodes_setc (b : BitVec 5) (k : BitVec 11) : Decodes (.setc b k) := by
  refine decodes_of rfl (by omega) fun wf => ?_
  have index : bitsAt (0x64002000 + b.toNat * 0x10000 + k.toNat) 0 11 = k.toNat := by unfold bitsAt; omega
  have high : bitsAt (0x64002000 + b.toNat * 0x10000 + k.toNat) 9 2 = k.toNat / 512 := by unfold bitsAt; omega
  have low : bitsAt (0x64002000 + b.toNat * 0x10000 + k.toNat) 0 3 = k.toNat % 8 := by unfold bitsAt; omega
  simp only [wellFormed, plainCreg, Bool.not_eq_true', Bool.or_eq_false_iff, Bool.and_eq_false_imp, decide_eq_false_iff_not,
    decide_eq_true_eq] at wf
  obtain ⟨⟨⟨⟨⟨⟨status, sflags⟩, vcfg⟩, mxcfg⟩, vresume⟩, chainsrc⟩, rrate⟩ := wf
  simp [decodeMajor, decodeSystem, index, high, low, status, sflags, vcfg, mxcfg, vresume, chainsrc]
  exact rrate

/-- R45: RRATE of region `n` is the index 0x402 + 8 n. -/
@[simp] theorem decodes_setcRrate (b : BitVec 5) (n : BitVec 6) : Decodes (.setcRrate b n) := by
  refine decodes_of rfl (by omega) fun _ => ?_
  have index : bitsAt (0x64002402 + b.toNat * 0x10000 + n.toNat * 0x8) 0 11 = 0x402 + n.toNat * 8 := by
    unfold bitsAt; omega
  have others : ∀ k < 0x402, 0x402 + n.toNat * 8 ≠ k := by omega
  simp [decodeMajor, decodeSystem, index, others]

@[simp] theorem decodes_alu :
    (∀ a b c, Decodes (.add a b c) ∧ Decodes (.sub a b c) ∧ Decodes (.and a b c) ∧ Decodes (.or a b c) ∧
      Decodes (.xor a b c) ∧ Decodes (.sll a b c) ∧ Decodes (.srl a b c) ∧ Decodes (.sra a b c) ∧ Decodes (.slt a b c) ∧
      Decodes (.sltu a b c) ∧ Decodes (.min a b c) ∧ Decodes (.max a b c) ∧ Decodes (.minu a b c) ∧
      Decodes (.maxu a b c) ∧ Decodes (.mul a b c) ∧ Decodes (.mulh a b c) ∧ Decodes (.mulhu a b c) ∧
      Decodes (.div a b c) ∧ Decodes (.divu a b c) ∧ Decodes (.rem a b c) ∧ Decodes (.remu a b c)) ∧
    ∀ a b, Decodes (.clz a b) ∧ Decodes (.ctz a b) ∧ Decodes (.popc a b) ∧ Decodes (.sextw a b) ∧ Decodes (.zextw a b) := by
  refine ⟨fun a b c => ?_, fun a b => ?_⟩ <;> and_intros <;>
    refine decodes_of rfl (by omega) fun _ => ?_ <;>
    simp [decodeMajor, decodeAlu]

@[simp] theorem decodes_immediates :
    Decodes .nop ∧
    (∀ a b i, Decodes (.andi a b i) ∧ Decodes (.ori a b i) ∧ Decodes (.xori a b i)) ∧
    (∀ a b k, Decodes (.slti a b k) ∧ Decodes (.sltiu a b k)) ∧
    (∀ a b k, Decodes (.slli a b k) ∧ Decodes (.srli a b k) ∧ Decodes (.srai a b k)) ∧
    (∀ a h i, Decodes (.lih a h i) ∧ Decodes (.lihZ a h i)) ∧
    ∀ a b p l, Decodes (.bext a b p l) ∧ Decodes (.bins a b p l) := by
  refine ⟨?_, fun a b i => ?_, fun a b k => ?_, fun a b k => ?_, fun a h i => ?_, fun a b p l => ?_⟩ <;> and_intros <;>
    refine decodes_of rfl (by omega) fun _ => ?_ <;>
    simp [decodeMajor, decodeAddi, decodeAndi, decodeOri, decodeXori, decodeSetLess, decodeShiftImm, decodeLih,
      decodeBitField]

@[simp] theorem decodes_scalarAccesses :
    (∀ a b i, Decodes (.ldb a b i) ∧ Decodes (.ldh a b i) ∧ Decodes (.ldw a b i) ∧ Decodes (.ldd a b i) ∧
      Decodes (.ldbu a b i) ∧ Decodes (.ldhu a b i) ∧ Decodes (.ldwu a b i) ∧ Decodes (.stb a b i) ∧
      Decodes (.sth a b i) ∧ Decodes (.stw a b i) ∧ Decodes (.std a b i) ∧ Decodes (.ldt a b i) ∧ Decodes (.stt a b i)) ∧
    ∀ h b i, Decodes (.pref h b i) := by
  refine ⟨fun a b i => ?_, fun h b i => ?_⟩ <;> and_intros <;>
    refine decodes_of rfl (by omega) fun _ => ?_ <;>
    simp [decodeMajor, decodeLoad, decodeStore, decodeTcm]

@[simp] theorem decodes_floats :
    (∀ a b c d, Decodes (.fadd a b c d) ∧ Decodes (.fsub a b c d) ∧ Decodes (.fmul a b c d) ∧ Decodes (.fdiv a b c d) ∧
      Decodes (.fma a b c d) ∧ Decodes (.fmin a b c d) ∧ Decodes (.fmax a b c d) ∧ Decodes (.feq a b c d) ∧
      Decodes (.flt a b c d) ∧ Decodes (.fle a b c d)) ∧
    (∀ a b d, Decodes (.fsqrt a b d) ∧ Decodes (.fclass a b d)) ∧
    ∀ a b, Decodes (.fcvtDS a b) ∧ Decodes (.fcvtSD a b) ∧ Decodes (.fcvtSL a b) ∧ Decodes (.fcvtDL a b) ∧
      Decodes (.fcvtLS a b) ∧ Decodes (.fcvtLD a b) ∧ Decodes (.fcvtSLu a b) ∧ Decodes (.fcvtDLu a b) ∧
      Decodes (.fcvtLuS a b) ∧ Decodes (.fcvtLuD a b) := by
  refine ⟨fun a b c d => ?_, fun a b d => ?_, fun a b => ?_⟩ <;> and_intros <;>
    refine decodes_of rfl (by omega) fun _ => ?_ <;>
    simp [decodeMajor, decodeFloat]

@[simp] theorem decodes_transfers :
    (∀ a b o, Decodes (.beq a b o) ∧ Decodes (.bne a b o) ∧ Decodes (.blt a b o) ∧ Decodes (.bge a b o) ∧
      Decodes (.bltu a b o) ∧ Decodes (.bgeu a b o) ∧ Decodes (.jalr a b o)) ∧
    (∀ e s b o, Decodes (.beng e s b o)) ∧
    ∀ o, Decodes (.jal o) := by
  refine ⟨fun a b o => ?_, fun e s b o => ?_, fun o => ?_⟩ <;> and_intros <;>
    refine decodes_of rfl (by omega) fun _ => ?_ <;>
    simp [decodeMajor, decodeBeq, decodeBne, decodeBlt, decodeBge, decodeBltu, decodeBgeu, decodeBeng, decodeJal,
      decodeJalr]

@[simp] theorem decodes_system :
    (∀ k, Decodes (.svc k) ∧ Decodes (.brk k)) ∧
    Decodes .rets ∧ Decodes .endStrand ∧ Decodes .yield ∧ Decodes .wait ∧ Decodes .vrel ∧
    (∀ a k, Decodes (.getc a k)) ∧
    (∀ b, Decodes (.setcStatus b) ∧ Decodes (.setcSflags b) ∧ Decodes (.setcVcfg b) ∧ Decodes (.setcMxcfg b) ∧
      Decodes (.setcVresume b) ∧ Decodes (.setcChainsrc b)) ∧
    ∀ k, Decodes (.vacq k) := by
  refine ⟨fun k => ?_, ?_, ?_, ?_, ?_, ?_, fun a k => ?_, fun b => ?_, fun k => ?_⟩ <;> and_intros <;>
    refine decodes_of rfl (by omega) fun _ => ?_ <;>
    simp [decodeMajor, decodeSystem]

@[simp] theorem decodes_orderAndAtomics :
    (∀ w h s, Decodes (.sbarAcquire w h s) ∧ Decodes (.sbarRelease w h s) ∧ Decodes (.sbarFull w h s)) ∧
    (∀ a b q z, Decodes (.ldl a b q z)) ∧
    (∀ a b c r z, Decodes (.stc a b c r z)) ∧
    ∀ a b c q z, Decodes (.amoAdd a b c q z) ∧ Decodes (.amoMin a b c q z) ∧ Decodes (.amoMax a b c q z) ∧
      Decodes (.amoMinu a b c q z) ∧ Decodes (.amoMaxu a b c q z) ∧ Decodes (.amoAnd a b c q z) ∧
      Decodes (.amoOr a b c q z) ∧ Decodes (.amoXor a b c q z) ∧ Decodes (.amoSwap a b c q z) ∧
      Decodes (.amoCas a b c q z) := by
  refine ⟨fun w h s => ?_, fun a b q z => ?_, fun a b c r z => ?_, fun a b c q z => ?_⟩ <;> and_intros <;>
    refine decodes_of rfl (by omega) fun _ => ?_ <;>
    simp [decodeMajor, decodeSbar, decodeAtomic]

@[simp] theorem decodes_vectorConfig :
    (∀ a b, Decodes (.vsetcfg a b) ∧ Decodes (.vbegin a b)) ∧
    ∀ a o, Decodes (.vnext a o) := by
  refine ⟨fun a b => ?_, fun a o => ?_⟩ <;> and_intros <;>
    refine decodes_of rfl (by omega) fun _ => ?_ <;>
    simp [decodeMajor, decodeVecConfig, decodeVnext]

@[simp] theorem decodes_vectorArithmetic :
    (∀ d a b msk mp, Decodes (.vadd d a b msk mp) ∧ Decodes (.vsub d a b msk mp) ∧ Decodes (.vrsub d a b msk mp) ∧
      Decodes (.vmul d a b msk mp) ∧ Decodes (.vmulh d a b msk mp) ∧ Decodes (.vmulhu d a b msk mp) ∧
      Decodes (.vdiv d a b msk mp) ∧ Decodes (.vdivu d a b msk mp) ∧ Decodes (.vrem d a b msk mp) ∧
      Decodes (.vremu d a b msk mp) ∧ Decodes (.vmadd d a b msk mp) ∧ Decodes (.vaddS d a b msk mp) ∧
      Decodes (.vsubS d a b msk mp) ∧ Decodes (.vrsubS d a b msk mp) ∧ Decodes (.vmulS d a b msk mp) ∧
      Decodes (.vmulhS d a b msk mp) ∧ Decodes (.vmulhuS d a b msk mp) ∧ Decodes (.vdivS d a b msk mp) ∧
      Decodes (.vdivuS d a b msk mp) ∧ Decodes (.vremS d a b msk mp) ∧ Decodes (.vremuS d a b msk mp) ∧
      Decodes (.vmaddS d a b msk mp)) ∧
    ∀ d a msk mp, Decodes (.vneg d a msk mp) := by
  refine ⟨fun d a b msk mp => ?_, fun d a msk mp => ?_⟩ <;> and_intros <;>
    refine decodes_of rfl (by omega) fun _ => ?_ <;>
    simp [decodeMajor, decodeVecInt, decodeVecIntS]

@[simp] theorem decodes_vectorBits :
    (∀ d a b msk mp, Decodes (.vand d a b msk mp) ∧ Decodes (.vor d a b msk mp) ∧ Decodes (.vxor d a b msk mp) ∧
      Decodes (.vsll d a b msk mp) ∧ Decodes (.vsrl d a b msk mp) ∧ Decodes (.vsra d a b msk mp) ∧
      Decodes (.vmin d a b msk mp) ∧ Decodes (.vmax d a b msk mp) ∧ Decodes (.vminu d a b msk mp) ∧
      Decodes (.vmaxu d a b msk mp) ∧ Decodes (.vandS d a b msk mp) ∧ Decodes (.vorS d a b msk mp) ∧
      Decodes (.vxorS d a b msk mp) ∧ Decodes (.vsllS d a b msk mp) ∧ Decodes (.vsrlS d a b msk mp) ∧
      Decodes (.vsraS d a b msk mp) ∧ Decodes (.vminS d a b msk mp) ∧ Decodes (.vmaxS d a b msk mp) ∧
      Decodes (.vminuS d a b msk mp) ∧ Decodes (.vmaxuS d a b msk mp)) ∧
    ∀ d a msk mp, Decodes (.vnot d a msk mp) ∧ Decodes (.vclz d a msk mp) ∧ Decodes (.vpopc d a msk mp) := by
  refine ⟨fun d a b msk mp => ?_, fun d a msk mp => ?_⟩ <;> and_intros <;>
    refine decodes_of rfl (by omega) fun _ => ?_ <;>
    simp [decodeMajor, decodeVecInt, decodeVecIntS]

@[simp] theorem decodes_vectorSaturating :
    ∀ d a b msk mp, Decodes (.vsadd d a b msk mp) ∧ Decodes (.vssub d a b msk mp) ∧ Decodes (.vsaddu d a b msk mp) ∧
      Decodes (.vssubu d a b msk mp) ∧ Decodes (.vwadd d a b msk mp) ∧ Decodes (.vwmul d a b msk mp) ∧
      Decodes (.vnsrl d a b msk mp) ∧ Decodes (.vnclip d a b msk mp) ∧ Decodes (.vsaddS d a b msk mp) ∧
      Decodes (.vssubS d a b msk mp) ∧ Decodes (.vsadduS d a b msk mp) ∧ Decodes (.vssubuS d a b msk mp) ∧
      Decodes (.vwaddS d a b msk mp) ∧ Decodes (.vwmulS d a b msk mp) ∧ Decodes (.vnsrlS d a b msk mp) ∧
      Decodes (.vnclipS d a b msk mp) ∧ Decodes (.vfieldS d a b msk mp) := by
  intro d a b msk mp
  and_intros <;>
    refine decodes_of rfl (by omega) fun _ => ?_ <;>
    simp [decodeMajor, decodeVecInt, decodeVecIntS]

@[simp] theorem decodes_vectorFloats :
    (∀ d a b msk mp, Decodes (.vfadd d a b msk mp) ∧ Decodes (.vfsub d a b msk mp) ∧ Decodes (.vfmul d a b msk mp) ∧
      Decodes (.vfdiv d a b msk mp) ∧ Decodes (.vfma d a b msk mp) ∧ Decodes (.vfmin d a b msk mp) ∧
      Decodes (.vfmax d a b msk mp) ∧ Decodes (.vfcvt d a b msk mp) ∧ Decodes (.vfaddS d a b msk mp) ∧
      Decodes (.vfsubS d a b msk mp) ∧ Decodes (.vfmulS d a b msk mp) ∧ Decodes (.vfdivS d a b msk mp) ∧
      Decodes (.vfmaS d a b msk mp) ∧ Decodes (.vfminS d a b msk mp) ∧ Decodes (.vfmaxS d a b msk mp)) ∧
    ∀ d a msk mp, Decodes (.vfsqrt d a msk mp) ∧ Decodes (.vfclass d a msk mp) ∧ Decodes (.vlog2 d a msk mp) ∧
      Decodes (.vexp2 d a msk mp) := by
  refine ⟨fun d a b msk mp => ?_, fun d a msk mp => ?_⟩ <;> and_intros <;>
    refine decodes_of rfl (by omega) fun _ => ?_ <;>
    simp [decodeMajor, decodeVecFloat, decodeVecFloatS]

@[simp] theorem decodes_vectorCompares :
    ∀ d a b msk mp, Decodes (.vcmpeq d a b msk mp) ∧ Decodes (.vcmpne d a b msk mp) ∧ Decodes (.vcmplt d a b msk mp) ∧
      Decodes (.vcmpltu d a b msk mp) ∧ Decodes (.vcmple d a b msk mp) ∧ Decodes (.vcmpleu d a b msk mp) ∧
      Decodes (.vfcmpeq d a b msk mp) ∧ Decodes (.vfcmplt d a b msk mp) ∧ Decodes (.vfcmple d a b msk mp) ∧
      Decodes (.vcmpeqS d a b msk mp) ∧ Decodes (.vcmpneS d a b msk mp) ∧ Decodes (.vcmpltS d a b msk mp) ∧
      Decodes (.vcmpltuS d a b msk mp) ∧ Decodes (.vcmpleS d a b msk mp) ∧ Decodes (.vcmpleuS d a b msk mp) ∧
      Decodes (.vfcmpeqS d a b msk mp) ∧ Decodes (.vfcmpltS d a b msk mp) ∧ Decodes (.vfcmpleS d a b msk mp) := by
  intro d a b msk mp
  and_intros <;>
    refine decodes_of rfl (by omega) fun _ => ?_ <;>
    simp [decodeMajor, decodeVecCompare]

@[simp] theorem decodes_masksAndSearches :
    (∀ d a b, Decodes (.mand d a b) ∧ Decodes (.mor d a b) ∧ Decodes (.mxor d a b) ∧ Decodes (.mandn d a b)) ∧
    (∀ d a, Decodes (.mnot d a)) ∧
    (∀ d a msk mp, Decodes (.msbf d a msk mp) ∧ Decodes (.msif d a msk mp)) ∧
    (∀ d a msk mp, Decodes (.mfirst d a msk mp) ∧ Decodes (.mcount d a msk mp) ∧ Decodes (.viota d a msk mp)) ∧
    (∀ d a b msk mp, Decodes (.vsrch d a b msk mp) ∧ Decodes (.vsrchr d a b msk mp)) ∧
    (∀ d a b, Decodes (.vtwr d a b)) ∧
    (∀ d a b msk mp, Decodes (.vhamm d a b msk mp)) ∧
    ∀ d a b msk mp, Decodes (.vtopkMax d a b msk mp) ∧ Decodes (.vtopkMin d a b msk mp) := by
  refine ⟨fun d a b => ?_, fun d a => ?_, fun d a msk mp => ?_, fun d a msk mp => ?_, fun d a b msk mp => ?_,
    fun d a b => ?_, fun d a b msk mp => ?_, fun d a b msk mp => ?_⟩ <;> and_intros <;>
    refine decodes_of rfl (by omega) fun _ => ?_ <;>
    simp [decodeMajor, decodeMask, decodeAssociative]

@[simp] theorem decodes_reductions :
    (∀ d a msk mp, Decodes (.vredsum d a msk mp) ∧ Decodes (.vredmax d a msk mp) ∧ Decodes (.vredmin d a msk mp) ∧
      Decodes (.vredmaxu d a msk mp) ∧ Decodes (.vredminu d a msk mp) ∧ Decodes (.vredand d a msk mp) ∧
      Decodes (.vredor d a msk mp) ∧ Decodes (.vredxor d a msk mp) ∧ Decodes (.vfredsum d a msk mp)) ∧
    ∀ d a msk mp, Decodes (.vmaxi d a msk mp) ∧ Decodes (.vmini d a msk mp) := by
  refine ⟨fun d a msk mp => ?_, fun d a msk mp => ?_⟩ <;> and_intros <;>
    refine decodes_of rfl (by omega) fun _ => ?_ <;>
    simp [decodeMajor, decodeReduce]

@[simp] theorem decodes_permutes :
    (∀ d a b msk mp, Decodes (.vgathr d a b msk mp) ∧ Decodes (.vshup d a b msk mp) ∧ Decodes (.vshdn d a b msk mp) ∧
      Decodes (.vbcst d a b msk mp) ∧ Decodes (.vbperm d a b msk mp)) ∧
    (∀ d a b, Decodes (.vext d a b) ∧ Decodes (.vins d a b)) ∧
    (∀ d a msk, Decodes (.vcomp d a msk)) ∧
    (∀ d a msk mp, Decodes (.vmv d a msk mp)) ∧
    (∀ d i msk mp, Decodes (.vmvi d i msk mp)) ∧
    (∀ d a b msk, Decodes (.vmerge d a b msk)) ∧
    ∀ d msk mp, Decodes (.vid d msk mp) := by
  refine ⟨fun d a b msk mp => ?_, fun d a b => ?_, fun d a msk => ?_, fun d a msk mp => ?_, fun d i msk mp => ?_,
    fun d a b msk => ?_, fun d msk mp => ?_⟩ <;> and_intros <;>
    refine decodes_of rfl (by omega) fun _ => ?_ <;>
    simp [decodeMajor, decodePermute]

@[simp] theorem decodes_vectorAccesses :
    (∀ d b msk mp g r, Decodes (.vld d b msk mp g r) ∧ Decodes (.vldff d b msk mp g r) ∧ Decodes (.vst d b msk mp g r)) ∧
    (∀ d b s msk mp g r, Decodes (.vlds d b s msk mp g r) ∧ Decodes (.vsts d b s msk mp g r)) ∧
    ∀ d b i msk mp g, Decodes (.vldx d b i msk mp g) ∧ Decodes (.vstx d b i msk mp g) ∧ Decodes (.vstxo d b i msk mp g) ∧
      Decodes (.vappend d b i msk mp g) := by
  refine ⟨fun d b msk mp g r => ?_, fun d b s msk mp g r => ?_, fun d b i msk mp g => ?_⟩ <;> and_intros <;>
    refine decodes_of rfl (by omega) fun _ => ?_ <;>
    simp [decodeMajor, decodeVecLoad, decodeVecStore]

@[simp] theorem decodes_vectorAtomics :
    (∀ d b i msk mp g, Decodes (.vldl d b i msk mp g)) ∧
    (∀ d b i msk mp g m, Decodes (.vstc d b i msk mp g m)) ∧
    (∀ d b i msk mp g o, Decodes (.vamo d b i msk mp g o) ∧ Decodes (.vamoAcq d b i msk mp g o) ∧
      Decodes (.vamoRel d b i msk mp g o) ∧ Decodes (.vamoAr d b i msk mp g o)) ∧
    ∀ c b i msk mp g z o, Decodes (.vwaitm c b i msk mp g z o) := by
  refine ⟨fun d b i msk mp g => ?_, fun d b i msk mp g m => ?_, fun d b i msk mp g o => ?_,
    fun c b i msk mp g z o => ?_⟩ <;> and_intros <;>
    refine decodes_of rfl (by omega) fun _ => ?_ <;>
    simp [decodeMajor, decodeVecAtomic]

@[simp] theorem decodes_conversions :
    (∀ a msk mp, Decodes (.vsclset a msk mp) ∧ Decodes (.vbscale a msk mp)) ∧
    (∀ d a msk mp, Decodes (.vquant d a msk mp) ∧ Decodes (.vdeq d a msk mp) ∧ Decodes (.vcvtl d a msk mp)) ∧
    (∀ c a, Decodes (.vcbld c a)) ∧
    ∀ d a c msk mp, Decodes (.vcbx d a c msk mp) := by
  refine ⟨fun a msk mp => ?_, fun d a msk mp => ?_, fun c a => ?_, fun d a c msk mp => ?_⟩ <;> and_intros <;>
    refine decodes_of rfl (by omega) fun _ => ?_ <;>
    simp [decodeMajor, decodeConvert]

@[simp] theorem decodes_mezzanineAndCopies :
    (∀ b, Decodes (.mxcfg b)) ∧
    (∀ x b, Decodes (.mxtld x b) ∧ Decodes (.mxfclr x b)) ∧
    (∀ b, Decodes (.mxtsel b)) ∧
    (∀ n m, Decodes (.mxr n m)) ∧
    (∀ d n, Decodes (.mxdrn d n) ∧ Decodes (.mxdrs d n)) ∧
    (∀ n, Decodes (.mxclr n)) ∧
    Decodes .mxwait ∧
    (∀ a b c e, Decodes (.cpy a b c e) ∧ Decodes (.cpyf a b c e)) ∧
    (∀ a b c e, Decodes (.cpy2d a b c e) ∧ Decodes (.cpyg a b c e)) ∧
    ∀ a b e, Decodes (.cpyres a b e) := by
  refine ⟨fun b => ?_, fun x b => ?_, fun b => ?_, fun n m => ?_, fun d n => ?_, fun n => ?_, ?_, fun a b c e => ?_,
    fun a b c e => ?_, fun a b e => ?_⟩ <;> and_intros <;>
    refine decodes_of rfl (by omega) fun _ => ?_ <;>
    simp [decodeMajor, decodeMezzanine, decodeCopy]

@[simp] theorem decodes_newelAndPorts :
    (∀ a b x r, Decodes (.seminc a b x r) ∧ Decodes (.semset a b x r) ∧ Decodes (.semrd a b x r) ∧
      Decodes (.barinit a b x r) ∧ Decodes (.bararr a b x r)) ∧
    (∀ a b, Decodes (.semwait a b) ∧ Decodes (.barwait a b)) ∧
    (∀ s p, Decodes (.vsend s p)) ∧
    ∀ c p, Decodes (.vchain c p) := by
  refine ⟨fun a b x r => ?_, fun a b => ?_, fun s p => ?_, fun c p => ?_⟩ <;> and_intros <;>
    refine decodes_of rfl (by omega) fun _ => ?_ <;>
    simp [decodeMajor, decodeNewel, decodePort]

@[simp] theorem decodes_schedulingAndCaches :
    (∀ a b, Decodes (.spawn a b) ∧ Decodes (.jdec a b) ∧ Decodes (.lread a b) ∧ Decodes (.cflush a b) ∧
      Decodes (.cinv a b) ∧ Decodes (.cpref a b)) ∧
    (∀ a b c, Decodes (.spawnc a b c)) ∧
    ∀ a b s, Decodes (.tlbinv a b s) := by
  refine ⟨fun a b => ?_, fun a b c => ?_, fun a b s => ?_⟩ <;> and_intros <;>
    refine decodes_of rfl (by omega) fun _ => ?_ <;>
    simp [decodeMajor, decodeSchedule, decodeCache]

@[simp] theorem decodes_undercroftAndFabric :
    (∀ a r, Decodes (.ubulkZero a r)) ∧
    (∀ a b, Decodes (.ubulkMaj3 a b)) ∧
    (∀ a b, Decodes (.ubulkAnd a b) ∧ Decodes (.ubulkOr a b)) ∧
    (∀ a b, Decodes (.ubulkCopy a b) ∧ Decodes (.ubulkNot a b) ∧ Decodes (.fput a b) ∧ Decodes (.fget a b)) ∧
    (∀ a, Decodes (.uwait a)) ∧
    (∀ a b r, Decodes (.hpost a b r)) ∧
    (∀ a b, Decodes (.gsig a b) ∧ Decodes (.collw a b)) ∧
    ∀ b m, Decodes (.collAllreduce b m) ∧ Decodes (.collRedscat b m) ∧ Decodes (.collAllgath b m) ∧
      Decodes (.collBcast b m) := by
  refine ⟨fun a r => ?_, fun a b => ?_, fun a b => ?_, fun a b => ?_, fun a => ?_, fun a b r => ?_, fun a b => ?_,
    fun b m => ?_⟩ <;> and_intros <;>
    refine decodes_of rfl (by omega) fun _ => ?_ <;>
    simp [decodeMajor, decodeUndercroft, decodeHost, decodeFabric]
/-- Every row of the opcode table with a word (the guard words and the illegal words are not rows of a major). -/
theorem decodes_or_word (i : Instr) : Decodes i ∨ (∃ w, i = .guard w) ∨ ∃ w, i = .illegalInstruction w := by
  rcases e : encodeNat i with _ | n
  · exact .inl fun n hn _ => nomatch e.symm.trans hn
  · cases i <;> cases e <;> simp

theorem isGuardWord_of_decodeMajor {w : BitVec 32} {i : Instr} (h : decodeMajor w.toNat = some i) : isGuardWord w = false := by
  have zero : decodeMajor (0 : BitVec 32).toNat = none := by simp [decodeMajor, bitsAt]
  have ones : decodeMajor (0xFFFFFFFF : BitVec 32).toNat = none := by simp [decodeMajor, bitsAt]
  have notZero : w ≠ 0 := fun e => by rw [e, zero] at h; cases h
  have notOnes : w ≠ 0xFFFFFFFF := fun e => by rw [e, ones] at h; cases h
  rw [isGuardWord, decide_eq_false notZero, decide_eq_false notOnes, Bool.or_false]

theorem decodeWord_of_decodes {i : Instr} {w : BitVec 32} (d : Decodes i) (wf : wellFormed i = true) (h : encode i = some w) :
    decodeWord w = i := by
  obtain ⟨n, hn, rfl⟩ := Option.map_eq_some_iff.1 h
  obtain ⟨lt, reads⟩ := d n hn wf
  rw [← Nat.mod_eq_of_lt lt, ← BitVec.toNat_ofNat] at reads
  rw [decodeWord, isGuardWord_of_decodeMajor reads, reads]
  simp [wf]

theorem decodeWord_guard {w : BitVec 32} (h : isGuardWord w = true) : decodeWord w = .guard w := by simp [decodeWord, h]

/-- Settles O56: the guard words are read as such, and the word of every other instruction is a sum of fields that the decoder takes
apart. -/
theorem decodeEncode : Obligations.DecodeEncode := by
  intro i w wf h legal
  rcases decodes_or_word i with d | ⟨v, rfl⟩ | ⟨v, rfl⟩
  · exact decodeWord_of_decodes d wf h
  · have same : v = w := by simpa [encode, encodeNat] using h
    exact same ▸ decodeWord_guard wf
  · exact absurd rfl (legal v)

end Sys2Proof.Machine

namespace Sys2Proof.Machine

/-! ## Every word is the sum of the fields that the decoder reads (R39)

Each field of a word is the difference of two of its low parts, so that the sum of fields that do not overlap and leave no bit
out telescopes to the word. -/

/-- The number in the low `k` bits of a word. -/
def lowBits (w k : Nat) : Int := (w % 2 ^ k : Nat)

@[simp] theorem lowBits_zero (w : Nat) : lowBits w 0 = 0 := by simp [lowBits, Nat.mod_one]

theorem bitsAt_weight (w lo n : Nat) : (bitsAt w lo n : Int) * 2 ^ lo = lowBits w (lo + n) - lowBits w lo := by
  have e : w % 2 ^ (lo + n) = w % 2 ^ lo + 2 ^ lo * bitsAt w lo n := by rw [pow_add, Nat.mod_mul]; rfl
  simp only [lowBits, e]
  push_cast
  ring

theorem fieldAt_weight (w lo n : Nat) (K : Int) (h : 2 ^ lo = K) :
    ((fieldAt w lo n).toNat : Int) * K = lowBits w (lo + n) - lowBits w lo := by
  have e : (fieldAt w lo n).toNat = bitsAt w lo n := by simp [fieldAt, bitsAt]
  rw [e, ← h, bitsAt_weight]

theorem fieldAt_low (w n : Nat) : ((fieldAt w 0 n).toNat : Int) = lowBits w n := by
  simpa using fieldAt_weight w 0 n 1 rfl

theorem bitsAt_eq_iff (w lo n v : Nat) : bitsAt w lo n = v ↔ lowBits w (lo + n) = lowBits w lo + v * 2 ^ lo := by
  have pos : (2 : Int) ^ lo ≠ 0 := by positivity
  rw [← sub_eq_iff_eq_add', ← bitsAt_weight, mul_eq_mul_right_iff, or_iff_left pos, Int.natCast_inj]

/-- What the decoder answers, if anything, has the word `w`. -/
def Rebuilds (w : Nat) (o : Option Instr) : Prop := ∀ i, o = some i → encodeNat i = some w

theorem rebuilds_none (w : Nat) : Rebuilds w none := nofun

theorem rebuilds_some (w : Nat) (i : Instr) : Rebuilds w (some i) ↔ encodeNat i = some w :=
  ⟨fun h => h i rfl, fun h _ e => Option.some.inj e ▸ h⟩

theorem rebuilds_ite (w : Nat) (p : Prop) [Decidable p] (o q : Option Instr) :
    Rebuilds w (if p then o else q) ↔ (p → Rebuilds w o) ∧ (¬ p → Rebuilds w q) := by
  split <;> simp [*]

theorem encodeNat_of_lowBits {i : Instr} {n w : Nat} (lt : w < 2 ^ 32) (h : encodeNat i = some n) (e : (n : Int) = lowBits w 32) :
    encodeNat i = some w := by
  rw [lowBits, Nat.mod_eq_of_lt lt] at e
  exact Int.natCast_inj.1 e ▸ h

theorem rebuilds_alu {w : Nat} (lt : w < 2 ^ 32) :
    (bitsAt w 26 6 = 1 → Rebuilds w (decodeAlu w)) := by
  have count : lowBits w 2 = lowBits w 11 % 4 := by simp only [lowBits]; omega
  intro major
  simp only [decodeAlu]
  repeat' split
  all_goals simp only [rebuilds_none, rebuilds_some]
  all_goals
    refine encodeNat_of_lowBits lt rfl ?_
    simp [fieldAt_weight, fieldAt_low, bitsAt_eq_iff] at *
    omega

theorem rebuilds_immediates {w : Nat} (lt : w < 2 ^ 32) :
    (bitsAt w 26 6 = 2 → Rebuilds w (decodeAddi w)) ∧ (bitsAt w 26 6 = 3 → Rebuilds w (decodeAndi w)) ∧
    (bitsAt w 26 6 = 4 → Rebuilds w (decodeOri w)) ∧ (bitsAt w 26 6 = 5 → Rebuilds w (decodeXori w)) ∧
    (bitsAt w 26 6 = 6 → Rebuilds w (decodeSetLess w)) ∧ (bitsAt w 26 6 = 7 → Rebuilds w (decodeShiftImm w)) ∧
    (bitsAt w 26 6 = 8 → Rebuilds w (decodeLih w)) ∧ (bitsAt w 26 6 = 9 → Rebuilds w (decodeBitField w)) := by
  and_intros <;> intro major
  all_goals
    simp only [decodeAddi, decodeAndi, decodeOri, decodeXori, decodeSetLess, decodeShiftImm, decodeLih,
      decodeBitField]
    repeat' split
    all_goals simp only [rebuilds_none, rebuilds_some]
  all_goals
    refine encodeNat_of_lowBits lt rfl ?_
    simp [fieldAt_weight, fieldAt_low, bitsAt_eq_iff] at *
    omega

theorem rebuilds_scalarAccessesAndFloats {w : Nat} (lt : w < 2 ^ 32) :
    (bitsAt w 26 6 = 10 → Rebuilds w (decodeLoad w)) ∧ (bitsAt w 26 6 = 12 → Rebuilds w (decodeStore w)) ∧
    (bitsAt w 26 6 = 13 → Rebuilds w (decodeTcm w)) ∧ (bitsAt w 26 6 = 14 → Rebuilds w (decodeFloat w)) := by
  and_intros <;> intro major
  all_goals
    simp only [decodeLoad, decodeStore, decodeTcm, decodeFloat]
    repeat' split
    all_goals simp only [rebuilds_none, rebuilds_some]
  all_goals
    refine encodeNat_of_lowBits lt rfl ?_
    simp [fieldAt_weight, fieldAt_low, bitsAt_eq_iff] at *
    omega

theorem rebuilds_transfersAndAtomics {w : Nat} (lt : w < 2 ^ 32) :
    (bitsAt w 26 6 = 16 → Rebuilds w (decodeBeq w)) ∧ (bitsAt w 26 6 = 17 → Rebuilds w (decodeBne w)) ∧
    (bitsAt w 26 6 = 18 → Rebuilds w (decodeBlt w)) ∧ (bitsAt w 26 6 = 19 → Rebuilds w (decodeBge w)) ∧
    (bitsAt w 26 6 = 20 → Rebuilds w (decodeBltu w)) ∧ (bitsAt w 26 6 = 21 → Rebuilds w (decodeBgeu w)) ∧
    (bitsAt w 26 6 = 22 → Rebuilds w (decodeBeng w)) ∧ (bitsAt w 26 6 = 23 → Rebuilds w (decodeJal w)) ∧
    (bitsAt w 26 6 = 24 → Rebuilds w (decodeJalr w)) ∧ (bitsAt w 26 6 = 25 → Rebuilds w (decodeSystem w)) ∧
    (bitsAt w 26 6 = 26 → Rebuilds w (decodeSbar w)) ∧ (bitsAt w 26 6 = 27 → Rebuilds w (decodeAtomic w)) := by
  and_intros <;> intro major
  all_goals
    simp only [decodeBeq, decodeBne, decodeBlt, decodeBge, decodeBltu, decodeBgeu, decodeBeng, decodeJal, decodeJalr,
      decodeSystem, decodeSbar, decodeAtomic]
    repeat' split
    all_goals simp only [rebuilds_none, rebuilds_some]
  all_goals
    refine encodeNat_of_lowBits lt rfl ?_
    simp [fieldAt_weight, fieldAt_low, bitsAt_eq_iff] at *
    omega

theorem rebuilds_vectorIntegers {w : Nat} (lt : w < 2 ^ 32) :
    (bitsAt w 26 6 = 32 → Rebuilds w (decodeVecConfig w)) ∧ (bitsAt w 26 6 = 33 → Rebuilds w (decodeVnext w)) ∧
    (bitsAt w 26 6 = 34 → Rebuilds w (decodeVecInt w)) ∧ (bitsAt w 26 6 = 35 → Rebuilds w (decodeVecIntS w)) := by
  and_intros <;> intro major
  all_goals
    simp only [decodeVecConfig, decodeVnext, decodeVecInt, decodeVecIntS]
    repeat' split
    all_goals simp only [rebuilds_none, rebuilds_some]
  all_goals
    refine encodeNat_of_lowBits lt rfl ?_
    simp [fieldAt_weight, fieldAt_low, bitsAt_eq_iff] at *
    omega

theorem rebuilds_vectorFloatsAndMasks {w : Nat} (lt : w < 2 ^ 32) :
    (bitsAt w 26 6 = 36 → Rebuilds w (decodeVecFloat w)) ∧ (bitsAt w 26 6 = 37 → Rebuilds w (decodeVecFloatS w)) ∧
    (bitsAt w 26 6 = 38 → Rebuilds w (decodeVecCompare w)) ∧ (bitsAt w 26 6 = 39 → Rebuilds w (decodeMask w)) ∧
    (bitsAt w 26 6 = 40 → Rebuilds w (decodeAssociative w)) := by
  and_intros <;> intro major
  all_goals
    simp only [decodeVecFloat, decodeVecFloatS, decodeVecCompare, decodeMask, decodeAssociative]
    repeat' split
    all_goals simp only [rebuilds_none, rebuilds_some]
  all_goals
    refine encodeNat_of_lowBits lt rfl ?_
    simp [fieldAt_weight, bitsAt_eq_iff] at *
    omega

theorem rebuilds_reductionsAndPermutes {w : Nat} (lt : w < 2 ^ 32) :
    (bitsAt w 26 6 = 41 → Rebuilds w (decodeReduce w)) ∧ (bitsAt w 26 6 = 42 → Rebuilds w (decodePermute w)) := by
  and_intros <;> intro major
  all_goals
    simp only [decodeReduce, decodePermute]
    repeat' split
    all_goals simp only [rebuilds_none, rebuilds_some]
  all_goals
    refine encodeNat_of_lowBits lt rfl ?_
    simp [fieldAt_weight, bitsAt_eq_iff] at *
    omega

theorem rebuilds_vectorAccesses {w : Nat} (lt : w < 2 ^ 32) :
    (bitsAt w 26 6 = 43 → Rebuilds w (decodeVecLoad w)) ∧ (bitsAt w 26 6 = 44 → Rebuilds w (decodeVecStore w)) ∧
    (bitsAt w 26 6 = 45 → Rebuilds w (decodeVecAtomic w)) ∧ (bitsAt w 26 6 = 46 → Rebuilds w (decodeConvert w)) := by
  and_intros <;> intro major
  all_goals
    simp only [decodeVecLoad, decodeVecStore, decodeVecAtomic, decodeConvert]
    repeat' split
    all_goals simp only [rebuilds_none, rebuilds_some]
  all_goals
    refine encodeNat_of_lowBits lt rfl ?_
    simp [fieldAt_weight, fieldAt_low, bitsAt_eq_iff] at *
    omega

theorem rebuilds_engines {w : Nat} (lt : w < 2 ^ 32) :
    (bitsAt w 26 6 = 48 → Rebuilds w (decodeMezzanine w)) ∧ (bitsAt w 26 6 = 49 → Rebuilds w (decodeCopy w)) ∧
    (bitsAt w 26 6 = 50 → Rebuilds w (decodeNewel w)) := by
  and_intros <;> intro major
  all_goals
    simp only [decodeMezzanine, decodeCopy, decodeNewel]
    repeat' split
    all_goals simp only [rebuilds_none, rebuilds_some]
  all_goals
    refine encodeNat_of_lowBits lt rfl ?_
    simp [fieldAt_weight, bitsAt_eq_iff] at *
    omega

theorem rebuilds_portsAndFabric {w : Nat} (lt : w < 2 ^ 32) :
    (bitsAt w 26 6 = 51 → Rebuilds w (decodePort w)) ∧ (bitsAt w 26 6 = 52 → Rebuilds w (decodeSchedule w)) ∧
    (bitsAt w 26 6 = 53 → Rebuilds w (decodeCache w)) ∧ (bitsAt w 26 6 = 54 → Rebuilds w (decodeUndercroft w)) ∧
    (bitsAt w 26 6 = 55 → Rebuilds w (decodeHost w)) ∧ (bitsAt w 26 6 = 56 → Rebuilds w (decodeFabric w)) := by
  and_intros <;> intro major
  all_goals
    simp only [decodePort, decodeSchedule, decodeCache, decodeUndercroft, decodeHost, decodeFabric]
    repeat' split
    all_goals simp only [rebuilds_none, rebuilds_some]
  all_goals
    refine encodeNat_of_lowBits lt rfl ?_
    simp [fieldAt_weight, fieldAt_low, bitsAt_eq_iff] at *
    omega
end Sys2Proof.Machine

namespace Sys2Proof.Machine

/-! ## The clauses of the obligations -/

theorem rebuilds_decodeMajor {w : Nat} (lt : w < 2 ^ 32) : Rebuilds w (decodeMajor w) := by
  unfold decodeMajor
  split <;> simp only [*, rebuilds_none, rebuilds_alu lt, rebuilds_immediates lt, rebuilds_scalarAccessesAndFloats lt,
    rebuilds_transfersAndAtomics lt, rebuilds_vectorIntegers lt, rebuilds_vectorFloatsAndMasks lt, rebuilds_reductionsAndPermutes lt, rebuilds_vectorAccesses lt,
    rebuilds_engines lt, rebuilds_portsAndFabric lt]

/-- R36, R39, R40: the fates of a word. -/
theorem decodeWord_cases (w : BitVec 32) :
    (isGuardWord w = true ∧ decodeWord w = .guard w) ∨
    (isGuardWord w = false ∧ decodeWord w = .illegalInstruction w) ∨
    (decodeMajor w.toNat = some (decodeWord w) ∧ wellFormed (decodeWord w) = true) := by
  unfold decodeWord
  cases isGuardWord w with
  | true => exact .inl ⟨rfl, rfl⟩
  | false =>
    cases decodeMajor w.toNat with
    | none => exact .inr (.inl ⟨rfl, rfl⟩)
    | some i => cases h : wellFormed i <;> simp [h]

theorem encode_decodeWord (w : BitVec 32) : encode (decodeWord w) = some w := by
  rcases decodeWord_cases w with ⟨_, h⟩ | ⟨_, h⟩ | ⟨h, _⟩
  · simp [h, encode, encodeNat]
  · simp [h, encode, encodeNat]
  · simp [encode, rebuilds_decodeMajor w.isLt _ h]

theorem wellFormed_decodeWord (w : BitVec 32) : wellFormed (decodeWord w) = true := by
  rcases decodeWord_cases w with ⟨g, h⟩ | ⟨g, h⟩ | ⟨_, h⟩
  · simpa [h, wellFormed] using g
  · simpa [h, wellFormed] using g
  · exact h

theorem isGuardWord_iff (w : BitVec 32) : isGuardWord w = true ↔ w = 0 ∨ w = 0xFFFFFFFF := by
  simp only [isGuardWord, Bool.or_eq_true, decide_eq_true_eq]

/-- Settles O57: the fields that the decoder reads leave no bit of the word out. -/
theorem encodeDecode : Obligations.EncodeDecode := fun w =>
  ⟨encode_decodeWord w, wellFormed_decodeWord w,
    fun h => (isGuardWord_iff w).1 (by simpa [h, wellFormed] using wellFormed_decodeWord w),
    fun h => decodeWord_guard ((isGuardWord_iff w).2 h)⟩

/-- Settles O55: the words are those of the encoder, and two have a reserved field set. -/
theorem decodeWords : Obligations.DecodeWords := by
  have written : ∀ (w : BitVec 32) (i : Instr), wellFormed i = true → encode i = some w → (∀ v, i ≠ .illegalInstruction v) →
      decodeWord w = i := fun w i => decodeEncode i w
  have selector : decodeWord 0x04632708 = .illegalInstruction 0x04632708 := by
    simp [decodeWord, isGuardWord, decodeMajor, decodeAlu]
  have zeroField : decodeWord 0x08000001 = .illegalInstruction 0x08000001 := by
    simp [decodeWord, isGuardWord, decodeMajor, decodeAddi, fieldAt, wellFormed, destOk]
  refine ⟨?_, ?_⟩
  · simp only [List.forall_mem_cons, selector, zeroField, List.not_mem_nil, false_implies, implies_true,
      and_true]
    and_intros <;> exact written _ _ rfl rfl nofun
  · have add : decodeWord 0x04632000 = .add 3 3 4 := written _ _ rfl rfl nofun
    exact congrArg (fun i => Except.ok (i, [0xAA])) add

end Sys2Proof.Machine

namespace Sys2Proof.Machine

/-! ## Instructions that write a scalar integer result (R82) -/

theorem writes_aluRR {s : State} {i : Instr} {a b c : BitVec 5} {f : Word → Word → Word} {x y v : Word} {r : Res}
    (h : exec i s = r) (hr : r = aluRR s a b c f) (hx : reg s s.cur b = x) (hy : reg s s.cur c = y) (e : f x y = v) :
    Writes s i a v :=
  writes_of s i a v (by rw [h, hr, aluRR, hx, hy, e])

theorem writes_aluR {s : State} {i : Instr} {a b : BitVec 5} {f : Word → Word} {x v : Word} {r : Res} (h : exec i s = r)
    (hr : r = aluR s a b f) (hx : reg s s.cur b = x) (e : f x = v) : Writes s i a v :=
  writes_of s i a v (by rw [h, hr, aluR, hx, e])

/-! ## Results through integers -/

theorem wordOfBool_slt (x y : Word) : wordOfBool (x.slt y) = if x.toInt < y.toInt then 1 else 0 := by
  simp [wordOfBool, BitVec.slt]

theorem wordOfBool_ult (x y : Word) : wordOfBool (x.ult y) = if x.toNat < y.toNat then 1 else 0 := by
  simp [wordOfBool, BitVec.ult]

theorem sshiftRight_eq_div (x : Word) (n : Nat) : x.sshiftRight n = BitVec.ofInt 64 (x.toInt / 2 ^ n) := by
  rw [BitVec.sshiftRight_eq, Int.shiftRight_eq_div_pow]
  norm_cast

theorem smin_eq (x y : Word) : (if x.slt y then x else y) = BitVec.ofInt 64 (min x.toInt y.toInt) := by
  simp only [BitVec.slt, decide_eq_true_eq]
  split
  · rw [min_eq_left (by omega), BitVec.ofInt_toInt]
  · rw [min_eq_right (by omega), BitVec.ofInt_toInt]

theorem smax_eq (x y : Word) : (if x.slt y then y else x) = BitVec.ofInt 64 (max x.toInt y.toInt) := by
  simp only [BitVec.slt, decide_eq_true_eq]
  split
  · rw [max_eq_right (by omega), BitVec.ofInt_toInt]
  · rw [max_eq_left (by omega), BitVec.ofInt_toInt]

theorem umin_eq (x y : Word) : (if x.ult y then x else y) = BitVec.ofNat 64 (min x.toNat y.toNat) := by
  simp only [BitVec.ult, decide_eq_true_eq]
  split
  · rw [min_eq_left (by omega), BitVec.ofNat_toNat, BitVec.setWidth_eq]
  · rw [min_eq_right (by omega), BitVec.ofNat_toNat, BitVec.setWidth_eq]

theorem umax_eq (x y : Word) : (if x.ult y then y else x) = BitVec.ofNat 64 (max x.toNat y.toNat) := by
  simp only [BitVec.ult, decide_eq_true_eq]
  split
  · rw [max_eq_right (by omega), BitVec.ofNat_toNat, BitVec.setWidth_eq]
  · rw [max_eq_left (by omega), BitVec.ofNat_toNat, BitVec.setWidth_eq]

theorem mul_eq_ofNat (x y : Word) : x * y = BitVec.ofNat 64 (x.toNat * y.toNat) := by
  apply BitVec.eq_of_toNat_eq
  simp

theorem shiftLeft_eq_mul (y : Word) (k : Nat) : y <<< k = y * BitVec.ofNat 64 (2 ^ k) := by
  apply BitVec.eq_of_toNat_eq
  simp [Nat.shiftLeft_eq]

/-! ## Counts of bits -/

theorem clzN_spec (x : Word) :
    clzN 64 x.toNat ≤ 64 ∧ x.toNat < 2 ^ (64 - clzN 64 x.toNat) ∧ (clzN 64 x.toNat < 64 → 2 ^ (63 - clzN 64 x.toNat) ≤ x.toNat) := by
  unfold clzN
  by_cases h : x.toNat = 0
  · simp [h]
  · have small : Nat.log2 x.toNat < 64 := (Nat.log2_lt h).2 x.isLt
    have low : 2 ^ Nat.log2 x.toNat ≤ x.toNat := Nat.log2_self_le h
    have high : x.toNat < 2 ^ (Nat.log2 x.toNat + 1) := Nat.lt_log2_self
    rw [if_neg h, show 64 - (64 - 1 - Nat.log2 x.toNat) = Nat.log2 x.toNat + 1 by omega,
      show 63 - (64 - 1 - Nat.log2 x.toNat) = Nat.log2 x.toNat by omega]
    exact ⟨by omega, high, fun _ => low⟩

theorem ctzN_spec (w x : Nat) :
    ctzN w x ≤ w ∧ (∀ i < ctzN w x, x.testBit i = false) ∧ (ctzN w x < w → x.testBit (ctzN w x) = true) := by
  induction w generalizing x with
  | zero => simp [ctzN]
  | succ w ih =>
    by_cases odd : x % 2 = 1
    · simp [ctzN, odd, Nat.testBit_zero]
    · obtain ⟨le, below, at'⟩ := ih (x / 2)
      rw [ctzN, if_neg odd, Nat.add_comm]
      refine ⟨by omega, fun i hi => ?_, fun h => ?_⟩
      · cases i with
        | zero => simpa [Nat.testBit_zero] using odd
        | succ i => rw [Nat.testBit_succ]; exact below i (by omega)
      · rw [Nat.testBit_succ]
        exact at' (by omega)

theorem popN_eq_countP (w x : Nat) : popN w x = (List.range w).countP fun i => x.testBit i := by
  induction w generalizing x with
  | zero => rfl
  | succ w ih =>
    rw [popN, ih, List.range_succ_eq_map, List.countP_cons, List.countP_map, Nat.add_comm]
    congr 1
    · simp [Function.comp_def, Nat.testBit_succ]
    · rcases Nat.mod_two_eq_zero_or_one x with h | h <;> simp [Nat.testBit_zero, h]

/-! ## Bit fields (R49, R84) -/

/-- A field of `n` bits put at bit `k` of a word. -/
theorem getLsbD_insert (x m z : Word) (k n j : Nat) (mask : ∀ i < 64, m.getLsbD i = decide (i < n))
    (fits : ∀ i, n ≤ i → z.getLsbD i = false) (hj : j < 64) :
    ((x &&& ~~~(m <<< k)) ||| (z <<< k)).getLsbD j = if k ≤ j ∧ j < k + n then z.getLsbD (j - k) else x.getLsbD j := by
  simp only [BitVec.getLsbD_or, BitVec.getLsbD_and, BitVec.getLsbD_not, BitVec.getLsbD_shiftLeft, hj, decide_true, Bool.true_and]
  by_cases below : j < k
  · simp [below, Nat.not_le.2 below]
  · rw [mask (j - k) (by omega)]
    by_cases inside : j < k + n
    · simp [below, inside, Nat.not_lt.1 below, show j - k < n by omega]
    · simp [below, inside, fits (j - k) (by omega), show ¬ j - k < n by omega]

theorem getLsbD_ones (n i : Nat) (h : i < 64) : (BitVec.ofNat 64 (2 ^ n - 1)).getLsbD i = decide (i < n) := by
  rw [BitVec.getLsbD_ofNat, Nat.testBit_two_pow_sub_one, decide_eq_true h, Bool.true_and]

theorem and_ones_eq_mod (x : Word) (n : Nat) (h : n ≤ 64) : x &&& BitVec.ofNat 64 (2 ^ n - 1) = BitVec.ofNat 64 (x.toNat % 2 ^ n) := by
  have le : 2 ^ n ≤ 2 ^ 64 := Nat.pow_le_pow_right (by decide) h
  apply BitVec.eq_of_toNat_eq
  rw [BitVec.toNat_and, BitVec.toNat_ofNat, BitVec.toNat_ofNat, Nat.mod_eq_of_lt (by omega : 2 ^ n - 1 < 2 ^ 64),
    Nat.and_two_pow_sub_one_eq_mod, Nat.mod_eq_of_lt (Nat.lt_of_le_of_lt (Nat.mod_le _ _) x.isLt)]

/-- R49: LIH replaces a halfword. -/
theorem lih_spec (y : Word) (h : BitVec 2) (i : BitVec 16) :
    let v := (y &&& ~~~((0xFFFF : Word) <<< (16 * h.toNat))) ||| (zext i <<< (16 * h.toNat))
    v.extractLsb' (16 * h.toNat) 16 = i ∧ ∀ j < 64, j / 16 ≠ h.toNat → v.getLsbD j = y.getLsbD j := by
  have bits := fun j => getLsbD_insert y (0xFFFF : Word) (zext i) (16 * h.toNat) 16 j (getLsbD_ones 16)
    (fun k hk => by simp [zext, BitVec.getLsbD_of_ge i k hk])
  refine ⟨BitVec.eq_of_getLsbD_eq fun j hj => ?_, fun j hj out => ?_⟩
  · rw [BitVec.getLsbD_extractLsb', bits _ (by omega), if_pos (by omega), Nat.add_sub_cancel_left]
    simp [zext, hj]
    omega
  · rw [bits j hj, if_neg (by omega)]

theorem lihZ_eq (h : BitVec 2) (i : BitVec 16) : zext i <<< (16 * h.toNat) = BitVec.ofNat 64 (i.toNat * 2 ^ (16 * h.toNat)) := by
  apply BitVec.eq_of_toNat_eq
  simp [zext, Nat.shiftLeft_eq]

/-- R84: BEXT reads a field. -/
theorem bext_eq (x : Word) (p l : BitVec 6) :
    (x >>> p.toNat) &&& fieldMask l = BitVec.ofNat 64 (x.toNat / 2 ^ p.toNat % 2 ^ (l.toNat + 1)) := by
  rw [fieldMask, and_ones_eq_mod _ _ (by omega), BitVec.toNat_ushiftRight, Nat.shiftRight_eq_div_pow]

/-- R84: BINS puts the low bits of its source into a field. -/
theorem bins_spec (x y : Word) (p l : BitVec 6) (j : Nat) (hj : j < 64) :
    ((y &&& ~~~(fieldMask l <<< p.toNat)) ||| ((x &&& fieldMask l) <<< p.toNat)).getLsbD j =
      if p.toNat ≤ j ∧ j ≤ p.toNat + l.toNat then x.getLsbD (j - p.toNat) else y.getLsbD j := by
  have fits : ∀ i, l.toNat + 1 ≤ i → (x &&& fieldMask l).getLsbD i = false := fun i hi => by
    by_cases h : i < 64
    · rw [BitVec.getLsbD_and, fieldMask, getLsbD_ones _ _ h, decide_eq_false (by omega), Bool.and_false]
    · exact BitVec.getLsbD_of_ge _ _ (by omega)
  rw [getLsbD_insert y (fieldMask l) _ p.toNat (l.toNat + 1) j (getLsbD_ones _) fits hj]
  refine ite_congr (by simp only [Nat.lt_succ_iff, ← Nat.add_assoc]) (fun inside => ?_) fun _ => rfl
  rw [BitVec.getLsbD_and, fieldMask, getLsbD_ones _ _ (by omega), decide_eq_true (by omega), Bool.and_true]

/-! ## The clauses of the obligation -/

/-- Settles O1: each instruction applies its function to its registers, and the functions have the values that R82, R49 and R84 state. -/
theorem scalarIntegerResults : Obligations.ScalarIntegerResults := by
  refine ⟨fun s a b c x y hx hy => ?_, fun s a b x y hx hy => ?_⟩
  · exact ⟨writes_aluRR (r := execAdd a b c s) rfl rfl hx hy rfl,
      writes_aluRR (r := execSub a b c s) rfl rfl hx hy rfl,
      writes_aluRR (r := execAnd a b c s) rfl rfl hx hy rfl,
      writes_aluRR (r := execOr a b c s) rfl rfl hx hy rfl,
      writes_aluRR (r := execXor a b c s) rfl rfl hx hy rfl,
      writes_aluRR (r := execSll a b c s) rfl rfl hx hy rfl,
      writes_aluRR (r := execSrl a b c s) rfl rfl hx hy rfl,
      writes_aluRR (r := execSra a b c s) rfl rfl hx hy (sshiftRight_eq_div x _),
      writes_aluRR (r := execSlt a b c s) rfl rfl hx hy (wordOfBool_slt x y),
      writes_aluRR (r := execSltu a b c s) rfl rfl hx hy (wordOfBool_ult x y),
      writes_aluRR (r := execMin a b c s) rfl rfl hx hy (smin_eq x y),
      writes_aluRR (r := execMax a b c s) rfl rfl hx hy (smax_eq x y),
      writes_aluRR (r := execMinu a b c s) rfl rfl hx hy (umin_eq x y),
      writes_aluRR (r := execMaxu a b c s) rfl rfl hx hy (umax_eq x y),
      writes_aluRR (r := execMul a b c s) rfl rfl hx hy (mul_eq_ofNat x y),
      writes_aluRR (r := execMulh a b c s) rfl rfl hx hy rfl,
      writes_aluRR (r := execMulhu a b c s) rfl rfl hx hy rfl,
      fun k => writes_aluRR (r := execAddsc a b c k s) rfl rfl hx hy (congrArg (x + ·) (shiftLeft_eq_mul y k.toNat))⟩
  · refine ⟨⟨_, writes_aluR (r := execClz a b s) rfl rfl hx rfl, clzN_spec x⟩,
      ⟨_, writes_aluR (r := execCtz a b s) rfl rfl hx rfl, ctzN_spec 64 x.toNat⟩,
      writes_aluR (r := execPopc a b s) rfl rfl hx (congrArg (BitVec.ofNat 64) (popN_eq_countP 64 x.toNat)),
      writes_aluR (r := execSextw a b s) rfl rfl hx rfl, writes_aluR (r := execZextw a b s) rfl rfl hx rfl,
      fun i => ⟨writes_aluR (r := execAddi a b i s) rfl rfl hx rfl, writes_aluR (r := execAndi a b i s) rfl rfl hx rfl,
        writes_aluR (r := execOri a b i s) rfl rfl hx rfl, writes_aluR (r := execXori a b i s) rfl rfl hx rfl⟩,
      fun k => ⟨writes_aluR (r := execSlti a b k s) rfl rfl hx ?_,
        writes_aluR (r := execSltiu a b k s) rfl rfl hx (wordOfBool_ult x _)⟩,
      fun k => ⟨writes_aluR (r := execSlli a b k s) rfl rfl hx rfl, writes_aluR (r := execSrli a b k s) rfl rfl hx rfl,
        writes_aluR (r := execSrai a b k s) rfl rfl hx (sshiftRight_eq_div x _)⟩,
      fun h i => ⟨⟨_, writes_aluR (r := execLih a h i s) rfl rfl hy rfl, lih_spec y h i⟩,
        writes_aluR (r := execLihZ a h i s) rfl rfl hy (lihZ_eq h i)⟩,
      fun p l _ => ⟨writes_aluR (r := execBext a b p l s) rfl rfl hx (bext_eq x p l),
        _, writes_aluRR (r := execBins a b p l s) rfl rfl hy hx rfl, bins_spec x y p l⟩⟩
    rw [wordOfBool_slt, sext, BitVec.toInt_signExtend_of_le (by decide)]

end Sys2Proof.Machine

namespace Sys2Proof.Machine

/-! ## Hints and waits (R41, R87, R97) -/

/-- R97: a WAIT parks while a copy, Undercroft or engine command of the strand has not ended. -/
theorem exec_wait (s : State) : exec .wait s =
    if issuedCmds s (clusterIdx s.cur) (strandOf s s.cur).issuer = [] ∧ bulksOf s s.cur = [] ∧ openOps s s.cur = [] then
      .next (finish s s.cur) else .next (parkOn s s.cur .wait) := by
  rw [← ite_not]
  simp only [not_and_or, ← List.isEmpty_iff, Bool.not_eq_true]
  simp only [← Bool.not_eq_true', ← Bool.or_eq_true, ← Bool.or_assoc]
  rfl

/-- R97: the timeout lets a parked WAIT go on. -/
theorem exec_waitTimeout {s : State} {id : Nat} (park : (strandOf s id).slot = .park) (wait : (strandOf s id).blocked = some .wait) :
    exec (.waitTimeout id) s = .next (modStrand (finish s id) id fun t => { t with slot := .run }) :=
  if_pos (And.intro park wait)

/-- Settles O4: the hints complete at once, and WAIT and its timeout are one change of the strand each. -/
theorem hintsAndWaits : Obligations.HintsAndWaits := by
  refine ⟨fun s => ⟨completes_finish s _ rfl, completes_finish s _ rfl, fun h b i => completes_finish s _ rfl⟩, fun s => ?_⟩
  refine ⟨fun idle => ?_, fun busy => ?_, fun id park wait => ⟨_, exec_waitTimeout park wait, ?_, fun j hj => ?_, rfl, rfl, rfl, rfl⟩⟩
  · exact completes_finish s _ (by rw [exec_wait, if_pos idle])
  · exact completes_parkOn s _ _ (by rw [exec_wait, if_neg busy])
  · rw [strandOf_modStrand, strandOf_finish]
  · rw [strandOf_modStrand_ne _ _ _ _ hj, finish, strandOf_modStrand_ne _ _ _ _ hj]

end Sys2Proof.Machine

namespace Sys2Proof.Machine

/-! ## Control transfers (R52, R93) -/

theorem branchTarget_eq (t : Strand) (o : Word) : branchTarget t o = t.pc.signExtend 64 + 4 * o := by
  rw [branchTarget, shiftLeft_eq_mul, BitVec.mul_comm]
  rfl

theorem jumpTo_canonical (s : State) (id : Nat) (p : Word) (k : State → State) (h : canonical p = true) :
    jumpTo s id p k = finishAt (k s) id (p.setWidth 48) := if_pos h

theorem jumpTo_wild (s : State) (id : Nat) (p : Word) (k : State → State) (h : canonical p = false) :
    jumpTo s id p k = trapHere s id cPAGE_FAULT p := if_neg (by simp [h])

/-- A jump without a link goes to a canonical target, and traps at another. -/
theorem completes_jump {s : State} {i : Instr} {p : Word} (h : exec i s = .next (jumpTo s s.cur p fun u => u)) :
    (canonical p = true → Completes s i (goneTo (p.setWidth 48))) ∧ (canonical p = false → TrapsHere s i cPAGE_FAULT p) :=
  ⟨fun c => completes_finishAt s i _ (by rw [h, jumpTo_canonical _ _ _ _ c]),
   fun c => trapsHere_of s i _ _ (by rw [h, jumpTo_wild _ _ _ _ c])⟩

/-- A jump with a link writes the link before it goes; the trap on its target writes none. -/
theorem completes_jumpLink {s : State} {i : Instr} {p v : Word} {r : BitVec 5}
    (h : exec i s = .next (jumpTo s s.cur p fun u => setReg u s.cur r v)) :
    (canonical p = true → Completes s i fun t => goneTo (p.setWidth 48) (putReg t r v)) ∧
    (canonical p = false → TrapsHere s i cPAGE_FAULT p) := by
  refine ⟨fun c => ?_, fun c => trapsHere_of s i _ _ (by rw [h, jumpTo_wild _ _ _ _ c])⟩
  have run : exec i s = .next (modStrand (setReg s s.cur r v) s.cur (goneTo (p.setWidth 48))) := by
    rw [h, jumpTo_canonical _ _ _ _ c]
    rfl
  refine ⟨_, run, onlyStrand_trans (onlyStrand_modStrand s (putReg · r v))
    (onlyStrand_modStrand (setReg s s.cur r v) (goneTo (p.setWidth 48))), ?_⟩
  simp [setReg]

/-- R93: a conditional branch whose relation is `taken`. -/
theorem branch_completes {s : State} {i : Instr} {a b : BitVec 5} {o : BitVec 16} {f : Word → Word → Bool} {x y : Word}
    {taken : Prop} {r : Res} (h : exec i s = r) (hr : r = branchIf s a b o f) (hx : reg s s.cur a = x) (hy : reg s s.cur b = y)
    (rel : f x y = true ↔ taken) :
    let p := (strandOf s s.cur).pc.signExtend 64 + 4 * o.signExtend 64
    (¬ taken → Completes s i past) ∧ (taken → canonical p = true → Completes s i (goneTo (p.setWidth 48))) ∧
    (taken → canonical p = false → TrapsHere s i cPAGE_FAULT p) := by
  subst hx hy
  have run : exec i s = branchIf s a b o f := h.trans hr
  have jump := fun t : taken => completes_jump (run.trans (if_pos (rel.2 t)))
  rw [branchTarget_eq] at jump
  exact ⟨fun n => completes_finish s i (run.trans (if_neg fun t => n (rel.1 t))), fun t => (jump t).1, fun t => (jump t).2⟩

/-- R93: JALR to an address whose low bits are not 0. -/
theorem jalr_misaligned {s : State} {a b : BitVec 5} {i : BitVec 16} (h : (reg s s.cur b + sext i).toNat % 4 ≠ 0) :
    TrapsHere s (.jalr a b i) cMISALIGN (reg s s.cur b + sext i) :=
  trapsHere_of s _ _ _ (if_pos h)

/-! ## BENG (R94, R196) -/

theorem testBit_statusBits_zero (b : Bool) (l : List Bool) : (statusBits (b :: l)).testBit 0 = b := by
  cases b <;> simp [statusBits, Nat.testBit_zero, Nat.add_mod]

/-- The fields above the lowest bit of a status word do not touch it. -/
theorem testBit_zero_add_mul (a b k : Nat) (h : k % 2 = 0) : (a + b * k).testBit 0 = a.testBit 0 := by
  simp [Nat.testBit_zero, Nat.add_mod, Nat.mul_mod, h]

theorem bitsOf_one_eq_iff (n b : Nat) (x : BitVec 1) : bitsOf n b 1 = x.toNat ↔ n.testBit b = (x == 1) := by
  rw [bitsOf, Nat.testBit_eq_decide_div_mod_eq]
  obtain rfl | rfl : x = 0 ∨ x = 1 := by revert x; decide
  · simp
  · simp

/-- BENG goes where its bit of the status word agrees with its sense. -/
theorem exec_beng (s : State) (e : BitVec 5) (x : BitVec 1) (b : BitVec 4) (o : BitVec 16) :
    exec (.beng e x b o) s = if (engineStatus s s.cur e.toNat).testBit b.toNat = (x == 1) then
      .next (jumpTo s s.cur (branchTarget (strandOf s s.cur) (sext o)) fun u => u) else .next (finish s s.cur) := by
  rw [← if_congr (bitsOf_one_eq_iff (engineStatus s s.cur e.toNat) b.toNat x) rfl rfl]
  rfl

/-- A strand without a command on a copy engine reads its DONE as 1. -/
theorem copyStatus_done {s : State} {id e : Nat}
    (h : (engineQueue s (clusterIdx id) e).all (·.issuer != (strandOf s id).issuer) = true) : (copyStatus s id e).testBit 0 = true := by
  have none : (engineQueue s (clusterIdx id) e).filter (fun c => c.issuer == (strandOf s id).issuer) = [] := by
    simpa [List.filter_eq_nil_iff] using h
  simp only [copyStatus, none, List.all_nil]
  rw [Nat.mul_comm, testBit_zero_add_mul _ _ _ (by decide), testBit_statusBits_zero]

/-- DONE of the Mezzanine for its owner. -/
theorem mezzDone_iff (s : State) (id : Nat) :
    mezzDone s id = true ↔ ∀ h ∈ (strandOf s id).arc.held ++ (strandOf s id).arc.viq, h.word.extractLsb' 26 6 ≠ 0x30 := by
  have major : ∀ w : BitVec 32, bitsOf w.toNat 26 6 = 0x30 ↔ w.extractLsb' 26 6 = 0x30 := fun w => by
    rw [← BitVec.toNat_inj, BitVec.extractLsb'_toNat, Nat.shiftRight_eq_div_pow]
    rfl
  simp only [mezzDone, List.all_eq_true, bne_iff_ne, ne_eq, major]

/-- Settles O5: the branches, jumps and BENG are jumps of one shape, and DONE is the lowest bit of each engine's status word. -/
theorem controlFlow : Obligations.ControlFlow := by
  refine ⟨fun s a b o x y p hx hy hp => ?_, fun s a b o i p q hp hq => ?_, fun s e x b o p hp => ?_⟩
  · subst hp
    exact ⟨branch_completes (r := execBeq a b o s) rfl rfl hx hy (by simp), branch_completes (r := execBne a b o s) rfl rfl hx hy (by simp),
      branch_completes (r := execBlt a b o s) rfl rfl hx hy (by simp [BitVec.slt]), branch_completes (r := execBge a b o s) rfl rfl hx hy (by simp [BitVec.slt]),
      branch_completes (r := execBltu a b o s) rfl rfl hx hy (by simp [BitVec.ult]), branch_completes (r := execBgeu a b o s) rfl rfl hx hy (by simp [BitVec.ult])⟩
  · subst hp hq
    have jal := completes_jumpLink (s := s) (i := .jal o) (r := 31) (v := nextOf s) rfl
    rw [branchTarget_eq] at jal
    refine ⟨jal.1, jal.2, fun al => ?_, fun al => ?_, jalr_misaligned⟩
    · exact (completes_jumpLink (s := s) (i := .jalr a b i) (if_neg (not_not.2 al))).1
    · exact (completes_jumpLink (s := s) (i := .jalr a b i) (if_neg (not_not.2 al))).2
  · subst hp
    refine ⟨fun agrees => ?_, fun differs => completes_finish s _ (by rw [exec_beng, if_neg differs]), ?_, ?_, ?_, ?_, ?_⟩
    · rw [← branchTarget_eq]
      exact completes_jump (by rw [exec_beng, if_pos agrees]; rfl)
    · intro copy idle
      rw [engineStatus, if_pos copy]
      exact copyStatus_done idle
    · intro free
      simp [engineStatus, mezzStatus, free]
    · intro owner
      rw [show engineStatus s s.cur 4 = mezzStatus s s.cur from rfl, mezzStatus, if_pos owner, testBit_statusBits_zero]
      exact mezzDone_iff s s.cur
    · intro idle
      rw [show engineStatus s s.cur 5 = bulkStatus s s.cur from rfl, bulkStatus, Nat.mul_comm, testBit_zero_add_mul _ _ _ (by decide),
        testBit_statusBits_zero, idle]
      rfl
    · intro idle
      rw [show engineStatus s s.cur 6 = collStatus s s.cur from rfl, collStatus, testBit_statusBits_zero, idle]
      rfl

end Sys2Proof.Machine

namespace Sys2Proof.Machine

/-! ## STATUS on trap entry and return (R101) -/

theorem fld_one (w : Word) (k : Nat) : fld w k 1 = (w.getLsbD k).toNat := by
  rw [fld, bitsOf, BitVec.getLsbD, Nat.testBit_eq_decide_div_mod_eq]
  rcases Nat.mod_two_eq_zero_or_one (w.toNat / 2 ^ k) with h | h <;> simp [h]

/-- One bit of a word replaced. -/
theorem getLsbD_setFld_one (w : Word) (k v j : Nat) (hj : j < 64) :
    (setFld w k 1 v).getLsbD j = if j = k then decide (v % 2 = 1) else w.getLsbD j := by
  have fits : ∀ i, 1 ≤ i → (BitVec.ofNat 64 (v % 2 ^ 1)).getLsbD i = false := fun i hi => by
    have lt : v % 2 ^ 1 < 2 ^ i := Nat.lt_of_lt_of_le (Nat.mod_lt _ (by decide)) (Nat.pow_le_pow_right (by decide) hi)
    rw [BitVec.getLsbD_ofNat, Nat.testBit_lt_two_pow lt, Bool.and_false]
  rw [setFld, getLsbD_insert w _ _ k 1 j (getLsbD_ones 1) fits hj]
  refine ite_congr (by simp only [eq_iff_iff]; omega) (fun same => ?_) fun _ => rfl
  rw [same, Nat.sub_self, BitVec.getLsbD_ofNat, Nat.testBit_zero]
  simp

theorem getLsbD_trapStatus (st : Word) (j : Nat) (hj : j < 64) :
    (trapStatus st).getLsbD j = if j = 0 ∨ j = 3 then true else if j = 1 then st.getLsbD 0 else st.getLsbD j := by
  simp only [trapStatus, getLsbD_setFld_one _ _ _ _ hj, fld_one]
  by_cases h0 : j = 0
  · simp [h0]
  · by_cases h3 : j = 3
    · simp [h3]
    · cases st.getLsbD 0 <;> simp [h0, h3]

theorem getLsbD_returnStatus (st : Word) (j : Nat) (hj : j < 64) :
    (returnStatus st).getLsbD j = if j = 3 then false else if j = 0 then st.getLsbD 1 else st.getLsbD j := by
  simp only [returnStatus, getLsbD_setFld_one _ _ _ _ hj, fld_one]
  cases st.getLsbD 1 <;> simp

/-- R101: what trap entry and return make of STATUS. -/
theorem status_bits (st : Word) :
    fld (trapStatus st) 0 1 = 1 ∧ fld (trapStatus st) 1 1 = fld st 0 1 ∧ fld (trapStatus st) 3 1 = 1 ∧
    (trapStatus st).extractLsb' 4 60 = st.extractLsb' 4 60 ∧ fld (trapStatus st) 2 1 = fld st 2 1 ∧
    fld (returnStatus st) 0 1 = fld st 1 1 ∧ fld (returnStatus st) 3 1 = 0 ∧ fld (returnStatus st) 1 1 = fld st 1 1 ∧
    fld (returnStatus st) 2 1 = fld st 2 1 ∧ (returnStatus st).extractLsb' 4 60 = st.extractLsb' 4 60 := by
  have trap : (trapStatus st).extractLsb' 4 60 = st.extractLsb' 4 60 := BitVec.eq_of_getLsbD_eq fun j hj => by
    rw [BitVec.getLsbD_extractLsb', BitVec.getLsbD_extractLsb', getLsbD_trapStatus _ _ (by omega), if_neg (by omega), if_neg (by omega)]
  have back : (returnStatus st).extractLsb' 4 60 = st.extractLsb' 4 60 := BitVec.eq_of_getLsbD_eq fun j hj => by
    rw [BitVec.getLsbD_extractLsb', BitVec.getLsbD_extractLsb', getLsbD_returnStatus _ _ (by omega), if_neg (by omega), if_neg (by omega)]
  simp [-BitVec.getLsbD_eq_getElem, fld_one, getLsbD_trapStatus, getLsbD_returnStatus, trap, back]

/-- R101: what trap entry writes, and what it leaves. -/
theorem trapped_eq (t : Strand) (c : Nat) (v p : Word) (h : stNest t = false) : trapped c v p t = entered c v p t :=
  if_neg (by simp [h])

/-! ## RETS (R53, R101, R103, R229) -/

theorem exec_rets_user {s : State} (h : stSuper (strandOf s s.cur) = false) : exec .rets s = .next (trapWord s s.cur cPRIV 0x64000800) :=
  if_neg (by simp [h])

theorem exec_rets_super {s : State} (h : stSuper (strandOf s s.cur) = true) :
    exec .rets s = .next (saveAtReturn (modStrand s s.cur returnFromTrap) s.cur) := if_pos h

theorem linksDefer_congr {s t : State} (id : Nat) (hm : t.mem = s.mem) (hc : (strandOf t id).linkCount = (strandOf s id).linkCount)
    (ho : (strandOf t id).linkDeferOver = (strandOf s id).linkDeferOver) : linksDefer t id = linksDefer s id := by
  rw [linksDefer, linksDefer, hm, hc, ho]

/-- The strand after a return at S: a due pre-emption whose trap was taken is saved now. -/
def returned (defer : Bool) (t : Strand) : Strand :=
  if t.due = true ∧ t.preemptTrapped = true ∧ t.arc.viq = [] ∧ defer = false then { t with slot := .save, hostAnswer := none } else t

@[simp] theorem returned_regs (d : Bool) (t : Strand) : (returned d t).regs = t.regs := by unfold returned; split <;> rfl
@[simp] theorem returned_sflags (d : Bool) (t : Strand) : (returned d t).sflags = t.sflags := by unfold returned; split <;> rfl
@[simp] theorem returned_status (d : Bool) (t : Strand) : (returned d t).status = t.status := by unfold returned; split <;> rfl
@[simp] theorem returned_pc (d : Bool) (t : Strand) : (returned d t).pc = t.pc := by unfold returned; split <;> rfl
@[simp] theorem returned_arc (d : Bool) (t : Strand) : (returned d t).arc = t.arc := by unfold returned; split <;> rfl
@[simp] theorem returned_slot (d : Bool) (t : Strand) : (returned d t).slot =
    if t.due = true ∧ t.preemptTrapped = true ∧ t.arc.viq = [] ∧ d = false then .save else t.slot := by
  unfold returned; split <;> rfl

theorem returnFromTrap_plain {t : Strand} (h : t.arc.held = []) :
    returnFromTrap t = { t with status := returnStatus t.status, pc := t.epc.setWidth 48, blocked := none } := by
  rw [returnFromTrap, if_neg (by simp [heldOn, h])]
  rfl

theorem returnFromTrap_held {t : Strand} (h : t.arc.held ≠ []) :
    returnFromTrap t = { t with status := returnStatus t.status, pc := t.arc.heldPoint, blocked := none,
                                arc := { t.arc with viq := t.arc.held, held := [], heldPoint := 0 } } :=
  if_pos (by simpa [heldOn] using h)

/-- A return changes nothing by which links defer a save. -/
theorem linksDefer_return (s : State) : linksDefer (modStrand s s.cur returnFromTrap) s.cur = linksDefer s s.cur := by
  refine linksDefer_congr s.cur rfl ?_ ?_ <;> rw [strandOf_modStrand, returnFromTrap] <;> split <;> rfl

theorem completes_rets {s : State} (h : stSuper (strandOf s s.cur) = true) :
    Completes s .rets fun t => returned (linksDefer s s.cur) (returnFromTrap t) := by
  refine ⟨_, exec_rets_super h, ?_, ?_⟩
  · rw [saveAtReturn]
    split
    · exact onlyStrand_trans (onlyStrand_modStrand s returnFromTrap) (onlyStrand_modStrand (modStrand s s.cur returnFromTrap) _)
    · exact onlyStrand_modStrand s returnFromTrap
  · simp only [saveAtReturn, returned, linksDefer_return, strandOf_modStrand, Bool.and_eq_true, Bool.not_eq_true', List.isEmpty_iff,
      and_assoc]
    split
    · exact (strandOf_modStrand _ _ _).trans (by rw [strandOf_modStrand])
    · rw [strandOf_modStrand]

/-- Settles O7: trap entry and RETS are one change of the strand each, and their STATUS is given bit by bit. -/
theorem trapEntryAndReturn : Obligations.TrapEntryAndReturn := by
  refine ⟨fun s w => ⟨trapsHere_word s _ _ _ rfl, trapsHere_illegal s _ _ rfl⟩, ⟨status_bits, fun t c v p h => ?_⟩, fun s => ⟨fun h => ?_, fun h => ?_⟩⟩
  · rw [trapped_eq t c v p h]
    exact ⟨BitVec.toNat_ofNat c 64, rfl, rfl, rfl, rfl, rfl, rfl⟩
  · exact trapsHere_word s _ _ _ (exec_rets_user h)
  · obtain ⟨t, run, only, strand⟩ := completes_rets h
    refine ⟨t, run, only, ?_⟩
    dsimp only at strand
    by_cases held : (strandOf s s.cur).arc.held = []
    · rw [returnFromTrap_plain held] at strand
      simp [strand, held]
    · rw [returnFromTrap_held held] at strand
      simp [strand, held]

end Sys2Proof.Machine

namespace Sys2Proof.Machine

/-! ## The checks and the course of a Newel instruction (R63, R250, R358) -/

/-- The bits of a word from `lo` up. -/
theorem fld_top_eq_zero_iff (w : Word) (lo n : Nat) (h : lo + n = 64) : fld w lo n = 0 ↔ w.toNat < 2 ^ lo := by
  have lt : w.toNat / 2 ^ lo < 2 ^ n := Nat.div_lt_of_lt_mul (by rw [← pow_add, h]; exact w.isLt)
  rw [fld, bitsOf, Nat.mod_eq_of_lt lt, Nat.div_eq_zero_iff]
  simp

theorem fld_top_bne_zero (w : Word) (lo n : Nat) (h : lo + n = 64) : (fld w lo n != 0) = decide (2 ^ lo ≤ w.toNat) := by
  rw [Bool.eq_iff_iff, bne_iff_ne, decide_eq_true_iff, Ne, fld_top_eq_zero_iff w lo n h, Nat.not_lt]

theorem dieIdx_eq (id : Nat) : dieIdx id = clusterIdx id / 16 := by simp [dieIdx, clusterIdx, Nat.div_div_eq_div_mul]

section
variable {s : State} {w : BitVec 32} {bad : Bool} {x : BitVec 9} {r : BitVec 1} {k : Nat → State} {cl : Nat}

theorem newelThen_bad (h : bad = true) : newelThen s w bad x r k = trapIllegal s s.cur w := if_pos h

theorem newelThen_absent (h : bad = false) (hr : r = 1) (off : (coreOf s x.toNat).enabled = false) :
    newelThen s w bad x r k = trapHere s s.cur cCOORD (BitVec.ofNat 64 x.toNat) := by
  rw [newelThen, if_neg (by simp [h]), if_pos ⟨hr, off⟩]

/-- Past the checks an operation waits for its stream, or acts on its cluster. -/
theorem newelThen_checked (h : bad = false) (hc : cl = (if r = 1 then x.toNat / 8 else clusterIdx s.cur))
    (on : r = 1 → (coreOf s x.toNat).enabled = true) : newelThen s w bad x r k =
      if streamHeld s s.cur 0 [some (4 * pkgNumber s + cl / 16)] then blockOn s s.cur (.remote 0) else noteNewel (k cl) s.cur cl := by
  rw [newelThen, if_neg (by simp [h]), if_neg fun ⟨hr, off⟩ => by simp [on hr] at off]
  rw [← hc]

end

/-- The fabric after an operation on a cluster. -/
def newelNet (s : State) (cl : Nat) : Net :=
  if cl / 16 = dieIdx s.cur then s.net else (takeSeq s (sidOf s.cur 0) (4 * pkgNumber s + cl / 16)).net

/-- The packet to another die changes the fabric alone. -/
theorem noteNewel_eq {s u : State} (cl : Nat) (h : u.net = s.net) : noteNewel u s.cur cl = { u with net := newelNet s cl } := by
  rw [noteNewel, newelNet]
  split
  · rw [← h]
  · simp only [takeSeq, pkgNumber, h]

theorem OnlyStrand.withNet {s t : State} (h : OnlyStrand s t) (n : Net) : OnlyStrand { s with net := n } { t with net := n } :=
  ⟨h.agenda, h.cur, h.cores, h.clusters, h.dies, h.mem, h.pkg, rfl, h.free, h.others⟩

/-! ## The words of MAJ 0x32 -/

theorem toNat_wordNewel (op : BitVec 3) (a b : BitVec 5) (x : BitVec 9) (r : BitVec 1) : (wordNewel op a b x r).toNat =
    0xC8000000 + a.toNat * 0x200000 + b.toNat * 0x10000 + x.toNat * 0x80 + r.toNat * 0x8 + op.toNat := by
  rw [wordNewel, wordX]
  simp only [toNat_append_add, BitVec.reduceToNat]
  omega

section
variable (a b : BitVec 5) (x : BitVec 9) (r : BitVec 1)

theorem encode_seminc : encode (.seminc a b x r) = some (wordNewel 0 a b x r) := encode_of_toNat rfl (by rw [toNat_wordNewel]; rfl)
theorem encode_semset : encode (.semset a b x r) = some (wordNewel 1 a b x r) :=
  encode_of_toNat rfl (by rw [toNat_wordNewel]; simp; omega)
theorem encode_semwait : encode (.semwait a b) = some (wordNewel 2 a b 0 0) :=
  encode_of_toNat rfl (by rw [toNat_wordNewel]; simp; omega)
theorem encode_semrd : encode (.semrd a b x r) = some (wordNewel 3 a b x r) :=
  encode_of_toNat rfl (by rw [toNat_wordNewel]; simp; omega)
theorem encode_barinit : encode (.barinit a b x r) = some (wordNewel 4 a b x r) :=
  encode_of_toNat rfl (by rw [toNat_wordNewel]; simp; omega)
theorem encode_bararr : encode (.bararr a b x r) = some (wordNewel 5 a b x r) :=
  encode_of_toNat rfl (by rw [toNat_wordNewel]; simp; omega)
theorem encode_barwait : encode (.barwait a b) = some (wordNewel 6 a b 0 0) :=
  encode_of_toNat rfl (by rw [toNat_wordNewel]; simp; omega)

end

/-! ## The operations of the Newel -/

/-- An operation of the Newel: its word, its checks on register values, the core it names, and what it does with a cluster. -/
def NewelOp (s : State) (i : Instr) (w : BitVec 32) (bad : Prop) (x : BitVec 9) (r : BitVec 1) (k : Nat → State) : Prop :=
  encode i = some w ∧ ∃ c : Bool, (c = true ↔ bad) ∧ exec i s = .next (newelThen s w c x r k)

section
variable {s : State} {i : Instr} {w : BitVec 32} {bad : Prop} {x : BitVec 9} {r : BitVec 1} {k : Nat → State} {cl : Nat}

theorem NewelOp.illegal (h : NewelOp s i w bad x r k) (hb : bad) : ∀ v, encode i = some v → TrapsHere s i cILLEGAL (v.zeroExtend 64) := by
  obtain ⟨word, c, check, run⟩ := h
  intro v hv
  obtain rfl : w = v := by simpa [word] using hv
  exact trapsHere_illegal s i w (by rw [run, newelThen_bad (check.mpr hb)])

theorem NewelOp.absent (h : NewelOp s i w bad x r k) (hb : ¬ bad) (hr : r = 1) (off : (coreOf s x.toNat).enabled = false) :
    TrapsHere s i cCOORD (BitVec.ofNat 64 x.toNat) := by
  obtain ⟨-, c, check, run⟩ := h
  have pass : c = false := by simpa using mt check.mp hb
  exact trapsHere_of s i _ _ (by rw [run, newelThen_absent pass hr off])

section
variable (h : NewelOp s i w bad x r k) (hb : ¬ bad) (hc : cl = (if r = 1 then x.toNat / 8 else clusterIdx s.cur))
  (on : r = 1 → (coreOf s x.toNat).enabled = true)
include h hb hc on

theorem NewelOp.waits (held : streamHeld s s.cur 0 [some (4 * pkgNumber s + cl / 16)] = true) :
    Completes s i fun t => { t with blocked := some (.remote 0) } := by
  obtain ⟨-, c, check, run⟩ := h
  have pass : c = false := by simpa using mt check.mp hb
  exact completes_blockOn s i _ (by rw [run, newelThen_checked pass hc on, if_pos held])

theorem NewelOp.runs (go : streamHeld s s.cur 0 [some (4 * pkgNumber s + cl / 16)] = false) :
    exec i s = .next (noteNewel (k cl) s.cur cl) := by
  obtain ⟨-, c, check, run⟩ := h
  have pass : c = false := by simpa using mt check.mp hb
  rw [run, newelThen_checked pass hc on, if_neg (by simp [go])]

end

/-- An operation on the strand's own cluster sends no packet. -/
theorem NewelOp.runsHere (h : NewelOp s i w bad 0 0 k) (hb : ¬ bad)
    (go : streamHeld s s.cur 0 [some (4 * pkgNumber s + dieIdx s.cur)] = false) : exec i s = .next (k (clusterIdx s.cur)) := by
  rw [dieIdx_eq] at go
  rw [h.runs hb (if_neg (by decide)).symm (fun one => absurd one (by decide)) go, noteNewel, if_pos (dieIdx_eq _).symm]

end

section
variable (s : State) (a b : BitVec 5) (x : BitVec 9) (r : BitVec 1)

theorem seminc_newel : NewelOp s (.seminc a b x r) (wordNewel 0 a b x r)
    (256 ≤ (reg s s.cur a).toNat ∨ 2 ^ 32 ≤ (reg s s.cur b).toNat) x r
    fun cl => finish (incSem s cl (reg s s.cur a).toNat (reg s s.cur b).toNat) s.cur :=
  ⟨encode_seminc a b x r, _, by simp [fld_top_bne_zero], rfl⟩

theorem semset_newel : NewelOp s (.semset a b x r) (wordNewel 1 a b x r)
    (256 ≤ (reg s s.cur a).toNat ∨ 2 ^ 32 ≤ (reg s s.cur b).toNat) x r
    fun cl => finish (setSem s cl (reg s s.cur a).toNat (BitVec.ofNat 32 (reg s s.cur b).toNat)) s.cur :=
  ⟨encode_semset a b x r, _, by simp [fld_top_bne_zero], rfl⟩

theorem semwait_newel : NewelOp s (.semwait a b) (wordNewel 2 a b 0 0)
    (256 ≤ (reg s s.cur a).toNat ∨ 2 ^ 32 ≤ (reg s s.cur b).toNat) 0 0
    fun cl => if (reg s s.cur b).toNat ≤ (semOf s cl (reg s s.cur a).toNat).toNat then finish s s.cur
      else parkOn s s.cur (.semwait a b) :=
  ⟨encode_semwait a b, _, by simp [fld_top_bne_zero], rfl⟩

theorem semrd_newel : NewelOp s (.semrd a b x r) (wordNewel 3 a b x r) (a = 0 ∨ 256 ≤ (reg s s.cur b).toNat) x r
    fun cl => finishReg s s.cur a ((semOf s cl (reg s s.cur b).toNat).zeroExtend 64) :=
  ⟨encode_semrd a b x r, _, by simp [fld_top_bne_zero], rfl⟩

end

/-! ## Semaphores (R249, R251) -/

section
variable {s : State} {cl n : Nat} {v : BitVec 32}

theorem clusterOf_setSem : clusterOf (setSem s cl n v) cl = { clusterOf s cl with sems := tblSet (clusterOf s cl).sems n v } :=
  clusterOf_setCluster ..

theorem clusterOf_setSem_ne {j : Nat} (h : j ≠ cl) : clusterOf (setSem s cl n v) j = clusterOf s j := clusterOf_setCluster_ne _ _ _ _ h

/-- An operation that writes a semaphore writes it alone. -/
theorem sets_semaphore {i : Instr} (he : exec i s = .next (noteNewel (finish (setSem s cl n v) s.cur) s.cur cl)) :
    ∃ t : State, exec i s = .next t ∧ strandOf t s.cur = past (strandOf s s.cur) ∧
      (∀ j, j ≠ s.cur → strandOf t j = strandOf s j) ∧ (semOf t cl n).toNat = v.toNat ∧
      (∀ m, m ≠ n → semOf t cl m = semOf s cl m) ∧ (∀ k, k ≠ cl → clusterOf t k = clusterOf s k) ∧
      clusterOf t cl = { clusterOf s cl with sems := (clusterOf t cl).sems } ∧ t.mem = s.mem ∧ t.cores = s.cores ∧
      t.dies = s.dies ∧ t.pkg = s.pkg ∧ t.net = newelNet s cl := by
  rw [noteNewel_eq (s := s) (u := finish (setSem s cl n v) s.cur) cl rfl] at he
  have here : ∀ m, semOf (setSem s cl n v) cl m = tblGet 0 (tblSet (clusterOf s cl).sems n v) m := fun m => by
    rw [semOf, clusterOf_setSem]
  refine ⟨_, he, strandOf_finish _ _, fun j hj => strandOf_modStrand_ne (setSem s cl n v) _ j past hj, ?_, fun m hm => ?_, fun k hk => ?_, ?_,
    rfl, rfl, rfl, rfl, rfl⟩
  · exact congrArg BitVec.toNat ((here n).trans (tblGet_tblSet ..))
  · exact (here m).trans (tblGet_tblSet_ne _ _ _ _ _ hm)
  · exact clusterOf_setSem_ne hk
  · exact clusterOf_setSem.trans (congrArg (fun z => { clusterOf s cl with sems := z }) (congrArg Cluster.sems clusterOf_setSem).symm)

end

end Sys2Proof.Machine

namespace Sys2Proof.Machine

/-! ## Barriers (R249, R252-R254) -/

/-- What completing parked strands changes: strands alone, and none that is not parked. -/
def Woken (s u : State) : Prop :=
  u = { s with strands := u.strands } ∧ ∀ j, (strandOf s j).slot ≠ .park → strandOf u j = strandOf s j

theorem barWaiter_parked {s : State} {b id : Nat} {x : BitVec 5 × Word} (h : barWaiter s b id = some x) : (strandOf s id).slot = .park := by
  simp only [barWaiter] at h
  split at h
  · assumption
  · cases h

theorem strandOf_completeParked_ne (s : State) (id j : Nat) (r : BitVec 5) (v : Word) (h : j ≠ id) :
    strandOf (completeParked s id r v) j = strandOf s j := by
  rw [completeParked, strandOf_modStrand_ne _ _ _ _ h, finishReg, finish, strandOf_modStrand_ne _ _ _ _ h, setReg,
    strandOf_modStrand_ne _ _ _ _ h]

theorem woken_wakeBar (s : State) (cl b : Nat) (status : Word) (f : Word → Bool) : Woken s (wakeBar s cl b status f) := by
  refine List.foldlRecOn (motive := Woken s) _ _ ⟨rfl, fun _ _ => rfl⟩ fun u hu i _ => ?_
  obtain ⟨rest, others⟩ := hu
  split
  case h_1 a k waiter =>
    split
    · refine ⟨?_, fun j hj => ?_⟩
      · exact congrArg (fun z : State => { z with strands := (completeParked u (32 * cl + i) a status).strands }) rest
      · refine (strandOf_completeParked_ne u _ j a status ?_).trans (others j hj)
        rintro rfl
        exact hj (others _ hj ▸ barWaiter_parked waiter)
    · exact ⟨rest, others⟩
  case h_2 => exact ⟨rest, others⟩

/-- R252: the barrier after `w` units, and whether units were left after a completion. -/
theorem arriveUnits_eq (w : Nat) (y : Barrier) (done flipped ovr : Bool) (h : y.cnt < y.exp) :
    (arriveUnits w y done flipped ovr).1 = { y with
      cnt := (y.cnt + w) % y.exp, phase := if (y.cnt + w) / y.exp % 2 = 1 then !y.phase else y.phase } ∧
    (arriveUnits w y done flipped ovr).2.2 = (ovr || (done && decide (0 < w)) || decide (y.exp < y.cnt + w)) := by
  induction w generalizing y done flipped ovr with
  | zero => simp [arriveUnits, Nat.mod_eq_of_lt h, Nat.div_eq_of_lt h, Nat.le_of_lt h]
  | succ w ih =>
    rw [arriveUnits]
    by_cases full : y.cnt + 1 = y.exp
    · have total : y.cnt + (w + 1) = y.exp + w := by omega
      have pos : 0 < y.exp := by omega
      obtain ⟨bar, left⟩ := ih { y with cnt := 0, phase := !y.phase } true true (ovr || done) pos
      rw [if_pos full, bar, left, total]
      constructor
      · simp only [Nat.zero_add, Nat.add_mod_left, Nat.add_div_left w pos]
        rcases Nat.mod_two_eq_zero_or_one (w / y.exp) with even | odd
        · simp [even, Nat.add_mod]
        · simp [odd, Nat.add_mod]
      · have none_left : (decide (0 < w) || decide (y.exp < 0 + w)) = decide (y.exp < y.exp + w) := by
          rw [← Bool.decide_or, decide_eq_decide]
          omega
        rw [Bool.true_and, Bool.or_assoc, none_left]
        simp
    · obtain ⟨bar, left⟩ := ih { y with cnt := y.cnt + 1 } false flipped (ovr || done) (by dsimp only; omega)
      have total : y.cnt + (w + 1) = y.cnt + 1 + w := by omega
      rw [if_neg full, bar, left, total]
      simp

section
variable {s : State} {cl n : Nat} {y : Barrier}

theorem clusterOf_setBar : clusterOf (setBar s cl n y) cl = { clusterOf s cl with bars := tblSet (clusterOf s cl).bars n y } :=
  clusterOf_setCluster ..

theorem barOf_setBar : barOf (setBar s cl n y) cl n = y := by rw [barOf, clusterOf_setBar]; exact tblGet_tblSet ..

theorem barOf_setBar_ne {m : Nat} (h : m ≠ n) : barOf (setBar s cl n y) cl m = barOf s cl m := by
  rw [barOf, clusterOf_setBar]
  exact tblGet_tblSet_ne _ _ _ _ _ h

theorem Woken.barOf {u : State} (h : Woken s u) (m : Nat) : barOf u cl m = barOf s cl m := by
  rw [Machine.barOf, Machine.barOf, clusterOf, h.1, clusterOf]

end

/-- R252: an arrival changes the barrier and completes parked strands. -/
theorem arrive_eq (s : State) (cl n w : Nat) :
    Woken (setBar s cl n (arriveUnits w (barOf s cl n) false false false).1) (arrive s cl n w).1 ∧
    (arrive s cl n w).2 = (arriveUnits w (barOf s cl n) false false false).2.2 := by
  rw [arrive]
  refine ⟨?_, rfl⟩
  dsimp only
  split
  · exact woken_wakeBar ..
  · exact ⟨rfl, fun _ _ => rfl⟩

section
variable (s : State) (a b : BitVec 5) (x : BitVec 9) (r : BitVec 1)

theorem barinit_newel : NewelOp s (.barinit a b x r) (wordNewel 4 a b x r)
    (64 ≤ (reg s s.cur a).toNat ∨ (reg s s.cur b).toNat = 0 ∨ 2 ^ 16 ≤ (reg s s.cur b).toNat) x r
    fun cl => finish (wakeBar (setBar (abandonIf s cl (boundTo (reg s s.cur a).toNat)) cl (reg s s.cur a).toNat
      { barOf s cl (reg s s.cur a).toNat with exp := (reg s s.cur b).toNat, cnt := 0, state := .normal }) cl (reg s s.cur a).toNat 2
      fun _ => true) s.cur :=
  ⟨encode_barinit a b x r, _, by simp [fld_top_bne_zero, or_assoc, ← BitVec.toNat_inj], rfl⟩

/-- R252: an arrival. -/
def arrival (s : State) (a : BitVec 5) (n w cl : Nat) : State :=
  let y := barOf s cl n
  if y.state ≠ .normal then trapHere s s.cur cBARRIER_FAULT (BitVec.ofNat 64 n)
  else finishReg (raise (arrive s cl n w).1 s.cur (flagIf (arrive s cl n w).2 flagBAROVR)) s.cur a
    (BitVec.ofNat 64 ((if y.phase then 256 else 0) + n))

theorem bararr_newel : NewelOp s (.bararr a b x r) (wordNewel 5 a b x r)
    (¬ ((reg s s.cur b).toNat % 2 ^ 16 < 64 ∧ (reg s s.cur b).toNat < 2 ^ 32)) x r
    (arrival s a (fld (reg s s.cur b) 0 6) (fld (reg s s.cur b) 16 16 + 1)) := by
  refine ⟨encode_bararr a b x r, _, ?_, rfl⟩
  simp only [Bool.or_eq_true, bne_iff_ne, fld, bitsOf]
  omega

/-- R253: a wait for the phase of a ticket. -/
def barrierWait (s : State) (a b : BitVec 5) (n : Nat) (p : Bool) (cl : Nat) : State :=
  let y := barOf s cl n
  if y.state = .uninit then trapHere s s.cur cBARRIER_FAULT (BitVec.ofNat 64 n)
  else if y.phase ≠ p then finishReg s s.cur a 0
  else if y.state = .faulted then finishReg s s.cur a 1
  else parkOn s s.cur (.barwait a b)

theorem barwait_newel : NewelOp s (.barwait a b) (wordNewel 6 a b 0 0)
    (¬ ((reg s s.cur b).toNat < 512 ∧ (reg s s.cur b).toNat % 256 < 64)) 0 0
    (barrierWait s a b (fld (reg s s.cur b) 0 6) (fld (reg s s.cur b) 8 1 == 1)) := by
  refine ⟨encode_barwait a b, _, ?_, rfl⟩
  simp only [Bool.or_eq_true, bne_iff_ne, fld, bitsOf]
  have := (reg s s.cur b).isLt
  omega

end

end Sys2Proof.Machine

namespace Sys2Proof.Machine

/-! ## The courses of the Newel instructions -/

section
variable {s : State} {a b : BitVec 5} {x : BitVec 9} {r : BitVec 1} {cl n : Nat}

/-- An operation that changes its strand alone, whatever packet it sends. -/
theorem newel_strand {i : Instr} {u : State} (hn : OnlyStrand s u) (he : exec i s = .next (noteNewel u s.cur cl)) :
    ∃ t : State, exec i s = .next t ∧ OnlyStrand { s with net := t.net } t ∧ t.net = newelNet s cl ∧
      strandOf t s.cur = strandOf u s.cur := by
  rw [noteNewel_eq cl hn.net] at he
  exact ⟨_, he, hn.withNet _, rfl, rfl⟩

theorem strandOf_finishReg (s : State) (id : Nat) (a : BitVec 5) (v : Word) :
    strandOf (finishReg s id a v) id = past (putReg (strandOf s id) a v) := by
  rw [finishReg, strandOf_finish, setReg, strandOf_modStrand]

theorem getReg_past (t : Strand) (a : BitVec 5) : getReg (past t) a = getReg t a := rfl

theorem onlyStrand_finishReg (s : State) (a : BitVec 5) (v : Word) : OnlyStrand s (finishReg s s.cur a v) :=
  onlyStrand_trans (onlyStrand_modStrand s fun t => putReg t a v) (onlyStrand_modStrand (setReg s s.cur a v) past)

theorem semwait_completes (hn : (reg s s.cur a).toNat < 256) (hv : (reg s s.cur b).toNat < 2 ^ 32)
    (go : streamHeld s s.cur 0 [some (4 * pkgNumber s + dieIdx s.cur)] = false) :
    ((reg s s.cur b).toNat ≤ (semOf s (clusterIdx s.cur) (reg s s.cur a).toNat).toNat → Completes s (.semwait a b) past) ∧
    ((semOf s (clusterIdx s.cur) (reg s s.cur a).toNat).toNat < (reg s s.cur b).toNat →
      Completes s (.semwait a b) fun t => { t with slot := .park, blocked := some (.semwait a b) }) := by
  have run := (semwait_newel s a b).runsHere (by omega) go
  exact ⟨fun h => completes_finish s _ (by rw [run, if_pos h]), fun h => completes_parkOn s _ _ (by rw [run, if_neg (by omega)])⟩

/-- R254: BARINIT makes the barrier NORMAL with its expectation, and keeps its phase. -/
theorem barinit_sets (running : (strandOf s s.cur).slot = .run)
    (he : exec (.barinit a b x r) s = .next (noteNewel (finish (wakeBar (setBar (abandonIf s cl (boundTo n)) cl n
      { barOf s cl n with exp := (reg s s.cur b).toNat, cnt := 0, state := .normal }) cl n 2 fun _ => true) s.cur) s.cur cl)) :
    ∃ t : State, exec (.barinit a b x r) s = .next t ∧ (strandOf t s.cur).pc = (strandOf s s.cur).pc + 4 ∧
      barOf t cl n = ⟨(reg s s.cur b).toNat, 0, (barOf s cl n).phase, .normal⟩ ∧ (∀ m, m ≠ n → barOf t cl m = barOf s cl m) ∧
      (clusterOf t cl).sems = (clusterOf s cl).sems ∧ t.mem = s.mem ∧ t.net = newelNet s cl := by
  generalize hu : setBar (abandonIf s cl (boundTo n)) cl n
    { barOf s cl n with exp := (reg s s.cur b).toNat, cnt := 0, state := .normal } = u at he
  have woken := woken_wakeBar u cl n 2 fun _ => true
  generalize wakeBar u cl n 2 (fun _ => true) = w at he woken
  have net : w.net = s.net := by rw [woken.1, ← hu]; rfl
  rw [noteNewel_eq (u := finish w s.cur) cl net] at he
  have here : strandOf w s.cur = strandOf s s.cur := by
    rw [woken.2 s.cur (by rw [← hu]; exact running ▸ by decide), ← hu]
    rfl
  have bars : ∀ m, barOf w cl m = barOf u cl m := woken.barOf
  have abandoned : ∀ m, barOf (abandonIf s cl (boundTo n)) cl m = barOf s cl m := fun m => by
    simp only [abandonIf, barOf, clusterOf_setCluster]
  refine ⟨_, he, ?_, ?_, fun m hm => ?_, ?_, ?_, rfl⟩
  · exact (congrArg Strand.pc (strandOf_finish w s.cur)).trans (by rw [here]; rfl)
  · exact (bars n).trans (by rw [← hu, barOf_setBar])
  · exact (bars m).trans (by rw [← hu, barOf_setBar_ne hm, abandoned])
  · show (clusterOf w cl).sems = _
    rw [clusterOf, woken.1, ← hu]
    show (clusterOf (setBar _ _ _ _) cl).sems = _
    rw [clusterOf_setBar, abandonIf, clusterOf_setCluster]
  · show w.mem = _
    rw [woken.1, ← hu]
    rfl

/-- R252: an arrival at a NORMAL barrier. -/
theorem arrival_counts {i : Instr} {w : Nat} (running : (strandOf s s.cur).slot = .run) {y : Barrier} (hy : y = barOf s cl n)
    (normal : y.state = .normal) (open' : y.cnt < y.exp) (he : exec i s = .next (noteNewel (arrival s a n (w + 1) cl) s.cur cl)) :
    ∃ t : State, exec i s = .next t ∧ (strandOf s s.cur).slot = (strandOf t s.cur).slot ∧
      (strandOf t s.cur).pc = (strandOf s s.cur).pc + 4 ∧
      getReg (strandOf t s.cur) a = (if a = 0 then 0 else BitVec.ofNat 64 ((if y.phase then 256 else 0) + n)) ∧
      (strandOf t s.cur).sflags = (strandOf s s.cur).sflags ||| flagIf (decide (y.exp < y.cnt + w + 1)) flagBAROVR ∧
      barOf t cl n = { y with cnt := (y.cnt + w + 1) % y.exp, phase := if (y.cnt + w + 1) / y.exp % 2 = 1 then !y.phase else y.phase } ∧
      (∀ m, m ≠ n → barOf t cl m = barOf s cl m) ∧ t.mem = s.mem ∧ t.net = newelNet s cl := by
  obtain ⟨woken, ovr⟩ := arrive_eq s cl n (w + 1)
  obtain ⟨bar, left⟩ := arriveUnits_eq (w + 1) (barOf s cl n) false false false (hy ▸ open')
  subst hy
  rw [arrival, if_neg (by simp [normal]), ovr, left] at he
  rw [bar] at woken
  generalize (arrive s cl n (w + 1)).1 = u at he woken
  have net : u.net = s.net := by rw [woken.1]; rfl
  have here : strandOf u s.cur = strandOf s s.cur := woken.2 s.cur (by exact running ▸ by decide)
  generalize hf : flagIf _ flagBAROVR = f at he
  rw [noteNewel_eq (u := finishReg (raise u s.cur f) s.cur a _) cl net] at he
  have strand := strandOf_finishReg (raise u s.cur f) s.cur a (BitVec.ofNat 64 ((if (barOf s cl n).phase then 256 else 0) + n))
  rw [raise, strandOf_modStrand, here] at strand
  refine ⟨_, he, ?_, ?_, ?_, ?_, ?_, fun m hm => ?_, ?_, rfl⟩
  · exact (congrArg Strand.slot strand).trans (putReg_slot ..) |>.symm
  · exact (congrArg Strand.pc strand).trans (by rw [past, putReg_pc])
  · exact (congrArg (getReg · a) strand).trans (by rw [getReg_past, getReg_putReg, if_pos rfl])
  · exact (congrArg Strand.sflags strand).trans (by rw [past, putReg_sflags, ← hf]; simp [Nat.add_assoc])
  · exact (woken.barOf n).trans (by rw [barOf_setBar, Nat.add_assoc])
  · exact (woken.barOf m).trans (barOf_setBar_ne hm)
  · show u.mem = _
    rw [woken.1]
    rfl

/-- R252: an arrival at a barrier that is not NORMAL. -/
theorem arrival_faults {i : Instr} {w : Nat} (state : (barOf s cl n).state ≠ .normal)
    (he : exec i s = .next (noteNewel (arrival s a n w cl) s.cur cl)) :
    ∃ t : State, exec i s = .next t ∧ OnlyStrand { s with net := t.net } t ∧ t.net = newelNet s cl ∧
      strandOf t s.cur = trapped cBARRIER_FAULT (BitVec.ofNat 64 n) (pcOf s) (strandOf s s.cur) := by
  rw [arrival, if_pos state] at he
  obtain ⟨t, run, only, net, strand⟩ := newel_strand (onlyStrand_takeTrap s _ _ _) he
  exact ⟨t, run, only, net, strand.trans (strandOf_takeTrap ..)⟩

theorem barwait_completes {p : Bool} (go : streamHeld s s.cur 0 [some (4 * pkgNumber s + dieIdx s.cur)] = false) (hn : n < 64)
    (ticket : reg s s.cur b = BitVec.ofNat 64 ((if p then 256 else 0) + n)) :
    exec (.barwait a b) s = .next (barrierWait s a b n p (clusterIdx s.cur)) := by
  have value : (reg s s.cur b).toNat = (if p then 256 else 0) + n := by
    rw [ticket, BitVec.toNat_ofNat]
    cases p <;> simp <;> omega
  have low : fld (reg s s.cur b) 0 6 = n := by rw [fld, bitsOf, value]; cases p <;> simp <;> omega
  have high : (fld (reg s s.cur b) 8 1 == 1) = p := by rw [fld, bitsOf, value]; cases p <;> simp <;> omega
  have run := (barwait_newel s a b).runsHere (by rw [value]; cases p <;> simp <;> omega) go
  rwa [low, high] at run

end

/-- Settles O14: every instruction of the Newel is one operation behind the same checks, on one item of one cluster. -/
theorem semaphoresAndBarriers : Obligations.SemaphoresAndBarriers := by
  refine ⟨fun s a b x r cl hc on => ⟨fun held hn hv => ?_, fun go here => ⟨fun n v hn hv ln lv => ?_, fun n hn ln ha => ?_,
      fun n v hn hv ln lv => ?_, fun bad => ?_⟩⟩,
    fun s a b x r cl n y hc on go here ln running => ⟨fun v hn hv pos lv hy => ?_, fun w hw lw hy => ?_, fun p hp hy => ?_⟩,
    fun s a b x r p q hp hq => ?_⟩
  · exact ⟨(seminc_newel s a b x r).waits (by omega) hc on held, (semset_newel s a b x r).waits (by omega) hc on held,
      fun ha => (semrd_newel s a b x r).waits (fun bad => bad.elim ha fun h => by omega) hc on held⟩
  · have inc := sets_semaphore ((seminc_newel s a b x r).runs (by omega) hc on go)
    have set := sets_semaphore ((semset_newel s a b x r).runs (by omega) hc on go)
    rw [BitVec.toNat_ofNat, hn, hv, Nat.mod_eq_of_lt (by omega)] at inc
    rw [BitVec.toNat_ofNat, hn, hv, Nat.mod_eq_of_lt lv] at set
    exact ⟨inc, set⟩
  · obtain ⟨t, run, only, net, strand⟩ := newel_strand (onlyStrand_finishReg s a _)
      ((semrd_newel s a b x r).runs (fun bad => bad.elim ha fun h => by omega) hc on go)
    refine ⟨t, run, only, net, strand.trans ((strandOf_finishReg ..).trans ?_)⟩
    rw [hn, BitVec.zeroExtend_eq_setWidth, BitVec.ofNat_toNat]
  · subst hn hv
    exact semwait_completes ln lv here
  · exact ⟨(seminc_newel s a b x r).illegal bad _ (encode_seminc ..), (semset_newel s a b x r).illegal bad _ (encode_semset ..)⟩
  · subst hn hv hy
    exact barinit_sets running ((barinit_newel s a b x r).runs (by omega) hc on go)
  · have run := (bararr_newel s a b x r).runs (by omega) hc on go
    have low : fld (reg s s.cur b) 0 6 = n := by rw [fld, bitsOf, hw]; omega
    have high : fld (reg s s.cur b) 16 16 = w := by rw [fld, bitsOf, hw]; omega
    rw [low, high] at run
    refine ⟨fun state => ?_, fun normal open' => ?_⟩
    · obtain ⟨t, run, only, net, strand⟩ := arrival_faults (hy ▸ state) run
      exact ⟨t, run, only, net, strand⟩
    · obtain ⟨t, run, slot, pc, value, flags, bar, others, mem, net⟩ := arrival_counts running hy normal open' run
      refine ⟨t, run, slot, pc, value, fun less => ?_, fun same => ?_, fun more => ?_, others, mem, net⟩
      · rw [bar, flags, Nat.mod_eq_of_lt less, Nat.div_eq_of_lt less, decide_eq_false (Nat.lt_asymm less)]
        simp [flagIf]
      · rw [bar, flags, same, Nat.mod_self, Nat.div_self (by omega)]
        simp [flagIf]
      · rw [flags, bar]
        simp [more, flagIf]
  · have run := barwait_completes (a := a) here ln hp
    subst hy
    refine ⟨fun state => ?_, fun state phase => ?_, fun state phase => ?_, fun state phase => ?_⟩
    · exact trapsHere_of s _ _ _ (by rw [run, barrierWait, if_pos state])
    · exact writes_of s _ a 0 (by rw [run, barrierWait, if_neg state, if_pos phase])
    · exact writes_of s _ a 1 (by rw [run, barrierWait, if_neg (by simp [state]), if_neg (by simp [phase]), if_pos state])
    · exact completes_parkOn s _ _ (by rw [run, barrierWait, if_neg (by simp [state]), if_neg (by simp [phase]), if_neg (by simp [state])])
  · subst hp hq
    exact ⟨fun h => ⟨(seminc_newel s a b x r).illegal h, (semset_newel s a b x r).illegal h, (semwait_newel s a b).illegal h⟩,
      (semrd_newel s a b x r).illegal, (barinit_newel s a b x r).illegal, (bararr_newel s a b x r).illegal, (barwait_newel s a b).illegal,
      fun ha hb => ⟨(seminc_newel s a b x r).absent (by omega), (semset_newel s a b x r).absent (by omega)⟩,
      fun ha hb => (semrd_newel s a b x r).absent (fun bad => bad.elim ha fun h => by omega), fun ha pos hb => (barinit_newel s a b x r).absent (by omega),
      fun h => (bararr_newel s a b x r).absent (not_not_intro h)⟩

end Sys2Proof.Machine

namespace Sys2Proof.Machine

/-! ## The lines of a coded region are written back and dropped (R297, R302) -/

/-- No strand has changed, and no coded line has come to a home. -/
structure LinesLeave (s u : State) : Prop where
  strands : u.strands = s.strands
  absent : ∀ k, tblFind s.mem.coded k = none → tblFind u.mem.coded k = none

theorem LinesLeave.refl (s : State) : LinesLeave s s := ⟨rfl, fun _ h => h⟩

theorem LinesLeave.trans {s t u : State} (h : LinesLeave s t) (g : LinesLeave t u) : LinesLeave s u :=
  ⟨g.strands.trans h.strands, fun k hk => g.absent k (h.absent k hk)⟩

theorem LinesLeave.same {s u : State} (hs : u.strands = s.strands) (hc : u.mem.coded = s.mem.coded) : LinesLeave s u :=
  ⟨hs, fun k hk => by rw [hc]; exact hk⟩

theorem linesLeave_dropCoded (s : State) (r j : Nat) : LinesLeave s (dropCoded s r j) := by
  refine ⟨rfl, fun k hk => ?_⟩
  by_cases same : k = codedKey r j
  · rw [same]
    exact tblFind_tblDel ..
  · exact (tblFind_tblDel_ne _ _ _ same).trans hk

theorem linesLeave_ringSignal (s : State) (n : Nat) : LinesLeave s (ringSignal s n) := by
  unfold ringSignal raiseVector
  dsimp only
  split
  · split <;> exact .same rfl rfl
  · exact .same rfl rfl

theorem linesLeave_writeSlotAt (s : State) (n i : Nat) (payload : Word) (tag attempt source : Nat) :
    LinesLeave s (writeSlotAt s n i payload tag attempt source) := .same rfl rfl

theorem linesLeave_setRing (s : State) (n : Nat) (r : Ring) : LinesLeave s (setRing s n r) := .same rfl rfl

theorem linesLeave_postEvent (s : State) (kind payload tag : Nat) : LinesLeave s (postEvent s kind payload tag) := by
  rw [postEvent]
  split
  · rw [postSlot]
    exact .trans (linesLeave_writeSlotAt ..) (.trans (linesLeave_setRing ..) (linesLeave_ringSignal ..))
  · exact .same rfl rfl

theorem linesLeave_loseLine (s : State) (n tag : Nat) : LinesLeave s (loseLine s n tag) := by
  rw [loseLine, writeBackError]
  split
  · exact .same rfl rfl
  · have lost : LinesLeave s (poisonLine (dropLine s n) n) := .same rfl rfl
    exact .trans (.trans lost (linesLeave_postEvent _ _ _ _)) (.same rfl rfl)

theorem linesLeave_countEncode (s : State) (r e : Nat) : LinesLeave s (countEncode s r e) := by
  obtain ⟨c, g, counted⟩ : ∃ (c : Bool) (g : Region), countEncode s r e =
      if c then postEvent (setRegion s r g) 1 r 0 else setRegion s r g := ⟨_, _, rfl⟩
  have set : LinesLeave s (setRegion s r g) := .same rfl rfl
  rw [counted]
  split
  · exact .trans set (linesLeave_postEvent ..)
  · exact set

theorem linesLeave_breakLine (s : State) (k : LineKey) : LinesLeave s (breakLine s k) := .same rfl rfl

/-- A line that stands at a home is replaced there. -/
theorem linesLeave_replaced {s u : State} {k : Nat} {l : L2Line} (held : tblFind s.mem.coded k = some l) (hs : u.strands = s.strands)
    (hc : ∃ m, u.mem.coded = tblSet s.mem.coded k m) : LinesLeave s u := by
  obtain ⟨m, hc⟩ := hc
  refine ⟨hs, fun j hj => ?_⟩
  have other : j ≠ k := fun same => by rw [same, held] at hj; cases hj
  rw [hc, tblFind_tblSet_ne _ _ _ _ other, hj]

theorem linesLeave_codecWrite (s : State) (r j : Nat) : LinesLeave s (codecWrite s r j) := by
  rw [codecWrite]
  split
  · exact .refl s
  next l held =>
    split
    · exact .trans (linesLeave_dropCoded s r j) (linesLeave_loseLine _ _ _)
    split
    · dsimp only
      refine .trans (.trans (.trans ?_ (linesLeave_countEncode _ _ _)) (linesLeave_breakLine _ _)) (linesLeave_breakLine _ _)
      exact linesLeave_replaced held rfl ⟨_, rfl⟩
    · exact .refl s

/-- R297: of the blocks of a list, none is at a home afterwards. -/
theorem linesLeave_drain (n : Nat) (l : List Nat) (s : State) :
    LinesLeave s (l.foldl (fun u j => dropCoded (codecWrite u n j) n j) s) ∧
    ∀ j ∈ l, tblFind (l.foldl (fun u j => dropCoded (codecWrite u n j) n j) s).mem.coded (codedKey n j) = none := by
  induction l generalizing s with
  | nil => exact ⟨.refl s, nofun⟩
  | cons i l ih =>
    obtain ⟨leave, gone⟩ := ih (dropCoded (codecWrite s n i) n i)
    refine ⟨.trans (.trans (linesLeave_codecWrite s n i) (linesLeave_dropCoded _ n i)) leave, fun j hj => ?_⟩
    rcases List.mem_cons.mp hj with rfl | hj
    · exact leave.absent _ (tblFind_tblDel ..)
    · exact gone j hj

theorem tblFind_unless_regionLines (s : State) (n j : Nat) (hj : j < 2 ^ 34) (h : j ∉ regionLines s n) :
    tblFind s.mem.coded (codedKey n j) = none := by
  refine tblFind_absent _ _ fun listed => h ?_
  obtain ⟨p, hp, hk⟩ := List.mem_map.mp listed
  have region : p.1 / 2 ^ 34 = n := by rw [hk, codedKey]; omega
  have block : p.1 % 2 ^ 34 = j := by rw [hk, codedKey]; omega
  exact List.mem_map.mpr ⟨p, List.mem_filter.mpr ⟨hp, beq_iff_eq.mpr region⟩, block⟩

/-- R297: the machine once the lines of a region have left their homes. -/
def emptied (s : State) (n : Nat) : State := (regionLines s n).foldl (fun u j => dropCoded (codecWrite u n j) n j) s

theorem emptied_spec (s : State) (n : Nat) : (emptied s n).strands = s.strands ∧
    ∀ j < 2 ^ 34, tblFind (emptied s n).mem.coded (codedKey n j) = none := by
  obtain ⟨leave, gone⟩ := linesLeave_drain n (regionLines s n) s
  refine ⟨leave.strands, fun j hj => ?_⟩
  by_cases listed : j ∈ regionLines s n
  · exact gone j listed
  · exact leave.absent _ (tblFind_unless_regionLines s n j hj listed)

end Sys2Proof.Machine

namespace Sys2Proof.Machine

/-! ## SETC of RRATE and of MXCFG (R173, R184, R297) -/

theorem exec_setcRrate (b : BitVec 5) (n : BitVec 6) (s : State) : exec (.setcRrate b n) s = execSetcRrate b n s := rfl
theorem exec_regionDrainDone (n : Nat) (s : State) : exec (.regionDrainDone n) s = execRegionDrainDone n s := rfl
theorem exec_setcMxcfg (b : BitVec 5) (s : State) : exec (.setcMxcfg b) s = execSetcMxcfg b s := rfl

@[simp] theorem regionOf_setRegion (s : State) (n : Nat) (g : Region) : regionOf (setRegion s n g) n = g := tblGet_tblSet ..

theorem regionOf_setRegion_ne (s : State) (n m : Nat) (g : Region) (h : m ≠ n) : regionOf (setRegion s n g) m = regionOf s m :=
  tblGet_tblSet_ne _ _ _ _ _ h

section
variable {s : State} {b : BitVec 5} {n : BitVec 6}

/-- R297: a write that clears V waits while homes hold lines of the region. -/
def ClearsHeldRegion (s : State) (n : Nat) (v : Word) : Prop :=
  regionOn (regionOf s n) = true ∧ fld v 0 1 = 0 ∧ regionLines s n ≠ []

theorem setcRrate_user (hu : ¬ stSuper (strandOf s s.cur) = true) :
    TrapsHere s (.setcRrate b n) cPRIV (setcWord b (BitVec.ofNat 11 (0x402 + 8 * n.toNat))) :=
  trapsHere_word s _ _ _ (by rw [exec_setcRrate, execSetcRrate, if_pos (Bool.eq_false_of_not_eq_true hu)])

variable (hs : stSuper (strandOf s s.cur) = true)
include hs

theorem setcRrate_refused (bad : rrateBad s n.toNat (reg s s.cur b) = true) :
    TrapsHere s (.setcRrate b n) cILLEGAL (setcWord b (BitVec.ofNat 11 (0x402 + 8 * n.toNat))) :=
  trapsHere_illegal s _ _ (by rw [exec_setcRrate, execSetcRrate, if_neg (by simp [hs]), if_pos bad])

theorem exec_setcRrate_checked (good : rrateBad s n.toNat (reg s s.cur b) = false) : exec (.setcRrate b n) s = .next
    (if regionOn (regionOf s n.toNat) && fld (reg s s.cur b) 0 1 == 0 && !(regionLines s n.toNat).isEmpty then
      blockOn s s.cur (.regionDrain n (reg s s.cur b)) else finish (setRrate s n.toNat (reg s s.cur b)) s.cur) := by
  rw [exec_setcRrate, execSetcRrate, if_neg (by simp [hs]), if_neg (by simp [good])]
  exact (apply_ite Host.Outcome.next ..).symm

theorem setcRrate_waits (good : rrateBad s n.toNat (reg s s.cur b) = false) (clears : ClearsHeldRegion s n.toNat (reg s s.cur b)) :
    Completes s (.setcRrate b n) fun t => { t with blocked := some (.regionDrain n (reg s s.cur b)) } := by
  obtain ⟨on, v, lines⟩ := clears
  exact completes_blockOn s _ _ (by rw [exec_setcRrate_checked hs good, if_pos (by simp [on, v, lines])])

theorem setcRrate_taken (good : rrateBad s n.toNat (reg s s.cur b) = false) (clears : ¬ ClearsHeldRegion s n.toNat (reg s s.cur b)) :
    ∃ t : State, exec (.setcRrate b n) s = .next t ∧ strandOf t s.cur = past (strandOf s s.cur) ∧
      regionOf t n.toNat = { regionOf s n.toNat with rrate := reg s s.cur b } ∧
      (∀ m, m ≠ n.toNat → regionOf t m = regionOf s m) ∧ t.mem = s.mem := by
  have run := exec_setcRrate_checked hs good
  rw [if_neg (by simpa [ClearsHeldRegion, and_assoc] using clears)] at run
  exact ⟨_, run, strandOf_finish _ _, regionOf_setRegion .., fun m hm => regionOf_setRegion_ne _ _ _ _ hm, rfl⟩

end

/-- R297: the lines of a region have left their homes, and the clearing write completes. -/
theorem regionDrainDone_completes {s : State} {n id : Nat} {x : Word} (h : regionWaiter s n = some (id, x)) :
    ∃ t : State, exec (.regionDrainDone n) s = .next t ∧ (strandOf t id).blocked = none ∧
      (strandOf t id).pc = (strandOf s id).pc + 4 ∧ (regionOf t n).rrate = x ∧
      ∀ j < 2 ^ 34, tblFind t.mem.coded (codedKey n j) = none := by
  obtain ⟨strands, gone⟩ := emptied_spec s n
  have run : exec (.regionDrainDone n) s = .next (finish (setRrate (emptied s n) n x) id) := by
    rw [exec_regionDrainDone, execRegionDrainDone, h]
    rfl
  have strand : strandOf (finish (setRrate (emptied s n) n x) id) id = past (strandOf s id) :=
    (strandOf_finish _ _).trans (congrArg past (show strandOf (emptied s n) id = _ by rw [strandOf, strands, strandOf]))
  refine ⟨_, run, congrArg Strand.blocked strand, congrArg Strand.pc strand, ?_, gone⟩
  exact congrArg Region.rrate (regionOf_setRegion (emptied s n) n _)

theorem setcMxcfg_refused {s : State} {b : BitVec 5} (bad : mxcfgOk (reg s s.cur b) = false) :
    TrapsHere s (.setcMxcfg b) cILLEGAL (setcWord b 0x008) :=
  trapsHere_illegal s _ _ (by rw [exec_setcMxcfg, execSetcMxcfg, if_pos (by simp [bad])])

theorem setcMxcfg_owner {s : State} {b : BitVec 5} (good : mxcfgOk (reg s s.cur b) = true) (own : ownsMezz s s.cur = true) :
    ∃ t : State, exec (.setcMxcfg b) s = .next t ∧ strandOf t s.cur = past (strandOf s s.cur) ∧
      coreOf t (coreIdx s.cur) = { coreOf s (coreIdx s.cur) with
        mezz := { (coreOf s (coreIdx s.cur)).mezz with cfg := reg s s.cur b } } ∧ t.mem = s.mem := by
  have run : exec (.setcMxcfg b) s = .next (finish (setMxcfg s s.cur (reg s s.cur b)) s.cur) := by
    rw [exec_setcMxcfg, execSetcMxcfg, if_neg (by simp [good]), claimThen, if_pos own]
  exact ⟨_, run, strandOf_finish _ _, coreOf_setCore .., rfl⟩

/-! ## SETC of the registers of a region and of a pool window (R73, R297) -/

section
variable {s : State} {b : BitVec 5} (hs : stSuper (strandOf s s.cur) = true)
include hs

/-- R46, R96: a register that takes the value; bits outside its masks are reserved. -/
theorem exec_setc_taken {k : Nat} {m : Word × Word} (hk : k < 2 ^ 11) (assigned : cregAssigned k = true) (hm : cregMasks k = some m)
    (hv : reg s s.cur b &&& ~~~(m.1 ||| m.2) = 0) (good : cregBad s k (reg s s.cur b) = false) :
    exec (.setc b (BitVec.ofNat 11 k)) s =
      .next (finish (writeCreg s s.cur k (setBits m (readCreg s s.cur k) (reg s s.cur b))) s.cur) := by
  rw [exec_setc, execSetc, BitVec.toNat_ofNat, Nat.mod_eq_of_lt hk]
  simp only [cregThen_allowed _ _ _ _ assigned (.inr hs), hm]
  rw [if_neg (by simp [hv, good])]

omit hs in
theorem onlyStrand_finish_pkg (p : Package) : OnlyStrand { s with pkg := p } (finish { s with pkg := p } s.cur) :=
  onlyStrand_modStrand { s with pkg := p } past

omit hs in
theorem cregMasks_region (n j : Nat) (hn : n < 64) (hj : j < 8) : cregMasks (0x400 + 8 * n + j) = cregMasks (0x400 + j) := by
  unfold cregMasks
  rw [if_neg (by omega), if_pos (by omega), if_neg (by omega), if_pos (by omega), show (0x400 + 8 * n + j) % 8 = (0x400 + j) % 8 by omega]

omit hs in
/-- R297: the base and the size of a valid region are refused. -/
theorem cregBad_region (n j : Nat) (v : Word) (hn : n < 64) (hj : j < 8) :
    cregBad s (0x400 + 8 * n + j) v = (decide (j ≤ 1) && regionOn (regionOf s n)) := by
  have region : (0x400 + 8 * n + j - 0x400) / 8 = n := by omega
  have place : (0x400 + 8 * n + j) % 8 = j := by omega
  rw [cregBad, region, place, decide_eq_false (by omega), decide_eq_true (by omega : 0x400 ≤ 0x400 + 8 * n + j),
    decide_eq_true (by omega : 0x400 + 8 * n + j < 0x600)]
  simp

omit hs in
theorem writeCreg_region (n j : Nat) (v : Word) (hn : n < 64) (hj : j < 8) :
    writeCreg s s.cur (0x400 + 8 * n + j) v = setRegion s n (setRegionReg (regionOf s n) j v) := by
  have region : (0x400 + 8 * n + j - 0x400) / 8 = n := by omega
  have place : (0x400 + 8 * n + j) % 8 = j := by omega
  rw [writeCreg, if_neg (by omega), if_pos (by omega), region, place]

theorem setc_region {k n j : Nat} {m : Word × Word} (hk : k = 0x400 + 8 * n + j) (hn : n < 64) (hj : j ≤ 5)
    (hm : cregMasks (0x400 + j) = some m) (hv : reg s s.cur b &&& ~~~(m.1 ||| m.2) = 0) (good : 1 < j ∨ regionOn (regionOf s n) = false) :
    ∃ t : State, (exec (.setc b (BitVec.ofNat 11 k)) s = .next t ∧ strandOf t s.cur = past (strandOf s s.cur) ∧
      OnlyStrand { s with pkg := t.pkg } t) ∧ t.pkg = { s.pkg with regions := t.pkg.regions } ∧
      regionOf t n = setRegionReg (regionOf s n) j (setBits m (regionReg (regionOf s n) j) (reg s s.cur b)) ∧
      ∀ i, i ≠ n → regionOf t i = regionOf s i := by
  subst hk
  have fine : cregBad s (0x400 + 8 * n + j) (reg s s.cur b) = false := by
    rw [cregBad_region n j _ hn (by omega)]
    rcases good with high | off
    · rw [decide_eq_false (by omega), Bool.false_and]
    · rw [off, Bool.and_false]
  have run := exec_setc_taken hs (by omega) (cregAssigned_region n j hn hj) ((cregMasks_region n j hn (by omega)).trans hm) hv fine
  rw [writeCreg_region n j _ hn (by omega), readCreg_region s s.cur n j hn (by omega)] at run
  exact ⟨_, ⟨run, strandOf_finish _ _, onlyStrand_finish_pkg _⟩, rfl, regionOf_setRegion ..,
    fun i hi => regionOf_setRegion_ne _ _ _ _ hi⟩

theorem setc_region_refused {n j : Nat} (hn : n < 64) (hj : j < 2) (on : regionOn (regionOf s n) = true) :
    TrapsHere s (.setc b (BitVec.ofNat 11 (0x400 + 8 * n + j))) cILLEGAL (setcWord b (BitVec.ofNat 11 (0x400 + 8 * n + j))) := by
  obtain ⟨m, hm⟩ : ∃ m, cregMasks (0x400 + j) = some (m, 0) := by interval_cases j <;> exact ⟨_, rfl⟩
  refine setc_refused s b _ m (by omega) (cregAssigned_region n j hn (by omega)) (.inr hs)
    ((cregMasks_region n j hn (by omega)).trans hm) (.inr ?_)
  rw [cregBad_region n j _ hn (by omega), on, decide_eq_true (by omega), Bool.and_true]

theorem setc_pool {w j : Nat} {m : Word} (hw : w < 16) (hj : j < 3) (hm : cregMasks (0x600 + 4 * w + j) = some (m, 0))
    (hv : reg s s.cur b &&& ~~~m = 0) :
    ∃ t : State, (exec (.setc b (BitVec.ofNat 11 (0x600 + 4 * w + j))) s = .next t ∧ strandOf t s.cur = past (strandOf s s.cur) ∧
      OnlyStrand { s with pkg := t.pkg } t) ∧ t.pkg = { s.pkg with pool := t.pkg.pool } ∧
      tblGet 0 t.pkg.pool (4 * w + j) = (tblGet 0 s.pkg.pool (4 * w + j) &&& ~~~m) ||| reg s s.cur b ∧
      ∀ k, k ≠ 4 * w + j → tblGet 0 t.pkg.pool k = tblGet 0 s.pkg.pool k := by
  have fine : cregBad s (0x600 + 4 * w + j) (reg s s.cur b) = false := by
    rw [cregBad, decide_eq_false (by omega), decide_eq_false (by omega : ¬ 0x600 + 4 * w + j < 0x600)]
    simp
  have zero : m ||| 0 = m := BitVec.or_zero
  have run := exec_setc_taken hs (by omega) (cregAssigned_pool w j hw hj) hm (by rw [zero]; exact hv) fine
  rw [setBits_writable m _ _ hv, writeCreg, if_pos (by omega), Nat.add_assoc 0x600, readCreg_pool, Nat.add_sub_cancel_left] at run
  rw [Nat.add_assoc 0x600]
  exact ⟨_, ⟨run, strandOf_finish _ _, onlyStrand_finish_pkg _⟩, rfl, tblGet_tblSet .., fun i hi => tblGet_tblSet_ne _ _ _ _ _ hi⟩

end

/-- R73: the masks of a pool window's registers. -/
theorem cregMasks_pool (w j : Nat) (hj : j < 3) :
    cregMasks (0x600 + 4 * w + j) = some (match j with | 0 => 0xFFFFFFFFFFFD | 1 => 0xFFFFFFFF | _ => 0xFFFFFFFFFFFF, 0) := by
  unfold cregMasks
  rw [if_pos (by omega), show (0x600 + 4 * w + j) % 4 = j by omega]
  interval_cases j <;> rfl

/-- R96: a 1 clears a bit of a register that is cleared by writing 1. -/
theorem setBits_clears (m old v : Word) (h : v &&& ~~~(0 ||| m) = 0) : setBits (0, m) old v = old &&& ~~~v := by
  refine BitVec.eq_of_getLsbD_eq fun i hi => ?_
  have inside := congrArg (BitVec.getLsbD · i) h
  simp only [BitVec.getLsbD_or, BitVec.getLsbD_and, BitVec.getLsbD_not, BitVec.ofNat_eq_ofNat, BitVec.getLsbD_zero, hi, decide_true,
    Bool.true_and, Bool.false_or] at inside
  simp only [setBits, BitVec.getLsbD_or, BitVec.getLsbD_and, BitVec.getLsbD_not, BitVec.ofNat_eq_ofNat, BitVec.getLsbD_zero, hi,
    decide_true, Bool.true_and, Bool.false_or]
  generalize old.getLsbD i = x, m.getLsbD i = y, v.getLsbD i = z at inside ⊢
  revert x y z
  decide

/-- R297: ERRLIM takes its limit, and a 1 clears its crossed bit. -/
theorem setBits_errlim (old v : Word) : setBits (0x7FFFFFFFFFFFFFFF, 0x8000000000000000) old v =
    (v &&& 0x7FFFFFFFFFFFFFFF) ||| (old &&& 0x8000000000000000 &&& ~~~v) := by
  simp [setBits]

theorem errmax_reserved (v : Word) (h : fld v 63 1 = 0) : v &&& ~~~(0 ||| 0x7FFFFFFFFFFFFFFF) = 0 := by
  refine BitVec.eq_of_getLsbD_eq fun i hi => ?_
  have top : v.getLsbD 63 = false := by simpa [fld_one] using h
  have mask : (0x7FFFFFFFFFFFFFFF#64).getLsbD i = decide (i < 63) := getLsbD_ones 63 i hi
  simp only [BitVec.getLsbD_or, BitVec.getLsbD_and, BitVec.getLsbD_not, BitVec.ofNat_eq_ofNat, BitVec.getLsbD_zero, hi, decide_true,
    Bool.true_and, Bool.false_or, mask]
  by_cases last : i = 63
  · rw [last, top, Bool.false_and]
  · rw [decide_eq_true (by omega), Bool.not_true, Bool.and_false]

/-- Settles O13: a region's RRATE waits for its lines, and every other register of a region or a pool window is one entry of the
package's tables. -/
theorem sharedRegisterWrites : Obligations.SharedRegisterWrites := by
  refine ⟨?_, ?_⟩
  · rintro s b n v rfl
    exact ⟨setcRrate_user, setcRrate_refused, setcRrate_waits, setcRrate_taken, fun id x => regionDrainDone_completes,
      setcMxcfg_refused, setcMxcfg_owner⟩
  · rintro s b v rfl hs
    have limits (m : Word) (hv : reg s s.cur b &&& ~~~m = 0) : reg s s.cur b &&& ~~~(m ||| 0) = 0 := by
      rw [show m ||| 0 = m from BitVec.or_zero]; exact hv
    refine ⟨fun n hn off hv => ?_, fun n hn off hv => ?_, fun n hn on j hj => setc_region_refused hs hn hj on, fun n hn => ?_,
      fun n hn => ?_, fun n hn top => ?_, fun w hw j m hm hv => ?_⟩
    · have taken := setc_region (b := b) hs (k := 0x400 + 8 * n) (j := 0) rfl hn (by omega) rfl (limits _ hv) (.inr off)
      rwa [setBits_writable _ _ _ hv] at taken
    · have taken := setc_region (b := b) hs (k := 0x401 + 8 * n) (j := 1) (by omega) hn (by omega) rfl (limits _ hv) (.inr off)
      rwa [setBits_writable _ _ _ hv] at taken
    · have taken := setc_region (b := b) hs (k := 0x403 + 8 * n) (j := 3) (by omega) hn (by omega) rfl (by simp) (.inl (by omega))
      rwa [setBits_errlim] at taken
    · have taken := setc_region (b := b) hs (k := 0x404 + 8 * n) (j := 4) (by omega) hn (by omega) rfl (by simp) (.inl (by omega))
      rwa [setBits_clears _ _ _ (by simp)] at taken
    · have taken := setc_region (b := b) hs (k := 0x405 + 8 * n) (j := 5) (by omega) hn (by omega) rfl (errmax_reserved _ top) (.inl (by omega))
      rwa [setBits_clears _ _ _ (errmax_reserved _ top)] at taken
    · simp only [List.mem_cons, Prod.mk.injEq, List.not_mem_nil, or_false] at hm
      rcases hm with ⟨rfl, rfl⟩ | ⟨rfl, rfl⟩ | ⟨rfl, rfl⟩
      all_goals exact setc_pool hs hw (by omega) (cregMasks_pool w _ (by omega)) hv

end Sys2Proof.Machine

namespace Sys2Proof.Machine

/-! ## Output ports (R257) -/

/-- R257: the messages of a port of a core. -/
def portOf (s : State) (c p : Nat) : List (List Word) := listGet [] (coreOf s c).ports p

/-- R257: the messages of a port replaced. -/
def setPort (s : State) (c p : Nat) (q : List (List Word)) : State :=
  modCore s c fun k => { k with ports := listSet [] k.ports p q }

@[simp] theorem portOf_setPort (s : State) (c p : Nat) (q : List (List Word)) : portOf (setPort s c p q) c p = q := by
  simp [portOf, setPort, modCore]

theorem portOf_setPort_ne (s : State) (c p k : Nat) (q : List (List Word)) (h : k ≠ p) : portOf (setPort s c p q) c k = portOf s c k := by
  simp [portOf, setPort, modCore, listGet_listSet_ne _ _ _ _ _ h]

/-- R257: when a message enters a port's buffer. -/
theorem portTakes_iff (s : State) (c p n : Nat) : portTakes s c p n = true ↔
    ((portOf s c p).map List.length).sum + n ≤ 8192 ∨
      (8192 < n ∧ ((portOf s c p).map List.length).sum = 0 ∧ portQueue s c p ≠ []) := by
  have used : ((portOf s c p).map List.length).sum = portUsed (coreOf s c) p := List.sum_eq_foldl
  rw [used]
  simp [portTakes, portAwaited, and_assoc]

/-! ## The words and meanings of MAJ 0x33 -/

theorem encode_vsend (r : BitVec 5) (p : BitVec 1) : encode (.vsend r p) = some (wordX 0x33 r 0 0 (0#6 ++ p)) :=
  encode_of_toNat rfl (by rw [wordX]; simp only [toNat_append_add, BitVec.reduceToNat]; omega)

theorem encode_vchain (c : BitVec 9) (p : BitVec 1) : encode (.vchain c p) = some (wordX 0x33 0 0 c (0#5 ++ 1#1 ++ p)) :=
  encode_of_toNat rfl (by rw [wordX]; simp only [toNat_append_add, BitVec.reduceToNat]; omega)

/-- The operation of a VSEND. -/
def sendOp (s : State) (r : BitVec 5) (p : BitVec 1) : Vop := vop s s.cur (wordX 0x33 r 0 0 (0#6 ++ p)) 0 0

/-- R257: the message that a VSEND sends. -/
def sentMessage (r : BitVec 5) (v : VEnv) : List Word := (List.range v.a.vl).map (srcW v r)

/-- R257: the effect of a VSEND. -/
def sendTo (s : State) (r : BitVec 5) (p : BitVec 1) (u : State) (v : VEnv) : State :=
  if portTakes u (coreIdx s.cur) p.toNat (sentMessage r v).length then
    vecEnd (setPort u (coreIdx s.cur) p.toNat (portOf u (coreIdx s.cur) p.toNat ++ [sentMessage r v])) (sendOp s r p) v 0 fun b => b
  else awaitArray u s.cur (sendOp s r p) (.portSpace r p)

theorem exec_vsend (r : BitVec 5) (p : BitVec 1) (s : State) : exec (.vsend r p) s = .next (vecRun s (sendOp s r p) (badGroup (arcOf s) r)
    [] [r] (fun v => srcOf v r fun e => decide (e < v.a.vl)) (sendTo s r p)) := rfl

theorem exec_portSpaceFree (id : Nat) (s : State) : exec (.portSpaceFree id) s = execPortSpaceFree id s := rfl
theorem exec_chainMessageArrival (id : Nat) (s : State) : exec (.chainMessageArrival id) s = execChainMessageArrival id s := rfl
theorem exec_vchain (c : BitVec 9) (p : BitVec 1) (s : State) : exec (.vchain c p) s = execVchain c p s := rfl

/-! ## A message sent (R257) -/

section
variable {s u : State} {r : BitVec 5} {p : BitVec 1} {v : VEnv}

theorem partly_setPort (u : State) (p : Nat) (q : List (List Word)) : Partly u (setPort u (coreIdx u.cur) p q) 0 :=
  ⟨rfl, rfl, fun _ _ => rfl, fun c hc => by rw [setPort, modCore, coreOf_setCore_ne _ _ _ _ hc],
    ⟨_, _, _, by rw [setPort, modCore, coreOf_setCore]⟩, rfl, ⟨(strandOf u u.cur).hostAnswer, by rw [or_zero_word]; rfl⟩, rfl⟩

/-- R257: what a VSEND does whose message enters its port. -/
def Sends (r : BitVec 5) (p : BitVec 1) (u t : State) (v : VEnv) : Prop :=
  VecRan u t v 0 ∧ SameRegs u t ∧ SameSide u t ∧ t.mem = u.mem ∧ t.clusters = u.clusters ∧ t.net = u.net ∧ t.pkg = u.pkg ∧
    portOf t (coreIdx t.cur) p.toNat = portOf u (coreIdx u.cur) p.toNat ++ [sentMessage r v] ∧
    ∀ k, k ≠ p.toNat → portOf t (coreIdx t.cur) k = portOf u (coreIdx u.cur) k

theorem sends_vecEnd (o : Vop) : Sends r p u (vecEnd (setPort u (coreIdx u.cur) p.toNat
    (portOf u (coreIdx u.cur) p.toNat ++ [sentMessage r v])) o v 0 fun b => b) v := by
  have part := partly_setPort u p.toNat (portOf u (coreIdx u.cur) p.toNat ++ [sentMessage r v])
  have here := portOf_setPort u (coreIdx u.cur) p.toNat (portOf u (coreIdx u.cur) p.toNat ++ [sentMessage r v])
  have there := fun k => portOf_setPort_ne u (coreIdx u.cur) p.toNat k (portOf u (coreIdx u.cur) p.toNat ++ [sentMessage r v])
  have frame : ∃ z, setPort u (coreIdx u.cur) p.toNat (portOf u (coreIdx u.cur) p.toNat ++ [sentMessage r v]) = { u with cores := z } :=
    ⟨_, rfl⟩
  generalize setPort u (coreIdx u.cur) p.toNat (portOf u (coreIdx u.cur) p.toNat ++ [sentMessage r v]) = x at part here there frame ⊢
  obtain ⟨z, frame⟩ := frame
  have arcs : arcOf x = arcOf u := by rw [frame]; rfl
  have ran := vecRan_vecEnd (o := o) (v := v) (fl' := 0) part sideOnly_id
  have arc := arcOf_vecEnd x o v 0 fun b => b
  obtain ⟨y, charged, last⟩ := vecEnd_frame x o v 0 fun b => b
  have rest := charged.rest
  generalize vecEnd x o v 0 (fun b => b) = t at ran arc last ⊢
  rw [arcs] at arc
  have ports : (coreOf t (coreIdx u.cur)).ports = (coreOf x (coreIdx u.cur)).ports := by
    obtain ⟨d, core⟩ := charged.core
    have same : coreOf t (coreIdx u.cur) = coreOf y (coreIdx u.cur) := by rw [last]; rfl
    rw [same, ← part.cur, core]
  have port : ∀ k, portOf t (coreIdx t.cur) k = portOf x (coreIdx u.cur) k := fun k => by
    rw [ran.cur]
    exact congrArg (listGet [] · k) ports
  refine ⟨ran, ?_, ?_, ?_, ?_, ?_, ?_, (port _).trans here, fun k hk => (port k).trans (there k hk)⟩
  · exact ⟨(congrArg Arcade.regs arc :), (congrArg Arcade.written arc :)⟩
  · exact ⟨(congrArg Arcade.masks arc :), (congrArg Arcade.codebooks arc :), (congrArg Arcade.results arc :)⟩
  all_goals rw [last, rest, frame]

/-- An operation that names no scalar register, waiting on the array side. -/
theorem strandOf_awaitArray_vop {w : BitVec 32} (z : ArrayWait) (hv : (strandOf u s.cur).arc.viq = (strandOf s s.cur).arc.viq) :
    strandOf (awaitArray u s.cur (vop s s.cur w 0 0) z) s.cur = waitsOn z w 0 0 (strandOf u s.cur) := by
  rw [strandOf_awaitArray, vop_word, waitsOn, waitsOn]
  split
  · rename_i empty
    rw [hv] at empty
    have regs : vop s s.cur w 0 0 = ⟨w, reg s s.cur 0, reg s s.cur 0⟩ := by
      unfold vop
      rw [empty]
      split <;> simp_all
    rw [regs, reg_zero]
  · rfl

end

/-! ## The course of a VSEND (R183, R201, R257, R258) -/

section
variable {s u : State} {r : BitVec 5} {p : BitVec 1} {v : VEnv}

/-- A ready VSEND has the entries of its VIQ. -/
theorem VecReady.viq {ds vs : List (BitVec 5)} (h : VecReady s ds vs u v) : (strandOf u s.cur).arc.viq = (strandOf s s.cur).arc.viq := by
  obtain ⟨x, n, a, c, hu⟩ := h.same
  rw [hu]
  rfl

theorem vsend_runs (ready : VecReady s [] [r] u v) (hh : heldOn (strandOf s s.cur) = false) (hb : badGroup (arcOf s) r = false) :
    exec (.vsend r p) s = .next (sendTo s r p u v) :=
  exec_ready (exec_vsend r p s) ready hh hb (sourcesNamed_srcOf r (List.mem_singleton_self r) _)

theorem vsend_sends (ready : VecReady s [] [r] u v) (hh : heldOn (strandOf s s.cur) = false) (hb : badGroup (arcOf s) r = false)
    (takes : portTakes u (coreIdx u.cur) p.toNat v.a.vl = true) :
    ∃ t : State, exec (.vsend r p) s = .next t ∧ Sends r p u t v := by
  refine ⟨_, vsend_runs ready hh hb, ?_⟩
  have len : (sentMessage r v).length = v.a.vl := by simp [sentMessage]
  rw [sendTo, ← ready.cur, len, if_pos takes]
  exact sends_vecEnd _

theorem vsend_waits (ready : VecReady s [] [r] u v) (hh : heldOn (strandOf s s.cur) = false) (hb : badGroup (arcOf s) r = false)
    (full : ¬ portTakes u (coreIdx u.cur) p.toNat v.a.vl = true) :
    ∀ w, encode (.vsend r p) = some w → ∃ t : State, exec (.vsend r p) s = .next t ∧ OnlyStrand u t ∧
      strandOf t u.cur = waitsOn (.portSpace r p) w 0 0 (strandOf u u.cur) := by
  intro w hw
  obtain rfl := Option.some.inj ((encode_vsend r p).symm.trans hw)
  have len : (sentMessage r v).length = v.a.vl := by simp [sentMessage]
  have run := vsend_runs (p := p) ready hh hb
  rw [sendTo, ← ready.cur, len, if_neg full, ready.cur] at run
  refine ⟨_, run, ?_, ?_⟩
  · rw [← ready.cur]
    exact onlyStrand_awaitArray u _ _
  · rw [ready.cur]
    exact strandOf_awaitArray_vop _ ready.viq

theorem takeMessage_none {id : Nat} (h : portOf s (chainCore (strandOf s id).arc) (chainPort (strandOf s id).arc) = []) :
    takeMessage s id = none := by
  rw [portOf] at h
  simp only [takeMessage, h]

/-- R258: when an instruction that reads the chain waits for its message. -/
def NoMessage (s : State) : Prop :=
  (arcOf s).chainIn = none ∧ (coreOf s (chainCore (arcOf s))).enabled = true ∧
    (portOf s (chainCore (arcOf s)) (chainPort (arcOf s)) = [] ∨ chainContended s s.cur (arcOf s) = true)

theorem chainThen_awaits {o : Vop} {vs : List (BitVec 5)} (k : State → Option (List Word) → State)
    (hc : vs.any (chained (arcOf s)) = true) (none : NoMessage s) : chainThen s s.cur o vs k = awaitMessage s s.cur o := by
  obtain ⟨hm, on, wait⟩ := none
  rw [arcOf] at hc hm on wait
  simp only [chainThen, hc, hm, on, if_true, Bool.not_true, Bool.false_eq_true, if_false]
  split
  · rfl
  · rename_i free
    rw [takeMessage_none (wait.resolve_right free)]

/-- R258: the request of an instruction stands behind those that have reached the port before it. -/
theorem portQueue_awaitMessage (s : State) (o : Vop) (k n : Nat) (hk : k = chainCore (arcOf s)) (hn : n = chainPort (arcOf s)) :
    portQueue (awaitMessage s s.cur o) k n = if s.cur ∈ portQueue s k n then portQueue s k n else portQueue s k n ++ [s.cur] := by
  subst hk hn
  rw [awaitMessage, arcOf]
  by_cases asked : s.cur ∈ portQueue s (chainCore (strandOf s s.cur).arc) (chainPort (strandOf s s.cur).arc)
  · rw [if_pos asked, if_pos (List.contains_iff_mem.mpr asked)]
    rfl
  · rw [if_neg asked, if_neg (by simpa using asked), portQueue]
    exact (congrArg (fun k : Core => listGet [] k.portRequests _) (coreOf_setCore ..)).trans (listGet_listSet ..)

/-- R258: waiting for a message changes the strand and the requests at a port. -/
theorem awaitMessage_frame (s : State) (o : Vop) : (∀ j, j ≠ s.cur → strandOf (awaitMessage s s.cur o) j = strandOf s j) ∧
    (∀ j, (coreOf (awaitMessage s s.cur o) j).ports = (coreOf s j).ports) ∧ (awaitMessage s s.cur o).mem = s.mem ∧
    (awaitMessage s s.cur o).clusters = s.clusters := by
  refine ⟨fun j hj => ?_, fun j => ?_, ?_, ?_⟩ <;> rw [awaitMessage] <;> split
  · exact strandOf_modStrand_ne _ _ _ _ hj
  · exact strandOf_modStrand_ne _ _ _ _ hj
  · rfl
  · show (coreOf (setPortQueue s _ _ _) j).ports = _
    rw [setPortQueue]
    by_cases here : j = chainCore (strandOf s s.cur).arc
    · rw [here, coreOf_setCore]
    · rw [coreOf_setCore_ne _ _ _ _ here]
  all_goals rfl

theorem laneBeyond_false {a : Arcade} (h : a.lane = 0 ∨ a.lane < a.vl) : laneBeyond a = false := by
  simp only [laneBeyond, Bool.and_eq_false_iff, decide_eq_false_iff_not]
  omega

/-- R258: a VSEND that reads the chain waits for its message. -/
theorem vsend_awaits (hn : stNoBays (strandOf s s.cur) = false) (hh : heldOn (strandOf s s.cur) = false)
    (hb : badGroup (arcOf s) r = false) (ht : behind (strandOf s s.cur) = false)
    (hl : (arcOf s).lane = 0 ∨ (arcOf s).lane < (arcOf s).vl) (hc : chained (arcOf s) r = true) (none : NoMessage s) :
    exec (.vsend r p) s = .next (awaitMessage s s.cur (sendOp s r p)) := by
  have lane : laneBeyond (strandOf s s.cur).arc = false := laneBeyond_false hl
  rw [exec_vsend, vecRun, vecIssue, arrayIssue_turn _ _ _ _ _ hh hb hn ht, if_neg (by simp [lane]),
    chainThen_awaits _ (by simp [hc]) none]

theorem strandOf_awaitMessage {w : BitVec 32} : strandOf (awaitMessage s s.cur (vop s s.cur w 0 0)) s.cur =
    waitsOn .chain w 0 0 (strandOf s s.cur) := by
  rw [awaitMessage]
  split
  · exact strandOf_awaitArray_vop _ rfl
  · exact strandOf_awaitArray_vop (u := setPortQueue s _ _ _) _ rfl

end

/-! ## VCHAIN (R255, R256, R258) -/

/-- R256: what VCHAIN writes to CHAINSRC. -/
def chainValue (c : BitVec 9) (p : BitVec 1) : Word := BitVec.ofNat 64 (0x800 + p.toNat * 0x200 + c.toNat)

theorem chainValue_fields (c : BitVec 9) (p : BitVec 1) : fld (chainValue c p) 11 1 = 1 ∧ fld (chainValue c p) 7 2 = c.toNat / 128 ∧
    fld (chainValue c p) 0 9 = c.toNat := by
  have := c.isLt
  have := p.isLt
  have value : (chainValue c p).toNat = 0x800 + p.toNat * 0x200 + c.toNat := by
    rw [chainValue, BitVec.toNat_ofNat, Nat.mod_eq_of_lt (by omega)]
  simp only [fld, bitsOf, value]
  omega

section
variable {s : State} {c : BitVec 9} {p : BitVec 1}

theorem chainBad_otherDie (h : c.toNat / 128 ≠ dieIdx s.cur) : chainBad s s.cur (chainValue c p) = some cILLEGAL := by
  obtain ⟨arm, die, -⟩ := chainValue_fields c p
  rw [chainBad, arm, die, if_neg (by decide), if_pos h]

theorem chainBad_sameDie (h : c.toNat / 128 = dieIdx s.cur) :
    chainBad s s.cur (chainValue c p) = if (coreOf s c.toNat).enabled then none else some cCOORD := by
  obtain ⟨arm, die, src⟩ := chainValue_fields c p
  rw [chainBad, arm, die, src, if_neg (by decide), if_neg (by simp [h])]

/-- The operation of a VCHAIN. -/
def chainOp (s : State) (c : BitVec 9) (p : BitVec 1) : Vop := vop s s.cur (wordX 0x33 0 0 c (0#5 ++ 1#1 ++ p)) 0 0

/-- R255, R258: CHAINSRC is armed, and a message that is not used goes back to its port. -/
def chainArmed (s : State) (c : BitVec 9) (p : BitVec 1) : State :=
  finishV (modArc (returnMessage s s.cur) s.cur fun a => { a with chainsrc := chainValue c p }) s.cur

theorem exec_vchain_good (h : chainBad s s.cur (chainValue c p) = none) :
    exec (.vchain c p) s = .next (vecIssue s s.cur (chainOp s c p) false (chainArmed s c p)) := by
  rw [chainValue] at h
  simp only [exec_vchain, execVchain, h]
  rfl

theorem exec_vchain_bad {x : Nat} (h : chainBad s s.cur (chainValue c p) = some x) : exec (.vchain c p) s = .next
    (if x = cCOORD ∧ heldOn (strandOf s s.cur) = false then trapDispatch s s.cur (chainOp s c p) x (BitVec.ofNat 64 c.toNat)
    else trapDispatch s s.cur (chainOp s c p) cILLEGAL ((wordX 0x33 0 0 c (0#5 ++ 1#1 ++ p)).zeroExtend 64)) := by
  rw [chainValue] at h
  simp only [exec_vchain, execVchain, h]
  split <;> rfl

theorem vchain_illegal (hbad : c.toNat / 128 ≠ dieIdx s.cur ∨ heldOn (strandOf s s.cur) = true)
    (hi : (arcOf s).viq = [] ∨ behind (strandOf s s.cur) = true) :
    ∀ w, encode (.vchain c p) = some w → TrapsHere s (.vchain c p) cILLEGAL (w.zeroExtend 64) := by
  intro w hw
  obtain rfl := Option.some.inj ((encode_vchain c p).symm.trans hw)
  cases h : chainBad s s.cur (chainValue c p) with
  | none =>
    have held : heldOn (strandOf s s.cur) = true := hbad.resolve_left fun die => by rw [chainBad_otherDie die] at h; cases h
    exact (arrayChecks_traps (exec_vchain_good h) (encode_vchain c p) _ hw hi).1 (.inl held)
  | some x =>
    refine trapsHere_of s _ _ _ ?_
    rw [exec_vchain_bad h, if_neg, trapDispatch_issue _ _ _ _ _ hi]
    rintro ⟨rfl, idle⟩
    rcases hbad with die | held
    · rw [chainBad_otherDie die] at h
      exact absurd h (by decide)
    · simp [idle] at held

theorem vchain_absent (die : c.toNat / 128 = dieIdx s.cur) (off : (coreOf s c.toNat).enabled = false)
    (hh : heldOn (strandOf s s.cur) = false) (hi : (arcOf s).viq = [] ∨ behind (strandOf s s.cur) = true) :
    TrapsHere s (.vchain c p) cCOORD (BitVec.ofNat 64 c.toNat) := by
  have bad : chainBad s s.cur (chainValue c p) = some cCOORD := by rw [chainBad_sameDie die, off]; rfl
  exact trapsHere_of s _ _ _ (by rw [exec_vchain_bad bad, if_pos ⟨rfl, hh⟩, trapDispatch_issue _ _ _ _ _ hi])

/-- R256: the strand after a VCHAIN. -/
def armed (c : BitVec 9) (p : BitVec 1) (t : Strand) : Strand :=
  stepped 0 { t with arc := { t.arc with chainIn := none, chainsrc := chainValue c p } }

theorem strandOf_chainArmed : strandOf (chainArmed s c p) s.cur = armed c p (strandOf s s.cur) := by
  rw [chainArmed, strandOf_finishV, strandOf_modArc]
  cases h : (strandOf s s.cur).arc.chainIn with
  | none =>
    rw [returnMessage_none s _ h, armed, ← h]
  | some m =>
    obtain ⟨k, n, m⟩ := m
    obtain ⟨strand, -⟩ := returnMessage_some s s.cur k n m h
    rw [strand]
    rfl

theorem strandOf_chainArmed_ne {j : Nat} (hj : j ≠ s.cur) : strandOf (chainArmed s c p) j = strandOf s j := by
  rw [chainArmed, strandOf_finishV_ne _ _ _ hj, modArc, strandOf_modStrand_ne _ _ _ _ hj, strandOf_returnMessage_ne _ _ _ hj]

theorem vchain_course (on : (coreOf s c.toNat).enabled = true) {done : Prop}
    (hd : c.toNat / 128 = dieIdx s.cur → heldOn (strandOf s s.cur) = false → done) :
    VecCourse s (.vchain c p) (decide (c.toNat / 128 ≠ dieIdx s.cur)) done := by
  by_cases die : c.toNat / 128 = dieIdx s.cur
  · have good : chainBad s s.cur (chainValue c p) = none := by rw [chainBad_sameDie die, on]; rfl
    have he := exec_vchain_good good
    rw [decide_eq_false (not_not_intro die)]
    exact ⟨arrayChecks_traps he (encode_vchain c p), fun hh hb hn => queuesBehind_of he (encode_vchain c p) hh hb hn,
      fun hh hb hn ht h0 hl => vecIssue_beyond he hh hb hn ht h0 hl, fun hh _ => hd die hh⟩
  · rw [decide_eq_true die]
    exact ⟨fun w hw hi => ⟨fun _ => vchain_illegal (.inl die) hi w hw, fun _ bad => absurd bad (by decide)⟩,
      fun _ bad => absurd bad (by decide), fun _ bad => absurd bad (by decide), fun _ bad => absurd bad (by decide)⟩

/-- R255, R256: VCHAIN in its turn. -/
theorem vchain_arms (on : (coreOf s c.toNat).enabled = true) (die : c.toNat / 128 = dieIdx s.cur)
    (hh : heldOn (strandOf s s.cur) = false) (hn : stNoBays (strandOf s s.cur) = false) (ht : behind (strandOf s s.cur) = false)
    (hl : (arcOf s).lane = 0 ∨ (arcOf s).lane < (arcOf s).vl) : exec (.vchain c p) s = .next (chainArmed s c p) := by
  have good : chainBad s s.cur (chainValue c p) = none := by rw [chainBad_sameDie die, on]; rfl
  have lane : laneBeyond (strandOf s s.cur).arc = false := laneBeyond_false hl
  rw [exec_vchain_good good, vecIssue, arrayIssue_turn _ _ _ _ _ hh rfl hn ht, if_neg (by simp [lane])]

theorem completes_chainArmed (he : exec (.vchain c p) s = .next (chainArmed s c p)) (hm : (arcOf s).chainIn = none) :
    Completes s (.vchain c p) (armed c p) := by
  refine ⟨_, he, ?_, strandOf_chainArmed⟩
  rw [chainArmed, returnMessage_none s _ hm]
  exact onlyStrand_trans (onlyStrand_modStrand s _) (onlyStrand_modStrand (modArc s s.cur _) _)

end

/-! ## Inputs to a port (R257, R258) -/

section
variable {s : State} {id : Nat}

theorem exec_portSpaceFree_else (h : ∀ r p, (strandOf s id).arc.waits ≠ some (.portSpace r p)) : exec (.portSpaceFree id) s = .next s := by
  rw [exec_portSpaceFree, execPortSpaceFree]
  split
  · exact absurd ‹_› (h _ _)
  · rfl

/-- R257: the entry that waits for space sends its message, and the control side stays as it was. -/
theorem portSpaceFree_sends {r : BitVec 5} {p : BitVec 1} {u : State} {v : VEnv}
    (hw : (strandOf s id).arc.waits = some (.portSpace r p)) (hv : (strandOf s id).arc.viq ≠ []) (hh : heldOn (strandOf s id) = false)
    (hb : badGroup (strandOf s id).arc r = false) (ready : VecReady (headState s id) [] [r] u v)
    (takes : portTakes u (coreIdx u.cur) p.toNat v.a.vl = true) :
    ∃ t : State, exec (.portSpaceFree id) s = .next (modStrand { t with cur := s.cur } id (headDone (strandOf s id))) ∧
      Sends r p u t v := by
  have head : strandOf (headState s id) id = { (strandOf s id) with
      slot := .run, blocked := none, hostAnswer := entryAnswer (strandOf s id).arc, arc := { (strandOf s id).arc with waits := none } } :=
    strandOf_modStrand { s with cur := id } id _
  have held : heldOn (strandOf (headState s id) id) = false := by rw [head]; exact hh
  have group : badGroup (strandOf (headState s id) id).arc r = false := by rw [head]; exact hb
  obtain ⟨t, run, sends⟩ := vsend_sends (s := headState s id) (p := p) ready held group takes
  have cur : u.cur = id := ready.cur
  obtain ⟨x, n, a, c, same⟩ := ready.same
  have before : (strandOf u id).slot = .run ∧ (arcOf u).held = (strandOf s id).arc.held ∧ (arcOf u).viq = (strandOf s id).arc.viq := by
    rw [show (headState s id).cur = id from rfl, head] at same
    rw [arcOf, cur, same]
    exact ⟨rfl, (congrArg (fun t : Strand => t.arc.held) head :), (congrArg (fun t : Strand => t.arc.viq) head :)⟩
  obtain ⟨slot, entries, queue⟩ := before
  have strand := sends.1.strand
  have arc : (strandOf t id).arc = arcOf t := by rw [← cur, strand]
  have kept : (arcOf t).held = (strandOf s id).arc.held := (congrArg Arcade.held sends.1.arc :).trans entries
  have popped : (arcOf t).viq = (strandOf s id).arc.viq.tail := (congrArg Arcade.viq sends.1.arc :).trans (congrArg List.tail queue)
  have done : afterHead (strandOf s id) (strandOf t id) = headDone (strandOf s id) (strandOf t id) := by
    refine afterHead_done _ _ ?_ ?_ ?_
    · rw [heldOn, arc, kept]
      exact hh
    · rw [← slot, ← cur, strand]
    · rw [arc, popped, List.length_tail]
      have := List.length_pos_of_ne_nil hv
      omega
  refine ⟨t, ?_, sends⟩
  rw [exec_portSpaceFree, execPortSpaceFree, hw]
  dsimp only
  rw [runHead_next s t id (execVsend r p) run, modStrand, modStrand]
  exact congrArg (fun y => Host.Outcome.next (setStrand { t with cur := s.cur } id y)) done

theorem takeMessage_some {m : List Word} {q : List (List Word)}
    (h : portOf s (chainCore (strandOf s id).arc) (chainPort (strandOf s id).arc) = m :: q) : takeMessage s id =
      some (modArc (setPort (withdrawRequest s id) (chainCore (strandOf s id).arc) (chainPort (strandOf s id).arc) q) id fun a =>
        { a with chainIn := some (chainCore (strandOf s id).arc, chainPort (strandOf s id).arc, m) }) := by
  rw [portOf] at h
  simp only [takeMessage, h]
  rfl

theorem portQueue_withdrawRequest (s : State) (id : Nat) :
    id ∉ portQueue (withdrawRequest s id) (chainCore (strandOf s id).arc) (chainPort (strandOf s id).arc) := by
  rw [withdrawRequest]
  split
  · rw [portQueue, setPortQueue, coreOf_setCore]
    simp
  · rename_i absent
    simpa using absent

/-- R258: a message reaches the strand whose request was first. -/
theorem chainMessageArrival_takes {m : List Word} {q : List (List Word)} (hw : (strandOf s id).arc.waits = some .chain)
    (hm : (strandOf s id).arc.chainIn = none) (hc : chainContended s id (strandOf s id).arc = false)
    (hp : portOf s (chainCore (strandOf s id).arc) (chainPort (strandOf s id).arc) = m :: q) :
    ∃ t : State, exec (.chainMessageArrival id) s = .next t ∧ (∀ j, j ≠ id → strandOf t j = strandOf s j) ∧ t.mem = s.mem ∧
      strandOf t id = { (strandOf s id) with arc := { (strandOf s id).arc with
        chainIn := some (chainCore (strandOf s id).arc, chainPort (strandOf s id).arc, m) } } ∧
      portOf t (chainCore (strandOf s id).arc) (chainPort (strandOf s id).arc) = q ∧
      id ∉ portQueue t (chainCore (strandOf s id).arc) (chainPort (strandOf s id).arc) := by
  have same : ∀ j, strandOf (withdrawRequest s id) j = strandOf s j := strandOf_congr (withdrawRequest_strands s id)
  have mem : (withdrawRequest s id).mem = s.mem := by rw [withdrawRequest]; split <;> rfl
  have absent := portQueue_withdrawRequest s id
  have run := exec_chainMessageArrival id s
  rw [execChainMessageArrival, if_pos ⟨hw, hm, hc⟩, takeMessage_some hp] at run
  refine ⟨_, run, fun j hj => ?_, mem, ?_, ?_, ?_⟩
  · rw [modArc, strandOf_modStrand_ne _ _ _ _ hj]
    exact same j
  · rw [strandOf_modArc, show ∀ c p q, strandOf (setPort (withdrawRequest s id) c p q) id = strandOf s id from fun _ _ _ => same id]
  · exact portOf_setPort ..
  · have ports : ∀ (x : State) c p q, (coreOf (setPort x c p q) c).portRequests = (coreOf x c).portRequests := fun x c p q => by
      rw [setPort, modCore, coreOf_setCore]
    rw [portQueue, coreOf_modArc, ports]
    exact absent

end

/-- Settles O30: a VSEND and a VCHAIN have the course of a vector instruction, and a port is one list of messages with one list of
requests. -/
theorem chaining : Obligations.Chaining := by
  intro s r p c id
  refine ⟨?_, ?_, fun on => ?_, vchain_illegal, vchain_absent, fun hw hv hh hb u v ready room => ?_, exec_portSpaceFree_else,
    fun m q hw hm hc hp => chainMessageArrival_takes hw hm hc hp⟩
  · refine vecCourse_of (exec_vsend r p s) (encode_vsend r p) fun hh hb u v ready => ?_
    have takes := portTakes_iff u (coreIdx u.cur) p.toNat v.a.vl
    exact ⟨fun room => vsend_sends ready hh hb (takes.mpr (.inl room)),
      fun full fits => vsend_waits ready hh hb fun t => by
        rcases takes.mp t with room | ⟨long, -⟩
        · exact absurd full (Nat.not_lt.mpr room)
        · exact absurd long (Nat.not_lt.mpr fits),
      fun long empty asked => vsend_sends ready hh hb (takes.mpr (.inr ⟨long, empty, asked⟩)),
      fun long busy => vsend_waits ready hh hb fun t => by
        rcases takes.mp t with room | ⟨-, empty, asked⟩
        · omega
        · exact busy.elim (fun some => absurd empty (Nat.ne_of_gt some)) asked⟩
  · intro k n hn hh hb ht hl hc hm on wait w hw
    obtain rfl := Option.some.inj ((encode_vsend r p).symm.trans hw)
    obtain ⟨others, ports, mem, clusters⟩ := awaitMessage_frame s (sendOp s r p)
    exact ⟨_, vsend_awaits hn hh hb ht hl hc ⟨hm, on, wait⟩, strandOf_awaitMessage, others, portQueue_awaitMessage s _ _ _ rfl rfl,
      ports, mem, clusters⟩
  · refine vchain_course on fun die hh hn ht hl => ?_
    have run := vchain_arms (p := p) on die hh hn ht hl
    refine ⟨completes_chainArmed run, fun k n m hm => ?_⟩
    obtain ⟨-, port, mem, -⟩ := returnMessage_some s s.cur k n m hm
    exact ⟨_, run, mem, strandOf_chainArmed, fun j hj => strandOf_chainArmed_ne hj, port⟩
  · obtain ⟨t, run, ran, regs, side, mem, -, -, -, port, -⟩ :=
      portSpaceFree_sends hw hv hh hb ready ((portTakes_iff ..).mpr (.inl room))
    exact ⟨t, run, ran, regs, side, mem, port⟩

end Sys2Proof.Machine

namespace Sys2Proof.Machine

/-! ## What memory holds, apart from coded lines, links and watches -/

/-- Every line of DRAM and of host memory, and what is unsound in it, is as it was. -/
structure SameLines (s t : State) : Prop where
  dram : t.mem.dram = s.mem.dram
  l2 : t.mem.l2 = s.mem.l2
  host : t.mem.host = s.mem.host
  l2Poison : t.mem.l2Poison = s.mem.l2Poison
  poison : t.mem.poison = s.mem.poison
  lostStacks : t.mem.lostStacks = s.mem.lostStacks
  sealKey : t.pkg.sealKey = s.pkg.sealKey

theorem SameLines.refl (s : State) : SameLines s s := ⟨rfl, rfl, rfl, rfl, rfl, rfl, rfl⟩

theorem SameLines.trans {s t u : State} (h : SameLines s t) (g : SameLines t u) : SameLines s u :=
  ⟨g.dram.trans h.dram, g.l2.trans h.l2, g.host.trans h.host, g.l2Poison.trans h.l2Poison, g.poison.trans h.poison,
    g.lostStacks.trans h.lostStacks, g.sealKey.trans h.sealKey⟩

theorem SameLines.of_mem {s t : State} (hm : t.mem = s.mem) (hk : t.pkg.sealKey = s.pkg.sealKey) : SameLines s t :=
  ⟨by rw [hm], by rw [hm], by rw [hm], by rw [hm], by rw [hm], by rw [hm], hk⟩

theorem SameLines.lineNow {s t : State} (h : SameLines s t) (n : Nat) (sl : Bool) : lineNow t n sl = lineNow s n sl := by
  rw [Machine.lineNow, Machine.lineNow, h.l2, h.sealKey, dramLine, dramLine, h.dram]

theorem SameLines.lineBad {s t : State} (h : SameLines s t) (n : Nat) : lineBad t n = lineBad s n := by
  simp only [Machine.lineBad, dramBad, stackLost, h.l2, h.l2Poison, h.poison, h.lostStacks]

theorem SameLines.physRead {s t : State} (h : SameLines s t) (k n : Nat) : physRead t k n = physRead s k n := by
  rw [Machine.physRead, Machine.physRead, h.lineNow]

/-- A target in device memory outside coded regions, or in host memory. -/
def Plainly (q : Target) : Prop := (∃ k sl, q = .phys k sl) ∨ ∃ a, q = .host a

theorem SameLines.targetRead {s t : State} (h : SameLines s t) {q : Target} (hq : Plainly q) (c d n : Nat) :
    targetRead t c q n = targetRead s d q n := by
  obtain ⟨k, sl, rfl⟩ | ⟨a, rfl⟩ := hq
  · simp only [Machine.targetRead, h.lineNow]
  · simp only [Machine.targetRead, h.host]

theorem SameLines.targetBad {s t : State} (h : SameLines s t) {q : Target} (hq : Plainly q) (c d n : Nat) :
    targetBad t c q n = targetBad s d q n := by
  obtain ⟨k, sl, rfl⟩ | ⟨a, rfl⟩ := hq
  · simp only [Machine.targetBad, h.lineBad]
  · rfl

/-! ## Counters (R99, R270) -/

/-- R290: the bits of a page offset are those of the address. -/
theorem pageWalk_low {s : State} {units : List Nat} {ctx va : Nat} {p : Page} (h : pageWalk s units ctx va = .ok p) :
    p.addr % 2 ^ 16 = va % 2 ^ 16 := by
  have leaf : ∀ level e, (pageOf level e va).addr % 2 ^ 16 = va % 2 ^ 16 := fun level e => by
    have wide : (2 : Nat) ^ 16 ∣ 2 ^ pageBits level := Nat.pow_dvd_pow 2 (by unfold pageBits; split <;> [decide; split <;> decide])
    rw [pageOf, Nat.mul_add_mod_self_right, Nat.mod_mod_of_dvd _ wide]
  have walked : ∀ fuel table, walk s va fuel table = .ok p → p.addr % 2 ^ 16 = va % 2 ^ 16 := by
    intro fuel
    induction fuel with
    | zero => intro table h; cases h
    | succ level ih =>
      intro table h
      rw [walk] at h
      dsimp only at h
      split at h
      · cases h
      split at h
      · cases h
      split at h
      · cases h
      split at h
      · split at h
        · cases h
        · cases h
          exact leaf _ _
      split at h
      · cases h
      · exact ih _ h
  rw [pageWalk] at h
  split at h
  · rw [tableWalk] at h
    split at h
    · cases h
    split at h
    · cases h
    · exact walked _ _ h
  · split at h
    · cases h
    split at h
    · cases h
      exact leaf _ _
    · exact walked _ _ h

theorem pageTarget_aligned {s : State} {p : Page} {k : Nat} {sl : Bool} (h : pageTarget s p = .phys k sl) : k % 8 = p.addr % 8 := by
  unfold pageTarget at h
  split at h
  · cases h
  · split at h
    · cases h
      rfl
    · obtain ⟨rfl, -⟩ := Target.phys.inj h
      unfold memKey
      split <;> omega
    · cases h

theorem translate_aligned {s : State} {ag : Agent} {write : Bool} {a : Word} {k : Nat} {sl : Bool}
    (h : translate s ag write a = .ok (.phys k sl)) : k % 8 = a.toNat % 8 := by
  unfold translate at h
  split at h
  · cases h
  split at h
  · cases h
  split at h
  · cases h
  · rename_i p walked
    split at h
    · cases h
    · rw [pageTarget_aligned (Except.ok.inj h)]
      have low := pageWalk_low walked
      have offset : va48 a = a.toNat % 2 ^ 48 := by simp [va48, fld, bitsOf]
      omega

/-- R99, R226: what the check of a join counter or a completion word promises of its target. -/
structure Countable (s : State) (g : Target) : Prop where
  plainly : Plainly g
  inLine : InLine g 8
  sound : ∀ c, targetBad s c g 8 = false
  booted : ∀ k sl, g = .phys k sl → s.pkg.bringUp = false

theorem endTarget_ok {s : State} {ag : Agent} {sid : Nat} {amo : Bool} {a : Word} {g : Target}
    (h : endTarget s ag sid amo a = .ok g) : Countable s g := by
  unfold endTarget at h
  split at h
  · cases h
  rename_i t checked
  unfold atomicTarget at checked
  split at checked
  · cases checked
  rename_i aligned
  split at checked
  · cases checked
  rename_i outside
  split at h
  · cases h
  rename_i uncoded
  rw [if_neg Bool.false_ne_true] at h
  split at h
  · cases h
  rename_i supported
  split at h
  · cases h
  rename_i sound
  obtain rfl := Except.ok.inj h
  cases t with
  | atrium o =>
    unfold translate at checked
    rw [if_neg outside] at checked
    split at checked
    · cases checked
    split at checked
    · cases checked
    split at checked
    · cases checked
    · have h := Except.ok.inj checked
      unfold pageTarget at h
      split at h
      · cases h
      · split at h <;> cases h
  | coded r o sl => exact absurd rfl (uncoded r o sl)
  | host b => exact ⟨.inr ⟨b, rfl⟩, trivial, fun _ => rfl, fun k sl h => nomatch h⟩
  | phys k sl =>
    have low := translate_aligned checked
    refine ⟨.inl ⟨k, sl, rfl⟩, ?_, fun c => ?_, fun _ _ _ => ?_⟩
    · show k % 64 + 8 ≤ 64
      omega
    · exact (Bool.or_eq_false_iff.mp (Bool.not_eq_true _ ▸ sound)).1
    · simpa [atomicUnsupported] using supported

theorem noteRemote_fabric (s : State) (id stream cls : Nat) (t : Target) (v : Nat) :
    (noteRemote s id stream cls t v).net.frcfg = s.net.frcfg ∧ (noteRemote s id stream cls t v).net.unreachable = s.net.unreachable ∧
      (noteRemote s id stream cls t v).net.minimal = s.net.minimal := by
  unfold noteRemote noteRemoteAs takeSeq
  split
  · exact ⟨rfl, rfl, rfl⟩
  · split
    · exact ⟨rfl, rfl, rfl⟩
    · dsimp only
      split
      · split <;> exact ⟨rfl, rfl, rfl⟩
      · exact ⟨rfl, rfl, rfl⟩

theorem sameLines_noteRemote (s : State) (id stream cls : Nat) (t : Target) (v : Nat) : SameLines s (noteRemote s id stream cls t v) := by
  rw [noteRemote_eq]
  exact .of_mem rfl rfl

theorem unreachableTarget_congr {s t : State} {q : Target} (hq : Plainly q) (cfg : t.net.frcfg = s.net.frcfg)
    (lost : t.net.unreachable = s.net.unreachable) (ports : t.net.minimal = s.net.minimal) (sid : Nat) :
    unreachableTarget t sid q = unreachableTarget s sid q := by
  obtain ⟨k, sl, rfl⟩ | ⟨a, rfl⟩ := hq
  · simp only [unreachableTarget, homeDie, unreachableDie, pkgOf, pkgNumber, cfg, lost, ports]
  · rfl

/-- Writing memory leaves the dies and the fabric alone. -/
theorem targetWrite_dies_net (s : State) (cl tag : Nat) (t : Target) (n v : Nat) :
    (targetWrite s cl tag t n v).dies = s.dies ∧ (targetWrite s cl tag t n v).net = s.net := by
  cases t with
  | atrium o => exact ⟨rfl, rfl⟩
  | phys k sl =>
    simp only [targetWrite, breakLine, storeLine]
    split <;> exact ⟨rfl, rfl⟩
  | coded r o sl =>
    obtain ⟨-, -, -, -, -, dies, net⟩ := fillCoded_same s r (o / 64) sl
    exact ⟨dies, net⟩
  | host a => exact ⟨rfl, rfl⟩

/-- R289: outside bring-up mode a store leaves every line as sound as it was. -/
theorem lineBad_storeLine_booted (s : State) (n k : Nat) (sl : Bool) (tag : Nat) (l : Line) (hb : s.pkg.bringUp = false)
    (h : lineBad s n = false) : lineBad (storeLine s n sl tag l) k = lineBad s k := by
  rw [storeLine, hb, if_neg Bool.false_ne_true, h, if_neg Bool.false_ne_true]
  by_cases hk : k = n
  · subst hk
    rw [h]
    simp [lineBad, tblFind_tblSet]
  · simp [lineBad, dramBad, stackLost, tblFind_tblSet_ne _ _ _ _ hk, hk]

/-- A doubleword of which every byte is apart from the doubleword written reads as before. -/
theorem targetRead_apart {s : State} {q r : Target} (cl c tag v : Nat) (hm : MemoriesWf s) (hp : Plain s q) (hq : InLine q 8)
    (hr : Plainly r) (inLine : InLine r 8) (ha : ∀ k < 8, Apart cl q 8 c (byteAt r k)) :
    targetRead (targetWrite s cl tag q 8 v) c r 8 = targetRead s c r 8 := by
  obtain ⟨j, b, rfl⟩ | ⟨a, rfl⟩ := hr
  · cases q with
    | atrium o => rfl
    | host a => rfl
    | coded g o sl =>
      simp only [targetRead, targetWrite, lineNow_breakLine]
      exact congrArg (lineBits · (j % 64) 8) (lineNow_fillCoded s g (o / 64) (j / 64) sl b)
    | phys k sl =>
      have inLine : j % 64 + 8 ≤ 64 := inLine
      have bytes : ∀ i < 8, (j + i) / 64 ≠ k / 64 ∨ (b = sl ∧ (j + i < k ∨ k + 8 ≤ j + i)) := ha
      simp only [targetRead, targetWrite, lineNow_breakLine]
      by_cases e : j / 64 = k / 64
      · obtain rfl : b = sl := ((bytes 0 (by omega)).resolve_left (by omega)).1
        have clear : j + 8 ≤ k ∨ k + 8 ≤ j := by
          have first := bytes 0 (by omega)
          have last := bytes 7 (by omega)
          by_cases inside : j ≤ k ∧ k - j < 8
          · have hit := bytes (k - j) inside.2
            omega
          · omega
        rw [e, lineNow_storeLine s _ b tag _ hm.dram (fun hb => hp hb k b rfl)]
        exact lineBits_lineSet_ne _ _ _ _ _ _ inLine (by omega)
      · rw [lineNow_storeLine_ne _ _ _ _ _ _ _ hm.dram e]
  · cases q with
    | atrium o => rfl
    | phys k sl =>
      have same : (targetWrite s cl tag (.phys k sl) 8 v).mem.host = s.mem.host := by
        simp only [targetWrite, breakLine, storeLine]
        split <;> rfl
      simp only [targetRead, same]
    | coded g o sl =>
      have same : (fillCoded s g (o / 64) sl).mem.host = s.mem.host := by rw [fillCoded_mem]
      exact congrArg (cellsRead · a 8) same
    | host b =>
      have bytes : ∀ i < 8, a + i < b ∨ b + 8 ≤ a + i := ha
      have clear : a + 8 ≤ b ∨ b + 8 ≤ a := by
        by_cases inside : a ≤ b ∧ b - a < 8
        · have hit := bytes (b - a) inside.2
          omega
        · have first := bytes 0 (by omega)
          omega
      exact cellsRead_cellsWrite_ne _ _ _ _ _ _ hm.host clear

/-- R270: the join counter incremented. -/
def joined (s : State) (id : Nat) (g : Target) : State :=
  let v := (targetRead s (clusterIdx id) g 8 + 1) % 2 ^ 64
  noteRemote (targetWrite s (clusterIdx id) (strandOf s id).tag g 8 v) id 0 2 g v

section
variable {s : State} {id : Nat} {g : Target}

theorem joined_strands : (joined s id g).strands = s.strands := by
  rw [joined, noteRemote_eq]
  exact (targetWrite_sides ..).1

theorem joined_dies : (joined s id g).dies = s.dies := by
  rw [joined, noteRemote_eq]
  exact (targetWrite_dies_net ..).1

theorem joined_counts (hm : MemoriesWf s) (hp : Plain s g) (hg : Countable s g) :
    targetRead (joined s id g) (clusterIdx id) g 8 = (targetRead s (clusterIdx id) g 8 + 1) % 2 ^ 64 := by
  rw [joined, (sameLines_noteRemote ..).targetRead hg.plainly _ (clusterIdx id), targetRead_targetWrite _ _ _ _ _ _ hm hp hg.inLine]
  omega

theorem joined_sound (hg : Countable s g) {r : Target} (hr : Countable s r) : targetBad (joined s id g) 0 r 8 = false := by
  rw [joined, (sameLines_noteRemote ..).targetBad hr.plainly _ 0, ← hr.sound 0]
  obtain ⟨j, b, rfl⟩ | ⟨a, rfl⟩ := hr.plainly
  · obtain ⟨k, sl, rfl⟩ | ⟨a, rfl⟩ := hg.plainly
    · exact lineBad_storeLine_booted s (k / 64) (j / 64) sl _ _ (hg.booted k sl rfl) (hg.sound 0)
    · rfl
  · rfl

theorem joined_reachable (sid : Nat) {r : Target} (hr : Plainly r) :
    unreachableTarget (joined s id g) sid r = unreachableTarget s sid r := by
  obtain ⟨cfg, lost, ports⟩ := noteRemote_fabric (targetWrite s (clusterIdx id) (strandOf s id).tag g 8
    ((targetRead s (clusterIdx id) g 8 + 1) % 2 ^ 64)) id 0 2 g ((targetRead s (clusterIdx id) g 8 + 1) % 2 ^ 64)
  have net := (targetWrite_dies_net s (clusterIdx id) (strandOf s id).tag g 8 ((targetRead s (clusterIdx id) g 8 + 1) % 2 ^ 64)).2
  exact unreachableTarget_congr hr (by rw [joined, cfg, net]) (by rw [joined, lost, net]) (by rw [joined, ports, net]) sid

theorem joined_apart (hm : MemoriesWf s) (hp : Plain s g) (hg : Countable s g) {r : Target} (hr : Countable s r)
    (ha : ∀ k < 8, Apart (clusterIdx id) g 8 0 (byteAt r k)) : targetRead (joined s id g) 0 r 8 = targetRead s 0 r 8 := by
  rw [joined, (sameLines_noteRemote ..).targetRead hr.plainly _ 0]
  exact targetRead_apart _ _ _ _ hm hp hg.inLine hr.plainly hr.inLine ha

end


/-! ## Queues (R263) -/

/-- Dies and lines are the same. -/
structure Alike (s t : State) : Prop where
  dies : t.dies = s.dies
  lines : SameLines s t

/-- The records that wait in a landing, on-die ones first. -/
def waitingIn (s : State) (d l : Nat) : List Entry := (landingOf s d l).queue ++ (landingOf s d l).spill.map (·.2)

theorem dieOf_congr {s t : State} (h : t.dies = s.dies) (d : Nat) : dieOf t d = dieOf s d := by rw [dieOf, dieOf, h]

theorem landingOf_congr {s t : State} (h : t.dies = s.dies) (d l : Nat) : landingOf t d l = landingOf s d l := by
  rw [landingOf, landingOf, dieOf_congr h]

@[simp] theorem landingOf_setLanding (s : State) (d l : Nat) (x : Landing) : landingOf (setLanding s d l x) d l = x := by
  rw [landingOf, setLanding, dieOf_setDie, tblGet_tblSet]

@[simp] theorem landingOf_reportLoss (s : State) (tag d l : Nat) : landingOf (reportLoss s tag) d l = landingOf s d l := rfl

theorem dieOf_setLanding (s : State) (d l : Nat) (x : Landing) :
    dieOf (setLanding s d l x) d = { dieOf s d with landings := tblSet (dieOf s d).landings l x } := dieOf_setDie ..

theorem Alike.setLanding {s t : State} (h : Alike s t) (d l : Nat) (x : Landing) : Alike (setLanding s d l x) (setLanding t d l x) := by
  have source : SameLines (Machine.setLanding s d l x) s := .of_mem rfl rfl
  have result : SameLines t (Machine.setLanding t d l x) := .of_mem rfl rfl
  refine ⟨?_, (source.trans h.lines).trans result⟩
  rw [Machine.setLanding, Machine.setLanding, dieOf_congr h.dies, setDie, setDie, h.dies]

theorem Alike.reportLoss {s t : State} (h : Alike s t) (tag : Nat) : Alike (reportLoss s tag) (reportLoss t tag) := by
  have source : SameLines (Machine.reportLoss s tag) s := .of_mem rfl rfl
  have result : SameLines t (Machine.reportLoss t tag) := .of_mem rfl rfl
  exact ⟨h.dies, (source.trans h.lines).trans result⟩

theorem Alike.spilledEntry {s t : State} (h : Alike s t) (d l i : Nat) (e : Entry) : spilledEntry t d l i e = spilledEntry s d l i e := by
  simp only [Machine.spilledEntry, dieOf_congr h.dies, h.lines.physRead]

theorem Alike.refillHead {s t : State} (h : Alike s t) (d l : Nat) : Alike (refillHead s d l) (refillHead t d l) := by
  rw [Machine.refillHead, Machine.refillHead, landingOf_congr h.dies, dieOf_congr h.dies]
  cases (landingOf s d l).spill with
  | nil => exact h
  | cons p r =>
    obtain ⟨i, e⟩ := p
    dsimp only
    rw [h.lines.lineBad, h.spilledEntry]
    split
    · exact (h.setLanding ..).reportLoss _
    · exact h.setLanding ..

theorem Alike.makeRoom {s t : State} (h : Alike s t) (d l n : Nat) : Alike (makeRoom d l n s) (makeRoom d l n t) := by
  induction n generalizing s t with
  | zero => exact h
  | succ n ih =>
    rw [Machine.makeRoom, Machine.makeRoom, landingOf_congr h.dies, dieOf_congr h.dies]
    split
    · exact ih (h.refillHead d l)
    · exact h

/-- Neither strands nor the wait pool of the die have changed. -/
structure PoolStays (d : Nat) (s t : State) : Prop where
  strands : t.strands = s.strands
  pool : (dieOf t d).waitPool = (dieOf s d).waitPool

theorem PoolStays.trans {d : Nat} {s t u : State} (h : PoolStays d s t) (g : PoolStays d t u) : PoolStays d s u :=
  ⟨g.strands.trans h.strands, g.pool.trans h.pool⟩

theorem poolStays_setLanding (s : State) (d l : Nat) (x : Landing) : PoolStays d s (setLanding s d l x) :=
  ⟨rfl, by rw [dieOf_setLanding]⟩

theorem poolStays_refillHead (s : State) (d l : Nat) : PoolStays d s (refillHead s d l) := by
  unfold refillHead
  dsimp only
  split
  · exact ⟨rfl, rfl⟩
  split
  · exact (poolStays_setLanding ..).trans ⟨rfl, rfl⟩
  · exact poolStays_setLanding ..

theorem poolStays_makeRoom (d l n : Nat) (s : State) : PoolStays d s (makeRoom d l n s) := by
  induction n generalizing s with
  | zero => exact ⟨rfl, rfl⟩
  | succ n ih =>
    rw [makeRoom]
    split
    · exact (poolStays_refillHead s d l).trans (ih _)
    · exact ⟨rfl, rfl⟩

theorem poolStays_physWrite (s : State) (d k n v : Nat) : PoolStays d s (physWrite s k n v) :=
  ⟨(targetWrite_sides ..).1, congrArg Die.waitPool (dieOf_congr (targetWrite_dies_net ..).1 d)⟩

theorem poolStays_enqueue (s : State) (d l : Nat) (e : Entry) : PoolStays d s (enqueue s d l e) := by
  unfold enqueue
  dsimp only
  split
  · exact (poolStays_makeRoom ..).trans (poolStays_setLanding ..)
  · exact ((poolStays_makeRoom ..).trans (poolStays_physWrite ..)).trans (poolStays_setLanding ..)

theorem length_refillHead {s : State} {d l : Nat} (h : (landingOf s d l).queue.length < 64) :
    (landingOf (refillHead s d l) d l).queue.length ≤ 64 := by
  rw [refillHead]
  split
  · omega
  split
  · simpa using h.le
  · simpa using h

theorem length_makeRoom (d l n : Nat) (s : State) :
    (landingOf (makeRoom d l n s) d l).queue.length ≤ max 64 (landingOf s d l).queue.length := by
  induction n generalizing s with
  | zero => exact le_max_right ..
  | succ n ih =>
    rw [makeRoom]
    split
    · have head := length_refillHead (s := s) (d := d) (l := l) ‹_ ∧ _›.1
      have rest := ih (refillHead s d l)
      omega
    · exact le_max_right ..

/-- R263: no record moves while the ring has a free entry. -/
theorem makeRoom_roomy {s : State} {d l : Nat} (h : (landingOf s d l).spill = [] ∨ (landingOf s d l).spill.length < landingSpcap (dieOf s d) l)
    (n : Nat) : makeRoom d l n s = s := by
  cases n with
  | zero => rfl
  | succ n =>
    rw [makeRoom]
    refine if_neg fun ⟨_, full, spilled⟩ => ?_
    exact h.elim spilled (by omega)

theorem waitingIn_enqueue (s : State) (d l : Nat) (e : Entry) :
    waitingIn (enqueue s d l e) d l = waitingIn (makeRoom d l 64 s) d l ++ [e] := by
  rw [enqueue, waitingIn, waitingIn]
  dsimp only
  split
  · have nothing : (landingOf (makeRoom d l 64 s) d l).spill = [] := List.isEmpty_iff.mp ‹_ ∧ _›.2
    simp [nothing]
  · simp

theorem length_enqueue (s : State) (d l : Nat) (e : Entry) :
    (landingOf (enqueue s d l e) d l).queue.length ≤ max 64 (landingOf s d l).queue.length := by
  have room := length_makeRoom d l 64 s
  rw [enqueue]
  dsimp only
  split
  · have short : (landingOf (makeRoom d l 64 s) d l).queue.length < 64 := ‹_ ∧ _›.1
    simp only [landingOf_setLanding, List.length_append, List.length_singleton]
    omega
  · simpa using room

/-- A record that finds room on-die touches no memory. -/
theorem sameLines_enqueue {s : State} {d l : Nat} (short : (landingOf s d l).queue.length < 64) (empty : (landingOf s d l).spill = [])
    (e : Entry) : SameLines s (enqueue s d l e) := by
  rw [enqueue, makeRoom_roomy (.inl empty)]
  dsimp only
  rw [if_pos ⟨short, List.isEmpty_iff.mpr empty⟩]
  exact .of_mem rfl rfl

end Sys2Proof.Machine

namespace Sys2Proof.Machine

/-! ## The wait pool (R272) -/

/-- Only links and watches have changed. -/
def OnlyTags (s t : State) : Prop := t = { s with mem := { s.mem with tags := t.mem.tags } }

theorem OnlyTags.trans {s t u : State} (h : OnlyTags s t) (g : OnlyTags t u) : OnlyTags s u := by
  unfold OnlyTags at *
  rw [g, h]

theorem OnlyTags.lines {s t : State} (h : OnlyTags s t) : SameLines s t := by
  rw [h]
  exact ⟨rfl, rfl, rfl, rfl, rfl, rfl, rfl⟩

theorem OnlyTags.dies {s t : State} (h : OnlyTags s t) : t.dies = s.dies := by rw [h]

theorem OnlyTags.strands {s t : State} (h : OnlyTags s t) : t.strands = s.strands := by rw [h]

theorem onlyTags_evictTag (s : State) (slice : Nat) : OnlyTags s (evictTag s slice) := by
  unfold evictTag OnlyTags
  dsimp only
  split
  · rfl
  · split <;> rfl

theorem onlyTags_placeTag (s : State) (t : TagEntry) : OnlyTags s (placeTag s t) := by
  have room : ∀ u : State, OnlyTags u (if t.line matches .host _ then u else evictTag u (homeSlice u t.line)) := fun u => by
    split
    · exact rfl
    · exact onlyTags_evictTag ..
  have placed : ∀ u : State, OnlyTags s u → OnlyTags s { u with mem := { u.mem with tags := u.mem.tags ++ [t] } } :=
    fun u h => h.trans rfl
  unfold placeTag
  by_cases watch : t.watch = true
  · rw [if_pos watch]
    exact placed _ (room s)
  · rw [if_neg watch]
    refine placed _ (OnlyTags.trans ?_ (room _))
    exact rfl

theorem onlyTags_dropPoolWatch (s : State) (w : WaitEntry) : OnlyTags s (dropPoolWatch s w) := rfl

theorem placeTarget_placeOf {g : Target} (hg : Plainly g) : placeTarget (placeOf g) = g := by
  obtain ⟨k, sl, rfl⟩ | ⟨a, rfl⟩ := hg
  · have kind : (placeOf (.phys k sl)).kind ≠ 2 := by unfold placeOf; dsimp only; split <;> simp
    exact if_neg kind
  · rfl

@[simp] theorem dieOf_setPool (s : State) (d : Nat) (p : List WaitEntry) : dieOf (setPool s d p) d = { dieOf s d with waitPool := p } :=
  dieOf_setDie ..

@[simp] theorem landingOf_setPool (s : State) (d l : Nat) (p : List WaitEntry) : landingOf (setPool s d p) d l = landingOf s d l := by
  rw [landingOf, dieOf_setPool]
  rfl

section
variable {s : State} {d i : Nat} {w : WaitEntry} {g : Target} (entry : (dieOf s d).waitPool[i]? = some w) (waits : w.eligible = false)
  (counter : w.counter = placeOf g) (plainly : Plainly g) (sound : targetBad s 0 g 8 = false)
  (reachable : unreachableTarget s (hubSid 0) g = false)
include entry waits counter plainly sound reachable

/-- R272: a counter that does not read zero leaves its record waiting. -/
theorem onlyTags_readCounter (positive : targetRead s 0 g 8 ≠ 0) : OnlyTags s (readCounter s d i) := by
  simp only [readCounter, entry, waits, counter, placeTarget_placeOf plainly, sound, reachable, Bool.or_self, if_neg positive,
    Bool.false_eq_true, if_false]
  cases poolWatch w with
  | none => exact onlyTags_dropPoolWatch ..
  | some t => exact (onlyTags_dropPoolWatch s w).trans (onlyTags_placeTag _ t)

/-- R272: a counter that reads zero moves its record to its landing, where there is room. -/
theorem readCounter_zero {l : Nat} (zero : targetRead s 0 g 8 = 0) (landing : l = recLanding w.entry.record)
    (on : landingOn (dieOf s d) l = true) (room : landingFull s d l = false) :
    ∃ v, readCounter s d i = enqueue (setPool v d ((dieOf s d).waitPool.eraseIdx i)) d l w.entry ∧ v.strands = s.strands ∧
      landingOf v d l = landingOf s d l ∧ landingSpcap (dieOf v d) l = landingSpcap (dieOf s d) l := by
  have bound : i < (dieOf s d).waitPool.length := (List.getElem?_eq_some_iff.mp entry).1
  let v := setPool (dropPoolWatch s w) d ((dieOf s d).waitPool.set i { w with eligible := true })
  have pool : (dieOf v d).waitPool = (dieOf s d).waitPool.set i { w with eligible := true } := by rw [dieOf_setPool]
  have onThere : landingOn (dieOf v d) l = true := by rw [dieOf_setPool]; exact on
  have roomThere : landingFull v d l = false := by
    rw [landingFull, landingOf_setPool, dieOf_setPool]
    exact room
  refine ⟨v, ?_, rfl, landingOf_setPool .., by rw [dieOf_setPool]; rfl⟩
  have settled : readCounter s d i = settleWait v d i := by
    simp only [readCounter, entry, waits, counter, placeTarget_placeOf plainly, sound, reachable, Bool.or_self, if_pos zero,
      Bool.false_eq_true, if_false]
    rw [← counter]
  rw [settled, settleWait, pool, List.getElem?_set_self bound, List.eraseIdx_set_eq]
  simp only [← landing, onThere, roomThere, Bool.and_self, Bool.not_false, if_true]

end

end Sys2Proof.Machine
namespace Sys2Proof.Machine

/-! ## Reading the record (R270) -/

/-- Beside the host's answer to the strand, no strand, core, cluster or die has changed. -/
structure AsideAnswer (id : Nat) (s u : State) : Prop where
  strand : ∃ h, strandOf u id = { strandOf s id with hostAnswer := h }
  others : ∀ j, j ≠ id → strandOf u j = strandOf s j
  dies : u.dies = s.dies
  cores : u.cores = s.cores
  clusters : u.clusters = s.clusters

theorem AsideAnswer.of_strands {id : Nat} {s u : State} (h : u.strands = s.strands) (d : u.dies = s.dies) (c : u.cores = s.cores)
    (k : u.clusters = s.clusters) : AsideAnswer id s u :=
  ⟨⟨(strandOf s id).hostAnswer, strandOf_congr h id⟩, fun j _ => strandOf_congr h j, d, c, k⟩

theorem AsideAnswer.trans {id : Nat} {s t u : State} (h : AsideAnswer id s t) (g : AsideAnswer id t u) : AsideAnswer id s u := by
  obtain ⟨a, ha⟩ := h.strand
  obtain ⟨b, hb⟩ := g.strand
  exact ⟨⟨b, by rw [hb, ha]⟩, fun j hj => (g.others j hj).trans (h.others j hj), g.dies.trans h.dies, g.cores.trans h.cores,
    g.clusters.trans h.clusters⟩

theorem asideAnswer_noteFault (id : Nat) (s : State) (f : XFault) : AsideAnswer id s (noteFault s f) := by
  rw [onlyLog_noteFault]
  exact .of_strands rfl rfl rfl rfl

theorem ReadOnly.asideAnswer {id : Nat} {s u : State} (h : ReadOnly id s u) : AsideAnswer id s u :=
  ⟨h.strand, h.others, by rw [h.rest], by rw [h.rest], by rw [h.rest]⟩

theorem ReadOnly.sameLines {id : Nat} {s u : State} (h : ReadOnly id s u) (key : u.pkg.sealKey = s.pkg.sealKey) : SameLines s u :=
  ⟨by rw [h.mem], by rw [h.mem], by rw [h.mem], by rw [h.mem], by rw [h.mem], by rw [h.mem], key⟩

theorem sealKey_targetFill (s : State) (t : Target) : (targetFill s t).pkg.sealKey = s.pkg.sealKey := by
  cases t with
  | coded r o sl => exact (fillCoded_same s r (o / 64) sl).2.2.1
  | atrium o => rfl
  | phys k sl => rfl
  | host a => rfl

theorem sealKey_noteRemote (s : State) (id stream cls : Nat) (t : Target) (v : Nat) :
    (noteRemote s id stream cls t v).pkg.sealKey = s.pkg.sealKey := by rw [noteRemote_eq]

/-- R224: what follows the host's answer goes on from the state, or from it without the answer. -/
theorem hostThen_cases {α : Type} (s : State) (id : Nat) (host : Bool) (k : State → Acc α) :
    hostThen s id host k = k s ∨ hostThen s id host k = .wait .hostPage s ∨
      (let u := modStrand s id fun t => { t with hostAnswer := none }
       hostThen s id host k = k u ∨ hostThen s id host k = .fault cACCESS u) := by
  unfold hostThen
  cases host with
  | false => exact .inl rfl
  | true =>
    simp only [if_true]
    split
    · exact .inr (.inl rfl)
    · split
      · exact .inr (.inr (.inl rfl))
      · exact .inr (.inr (.inr rfl))

theorem readChunks_sealKey {s w : State} {id stream : Nat} {cs : List (Word × Nat)} {l : List Nat}
    (h : readChunks s id stream cs = .ok l w) : w.pkg.sealKey = s.pkg.sealKey := by
  have filled : ∀ (ts : List (Target × Nat)) (u : State),
      (ts.foldl (fun w t => noteRemote (targetFill w t.1) id stream 0 t.1 0) u).pkg.sealKey = u.pkg.sealKey := fun ts => by
    induction ts with
    | nil => exact fun u => rfl
    | cons t ts ih => exact fun u => (ih _).trans ((sealKey_noteRemote ..).trans (sealKey_targetFill ..))
  unfold readChunks at h
  split at h
  · cases h
  split at h
  · cases h
  split at h
  · cases h
  obtain run | run | run | run := hostThen_cases s id _ _ <;> rw [run] at h
  · obtain ⟨-, rfl⟩ := Acc.ok.inj h
    exact filled _ s
  · cases h
  · obtain ⟨-, rfl⟩ := Acc.ok.inj h
    exact filled _ _
  · cases h

theorem readChunks_lines {s w : State} {id stream : Nat} {cs : List (Word × Nat)} {l : List Nat}
    (h : readChunks s id stream cs = .ok l w) : SameLines s w := (readChunks_ok h).sameLines (readChunks_sealKey h)

theorem readChunks_fault {s w : State} {id stream c : Nat} {cs : List (Word × Nat)}
    (h : readChunks s id stream cs = .fault c w) : AsideAnswer id s w := by
  unfold readChunks at h
  split at h
  · obtain ⟨-, rfl⟩ := Acc.fault.inj h
    exact asideAnswer_noteFault ..
  split at h
  · obtain ⟨-, rfl⟩ := Acc.fault.inj h
    exact .of_strands rfl rfl rfl rfl
  split at h
  · cases h
  obtain run | run | run | run := hostThen_cases s id _ _ <;> rw [run] at h
  · cases h
  · cases h
  · cases h
  · obtain ⟨-, rfl⟩ := Acc.fault.inj h
    exact (readOnly_hostAnswer s id none).asideAnswer

/-- R270: the doubleword that a trap of the reads names is one of the four, and those before it can be read. -/
theorem firstBad_recordChunks (s : State) (id : Nat) (p : Word) : ∃ n < 4, firstBad s id (recordChunks p) p = p + BitVec.ofNat 64 (8 * n) ∧
    ∀ j < n, ∃ q, translate s (agentOf s id) false (p + BitVec.ofNat 64 (8 * j)) = .ok q ∧
      targetBad s (clusterIdx id) q 8 = false ∧ unreachableTarget s (sidOf id 0) q = false := by
  rw [firstBad, recordChunks, List.find?_map]
  cases found : (List.range 4).find? _ with
  | none => exact ⟨0, by decide, by simp, fun j hj => absurd hj (Nat.not_lt_zero j)⟩
  | some n =>
    obtain ⟨-, bound, first⟩ := List.find?_range_eq_some.mp found
    refine ⟨n, List.mem_range.mp bound, rfl, fun j hj => ?_⟩
    have good := first j hj
    dsimp only [Function.comp_apply] at good
    cases walked : translate s (agentOf s id) false (p + BitVec.ofNat 64 (8 * j)) with
    | error f =>
      rw [walked] at good
      cases good
    | ok q =>
      rw [walked] at good
      simp only [Bool.not_eq_true', Bool.or_eq_false_iff] at good
      exact ⟨q, rfl, good⟩

end Sys2Proof.Machine

namespace Sys2Proof.Machine

/-! ## The course of SPAWN and SPAWNC (R263, R269, R270) -/

theorem exec_spawn (a b : BitVec 5) (s : State) : exec (.spawn a b) s = .next (spawnOp (wordSched a b 0 0) a b none s) := rfl

theorem exec_spawnc (a b c : BitVec 5) (s : State) :
    exec (.spawnc a b c) s = .next (spawnOp (wordSched a b c 1) a b (some (reg s s.cur c)) s) := rfl

/-- The record that four doublewords make. -/
def recordOf (vs : List Nat) : Record :=
  ⟨BitVec.ofNat 64 (listGet 0 vs 0), BitVec.ofNat 64 (listGet 0 vs 1), BitVec.ofNat 64 (listGet 0 vs 2),
    BitVec.ofNat 64 (listGet 0 vs 3)⟩

theorem spawnOp_read {s u : State} {a b : BitVec 5} {vs : List Nat} (w : BitVec 32) (ctr : Option Word)
    (aligned : (reg s s.cur b).toNat % 8 = 0) (performed : unperformed s s.cur = false)
    (read : readChunks s s.cur 0 (recordChunks (reg s s.cur b)) = .ok vs u) :
    spawnOp w a b ctr s = spawnRecord u s.cur w a (recordOf vs) ctr (strandOf s s.cur).hostAnswer := by
  simp only [spawnOp, performed, aligned, read, Bool.false_eq_true, if_false, ne_eq, not_true]
  rfl

/-- R270: what becomes of a record that its landing, or the wait pool, takes. -/
def placed (id d l : Nat) (a : BitVec 5) (r : Record) (tag : Nat) (ct : Option Target) (u : State) : State :=
  let e := freshEntry u r tag false
  match ct with
  | none => finishReg (enqueue e.2 d l e.1) id a 0
  | some t =>
    let p := (dieOf e.2 d).waitPool
    finishReg (readCounter (setPool e.2 d (p ++ [⟨e.1, placeOf t, false⟩])) d p.length) id a 0

section
variable {u : State} {id d : Nat} {w : BitVec 32} {a : BitVec 5} {r : Record} {ctr : Option Word} {ans : Option Bool}
  {jt ct : Option Target}

theorem spawnRecord_absent (hd : d = if recDieAny r then dieIdx id else recDie r) (status : (dieOf u d).status = .disabled) :
    spawnRecord u id w a r ctr ans = trapHere u id cCOORD (BitVec.ofNat 64 (d * 128)) := by
  simp only [spawnRecord, ← hd, status, if_true]

theorem spawnRecord_out (hd : d = if recDieAny r then dieIdx id else recDie r) (status : (dieOf u d).status = .out) :
    spawnRecord u id w a r ctr ans = blockOn u id (.landing d) := by
  simp only [spawnRecord, ← hd, status, reduceCtorEq, if_true, if_false]

variable (hd : d = if recDieAny r then dieIdx id else recDie r) (status : (dieOf u d).status = .inService)
include hd status

theorem spawnRecord_joinFault {f : XFault} (join : optTarget u id (if recJoin r = 0 then none else some (addr48 (recJoin r))) = .error f) :
    spawnRecord u id w a r ctr ans = trapHere (noteFault u f) id f.cause (addr48 (recJoin r)) := by
  simp only [spawnRecord, ← hd, status, reduceCtorEq, if_false, join]

variable (join : optTarget u id (if recJoin r = 0 then none else some (addr48 (recJoin r))) = .ok jt)
include join

theorem spawnRecord_uncounted (zero : ctr = some 0) : spawnRecord u id w a r ctr ans = trapIllegal u id w := by
  simp only [spawnRecord, ← hd, status, reduceCtorEq, if_false, join, zero, if_true]

theorem spawnRecord_counterFault {f : XFault} (counted : ctr ≠ some 0) (counter : optTarget u id ctr = .error f) :
    spawnRecord u id w a r ctr ans = trapHere (noteFault u f) id f.cause (ctr.getD 0) := by
  simp only [spawnRecord, ← hd, status, reduceCtorEq, if_false, join, counted, counter]

variable (counted : ctr ≠ some 0) (counter : optTarget u id ctr = .ok ct)
include counted counter

theorem spawnRecord_closed (closed : landingOn (dieOf u d) (recLanding r) = false) :
    spawnRecord u id w a r ctr ans = finishReg u id a 2 := by
  simp only [spawnRecord, ← hd, status, reduceCtorEq, if_false, join, counted, counter, closed, Bool.not_false, if_true]

variable (accepts : landingOn (dieOf u d) (recLanding r) = true)
include accepts

theorem spawnRecord_full (full : (ctr.isNone && landingFull u d (recLanding r)) = true ∨
    (ctr.isSome && decide (1024 ≤ (dieOf u d).waitPool.length)) = true) :
    spawnRecord u id w a r ctr ans = finishReg u id a 1 := by
  simp only [spawnRecord, ← hd, status, reduceCtorEq, if_false, join, counted, counter, accepts, Bool.not_true, Bool.false_eq_true]
  obtain full | full := full
  · rw [if_pos full]
  · rw [if_pos full, ite_self]

theorem spawnRecord_placed (room : (ctr.isNone && landingFull u d (recLanding r)) = false)
    (pool : (ctr.isSome && decide (1024 ≤ (dieOf u d).waitPool.length)) = false) :
    spawnRecord u id w a r ctr ans =
      joinThen u id ans (addr48 (recJoin r)) jt (placed id d (recLanding r) a r (strandOf u id).tag ct) := by
  simp only [spawnRecord, ← hd, status, reduceCtorEq, if_false, join, counted, counter, accepts, Bool.not_true, Bool.false_eq_true,
    room, pool]
  rfl

end

theorem joinThen_some {u : State} {id : Nat} {ans : Option Bool} {j : Word} {g : Target} (k : State → State)
    (answered : ∀ h, g = .host h → ans = some true) : joinThen u id ans j (some g) k = k (joined u id g) := by
  have never : ∀ o : Option Bool, o ≠ some true → ¬ (isHost g ∧ ans = o) := fun o ho ⟨host, ha⟩ => by
    cases g with
    | host h => exact ho (ha ▸ answered h rfl)
    | atrium o => cases host
    | phys k sl => cases host
    | coded r o sl => cases host
  rw [joinThen, if_neg (never none (by decide)), if_neg (never (some false) (by decide))]
  rfl

end Sys2Proof.Machine
namespace Sys2Proof.Machine

theorem strandOf_answered {id : Nat} {s u : State} (h : ∃ k, strandOf u id = { strandOf s id with hostAnswer := k }) (a : BitVec 5)
    (v : Word) : strandOf (finishReg u id a v) id = past (putReg (strandOf s id) a v) := by
  obtain ⟨k, hk⟩ := h
  rw [strandOf_finishReg, hk]
  unfold putReg
  split <;> rfl

theorem alike_freshEntry (v : State) (r : Record) (tag : Nat) (f : Bool) : Alike v (freshEntry v r tag f).2 := ⟨rfl, .of_mem rfl rfl⟩

/-- R263: a record spawned stands behind every record of its landing. -/
theorem placed_spawn (id d l : Nat) (a : BitVec 5) (r : Record) (tag : Nat) (v : State) :
    ∃ x e, placed id d l a r tag none v = finishReg x id a 0 ∧ x.strands = v.strands ∧ e.record = r ∧ e.tag = tag ∧
      waitingIn x d l = waitingIn (makeRoom d l 64 v) d l ++ [e] ∧
      (landingOf x d l).queue.length ≤ max 64 (landingOf v d l).queue.length ∧
      ((landingOf v d l).queue.length < 64 → (landingOf v d l).spill = [] → SameLines v x) := by
  have alike := alike_freshEntry v r tag false
  refine ⟨_, (freshEntry v r tag false).1, rfl, (poolStays_enqueue ..).strands, rfl, rfl, ?_, length_enqueue .., fun short empty => ?_⟩
  · rw [waitingIn_enqueue, waitingIn, waitingIn, landingOf_congr (alike.makeRoom d l 64).dies]
  · exact alike.lines.trans (sameLines_enqueue (s := (freshEntry v r tag false).2) short empty _)

section
variable (id d l : Nat) (a : BitVec 5) (r : Record) (tag : Nat) (v : State) {g : Target} (plainly : Plainly g)
  (sound : targetBad v 0 g 8 = false) (reachable : unreachableTarget v (hubSid 0) g = false)
include plainly sound reachable

/-- R272: a record whose counter is not zero stands in the wait pool. -/
theorem placed_waits (positive : targetRead v 0 g 8 ≠ 0) :
    ∃ x w, placed id d l a r tag (some g) v = finishReg x id a 0 ∧ x.strands = v.strands ∧ SameLines v x ∧
      w.entry.record = r ∧ w.entry.tag = tag ∧ w.eligible = false ∧
      dieOf x d = { dieOf v d with waitPool := (dieOf v d).waitPool ++ [w] } := by
  let w : WaitEntry := ⟨(freshEntry v r tag false).1, placeOf g, false⟩
  let u := setPool (freshEntry v r tag false).2 d ((dieOf v d).waitPool ++ [w])
  have lines : SameLines v u := .of_mem rfl rfl
  have entry : (dieOf u d).waitPool[(dieOf v d).waitPool.length]? = some w := by rw [dieOf_setPool]; exact List.getElem?_concat_length ..
  have stays : OnlyTags u (readCounter u d (dieOf v d).waitPool.length) :=
    onlyTags_readCounter entry rfl rfl plainly ((lines.targetBad plainly 0 0 8).trans sound)
      ((unreachableTarget_congr plainly rfl rfl rfl _).trans reachable) (by rw [lines.targetRead plainly 0 0]; exact positive)
  exact ⟨_, w, rfl, stays.strands, lines.trans stays.lines, rfl, rfl, rfl, (dieOf_congr stays.dies d).trans (dieOf_setPool ..)⟩

/-- R272: a record whose counter is zero goes to its landing, where there is room. -/
theorem placed_counted (zero : targetRead v 0 g 8 = 0) (landing : l = recLanding r) (on : landingOn (dieOf v d) l = true)
    (room : landingFull v d l = false)
    (ring : (landingOf v d l).spill = [] ∨ (landingOf v d l).spill.length < landingSpcap (dieOf v d) l) :
    ∃ x e, placed id d l a r tag (some g) v = finishReg x id a 0 ∧ x.strands = v.strands ∧ e.record = r ∧ e.tag = tag ∧
      waitingIn x d l = waitingIn v d l ++ [e] ∧ (dieOf x d).waitPool = (dieOf v d).waitPool := by
  let w : WaitEntry := ⟨(freshEntry v r tag false).1, placeOf g, false⟩
  let u := setPool (freshEntry v r tag false).2 d ((dieOf v d).waitPool ++ [w])
  have lines : SameLines v u := .of_mem rfl rfl
  have pool : (dieOf u d).waitPool = (dieOf v d).waitPool ++ [w] := by rw [dieOf_setPool]
  have landings : landingOf u d l = landingOf v d l := landingOf_setPool ..
  have spcap : landingSpcap (dieOf u d) l = landingSpcap (dieOf v d) l := by rw [dieOf_setPool]; rfl
  obtain ⟨y, moved, strands, queue, cap⟩ := readCounter_zero (s := u) (d := d) (i := (dieOf v d).waitPool.length) (w := w)
    (by rw [pool]; exact List.getElem?_concat_length ..) rfl rfl plainly ((lines.targetBad plainly 0 0 8).trans sound)
    ((unreachableTarget_congr plainly rfl rfl rfl _).trans reachable) ((lines.targetRead plainly 0 0 8).trans zero) landing
    (by rw [dieOf_setPool]; exact on) (by rw [landingFull, landings, spcap]; exact room)
  have out : (dieOf u d).waitPool.eraseIdx (dieOf v d).waitPool.length = (dieOf v d).waitPool := by
    rw [pool, List.eraseIdx_append_of_length_le (Nat.le_refl _)]
    simp
  rw [out] at moved
  let z := setPool y d (dieOf v d).waitPool
  have there : landingOf z d l = landingOf v d l := (landingOf_setPool ..).trans (queue.trans landings)
  have still : makeRoom d l 64 z = z := makeRoom_roomy (by
    rw [there, show landingSpcap (dieOf z d) l = landingSpcap (dieOf v d) l by rw [dieOf_setPool]; exact cap.trans spcap]
    exact ring) 64
  have stays := poolStays_enqueue z d l w.entry
  refine ⟨enqueue z d l w.entry, w.entry, congrArg (finishReg · id a 0) moved, stays.strands.trans strands, rfl, rfl, ?_,
    stays.pool.trans (by rw [dieOf_setPool])⟩
  rw [waitingIn_enqueue, still, waitingIn, waitingIn, there]

end

end Sys2Proof.Machine
namespace Sys2Proof.Machine

/-! ## The course once the record is read -/

theorem toNat_wordSched (a b c : BitVec 5) (fn : BitVec 11) :
    (wordSched a b c fn).toNat = 0xD0000000 + a.toNat * 0x200000 + b.toNat * 0x10000 + c.toNat * 0x800 + fn.toNat := by
  rw [wordSched, wordR]
  simp only [toNat_append_add, BitVec.reduceToNat]
  omega

theorem encode_spawnc (a b c : BitVec 5) : encode (.spawnc a b c) = some (wordSched a b c 1) :=
  encode_of_toNat rfl (by rw [toNat_wordSched]; simp; omega)

/-- The instruction has read its record `r`, for the die `d`, and goes on from `u`. -/
structure SpawnReads (s u : State) (i : Instr) (w : BitVec 32) (a : BitVec 5) (ctr : Option Word) (r : Record) (d : Nat) : Prop where
  course : exec i s = .next (spawnRecord u s.cur w a r ctr (strandOf s s.cur).hostAnswer)
  aside : AsideAnswer s.cur s u
  lines : SameLines s u
  die : d = if recDieAny r then dieIdx s.cur else recDie r

theorem spawnReads_of {s u : State} {i : Instr} {w : BitVec 32} {a b : BitVec 5} {ctr : Option Word} {r : Record} {d : Nat}
    {vs : List Nat} (he : exec i s = .next (spawnOp w a b ctr s)) (aligned : (reg s s.cur b).toNat % 8 = 0)
    (performed : unperformed s s.cur = false) (read : readChunks s s.cur 0 (recordChunks (reg s s.cur b)) = .ok vs u)
    (hr : r = recordOf vs) (die : d = if recDieAny r then dieIdx s.cur else recDie r) : SpawnReads s u i w a ctr r d :=
  ⟨by rw [he, spawnOp_read w ctr aligned performed read, hr], (readChunks_ok read).asideAnswer, readChunks_lines read, die⟩

theorem landingFull_congr {s t : State} (h : t.dies = s.dies) (d l : Nat) : landingFull t d l = landingFull s d l := by
  rw [landingFull, landingFull, landingOf_congr h, dieOf_congr h]

theorem optTarget_ok {s : State} {id : Nat} {x : Word} {g : Target} (h : endTarget s (agentOf s id) (sidOf id 0) true x = .ok g) :
    optTarget s id (some x) = .ok (some g) := by rw [optTarget, h]

theorem optTarget_error {s : State} {id : Nat} {x : Word} {f : XFault}
    (h : endTarget s (agentOf s id) (sidOf id 0) true x = .error f) : optTarget s id (some x) = .error f := by rw [optTarget, h]

/-- The instruction answers `t`, in which its strand has `v` in sA and goes on. -/
def Answers (s : State) (i : Instr) (a : BitVec 5) (v : Word) (t : State) : Prop :=
  exec i s = .next t ∧ strandOf t s.cur = past (putReg (strandOf s s.cur) a v)

section
variable {s u : State} {i : Instr} {w : BitVec 32} {a : BitVec 5} {ctr : Option Word} {r : Record} {d : Nat} {jt ct : Option Target}
  (h : SpawnReads s u i w a ctr r d)
include h

theorem SpawnReads.answers {x : State} {v : Word} (same : x.strands = u.strands)
    (run : spawnRecord u s.cur w a r ctr (strandOf s s.cur).hostAnswer = finishReg x s.cur a v) :
    Answers s i a v (finishReg x s.cur a v) := by
  refine ⟨by rw [h.course, run], strandOf_answered ?_ a v⟩
  obtain ⟨k, hk⟩ := h.aside.strand
  exact ⟨k, by rw [strandOf_congr same, hk]⟩

theorem SpawnReads.tag : (strandOf u s.cur).tag = (strandOf s s.cur).tag := by
  obtain ⟨k, hk⟩ := h.aside.strand
  rw [hk]

variable (status : (dieOf s d).status = .inService)
  (join : optTarget u s.cur (if recJoin r = 0 then none else some (addr48 (recJoin r))) = .ok jt) (counted : ctr ≠ some 0)
  (counter : optTarget u s.cur ctr = .ok ct)
include status join counted counter

theorem SpawnReads.closed (off : landingOn (dieOf s d) (recLanding r) = false) :
    ∃ t : State, Answers s i a 2 t ∧ t.dies = s.dies ∧ t.mem = u.mem := by
  rw [← dieOf_congr h.aside.dies] at status off
  exact ⟨_, h.answers rfl (spawnRecord_closed h.die status join counted counter off), h.aside.dies, rfl⟩

variable (accepts : landingOn (dieOf s d) (recLanding r) = true)
include accepts

theorem SpawnReads.full (full : (ctr.isNone && landingFull s d (recLanding r)) = true ∨
    (ctr.isSome && decide (1024 ≤ (dieOf s d).waitPool.length)) = true) :
    ∃ t : State, Answers s i a 1 t ∧ t.dies = s.dies ∧ t.mem = u.mem := by
  rw [← dieOf_congr h.aside.dies] at status accepts full
  rw [← landingFull_congr h.aside.dies] at full
  exact ⟨_, h.answers rfl (spawnRecord_full h.die status join counted counter accepts full), h.aside.dies, rfl⟩

variable (room : (ctr.isNone && landingFull s d (recLanding r)) = false)
  (pool : (ctr.isSome && decide (1024 ≤ (dieOf s d).waitPool.length)) = false)
include room pool

theorem SpawnReads.places : spawnRecord u s.cur w a r ctr (strandOf s s.cur).hostAnswer =
    joinThen u s.cur (strandOf s s.cur).hostAnswer (addr48 (recJoin r)) jt
      (placed s.cur d (recLanding r) a r (strandOf s s.cur).tag ct) := by
  rw [← dieOf_congr h.aside.dies] at status accepts pool
  rw [← landingFull_congr h.aside.dies] at room
  rw [spawnRecord_placed h.die status join counted counter accepts room pool, h.tag]

end

end Sys2Proof.Machine
namespace Sys2Proof.Machine

/-! ## SPAWN and SPAWNC take their record -/

section
variable {s u : State} {i : Instr} {w : BitVec 32} {a : BitVec 5} {r : Record} {d l : Nat}

/-- R263, R270: a SPAWN without a join counter queues its record. -/
theorem SpawnReads.lands (h : SpawnReads s u i w a none r d) (hl : l = recLanding r) (status : (dieOf s d).status = .inService)
    (single : recJoin r = 0) (accepts : landingOn (dieOf s d) l = true) (room : landingFull s d l = false) :
    ∃ (t : State) (e : Entry), Answers s i a 0 t ∧ e.record = r ∧ e.tag = (strandOf s s.cur).tag ∧
      ((landingOf s d l).spill = [] ∨ (landingOf s d l).spill.length < landingSpcap (dieOf s d) l →
        waitingIn t d l = waitingIn s d l ++ [e]) ∧
      waitingIn t d l = waitingIn (makeRoom d l 64 s) d l ++ [e] ∧
      (landingOf t d l).queue.length ≤ max 64 (landingOf s d l).queue.length := by
  subst hl
  have run := h.places (jt := none) (ct := none) status (by rw [if_pos single]; rfl) nofun rfl accepts (by simpa using room) rfl
  obtain ⟨x, e, hx, strands, record, tag, queue, length, -⟩ :=
    placed_spawn s.cur d (recLanding r) a r (strandOf s s.cur).tag u
  have alike : Alike s u := ⟨h.aside.dies, h.lines⟩
  have before : waitingIn (makeRoom d (recLanding r) 64 u) d (recLanding r) = waitingIn (makeRoom d (recLanding r) 64 s) d (recLanding r) := by
    rw [waitingIn, waitingIn, landingOf_congr (alike.makeRoom d (recLanding r) 64).dies]
  rw [before] at queue
  rw [landingOf_congr h.aside.dies] at length
  exact ⟨_, e, h.answers strands (run.trans hx), record, tag, fun ring => by rw [← makeRoom_roomy ring 64]; exact queue, queue, length⟩

/-- R270: a SPAWN with a join counter increments it and queues its record. -/
theorem SpawnReads.joinsAndLands {g : Target} (h : SpawnReads s u i w a none r d) (hl : l = recLanding r)
    (status : (dieOf s d).status = .inService) (joining : recJoin r ≠ 0)
    (join : endTarget u (agentOf u s.cur) (sidOf s.cur 0) true (addr48 (recJoin r)) = .ok g) (answered : HostAnswered s g)
    (wf : MemoriesWf u) (plain : Plain u g) (accepts : landingOn (dieOf s d) l = true) (short : (landingOf s d l).queue.length < 64)
    (empty : (landingOf s d l).spill = []) :
    ∃ (t : State) (e : Entry), Answers s i a 0 t ∧ e.record = r ∧ e.tag = (strandOf s s.cur).tag ∧
      waitingIn t d l = waitingIn s d l ++ [e] ∧
      targetRead t (clusterIdx s.cur) g 8 = (targetRead u (clusterIdx s.cur) g 8 + 1) % 2 ^ 64 := by
  subst hl
  have checked := endTarget_ok join
  have room : landingFull s d (recLanding r) = false := by simp [landingFull, empty]; omega
  have run := h.places (jt := some g) (ct := none) status (by rw [if_neg joining]; exact optTarget_ok join) nofun rfl accepts
    (by simpa using room) rfl
  rw [joinThen_some _ answered] at run
  have dies : (joined u s.cur g).dies = s.dies := joined_dies.trans h.aside.dies
  have queue := landingOf_congr dies d (recLanding r)
  obtain ⟨x, e, hx, strands, record, tag, queued, -, lines⟩ :=
    placed_spawn s.cur d (recLanding r) a r (strandOf s s.cur).tag (joined u s.cur g)
  refine ⟨_, e, h.answers (strands.trans joined_strands) (run.trans hx), record, tag, ?_, ?_⟩
  · rw [makeRoom_roomy (.inl (by rw [queue]; exact empty)), waitingIn, waitingIn, queue] at queued
    exact queued
  · exact ((lines (by rw [queue]; exact short) (by rw [queue]; exact empty)).targetRead checked.plainly ..).trans
      (joined_counts wf plain checked)

variable {y : Word} {g : Target}

/-- R272: a SPAWNC whose counter is not zero, from the state in which its record is placed. -/
theorem SpawnReads.waits {v : State} (h : SpawnReads s u i w a (some y) r d) (strands : v.strands = u.strands) (dies : v.dies = u.dies)
    (run : spawnRecord u s.cur w a r (some y) (strandOf s s.cur).hostAnswer =
      placed s.cur d (recLanding r) a r (strandOf s s.cur).tag (some g) v)
    (plainly : Plainly g) (sound : targetBad v 0 g 8 = false) (reachable : unreachableTarget v (hubSid 0) g = false)
    (positive : targetRead v 0 g 8 ≠ 0) :
    ∃ (t : State) (w : WaitEntry), Answers s i a 0 t ∧ w.entry.record = r ∧ w.entry.tag = (strandOf s s.cur).tag ∧
      w.eligible = false ∧ (dieOf t d).waitPool = (dieOf s d).waitPool ++ [w] ∧ (dieOf t d).landings = (dieOf s d).landings ∧
      SameLines v t := by
  obtain ⟨x, w, hx, same, lines, record, tag, eligible, die⟩ :=
    placed_waits s.cur d (recLanding r) a r (strandOf s s.cur).tag v plainly sound reachable positive
  rw [dieOf_congr (dies.trans h.aside.dies)] at die
  have finished : SameLines x (finishReg x s.cur a 0) := .of_mem rfl rfl
  exact ⟨_, w, h.answers (same.trans strands) (run.trans hx), record, tag, eligible, congrArg Die.waitPool die,
    (congrArg Die.landings die :), lines.trans finished⟩

variable (h : SpawnReads s u i w a (some y) r d) (status : (dieOf s d).status = .inService) (positive : y ≠ 0)
  (counter : endTarget u (agentOf u s.cur) (sidOf s.cur 0) true y = .ok g) (reachable : unreachableTarget u (hubSid 0) g = false)
  (accepts : landingOn (dieOf s d) (recLanding r) = true) (pool : (dieOf s d).waitPool.length < 1024)
include h status positive counter accepts pool

theorem SpawnReads.joinsThenPlaces {jt : Option Target}
    (join : optTarget u s.cur (if recJoin r = 0 then none else some (addr48 (recJoin r))) = .ok jt) :
    spawnRecord u s.cur w a r (some y) (strandOf s s.cur).hostAnswer =
      joinThen u s.cur (strandOf s s.cur).hostAnswer (addr48 (recJoin r)) jt
        (placed s.cur d (recLanding r) a r (strandOf s s.cur).tag (some g)) :=
  h.places status join (fun e => positive (Option.some.inj e)) (optTarget_ok counter) accepts rfl (by simp; omega)

include reachable

/-- R272: a SPAWNC without a join counter, whose own counter is not zero. -/
theorem SpawnReads.waitsAlone (single : recJoin r = 0) (above : targetRead u 0 g 8 ≠ 0) :
    ∃ (t : State) (w : WaitEntry), Answers s i a 0 t ∧ w.entry.record = r ∧ w.entry.tag = (strandOf s s.cur).tag ∧
      w.eligible = false ∧ (dieOf t d).waitPool = (dieOf s d).waitPool ++ [w] ∧ (dieOf t d).landings = (dieOf s d).landings := by
  have checked := endTarget_ok counter
  have run := h.joinsThenPlaces status positive counter accepts pool (jt := none) (by rw [if_pos single]; rfl)
  obtain ⟨t, w, answer, record, tag, eligible, waitPool, landings, -⟩ :=
    h.waits rfl rfl run checked.plainly (checked.sound 0) reachable above
  exact ⟨t, w, answer, record, tag, eligible, waitPool, landings⟩

/-- R270, R272: a SPAWNC with a join counter, whose own counter is not zero and apart from it. -/
theorem SpawnReads.joinsAndWaits {j : Target} (joining : recJoin r ≠ 0)
    (join : endTarget u (agentOf u s.cur) (sidOf s.cur 0) true (addr48 (recJoin r)) = .ok j) (answered : HostAnswered s j)
    (wf : MemoriesWf u) (plain : Plain u j) (apart : ∀ k < 8, Apart (clusterIdx s.cur) j 8 0 (byteAt g k))
    (above : targetRead u 0 g 8 ≠ 0) :
    ∃ (t : State) (w : WaitEntry), Answers s i a 0 t ∧ w.entry.record = r ∧ w.entry.tag = (strandOf s s.cur).tag ∧
      w.eligible = false ∧ (dieOf t d).waitPool = (dieOf s d).waitPool ++ [w] ∧ (dieOf t d).landings = (dieOf s d).landings ∧
      targetRead t (clusterIdx s.cur) j 8 = (targetRead u (clusterIdx s.cur) j 8 + 1) % 2 ^ 64 := by
  have checked := endTarget_ok counter
  have joinable := endTarget_ok join
  have run := h.joinsThenPlaces status positive counter accepts pool (jt := some j)
    (by rw [if_neg joining]; exact optTarget_ok join)
  rw [joinThen_some _ answered] at run
  obtain ⟨t, w, answer, record, tag, eligible, waitPool, landings, lines⟩ :=
    h.waits joined_strands joined_dies run checked.plainly (joined_sound joinable checked)
      ((joined_reachable _ checked.plainly).trans reachable) (by rw [joined_apart wf plain joinable checked apart]; exact above)
  exact ⟨t, w, answer, record, tag, eligible, waitPool, landings,
    (lines.targetRead joinable.plainly ..).trans (joined_counts wf plain joinable)⟩

/-- R272: a SPAWNC without a join counter, whose own counter is zero and whose landing has room. -/
theorem SpawnReads.counted (single : recJoin r = 0) (zero : targetRead u 0 g 8 = 0) (hl : l = recLanding r)
    (room : landingFull s d l = false)
    (ring : (landingOf s d l).spill = [] ∨ (landingOf s d l).spill.length < landingSpcap (dieOf s d) l) :
    ∃ (t : State) (e : Entry), Answers s i a 0 t ∧ e.record = r ∧ e.tag = (strandOf s s.cur).tag ∧
      waitingIn t d l = waitingIn s d l ++ [e] ∧ (dieOf t d).waitPool = (dieOf s d).waitPool := by
  subst hl
  have checked := endTarget_ok counter
  have run := h.joinsThenPlaces status positive counter accepts pool (jt := none) (by rw [if_pos single]; rfl)
  have die := dieOf_congr h.aside.dies d
  have landing := landingOf_congr h.aside.dies d (recLanding r)
  obtain ⟨x, e, hx, strands, record, tag, queue, waitPool⟩ :=
    placed_counted s.cur d (recLanding r) a r (strandOf s s.cur).tag u checked.plainly (checked.sound 0) reachable zero rfl
      (by rw [die]; exact accepts) (by rw [landingFull_congr h.aside.dies]; exact room) (by rw [die, landing]; exact ring)
  refine ⟨_, e, h.answers strands (run.trans hx), record, tag, ?_, waitPool.trans (congrArg Die.waitPool die)⟩
  rw [waitingIn, waitingIn, landing] at queue
  exact queue

end

end Sys2Proof.Machine
namespace Sys2Proof.Machine

/-! ## The traps of SPAWN and SPAWNC (R63, R269, R270) -/

/-- The instruction traps, in its strand, from a state whose memory is that of `w`. -/
def SpawnTraps (s : State) (i : Instr) (w : State) (cause : Nat) (v : Word) : Prop :=
  ∃ t : State, exec i s = .next t ∧
    strandOf t s.cur = trapped cause v (pcOf s) (strandOf s s.cur) ∧ (∀ j, j ≠ s.cur → strandOf t j = strandOf s j) ∧
    t.mem = w.mem ∧ t.dies = s.dies ∧ t.cores = s.cores ∧ t.clusters = s.clusters

theorem strandOf_trapHere_ne (s : State) {id j : Nat} (c : Nat) (v : Word) (h : j ≠ id) : strandOf (trapHere s id c v) j = strandOf s j := by
  unfold trapHere takeTrap strandFailure
  split <;> exact strandOf_modStrand_ne _ _ _ _ h

theorem strandOf_trapHere {id : Nat} {s u : State} (h : ∃ k, strandOf u id = { strandOf s id with hostAnswer := k }) (c : Nat)
    (v : Word) : strandOf (trapHere u id c v) id = trapped c v ((strandOf s id).pc.zeroExtend 64) (strandOf s id) := by
  obtain ⟨k, hk⟩ := h
  rw [trapHere, strandOf_takeTrap, hk]
  rfl

theorem spawnTraps_of {s u w : State} {i : Instr} {c : Nat} {v : Word} (he : exec i s = .next (trapHere u s.cur c v))
    (aside : AsideAnswer s.cur s u) (mem : u.mem = w.mem) : SpawnTraps s i w c v :=
  ⟨_, he, strandOf_trapHere aside.strand c v, fun j hj => (strandOf_trapHere_ne u c v hj).trans (aside.others j hj),
    by rw [trapHere_mem, mem], by rw [trapHere_dies, aside.dies], by rw [trapHere_cores, aside.cores],
    by rw [trapHere_clusters, aside.clusters]⟩

theorem spawnTraps_noteFault {s u : State} {i : Instr} {f : XFault} {v : Word}
    (he : exec i s = .next (trapHere (noteFault u f) s.cur f.cause v)) (aside : AsideAnswer s.cur s u) : SpawnTraps s i u f.cause v :=
  spawnTraps_of he (aside.trans (asideAnswer_noteFault ..)) (onlyLog_noteFault u f).mem

section
variable {s u : State} {i : Instr} {w : BitVec 32} {a b : BitVec 5} {ctr : Option Word}
  (he : exec i s = .next (spawnOp w a b ctr s))
include he

theorem spawn_behind (behind : unperformed s s.cur = true) : Completes s i fun t => { t with blocked := some .spawn } :=
  completes_blockOn s i .spawn (by simp only [he, spawnOp, behind, if_true])

variable (performed : unperformed s s.cur = false)
include performed

theorem spawn_misaligned (odd : (reg s s.cur b).toNat % 8 ≠ 0) : TrapsHere s i cMISALIGN (reg s s.cur b) :=
  trapsHere_of s i cMISALIGN _ (by rw [he, spawnOp, if_neg (by rw [performed]; decide), if_pos odd])

variable (aligned : (reg s s.cur b).toNat % 8 = 0)
include aligned

theorem spawn_unreadable {k : Nat} (read : readChunks s s.cur 0 (recordChunks (reg s s.cur b)) = .fault k u) :
    SpawnTraps s i u k (firstBad s s.cur (recordChunks (reg s s.cur b)) (reg s s.cur b)) := by
  refine spawnTraps_of (by rw [he, spawnOp, if_neg (by rw [performed]; decide), if_neg (by omega), read]) (readChunks_fault read) rfl

end

section
variable {s u : State} {i : Instr} {w : BitVec 32} {a : BitVec 5} {ctr : Option Word} {r : Record} {d : Nat}
  (h : SpawnReads s u i w a ctr r d)
include h

theorem SpawnReads.disabled (status : (dieOf s d).status = .disabled) : SpawnTraps s i u cCOORD (BitVec.ofNat 64 (d * 128)) := by
  rw [← dieOf_congr h.aside.dies] at status
  exact spawnTraps_of (by rw [h.course, spawnRecord_absent h.die status]) h.aside rfl

theorem SpawnReads.out (status : (dieOf s d).status = .out) : ∃ t : State, exec i s = .next t ∧
    (strandOf t s.cur).blocked = some (.landing d) ∧ (strandOf t s.cur).pc = (strandOf s s.cur).pc ∧
    (strandOf t s.cur).regs = (strandOf s s.cur).regs ∧ t.mem = u.mem ∧ t.dies = s.dies := by
  rw [← dieOf_congr h.aside.dies] at status
  obtain ⟨k, hk⟩ := h.aside.strand
  refine ⟨_, by rw [h.course, spawnRecord_out h.die status], ?_⟩
  rw [blockOn, strandOf_modStrand, hk]
  exact ⟨rfl, rfl, rfl, rfl, h.aside.dies⟩

variable (status : (dieOf s d).status = .inService)
include status

theorem SpawnReads.joinFault {f : XFault} (joining : recJoin r ≠ 0)
    (join : endTarget u (agentOf u s.cur) (sidOf s.cur 0) true (addr48 (recJoin r)) = .error f) :
    SpawnTraps s i u f.cause (addr48 (recJoin r)) := by
  rw [← dieOf_congr h.aside.dies] at status
  refine spawnTraps_noteFault ?_ h.aside
  rw [h.course, spawnRecord_joinFault h.die status (by rw [if_neg joining]; exact optTarget_error join)]

variable {jt : Option Target} (join : optTarget u s.cur (if recJoin r = 0 then none else some (addr48 (recJoin r))) = .ok jt)
include join

theorem SpawnReads.uncounted (zero : ctr = some 0) : SpawnTraps s i u cILLEGAL (w.zeroExtend 64) := by
  rw [← dieOf_congr h.aside.dies] at status
  exact spawnTraps_of (by rw [h.course, spawnRecord_uncounted h.die status join zero]; rfl) h.aside rfl

theorem SpawnReads.counterFault {x : Word} {f : XFault} (counter : ctr = some x) (positive : x ≠ 0)
    (fault : endTarget u (agentOf u s.cur) (sidOf s.cur 0) true x = .error f) : SpawnTraps s i u f.cause x := by
  rw [← dieOf_congr h.aside.dies] at status
  subst counter
  refine spawnTraps_noteFault ?_ h.aside
  rw [h.course, spawnRecord_counterFault h.die status join (fun e => positive (Option.some.inj e)) (optTarget_error fault)]
  rfl

end

/-- A join counter that is absent, or that passes its check. -/
theorem optTarget_join {u : State} {id : Nat} {r : Record}
    (h : recJoin r = 0 ∨ ∃ j, endTarget u (agentOf u id) (sidOf id 0) true (addr48 (recJoin r)) = .ok j) :
    ∃ jt, optTarget u id (if recJoin r = 0 then none else some (addr48 (recJoin r))) = .ok jt := by
  by_cases single : recJoin r = 0
  · exact ⟨none, by rw [if_pos single]; rfl⟩
  · obtain ⟨j, hj⟩ := h.resolve_left single
    exact ⟨some j, by rw [if_neg single]; exact optTarget_ok hj⟩

/-- Settles O15: a SPAWN or SPAWNC reads its record from lines that the read leaves as they are, so that the landing queue, the
wait pool and the counters are those of the state before; the increment of the join counter leaves every die alone, and a
counter apart from it reads as before. -/
theorem spawnQueuesTheRecord : Obligations.SpawnQueuesTheRecord := by
  unfold Obligations.SpawnQueuesTheRecord
  refine ⟨?spawn, ?spawnc, ?traps⟩
  case spawn =>
    intro s u a b p vs r d l hp aligned performed read hr hd hl status answer all
    subst hp hl
    have h := spawnReads_of (exec_spawn a b s) aligned performed read hr hd
    refine ⟨fun single off => ?_, fun single on full => ?_, fun single on room => ?_,
      fun g joining join answered wf plain on short empty => ?_⟩
    · obtain ⟨t, answer, dies, -⟩ := h.closed status (jt := none) (by rw [if_pos single]; rfl) nofun rfl off
      exact ⟨t, answer, dies⟩
    · obtain ⟨t, answer, dies, -⟩ := h.full status (jt := none) (by rw [if_pos single]; rfl) nofun rfl on (.inl full)
      exact ⟨t, answer, dies⟩
    · exact h.lands rfl status single on room
    · exact h.joinsAndLands rfl status joining join answered wf plain on short empty
  case spawnc =>
    intro s u a b c p x vs r d l g hp hx aligned performed read hr hd hl status positive counter reachable answer joins
    subst hp hx hl
    have h := spawnReads_of (exec_spawnc a b c s) aligned performed read hr hd
    have counted : some (reg s s.cur c) ≠ some 0 := fun e => positive (Option.some.inj e)
    refine ⟨fun joinable => ?_, fun j joining join answered wf plain on pool apart above => ?_, fun single on pool above => ?_,
      fun single on pool zero room ring => ?_⟩
    · obtain ⟨jt, join⟩ := optTarget_join joinable
      exact ⟨h.closed status join counted (optTarget_ok counter),
        fun on full => h.full status join counted (optTarget_ok counter) on (.inr (decide_eq_true full))⟩
    · exact h.joinsAndWaits status positive counter reachable on pool joining join answered wf plain apart above
    · exact h.waitsAlone status positive counter reachable on pool single above
    · exact h.counted status positive counter reachable on pool single zero rfl room ring
  case traps =>
    intro s u a b c p x i k vs r d hp hx hi traps
    subst hp hx
    obtain ⟨w, ctr, he, hw⟩ : ∃ w ctr, exec i s = .next (spawnOp w a b ctr s) ∧
        (i = .spawnc a b c → ctr = some (reg s s.cur c) ∧ encode i = some w) := by
      obtain rfl | rfl := hi
      · exact ⟨_, _, exec_spawn a b s, nofun⟩
      · exact ⟨_, _, exec_spawnc a b c s, fun _ => ⟨rfl, encode_spawnc a b c⟩⟩
    refine ⟨spawn_behind he, spawn_misaligned he, fun performed aligned => ⟨fun read => ?_, ?_⟩⟩
    · obtain ⟨n, bound, first, before⟩ := firstBad_recordChunks s s.cur (reg s s.cur b)
      exact ⟨n, bound, by rw [← first]; exact spawn_unreadable he performed aligned read, before⟩
    · intro read hr hd join counter
      have h := spawnReads_of he aligned performed read hr hd
      refine ⟨h.disabled, h.out, fun status => ⟨fun f joining fault => h.joinFault status joining fault, fun spawnc joinable => ?_⟩⟩
      obtain ⟨jt, joined⟩ := optTarget_join joinable
      obtain ⟨isCounter, word⟩ := hw spawnc
      refine ⟨fun zero v hv => ?_, fun positive f fault => h.counterFault status joined isCounter positive fault⟩
      obtain rfl : w = v := Option.some.inj (word.symm.trans hv)
      exact h.uncounted status joined (by rw [isCounter, zero])

end Sys2Proof.Machine


section
/-!
Every step keeps the canonical form of every memory: a lemma for each function of the model that answers a state, in the order of
the model's parts. A function writes memory only through the operations whose lemmas stand in Laws/Memory.lean; all others leave
the four memories as they are.
-/

namespace Sys2Proof.Machine

/- The lemmas are many and short: they are elaborated one after another. -/
set_option Elab.async false

/-! ## What an answer keeps -/

/-- If the answer is a next state, its memories have their canonical form. -/
def NextWf : Res → Prop
  | .next t => MemoriesWf t
  | _ => True

/-- Whatever an access gives, it leaves the memories in their canonical form. -/
def AccWf {α : Type} : Acc α → Prop
  | .ok _ s => MemoriesWf s
  | .fault _ s => MemoriesWf s
  | .wait _ s => MemoriesWf s

/-- A swap leaves the memories in their canonical form, whether it succeeds or traps. -/
def SwapWf : Swap → Prop
  | .ok s => MemoriesWf s
  | .error e => MemoriesWf e.2.2

theorem MemoriesWf.fst {α : Type} {x : State × α} {s : State} {a : α} (h : MemoriesWf x.1) (e : x = (s, a)) : MemoriesWf s := by
  subst e
  exact h

theorem MemoriesWf.snd {α : Type} {x : α × State} {s : State} {a : α} (h : MemoriesWf x.2) (e : x = (a, s)) : MemoriesWf s := by
  subst e
  exact h

theorem AccWf.ok {α : Type} {r : Acc α} {v : α} {s : State} (h : AccWf r) (e : r = .ok v s) : MemoriesWf s := by
  subst e
  exact h

theorem AccWf.fault {α : Type} {r : Acc α} {c : Nat} {s : State} (h : AccWf r) (e : r = .fault c s) : MemoriesWf s := by
  subst e
  exact h

theorem AccWf.wait {α : Type} {r : Acc α} {b : Block} {s : State} (h : AccWf r) (e : r = .wait b s) : MemoriesWf s := by
  subst e
  exact h

theorem NextWf.next {r : Res} {s : State} (h : NextWf r) (e : r = .next s) : MemoriesWf s := by
  subst e
  exact h

theorem SwapWf.ok {r : Swap} {s : State} (h : SwapWf r) (e : r = .ok s) : MemoriesWf s := by
  subst e
  exact h

theorem SwapWf.error {r : Swap} {c : Nat} {v : Word} {s : State} (h : SwapWf r) (e : r = .error (c, v, s)) : MemoriesWf s := by
  subst e
  exact h

theorem SwapWf.of_eq {r x : Swap} (h : SwapWf r) (e : r = x) : SwapWf x := e ▸ h

/-- An update that keeps device memory, host memory, the cores and the clusters. -/
theorem MemoriesWf.update {s : State} (h : MemoriesWf s) {agenda : List Move} {cur free : Nat} {strands : Tbl Strand} {dies
    : Tbl Die}
    {mem : Mem} {pkg : Package} {net : Net} (dram : mem.dram = s.mem.dram := by rfl) (host : mem.host = s.mem.host := by rfl) :
    MemoriesWf ⟨agenda, cur, strands, s.cores, s.clusters, dies, mem, pkg, net, free⟩ :=
  h.congr dram host rfl rfl

/-- Device memory replaced by one in canonical form. -/
theorem MemoriesWf.withDram {s : State} (h : MemoriesWf s) {agenda : List Move} {cur free : Nat} {strands : Tbl Strand}
    {dies : Tbl Die} {mem : Mem} {pkg : Package} {net : Net} (dram : Memory.wf mem.dram = true)
    (host : mem.host = s.mem.host := by rfl) :
    MemoriesWf ⟨agenda, cur, strands, s.cores, s.clusters, dies, mem, pkg, net, free⟩ :=
  ⟨dram, host ▸ h.host, h.tcm, h.atrium⟩

/-- A core replaced by one with the same TCM. -/
theorem MemoriesWf.putCore {s : State} (h : MemoriesWf s) {c : Nat} {k : Core} (e : k.tcm = (Machine.coreOf s c).tcm := by
    rfl) :
    MemoriesWf (Machine.setCore s c k) :=
  h.setCore c k (e ▸ h.coreOf c)

/-- A cluster replaced by one with the same Atrium. -/
theorem MemoriesWf.putCluster {s : State} (h : MemoriesWf s) {c : Nat} {k : Cluster}
    (e : k.atrium = (Machine.clusterOf s c).atrium := by rfl) : MemoriesWf (Machine.setCluster s c k) :=
  h.setCluster c k (e ▸ h.clusterOf c)

/-- A run over a list keeps the canonical form if each of its rounds does. -/
theorem MemoriesWf.foldl {α : Type} {s : State} (h : MemoriesWf s) {f : State → α → State} {l : List α}
    (round : ∀ u x, MemoriesWf u → MemoriesWf (f u x)) : MemoriesWf (l.foldl f s) := by
  induction l generalizing s with
  | nil => exact h
  | cons x r ih => exact ih (round s x h)

/-! ## The functions of the model -/

variable {s : State}

/-! ### Rings, events and reports -/

theorem MemoriesWf.addReportOnce (h : MemoriesWf s) {rule detail : Nat} : MemoriesWf (Machine.addReportOnce s rule detail) := by
  unfold Machine.addReportOnce
  split
  · exact h
  · exact h.addReport _ _

theorem MemoriesWf.raiseVector (h : MemoriesWf s) {v : Nat} : MemoriesWf (Machine.raiseVector s v) := by
  unfold Machine.raiseVector
  split <;> exact h.update

/-! ### Memory and its homes -/

theorem MemoriesWf.writeBackError (h : MemoriesWf s) {pa tag : Nat} : MemoriesWf (Machine.writeBackError s pa tag) := by
  unfold Machine.writeBackError
  split
  · exact h.update
  · exact h.postEvent _ _ _

theorem MemoriesWf.dropLine (h : MemoriesWf s) {n : Nat} : MemoriesWf (Machine.dropLine s n) := h.update

theorem MemoriesWf.poisonLine (h : MemoriesWf s) {n : Nat} : MemoriesWf (Machine.poisonLine s n) := h.update

theorem MemoriesWf.breakStrand (h : MemoriesWf s) {id : Nat} : MemoriesWf (Machine.breakStrand s id) := h.update

theorem MemoriesWf.setRegion (h : MemoriesWf s) {n : Nat} {r : Region} : MemoriesWf (Machine.setRegion s n r) := h.update

theorem MemoriesWf.countEncode (h : MemoriesWf s) {r e : Nat} : MemoriesWf (Machine.countEncode s r e) := by
  unfold Machine.countEncode
  dsimp only
  split
  · split
    · exact h.setRegion.postEvent _ _ _
    · exact h.setRegion
  · split
    · exact h.setRegion.postEvent _ _ _
    · exact h.setRegion

theorem MemoriesWf.dropCoded (h : MemoriesWf s) {r j : Nat} : MemoriesWf (Machine.dropCoded s r j) := h.update

/-- R302: the carrier's line goes to DRAM, and the coded line stays, clean. -/
theorem MemoriesWf.codecWrite (h : MemoriesWf s) {r j : Nat} : MemoriesWf (Machine.codecWrite s r j) := by
  unfold Machine.codecWrite
  split
  · exact h
  · split
    · exact h.dropCoded.loseLine _ _
    · split
      · refine ((MemoriesWf.countEncode ?_).breakLine _).breakLine _
        exact ⟨cellsWrite_wf _ _ _ _ h.dram, h.host, h.tcm, h.atrium⟩
      · exact h

theorem MemoriesWf.targetFill (h : MemoriesWf s) {t : Target} : MemoriesWf (Machine.targetFill s t) := by
  unfold Machine.targetFill
  split
  · exact h.fillCoded _ _ _
  · exact h

theorem MemoriesWf.evictTag (h : MemoriesWf s) {slice : Nat} : MemoriesWf (Machine.evictTag s slice) := by
  unfold Machine.evictTag
  dsimp only
  split
  · exact h
  · split
    · exact h
    · exact h.update

theorem MemoriesWf.placeTag (h : MemoriesWf s) {t : TagEntry} : MemoriesWf (Machine.placeTag s t) := by
  have lone : MemoriesWf (if t.watch then s else { s with mem := { s.mem with tags := s.mem.tags.filter fun u =>
      u.watch || u.strand != t.strand || u.lane != t.lane } }) := by
    split
    · exact h
    · exact h.update
  unfold Machine.placeTag
  refine MemoriesWf.update ?_
  split
  · exact lone
  · exact lone.evictTag

theorem MemoriesWf.consumeLink (h : MemoriesWf s) {id : Nat} {lane : Option Nat} :
    MemoriesWf (Machine.consumeLink s id lane) := h.update

theorem MemoriesWf.noteFault (h : MemoriesWf s) {f : XFault} : MemoriesWf (Machine.noteFault s f) := by
  unfold Machine.noteFault
  split
  · exact h
  · exact h.addReportOnce

theorem MemoriesWf.tlbFills (h : MemoriesWf s) {unit ctx va level : Nat} :
    MemoriesWf (Machine.tlbFills s unit ctx va level) := by
  unfold Machine.tlbFills
  dsimp only
  split
  · exact h.update
  · exact h

theorem MemoriesWf.tlbDrops (h : MemoriesWf s) {i : Nat} : MemoriesWf (Machine.tlbDrops s i) := h.update

/-! ### The shared operations of the strands -/

theorem MemoriesWf.modStrand (h : MemoriesWf s) {id : Nat} {f : Strand → Strand} :
    MemoriesWf (Machine.modStrand s id f) := h.setStrand _ _

theorem MemoriesWf.modArc (h : MemoriesWf s) {id : Nat} {f : Arcade → Arcade} :
    MemoriesWf (Machine.modArc s id f) := h.modStrand

theorem MemoriesWf.setReg (h : MemoriesWf s) {id : Nat} {r : BitVec 5} {v : Word} :
    MemoriesWf (Machine.setReg s id r v) := h.modStrand

theorem MemoriesWf.raise (h : MemoriesWf s) {id : Nat} {f : Word} : MemoriesWf (Machine.raise s id f) := h.modStrand

theorem MemoriesWf.finish (h : MemoriesWf s) {id : Nat} : MemoriesWf (Machine.finish s id) := h.modStrand

theorem MemoriesWf.finishAt (h : MemoriesWf s) {id : Nat} {pc : BitVec 48} :
    MemoriesWf (Machine.finishAt s id pc) := h.modStrand

theorem MemoriesWf.finishV (h : MemoriesWf s) {id : Nat} : MemoriesWf (Machine.finishV s id) := h.modStrand

theorem MemoriesWf.blockOn (h : MemoriesWf s) {id : Nat} {b : Block} : MemoriesWf (Machine.blockOn s id b) := h.modStrand

theorem MemoriesWf.parkOn (h : MemoriesWf s) {id : Nat} {b : Block} : MemoriesWf (Machine.parkOn s id b) := h.modStrand

theorem MemoriesWf.finishReg (h : MemoriesWf s) {id : Nat} {r : BitVec 5} {v : Word} :
    MemoriesWf (Machine.finishReg s id r v) := h.setReg.finish

theorem MemoriesWf.finishFl (h : MemoriesWf s) {id : Nat} {r : BitVec 5} {v : Fl Word} :
    MemoriesWf (Machine.finishFl s id r v) := h.raise.finishReg

theorem MemoriesWf.strandFailure (h : MemoriesWf s) {id cause : Nat} :
    MemoriesWf (Machine.strandFailure s id cause) := h.modStrand

theorem MemoriesWf.takeTrap (h : MemoriesWf s) {id cause : Nat} {tval epc : Word} :
    MemoriesWf (Machine.takeTrap s id cause tval epc) := by
  unfold Machine.takeTrap
  split
  · exact h.strandFailure
  · exact h.modStrand

theorem MemoriesWf.trapHere (h : MemoriesWf s) {id cause : Nat} {tval : Word} :
    MemoriesWf (Machine.trapHere s id cause tval) := h.takeTrap

theorem MemoriesWf.trapIllegal (h : MemoriesWf s) {id : Nat} {w : BitVec 32} :
    MemoriesWf (Machine.trapIllegal s id w) := h.trapHere

theorem MemoriesWf.trapWord (h : MemoriesWf s) {id cause : Nat} {w : BitVec 32} :
    MemoriesWf (Machine.trapWord s id cause w) := h.trapHere

theorem MemoriesWf.retryIssue (h : MemoriesWf s) {id : Nat} {run : State → State} (hrun : ∀ u, MemoriesWf u → MemoriesWf
    (run u)) :
    MemoriesWf (Machine.retryIssue s id run) := by
  unfold Machine.retryIssue
  dsimp only
  split
  · exact h
  · exact (hrun _ h.update).update

theorem MemoriesWf.awaitArray (h : MemoriesWf s) {id : Nat} {o : Vop} {w : ArrayWait} :
    MemoriesWf (Machine.awaitArray s id o w) := h.modStrand

theorem MemoriesWf.dispatchBehind (h : MemoriesWf s) {id : Nat} {o : Vop} : MemoriesWf (Machine.dispatchBehind s id o) := by
  unfold Machine.dispatchBehind
  split
  · exact h.blockOn
  · exact h.modStrand

theorem MemoriesWf.setPortQueue (h : MemoriesWf s) {core p : Nat} {q : List Nat} :
    MemoriesWf (Machine.setPortQueue s core p q) := h.putCore

theorem MemoriesWf.withdrawRequest (h : MemoriesWf s) {id : Nat} : MemoriesWf (Machine.withdrawRequest s id) := by
  unfold Machine.withdrawRequest
  dsimp only
  split
  · exact h.setPortQueue
  · exact h

theorem MemoriesWf.returnMessage (h : MemoriesWf s) {id : Nat} : MemoriesWf (Machine.returnMessage s id) := by
  unfold Machine.returnMessage
  split
  · exact h
  · exact h.putCore.modArc

theorem MemoriesWf.trapArray {s0 : State} (h : MemoriesWf s0) {id : Nat} {o : Vop} {cause : Nat} {tval : Word} {lane : Nat} :
    MemoriesWf (Machine.trapArray s0 id o cause tval lane) := by
  unfold Machine.trapArray
  dsimp only
  split
  · split
    · exact h.returnMessage.withdrawRequest.strandFailure
    · exact h.returnMessage.withdrawRequest.modStrand.modArc.takeTrap
  · split
    · exact h.withdrawRequest.strandFailure
    · exact h.withdrawRequest.modStrand.modArc.takeTrap

theorem MemoriesWf.takeSeq (h : MemoriesWf s) {sid d : Nat} : MemoriesWf (Machine.takeSeq s sid d) := h.update

theorem MemoriesWf.noteRemoteAs (h : MemoriesWf s) {issuer cmd tag sid die cls : Nat} {t : Target} {v : Nat} :
    MemoriesWf (Machine.noteRemoteAs s issuer cmd tag sid die cls t v) := by
  unfold Machine.noteRemoteAs
  split
  · exact h
  · split
    · exact h
    · dsimp only
      split
      · split <;> exact h.update
      · exact h.update

theorem MemoriesWf.noteRemote (h : MemoriesWf s) {id stream cls : Nat} {t : Target} {v : Nat} :
    MemoriesWf (Machine.noteRemote s id stream cls t v) := h.noteRemoteAs

theorem MemoriesWf.loadTarget (h : MemoriesWf s) {id stream cls : Nat} {t : Target} {n : Nat} :
    AccWf (Machine.loadTarget s id stream cls t n) := by
  unfold Machine.loadTarget
  split
  · exact h
  · split
    · split
      · exact h
      · dsimp only
        split <;> exact h.modStrand
    · exact h.targetFill.noteRemote

theorem MemoriesWf.storeTarget (h : MemoriesWf s) {id stream cls : Nat} {t : Target} {n v : Nat} :
    MemoriesWf (Machine.storeTarget s id stream cls t n v) := by
  unfold Machine.storeTarget
  split
  · split
    · exact h.writeBackError
    · exact h
  · exact (h.targetWrite _ _ _ _ _).noteRemote

theorem MemoriesWf.scalarRead (h : MemoriesWf s) {id : Nat} {a : Word} {n : Nat} : AccWf (Machine.scalarRead s id a n) := by
  unfold Machine.scalarRead
  split
  · exact h
  · split
    · exact h.noteFault
    · split
      · exact h
      · exact h.loadTarget

theorem MemoriesWf.scalarWrite (h : MemoriesWf s) {id : Nat} {a : Word} {n v : Nat} :
    AccWf (Machine.scalarWrite s id a n v) := by
  unfold Machine.scalarWrite
  split
  · exact h
  · split
    · exact h.noteFault
    · split
      · exact h
      · split
        · exact h
        · exact h.storeTarget

theorem MemoriesWf.scalarThen {α : Type} {id : Nat} {a : Word} {r : Acc α} {k : α → State → State} (hr : AccWf r)
    (hk : ∀ x0 u, MemoriesWf u → MemoriesWf (k x0 u)) :
    MemoriesWf (Machine.scalarThen id a r k) := by
  unfold Machine.scalarThen
  split
  · exact hk _ _ hr
  · exact hr.trapHere
  · exact hr.blockOn

/-! ### Vector operands and their homes -/

theorem MemoriesWf.reportDetection (h : MemoriesWf s) {core bay row : Nat} :
    MemoriesWf (Machine.reportDetection s core bay row) := h.update.addReport _ _

theorem MemoriesWf.reportMismatches (h : MemoriesWf s) {core : Nat} {a : Arcade} {reads : List (Nat × Nat)} :
    MemoriesWf (Machine.reportMismatches s core a reads) := h.foldl (fun _ _ k => k.reportDetection)

theorem MemoriesWf.healParity (h : MemoriesWf s) {id v : Nat} {wr : Nat → Bool} :
    MemoriesWf (Machine.healParity s id v wr) := by
  unfold Machine.healParity
  dsimp only
  split
  · exact h
  · exact h.putCore

theorem MemoriesWf.healSlots (h : MemoriesWf s) {id : Nat} {slots : List Nat} :
    MemoriesWf (Machine.healSlots s id slots) := h.putCore

theorem MemoriesWf.vaultWrite_ok {id : Nat} {ws : List Word} {a : Nat} {s u : State} (h : MemoriesWf s)
    (e : Machine.vaultWrite id ws a s = .ok u) : MemoriesWf u := by
  induction ws generalizing a s with
  | nil => cases e; exact h
  | cons w r ih =>
    unfold Machine.vaultWrite at e
    split at e
    · cases e
    · exact ih (h.targetWrite _ _ _ _ _) e

theorem MemoriesWf.vaultWrite_error {id : Nat} {ws : List Word} {a : Nat} {s : State} {x : Nat} {u : State} (h : MemoriesWf s)
    (e : Machine.vaultWrite id ws a s = .error (x, u)) : MemoriesWf u := by
  induction ws generalizing a s with
  | nil => cases e
  | cons w r ih =>
    unfold Machine.vaultWrite at e
    split at e
    · cases e; exact h.noteFault
    · exact ih (h.targetWrite _ _ _ _ _) e

theorem MemoriesWf.vaultRead_error (h : MemoriesWf s) {id n a : Nat} {x : Nat} {u : State}
    (e : Machine.vaultRead s id n a = .error (x, u)) : MemoriesWf u := by
  induction n generalizing a x with
  | zero => cases e
  | succ n ih =>
    unfold Machine.vaultRead at e
    split at e
    · cases e; exact h.noteFault
    · split at e
      · rename_i hr
        cases e
        exact ih hr
      · cases e

theorem MemoriesWf.fillPair (h : MemoriesWf s) {id i r : Nat} {vals : List Word} :
    MemoriesWf (Machine.fillPair s id i r vals) := by
  unfold Machine.fillPair
  exact h.healSlots.putCore.modArc

theorem MemoriesWf.emptyPair (h : MemoriesWf s) {id i q : Nat} : MemoriesWf (Machine.emptyPair s id i q) := h.modArc

theorem MemoriesWf.forgetWords (h : MemoriesWf s) {id r n : Nat} : MemoriesWf (Machine.forgetWords s id r n) := by
  unfold Machine.forgetWords
  split
  · exact h.update.vaultWrite_error ‹_›
  · exact h.update.vaultWrite_ok ‹_›

theorem MemoriesWf.forgetFrame (h : MemoriesWf s) {id r : Nat} : MemoriesWf (Machine.forgetFrame s id r) := h.forgetWords

theorem MemoriesWf.swapOut (h : MemoriesWf s) {id q : Nat} : SwapWf (Machine.swapOut s id q) := by
  unfold Machine.swapOut
  dsimp only
  split
  · exact h.reportMismatches
  · split
    · split
      · exact h
      · split
        · exact (h.vaultWrite_error ‹_›).forgetWords
        · exact (h.vaultWrite_ok ‹_›).emptyPair
    · exact h.emptyPair

theorem MemoriesWf.bringIn (h : MemoriesWf s) {id r : Nat} : SwapWf (Machine.bringIn s id r) := by
  unfold Machine.bringIn
  dsimp only
  split
  · split
    · exact h
    · split
      · exact h.vaultRead_error ‹_›
      · exact h.forgetFrame.fillPair
  · exact h.fillPair

theorem MemoriesWf.swapIn (h : MemoriesWf s) {id : Nat} {named : List Nat} {r : Nat} :
    SwapWf (Machine.swapIn s id named r) := by
  unfold Machine.swapIn
  dsimp only
  split
  · exact h
  · split
    · exact h.bringIn
    · split
      · exact h
      · split
        · exact h.swapOut.of_eq ‹_›
        · exact (h.swapOut.ok ‹_›).bringIn

theorem MemoriesWf.touchRegs (h : MemoriesWf s) {id : Nat} {vs : List (BitVec 5)} : SwapWf (Machine.touchRegs s id vs) := by
  have swaps : ∀ (named rs : List Nat) (acc : Swap), SwapWf acc → SwapWf (rs.foldl (fun (acc : Swap) r => match acc with
      | .error e => .error e
      | .ok u => Machine.swapIn u id named r) acc) := by
    intro named rs
    induction rs with
    | nil => exact fun _ k => k
    | cons r rs ih =>
      intro acc k
      refine ih _ ?_
      cases acc with
      | error e => exact k
      | ok u => exact MemoriesWf.swapIn k
  unfold Machine.touchRegs
  dsimp only
  split
  · split
    · rename_i e
      exact (swaps _ _ (.ok s) h).of_eq e
    · rename_i e
      exact ((swaps _ _ (.ok s) h).ok e).modArc
  · exact h.modArc

theorem MemoriesWf.trapDead (h : MemoriesWf s) {id : Nat} {w : BitVec 32} :
    MemoriesWf (Machine.trapDead s id w) := h.modArc.trapWord

theorem MemoriesWf.trapDispatch (h : MemoriesWf s) {id : Nat} {o : Vop} {cause : Nat} {tval : Word} :
    MemoriesWf (Machine.trapDispatch s id o cause tval) := by
  unfold Machine.trapDispatch
  split
  · exact h.trapHere
  · exact h.trapArray

theorem MemoriesWf.arrayChecks (h : MemoriesWf s) {id : Nat} {o : Vop} {bad : Bool} {k : State} (hk : MemoriesWf k) :
    MemoriesWf (Machine.arrayChecks s id o bad k) := by
  unfold Machine.arrayChecks
  dsimp only
  split
  · exact h.trapDispatch
  · split
    · exact h.modArc.trapDispatch
    · exact hk

theorem MemoriesWf.queueOr (h : MemoriesWf s) {id : Nat} {o : Vop} {k : State} (hk : MemoriesWf k) :
    MemoriesWf (Machine.queueOr s id o k) := by
  unfold Machine.queueOr
  split
  · exact h.dispatchBehind
  · exact hk

theorem MemoriesWf.arrayIssue (h : MemoriesWf s) {id : Nat} {o : Vop} {bad : Bool} {k : State} (hk : MemoriesWf k) :
    MemoriesWf (Machine.arrayIssue s id o bad k) := h.arrayChecks (h.queueOr hk)

theorem MemoriesWf.vecIssue (h : MemoriesWf s) {id : Nat} {o : Vop} {bad : Bool} {k : State} (hk : MemoriesWf k) :
    MemoriesWf (Machine.vecIssue s id o bad k) := by
  unfold Machine.vecIssue
  refine h.arrayIssue ?_
  split
  · exact h.modArc.finishV
  · exact hk

theorem MemoriesWf.runHead (h : MemoriesWf s) {id : Nat} {run : State → Res} (hrun : ∀ u, MemoriesWf u → NextWf (run u)) :
    NextWf (Machine.runHead s id run) := by
  unfold Machine.runHead
  dsimp only
  split
  · exact (((hrun _ h.update.modStrand).next ‹_›).update).modStrand
  · exact hrun _ h.update.modStrand

theorem MemoriesWf.vecTouch (h : MemoriesWf s) {id : Nat} {o : Vop} {regs : List (BitVec 5)} {src : List Source}
    {k : State → State} (hk : ∀ u, MemoriesWf u → MemoriesWf (k u)) :
    MemoriesWf (Machine.vecTouch s id o regs src k) := by
  unfold Machine.vecTouch
  split
  · exact (h.touchRegs.error ‹_›).trapArray
  · dsimp only
    split
    · exact hk _ (h.touchRegs.ok ‹_›)
    · exact ((h.touchRegs.ok ‹_›).reportMismatches).trapArray

/-! ### Branches -/

theorem MemoriesWf.jumpTo (h : MemoriesWf s) {id : Nat} {a : Word} {k : State → State} (hk : ∀ u, MemoriesWf u → MemoriesWf
    (k u)) :
    MemoriesWf (Machine.jumpTo s id a k) := by
  unfold Machine.jumpTo
  split
  · exact (hk _ h).finishAt
  · exact h.trapHere

theorem MemoriesWf.branchIf (h : MemoriesWf s) {a b : BitVec 5} {o : BitVec 16} {f : Word → Word → Bool} :
    NextWf (Machine.branchIf s a b o f) := by
  unfold Machine.branchIf
  dsimp only
  split
  · exact h.jumpTo (fun _ k => k)
  · exact h.finish

theorem MemoriesWf.execBeq (h : MemoriesWf s) {a b : BitVec 5} {o : BitVec 16} : NextWf (Machine.execBeq a b o s) := h.branchIf

theorem MemoriesWf.execBne (h : MemoriesWf s) {a b : BitVec 5} {o : BitVec 16} : NextWf (Machine.execBne a b o s) := h.branchIf

theorem MemoriesWf.execBlt (h : MemoriesWf s) {a b : BitVec 5} {o : BitVec 16} : NextWf (Machine.execBlt a b o s) := h.branchIf

theorem MemoriesWf.execBge (h : MemoriesWf s) {a b : BitVec 5} {o : BitVec 16} : NextWf (Machine.execBge a b o s) := h.branchIf

theorem MemoriesWf.execBltu (h : MemoriesWf s) {a b : BitVec 5} {o : BitVec 16} :
    NextWf (Machine.execBltu a b o s) := h.branchIf

theorem MemoriesWf.execBgeu (h : MemoriesWf s) {a b : BitVec 5} {o : BitVec 16} :
    NextWf (Machine.execBgeu a b o s) := h.branchIf

theorem MemoriesWf.execJal (h : MemoriesWf s) {o : BitVec 26} : NextWf (Machine.execJal o s) := h.jumpTo (fun _ k => k.setReg)

theorem MemoriesWf.execJalr (h : MemoriesWf s) {a b : BitVec 5} {i : BitVec 16} : NextWf (Machine.execJalr a b i s) := by
  unfold Machine.execJalr
  dsimp only
  split
  · exact h.trapHere
  · exact h.jumpTo (fun _ k => k.setReg)

theorem MemoriesWf.beginSave (h : MemoriesWf s) {id : Nat} : MemoriesWf (Machine.beginSave s id) := h.modStrand

theorem MemoriesWf.saveAtReturn (h : MemoriesWf s) {id : Nat} : MemoriesWf (Machine.saveAtReturn s id) := by
  unfold Machine.saveAtReturn
  dsimp only
  split
  · exact h.beginSave
  · exact h

theorem MemoriesWf.execRets (h : MemoriesWf s) : NextWf (Machine.execRets s) := by
  unfold Machine.execRets
  dsimp only
  split
  · exact h.modStrand.saveAtReturn
  · exact h.trapWord

/-! ### Traps, control registers and returns -/

theorem MemoriesWf.cregThen (h : MemoriesWf s) {w : BitVec 32} {k : Nat} {f : State} (hf : MemoriesWf f) :
    MemoriesWf (Machine.cregThen s w k f) := by
  unfold Machine.cregThen
  split
  · exact h.trapIllegal
  · split
    · exact h.trapWord
    · exact hf

theorem MemoriesWf.modMezz (h : MemoriesWf s) {core : Nat} {f : Mezz → Mezz} :
    MemoriesWf (Machine.modMezz s core f) := h.putCore

theorem MemoriesWf.execGetc (h : MemoriesWf s) {a : BitVec 5} {k : BitVec 11} :
    NextWf (Machine.execGetc a k s) := h.cregThen h.finishReg

theorem MemoriesWf.writeCreg (h : MemoriesWf s) {id k : Nat} {v : Word} : MemoriesWf (Machine.writeCreg s id k v) := by
  unfold Machine.writeCreg
  split
  · exact h.update
  · split
    · exact h.setRegion
    · exact h.modStrand

theorem MemoriesWf.execSetc (h : MemoriesWf s) {b : BitVec 5} {k : BitVec 11} : NextWf (Machine.execSetc b k s) := by
  unfold Machine.execSetc
  dsimp only
  refine h.cregThen ?_
  split
  · exact h.finish
  · split
    · exact h.trapIllegal
    · exact h.writeCreg.finish

theorem MemoriesWf.execSetcStatus (h : MemoriesWf s) {b : BitVec 5} : NextWf (Machine.execSetcStatus b s) := by
  unfold Machine.execSetcStatus
  dsimp only
  split
  · exact h.finish
  · split
    · exact h.trapIllegal
    · exact h.modStrand.finish

theorem MemoriesWf.execSetcSflags (h : MemoriesWf s) {b : BitVec 5} : NextWf (Machine.execSetcSflags b s) := by
  unfold Machine.execSetcSflags
  dsimp only
  split
  · exact h.trapIllegal
  · exact h.modStrand.finish

theorem MemoriesWf.discardHeld (h : MemoriesWf s) {id : Nat} : MemoriesWf (Machine.discardHeld s id) := h.modStrand

theorem MemoriesWf.execSetcVresume (h : MemoriesWf s) {b : BitVec 5} : NextWf (Machine.execSetcVresume b s) := by
  unfold Machine.execSetcVresume
  dsimp only
  split
  · exact h.finish
  · split
    · exact h.trapIllegal
    · refine (MemoriesWf.modArc ?_).finish
      split
      · exact h.returnMessage.discardHeld
      · exact h

theorem MemoriesWf.framesOut (h : MemoriesWf s) {id : Nat} {rs : List Nat} : SwapWf (Machine.framesOut id rs s) := by
  induction rs generalizing s with
  | nil => exact h
  | cons q r ih =>
    unfold Machine.framesOut
    split
    · exact h.swapOut.of_eq ‹_›
    · exact ih (h.swapOut.ok ‹_›)

theorem MemoriesWf.framesIn (h : MemoriesWf s) {id : Nat} {rs : List Nat} : SwapWf (Machine.framesIn id rs s) := by
  induction rs generalizing s with
  | nil => exact h
  | cons q r ih =>
    unfold Machine.framesIn
    dsimp only
    split
    · exact h
    · split
      · exact h.vaultRead_error ‹_›
      · exact ih h.modArc

theorem MemoriesWf.moveParity (h : MemoriesWf s) {id : Nat} {f : Nat → Option Nat} :
    MemoriesWf (Machine.moveParity s id f) := h.putCore

theorem MemoriesWf.switchVcfg (h : MemoriesWf s) {id : Nat} {v : Word} : SwapWf (Machine.switchVcfg s id v) := by
  have undo : ∀ {r : Swap} {e : Nat × Word × State}, SwapWf r → r = .error e → MemoriesWf (Machine.setStrand e.2.2 id
      (strandOf s id)) :=
    fun k e => MemoriesWf.setStrand (k.of_eq e) _ _
  unfold Machine.switchVcfg
  dsimp only
  split
  · exact h.modArc
  · split
    · split
      · exact undo h.framesIn ‹_›
      · exact ((MemoriesWf.foldl (h.framesIn.ok ‹_›) (fun _ _ k => MemoriesWf.forgetFrame k)).moveParity).modArc
    · split
      · exact undo h.framesOut ‹_›
      · exact (h.framesOut.ok ‹_›).moveParity.modArc

theorem MemoriesWf.vcfgThen (h : MemoriesWf s) {id : Nat} {w : BitVec 32} {v : Word} {k : State → State}
    (hk : ∀ u, MemoriesWf u → MemoriesWf (k u)) :
    MemoriesWf (Machine.vcfgThen s id w v k) := by
  unfold Machine.vcfgThen
  split
  · exact h.trapIllegal
  · split
    · exact hk _ (h.switchVcfg.ok ‹_›)
    · exact ((h.switchVcfg.error ‹_›).modArc).trapHere

theorem MemoriesWf.execSetcVcfg (h : MemoriesWf s) {b : BitVec 5} :
    NextWf (Machine.execSetcVcfg b s) := h.vcfgThen (fun _ k => k.finish)

theorem MemoriesWf.takeClaim (h : MemoriesWf s) {id : Nat} : MemoriesWf (Machine.takeClaim s id) := h.modMezz

theorem MemoriesWf.awaitClaim (h : MemoriesWf s) {id : Nat} : MemoriesWf (Machine.awaitClaim s id) := by
  unfold Machine.awaitClaim
  dsimp only
  refine MemoriesWf.blockOn ?_
  split
  · exact h.modMezz.modStrand
  · exact h.modMezz

theorem MemoriesWf.claimThen (h : MemoriesWf s) {id : Nat} {k : State → State} (hk : ∀ u, MemoriesWf u → MemoriesWf (k u)) :
    MemoriesWf (Machine.claimThen s id k) := by
  unfold Machine.claimThen
  split
  · exact hk _ h
  · split
    · exact hk _ h.takeClaim
    · exact h.awaitClaim

theorem MemoriesWf.setMxcfg (h : MemoriesWf s) {id : Nat} {v : Word} : MemoriesWf (Machine.setMxcfg s id v) := h.modMezz

theorem MemoriesWf.execSetcMxcfg (h : MemoriesWf s) {b : BitVec 5} : NextWf (Machine.execSetcMxcfg b s) := by
  unfold Machine.execSetcMxcfg
  dsimp only
  split
  · exact h.trapIllegal
  · exact h.claimThen (fun _ k => k.setMxcfg.finish)

theorem MemoriesWf.chainsrcThen (h : MemoriesWf s) {id : Nat} {w : BitVec 32} {v : Word} {k : State → State}
    (hk : ∀ u, MemoriesWf u → MemoriesWf (k u)) :
    MemoriesWf (Machine.chainsrcThen s id w v k) := by
  unfold Machine.chainsrcThen
  split
  · exact hk _ h.returnMessage.modArc
  · split
    · exact h.trapHere
    · exact h.trapWord

theorem MemoriesWf.execSetcChainsrc (h : MemoriesWf s) {b : BitVec 5} : NextWf (Machine.execSetcChainsrc b s) := by
  unfold Machine.execSetcChainsrc
  dsimp only
  split
  · exact h.trapIllegal
  · exact h.chainsrcThen (fun _ k => k.finish)

theorem MemoriesWf.setRrate (h : MemoriesWf s) {n : Nat} {v : Word} : MemoriesWf (Machine.setRrate s n v) := h.setRegion

theorem MemoriesWf.execSetcRrate (h : MemoriesWf s) {b : BitVec 5} {n : BitVec 6} : NextWf (Machine.execSetcRrate b n s) := by
  unfold Machine.execSetcRrate
  dsimp only
  split
  · exact h.trapWord
  · split
    · exact h.trapIllegal
    · split
      · exact h.blockOn
      · exact h.setRrate.finish

theorem MemoriesWf.execRegionDrainDone (h : MemoriesWf s) {n : Nat} : NextWf (Machine.execRegionDrainDone n s) := by
  unfold Machine.execRegionDrainDone
  split
  · exact h
  · exact ((h.foldl (fun _ _ k => k.codecWrite.dropCoded)).setRrate).finish

/-! ### Landings -/

theorem MemoriesWf.setLanding (h : MemoriesWf s) {die l : Nat} {x : Landing} :
    MemoriesWf (Machine.setLanding s die l x) := h.setDie _ _

theorem MemoriesWf.refreshDescs (h : MemoriesWf s) {die : Nat} :
    MemoriesWf (Machine.refreshDescs s die) := ((h.setDie _ _).foldl (fun _ _ k => k.addReport _ _)).update

theorem MemoriesWf.reportLoss (h : MemoriesWf s) {tag : Nat} : MemoriesWf (Machine.reportLoss s tag) := h.update

theorem MemoriesWf.refillHead (h : MemoriesWf s) {die l : Nat} : MemoriesWf (Machine.refillHead s die l) := by
  unfold Machine.refillHead
  dsimp only
  split
  · exact h
  · split
    · exact h.setLanding.reportLoss
    · exact h.setLanding

theorem MemoriesWf.makeRoom (h : MemoriesWf s) {die l n : Nat} : MemoriesWf (Machine.makeRoom die l n s) := by
  induction n generalizing s with
  | zero => exact h
  | succ n ih =>
    unfold Machine.makeRoom
    dsimp only
    split
    · exact ih h.refillHead
    · exact h

theorem MemoriesWf.enqueue {s0 : State} (h : MemoriesWf s0) {die l : Nat} {e : Entry} :
    MemoriesWf (Machine.enqueue s0 die l e) := by
  unfold Machine.enqueue
  dsimp only
  split
  · exact h.makeRoom.setLanding
  · exact (h.makeRoom.physWrite _ _ _).setLanding

theorem MemoriesWf.freshEntry (h : MemoriesWf s) {r : Record} {tag : Nat} {foyerJoin : Bool} :
    MemoriesWf (Machine.freshEntry s r tag foyerJoin).2 := h.update

theorem MemoriesWf.execSpillRefill (h : MemoriesWf s) {die landing : Nat} : NextWf (Machine.execSpillRefill die landing s) := by
  unfold Machine.execSpillRefill
  dsimp only
  split
  · exact h
  · split
    · exact h.refillHead
    · exact h

/-! ### Bays -/

/-- A change of a core that keeps its TCM. -/
theorem MemoriesWf.modCore (h : MemoriesWf s) {c : Nat} {f : Core → Core}
    (keep : ∀ k, (f k).tcm = k.tcm := by intro; rfl) : MemoriesWf (Machine.modCore s c f) :=
  h.putCore (keep _)

theorem MemoriesWf.grantBays (h : MemoriesWf s) {id : Nat} {bs : List Nat} : MemoriesWf (Machine.grantBays s id bs) := by
  unfold Machine.grantBays
  exact h.modCore.modStrand

theorem MemoriesWf.resetDeficit (h : MemoriesWf s) {c l : Nat} : MemoriesWf (Machine.resetDeficit s c l) := by
  unfold Machine.resetDeficit
  split
  · exact h
  · exact h.modCore

theorem MemoriesWf.releaseBays (h : MemoriesWf s) {id : Nat} :
    MemoriesWf (Machine.releaseBays s id) := h.modCore.modStrand.resetDeficit

theorem MemoriesWf.execVacq (h : MemoriesWf s) {k : BitVec 3} : NextWf (Machine.execVacq k s) := by
  unfold Machine.execVacq
  dsimp only
  split
  · exact h.trapIllegal
  · split
    · split
      · refine (MemoriesWf.grantBays ?_).finish
        split
        · exact h
        · exact h.modCore
      · refine MemoriesWf.blockOn ?_
        split
        · exact h
        · exact h.modCore
    · refine MemoriesWf.blockOn ?_
      split
      · exact h
      · exact h.modCore

theorem MemoriesWf.execBayGrant (h : MemoriesWf s) {core : Nat} : NextWf (Machine.execBayGrant core s) := by
  unfold Machine.execBayGrant
  split
  · exact h
  · exact h.grantBays.finish

theorem MemoriesWf.execVrel (h : MemoriesWf s) : NextWf (Machine.execVrel s) := by
  unfold Machine.execVrel
  dsimp only
  split
  · exact h.finish
  · exact h.releaseBays.breakStrand.finish

/-! ### Links and atomics -/

theorem MemoriesWf.sbarOp (h : MemoriesWf s) {w hx : BitVec 5} {reads : Bool} :
    MemoriesWf (Machine.sbarOp w hx reads s) := h.modStrand.finish

theorem MemoriesWf.releaseThen (h : MemoriesWf s) {id stream : Nat} {release : Bool} {k : State} (hk : MemoriesWf k) :
    MemoriesWf (Machine.releaseThen s id stream release k) := by
  unfold Machine.releaseThen
  split
  · exact h.blockOn
  · exact hk

theorem MemoriesWf.rmw (h : MemoriesWf s) {id stream op : Nat} {t : Target} {z b cmp : Nat} :
    AccWf (Machine.rmw s id stream op t z b cmp) := by
  unfold Machine.rmw
  dsimp only
  split
  · exact h
  · split
    · exact h
    · split
      · exact h
      · split
        · split
          · exact (h.loadTarget.ok ‹_›).targetWrite _ _ _ _ _
          · exact h.loadTarget.ok ‹_›
        · exact h.loadTarget.fault ‹_›
        · exact h.loadTarget.wait ‹_›

theorem MemoriesWf.amoOp (h : MemoriesWf s) {a b c : BitVec 5} {q : BitVec 2} {z : BitVec 1} {op : Nat} :
    NextWf (Machine.amoOp a b c q z op s) := by
  unfold Machine.amoOp
  dsimp only
  split
  · exact h.noteFault.trapHere
  · exact h.releaseThen (MemoriesWf.scalarThen h.rmw (fun _ _ k => k.finishReg))

theorem MemoriesWf.linkedRead (h : MemoriesWf s) {id stream : Nat} {lane : Option Nat} {lowest : Bool} {t : Target} {z : Nat} :
    AccWf (Machine.linkedRead s id stream lane lowest t z) := by
  unfold Machine.linkedRead
  split
  · exact h
  · split
    · exact h
    · split
      · split
        · exact ((h.loadTarget.ok ‹_›).placeTag).modStrand
        · exact h.loadTarget.ok ‹_›
      · exact h.loadTarget.fault ‹_›
      · exact h.loadTarget.wait ‹_›

theorem MemoriesWf.linkedWrite (h : MemoriesWf s) {id stream : Nat} {lane : Option Nat} {t : Target} {z v : Nat} :
    AccWf (Machine.linkedWrite s id stream lane t z v) := by
  unfold Machine.linkedWrite
  split
  · exact h
  · split
    · exact h
    · split
      · exact h.consumeLink
      · split
        · exact h
        · split
          · split
            · split
              · exact ((h.loadTarget.ok ‹_›).targetWrite _ _ _ _ _).consumeLink
              · exact (h.loadTarget.ok ‹_›).consumeLink
            · exact h.loadTarget.fault ‹_›
            · exact h.loadTarget.wait ‹_›
          · split
            · exact h
            · exact ((h.targetWrite _ _ _ _ _).noteRemote).consumeLink

theorem MemoriesWf.execLdl (h : MemoriesWf s) {a b : BitVec 5} {_q z : BitVec 1} : NextWf (Machine.execLdl a b _q z s) := by
  unfold Machine.execLdl
  dsimp only
  split
  · exact h.noteFault.trapHere
  · exact MemoriesWf.scalarThen h.linkedRead (fun _ _ k => k.finishReg)

theorem MemoriesWf.execStc (h : MemoriesWf s) {a b c : BitVec 5} {r z : BitVec 1} : NextWf (Machine.execStc a b c r z s) := by
  unfold Machine.execStc
  dsimp only
  split
  · exact h.noteFault.trapHere
  · exact h.releaseThen (MemoriesWf.scalarThen h.linkedWrite (fun _ _ k => k.finishReg))

/-! ### Instruction fetch -/

theorem MemoriesWf.poolCheck (h : MemoriesWf s) {ctx : Nat} {a : Word} : MemoriesWf (Machine.poolCheck s ctx a).2 := by
  unfold Machine.poolCheck
  dsimp only
  exact h.foldl (fun _ _ k => k.noteFault.addReportOnce)

theorem MemoriesWf.fetch_trap {s u : State} (h : MemoriesWf s) {id : Nat} (e : Machine.fetch s id = .trap u) :
    MemoriesWf u := by
  unfold Machine.fetch at e
  dsimp only at e
  split at e
  · cases e
    exact h.noteFault.takeTrap
  · split at e
    · cases e
      exact (h.poolCheck.snd ‹_›).takeTrap
    · split at e
      · cases e
        exact h.takeTrap
      · cases e

theorem MemoriesWf.packetArrives (h : MemoriesWf s) {port : Nat} {p : Packet} :
    MemoriesWf (Machine.packetArrives s port p) := by
  unfold Machine.packetArrives
  split
  · exact h
  · split
    · exact h.update
    · exact h.update.addReport _ _

theorem MemoriesWf.otherTlpArrives (h : MemoriesWf s) : MemoriesWf (Machine.otherTlpArrives s) := h.update

theorem MemoriesWf.contributionArrives (h : MemoriesWf s) {c : Contribution} :
    MemoriesWf (Machine.contributionArrives s c) := h.update

theorem MemoriesWf.routeWritten (h : MemoriesWf s) {pkg : Nat} {mask : BitVec 16} {port : Nat} :
    MemoriesWf (Machine.routeWritten s pkg mask port) := h.update

theorem MemoriesWf.frcfgWritten (h : MemoriesWf s) {value : Word} : MemoriesWf (Machine.frcfgWritten s value) := by
  unfold Machine.frcfgWritten
  dsimp only
  split
  · exact h.update.addReport _ _
  · exact h.update

theorem MemoriesWf.memoryFails (h : MemoriesWf s) {line : Nat} : MemoriesWf (Machine.memoryFails s line) := by
  unfold Machine.memoryFails
  split
  · exact h.update
  · exact h.poisonLine

theorem MemoriesWf.errorCorrected (h : MemoriesWf s) {rule : Nat} : MemoriesWf (Machine.errorCorrected s rule) := by
  unfold Machine.errorCorrected
  dsimp only
  split
  · exact h.update
  · exact h

theorem MemoriesWf.symbolsFail (h : MemoriesWf s) {line : Nat} {bytes : List Nat} :
    MemoriesWf (Machine.symbolsFail s line bytes) := by
  unfold Machine.symbolsFail
  refine h.foldl ?_
  intro u x k1
  split
  · exact k1
  · exact k1.errorCorrected
  · exact k1.poisonLine

theorem MemoriesWf.codedFails (h : MemoriesWf s) {region block : Nat} : MemoriesWf (Machine.codedFails s region block) := by
  unfold Machine.codedFails
  split
  · exact h.update
  · exact h

theorem MemoriesWf.atriumFails (h : MemoriesWf s) {cluster word : Nat} :
    MemoriesWf (Machine.atriumFails s cluster word) := h.putCluster.addReport _ _

theorem MemoriesWf.parityFails (h : MemoriesWf s) {core bay row slot : Nat} :
    MemoriesWf (Machine.parityFails s core bay row slot) := h.putCore

theorem MemoriesWf.takeMessage_some {s u : State} (h : MemoriesWf s) {id : Nat} (e : Machine.takeMessage s id = some u) :
    MemoriesWf u := by
  unfold Machine.takeMessage at e
  dsimp only at e
  split at e
  · cases e
  · cases e
    exact h.withdrawRequest.putCore.modArc

/-! ### The course of a vector instruction -/

theorem MemoriesWf.awaitMessage (h : MemoriesWf s) {id : Nat} {o : Vop} : MemoriesWf (Machine.awaitMessage s id o) := by
  unfold Machine.awaitMessage
  dsimp only
  refine MemoriesWf.awaitArray ?_
  split
  · exact h
  · exact h.setPortQueue

theorem MemoriesWf.chainThen (h : MemoriesWf s) {id : Nat} {o : Vop} {vs : List (BitVec 5)} {k : State → Option
    (List Word) → State} (hk : ∀ u x1, MemoriesWf u → MemoriesWf (k u x1)) :
    MemoriesWf (Machine.chainThen s id o vs k) := by
  unfold Machine.chainThen
  dsimp only
  split
  · split
    · exact hk _ _ h
    · split
      · exact h.trapArray
      · split
        · exact h.awaitMessage
        · split
          · exact h.awaitMessage
          · exact hk _ _ (h.takeMessage_some ‹_›)
  · exact hk _ _ h

theorem MemoriesWf.chargeBeats (h : MemoriesWf s) {id beats : Nat} :
    MemoriesWf (Machine.chargeBeats s id beats) := (h.setDie _ _).putCore

theorem MemoriesWf.chargeOp (h : MemoriesWf s) {id : Nat} {o : Vop} {v : VEnv} : MemoriesWf (Machine.chargeOp s id o v) := by
  unfold Machine.chargeOp
  dsimp only
  split
  · exact h
  · exact h.chargeBeats

theorem MemoriesWf.chargePart (h : MemoriesWf s) {id : Nat} {o : Vop} {v : VEnv} {e : Nat} :
    MemoriesWf (Machine.chargePart s id o v e) := by
  unfold Machine.chargePart
  dsimp only
  split
  · exact h
  · exact h.chargeBeats

theorem MemoriesWf.vecRun (h : MemoriesWf s) {o : Vop} {bad : Bool} {ds vs : List (BitVec 5)} {src : VEnv → List Source}
    {k : State → VEnv → State} (hk : ∀ u x1, MemoriesWf u → MemoriesWf (k u x1)) :
    MemoriesWf (Machine.vecRun s o bad ds vs src k) := h.vecIssue (h.chainThen (fun _ _ k => k.vecTouch (fun _ k => hk _ _ k)))

theorem MemoriesWf.vecEnd (h : MemoriesWf s) {o : Vop} {v : VEnv} {fl : Word} {f : Arcade → Arcade} :
    MemoriesWf (Machine.vecEnd s o v fl f) := h.modArc.raise.chargeOp.finishV

theorem MemoriesWf.vecPart (h : MemoriesWf s) {v : VEnv} {d : BitVec 5} {f : Nat → Option (Fl Word)} :
    MemoriesWf (Machine.vecPart s v d f) := h.healParity.modArc.raise

theorem MemoriesWf.vecWrite (h : MemoriesWf s) {o : Vop} {v : VEnv} {d : BitVec 5} {fl : Word} {f : Nat → Option (Fl Word)} :
    MemoriesWf (Machine.vecWrite s o v d fl f) := h.vecPart.vecEnd

theorem MemoriesWf.vecMask (h : MemoriesWf s) {o : Vop} {v : VEnv} {d : BitVec 2} {f : Nat → Option (Fl Bool)} :
    MemoriesWf (Machine.vecMask s o v d f) := h.vecEnd

theorem MemoriesWf.vecScalar (h : MemoriesWf s) {o : Vop} {v : VEnv} {fl : Word} {rs : List (BitVec 5 × Word)} :
    MemoriesWf (Machine.vecScalar s o v fl rs) := h.vecEnd

theorem MemoriesWf.execResultQueueReturn (h : MemoriesWf s) {id : Nat} : NextWf (Machine.execResultQueueReturn id s) := by
  unfold Machine.execResultQueueReturn
  split
  · exact h
  · exact h.modStrand

theorem MemoriesWf.execVsetcfg (h : MemoriesWf s) {a b : BitVec 5} : NextWf (Machine.execVsetcfg a b s) := by
  unfold Machine.execVsetcfg
  dsimp only
  split
  · exact h.trapIllegal
  · split
    · exact h.trapDead
    · exact h.vcfgThen (fun _ k => k.finishReg)

theorem MemoriesWf.stripThen (h : MemoriesWf s) {w : BitVec 32} {k : State} (hk : MemoriesWf k) :
    MemoriesWf (Machine.stripThen s w k) := by
  unfold Machine.stripThen
  split
  · exact h.trapDead
  · exact hk

theorem MemoriesWf.execVbegin (h : MemoriesWf s) {a b : BitVec 5} :
    NextWf (Machine.execVbegin a b s) := h.stripThen h.modArc.modStrand.finishReg

theorem MemoriesWf.execVnext (h : MemoriesWf s) {a : BitVec 5} {o : BitVec 16} : NextWf (Machine.execVnext a o s) := by
  unfold Machine.execVnext
  dsimp only
  refine h.stripThen ?_
  split
  · exact h.modStrand.setReg.finish
  · split
    · exact h.modStrand.setReg.finish
    · split
      · exact h.modStrand.setReg.jumpTo (fun _ k => k)
      · exact h.trapHere

/-! ### Vector instructions -/

theorem MemoriesWf.vBinOp (h : MemoriesWf s) {w : BitVec 32} {sc acc : Bool} {d a b : BitVec 5} {msk : BitVec 2}
    {mp : BitVec 1} {bad : Arcade → Bool} {conv : Arcade → Word → Fl Nat} {wide : Arcade → Nat}
    {f : Arcade → Nat → Nat → Nat → Fl Nat} :
    NextWf (Machine.vBinOp w sc acc d a b msk mp s bad conv wide f) := h.vecRun (fun _ _ k => k.vecWrite)

theorem MemoriesWf.vUnOp (h : MemoriesWf s) {w : BitVec 32} {d a : BitVec 5} {msk : BitVec 2} {mp : BitVec 1}
    {bad : Arcade → Bool} {wide : Arcade → Nat} {f : Arcade → Nat → Fl Nat} :
    NextWf (Machine.vUnOp w d a msk mp s bad wide f) := h.vecRun (fun _ _ k => k.vecWrite)

theorem MemoriesWf.vIntOp (h : MemoriesWf s) {fn : BitVec 8} {sc : Bool} {d a b : BitVec 5} {msk : BitVec 2} {mp : BitVec 1}
    {f : Nat → Nat → Nat → Fl Nat} :
    NextWf (Machine.vIntOp fn sc d a b msk mp s f) := h.vBinOp

theorem MemoriesWf.vLogicOp (h : MemoriesWf s) {fn : BitVec 8} {sc : Bool} {d a b : BitVec 5} {msk : BitVec 2} {mp : BitVec 1}
    {f : Nat → Nat → Nat → Fl Nat} :
    NextWf (Machine.vLogicOp fn sc d a b msk mp s f) := h.vBinOp

theorem MemoriesWf.vShiftOp (h : MemoriesWf s) {fn : BitVec 8} {sc : Bool} {d a b : BitVec 5} {msk : BitVec 2} {mp : BitVec 1}
    {f : Nat → Nat → Nat → Fl Nat} :
    NextWf (Machine.vShiftOp fn sc d a b msk mp s f) := h.vBinOp

theorem MemoriesWf.vMaddOp (h : MemoriesWf s) {sc : Bool} {d a b : BitVec 5} {msk : BitVec 2} {mp : BitVec 1} :
    NextWf (Machine.vMaddOp sc d a b msk mp s) := h.vBinOp

theorem MemoriesWf.execVnot (h : MemoriesWf s) {d a : BitVec 5} {msk : BitVec 2} {mp : BitVec 1} :
    NextWf (Machine.execVnot d a msk mp s) := h.vUnOp

theorem MemoriesWf.execVneg (h : MemoriesWf s) {d a : BitVec 5} {msk : BitVec 2} {mp : BitVec 1} :
    NextWf (Machine.execVneg d a msk mp s) := h.vUnOp

theorem MemoriesWf.execVclz (h : MemoriesWf s) {d a : BitVec 5} {msk : BitVec 2} {mp : BitVec 1} :
    NextWf (Machine.execVclz d a msk mp s) := h.vUnOp

theorem MemoriesWf.execVpopc (h : MemoriesWf s) {d a : BitVec 5} {msk : BitVec 2} {mp : BitVec 1} :
    NextWf (Machine.execVpopc d a msk mp s) := h.vUnOp

theorem MemoriesWf.execVfieldS (h : MemoriesWf s) {d a b : BitVec 5} {msk : BitVec 2} {mp : BitVec 1} :
    NextWf (Machine.execVfieldS d a b msk mp s) := h.vBinOp

theorem MemoriesWf.vWidenOp (h : MemoriesWf s) {fn : BitVec 8} {sc : Bool} {d a b : BitVec 5} {msk : BitVec 2} {mp : BitVec 1}
    {f : ℤ → ℤ → ℤ} :
    NextWf (Machine.vWidenOp fn sc d a b msk mp s f) := h.vBinOp

theorem MemoriesWf.vNarrowOp (h : MemoriesWf s) {fn : BitVec 8} {sc : Bool} {d a b : BitVec 5} {msk : BitVec 2}
    {mp : BitVec 1} {f : Arcade → Nat → Nat → Fl Nat} :
    NextWf (Machine.vNarrowOp fn sc d a b msk mp s f) := h.vBinOp

theorem MemoriesWf.vFltOp (h : MemoriesWf s) {fn : BitVec 8} {sc : Bool} {d a b : BitVec 5} {msk : BitVec 2} {mp : BitVec 1}
    {f : FFmt → Nat → Nat → Fl Nat} :
    NextWf (Machine.vFltOp fn sc d a b msk mp s f) := h.vBinOp

theorem MemoriesWf.vFmaOp (h : MemoriesWf s) {sc : Bool} {d a b : BitVec 5} {msk : BitVec 2} {mp : BitVec 1} :
    NextWf (Machine.vFmaOp sc d a b msk mp s) := h.vBinOp

theorem MemoriesWf.vFltUn (h : MemoriesWf s) {fn : BitVec 8} {d a : BitVec 5} {msk : BitVec 2} {mp : BitVec 1}
    {f : FFmt → Nat → Fl Nat} :
    NextWf (Machine.vFltUn fn d a msk mp s f) := h.vUnOp

theorem MemoriesWf.execVfclass (h : MemoriesWf s) {d a : BitVec 5} {msk : BitVec 2} {mp : BitVec 1} :
    NextWf (Machine.execVfclass d a msk mp s) := h.vUnOp

theorem MemoriesWf.execVfcvt (h : MemoriesWf s) {d a sel : BitVec 5} {msk : BitVec 2} {mp : BitVec 1} :
    NextWf (Machine.execVfcvt d a sel msk mp s) := h.vecRun (fun _ _ k => k.vecWrite)

theorem MemoriesWf.vCmpOp (h : MemoriesWf s) {fn : BitVec 8} {sc : Bool} {d : BitVec 2} {a b : BitVec 5} {msk : BitVec 2}
    {mp : BitVec 1} {bad : Arcade → Bool} {f : Arcade → Nat → Nat → Fl Bool} :
    NextWf (Machine.vCmpOp fn sc d a b msk mp s bad f) := by
  unfold Machine.vCmpOp
  dsimp only
  refine h.vecRun ?_
  intro u x1 k2
  refine MemoriesWf.vecMask ?_
  split
  · exact k2.raise
  · exact k2

theorem MemoriesWf.vIntCmp (h : MemoriesWf s) {fn : BitVec 8} {sc : Bool} {d : BitVec 2} {a b : BitVec 5} {msk : BitVec 2}
    {mp : BitVec 1} {f : Nat → Nat → Nat → Bool} :
    NextWf (Machine.vIntCmp fn sc d a b msk mp s f) := h.vCmpOp

theorem MemoriesWf.vFltCmp (h : MemoriesWf s) {fn : BitVec 8} {sc : Bool} {d : BitVec 2} {a b : BitVec 5} {msk : BitVec 2}
    {mp : BitVec 1} {f : FFmt → Nat → Nat → Fl Bool} :
    NextWf (Machine.vFltCmp fn sc d a b msk mp s f) := h.vCmpOp

theorem MemoriesWf.vMaskOp (h : MemoriesWf s) {fn : BitVec 8} {d a b : BitVec 2} {f : Bool → Bool → Bool} :
    NextWf (Machine.vMaskOp fn d a b s f) := h.vecRun (fun _ _ k => k.vecMask)

theorem MemoriesWf.execMand (h : MemoriesWf s) {d a b : BitVec 2} : NextWf (Machine.execMand d a b s) := h.vMaskOp

theorem MemoriesWf.execMor (h : MemoriesWf s) {d a b : BitVec 2} : NextWf (Machine.execMor d a b s) := h.vMaskOp

theorem MemoriesWf.execMxor (h : MemoriesWf s) {d a b : BitVec 2} : NextWf (Machine.execMxor d a b s) := h.vMaskOp

theorem MemoriesWf.execMandn (h : MemoriesWf s) {d a b : BitVec 2} : NextWf (Machine.execMandn d a b s) := h.vMaskOp

theorem MemoriesWf.execMnot (h : MemoriesWf s) {d a : BitVec 2} : NextWf (Machine.execMnot d a s) := h.vMaskOp

theorem MemoriesWf.vCutOp (h : MemoriesWf s) {fn : BitVec 8} {d a msk : BitVec 2} {mp : BitVec 1} {within : Nat → Nat → Bool} :
    NextWf (Machine.vCutOp fn d a msk mp s within) := h.vecRun (fun _ _ k => k.vecMask)

theorem MemoriesWf.vMaskScalar (h : MemoriesWf s) {fn : BitVec 8} {d : BitVec 5} {a msk : BitVec 2} {mp : BitVec 1}
    {f : List Nat → Word} :
    NextWf (Machine.vMaskScalar fn d a msk mp s f) := h.vecRun (fun _ _ k => k.vecScalar)

theorem MemoriesWf.execMfirst (h : MemoriesWf s) {d : BitVec 5} {a msk : BitVec 2} {mp : BitVec 1} :
    NextWf (Machine.execMfirst d a msk mp s) := h.vMaskScalar

theorem MemoriesWf.execMcount (h : MemoriesWf s) {d : BitVec 5} {a msk : BitVec 2} {mp : BitVec 1} :
    NextWf (Machine.execMcount d a msk mp s) := h.vMaskScalar

theorem MemoriesWf.execViota (h : MemoriesWf s) {d : BitVec 5} {a msk : BitVec 2} {mp : BitVec 1} :
    NextWf (Machine.execViota d a msk mp s) := h.vecRun (fun _ _ k => k.vecWrite)

theorem MemoriesWf.vSearchOp (h : MemoriesWf s) {fn : BitVec 8} {d : BitVec 2} {a : BitVec 5} {b : BitVec 4} {msk : BitVec 2}
    {mp : BitVec 1} {bad : Arcade → Bool} {f : Arcade → Nat → Nat → Nat → Bool} :
    NextWf (Machine.vSearchOp fn d a b msk mp s bad f) := h.vecRun (fun _ _ k => k.vecMask)

theorem MemoriesWf.execVsrch (h : MemoriesWf s) {d : BitVec 2} {a : BitVec 5} {b : BitVec 4} {msk : BitVec 2} {mp : BitVec 1} :
    NextWf (Machine.execVsrch d a b msk mp s) := h.vSearchOp

theorem MemoriesWf.execVsrchr (h : MemoriesWf s) {d : BitVec 2} {a : BitVec 5} {b : BitVec 4} {msk : BitVec 2} {mp : BitVec 1} :
    NextWf (Machine.execVsrchr d a b msk mp s) := h.vSearchOp

theorem MemoriesWf.execVtwr (h : MemoriesWf s) {d : BitVec 5} {a : BitVec 2} {b : BitVec 5} :
    NextWf (Machine.execVtwr d a b s) := h.vecRun (fun _ _ k => k.vecWrite)

theorem MemoriesWf.execVhamm (h : MemoriesWf s) {d a b : BitVec 5} {msk : BitVec 2} {mp : BitVec 1} :
    NextWf (Machine.execVhamm d a b msk mp s) := h.vBinOp

theorem MemoriesWf.countEstimator (h : MemoriesWf s) {a : Arcade} {es : List Nat} :
    MemoriesWf (Machine.countEstimator s a es) := by
  unfold Machine.countEstimator
  split
  · exact h
  · exact h.update.modCore

theorem MemoriesWf.vTopkOp (h : MemoriesWf s) {fn : BitVec 8} {d : BitVec 2} {a b : BitVec 5} {msk : BitVec 2} {mp : BitVec 1}
    {better : Val → Val → Bool} :
    NextWf (Machine.vTopkOp fn d a b msk mp s better) := h.vecRun (fun _ _ k => k.countEstimator.vecMask)

theorem MemoriesWf.vReduceOp (h : MemoriesWf s) {fn : BitVec 8} {d a : BitVec 5} {msk : BitVec 2} {mp : BitVec 1}
    {bad : Arcade → Bool} {f : Arcade → List Nat → Fl Word} :
    NextWf (Machine.vReduceOp fn d a msk mp s bad f) := h.vecRun (fun _ _ k => k.vecScalar)

theorem MemoriesWf.vReduceInt (h : MemoriesWf s) {fn : BitVec 8} {d a : BitVec 5} {msk : BitVec 2} {mp : BitVec 1}
    {f : Arcade → List Nat → ℤ} :
    NextWf (Machine.vReduceInt fn d a msk mp s f) := h.vReduceOp

theorem MemoriesWf.execVredsum (h : MemoriesWf s) {d a : BitVec 5} {msk : BitVec 2} {mp : BitVec 1} :
    NextWf (Machine.execVredsum d a msk mp s) := h.vReduceInt

theorem MemoriesWf.execVredmax (h : MemoriesWf s) {d a : BitVec 5} {msk : BitVec 2} {mp : BitVec 1} :
    NextWf (Machine.execVredmax d a msk mp s) := h.vReduceInt

theorem MemoriesWf.execVredmin (h : MemoriesWf s) {d a : BitVec 5} {msk : BitVec 2} {mp : BitVec 1} :
    NextWf (Machine.execVredmin d a msk mp s) := h.vReduceInt

theorem MemoriesWf.execVredmaxu (h : MemoriesWf s) {d a : BitVec 5} {msk : BitVec 2} {mp : BitVec 1} :
    NextWf (Machine.execVredmaxu d a msk mp s) := h.vReduceInt

theorem MemoriesWf.execVredminu (h : MemoriesWf s) {d a : BitVec 5} {msk : BitVec 2} {mp : BitVec 1} :
    NextWf (Machine.execVredminu d a msk mp s) := h.vReduceInt

theorem MemoriesWf.execVredand (h : MemoriesWf s) {d a : BitVec 5} {msk : BitVec 2} {mp : BitVec 1} :
    NextWf (Machine.execVredand d a msk mp s) := h.vReduceInt

theorem MemoriesWf.execVredor (h : MemoriesWf s) {d a : BitVec 5} {msk : BitVec 2} {mp : BitVec 1} :
    NextWf (Machine.execVredor d a msk mp s) := h.vReduceInt

theorem MemoriesWf.execVredxor (h : MemoriesWf s) {d a : BitVec 5} {msk : BitVec 2} {mp : BitVec 1} :
    NextWf (Machine.execVredxor d a msk mp s) := h.vReduceInt

theorem MemoriesWf.execVfredsum (h : MemoriesWf s) {d a : BitVec 5} {msk : BitVec 2} {mp : BitVec 1} :
    NextWf (Machine.execVfredsum d a msk mp s) := h.vReduceOp

theorem MemoriesWf.vBestOp (h : MemoriesWf s) {fn : BitVec 8} {d : BitVec 4} {a : BitVec 5} {msk : BitVec 2} {mp : BitVec 1}
    {better : Val → Val → Bool} :
    NextWf (Machine.vBestOp fn d a msk mp s better) := by
  unfold Machine.vBestOp
  dsimp only
  refine h.vecRun ?_
  intro u x1 k2
  split <;> exact k2.vecScalar

theorem MemoriesWf.vPermOp (h : MemoriesWf s) {fn : BitVec 8} {sc : Bool} {d a b : BitVec 5} {msk : BitVec 2} {mp : BitVec 1}
    {pick : Nat → Nat → Option Nat} :
    NextWf (Machine.vPermOp fn sc d a b msk mp s pick) := h.vecRun (fun _ _ k => k.vecWrite)

theorem MemoriesWf.execVgathr (h : MemoriesWf s) {d a b : BitVec 5} {msk : BitVec 2} {mp : BitVec 1} :
    NextWf (Machine.execVgathr d a b msk mp s) := h.vPermOp

theorem MemoriesWf.execVshup (h : MemoriesWf s) {d a b : BitVec 5} {msk : BitVec 2} {mp : BitVec 1} :
    NextWf (Machine.execVshup d a b msk mp s) := h.vPermOp

theorem MemoriesWf.execVshdn (h : MemoriesWf s) {d a b : BitVec 5} {msk : BitVec 2} {mp : BitVec 1} :
    NextWf (Machine.execVshdn d a b msk mp s) := h.vPermOp

theorem MemoriesWf.execVbcst (h : MemoriesWf s) {d a b : BitVec 5} {msk : BitVec 2} {mp : BitVec 1} :
    NextWf (Machine.execVbcst d a b msk mp s) := h.vPermOp

theorem MemoriesWf.execVbperm (h : MemoriesWf s) {d a b : BitVec 5} {msk : BitVec 2} {mp : BitVec 1} :
    NextWf (Machine.execVbperm d a b msk mp s) := h.vPermOp

theorem MemoriesWf.execVext (h : MemoriesWf s) {d a b : BitVec 5} :
    NextWf (Machine.execVext d a b s) := h.vecRun (fun _ _ k => k.vecScalar)

theorem MemoriesWf.execVins (h : MemoriesWf s) {d a b : BitVec 5} :
    NextWf (Machine.execVins d a b s) := h.vecRun (fun _ _ k => k.vecWrite)

theorem MemoriesWf.execVcomp (h : MemoriesWf s) {d a : BitVec 5} {msk : BitVec 2} :
    NextWf (Machine.execVcomp d a msk s) := h.vecRun (fun _ _ k => k.vecWrite)

theorem MemoriesWf.execVmerge (h : MemoriesWf s) {d a b : BitVec 5} {msk : BitVec 2} :
    NextWf (Machine.execVmerge d a b msk s) := h.vecRun (fun _ _ k => k.vecWrite)

theorem MemoriesWf.execVmv (h : MemoriesWf s) {d a : BitVec 5} {msk : BitVec 2} {mp : BitVec 1} :
    NextWf (Machine.execVmv d a msk mp s) := h.vUnOp

theorem MemoriesWf.execVmvi (h : MemoriesWf s) {d : BitVec 5} {i : BitVec 10} {msk : BitVec 2} {mp : BitVec 1} :
    NextWf (Machine.execVmvi d i msk mp s) := h.vecRun (fun _ _ k => k.vecWrite)

theorem MemoriesWf.execVid (h : MemoriesWf s) {d : BitVec 5} {msk : BitVec 2} {mp : BitVec 1} :
    NextWf (Machine.execVid d msk mp s) := h.vecRun (fun _ _ k => k.vecWrite)

/-! ### Vector memory instructions -/

theorem MemoriesWf.hostThen (h : MemoriesWf s) {α : Type} {id : Nat} {host : Bool} {k : State → Acc α}
    (hk : ∀ u, MemoriesWf u → AccWf (k u)) :
    AccWf (Machine.hostThen s id host k) := by
  unfold Machine.hostThen
  split
  · split
    · exact h
    · dsimp only
      split
      · exact hk _ h.modStrand
      · exact h.modStrand
  · exact hk _ h

theorem MemoriesWf.readChunks (h : MemoriesWf s) {id stream : Nat} {cs : List (Word × Nat)} :
    AccWf (Machine.readChunks s id stream cs) := by
  unfold Machine.readChunks
  split
  · exact h.noteFault
  · split
    · exact h
    · split
      · exact h
      · exact h.hostThen (fun _ k => k.foldl (fun _ _ k => k.targetFill.noteRemote))

theorem MemoriesWf.writeChunk (h : MemoriesWf s) {id stream : Nat} {a : Word} {n v : Nat} :
    AccWf (Machine.writeChunk s id stream a n v) := by
  unfold Machine.writeChunk
  split
  · exact h.noteFault
  · split
    · exact h
    · split
      · exact h
      · exact h.storeTarget

theorem MemoriesWf.readElemAt (h : MemoriesWf s) {id stream w : Nat} {p : ElemPlace} :
    AccWf (Machine.readElemAt s id stream w p) := by
  unfold Machine.readElemAt
  split
  · exact h
  · split
    · exact h.readChunks.ok ‹_›
    · exact h.readChunks.fault ‹_›
    · exact h.readChunks.wait ‹_›

theorem MemoriesWf.mergeBytes {id stream : Nat} {ts : List (Target × Nat)} {mask v : Nat} (h : MemoriesWf s) :
    MemoriesWf (Machine.mergeBytes id stream ts mask v s) := by
  induction ts generalizing mask v s with
  | nil => exact h
  | cons t r ih => exact ih h.storeTarget

theorem MemoriesWf.writePacked (h : MemoriesWf s) {id stream : Nat} {cs : List (Word × Nat)} {mask v : Nat} :
    AccWf (Machine.writePacked s id stream cs mask v) := by
  unfold Machine.writePacked
  split
  · exact h.noteFault
  · dsimp only
    split
    · exact h
    · split
      · exact h
      · exact h.mergeBytes

theorem MemoriesWf.writeElemAt (h : MemoriesWf s) {id stream w : Nat} {p : ElemPlace} {v : Nat} :
    AccWf (Machine.writeElemAt s id stream w p v) := by
  unfold Machine.writeElemAt
  split
  · split
    · exact h
    · exact h.writeChunk
  · exact h.writePacked

/-- R228: a walk over elements keeps the canonical form if each of its accesses does. -/
theorem MemoriesWf.memLoop {α : Type} {f : State → Nat → Acc α} {es : List Nat} (h : MemoriesWf s)
    (access : ∀ u e, MemoriesWf u → AccWf (f u e)) : MemoriesWf (Machine.memLoop f es s).1 := by
  induction es generalizing s with
  | nil => exact h
  | cons e r ih =>
    unfold Machine.memLoop
    split
    · exact (access s e h).fault ‹_›
    · exact (access s e h).wait ‹_›
    · split
      exact (ih ((access s e h).ok ‹_›)).fst ‹_›

theorem MemoriesWf.memEndWith (h : MemoriesWf s) {words : Option (Word × Word × Word)} {o : Vop} {v : VEnv}
    {addr : Nat → Word} {m : MemEnd} {k : State → State} (hk : ∀ u, MemoriesWf u → MemoriesWf (k u)) :
    MemoriesWf (Machine.memEndWith words s o v addr m k) := by
  unfold Machine.memEndWith
  split
  · exact hk _ h
  · refine MemoriesWf.trapArray ?_
    split
    · exact h.chargePart
    · exact h
  · exact h.modArc.blockOn

theorem MemoriesWf.memEnd (h : MemoriesWf s) {o : Vop} {v : VEnv} {addr : Nat → Word} {m : MemEnd} {k : State → State}
    (hk : ∀ u, MemoriesWf u → MemoriesWf (k u)) :
    MemoriesWf (Machine.memEnd s o v addr m k) := h.memEndWith (fun _ k => hk _ k)

theorem MemoriesWf.vLoadOp (h : MemoriesWf s) {o : Vop} {d : BitVec 5} {vs : List (BitVec 5)} {msk : BitVec 2}
    {mp g : BitVec 1} {packed ff : Bool} {place : VEnv → Nat → ElemPlace} :
    NextWf (Machine.vLoadOp o d vs msk mp g packed ff place s) := by
  unfold Machine.vLoadOp
  dsimp only
  refine h.vecRun ?_
  intro u x1 k2
  split
  · exact (((k2.memLoop (fun _ _ k => k.readElemAt)).vecPart).vecEnd).modArc
  · exact ((k2.memLoop (fun _ _ k => k.readElemAt)).vecPart).memEnd (fun _ k => k.vecEnd)

theorem MemoriesWf.vStoreOp (h : MemoriesWf s) {o : Vop} {d : BitVec 5} {vs : List (BitVec 5)} {msk : BitVec 2}
    {mp g : BitVec 1} {packed : Bool} {place : VEnv → Nat → ElemPlace} {order : State → VEnv → List Nat → State → State}
    (ordered : ∀ u v es w, MemoriesWf w → MemoriesWf (order u v es w)) :
    NextWf (Machine.vStoreOp o d vs msk mp g packed place order s) := by
  unfold Machine.vStoreOp
  dsimp only
  refine h.vecRun ?_
  intro u v k
  refine MemoriesWf.memEnd ?_ fun _ k => MemoriesWf.vecEnd k
  exact (ordered _ _ _ _ (k.memLoop fun _ _ k => MemoriesWf.writeElemAt k)).raise

/-- R166: elements that collide are stored again. -/
theorem MemoriesWf.settleCollisions {id stream : Nat} {place : VEnv → Nat → ElemPlace} {val : VEnv → Nat → Nat} {u : State}
    {v : VEnv} {es : List Nat} {w : State} (h : MemoriesWf w) :
    MemoriesWf (Machine.settleCollisions id stream place val u v es w) := by
  unfold Machine.settleCollisions
  dsimp only
  split
  · exact h
  · refine h.update.foldl ?_
    intro x e k
    split
    · exact k.writeElemAt.ok ‹_›
    · exact k
    · exact k

theorem MemoriesWf.execVst (h : MemoriesWf s) {d b : BitVec 5} {msk : BitVec 2} {mp g r : BitVec 1} :
    NextWf (Machine.execVst d b msk mp g r s) := h.vStoreOp fun _ _ _ _ k => k

theorem MemoriesWf.execVsts (h : MemoriesWf s) {d b st : BitVec 5} {msk : BitVec 2} {mp g r : BitVec 1} :
    NextWf (Machine.execVsts d b st msk mp g r s) := h.vStoreOp fun _ _ _ _ k => k

theorem MemoriesWf.execVstxo (h : MemoriesWf s) {d b i : BitVec 5} {msk : BitVec 2} {mp g : BitVec 1} :
    NextWf (Machine.execVstxo d b i msk mp g s) := h.vStoreOp fun _ _ _ _ k => k

theorem MemoriesWf.execVstx (h : MemoriesWf s) {d b i : BitVec 5} {msk : BitVec 2} {mp g : BitVec 1} :
    NextWf (Machine.execVstx d b i msk mp g s) := h.vStoreOp fun _ _ _ _ k => MemoriesWf.settleCollisions k

theorem MemoriesWf.appendHeader (h : MemoriesWf s) {id stream c : Nat} {a : Word} {t : Target} {r : Acc (List Nat)}
    (e : Machine.appendHeader s id stream a c = .ok (t, r)) : AccWf r := by
  unfold Machine.appendHeader at e
  dsimp only at e
  repeat' split at e
  all_goals cases e
  · exact h
  · exact h.hostThen fun _ k => MemoriesWf.foldl k fun _ _ k => (MemoriesWf.targetFill k).noteRemote

theorem MemoriesWf.bumpTail (h : MemoriesWf s) {id stream : Nat} {t : Target} {c : Nat} :
    MemoriesWf (Machine.bumpTail s id stream t c).2 := by
  unfold Machine.bumpTail
  dsimp only
  exact (h.targetWrite _ _ _ _ _).noteRemote

theorem MemoriesWf.appendPayload (h : MemoriesWf s) {o : Vop} {v : VEnv} {p t : BitVec 5} {st : Nat} {all es : List Nat}
    {old cap base : Word} :
    MemoriesWf (Machine.appendPayload o v p t st all es old cap base s) := by
  unfold Machine.appendPayload
  dsimp only
  exact ((h.memLoop (fun _ _ k => k.writeElemAt)).raise).memEndWith (fun _ k => k.vecScalar)

theorem MemoriesWf.execVappend (h : MemoriesWf s) {p a t : BitVec 5} {msk : BitVec 2} {mp g : BitVec 1} :
    NextWf (Machine.execVappend p a t msk mp g s) := by
  unfold Machine.execVappend
  dsimp only
  refine h.vecRun ?_
  intro u v k
  split
  · exact k.appendPayload
  · split
    · exact k.noteFault.trapArray
    · have header := k.appendHeader ‹_›
      exact MemoriesWf.trapArray header
    · have header := k.appendHeader ‹_›
      exact MemoriesWf.blockOn header
    · have header := k.appendHeader ‹_›
      exact (MemoriesWf.bumpTail header).appendPayload

/-! ### Vector atomics and watches -/

theorem MemoriesWf.laneWord (h : MemoriesWf s) {α : Type} {id : Nat} {write : Bool} {p : Word} {z : Nat} {k : Target → Acc α}
    (hk : ∀ x0, AccWf (k x0)) :
    AccWf (Machine.laneWord s id write p z k) := by
  unfold Machine.laneWord
  split
  · exact h.noteFault
  · exact hk _

theorem MemoriesWf.renewLowest (h : MemoriesWf s) {id : Nat} : MemoriesWf (Machine.renewLowest s id) := h.update

theorem MemoriesWf.linksStored (h : MemoriesWf s) {id : Nat} : MemoriesWf (Machine.linksStored s id) := h.update

theorem MemoriesWf.execVldl (h : MemoriesWf s) {d b i : BitVec 5} {msk : BitVec 2} {mp g : BitVec 1} :
    NextWf (Machine.execVldl d b i msk mp g s) := by
  unfold Machine.execVldl
  dsimp only
  refine h.vecRun ?_
  intro u x1 k2
  refine ((MemoriesWf.memLoop ?_ (fun _ _ k => k.laneWord (fun _ => k.linkedRead))).vecPart).memEnd (fun _ k => k.vecEnd)
  split
  · exact k2.renewLowest
  · exact k2

theorem MemoriesWf.execVstc (h : MemoriesWf s) {d b i : BitVec 5} {msk : BitVec 2} {mp g : BitVec 1} {m : BitVec 2} :
    NextWf (Machine.execVstc d b i msk mp g m s) := by
  unfold Machine.execVstc
  dsimp only
  exact h.vecRun (fun _ _ k => ((k.linksStored.memLoop (fun _ _ k => k.laneWord (fun _ => k.linkedWrite))).modArc).memEnd
      (fun _ k => k.vecEnd))

theorem MemoriesWf.vamoOp (h : MemoriesWf s) {release : Bool} {mode : BitVec 3} {d b i : BitVec 5} {msk : BitVec 2}
    {mp g : BitVec 1} {op : BitVec 4} :
    NextWf (Machine.vamoOp release mode d b i msk mp g op s) := by
  unfold Machine.vamoOp
  dsimp only
  exact h.vecRun (fun _ _ k => k.releaseThen (((k.memLoop (fun _ _ k => k.laneWord (fun _ => k.rmw))).vecPart).memEnd (fun _
      k => k.vecEnd)))

theorem MemoriesWf.clearWatches (h : MemoriesWf s) {id : Nat} : MemoriesWf (Machine.clearWatches s id) := h.update

theorem MemoriesWf.placeWatches (h : MemoriesWf s) {id : Nat} {ts : List (Nat × Target)} :
    MemoriesWf (Machine.placeWatches s id ts) := by
  unfold Machine.placeWatches
  refine h.foldl ?_
  intro u x k1
  split
  · exact k1.placeTag
  · exact k1

theorem MemoriesWf.execVwaitm (h : MemoriesWf s) {c b i : BitVec 5} {msk : BitVec 2} {mp g z : BitVec 1} {o : BitVec 2} :
    NextWf (Machine.execVwaitm c b i msk mp g z o s) := by
  unfold Machine.execVwaitm
  dsimp only
  refine h.vecRun ?_
  intro u v k
  have answer : ∀ {id : Nat} {b : Bool}, AccWf (Machine.hostThen u id b fun w => .ok () w) := fun {_ _} => k.hostThen fun _
      k => k
  have filled : ∀ {w : State} {ts : List (Nat × Target)} {id st : Nat}, MemoriesWf w →
      MemoriesWf (ts.foldl (fun x p => Machine.noteRemote (Machine.targetFill x p.2) id st 0 p.2 0) w) :=
    fun k => MemoriesWf.foldl k fun _ _ k => (MemoriesWf.targetFill k).noteRemote
  split
  · exact k.clearWatches.noteFault.trapArray
  · split
    · exact k.blockOn
    · split
      · exact (answer.fault ‹_›).clearWatches.trapArray
      · exact (answer.wait ‹_›).blockOn
      · split
        · exact (filled (answer.ok ‹_›)).clearWatches.vecEnd
        · exact (filled (answer.ok ‹_›)).clearWatches.placeWatches.parkOn

/-! ### Vector conversions -/

theorem MemoriesWf.execVsclset (h : MemoriesWf s) {a : BitVec 5} {msk : BitVec 2} {mp : BitVec 1} :
    NextWf (Machine.execVsclset a msk mp s) := h.vecRun (fun _ _ k => k.vecPart.vecEnd)

theorem MemoriesWf.execVbscale (h : MemoriesWf s) {a : BitVec 5} {msk : BitVec 2} {mp : BitVec 1} :
    NextWf (Machine.execVbscale a msk mp s) := by
  unfold Machine.execVbscale
  dsimp only
  refine h.vecRun ?_
  intro u x1 k2
  refine MemoriesWf.vecEnd ?_
  split
  · exact k2.vecPart
  · exact k2.vecPart.update

theorem MemoriesWf.vConvOp (h : MemoriesWf s) {fn : BitVec 8} {d a : BitVec 5} {msk : BitVec 2} {mp : BitVec 1}
    {bad : Arcade → Bool} {f : VEnv → Nat → Fl Word} :
    NextWf (Machine.vConvOp fn d a msk mp s bad f) := h.vecRun (fun _ _ k => k.vecWrite)

theorem MemoriesWf.execVquant (h : MemoriesWf s) {d a : BitVec 5} {msk : BitVec 2} {mp : BitVec 1} :
    NextWf (Machine.execVquant d a msk mp s) := h.vConvOp

theorem MemoriesWf.execVdeq (h : MemoriesWf s) {d a : BitVec 5} {msk : BitVec 2} {mp : BitVec 1} :
    NextWf (Machine.execVdeq d a msk mp s) := h.vConvOp

theorem MemoriesWf.execVcvtl (h : MemoriesWf s) {d a : BitVec 5} {msk : BitVec 2} {mp : BitVec 1} :
    NextWf (Machine.execVcvtl d a msk mp s) := h.vConvOp

theorem MemoriesWf.execVcbld (h : MemoriesWf s) {c : BitVec 2} {b : BitVec 5} : NextWf (Machine.execVcbld c b s) := by
  unfold Machine.execVcbld
  dsimp only
  refine h.vecRun ?_
  intro u x1 k2
  split
  · exact k2.vecEnd
  · split
    · exact k2.trapArray
    · split
      · exact (k2.readChunks.fault ‹_›).trapArray
      · exact (k2.readChunks.wait ‹_›).blockOn
      · exact (k2.readChunks.ok ‹_›).vecEnd

theorem MemoriesWf.execVcbx (h : MemoriesWf s) {d a : BitVec 5} {c msk : BitVec 2} {mp : BitVec 1} :
    NextWf (Machine.execVcbx d a c msk mp s) := h.vecRun (fun _ _ k => k.vecWrite)

/-! ### The Mezzanine -/

theorem MemoriesWf.mxClaim (h : MemoriesWf s) {id : Nat} {o : Vop} {k : State → State} (hk : ∀ u, MemoriesWf u → MemoriesWf
    (k u)) :
    MemoriesWf (Machine.mxClaim s id o k) := h.claimThen (fun _ k => k.queueOr (hk _ k))

theorem MemoriesWf.mxRun (h : MemoriesWf s) {o : Vop} {bad : Bool} {k : State → State} (hk : ∀ u, MemoriesWf u → MemoriesWf
    (k u)) :
    MemoriesWf (Machine.mxRun s o bad k) := h.arrayChecks (h.mxClaim (fun _ k => hk _ k))

theorem MemoriesWf.execMxcfg (h : MemoriesWf s) {b : BitVec 5} :
    NextWf (Machine.execMxcfg b s) := h.mxRun (fun _ k => k.setMxcfg.finishV)

theorem MemoriesWf.execMxtld (h : MemoriesWf s) {x b : BitVec 1} : NextWf (Machine.execMxtld x b s) := by
  unfold Machine.execMxtld
  dsimp only
  refine h.mxRun ?_
  intro u k2
  split
  · exact k2.blockOn
  · split
    · exact k2.awaitArray
    · exact k2.modMezz.raise.finishV

theorem MemoriesWf.execMxtsel (h : MemoriesWf s) {b : BitVec 1} :
    NextWf (Machine.execMxtsel b s) := h.mxRun (fun _ k => k.modMezz.finishV)

theorem MemoriesWf.execMxr (h : MemoriesWf s) {n : BitVec 9} {a : BitVec 1} : NextWf (Machine.execMxr n a s) := by
  unfold Machine.execMxr
  dsimp only
  refine h.mxRun ?_
  intro u k2
  split
  · exact k2.blockOn
  · split
    · split
      · exact k2.awaitArray
      · exact k2.modMezz.raise.finishV
    · split
      · exact k2.awaitArray
      · exact k2.modMezz.raise.finishV

theorem MemoriesWf.execMxFifoWaitEnd (h : MemoriesWf s) {id : Nat} : NextWf (Machine.execMxFifoWaitEnd id s) := by
  unfold Machine.execMxFifoWaitEnd
  split
  · exact h.runHead (fun _ k => k.execMxtld)
  · exact h.runHead (fun _ k => k.execMxr)
  · exact h

theorem MemoriesWf.execMxclr (h : MemoriesWf s) {n : BitVec 9} :
    NextWf (Machine.execMxclr n s) := h.mxRun (fun _ k => k.modMezz.finishV)

theorem MemoriesWf.execMxfclr (h : MemoriesWf s) {t f : BitVec 1} :
    NextWf (Machine.execMxfclr t f s) := h.mxRun (fun _ k => k.modMezz.finishV)

theorem MemoriesWf.execMxwait (h : MemoriesWf s) : NextWf (Machine.execMxwait s) := h.mxRun (fun _ k => k.finishV)

theorem MemoriesWf.execMxdrn (h : MemoriesWf s) {d : BitVec 5} {n : BitVec 9} : NextWf (Machine.execMxdrn d n s) := by
  unfold Machine.execMxdrn
  dsimp only
  split
  · exact h.mxRun (fun _ k => k)
  · refine h.vecIssue ?_
    split
    · exact h.awaitClaim
    · refine h.vecTouch ?_
      intro u k5
      refine k5.claimThen ?_
      intro u k7
      refine (MemoriesWf.modMezz ?_).vecEnd
      split
      · exact k7.vecPart.vecPart
      · exact k7.vecPart

theorem MemoriesWf.execMxdrs (h : MemoriesWf s) {a : BitVec 5} {n : BitVec 9} : NextWf (Machine.execMxdrs a n s) := by
  unfold Machine.execMxdrs
  dsimp only
  refine h.arrayChecks ?_
  split
  · exact h.trapDispatch
  · split
    · exact h.trapDispatch
    · refine h.mxClaim ?_
      intro u k5
      split
      · exact k5.blockOn
      · exact ((k5.targetWrite _ _ _ _ _).raise).finishV

theorem MemoriesWf.execMezzanineClaim (h : MemoriesWf s) {core : Nat} : NextWf (Machine.execMezzanineClaim core s) := by
  unfold Machine.execMezzanineClaim
  split
  · exact h.takeClaim.modStrand
  · exact h

/-! ### Semaphores and barriers -/

theorem MemoriesWf.setSem (h : MemoriesWf s) {cl n : Nat} {v : BitVec 32} : MemoriesWf (Machine.setSem s cl n v) := h.putCluster

theorem MemoriesWf.setBar (h : MemoriesWf s) {cl b : Nat} {x : Barrier} : MemoriesWf (Machine.setBar s cl b x) := h.putCluster

theorem MemoriesWf.incSem (h : MemoriesWf s) {cl n k : Nat} : MemoriesWf (Machine.incSem s cl n k) := h.setSem

theorem MemoriesWf.completeParked (h : MemoriesWf s) {id : Nat} {r : BitVec 5} {v : Word} :
    MemoriesWf (Machine.completeParked s id r v) := h.finishReg.modStrand

theorem MemoriesWf.wakeBar (h : MemoriesWf s) {cl b : Nat} {status : Word} {f : Word → Bool} :
    MemoriesWf (Machine.wakeBar s cl b status f) := by
  unfold Machine.wakeBar
  refine h.foldl ?_
  intro u x k1
  split
  · split
    · exact k1.completeParked
    · exact k1
  · exact k1

theorem MemoriesWf.arrive (h : MemoriesWf s) {cl b w : Nat} : MemoriesWf (Machine.arrive s cl b w).1 := by
  unfold Machine.arrive
  dsimp only
  split
  · exact h.setBar.wakeBar
  · exact h.setBar

theorem MemoriesWf.faultBar (h : MemoriesWf s) {cl b : Nat} : MemoriesWf (Machine.faultBar s cl b) := by
  unfold Machine.faultBar
  dsimp only
  split
  · exact h.setBar.wakeBar
  · exact h

theorem MemoriesWf.noteNewel (h : MemoriesWf s) {id cl : Nat} : MemoriesWf (Machine.noteNewel s id cl) := by
  unfold Machine.noteNewel
  split
  · exact h
  · exact h.takeSeq

theorem MemoriesWf.newelThen (h : MemoriesWf s) {w : BitVec 32} {bad : Bool} {x : BitVec 9} {r : BitVec 1} {k : Nat → State}
    (hk : ∀ x0, MemoriesWf (k x0)) :
    MemoriesWf (Machine.newelThen s w bad x r k) := by
  unfold Machine.newelThen
  dsimp only
  split
  · exact h.trapIllegal
  · split
    · exact h.trapHere
    · split
      · split
        · exact h.blockOn
        · exact (hk _).noteNewel
      · split
        · exact h.blockOn
        · exact (hk _).noteNewel

theorem MemoriesWf.execSeminc (h : MemoriesWf s) {a b : BitVec 5} {x : BitVec 9} {r : BitVec 1} :
    NextWf (Machine.execSeminc a b x r s) := h.newelThen (fun _ => h.incSem.finish)

theorem MemoriesWf.execSemset (h : MemoriesWf s) {a b : BitVec 5} {x : BitVec 9} {r : BitVec 1} :
    NextWf (Machine.execSemset a b x r s) := h.newelThen (fun _ => h.setSem.finish)

theorem MemoriesWf.execSemwait (h : MemoriesWf s) {a b : BitVec 5} : NextWf (Machine.execSemwait a b s) := by
  unfold Machine.execSemwait
  dsimp only
  refine h.newelThen ?_
  intro x0
  split
  · exact h.finish
  · exact h.parkOn

theorem MemoriesWf.execSemrd (h : MemoriesWf s) {a b : BitVec 5} {x : BitVec 9} {r : BitVec 1} :
    NextWf (Machine.execSemrd a b x r s) := h.newelThen (fun _ => h.finishReg)

theorem MemoriesWf.abandonIf (h : MemoriesWf s) {cl : Nat} {f : CopyCmd → Bool} :
    MemoriesWf (Machine.abandonIf s cl f) := h.putCluster

theorem MemoriesWf.execBarinit (h : MemoriesWf s) {a b : BitVec 5} {x : BitVec 9} {r : BitVec 1} :
    NextWf (Machine.execBarinit a b x r s) := h.newelThen (fun _ => h.abandonIf.setBar.wakeBar.finish)

theorem MemoriesWf.execBararr (h : MemoriesWf s) {a b : BitVec 5} {x : BitVec 9} {r : BitVec 1} :
    NextWf (Machine.execBararr a b x r s) := by
  unfold Machine.execBararr
  dsimp only
  refine h.newelThen ?_
  intro x0
  split
  · exact h.trapHere
  · exact h.arrive.raise.finishReg

theorem MemoriesWf.execBarwait (h : MemoriesWf s) {a b : BitVec 5} : NextWf (Machine.execBarwait a b s) := by
  unfold Machine.execBarwait
  dsimp only
  refine h.newelThen ?_
  intro x0
  split
  · exact h.trapHere
  · split
    · exact h.finishReg
    · split
      · exact h.finishReg
      · exact h.parkOn

/-! ### The copy engines -/

theorem MemoriesWf.setEngine (h : MemoriesWf s) {cl e : Nat} {q : List CopyCmd} :
    MemoriesWf (Machine.setEngine s cl e q) := h.putCluster

theorem MemoriesWf.acceptCopy (h : MemoriesWf s) {id op : Nat} {dst src ctl ext : Word} {e : BitVec 2} {blk : Block} :
    MemoriesWf (Machine.acceptCopy s id op dst src ctl ext e blk) := by
  unfold Machine.acceptCopy
  dsimp only
  split
  · exact h.trapHere
  · split
    · exact h.blockOn
    · exact h.putCluster.finish

theorem MemoriesWf.copyOp (h : MemoriesWf s) {op : Nat} {w : BitVec 32} {dst src ctl ext : Word} {e : BitVec 2} {blk : Block} :
    MemoriesWf (Machine.copyOp op w dst src ctl ext e blk s) := by
  unfold Machine.copyOp
  dsimp only
  split
  · exact h.acceptCopy
  · split
    · exact h.trapIllegal
    · split
      · exact h.trapHere
      · split
        · exact h.trapHere
        · split
          · exact h.trapHere
          · split
            · exact h.trapHere
            · exact h.acceptCopy

theorem MemoriesWf.execCopyQueueEntry (h : MemoriesWf s) {id : Nat} : NextWf (Machine.execCopyQueueEntry id s) := by
  unfold Machine.execCopyQueueEntry
  split
  · exact h.retryIssue (fun _ k => k.copyOp)
  · exact h

theorem MemoriesWf.execCopyStart (h : MemoriesWf s) {cl e : Nat} : NextWf (Machine.execCopyStart cl e s) := by
  unfold Machine.execCopyStart
  split
  · split
    · exact h.setEngine
    · exact h
  · exact h

theorem MemoriesWf.readWord (h : MemoriesWf s) {cl : Nat} {c : CopyCmd} {o : Nat} :
    MemoriesWf (Machine.readWord s cl c o).1 := by
  unfold Machine.readWord
  split
  · exact h
  · exact h
  · split
    · exact h.noteFault
    · split
      · exact h
      · split
        · exact h
        · exact h.targetFill.noteRemoteAs

theorem MemoriesWf.engineStore (h : MemoriesWf s) {cl tag issuer cmd sid : Nat} {t : Target} {n v : Nat} :
    MemoriesWf (Machine.engineStore s cl tag issuer cmd sid t n v) := by
  unfold Machine.engineStore
  split
  · split
    · exact h.writeBackError
    · exact h
  · exact (h.targetWrite _ _ _ _ _).noteRemoteAs

theorem MemoriesWf.writeWord (h : MemoriesWf s) {cl : Nat} {c : CopyCmd} {o v : Nat} :
    MemoriesWf (Machine.writeWord s cl c o v).1 := by
  unfold Machine.writeWord
  dsimp only
  split
  · exact h.noteFault
  · split
    · exact h
    · split
      · exact h
      · exact h.engineStore

theorem MemoriesWf.moveWords (h : MemoriesWf s) {cl n o : Nat} {c : CopyCmd} : MemoriesWf (Machine.moveWords cl c n o s).1 := by
  induction n generalizing o s with
  | zero => exact h
  | succ n ih =>
    unfold Machine.moveWords
    split
    · exact h.readWord.fst ‹_›
    · have read := h.readWord.fst ‹_›
      split
      · exact read.writeWord.fst ‹_›
      · exact ih (read.writeWord.fst ‹_›)

theorem MemoriesWf.gatherBeat (h : MemoriesWf s) {cl n o : Nat} {c : CopyCmd} :
    MemoriesWf (Machine.gatherBeat cl c n o s).1 := by
  induction n generalizing o s with
  | zero => exact h
  | succ n ih =>
    unfold Machine.gatherBeat
    split
    · exact h.readWord.fst ‹_›
    · split <;> exact (ih (h.readWord.fst ‹_›)).fst ‹_›

theorem MemoriesWf.pushBeat (h : MemoriesWf s) {c : CopyCmd} {v : Nat} : MemoriesWf (Machine.pushBeat s c v) := h.modMezz

theorem MemoriesWf.moveBeats (h : MemoriesWf s) {cl n o : Nat} {c : CopyCmd} : MemoriesWf (Machine.moveBeats cl c n o s).1 := by
  induction n generalizing o s with
  | zero => exact h
  | succ n ih =>
    unfold Machine.moveBeats
    split
    · split
      · exact h.gatherBeat.fst ‹_›
      · split
        · exact h.gatherBeat.fst ‹_›
        · exact ih (h.gatherBeat.fst ‹_›).pushBeat
    · exact h

theorem MemoriesWf.moveRest (h : MemoriesWf s) {cl : Nat} {c : CopyCmd} : MemoriesWf (Machine.moveRest s cl c).1 := by
  unfold Machine.moveRest
  dsimp only
  split
  · exact h.moveWords
  · exact h.moveBeats

theorem MemoriesWf.setHead (h : MemoriesWf s) {cl e : Nat} {c : Option CopyCmd} :
    MemoriesWf (Machine.setHead s cl e c) := h.setEngine

theorem MemoriesWf.signalCopy (h : MemoriesWf s) {cl : Nat} {c : CopyCmd} : MemoriesWf (Machine.signalCopy s cl c) := by
  unfold Machine.signalCopy
  dsimp only
  split
  · refine MemoriesWf.arrive ?_
    split
    · exact h.incSem
    · exact h
  · split
    · exact h.incSem
    · exact h

theorem MemoriesWf.execCopyComplete (h : MemoriesWf s) {cl e : Nat} : NextWf (Machine.execCopyComplete cl e s) := by
  unfold Machine.execCopyComplete
  split
  · exact h
  · split
    · exact ((h.moveRest.fst ‹_›).setHead).signalCopy
    · exact (h.moveRest.fst ‹_›).setHead
    · exact h

theorem MemoriesWf.trapWaiters (h : MemoriesWf s) {cl e : Nat} : MemoriesWf (Machine.trapWaiters s cl e) := by
  unfold Machine.trapWaiters
  refine h.foldl ?_
  intro u x k1
  split
  · exact k1
  · exact k1.trapHere

theorem MemoriesWf.execCopyHalt (h : MemoriesWf s) {cl e : Nat} : NextWf (Machine.execCopyHalt cl e s) := by
  unfold Machine.execCopyHalt
  split
  · exact h
  · split
    · dsimp only
      refine MemoriesWf.trapWaiters ?_
      split
      · exact ((h.moveRest.fst ‹_›).setHead).faultBar
      · exact (h.moveRest.fst ‹_›).setHead
    · exact h

theorem MemoriesWf.execFifoDelivery (h : MemoriesWf s) {cl e : Nat} : NextWf (Machine.execFifoDelivery cl e s) := by
  unfold Machine.execFifoDelivery
  split
  · exact h
  · split
    · exact h
    · split
      · exact (h.moveBeats.fst ‹_›).setHead
      · exact h

theorem MemoriesWf.restoreBar (h : MemoriesWf s) {cl : Nat} {c : CopyCmd} : MemoriesWf (Machine.restoreBar s cl c) := by
  unfold Machine.restoreBar
  dsimp only
  split
  · exact h.setBar
  · exact h

theorem MemoriesWf.execCpyres (h : MemoriesWf s) {a : BitVec 4} {b : BitVec 5} {e : BitVec 2} :
    NextWf (Machine.execCpyres a b e s) := by
  unfold Machine.execCpyres
  dsimp only
  split
  · exact h.trapIllegal
  · split
    · exact h.trapWord
    · split
      · exact h.setReg.finishReg
      · refine (MemoriesWf.setReg ?_).finishReg
        split
        · exact h.setHead.restoreBar
        · split
          · exact h.setHead
          · exact h

/-! ### Chained messages -/

theorem MemoriesWf.execVsend (h : MemoriesWf s) {r : BitVec 5} {p : BitVec 1} : NextWf (Machine.execVsend r p s) := by
  unfold Machine.execVsend
  dsimp only
  refine h.vecRun ?_
  intro u x1 k2
  split
  · exact k2.modCore.vecEnd
  · exact k2.awaitArray

theorem MemoriesWf.execPortSpaceFree (h : MemoriesWf s) {id : Nat} : NextWf (Machine.execPortSpaceFree id s) := by
  unfold Machine.execPortSpaceFree
  split
  · exact h.runHead (fun _ k => k.execVsend)
  · exact h

theorem MemoriesWf.execVchain (h : MemoriesWf s) {c : BitVec 9} {p : BitVec 1} : NextWf (Machine.execVchain c p s) := by
  unfold Machine.execVchain
  dsimp only
  split
  · exact h.vecIssue h.returnMessage.modArc.finishV
  · split <;> exact h.trapDispatch

theorem MemoriesWf.execChainMessageArrival (h : MemoriesWf s) {id : Nat} : NextWf (Machine.execChainMessageArrival id s) := by
  unfold Machine.execChainMessageArrival
  dsimp only
  split
  · split
    · exact h.takeMessage_some ‹_›
    · exact h
  · exact h

/-! ### Ends of copies and collectives -/

theorem MemoriesWf.modEngine (h : MemoriesWf s) {f : CollEngine → CollEngine} : MemoriesWf (Machine.modEngine s f) := h.update

theorem MemoriesWf.endColl (h : MemoriesWf s) {gid cseq status : Nat} {f : EngineOp → Word × Word} :
    MemoriesWf (Machine.endColl s gid cseq status f) := h.modEngine

theorem MemoriesWf.abandonOps (h : MemoriesWf s) {issuer : Nat} : MemoriesWf (Machine.abandonOps s issuer) := by
  unfold Machine.abandonOps
  dsimp only
  refine ((h.foldl ?_).update).modEngine
  intro u x k2
  split
  · exact k2.endColl
  · exact k2

theorem MemoriesWf.execBeng (h : MemoriesWf s) {e : BitVec 5} {x : BitVec 1} {b : BitVec 4} {o : BitVec 16} :
    NextWf (Machine.execBeng e x b o s) := by
  unfold Machine.execBeng
  dsimp only
  split
  · exact h.jumpTo (fun _ k => k)
  · exact h.finish

/-! ### Ends of strands -/

theorem MemoriesWf.endWrite (h : MemoriesWf s) {e : Ending} {t : Target} {f : Word → Word} :
    MemoriesWf (Machine.endWrite s e t f) := (h.targetWrite _ _ _ _ _).noteRemote

theorem MemoriesWf.writeCompletion (h : MemoriesWf s) {e : Ending} : MemoriesWf (Machine.writeCompletion s e).1 := by
  fun_cases Machine.writeCompletion s e
  case case1 => exact h
  case case2 => exact h.noteFault
  case case3 =>
    dsimp only
    exact h.endWrite

theorem MemoriesWf.decrementJoin (h : MemoriesWf s) {e : Ending} : MemoriesWf (Machine.decrementJoin s e).1 := by
  fun_cases Machine.decrementJoin s e
  case case1 => exact h
  case case2 => exact h
  case case3 => exact h.physWrite _ _ _
  case case4 => exact h.noteFault
  case case5 =>
    dsimp only
    exact h.endWrite

theorem MemoriesWf.writeEnding (h : MemoriesWf s) {e : Ending} : MemoriesWf (Machine.writeEnding s e) := by
  unfold Machine.writeEnding
  dsimp only
  split
  · exact h.writeCompletion.decrementJoin.reportLoss
  · exact h.writeCompletion.decrementJoin

theorem MemoriesWf.freeArea (h : MemoriesWf s) {die l : Nat} {area : Option Nat} :
    MemoriesWf (Machine.freeArea s die l area) := by
  unfold Machine.freeArea
  split
  · exact h
  · exact h.setLanding

theorem MemoriesWf.endClaim (h : MemoriesWf s) {core issuer : Nat} : MemoriesWf (Machine.endClaim s core issuer) := by
  unfold Machine.endClaim
  split
  · split
    · exact h.modMezz
    · exact h
  · exact h

theorem MemoriesWf.freeSlot (h : MemoriesWf s) {id : Nat} {area : Bool} : MemoriesWf (Machine.freeSlot s id area) := by
  unfold Machine.freeSlot
  dsimp only
  refine MemoriesWf.setStrand ?_ _ _
  split
  · exact h.returnMessage.withdrawRequest.releaseBays.breakStrand.modCore.freeArea
  · exact h.returnMessage.withdrawRequest.releaseBays.breakStrand.modCore

theorem MemoriesWf.abandonCopies (h : MemoriesWf s) {cl issuer : Nat} {all : Bool} :
    MemoriesWf (Machine.abandonCopies s cl issuer all) := h.putCluster

theorem MemoriesWf.abortStrand (h : MemoriesWf s) {id : Nat} :
    MemoriesWf (Machine.abortStrand s id) := h.abandonCopies.abandonOps.endClaim.freeSlot

theorem MemoriesWf.loseStrand (h : MemoriesWf s) {id : Nat} : MemoriesWf (Machine.loseStrand s id) := h.abortStrand.reportLoss

theorem MemoriesWf.dropSaved (h : MemoriesWf s) {die l : Nat} {e : Entry} :
    MemoriesWf (Machine.dropSaved s die l e) := h.abandonCopies.abandonOps.endClaim.modCore.setLanding.freeArea

theorem MemoriesWf.dropSavedIf (h : MemoriesWf s) {die : Nat} {p : Entry → Bool} :
    MemoriesWf (Machine.dropSavedIf s die p) := h.foldl (fun _ _ k => k.foldl (fun _ _ k => k.dropSaved))

theorem MemoriesWf.dropQueuedIf (h : MemoriesWf s) {die : Nat} {p : Entry → Bool} :
    MemoriesWf (Machine.dropQueuedIf s die p) := (h.setDie _ _).update

theorem MemoriesWf.purgeTag (h : MemoriesWf s) {tag : Nat} :
    MemoriesWf (Machine.purgeTag s tag) :=
  (h.foldl (fun _ _ k => k.dropQueuedIf.dropSavedIf)).foldl (fun _ _ k => k.abortStrand)

theorem MemoriesWf.endCheck_some {s u : State} (h : MemoriesWf s) {e : Ending} {c : Nat} {a : Word}
    (k : Machine.endCheck s e = some (c, a, u)) : MemoriesWf u := by
  unfold Machine.endCheck at k
  dsimp only at k
  have one : ∀ {amo : Bool} {x : Nat}, (if x = 0 then none else match endTarget s e.agent (sidOf e.id 0) amo (addr48 x) with
      | .error f => some (f.cause, addr48 x, Machine.noteFault s f)
      | .ok _ => none) = some (c, a, u) → MemoriesWf u := by
    intro amo x k
    repeat' split at k
    all_goals cases k
    exact h.noteFault
  rcases Option.or_eq_some_iff.mp k with k | ⟨-, k⟩
  · exact one k
  · split at k
    · cases k
    · exact one k

theorem MemoriesWf.execEndStrand (h : MemoriesWf s) : NextWf (Machine.execEndStrand s) := by
  have abandoned : MemoriesWf (if endsFaulted (strandOf s s.cur) then
      Machine.abandonCopies s (clusterIdx s.cur) (strandOf s s.cur).issuer false else s) := by
    split
    · exact h.abandonCopies
    · exact h
  unfold Machine.execEndStrand
  extract_lets id t f u
  split
  · exact h.trapHere
  · split
    · exact abandoned.blockOn
    · split
      · exact abandoned.parkOn
      · split
        · exact abandoned.trapHere
        · split
          · rename_i k
            split at k
            · cases k
            · exact (abandoned.endCheck_some k).trapHere
          · exact abandoned.modStrand

theorem MemoriesWf.drain (h : MemoriesWf s) {id : Nat} : MemoriesWf (Machine.drain s id) := by
  unfold Machine.drain
  dsimp only
  split
  · split
    · exact h.abandonCopies
    · exact h.abandonCopies.writeEnding.modEngine.endClaim.freeSlot
  · split
    · exact h
    · exact h.writeEnding.modEngine.endClaim.freeSlot

theorem MemoriesWf.execEndDrain (h : MemoriesWf s) {id : Nat} : NextWf (Machine.execEndDrain id s) := by
  unfold Machine.execEndDrain
  split
  · exact h.drain
  · exact h

theorem MemoriesWf.execWait (h : MemoriesWf s) : NextWf (Machine.execWait s) := by
  unfold Machine.execWait
  dsimp only
  split
  · exact h.parkOn
  · exact h.finish

theorem MemoriesWf.execWaitTimeout (h : MemoriesWf s) {id : Nat} : NextWf (Machine.execWaitTimeout id s) := by
  unfold Machine.execWaitTimeout
  dsimp only
  split
  · exact h.finish.modStrand
  · exact h

theorem MemoriesWf.disableCore (h : MemoriesWf s) {core : Nat} : MemoriesWf (Machine.disableCore s core) := by
  unfold Machine.disableCore
  exact (((h.foldl (fun _ _ k => k.loseStrand)).dropSavedIf).foldl (fun _ _ k => k.reportLoss)).modCore

theorem MemoriesWf.writeBackDie (h : MemoriesWf s) {here hereC : Nat → Bool} :
    MemoriesWf (Machine.writeBackDie s here hereC) := (h.foldl (fun _ _ k => k.codecWrite)).foldl (fun _ _ k => k.writeBack _)

theorem MemoriesWf.clearDie (h : MemoriesWf s) {die : Nat} : MemoriesWf (Machine.clearDie s die) := by
  unfold Machine.clearDie
  extract_lets here hereC w u old reset v
  have ended : MemoriesWf u := h.writeBackDie.dropQueuedIf.dropSavedIf.foldl fun _ _ k => MemoriesWf.abortStrand k
  have cleared : MemoriesWf v := ended.setDie _ _
  clear_value v
  exact cleared.update

/-! ### Spawning and joining -/

theorem MemoriesWf.dropPoolWatch (h : MemoriesWf s) {w : WaitEntry} : MemoriesWf (Machine.dropPoolWatch s w) := h.update

theorem MemoriesWf.setPool (h : MemoriesWf s) {die : Nat} {p : List WaitEntry} :
    MemoriesWf (Machine.setPool s die p) := h.setDie _ _

theorem MemoriesWf.settleWait (h : MemoriesWf s) {die i : Nat} : MemoriesWf (Machine.settleWait s die i) := by
  unfold Machine.settleWait
  split
  · exact h
  · dsimp only
    split
    · exact h.setPool.enqueue
    · exact h

theorem MemoriesWf.readCounter (h : MemoriesWf s) {die i : Nat} : MemoriesWf (Machine.readCounter s die i) := by
  unfold Machine.readCounter
  split
  · exact h
  · split
    · exact h.settleWait
    · dsimp only
      split
      · exact h.dropPoolWatch.setPool.reportLoss.addReport _ _
      · split
        · exact h.dropPoolWatch.setPool.settleWait
        · rename_i w _ _ _ _
          cases poolWatch w with
          | none => exact h.dropPoolWatch
          | some t => exact h.dropPoolWatch.placeTag

theorem MemoriesWf.execCounterReread (h : MemoriesWf s) {die index : Nat} : NextWf (Machine.execCounterReread die index s) := by
  unfold Machine.execCounterReread
  split
  · exact h
  · split
    · exact h.readCounter
    · exact h

theorem MemoriesWf.joinThen (h : MemoriesWf s) {id : Nat} {ans : Option Bool} {join : Word} {t : Option Target}
    {k : State → State} (hk : ∀ u, MemoriesWf u → MemoriesWf (k u)) :
    MemoriesWf (Machine.joinThen s id ans join t k) := by
  unfold Machine.joinThen
  split
  · exact hk _ h
  · split
    · exact h.blockOn
    · split
      · exact h.trapHere
      · exact hk _ ((h.targetWrite _ _ _ _ _).noteRemote)

theorem MemoriesWf.spawnRecord (h : MemoriesWf s) {id : Nat} {w : BitVec 32} {a : BitVec 5} {r : Record} {ctr : Option Word}
    {ans : Option Bool} :
    MemoriesWf (Machine.spawnRecord s id w a r ctr ans) := by
  unfold Machine.spawnRecord
  dsimp only
  split
  · split
    · exact h.trapHere
    · split
      · exact h.blockOn
      · split
        · exact h.noteFault.trapHere
        · split
          · exact h.trapIllegal
          · split
            · exact h.noteFault.trapHere
            · split
              · exact h.finishReg
              · split
                · exact h.finishReg
                · split
                  · exact h.finishReg
                  · refine h.joinThen ?_
                    intro u k11
                    split
                    · exact k11.freshEntry.enqueue.finishReg
                    · exact k11.freshEntry.setPool.readCounter.finishReg
  · split
    · exact h.trapHere
    · split
      · exact h.blockOn
      · split
        · exact h.noteFault.trapHere
        · split
          · exact h.trapIllegal
          · split
            · exact h.noteFault.trapHere
            · split
              · exact h.finishReg
              · split
                · exact h.finishReg
                · split
                  · exact h.finishReg
                  · refine h.joinThen ?_
                    intro u k11
                    split
                    · exact k11.freshEntry.enqueue.finishReg
                    · exact k11.freshEntry.setPool.readCounter.finishReg

theorem MemoriesWf.spawnOp (h : MemoriesWf s) {w : BitVec 32} {a b : BitVec 5} {ctr : Option Word} :
    MemoriesWf (Machine.spawnOp w a b ctr s) := by
  unfold Machine.spawnOp
  dsimp only
  split
  · exact h.blockOn
  · split
    · exact h.trapHere
    · split
      · exact (h.readChunks.fault ‹_›).trapHere
      · exact (h.readChunks.wait ‹_›).blockOn
      · exact (h.readChunks.ok ‹_›).spawnRecord

theorem MemoriesWf.execJdec (h : MemoriesWf s) {a b : BitVec 5} : NextWf (Machine.execJdec a b s) := by
  unfold Machine.execJdec
  dsimp only
  split
  · exact h.noteFault.trapHere
  · exact h.releaseThen (MemoriesWf.scalarThen h.rmw (fun _ _ k => k.finishReg))

theorem MemoriesWf.execLread (h : MemoriesWf s) {a b : BitVec 5} : NextWf (Machine.execLread a b s) := by
  unfold Machine.execLread
  dsimp only
  split
  · exact h.trapIllegal
  · split
    · exact h.trapHere
    · exact h.blockOn
    · exact h.finishReg

/-! ### Records popped into slots -/

theorem MemoriesWf.dropOffers (h : MemoriesWf s) {die id r : Nat} :
    MemoriesWf (Machine.dropOffers s die id r) := (h.setDie _ _).update

theorem MemoriesWf.countStart (h : MemoriesWf s) : MemoriesWf (Machine.countStart s) := h.update

theorem MemoriesWf.reportUnfit (h : MemoriesWf s) {die : Nat} :
    MemoriesWf (Machine.reportUnfit s die) := h.foldl (fun _ _ k => (k.setDie _ _).addReport _ _)

theorem MemoriesWf.completeMalformed (h : MemoriesWf s) {id : Nat} {e : Entry} :
    MemoriesWf (Machine.completeMalformed s id e) := h.writeEnding

theorem MemoriesWf.startFresh (h : MemoriesWf s) {die : Nat} {p : Pick} : MemoriesWf (Machine.startFresh s die p) := by
  unfold Machine.startFresh
  dsimp only
  split
  · exact (h.setLanding.setStrand _ _).countStart
  · exact ((h.setLanding.setStrand _ _).countStart).grantBays

theorem MemoriesWf.execRecordPop (h : MemoriesWf s) {die : Nat} : NextWf (Machine.execRecordPop die s) := by
  unfold Machine.execRecordPop
  dsimp only
  split
  · split
    · exact h.reportUnfit
    · exact h
  · split
    · split
      · exact h.reportUnfit
      · exact h
    · split
      · refine (((MemoriesWf.setLanding ?_).setDie _ _).dropOffers).completeMalformed
        split
        · exact h.reportUnfit
        · exact h
      · refine (((MemoriesWf.setLanding ?_).setDie _ _).dropOffers).startFresh
        split
        · exact h.reportUnfit
        · exact h

theorem MemoriesWf.resumeStrand (h : MemoriesWf s) {p : Pick} {img : List Word} :
    MemoriesWf (Machine.resumeStrand s p img) := by
  unfold Machine.resumeStrand
  dsimp only
  split
  · split
    · exact ((h.countStart.setStrand _ _).modCore).modMezz
    · exact (h.countStart.setStrand _ _).modCore
  · exact (h.countStart.setStrand _ _).modCore

theorem MemoriesWf.failResume (h : MemoriesWf s) {p : Pick} : MemoriesWf (Machine.failResume s p) := (h.setStrand _ _).drain

theorem MemoriesWf.takeSaved (h : MemoriesWf s) {die : Nat} {p : Pick} :
    MemoriesWf (Machine.takeSaved s die p) := (h.setLanding.setDie _ _).dropOffers

theorem MemoriesWf.execResumeRecordPop (h : MemoriesWf s) {die : Nat} : NextWf (Machine.execResumeRecordPop die s) := by
  fun_cases Machine.execResumeRecordPop die s
  case case1 => exact h
  case case2 read => exact (MemoriesWf.vaultRead_error (h.setStrand _ _) read).takeSaved.failResume
  case case3 => exact h.takeSaved.failResume
  case case4 => exact h.takeSaved.resumeStrand
  case case5 => exact h

/-! ### Pre-emption, the sequencer and the watchdog -/

theorem MemoriesWf.makeDue (h : MemoriesWf s) {die l : Nat} {f : Nat → Strand → Bool} :
    MemoriesWf (Machine.makeDue s die l f) := by
  unfold Machine.makeDue
  dsimp only
  split
  · split
    · exact h.modStrand
    · exact h
  · exact h

theorem MemoriesWf.execSharePreemption (h : MemoriesWf s) {die landing : Nat} :
    NextWf (Machine.execSharePreemption die landing s) := by
  unfold Machine.execSharePreemption
  dsimp only
  split
  · exact h
  · exact h.makeDue

theorem MemoriesWf.execPreemptForceLimit (h : MemoriesWf s) {id : Nat} : NextWf (Machine.execPreemptForceLimit id s) := by
  unfold Machine.execPreemptForceLimit
  dsimp only
  split
  · exact h.modStrand
  · exact h

theorem MemoriesWf.usherPreempts (h : MemoriesWf s) {id : Nat} : MemoriesWf (Machine.usherPreempts s id) := by
  unfold Machine.usherPreempts
  dsimp only
  split
  · exact h.modStrand
  · exact h

theorem MemoriesWf.execLinkDeferLimit (h : MemoriesWf s) {id : Nat} : NextWf (Machine.execLinkDeferLimit id s) := by
  unfold Machine.execLinkDeferLimit
  split
  · exact h.modStrand
  · exact h

theorem MemoriesWf.leaveWaits (h : MemoriesWf s) {id : Nat} : MemoriesWf (Machine.leaveWaits s id) := h.modCore

theorem MemoriesWf.execPreemptionTaken (h : MemoriesWf s) {id : Nat} : NextWf (Machine.execPreemptionTaken id s) := by
  unfold Machine.execPreemptionTaken
  dsimp only
  split
  · split
    · exact h.leaveWaits.modStrand.clearWatches.modStrand.trapHere
    · exact h.leaveWaits.modStrand.clearWatches.beginSave.modStrand
  · exact h

theorem MemoriesWf.pressWaiters (h : MemoriesWf s) {core : Nat} : MemoriesWf (Machine.pressWaiters s core) := by
  unfold Machine.pressWaiters
  split
  · exact h
  · refine h.foldl ?_
    intro u x k2
    split
    · exact k2.modStrand
    · exact k2

theorem MemoriesWf.finishSave (h : MemoriesWf s) {id : Nat} : MemoriesWf (Machine.finishSave s id) := by
  unfold Machine.finishSave
  dsimp only
  refine MemoriesWf.pressWaiters ?_
  split
  · split
    · exact h.freeSlot.setLanding.setDie _ _
    · exact h.freeSlot.setLanding
  · exact h.freeSlot.setLanding

theorem MemoriesWf.abandonSave (h : MemoriesWf s) {id : Nat} {tval : Word} :
    MemoriesWf (Machine.abandonSave s id tval) := h.modStrand.trapHere

theorem MemoriesWf.execContextSaveComplete (h : MemoriesWf s) {id : Nat} : NextWf (Machine.execContextSaveComplete id s) := by
  unfold Machine.execContextSaveComplete
  dsimp only
  split
  · exact h
  · split
    · exact h.abandonSave
    · split
      · exact (h.vaultWrite_error ‹_›).abandonSave
      · exact (h.vaultWrite_ok ‹_›).finishSave

theorem MemoriesWf.refillDeficits (h : MemoriesWf s) {core : Nat} {ls : List Nat} :
    MemoriesWf (Machine.refillDeficits s core ls) := h.foldl (fun _ _ k => k.modCore)

theorem MemoriesWf.chooseAmong (h : MemoriesWf s) {core : Nat} {ready : List Nat} :
    MemoriesWf (Machine.chooseAmong s core ready) := by
  unfold Machine.chooseAmong
  dsimp only
  split
  · exact h
  · refine MemoriesWf.modCore ?_
    split
    · exact h.refillDeficits
    · exact h

theorem MemoriesWf.execSequencerSelect (h : MemoriesWf s) {core : Nat} : NextWf (Machine.execSequencerSelect core s) := by
  unfold Machine.execSequencerSelect
  split
  · exact h
  · exact h.chooseAmong

theorem MemoriesWf.admitEntry (h : MemoriesWf s) {id : Nat} {w : BitVec 32} : MemoriesWf (Machine.admitEntry s id w).1 := by
  unfold Machine.admitEntry
  dsimp only
  split
  · exact h
  · split
    · exact h
    · exact h.chooseAmong

theorem MemoriesWf.atIssue (h : MemoriesWf s) {id : Nat} : MemoriesWf (Machine.atIssue s id) := by
  unfold Machine.atIssue
  dsimp only
  split
  · exact h.modStrand
  · exact h

theorem MemoriesWf.execWatchdog (h : MemoriesWf s) {id : Nat} : NextWf (Machine.execWatchdog id s) := by
  have left : MemoriesWf (Machine.clearWatches s id) := h.clearWatches
  unfold Machine.execWatchdog
  extract_lets t u array
  have held : ∀ o lane, NextWf (array o lane) := fun _ _ => (MemoriesWf.modStrand left).trapArray
  have parked : NextWf (if t.slot = .park ∧ behind t = false then .next (Machine.trapHere u id cWATCHDOG 0) else .next s) := by
    split
    · exact MemoriesWf.trapHere left
    · exact h
  split
  · exact h
  · split
    · exact held _ _
    · generalize t.blocked = waiting
      rcases waiting with _ | waiting
      · exact h
      · cases waiting
        case vwaitm => exact held _ _
        case semwait | barwait | uwait | collw | endWait => exact parked
        all_goals exact h

theorem MemoriesWf.execArrayTrap (h : MemoriesWf s) {id : Nat} {cause : BitVec 6} {tval : BitVec 64} {lane : Nat} :
    NextWf (Machine.execArrayTrap id cause tval lane s) := by
  unfold Machine.execArrayTrap
  split
  · split
    · exact h.trapArray
    · exact h
  · exact h

theorem MemoriesWf.retireRow (h : MemoriesWf s) {core bay row : Nat} : MemoriesWf (Machine.retireRow s core bay row) := by
  unfold Machine.retireRow
  dsimp only
  refine h.setCore _ _ ?_
  split <;> exact h.coreOf _

theorem MemoriesWf.execRowRetirement (h : MemoriesWf s) {core bay row : Nat} :
    NextWf (Machine.execRowRetirement core bay row s) := by
  unfold Machine.execRowRetirement
  split
  · exact h.retireRow
  · exact h

theorem MemoriesWf.execUsherScrub (h : MemoriesWf s) {core bay : Nat} : NextWf (Machine.execUsherScrub core bay s) := by
  unfold Machine.execUsherScrub
  dsimp only
  split
  · exact h.foldl (fun _ _ k => k.reportDetection)
  · exact h

/-! ### The Undercroft -/

theorem MemoriesWf.acceptBulk (h : MemoriesWf s) {id op : Nat} {units : List (Nat × List Nat)} {blk : Block} :
    MemoriesWf (Machine.acceptBulk s id op units blk) := by
  unfold Machine.acceptBulk
  dsimp only
  split
  · exact (h.setDie _ _).finish
  · exact h.blockOn

theorem MemoriesWf.ubulkOp (h : MemoriesWf s) {op : BitVec 3} {raw : BitVec 1} {a b : BitVec 5} :
    MemoriesWf (Machine.ubulkOp op raw a b s) := by
  unfold Machine.ubulkOp
  dsimp only
  split
  · exact h.trapIllegal
  · split
    · exact h.trapWord
    · split
      · exact h.trapHere
      · split
        · exact h.noteFault.trapHere
        · split
          · exact h.blockOn
          · exact h.acceptBulk

theorem MemoriesWf.execUndercroftQueueEntry (h : MemoriesWf s) {id : Nat} : NextWf (Machine.execUndercroftQueueEntry id s) := by
  unfold Machine.execUndercroftQueueEntry
  split
  · exact h.retryIssue (fun _ k => k.ubulkOp)
  · exact h

theorem MemoriesWf.execUndercroftStart (h : MemoriesWf s) {die index : Nat} :
    NextWf (Machine.execUndercroftStart die index s) := by
  unfold Machine.execUndercroftStart
  dsimp only
  split
  · exact h
  · split
    · exact h
    · exact h.setDie _ _

theorem MemoriesWf.dropDecoded (h : MemoriesWf s) {row : Nat} : MemoriesWf (Machine.dropDecoded s row) := h.update

theorem MemoriesWf.bulkUnit (h : MemoriesWf s) {op : Nat} {u : Nat × List Nat} : MemoriesWf (Machine.bulkUnit op s u).1 := by
  unfold Machine.bulkUnit
  extract_lets bits lines badAt bad p mem v
  have formed : MemoriesWf v := h.withDram (cellsWrite_wf _ _ _ _ h.dram)
  exact (formed.foldl fun _ _ k => MemoriesWf.breakLine (MemoriesWf.dropLine k) _).dropDecoded

theorem MemoriesWf.bulkUnits (h : MemoriesWf s) {op : Nat} {us : List (Nat × List Nat)} {bad : Bool} :
    MemoriesWf (Machine.bulkUnits op us (s, bad)).1 := by
  induction us generalizing s bad with
  | nil => exact h
  | cons u us ih => exact ih h.bulkUnit

theorem MemoriesWf.execUndercroftComplete (h : MemoriesWf s) {die index : Nat} :
    NextWf (Machine.execUndercroftComplete die index s) := by
  unfold Machine.execUndercroftComplete
  dsimp only
  split
  · exact h
  · split
    · split
      · exact ((h.setDie _ _).bulkUnits).fst ‹_›
      · exact ((((h.setDie _ _).bulkUnits).fst ‹_›).update).addReport _ _
    · exact h

theorem MemoriesWf.execUwait (h : MemoriesWf s) {a : BitVec 5} : NextWf (Machine.execUwait a s) := by
  unfold Machine.execUwait
  dsimp only
  split
  · exact h.update.finishReg
  · exact h.parkOn

/-! ### Caches -/

theorem MemoriesWf.flushTarget (h : MemoriesWf s) {t : Target} : MemoriesWf (Machine.flushTarget s t) := by
  unfold Machine.flushTarget
  split
  · exact h.codecWrite
  · split
    · exact h.writeBack _
    · exact h
  · exact h

theorem MemoriesWf.dropTarget (h : MemoriesWf s) {t : Target} : MemoriesWf (Machine.dropTarget s t) := by
  unfold Machine.dropTarget
  split
  · exact h.dropCoded
  · split
    · exact h.dropLine
    · exact h
  · exact h

theorem MemoriesWf.overLines (h : MemoriesWf s) {id n : Nat} {a : Word} {f : State → Target → State}
    (hf : ∀ u t, MemoriesWf u → MemoriesWf (f u t)) : MemoriesWf (Machine.overLines id f n a s).1 := by
  induction n generalizing a s with
  | zero => exact h
  | succ n ih =>
    unfold Machine.overLines
    split
    · exact h.noteFault
    · exact ih (hf _ _ h)

theorem MemoriesWf.cacheOp (h : MemoriesWf s) {w : BitVec 32} {a b : BitVec 5} {f : State → Target → State}
    (hf : ∀ u x1, MemoriesWf u → MemoriesWf (f u x1)) :
    MemoriesWf (Machine.cacheOp w a b f s) := by
  unfold Machine.cacheOp
  dsimp only
  split
  · exact h.trapIllegal
  · split
    · exact h.blockOn
    · split
      · exact ((h.overLines (fun _ _ k => hf _ _ k)).fst ‹_›).finish
      · exact ((h.overLines (fun _ _ k => hf _ _ k)).fst ‹_›).trapHere

theorem MemoriesWf.execCflush (h : MemoriesWf s) {a b : BitVec 5} :
    NextWf (Machine.execCflush a b s) := h.cacheOp (fun _ _ k => k.flushTarget)

theorem MemoriesWf.execCinv (h : MemoriesWf s) {a b : BitVec 5} :
    NextWf (Machine.execCinv a b s) := h.cacheOp (fun _ _ k => k.flushTarget.dropTarget)

theorem MemoriesWf.execCpref (h : MemoriesWf s) {a b : BitVec 5} : NextWf (Machine.execCpref a b s) := by
  unfold Machine.execCpref
  dsimp only
  split
  · exact h.trapIllegal
  · exact h.finish

theorem MemoriesWf.refreshPools (h : MemoriesWf s) : MemoriesWf (Machine.refreshPools s) := h.update

theorem MemoriesWf.refreshRoots (h : MemoriesWf s) : MemoriesWf (Machine.refreshRoots s) := h.update

theorem MemoriesWf.refreshScope (h : MemoriesWf s) {die scope : Nat} : MemoriesWf (Machine.refreshScope s die scope) := by
  unfold Machine.refreshScope
  split
  · exact h.refreshDescs
  · split
    · exact ((h.foldl (fun _ _ k => k.refreshDescs)).refreshPools).refreshRoots
    · exact h

theorem MemoriesWf.dropEntries (h : MemoriesWf s) {id scope : Nat} {p v : Word} :
    MemoriesWf (Machine.dropEntries s id scope p v) := h.update

theorem MemoriesWf.execTlbinv (h : MemoriesWf s) {a b : BitVec 5} {k : BitVec 3} : NextWf (Machine.execTlbinv a b k s) := by
  unfold Machine.execTlbinv
  dsimp only
  split
  · exact h.trapIllegal
  · split
    · exact h.trapWord
    · refine h.releaseThen ?_
      split
      · exact h.blockOn
      · exact h.dropEntries.refreshScope.finish

theorem MemoriesWf.fillLine (h : MemoriesWf s) {n : Nat} {sl : Bool} : MemoriesWf (Machine.fillLine s n sl) := by
  unfold Machine.fillLine
  split
  · exact h.update
  · exact h

theorem MemoriesWf.execL2Fill (h : MemoriesWf s) {coded : Bool} {key : Nat} : NextWf (Machine.execL2Fill coded key s) := by
  unfold Machine.execL2Fill
  dsimp only
  split
  · exact h.fillLine
  · split
    · exact h.fillCoded _ _ _
    · exact h

theorem MemoriesWf.failWriteBack (h : MemoriesWf s) {line tag : Nat} :
    MemoriesWf (Machine.failWriteBack s line tag) := (h.dropLine.poisonLine.addReport _ _).writeBackError

theorem MemoriesWf.evictLine (h : MemoriesWf s) {coded : Bool} {key : Nat} {bad : Bool} :
    MemoriesWf (Machine.evictLine coded key bad s) := by
  unfold Machine.evictLine
  split
  · dsimp only
    split
    · exact h
    · split
      · exact (h.dropCoded.breakLine _).failWriteBack
      · exact h.codecWrite.dropCoded
  · split
    · exact h
    · split
      · exact h.failWriteBack
      · exact (h.writeBack _).dropLine

theorem MemoriesWf.hashWritten (h : MemoriesWf s) {die index : Nat} {value : Word} :
    MemoriesWf (Machine.hashWritten s die index value) := by
  unfold Machine.hashWritten
  split
  · exact h
  · split
    · exact h.addReport _ _
    · exact h.setDie _ _

/-! ### The journal and completion slots -/

theorem MemoriesWf.jWrite (h : MemoriesWf s) {kind : JKind} {attempt tag node queue graphSeq : Nat} :
    MemoriesWf (Machine.jWrite s kind attempt tag node queue graphSeq) := ((h.physWrite _ _ _).physWrite _ _ _).update

theorem MemoriesWf.modFoyer (h : MemoriesWf s) {f : Foyer → Foyer} : MemoriesWf (Machine.modFoyer s f) := h.update

theorem MemoriesWf.writeCompletionSlot (h : MemoriesWf s) {queue seq : Nat} {payload : Word} :
    MemoriesWf (Machine.writeCompletionSlot s queue seq payload) := ((h.writeSlotAt _ _ _ _ _ _).setRing _ _).ringSignal _

theorem MemoriesWf.flushSlots (h : MemoriesWf s) {queue n : Nat} : MemoriesWf (Machine.flushSlots queue n s) := by
  induction n generalizing s with
  | zero => exact h
  | succ n ih =>
    unfold Machine.flushSlots
    dsimp only
    split
    · exact h
    · split
      · exact ih h.writeCompletionSlot.modFoyer
      · exact h

theorem MemoriesWf.completeSubmission (h : MemoriesWf s) {g : Graph} {node : Nat} {fail : Bool} :
    MemoriesWf (Machine.completeSubmission s g node fail) := h.modFoyer.flushSlots

/-! ### The host port -/

theorem MemoriesWf.execHpost (h : MemoriesWf s) {a b : BitVec 5} {r : BitVec 4} : NextWf (Machine.execHpost a b r s) := by
  unfold Machine.execHpost
  dsimp only
  refine h.releaseThen ?_
  split
  · exact h.finishReg
  · split
    · exact h.finishReg
    · exact (h.postSlot _ _ _ _ _).finishReg

theorem MemoriesWf.execGsig (h : MemoriesWf s) {a b : BitVec 5} : NextWf (Machine.execGsig a b s) := by
  unfold Machine.execGsig
  dsimp only
  refine h.releaseThen ?_
  split
  · exact h.trapHere
  · exact MemoriesWf.scalarThen h.scalarWrite (fun _ _ k => k.finish)

theorem MemoriesWf.execDoorbell (h : MemoriesWf s) {value : BitVec 64} : NextWf (Machine.execDoorbell value s) := by
  unfold Machine.execDoorbell
  dsimp only
  split
  · exact h.modFoyer.postEvent _ _ _
  · exact h.modFoyer

theorem MemoriesWf.execSubmissionAccept (h : MemoriesWf s) : NextWf (Machine.execSubmissionAccept s) := by
  unfold Machine.execSubmissionAccept
  split
  · exact h
  · split
    · exact h
    · exact h.jWrite.modFoyer

theorem MemoriesWf.ringError (h : MemoriesWf s) {n : Nat} : MemoriesWf (Machine.ringError s n) := h.postEvent _ _ _

theorem MemoriesWf.execHrcfgWrite (h : MemoriesWf s) {ring : Nat} {value : BitVec 64} :
    NextWf (Machine.execHrcfgWrite ring value s) := by
  unfold Machine.execHrcfgWrite
  split
  · exact h
  · dsimp only
    split
    · split
      · split
        · split
          · exact (h.setRing _ _).flushSlots
          · exact h.setRing _ _
        · split
          · exact ((h.setRing _ _).setRing _ _).raiseVector
          · exact h.setRing _ _
      · split
        · split
          · exact (h.setRing _ _).flushSlots
          · exact h.setRing _ _
        · split
          · exact ((h.setRing _ _).setRing _ _).raiseVector
          · exact h.setRing _ _
    · split
      · split
        · split
          · exact (h.setRing _ _).flushSlots
          · exact h.setRing _ _
        · split
          · exact ((h.setRing _ _).setRing _ _).raiseVector
          · exact h.setRing _ _
      · split
        · split
          · exact (h.setRing _ _).flushSlots
          · exact h.setRing _ _
        · split
          · exact ((h.setRing _ _).setRing _ _).raiseVector
          · exact h.setRing _ _

theorem MemoriesWf.execHrheadWrite (h : MemoriesWf s) {ring : Nat} {value : BitVec 64} :
    NextWf (Machine.execHrheadWrite ring value s) := by
  unfold Machine.execHrheadWrite
  split
  · exact h
  · dsimp only
    split
    · exact (h.setRing _ _).ringError
    · split
      · exact (h.setRing _ _).flushSlots
      · exact h.setRing _ _

theorem MemoriesWf.execRingCtimeExpiry (h : MemoriesWf s) {ring : Nat} : NextWf (Machine.execRingCtimeExpiry ring s) := by
  unfold Machine.execRingCtimeExpiry
  dsimp only
  split
  · exact (h.setRing _ _).raiseVector
  · exact h

theorem MemoriesWf.execMsixUnmask (h : MemoriesWf s) {vector : Nat} : NextWf (Machine.execMsixUnmask vector s) := by
  unfold Machine.execMsixUnmask
  split
  · exact h
  · dsimp only
    split <;> exact h.update

theorem MemoriesWf.msixMask (h : MemoriesWf s) {vector : Nat} : MemoriesWf (Machine.msixMask s vector) := h.update

theorem MemoriesWf.execW2baseWrite (h : MemoriesWf s) {value : BitVec 64} : NextWf (Machine.execW2baseWrite value s) := by
  unfold Machine.execW2baseWrite
  split
  · exact h
  · exact h.update

theorem MemoriesWf.usherStore (h : MemoriesWf s) {k : Nat} {v : Word} : MemoriesWf (Machine.usherStore s k v) := by
  unfold Machine.usherStore
  split
  · exact h.hashWritten
  · split
    · exact h.frcfgWritten
    · split
      · exact h
      · split <;> exact h.routeWritten

theorem MemoriesWf.blockWritten (h : MemoriesWf s) {offset : Nat} {value : Word} :
    MemoriesWf (Machine.blockWritten s offset value) := by
  unfold Machine.blockWritten
  split
  · exact h.usherStore
  · exact h.update

theorem MemoriesWf.execHostRegisterWrite (h : MemoriesWf s) {offset : Nat} {value : BitVec 64} :
    NextWf (Machine.execHostRegisterWrite offset value s) := by
  unfold Machine.execHostRegisterWrite
  split
  · dsimp only
    split
    · exact h
    · exact h.setRing _ _
  · split
    · exact h.update
    · split
      · exact h.blockWritten
      · exact h

theorem MemoriesWf.registerRead (h : MemoriesWf s) {offset : Nat} : MemoriesWf (Machine.registerRead s offset) := h.update

theorem MemoriesWf.usherOpens (h : MemoriesWf s) {offset : Nat} : MemoriesWf (Machine.usherOpens s offset) := by
  unfold Machine.usherOpens
  split
  · exact h.update
  · exact h

theorem MemoriesWf.usherWrites (h : MemoriesWf s) {offset : Nat} {value : Word} :
    MemoriesWf (Machine.usherWrites s offset value) := by
  unfold Machine.usherWrites
  split
  · exact h.blockWritten
  · exact h

theorem MemoriesWf.windowWrite (h : MemoriesWf s) {pa n v : Nat} : MemoriesWf (Machine.windowWrite s pa n v) := by
  unfold Machine.windowWrite
  split
  · exact h
  · split
    · exact h.addReport _ _
    · exact h.physWrite _ _ _

theorem MemoriesWf.execHostMemoryWrite (h : MemoriesWf s) {offset size : Nat} {value : BitVec 64} :
    NextWf (Machine.execHostMemoryWrite offset size value s) := h.windowWrite.windowWrite

theorem MemoriesWf.execHostPortTraining (h : MemoriesWf s) {width rate : Nat} :
    NextWf (Machine.execHostPortTraining width rate s) := by
  unfold Machine.execHostPortTraining
  split
  · exact h.update
  · exact h

/-! ### Graphs -/

theorem MemoriesWf.setWalk (h : MemoriesWf s) {w : Nat} {x : Walk} : MemoriesWf (Machine.setWalk s w x) := h.modFoyer

theorem MemoriesWf.modWalk (h : MemoriesWf s) {g : Graph} {f : Walk → Walk} : MemoriesWf (Machine.modWalk s g f) := h.modFoyer

theorem MemoriesWf.endGraph (h : MemoriesWf s) {g : Graph} {node : Nat} {fail : Bool} :
    MemoriesWf (Machine.endGraph s g node fail) := h.jWrite.modFoyer.completeSubmission

theorem MemoriesWf.execGraphStart (h : MemoriesWf s) : NextWf (Machine.execGraphStart s) := by
  unfold Machine.execGraphStart
  split
  · exact h
  · split
    · exact h
    · exact h.modFoyer

theorem MemoriesWf.nodeThen (h : MemoriesWf s) {w : Nat} {own : Nat → Bool} {ready : State → Walk → Bool}
    {k : Walk → Node → Res} (hk : ∀ x0 x1, NextWf (k x0 x1)) :
    NextWf (Machine.nodeThen s w own ready k) := by
  unfold Machine.nodeThen
  split
  · exact h
  · split
    · exact h
    · split
      · exact trivial
      · dsimp only
        split
        · exact h
        · split
          · exact h.endGraph
          · split
            · exact hk _ _
            · exact h

theorem MemoriesWf.setLaunch (h : MemoriesWf s) {tag : Nat} {l : Launch} : MemoriesWf (Machine.setLaunch s tag l) := h.modFoyer

theorem MemoriesWf.dropLaunch (h : MemoriesWf s) {tag : Nat} : MemoriesWf (Machine.dropLaunch s tag) := h.modFoyer

theorem MemoriesWf.startEmission (h : MemoriesWf s) {key : Nat} {l : Launch} {attempt : Nat} {state : LaunchState} :
    MemoriesWf (Machine.startEmission s key l attempt state) := (h.jWrite.setLaunch.modFoyer.physWrite _ _ _).modWalk

theorem MemoriesWf.failLaunch (h : MemoriesWf s) {l : Launch} {logged : Bool} : MemoriesWf (Machine.failLaunch s l logged) := by
  unfold Machine.failLaunch
  dsimp only
  split
  · split
    · exact h.jWrite.dropLaunch.endGraph
    · exact h.jWrite.dropLaunch
  · split
    · exact h.jWrite.jWrite.dropLaunch.endGraph
    · exact h.jWrite.jWrite.dropLaunch

theorem MemoriesWf.execKernelNode (h : MemoriesWf s) {walk : Nat} : NextWf (Machine.execKernelNode walk s) := by
  unfold Machine.execKernelNode
  refine h.nodeThen ?_
  intro x0 x1
  dsimp only
  split
  · split
    · split
      · exact h
      · exact h.setWalk.modFoyer.failLaunch
    · split
      · exact h.setWalk.modFoyer
      · exact h.setWalk.modFoyer.startEmission
  · split
    · split
      · exact h
      · exact h.setWalk.modFoyer.failLaunch
    · split
      · exact h.setWalk.modFoyer
      · exact h.setWalk.modFoyer.startEmission

theorem MemoriesWf.emissionDone (h : MemoriesWf s) {l : Launch} : MemoriesWf (Machine.emissionDone s l) := by
  unfold Machine.emissionDone
  split
  · exact h.modWalk
  · exact h

theorem MemoriesWf.execKernelEmit (h : MemoriesWf s) {tag : Nat} : NextWf (Machine.execKernelEmit tag s) := by
  unfold Machine.execKernelEmit
  split
  · exact h
  · dsimp only
    split
    · split
      · exact h
      · split
        · split
          · exact h
          · exact h.purgeTag.failLaunch
        · split
          · exact h
          · split
            · split
              · refine (MemoriesWf.setLaunch ?_).emissionDone
                split
                · exact h.freshEntry.enqueue.modFoyer
                · exact h.freshEntry.enqueue
              · refine MemoriesWf.setLaunch ?_
                split
                · exact h.freshEntry.enqueue.modFoyer
                · exact h.freshEntry.enqueue
            · split
              · refine (MemoriesWf.setLaunch ?_).emissionDone
                split
                · exact h.freshEntry.enqueue.modFoyer
                · exact h.freshEntry.enqueue
              · refine MemoriesWf.setLaunch ?_
                split
                · exact h.freshEntry.enqueue.modFoyer
                · exact h.freshEntry.enqueue
    · exact h

theorem MemoriesWf.execKernelDone (h : MemoriesWf s) {tag : Nat} : NextWf (Machine.execKernelDone tag s) := by
  unfold Machine.execKernelDone
  split
  · exact h
  · split
    · exact h.jWrite.dropLaunch.modWalk
    · exact h

theorem MemoriesWf.execCopyNode (h : MemoriesWf s) {walk : Nat} :
    NextWf (Machine.execCopyNode walk s) := h.nodeThen (fun _ _ => h.setWalk)

theorem MemoriesWf.spanWrite (h : MemoriesWf s) {a n v : Nat} : MemoriesWf (Machine.spanWrite s a n v) := by
  unfold Machine.spanWrite
  dsimp only
  split
  · exact (h.physWrite _ _ _).physWrite _ _ _
  · exact h.physWrite _ _ _

theorem MemoriesWf.moveNode (h : MemoriesWf s) {dst src n i : Nat} {dstHost srcHost : Bool} :
    MemoriesWf (Machine.moveNode dst src dstHost srcHost n i s).1 := by
  induction n generalizing i s with
  | zero => exact h
  | succ n ih =>
    unfold Machine.moveNode
    dsimp only
    split
    · exact h
    · cases dstHost
      · exact ih h.spanWrite
      · exact ih (h.hostWrite _ _ _)

theorem MemoriesWf.execCopyNodeDone (h : MemoriesWf s) {walk : Nat} : NextWf (Machine.execCopyNodeDone walk s) := by
  unfold Machine.execCopyNodeDone
  split
  · exact h
  · split
    · dsimp only
      split
      · exact trivial
      · split
        · exact h
        · split
          · exact (h.moveNode.fst ‹_›).setWalk
          · exact (h.moveNode.fst ‹_›).endGraph
    · exact h

theorem MemoriesWf.nodeRefused (h : MemoriesWf s) {walk : Nat} : MemoriesWf (Machine.nodeRefused s walk) := by
  unfold Machine.nodeRefused
  split
  · exact h
  · split
    · split
      · exact h.endGraph
      · exact h
    · exact h

theorem MemoriesWf.dropCondWatch (h : MemoriesWf s) {g : Graph} : MemoriesWf (Machine.dropCondWatch s g) := h.update

theorem MemoriesWf.condRead (h : MemoriesWf s) {walk : Nat} {x : Walk} {addr : Nat} {value : Word} {cmp exit : Nat}
    {k : State} (hk : MemoriesWf k) :
    NextWf (Machine.condRead s walk x addr value cmp exit k) := by
  unfold Machine.condRead
  split
  · split
    · exact h
    · exact h.dropCondWatch.endGraph
  · split
    · exact h.dropCondWatch.setWalk
    · exact hk

theorem MemoriesWf.execCondNode (h : MemoriesWf s) {walk : Nat} : NextWf (Machine.execCondNode walk s) := by
  unfold Machine.execCondNode
  refine h.nodeThen ?_
  intro x0 x1
  dsimp only
  refine h.condRead ?_
  split
  · exact h.setWalk.placeTag
  · exact h.setWalk

theorem MemoriesWf.execCondReread (h : MemoriesWf s) {walk : Nat} : NextWf (Machine.execCondReread walk s) := by
  unfold Machine.execCondReread
  split
  · exact h
  · split
    · split
      · exact h
      · exact h.condRead h.placeTag
    · exact h

theorem MemoriesWf.execHostpostNode (h : MemoriesWf s) {walk : Nat} : NextWf (Machine.execHostpostNode walk s) := by
  unfold Machine.execHostpostNode
  refine h.nodeThen ?_
  intro x0 x1
  dsimp only
  split
  · exact h.setWalk.ringError
  · split
    · exact h
    · exact h.setWalk.postSlot _ _ _ _ _

theorem MemoriesWf.endedGraph (h : MemoriesWf s) {walk : Nat} : MemoriesWf (Machine.endedGraph s walk) := by
  unfold Machine.endedGraph
  split
  · exact h
  · split
    · split
      · exact h
      · exact h.endGraph
    · exact h

theorem MemoriesWf.execEndNode (h : MemoriesWf s) {walk : Nat} : NextWf (Machine.execEndNode walk s) := by
  unfold Machine.execEndNode
  split
  · exact h.endedGraph
  · exact h.nodeThen (fun _ _ => h.endGraph)

theorem MemoriesWf.copyLine (h : MemoriesWf s) {dst src : Nat} : MemoriesWf (Machine.copyLine s dst src) := h.physWrite _ _ _

theorem MemoriesWf.execSnapshotCopyDone (h : MemoriesWf s) {tag : Nat} : NextWf (Machine.execSnapshotCopyDone tag s) := by
  unfold Machine.execSnapshotCopyDone
  split
  · exact h
  · dsimp only
    split
    · exact h
    · split
      · split
        · exact h
        · exact h.failLaunch
      · split
        · split
          · exact h
          · exact (h.foldl (fun _ _ k => k.codecWrite)).failLaunch
        · exact ((h.foldl (fun _ _ k => k.codecWrite)).foldl (fun _ _ k => k.copyLine)).startEmission

theorem MemoriesWf.execRestoreDone (h : MemoriesWf s) {tag : Nat} : NextWf (Machine.execRestoreDone tag s) := by
  unfold Machine.execRestoreDone
  split
  · exact h
  · split
    · exact h
    · split
      · split
        · exact h
        · exact h.failLaunch
      · exact (((h.foldl (fun _ _ k => k.copyLine)).foldl (fun _ _ k => k.dropCoded.breakLine _)).physWrite _ _ _).setLaunch

theorem MemoriesWf.replayLaunch (h : MemoriesWf s) {l : Launch} : MemoriesWf (Machine.replayLaunch s l) := by
  unfold Machine.replayLaunch
  dsimp only
  split
  · exact h.purgeTag.modFoyer.failLaunch
  · split
    · exact h.purgeTag.modFoyer.startEmission.postEvent _ _ _
    · split
      · exact h.purgeTag.modFoyer.failLaunch
      · exact h.purgeTag.modFoyer.startEmission.postEvent _ _ _
    · exact h.purgeTag.modFoyer.failLaunch

theorem MemoriesWf.execLossReport (h : MemoriesWf s) : NextWf (Machine.execLossReport s) := by
  unfold Machine.execLossReport
  split
  · exact h
  · split
    · exact h
    · dsimp only
      split
      · exact h.modFoyer
      · split
        · exact h.modFoyer.replayLaunch
        · exact h.modFoyer

theorem MemoriesWf.fatalError (h : MemoriesWf s) {kind detail : Nat} : MemoriesWf (Machine.fatalError s kind detail) := h.update

theorem MemoriesWf.replayOrDefer (h : MemoriesWf s) {l : Launch} : MemoriesWf (Machine.replayOrDefer s l) := by
  unfold Machine.replayOrDefer
  split
  · exact h.setLaunch.modFoyer
  · exact h.replayLaunch

theorem MemoriesWf.rebuildFoyer (h : MemoriesWf s) : MemoriesWf (Machine.rebuildFoyer s) := by
  unfold Machine.rebuildFoyer
  dsimp only
  refine (h.modFoyer.update.foldl ?_).foldl (fun _ _ k => k.replayOrDefer)
  intro u x k2
  split
  · split
    · exact k2.modWalk
    · exact k2.endGraph
  · exact k2

/-! ### The dump -/

theorem MemoriesWf.modUsher (h : MemoriesWf s) {f : Usher → Usher} : MemoriesWf (Machine.modUsher s f) := h.update

theorem MemoriesWf.writeWords (h : MemoriesWf s) {ws : List Word} {k : Nat} : MemoriesWf (Machine.writeWords ws k s) := by
  induction ws generalizing k s with
  | nil => exact h
  | cons w r ih => exact ih (h.physWrite _ _ _)

theorem MemoriesWf.fatalStop (h : MemoriesWf s) {kind detail : Nat} {unit : DumpUnit} :
    MemoriesWf (Machine.fatalStop s kind detail unit) := by
  unfold Machine.fatalStop
  split
  · exact h
  · extract_lets ws u
    have reported : MemoriesWf u := h.fatalError.writeWords
    clear_value u
    exact reported.modUsher.update

theorem MemoriesWf.writeSection (h : MemoriesWf s) : MemoriesWf (Machine.writeSection s) := by
  unfold Machine.writeSection
  split
  · exact h
  · exact (h.writeWords.physWrite _ _ _).modUsher

/-! ### The Usher -/

theorem MemoriesWf.partFaults (h : MemoriesWf s) {unit : DumpUnit} {k : State → State} (hk : ∀ u, MemoriesWf u → MemoriesWf
    (k u)) :
    MemoriesWf (Machine.partFaults s unit k) := by
  unfold Machine.partFaults
  split
  · exact h.fatalStop
  · exact hk _ h

theorem MemoriesWf.hubResets (h : MemoriesWf s) : MemoriesWf (Machine.hubResets s) := by
  unfold Machine.hubResets
  refine h.partFaults ?_
  intro u k1
  split
  · exact k1.fatalStop
  · exact k1.rebuildFoyer

theorem MemoriesWf.hubFaults (h : MemoriesWf s) : MemoriesWf (Machine.hubFaults s) := by
  unfold Machine.hubFaults
  split
  · exact h.fatalStop
  · exact h.hubResets

theorem MemoriesWf.journalGuard (h : MemoriesWf s) : MemoriesWf (Machine.journalGuard s) := by
  unfold Machine.journalGuard
  split
  · exact h.fatalStop
  · exact h

theorem MemoriesWf.guardIf (h : MemoriesWf s) {b : Bool} : MemoriesWf (Machine.guardIf b s) := by
  unfold Machine.guardIf
  split
  · exact h.journalGuard
  · exact h

theorem MemoriesWf.execDieReset (h : MemoriesWf s) {die : Nat} : NextWf (Machine.execDieReset die s) := by
  unfold Machine.execDieReset
  split
  · exact h
  · exact h.partFaults (fun _ k => ((k.clearDie.foldl (fun _ _ k => k.reportLoss)).setDie _ _).guardIf)

theorem MemoriesWf.execDieBack (h : MemoriesWf s) {die : Nat} {enabled : Bool} :
    NextWf (Machine.execDieBack die enabled s) := by
  unfold Machine.execDieBack
  split
  · exact h
  · split
    · exact (h.setDie _ _).refreshDescs
    · exact (h.setDie _ _).foldl (fun _ _ k => k.modCore)

theorem MemoriesWf.execCoreDisable (h : MemoriesWf s) {core : Nat} :
    NextWf (Machine.execCoreDisable core s) := h.partFaults (fun _ k => k.disableCore)

theorem MemoriesWf.clusterFaults (h : MemoriesWf s) {cl : Nat} : MemoriesWf (Machine.clusterFaults s cl) := by
  unfold Machine.clusterFaults
  split
  · exact h
  · exact h.partFaults (fun _ k => k.foldl (fun _ _ k => k.disableCore))

theorem MemoriesWf.execLineEviction (h : MemoriesWf s) {coded : Bool} {key : Nat} {bad : Bool} :
    NextWf (Machine.execLineEviction coded key bad s) := h.evictLine.guardIf

theorem MemoriesWf.lineFails (h : MemoriesWf s) {line : Nat} : MemoriesWf (Machine.lineFails s line) := h.memoryFails.guardIf

theorem MemoriesWf.readFindsSymbols (h : MemoriesWf s) {line : Nat} {bytes : List Nat} :
    MemoriesWf (Machine.readFindsSymbols s line bytes) := h.symbolsFail.guardIf

theorem MemoriesWf.stackFaults (h : MemoriesWf s) {stack : Nat} : MemoriesWf (Machine.stackFaults s stack) := by
  unfold Machine.stackFaults
  split
  · exact h
  · exact h.partFaults (fun _ k => k.update.journalGuard)

theorem MemoriesWf.queueFails (h : MemoriesWf s) {die l i : Nat} : MemoriesWf (Machine.queueFails s die l i) := by
  unfold Machine.queueFails
  dsimp only
  split
  · exact h
  · exact h.setLanding.reportLoss

theorem MemoriesWf.poolFails (h : MemoriesWf s) {die i : Nat} : MemoriesWf (Machine.poolFails s die i) := by
  unfold Machine.poolFails
  split
  · exact h
  · exact h.dropPoolWatch.setPool.reportLoss

theorem MemoriesWf.modUnsound (h : MemoriesWf s) {f : Unsound → Unsound} : MemoriesWf (Machine.modUnsound s f) := h.modUsher

theorem MemoriesWf.laneWindow (h : MemoriesWf s) {fast : Bool} {stack pc lane wlo whi rlo rhi : Nat} :
    MemoriesWf (Machine.laneWindow s fast stack pc lane wlo whi rlo rhi) := by
  unfold Machine.laneWindow
  dsimp only
  split
  · exact h
  · exact h.modUsher

theorem MemoriesWf.stackFails (h : MemoriesWf s) {fast : Bool} {stack : Nat} :
    MemoriesWf (Machine.stackFails s fast stack) := h.modUnsound

theorem MemoriesWf.columnFails (h : MemoriesWf s) {core bay column : Nat} :
    MemoriesWf (Machine.columnFails s core bay column) := by
  unfold Machine.columnFails
  split
  · exact h
  · exact h.modUnsound

theorem MemoriesWf.mezzFails (h : MemoriesWf s) {core : Nat} : MemoriesWf (Machine.mezzFails s core) := by
  unfold Machine.mezzFails
  split
  · exact h
  · exact h.modUnsound

theorem MemoriesWf.imageFails (h : MemoriesWf s) {image : Nat} : MemoriesWf (Machine.imageFails s image) := h.modUnsound

theorem MemoriesWf.arcadeMarch (h : MemoriesWf s) :
    MemoriesWf (Machine.arcadeMarch s) := (h.foldl (fun _ _ k => k.reportDetection)).foldl (fun _ _ k => k.modCore)

theorem MemoriesWf.healthTest (h : MemoriesWf s) : MemoriesWf (Machine.healthTest s) := h.arcadeMarch.modUsher

theorem MemoriesWf.turnover (h : MemoriesWf s) : MemoriesWf (Machine.turnover s) := by
  have tested : MemoriesWf (Machine.healthTest s) := h.healthTest
  unfold Machine.turnover
  extract_lets t empty core die bad pkg u
  have cleared : MemoriesWf u := by
    refine ⟨filter_wf _ _ tested.dram, tested.host, fun p member => ?_, fun p member => absurd member List.not_mem_nil⟩
    obtain ⟨c, -, rfl⟩ := List.mem_map.mp member
    rfl
  exact cleared.foldl fun _ _ k => MemoriesWf.postEvent k _ _ _

theorem MemoriesWf.execPowerOn (h : MemoriesWf s) : NextWf (Machine.execPowerOn s) := h.update.turnover

theorem MemoriesWf.execSpdmRequest (h : MemoriesWf s) {index : Nat} {nonce : BitVec 64} :
    NextWf (Machine.execSpdmRequest index nonce s) := by
  unfold Machine.execSpdmRequest
  split
  · exact h
  · exact h.modUsher.update

theorem MemoriesWf.spdmVersions (h : MemoriesWf s) : MemoriesWf (Machine.spdmVersions s) := h.modUsher

theorem MemoriesWf.spdmChain (h : MemoriesWf s) : MemoriesWf (Machine.spdmChain s) := h.modUsher

/-! ### Transfers -/

theorem MemoriesWf.noteEngine (h : MemoriesWf s) {ag : Agent} {t : Target} :
    MemoriesWf (Machine.noteEngine s ag t) := h.noteRemoteAs

theorem MemoriesWf.engineRead (h : MemoriesWf s) {ag : Agent} {r : PageRule} {a : Word} {z : Nat} :
    MemoriesWf (Machine.engineRead s ag r a z).1 := by
  unfold Machine.engineRead
  split
  · exact h.noteFault
  · split
    · exact h
    · exact h.targetFill.noteEngine

theorem MemoriesWf.engineWrite (h : MemoriesWf s) {ag : Agent} {r : PageRule} {a : Word} {z v : Nat} :
    MemoriesWf (Machine.engineWrite s ag r a z v).1 := by
  unfold Machine.engineWrite
  split
  · exact h.noteFault
  · split
    · exact h
    · split
      · exact h
      · exact (h.targetWrite _ _ _ _ _).noteEngine

theorem MemoriesWf.addOp (h : MemoriesWf s) {o : EngineOp} : MemoriesWf (Machine.addOp s o) := h.modEngine

theorem MemoriesWf.xferOp (h : MemoriesWf s) {get : Bool} {a b : BitVec 5} : MemoriesWf (Machine.xferOp get a b s) := by
  unfold Machine.xferOp
  dsimp only
  split
  · exact h.trapIllegal
  · split
    · exact h.trapHere
    · split
      · exact h.blockOn
      · exact h.addOp.finish

theorem MemoriesWf.moveXfer (h : MemoriesWf s) {ag : Agent} {get : Bool} {dst src : Word} {n i : Nat} :
    MemoriesWf (Machine.moveXfer ag get dst src n i s).1 := by
  induction n generalizing i s with
  | zero => exact h
  | succ n ih =>
    unfold Machine.moveXfer
    dsimp only
    split
    · exact h.engineRead.fst ‹_›
    · have read := h.engineRead.fst ‹_›
      split
      · exact read.engineWrite.fst ‹_›
      · exact ih (read.engineWrite.fst ‹_›)

theorem MemoriesWf.execTransferEnd (h : MemoriesWf s) {index : Nat} : NextWf (Machine.execTransferEnd index s) := by
  unfold Machine.execTransferEnd
  split
  · exact h
  · split
    · exact h
    · split
      exact (h.moveXfer.fst ‹_›).modEngine

theorem MemoriesWf.forgetOps (h : MemoriesWf s) {issuer : Nat} {p : EngineOp → Bool} :
    MemoriesWf (Machine.forgetOps s issuer p) := h.modEngine

theorem MemoriesWf.execCollw (h : MemoriesWf s) {a b : BitVec 5} : NextWf (Machine.execCollw a b s) := by
  unfold Machine.execCollw
  dsimp only
  split
  · exact h.trapIllegal
  · split
    · split
      · exact h.finishReg
      · split
        · exact h.parkOn
        · exact h.raise.modEngine.finishReg
    · split
      · exact h.raise.forgetOps.finishReg
      · exact h.parkOn

/-! ### Collectives -/

theorem MemoriesWf.readBuffer (h : MemoriesWf s) {ag : Agent} {a : Word} {z n i : Nat} :
    MemoriesWf (Machine.readBuffer ag a z n i s).1 := by
  induction n generalizing i s with
  | zero => exact h
  | succ n ih =>
    unfold Machine.readBuffer
    split
    · exact h.engineRead.fst ‹_›
    · split <;> exact (ih (h.engineRead.fst ‹_›)).fst ‹_›

theorem MemoriesWf.writeBuffer (h : MemoriesWf s) {ag : Agent} {z : Nat} {vs : List Nat} {a : Word} :
    MemoriesWf (Machine.writeBuffer ag z vs a s).1 := by
  induction vs generalizing a s with
  | nil => exact h
  | cons v r ih =>
    unfold Machine.writeBuffer
    split
    · exact h.engineWrite.fst ‹_›
    · exact ih (h.engineWrite.fst ‹_›)

theorem MemoriesWf.readTable (h : MemoriesWf s) {o : EngineOp} : MemoriesWf (Machine.readTable s o).1 := h.readBuffer

theorem MemoriesWf.endAll (h : MemoriesWf s) {gid cseq status : Nat} :
    MemoriesWf (Machine.endAll s gid cseq status) := h.endColl

theorem MemoriesWf.collFault (h : MemoriesWf s) {gid cseq : Nat} {o : EngineOp} {f : WordFault} :
    MemoriesWf (Machine.collFault s gid cseq o f) := h.endColl

theorem MemoriesWf.localParts (h : MemoriesWf s) {os : List EngineOp} : MemoriesWf (Machine.localParts os s).1 := by
  induction os generalizing s with
  | nil => exact h
  | cons o r ih =>
    unfold Machine.localParts
    split
    · exact h.readTable.fst ‹_›
    · split <;> exact (ih (h.readTable.fst ‹_›)).fst ‹_›

theorem MemoriesWf.matchColl (h : MemoriesWf s) {gid cseq : Nat} : MemoriesWf (Machine.matchColl s gid cseq) := by
  unfold Machine.matchColl
  split
  · exact (h.localParts.fst ‹_›).collFault
  · dsimp only
    split
    · exact (h.localParts.fst ‹_›).endAll
    · split
      · exact (h.localParts.fst ‹_›).endAll
      · exact h.localParts.fst ‹_›

theorem MemoriesWf.ageOutcomes (h : MemoriesWf s) {gid cseq : Nat} : MemoriesWf (Machine.ageOutcomes s gid cseq) := h.modEngine

theorem MemoriesWf.enterColl (h : MemoriesWf s) {o : EngineOp} {d : CollDesc} : MemoriesWf (Machine.enterColl s o d) := by
  unfold Machine.enterColl
  dsimp only
  split
  · exact h.ageOutcomes.addOp
  · exact h.ageOutcomes.addOp.matchColl

theorem MemoriesWf.collChecked (h : MemoriesWf s) {id : Nat} {w : BitVec 32} {a : Word} {blk : Block} {bad : Bool}
    {d : CollDesc} :
    MemoriesWf (Machine.collChecked s id w a blk bad d) := by
  unfold Machine.collChecked
  dsimp only
  split
  · exact h.trapIllegal
  · split
    · exact h.trapHere
    · split
      · exact h.blockOn
      · exact h.enterColl.finish

theorem MemoriesWf.collOp (h : MemoriesWf s) {kind : BitVec 2} {m : BitVec 1} {b : BitVec 5} :
    MemoriesWf (Machine.collOp kind m b s) := by
  unfold Machine.collOp
  dsimp only
  split
  · exact h.trapHere
  · split
    · exact h.noteFault.trapHere
    · split
      · exact h.trapHere
      · split
        · exact h.blockOn
        · exact h.noteRemote.collChecked

theorem MemoriesWf.execEngineEntry (h : MemoriesWf s) {id : Nat} : NextWf (Machine.execEngineEntry id s) := by
  unfold Machine.execEngineEntry
  split
  · exact h.retryIssue (fun _ k => k.xferOp)
  · exact h.retryIssue (fun _ k => k.collOp)
  · exact h

theorem MemoriesWf.execContributionArrival (h : MemoriesWf s) {index : Nat} :
    NextWf (Machine.execContributionArrival index s) := by
  unfold Machine.execContributionArrival
  split
  · exact h
  · dsimp only
    split
    · exact h.modEngine.modEngine
    · exact h.modEngine.modEngine.matchColl

theorem MemoriesWf.peerFaults (h : MemoriesWf s) {gid cseq : Nat} : MemoriesWf (Machine.peerFaults s gid cseq) := by
  unfold Machine.peerFaults
  split
  · exact h
  · exact h.endAll

theorem MemoriesWf.readSources (h : MemoriesWf s) {os : List EngineOp} : MemoriesWf (Machine.readSources os s).1 := by
  induction os generalizing s with
  | nil => exact h
  | cons o r ih =>
    unfold Machine.readSources
    dsimp only
    split
    · exact h.readBuffer.fst ‹_›
    · split <;> exact (ih (h.readBuffer.fst ‹_›)).fst ‹_›

theorem MemoriesWf.writeResults (h : MemoriesWf s) {res : List Nat} {os : List EngineOp} :
    MemoriesWf (Machine.writeResults res os s).1 := by
  induction os generalizing s with
  | nil => exact h
  | cons o r ih =>
    unfold Machine.writeResults
    dsimp only
    split
    · exact h.writeBuffer.fst ‹_›
    · exact ih (h.writeBuffer.fst ‹_›)

theorem MemoriesWf.runColl (h : MemoriesWf s) {gid cseq : Nat} {d : CollDesc} {ops : List EngineOp} :
    MemoriesWf (Machine.runColl s gid cseq d ops) := by
  unfold Machine.runColl
  have read := h.readSources (os := ops)
  split
  · exact (read.fst ‹_›).collFault
  · rename_i u ls gathered
    have gathered : MemoriesWf u := read.fst gathered
    extract_lets all data
    split
    rename_i v _ _ _ _
    have counted : MemoriesWf v := by
      unfold v
      split
      · exact gathered.update
      · exact gathered
    split
    · exact (counted.writeResults.fst ‹_›).collFault
    · exact (counted.writeResults.fst ‹_›).endColl

theorem MemoriesWf.execCollectiveEnd (h : MemoriesWf s) {gid cseq : Nat} : NextWf (Machine.execCollectiveEnd gid cseq s) := by
  unfold Machine.execCollectiveEnd
  dsimp only
  split
  · exact h
  · split
    · exact h.runColl
    · exact h

/-! ### The fabric -/

theorem MemoriesWf.modNet (h : MemoriesWf s) {f : Net → Net} : MemoriesWf (Machine.modNet s f) := h.update

theorem MemoriesWf.sendPacket (h : MemoriesWf s) {p : Packet} : MemoriesWf (Machine.sendPacket s p) := h.modNet

theorem MemoriesWf.discardPacket (h : MemoriesWf s) {p : Packet} :
    MemoriesWf (Machine.discardPacket s p) := h.modNet.addReport _ _

theorem MemoriesWf.sendOn (h : MemoriesWf s) {p : Packet} {q nmin : Nat} : MemoriesWf (Machine.sendOn s p q nmin) := by
  unfold Machine.sendOn
  exact h.modNet

theorem MemoriesWf.forwardFrom (h : MemoriesWf s) {i : Nat} {x : Waiting} {free : List Nat} :
    MemoriesWf (Machine.forwardFrom s i x free) := by
  unfold Machine.forwardFrom
  dsimp only
  split
  · exact h.modNet.discardPacket
  · split
    · split
      · exact h
      · exact h.modNet.sendOn
    · split
      · exact h.modNet.sendOn
      · split
        · exact h.modNet.sendOn.update
        · exact h

theorem MemoriesWf.execPacketForward (h : MemoriesWf s) {index : Nat} {free : List Nat} :
    NextWf (Machine.execPacketForward index free s) := by
  unfold Machine.execPacketForward
  split
  · split
    · exact h
    · exact h.forwardFrom
  · dsimp only
    split
    · exact h
    · split
      · exact h.modNet.discardPacket
      · split
        · exact h
        · exact h.modNet.sendOn

theorem MemoriesWf.modWaiting (h : MemoriesWf s) {i : Nat} {f : Waiting → Waiting} : MemoriesWf (Machine.modWaiting s i f) := by
  unfold Machine.modWaiting
  split
  · exact h
  · exact h.modNet

theorem MemoriesWf.execSuspectTimeout (h : MemoriesWf s) {index : Nat} : NextWf (Machine.execSuspectTimeout index s) := by
  unfold Machine.execSuspectTimeout
  split
  · exact h
  · split
    · exact h
    · exact h.modWaiting.modNet

theorem MemoriesWf.passToken (h : MemoriesWf s) {e : BitVec 16} : MemoriesWf (Machine.passToken s e) := h.modNet.update

theorem MemoriesWf.holdToken (h : MemoriesWf s) {e : BitVec 16} : MemoriesWf (Machine.holdToken s e) := by
  unfold Machine.holdToken
  split
  · split
    · exact h.modNet
    · exact h.passToken
  · exact h.passToken

theorem MemoriesWf.tokenArrives (h : MemoriesWf s) {e : BitVec 16} : MemoriesWf (Machine.tokenArrives s e) := by
  unfold Machine.tokenArrives
  split
  · exact h
  · exact h.modNet.holdToken

theorem MemoriesWf.execTokenRegeneration (h : MemoriesWf s) : NextWf (Machine.execTokenRegeneration s) := by
  unfold Machine.execTokenRegeneration
  split
  · split
    · exact h.passToken
    · exact h.update.passToken
  · exact h

theorem MemoriesWf.execStairMoveComplete (h : MemoriesWf s) : NextWf (Machine.execStairMoveComplete s) := by
  unfold Machine.execStairMoveComplete
  split
  · exact h
  · dsimp only
    refine MemoriesWf.passToken ?_
    split
    · exact h.sendPacket
    · exact h.modNet

theorem MemoriesWf.execFabricPortTraining (h : MemoriesWf s) {port width rate : Nat} {up : Bool} :
    NextWf (Machine.execFabricPortTraining port width rate up s) := by
  unfold Machine.execFabricPortTraining
  split
  · exact h.modNet
  · exact h

theorem MemoriesWf.ackFrom (h : MemoriesWf s) {sid dest : Nat} {seq : BitVec 16} :
    MemoriesWf (Machine.ackFrom s sid dest seq) := h.modNet

theorem MemoriesWf.nackFrom (h : MemoriesWf s) {sid dest : Nat} {seq : BitVec 16} :
    MemoriesWf (Machine.nackFrom s sid dest seq) := h.foldl (fun _ _ k => k.sendPacket)

theorem MemoriesWf.execResendTimeout (h : MemoriesWf s) {index : Nat} : NextWf (Machine.execResendTimeout index s) := by
  unfold Machine.execResendTimeout
  split
  · exact h
  · exact h.sendPacket

theorem MemoriesWf.loseColls (h : MemoriesWf s) : MemoriesWf (Machine.loseColls s) := by
  unfold Machine.loseColls
  dsimp only
  refine h.foldl ?_
  intro u x k2
  split
  · split
    · exact (k2.localParts.fst ‹_›).endAll
    · exact k2.localParts.fst ‹_›
  · exact k2.localParts.fst ‹_›

theorem MemoriesWf.execUnreachableTimeout (h : MemoriesWf s) {path : Nat × Nat} :
    NextWf (Machine.execUnreachableTimeout path s) := (h.modNet.foldl (fun _ _ k => k.writeBackError)).loseColls

theorem MemoriesWf.applyPacket (h : MemoriesWf s) {p : Packet} : MemoriesWf (Machine.applyPacket s p).1 := by
  unfold Machine.applyPacket
  dsimp only
  split
  · exact h
  · split
    · exact h.writeWords
    · exact h.writeWords
    · exact (h.physWrite _ _ _).update
    · exact h
    · exact h

theorem MemoriesWf.drainReorder (h : MemoriesWf s) {n k : Nat} : MemoriesWf (Machine.drainReorder n k s) := by
  induction n generalizing s with
  | zero => exact h
  | succ n ih =>
    unfold Machine.drainReorder
    dsimp only
    split
    · exact h
    · exact ih h.applyPacket.sendPacket.modNet

theorem MemoriesWf.sequenced (h : MemoriesWf s) {p : Packet} : MemoriesWf (Machine.sequenced s p) := by
  unfold Machine.sequenced
  dsimp only
  split
  · exact h.modNet.drainReorder
  · split
    · split
      · exact h.sendPacket
      · exact h
    · split
      · exact h
      · split
        · exact h.sendPacket
        · exact h.modNet

theorem MemoriesWf.execPacketDeliver (h : MemoriesWf s) {index : Nat} : NextWf (Machine.execPacketDeliver index s) := by
  unfold Machine.execPacketDeliver
  split
  · exact h
  · dsimp only
    split
    · exact h.modNet.tokenArrives
    · split
      · exact h
      · split
        · exact h.modNet.ackFrom
        · split
          · exact h.modNet.nackFrom
          · exact h.modNet.sequenced

/-! ### Scalar floating point -/

theorem MemoriesWf.fpDone (h : MemoriesWf s) {a : BitVec 5} {r : Fl Nat} : NextWf (Machine.fpDone s a r) := h.finishFl

theorem MemoriesWf.fpRR (h : MemoriesWf s) {a b c : BitVec 5} {d : BitVec 1} {f : FFmt → Nat → Nat → Fl Nat} :
    NextWf (Machine.fpRR s a b c d f) := h.fpDone

theorem MemoriesWf.fpCmp (h : MemoriesWf s) {a b c : BitVec 5} {d : BitVec 1} {f : FFmt → Nat → Nat → Fl Bool} :
    NextWf (Machine.fpCmp s a b c d f) := by
  unfold Machine.fpCmp
  split
  exact h.fpDone

theorem MemoriesWf.execFeq (h : MemoriesWf s) {a b c : BitVec 5} {d : BitVec 1} : NextWf (Machine.execFeq a b c d s) := h.fpCmp

theorem MemoriesWf.execFlt (h : MemoriesWf s) {a b c : BitVec 5} {d : BitVec 1} : NextWf (Machine.execFlt a b c d s) := h.fpCmp

theorem MemoriesWf.execFle (h : MemoriesWf s) {a b c : BitVec 5} {d : BitVec 1} : NextWf (Machine.execFle a b c d s) := h.fpCmp

theorem MemoriesWf.cvtInt (h : MemoriesWf s) {a b : BitVec 5} {d : BitVec 1} {bounds : ℤ × ℤ} :
    NextWf (Machine.cvtInt s a b d bounds) := by
  unfold Machine.cvtInt
  split
  exact h.fpDone

/-! ### Scalar accesses -/

theorem MemoriesWf.loadOp (h : MemoriesWf s) {a b : BitVec 5} {i : BitVec 13} {n : Nat} {f : Nat → Word} :
    NextWf (Machine.loadOp s a b i n f) := MemoriesWf.scalarThen h.scalarRead (fun _ _ k => k.finishReg)

theorem MemoriesWf.storeOp (h : MemoriesWf s) {a b : BitVec 5} {i : BitVec 13} {n : Nat} :
    NextWf (Machine.storeOp s a b i n) := MemoriesWf.scalarThen h.scalarWrite (fun _ _ k => k.finish)

theorem MemoriesWf.tcmThen (h : MemoriesWf s) {t : Word} {k : Nat → State} (hk : ∀ x0, MemoriesWf (k x0)) :
    MemoriesWf (Machine.tcmThen s t k) := by
  unfold Machine.tcmThen
  split
  · exact h.trapHere
  · split
    · split
      · exact h.blockOn
      · exact hk _
    · exact h.trapHere

theorem MemoriesWf.execLdt (h : MemoriesWf s) {a b : BitVec 5} {i : BitVec 13} :
    NextWf (Machine.execLdt a b i s) := h.tcmThen (fun _ => h.finishReg)

theorem MemoriesWf.execStt (h : MemoriesWf s) {a b : BitVec 5} {i : BitVec 13} :
    NextWf (Machine.execStt a b i s) := h.tcmThen (fun _ => (h.tcmWrite _ _).finish)

/-! ### Parked strands -/

theorem MemoriesWf.retest (h : MemoriesWf s) {b : Block} : NextWf (Machine.retest b s) := by
  cases b
  case semwait => exact h.execSemwait
  case barwait => exact h.execBarwait
  case vwaitm => exact h.execVwaitm
  case wait => exact h.finish
  case uwait => exact h.execUwait
  case collw => exact h.execCollw
  case endWait => exact h.execEndStrand
  all_goals exact h

theorem MemoriesWf.execParkWake (h : MemoriesWf s) {id : Nat} : NextWf (Machine.execParkWake id s) := by
  unfold Machine.execParkWake
  dsimp only
  split
  · split
    · split
      · exact h
      · split
        · exact ((h.update.modStrand.retest.next ‹_›).update).setStrand _ _
        · exact (h.update.modStrand.retest.next ‹_›).update
    · exact h.update.modStrand.retest
  · exact h

theorem MemoriesWf.pollStrand (h : MemoriesWf s) {id : Nat} : NextWf (Machine.pollStrand id s) := by
  unfold Machine.pollStrand
  split
  · exact h.modStrand.execParkWake
  · exact h

theorem MemoriesWf.pollAll (h : MemoriesWf s) {ids : List Nat} : NextWf (Machine.pollAll ids s) := by
  induction ids generalizing s with
  | nil => exact h
  | cons i r ih =>
    unfold Machine.pollAll
    have polled := h.pollStrand (id := i)
    split
    · exact ih (polled.next ‹_›)
    · exact polled

theorem MemoriesWf.pollCounters (h : MemoriesWf s) {die n : Nat} : MemoriesWf (Machine.pollCounters die n s) := by
  induction n generalizing s with
  | zero => exact h
  | succ n ih =>
    unfold Machine.pollCounters
    split
    · refine ih ?_
      split
      · exact h.readCounter
      · exact h
    · exact ih h

theorem MemoriesWf.execHostPoll (h : MemoriesWf s) {die : Nat} : NextWf (Machine.execHostPoll die s) := h.pollCounters.pollAll

theorem MemoriesWf.execHostCompletion (h : MemoriesWf s) {id : Nat} {ok : Bool} :
    NextWf (Machine.execHostCompletion id ok s) := by
  unfold Machine.execHostCompletion
  dsimp only
  split
  · exact h.modStrand
  · exact h.modStrand
  · exact h.modStrand.execParkWake
  · exact h.modArc

/-! ### Every instruction and event -/

theorem MemoriesWf.exec (h : MemoriesWf s) {i : Instr} : NextWf (Machine.exec i s) := by
  cases i
  case guard => exact h.trapWord
  case illegalInstruction => exact h.trapIllegal
  case resultQueueReturn => exact h.execResultQueueReturn
  case endDrain => exact h.execEndDrain
  case contextSaveComplete => exact h.execContextSaveComplete
  case parkWake => exact h.execParkWake
  case add | sub | and | or | xor | sll | srl | sra | slt | sltu | min | max | minu | maxu | mul | mulh | mulhu | div | divu |
      rem | remu | clz | ctz | popc | sextw | zextw | addsc | addi | andi | ori | xori | slti | sltiu | slli | srli | srai | lih
      | lihZ | bext | bins => exact h.finishReg
  case ldb | ldh | ldw | ldd | ldbu | ldhu | ldwu => exact h.loadOp
  case pref | nop | yield => exact h.finish
  case stb | sth | stw | std => exact h.storeOp
  case ldt => exact h.execLdt
  case stt => exact h.execStt
  case fadd | fsub | fmul | fdiv | fmin | fmax => exact h.fpRR
  case fsqrt | fma | fclass | fcvtDS | fcvtSD | fcvtSL | fcvtDL | fcvtSLu | fcvtDLu => exact h.fpDone
  case feq => exact h.execFeq
  case flt => exact h.execFlt
  case fle => exact h.execFle
  case fcvtLS | fcvtLD | fcvtLuS | fcvtLuD => exact h.cvtInt
  case beq => exact h.execBeq
  case bne => exact h.execBne
  case blt => exact h.execBlt
  case bge => exact h.execBge
  case bltu => exact h.execBltu
  case bgeu => exact h.execBgeu
  case beng => exact h.execBeng
  case jal => exact h.execJal
  case jalr => exact h.execJalr
  case svc => exact h.takeTrap
  case brk => exact h.trapHere
  case getc => exact h.execGetc
  case setc => exact h.execSetc
  case setcStatus => exact h.execSetcStatus
  case setcSflags => exact h.execSetcSflags
  case setcVcfg => exact h.execSetcVcfg
  case setcMxcfg => exact h.execSetcMxcfg
  case setcVresume => exact h.execSetcVresume
  case setcChainsrc => exact h.execSetcChainsrc
  case setcRrate => exact h.execSetcRrate
  case vacq => exact h.execVacq
  case sbarAcquire | sbarRelease | sbarFull => exact h.sbarOp
  case ldl => exact h.execLdl (_q := 0)
  case stc => exact h.execStc
  case amoAdd | amoMin | amoMax | amoMinu | amoMaxu | amoAnd | amoOr | amoXor | amoSwap | amoCas => exact h.amoOp
  case vsetcfg => exact h.execVsetcfg
  case vbegin => exact h.execVbegin
  case vnext => exact h.execVnext
  case vadd | vaddS | vsub | vsubS | vrsub | vrsubS | vmul | vmulS | vmulh | vmulhS | vmulhu | vmulhuS | vdiv | vdivS | vdivu |
      vdivuS | vrem | vremS | vremu | vremuS | vmin | vminS | vmax | vmaxS | vminu | vminuS | vmaxu | vmaxuS | vsadd | vsaddS |
      vssub | vssubS | vsaddu | vsadduS | vssubu | vssubuS => exact h.vIntOp
  case vand | vandS | vor | vorS | vxor | vxorS => exact h.vLogicOp
  case vnot => exact h.execVnot
  case vsll | vsllS | vsrl | vsrlS | vsra | vsraS => exact h.vShiftOp
  case vneg => exact h.execVneg
  case vmadd | vmaddS => exact h.vMaddOp
  case vclz => exact h.execVclz
  case vpopc => exact h.execVpopc
  case vwadd | vwaddS | vwmul | vwmulS => exact h.vWidenOp
  case vnsrl | vnsrlS | vnclip | vnclipS => exact h.vNarrowOp
  case vfieldS => exact h.execVfieldS
  case vfadd | vfaddS | vfsub | vfsubS | vfmul | vfmulS | vfdiv | vfdivS | vfmin | vfminS | vfmax | vfmaxS => exact h.vFltOp
  case vfsqrt | vlog2 | vexp2 => exact h.vFltUn
  case vfma | vfmaS => exact h.vFmaOp
  case vfcvt => exact h.execVfcvt
  case vfclass => exact h.execVfclass
  case vcmpeq | vcmpeqS | vcmpne | vcmpneS | vcmplt | vcmpltS | vcmpltu | vcmpltuS | vcmple | vcmpleS | vcmpleu | vcmpleuS =>
      exact h.vIntCmp
  case vfcmpeq | vfcmpeqS | vfcmplt | vfcmpltS | vfcmple | vfcmpleS => exact h.vFltCmp
  case mand => exact h.execMand
  case mor => exact h.execMor
  case mxor => exact h.execMxor
  case mandn => exact h.execMandn
  case mnot => exact h.execMnot
  case msbf | msif => exact h.vCutOp
  case mfirst => exact h.execMfirst
  case mcount => exact h.execMcount
  case viota => exact h.execViota
  case vsrch => exact h.execVsrch
  case vsrchr => exact h.execVsrchr
  case vtwr => exact h.execVtwr
  case vhamm => exact h.execVhamm
  case vtopkMax | vtopkMin => exact h.vTopkOp
  case vredsum => exact h.execVredsum
  case vredmax => exact h.execVredmax
  case vredmin => exact h.execVredmin
  case vredmaxu => exact h.execVredmaxu
  case vredminu => exact h.execVredminu
  case vredand => exact h.execVredand
  case vredor => exact h.execVredor
  case vredxor => exact h.execVredxor
  case vfredsum => exact h.execVfredsum
  case vmaxi | vmini => exact h.vBestOp
  case vgathr => exact h.execVgathr
  case vshup => exact h.execVshup
  case vshdn => exact h.execVshdn
  case vbcst => exact h.execVbcst
  case vext => exact h.execVext
  case vins => exact h.execVins
  case vcomp => exact h.execVcomp
  case vbperm => exact h.execVbperm
  case vmv => exact h.execVmv
  case vmvi => exact h.execVmvi
  case vmerge => exact h.execVmerge
  case vid => exact h.execVid
  case vld | vlds | vldx | vldff => exact h.vLoadOp
  case vst => exact h.execVst
  case vsts => exact h.execVsts
  case vstx => exact h.execVstx
  case vstxo => exact h.execVstxo
  case vappend => exact h.execVappend
  case vldl => exact h.execVldl
  case vstc => exact h.execVstc
  case vamo | vamoAcq | vamoRel | vamoAr => exact h.vamoOp
  case vwaitm => exact h.execVwaitm
  case vsclset => exact h.execVsclset
  case vbscale => exact h.execVbscale
  case vquant => exact h.execVquant
  case vdeq => exact h.execVdeq
  case vcbld => exact h.execVcbld
  case vcbx => exact h.execVcbx
  case vcvtl => exact h.execVcvtl
  case mxcfg => exact h.execMxcfg
  case mxtld => exact h.execMxtld
  case mxtsel => exact h.execMxtsel
  case mxr => exact h.execMxr
  case mxdrn => exact h.execMxdrn
  case mxdrs => exact h.execMxdrs
  case mxclr => exact h.execMxclr
  case mxfclr => exact h.execMxfclr
  case cpy | cpy2d | cpyg | cpyf => exact h.copyOp
  case cpyres => exact h.execCpyres
  case seminc => exact h.execSeminc
  case semset => exact h.execSemset
  case semwait => exact h.execSemwait
  case semrd => exact h.execSemrd
  case barinit => exact h.execBarinit
  case bararr => exact h.execBararr
  case barwait => exact h.execBarwait
  case vsend => exact h.execVsend
  case vchain => exact h.execVchain
  case spawn | spawnc => exact h.spawnOp
  case jdec => exact h.execJdec
  case lread => exact h.execLread
  case cflush => exact h.execCflush
  case cinv => exact h.execCinv
  case cpref => exact h.execCpref
  case tlbinv => exact h.execTlbinv
  case ubulkZero | ubulkCopy | ubulkAnd | ubulkOr | ubulkMaj3 | ubulkNot => exact h.ubulkOp
  case uwait => exact h.execUwait
  case hpost => exact h.execHpost
  case gsig => exact h.execGsig
  case collAllreduce | collRedscat | collAllgath | collBcast => exact h.collOp
  case collw => exact h.execCollw
  case fput | fget => exact h.xferOp
  case regionDrainDone => exact h.execRegionDrainDone
  case arrayTrap => exact h.execArrayTrap
  case recordPop => exact h.execRecordPop
  case resumeRecordPop => exact h.execResumeRecordPop
  case watchdog => exact h.execWatchdog
  case waitTimeout => exact h.execWaitTimeout
  case bayGrant => exact h.execBayGrant
  case mezzanineClaim => exact h.execMezzanineClaim
  case mxFifoWaitEnd => exact h.execMxFifoWaitEnd
  case sequencerSelect => exact h.execSequencerSelect
  case priorityPreemption => exact h.makeDue
  case sharePreemption => exact h.execSharePreemption
  case preemptionTaken => exact h.execPreemptionTaken
  case preemptForceLimit => exact h.execPreemptForceLimit
  case linkDeferLimit => exact h.execLinkDeferLimit
  case rowRetirement => exact h.execRowRetirement
  case usherScrub => exact h.execUsherScrub
  case copyQueueEntry => exact h.execCopyQueueEntry
  case copyStart => exact h.execCopyStart
  case fifoDelivery => exact h.execFifoDelivery
  case copyComplete => exact h.execCopyComplete
  case copyHalt => exact h.execCopyHalt
  case chainMessageArrival => exact h.execChainMessageArrival
  case portSpaceFree => exact h.execPortSpaceFree
  case spillRefill => exact h.execSpillRefill
  case counterReread => exact h.execCounterReread
  case hostPoll => exact h.execHostPoll
  case coreDisable => exact h.execCoreDisable
  case dieReset => exact h.execDieReset
  case dieBack => exact h.execDieBack
  case l2Fill => exact h.execL2Fill
  case lineEviction => exact h.execLineEviction
  case hashPartitionWrite => exact h.hashWritten
  case undercroftQueueEntry => exact h.execUndercroftQueueEntry
  case undercroftStart => exact h.execUndercroftStart
  case undercroftComplete => exact h.execUndercroftComplete
  case engineEntry => exact h.execEngineEntry
  case doorbell => exact h.execDoorbell
  case kernelNode => exact h.execKernelNode
  case kernelEmit => exact h.execKernelEmit
  case kernelDone => exact h.execKernelDone
  case copyNode => exact h.execCopyNode
  case copyNodeDone => exact h.execCopyNodeDone
  case condNode => exact h.execCondNode
  case condReread => exact h.execCondReread
  case hostpostNode => exact h.execHostpostNode
  case endNode => exact h.execEndNode
  case snapshotCopyDone => exact h.execSnapshotCopyDone
  case restoreDone => exact h.execRestoreDone
  case ringCtimeExpiry => exact h.execRingCtimeExpiry
  case hrcfgWrite => exact h.execHrcfgWrite
  case hrheadWrite => exact h.execHrheadWrite
  case w2baseWrite => exact h.execW2baseWrite
  case hostRegisterWrite => exact h.execHostRegisterWrite
  case hostMemoryRead => exact h.update
  case hostMemoryWrite => exact h.execHostMemoryWrite
  case powerSample => exact h.modUsher
  case spdmRequest => exact h.execSpdmRequest
  case packetForward => exact h.execPacketForward
  case nonminimalTimeout => exact h.modWaiting
  case suspectTimeout => exact h.execSuspectTimeout
  case tokenArrival => exact h.tokenArrives
  case frcfgWrite => exact h.frcfgWritten
  case packetDeliver => exact h.execPacketDeliver
  case nackReceive => exact h.nackFrom
  case ackReceive => exact h.ackFrom
  case resendTimeout => exact h.execResendTimeout
  case unreachableTimeout => exact h.execUnreachableTimeout
  case contributionArrival => exact h.execContributionArrival
  case collectiveEnd => exact h.execCollectiveEnd
  case transferEnd => exact h.execTransferEnd
  case hostCompletion => exact h.execHostCompletion
  case fabricPortTraining => exact h.execFabricPortTraining
  case hostPortTraining => exact h.execHostPortTraining
  case msixUnmask => exact h.execMsixUnmask
  case rets => exact h.execRets
  case endStrand => exact h.execEndStrand
  case wait => exact h.execWait
  case vrel => exact h.execVrel
  case mxwait => exact h.execMxwait
  case lossReport => exact h.execLossReport
  case submissionAccept => exact h.execSubmissionAccept
  case graphStart => exact h.execGraphStart
  case hubDieReset => exact h.hubResets
  case usherWatchdogExpiry => exact h.fatalStop
  case tenantTurnover | fundamentalReset => exact h.turnover
  case powerOn => exact h.execPowerOn
  case tokenRegeneration => exact h.execTokenRegeneration
  case stairMoveComplete => exact h.execStairMoveComplete

/-! ### Issue and the step -/

theorem MemoriesWf.issueBehind (h : MemoriesWf s) {w : BitVec 32} {run : State → Res} (hrun : ∀ u, MemoriesWf u → NextWf
    (run u)) :
    NextWf (Machine.issueBehind s w run) := by
  unfold Machine.issueBehind
  dsimp only
  split
  · exact h.blockOn
  · split
    · split
      · exact h.blockOn
      · exact ((hrun _ h.atIssue).next ‹_›).modStrand
    · exact hrun _ h.atIssue

theorem MemoriesWf.fetchBehind (h : MemoriesWf s) {run : BitVec 32 → State → Res} (hrun : ∀ x0 u, MemoriesWf u → NextWf
    (run x0 u)) :
    NextWf (Machine.fetchBehind s run) := by
  unfold Machine.fetchBehind
  split
  · exact h
  · split
    · exact h.blockOn
    · exact h.issueBehind (fun _ k => hrun _ _ k)

theorem MemoriesWf.headTurn (h : MemoriesWf s) {e : Held} {run : BitVec 32 → State → Res}
    (hrun : ∀ w u, MemoriesWf u → NextWf (run w u)) : NextWf (Machine.headTurn s e run) := by
  have admitted := h.admitEntry (id := s.cur) (w := e.word)
  unfold Machine.headTurn
  split
  · exact MemoriesWf.runHead (admitted.fst ‹_›) (hrun _)
  · exact admitted.fst ‹_›

theorem MemoriesWf.behindTurn (h : MemoriesWf s) {hx : Held} {run : BitVec 32 → State → Res} {park : State → Res}
    (hrun : ∀ x0 u, MemoriesWf u → NextWf (run x0 u)) (hpark : ∀ u, MemoriesWf u → NextWf (park u)) :
    NextWf (Machine.behindTurn s hx run park) := by
  unfold Machine.behindTurn
  split
  · dsimp only
    split
    · split
      · exact ((h.headTurn (fun _ _ k => hrun _ _ k)).next ‹_›).fetchBehind (fun _ _ k => hrun _ _ k)
      · exact hpark _ ((h.headTurn (fun _ _ k => hrun _ _ k)).next ‹_›)
      · exact (h.headTurn (fun _ _ k => hrun _ _ k)).next ‹_›
    · exact (h.headTurn (fun _ _ k => hrun _ _ k)).next ‹_›
  · exact h.headTurn (fun _ _ k => hrun _ _ k)

theorem MemoriesWf.countHolds {old : Strand} {id : Nat} {a : Res} (ha : NextWf a) : NextWf (Machine.countHolds old id a) := by
  unfold Machine.countHolds
  split
  · split
    · exact ha.modStrand
    · exact ha
  · exact ha

theorem MemoriesWf.runEntry (h : MemoriesWf s) {w : BitVec 32} : NextWf (Machine.runEntry s w) := by
  unfold Machine.runEntry
  split
  · split
    · exact (h.admitEntry.fst ‹_›).exec
    · exact h.admitEntry.fst ‹_›

theorem MemoriesWf.issueWord (h : MemoriesWf s) {w : BitVec 32} : NextWf (Machine.issueWord s w) := by
  unfold Machine.issueWord
  split
  · split
    · exact ((h.admitEntry.fst ‹_›).atIssue).exec
    · exact h.admitEntry.fst ‹_›

theorem MemoriesWf.entryTurn (h : MemoriesWf s) {hx : Held} : NextWf (Machine.entryTurn s hx) := by
  unfold Machine.entryTurn
  dsimp only
  split
  · exact h.behindTurn (fun _ _ k => k.exec) (fun _ k => k.exec)
  · exact MemoriesWf.countHolds h.runEntry

theorem MemoriesWf.strandStep (h : MemoriesWf s) : NextWf (Machine.strandStep s) := by
  unfold Machine.strandStep
  dsimp only
  split
  · exact h
  · split
    · exact h.exec
    · split
      · split
        · split
          · exact h.entryTurn
          · split
            · exact h.fetch_trap ‹_›
            · exact h.issueWord
        · exact h.exec
      · exact h.exec
      · split
        · exact h.entryTurn
        · split <;> exact h.exec
      · split
        · split
          · exact h.entryTurn
          · exact h.exec
        · exact h.exec
      · exact h
      · exact h

theorem MemoriesWf.outside (h : MemoriesWf s) {m : Move} : MemoriesWf (Machine.outside m s) := by
  cases m
  case hostStore => exact h.hostWrite _ _ _
  case packetIn => exact h.packetArrives
  case otherTlpIn => exact h.otherTlpArrives
  case contributionIn => exact h.contributionArrives
  case routeIn => exact h.routeWritten
  case memoryError => exact h.lineFails
  case symbolErrors => exact h.readFindsSymbols
  case queueError => exact h.queueFails
  case poolError => exact h.poolFails
  case stackFault => exact h.stackFaults
  case clusterFault => exact h.clusterFaults
  case hubFault => exact h.hubFaults
  case laneWindow => exact h.laneWindow
  case stackFails => exact h.stackFails
  case columnFails => exact h.columnFails
  case mezzFails => exact h.mezzFails
  case imageFails => exact h.imageFails
  case usherPreempts => exact h.usherPreempts
  case usherOpens => exact h.usherOpens
  case usherWrites => exact h.usherWrites
  case dumpSection => exact h.writeSection
  case msixMask => exact h.msixMask
  case registerRead => exact h.registerRead
  case nodeRefused => exact h.nodeRefused
  case peerFault => exact h.peerFaults
  case spdmVersions => exact h.spdmVersions
  case spdmChain => exact h.spdmChain
  case codedError => exact h.codedFails
  case correctedError => exact h.errorCorrected
  case tlbFill => exact h.tlbFills
  case tlbDrop => exact h.tlbDrops
  case atriumError => exact h.atriumFails
  case parityError => exact h.parityFails
  case run | event => exact h

theorem MemoriesWf.step (h : MemoriesWf s) : NextWf (Machine.step s) := by
  unfold Machine.step
  split
  · exact h.strandStep
  · dsimp only
    split
    · exact h.update
    · split
      · exact h.update.strandStep
      · exact h.update.exec
      · exact h.update.outside

/-- Settles O60: a step keeps the form, and what it answers as the next state is that state. -/
theorem stepKeepsMemories : Obligations.StepKeepsMemories := by
  unfold Obligations.StepKeepsMemories
  intro s t h stepped
  exact h.step.next stepped

end Sys2Proof.Machine
end

namespace Sys2Proof.Machine

/-! ## SVC and BRK (R95) -/

/-- Settles O6: both are the entry of a trap, and nothing else. -/
theorem svcAndBrkTrap : Obligations.SvcAndBrkTrap := by
  intro s k
  exact ⟨completes_takeTrap s _ _ _ _ rfl, completes_takeTrap s _ _ _ _ rfl⟩

/-! ## Division (R83) -/

theorem abs_tmod_lt {x y : Int} (divisor : y ≠ 0) : |x.tmod y| < |y| := by
  rw [Int.abs_eq_natAbs, Int.abs_eq_natAbs, Int.natAbs_tmod]
  exact_mod_cast Nat.mod_lt _ (Int.natAbs_pos.2 divisor)

theorem tmod_mul_self_nonneg (x y : Int) : 0 ≤ x.tmod y * x := by
  rcases le_total 0 x with sign | sign
  · exact mul_nonneg (Int.tmod_nonneg y sign) sign
  · have opposite := Int.tmod_nonneg y (neg_nonneg.2 sign)
    rw [Int.neg_tmod] at opposite
    exact mul_nonneg_of_nonpos_of_nonpos (neg_nonneg.1 opposite) sign

/-- R83: where the quotient is representable it is rounded toward zero, and the remainder has the sign of the dividend. -/
theorem quotS_remS {x y : Int} (divisor : y ≠ 0) (fits : ¬ (x = -2 ^ 63 ∧ y = -1)) :
    x = quotS 64 x y * y + remS x y ∧ |remS x y| < |y| ∧ 0 ≤ remS x y * x := by
  have quotient : quotS 64 x y = x.tdiv y := by
    rw [quotS, if_neg divisor]
    exact if_neg fits
  have remainder : remS x y = x.tmod y := if_neg divisor
  rw [quotient, remainder]
  exact ⟨(Int.tdiv_mul_add_tmod x y).symm, abs_tmod_lt divisor, tmod_mul_self_nonneg x y⟩

/-- Settles O2: each of the four instructions applies its function to its operands, in every case of the divisor. -/
theorem divisionCorners : Obligations.DivisionCorners := by
  intro s a b c x y hx hy
  have div : Writes s (.div a b c) a (wordOfInt (quotS 64 x.toInt y.toInt)) :=
    writes_aluRR (r := execDiv a b c s) rfl rfl hx hy rfl
  have rem : Writes s (.rem a b c) a (wordOfInt (remS x.toInt y.toInt)) :=
    writes_aluRR (r := execRem a b c s) rfl rfl hx hy rfl
  have divu : Writes s (.divu a b c) a (BitVec.ofNat 64 (quotU 64 x.toNat y.toNat)) :=
    writes_aluRR (r := execDivu a b c s) rfl rfl hx hy rfl
  have remu : Writes s (.remu a b c) a (BitVec.ofNat 64 (remU x.toNat y.toNat)) :=
    writes_aluRR (r := execRemu a b c s) rfl rfl hx hy rfl
  refine ⟨fun divisor fits => ?_, fun zero positive => ?_, fun zero negative => ?_, fun zero none => ?_,
    fun least minusOne => ⟨?_, ?_⟩, fun zero => ⟨?_, ?_, ?_⟩, fun divisor => ⟨?_, ?_⟩⟩
  · obtain ⟨exact', below, sign⟩ := quotS_remS (fun e => divisor (BitVec.eq_of_toInt_eq e)) fits
    exact ⟨_, _, exact', below, sign, div, rem⟩
  · simpa [zero, quotS, positive, sBounds, wordOfInt] using div
  · simpa [zero, quotS, negative, not_lt_of_gt negative, sBounds, wordOfInt] using div
  · simpa [zero, none, quotS, wordOfInt] using div
  · simpa [least, minusOne, quotS, sBounds, wordOfInt] using div
  · simpa [least, minusOne, remS, wordOfInt] using rem
  · simpa [zero, remS, wordOfInt] using rem
  · simpa [zero, remU] using remu
  · by_cases none : x = 0
    · simpa [zero, none, quotU] using divu
    · have nonzero : x.toNat ≠ 0 := fun e => none (BitVec.eq_of_toNat_eq e)
      rw [if_neg none]
      simpa [zero, quotU, nonzero] using divu
  · have nonzero : y.toNat ≠ 0 := fun e => divisor (BitVec.eq_of_toNat_eq e)
    simpa [quotU, nonzero] using divu
  · have nonzero : y.toNat ≠ 0 := fun e => divisor (BitVec.eq_of_toNat_eq e)
    simpa [remU, nonzero] using remu

end Sys2Proof.Machine
namespace Sys2Proof.Machine

/-- R80: STATUS of a slot that has been reset holds its core and its slot, and NOBAYS alone of the other fields. -/
theorem reset_status {id : Nat} (slot : id < 2048) :
    fld (Strand.reset id).status 23 9 = coreIdx id ∧ fld (Strand.reset id).status 21 2 = slotIdx id ∧
    fld (Strand.reset id).status 0 21 = 4 := by
  simp only [Strand.reset, fld, bitsOf, BitVec.toNat_ofNat, coreIdx, slotIdx]
  omega

/-- R343: after a health test in which no unit failed the device is in service if its images are loaded, and every slot is FREE. -/
theorem turnover_sound {s : State} (sound : unfitUnits (healthTest s).pkg.usher = []) :
    (turnover s).agenda = (healthTest s).agenda ∧ (turnover s).pkg.bringUp = (healthTest s).pkg.usher.unloaded ∧
    (turnover s).pkg.fit = !(healthTest s).pkg.usher.unloaded ∧ ∀ id, (strandOf (turnover s) id).slot = .free := by
  unfold turnover
  generalize healthTest s = h at sound ⊢
  simp only [sound, List.foldl_nil, List.isEmpty_nil, Bool.true_and]
  exact ⟨trivial, trivial, trivial, fun id => rfl⟩

/-- R345: the package as it is when its Usher boots. -/
def booted : State := { State.reset with agenda := [], pkg := { Package.reset with usher := bootUsher Usher.reset } }

theorem healthTest_booted : unfitUnits (healthTest booted).pkg.usher = [] ∧ (healthTest booted).pkg.usher.unloaded = false ∧
    (healthTest booted).agenda.isEmpty = true := by decide +kernel

/-- Settles O59: the fields of the reset state are read off; its first step is the turnover of the booted package, whose health test
finds no unit to have failed. -/
theorem resetAndInvariant : Obligations.ResetAndInvariant := by
  obtain ⟨sound, loaded, last⟩ := healthTest_booted
  obtain ⟨agenda, bringUp, fit, free⟩ := turnover_sound sound
  rw [loaded] at bringUp fit
  exact ⟨rfl, rfl, rfl, rfl, memoriesWf_reset, fun id slot => ⟨rfl, reset_status slot⟩, by decide, by decide, by decide, by decide,
    fun d _ => ⟨rfl, rfl, rfl⟩, fun n => ⟨rfl, rfl, rfl⟩, fun c b => rfl, rfl, rfl, turnover booted, rfl,
    agenda.trans (List.isEmpty_iff.1 last), bringUp, fit, free⟩
end Sys2Proof.Machine

namespace Sys2Proof.Machine

/-! ## The TCM (R88, R205) -/

/-- R88: the physical offset of an access, by the three areas. -/
theorem tcmAddr_eq_some {slot : Nat} {sup : Bool} {t : Int} {p : Nat} :
    tcmAddr slot sup t = some p ↔ (0 ≤ t ∧ t < 0x3C000 ∧ (p : Int) = t) ∨
      (-4096 ≤ t ∧ t < 0 ∧ (p : Int) = 0x3C000 + 0x1000 * slot + (t + 4096)) ∨
      (0x3C000 ≤ t ∧ t < 0x40000 ∧ sup = true ∧ (p : Int) = t) := by
  unfold tcmAddr
  split
  · simp only [Option.some.injEq]
    omega
  · split
    · simp only [Option.some.injEq]
      omega
    · split
      · rename_i area
        simp only [Option.some.injEq, area.2.2, true_and]
        omega
      · rename_i area
        simp only [reduceCtorEq, false_iff]
        rintro (h | h | h)
        · omega
        · omega
        · exact area ⟨h.1, h.2.1, h.2.2.1⟩

section
variable {s : State} {w : Word} {k : Nat → State}

theorem tcmThen_misaligned (h : w.toNat % 8 ≠ 0) : tcmThen s w k = trapHere s s.cur cMISALIGN w := if_pos h

theorem tcmThen_outside (h : w.toNat % 8 = 0) (out : tcmAddr (slotIdx s.cur) (stSuper (strandOf s s.cur)) w.toInt = none) :
    tcmThen s w k = trapHere s s.cur cACCESS w := by
  rw [tcmThen, if_neg (not_not.2 h), out]

theorem tcmThen_inside {p : Nat} (h : w.toNat % 8 = 0)
    (inside : tcmAddr (slotIdx s.cur) (stSuper (strandOf s s.cur)) w.toInt = some p) (free : streamHeld s s.cur 0 [none] = false) :
    tcmThen s w k = k p := by
  simp only [tcmThen, h, inside, free]
  rfl

end

/-- Settles O10: the address is one of the three areas or none, and a store writes its eight bytes of the core's TCM. -/
theorem tcmAccesses : Obligations.TcmAccesses := by
  intro s a b i w hw
  have address : addrOf s b i = w := hw.symm
  have ldt : exec (.ldt a b i) s = .next (tcmThen s w fun p => finishReg s s.cur a (tcmRead s p)) := by rw [← address]; rfl
  have stt : exec (.stt a b i) s = .next (tcmThen s w fun p => finish (tcmWrite s p (reg s s.cur a)) s.cur) := by
    rw [← address]; rfl
  refine ⟨fun odd => ⟨?_, ?_⟩, fun even out => ?_, fun p even inside free => ?_⟩
  · exact trapsHere_of s _ _ _ (by rw [ldt, tcmThen_misaligned odd])
  · exact trapsHere_of s _ _ _ (by rw [stt, tcmThen_misaligned odd])
  · have none : tcmAddr (slotIdx s.cur) (stSuper (strandOf s s.cur)) w.toInt = none :=
      Option.eq_none_iff_forall_ne_some.2 fun p h => out ⟨p, tcmAddr_eq_some.1 h⟩
    exact ⟨trapsHere_of s _ _ _ (by rw [ldt, tcmThen_outside even none]), trapsHere_of s _ _ _ (by rw [stt, tcmThen_outside even none])⟩
  · have at' : tcmAddr (slotIdx s.cur) (stSuper (strandOf s s.cur)) w.toInt = some p := tcmAddr_eq_some.2 inside
    refine ⟨writes_of s _ _ _ (by rw [ldt, tcmThen_inside even at' free, tcmRead]), fun wf => ?_⟩
    rw [stt, tcmThen_inside even at' free]
    have core : coreOf (finish (tcmWrite s p (reg s s.cur a)) s.cur) (coreIdx s.cur) = { coreOf s (coreIdx s.cur) with
        tcm := cellsWrite (coreOf s (coreIdx s.cur)).tcm p 8 (reg s s.cur a).toNat } := coreOf_setCore ..
    refine ⟨_, rfl, strandOf_finish .., fun c hc => coreOf_setCore_ne _ _ _ _ hc, by rw [core], ?_, fun q hq => ?_,
      rfl, rfl, rfl, rfl, rfl, fun j hj => strandOf_modStrand_ne _ _ _ _ hj⟩
    · rw [core, cellsRead_cellsWrite _ _ _ _ wf]
      exact Nat.mod_eq_of_lt (reg s s.cur a).isLt
    · rw [core]
      exact cellsGet_cellsWrite_ne _ _ _ _ _ wf hq

end Sys2Proof.Machine

namespace Sys2Proof.Machine

/-! ## Where an access goes, within its line (R85, R291) -/

theorem translate_coded_aligned {s : State} {ag : Agent} {write : Bool} {a : Word} {r o : Nat} {sl : Bool}
    (h : translate s ag write a = .ok (.coded r o sl)) : o % 8 = a.toNat % 8 := by
  unfold translate at h
  split at h
  · cases h
  split at h
  · cases h
  split at h
  · cases h
  · rename_i p walked
    split at h
    · cases h
    · have offset : p.addr = o := by
        have target := Except.ok.inj h
        unfold pageTarget at target
        split at target
        · exact (Target.coded.inj target).2.1
        · split at target <;> cases target
      have low := pageWalk_low walked
      have bits : va48 a = a.toNat % 2 ^ 48 := by simp [va48, fld, bitsOf]
      omega

/-- The sizes of a scalar access. -/
def ScalarSize (n : Nat) : Prop := n = 1 ∨ n = 2 ∨ n = 4 ∨ n = 8

/-- An aligned access lies within one line. -/
theorem translate_inLine {s : State} {ag : Agent} {write : Bool} {a : Word} {n : Nat} {q : Target} (size : ScalarSize n)
    (aligned : a.toNat % n = 0) (h : translate s ag write a = .ok q) : InLine q n := by
  cases q with
  | atrium o => trivial
  | host b => trivial
  | phys k sl =>
    have low := translate_aligned h
    show k % 64 + n ≤ 64
    rcases size with rfl | rfl | rfl | rfl <;> omega
  | coded r o sl =>
    have low := translate_coded_aligned h
    show o % 64 + n ≤ 64
    rcases size with rfl | rfl | rfl | rfl <;> omega

/-! ## Why an access is refused (R293, R294) -/

/-- R293, R294: the causes of translation. -/
def TranslationCause (c : Nat) : Prop := c = cPAGE_FAULT ∨ c = cACCESS ∨ c = cMEM_UE

theorem walk_cause {s : State} {va fuel table : Nat} {f : XFault} (h : walk s va fuel table = .error f) : TranslationCause f.cause := by
  induction fuel generalizing table with
  | zero => cases h; exact .inl rfl
  | succ level ih =>
    rw [walk] at h
    dsimp only at h
    split at h
    · cases h; exact .inl rfl
    split at h
    · cases h; exact .inr (.inr rfl)
    split at h
    · cases h; exact .inl rfl
    split at h
    · split at h
      · cases h; exact .inl rfl
      · cases h
    split at h
    · cases h; exact .inl rfl
    · exact ih h

theorem pageWalk_cause {s : State} {units : List Nat} {ctx va : Nat} {f : XFault} (h : pageWalk s units ctx va = .error f) :
    TranslationCause f.cause := by
  rw [pageWalk] at h
  split at h
  · rw [tableWalk] at h
    split at h
    · cases h; exact .inl rfl
    split at h
    · cases h; exact .inl rfl
    · exact walk_cause h
  · split at h
    · cases h; exact .inl rfl
    split at h
    · cases h
    · exact walk_cause h

theorem translate_cause {s : State} {ag : Agent} {write : Bool} {a : Word} {f : XFault} (h : translate s ag write a = .error f) :
    TranslationCause f.cause := by
  unfold translate at h
  split at h
  · cases h
  split at h
  · cases h; exact .inl rfl
  split at h
  · rename_i walked
    cases h
    exact pageWalk_cause walked
  · split at h
    · cases h; exact .inr (.inl rfl)
    · cases h

/-- R86: TVAL of what translation refuses is the address itself. -/
theorem TranslationCause.faultAddr {c : Nat} (h : TranslationCause c) (a : Word) : faultAddr c a = a := by
  obtain rfl | rfl | rfl := h <;> rfl

theorem noteFault_eq (s : State) (f : XFault) : noteFault s f = { s with pkg := (noteFault s f).pkg } := by
  unfold noteFault addReportOnce
  split
  · rfl
  · split <;> rfl

/-! ## What a scalar read does -/

section
variable {s : State} {q : Target} {n : Nat} {p : Word}

/-- R224, R302: what a read leaves: coded lines filled, sequence numbers taken, and the host's answer used. -/
structure ReadLeaves (s : State) (id : Nat) (q : Target) (u : State) : Prop extends ReadOnly id s u where
  memory : u.mem = (targetFill s q).mem
  pkg : u.pkg = (targetFill s q).pkg

theorem loadTarget_ok {id stream cls : Nat} (good : targetBad s (clusterIdx id) q n = false)
    (home : unreachableTarget s (sidOf id stream) q = false) (answered : ∀ h, q = .host h → (strandOf s id).hostAnswer = some true) :
    ∃ u, loadTarget s id stream cls q n = .ok (targetRead s (clusterIdx id) q n) u ∧ ReadLeaves s id q u := by
  unfold loadTarget
  rw [good, home, Bool.or_self, if_neg Bool.false_ne_true]
  cases q with
  | host h =>
    dsimp only
    rw [answered h rfl]
    exact ⟨_, rfl, readOnly_hostAnswer s id none, rfl, rfl⟩
  | atrium o => exact ⟨_, rfl, readOnly_noteRemote .., by rw [noteRemote_eq], by rw [noteRemote_eq]⟩
  | phys k sl => exact ⟨_, rfl, readOnly_noteRemote .., by rw [noteRemote_eq], by rw [noteRemote_eq]⟩
  | coded r o sl =>
    exact ⟨_, rfl, (readOnly_targetFill s id _).trans (readOnly_noteRemote ..), by rw [noteRemote_eq], by rw [noteRemote_eq]⟩

theorem scalarRead_reaches (h : Reaches s false p n q) : scalarRead s s.cur p n = loadTarget s s.cur 0 0 q n := by
  simp only [scalarRead, h.aligned, h.mapped, h.free]
  rfl

theorem scalarWrite_reaches {v : Nat} (h : Reaches s true p n q) : scalarWrite s s.cur p n v =
    if nonfiniteWrite s q n v then .fault cCODED_NONFINITE s
    else .ok () (noteRemote (targetWrite s (clusterIdx s.cur) (strandOf s s.cur).tag q n v) s.cur 0 1 q v) := by
  simp only [scalarWrite, h.aligned, h.mapped, h.free, storeTarget, h.home]
  rfl

theorem scalarRead_misaligned (h : p.toNat % n ≠ 0) : scalarRead s s.cur p n = .fault cMISALIGN s := if_pos h

theorem scalarWrite_misaligned {v : Nat} (h : p.toNat % n ≠ 0) : scalarWrite s s.cur p n v = .fault cMISALIGN s := if_pos h

theorem scalarRead_refused {f : XFault} (aligned : p.toNat % n = 0) (h : translate s (agentOf s s.cur) false p = .error f) :
    scalarRead s s.cur p n = .fault f.cause (noteFault s f) := by
  simp only [scalarRead, aligned, h]
  rfl

theorem scalarWrite_refused {v : Nat} {f : XFault} (aligned : p.toNat % n = 0)
    (h : translate s (agentOf s s.cur) true p = .error f) : scalarWrite s s.cur p n v = .fault f.cause (noteFault s f) := by
  simp only [scalarWrite, aligned, h]
  rfl

end

/-! ## Loads (R85, R86) -/

theorem putReg_hostAnswer_comm (t : Strand) (h : Option Bool) (r : BitVec 5) (v : Word) :
    putReg { t with hostAnswer := h } r v = { putReg t r v with hostAnswer := h } := by
  unfold putReg
  split <;> rfl

/-- A read goes on by writing a register: outside memory and the fabric only the strand has changed. -/
theorem ReadOnly.onlyAccess {s u : State} (h : ReadOnly s.cur s u) (a : BitVec 5) (v : Word) :
    OnlyAccess s (finishReg u s.cur a v) ∧ (finishReg u s.cur a v).clusters = s.clusters ∧
      strandOf (finishReg u s.cur a v) s.cur = past (putReg (strandOf s s.cur) a v) := by
  have rest := h.rest
  obtain ⟨answer, strand⟩ := h.strand
  refine ⟨⟨by rw [finishReg_agenda, rest], by rw [finishReg_cur, rest], by rw [finishReg_cores, rest],
    by rw [finishReg_dies, rest], by rw [finishReg_free, rest], fun j hj => ?_⟩, by rw [finishReg_clusters, rest], ?_⟩
  · rw [finishReg, finish, setReg, strandOf_modStrand_ne _ _ _ _ hj, strandOf_modStrand_ne _ _ _ _ hj, h.others j hj]
  · rw [strandOf_finishReg, strand, putReg_hostAnswer_comm]
    rfl

theorem signBytes_eq {n : Nat} (v : Nat) : signBytes n v = (BitVec.ofNat (8 * n) v).signExtend 64 := by
  rw [signBytes, wordOfInt, BitVec.signExtend]
  congr 1

section
variable {s : State} {a b : BitVec 5} {i : BitVec 13} {p : Word} {n : Nat} {f g : Nat → Word} {x : Instr} {q : Target}

/-- R85, R224: a load that reaches a good target. -/
theorem load_completes (run : exec x s = loadOp s a b i n f) (hp : p = reg s s.cur b + i.signExtend 64) (same : ∀ v, f v = g v)
    (h : Reaches s false p n q) (good : targetBad s (clusterIdx s.cur) q n = false) (answered : HostAnswered s q) :
    ∃ t : State, exec x s = .next t ∧ OnlyAccess s t ∧ t.clusters = s.clusters ∧ t.mem = (targetFill s q).mem ∧
      t.pkg = (targetFill s q).pkg ∧
      strandOf t s.cur = past (putReg (strandOf s s.cur) a (g (targetRead s (clusterIdx s.cur) q n))) := by
  obtain ⟨u, read, left⟩ := loadTarget_ok (cls := 0) good h.home answered
  obtain ⟨only, clusters, strand⟩ := left.toReadOnly.onlyAccess a (f (targetRead s (clusterIdx s.cur) q n))
  have at' : addrOf s b i = p := hp.symm
  rw [run, loadOp, at', scalarRead_reaches h, read, scalarThen]
  exact ⟨_, rfl, only, clusters, left.memory, left.pkg, by rw [strand, same]⟩

theorem load_misaligned (run : exec x s = loadOp s a b i n f) (hp : p = reg s s.cur b + i.signExtend 64) (h : p.toNat % n ≠ 0) :
    TrapsHere s x cMISALIGN p := by
  have at' : addrOf s b i = p := hp.symm
  exact trapsHere_of s _ _ _ (by rw [run, loadOp, at', scalarRead_misaligned h]; rfl)

/-- R86, R293: an access that is refused traps with its address; a malformed entry is reported. -/
theorem refused_traps {c : XFault} (run : exec x s = .next (trapHere (noteFault s c) s.cur c.cause (faultAddr c.cause p)))
    (cause : TranslationCause c.cause) : ∃ t : State, exec x s = .next t ∧
      strandOf t s.cur = trapped c.cause p (pcOf s) (strandOf s s.cur) ∧ t.mem = s.mem ∧ t.clusters = s.clusters := by
  rw [cause.faultAddr, noteFault_eq] at run
  exact ⟨_, run, strandOf_takeTrap .., trapHere_mem .., trapHere_clusters ..⟩

theorem load_refused {c : XFault} (run : exec x s = loadOp s a b i n f) (hp : p = reg s s.cur b + i.signExtend 64)
    (aligned : p.toNat % n = 0) (h : translate s (agentOf s s.cur) false p = .error c) : ∃ t : State, exec x s = .next t ∧
      strandOf t s.cur = trapped c.cause p (pcOf s) (strandOf s s.cur) ∧ t.mem = s.mem ∧ t.clusters = s.clusters := by
  have at' : addrOf s b i = p := hp.symm
  exact refused_traps (by rw [run, loadOp, at', scalarRead_refused aligned h]; rfl) (translate_cause h)

theorem load_bad (run : exec x s = loadOp s a b i n f) (hp : p = reg s s.cur b + i.signExtend 64) (h : Reaches s false p n q)
    (bad : targetBad s (clusterIdx s.cur) q n = true) : TrapsHere s x cMEM_UE p := by
  have at' : addrOf s b i = p := hp.symm
  have faults : loadTarget s s.cur 0 0 q n = .fault cMEM_UE s := if_pos (by rw [bad, Bool.true_or])
  exact trapsHere_of s _ _ _ (by rw [run, loadOp, at', scalarRead_reaches h, faults]; rfl)

/-! ## Stores (R85, R86, R304) -/

theorem store_misaligned (run : exec x s = storeOp s a b i n) (hp : p = reg s s.cur b + i.signExtend 64) (h : p.toNat % n ≠ 0) :
    TrapsHere s x cMISALIGN p := by
  have at' : addrOf s b i = p := hp.symm
  exact trapsHere_of s _ _ _ (by rw [run, storeOp, at', scalarWrite_misaligned h]; rfl)

theorem store_refused {c : XFault} (run : exec x s = storeOp s a b i n) (hp : p = reg s s.cur b + i.signExtend 64)
    (aligned : p.toNat % n = 0) (h : translate s (agentOf s s.cur) true p = .error c) : ∃ t : State, exec x s = .next t ∧
      strandOf t s.cur = trapped c.cause p (pcOf s) (strandOf s s.cur) ∧ t.mem = s.mem ∧ t.clusters = s.clusters := by
  have at' : addrOf s b i = p := hp.symm
  exact refused_traps (by rw [run, storeOp, at', scalarWrite_refused aligned h]; rfl) (translate_cause h)

theorem store_nonfinite (run : exec x s = storeOp s a b i n) (hp : p = reg s s.cur b + i.signExtend 64)
    (h : Reaches s true p n q) (bad : nonfiniteWrite s q n ((reg s s.cur a).toNat % 2 ^ (8 * n)) = true) :
    TrapsHere s x cCODED_NONFINITE (p &&& ~~~7) := by
  have at' : addrOf s b i = p := hp.symm
  exact trapsHere_of s _ _ _ (by rw [run, storeOp, at', scalarWrite_reaches h, if_pos bad]; rfl)

/-- A write to a target leaves every strand, core and die alone, and takes no turn. -/
theorem targetWrite_frame (s : State) (cl tag : Nat) (t : Target) (n v : Nat) :
    (targetWrite s cl tag t n v).agenda = s.agenda ∧ (targetWrite s cl tag t n v).cur = s.cur ∧
      (targetWrite s cl tag t n v).free = s.free := by
  cases t with
  | atrium o => exact ⟨rfl, rfl, rfl⟩
  | phys k sl =>
    simp only [targetWrite, breakLine, storeLine]
    split <;> exact ⟨rfl, rfl, rfl⟩
  | coded r o sl =>
    have rest := fillCoded_rest s r (o / 64) sl
    simp only [targetWrite, breakLine]
    rw [rest]
    exact ⟨rfl, rfl, rfl⟩
  | host a => exact ⟨rfl, rfl, rfl⟩

/-- R214: a write to a target leaves no link or watch on its line, and adds none. -/
theorem targetWrite_tags {cl tag v : Nat} {e : TagEntry} (h : e ∈ (targetWrite s cl tag q n v).mem.tags) :
    e ∈ s.mem.tags ∧ (∀ k sl, q = .phys k sl → e.line ≠ .phys (k / 64)) ∧ ∀ g o sl, q = .coded g o sl → e.line ≠ .coded g (o / 64) := by
  have broken : ∀ (u : State) (k : LineKey), u.mem.tags = s.mem.tags → e ∈ (breakLine u k).mem.tags → e ∈ s.mem.tags ∧ e.line ≠ k :=
    fun u k same he => by
      obtain ⟨listed, other⟩ := List.mem_filter.1 he
      exact ⟨same ▸ listed, by simpa using other⟩
  cases q with
  | atrium o => exact ⟨h, nofun, nofun⟩
  | host a => exact ⟨h, nofun, nofun⟩
  | phys k sl =>
    obtain ⟨listed, other⟩ := broken _ _ (by rw [storeLine]; split <;> rfl) h
    refine ⟨listed, fun k' sl' same => ?_, nofun⟩
    cases same
    exact other
  | coded r o sl =>
    obtain ⟨listed, other⟩ := broken _ _ (by rw [fillCoded_mem]) h
    refine ⟨listed, nofun, fun g' o' sl' same => ?_⟩
    cases same
    exact other

/-- R214, R304: what the write of a target is to the rest of the machine. -/
theorem store_completes {v : Nat} (run : exec x s = storeOp s a b i n) (size : ScalarSize n) (wf : MemoriesWf s)
    (hp : p = reg s s.cur b + i.signExtend 64) (h : Reaches s true p n q) (plain : Plain s q)
    (hv : v = (reg s s.cur a).toNat % 2 ^ (8 * n)) (finite : nonfiniteWrite s q n v = false) :
    ∃ t : State, exec x s = .next t ∧ OnlyAccess s t ∧ strandOf t s.cur = past (strandOf s s.cur) ∧ Stored s t q n v ∧
      ∀ e ∈ t.mem.tags, e ∈ s.mem.tags ∧ (∀ k sl, q = .phys k sl → e.line ≠ .phys (k / 64)) ∧
        ∀ g o sl, q = .coded g o sl → e.line ≠ .coded g (o / 64) := by
  have at' : addrOf s b i = p := hp.symm
  have inLine := translate_inLine size h.aligned h.mapped
  obtain ⟨strands, cores⟩ := targetWrite_sides s (clusterIdx s.cur) (strandOf s s.cur).tag q n v
  obtain ⟨dies, -⟩ := targetWrite_dies_net s (clusterIdx s.cur) (strandOf s s.cur).tag q n v
  obtain ⟨agenda, cur, free⟩ := targetWrite_frame s (clusterIdx s.cur) (strandOf s s.cur).tag q n v
  have back := targetRead_targetWrite s (clusterIdx s.cur) (strandOf s s.cur).tag q n v wf plain inLine
  have others := fun c r => targetRead_targetWrite_ne s (clusterIdx s.cur) (strandOf s s.cur).tag q n v c r wf plain inLine
  have tags := fun e => targetWrite_tags (s := s) (q := q) (n := n) (cl := clusterIdx s.cur) (tag := (strandOf s s.cur).tag)
    (v := v) (e := e)
  rw [run, storeOp, at', ← hv, scalarWrite_reaches h, finite, if_neg Bool.false_ne_true, scalarThen, noteRemote_eq]
  generalize targetWrite s (clusterIdx s.cur) (strandOf s s.cur).tag q n v = w at *
  refine ⟨_, rfl, ⟨agenda, cur, cores, dies, free, fun j hj => ?_⟩, ?_, ⟨?_, others⟩, tags⟩
  · exact (strandOf_modStrand_ne _ _ _ _ hj).trans (strandOf_congr strands j)
  · exact (strandOf_finish ..).trans (congrArg past (strandOf_congr strands s.cur))
  · refine Eq.trans back (Nat.mod_eq_of_lt ?_)
    rw [hv]
    exact Nat.mod_lt _ (by positivity)

end

/-- Settles O8: each load and store is its access with its size, and filling a line changes no byte. -/
theorem scalarAccesses : Obligations.ScalarAccesses := by
  refine ⟨fun s a b i p hp => ?_, fun s g o sl c r same => targetRead_fillCoded s g o sl c r 1 same, fun s a b i p wf hp => ?_⟩
  · exact ⟨fun q => load_completes (f := signBytes 1) rfl hp signBytes_eq, fun q => load_completes (f := signBytes 2) rfl hp signBytes_eq,
      fun q => load_completes (f := signBytes 4) rfl hp signBytes_eq, fun q => load_completes (f := BitVec.ofNat 64) rfl hp fun _ => rfl,
      fun q => load_completes (f := BitVec.ofNat 64) rfl hp fun _ => rfl,
      fun q => load_completes (f := BitVec.ofNat 64) rfl hp fun _ => rfl,
      fun q => load_completes (f := BitVec.ofNat 64) rfl hp fun _ => rfl⟩
  · have one : ScalarSize 1 := .inl rfl
    have two : ScalarSize 2 := .inr (.inl rfl)
    have four : ScalarSize 4 := .inr (.inr (.inl rfl))
    have eight : ScalarSize 8 := .inr (.inr (.inr rfl))
    exact ⟨fun q v => store_completes rfl one wf hp, fun q v => store_completes rfl two wf hp,
      fun q v => store_completes rfl four wf hp, fun q v => store_completes rfl eight wf hp⟩

/-- Settles O9: a misaligned access is refused before it is translated, one that is translated for the value it would leave or finds. -/
theorem scalarAccessTraps : Obligations.ScalarAccessTraps := by
  intro s a b i p hp
  refine ⟨fun h => load_misaligned rfl hp h, fun h => load_misaligned rfl hp h, fun h => load_misaligned rfl hp h,
    fun h => load_misaligned rfl hp h, fun h => load_misaligned rfl hp h, fun h => store_misaligned rfl hp h,
    fun h => store_misaligned rfl hp h, fun h => store_misaligned rfl hp h, ?_⟩
  exact ⟨fun f => load_refused rfl hp, fun f => load_refused rfl hp, fun f => load_refused rfl hp, fun f => load_refused rfl hp,
    fun f => load_refused rfl hp, fun f => load_refused rfl hp, fun f => load_refused rfl hp,
    fun f => store_refused rfl hp, fun f => store_refused rfl hp, fun f => store_refused rfl hp, fun f => store_refused rfl hp,
    fun q => store_nonfinite rfl hp, fun q => store_nonfinite rfl hp, fun q => store_nonfinite rfl hp,
    fun q => store_nonfinite rfl hp,
    fun q => load_bad rfl hp, fun q => load_bad rfl hp, fun q => load_bad rfl hp, fun q => load_bad rfl hp, fun q => load_bad rfl hp,
    fun q => load_bad rfl hp, fun q => load_bad rfl hp⟩

end Sys2Proof.Machine

namespace Sys2Proof.Machine

/-! ## A copy command that waits for an entry (R101, R242) -/

/-- A strand in DRAIN whose CPY still stands at issue, behind an entry of the VIQ that waits. -/
def drainingCopy : State :=
  modStrand State.reset 0 fun t =>
    { t with slot := .drain, blocked := some (.copy 0 0 0 0 0), arc := { t.arc with waits := some .turn } }

/-- The command tried again leaves the strand in DRAIN, which is taken for a trap that comes too early: nothing happens. -/
theorem drainingCopy_waits : exec (.copyQueueEntry 0) drainingCopy = .next drainingCopy := rfl

/-- Refutes O33: the queue is empty and no SBAR holds the command back, yet it is not accepted. -/
theorem not_copyIssue : ¬ Obligations.CopyIssue := by
  intro h
  obtain ⟨-, -, -, -, -, accepts, -⟩ := h drainingCopy 0 0 0 0 0
  obtain ⟨u, x, runs, -, gone, -⟩ := accepts 0 0 0 rfl rfl (by decide)
  obtain rfl : drainingCopy = u := by simpa using drainingCopy_waits.symm.trans runs
  have blocked : (strandOf drainingCopy 0).blocked = none := congrArg Strand.blocked gone
  exact absurd blocked (by decide)

end Sys2Proof.Machine

namespace Sys2Proof.Machine

/-! ## A choice among several (R276, R277) -/

/-- What a fold prefers, among the elements of a list: `P` is the order in which they are offered. -/
theorem foldl_prefers {α : Type} {R P : α → α → Prop} {f : α → α → α} (refl : ∀ x, R x x) (trans : ∀ x y z, R x y → R y z → R x z)
    (among : ∀ x y, f x y = x ∨ f x y = y) (best : ∀ x y, P x y → R (f x y) x ∧ R (f x y) y) (x : α) (r : List α)
    (sorted : (x :: r).Pairwise P) : r.foldl f x ∈ x :: r ∧ ∀ z ∈ x :: r, R (r.foldl f x) z := by
  induction r generalizing x with
  | nil => exact ⟨by simp, by simp [refl]⟩
  | cons y r ih =>
    obtain ⟨first, rest⟩ := List.pairwise_cons.1 sorted
    obtain ⟨second, tail⟩ := List.pairwise_cons.1 rest
    have kept : (f x y :: r).Pairwise P := List.pairwise_cons.2 ⟨fun z hz => by
      rcases among x y with e | e <;> rw [e]
      · exact first z (List.mem_cons_of_mem _ hz)
      · exact second z hz, tail⟩
    obtain ⟨member, ahead⟩ := ih (f x y) kept
    obtain ⟨overX, overY⟩ := best x y (first y List.mem_cons_self)
    have start := ahead _ List.mem_cons_self
    refine ⟨?_, fun z hz => ?_⟩
    · rcases List.mem_cons.1 member with h | h
      · rw [List.foldl_cons, h]
        rcases among x y with e | e <;> simp [e]
      · exact List.mem_cons_of_mem _ (List.mem_cons_of_mem _ h)
    · rcases List.mem_cons.1 hz with rfl | hz
      · exact trans _ _ _ start overX
      · rcases List.mem_cons.1 hz with rfl | hz
        · exact trans _ _ _ start overY
        · exact ahead z (List.mem_cons_of_mem _ hz)

/-! ## Deficits (R276) -/

theorem nodup_eraseDups (l : List Nat) : l.eraseDups.Nodup := by
  induction h : l.length using Nat.strong_induction_on generalizing l with
  | _ n ih =>
    cases l with
    | nil => simp
    | cons a r =>
      rw [List.eraseDups_cons, List.nodup_cons, List.mem_eraseDups]
      refine ⟨by simp, ih _ ?_ _ rfl⟩
      have shorter := List.length_filter_le (fun b => !b == a) r
      simp only [List.length_cons] at h
      omega

/-- A landing's deficit after `n` refills of weight `w`. -/
def refilled (n : Nat) (w d : Int) : Int := min (d + n * w) w

/-- The deficit of a landing on a core replaced. -/
def setDeficit (s : State) (core l : Nat) (d : Int) : State := modCore s core fun k => { k with deficit := tblSet k.deficit l d }

theorem deficitOf_setDeficit (s : State) (core l j : Nat) (d : Int) : deficitOf (coreOf (setDeficit s core l d) core) j =
    if j = l then d else deficitOf (coreOf s core) j := by
  rw [setDeficit, modCore, coreOf_setCore]
  split
  case isTrue h => rw [h, deficitOf, tblGet_tblSet]
  case isFalse h => exact tblGet_tblSet_ne _ _ _ _ _ h

theorem deficitOf_refills (core n : Nat) (w : Nat → Int) (ls : List Nat) (s : State) (distinct : ls.Nodup) (j : Nat) :
    deficitOf (coreOf (ls.foldl (fun u l => setDeficit u core l (refilled n (w l) (deficitOf (coreOf u core) l))) s) core) j =
      if j ∈ ls then refilled n (w j) (deficitOf (coreOf s core) j) else deficitOf (coreOf s core) j := by
  induction ls generalizing s with
  | nil => rfl
  | cons l ls ih =>
    obtain ⟨fresh, distinct⟩ := List.nodup_cons.1 distinct
    rw [List.foldl_cons, ih _ distinct]
    by_cases e : j = l
    · subst e
      simp [fresh, deficitOf_setDeficit]
    · simp [e, deficitOf_setDeficit]

theorem deficitOf_refillDeficits (s : State) (core : Nat) (ls : List Nat) (distinct : ls.Nodup) (j : Nat) :
    deficitOf (coreOf (refillDeficits s core ls) core) j =
      if j ∈ ls then refilled (refillRounds s core ls) (weightOf s core j) (deficitOf (coreOf s core) j) else deficitOf (coreOf s core) j :=
  deficitOf_refills core (refillRounds s core ls) (weightOf s core) ls s distinct j

/-- The refills after which a landing of positive weight has a deficit above 0. -/
def refillsOf (s : State) (core l : Nat) : Nat := (-(deficitOf (coreOf s core) l)).toNat / (weightOf s core l).toNat + 1

/-- The landings of positive weight among some. -/
theorem mem_heavy (s : State) (core : Nat) (ls : List Nat) (l : Nat) :
    l ∈ ls.filter (fun l => decide (0 < weightOf s core l)) ↔ l ∈ ls ∧ 0 < weightOf s core l := by
  rw [List.mem_filter, decide_eq_true_iff]

theorem refillRounds_least (s : State) (core : Nat) (ls : List Nat) (weighs : ∃ l ∈ ls, 0 < weightOf s core l) :
    (∃ l ∈ ls, 0 < weightOf s core l ∧ refillRounds s core ls = refillsOf s core l) ∧
    ∀ l ∈ ls, 0 < weightOf s core l → refillRounds s core ls ≤ refillsOf s core l := by
  obtain ⟨l0, among, heavy⟩ := weighs
  obtain ⟨a, r, all⟩ := List.exists_cons_of_ne_nil (List.ne_nil_of_mem ((mem_heavy s core ls l0).2 ⟨among, heavy⟩))
  have rounds : refillRounds s core ls = (r.map (refillsOf s core)).foldl min (refillsOf s core a) := by
    rw [refillRounds, all]
    rfl
  obtain ⟨member, least⟩ := foldl_prefers (R := fun x y : Nat => x ≤ y) (P := fun _ _ => True) (f := min) (fun _ => le_rfl)
    (fun _ _ _ => le_trans) min_choice (fun _ _ _ => ⟨min_le_left .., min_le_right ..⟩) (refillsOf s core a) (r.map (refillsOf s core))
    (List.pairwise_of_forall fun _ _ => trivial)
  rw [← rounds, ← List.map_cons, ← all] at member least
  refine ⟨?_, fun l hl positive => least _ (List.mem_map_of_mem ((mem_heavy s core ls l).2 ⟨hl, positive⟩))⟩
  obtain ⟨l, hl, e⟩ := List.mem_map.1 member
  obtain ⟨inside, positive⟩ := (mem_heavy s core ls l).1 hl
  exact ⟨l, inside, positive, e.symm⟩

theorem refillRounds_pos (s : State) (core : Nat) (ls : List Nat) : 0 < refillRounds s core ls := by
  by_cases weighs : ∃ l ∈ ls, 0 < weightOf s core l
  · obtain ⟨⟨l, -, -, e⟩, -⟩ := refillRounds_least s core ls weighs
    rw [e]
    exact Nat.succ_pos _
  · have none : ls.filter (fun l => decide (0 < weightOf s core l)) = [] :=
      List.filter_eq_nil_iff.2 fun l hl => by simpa using fun heavy => weighs ⟨l, hl, heavy⟩
    rw [refillRounds, none]
    exact Nat.one_pos

theorem weightOf_nonneg (s : State) (core l : Nat) : 0 ≤ weightOf s core l := by
  unfold weightOf
  positivity

/-- The refills after which a deficit is above 0, and no fewer. -/
theorem lt_mul_refills_iff {d w : Int} (debt : d ≤ 0) (heavy : 0 < w) (m : Nat) :
    0 < d + m * w ↔ (-d).toNat / w.toNat + 1 ≤ m := by
  obtain ⟨w, rfl⟩ := Int.eq_ofNat_of_zero_le heavy.le
  obtain ⟨e, owed⟩ := Int.eq_ofNat_of_zero_le (Int.neg_nonneg_of_nonpos debt)
  have pos : 0 < w := by simpa using heavy
  rw [owed, Int.toNat_natCast, Int.toNat_natCast, Nat.add_one_le_iff, Nat.div_lt_iff_lt_mul pos]
  have scaled : ((m * w : Nat) : Int) = m * w := by push_cast; rfl
  omega

/-- R276: the refill brings a landing of positive weight above 0, and one refill fewer would not have. -/
theorem refillRounds_reach (s : State) (core : Nat) (ls : List Nat) (debt : ∀ l ∈ ls, deficitOf (coreOf s core) l ≤ 0)
    (weighs : ∃ l ∈ ls, 0 < weightOf s core l) :
    (∃ l ∈ ls, 0 < refilled (refillRounds s core ls) (weightOf s core l) (deficitOf (coreOf s core) l)) ∧
    ∀ m < refillRounds s core ls, ∀ l ∈ ls, deficitOf (coreOf s core) l + m * weightOf s core l ≤ 0 := by
  obtain ⟨⟨l, among, heavy, rounds⟩, least⟩ := refillRounds_least s core ls weighs
  refine ⟨⟨l, among, lt_min ?_ heavy⟩, fun m few j hj => ?_⟩
  · exact (lt_mul_refills_iff (debt l among) heavy _).2 rounds.ge
  · rcases (weightOf_nonneg s core j).lt_or_eq with positive | zero
    · exact not_lt.1 fun above =>
        absurd ((lt_mul_refills_iff (debt j hj) positive m).1 above) (not_le.2 (few.trans_le (least j hj positive)))
    · rw [← zero, mul_zero, add_zero]
      exact debt j hj

/-! ## The sequencer's choice (R276) -/

/-- R276: of two slots the sequencer serves the first no later than the second: the larger deficit, then the lower landing, then the
lower slot. -/
def ServedFirst (deficit : Nat → Int) (land : Nat → Nat) (k j : Nat) : Prop :=
  deficit (land j) < deficit (land k) ∨
    (deficit (land j) = deficit (land k) ∧ (land k < land j ∨ (land k = land j ∧ k ≤ j)))

/-- The slot that is served, of an older choice and another slot. -/
def betterSlot (deficit : Nat → Int) (land : Nat → Nat) (x y : Nat) : Nat :=
  if deficit (land x) < deficit (land y) ∨ (deficit (land x) = deficit (land y) ∧ land y < land x) then y else x

theorem foldl_betterSlot (deficit : Nat → Int) (land : Nat → Nat) (x : Nat) (r : List Nat) (ascending : (x :: r).Pairwise (· < ·)) :
    r.foldl (betterSlot deficit land) x ∈ x :: r ∧
      ∀ j ∈ x :: r, ServedFirst deficit land (r.foldl (betterSlot deficit land) x) j := by
  refine foldl_prefers (R := ServedFirst deficit land) (P := (· < ·)) (fun x => .inr ⟨rfl, .inr ⟨rfl, le_rfl⟩⟩) (fun x y z => ?_)
    (fun x y => ?_) (fun x y below => ?_) x r ascending
  · unfold ServedFirst
    omega
  · unfold betterSlot
    split
    · exact .inr rfl
    · exact .inl rfl
  · unfold betterSlot
    split <;> constructor <;> unfold ServedFirst <;> omega

/-- The landings of some slots of a core. -/
def slotLandings (s : State) (core : Nat) (ready : List Nat) : List Nat :=
  (ready.map fun k => stLanding (strandOf s (4 * core + k))).eraseDups

theorem mem_slotLandings (s : State) (core : Nat) (ready : List Nat) (l : Nat) :
    l ∈ slotLandings s core ready ↔ ∃ k ∈ ready, stLanding (strandOf s (4 * core + k)) = l := by
  rw [slotLandings, List.mem_eraseDups, List.mem_map]

/-- The deficits with which the sequencer chooses. -/
def choiceDeficits (s : State) (core : Nat) (ready : List Nat) : State :=
  if (slotLandings s core ready).all fun l => deficitOf (coreOf s core) l ≤ 0 then refillDeficits s core (slotLandings s core ready) else s

/-- The slot that the sequencer takes, the oldest choice being `x`. -/
def chosenSlot (s : State) (core x : Nat) (r : List Nat) : Nat :=
  r.foldl (betterSlot (deficitOf (coreOf (choiceDeficits s core (x :: r)) core)) fun k => stLanding (strandOf s (4 * core + k))) x

theorem chooseAmong_cons (s : State) (core x : Nat) (r : List Nat) : chooseAmong s core (x :: r) =
    modCore (choiceDeficits s core (x :: r)) core fun k => { k with sequencer := some (chosenSlot s core x r) } := rfl

section
variable (s : State) (core : Nat)

theorem coreOf_refillDeficits_ne (ls : List Nat) {d : Nat} (h : d ≠ core) : coreOf (refillDeficits s core ls) d = coreOf s d := by
  have keeps : ∀ (u : State) (ls : List Nat) (f : State → Nat → Core → Core),
      coreOf (ls.foldl (fun u l => modCore u core (f u l)) u) d = coreOf u d := by
    intro u ls f
    induction ls generalizing u with
    | nil => rfl
    | cons l ls ih => exact (ih _).trans (coreOf_setCore_ne _ _ _ _ h)
  exact keeps s ls _

theorem chooseAmong_chooses (x : Nat) (r : List Nat) (ascending : (x :: r).Pairwise (· < ·)) :
    (coreOf (chooseAmong s core (x :: r)) core).sequencer = some (chosenSlot s core x r) ∧ chosenSlot s core x r ∈ x :: r ∧
    ∀ j ∈ x :: r, ServedFirst (deficitOf (coreOf (chooseAmong s core (x :: r)) core)) (fun k => stLanding (strandOf s (4 * core + k)))
      (chosenSlot s core x r) j := by
  have same : deficitOf (coreOf (chooseAmong s core (x :: r)) core) = deficitOf (coreOf (choiceDeficits s core (x :: r)) core) := by
    rw [chooseAmong_cons, modCore, coreOf_setCore]
    rfl
  rw [same]
  exact ⟨by rw [chooseAmong_cons, modCore, coreOf_setCore], foldl_betterSlot _ _ x r ascending⟩

theorem deficitOf_chooseAmong (x : Nat) (r : List Nat) (l : Nat) : deficitOf (coreOf (chooseAmong s core (x :: r)) core) l =
    deficitOf (coreOf (choiceDeficits s core (x :: r)) core) l := by
  rw [chooseAmong_cons, modCore, coreOf_setCore]
  rfl

theorem choiceDeficits_debt {ready : List Nat}
    (debt : ∀ k ∈ ready, deficitOf (coreOf s core) (stLanding (strandOf s (4 * core + k))) ≤ 0) :
    choiceDeficits s core ready = refillDeficits s core (slotLandings s core ready) :=
  if_pos (List.all_eq_true.2 fun l hl => by
    obtain ⟨k, hk, rfl⟩ := (mem_slotLandings s core ready l).1 hl
    simpa using debt k hk)

theorem choiceDeficits_credit {ready : List Nat}
    (credit : ¬ ∀ k ∈ ready, deficitOf (coreOf s core) (stLanding (strandOf s (4 * core + k))) ≤ 0) : choiceDeficits s core ready = s :=
  if_neg fun all => credit fun k hk => by
    simpa using List.all_eq_true.1 all _ ((mem_slotLandings s core ready _).2 ⟨k, hk, rfl⟩)

theorem deficitOf_choiceDeficits_other {ready : List Nat} {l : Nat}
    (h : ∀ k ∈ ready, stLanding (strandOf s (4 * core + k)) ≠ l) :
    deficitOf (coreOf (choiceDeficits s core ready) core) l = deficitOf (coreOf s core) l := by
  unfold choiceDeficits
  split
  · have absent : l ∉ slotLandings s core ready := fun hl => by
      obtain ⟨k, hk, e⟩ := (mem_slotLandings s core ready l).1 hl
      exact h k hk e
    exact (deficitOf_refillDeficits s core _ (nodup_eraseDups _) l).trans (if_neg absent)
  · rfl

theorem coreOf_chooseAmong_ne (x : Nat) (r : List Nat) {d : Nat} (h : d ≠ core) :
    coreOf (chooseAmong s core (x :: r)) d = coreOf s d := by
  rw [chooseAmong_cons, modCore, coreOf_setCore_ne _ _ _ _ h]
  unfold choiceDeficits
  split
  · exact coreOf_refillDeficits_ne s core _ h
  · rfl

/-- The slots of a core with a ready entry that needs the sequencer. -/
def readySlots : List Nat := (List.range 4).filter fun k => sequencerReady s (4 * core + k)

theorem readySlots_ascending : (readySlots s core).Pairwise (· < ·) := List.pairwise_lt_range.filter _

theorem sequencerSelect_none (h : readySlots s core = []) : exec (.sequencerSelect core) s = .next s := by
  show (if (served s core).isSome then Host.Outcome.next s else .next (chooseAmong s core (readySlots s core))) = _
  rw [h]
  split <;> rfl

theorem sequencerSelect_chooses (h : served s core = none) :
    exec (.sequencerSelect core) s = .next (chooseAmong s core (readySlots s core)) := if_neg (by simp [h])

end

/-! ## Traps on the array side leave memory and the Mezzanines alone (R229, R259) -/

theorem modStrand_eq (s : State) (id : Nat) (f : Strand → Strand) : modStrand s id f = { s with strands := (modStrand s id f).strands } := rfl

theorem takeTrap_eq (s : State) (id c : Nat) (v p : Word) : takeTrap s id c v p = { s with strands := (takeTrap s id c v p).strands } := by
  unfold takeTrap strandFailure
  split <;> rfl

/-- Beside the strand a trap on the array side changes what the withdrawn request and the returned message change. -/
theorem trapArray_rest (s : State) (id : Nat) (o : Vop) (cause : Nat) (tval : Word) (lane : Nat) :
    trapArray s id o cause tval lane = { withdrawRequest (if lane = 0 then returnMessage s id else s) id with
      strands := (trapArray s id o cause tval lane).strands } := by
  unfold trapArray
  dsimp only
  generalize withdrawRequest (if lane = 0 then returnMessage s id else s) id = x
  split
  · rfl
  · rw [takeTrap_eq]
    rfl

theorem targetRead_trapArray (s : State) (id : Nat) (o : Vop) (cause : Nat) (tval : Word) (lane c : Nat) (r : Target) :
    targetRead (trapArray s id o cause tval lane) c r 1 = targetRead s c r 1 := by
  rw [trapArray_rest, (beforeTrap_frame s id lane).1]
  cases r <;> rfl

theorem coreOf_withdrawRequest (s : State) (id k : Nat) :
    (coreOf (withdrawRequest s id) k).mezz = (coreOf s k).mezz ∧ (coreOf (withdrawRequest s id) k).ports = (coreOf s k).ports := by
  unfold withdrawRequest
  dsimp only
  split
  · by_cases h : k = chainCore (strandOf s id).arc
    · rw [h, setPortQueue, coreOf_setCore]
      exact ⟨rfl, rfl⟩
    · rw [setPortQueue, coreOf_setCore_ne _ _ _ _ h]
      exact ⟨rfl, rfl⟩
  · exact ⟨rfl, rfl⟩

theorem mezz_returnMessage (s : State) (id k : Nat) : (coreOf (returnMessage s id) k).mezz = (coreOf s k).mezz := by
  cases h : (strandOf s id).arc.chainIn with
  | none => rw [returnMessage_none s id h]
  | some x =>
    obtain ⟨c, p, m⟩ := x
    have returned : coreOf (returnMessage s id) k =
        coreOf (setCore s c { coreOf s c with ports := listSet [] (coreOf s c).ports p (m :: listGet [] (coreOf s c).ports p) }) k := by
      unfold returnMessage
      rw [h]
      rfl
    rw [returned]
    by_cases e : k = c
    · rw [e, coreOf_setCore]
    · rw [coreOf_setCore_ne _ _ _ _ e]

theorem ports_returnMessage (s : State) (id : Nat) {k p : Nat} {m : List Word} (h : (strandOf s id).arc.chainIn = some (k, p, m)) :
    listGet [] (coreOf (returnMessage s id) k).ports p = m :: listGet [] (coreOf s k).ports p := by
  have returned : (coreOf (returnMessage s id) k) =
      { coreOf s k with ports := listSet [] (coreOf s k).ports p (m :: listGet [] (coreOf s k).ports p) } := by
    unfold returnMessage
    rw [h]
    exact coreOf_setCore s k _
  rw [returned, listGet_listSet]

theorem mezz_trapArray (s : State) (id : Nat) (o : Vop) (cause : Nat) (tval : Word) (lane k : Nat) :
    (coreOf (trapArray s id o cause tval lane) k).mezz = (coreOf s k).mezz := by
  rw [trapArray_rest]
  refine (coreOf_withdrawRequest _ id k).1.trans ?_
  split
  · exact mezz_returnMessage s id k
  · rfl

theorem ports_trapArray_kept (s : State) (id : Nat) (o : Vop) (cause : Nat) (tval : Word) (lane k : Nat)
    (h : (strandOf s id).arc.chainIn = none ∨ lane ≠ 0) :
    (coreOf (trapArray s id o cause tval lane) k).ports = (coreOf s k).ports := by
  rw [trapArray_rest]
  refine (coreOf_withdrawRequest _ id k).2.trans ?_
  split
  case isTrue first => rw [returnMessage_none s id (h.resolve_right (· first))]
  case isFalse => rfl

theorem ports_trapArray_returned (s : State) (id : Nat) (o : Vop) (cause : Nat) (tval : Word) {k p : Nat} {m : List Word}
    (h : (strandOf s id).arc.chainIn = some (k, p, m)) :
    listGet [] (coreOf (trapArray s id o cause tval 0) k).ports p = m :: listGet [] (coreOf s k).ports p := by
  rw [trapArray_rest]
  exact (congrArg (listGet [] · p) (coreOf_withdrawRequest _ id k).2).trans (ports_returnMessage s id h)

theorem trapped_chainIn (c : Nat) (v p : Word) (t : Strand) : (trapped c v p t).arc.chainIn = t.arc.chainIn := by
  unfold trapped
  split <;> rfl

/-- A trap at the first lane gives the message back. -/
theorem strandOf_beforeTrap_message (s : State) (id lane : Nat) :
    strandOf (withdrawRequest (if lane = 0 then returnMessage s id else s) id) id = { strandOf s id with
      arc := withMessage (if lane = 0 then none else (strandOf s id).arc.chainIn) (strandOf s id).arc } := by
  rw [strandOf_congr (withdrawRequest_strands ..)]
  split
  · exact strandOf_returnMessage s id
  · rfl

theorem chainIn_trapArray_first (s : State) (id : Nat) (o : Vop) (cause : Nat) (tval : Word) :
    (strandOf (trapArray s id o cause tval 0) id).arc.chainIn = none := by
  have before := congrArg (fun t => t.arc.chainIn) (strandOf_beforeTrap_message s id 0)
  unfold trapArray
  generalize withdrawRequest (if 0 = 0 then returnMessage s id else s) id = x at *
  dsimp only
  split
  · rw [strandFailure, strandOf_modStrand]
    exact before
  · rw [strandOf_takeTrap, trapped_chainIn, strandOf_modArc, strandOf_modStrand]
    exact before

/-- R102: at NEST = 1 the trap is a strand failure. -/
theorem strandOf_trapArray_failed (s : State) (id : Nat) (o : Vop) (cause : Nat) (tval : Word) (lane : Nat)
    (h : stNest (strandOf s id) = true) : strandOf (trapArray s id o cause tval lane) id =
      failed cause { strandOf s id with arc :=
        { (strandOf s id).arc with chainIn := if lane = 0 then none else (strandOf s id).arc.chainIn } } := by
  have before := strandOf_beforeTrap_message s id lane
  have nest : stNest (strandOf (withdrawRequest (if lane = 0 then returnMessage s id else s) id) id) = true := by
    rw [before]
    exact h
  unfold trapArray
  generalize withdrawRequest (if lane = 0 then returnMessage s id else s) id = x at *
  dsimp only
  rw [if_pos nest, strandFailure, strandOf_modStrand, before]
  rfl

end Sys2Proof.Machine

namespace Sys2Proof.Machine

/-! ## Victims of a pre-emption (R277) -/

/-- R277: of two strands the first is pre-empted no later than the second: lower PRIO, then running longer, then the lower coordinate
and slot. -/
def AheadAsVictim (k : Die) (x z : Nat × Strand) : Prop :=
  landingPrio k (stLanding x.2) < landingPrio k (stLanding z.2) ∨
    (landingPrio k (stLanding x.2) = landingPrio k (stLanding z.2) ∧
      (x.2.started < z.2.started ∨ (x.2.started = z.2.started ∧ x.1 ≤ z.1)))

theorem AheadAsVictim.refl (k : Die) (x : Nat × Strand) : AheadAsVictim k x x := .inr ⟨rfl, .inr ⟨rfl, Nat.le_refl _⟩⟩

theorem AheadAsVictim.trans {k : Die} {x y z : Nat × Strand} (h : AheadAsVictim k x y) (g : AheadAsVictim k y z) :
    AheadAsVictim k x z := by
  unfold AheadAsVictim at *
  omega

theorem betterVictim_mem (k : Die) (x y : Nat × Strand) : betterVictim k x y = x ∨ betterVictim k x y = y := by
  simp only [betterVictim]
  split
  · exact .inr rfl
  · exact .inl rfl

theorem betterVictim_ahead (k : Die) (x y : Nat × Strand) :
    AheadAsVictim k (betterVictim k x y) x ∧ AheadAsVictim k (betterVictim k x y) y := by
  simp only [betterVictim]
  split
  case isTrue h => exact ⟨by unfold AheadAsVictim; omega, .refl k y⟩
  case isFalse h => exact ⟨.refl k x, by unfold AheadAsVictim; omega⟩

theorem foldl_betterVictim (k : Die) (x : Nat × Strand) (r : List (Nat × Strand)) :
    r.foldl (betterVictim k) x ∈ x :: r ∧ ∀ z ∈ x :: r, AheadAsVictim k (r.foldl (betterVictim k) x) z :=
  foldl_prefers (P := fun _ _ => True) (AheadAsVictim.refl k) (fun _ _ _ => AheadAsVictim.trans) (betterVictim_mem k)
    (fun x y _ => betterVictim_ahead k x y) x r (List.pairwise_of_forall fun _ _ => trivial)

/-- The record's pre-emption has made a strand due. -/
def madeDue (s : State) (e : Entry) : Bool := s.strands.any fun q => q.2.due && q.2.dueFor == some e.issuer

section
variable {s : State} {d l : Nat} {f : Nat → Strand → Bool}

/-- The first record that cannot be popped and has made nothing due takes a victim, if it has one. -/
theorem makeDue_takes {p q : List Entry} {e : Entry} {y : Nat × Strand} (waits : waitingRecords s d l = p ++ e :: q)
    (older : ∀ g ∈ p, (cannotPop s d l g && !madeDue s g) = false) (stuck : cannotPop s d l e = true) (fresh : madeDue s e = false)
    (pops : landingPops (dieOf s d) l = true) (hy : y ∈ s.strands) (may : (canBeVictim s d l e y.1 y.2 && f y.1 y.2) = true) :
    ∃ v ∈ s.strands, (canBeVictim s d l e v.1 v.2 && f v.1 v.2) = true ∧
      makeDue s d l f = modStrand s v.1 (fun t => { t with due := true, dueFor := some e.issuer }) ∧
      ∀ z ∈ s.strands, (canBeVictim s d l e z.1 z.2 && f z.1 z.2) = true → AheadAsVictim (dieOf s d) v z := by
  have among : y ∈ s.strands.filter fun z => canBeVictim s d l e z.1 z.2 && f z.1 z.2 := List.mem_filter.2 ⟨hy, may⟩
  obtain ⟨x, r, all⟩ := List.exists_cons_of_ne_nil (List.ne_nil_of_mem among)
  obtain ⟨inside, ahead⟩ := foldl_betterVictim (dieOf s d) x r
  rw [← all] at inside ahead
  obtain ⟨member, victim⟩ := List.mem_filter.1 inside
  refine ⟨_, member, victim, ?_, fun z hz h => ahead z (List.mem_filter.2 ⟨hz, h⟩)⟩
  have skipped : ∀ g ∈ p, (cannotPop s d l g && !s.strands.any fun q => q.2.due && q.2.dueFor == some g.issuer) = false := older
  have unmade : (s.strands.any fun q => q.2.due && q.2.dueFor == some e.issuer) = false := fresh
  have none : ∀ v : Entry → Option (Nat × Strand), (p.findSome? fun e =>
      if cannotPop s d l e && !s.strands.any (fun q => q.2.due && q.2.dueFor == some e.issuer)
      then (v e).map fun v => (e, v.1) else none) = none :=
    fun v => List.findSome?_eq_none_iff.2 fun g hg => by rw [skipped g hg]; rfl
  simp only [makeDue, waits, List.findSome?_append, none, Option.none_or, List.findSome?_cons, stuck, unmade, all, pops,
    Bool.not_false, Bool.and_self, if_true, Option.map_some]

theorem makeDue_none (h : ∀ e ∈ waitingRecords s d l, cannotPop s d l e = false) : makeDue s d l f = s := by
  have none : ∀ (b : Entry → Bool) (v : Entry → Option (Nat × Strand)), ((waitingRecords s d l).findSome? fun e =>
      if cannotPop s d l e && b e then (v e).map fun v => (e, v.1) else none) = none :=
    fun b v => List.findSome?_eq_none_iff.2 fun g hg => by rw [h g hg]; rfl
  simp only [makeDue, none]

end

/-! ## Limits (R230, R278) -/

theorem holdsLink_iff (s : State) (id : Nat) : holdsLink s id = true ↔ ∃ g ∈ s.mem.tags, g.watch = false ∧ g.strand = some id := by
  simp [holdsLink]

theorem linksDefer_iff (s : State) (id : Nat) : linksDefer s id = true ↔ (strandOf s id).linkDeferOver = false ∧
    (strandOf s id).linkCount < 256 ∧ ∃ g ∈ s.mem.tags, g.watch = false ∧ g.strand = some id ∧ g.stored = false := by
  simp [linksDefer, and_assoc]

theorem linkDeferLimit_reached (s : State) (id : Nat) (link : holdsLink s id = true) (count : 256 ≤ (strandOf s id).linkCount) :
    exec (.linkDeferLimit id) s = .next (setStrand s id { (strandOf s id) with linkDeferOver := true }) :=
  if_pos (by simp [link, count])

theorem linkDeferLimit_not_reached (s : State) (id : Nat) (h : holdsLink s id = false ∨ (strandOf s id).linkCount < 256) :
    exec (.linkDeferLimit id) s = .next s :=
  if_neg (by simp only [Bool.and_eq_true, decide_eq_true_iff, not_and]; intro link; rcases h with h | h <;> simp_all)

/-! ## A pre-emption is taken (R103, R230, R278) -/

theorem parkedEntry_iff (t : Strand) :
    parkedEntry t = true ↔ t.slot = .park ∧ ∃ c b i m p g z o, t.blocked = some (.vwaitm c b i m p g z o) := by
  unfold parkedEntry
  cases t.slot <;> cases t.blocked <;> simp
  next b => cases b <;> simp

theorem olderFirst_iff (t : Strand) : olderFirst t = true ↔ t.arc.viq ≠ [] ∧ claimOnly t = false ∧ stPtrap t = true ∧
    t.preemptTrapped = false ∧ ¬ (t.slot = .park ∧ ∃ c b i m p g z o, t.blocked = some (.vwaitm c b i m p g z o)) := by
  rw [← parkedEntry_iff]
  simp [olderFirst]
  tauto

/-- The strand has left the waits of its core and its watches are cleared. -/
def leftWaits (s : State) (id : Nat) : State := clearWatches (modStrand (leaveWaits s id) id withdraw) id

theorem withdraw_status (t : Strand) : (withdraw t).status = t.status := by
  unfold withdraw
  split
  · rfl
  · split <;> rfl
  · rfl

section
variable (s : State) (id : Nat)

theorem strandOf_leftWaits : strandOf (leftWaits s id) id = withdraw (strandOf s id) := strandOf_modStrand (leaveWaits s id) id withdraw

theorem strandOf_leftWaits_ne (j : Nat) (h : j ≠ id) : strandOf (leftWaits s id) j = strandOf s j :=
  strandOf_modStrand_ne (leaveWaits s id) id j withdraw h

theorem leftWaits_core : coreOf (leftWaits s id) (coreIdx id) =
    { coreOf s (coreIdx id) with
      bayRequests := (coreOf s (coreIdx id)).bayRequests.filter fun q => q.1 != slotIdx id
      mezz := { (coreOf s (coreIdx id)).mezz with
        waiters := (coreOf s (coreIdx id)).mezz.waiters.filter (· != slotIdx id) } } :=
  coreOf_setCore s (coreIdx id) _

theorem leftWaits_tags : ∀ g ∈ (leftWaits s id).mem.tags, g.watch = false ∨ g.strand ≠ some id := by
  intro g hg
  simpa using (List.mem_filter.1 hg).2

theorem targetRead_leftWaits (c : Nat) (r : Target) : targetRead (leftWaits s id) c r 1 = targetRead s c r 1 := by
  cases r <;> rfl

end

/-- What a pre-emption that is taken leaves of its surroundings. -/
structure WaitsLeft (s u : State) (id : Nat) : Prop where
  others : ∀ j, j ≠ id → strandOf u j = strandOf s j
  requests : ∀ q ∈ (coreOf u (coreIdx id)).bayRequests, q.1 ≠ slotIdx id
  claim : slotIdx id ∉ (coreOf u (coreIdx id)).mezz.waiters
  watches : ∀ g ∈ u.mem.tags, g.watch = false ∨ g.strand ≠ some id
  bytes : ∀ c r, targetRead u c r 1 = targetRead s c r 1

theorem waitsLeft_leftWaits (s : State) (id : Nat) : WaitsLeft s (leftWaits s id) id where
  others := strandOf_leftWaits_ne s id
  requests q hq := by
    simp only [leftWaits_core, List.mem_filter, bne_iff_ne] at hq
    exact hq.2
  claim hq := by simp [leftWaits_core] at hq
  watches := leftWaits_tags s id
  bytes := targetRead_leftWaits s id

theorem WaitsLeft.modStrand {s u : State} {id : Nat} (h : WaitsLeft s u id) (f : Strand → Strand) :
    WaitsLeft s (modStrand u id f) id where
  others j hj := (strandOf_modStrand_ne u id j f hj).trans (h.others j hj)
  requests := h.requests
  claim := h.claim
  watches := h.watches
  bytes c r := (show targetRead (Machine.modStrand u id f) c r 1 = targetRead u c r 1 by cases r <;> rfl).trans (h.bytes c r)

theorem WaitsLeft.trapHere {s u : State} {id : Nat} (h : WaitsLeft s u id) (c : Nat) (v : Word) : WaitsLeft s (trapHere u id c v) id := by
  unfold Machine.trapHere takeTrap strandFailure
  split
  · exact h.modStrand _
  · exact h.modStrand _

section
variable {s : State} {id : Nat}

theorem preemptionTaken_not (h : preemptsHere s id = false) : exec (.preemptionTaken id) s = .next s := if_neg (by simp [h])

theorem preemptionTaken_traps (h : preemptsHere s id = true) (trap : stPtrap (strandOf s id) = true)
    (first : (strandOf s id).preemptTrapped = false) : exec (.preemptionTaken id) s =
      .next (trapHere (modStrand (leftWaits s id) id fun x => { x with preemptTrapped := true }) id cPREEMPT 0) :=
  (if_pos h).trans (if_pos (by simp [trap, first]))

theorem preemptionTaken_saves (h : preemptsHere s id = true)
    (save : stPtrap (strandOf s id) = false ∨ (strandOf s id).preemptTrapped = true) : exec (.preemptionTaken id) s =
      .next (modStrand (beginSave (leftWaits s id) id) id fun x => { x with blocked := none }) :=
  (if_pos h).trans (if_neg (by rcases save with e | e <;> simp [e]))

theorem preemptsHere_iff : preemptsHere s id = true ↔ (strandOf s id).due = true ∧ stNest (strandOf s id) = false ∧
    atSavePoint (strandOf s id) = true ∧ linksDefer s id = false ∧ ¬ olderFirst (strandOf s id) = true := by
  simp [preemptsHere, and_assoc]

/-- The trap of PTRAP. -/
theorem strandOf_preempted (nest : stNest (strandOf s id) = false) :
    strandOf (trapHere (modStrand (leftWaits s id) id fun x => { x with preemptTrapped := true }) id cPREEMPT 0) id =
      entered cPREEMPT 0 ((withdraw (strandOf s id)).pc.zeroExtend 64) { (withdraw (strandOf s id)) with preemptTrapped := true } := by
  have low : stNest (withdraw (strandOf s id)) = false := by rw [stNest, withdraw_status]; exact nest
  rw [trapHere, strandOf_takeTrap, strandOf_modStrand, strandOf_leftWaits]
  exact if_neg (by simpa [stNest] using low)

end

/-- Settles O41: the victim is the first of the filtered strands under `AheadAsVictim`; a pre-emption that is taken is described by
`WaitsLeft` and by the strand that the trap or the save leaves. -/
theorem preemption : Obligations.Preemption := by
  refine ⟨⟨fun s d l p q e => ?_, fun s d l h => ?_, fun s id => ⟨fun h => if_pos h, fun h => if_neg (by simp [h]), ?_, ?_, ?_⟩⟩,
    fun s id => ?_⟩
  · intro k made below equal victim effect waits older stuck fresh pops
    refine ⟨fun y hy may => ?_, fun slice y hy may => ?_⟩
    · obtain ⟨v, member, taken, run, ahead⟩ := makeDue_takes (f := fun _ t => below t) waits older stuck fresh pops hy may
      exact ⟨v, member, taken, congrArg Host.Outcome.next run, ahead⟩
    · obtain ⟨v, member, taken, run, ahead⟩ := makeDue_takes (f := fun _ t => equal t) waits older stuck fresh pops hy may
      exact ⟨v, member, taken, (if_neg slice).trans (congrArg Host.Outcome.next run), ahead⟩
  · refine ⟨congrArg Host.Outcome.next (makeDue_none h), ?_⟩
    by_cases slice : landingSlice (dieOf s d) l = 0
    · exact if_pos slice
    · exact (if_neg slice).trans (congrArg Host.Outcome.next (makeDue_none h))
  · exact fun link count => linkDeferLimit_reached s id ((holdsLink_iff s id).2 link) count
  · intro none
    refine linkDeferLimit_not_reached s id (.inl (Bool.eq_false_iff.2 fun link => ?_))
    obtain ⟨g, member, watch, strand⟩ := (holdsLink_iff s id).1 link
    exact (none g member).elim (by simp [watch]) (· strand)
  · exact fun few => linkDeferLimit_not_reached s id (.inr few)
  · intro t taken
    have here : preemptsHere s id = true ↔ taken := by
      rw [preemptsHere_iff, olderFirst_iff]
    refine ⟨linksDefer_iff s id, here, fun h => preemptionTaken_not (Bool.eq_false_iff.2 (mt here.1 h)), fun h => ?_⟩
    have now := here.2 h
    have nest : stNest t = false := h.2.1
    cases trap : stPtrap t && !t.preemptTrapped with
    | true =>
      obtain ⟨ptrap, first⟩ : stPtrap t = true ∧ t.preemptTrapped = false := by simpa using trap
      obtain ⟨others, requests, claim, watches, bytes⟩ := ((waitsLeft_leftWaits s id).modStrand _).trapHere cPREEMPT 0
      refine ⟨_, preemptionTaken_traps now ptrap first, others, requests, claim, watches, bytes,
        fun _ _ => strandOf_preempted nest, fun no => ?_⟩
      rcases no with no | no
      · exact absurd (ptrap.symm.trans no) (by decide)
      · exact absurd (first.symm.trans no) (by decide)
    | false =>
      have save : stPtrap t = false ∨ t.preemptTrapped = true := by
        cases h : stPtrap t <;> simp_all
      obtain ⟨others, requests, claim, watches, bytes⟩ :=
        ((waitsLeft_leftWaits s id).modStrand fun t => { t with slot := .save, hostAnswer := none }).modStrand fun x => { x with blocked := none }
      refine ⟨_, preemptionTaken_saves now save, others, requests, claim, watches, bytes, fun ptrap first => ?_, fun _ => ?_⟩
      · simp [ptrap, first] at trap
      · rw [strandOf_modStrand, beginSave, strandOf_modStrand, strandOf_leftWaits]

end Sys2Proof.Machine

namespace Sys2Proof.Machine

/-! ## Traps of the oldest entry and of parked instructions (R79, R229) -/

theorem coreOf_congr {s t : State} (h : t.cores = s.cores) (k : Nat) : coreOf t k = coreOf s k := by rw [coreOf, h, coreOf]

/-- The state in which a trap on the array side of the strand `id` is raised: what the trap keeps stands in it as in `s`. -/
structure RaisedFrom (s x : State) (id : Nat) : Prop where
  control : SameControl (strandOf s id) (strandOf x id)
  elems : (strandOf x id).arc.regs = (strandOf s id).arc.regs
  message : (strandOf x id).arc.chainIn = (strandOf s id).arc.chainIn
  others : ∀ j, j ≠ id → strandOf x j = strandOf s j
  cores : x.cores = s.cores
  bytes : ∀ c r, targetRead x c r 1 = targetRead s c r 1

theorem RaisedFrom.refl (s : State) (id : Nat) : RaisedFrom s s id :=
  ⟨.refl _, rfl, rfl, fun _ _ => rfl, rfl, fun _ _ => rfl⟩

theorem raisedFrom_woken (s : State) (id : Nat) :
    RaisedFrom s (modStrand (clearWatches s id) id fun x => { x with slot := .run }) id := by
  have woken := strandOf_modStrand (clearWatches s id) id fun x => { x with slot := .run }
  refine ⟨?_, ?_, ?_, fun j hj => strandOf_modStrand_ne _ id j _ hj, rfl, fun c r => by cases r <;> rfl⟩ <;> rw [woken]
  · exact ⟨rfl, rfl, rfl, rfl, rfl, rfl⟩
  · rfl
  · rfl

section
variable {s x : State} {id : Nat} (from_ : RaisedFrom s x id) (o : Vop) (cause : Nat) (v : Word) (lane : Nat)
include from_

theorem heldTrap_raised (nest : stNest (strandOf s id) = false) :
    HeldTrap { s with cur := id } { trapArray x id o cause v lane with cur := id } o cause v lane := by
  have entry : HeldEntry { s with cur := id } (trapArray x id o cause v lane) o cause v lane :=
    heldEntry_trapArray (u := { s with cur := id }) from_.control nest
  have low : stNest (strandOf x id) = false := by rw [stNest, from_.control.status]; exact nest
  refine { entry with elems := fun r l => ?_ }
  show listGet 0 (listGet [] (strandOf (trapArray x id o cause v lane) id).arc.regs r) l = listGet 0 (listGet [] (strandOf s id).arc.regs r) l
  rw [regs_trapArray x id o cause v lane low, from_.elems]

theorem trapArray_surroundings :
    (∀ j, j ≠ id → strandOf (trapArray x id o cause v lane) j = strandOf s j) ∧
    (∀ c r, targetRead (trapArray x id o cause v lane) c r 1 = targetRead s c r 1) ∧
    (∀ k, (coreOf (trapArray x id o cause v lane) k).mezz = (coreOf s k).mezz) ∧
    ((strandOf s id).arc.chainIn = none ∨ lane ≠ 0 → ∀ k p,
      listGet [] (coreOf (trapArray x id o cause v lane) k).ports p = listGet [] (coreOf s k).ports p) ∧
    ∀ k p m, lane = 0 → (strandOf s id).arc.chainIn = some (k, p, m) → (strandOf (trapArray x id o cause v lane) id).arc.chainIn = none ∧
      listGet [] (coreOf (trapArray x id o cause v lane) k).ports p = m :: listGet [] (coreOf s k).ports p := by
  obtain ⟨-, -, -, others⟩ := trapArray_frame x id o cause v lane
  refine ⟨fun j hj => (others j hj).trans (from_.others j hj), fun c r => (targetRead_trapArray ..).trans (from_.bytes c r),
    fun k => (mezz_trapArray ..).trans (by rw [coreOf_congr from_.cores]), fun kept k p => ?_, ?_⟩
  · rw [ports_trapArray_kept x id o cause v lane k (by rwa [from_.message]), coreOf_congr from_.cores]
  · rintro k p m rfl message
    refine ⟨chainIn_trapArray_first x id o cause v, ?_⟩
    rw [ports_trapArray_returned x id o cause v (by rwa [from_.message]), coreOf_congr from_.cores]

end

/-! ## The watchdog (R79, R197, R259) -/

theorem encode_vwaitm (c b i : BitVec 5) (m : BitVec 2) (p g z : BitVec 1) (o : BitVec 2) :
    encode (.vwaitm c b i m p g z o) = some (wordM 0x2D c b i m p g 6 (0#1 ++ z ++ o)) :=
  encode_of_toNat rfl (by
    unfold wordM
    simp only [toNat_append_add, BitVec.reduceToNat]
    omega)

section
variable {s : State} {id : Nat}

theorem watchdog_off (h : watchdogOn s id = false) : exec (.watchdog id) s = .next s := if_pos (by simp [h])

/-- The strand waits at an instruction of the control side that the watchdog measures. -/
def ParkedControl (b : Option Block) : Prop :=
  (∃ x y, b = some (.semwait x y)) ∨ (∃ x y, b = some (.barwait x y)) ∨ (∃ x, b = some (.uwait x)) ∨ (∃ x y, b = some (.collw x y)) ∨
    b = some .endWait

/-- The watchdog's trap on the array side. -/
def watchdogTrap (s : State) (id : Nat) (o : Vop) (lane : Nat) : State :=
  trapArray (modStrand (clearWatches s id) id fun x => { x with slot := .run }) id o cWATCHDOG 0 lane

theorem watchdog_entry {h : Held} {r : List Held} {lane : Nat} (on : watchdogOn s id = true) (viq : (strandOf s id).arc.viq = h :: r)
    (waits : waitLane (strandOf s id).arc = some lane) :
    exec (.watchdog id) s = .next (watchdogTrap s id ⟨h.word, h.op1, h.op2⟩ lane) := by
  show execWatchdog id s = _
  unfold execWatchdog
  dsimp only
  rw [if_neg (by simp [on]), waits, viq]
  rfl

/-- What the watchdog makes of a wait that is not one of the oldest entry. -/
def watchdogWait (s : State) (id : Nat) (b : Option Block) : Res :=
  match b with
  | some (.vwaitm c b i m p g z o) => .next (watchdogTrap s id (vop s id (wordM 0x2D c b i m p g 6 (0#1 ++ z ++ o)) c b) 0)
  | some (.semwait _ _) | some (.barwait _ _) | some (.uwait _) | some (.collw _ _) | some .endWait =>
    if (strandOf s id).slot = .park ∧ behind (strandOf s id) = false then .next (trapHere (clearWatches s id) id cWATCHDOG 0)
    else .next s
  | _ => .next s

theorem watchdog_waits (on : watchdogOn s id = true) (waits : waitLane (strandOf s id).arc = none) :
    exec (.watchdog id) s = watchdogWait s id (strandOf s id).blocked := by
  show execWatchdog id s = _
  unfold execWatchdog
  dsimp only
  rw [if_neg (by simp [on]), waits]
  cases (strandOf s id).arc.viq <;> rfl

theorem watchdog_control (on : watchdogOn s id = true) (b : ParkedControl (strandOf s id).blocked)
    (waits : waitLane (strandOf s id).arc = none) : exec (.watchdog id) s =
      if (strandOf s id).slot = .park ∧ behind (strandOf s id) = false then .next (trapHere (clearWatches s id) id cWATCHDOG 0)
      else .next s := by
  rw [watchdog_waits on waits]
  rcases b with ⟨x, y, e⟩ | ⟨x, y, e⟩ | ⟨x, e⟩ | ⟨x, y, e⟩ | e <;> rw [e] <;> rfl

theorem watchdog_vwaitm {c b i : BitVec 5} {m : BitVec 2} {p g z : BitVec 1} {o : BitVec 2} (on : watchdogOn s id = true)
    (waits : waitLane (strandOf s id).arc = none) (parked : (strandOf s id).blocked = some (.vwaitm c b i m p g z o)) :
    exec (.watchdog id) s = .next (watchdogTrap s id (vop s id (wordM 0x2D c b i m p g 6 (0#1 ++ z ++ o)) c b) 0) := by
  rw [watchdog_waits on waits, parked]
  rfl

theorem waitLane_none (h : (strandOf s id).arc.waits = none) : waitLane (strandOf s id).arc = none := by
  unfold waitLane
  rw [h]

end

/-! ## The oldest entry traps (R198, R229) -/

section
variable {s : State} {id : Nat} {h : Held} {r : List Held} (run : (strandOf s id).slot = .run) (viq : (strandOf s id).arc.viq = h :: r)
  (c : BitVec 6) (v : Word) (lane : Nat)
include run viq

theorem arrayTrap_eq : exec (.arrayTrap id c v lane) s =
    if wordRaises h.word c.toNat then .next (trapArray s id ⟨h.word, h.op1, h.op2⟩ c.toNat v lane) else .next s := by
  show execArrayTrap id c v lane s = _
  unfold execArrayTrap
  rw [run, viq]

end

/-- R198: of the Mezzanine's words only MXDRN raises a trap, for its swap. -/
theorem wordRaises_mezzanine {w : BitVec 32} {c : Nat} (mezz : w.toNat / 2 ^ 26 = 0x30)
    (h : w.toNat % 256 ≠ 4 ∨ c ∉ [cVAULT, cARCADE_PARITY]) : wordRaises w c = false := by
  simp only [List.mem_cons, List.not_mem_nil, or_false] at h
  simp only [wordRaises, mezz]
  rcases h with h | h
  · simp [h]
  · simp [h]

/-! ## Strands replaced twice -/

theorem tblSet_tblSet {α : Type} (t : Tbl α) (k : Nat) (v w : α) : tblSet (tblSet t k v) k w = tblSet t k w := by
  induction t with
  | nil => simp [tblSet]
  | cons p r ih =>
    obtain ⟨j, x⟩ := p
    by_cases below : k < j
    · simp [tblSet, below]
    · by_cases here : k = j
      · subst here
        simp [tblSet]
      · simp [tblSet, below, here, ih]

theorem setStrand_setStrand (s : State) (id : Nat) (t u : Strand) : setStrand (setStrand s id t) id u = setStrand s id u := by
  simp only [setStrand, tblSet_tblSet]

/-! ## Parked instructions and HOST pages (R79, R97, R223, R224) -/

section
variable {s u : State} {id : Nat} {b : Block}

/-- The state in which a parked instruction runs again. -/
def retestState (s : State) (id : Nat) : State := { setStrand s id { (strandOf s id) with slot := .run } with cur := id }

theorem parkWake_eq (parked : (strandOf s id).slot = .park) (blocked : (strandOf s id).blocked = some b)
    (run : retest b (retestState s id) = .next u) : exec (.parkWake id) s =
      if (strandOf u id).blocked = some .hostPage ∨ trapsEarly (strandOf s id) (strandOf u id) = true then .next s
      else if (strandOf u id).slot = .park then
        .next { setStrand u id { (strandOf u id) with hostAnswer := none } with cur := s.cur }
      else .next { u with cur := s.cur } := by
  have again : retest b (modStrand { s with cur := id } id fun x => { x with slot := .run }) = .next u := run
  show execParkWake id s = _
  unfold execParkWake
  dsimp only
  rw [parked, blocked]
  dsimp only
  rw [again]
  rfl

theorem parkWake_not_parked (h : (strandOf s id).slot ≠ .park) : exec (.parkWake id) s = .next s := by
  show execParkWake id s = _
  unfold execParkWake
  dsimp only
  split
  · exact absurd ‹_› h
  · rfl

theorem parkWake_wait (parked : (strandOf s id).slot = .park) (blocked : (strandOf s id).blocked = some .wait) :
    exec (.parkWake id) s = .next (setStrand s id { past (strandOf s id) with slot := .run }) := by
  rw [parkWake_eq parked blocked (u := finish (retestState s id) id) rfl]
  have gone : strandOf (finish (retestState s id) id) id = { past (strandOf s id) with slot := .run } := by
    rw [strandOf_finish]
    exact congrArg past (strandOf_setStrand s id _)
  have calm : trapsEarly (strandOf s id) (strandOf (finish (retestState s id) id) id) = false := by
    rw [gone]
    simp [trapsEarly, past, stNest]
  have ran : strandOf (retestState s id) id = { (strandOf s id) with slot := .run } := strandOf_setStrand s id _
  have next : { finish (retestState s id) id with cur := s.cur } =
      setStrand (setStrand s id { (strandOf s id) with slot := .run }) id (past (strandOf (retestState s id) id)) := rfl
  rw [calm, gone, if_neg (by simp [past]), if_neg (by simp), next, ran, setStrand_setStrand]
  rfl

theorem hostCompletion_page (ok : Bool) (h : (strandOf s id).slot = .run ∨ (strandOf s id).slot = .save)
    (blocked : (strandOf s id).blocked = some .hostPage) :
    exec (.hostCompletion id ok) s = .next (setStrand s id { (strandOf s id) with hostAnswer := some ok }) := by
  show execHostCompletion id ok s = _
  refine Eq.trans ?_ (congrArg Host.Outcome.next (rfl : modStrand s id (fun x => { x with hostAnswer := some ok }) = _))
  unfold execHostCompletion
  dsimp only
  rw [blocked]
  rcases h with e | e <;> rw [e]

theorem hostCompletion_entry (ok : Bool) (h : (strandOf s id).slot = .run) (blocked : (strandOf s id).blocked ≠ some .hostPage)
    (waits : (strandOf s id).arc.waits = some (.host none)) : exec (.hostCompletion id ok) s =
      .next (setStrand s id { (strandOf s id) with arc := { (strandOf s id).arc with waits := some (.host (some ok)) } }) := by
  have answered : modArc s id (fun a => { a with waits := a.waits.map fun w => if w = .host none then .host (some ok) else w }) =
      setStrand s id { (strandOf s id) with arc := { (strandOf s id).arc with waits := some (.host (some ok)) } } := by
    rw [modArc, modStrand, waits]
    rfl
  rw [← answered]
  show execHostCompletion id ok s = _
  unfold execHostCompletion
  dsimp only
  rw [h]
  split
  · exact absurd ‹_› blocked
  · exact absurd ‹SlotState.run = .save› (by decide)
  · exact absurd ‹SlotState.run = .park› (by decide)
  · rfl

theorem hostCompletion_vwaitm (ok : Bool) {c b i : BitVec 5} {m : BitVec 2} {p g z : BitVec 1} {o : BitVec 2}
    (h : (strandOf s id).slot = .park) (blocked : (strandOf s id).blocked = some (.vwaitm c b i m p g z o)) :
    exec (.hostCompletion id ok) s = exec (.parkWake id) (setStrand s id { (strandOf s id) with hostAnswer := some ok }) := by
  refine Eq.trans ?_ (congrArg (execParkWake id) (rfl : modStrand s id (fun x => { x with hostAnswer := some ok }) = _))
  show execHostCompletion id ok s = _
  unfold execHostCompletion
  dsimp only
  rw [h, blocked]

theorem pollStrand_vwaitm {c b i : BitVec 5} {m : BitVec 2} {p g z : BitVec 1} {o : BitVec 2}
    (h : (strandOf s id).slot = .park) (blocked : (strandOf s id).blocked = some (.vwaitm c b i m p g z o)) :
    pollStrand id s = exec (.hostCompletion id true) s := by
  rw [hostCompletion_vwaitm true h blocked]
  refine Eq.trans ?_ (congrArg (execParkWake id) (rfl : modStrand s id (fun x => { x with hostAnswer := some true }) = _))
  rw [pollStrand, h, blocked]

theorem pollAll_one (id : Nat) (s : State) : pollAll [id] s = pollStrand id s := by
  simp only [pollAll]
  cases pollStrand id s <;> rfl

theorem hostPoll_one {c b i : BitVec 5} {m : BitVec 2} {p g z : BitVec 1} {o : BitVec 2}
    (h : (strandOf s id).slot = .park) (blocked : (strandOf s id).blocked = some (.vwaitm c b i m p g z o))
    (one : busyStrands s (fun i t => dieIdx i == dieIdx id && t.slot == .park) = [id]) (pool : (dieOf s (dieIdx id)).waitPool = []) :
    exec (.hostPoll (dieIdx id)) s = exec (.hostCompletion id true) s := by
  have counters : pollCounters (dieIdx id) (dieOf s (dieIdx id)).waitPool.length s = s := by rw [pool]; rfl
  show execHostPoll (dieIdx id) s = _
  unfold execHostPoll
  dsimp only
  rw [counters, one, pollAll_one, pollStrand_vwaitm h blocked]

end

/-! ## The clauses of the obligation -/

/-- R276: what the sequencer does at a boundary with ready slots. -/
theorem sequencerSelect_serves (s : State) (c : Nat) (free : served s c = none) (some_ : readySlots s c ≠ []) :
    let land := fun (k : Nat) => stLanding (strandOf s (4 * c + k))
    let old := deficitOf (coreOf s c)
    ∃ t, ∃ k ∈ readySlots s c, exec (.sequencerSelect c) s = .next t ∧ (coreOf t c).sequencer = some k ∧
      let new := deficitOf (coreOf t c)
      (∀ j ∈ readySlots s c, ServedFirst new land k j) ∧
      ((∀ k ∈ readySlots s c, old (land k) ≤ 0) → ∃ n : Nat, 0 < n ∧
        (∀ j ∈ readySlots s c, new (land j) = refilled n (weightOf s c (land j)) (old (land j))) ∧
        ((∃ j ∈ readySlots s c, 0 < weightOf s c (land j)) → (∃ j ∈ readySlots s c, 0 < new (land j)) ∧
          ∀ m < n, ∀ j ∈ readySlots s c, old (land j) + m * weightOf s c (land j) ≤ 0)) ∧
      ((¬ ∀ k ∈ readySlots s c, old (land k) ≤ 0) → ∀ l, new l = old l) ∧
      (∀ l, (∀ j ∈ readySlots s c, land j ≠ l) → new l = old l) ∧
      t.strands = s.strands ∧ t.mem = s.mem ∧ t.dies = s.dies ∧ ∀ d, d ≠ c → coreOf t d = coreOf s d := by
  intro land old
  have ascending := readySlots_ascending s c
  have run := sequencerSelect_chooses s c free
  generalize readySlots s c = ready at *
  obtain ⟨x, r, rfl⟩ := List.exists_cons_of_ne_nil some_
  obtain ⟨sequencer, among, first⟩ := chooseAmong_chooses s c x r ascending
  have only := onlyCores_chooseAmong s c (x :: r)
  have inside : ∀ j ∈ x :: r, land j ∈ slotLandings s c (x :: r) := fun j hj => (mem_slotLandings s c _ _).2 ⟨j, hj, rfl⟩
  refine ⟨_, _, among, run, sequencer, first, fun debt => ?_, fun credit l => ?_, fun l absent => ?_, only.strands, only.mem,
    by rw [only], fun d hd => coreOf_chooseAmong_ne s c x r hd⟩
  · have owed : ∀ l ∈ slotLandings s c (x :: r), old l ≤ 0 := fun l hl => by
      obtain ⟨k, hk, rfl⟩ := (mem_slotLandings s c _ l).1 hl
      exact debt k hk
    have new : ∀ j ∈ x :: r, deficitOf (coreOf (chooseAmong s c (x :: r)) c) (land j) =
        refilled (refillRounds s c (slotLandings s c (x :: r))) (weightOf s c (land j)) (old (land j)) := fun j hj => by
      rw [deficitOf_chooseAmong, choiceDeficits_debt s c debt]
      exact (deficitOf_refillDeficits s c _ (nodup_eraseDups _) _).trans (if_pos (inside j hj))
    refine ⟨_, refillRounds_pos s c (slotLandings s c (x :: r)), new, fun ⟨j, hj, heavy⟩ => ?_⟩
    obtain ⟨⟨l, hl, above⟩, fewer⟩ := refillRounds_reach s c _ owed ⟨land j, inside j hj, heavy⟩
    obtain ⟨k, hk, rfl⟩ := (mem_slotLandings s c _ l).1 hl
    exact ⟨⟨k, hk, (new k hk).symm ▸ above⟩, fun m few i hi => fewer m few _ (inside i hi)⟩
  · rw [deficitOf_chooseAmong, choiceDeficits_credit s c credit]
  · rw [deficitOf_chooseAmong]
    exact deficitOf_choiceDeficits_other s c absent

theorem parkedControl_of_mem {o : Option Block} {a b : BitVec 5} (h : o ∈ [some (.semwait a b), some (.barwait a b), some (.uwait a),
    some (.collw a b), some .endWait]) : ParkedControl o := by
  simp only [List.mem_cons, List.not_mem_nil, or_false] at h
  rcases h with h | h | h | h | h
  · exact .inl ⟨a, b, h⟩
  · exact .inr (.inl ⟨a, b, h⟩)
  · exact .inr (.inr (.inl ⟨a, h⟩))
  · exact .inr (.inr (.inr (.inl ⟨a, b, h⟩)))
  · exact .inr (.inr (.inr (.inr h)))

theorem retest_of_mem {i : Instr} {b : Block} {x y z : BitVec 5} {m : BitVec 2} {p g w : BitVec 1} {o : BitVec 2}
    (h : (i, b) ∈ [(.semwait x y, .semwait x y), (.barwait x y, .barwait x y), (.uwait x, .uwait x), (.collw x y, .collw x y),
      (.endStrand, .endWait), ((.vwaitm x y z m p g w o, .vwaitm x y z m p g w o) : Instr × Block)]) (s : State) :
    retest b s = exec i s := by
  simp only [List.mem_cons, List.not_mem_nil, or_false, Prod.mk.injEq] at h
  rcases h with ⟨rfl, rfl⟩ | ⟨rfl, rfl⟩ | ⟨rfl, rfl⟩ | ⟨rfl, rfl⟩ | ⟨rfl, rfl⟩ | ⟨rfl, rfl⟩ <;> rfl

/-- Settles O43: the sequencer's choice is a fold that prefers by `ServedFirst`; the traps of waits are traps on the array side raised
from a state that `RaisedFrom` describes; parked instructions run again through `parkWake_eq`. -/
theorem sequencerAndWaits : Obligations.SequencerAndWaits := by
  refine ⟨fun s c => ⟨sequencerSelect_none s c, fun busy => if_pos busy, sequencerSelect_serves s c⟩, fun s id => ?_, ?_, fun s id => ?_⟩
  · intro t held here
    have raised : ∀ (i : Instr) (x : State) (o : Vop) (cause : Nat) (v : Word) (lane : Nat), RaisedFrom s x id →
        exec i s = .next (trapArray x id o cause v lane) → held i o cause v lane := fun i x o cause v lane from_ run nest =>
      ⟨_, run, heldTrap_raised from_ o cause v lane nest, trapArray_surroundings from_ o cause v lane⟩
    refine ⟨watchdog_off, fun on => ⟨?_, ?_, ?_⟩, ?_⟩
    · intro a b parked blocked waits
      refine ⟨trapHere (clearWatches s id) id cWATCHDOG 0, ?_, strandOf_takeTrap .., ?_, takeTrap_cores .., ?_⟩
      · have quiet : behind (strandOf s id) = false := Option.isSome_eq_false_iff.2 (Option.isNone_iff_eq_none.2 waits)
        rw [watchdog_control on (parkedControl_of_mem blocked) (waitLane_none waits), if_pos ⟨parked, quiet⟩]
      · exact fun j hj => strandOf_trapHere_ne _ _ _ hj
      · intro c r
        rw [trapHere, takeTrap_eq]
        cases r <;> rfl
    · intro h r a viq waits
      refine ⟨fun x b n m kind => ?_, fun x p kind => ?_, fun o b c parked kind blocked => ?_⟩
      · refine raised _ _ _ _ _ _ (raisedFrom_woken s id) (watchdog_entry on viq ?_)
        rcases kind with rfl | rfl <;> rw [waitLane, waits]
      · refine raised _ _ _ _ _ _ (raisedFrom_woken s id) (watchdog_entry on viq ?_)
        rcases kind with rfl | rfl <;> rw [waitLane, waits]
      · have unmeasured : waitLane (strandOf s id).arc = none := by
          rcases kind with rfl | rfl <;> rw [waitLane, waits]
        have busy : behind (strandOf s id) = true := Option.isSome_iff_exists.2 ⟨a, waits⟩
        rw [watchdog_control on (parkedControl_of_mem blocked) unmeasured, if_neg (by simp [busy])]
    · intro c b i m p g z o w word waits blocked
      obtain rfl := Option.some.inj ((encode_vwaitm c b i m p g z o).symm.trans word)
      exact raised _ _ _ _ _ _ (raisedFrom_woken s id) (watchdog_vwaitm on (waitLane_none waits) blocked)
    · intro h r c v lane run viq
      have eq := arrayTrap_eq run viq c v lane
      refine ⟨fun mezz no => ?_, fun no => ?_, fun yes => ?_, fun yes nest => ?_⟩
      · rw [eq, wordRaises_mezzanine mezz no]
        rfl
      · rw [eq, no]
        rfl
      · exact raised _ s _ _ _ _ (.refl s id) (by rw [eq, if_pos yes])
      · exact ⟨_, by rw [eq, if_pos yes], strandOf_trapArray_failed s id _ _ _ _ nest⟩
  · intro s u id i b x y z m p g w o among parked blocked run on
    have eq := parkWake_eq parked blocked ((retest_of_mem among _).trans run)
    refine ⟨fun h => ?_, fun h go => ?_, fun h stay => ?_⟩
    · rw [eq, if_pos h]
    · rw [eq, if_neg h, if_neg go]
    · rw [eq, if_neg h, if_pos stay]
  · exact ⟨parkWake_not_parked, parkWake_wait, hostCompletion_entry, hostCompletion_page, fun ok x y z m p g w o parked blocked =>
      ⟨hostCompletion_vwaitm ok parked blocked, hostPoll_one parked blocked⟩⟩

end Sys2Proof.Machine

namespace Sys2Proof.Machine

/-! ## What the engine's reads leave (R361, R363) -/

/-- Beside reports, sequence numbers and coded lines that it fills a read of the engine changes nothing. -/
structure EngineReads (s w : State) : Prop where
  strands : w.strands = s.strands
  dram : w.mem.dram = s.mem.dram
  l2 : w.mem.l2 = s.mem.l2
  engine : w.pkg.engine = s.pkg.engine

theorem EngineReads.refl (s : State) : EngineReads s s := ⟨rfl, rfl, rfl, rfl⟩

theorem EngineReads.trans {s t u : State} (h : EngineReads s t) (g : EngineReads t u) : EngineReads s u :=
  ⟨g.strands.trans h.strands, g.dram.trans h.dram, g.l2.trans h.l2, g.engine.trans h.engine⟩

theorem engineReads_noteFault (s : State) (f : XFault) : EngineReads s (noteFault s f) := by
  unfold noteFault addReportOnce
  split
  · exact .refl s
  · split
    · exact .refl s
    · exact ⟨rfl, rfl, rfl, rfl⟩

theorem engineReads_fillCoded (s : State) (r j : Nat) (sl : Bool) : EngineReads s (fillCoded s r j sl) := by
  unfold fillCoded
  split
  · exact .refl s
  · split
    split <;> exact ⟨rfl, rfl, rfl, rfl⟩

theorem engineReads_targetFill (s : State) (t : Target) : EngineReads s (targetFill s t) := by
  unfold targetFill
  split
  · exact engineReads_fillCoded ..
  · exact .refl s

theorem noteRemoteAs_eq (s : State) (issuer cmd tag sid die cls : Nat) (t : Target) (v : Nat) :
    noteRemoteAs s issuer cmd tag sid die cls t v = { s with net := (noteRemoteAs s issuer cmd tag sid die cls t v).net } := by
  unfold noteRemoteAs
  split
  · rfl
  · split
    · rfl
    · dsimp only
      split
      · split <;> rfl
      · rfl

theorem engineReads_noteEngine (s : State) (ag : Agent) (t : Target) : EngineReads s (noteEngine s ag t) := by
  rw [noteEngine, noteRemoteAs_eq]
  exact ⟨rfl, rfl, rfl, rfl⟩

theorem engineReads_engineRead (s : State) (ag : Agent) (r : PageRule) (a : Word) (z : Nat) : EngineReads s (engineRead s ag r a z).1 := by
  unfold engineRead
  split
  · exact engineReads_noteFault ..
  · split
    · exact .refl s
    · exact (engineReads_targetFill ..).trans (engineReads_noteEngine ..)

theorem engineReads_readBuffer (ag : Agent) (a : Word) (z n i : Nat) (s : State) : EngineReads s (readBuffer ag a z n i s).1 := by
  induction n generalizing i s with
  | zero => exact .refl s
  | succ n ih =>
    have first := engineReads_engineRead s ag .plain (a + BitVec.ofNat 64 (z * i)) z
    unfold readBuffer
    split
    case h_1 u f e =>
      rw [e] at first
      exact first
    case h_2 u v e =>
      rw [e] at first
      have rest := ih (i + 1) u
      split
      all_goals
        rename_i e
        rw [e] at rest
        exact first.trans rest

theorem engineReads_localParts (l : List EngineOp) (s : State) : EngineReads s (localParts l s).1 := by
  induction l generalizing s with
  | nil => exact .refl s
  | cons o r ih =>
    have first : EngineReads s (readTable s o).1 := engineReads_readBuffer ..
    unfold localParts
    split
    case h_1 u f e =>
      rw [e] at first
      exact first
    case h_2 u t e =>
      rw [e] at first
      have rest := ih u
      split
      all_goals
        rename_i e
        rw [e] at rest
        exact first.trans rest

/-! ## Matching keeps what the operations are (R365) -/

/-- An operation with another end. -/
def SameOp (o p : EngineOp) : Prop := p.issuer = o.issuer ∧ p.coll = o.coll ∧ p.descAddr = o.descAddr

/-- The contributions present have been matched: operations may have ended, and memory holds what it held. -/
structure Matched (s w : State) : Prop where
  strands : w.strands = s.strands
  dram : w.mem.dram = s.mem.dram
  l2 : w.mem.l2 = s.mem.l2
  ops : ∃ g : EngineOp → EngineOp, w.pkg.engine.ops = s.pkg.engine.ops.map g ∧ ∀ o, SameOp o (g o)

theorem EngineReads.matched {s w : State} (h : EngineReads s w) : Matched s w :=
  ⟨h.strands, h.dram, h.l2, id, by rw [h.engine, List.map_id], fun _ => ⟨rfl, rfl, rfl⟩⟩

theorem EngineReads.thenEnds {s u : State} (h : EngineReads s u) (gid cseq status : Nat) (f : EngineOp → Word × Word) :
    Matched s (endColl u gid cseq status f) where
  strands := h.strands
  dram := h.dram
  l2 := h.l2
  ops := ⟨fun o => if isColl gid cseq o && o.ended.isNone then { o with ended := some (f o).1, flags := (f o).2 } else o,
    by rw [← h.engine]; rfl, fun o => by dsimp only; split <;> exact ⟨rfl, rfl, rfl⟩⟩

theorem matched_matchColl (s : State) (gid cseq : Nat) : Matched s (matchColl s gid cseq) := by
  have reads := engineReads_localParts (collOps s gid cseq) s
  unfold matchColl
  split
  case h_1 u o f e =>
    rw [e] at reads
    exact reads.thenEnds ..
  case h_2 u ps e =>
    rw [e] at reads
    dsimp only
    split
    · exact reads.thenEnds ..
    · split
      · exact reads.thenEnds ..
      · exact reads.matched

/-! ## A collective enters the engine (R364, R365) -/

/-- The operation `o` has entered the engine as the last, as `e`. -/
structure Entered (s w : State) (o e : EngineOp) : Prop where
  strands : w.strands = s.strands
  dram : w.mem.dram = s.mem.dram
  l2 : w.mem.l2 = s.mem.l2
  last : w.pkg.engine.ops.getLast? = some e
  length : w.pkg.engine.ops.length = s.pkg.engine.ops.length + 1
  same : SameOp o e

theorem enterColl_enters (s : State) (o : EngineOp) (d : CollDesc) : ∃ e, Entered s (enterColl s o d) o e ∧
    ∀ st, outcomeOf (ageOutcomes s d.gid d.cseq) d.gid d.cseq = some st → e.ended = some (statusWord 0 0 (lateStatus st)) := by
  unfold enterColl
  dsimp only
  cases late : outcomeOf (ageOutcomes s d.gid d.cseq) d.gid d.cseq with
  | some st =>
    refine ⟨{ o with ended := some (statusWord 0 0 (lateStatus st)) }, ⟨rfl, rfl, rfl, ?_, ?_, rfl, rfl, rfl⟩,
      fun x e => by rw [Option.some.inj e]⟩
    · exact List.getLast?_concat ..
    · exact List.length_append
  | none =>
    obtain ⟨strands, dram, l2, g, ops, same⟩ := matched_matchColl (addOp (ageOutcomes s d.gid d.cseq) o) d.gid d.cseq
    have all : (matchColl (addOp (ageOutcomes s d.gid d.cseq) o) d.gid d.cseq).pkg.engine.ops = s.pkg.engine.ops.map g ++ [g o] :=
      ops.trans List.map_append
    refine ⟨g o, ⟨strands, dram, l2, ?_, ?_, same o⟩, nofun⟩
    · rw [all, List.getLast?_concat]
    · simp [all]

/-! ## COLL (R364) -/

theorem toNat_wordS (maj : BitVec 6) (a b fn5 : BitVec 5) (k : BitVec 11) : (wordS maj a b fn5 k).toNat =
    maj.toNat * 2 ^ 26 + a.toNat * 2 ^ 21 + b.toNat * 2 ^ 16 + fn5.toNat * 2 ^ 11 + k.toNat := by
  unfold wordS
  simp only [toNat_append_add]
  ring

theorem toNat_wordColl (kind : BitVec 2) (m : BitVec 1) (b : BitVec 5) :
    (wordColl kind m b).toNat = 0xE0000000 + b.toNat * 0x10000 + m.toNat * 0x4 + kind.toNat := by
  rw [wordColl, toNat_wordS]
  simp only [toNat_append_add, BitVec.reduceToNat]
  omega

/-- The descriptor at a target, doubleword by doubleword. -/
def descWords (s : State) (x : Target) (k : Nat) : Word :=
  BitVec.ofNat 64 (targetRead s (clusterIdx s.cur) x 64 / 2 ^ (64 * k) % 2 ^ 64)

section
variable {s : State} {kind : BitVec 2} {m : BitVec 1} {b : BitVec 5} {v : Word} (at_ : reg s s.cur b = v)
include at_

theorem collOp_misaligned (h : v.toNat % 64 ≠ 0) : collOp kind m b s = trapHere s s.cur cMISALIGN v := by
  subst at_
  exact if_pos h

theorem collOp_refused {f : XFault} (aligned : v.toNat % 64 = 0) (h : engineTarget s (agentOf s s.cur) .plain false v = .error f) :
    collOp kind m b s = trapHere (noteFault s f) s.cur f.cause v := by
  subst at_
  unfold collOp
  dsimp only
  rw [if_neg (by simp [aligned]), h]

theorem collOp_unreadable {x : Target} (aligned : v.toNat % 64 = 0) (h : engineTarget s (agentOf s s.cur) .plain false v = .ok x)
    (bad : (targetBad s (clusterIdx s.cur) x 64 || unreachableTarget s (sidOf s.cur 0) x) = true) :
    collOp kind m b s = trapHere s s.cur cMEM_UE v := by
  subst at_
  unfold collOp
  dsimp only
  rw [if_neg (by simp [aligned]), h]
  exact if_pos bad

theorem collOp_checked {x : Target} (aligned : v.toNat % 64 = 0) (h : engineTarget s (agentOf s s.cur) .plain false v = .ok x)
    (good : (targetBad s (clusterIdx s.cur) x 64 || unreachableTarget s (sidOf s.cur 0) x) = false)
    (free : streamHeld s s.cur 0 [homeDie s x] = false) :
    collOp kind m b s = collChecked (noteRemote s s.cur 0 0 x 0) s.cur (wordColl kind m b) v (.coll kind m b)
      (descReserved (descWords s x)) (descOf kind.toNat (m == 1) (descWords s x)) := by
  subst at_
  unfold collOp
  dsimp only
  rw [if_neg (by simp [aligned]), h]
  exact (if_neg (Bool.eq_false_iff.1 good)).trans (if_neg (by simp [free]))

end

section
variable {s x : State} {w : BitVec 32} {a : Word} {blk : Block} {bad : Bool} {d : CollDesc} {id : Nat}

theorem collChecked_illegal (h : (bad || collDescBad d || collInFlight x d) = true) :
    collChecked x id w a blk bad d = trapIllegal x id w := if_pos h

theorem collChecked_misaligned {y : Word} (h : (bad || collDescBad d || collInFlight x d) = false) (mis : collMisaligned d = some y) :
    collChecked x id w a blk bad d = trapHere x id cMISALIGN y := by
  unfold collChecked
  dsimp only
  rw [if_neg (by simp [h]), mis]

/-- The operation that a checked collective enters. -/
def collEntry (x : State) (id : Nat) (a : Word) (d : CollDesc) : EngineOp :=
  ⟨(strandOf x id).issuer, id, stLanding (strandOf x id), stSuper (strandOf x id), (strandOf x id).tag, some d, a.toNat, false, 0, 0, 0,
    none, 0, false⟩

theorem collChecked_passed (h : (bad || collDescBad d || collInFlight x d) = false) (lined : collMisaligned d = none) :
    collChecked x id w a blk bad d =
      if engineFull x then blockOn x id blk else finish (enterColl x (collEntry x id a d) d) id := by
  unfold collChecked
  dsimp only
  rw [if_neg (by simp [h]), lined]
  rfl

end

/-! ## The clauses of the obligation -/

section
variable (b : BitVec 5) (m : BitVec 1)

theorem encode_collAllreduce : encode (.collAllreduce b m) = some (wordColl 0 m b) := encode_of_toNat rfl (toNat_wordColl 0 m b).symm
theorem encode_collRedscat : encode (.collRedscat b m) = some (wordColl 1 m b) := 
  encode_of_toNat rfl (by rw [toNat_wordColl]; simp; omega)
theorem encode_collAllgath : encode (.collAllgath b m) = some (wordColl 2 m b) := 
  encode_of_toNat rfl (by rw [toNat_wordColl]; simp; omega)
theorem encode_collBcast : encode (.collBcast b m) = some (wordColl 3 m b) := 
  encode_of_toNat rfl (by rw [toNat_wordColl]; simp; omega)

end

/-- R101, R360: the instructions that wait for an entry of the engine, and what they do when they are tried again. -/
theorem engineEntry_retries {s : State} {id : Nat} {i : Instr} {blk : Block} {a : BitVec 4} {b : BitVec 5} {m : BitVec 1}
    (blocked : (strandOf s id).blocked = some blk)
    (among : (i, blk) ∈ [(.fput a b, .transfer false (a ++ 0#1) b), (.fget a b, .transfer true (a ++ 0#1) b),
      (.collAllreduce b m, .coll 0 m b), (.collRedscat b m, .coll 1 m b), (.collAllgath b m, .coll 2 m b),
      ((.collBcast b m, .coll 3 m b) : Instr × Block)]) :
    ∃ run : State → State, (∀ x, exec i x = .next (run x)) ∧ exec (.engineEntry id) s = .next (retryIssue s id run) := by
  simp only [List.mem_cons, List.not_mem_nil, or_false, Prod.mk.injEq] at among
  have xfer : ∀ g a, blk = .transfer g a b → exec (.engineEntry id) s = .next (retryIssue s id (xferOp g a b)) := by
    rintro g a rfl
    show execEngineEntry id s = _
    rw [execEngineEntry, blocked]
  have coll : ∀ k, blk = .coll k m b → exec (.engineEntry id) s = .next (retryIssue s id (collOp k m b)) := by
    rintro k rfl
    show execEngineEntry id s = _
    rw [execEngineEntry, blocked]
  rcases among with ⟨rfl, e⟩ | ⟨rfl, e⟩ | ⟨rfl, e⟩ | ⟨rfl, e⟩ | ⟨rfl, e⟩ | ⟨rfl, e⟩
  · exact ⟨_, fun _ => rfl, xfer _ _ e⟩
  · exact ⟨_, fun _ => rfl, xfer _ _ e⟩
  · exact ⟨_, fun _ => rfl, coll _ e⟩
  · exact ⟨_, fun _ => rfl, coll _ e⟩
  · exact ⟨_, fun _ => rfl, coll _ e⟩
  · exact ⟨_, fun _ => rfl, coll _ e⟩

theorem engineEntry_idle {s : State} {id : Nat} (xfer : ∀ g a b, (strandOf s id).blocked ≠ some (.transfer g a b))
    (coll : ∀ k m b, (strandOf s id).blocked ≠ some (.coll k m b)) : exec (.engineEntry id) s = .next s := by
  show execEngineEntry id s = _
  unfold execEngineEntry
  split
  · exact absurd ‹_› (xfer _ _ _)
  · exact absurd ‹_› (coll _ _ _)
  · rfl

theorem contributionArrival_late (s : State) (p q : List Contribution) (c : Contribution) {st : Nat}
    (ha : s.pkg.engine.arriving = p ++ c :: q) (ho : outcomeOf s c.desc.gid c.desc.cseq = some st) :
    exec (.contributionArrival p.length) s = .next (modEngine s fun e => { e with
      arriving := p ++ q, sent := (c.source, c.desc.gid, c.desc.cseq, c.desc.rank, lateStatus st) :: e.sent }) := by
  have hi : s.pkg.engine.arriving[p.length]? = some c := by simp [ha]
  have he : s.pkg.engine.arriving.eraseIdx p.length = p ++ q := by
    rw [ha, List.eraseIdx_append_of_length_le le_rfl]
    simp
  rw [exec_contributionArrival, execContributionArrival, hi]
  unfold outcomeOf at ho
  simp only [outcomeOf, modEngine, he, ho]

/-- A contribution has arrived, and waits to be matched. -/
def arrived (s : State) (p q : List Contribution) (c : Contribution) : State := { s with pkg := { s.pkg with engine :=
  { s.pkg.engine with arriving := p ++ q, remote := s.pkg.engine.remote ++ [c] } } }

/-- The first contribution to a collective is kept. -/
theorem matchColl_first (s : State) (c : Contribution) (ops : collOps s c.desc.gid c.desc.cseq = [])
    (remote : collRemote s c.desc.gid c.desc.cseq = [c]) (placed : partMisplaced (remotePart c) = false)
    (agrees : partsDiffer (remotePart c) (remotePart c) = false) (reached : partsLost s [remotePart c] = false) :
    matchColl s c.desc.gid c.desc.cseq = s := by
  have all : ([] : List Part) ++ (collRemote s c.desc.gid c.desc.cseq).map remotePart = [remotePart c] := by rw [remote]; rfl
  rw [matchColl_read s s _ _ [] (by rw [ops]; rfl), all, reached, if_neg (by simp [partsMismatch, placed, agrees, List.eraseDups_cons])]
  rfl

/-- Settles O37: `collOp` case by case, its last case through `enterColl_enters`; a retried instruction runs as at issue. -/
theorem collectiveIssue : Obligations.CollectiveIssue := by
  refine ⟨fun s b m v at_ => ?_, fun s u id a b m i blk blocked run among => ?_, fun s id => engineEntry_idle, fun s p q c arriving => ⟨?_, ?_⟩⟩
  · intro t issues
    have all : ∀ i kind, exec i s = .next (collOp kind m b s) → encode i = some (wordColl kind m b) → issues i kind := by
      intro i kind run word
      refine ⟨fun h => trapsHere_of s i _ _ (run.trans (congrArg _ (collOp_misaligned at_ h))), fun aligned f h => ?_,
        fun aligned x h bad => ?_, fun aligned x h good free => ?_⟩
      · rw [collOp_refused at_ aligned h, noteFault_eq] at run
        exact ⟨_, run, strandOf_takeTrap .., trapHere_mem ..⟩
      · exact trapsHere_of s i _ _ (run.trans (congrArg _ (collOp_unreadable at_ aligned h (by simpa using bad))))
      · intro w d wrong
        rw [collOp_checked at_ aligned h good free, noteRemote_eq] at run
        generalize (noteRemote s s.cur 0 0 x 0).net = net at run
        refine ⟨fun bad y hy => ?_, fun fine y mis => ?_, fun fine lined full => ?_, fun fine lined room => ?_⟩
        · obtain rfl : wordColl kind m b = y := Option.some.inj (word.symm.trans hy)
          exact ⟨_, run.trans (congrArg _ (collChecked_illegal bad)), strandOf_takeTrap .., trapHere_mem .., trapHere_pkg ..⟩
        · exact ⟨_, run.trans (congrArg _ (collChecked_misaligned fine mis)), strandOf_takeTrap .., trapHere_mem .., trapHere_pkg ..⟩
        · have waits := (collChecked_passed (x := { s with net := net }) (id := s.cur) (w := wordColl kind m b) (a := v)
            (blk := .coll kind m b) fine lined).trans (if_pos full)
          exact ⟨_, run.trans (congrArg _ waits), strandOf_modStrand .., rfl, rfl⟩
        · have enters := (collChecked_passed (x := { s with net := net }) (id := s.cur) (w := wordColl kind m b) (a := v)
            (blk := .coll kind m b) fine lined).trans (if_neg (Bool.eq_false_iff.1 room))
          obtain ⟨e, ⟨strands, dram, l2, last, length, issuer, coll, addr⟩, late⟩ :=
            enterColl_enters { s with net := net } (collEntry { s with net := net } s.cur v d) d
          refine ⟨_, e, run.trans (congrArg _ enters), ?_, fun j hj => ?_, dram, l2, last, length, issuer, coll, addr, late⟩
          · rw [strandOf_finish, strandOf_congr strands]
            rfl
          · rw [finish, strandOf_modStrand_ne _ _ _ _ hj, strandOf_congr strands]
            rfl
    exact ⟨all _ _ rfl (encode_collAllreduce b m), all _ _ rfl (encode_collRedscat b m), all _ _ rfl (encode_collAllgath b m),
      all _ _ rfl (encode_collBcast b m)⟩
  · obtain ⟨op, runs, retry⟩ := engineEntry_retries blocked among
    obtain rfl : op { s with cur := id } = u := by simpa [runs] using run
    rw [retry]
    rfl
  · intro st ended
    exact ⟨_, contributionArrival_late s p q c arriving ended, rfl, rfl, rfl, rfl, rfl⟩
  · intro open_ ops placed remote agrees reached
    have here : collRemote (arrived s p q c) c.desc.gid c.desc.cseq = [c] := by
      have before : s.pkg.engine.remote.filter (fun x => x.desc.gid == c.desc.gid && x.desc.cseq == c.desc.cseq) = [] := remote
      show (s.pkg.engine.remote ++ [c]).filter _ = [c]
      rw [List.filter_append, before]
      simp
    exact ⟨_, (exec_contributionArrival_matched s p q c arriving open_).trans
      (congrArg _ (matchColl_first (arrived s p q c) c ops here placed agrees reached)), rfl, rfl, rfl, rfl⟩

end Sys2Proof.Machine
namespace Sys2Proof.Machine

/-! ## What the words of a copy leave (R241, R245) -/

/-- Strands, cores, and of clusters all but the Atria are as they were. -/
structure WordMoved (s w : State) : Prop where
  strands : w.strands = s.strands
  cores : w.cores = s.cores
  cluster : ∀ n, ∃ a, clusterOf w n = { clusterOf s n with atrium := a }

theorem wordMoved_of {s w : State} (strands : w.strands = s.strands) (cores : w.cores = s.cores) (clusters : w.clusters = s.clusters) :
    WordMoved s w :=
  ⟨strands, cores, fun n => ⟨(clusterOf s n).atrium, by rw [clusterOf, clusters, clusterOf]⟩⟩

theorem WordMoved.refl (s : State) : WordMoved s s := wordMoved_of rfl rfl rfl

theorem WordMoved.trans {s t u : State} (h : WordMoved s t) (g : WordMoved t u) : WordMoved s u := by
  refine ⟨g.strands.trans h.strands, g.cores.trans h.cores, fun n => ?_⟩
  obtain ⟨a, ha⟩ := h.cluster n
  obtain ⟨b, hb⟩ := g.cluster n
  exact ⟨b, by rw [hb, ha]⟩

theorem wordMoved_noteFault (s : State) (f : XFault) : WordMoved s (noteFault s f) := by
  rw [noteFault_eq]
  exact wordMoved_of rfl rfl rfl

theorem wordMoved_targetFill (s : State) (t : Target) : WordMoved s (targetFill s t) := by
  cases t with
  | coded r o sl =>
    obtain ⟨clusters, -, -, strands, cores, -⟩ := fillCoded_same s r (o / 64) sl
    exact wordMoved_of strands cores clusters
  | atrium o => exact .refl s
  | phys k sl => exact .refl s
  | host a => exact .refl s

theorem wordMoved_noteRemoteAs (s : State) (issuer cmd tag sid die cls : Nat) (t : Target) (v : Nat) :
    WordMoved s (noteRemoteAs s issuer cmd tag sid die cls t v) := by
  rw [noteRemoteAs_eq]
  exact wordMoved_of rfl rfl rfl

theorem clusterOf_setCluster_atrium (s : State) (cl n : Nat) (a : List Host.Cell) :
    ∃ b, clusterOf (setCluster s cl { clusterOf s cl with atrium := a }) n = { clusterOf s n with atrium := b } := by
  by_cases h : n = cl
  · subst h
    exact ⟨a, clusterOf_setCluster ..⟩
  · exact ⟨_, clusterOf_setCluster_ne _ _ _ _ h⟩

theorem wordMoved_targetWrite (s : State) (cl tag : Nat) (t : Target) (n v : Nat) : WordMoved s (targetWrite s cl tag t n v) := by
  obtain ⟨strands, cores⟩ := targetWrite_sides s cl tag t n v
  cases t with
  | atrium o => exact ⟨strands, cores, fun n => clusterOf_setCluster_atrium ..⟩
  | phys k sl =>
    refine wordMoved_of strands cores ?_
    simp only [targetWrite, breakLine, storeLine]
    split <;> rfl
  | coded r o sl =>
    obtain ⟨clusters, -⟩ := fillCoded_same s r (o / 64) sl
    exact wordMoved_of strands cores clusters
  | host a => exact wordMoved_of rfl rfl rfl

theorem wordMoved_ringSignal (s : State) (n : Nat) : WordMoved s (ringSignal s n) := by
  unfold ringSignal raiseVector
  dsimp only
  split
  · split <;> exact wordMoved_of rfl rfl rfl
  · exact wordMoved_of rfl rfl rfl

theorem wordMoved_writeBackError (s : State) (pa tag : Nat) : WordMoved s (writeBackError s pa tag) := by
  unfold writeBackError postEvent
  split
  · exact wordMoved_of rfl rfl rfl
  · dsimp only
    split
    · unfold postSlot
      dsimp only
      refine WordMoved.trans ?_ (wordMoved_ringSignal _ 32)
      exact wordMoved_of rfl rfl rfl
    · exact wordMoved_of rfl rfl rfl

theorem wordMoved_engineStore (s : State) (cl tag issuer cmd sid : Nat) (t : Target) (n v : Nat) :
    WordMoved s (engineStore s cl tag issuer cmd sid t n v) := by
  unfold engineStore
  split
  · split
    · exact wordMoved_writeBackError ..
    · exact .refl s
  · exact (wordMoved_targetWrite ..).trans (wordMoved_noteRemoteAs ..)

theorem wordMoved_readWord (s : State) (cl : Nat) (c : CopyCmd) (o : Nat) : WordMoved s (readWord s cl c o).1 := by
  unfold readWord
  split
  · exact .refl s
  · exact .refl s
  · split
    · exact wordMoved_noteFault ..
    · split
      · exact .refl s
      · split
        · exact .refl s
        · exact (wordMoved_targetFill ..).trans (wordMoved_noteRemoteAs ..)

theorem wordMoved_writeWord (s : State) (cl : Nat) (c : CopyCmd) (o v : Nat) : WordMoved s (writeWord s cl c o v).1 := by
  unfold writeWord
  dsimp only
  split
  · exact wordMoved_noteFault ..
  · split
    · exact .refl s
    · split
      · exact .refl s
      · exact wordMoved_engineStore ..

theorem wordMoved_moveWords (cl : Nat) (c : CopyCmd) (n o : Nat) (s : State) : WordMoved s (moveWords cl c n o s).1 := by
  induction n generalizing o s with
  | zero => exact .refl s
  | succ n ih =>
    have read := wordMoved_readWord s cl c o
    unfold moveWords
    split
    case h_1 u f e =>
      rw [e] at read
      exact read
    case h_2 u v e =>
      rw [e] at read
      have write := wordMoved_writeWord u cl c o v
      split
      case h_1 w f e =>
        rw [e] at write
        exact read.trans write
      case h_2 w e =>
        rw [e] at write
        exact (read.trans write).trans (ih (o + 8) w)

theorem wordMoved_gatherBeat (cl : Nat) (c : CopyCmd) (n o : Nat) (s : State) : WordMoved s (gatherBeat cl c n o s).1 := by
  induction n generalizing o s with
  | zero => exact .refl s
  | succ n ih =>
    have read := wordMoved_readWord s cl c o
    unfold gatherBeat
    split
    case h_1 u f e =>
      rw [e] at read
      exact read
    case h_2 u v e =>
      rw [e] at read
      have rest := ih (o + 8) u
      split
      all_goals
        rename_i e
        rw [e] at rest
        exact read.trans rest

/-- Strands, and of the cluster all but its Atrium, are as they were. -/
structure CopyRan (cl : Nat) (s w : State) : Prop where
  strands : w.strands = s.strands
  cluster : ∃ a, clusterOf w cl = { clusterOf s cl with atrium := a }

theorem WordMoved.copyRan {s w : State} (h : WordMoved s w) (cl : Nat) : CopyRan cl s w := ⟨h.strands, h.cluster cl⟩

theorem CopyRan.trans {cl : Nat} {s t u : State} (h : CopyRan cl s t) (g : CopyRan cl t u) : CopyRan cl s u := by
  obtain ⟨a, ha⟩ := h.cluster
  obtain ⟨b, hb⟩ := g.cluster
  exact ⟨g.strands.trans h.strands, b, by rw [hb, ha]⟩

theorem copyRan_pushBeat (cl : Nat) (s : State) (c : CopyCmd) (v : Nat) : CopyRan cl s (pushBeat s c v) := ⟨rfl, _, rfl⟩

theorem copyRan_moveBeats (cl : Nat) (c : CopyCmd) (n o : Nat) (s : State) : CopyRan cl s (moveBeats cl c n o s).1 := by
  induction n generalizing o s with
  | zero => exact (WordMoved.refl s).copyRan cl
  | succ n ih =>
    have beat := (wordMoved_gatherBeat cl c 8 o s).copyRan cl
    unfold moveBeats
    split
    · split
      case h_1 u f e =>
        rw [e] at beat
        exact beat
      case h_2 u v e =>
        rw [e] at beat
        split
        · exact beat
        · exact (beat.trans (copyRan_pushBeat cl u c v)).trans (ih (o + 64) _)
    · exact (WordMoved.refl s).copyRan cl

theorem copyRan_moveRest (s : State) (cl : Nat) (c : CopyCmd) : CopyRan cl s (moveRest s cl c).1 := by
  unfold moveRest
  dsimp only
  split
  · exact (wordMoved_moveWords ..).copyRan cl
  · exact copyRan_moveBeats ..

section
variable {cl : Nat} {s w : State} (h : CopyRan cl s w)
include h

theorem CopyRan.engineQueue (e : Nat) : engineQueue w cl e = engineQueue s cl e := by
  obtain ⟨a, ha⟩ := h.cluster
  rw [Machine.engineQueue, ha, Machine.engineQueue]

theorem CopyRan.barOf (b : Nat) : barOf w cl b = barOf s cl b := by
  obtain ⟨a, ha⟩ := h.cluster
  rw [Machine.barOf, ha, Machine.barOf]

end

/-! ## Engines (R242, R243) -/

section
variable (s : State) (cl e : Nat) (q : List CopyCmd)

theorem clusterOf_setEngine : clusterOf (setEngine s cl e q) cl =
    { clusterOf s cl with engines := listSet [] (clusterOf s cl).engines e q } := clusterOf_setCluster ..

theorem engineQueue_setEngine : engineQueue (setEngine s cl e q) cl e = q := by
  rw [engineQueue, clusterOf_setEngine]
  exact listGet_listSet ..

theorem engineQueue_setEngine_ne {n : Nat} (h : n ≠ e) : engineQueue (setEngine s cl e q) cl n = engineQueue s cl n := by
  rw [engineQueue, clusterOf_setEngine]
  exact listGet_listSet_ne _ _ _ _ _ h

end

theorem barOf_setEngine (s : State) (cl e b : Nat) (q : List CopyCmd) : barOf (setEngine s cl e q) cl b = barOf s cl b := by
  rw [barOf, clusterOf_setEngine, barOf]

theorem semOf_setEngine (s : State) (cl e n : Nat) (q : List CopyCmd) : semOf (setEngine s cl e q) cl n = semOf s cl n := by
  rw [semOf, clusterOf_setEngine, semOf]

theorem activeCmd_eq {s : State} {cl e : Nat} {c : CopyCmd} {q : List CopyCmd} (h : engineQueue s cl e = c :: q)
    (active : c.state = .active) (mine : mayPerform s cl c = true) : activeCmd s cl e = some c := by
  rw [activeCmd, h]
  simp [active, mine]

theorem setHead_eq {u : State} {cl e : Nat} {c : CopyCmd} {q : List CopyCmd} (h : engineQueue u cl e = c :: q) (d : Option CopyCmd) :
    setHead u cl e d = setEngine u cl e (d.toList ++ q) := by
  rw [setHead, h]
  rfl

/-- What a signal changes: semaphores, barriers and parked strands. -/
structure Signalled (cl : Nat) (s t : State) : Prop where
  mem : t.mem = s.mem
  cores : t.cores = s.cores
  engines : (clusterOf t cl).engines = (clusterOf s cl).engines
  atrium : (clusterOf t cl).atrium = (clusterOf s cl).atrium

theorem Woken.clusterOf {s t : State} (h : Woken s t) (n : Nat) : clusterOf t n = clusterOf s n := by
  rw [Machine.clusterOf, h.1, Machine.clusterOf]

theorem Woken.signalled {s t : State} (h : Woken s t) (cl : Nat) : Signalled cl s t := by
  rw [h.1]
  exact ⟨rfl, rfl, rfl, rfl⟩

theorem Signalled.trans {cl : Nat} {s t u : State} (h : Signalled cl s t) (g : Signalled cl t u) : Signalled cl s u :=
  ⟨g.mem.trans h.mem, g.cores.trans h.cores, g.engines.trans h.engines, g.atrium.trans h.atrium⟩

theorem signalled_setBar (s : State) (cl b : Nat) (x : Barrier) : Signalled cl s (setBar s cl b x) :=
  ⟨rfl, rfl, by rw [clusterOf_setBar], by rw [clusterOf_setBar]⟩

theorem clusterOf_incSem (s : State) (cl n k : Nat) : clusterOf (incSem s cl n k) cl = { clusterOf s cl with
    sems := tblSet (clusterOf s cl).sems n (BitVec.ofNat 32 (min ((semOf s cl n).toNat + k) 0xFFFFFFFF)) } := clusterOf_setCluster ..

theorem signalled_arrive (s : State) (cl b w : Nat) : Signalled cl s (arrive s cl b w).1 :=
  (signalled_setBar s cl b _).trans ((arrive_eq s cl b w).1.signalled cl)

theorem sems_arrive (s : State) (cl b w : Nat) : (clusterOf (arrive s cl b w).1 cl).sems = (clusterOf s cl).sems := by
  rw [(arrive_eq s cl b w).1.clusterOf, clusterOf_setBar]

theorem signalled_signalCopy (s : State) (cl : Nat) (c : CopyCmd) : Signalled cl s (signalCopy s cl c) := by
  have inc : Signalled cl s (if ctSemv c.ctl then incSem s cl (ctSem c.ctl) 1 else s) := by
    split
    · exact ⟨rfl, rfl, by rw [clusterOf_incSem], by rw [clusterOf_incSem]⟩
    · exact ⟨rfl, rfl, rfl, rfl⟩
  unfold signalCopy
  dsimp only
  split
  · exact inc.trans (signalled_arrive ..)
  · exact inc

theorem sems_signalCopy (s : State) (cl : Nat) (c : CopyCmd) : (clusterOf (signalCopy s cl c) cl).sems =
    (clusterOf (if ctSemv c.ctl then incSem s cl (ctSem c.ctl) 1 else s) cl).sems := by
  unfold signalCopy
  dsimp only
  split
  · exact sems_arrive ..
  · rfl

theorem semOf_signalCopy (s : State) (cl : Nat) (c : CopyCmd) (h : ctSemv c.ctl = true) : semOf (signalCopy s cl c) cl (ctSem c.ctl) =
    BitVec.ofNat 32 (min ((semOf s cl (ctSem c.ctl)).toNat + 1) (2 ^ 32 - 1)) := by
  rw [semOf, sems_signalCopy, if_pos h, clusterOf_incSem]
  exact tblGet_tblSet ..

theorem semOf_signalCopy_ne (s : State) (cl : Nat) (c : CopyCmd) {n : Nat} (h : ctSemv c.ctl = false ∨ n ≠ ctSem c.ctl) :
    semOf (signalCopy s cl c) cl n = semOf s cl n := by
  rw [semOf, sems_signalCopy]
  split
  case isTrue signals =>
    rw [clusterOf_incSem]
    exact tblGet_tblSet_ne _ _ _ _ _ (h.resolve_left (by simp [signals]))
  case isFalse => rfl

/-! ## A copy halts (R242, R245, R254) -/

/-- A barrier that was in use is faulted, and its waiters go on. -/
theorem faultBar_normal {s : State} {cl b : Nat} (h : (barOf s cl b).state = .normal) :
    Woken (setBar s cl b { barOf s cl b with state := .faulted }) (faultBar s cl b) := by
  rw [faultBar]
  dsimp only
  rw [if_pos h]
  exact woken_wakeBar ..

theorem faultBar_other {s : State} {cl b : Nat} (h : (barOf s cl b).state ≠ .normal) : faultBar s cl b = s := if_neg h

/-- What a copy that halts changes beside its engine: its barrier and parked strands. -/
structure BarFaulted (cl : Nat) (s t : State) : Prop where
  signalled : Signalled cl s t
  sems : (clusterOf t cl).sems = (clusterOf s cl).sems
  others : ∀ j, (strandOf s j).slot ≠ .park → strandOf t j = strandOf s j

theorem BarFaulted.refl (cl : Nat) (s : State) : BarFaulted cl s s := ⟨⟨rfl, rfl, rfl, rfl⟩, rfl, fun _ _ => rfl⟩

theorem barFaulted_faultBar (s : State) (cl b : Nat) : BarFaulted cl s (faultBar s cl b) := by
  by_cases h : (barOf s cl b).state = .normal
  · have woken := faultBar_normal h
    exact ⟨(signalled_setBar ..).trans (woken.signalled cl), by rw [woken.clusterOf, clusterOf_setBar], woken.2⟩
  · rw [faultBar_other h]
    exact .refl cl s

theorem state_faultBar (s : State) (cl b : Nat) (h : (barOf s cl b).state ≠ .uninit) :
    (barOf (faultBar s cl b) cl b).state = .faulted := by
  cases e : (barOf s cl b).state with
  | uninit => exact absurd e h
  | normal => rw [(faultBar_normal e).barOf, barOf_setBar]
  | faulted => rw [faultBar_other (by simp [e]), e]

theorem mem_copyWaiters {s : State} {cl e id : Nat} {op : BitVec 3} {a b r : BitVec 5} {n : BitVec 2} (core : id / 32 = cl)
    (here : n.toNat = e) (full : 16 ≤ (engineQueue s cl e).length) (run : (strandOf s id).slot = .run)
    (blocked : (strandOf s id).blocked = some (.copy op a b r n)) : id ∈ copyWaiters s cl e := by
  refine List.mem_filter.2 ⟨List.mem_map.2 ⟨id % 32, List.mem_range.2 (Nat.mod_lt _ (by decide)), ?_⟩, ?_⟩
  · rw [← core]
    exact Nat.div_add_mod id 32
  · simp [run, blocked, full, here]

theorem nodup_copyWaiters (s : State) (cl e : Nat) : (copyWaiters s cl e).Nodup :=
  (List.nodup_range.map fun _ _ h => by simpa using h).filter _

theorem trapWaiters_eq (s : State) (cl e : Nat) : trapWaiters s cl e = { s with strands := (trapWaiters s cl e).strands } := by
  unfold trapWaiters
  refine List.foldlRecOn (motive := fun u : State => u = { s with strands := u.strands }) _ _ rfl fun u hu id _ => ?_
  split
  · exact hu
  · rw [trapHere, takeTrap_eq, hu]

theorem strandOf_trapWaiters (s : State) (cl e : Nat) {id : Nat} (among : id ∈ copyWaiters s cl e) :
    strandOf (trapWaiters s cl e) id = if behind (strandOf s id) then strandOf s id else
      trapped cCOPY_FAULT (BitVec.ofNat 64 e) ((strandOf s id).pc.zeroExtend 64) (strandOf s id) := by
  have one : ∀ (u : State) (j : Nat), strandOf (if behind (strandOf u j) then u else trapHere u j cCOPY_FAULT (BitVec.ofNat 64 e)) id =
      if j = id ∧ behind (strandOf u id) = false then
        trapped cCOPY_FAULT (BitVec.ofNat 64 e) ((strandOf u id).pc.zeroExtend 64) (strandOf u id) else strandOf u id := by
    intro u j
    by_cases same : j = id
    · subst same
      cases busy : behind (strandOf u j)
      · simp only [Bool.false_eq_true, if_false, and_self, if_true]
        exact strandOf_takeTrap ..
      · simp
    · split
      · simp [same]
      · rw [strandOf_trapHere_ne _ _ _ (Ne.symm same)]
        simp [same]
  have all : ∀ (l : List Nat) (u : State), l.Nodup →
      strandOf (l.foldl (fun u j => if behind (strandOf u j) then u else trapHere u j cCOPY_FAULT (BitVec.ofNat 64 e)) u) id =
        if id ∈ l ∧ behind (strandOf u id) = false then
          trapped cCOPY_FAULT (BitVec.ofNat 64 e) ((strandOf u id).pc.zeroExtend 64) (strandOf u id) else strandOf u id := by
    intro l
    induction l with
    | nil => intro u _; simp
    | cons j l ih =>
      intro u distinct
      obtain ⟨fresh, distinct⟩ := List.nodup_cons.1 distinct
      rw [List.foldl_cons, ih _ distinct, one]
      by_cases same : j = id
      · subst same
        simp [fresh]
      · simp [same, Ne.symm same]
  rw [trapWaiters, all _ s (nodup_copyWaiters s cl e)]
  cases behind (strandOf s id) <;> simp [among]

theorem copyHalt_eq {s u : State} {cl e o : Nat} {c : CopyCmd} {f : WordFault} (active : activeCmd s cl e = some c)
    (rest : moveRest s cl c = (u, o, .fault f)) : exec (.copyHalt cl e) s =
      let w := setHead u cl e (some { c with state := .halted, offset := o, cause := BitVec.ofNat 6 f.1, faultAddr := f.2 })
      .next (trapWaiters (if ctBarv c.ctl then faultBar w cl (ctBar c.ctl) else w) cl e) := by
  show execCopyHalt cl e s = _
  unfold execCopyHalt
  rw [active]
  dsimp only
  rw [rest]

/-! ## Recovery (R247) -/

theorem toNat_wordCopy (op : BitVec 3) (a b c : BitVec 5) (e : BitVec 2) : (wordCopy op a b c e).toNat =
    0xC4000000 + a.toNat * 0x200000 + b.toNat * 0x10000 + c.toNat * 0x800 + e.toNat * 0x200 + op.toNat * 0x40 := by
  rw [wordCopy, wordR]
  simp only [toNat_append_add, BitVec.reduceToNat]
  omega

theorem encode_cpyres (a : BitVec 4) (b : BitVec 5) (e : BitVec 2) : encode (.cpyres a b e) = some (wordCopy 4 (pairReg a) b 0 e) :=
  encode_of_toNat rfl (by
    rw [toNat_wordCopy, pairReg, toNat_append_add]
    simp
    omega)

section
variable {s : State} {a : BitVec 4} {b : BitVec 5} {e : BitVec 2} {v : Word} (at_ : reg s s.cur b = v)
include at_

theorem cpyres_illegal (h : 2 < v.toNat) : exec (.cpyres a b e) s = .next (trapIllegal s s.cur (wordCopy 4 (pairReg a) b 0 e)) := by
  subst at_
  exact if_pos h

theorem cpyres_priv (h : v.toNat ≤ 2) (user : stSuper (strandOf s s.cur) ≠ true) :
    exec (.cpyres a b e) s = .next (trapWord s s.cur cPRIV (wordCopy 4 (pairReg a) b 0 e)) := by
  subst at_
  exact (if_neg (by omega)).trans (if_pos (by simpa using user))

theorem cpyres_none (h : v.toNat ≤ 2) (super : stSuper (strandOf s s.cur) = true)
    (none : haltedCmd s (clusterIdx s.cur) e.toNat = none) :
    exec (.cpyres a b e) s = .next (finishReg (setReg s s.cur (pairReg a) 0) s.cur (pairOdd a) 0) := by
  subst at_
  refine (if_neg (by omega)).trans ((if_neg (by simp [super])).trans ?_)
  rw [none]

end

theorem strandOf_finishPair (u : State) (id : Nat) (p q : BitVec 5) (x y : Word) :
    strandOf (finishReg (setReg u id p x) id q y) id = past (putReg (putReg (strandOf u id) p x) q y) := by
  rw [strandOf_finishReg, setReg, strandOf_modStrand]

theorem strandOf_finishPair_ne (u : State) (id : Nat) (p q : BitVec 5) (x y : Word) {j : Nat} (h : j ≠ id) :
    strandOf (finishReg (setReg u id p x) id q y) j = strandOf u j := by
  rw [finishReg, finish, strandOf_modStrand_ne _ _ _ _ h, setReg, strandOf_modStrand_ne _ _ _ _ h, setReg,
    strandOf_modStrand_ne _ _ _ _ h]

/-- R247: a halted command is read, restarted or discarded. -/
def recovered (s : State) (e : Nat) (v : Word) (c : CopyCmd) : State :=
  if v = 1 then restoreBar (setHead s (clusterIdx s.cur) e (some { c with state := .active })) (clusterIdx s.cur) c
  else if v = 2 then setHead s (clusterIdx s.cur) e none
  else s

theorem cpyres_halted {s : State} {a : BitVec 4} {b : BitVec 5} {e : BitVec 2} {v : Word} {c : CopyCmd} (at_ : reg s s.cur b = v)
    (h : v.toNat ≤ 2) (super : stSuper (strandOf s s.cur) = true) (halted : haltedCmd s (clusterIdx s.cur) e.toNat = some c) :
    exec (.cpyres a b e) s = .next (finishReg (setReg (recovered s e.toNat v c) s.cur (pairReg a) (copyRecord c).1) s.cur (pairOdd a)
      (copyRecord c).2) := by
  subst at_
  refine (if_neg (by omega)).trans ((if_neg (by simp [super])).trans ?_)
  rw [halted]
  rfl

theorem restoreBar_eq (s : State) (cl : Nat) (c : CopyCmd) : restoreBar s cl c = s ∨ ∃ x, restoreBar s cl c = setBar s cl (ctBar c.ctl) x := by
  unfold restoreBar
  dsimp only
  split
  · exact .inr ⟨_, rfl⟩
  · exact .inl rfl

theorem recovered_rest (s : State) (e : Nat) (v : Word) (c : CopyCmd) :
    recovered s e v c = { s with clusters := (recovered s e v c).clusters } := by
  unfold recovered
  split
  · rcases restoreBar_eq (setHead s (clusterIdx s.cur) e (some { c with state := .active })) (clusterIdx s.cur) c with h | ⟨x, h⟩ <;>
      rw [h] <;> rfl
  · split <;> rfl

theorem engineQueue_restoreBar (s : State) (cl e : Nat) (c : CopyCmd) : engineQueue (restoreBar s cl c) cl e = engineQueue s cl e := by
  rcases restoreBar_eq s cl c with h | ⟨x, h⟩
  · rw [h]
  · rw [h, engineQueue, clusterOf_setBar, engineQueue]

section
variable {s : State} {e : Nat} {c : CopyCmd} {q : List CopyCmd} (h : engineQueue s (clusterIdx s.cur) e = c :: q)
include h

theorem recovered_restarted : engineQueue (recovered s e 1 c) (clusterIdx s.cur) e = { c with state := .active } :: q := by
  rw [recovered, if_pos rfl, engineQueue_restoreBar, setHead_eq h, engineQueue_setEngine]
  rfl

theorem recovered_discarded : engineQueue (recovered s e 2 c) (clusterIdx s.cur) e = q := by
  rw [recovered, if_neg (by decide), if_pos rfl, setHead_eq h, engineQueue_setEngine]
  rfl

end

/-! ## Beats (R179, R245) -/

theorem fifoDelivery_eq {s : State} {cl e : Nat} {c : CopyCmd} (active : activeCmd s cl e = some c) (fifo : ctDk c.ctl ≠ 0)
    (left : c.offset < copyTotal c.op c.ctl c.ext) (room : fifoRoom s c = true) {u : State} {v : Nat}
    (beat : gatherBeat cl c 8 c.offset s = (u, .ok v)) : exec (.fifoDelivery cl e) s = .next (
      if wordHeld u c none then s else setHead (pushBeat u c v) cl e (some { c with offset := c.offset + 64 })) := by
  show execFifoDelivery cl e s = _
  unfold execFifoDelivery
  rw [active]
  dsimp only
  rw [if_neg (by omega)]
  unfold moveBeats
  rw [if_pos room, beat]
  dsimp only
  cases wordHeld u c none <;> rfl

theorem coreOf_pushBeat (s : State) (c : CopyCmd) (v : Nat) :
    (coreOf (pushBeat s c v) (copyTarget (4 * c.coord + c.slot) c.ctl)).mezz =
      if ctDk c.ctl = 1 then { (coreOf s (copyTarget (4 * c.coord + c.slot) c.ctl)).mezz with
        fa := (coreOf s (copyTarget (4 * c.coord + c.slot) c.ctl)).mezz.fa ++ [BitVec.ofNat 512 v] }
      else { (coreOf s (copyTarget (4 * c.coord + c.slot) c.ctl)).mezz with
        ft := (coreOf s (copyTarget (4 * c.coord + c.slot) c.ctl)).mezz.ft ++ [BitVec.ofNat 512 v] } :=
  congrArg Core.mezz (coreOf_setCore ..)

/-! ## Fills and copies within the Atrium (R241) -/

/-- The offset of the first byte of the Atrium window. -/
theorem translate_atrium (s : State) (ag : Agent) (write : Bool) {a : Word} {p : Nat} (h : a.toNat = 0x7FFFFF800000 + p)
    (inside : p < 0x800000) : translate s ag write a = .ok (.atrium p) := by
  have window : inAtrium a = true := by
    simp only [inAtrium, h, Bool.and_eq_true, decide_eq_true_iff]
    omega
  rw [translate, if_pos window, h, Nat.add_sub_cancel_left]

/-- A fill or a contiguous copy from a place of the Atrium, or of a pattern, to another. -/
structure WithinAtrium (c : CopyCmd) (d x : Nat) : Prop where
  op : c.op = 0 ∨ c.op = 3
  dst : c.dst.toNat = 0x7FFFFF800000 + d
  room : d + ctLen c.ctl ≤ 0x800000
  src : c.op = 0 → c.src.toNat = 0x7FFFFF800000 + x ∧ x + ctLen c.ctl ≤ 0x800000 ∧ (x + ctLen c.ctl ≤ d ∨ d + ctLen c.ctl ≤ x)

/-- The word that a fill or a copy delivers at an offset. -/
def copyWord (m : List Host.Cell) (c : CopyCmd) (x o : Nat) : Nat := if c.op = 3 then c.src.toNat else cellsRead m (x + o) 8

/-- The state of a copy within the Atrium: no access waits, and no byte of the Atrium is bad. -/
structure Unhindered (s : State) (cl : Nat) (c : CopyCmd) : Prop where
  free : wordHeld s c none = false
  good : (clusterOf s cl).poison = []
  wf : Memory.wf (clusterOf s cl).atrium = true

section
variable {s : State} {cl : Nat} {c : CopyCmd} {d x o : Nat}

theorem toNat_addr {a : Word} {p o : Nat} (h : a.toNat = 0x7FFFFF800000 + p) (inside : p + o < 0x800000) :
    (a + BitVec.ofNat 64 o).toNat = 0x7FFFFF800000 + (p + o) := by
  rw [BitVec.toNat_add, BitVec.toNat_ofNat, h]
  omega

theorem readWord_within (h : WithinAtrium c d x) (u : Unhindered s cl c) (left : o + 8 ≤ ctLen c.ctl) :
    readWord s cl c o = (s, .ok (copyWord (clusterOf s cl).atrium c x o)) := by
  rcases h.op with copy | fill
  · obtain ⟨src, room, -⟩ := h.src copy
    have source : wordSource s cl c o = .ok (some (c.src + BitVec.ofNat 64 o)) := by rw [wordSource, copy]; rfl
    have target := translate_atrium s (cmdAgent cl c) false (toNat_addr src (by omega : x + o < 0x800000)) (by omega)
    have bad : targetBad s cl (.atrium (x + o)) 8 = false := by simp [targetBad, u.good]
    have away : unreachableTarget s (cmdSid c) (.atrium (x + o)) = false := rfl
    have held : wordHeld s c (homeDie s (.atrium (x + o))) = false := u.free
    rw [readWord, source]
    dsimp only
    rw [target]
    dsimp only
    rw [bad, away, held, copyWord, if_neg (by omega : ¬ c.op = 3)]
    rfl
  · have source : wordSource s cl c o = .ok none := by rw [wordSource, fill]; rfl
    rw [readWord, source, copyWord, if_pos fill]

theorem writeWord_within (h : WithinAtrium c d x) (u : Unhindered s cl c) (left : o + 8 ≤ ctLen c.ctl) (v : Nat) :
    writeWord s cl c o v = (setCluster s cl { clusterOf s cl with
      atrium := cellsWrite (clusterOf s cl).atrium (d + o) 8 v }, none) := by
  have room := h.room
  have dest : wordDest c o = c.dst + BitVec.ofNat 64 o := if_neg (by rcases h.op with e | e <;> omega)
  have target := translate_atrium s (cmdAgent cl c) true (toNat_addr h.dst (by omega : d + o < 0x800000)) (by omega)
  have held : wordHeld s c (homeDie s (.atrium (d + o))) = false := u.free
  rw [writeWord]
  dsimp only
  rw [dest, target]
  dsimp only
  rw [held]
  rfl

theorem Unhindered.written (u : Unhindered s cl c) (p v : Nat) :
    Unhindered (setCluster s cl { clusterOf s cl with atrium := cellsWrite (clusterOf s cl).atrium p 8 v }) cl c := by
  refine ⟨u.free, ?_, ?_⟩
  · rw [clusterOf_setCluster]
    exact u.good
  · rw [clusterOf_setCluster]
    exact cellsWrite_wf _ _ _ _ u.wf

/-- A write to the destination leaves the words that are still to be delivered. -/
theorem copyWord_written (h : WithinAtrium c d x) {m : List Host.Cell} (wf : Memory.wf m = true) (left : o + 8 ≤ ctLen c.ctl) {k : Nat}
    (inside : k + 8 ≤ ctLen c.ctl) (v : Nat) : copyWord (cellsWrite m (d + o) 8 v) c x k = copyWord m c x k := by
  unfold copyWord
  split
  · rfl
  · obtain ⟨-, -, apart⟩ := h.src (h.op.resolve_right ‹_›)
    exact cellsRead_cellsWrite_ne _ _ _ _ _ _ wf (by omega)

/-- What `n` words delivered from an offset on leave. -/
structure Delivered (s w : State) (cl : Nat) (c : CopyCmd) (d x o n : Nat) : Prop where
  mem : w.mem = s.mem
  words : ∀ k < n, cellsRead (clusterOf w cl).atrium (d + o + 8 * k) 8 = copyWord (clusterOf s cl).atrium c x (o + 8 * k)
  rest : ∀ p, p < d + o ∨ d + o + 8 * n ≤ p → cellsGet (clusterOf w cl).atrium p = cellsGet (clusterOf s cl).atrium p

theorem copyWord_lt (m : List Host.Cell) (c : CopyCmd) (x o : Nat) : copyWord m c x o < 2 ^ 64 := by
  unfold copyWord
  split
  · exact c.src.isLt
  · exact cellsRead_lt m (x + o) 8

theorem moveWords_within (h : WithinAtrium c d x) (n : Nat) (u : Unhindered s cl c) (left : o + 8 * n ≤ ctLen c.ctl) :
    ∃ w, moveWords cl c n o s = (w, o + 8 * n, .done) ∧ Delivered s w cl c d x o n := by
  induction n generalizing o s with
  | zero => exact ⟨s, rfl, rfl, nofun, fun _ _ => rfl⟩
  | succ n ih =>
    obtain ⟨w, run, mem, words, rest⟩ := ih (o := o + 8) (u.written (d + o) (copyWord (clusterOf s cl).atrium c x o)) (by omega)
    rw [clusterOf_setCluster] at words rest
    refine ⟨w, ?_, mem, fun k hk => ?_, fun p hp => ?_⟩
    · rw [moveWords, readWord_within h u (by omega)]
      dsimp only
      rw [writeWord_within h u (by omega)]
      dsimp only
      rw [run]
      congr 2
      omega
    · cases k with
      | zero =>
        have kept : cellsRead (clusterOf w cl).atrium (d + o) 8 =
            cellsRead (cellsWrite (clusterOf s cl).atrium (d + o) 8 (copyWord (clusterOf s cl).atrium c x o)) (d + o) 8 :=
          cellsRead_congr _ _ _ _ _ fun i hi => rest _ (.inl (by omega))
        rw [Nat.mul_zero, Nat.add_zero, Nat.add_zero, kept, cellsRead_cellsWrite _ _ _ _ u.wf]
        exact Nat.mod_eq_of_lt (copyWord_lt ..)
      | succ k =>
        have word := words k (by omega)
        rw [copyWord_written h u.wf (by omega) (by omega)] at word
        rw [show d + o + 8 * (k + 1) = d + (o + 8) + 8 * k by omega, word]
        congr 1
        omega
    · rw [rest p (by omega)]
      exact cellsGet_cellsWrite_ne _ _ _ _ _ u.wf (by omega)

end

/-! ## The clauses of the obligation -/

theorem haltedCmd_none {s : State} {cl e : Nat} (h : (engineQueue s cl e).all (fun c => c.state != .halted) = true) :
    haltedCmd s cl e = none :=
  List.find?_eq_none.2 fun c hc => by simpa using List.all_eq_true.1 h c hc

theorem haltedCmd_head {s : State} {cl e : Nat} {c : CopyCmd} {q : List CopyCmd} (h : engineQueue s cl e = c :: q)
    (halted : c.state = .halted) : haltedCmd s cl e = some c := by
  rw [haltedCmd, h, List.find?_cons_of_pos (by simp [halted])]

theorem copyStart_starts {s : State} {cl e : Nat} {c : CopyCmd} {q : List CopyCmd} (head : engineQueue s cl e = c :: q)
    (queued : c.state = .queued)
    (first : (clusterCmds s cl).all (fun d => decide (c.accepted ≤ d.accepted) || !conflicts s cl c d) = true) :
    exec (.copyStart cl e) s = .next (setEngine s cl e ({ c with state := .active } :: q)) := by
  show execCopyStart cl e s = _
  unfold execCopyStart
  rw [head]
  exact if_pos ⟨queued, first⟩

theorem copyComplete_done {s u : State} {cl e o : Nat} {c : CopyCmd} (active : activeCmd s cl e = some c)
    (rest : moveRest s cl c = (u, o, .done)) :
    exec (.copyComplete cl e) s = .next (signalCopy (setHead u cl e none) cl c) := by
  show execCopyComplete cl e s = _
  unfold execCopyComplete
  rw [active]
  dsimp only
  rw [rest]

theorem copyComplete_held {s u : State} {cl e o : Nat} {c : CopyCmd} (active : activeCmd s cl e = some c)
    (rest : moveRest s cl c = (u, o, .held)) :
    exec (.copyComplete cl e) s = .next (setHead u cl e (some { c with offset := o })) := by
  show execCopyComplete cl e s = _
  unfold execCopyComplete
  rw [active]
  dsimp only
  rw [rest]

theorem engineQueue_signalCopy (s : State) (cl e : Nat) (c : CopyCmd) : engineQueue (signalCopy s cl c) cl e = engineQueue s cl e := by
  rw [engineQueue, (signalled_signalCopy s cl c).engines, engineQueue]

section
variable {s u : State} {cl e o : Nat} {c : CopyCmd} {q : List CopyCmd} (head : engineQueue s cl e = c :: q)
include head

theorem moveRest_head {k : CopyEnd} (rest : moveRest s cl c = (u, o, k)) : CopyRan cl s u ∧ engineQueue u cl e = c :: q := by
  have ran := copyRan_moveRest s cl c
  rw [rest] at ran
  exact ⟨ran, (ran.engineQueue e).trans head⟩

theorem copyComplete_signals (active : activeCmd s cl e = some c) (rest : moveRest s cl c = (u, o, .done)) :
    exec (.copyComplete cl e) s = .next (signalCopy (setEngine u cl e q) cl c) := by
  rw [copyComplete_done active rest, setHead_eq (moveRest_head head rest).2]
  rfl

end

/-- R242, R245, R254: what a copy that halts leaves. -/
theorem copyHalt_leaves {s u : State} {cl e o : Nat} {c : CopyCmd} {q : List CopyCmd} {f : WordFault}
    (head : engineQueue s cl e = c :: q) (active : activeCmd s cl e = some c) (rest : moveRest s cl c = (u, o, .fault f)) :
    let d := { c with state := .halted, offset := o, cause := BitVec.ofNat 6 f.1, faultAddr := f.2 }
    ∃ w, BarFaulted cl (setEngine u cl e (d :: q)) w ∧ exec (.copyHalt cl e) s = .next (trapWaiters w cl e) ∧
      (ctBarv c.ctl = true → (barOf s cl (ctBar c.ctl)).state ≠ .uninit → (barOf w cl (ctBar c.ctl)).state = .faulted) := by
  intro d
  obtain ⟨ran, here⟩ := moveRest_head head rest
  have run := copyHalt_eq active rest
  rw [setHead_eq here] at run
  refine ⟨_, ?_, run, fun bound set => ?_⟩
  · split
    · exact barFaulted_faultBar ..
    · exact .refl ..
  · rw [if_pos bound]
    refine state_faultBar _ _ _ ?_
    rw [barOf_setEngine, ran.barOf]
    exact set

/-- Settles O34: a command's words change memory and Atria alone (`CopyRan`), so that its engine, its semaphores and the strands are
those of before; within the Atrium they are delivered one after another (`moveWords_within`). -/
theorem copyExecution : Obligations.CopyExecution := by
  refine ⟨fun s cl e c q head => ?_, fun s u cl e o c q f head active mine rest => ?_, fun s a b e v at_ => ?_⟩
  · intro first mine
    refine ⟨fun queued go => ?_, fun u o active all rest => ?_, fun u o active all rest => ?_, ?_, ?_⟩
    · refine ⟨_, copyStart_starts head queued go, engineQueue_setEngine .., rfl, rfl, rfl, fun n hn => engineQueue_setEngine_ne _ _ _ _ hn, ?_⟩
      rw [clusterOf_setEngine]
    · obtain ⟨ran, here⟩ := moveRest_head head rest
      have signalled := signalled_signalCopy (setEngine u cl e q) cl c
      refine ⟨_, copyComplete_signals head (activeCmd_eq head active all) rest, ?_, signalled.mem, fun bound => ?_, fun n h => ?_⟩
      · rw [engineQueue_signalCopy, engineQueue_setEngine]
      · rw [semOf_signalCopy _ _ _ bound, semOf_setEngine]
      · rw [semOf_signalCopy_ne _ _ _ h, semOf_setEngine]
    · obtain ⟨ran, here⟩ := moveRest_head head rest
      refine ⟨_, copyComplete_held (activeCmd_eq head active all) rest, ?_, rfl⟩
      rw [setHead_eq here, engineQueue_setEngine]
      rfl
    · intro d x active all free start op dk words wf good dst room src
      have within : WithinAtrium c d x := ⟨op, dst, room, src⟩
      have total : copyTotal c.op c.ctl c.ext = ctLen c.ctl := by
        rcases op with e | e <;> rw [e] <;> rfl
      obtain ⟨w, run, mem, delivered, kept⟩ := moveWords_within (o := 0) within (ctLen c.ctl / 8) ⟨free, good, wf⟩ (by omega)
      have rest : moveRest s cl c = (w, 0 + 8 * (ctLen c.ctl / 8), .done) := by
        rw [moveRest, if_pos dk, total, start, Nat.sub_zero, run]
      have signalled := signalled_signalCopy (setEngine w cl e q) cl c
      have atrium : (clusterOf (signalCopy (setEngine w cl e q) cl c) cl).atrium = (clusterOf w cl).atrium := by
        rw [signalled.atrium, clusterOf_setEngine]
      refine ⟨_, copyComplete_signals head (activeCmd_eq head active all) rest, ?_, signalled.mem.trans mem, fun k hk => ?_, fun o ho => ?_⟩
      · rw [engineQueue_signalCopy, engineQueue_setEngine]
      · have word := delivered k (by omega)
        rw [Nat.add_zero, Nat.zero_add] at word
        rw [atrium, word]
        rfl
      · rw [atrium]
        exact kept o (by omega)
    · intro u f active all dk kind left k fifo room v beat
      have roomy : fifoRoom s c = true := by
        subst dk
        unfold fifoRoom
        dsimp only
        split
        · simpa [fifo, *] using room
        · simpa [fifo, *] using room
      have run := fifoDelivery_eq (activeCmd_eq head active all) (by omega) left roomy beat
      have moved := wordMoved_gatherBeat cl c 8 c.offset s
      rw [beat] at moved
      have here : engineQueue (pushBeat u c v) cl e = c :: q := ((moved.copyRan cl).engineQueue e).trans head
      refine ⟨fun free => ?_, fun held => by rw [run, if_pos held]⟩
      rw [if_neg (by simp [free]), setHead_eq here] at run
      refine ⟨_, run, ?_, engineQueue_setEngine .., rfl, rfl⟩
      have mezz := coreOf_pushBeat u c v
      rw [coreOf_congr moved.cores] at mezz
      show (if f = 1 then (coreOf (pushBeat u c v) k).mezz.fa else (coreOf (pushBeat u c v) k).mezz.ft) = _
      rw [mezz, dk]
      dsimp only [fifo]
      split <;> rfl
  · obtain ⟨ran, here⟩ := moveRest_head head rest
    obtain ⟨w, faulted, run, barrier⟩ := copyHalt_leaves head (activeCmd_eq head active mine) rest
    have queue : engineQueue w cl e = { c with state := .halted, offset := o, cause := BitVec.ofNat 6 f.1, faultAddr := f.2 } :: q := by
      rw [engineQueue, faulted.signalled.engines]
      exact engineQueue_setEngine ..
    have left := trapWaiters_eq w cl e
    refine ⟨_, run, by rw [left]; exact faulted.signalled.mem, by rw [left]; exact queue, fun bound set => ?_, fun n => ?_, ?_⟩
    · rw [left]
      exact barrier bound set
    · rw [left]
      show tblGet 0 (clusterOf w cl).sems n = _
      rw [faulted.sems]
      exact semOf_setEngine ..
    · intro id op a b r n core engine full run blocked
      have before : strandOf (setEngine u cl e ({ c with
          state := .halted, offset := o, cause := BitVec.ofNat 6 f.1, faultAddr := f.2 } :: q)) id = strandOf s id :=
        strandOf_congr ran.strands id
      have same : strandOf w id = strandOf s id := (faulted.others id (by rw [before, run]; decide)).trans before
      rw [strandOf_trapWaiters w cl e (mem_copyWaiters core engine (by rw [queue]; exact full) (by rw [same, run])
        (by rw [same, blocked])), same]
  · intro i cl both super
    refine ⟨fun h w word => ?_, fun h user w word => ?_, fun h sup all => ?_, fun c q h sup head halted => ?_⟩
    · obtain rfl := Option.some.inj ((encode_cpyres a b e).symm.trans word)
      exact trapsHere_illegal s i _ (cpyres_illegal at_ h)
    · obtain rfl := Option.some.inj ((encode_cpyres a b e).symm.trans word)
      exact trapsHere_word s i _ _ (cpyres_priv at_ h user)
    · refine ⟨_, cpyres_none at_ h sup (haltedCmd_none all), ?_, strandOf_finishPair ..⟩
      exact onlyStrand_trans (onlyStrand_modStrand s (putReg · (pairReg a) 0)) (onlyStrand_finishReg (setReg s s.cur (pairReg a) 0) _ _)
    · have rest := recovered_rest s e.toNat v c
      have run := cpyres_halted (a := a) at_ h sup (haltedCmd_head head halted)
      have before : ∀ j, strandOf (recovered s e.toNat v c) j = strandOf s j := strandOf_congr (by rw [rest])
      refine ⟨_, run, by rw [strandOf_finishPair, before]; rfl, ?_, ?_, ?_, ?_, ?_, fun j hj => ?_⟩
      · rintro rfl
        rfl
      · rintro rfl
        exact recovered_restarted head
      · rintro rfl
        exact recovered_discarded head
      · show (recovered s e.toNat v c).mem = s.mem
        rw [rest]
      · show (recovered s e.toNat v c).cores = s.cores
        rw [rest]
      · rw [strandOf_finishPair_ne _ _ _ _ _ _ hj, before]

end Sys2Proof.Machine


namespace Sys2Proof.Machine

/-! ## Vector instructions of two sources (R131, R132, R139) -/

/-- R37: the number of the word of an instruction of MAJ 0x22 or 0x23. -/
def intNumber (sc : Bool) (fn : BitVec 8) (d a b : BitVec 5) (m : BitVec 2) (mp : BitVec 1) : Nat :=
  (if sc then 0x8C000000 else 0x88000000) + fn.toNat + d.toNat * 0x200000 + a.toNat * 0x10000 + b.toNat * 0x800 +
    m.toNat * 0x200 + mp.toNat * 0x100

section
variable {s : State} {d a b : BitVec 5} {m : BitVec 2} {mp : BitVec 1}

theorem encode_wordInt {i : Instr} {fn : BitVec 8} {sc : Bool}
    (h : encodeNat i = some (intNumber sc fn d a b m mp)) : encode i = some (wordInt fn sc d a b m mp) := by
  refine encode_of_toNat h ?_
  rw [wordInt, toNat_wordV, intNumber]
  cases sc <;> simp <;> omega

section
variable {i : Instr} {w : BitVec 32} {bad : Arcade → Bool} {conv : Arcade → Word → Fl Nat} {wide : Arcade → Nat}
  {f : Arcade → Nat → Nat → Nat → Fl Nat}

/-- R139: the vector-vector form. -/
theorem vBinOp_vectors (he : exec i s = vBinOp w false false d a b m mp s bad conv wide f) (hw : encode i = some w) :
    VecCourse s i (bad (arcOf s) || badGroups (arcOf s) [d, a, b]) (ElementWise s [d] [a, b] d.toNat i (fun _ => 0) fun v e =>
      if active v.a m mp e then
        some (laneValue (wide v.a) (f v.a (srcN v a e) (srcN v b e) (elemN v.a d.toNat e)).1,
          (f v.a (srcN v a e) (srcN v b e) (elemN v.a d.toNat e)).2)
      else none) :=
  vecCourse_of he hw fun hh hb => elementWise_of he
    (((sourcesNamed_srcOf a (by simp) _).append ((sourcesNamed_srcOf b (by simp) _).append sourcesNamed_nil)).append
      sourcesNamed_nil) hh hb

/-- R132, R139: the vector-scalar form. -/
theorem vBinOp_scalar (he : exec i s = vBinOp w true false d a b m mp s bad conv wide f) (hw : encode i = some w) :
    VecCourse s i (bad (arcOf s) || badGroups (arcOf s) [d, a]) (ElementWise s [d] [a] d.toNat i
      (fun v => scalarFlags v m mp (conv v.a (operand1 s b)).2) fun v e =>
        if active v.a m mp e then
          some (laneValue (wide v.a) (f v.a (srcN v a e) (conv v.a (operand1 s b)).1 (elemN v.a d.toNat e)).1,
            (f v.a (srcN v a e) (conv v.a (operand1 s b)).1 (elemN v.a d.toNat e)).2)
        else none) := by
  refine vecCourse_of he hw fun hh hb => ?_
  rw [← vop_op1 s w b 0]
  exact elementWise_of he (((sourcesNamed_srcOf a (by simp) _).append sourcesNamed_nil).append sourcesNamed_nil) hh hb

end

theorem srcN_lt (v : VEnv) (r : BitVec 5) (e : Nat) : srcN v r e < 2 ^ vWe v.a := Nat.mod_lt _ (Nat.two_pow_pos _)

/-- The element that an instruction gives at `e`, when `e` is active. -/
def putElem (m : BitVec 2) (mp : BitVec 1) (v : VEnv) (e : Nat) (r : Fl Nat) : Option (Fl Word) :=
  if active v.a m mp e then some (laneValue (vWe v.a) r.1, r.2) else none

/-- R139: the two forms of an operation of two sources: `bad` says of the fields that issue refuses them, `fl` and `y` are the
flags and the value of the scalar. -/
def TwoSource (s : State) (d a b : BitVec 5) (m : BitVec 2) (mp : BitVec 1) (bad : List (BitVec 5) → Bool) (fl : VEnv → Word)
    (y : VEnv → Nat) (i j : Instr) (f : Nat → Nat → Nat → Fl Nat) : Prop :=
  VecCourse s i (bad [d, a, b]) (ElementWise s [d] [a, b] d.toNat i (fun _ => 0) fun v e =>
    putElem m mp v e (f (vWe v.a) (srcN v a e) (srcN v b e))) ∧
  VecCourse s j (bad [d, a]) (ElementWise s [d] [a] d.toNat j fl fun v e =>
    putElem m mp v e (f (vWe v.a) (srcN v a e) (y v)))

/-- The forms of an operation that an I type alone has, with the scalar's low bits. -/
def IntForms (s : State) (d a b : BitVec 5) (m : BitVec 2) (mp : BitVec 1) : Instr → Instr → (Nat → Nat → Nat → Fl Nat) → Prop :=
  TwoSource s d a b m mp (fun l => !inCls (arcOf s) [.i] || badGroups (arcOf s) l)
    (fun v => scalarFlags v m mp (scalarElem v.a (operand1 s b)).2) fun v => (scalarElem v.a (operand1 s b)).1

/-- The forms of a shift, whose scalar is read whole. -/
def ShiftForms (s : State) (d a b : BitVec 5) (m : BitVec 2) (mp : BitVec 1) : Instr → Instr → (Nat → Nat → Nat → Fl Nat) → Prop :=
  TwoSource s d a b m mp (fun l => !inCls (arcOf s) [.i] || badGroups (arcOf s) l) (fun _ => 0) fun _ => (operand1 s b).toNat

/-- The forms of a bitwise operation, which every type has. -/
def LogicForms (s : State) (d a b : BitVec 5) (m : BitVec 2) (mp : BitVec 1) : Instr → Instr → (Nat → Nat → Nat → Fl Nat) → Prop :=
  TwoSource s d a b m mp (fun l => false || badGroups (arcOf s) l)
    (fun v => scalarFlags v m mp (scalarElem v.a (operand1 s b)).2) fun v => (scalarElem v.a (operand1 s b)).1

section
variable {i j : Instr} {fn : BitVec 8} {bad : Arcade → Bool} {conv : Arcade → Word → Fl Nat} {g f : Nat → Nat → Nat → Fl Nat}

/-- An operation `g` of the model gives both forms of `f`, where the two agree on elements. -/
theorem twoSource_of {k : Nat → Nat → Nat → Fl Nat}
    (hi : exec i s = vBinOp (wordInt fn false d a b m mp) false false d a b m mp s bad conv vWe fun ar x y _ => k (vWe ar) x y)
    (hj : exec j s = vBinOp (wordInt fn true d a b m mp) true false d a b m mp s bad conv vWe fun ar x y _ => k (vWe ar) x y)
    (ei : encodeNat i = some (intNumber false fn d a b m mp)) (ej : encodeNat j = some (intNumber true fn d a b m mp))
    (hf : ∀ w x y, x < 2 ^ w → k w x y = f w x y) :
    TwoSource s d a b m mp (fun l => bad (arcOf s) || badGroups (arcOf s) l)
      (fun v => scalarFlags v m mp (conv v.a (operand1 s b)).2) (fun v => (conv v.a (operand1 s b)).1) i j f := by
  obtain ⟨ti, qi, li, di⟩ := vBinOp_vectors hi (encode_wordInt (sc := false) ei)
  obtain ⟨tj, qj, lj, dj⟩ := vBinOp_scalar hj (encode_wordInt (sc := true) ej)
  refine ⟨⟨ti, qi, li, fun hh hb => (di hh hb).congr fun u v _ => ?_⟩, ⟨tj, qj, lj, fun hh hb => (dj hh hb).congr fun u v _ => ?_⟩⟩ <;>
  · funext e
    rw [hf _ _ _ (srcN_lt v a e)]
    rfl

/-- An integer operation. -/
theorem intOp_twoSource (hi : exec i s = vIntOp fn false d a b m mp s g) (hj : exec j s = vIntOp fn true d a b m mp s g)
    (ei : encodeNat i = some (intNumber false fn d a b m mp)) (ej : encodeNat j = some (intNumber true fn d a b m mp))
    (hf : ∀ w x y, x < 2 ^ w → g w x y = f w x y) :
    IntForms s d a b m mp i j f :=
  twoSource_of hi hj ei ej hf

/-- A bitwise operation. -/
theorem logicOp_twoSource (hi : exec i s = vLogicOp fn false d a b m mp s g) (hj : exec j s = vLogicOp fn true d a b m mp s g)
    (ei : encodeNat i = some (intNumber false fn d a b m mp)) (ej : encodeNat j = some (intNumber true fn d a b m mp)) :
    LogicForms s d a b m mp i j g :=
  twoSource_of (bad := fun _ => false) (conv := scalarElem) (k := g) hi hj ei ej fun _ _ _ _ => rfl

/-- A shift. -/
theorem shiftOp_twoSource (hi : exec i s = vShiftOp fn false d a b m mp s g) (hj : exec j s = vShiftOp fn true d a b m mp s g)
    (ei : encodeNat i = some (intNumber false fn d a b m mp)) (ej : encodeNat j = some (intNumber true fn d a b m mp))
    (hf : ∀ w x y, x < 2 ^ w → g w x (y % 128) = f w x y) :
    ShiftForms s d a b m mp i j f := by
  have none : (fun v : VEnv => scalarFlags v m mp (wholeScalar v.a (operand1 s b)).2) = fun _ => 0 := by
    funext v
    exact ite_self _
  unfold ShiftForms
  rw [← none]
  exact twoSource_of (bad := notInt) (conv := wholeScalar) (k := fun w x y => g w x (y % 128)) hi hj ei ej hf

end

end

/-! ### The functions of R139 -/

theorem wrapInt_natCast (w x : Nat) : wrapInt w x = x % 2 ^ w := by
  unfold wrapInt
  norm_cast

/-- An integer saturated into bounds at a width, with its flag. -/
def saturated (w : Nat) (lo hi x : Int) : Fl Nat :=
  (wrapInt w (max lo (min hi x)), if x < lo ∨ hi < x then flagQSAT else 0)

/-- The model's saturation is this one. -/
theorem satInt_wrapped (w : Nat) {x lo hi : Int} (h : lo ≤ hi) : (satInt x lo hi flagQSAT).map (wrapInt w) id =
    saturated w lo hi x := by
  unfold satInt flagIf saturated
  rw [clampInt_eq x lo hi h, min_comm]
  simp

theorem satS_eq (w : Nat) (x : Int) : satS w x = saturated w (-2 ^ (w - 1)) (2 ^ (w - 1) - 1) x :=
  satInt_wrapped w (by have := pow_pos (two_pos (α := Int)) (w - 1); unfold sBounds; dsimp only; omega)

theorem satU_eq (w : Nat) (x : Int) : satU w x = saturated w 0 (2 ^ w - 1) x :=
  satInt_wrapped w (by have := pow_pos (two_pos (α := Int)) w; unfold uBounds; dsimp only; omega)

theorem vSrlF_eq {w x : Nat} (y : Nat) (h : x < 2 ^ w) : vSrlF w x y = (x / 2 ^ y, 0) := by
  unfold vSrlF
  split
  · rw [Nat.div_eq_of_lt (h.trans_le (Nat.pow_le_pow_right two_pos ‹_›))]
  · rfl

theorem signed_bounds (w x : Nat) : -2 ^ w ≤ signed w x ∧ signed w x < 2 ^ w := by
  have small : x % 2 ^ w < 2 ^ w := Nat.mod_lt _ (Nat.two_pow_pos _)
  have cast : ((2 ^ w : Nat) : Int) = 2 ^ w := by norm_cast
  unfold signed
  dsimp only
  generalize x % 2 ^ w = y at small ⊢
  split <;> omega

/-- A shift by the width or more leaves the sign alone. -/
theorem ediv_two_pow_min {w : Nat} {x : Int} (y : Nat) (lo : -2 ^ w ≤ x) (hi : x < 2 ^ w) : x / 2 ^ min y w = x / 2 ^ y := by
  rcases le_total y w with h | h
  · rw [min_eq_left h]
  · have wide : (2 : Int) ^ w ≤ 2 ^ y := pow_le_pow_right₀ (by norm_num) h
    rw [min_eq_right h]
    rcases lt_or_ge x 0 with neg | pos
    · rw [Int.ediv_eq_neg_one_of_neg_of_le neg (by omega), Int.ediv_eq_neg_one_of_neg_of_le neg (by omega)]
    · rw [Int.ediv_eq_zero_of_lt pos hi, Int.ediv_eq_zero_of_lt pos (by omega)]

theorem vSraF_eq (w x y : Nat) : vSraF w x y = (wrapInt w (signed w x / 2 ^ y), 0) := by
  obtain ⟨lo, hi⟩ := signed_bounds w x
  rw [vSraF, ediv_two_pow_min y lo hi]
  rfl

section
variable (s : State) (d a b : BitVec 5) (m : BitVec 2) (mp : BitVec 1)

theorem sums_forms :
    IntForms s d a b m mp (.vadd d a b m mp) (.vaddS d a b m mp) (fun w x y => ((x + y) % 2 ^ w, 0)) ∧
    IntForms s d a b m mp (.vsub d a b m mp) (.vsubS d a b m mp) (fun w x y => (wrapInt w (x - y), 0)) ∧
    IntForms s d a b m mp (.vrsub d a b m mp) (.vrsubS d a b m mp) (fun w x y => (wrapInt w (y - x), 0)) :=
  ⟨intOp_twoSource (fn := 0x00) (g := vAddF) rfl rfl rfl rfl fun w x y _ => congrArg (·, 0) (wrapInt_natCast w (x + y)),
    intOp_twoSource (fn := 0x01) (g := vSubF) rfl rfl rfl rfl fun _ _ _ _ => rfl,
    intOp_twoSource (fn := 0x02) (g := vRsubF) rfl rfl rfl rfl fun _ _ _ _ => rfl⟩

theorem products_forms :
    IntForms s d a b m mp (.vmul d a b m mp) (.vmulS d a b m mp) (fun w x y => (x * y % 2 ^ w, 0)) ∧
    IntForms s d a b m mp (.vmulh d a b m mp) (.vmulhS d a b m mp)
      (fun w x y => (wrapInt w (signed w x * signed w y / 2 ^ w), 0)) ∧
    IntForms s d a b m mp (.vmulhu d a b m mp) (.vmulhuS d a b m mp) (fun w x y => (x * y / 2 ^ w, 0)) :=
  ⟨intOp_twoSource (fn := 0x03) (g := vMulF) rfl rfl rfl rfl fun w x y _ => congrArg (·, 0) (wrapInt_natCast w (x * y)),
    intOp_twoSource (fn := 0x04) (g := vMulhF) rfl rfl rfl rfl fun _ _ _ _ => rfl,
    intOp_twoSource (fn := 0x05) (g := vMulhuF) rfl rfl rfl rfl fun _ _ _ _ => rfl⟩

theorem divisions_forms :
    IntForms s d a b m mp (.vdiv d a b m mp) (.vdivS d a b m mp)
      (fun w x y => (wrapInt w (quotS w (signed w x) (signed w y)), 0)) ∧
    IntForms s d a b m mp (.vdivu d a b m mp) (.vdivuS d a b m mp)
      (fun w x y => (if y = 0 then if x = 0 then 0 else 2 ^ w - 1 else x / y, 0)) ∧
    IntForms s d a b m mp (.vrem d a b m mp) (.vremS d a b m mp)
      (fun w x y => (wrapInt w (remS (signed w x) (signed w y)), 0)) ∧
    IntForms s d a b m mp (.vremu d a b m mp) (.vremuS d a b m mp) (fun _ x y => (if y = 0 then 0 else x % y, 0)) :=
  ⟨intOp_twoSource (fn := 0x06) (g := vDivF) rfl rfl rfl rfl fun _ _ _ _ => rfl,
    intOp_twoSource (fn := 0x07) (g := vDivuF) rfl rfl rfl rfl fun _ _ _ _ => rfl,
    intOp_twoSource (fn := 0x08) (g := vRemF) rfl rfl rfl rfl fun _ _ _ _ => rfl,
    intOp_twoSource (fn := 0x09) (g := vRemuF) rfl rfl rfl rfl fun _ _ _ _ => rfl⟩

theorem extrema_forms :
    IntForms s d a b m mp (.vmin d a b m mp) (.vminS d a b m mp) (fun w x y => (if signed w x < signed w y then x else y, 0)) ∧
    IntForms s d a b m mp (.vmax d a b m mp) (.vmaxS d a b m mp) (fun w x y => (if signed w x < signed w y then y else x, 0)) ∧
    IntForms s d a b m mp (.vminu d a b m mp) (.vminuS d a b m mp) (fun _ x y => (min x y, 0)) ∧
    IntForms s d a b m mp (.vmaxu d a b m mp) (.vmaxuS d a b m mp) (fun _ x y => (max x y, 0)) :=
  ⟨intOp_twoSource (fn := 0x11) (g := vMinF) rfl rfl rfl rfl fun _ _ _ _ => rfl,
    intOp_twoSource (fn := 0x12) (g := vMaxF) rfl rfl rfl rfl fun _ _ _ _ => rfl,
    intOp_twoSource (fn := 0x13) (g := vMinuF) rfl rfl rfl rfl fun _ _ _ _ => rfl,
    intOp_twoSource (fn := 0x14) (g := vMaxuF) rfl rfl rfl rfl fun _ _ _ _ => rfl⟩

theorem saturations_forms :
    IntForms s d a b m mp (.vsadd d a b m mp) (.vsaddS d a b m mp)
      (fun w x y => saturated w (-2 ^ (w - 1)) (2 ^ (w - 1) - 1) (signed w x + signed w y)) ∧
    IntForms s d a b m mp (.vssub d a b m mp) (.vssubS d a b m mp)
      (fun w x y => saturated w (-2 ^ (w - 1)) (2 ^ (w - 1) - 1) (signed w x - signed w y)) ∧
    IntForms s d a b m mp (.vsaddu d a b m mp) (.vsadduS d a b m mp) (fun w x y => saturated w 0 (2 ^ w - 1) (x + y)) ∧
    IntForms s d a b m mp (.vssubu d a b m mp) (.vssubuS d a b m mp) (fun w x y => saturated w 0 (2 ^ w - 1) (x - y)) :=
  ⟨intOp_twoSource (fn := 0x16) (g := vSaddF) rfl rfl rfl rfl fun _ _ _ _ => satS_eq ..,
    intOp_twoSource (fn := 0x17) (g := vSsubF) rfl rfl rfl rfl fun _ _ _ _ => satS_eq ..,
    intOp_twoSource (fn := 0x18) (g := vSadduF) rfl rfl rfl rfl fun _ _ _ _ => satU_eq ..,
    intOp_twoSource (fn := 0x19) (g := vSsubuF) rfl rfl rfl rfl fun _ _ _ _ => satU_eq ..⟩

theorem shifts_forms :
    ShiftForms s d a b m mp (.vsll d a b m mp) (.vsllS d a b m mp)
      (fun w x y => (if w ≤ y % 128 then 0 else x * 2 ^ (y % 128) % 2 ^ w, 0)) ∧
    ShiftForms s d a b m mp (.vsrl d a b m mp) (.vsrlS d a b m mp) (fun _ x y => (x / 2 ^ (y % 128), 0)) ∧
    ShiftForms s d a b m mp (.vsra d a b m mp) (.vsraS d a b m mp) (fun w x y => (wrapInt w (signed w x / 2 ^ (y % 128)), 0)) :=
  ⟨shiftOp_twoSource (fn := 0x0E) (g := vSllF) rfl rfl rfl rfl fun _ _ _ _ => rfl,
    shiftOp_twoSource (fn := 0x0F) (g := vSrlF) rfl rfl rfl rfl fun _ _ _ h => vSrlF_eq _ h,
    shiftOp_twoSource (fn := 0x10) (g := vSraF) rfl rfl rfl rfl fun _ _ _ _ => vSraF_eq ..⟩

theorem bitwise_forms :
    LogicForms s d a b m mp (.vand d a b m mp) (.vandS d a b m mp) (fun _ x y => (x &&& y, 0)) ∧
    LogicForms s d a b m mp (.vor d a b m mp) (.vorS d a b m mp) (fun _ x y => (x ||| y, 0)) ∧
    LogicForms s d a b m mp (.vxor d a b m mp) (.vxorS d a b m mp) (fun _ x y => (x ^^^ y, 0)) :=
  ⟨logicOp_twoSource (fn := 0x0A) (g := vAndF) rfl rfl rfl rfl, logicOp_twoSource (fn := 0x0B) (g := vOrF) rfl rfl rfl rfl,
    logicOp_twoSource (fn := 0x0C) (g := vXorF) rfl rfl rfl rfl⟩

end

/-- Settles O18: each instruction is one of the model's three kinds of operation, whose functions agree with R139's. -/
theorem vecIntegerTwoSource : Obligations.VecIntegerTwoSource := by
  intro s d a b m mp
  obtain ⟨add, sub, rsub⟩ := sums_forms s d a b m mp
  obtain ⟨mul, mulh, mulhu⟩ := products_forms s d a b m mp
  obtain ⟨div, divu, rem, remu⟩ := divisions_forms s d a b m mp
  obtain ⟨mins, maxs, minu, maxu⟩ := extrema_forms s d a b m mp
  obtain ⟨sadd, ssub, saddu, ssubu⟩ := saturations_forms s d a b m mp
  obtain ⟨sll, srl, sra⟩ := shifts_forms s d a b m mp
  exact ⟨add, sub, rsub, mul, mulh, mulhu, div, divu, rem, remu, mins, maxs, minu, maxu, sadd, ssub, saddu, ssubu, sll, srl, sra,
    bitwise_forms s d a b m mp⟩

end Sys2Proof.Machine


namespace Sys2Proof.Machine

/-! ## Completion words (R98, R99) -/

theorem getLsbD_setFld (w : Word) (lo n v j : Nat) (hj : j < 64) :
    (setFld w lo n v).getLsbD j = if lo ≤ j ∧ j < lo + n then v.testBit (j - lo) else w.getLsbD j := by
  have fits : ∀ i, n ≤ i → (BitVec.ofNat 64 (v % 2 ^ n)).getLsbD i = false := fun i hi => by
    have lt : v % 2 ^ n < 2 ^ i := Nat.lt_of_lt_of_le (Nat.mod_lt _ (Nat.two_pow_pos _)) (Nat.pow_le_pow_right (by decide) hi)
    rw [BitVec.getLsbD_ofNat, Nat.testBit_lt_two_pow lt, Bool.and_false]
  rw [setFld, getLsbD_insert w _ _ lo n j (getLsbD_ones n) fits hj]
  refine ite_congr rfl (fun inside => ?_) fun _ => rfl
  rw [BitVec.getLsbD_ofNat, Nat.testBit_mod_two_pow, decide_eq_true (by omega), decide_eq_true (by omega)]
  simp

theorem testBit_fld (w : Word) (lo n j : Nat) : (fld w lo n).testBit j = (decide (j < n) && w.getLsbD (lo + j)) := by
  rw [fld, bitsOf, Nat.testBit_mod_two_pow, Nat.testBit_div_two_pow, BitVec.getLsbD, Nat.add_comm]

theorem setFld_done (w : Word) : setFld w 63 1 1 = w ||| BitVec.ofNat 64 (2 ^ 63) := by
  refine BitVec.eq_of_getLsbD_eq fun j hj => ?_
  rw [getLsbD_setFld_one _ _ _ _ hj, BitVec.getLsbD_or, BitVec.getLsbD_ofNat, Nat.testBit_two_pow]
  by_cases h : j = 63
  · simp [h]
  · simp [h, Ne.symm h]

theorem completionWord_none (old : Word) (fl : Nat) :
    (completionWord old fl none).toNat = old.toNat ||| 2 ^ 63 ||| fl % 2 ^ 16 := by
  rw [completionWord, setFld_done, BitVec.toNat_or, BitVec.toNat_or, BitVec.toNat_ofNat, BitVec.toNat_ofNat,
    Nat.mod_eq_of_lt (by omega : fl % 2 ^ 16 < 2 ^ 64), Nat.mod_eq_of_lt (by decide : 2 ^ 63 < 2 ^ 64), Nat.lor_assoc,
    Nat.lor_comm (fl % _), ← Nat.lor_assoc]

/-- R98: a fault that is not the first leaves CAUSE. -/
theorem completionWord_faulted (old : Word) (fl c : Nat) (h : fld old 62 1 = 1) :
    completionWord old fl (some c) = completionWord old fl none := by
  simp [completionWord, h]

theorem getLsbD_firstFault (old : Word) (fl c : Nat) (h : fld old 62 1 = 0) {j : Nat} (hj : j < 64) :
    (completionWord old fl (some c)).getLsbD j = if 56 ≤ j ∧ j < 62 then c.testBit (j - 56) else if j = 62 ∨ j = 63 then true
      else old.getLsbD j || (fl % 2 ^ 16).testBit j := by
  have first : completionWord old fl (some c) =
      setFld (setFld (setFld (old ||| BitVec.ofNat 64 (fl % 2 ^ 16)) 63 1 1) 62 1 1) 56 6 c := by simp [completionWord, h]
  rw [first, getLsbD_setFld _ _ _ _ _ hj, getLsbD_setFld_one _ _ _ _ hj, getLsbD_setFld_one _ _ _ _ hj, BitVec.getLsbD_or,
    BitVec.getLsbD_ofNat, decide_eq_true hj, Bool.true_and]
  by_cases h2 : j = 62
  · simp [h2]
  · simp [h2]

/-- R98: the fields of a completion word after the first fault. -/
theorem completionWord_firstFault (old : Word) (fl c : Nat) (hc : c < 64) (h : fld old 62 1 = 0) :
    fld (completionWord old fl (some c)) 62 1 = 1 ∧ fld (completionWord old fl (some c)) 63 1 = 1 ∧
    fld (completionWord old fl (some c)) 56 6 = c ∧ fld (completionWord old fl (some c)) 16 40 = fld old 16 40 ∧
    fld (completionWord old fl (some c)) 0 16 = fld old 0 16 ||| fl % 2 ^ 16 := by
  have small : ∀ j, 16 ≤ j → (fl % 2 ^ 16).testBit j = false := fun j hj =>
    Nat.testBit_lt_two_pow (Nat.lt_of_lt_of_le (Nat.mod_lt _ (by decide)) (Nat.pow_le_pow_right (by decide) hj))
  refine ⟨?_, ?_, Nat.eq_of_testBit_eq fun j => ?_, Nat.eq_of_testBit_eq fun j => ?_, Nat.eq_of_testBit_eq fun j => ?_⟩
  · rw [fld_one, getLsbD_firstFault old fl c h (by decide)]
    rfl
  · rw [fld_one, getLsbD_firstFault old fl c h (by decide)]
    rfl
  · rw [testBit_fld]
    by_cases hj : j < 6
    · rw [getLsbD_firstFault old fl c h (by omega), if_pos (by omega), decide_eq_true hj, Bool.true_and, Nat.add_sub_cancel_left]
    · have above : c < 2 ^ j := Nat.lt_of_lt_of_le hc (Nat.pow_le_pow_right (n := 2) (by decide) (by omega : 6 ≤ j))
      rw [decide_eq_false hj, Bool.false_and, Nat.testBit_lt_two_pow above]
  · rw [testBit_fld, testBit_fld]
    by_cases hj : j < 40
    · rw [getLsbD_firstFault old fl c h (by omega), if_neg (by omega), if_neg (by omega), small _ (by omega), Bool.or_false]
    · rw [decide_eq_false hj, Bool.false_and, Bool.false_and]
  · rw [Nat.testBit_lor, testBit_fld, testBit_fld]
    by_cases hj : j < 16
    · rw [getLsbD_firstFault old fl c h (by omega), if_neg (by omega), if_neg (by omega), decide_eq_true hj, Nat.zero_add]
      rfl
    · rw [decide_eq_false hj, small j (by omega)]
      rfl

/-! ## Clusters of the same contents -/

theorem walk_clusters (s : State) (x : Tbl Cluster) (va fuel table : Nat) :
    walk { s with clusters := x } va fuel table = walk s va fuel table := by
  induction fuel generalizing table with
  | zero => rfl
  | succ level ih =>
    rw [walk, walk]
    dsimp only
    rw [ih]
    rfl

theorem translate_clusters (s : State) (x : Tbl Cluster) (ag : Agent) (write : Bool) (a : Word) :
    translate { s with clusters := x } ag write a = translate s ag write a := by
  have page : ∀ units ctx va, pageWalk { s with clusters := x } units ctx va = pageWalk s units ctx va := fun units ctx va => by
    unfold pageWalk tableWalk
    simp only [walk_clusters]
    rfl
  unfold translate
  simp only [page]
  rfl

theorem noteFault_clusters (s : State) (x : Tbl Cluster) (f : XFault) :
    noteFault { s with clusters := x } f = { noteFault s f with clusters := x } := by
  unfold noteFault addReportOnce
  cases f.report with
  | none => rfl
  | some d =>
    dsimp only
    split <;> rfl

theorem noteRemote_clusters (s : State) (x : Tbl Cluster) (id stream cls : Nat) (q : Target) (v : Nat) :
    noteRemote { s with clusters := x } id stream cls q v = { noteRemote s id stream cls q v with clusters := x } := by
  have home : homeDie { s with clusters := x } q = homeDie s q := rfl
  have pkg : pkgNumber { s with clusters := x } = pkgNumber s := rfl
  unfold noteRemote noteRemoteAs
  rw [home, pkg]
  cases homeDie s q with
  | none => rfl
  | some d =>
    dsimp only
    by_cases here : d = 4 * pkgNumber s + dieIdx id
    · rw [if_pos here, if_pos here]
    · rw [if_neg here, if_neg here]
      cases q with
      | phys k sl =>
        dsimp only
        split <;> rfl
      | atrium o => rfl
      | coded r o sl => rfl
      | host a => rfl

theorem targetWrite_clusters (s : State) (x : Tbl Cluster) (cl tag : Nat) {q : Target} (hq : Plainly q) (n v : Nat) :
    targetWrite { s with clusters := x } cl tag q n v = { targetWrite s cl tag q n v with clusters := x } ∧
    (targetWrite s cl tag q n v).clusters = s.clusters := by
  obtain ⟨k, sl, rfl⟩ | ⟨a, rfl⟩ := hq
  · simp only [targetWrite, breakLine, storeLine]
    constructor <;> split <;> rfl
  · exact ⟨rfl, rfl⟩

theorem targetRead_clusters {s : State} {x : Tbl Cluster} (same : ∀ j, clusterOf { s with clusters := x } j = clusterOf s j)
    (c : Nat) (r : Target) (n : Nat) : targetRead { s with clusters := x } c r n = targetRead s c r n := by
  cases r with
  | atrium o => simp only [targetRead, same]
  | phys k sl => rfl
  | coded g o sl => rfl
  | host a => rfl

section
variable {s : State} {x : Tbl Cluster} (same : ∀ j, clusterOf { s with clusters := x } j = clusterOf s j)
include same

theorem endTarget_clusters (ag : Agent) (sid : Nat) (amo : Bool) (a : Word) :
    endTarget { s with clusters := x } ag sid amo a = endTarget s ag sid amo a := by
  have target : atomicTarget { s with clusters := x } ag true a 8 = atomicTarget s ag true a 8 := by
    unfold atomicTarget
    rw [translate_clusters]
  have bad : ∀ q, targetBad { s with clusters := x } ag.cluster q 8 = targetBad s ag.cluster q 8 := fun q => by
    cases q with
    | atrium o => simp only [targetBad, same]
    | phys k sl => rfl
    | coded g o sl => rfl
    | host a => rfl
  unfold endTarget
  simp only [target, bad]
  rfl

theorem endWrite_clusters (e : Ending) {q : Target} (hq : Plainly q) (f : Word → Word) :
    endWrite { s with clusters := x } e q f = { endWrite s e q f with clusters := x } := by
  unfold endWrite
  dsimp only
  rw [targetRead_clusters same, (targetWrite_clusters s x _ _ hq _ _).1, noteRemote_clusters]

theorem writeCompletion_clusters (e : Ending) : writeCompletion { s with clusters := x } e =
    ({ (writeCompletion s e).1 with clusters := x }, (writeCompletion s e).2) := by
  unfold writeCompletion
  rw [endTarget_clusters same]
  split
  · rfl
  · split
    · rw [noteFault_clusters]
    · rename_i reached
      rw [endWrite_clusters same e (endTarget_ok reached).plainly]

theorem decrementJoin_clusters (e : Ending) : decrementJoin { s with clusters := x } e =
    ({ (decrementJoin s e).1 with clusters := x }, (decrementJoin s e).2) := by
  have read : physRead { s with clusters := x } e.join 8 = physRead s e.join 8 := rfl
  have bad : lineBad { s with clusters := x } (e.join / 64) = lineBad s (e.join / 64) := rfl
  unfold decrementJoin physWrite
  rw [endTarget_clusters same, bad, read, (targetWrite_clusters s x _ _ (.inl ⟨_, _, rfl⟩) _ _).1]
  split
  · rfl
  · split
    · split <;> rfl
    · split
      · rw [noteFault_clusters]
      · rename_i reached
        rw [endWrite_clusters same e (endTarget_ok reached).plainly]

end

/-- Clusters, strands and cores are as they were. -/
structure KeepsUnits (s t : State) : Prop where
  clusters : t.clusters = s.clusters
  strands : t.strands = s.strands
  cores : t.cores = s.cores

theorem KeepsUnits.refl (s : State) : KeepsUnits s s := ⟨rfl, rfl, rfl⟩

theorem KeepsUnits.trans {s t u : State} (h : KeepsUnits s t) (g : KeepsUnits t u) : KeepsUnits s u :=
  ⟨g.clusters.trans h.clusters, g.strands.trans h.strands, g.cores.trans h.cores⟩

theorem noteFault_keeps (s : State) (f : XFault) : KeepsUnits s (noteFault s f) := by
  rw [noteFault_eq]
  exact ⟨rfl, rfl, rfl⟩

theorem targetWrite_keeps (s : State) (cl tag : Nat) {q : Target} (hq : Plainly q) (n v : Nat) :
    KeepsUnits s (targetWrite s cl tag q n v) :=
  ⟨(targetWrite_clusters s s.clusters cl tag hq n v).2, (targetWrite_sides ..).1, (targetWrite_sides ..).2⟩

theorem endWrite_keeps (s : State) (e : Ending) {q : Target} (hq : Plainly q) (f : Word → Word) :
    KeepsUnits s (endWrite s e q f) := by
  unfold endWrite
  dsimp only
  rw [noteRemote_eq]
  obtain ⟨clusters, strands, cores⟩ := targetWrite_keeps s e.agent.cluster e.agent.tag hq 8
    (f (BitVec.ofNat 64 (targetRead s e.agent.cluster q 8))).toNat
  exact ⟨clusters, strands, cores⟩

theorem writeCompletion_keeps (s : State) (e : Ending) : KeepsUnits s (writeCompletion s e).1 := by
  unfold writeCompletion
  split
  · exact .refl s
  · split
    · exact noteFault_keeps s _
    · rename_i reached
      dsimp only
      exact endWrite_keeps s e (endTarget_ok reached).plainly _

theorem decrementJoin_keeps (s : State) (e : Ending) : KeepsUnits s (decrementJoin s e).1 := by
  unfold decrementJoin
  split
  · exact .refl s
  split
  · split
    · exact .refl s
    · exact targetWrite_keeps s 0 0 (.inl ⟨_, _, rfl⟩) _ _
  split
  · exact noteFault_keeps s _
  · rename_i reached
    dsimp only
    exact endWrite_keeps s e (endTarget_ok reached).plainly _

/-- R99: writing the words of an ending touches no strand, core or cluster. -/
theorem writeEnding_keeps (s : State) (e : Ending) : KeepsUnits s (writeEnding s e) := by
  obtain ⟨clusters, strands, cores⟩ := (writeCompletion_keeps s e).trans (decrementJoin_keeps (writeCompletion s e).1 e)
  unfold writeEnding
  dsimp only
  split <;> exact ⟨clusters, strands, cores⟩

theorem writeEnding_clusters {s : State} {x : Tbl Cluster} (same : ∀ j, clusterOf { s with clusters := x } j = clusterOf s j)
    (e : Ending) : writeEnding { s with clusters := x } e = { writeEnding s e with clusters := x } := by
  have after : ∀ j, clusterOf { (writeCompletion s e).1 with clusters := x } j = clusterOf (writeCompletion s e).1 j := fun j => by
    rw [clusterOf, clusterOf, (writeCompletion_keeps s e).clusters]
    exact same j
  unfold writeEnding
  rw [writeCompletion_clusters same]
  dsimp only
  rw [decrementJoin_clusters after]
  dsimp only
  split <;> rfl

/-! ## A strand with no copy commands ends (R99) -/

/-- R246: giving up the copies of an issuer that has none changes no cluster. -/
theorem abandonCopies_none {s : State} {cl issuer : Nat} {all : Bool} (h : issuedCmds s cl issuer = []) :
    ∃ x, abandonCopies s cl issuer all = { s with clusters := x } ∧ ∀ j, clusterOf { s with clusters := x } j = clusterOf s j := by
  have none : ∀ q ∈ (clusterOf s cl).engines, q.filter (fun c => c.issuer != issuer || !(all || c.state == .halted)) = q := by
    intro q hq
    refine List.filter_eq_self.2 fun c hc => ?_
    have out := List.filter_eq_nil_iff.1 h c (List.mem_flatten.2 ⟨q, hq, hc⟩)
    simp [bne, Bool.not_eq_true _ ▸ out]
  have engines : (clusterOf s cl).engines.map (fun q => q.filter fun c => c.issuer != issuer || !(all || c.state == .halted)) =
      (clusterOf s cl).engines := (List.map_congr_left none).trans (List.map_id _)
  refine ⟨tblSet s.clusters cl (clusterOf s cl), ?_, fun j => ?_⟩
  · unfold abandonCopies
    dsimp only
    rw [engines]
    rfl
  · by_cases hj : j = cl
    · subst hj
      exact clusterOf_setCluster s j _
    · exact clusterOf_setCluster_ne s cl j _ hj

theorem endPending_clusters {s : State} {x : Tbl Cluster} (same : ∀ j, clusterOf { s with clusters := x } j = clusterOf s j)
    (id : Nat) : endPending { s with clusters := x } id = endPending s id := by
  unfold endPending unperformed liveCmds issuedCmds
  simp only [same]
  rfl

/-- What an ending that may be faulted makes of the copies of a strand that has none. -/
theorem abandoned_none {s : State} {cl issuer : Nat} (h : issuedCmds s cl issuer = []) (faulted : Bool) :
    ∃ x, (if faulted then abandonCopies s cl issuer false else s) = { s with clusters := x } ∧
      ∀ j, clusterOf { s with clusters := x } j = clusterOf s j := by
  cases faulted with
  | false => exact ⟨s.clusters, rfl, fun _ => rfl⟩
  | true => exact abandonCopies_none h

section
variable {s : State}

theorem endsFaulted_running (h : stNest (strandOf s s.cur) = false) : endsFaulted (strandOf s s.cur) = false := by
  rw [endsFaulted, h, Bool.and_false]

theorem end_pending (h : stNest (strandOf s s.cur) = false) (whole : haltedEngine s s.cur = none)
    (p : endPending s s.cur = true) : exec .endStrand s = .next (blockOn s s.cur .endWait) := by
  show execEndStrand s = _
  simp [execEndStrand, endsFaulted_running h, whole, p]

theorem end_open (h : stNest (strandOf s s.cur) = false) (whole : haltedEngine s s.cur = none)
    (p : endPending s s.cur = false) (o : openOps s s.cur ≠ []) : exec .endStrand s = .next (parkOn s s.cur .endWait) := by
  show execEndStrand s = _
  simp [execEndStrand, endsFaulted_running h, whole, p, o]

theorem end_badStatus (h : stNest (strandOf s s.cur) = false) (whole : haltedEngine s s.cur = none)
    (p : endPending s s.cur = false) (o : openOps s s.cur = []) (b : badOps s s.cur = true) :
    exec .endStrand s = .next (trapHere s s.cur cCOPY_FAULT 4) := by
  show execEndStrand s = _
  simp [execEndStrand, endsFaulted_running h, whole, p, o, b]

theorem end_halted {e : Nat} (h : stNest (strandOf s s.cur) = false) (halted : haltedEngine s s.cur = some e) :
    exec .endStrand s = .next (trapHere s s.cur cCOPY_FAULT (BitVec.ofNat 64 e)) := by
  show execEndStrand s = _
  simp [execEndStrand, endsFaulted_running h, halted]

/-- The slot drains. -/
def startDrain (s : State) : State := modStrand s s.cur fun t => { t with slot := .drain, blocked := none, hostAnswer := none }

theorem end_sound (h : stNest (strandOf s s.cur) = false) (whole : haltedEngine s s.cur = none)
    (p : endPending s s.cur = false) (o : openOps s s.cur = []) (b : badOps s s.cur = false)
    (sound : endCheck s (endingOf s s.cur) = none) : exec .endStrand s = .next (startDrain s) := by
  show execEndStrand s = _
  simp only [execEndStrand, endsFaulted_running h, whole, p, o, b, sound, Bool.false_eq_true, if_false, Bool.not_false,
    Bool.and_false, List.isEmpty_nil, Bool.not_true]
  rfl

theorem end_refused {c : Nat} {a : Word} {w : State} (h : stNest (strandOf s s.cur) = false)
    (whole : haltedEngine s s.cur = none) (p : endPending s s.cur = false) (o : openOps s s.cur = [])
    (b : badOps s s.cur = false) (bad : endCheck s (endingOf s s.cur) = some (c, a, w)) :
    exec .endStrand s = .next (trapHere w s.cur c a) := by
  show execEndStrand s = _
  simp only [execEndStrand, endsFaulted_running h, whole, p, o, b, bad, Bool.false_eq_true, if_false, Bool.not_false,
    Bool.and_false, List.isEmpty_nil, Bool.not_true]

/-- R99: in HANDLER nothing is checked. -/
theorem end_handler (h : stNest (strandOf s s.cur) = true) (super : stSuper (strandOf s s.cur) = true)
    (none : issuedCmds s (clusterIdx s.cur) (strandOf s s.cur).issuer = []) (p : endPending s s.cur = false)
    (o : openOps s s.cur = []) : ∃ x, exec .endStrand s = .next (startDrain { s with clusters := x }) := by
  obtain ⟨x, left, same⟩ := abandoned_none none true
  have faulted : endsFaulted (strandOf s s.cur) = true := by rw [endsFaulted, super, h]; rfl
  have pending : endPending { s with clusters := x } s.cur = false := (endPending_clusters same _).trans p
  have opened : openOps { s with clusters := x } s.cur = [] := o
  rw [if_pos rfl] at left
  refine ⟨x, ?_⟩
  show execEndStrand s = _
  simp only [execEndStrand, faulted, if_true, left, pending, opened, Bool.false_eq_true, if_false, Bool.not_true, Bool.false_and,
    List.isEmpty_nil]
  rfl

/-- R99: the first word that cannot be written: a fault of the check, with its report. -/
theorem endCheck_fault {e : Ending} {c : Nat} {a : Word} {w : State} (h : endCheck s e = some (c, a, w)) :
    ∃ f, w = noteFault s f := by
  unfold endCheck at h
  dsimp only at h
  rcases Option.or_eq_some_iff.1 h with h | ⟨-, h⟩
  · split at h
    · cases h
    · split at h
      · cases h
        exact ⟨_, rfl⟩
      · cases h
  · split at h
    · cases h
    · split at h
      · cases h
      · split at h
        · cases h
          exact ⟨_, rfl⟩
        · cases h

end

/-! ## The slot that becomes FREE (R79) -/

theorem returnMessage_rest (s : State) (id : Nat) :
    returnMessage s id = { s with strands := (returnMessage s id).strands, cores := (returnMessage s id).cores } := by
  unfold returnMessage
  split <;> rfl

theorem withdrawRequest_rest (s : State) (id : Nat) : withdrawRequest s id = { s with cores := (withdrawRequest s id).cores } := by
  unfold withdrawRequest
  dsimp only
  split <;> rfl

theorem resetDeficit_rest (s : State) (c l : Nat) : resetDeficit s c l = { s with cores := (resetDeficit s c l).cores } := by
  unfold resetDeficit
  split <;> rfl

theorem releaseBays_rest (s : State) (id : Nat) :
    releaseBays s id = { s with strands := (releaseBays s id).strands, cores := (releaseBays s id).cores } := by
  unfold releaseBays
  dsimp only
  rw [resetDeficit_rest]
  rfl

/-- Beside strands, cores and dies a slot that becomes FREE changes the tags of its strand alone. -/
theorem freeSlot_rest (s : State) (id : Nat) (area : Bool) : freeSlot s id area = { s with
    strands := (freeSlot s id area).strands, cores := (freeSlot s id area).cores, dies := (freeSlot s id area).dies,
    mem := { s.mem with tags := s.mem.tags.filter fun t => t.strand != some id } } := by
  have before : ∃ x y, releaseBays (withdrawRequest (returnMessage s id) id) id = { s with strands := x, cores := y } := by
    rw [releaseBays_rest, withdrawRequest_rest, returnMessage_rest]
    exact ⟨_, _, rfl⟩
  obtain ⟨x, y, before⟩ := before
  unfold freeSlot
  dsimp only
  rw [before]
  cases area with
  | false => rfl
  | true =>
    rw [if_pos rfl]
    cases (strandOf s id).vaultArea <;> rfl

/-- The owner that a slot leaves behind. -/
def disowned (id : Nat) (o : Option Nat) : Option Nat := if o = some (slotIdx id) then none else o

theorem releaseBays_core (s : State) (id : Nat) :
    (coreOf (releaseBays s id) (coreIdx id)).bayOwner = (coreOf s (coreIdx id)).bayOwner.map (disowned id) ∧
    (coreOf (releaseBays s id) (coreIdx id)).mezz = (coreOf s (coreIdx id)).mezz := by
  unfold releaseBays resetDeficit
  dsimp only
  split
  · rw [coreOf_modStrand, coreOf_modCore]
    exact ⟨rfl, rfl⟩
  · rw [coreOf_modCore, coreOf_modStrand, coreOf_modCore]
    exact ⟨rfl, rfl⟩

theorem freeSlot_core (s : State) (id : Nat) (area : Bool) :
    (coreOf (freeSlot s id area) (coreIdx id)).bayOwner =
      (coreOf (withdrawRequest (returnMessage s id) id) (coreIdx id)).bayOwner.map (disowned id) ∧
    (coreOf (freeSlot s id area) (coreIdx id)).mezz.owner = (coreOf s (coreIdx id)).mezz.owner := by
  obtain ⟨owners, mezz⟩ := releaseBays_core (withdrawRequest (returnMessage s id) id) id
  have kept : (coreOf (withdrawRequest (returnMessage s id) id) (coreIdx id)).mezz = (coreOf s (coreIdx id)).mezz :=
    (coreOf_withdrawRequest ..).1.trans (mezz_returnMessage ..)
  have cores : ∀ u : State, ∀ die l a, (freeArea u die l a).cores = u.cores := fun u die l a => by cases a <;> rfl
  have freed : coreOf (freeSlot s id area) (coreIdx id) = coreOf (modCore
      (breakStrand (releaseBays (withdrawRequest (returnMessage s id) id) id) id) (coreIdx id) fun k =>
        { k with mezz := { k.mezz with waiters := k.mezz.waiters.filter (· != slotIdx id) },
                 keepers := keptBays (strandOf s id) (!area) k.keepers,
                 sequencer := if k.sequencer = some (slotIdx id) then none else k.sequencer }) (coreIdx id) := by
    unfold freeSlot
    dsimp only
    rw [coreOf_setStrand]
    split
    · exact coreOf_congr (cores _ _ _ _) _
    · rfl
  have broken : coreOf (breakStrand (releaseBays (withdrawRequest (returnMessage s id) id) id) id) (coreIdx id) =
      coreOf (releaseBays (withdrawRequest (returnMessage s id) id) id) (coreIdx id) := rfl
  rw [freed, coreOf_modCore, broken]
  exact ⟨owners, by rw [mezz, kept]⟩

theorem listGet_disowned (id : Nat) (l : List (Option Nat)) (b : Nat) :
    listGet none (l.map (disowned id)) b ≠ some (slotIdx id) := by
  have apart : ∀ o, disowned id o ≠ some (slotIdx id) := fun o => by
    unfold disowned
    split
    · exact nofun
    · assumption
  unfold listGet
  rw [List.getElem?_map]
  cases l[b]? with
  | none => exact nofun
  | some o => exact apart o

/-- R173: no claim of the issuer is left. -/
theorem endClaim_owner (s : State) (core g sl : Nat) : (coreOf (endClaim s core g) core).mezz.owner ≠ some (g, sl) := by
  unfold endClaim
  split
  · rename_i owned
    split
    · rw [modMezz, coreOf_setCore]
      exact nofun
    · rename_i other
      rw [owned]
      exact fun e => other (Prod.mk.inj (Option.some.inj e)).1
  · rename_i none
    rw [none]
    exact nofun

theorem endClaim_rest (s : State) (core g : Nat) : endClaim s core g = { s with cores := (endClaim s core g).cores } := by
  unfold endClaim
  split
  · split <;> rfl
  · rfl

/-! ## The drain (R99) -/

/-- The state that a drain leaves when nothing of the strand is outstanding: `x` are its clusters. -/
def afterDrain (s : State) (id : Nat) (x : Tbl Cluster) : State :=
  let w := modEngine { writeEnding s (endingOf s id) with clusters := x } fun e =>
    { e with ops := e.ops.filter fun o => o.issuer != (strandOf s id).issuer }
  freeSlot (endClaim w (coreIdx id) (strandOf s id).issuer) id true

section
variable {s : State} {id : Nat}

/-- R99: a strand in DRAIN has faulted when it is in HANDLER, or could not resume. -/
theorem drainsFaulted_drain (h : (strandOf s id).slot = .drain) : drainsFaulted (strandOf s id) = stNest (strandOf s id) := by
  unfold drainsFaulted endsFaulted resumeFailed
  rw [h]
  cases stSuper (strandOf s id) <;> cases stNest (strandOf s id) <;> rfl

theorem exec_endDrain (h : (strandOf s id).slot = .drain) (none : issuedCmds s (clusterIdx id) (strandOf s id).issuer = [])
    (p : endPending s id = false) (o : openOps s id = []) : ∃ x, exec (.endDrain id) s = .next (afterDrain s id x) ∧
      ∀ j, clusterOf { s with clusters := x } j = clusterOf s j := by
  obtain ⟨x, left, same⟩ := abandoned_none none (drainsFaulted (strandOf s id))
  have pending : endPending { s with clusters := x } id = false := (endPending_clusters same _).trans p
  have opened : openOps { s with clusters := x } id = [] := o
  refine ⟨x, ?_, same⟩
  show execEndDrain id s = _
  rw [execEndDrain, if_pos h]
  unfold drain
  dsimp only
  rw [left, pending, opened, if_neg (by decide), writeEnding_clusters same]
  rfl

section
variable (s id) (x : Tbl Cluster)

theorem strandOf_afterDrain : strandOf (afterDrain s id x) id = Strand.reset id := strandOf_freeSlot ..

theorem strandOf_afterDrain_ne (j : Nat) (h : j ≠ id) : strandOf (afterDrain s id x) j = strandOf s j := by
  unfold afterDrain
  dsimp only
  rw [strandOf_freeSlot_ne _ _ _ _ h, endClaim_rest]
  exact strandOf_congr (writeEnding_keeps s _).strands j

theorem afterDrain_owner (sl : Nat) : (coreOf (afterDrain s id x) (coreIdx id)).mezz.owner ≠ some ((strandOf s id).issuer, sl) := by
  unfold afterDrain
  dsimp only
  rw [(freeSlot_core ..).2]
  exact endClaim_owner _ _ _ sl

theorem afterDrain_bays (b : Nat) : listGet none (coreOf (afterDrain s id x) (coreIdx id)).bayOwner b ≠ some (slotIdx id) := by
  unfold afterDrain
  dsimp only
  rw [(freeSlot_core ..).1]
  exact listGet_disowned _ _ b

theorem afterDrain_tags : ∀ g ∈ (afterDrain s id x).mem.tags, g.strand ≠ some id := by
  unfold afterDrain
  dsimp only
  rw [freeSlot_rest]
  intro g hg
  simpa using (List.mem_filter.1 hg).2

end

/-- R99: memory reads as the words of the ending leave it. -/
theorem targetRead_afterDrain {x : Tbl Cluster} (same : ∀ j, clusterOf { s with clusters := x } j = clusterOf s j) (c : Nat)
    (r : Target) (n : Nat) : targetRead (afterDrain s id x) c r n = targetRead (writeEnding s (endingOf s id)) c r n := by
  have clusters : ∀ j, clusterOf { writeEnding s (endingOf s id) with clusters := x } j =
      clusterOf (writeEnding s (endingOf s id)) j := fun j => by
    rw [clusterOf, clusterOf, (writeEnding_keeps s _).clusters]
    exact same j
  rw [← targetRead_clusters clusters c r n]
  unfold afterDrain
  dsimp only
  rw [freeSlot_rest, endClaim_rest]
  cases r <;> rfl

end

/-! ### The words of an ending -/

section
variable {s : State} {e : Ending} {g : Target} {f : Word → Word}

/-- A word that an ending writes reads as written. -/
theorem endWrite_reads (wf : MemoriesWf s) (plain : Plain s g) (hg : Countable s g) :
    targetRead (endWrite s e g f) e.agent.cluster g 8 = (f (BitVec.ofNat 64 (targetRead s e.agent.cluster g 8))).toNat := by
  rw [endWrite, (sameLines_noteRemote ..).targetRead hg.plainly _ e.agent.cluster,
    targetRead_targetWrite _ _ _ _ _ _ wf plain hg.inLine]
  exact Nat.mod_eq_of_lt (BitVec.isLt _)

theorem endWrite_apart (wf : MemoriesWf s) (plain : Plain s g) (hg : Countable s g) {c : Nat} {r : Target}
    (ha : Apart e.agent.cluster g 8 c r) : targetRead (endWrite s e g f) c r 1 = targetRead s c r 1 := by
  rw [← targetRead_targetWrite_ne s e.agent.cluster e.agent.tag g 8
    (f (BitVec.ofNat 64 (targetRead s e.agent.cluster g 8))).toNat c r wf plain hg.inLine ha]
  unfold endWrite
  dsimp only
  rw [noteRemote_eq]
  cases r <;> rfl

theorem memoriesWf_endWrite (wf : MemoriesWf s) : MemoriesWf (endWrite s e g f) := by
  unfold endWrite
  dsimp only
  rw [noteRemote_eq]
  exact (wf.targetWrite ..).congr rfl rfl rfl rfl

theorem bringUp_endWrite (hg : Plainly g) : (endWrite s e g f).pkg.bringUp = s.pkg.bringUp := by
  unfold endWrite
  dsimp only
  rw [noteRemote_eq]
  obtain ⟨k, sl, rfl⟩ | ⟨a, rfl⟩ := hg
  · simp only [targetWrite, breakLine, storeLine]
    split <;> rfl
  · rfl

theorem word_pred (n : Nat) : (BitVec.ofNat 64 n - 1 : Word).toNat = (n + (2 ^ 64 - 1)) % 2 ^ 64 := by
  simp
  omega

theorem writeCompletion_zero (h : e.cmpl = 0) : writeCompletion s e = (s, false) := by
  rw [writeCompletion, if_pos h]

theorem writeCompletion_ok (h : e.cmpl ≠ 0) (reached : endTarget s e.agent (sidOf e.id 0) false (addr48 e.cmpl) = .ok g) :
    writeCompletion s e = (endWrite s e g fun w => completionWord w e.flags e.fault, false) := by
  rw [writeCompletion, if_neg h, reached]

theorem decrementJoin_zero (h : e.join = 0) : decrementJoin s e = (s, false) := by
  rw [decrementJoin, if_pos h]

theorem decrementJoin_ok (h : e.join ≠ 0) (mapped : e.foyerJoin = false)
    (reached : endTarget s e.agent (sidOf e.id 0) true (addr48 e.join) = .ok g) :
    decrementJoin s e = (endWrite s e g fun w => w - 1, false) := by
  rw [decrementJoin, if_neg h, mapped, if_neg Bool.false_ne_true, reached]

theorem decrementJoin_foyer (h : e.join ≠ 0) (foyer : e.foyerJoin = true) (sound : lineBad s (e.join / 64) = false) :
    decrementJoin s e = (physWrite s e.join 8 ((physRead s e.join 8 + 2 ^ 64 - 1) % 2 ^ 64), false) := by
  rw [decrementJoin, if_neg h, if_pos foyer, sound, if_neg Bool.false_ne_true]

theorem writeEnding_of {u w : State} (a : writeCompletion s e = (u, false)) (b : decrementJoin u e = (w, false)) :
    writeEnding s e = w := by
  unfold writeEnding
  rw [a]
  dsimp only
  rw [b]
  rfl

end

section
variable {s : State} {id : Nat}

/-- R99: how a strand in DRAIN ends. -/
theorem endingOf_drain (h : (strandOf s id).slot = .drain) :
    (endingOf s id).fault = if stNest (strandOf s id) then some (fld (strandOf s id).cause 0 6) else none := by
  unfold endingOf
  dsimp only
  rw [drainsFaulted_drain h]

theorem writeEnding_nothing (cmpl : recCmpl (strandOf s id).record = 0) (join : recJoin (strandOf s id).record = 0) :
    writeEnding s (endingOf s id) = s :=
  writeEnding_of (writeCompletion_zero cmpl) (decrementJoin_zero join)

/-- R98, R99: a completion word as a drain leaves it. -/
theorem completion_written {g : Target} (h : (strandOf s id).slot = .drain) (wf : MemoriesWf s)
    (cmpl : recCmpl (strandOf s id).record ≠ 0) (plain : Plain s g)
    (reached : endTarget s (agentOf s id) (sidOf id 0) false (addr48 (recCmpl (strandOf s id).record)) = .ok g) :
    ∃ u, writeCompletion s (endingOf s id) = (u, false) ∧ MemoriesWf u ∧ u.pkg.bringUp = s.pkg.bringUp ∧
      targetRead u (clusterIdx id) g 8 = (completionWord (BitVec.ofNat 64 (targetRead s (clusterIdx id) g 8))
        ((opsOf s (strandOf s id).issuer).foldl (fun f o => f ||| o.flags.toNat) (strandOf s id).sflags.toNat)
        (if stNest (strandOf s id) then some (fld (strandOf s id).cause 0 6) else none)).toNat ∧
      ∀ c r, Apart (clusterIdx id) g 8 c r → targetRead u c r 1 = targetRead s c r 1 := by
  have counts := endTarget_ok reached
  refine ⟨_, writeCompletion_ok cmpl reached, memoriesWf_endWrite wf, bringUp_endWrite counts.plainly, ?_,
    fun c r apart => endWrite_apart wf plain counts apart⟩
  rw [← endingOf_drain h]
  exact endWrite_reads (e := endingOf s id) wf plain counts

/-- R99: a join counter, as a drain leaves it, from a state `u` after the completion word. -/
theorem join_written {u : State} {g : Target} (wf : MemoriesWf u) (join : recJoin (strandOf s id).record ≠ 0)
    (mapped : (strandOf s id).foyerJoin = false) (plain : Plain u g)
    (reached : endTarget u (agentOf s id) (sidOf id 0) true (addr48 (recJoin (strandOf s id).record)) = .ok g) :
    ∃ w, decrementJoin u (endingOf s id) = (w, false) ∧
      targetRead w (clusterIdx id) g 8 = (targetRead u (clusterIdx id) g 8 + (2 ^ 64 - 1)) % 2 ^ 64 ∧
      ∀ c r, Apart (clusterIdx id) g 8 c r → targetRead w c r 1 = targetRead u c r 1 := by
  have counts := endTarget_ok reached
  refine ⟨_, decrementJoin_ok join mapped reached, ?_, fun c r apart => endWrite_apart wf plain counts apart⟩
  rw [← word_pred]
  exact endWrite_reads (e := endingOf s id) wf plain counts

/-- R99, R334: a Foyer join, as a drain leaves it. -/
theorem foyerJoin_written (wf : MemoriesWf s) (join : recJoin (strandOf s id).record ≠ 0)
    (aligned : recJoin (strandOf s id).record % 8 = 0) (foyer : (strandOf s id).foyerJoin = true)
    (sound : lineBad s (recJoin (strandOf s id).record / 64) = false) :
    ∃ w, decrementJoin s (endingOf s id) = (w, false) ∧
      physRead w (recJoin (strandOf s id).record) 8 = (physRead s (recJoin (strandOf s id).record) 8 + (2 ^ 64 - 1)) % 2 ^ 64 ∧
      ∀ c r, Apart (clusterIdx id) (.phys (recJoin (strandOf s id).record) false) 8 c r →
        targetRead w c r 1 = targetRead s c r 1 := by
  have plain : Plain s (.phys (recJoin (strandOf s id).record) false) := fun _ k sl e => (Target.phys.inj e).2.symm
  have inLine : InLine (.phys (recJoin (strandOf s id).record) false) 8 := by
    show recJoin (strandOf s id).record % 64 + 8 ≤ 64
    omega
  refine ⟨_, decrementJoin_foyer join foyer sound, ?_, fun c r apart =>
    targetRead_targetWrite_ne s 0 0 _ 8 _ c r wf plain inLine ?_⟩
  · exact (targetRead_targetWrite s 0 0 _ 8 _ wf plain inLine).trans (by
      show (physRead s (recJoin (strandOf s id).record) 8 + 2 ^ 64 - 1) % 2 ^ 64 % 2 ^ 64 = _
      omega)
  · cases r <;> exact apart

end

/-- R99, R248, R370: what END does. -/
theorem endStrand_runs (s : State) :
    let t0 := strandOf s s.cur
    let drains := ∃ t : State, exec .endStrand s = .next t ∧ t.mem = s.mem ∧
      strandOf t s.cur = { t0 with slot := .drain, blocked := none, hostAnswer := none }
    (stNest t0 = false → haltedEngine s s.cur = none →
      (endPending s s.cur = true → Completes s .endStrand fun t => { t with blocked := some .endWait }) ∧
      (endPending s s.cur = false → openOps s s.cur ≠ [] →
        Completes s .endStrand fun t => { t with slot := .park, blocked := some .endWait }) ∧
      (endPending s s.cur = false → openOps s s.cur = [] → badOps s s.cur = true →
        TrapsHere s .endStrand cCOPY_FAULT 4) ∧
      (endPending s s.cur = false → openOps s s.cur = [] → badOps s s.cur = false →
        (endCheck s (endingOf s s.cur) = none → drains) ∧
        ∀ c a w, endCheck s (endingOf s s.cur) = some (c, a, w) → ∃ t : State, exec .endStrand s = .next t ∧ t.mem = s.mem ∧
          strandOf t s.cur = trapped c a (pcOf s) t0)) ∧
    (∀ e, stNest t0 = false → haltedEngine s s.cur = some e → TrapsHere s .endStrand cCOPY_FAULT (BitVec.ofNat 64 e)) ∧
    (stNest t0 = true → stSuper t0 = true → issuedCmds s (clusterIdx s.cur) t0.issuer = [] →
      endPending s s.cur = false → openOps s s.cur = [] → drains) := by
  refine ⟨fun running whole => ⟨fun p => completes_blockOn _ _ _ (end_pending running whole p),
    fun p o => completes_parkOn _ _ _ (end_open running whole p o),
    fun p o b => trapsHere_of _ _ _ _ (end_badStatus running whole p o b), fun p o b => ?_⟩,
    fun e running halted => trapsHere_of _ _ _ _ (end_halted running halted), fun handler super none p o => ?_⟩
  · refine ⟨fun sound => ⟨_, end_sound running whole p o b sound, rfl, strandOf_modStrand ..⟩,
      fun c a w bad => ⟨_, end_refused running whole p o b bad, ?_⟩⟩
    obtain ⟨f, rfl⟩ := endCheck_fault bad
    rw [noteFault_eq]
    refine ⟨trapHere_mem .., ?_⟩
    rw [trapHere, strandOf_takeTrap]
    rfl
  · obtain ⟨x, run⟩ := end_handler handler super none p o
    exact ⟨_, run, rfl, strandOf_modStrand ..⟩

/-- Settles O17: the completion word bit by bit; END by its checks; and the drain of a strand with nothing outstanding, whose words
are written as in a state with the same clusters. -/
theorem endOfAStrand : Obligations.EndOfAStrand := by
  refine ⟨fun old fl c hc => ⟨completionWord_none old fl, fun set => ?_, completionWord_firstFault old fl c hc⟩, endStrand_runs,
    fun s id draining none p o wf => ?_⟩
  · rw [completionWord_faulted old fl c set, completionWord_none]
  obtain ⟨x, run, same⟩ := exec_endDrain draining none p o
  have reads := targetRead_afterDrain (id := id) same
  refine ⟨_, run, strandOf_afterDrain s id x, strandOf_afterDrain_ne s id x, fun b _ => afterDrain_bays s id x b,
    afterDrain_owner s id x, afterDrain_tags s id x, fun cmpl join c r => ?_, fun g cmpl join plain reached => ?_,
    fun g cmpl join mapped plain reached => ?_, fun g h u hu cmpl join mapped plain plain' reached reached' => ?_,
    fun k cmpl hk join aligned foyer sound => ?_⟩
  · rw [reads, writeEnding_nothing cmpl join]
  · obtain ⟨u, written, -, -, word, rest⟩ := completion_written draining wf cmpl plain reached
    have ends := writeEnding_of written (decrementJoin_zero (s := u) (e := endingOf s id) join)
    exact ⟨by rw [reads, ends, word], fun c r apart => by rw [reads, ends, rest c r apart]⟩
  · obtain ⟨w, written, word, rest⟩ := join_written wf join mapped plain reached
    have ends := writeEnding_of (writeCompletion_zero (e := endingOf s id) cmpl) written
    exact ⟨by rw [reads, ends, word], fun c r apart => by rw [reads, ends, rest c r apart]⟩
  · obtain ⟨u', first, wf', up, word, rest⟩ := completion_written draining wf cmpl plain reached
    obtain rfl : u = u' := hu.trans (congrArg Prod.fst first)
    obtain ⟨w, second, word', rest'⟩ := join_written wf' join mapped (fun boot => plain' (up ▸ boot)) reached'
    have ends := writeEnding_of first second
    exact ⟨word, rest, by rw [reads, ends, word'], fun c r apart => by rw [reads, ends, rest' c r apart]⟩
  · subst hk
    obtain ⟨w, written, word, rest⟩ := foyerJoin_written wf join aligned foyer sound
    have ends := writeEnding_of (writeCompletion_zero (e := endingOf s id) cmpl) written
    exact ⟨(reads 0 (.phys (recJoin (strandOf s id).record) false) 8).trans (by rw [ends]; exact word),
      fun c r apart => by rw [reads, ends, rest c r apart]⟩

end Sys2Proof.Machine


namespace Sys2Proof.Machine

/-! ## What atomics leave outside memory -/

theorem onlyAccess_refl (s : State) : OnlyAccess s s := ⟨rfl, rfl, rfl, rfl, rfl, fun _ _ => rfl⟩

theorem ReadOnly.toOnlyAccess {s u : State} (h : ReadOnly s.cur s u) : OnlyAccess s u := by
  have rest := h.rest
  exact ⟨by rw [rest], by rw [rest], by rw [rest], by rw [rest], by rw [rest], h.others⟩

theorem OnlyAccess.modStrand {s w : State} (h : OnlyAccess s w) (f : Strand → Strand) :
    OnlyAccess s (Machine.modStrand w s.cur f) :=
  ⟨h.agenda, h.cur, h.cores, h.dies, h.free, fun j hj => (strandOf_modStrand_ne _ _ _ _ hj).trans (h.others j hj)⟩

theorem OnlyAccess.finishReg {s w : State} (h : OnlyAccess s w) (a : BitVec 5) (v : Word) :
    OnlyAccess s (Machine.finishReg w s.cur a v) := by
  unfold Machine.finishReg finish setReg
  exact (h.modStrand _).modStrand _

theorem OnlyAccess.targetWrite {s w : State} (h : OnlyAccess s w) (cl tag : Nat) (q : Target) (n v : Nat) :
    OnlyAccess s (Machine.targetWrite w cl tag q n v) := by
  obtain ⟨strands, cores⟩ := targetWrite_sides w cl tag q n v
  obtain ⟨dies, -⟩ := targetWrite_dies_net w cl tag q n v
  obtain ⟨agenda, cur, free⟩ := targetWrite_frame w cl tag q n v
  exact ⟨agenda.trans h.agenda, cur.trans h.cur, cores.trans h.cores, dies.trans h.dies, free.trans h.free,
    fun j hj => (strandOf_congr strands j).trans (h.others j hj)⟩

theorem OnlyAccess.noteRemote {s w : State} (h : OnlyAccess s w) (id stream cls : Nat) (q : Target) (v : Nat) :
    OnlyAccess s (Machine.noteRemote w id stream cls q v) := by
  rw [noteRemote_eq]
  exact ⟨h.agenda, h.cur, h.cores, h.dies, h.free, h.others⟩

theorem OnlyAccess.consumeLink {s w : State} (h : OnlyAccess s w) (id : Nat) (lane : Option Nat) :
    OnlyAccess s (Machine.consumeLink w id lane) := ⟨h.agenda, h.cur, h.cores, h.dies, h.free, h.others⟩

/-- Only links and watches have changed. -/
def TagsOnly (s t : State) : Prop := t = { s with mem := { s.mem with tags := t.mem.tags } }

theorem TagsOnly.trans {s t u : State} (h : TagsOnly s t) (g : TagsOnly t u) : TagsOnly s u := by
  unfold TagsOnly at *
  rw [g, h]

theorem tagsOnly_evictTag (s : State) (slice : Nat) : TagsOnly s (evictTag s slice) := by
  unfold evictTag
  dsimp only
  split
  · rfl
  · split <;> rfl

theorem tagsOnly_placeTag (s : State) (t : TagEntry) : TagsOnly s (placeTag s t) := by
  have lone : TagsOnly s (if t.watch then s else { s with mem := { s.mem with
      tags := s.mem.tags.filter fun u => u.watch || u.strand != t.strand || u.lane != t.lane } }) := by
    split <;> rfl
  unfold placeTag
  dsimp only
  generalize (if t.watch then s else _) = w at *
  split
  · exact lone.trans rfl
  · exact (lone.trans (tagsOnly_evictTag _ _)).trans rfl

theorem OnlyAccess.placeTag {s w : State} (h : OnlyAccess s w) (t : TagEntry) : OnlyAccess s (Machine.placeTag w t) := by
  rw [tagsOnly_placeTag w t]
  exact ⟨h.agenda, h.cur, h.cores, h.dies, h.free, h.others⟩

/-! ## Memory read in states of the same memory -/

/-- Tags, strands and the fabric have no part in what a target holds. -/
theorem targetRead_congr {s t : State} (mem : t.mem = { s.mem with tags := t.mem.tags }) (clusters : t.clusters = s.clusters)
    (pkg : t.pkg = s.pkg) (c : Nat) (r : Target) (n : Nat) : targetRead t c r n = targetRead s c r n := by
  obtain ⟨agenda, cur, strands, cores, k, dies, m, p, net, free⟩ := t
  obtain rfl : k = s.clusters := clusters
  obtain rfl : p = s.pkg := pkg
  dsimp only at mem
  rw [mem]
  cases r <;> rfl

section
variable {s u : State} {g : Target}

theorem ReadLeaves.clusters {id : Nat} (h : ReadLeaves s id g u) : u.clusters = s.clusters := by rw [h.rest]

theorem ReadLeaves.reads {id : Nat} (h : ReadLeaves s id g u) (c : Nat) (r : Target) (n : Nat) :
    targetRead u c r n = targetRead (targetFill s g) c r n := by
  refine targetRead_congr (by rw [h.memory]) ?_ h.pkg c r n
  rw [h.clusters, (readOnly_targetFill s id g).rest]

/-- R302: a fill changes no byte apart from the bytes of its target. -/
theorem targetRead_targetFill {cl n c : Nat} {r : Target} (ha : Apart cl g n c r) :
    targetRead (targetFill s g) c r 1 = targetRead s c r 1 := by
  cases g with
  | atrium o => rfl
  | phys k sl => rfl
  | host a => rfl
  | coded i o sl =>
    refine targetRead_fillCoded s i o sl c r 1 fun i' o' sl' e same => ?_
    subst e
    obtain ⟨rfl, line, rfl, -⟩ := Or.resolve_left ha (not_not_intro same)
    exact ⟨rfl, line, rfl⟩

theorem ReadLeaves.wf {id : Nat} (h : ReadLeaves s id g u) (wf : MemoriesWf s) : MemoriesWf u := by
  refine (wf.targetFill (t := g)).congr (by rw [h.memory]) (by rw [h.memory]) ?_ ?_
  · rw [h.rest, (readOnly_targetFill s id g).rest]
  · rw [h.rest, (readOnly_targetFill s id g).rest]

theorem ReadLeaves.plain {id : Nat} (h : ReadLeaves s id g u) (plain : Plain s g) : Plain u g := by
  intro boot k sl e
  subst e
  exact plain (by rw [← boot, h.pkg]; rfl) k sl rfl

/-- R217: what a target holds after it has been read and written in one step. -/
theorem ReadLeaves.stored {id tag n v : Nat} (h : ReadLeaves s id g u) (wf : MemoriesWf s) (plain : Plain s g) (inLine : InLine g n)
    (small : v < 2 ^ (8 * n)) : Stored s (targetWrite u (clusterIdx s.cur) tag g n v) g n v := by
  refine ⟨?_, fun c r ha => ?_⟩
  · rw [targetRead_targetWrite _ _ _ _ _ _ (h.wf wf) (h.plain plain) inLine, Nat.mod_eq_of_lt small]
  · rw [targetRead_targetWrite_ne _ _ _ _ _ _ _ _ (h.wf wf) (h.plain plain) inLine ha, h.reads, targetRead_targetFill ha]

/-- What a target holds after it has been written. -/
theorem stored_targetWrite {tag n v : Nat} (wf : MemoriesWf s) (plain : Plain s g) (inLine : InLine g n) (small : v < 2 ^ (8 * n)) :
    Stored s (targetWrite s (clusterIdx s.cur) tag g n v) g n v :=
  ⟨by rw [targetRead_targetWrite _ _ _ _ _ _ wf plain inLine, Nat.mod_eq_of_lt small],
    fun c r => targetRead_targetWrite_ne s (clusterIdx s.cur) tag g n v c r wf plain inLine⟩

/-- Tags, strands and the fabric have no part in what has been stored. -/
theorem Stored.congr {t w : State} {n v : Nat} (h : Stored s t g n v) (mem : w.mem = { t.mem with tags := w.mem.tags })
    (clusters : w.clusters = t.clusters) (pkg : w.pkg = t.pkg) : Stored s w g n v :=
  ⟨(targetRead_congr mem clusters pkg ..).trans h.holds, fun c r ha => (targetRead_congr mem clusters pkg ..).trans (h.frame c r ha)⟩

end

theorem targetRead_lt (s : State) (c : Nat) (r : Target) (n : Nat) : targetRead s c r n < 2 ^ (8 * n) := by
  cases r with
  | atrium o => exact cellsRead_lt _ _ _
  | phys k sl => exact lineBits_lt _ _ _
  | coded i o sl => exact lineBits_lt _ _ _
  | host a => exact cellsRead_lt _ _ _

/-! ## The checks of an atomic (R217, R225, R226) -/

theorem amoSize_scalar (z : BitVec 1) : ScalarSize (amoSize z) := by
  unfold amoSize
  split
  · exact .inr (.inr (.inr rfl))
  · exact .inr (.inr (.inl rfl))

theorem releaseThen_free {s : State} {id stream : Nat} {release : Bool} {k : State} (h : release = true → unperformed s id = false) :
    releaseThen s id stream release k = k := by
  unfold releaseThen
  cases release with
  | false => rfl
  | true => rw [h rfl]; rfl

/-- The release bit of ORD. -/
theorem ord_release (q : BitVec 2) : (bitsOf q.toNat 0 1 == 1) = q.getLsbD 0 := by
  rw [Bool.eq_iff_iff, beq_iff_eq]
  exact (bitsOf_one_eq_iff q.toNat 0 1).trans (by rw [BitVec.getLsbD]; simp)

theorem atomicUnsupported_booted {s : State} (h : s.pkg.bringUp = false) (amo : Bool) (g : Target) :
    atomicUnsupported s amo g = false := by simp [atomicUnsupported, h]

theorem atomicUnsupported_bringUp {s : State} (h : s.pkg.bringUp = true) (g : Target) : atomicUnsupported s false g = true := by
  simp [atomicUnsupported, h]

section
variable {s : State} {ag : Agent} {write : Bool} {p : Word} {n : Nat} {g : Target}

theorem atomicTarget_misaligned (h : p.toNat % n ≠ 0) : atomicTarget s ag write p n = .error (xfault cMISALIGN) := if_pos h

theorem atomicTarget_atrium (aligned : p.toNat % n = 0) (h : inAtrium p = true) :
    atomicTarget s ag write p n = .error (xfault cACCESS) := by
  rw [atomicTarget, if_neg (not_not_intro aligned), if_pos h]

theorem atomicTarget_outside (aligned : p.toNat % n = 0) (h : inAtrium p = false) :
    atomicTarget s ag write p n = translate s ag write p := by
  rw [atomicTarget, if_neg (not_not_intro aligned), h, if_neg Bool.false_ne_true]

end

/-! ## Scalar AMOs (R217, R222, R224) -/

section
variable {s : State} {i : Instr} {a b c : BitVec 5} {q : BitVec 2} {z : BitVec 1} {g : Target} {n op x cmp : Nat} {p : Word}

/-- R217: the read-modify-write of a word that may be updated. -/
theorem rmw_ok {new : Nat} (h : Reaches s true p n g) (good : targetBad s (clusterIdx s.cur) g n = false)
    (answered : HostAnswered s g) (supported : atomicUnsupported s (hostAmo op) g = false)
    (value : amoNew op n (targetRead s (clusterIdx s.cur) g n) x cmp = some new) (finite : nonfiniteWrite s g n new = false) :
    ∃ u, rmw s s.cur 0 op g n x cmp = .ok (targetRead s (clusterIdx s.cur) g n)
      (targetWrite u (clusterIdx s.cur) (strandOf s s.cur).tag g n new) ∧ ReadLeaves s s.cur g u := by
  obtain ⟨u, read, left⟩ := loadTarget_ok (cls := 2) good h.home answered
  refine ⟨u, ?_, left⟩
  simp [rmw, value, finite, supported, good, h.home, atomicFault, h.free, read]

/-- R217: a CAS that finds another value only reads. -/
theorem rmw_kept (h : Reaches s true p n g) (good : targetBad s (clusterIdx s.cur) g n = false) (answered : HostAnswered s g)
    (supported : atomicUnsupported s (hostAmo op) g = false)
    (value : amoNew op n (targetRead s (clusterIdx s.cur) g n) x cmp = none) :
    ∃ u, rmw s s.cur 0 op g n x cmp = .ok (targetRead s (clusterIdx s.cur) g n) u ∧ ReadLeaves s s.cur g u := by
  obtain ⟨u, read, left⟩ := loadTarget_ok (cls := 2) good h.home answered
  refine ⟨u, ?_, left⟩
  simp [rmw, value, supported, good, h.home, atomicFault, h.free, read]

theorem rmw_fault {cause : Nat} (finite : ∀ v, nonfiniteWrite s g n v = false) (fault : atomicFault 0
    (atomicUnsupported s (hostAmo op) g) (targetBad s (clusterIdx s.cur) g n || unreachableTarget s (sidOf s.cur 0) g) = some cause) :
    rmw s s.cur 0 op g n x cmp = .fault cause s := by
  have none : ((amoNew op n (targetRead s (clusterIdx s.cur) g n) x cmp).map (nonfiniteWrite s g n)).getD false = false := by
    cases amoNew op n (targetRead s (clusterIdx s.cur) g n) x cmp with
    | none => rfl
    | some v => exact finite v
  simp [rmw, none, fault]

/-- R217: an AMO whose word is translated. -/
theorem amoOp_mapped (hn : n = amoSize z) (hp : p = reg s s.cur b) (aligned : p.toNat % n = 0) (outside : inAtrium p = false)
    (mapped : translate s (agentOf s s.cur) true p = .ok g) (release : q.getLsbD 0 = true → unperformed s s.cur = false) :
    amoOp a b c q z op s = .next (scalarThen s.cur p (rmw s s.cur 0 op g n ((reg s s.cur c).toNat % 2 ^ (8 * n))
      ((reg s s.cur a).toNat % 2 ^ (8 * n))) fun old u => finishReg u s.cur a (amoWord n old)) := by
  unfold amoOp
  dsimp only
  rw [← hn, ← hp, atomicTarget_outside aligned outside, mapped]
  dsimp only
  rw [releaseThen_free fun h => release (by rw [← ord_release]; exact h)]
  rfl

/-- R217: a scalar AMO of operation `op` on a word that it may update. -/
theorem amo_writes {new : Nat} (run : exec i s = amoOp a b c q z op s) (wf : MemoriesWf s) (hn : n = amoSize z)
    (hp : p = reg s s.cur b) (outside : inAtrium p = false) (h : Reaches s true p n g)
    (good : targetBad s (clusterIdx s.cur) g n = false) (answered : HostAnswered s g)
    (release : q.getLsbD 0 = true → unperformed s s.cur = false)
    (value : amoNew op n (targetRead s (clusterIdx s.cur) g n) ((reg s s.cur c).toNat % 2 ^ (8 * n))
      ((reg s s.cur a).toNat % 2 ^ (8 * n)) = some new) (small : new < 2 ^ (8 * n)) (finite : nonfiniteWrite s g n new = false)
    (booted : s.pkg.bringUp = true → hostAmo op = true ∧ ∃ h, g = .host h) :
    ∃ t : State, exec i s = .next t ∧ OnlyAccess s t ∧ Stored s t g n new ∧ strandOf t s.cur = past (putReg (strandOf s s.cur) a
        (BitVec.ofInt 64 (signed (8 * n) (targetRead s (clusterIdx s.cur) g n)))) ∧
      ∀ e ∈ t.mem.tags, e ∈ s.mem.tags ∧ (∀ k sl, g = .phys k sl → e.line ≠ .phys (k / 64)) ∧
        ∀ r o sl, g = .coded r o sl → e.line ≠ .coded r (o / 64) := by
  have supported : atomicUnsupported s (hostAmo op) g = false := by
    unfold atomicUnsupported
    cases boot : s.pkg.bringUp with
    | false => rfl
    | true =>
      obtain ⟨host, y, rfl⟩ := booted boot
      rw [host]
      rfl
  have plain : Plain s g := fun boot k sl e => by
    obtain ⟨-, y, host⟩ := booted boot
    rw [host] at e
    cases e
  have inLine := translate_inLine (hn ▸ amoSize_scalar z) h.aligned h.mapped
  obtain ⟨u, wrote, left⟩ := rmw_ok h good answered supported value finite
  obtain ⟨answer, strand⟩ := left.strand
  have stored := left.stored (tag := (strandOf s s.cur).tag) wf plain inLine small
  have only := left.toReadOnly.toOnlyAccess.targetWrite (clusterIdx s.cur) (strandOf s s.cur).tag g n new
  have same := strandOf_congr (targetWrite_sides u (clusterIdx s.cur) (strandOf s s.cur).tag g n new).1 s.cur
  have tags := fun e he => targetWrite_tags (s := u) (q := g) (n := n) (cl := clusterIdx s.cur) (tag := (strandOf s s.cur).tag)
    (v := new) (e := e) he
  rw [run, amoOp_mapped hn hp h.aligned outside h.mapped release, wrote, scalarThen]
  generalize targetWrite u (clusterIdx s.cur) (strandOf s s.cur).tag g n new = w at *
  refine ⟨_, rfl, only.finishReg _ _, stored.congr rfl rfl rfl, ?_, fun e he => ?_⟩
  · rw [strandOf_finishReg, same, strand, putReg_hostAnswer_comm]
    rfl
  · obtain ⟨listed, rest⟩ := tags e he
    rw [left.mem] at listed
    exact ⟨listed, rest⟩

/-- R217: a CAS that finds another value. -/
theorem amo_keeps (run : exec i s = amoOp a b c q z op s) (hn : n = amoSize z)
    (hp : p = reg s s.cur b) (outside : inAtrium p = false) (h : Reaches s true p n g)
    (good : targetBad s (clusterIdx s.cur) g n = false) (answered : HostAnswered s g)
    (release : q.getLsbD 0 = true → unperformed s s.cur = false)
    (value : amoNew op n (targetRead s (clusterIdx s.cur) g n) ((reg s s.cur c).toNat % 2 ^ (8 * n))
      ((reg s s.cur a).toNat % 2 ^ (8 * n)) = none) (supported : atomicUnsupported s (hostAmo op) g = false) :
    ∃ t : State, exec i s = .next t ∧ OnlyAccess s t ∧ t.mem = (targetFill s g).mem ∧ t.clusters = s.clusters ∧
      strandOf t s.cur = past (putReg (strandOf s s.cur) a
        (BitVec.ofInt 64 (signed (8 * n) (targetRead s (clusterIdx s.cur) g n)))) := by
  obtain ⟨u, kept, left⟩ := rmw_kept h good answered supported value
  obtain ⟨only, clusters, strand⟩ := left.toReadOnly.onlyAccess a (amoWord n (targetRead s (clusterIdx s.cur) g n))
  rw [run, amoOp_mapped hn hp h.aligned outside h.mapped release, kept, scalarThen]
  exact ⟨_, rfl, only, left.memory, clusters, strand⟩

end

/-! ## The traps of atomics (R86, R217, R225, R226) -/

/-- R217: an instruction traps when the check of its word at `p` fails. -/
def ChecksWord (s : State) (i : Instr) (write : Bool) (p : Word) (n : Nat) : Prop :=
  ∀ f, atomicTarget s (agentOf s s.cur) write p n = .error f → exec i s = .next (trapHere (noteFault s f) s.cur f.cause p)

section
variable {s : State} {i : Instr} {a b c : BitVec 5} {q : BitVec 2} {y r z : BitVec 1} {g : Target} {n op : Nat} {p : Word}
  {write : Bool}

theorem ChecksWord.misaligned (h : ChecksWord s i write p n) (bad : p.toNat % n ≠ 0) : TrapsHere s i cMISALIGN p :=
  trapsHere_of _ _ _ _ (h _ (atomicTarget_misaligned bad))

theorem ChecksWord.atrium (h : ChecksWord s i write p n) (aligned : p.toNat % n = 0) (inside : inAtrium p = true) :
    TrapsHere s i cACCESS p :=
  trapsHere_of _ _ _ _ (h _ (atomicTarget_atrium aligned inside))

theorem ChecksWord.refused {f : XFault} (h : ChecksWord s i write p n) (aligned : p.toNat % n = 0) (outside : inAtrium p = false)
    (bad : translate s (agentOf s s.cur) write p = .error f) : ∃ t : State, exec i s = .next t ∧
      strandOf t s.cur = trapped f.cause p (pcOf s) (strandOf s s.cur) ∧ t.mem = s.mem ∧ t.clusters = s.clusters := by
  have cause := translate_cause bad
  refine refused_traps ?_ cause
  rw [cause.faultAddr]
  exact h f ((atomicTarget_outside aligned outside).trans bad)

theorem checksWord_amo (run : exec i s = amoOp a b c q z op s) (hn : n = amoSize z) (hp : p = reg s s.cur b) :
    ChecksWord s i true p n := by
  intro f bad
  rw [hn, hp] at bad
  rw [run, amoOp, bad, hp]

theorem checksWord_ldl (hn : n = amoSize z) (hp : p = reg s s.cur b) : ChecksWord s (.ldl a b y z) false p n := by
  intro f bad
  rw [hn, hp] at bad
  show execLdl a b y z s = _
  rw [execLdl, bad, hp]

theorem checksWord_stc (hn : n = amoSize z) (hp : p = reg s s.cur b) : ChecksWord s (.stc a b c r z) true p n := by
  intro f bad
  rw [hn, hp] at bad
  show execStc a b c r z s = _
  rw [execStc, bad, hp]

/-- A target that is not coded takes any value. -/
theorem nonfiniteWrite_uncoded (h : ∀ k o sl, g ≠ .coded k o sl) (v : Nat) : nonfiniteWrite s g n v = false := by
  cases g with
  | coded k o sl => exact absurd rfl (h k o sl)
  | atrium o => rfl
  | phys k sl => rfl
  | host a => rfl

/-- A fault of a scalar access that is not about a coded element traps with the address. -/
theorem trapsHere_fault {α : Type} {cause : Nat} {k : α → State → State} (run : exec i s = .next (scalarThen s.cur p (.fault cause s) k))
    (other : cause ≠ cCODED_NONFINITE) : TrapsHere s i cause p := by
  rw [scalarThen, faultAddr, if_neg other] at run
  exact trapsHere_of _ _ _ _ run

theorem amo_faults {cause : Nat} (run : exec i s = amoOp a b c q z op s) (hn : n = amoSize z) (hp : p = reg s s.cur b)
    (aligned : p.toNat % n = 0) (outside : inAtrium p = false) (release : q.getLsbD 0 = true → unperformed s s.cur = false)
    (uncoded : ∀ k o sl, g ≠ .coded k o sl) (mapped : translate s (agentOf s s.cur) true p = .ok g)
    (fault : atomicFault 0 (atomicUnsupported s (hostAmo op) g)
      (targetBad s (clusterIdx s.cur) g n || unreachableTarget s (sidOf s.cur 0) g) = some cause)
    (other : cause ≠ cCODED_NONFINITE) : TrapsHere s i cause p := by
  rw [amoOp_mapped hn hp aligned outside mapped release, rmw_fault (nonfiniteWrite_uncoded uncoded) fault] at run
  exact trapsHere_fault run other

/-- R213: an LDL whose word is translated. -/
theorem ldl_mapped (hn : n = amoSize z) (hp : p = reg s s.cur b) (aligned : p.toNat % n = 0) (outside : inAtrium p = false)
    (mapped : translate s (agentOf s s.cur) false p = .ok g) : exec (.ldl a b y z) s =
      .next (scalarThen s.cur p (linkedRead s s.cur 0 none false g n) fun v u => finishReg u s.cur a (amoWord n v)) := by
  show execLdl a b y z s = _
  unfold execLdl
  dsimp only
  rw [← hn, ← hp, atomicTarget_outside aligned outside, mapped]

theorem ldl_faults {cause : Nat} (hn : n = amoSize z) (hp : p = reg s s.cur b) (aligned : p.toNat % n = 0)
    (outside : inAtrium p = false) (mapped : translate s (agentOf s s.cur) false p = .ok g)
    (fault : atomicFault 0 (atomicUnsupported s false g)
      (targetBad s (clusterIdx s.cur) g n || unreachableTarget s (sidOf s.cur 0) g) = some cause)
    (other : cause ≠ cCODED_NONFINITE) : TrapsHere s (.ldl a b y z) cause p := by
  have run := ldl_mapped (a := a) (y := y) hn hp aligned outside mapped
  rw [linkedRead, fault] at run
  exact trapsHere_fault run other

/-- R213: an STC whose word is translated. -/
theorem stc_mapped (hn : n = amoSize z) (hp : p = reg s s.cur b) (aligned : p.toNat % n = 0) (outside : inAtrium p = false)
    (mapped : translate s (agentOf s s.cur) true p = .ok g) (release : r = 1 → unperformed s s.cur = false) :
    exec (.stc a b c r z) s = .next (scalarThen s.cur p (linkedWrite s s.cur 0 none g n ((reg s s.cur c).toNat % 2 ^ (8 * n)))
      fun x u => finishReg u s.cur a (wordOfBool x)) := by
  show execStc a b c r z s = _
  unfold execStc
  dsimp only
  rw [← hn, ← hp, atomicTarget_outside aligned outside, mapped]
  dsimp only
  rw [releaseThen_free fun h => release (by simpa using h)]
  rfl

theorem stc_unsupported (hn : n = amoSize z) (hp : p = reg s s.cur b) (aligned : p.toNat % n = 0) (outside : inAtrium p = false)
    (mapped : translate s (agentOf s s.cur) true p = .ok g) (release : r = 1 → unperformed s s.cur = false)
    (uncoded : ∀ k o sl, g ≠ .coded k o sl) (unsupported : atomicUnsupported s false g = true) :
    TrapsHere s (.stc a b c r z) cATOMIC_UNSUPPORTED p := by
  have run := stc_mapped (a := a) (c := c) hn hp aligned outside mapped release
  rw [linkedWrite, nonfiniteWrite_uncoded uncoded, if_neg Bool.false_ne_true, if_pos unsupported] at run
  exact trapsHere_fault run (by decide)

end

/-! ### The instructions -/

/-- R226: the AMOs that bring-up mode has on HOST pages. -/
def helpedAmos (a b c : BitVec 5) (q : BitVec 2) (z : BitVec 1) : List Instr := [.amoAdd a b c q z, .amoSwap a b c q z, .amoCas a b c q z]

/-- The other AMOs. -/
def otherAmos (a b c : BitVec 5) (q : BitVec 2) (z : BitVec 1) : List Instr :=
  [.amoMin a b c q z, .amoMax a b c q z, .amoMinu a b c q z, .amoMaxu a b c q z, .amoAnd a b c q z, .amoOr a b c q z,
    .amoXor a b c q z]

section
variable {s : State} {a b c : BitVec 5} {q : BitVec 2} {z : BitVec 1} {i : Instr}

theorem exec_helpedAmos (h : i ∈ helpedAmos a b c q z) : ∃ op, hostAmo op = true ∧ exec i s = amoOp a b c q z op s := by
  simp only [helpedAmos, List.mem_cons, List.not_mem_nil, or_false] at h
  rcases h with rfl | rfl | rfl
  · exact ⟨0, rfl, rfl⟩
  · exact ⟨8, rfl, rfl⟩
  · exact ⟨9, rfl, rfl⟩

theorem exec_otherAmos (h : i ∈ otherAmos a b c q z) : ∃ op, hostAmo op = false ∧ exec i s = amoOp a b c q z op s := by
  simp only [otherAmos, List.mem_cons, List.not_mem_nil, or_false] at h
  rcases h with rfl | rfl | rfl | rfl | rfl | rfl | rfl
  · exact ⟨1, rfl, rfl⟩
  · exact ⟨2, rfl, rfl⟩
  · exact ⟨3, rfl, rfl⟩
  · exact ⟨4, rfl, rfl⟩
  · exact ⟨5, rfl, rfl⟩
  · exact ⟨6, rfl, rfl⟩
  · exact ⟨7, rfl, rfl⟩

theorem exec_amos (h : i ∈ helpedAmos a b c q z ++ otherAmos a b c q z) : ∃ op, exec i s = amoOp a b c q z op s := by
  rcases List.mem_append.1 h with h | h
  · obtain ⟨op, -, run⟩ := exec_helpedAmos (s := s) h
    exact ⟨op, run⟩
  · obtain ⟨op, -, run⟩ := exec_otherAmos (s := s) h
    exact ⟨op, run⟩

end

/-- R86, R217, R225, R226: the traps of the scalar atomics. -/
theorem atomics_trap (s : State) (a b c : BitVec 5) (q : BitVec 2) (y r z : BitVec 1) (n : Nat) (p : Word) (hn : n = amoSize z)
    (hp : p = reg s s.cur b) :
    let links := [(Instr.ldl a b y z, false), (.stc a b c r z, true)]
    let all := (helpedAmos a b c q z ++ otherAmos a b c q z).map (fun i => (i, true)) ++ links
    (∀ i ∈ all, ChecksWord s i.1 i.2 p n) ∧
    (∀ g, p.toNat % n = 0 → inAtrium p = false → (q.getLsbD 0 = true → unperformed s s.cur = false) →
      (r = 1 → unperformed s s.cur = false) → s.pkg.bringUp = true → (∀ k o sl, g ≠ .coded k o sl) →
      (∀ i ∈ (otherAmos a b c q z).map (fun i => (i, true)) ++ links, translate s (agentOf s s.cur) i.2 p = .ok g →
        TrapsHere s i.1 cATOMIC_UNSUPPORTED p) ∧
      (∀ i ∈ helpedAmos a b c q z, (∀ h, g ≠ .host h) → translate s (agentOf s s.cur) true p = .ok g →
        TrapsHere s i cATOMIC_UNSUPPORTED p)) ∧
    (∀ g, p.toNat % n = 0 → inAtrium p = false → (q.getLsbD 0 = true → unperformed s s.cur = false) → s.pkg.bringUp = false →
      (∀ k o sl, g ≠ .coded k o sl) → targetBad s (clusterIdx s.cur) g n = true →
      (∀ i ∈ helpedAmos a b c q z ++ otherAmos a b c q z, translate s (agentOf s s.cur) true p = .ok g → TrapsHere s i cMEM_UE p) ∧
      (translate s (agentOf s s.cur) false p = .ok g → TrapsHere s (.ldl a b y z) cMEM_UE p)) := by
  refine ⟨fun i hi => ?_, fun g aligned outside release release' boot uncoded => ⟨fun i hi mapped => ?_, fun i hi near mapped => ?_⟩,
    fun g aligned outside release booted uncoded bad => ⟨fun i hi mapped => ?_, fun mapped => ?_⟩⟩
  · simp only [List.mem_append, List.mem_map, List.mem_cons, List.not_mem_nil, or_false] at hi
    obtain ⟨j, hj, rfl⟩ | rfl | rfl := hi
    · obtain ⟨op, run⟩ := exec_amos (s := s) (List.mem_append.2 hj)
      exact checksWord_amo run hn hp
    · exact checksWord_ldl hn hp
    · exact checksWord_stc hn hp
  · have none := atomicUnsupported_bringUp boot g
    simp only [List.mem_append, List.mem_map, List.mem_cons, List.not_mem_nil, or_false] at hi
    obtain ⟨j, hj, rfl⟩ | rfl | rfl := hi
    · obtain ⟨op, host, run⟩ := exec_otherAmos (s := s) hj
      exact amo_faults run hn hp aligned outside release uncoded mapped (by rw [host, none]; rfl) (by decide)
    · exact ldl_faults hn hp aligned outside mapped (by rw [none]; rfl) (by decide)
    · exact stc_unsupported hn hp aligned outside mapped release' uncoded none
  · obtain ⟨op, host, run⟩ := exec_helpedAmos (s := s) hi
    have none : atomicUnsupported s true g = true := by
      unfold atomicUnsupported
      rw [boot]
      cases g with
      | host h => exact absurd rfl (near h)
      | atrium o => rfl
      | phys k sl => rfl
      | coded k o sl => rfl
    exact amo_faults run hn hp aligned outside release uncoded mapped (by rw [host, none]; rfl) (by decide)
  · obtain ⟨op, run⟩ := exec_amos (s := s) hi
    exact amo_faults run hn hp aligned outside release uncoded mapped (by rw [atomicUnsupported_booted booted, bad]; rfl) (by decide)
  · exact ldl_faults hn hp aligned outside mapped (by rw [atomicUnsupported_booted booted, bad]; rfl) (by decide)

/-- R217, R222, R224: every AMO on a word that it may update. -/
theorem amos_write (s : State) (a b c : BitVec 5) (q : BitVec 2) (z : BitVec 1) (g : Target) (n : Nat) (p : Word) (old x cmp : Nat)
    (wf : MemoriesWf s) (hn : n = amoSize z) (hp : p = reg s s.cur b) (outside : inAtrium p = false) (h : Reaches s true p n g)
    (good : targetBad s (clusterIdx s.cur) g n = false) (answered : HostAnswered s g)
    (release : q.getLsbD 0 = true → unperformed s s.cur = false) (hold : old = targetRead s (clusterIdx s.cur) g n)
    (hx : x = (reg s s.cur c).toNat % 2 ^ (8 * n)) (hcmp : cmp = (reg s s.cur a).toNat % 2 ^ (8 * n)) :
    let amo := fun (i : Instr) (host : Prop) (new : Nat) =>
      nonfiniteWrite s g n new = false → (s.pkg.bringUp = true → host ∧ ∃ h, g = .host h) →
        ∃ t : State, exec i s = .next t ∧ OnlyAccess s t ∧ Stored s t g n new ∧
          strandOf t s.cur = past (putReg (strandOf s s.cur) a (BitVec.ofInt 64 (signed (8 * n) old))) ∧
          ∀ e ∈ t.mem.tags, e ∈ s.mem.tags ∧ (∀ k sl, g = .phys k sl → e.line ≠ .phys (k / 64)) ∧
            ∀ r o sl, g = .coded r o sl → e.line ≠ .coded r (o / 64)
    let less := fun (u v : Nat) => signed (8 * n) u < signed (8 * n) v
    amo (.amoAdd a b c q z) True ((old + x) % 2 ^ (8 * n)) ∧
    (less x old → amo (.amoMin a b c q z) False x ∧ amo (.amoMax a b c q z) False old) ∧
    (less old x → amo (.amoMin a b c q z) False old ∧ amo (.amoMax a b c q z) False x) ∧
    (x = old → amo (.amoMin a b c q z) False old ∧ amo (.amoMax a b c q z) False old) ∧
    amo (.amoMinu a b c q z) False (min old x) ∧ amo (.amoMaxu a b c q z) False (max old x) ∧
    amo (.amoAnd a b c q z) False (old &&& x) ∧ amo (.amoOr a b c q z) False (old ||| x) ∧
    amo (.amoXor a b c q z) False (old ^^^ x) ∧ amo (.amoSwap a b c q z) True x ∧
    (old = cmp → amo (.amoCas a b c q z) True x) ∧
    (old ≠ cmp → (s.pkg.bringUp = true → ∃ h, g = .host h) →
      ∃ t : State, exec (.amoCas a b c q z) s = .next t ∧ OnlyAccess s t ∧ t.mem = (targetFill s g).mem ∧ t.clusters = s.clusters ∧
        strandOf t s.cur = past (putReg (strandOf s s.cur) a (BitVec.ofInt 64 (signed (8 * n) old)))) := by
  intro amo less
  have oldSmall : old < 2 ^ (8 * n) := hold ▸ targetRead_lt ..
  have xSmall : x < 2 ^ (8 * n) := hx ▸ Nat.mod_lt _ (Nat.two_pow_pos _)
  have writes : ∀ (i : Instr) (op : Nat) (host : Prop) (new : Nat), exec i s = amoOp a b c q z op s → (host → hostAmo op = true) →
      amoNew op n old x cmp = some new → new < 2 ^ (8 * n) → amo i host new := by
    intro i op host new run helped value small finite booted
    rw [hold, hx, hcmp] at value
    rw [hold]
    refine amo_writes run wf hn hp outside h good answered release value small finite fun boot => ?_
    obtain ⟨on, target⟩ := booted boot
    exact ⟨helped on, target⟩
  have never : ∀ op, False → hostAmo op = true := fun _ => False.elim
  refine ⟨writes _ 0 _ _ rfl (fun _ => rfl) rfl (Nat.mod_lt _ (Nat.two_pow_pos _)), fun lt => ?_, fun lt => ?_, fun same => ?_,
    writes _ 3 _ _ rfl (never _) rfl (Nat.lt_of_le_of_lt (Nat.min_le_left _ _) oldSmall),
    writes _ 4 _ _ rfl (never _) rfl (Nat.max_lt.2 ⟨oldSmall, xSmall⟩),
    writes _ 5 _ _ rfl (never _) rfl (Nat.and_lt_two_pow _ xSmall), writes _ 6 _ _ rfl (never _) rfl (Nat.or_lt_two_pow oldSmall xSmall),
    writes _ 7 _ _ rfl (never _) rfl (Nat.xor_lt_two_pow oldSmall xSmall), writes _ 8 _ _ rfl (fun _ => rfl) rfl xSmall,
    fun same => writes _ 9 _ _ rfl (fun _ => rfl) (if_pos same) xSmall, fun other booted => ?_⟩
  · exact ⟨writes _ 1 _ _ rfl (never _) (by simp [amoNew, show signed (8 * n) x < signed (8 * n) old from lt]) xSmall,
      writes _ 2 _ _ rfl (never _) (by simp [amoNew, Int.not_lt.2 (Int.le_of_lt lt)]) oldSmall⟩
  · exact ⟨writes _ 1 _ _ rfl (never _) (by simp [amoNew, Int.not_lt.2 (Int.le_of_lt lt)]) oldSmall,
      writes _ 2 _ _ rfl (never _) (by simp [amoNew, show signed (8 * n) old < signed (8 * n) x from lt]) xSmall⟩
  · exact ⟨writes _ 1 _ _ rfl (never _) (by simp [amoNew, same]) oldSmall, writes _ 2 _ _ rfl (never _) (by simp [amoNew, same]) oldSmall⟩
  · have supported : atomicUnsupported s (hostAmo 9) g = false := by
      cases boot : s.pkg.bringUp with
      | false => exact atomicUnsupported_booted boot _ _
      | true =>
        obtain ⟨y, rfl⟩ := booted boot
        rw [atomicUnsupported, boot]
        rfl
    have value : amoNew 9 n old x cmp = none := if_neg other
    rw [hold, hx, hcmp] at value
    rw [hold]
    exact amo_keeps rfl hn hp outside h good answered release value supported

/-! ## Links (R213, R217) -/

/-- R292: only an address of the Atrium translates to the Atrium. -/
theorem translate_line {s : State} {ag : Agent} {write : Bool} {p : Word} {g : Target} (outside : inAtrium p = false)
    (mapped : translate s ag write p = .ok g) : ∃ l, targetLine g = some l := by
  cases g with
  | phys k sl => exact ⟨_, rfl⟩
  | coded r o sl => exact ⟨_, rfl⟩
  | host a => exact ⟨_, rfl⟩
  | atrium o =>
    unfold translate at mapped
    rw [outside, if_neg Bool.false_ne_true] at mapped
    split at mapped
    · cases mapped
    split at mapped
    · cases mapped
    split at mapped
    · cases mapped
    · have h := Except.ok.inj mapped
      unfold pageTarget at h
      split at h
      · cases h
      · split at h <;> cases h

theorem mem_of_evictTag {s : State} {slice : Nat} {e : TagEntry} (h : e ∈ (evictTag s slice).mem.tags) : e ∈ s.mem.tags := by
  unfold evictTag at h
  dsimp only at h
  split at h
  · exact h
  · split at h
    · exact h
    · exact List.mem_of_mem_erase h

/-- R213: a link that is placed is the link of its lane. -/
theorem linkOf_placeTag {s : State} {id : Nat} {t : TagEntry} (link : t.watch = false) (own : t.strand = some id) :
    linkOf (placeTag s t) id t.lane = some t := by
  have gone : ∀ u : State, (∀ e ∈ u.mem.tags, e ∈ s.mem.tags.filter fun e => e.watch || e.strand != t.strand || e.lane != t.lane) →
      (u.mem.tags ++ [t]).find? (fun e => !e.watch && e.strand == some id && e.lane == t.lane) = some t := fun u h => by
    rw [List.find?_append, List.find?_eq_none.2, Option.none_or]
    · simp [link, own]
    · intro e he
      have other := (List.mem_filter.1 (h e he)).2
      rw [own] at other
      simp only [Bool.or_eq_true, bne_iff_ne, ne_eq] at other
      simp only [Bool.and_eq_true, Bool.not_eq_true', beq_iff_eq, not_and]
      rintro ⟨watch, strand⟩
      rw [watch] at other
      tauto
  unfold linkOf placeTag
  dsimp only
  rw [link, if_neg Bool.false_ne_true]
  split
  · exact gone _ fun e he => he
  · exact gone _ fun e he => mem_of_evictTag he

theorem linkOf_consumeLink (s : State) (id : Nat) (lane : Option Nat) : linkOf (consumeLink s id lane) id lane = none := by
  refine List.find?_eq_none.2 fun e he => ?_
  have kept := (List.mem_filter.1 he).2
  simp only [Bool.or_eq_true, bne_iff_ne, ne_eq] at kept
  simp only [Bool.and_eq_true, Bool.not_eq_true', beq_iff_eq, not_and]
  rintro ⟨watch, strand⟩
  rw [watch] at kept
  tauto

section
variable {s : State} {a b c : BitVec 5} {y r z : BitVec 1} {g : Target} {n v : Nat} {p : Word} {e : TagEntry}

/-- R213: LDL reads its word and leaves the strand one link, on the word's line. -/
theorem ldl_links (hn : n = amoSize z) (hp : p = reg s s.cur b) (outside : inAtrium p = false) (booted : s.pkg.bringUp = false)
    (h : Reaches s false p n g) (good : targetBad s (clusterIdx s.cur) g n = false) (answered : HostAnswered s g) :
    ∃ (t : State) (l : LineKey), exec (.ldl a b y z) s = .next t ∧ OnlyAccess s t ∧ targetLine g = some l ∧
      (∃ e, linkOf t s.cur none = some e ∧ e.line = l) ∧ t.mem.dram = s.mem.dram ∧ t.mem.l2 = s.mem.l2 ∧
      t.mem.host = s.mem.host ∧ t.clusters = s.clusters ∧ strandOf t s.cur = { past (putReg (strandOf s s.cur) a
        (BitVec.ofInt 64 (signed (8 * n) (targetRead s (clusterIdx s.cur) g n)))) with linkDeferOver := false, linkCount := 0 } := by
  obtain ⟨l, line⟩ := translate_line outside h.mapped
  obtain ⟨u, read, left⟩ := loadTarget_ok (cls := 2) good h.home answered
  have linked := linkOf_placeTag (s := u) (id := s.cur)
    (t := ⟨l, some s.cur, none, false, BitVec.ofNat 64 (targetRead s (clusterIdx s.cur) g n), false, false⟩) rfl rfl
  have only := left.toReadOnly.toOnlyAccess.placeTag
    ⟨l, some s.cur, none, false, BitVec.ofNat 64 (targetRead s (clusterIdx s.cur) g n), false, false⟩
  have tags := tagsOnly_placeTag u
    ⟨l, some s.cur, none, false, BitVec.ofNat 64 (targetRead s (clusterIdx s.cur) g n), false, false⟩
  obtain ⟨answer, strand⟩ := left.strand
  have mem := left.mem
  have clusters := left.clusters
  rw [ldl_mapped hn hp h.aligned outside h.mapped]
  unfold linkedRead
  rw [atomicUnsupported_booted booted, good, h.home, Bool.or_self, h.free]
  simp only [atomicFault, if_true, Bool.false_eq_true, if_false, read, line, scalarThen]
  generalize placeTag u _ = w at *
  have same : strandOf w s.cur = strandOf u s.cur := by rw [tags]; rfl
  have kept : w.mem = { u.mem with tags := w.mem.tags } := by rw [tags]
  refine ⟨_, l, rfl, (only.modStrand _).finishReg _ _, rfl, ⟨_, linked, rfl⟩, ?_, ?_, ?_, ?_, ?_⟩
  · show w.mem.dram = _
    rw [kept, mem]
  · show w.mem.l2 = _
    rw [kept, mem]
  · show w.mem.host = _
    rw [kept, mem]
  · show w.clusters = _
    rw [tags]
    exact clusters
  · rw [strandOf_finishReg, strandOf_modStrand, same, strand]
    unfold putReg amoWord wordOfInt
    split <;> rfl

theorem linkHolds_some (link : linkOf s s.cur none = some e) (line : targetLine g = some e.line) :
    linkHolds s s.cur none g = some e := by
  rw [linkHolds, link, Option.filter_some, line, if_pos (beq_self_eq_true _)]

theorem linkHolds_none (broken : ∀ e, linkOf s s.cur none = some e → targetLine g ≠ some e.line) :
    linkHolds s s.cur none g = none := by
  unfold linkHolds
  cases link : linkOf s s.cur none with
  | none => rfl
  | some e => rw [Option.filter_some, if_neg (by simpa using broken e link)]

/-- R217: STC stores while its link is unbroken. -/
theorem stc_stores (hn : n = amoSize z) (hp : p = reg s s.cur b) (outside : inAtrium p = false) (booted : s.pkg.bringUp = false)
    (wf : MemoriesWf s) (h : Reaches s true p n g) (hv : v = (reg s s.cur c).toNat % 2 ^ (8 * n))
    (release : r = 1 → unperformed s s.cur = false) (link : linkOf s s.cur none = some e) (line : targetLine g = some e.line)
    (near : ∀ h, g ≠ .host h) (finite : nonfiniteWrite s g n v = false) : ∃ t : State, exec (.stc a b c r z) s = .next t ∧
      OnlyAccess s t ∧ Stored s t g n v ∧ linkOf t s.cur none = none ∧ strandOf t s.cur = past (putReg (strandOf s s.cur) a 1) := by
  have plain : Plain s g := fun boot => absurd (booted.symm.trans boot) Bool.false_ne_true
  have small : v < 2 ^ (8 * n) := hv ▸ Nat.mod_lt _ (Nat.two_pow_pos _)
  have inLine := translate_inLine (hn ▸ amoSize_scalar z) h.aligned h.mapped
  have stored := stored_targetWrite (tag := (strandOf s s.cur).tag) wf plain inLine small
  have only := (((onlyAccess_refl s).targetWrite (clusterIdx s.cur) (strandOf s s.cur).tag g n v).noteRemote s.cur 0 2 g v).consumeLink
    s.cur none
  have same := strandOf_congr (targetWrite_sides s (clusterIdx s.cur) (strandOf s s.cur).tag g n v).1 s.cur
  have run := stc_mapped (a := a) (c := c) hn hp h.aligned outside h.mapped release
  have written : linkedWrite s s.cur 0 none g n v = .ok true (consumeLink
      (noteRemote (targetWrite s (clusterIdx s.cur) (strandOf s s.cur).tag g n v) s.cur 0 2 g v) s.cur none) := by
    unfold linkedWrite
    rw [finite, atomicUnsupported_booted booted, linkHolds_some link line, h.free, h.home]
    cases g with
    | host x => exact absurd rfl (near x)
    | atrium o => rfl
    | phys k sl => rfl
    | coded k o sl => rfl
  rw [← hv, written, scalarThen] at run
  refine ⟨_, run, only.finishReg _ _, ?_, linkOf_consumeLink .., ?_⟩
  · rw [noteRemote_eq]
    exact stored.congr rfl rfl rfl
  · rw [strandOf_finishReg, noteRemote_eq]
    exact congrArg (fun t => past (putReg t a 1)) same

/-- R217: STC on a HOST page is a compare-and-swap with the value that its link records. -/
theorem stc_host {x : Nat} (hn : n = amoSize z) (hp : p = reg s s.cur b) (outside : inAtrium p = false)
    (booted : s.pkg.bringUp = false) (wf : MemoriesWf s) (hv : v = (reg s s.cur c).toNat % 2 ^ (8 * n)) (h : Reaches s true p n g)
    (answered : HostAnswered s g) (release : r = 1 → unperformed s s.cur = false) (host : g = .host x)
    (good : targetBad s (clusterIdx s.cur) g n = false) (link : linkOf s s.cur none = some e) (line : targetLine g = some e.line) :
    ∃ t : State, exec (.stc a b c r z) s = .next t ∧ linkOf t s.cur none = none ∧
      (targetRead s (clusterIdx s.cur) g n = e.value.toNat % 2 ^ (8 * n) → Stored s t g n v ∧
        strandOf t s.cur = past (putReg (strandOf s s.cur) a 1)) ∧
      (targetRead s (clusterIdx s.cur) g n ≠ e.value.toNat % 2 ^ (8 * n) → t.mem.host = s.mem.host ∧
        strandOf t s.cur = past (putReg (strandOf s s.cur) a 0)) := by
  have plain : Plain s g := fun boot => absurd (booted.symm.trans boot) Bool.false_ne_true
  have small : v < 2 ^ (8 * n) := hv ▸ Nat.mod_lt _ (Nat.two_pow_pos _)
  have inLine := translate_inLine (hn ▸ amoSize_scalar z) h.aligned h.mapped
  obtain ⟨u, read, left⟩ := loadTarget_ok (cls := 2) good h.home answered
  obtain ⟨answer, strand⟩ := left.strand
  have stored := left.stored (tag := (strandOf s s.cur).tag) wf plain inLine small
  have same := strandOf_congr (targetWrite_sides u (clusterIdx s.cur) (strandOf s s.cur).tag g n v).1 s.cur
  have run := stc_mapped (a := a) (c := c) hn hp h.aligned outside h.mapped release
  have written : linkedWrite s s.cur 0 none g n v = if targetRead s (clusterIdx s.cur) g n = e.value.toNat % 2 ^ (8 * n) then
      .ok true (consumeLink (targetWrite u (clusterIdx s.cur) (strandOf s s.cur).tag g n v) s.cur none)
      else .ok false (consumeLink u s.cur none) := by
    unfold linkedWrite
    rw [atomicUnsupported_booted booted, linkHolds_some link line, h.free]
    subst host
    simp only [nonfiniteWrite, Bool.false_eq_true, if_false, read]
    rfl
  rw [← hv, written] at run
  by_cases swap : targetRead s (clusterIdx s.cur) g n = e.value.toNat % 2 ^ (8 * n)
  · rw [if_pos swap, scalarThen] at run
    refine ⟨_, run, linkOf_consumeLink .., fun _ => ⟨stored.congr rfl rfl rfl, ?_⟩, fun other => absurd swap other⟩
    rw [strandOf_finishReg]
    refine (congrArg (fun t => past (putReg t a 1)) (same.trans strand)).trans ?_
    rw [putReg_hostAnswer_comm]
    rfl
  · rw [if_neg swap, scalarThen] at run
    refine ⟨_, run, linkOf_consumeLink .., fun equal => absurd equal swap, fun _ => ⟨?_, ?_⟩⟩
    · show u.mem.host = _
      rw [left.mem]
    · rw [strandOf_finishReg]
      refine (congrArg (fun t => past (putReg t a 0)) strand).trans ?_
      rw [putReg_hostAnswer_comm]
      rfl

/-- R217: STC without an unbroken link on its line stores nothing. -/
theorem stc_fails (hn : n = amoSize z) (hp : p = reg s s.cur b) (outside : inAtrium p = false) (booted : s.pkg.bringUp = false)
    (aligned : p.toNat % n = 0) (mapped : translate s (agentOf s s.cur) true p = .ok g)
    (release : r = 1 → unperformed s s.cur = false)
    (finite : nonfiniteWrite s g n ((reg s s.cur c).toNat % 2 ^ (8 * n)) = false)
    (broken : ∀ e, linkOf s s.cur none = some e → targetLine g ≠ some e.line) : ∃ t : State, exec (.stc a b c r z) s = .next t ∧
      OnlyAccess s t ∧ linkOf t s.cur none = none ∧ strandOf t s.cur = past (putReg (strandOf s s.cur) a 0) ∧
      t.mem = { s.mem with tags := t.mem.tags } ∧ t.clusters = s.clusters := by
  have run := stc_mapped (a := a) (c := c) hn hp aligned outside mapped release
  rw [linkedWrite, finite, atomicUnsupported_booted booted, linkHolds_none broken] at run
  refine ⟨_, run, ((onlyAccess_refl s).consumeLink s.cur none).finishReg _ _, linkOf_consumeLink .., strandOf_finishReg .., rfl, rfl⟩

end

/-! ## SBAR (R210) -/

theorem bitsOf_one (n b : Nat) : (bitsOf n b 1 == 1) = n.testBit b := by
  rw [Bool.eq_iff_iff, beq_iff_eq]
  exact (bitsOf_one_eq_iff n b 1).trans (by simp)

/-- A bit of a set of streams. -/
theorem stream_bit (w : BitVec 5) (k : Nat) : (bitsOf w.toNat k 1 == 1) = w.getLsbD k := bitsOf_one w.toNat k

/-- R205, R210: an entry that an SBAR with the set `w` waits for. -/
theorem entryIn_of {w : BitVec 5} {reads : Bool} {e : Held} {k : Nat} (stream : entryStream e.word = some k) (set : w.getLsbD k = true)
    (kind : reads = true → e.word.extractLsb' 26 6 ≠ 0x2C ∧ ¬ (e.word.extractLsb' 26 6 = 0x30 ∧ e.word.extractLsb' 0 8 = 5)) :
    entryIn w reads e = true := by
  have major : (e.word.extractLsb' 26 6).toNat = e.word.toNat / 2 ^ 26 := by
    rw [BitVec.extractLsb'_toNat, Nat.shiftRight_eq_div_pow, Nat.mod_eq_of_lt (by omega)]
  have minor : (e.word.extractLsb' 0 8).toNat = e.word.toNat % 256 := by
    rw [BitVec.extractLsb'_toNat, Nat.shiftRight_zero]
  unfold entryIn
  dsimp only
  rw [stream]
  dsimp only
  rw [stream_bit, set, Bool.true_and]
  cases reads with
  | false => rfl
  | true =>
    obtain ⟨store, drain⟩ := kind rfl
    have m1 : (e.word.toNat / 2 ^ 26 == 0x2C) = false := by
      rw [← major, beq_eq_false_iff_ne]
      exact fun same => store (BitVec.eq_of_toNat_eq same)
    have m2 : (e.word.toNat / 2 ^ 26 == 0x30 && e.word.toNat % 256 == 5) = false := by
      rw [← major, ← minor, Bool.and_eq_false_iff, beq_eq_false_iff_ne, beq_eq_false_iff_ne]
      by_contra both
      rw [not_or, not_not, not_not] at both
      exact drain ⟨BitVec.eq_of_toNat_eq both.1, BitVec.eq_of_toNat_eq both.2⟩
    rw [m1, m2]
    rfl

/-- The last of some entries that satisfy a condition lies past the start of the list. -/
theorem foldl_last_pos {α : Type} (f : α → Bool) (l : List (α × Nat)) (n : Nat) (h : 0 < n ∨ ∃ p ∈ l, f p.1 = true) :
    0 < l.foldl (fun n p => if f p.1 then p.2 + 1 else n) n := by
  induction l generalizing n with
  | nil => simpa using h
  | cons p l ih =>
    refine ih _ ?_
    dsimp only
    by_cases hp : f p.1 = true
    · rw [if_pos hp]
      exact .inl (Nat.succ_pos _)
    · rw [if_neg hp]
      rcases h with h | ⟨x, hx, fx⟩
      · exact .inl h
      · rcases List.mem_cons.1 hx with rfl | hx
        · exact absurd fx hp
        · exact .inr ⟨x, hx, fx⟩

/-- R210: an SBAR counts the entries that it waits for. -/
theorem entriesAhead_pos {t : Strand} {w : BitVec 5} {reads : Bool} {e : Held} (h : behind t = true) (he : e ∈ t.arc.viq)
    (counts : entryIn w reads e = true) : 0 < entriesAhead t w reads := by
  rw [entriesAhead, if_pos h]
  obtain ⟨i, hi, rfl⟩ := List.getElem_of_mem he
  exact foldl_last_pos (entryIn w reads) _ 0 (.inr ⟨(t.arc.viq[i], i), by simp [List.mem_zipIdx_iff_getElem?], counts⟩)

/-- R210: what an SBAR leaves of its strand's holds. -/
def keptHolds (s : State) (w h : BitVec 5) (reads : Bool) : List Hold :=
  ((strandOf s s.cur).holds ++ if w = 0 ∨ h = 0 then [] else [sbarHold s s.cur w h reads]).filter (holdActive s s.cur)

section
variable {s : State} {w h : BitVec 5} {reads : Bool}

theorem sbarOp_eq (s : State) (w h : BitVec 5) (reads : Bool) :
    sbarOp w h reads s = finish (modStrand s s.cur fun t => { t with holds := keptHolds s w h reads }) s.cur := rfl

theorem strandOf_sbarOp (s : State) (w h : BitVec 5) (reads : Bool) :
    strandOf (sbarOp w h reads s) s.cur = { past (strandOf s s.cur) with holds := keptHolds s w h reads } := by
  rw [sbarOp_eq, strandOf_finish, strandOf_modStrand]
  rfl

theorem onlyStrand_sbarOp (s : State) (w h : BitVec 5) (reads : Bool) : OnlyStrand s (sbarOp w h reads s) := by
  rw [sbarOp_eq, finish]
  exact onlyStrand_trans (onlyStrand_modStrand s _) (onlyStrand_modStrand (modStrand s s.cur _) _)

/-- A hold holds a strand back after the SBAR as before it. -/
theorem holdActive_sbarOp (x : Hold) : holdActive (sbarOp w h reads s) s.cur x = holdActive s s.cur x := by
  unfold holdActive
  rw [strandOf_sbarOp]
  rfl

theorem streamFenced_sbarOp (n : Nat) : streamFenced (sbarOp w h reads s) s.cur n = (keptHolds s w h reads).any fun x =>
    bitsOf x.streams.toNat n 1 == 1 && !holdYounger (strandOf s s.cur) x && holdActive s s.cur x := by
  unfold streamFenced
  simp only [holdActive_sbarOp]
  rw [strandOf_sbarOp]
  rfl

/-- R210: an SBAR that waits for something holds the streams of H. -/
theorem sbarOp_fences {n : Nat} (stream : h.getLsbD n = true) (some : w ≠ 0) (active : holdActive s s.cur (sbarHold s s.cur w h reads) = true)
    (younger : holdYounger (strandOf s s.cur) (sbarHold s s.cur w h reads) = false) :
    streamFenced (sbarOp w h reads s) s.cur n = true := by
  have streams : h ≠ 0 := fun none => by simp [none] at stream
  rw [streamFenced_sbarOp, List.any_eq_true]
  refine ⟨sbarHold s s.cur w h reads, List.mem_filter.2 ⟨?_, active⟩, ?_⟩
  · rw [if_neg (not_or.2 ⟨some, streams⟩)]
    exact List.mem_append_right _ (List.mem_singleton.2 rfl)
  · rw [active, younger]
    exact (Bool.and_true _).trans ((Bool.and_true _).trans ((stream_bit h n).trans stream))

/-- A set with a stream in it is not empty. -/
theorem ne_zero_of_bit {k : Nat} (set : w.getLsbD k = true) : w ≠ 0 := fun none => by simp [none] at set

/-- R210: an SBAR does not hold back the entries that it waits for. -/
theorem sbarHold_older : holdYounger (strandOf s s.cur) (sbarHold s s.cur w h reads) = false := by
  unfold holdYounger
  cases waits : behind (strandOf s s.cur) with
  | true => simp
  | false => simp [sbarHold, entriesAhead, waits]

/-- R210: copies that have not ended hold the streams of H. -/
theorem sbarOp_copies {n : Nat} (stream : h.getLsbD n = true) (copies : w.getLsbD 3 = true)
    (live : ∃ c ∈ liveCmds s (clusterIdx s.cur) (strandOf s s.cur).issuer, c.accepted < (clusterOf s (clusterIdx s.cur)).accepted) :
    streamFenced (sbarOp w h reads s) s.cur n = true := by
  obtain ⟨c, hc, lt⟩ := live
  have before : (sbarHold s s.cur w h reads).before = (clusterOf s (clusterIdx s.cur)).accepted :=
    if_pos (beq_iff_eq.1 ((stream_bit w 3).trans copies))
  refine sbarOp_fences stream (ne_zero_of_bit copies) ?_ sbarHold_older
  unfold holdActive
  simp only [Bool.or_eq_true, List.any_eq_true, before]
  exact .inl (.inr ⟨c, hc, decide_eq_true lt⟩)

/-- R210: entries of the VIQ that have not completed hold the streams of H. -/
theorem sbarOp_entries {n : Nat} {e : Held} {k : Nat} (stream : h.getLsbD n = true) (waits : behind (strandOf s s.cur) = true)
    (he : e ∈ (arcOf s).viq) (of : entryStream e.word = some k) (set : w.getLsbD k = true)
    (kind : reads = true → e.word.extractLsb' 26 6 ≠ 0x2C ∧ ¬ (e.word.extractLsb' 26 6 = 0x30 ∧ e.word.extractLsb' 0 8 = 5)) :
    streamFenced (sbarOp w h reads s) s.cur n = true := by
  have ahead : 0 < (sbarHold s s.cur w h reads).ahead := entriesAhead_pos waits he (entryIn_of of set kind)
  refine sbarOp_fences stream (ne_zero_of_bit set) ?_ sbarHold_older
  unfold holdActive
  rw [waits, decide_eq_true ahead]
  rfl

/-- R210: streams outside H are not held. -/
theorem sbarOp_free {n : Nat} (out : h.getLsbD n = false) (free : streamFenced s s.cur n = false) :
    streamFenced (sbarOp w h reads s) s.cur n = false := by
  rw [streamFenced_sbarOp, List.any_eq_false]
  intro x hx
  obtain ⟨listed, -⟩ := List.mem_filter.1 hx
  rcases List.mem_append.1 listed with old | new
  · exact List.any_eq_false.1 free x old
  · split at new
    · cases new
    · rw [List.mem_singleton.1 new]
      simp [sbarHold, stream_bit, out]

end

/-- R210: what each SBAR changes of its strand, and the streams that it holds. -/
theorem sbars_hold (s : State) (w h : BitVec 5) (x : BitVec 3) (i : Instr)
    (kind : i = .sbarAcquire w h x ∨ i = .sbarRelease w h x ∨ i = .sbarFull w h x) :
    ∃ t : State, exec i s = .next t ∧ OnlyStrand s t ∧
      strandOf t s.cur = { past (strandOf s s.cur) with holds := (strandOf t s.cur).holds } ∧
      (∀ n < 5, h.getLsbD n = true → w.getLsbD 3 = true →
        (∃ c ∈ liveCmds s (clusterIdx s.cur) (strandOf s s.cur).issuer,
          c.accepted < (clusterOf s (clusterIdx s.cur)).accepted) → streamFenced t s.cur n = true) ∧
      (behind (strandOf s s.cur) = true → ∀ e ∈ (arcOf s).viq, ∀ k < 5, entryStream e.word = some k → w.getLsbD k = true →
        (i ≠ .sbarAcquire w h x ∨ (e.word.extractLsb' 26 6 ≠ 0x2C ∧ ¬ (e.word.extractLsb' 26 6 = 0x30 ∧ e.word.extractLsb' 0 8 = 5))) →
        ∀ n < 5, h.getLsbD n = true → streamFenced t s.cur n = true) ∧
      (∀ n < 5, h.getLsbD n = false → streamFenced s s.cur n = false → streamFenced t s.cur n = false) := by
  obtain ⟨reads, run, acquire⟩ : ∃ reads, exec i s = .next (sbarOp w h reads s) ∧ (reads = true → i = .sbarAcquire w h x) := by
    rcases kind with rfl | rfl | rfl
    · exact ⟨true, rfl, fun _ => rfl⟩
    · exact ⟨false, rfl, nofun⟩
    · exact ⟨false, rfl, nofun⟩
  refine ⟨_, run, onlyStrand_sbarOp s w h reads, ?_,
    fun n _ stream copies live => sbarOp_copies stream copies live, fun waits e he k _ of set counts n _ stream =>
      sbarOp_entries stream waits he of set fun on => counts.resolve_left (not_not_intro (acquire on)),
    fun n _ out free => sbarOp_free out free⟩
  rw [strandOf_sbarOp]

/-- Settles O11: AMOs by their operation, traps by the checks of the word, links by the tag of the lane, SBARs by the hold they add. -/
theorem atomicsAndOrdering : Obligations.AtomicsAndOrdering := by
  refine ⟨amos_write, fun s a b c q y r z n p hn hp => ?_, fun s a b c z r g n p hn hp outside booted => ?_, sbars_hold⟩
  · obtain ⟨checks, unsupported, bad⟩ := atomics_trap s a b c q y r z n p hn hp
    exact ⟨fun i hi => (checks i hi).misaligned, fun i hi => (checks i hi).atrium, fun i hi f => (checks i hi).refused, unsupported, bad⟩
  · exact ⟨fun h good answered q => ldl_links hn hp outside booted h good answered,
      fun e v wf h hv release link line near finite => stc_stores hn hp outside booted wf h hv release link line near finite,
      fun v wf hv h answered release x e host good link line =>
        stc_host hn hp outside booted wf hv h answered release host good link line,
      fun aligned mapped release finite broken => stc_fails hn hp outside booted aligned mapped release finite broken⟩

end Sys2Proof.Machine
